-- ==== Sys2Proof/Word.lean ====
section
/-! DEFINITION. Word: the words of the device and the index types of its units.
Indices of units are always physical (R24, Table 01.7); the ranges are those of Table 01.1 and Table 01.7. -/
namespace Sys2Proof

/-- A register word of BAR0 (R489). -/
abbrev Word := BitVec 64
/-- One byte of an image, a store or a frame. -/
abbrev Byte := BitVec 8
/-- A string of bytes, lowest address first. -/
abbrev Bytes := List Byte
/-- A master number (R397): a unit identifier, 0xC000 + slice, or 0xC0FF for the host driver. -/
abbrev Master := BitVec 16
/-- A Hearth tile T0 to T5. -/
abbrev Tile := Fin 6
/-- A physical Knead core K0 to K16. -/
abbrev KCore := Fin 17
/-- A Sieve of a tile, 2p + s (R14). -/
abbrev SieveIx := Fin 32
/-- A signal core D0 to D7. -/
abbrev SigIx := Fin 8
/-- A codec engine of a tile: 0 to 3 LDPC decoders, 4 and 5 encoders, 6 polar codec, 7 PRACH detector. -/
abbrev Engine := Fin 8
/-- A tray. -/
abbrev TrayIx := Fin 512
/-- A slice. -/
abbrev SliceIx := Fin 64
/-- A fronthaul port, numbered by its first lane. -/
abbrev EthPort := Fin 16
/-- A Braid port B0 to B7. -/
abbrev BraidPort := Fin 8
/-- A peel channel. -/
abbrev PeelIx := Fin 64
/-- A proof counter of a tile. -/
abbrev CtrIx := Fin 1024

/-- The host driver's master number (R397). -/
abbrev hostDriver : Master := 0xC0FF#16

/-- Ceiling division of naturals. -/
abbrev ceilDiv (a b : Nat) : Nat := (a + b - 1) / b

end Sys2Proof
end

