-- ==== Sys2Proof/Syntax.lean ====
section
/-! DEFINITION. Syntax: the commands of the block, one constructor per row of spec/opcode_table.json, in its order.
A command is an access to the device, a message that reaches it, an event at one of its pins, the issue of an
instruction by one of its sequencers, or an instant at which the spec says one of its units acts. -/
namespace Sys2Proof

/-- Where landing traffic comes from (R20). -/
inductive LandSrc where
  | braid | cxl | fronthaul | writeBack
  deriving DecidableEq, Repr

/-- The operand fields of one Knead instruction word (Table 06.2), OP apart. -/
structure KFields where
  d : BitVec 5
  a : BitVec 5
  b : BitVec 5
  c : BitVec 5
  m : BitVec 3
  rsv : BitVec 1
  imm : BitVec 32
  deriving DecidableEq, Repr

/-- The operand fields of one signal-core slot word (R275), OP apart: D, A and B of 6 bits and X of 8. -/
structure SFields where
  d : BitVec 6
  a : BitVec 6
  b : BitVec 6
  x : BitVec 8
  deriving DecidableEq, Repr

/-- The two vector MAC slots of a bundle (R275). -/
inductive VSlot where
  | v0 | v1
  deriving DecidableEq, Repr

/-- The four slots of a bundle (R275). -/
inductive SlotSel where
  | v0 | v1 | ls | sb
  deriving DecidableEq, Repr

/-- The two kinds of port that run a gate list (R342, R379). -/
inductive GatePort where
  | eth (p : EthPort)
  | braid (b : BraidPort)
  deriving DecidableEq, Repr

/-- What an administrative gate write addresses (R343): base seconds, base nanoseconds and cycle, count, or an entry of a bank. -/
inductive GateReg where
  | baseSec | time | n
  | entry (bank : Fin 2) (e : Fin 256)
  deriving DecidableEq, Repr

/-- A measurement for the servo: of a PTP port, with the parent's clockIdentity, class and UTC offset and the four time-stamps in ps as
the MAC and the messages give them (R320, R321), or the last PPS_IN edge. -/
inductive Meas where
  | ptp (port : EthPort) (parent : Word) (cls : BitVec 8) (utc : BitVec 16) (t1 t2 t3 t4 : Nat)
  | pps
  deriving DecidableEq, Repr

/-- The kinds of PTP message the device sends at a rate (R318). -/
inductive PtpKind where
  | announce | sync | delayReq
  deriving DecidableEq, Repr

/-- The sources of Table 13.2. -/
inductive TimeSource where
  | ptp (p : EthPort)
  | pps
  | syncE (lane : Fin 16)
  | tenMHz
  | reference
  deriving DecidableEq, Repr

/-- How a host access by CXL.cache ended: done, failed, or its translation faulted (R485, Table 21.2). -/
inductive FetchEnd where
  | ok | error | translation
  deriving DecidableEq, Repr

/-- The commands of the block. -/
inductive Instr where
  | powerOnReset
  | resetPin
  | tileResetRequest (m : Master) (tile : BitVec 3) (unit : BitVec 13)
  | coreResetRequest (m : Master) (tile : BitVec 3) (unit : BitVec 13)
  | fallbackTileReset (t : Tile)
  | stuckCoreReset (t : Tile) (unit : BitVec 13)
  | landingArrival (t : Tile) (src : LandSrc) (flag : Nat) (room : Bool)
  | eventRecordWrite
  | tickEdge
  | windowEdge (t : Tile) (unit : BitVec 13) (entry : Fin 16)
  | boundarySnapshot (t : Tile)
  | tickPlanCommit (m : Master) (t : Tile) (v : Word)
  | commitDeadline (t : Tile)
  | tickTrimWrite (m : Master) (t : Tile) (map : Fin 64) (len : BitVec 21)
  | stretchPauseStart (groups : BitVec 8)
  | stretchPauseEnd (groups : BitVec 8)
  | radioAtRisk (t : Tile)
  | loadFromSrc (m : Master) (persist : Bool) (bytes : Bytes) (how : FetchEnd)
  | loadFromFlash (m : Master)
  | recipeDiscardStaged (m : Master)
  | openLock (m : Master)
  | closeLock (m : Master)
  | recipeCheck
  | recipeActivation
  | recipePersistDone (ok : Bool)
  | recipeReload
  | reloadEnd
  | errorCaptureClear (m : Master) (off : Nat)
  | rcCounterRead (m : Master) (off : Nat)
  | registerWrite (m : Master) (off : Nat) (size : Nat) (v : Word)
  | kneadLoafStart (t : Tile) (k : KCore)
  | kneadLoafComplete (t : Tile) (k : KCore)
  | nop (t : Tile) (k : KCore) (f : KFields)
  | kend (t : Tile) (k : KCore) (f : KFields)
  | waitat (t : Tile) (k : KCore) (f : KFields)
  | loop (t : Tile) (k : KCore) (f : KFields)
  | sli (t : Tile) (k : KCore) (f : KFields)
  | saddi (t : Tile) (k : KCore) (f : KFields)
  | pass (t : Tile) (k : KCore) (f : KFields)
  | dma (t : Tile) (k : KCore) (f : KFields)
  | signal (t : Tile) (k : KCore) (f : KFields)
  | take (t : Tile) (k : KCore) (f : KFields)
  | watch (t : Tile) (k : KCore) (f : KFields)
  | shape (t : Tile) (k : KCore) (f : KFields)
  | vld (t : Tile) (k : KCore) (f : KFields)
  | vst (t : Tile) (k : KCore) (f : KFields)
  | vqst (t : Tile) (k : KCore) (f : KFields)
  | vadd (t : Tile) (k : KCore) (f : KFields)
  | vsub (t : Tile) (k : KCore) (f : KFields)
  | vmul (t : Tile) (k : KCore) (f : KFields)
  | vfma (t : Tile) (k : KCore) (f : KFields)
  | vmax (t : Tile) (k : KCore) (f : KFields)
  | vmin (t : Tile) (k : KCore) (f : KFields)
  | vcmplt (t : Tile) (k : KCore) (f : KFields)
  | vsel (t : Tile) (k : KCore) (f : KFields)
  | vimm (t : Tile) (k : KCore) (f : KFields)
  | viadd (t : Tile) (k : KCore) (f : KFields)
  | vcvt (t : Tile) (k : KCore) (f : KFields)
  | vrope (t : Tile) (k : KCore) (f : KFields)
  | vexp2 (t : Tile) (k : KCore) (f : KFields)
  | vrecip (t : Tile) (k : KCore) (f : KFields)
  | vrsqrt (t : Tile) (k : KCore) (f : KFields)
  | vrsum (t : Tile) (k : KCore) (f : KFields)
  | vrmax (t : Tile) (k : KCore) (f : KFields)
  | vrand (t : Tile) (k : KCore) (f : KFields)
  | passEntry (t : Tile) (k : KCore)
  | passEnd (t : Tile) (k : KCore)
  | dmaBegin (t : Tile) (k : KCore)
  | dmaComplete (t : Tile) (k : KCore)
  | kneadContextWrite (m : Master) (t : Tile) (k : KCore) (id : Bool) (v : Word)
  | replayRegisterWrite (m : Master) (t : Tile) (k : KCore) (reg : Fin 6) (v : Word)
  | sieveContextWrite (m : Master) (t : Tile) (ix : SieveIx) (v : Word)
  | sieveLoafStart (t : Tile) (i : SieveIx)
  | sieveJobBegin (t : Tile) (i : SieveIx)
  | sieveJobComplete (t : Tile) (i : SieveIx)
  | tierCmdPush (m : Master) (t : Tile) (w : Fin 4) (v : Word)
  | tierDefine (t : Tile) (ext : Bool)
  | tierRetire (t : Tile) (ext : Bool)
  | tierPromote (t : Tile) (ext : Bool)
  | tierEvict (t : Tile) (ext : Bool)
  | tierClean (t : Tile) (ext : Bool)
  | tierDiscard (t : Tile) (ext : Bool)
  | tierCmdComplete (t : Tile) (ext : Bool) (lower : Bytes)
  | tierDeadline (t : Tile) (ext : Bool)
  | lowerTierFailure (t : Tile) (ext : Bool) (page : Nat)
  | tierFlagClear (m : Master) (t : Tile) (w : Fin 16) (v : Word)
  | hdmRead (addr : Word)
  | hdmWrite (addr : Word) (data : Bytes) (poison : Bool)
  | h2dSnoop (addr : Word)
  | hostWriteDone (id : Nat)
  | hostWriteRetry (id : Nat) (how : FetchEnd)
  | trayDoorbell (m : Master) (n : TrayIx) (seq : Word)
  | trayFetchDone (n : TrayIx) (entries : List Bytes) (how : FetchEnd)
  | trayAbort (m : Master) (n : TrayIx) (seq : Word)
  | serviceTransferStart (t : Tile) (k : KCore)
  | contextSaved (t : Tile) (ctx : BitVec 16)
  | contextRestored (t : Tile) (ctx : BitVec 16)
  | benchZeroed (t : Tile) (k : KCore)
  | imageCopyDone (t : Tile) (k : KCore)
  | serviceFaulted (t : Tile) (ctx : BitVec 16)
  | radioReqDoorbell (m : Master) (t : Tile) (v : Word)
  | radioReqFetchDone (t : Tile) (recs : List Bytes) (how : FetchEnd)
  | ulCplaneEgress (t : Tile) (cell : Nat)
  | dlEgress (t : Tile) (cell : Nat)
  | ulIndicationDelivery (t : Tile) (cell : Nat)
  | sigLoafStart (t : Tile) (d : SigIx) (rec : Bytes)
  | sigLoafComplete (t : Tile) (d : SigIx)
  | sigResultLand (t : Tile) (d : SigIx)
  | sigNop (t : Tile) (d : SigIx) (slot : SlotSel) (f : SFields)
  | cmul (t : Tile) (d : SigIx) (slot : VSlot) (f : SFields)
  | cmac (t : Tile) (d : SigIx) (slot : VSlot) (f : SFields)
  | cmulj (t : Tile) (d : SigIx) (slot : VSlot) (f : SFields)
  | cmacj (t : Tile) (d : SigIx) (slot : VSlot) (f : SFields)
  | sigVadd (t : Tile) (d : SigIx) (slot : VSlot) (f : SFields)
  | sigVsub (t : Tile) (d : SigIx) (slot : VSlot) (f : SFields)
  | vnarrow (t : Tile) (d : SigIx) (slot : VSlot) (f : SFields)
  | vwiden (t : Tile) (d : SigIx) (slot : VSlot) (f : SFields)
  | vshlv (t : Tile) (d : SigIx) (slot : VSlot) (f : SFields)
  | vunpk (t : Tile) (d : SigIx) (slot : VSlot) (f : SFields)
  | vperm (t : Tile) (d : SigIx) (slot : VSlot) (f : SFields)
  | sigVld (t : Tile) (d : SigIx) (f : SFields)
  | sigVst (t : Tile) (d : SigIx) (f : SFields)
  | sld (t : Tile) (d : SigIx) (f : SFields)
  | sst (t : Tile) (d : SigIx) (f : SFields)
  | xfer (t : Tile) (d : SigIx) (f : SFields)
  | intpt (t : Tile) (d : SigIx) (f : SFields)
  | sadd (t : Tile) (d : SigIx) (f : SFields)
  | ssub (t : Tile) (d : SigIx) (f : SFields)
  | sand (t : Tile) (d : SigIx) (f : SFields)
  | sor (t : Tile) (d : SigIx) (f : SFields)
  | sxor (t : Tile) (d : SigIx) (f : SFields)
  | sshl (t : Tile) (d : SigIx) (f : SFields)
  | sshr (t : Tile) (d : SigIx) (f : SFields)
  | sigSaddi (t : Tile) (d : SigIx) (f : SFields)
  | sigSli (t : Tile) (d : SigIx) (f : SFields)
  | br (t : Tile) (d : SigIx) (f : SFields)
  | sigLoop (t : Tile) (d : SigIx) (f : SFields)
  | sigSignal (t : Tile) (d : SigIx) (f : SFields)
  | sigTake (t : Tile) (d : SigIx) (f : SFields)
  | sigWatch (t : Tile) (d : SigIx) (f : SFields)
  | sigWaitat (t : Tile) (d : SigIx) (f : SFields)
  | settmr (t : Tile) (d : SigIx) (f : SFields)
  | armw (t : Tile) (d : SigIx) (f : SFields)
  | irqen (t : Tile) (d : SigIx) (f : SFields)
  | reti (t : Tile) (d : SigIx) (f : SFields)
  | sigEnd (t : Tile) (d : SigIx) (f : SFields)
  | sigTimerFire (t : Tile) (d : SigIx)
  | sigCounterFire (t : Tile) (d : SigIx)
  | sigXferBegin (t : Tile) (d : SigIx)
  | sigXferComplete (t : Tile) (d : SigIx)
  | codecLoafStart (t : Tile) (e : Engine) (rec : Bytes)
  | ldpcDecode (t : Tile) (e : Engine)
  | ldpcEncode (t : Tile) (e : Engine)
  | polarEncode (t : Tile) (e : Engine)
  | polarDecode (t : Tile) (e : Engine)
  | prachDetect (t : Tile) (e : Engine)
  | codecDescComplete (t : Tile) (e : Engine)
  | codecInternalFault (t : Tile) (e : Engine)
  | timeNowSecRead (m : Master)
  | ppsInEdge (sub : Fin 16)
  | servoUpdate (x : Meas)
  | freqSourceEvaluation (tenMHz : Bool)
  | sourceLoss (x : TimeSource)
  | holdoverExpiry
  | ptpMessageSend (p : EthPort) (k : PtpKind)
  | timeStepCmd (m : Master) (v : Word)
  | pulseCtrlWrite (m : Master) (k : Fin 4) (v : Word)
  | pulseEdge (k : Fin 4)
  | captureEdge (k : Fin 4) (rising : Bool) (sub : Fin 16)
  | capturePop (m : Master) (k : Fin 4)
  | ethLinkDown (p : EthPort) (los : BitVec 8)
  | ethLinkUp (p : EthPort) (deskew : BitVec 16)
  | ethFrameReceive (p : EthPort) (frame : Bytes) (fcsOk : Bool) (room : Bool)
  | ethTxSelect (p : EthPort)
  | gateIntervalChange (g : GatePort)
  | gateChangeCmd (m : Master) (g : GatePort)
  | gateCancelCmd (m : Master) (g : GatePort)
  | gateAdminWrite (m : Master) (g : GatePort) (reg : GateReg) (v : Word)
  | gateTakeover (g : GatePort)
  | queueSample
  | histSnap (m : Master) (g : GatePort)
  | braidLinkUp (b : BraidPort) (farNode : BitVec 12) (farPort : BitVec 3)
  | braidLinkDown (b : BraidPort) (los : BitVec 4) (untrained : BitVec 4)
  | laneUnfence (m : Master) (b : BraidPort) (v : Word)
  | flitReceive (b : BraidPort) (flit : Bytes) (corrected : Nat) (bad : Bool)
  | packetForward (port : Fin 9)
  | braidReadIssue (issuer : BitVec 16)
  | braidWriteIssue (issuer : BitVec 16)
  | braidFence (issuer : BitVec 16)
  | braidIssueResume
  | braidReadArrive
  | braidWriteArrive
  | braidReadRespArrive
  | braidAckArrive
  | braidRefuseArrive
  | braidRetryTimeout
  | deadTargetTimeout
  | braidTxSelect (b : BraidPort)
  | aliasWrite (m : Master) (node : Fin 4096) (v : BitVec 16)
  | putArm (m : Master) (v : Word)
  | putLaunch (id : Fin 1024)
  | counterEvaluate (t : Tile) (c : CtrIx)
  | waitRelease (t : Tile)
  | waitTimeout (t : Tile)
  | proofHostSignal (m : Master) (t : Tile) (v : Word)
  | proofStewardSignal (m : Master) (t : Tile) (v : Word)
  | landingSignalApply (t : Tile)
  | proofCtrWrite (m : Master) (t : Tile) (c : CtrIx) (v : Word)
  | peelLockRead (m : Master) (n : PeelIx)
  | peelDataAccess (m : Master) (n : PeelIx) (w : Fin 16) (wr : Option Word)
  | peelHandoff (m : Master) (n : PeelIx) (v : Word)
  | peelRelease (m : Master) (n : PeelIx) (v : Word)
  | echo (n : PeelIx)
  | readCounter (n : PeelIx)
  | reportContexts (n : PeelIx)
  | sliceResetDrain (m : Master) (sl : SliceIx) (drainTicks : BitVec 16)
  | sliceResetSquash (m : Master) (sl : SliceIx)
  | sliceFreeze (m : Master) (sl : SliceIx)
  | sliceRestore (m : Master) (sl : SliceIx)
  | sliceRelease (m : Master) (sl : SliceIx)
  | sliceResetComplete (sl : SliceIx)
  | sliceFreezeComplete (sl : SliceIx)
  | sliceRestoreInstall (sl : SliceIx)
  | unboundPasidAccess (pasid : BitVec 20) (off : Nat) (write : Bool)
  | deviceRingAddressWrite (m : Master) (v : Word)
  | lineRefetch (place : Nat) (reader : Fin 8) (sl : SliceIx)
  | pageRepairDone (t : Tile) (page : Bytes)
  | testRawWrite (m : Master)
  | testRawRead (m : Master)
  | scrubRead (t : Tile) (block : Fin 113)
  | fieldRecordWrite (ok : Bool)
  | heartbeatSend
  | heartbeatArrive
  | heartbeatDue
  | abortNoticeArrive
  | abortNoticeSend
  | epochStage (m : Master)
  | epochStageForce (m : Master)
  | epochDiscard (m : Master)
  | hostFence (m : Master)
  | epochRecordCheck (record : Bytes) (how : FetchEnd)
  | epochInstall
  | isolationFence
  | collectiveDeclare (m : Master) (sl : SliceIx) (collId : BitVec 32) (list : Bytes) (how : FetchEnd)
  | collectiveHostAbort (m : Master) (sl : SliceIx)
  | shadowSet (m : Master) (v : Word)
  | shadowQualify
  | cxlLinkTrained (width : Nat) (fast lopt flit256 : Bool) (proto : BitVec 3)
  | cxlLinkReset
  | cxlLinkDegraded (width : Nat) (fast lopt : Bool)
  | atsInvalidation (pasid : Option (BitVec 20)) (addr : Word) (len : Nat)
  | hdmCommit (base : Word) (size : Nat)
  | msixUnmask (v : Fin 2048)
  | doeDiscovery (index : BitVec 8)
  | cdatRead (entry : BitVec 16)
  | getVersion (req : Bytes)
  | getCapabilities (req : Bytes)
  | negotiateAlgorithms (req : Bytes)
  | getDigests (req : Bytes)
  | getCertificate (sl : BitVec 4) (off len : BitVec 16) (req : Bytes)
  | challenge (sl : BitVec 4) (req : Bytes)
  | getMeasurements (index : BitVec 8) (signed : Bool) (req : Bytes)
  | keyExchange (sid : BitVec 16) (key : Bytes) (req : Bytes)
  | finish (sid : BitVec 32) (ok : Bool)
  | endSession (sid : BitVec 32)
  | spdmHeartbeat (sid : BitVec 32)
  | keyUpdate (sid : BitVec 32) (all : Bool)
  | chunkSend (handle : BitVec 8) (seq : BitVec 16) (last : Bool) (chunk : Bytes)
  | chunkGet (handle : BitVec 8) (seq : BitVec 16)
  | ideKmQuery (sid : BitVec 32)
  | keyProg (sid : BitVec 32) (cm : Bool) (set : Fin 2) (sub : Fin 6) (key : Bytes)
  | kSetGo (sid : BitVec 32) (cm : Bool) (set : Fin 2)
  | kSetStop (sid : BitVec 32) (cm : Bool) (set : Fin 2)
  | ideIntegrityFailure (cm : Bool)
  | railsInRegulation (cellsOff : Nat)
  | firmwareVerify
  | repairImageCheck
  | dramTrainingComplete
  | fwStage (m : Master)
  | fwApplyAtReset (m : Master)
  | fwApplyLive (m : Master) (tiles : BitVec 6)
  | fwDiscard (m : Master)
  | stageRepairImage (m : Master)
  | fwFlashWriteDone (ok : Bool)
  | fwLiveTileStep (t : Tile)
  | fwApplyTileTimeout
  | clearFenceRecords (m : Master)
  | clearFieldRecords (m : Master)
  | vinLow (volt : BitVec 16)
  | shutdown (cause : Fin 4) (volt power : BitVec 16)
  | overvoltageRecovery
  | ballastUpdate (loads : List Nat)
  | emergencyBegin (power : BitVec 16)
  | tempSensorRead (t : Tile) (logic dram : BitVec 16) (stack : BitVec 2)
  | vinOpenDetect (quarter : Fin 4) (volt : BitVec 16)
  | sidebandFault (i : Fin 28)
  | referenceClockReturn
  | emergencyEnd (power : BitVec 16)
  | ldpcEarlyTermination (t : Tile) (e : Engine)
  | sliceImageFetchDone (sl : SliceIx) (image : Bytes) (how : FetchEnd)
  | fwImageFetchDone (image : Bytes) (how : FetchEnd)
  deriving DecidableEq, Repr

end Sys2Proof
end

