-- ==== Sys2Proof/Machine/RegMap.lean ====
section
/-! DEFINITION. RegMap: the registers of BAR0, one row each, written from the register tables of the spec:
name, BAR0 offset of the first instance (block base of Table 21.3 included), dimensions, the resets that reach it, and
its fields with place, width, access type (Table 00.6) and power-on value. `Reg.X` is the offset of register X, `F.X_Y`
the place of its field Y. A field whose value a recipe gives holds its power-on value here. -/
namespace Sys2Proof.Machine

/-- Access types (Table 00.6). -/
inductive Acc where
  | ro | rw | rwl | w1c | w1s | rc | wo
  deriving DecidableEq, Repr

/-- The five reset kinds (Table 00.7). -/
inductive ResetKind where
  | power | device | tile | slice | core
  deriving DecidableEq, Repr

/-- A bit field: its lowest bit and its width. -/
structure Fld where
  lo : Nat
  w : Nat
  deriving DecidableEq, Repr

/-- A field of a register: place, access type, power-on value. -/
structure FldRow where
  fld : Fld
  acc : Acc
  rst : Nat
  deriving DecidableEq, Repr

/-- A register: name, first offset, (count, stride) of each dimension, reach, fields. -/
structure RegRow where
  name : String
  base : Nat
  dims : List (Nat × Nat)
  reach : List ResetKind
  flds : List FldRow
  deriving DecidableEq, Repr

/-- SYS_IDENT (Table 00.2). -/
def Reg.SYS_IDENT : Nat := 0x100000
def F.SYS_IDENT_PART : Fld := ⟨48, 16⟩
def F.SYS_IDENT_FAMILY : Fld := ⟨40, 8⟩
def F.SYS_IDENT_STEP_MAJOR : Fld := ⟨36, 4⟩
def F.SYS_IDENT_STEP_MINOR : Fld := ⟨32, 4⟩
def F.SYS_IDENT_TILES_BUILT : Fld := ⟨24, 8⟩
def F.SYS_IDENT_KNEAD_BUILT : Fld := ⟨16, 8⟩
def F.SYS_IDENT_SIGNAL_BUILT : Fld := ⟨8, 8⟩

/-- SYS_RESET_REQ (Table 00.8). -/
def Reg.SYS_RESET_REQ : Nat := 0x100008
def F.SYS_RESET_REQ_KIND : Fld := ⟨0, 2⟩
def F.SYS_RESET_REQ_TILE : Fld := ⟨2, 3⟩
def F.SYS_RESET_REQ_UNIT : Fld := ⟨16, 13⟩

/-- SYS_RESET_STATUS (Table 00.8). -/
def Reg.SYS_RESET_STATUS : Nat := 0x100010
def F.SYS_RESET_STATUS_PENDING : Fld := ⟨0, 1⟩
def F.SYS_RESET_STATUS_RESULT : Fld := ⟨1, 2⟩

/-- TICK_CFG (Table 02.7). -/
def Reg.TICK_CFG : Nat := 0x200000
def F.TICK_CFG_PERIOD : Fld := ⟨0, 3⟩
def F.TICK_CFG_BOUNDARY_LEN : Fld := ⟨8, 14⟩
def F.TICK_CFG_STRETCH_GROUP : Fld := ⟨32, 18⟩

/-- TICK_NOW (Table 02.8). -/
def Reg.TICK_NOW : Nat := 0x200008
def F.TICK_NOW_TICK : Fld := ⟨0, 64⟩

/-- TICK_TILE_STATUS (Table 02.9). -/
def Reg.TICK_TILE_STATUS (t : Nat) : Nat := 0x200100 + 0x20 * t
def F.TICK_TILE_STATUS_LAG : Fld := ⟨0, 21⟩
def F.TICK_TILE_STATUS_PAUSED : Fld := ⟨21, 1⟩
def F.TICK_TILE_STATUS_SKIP_COUNT : Fld := ⟨32, 16⟩
def F.TICK_TILE_STATUS_SKIP_OVF : Fld := ⟨48, 1⟩
def F.TICK_TILE_STATUS_MAX_LAG : Fld := ⟨49, 12⟩

/-- TICK_TILE_LATE (Table 02.10). -/
def Reg.TICK_TILE_LATE (t : Nat) : Nat := 0x200108 + 0x20 * t
def F.TICK_TILE_LATE_LATE_COUNT : Fld := ⟨0, 16⟩
def F.TICK_TILE_LATE_LATE_OVF : Fld := ⟨16, 1⟩

/-- TICK_PLAN_COMMIT (Table 02.10). -/
def Reg.TICK_PLAN_COMMIT (t : Nat) : Nat := 0x200110 + 0x20 * t
def F.TICK_PLAN_COMMIT_COMMIT : Fld := ⟨0, 1⟩

/-- TICK_TRIM (Table 02.11). -/
def Reg.TICK_TRIM (t m : Nat) : Nat := 0x207000 + 0x200 * t + 0x8 * m
def F.TICK_TRIM_LEN_ACTIVE : Fld := ⟨0, 21⟩
def F.TICK_TRIM_LEN_NEXT : Fld := ⟨32, 21⟩

/-- RECIPE_CTRL (Table 03.7). -/
def Reg.RECIPE_CTRL : Nat := 0x120000
def F.RECIPE_CTRL_CMD : Fld := ⟨0, 3⟩
def F.RECIPE_CTRL_PERSIST : Fld := ⟨8, 1⟩

/-- RECIPE_SRC (Table 03.7). -/
def Reg.RECIPE_SRC : Nat := 0x120008
def F.RECIPE_SRC_ADDR : Fld := ⟨6, 58⟩

/-- RECIPE_SRC_LEN (Table 03.7). -/
def Reg.RECIPE_SRC_LEN : Nat := 0x120010
def F.RECIPE_SRC_LEN_LEN : Fld := ⟨0, 25⟩

/-- RECIPE_ACT_TICK (Table 03.7). -/
def Reg.RECIPE_ACT_TICK : Nat := 0x120018
def F.RECIPE_ACT_TICK_TICK : Fld := ⟨0, 64⟩

/-- RECIPE_STATUS (Table 03.7). -/
def Reg.RECIPE_STATUS : Nat := 0x120020
def F.RECIPE_STATUS_ACTIVE : Fld := ⟨0, 1⟩
def F.RECIPE_STATUS_LOCK_OPEN : Fld := ⟨1, 1⟩
def F.RECIPE_STATUS_CHECKING : Fld := ⟨2, 1⟩
def F.RECIPE_STATUS_STAGED : Fld := ⟨3, 3⟩
def F.RECIPE_STATUS_PERSIST_PENDING : Fld := ⟨6, 1⟩
def F.RECIPE_STATUS_SLOT : Fld := ⟨7, 1⟩
def F.RECIPE_STATUS_LAST_REASON : Fld := ⟨8, 8⟩

/-- RECIPE_ACTIVE_ID (Table 03.7). -/
def Reg.RECIPE_ACTIVE_ID : Nat := 0x120028
def F.RECIPE_ACTIVE_ID_ID : Fld := ⟨0, 64⟩

/-- RECIPE_EFF_DIGEST (Table 03.7). -/
def Reg.RECIPE_EFF_DIGEST (w : Nat) : Nat := 0x120030 + 0x8 * w
def F.RECIPE_EFF_DIGEST_DIGEST : Fld := ⟨0, 64⟩

/-- RECIPE_AMEND_COUNT (Table 03.7). -/
def Reg.RECIPE_AMEND_COUNT : Nat := 0x120050
def F.RECIPE_AMEND_COUNT_COUNT : Fld := ⟨0, 16⟩
def F.RECIPE_AMEND_COUNT_OVF : Fld := ⟨16, 1⟩

/-- RECIPE_LOCKED_WRITES (Table 03.7). -/
def Reg.RECIPE_LOCKED_WRITES : Nat := 0x120058
def F.RECIPE_LOCKED_WRITES_COUNT : Fld := ⟨0, 32⟩
def F.RECIPE_LOCKED_WRITES_OVF : Fld := ⟨32, 1⟩

/-- KNEAD_TILE_NONFINITE (Table 04.9). -/
def Reg.KNEAD_TILE_NONFINITE (t k : Nat) : Nat := 0x300400 + 0x20000 * t + 0x1000 * k
def F.KNEAD_TILE_NONFINITE_VALID : Fld := ⟨0, 1⟩
def F.KNEAD_TILE_NONFINITE_CAUSE : Fld := ⟨1, 2⟩
def F.KNEAD_TILE_NONFINITE_MORE : Fld := ⟨3, 1⟩
def F.KNEAD_TILE_NONFINITE_SOURCE : Fld := ⟨4, 3⟩
def F.KNEAD_TILE_NONFINITE_ROW : Fld := ⟨8, 8⟩
def F.KNEAD_TILE_NONFINITE_COL : Fld := ⟨16, 8⟩
def F.KNEAD_TILE_NONFINITE_TILE_ID : Fld := ⟨24, 16⟩
def F.KNEAD_TILE_NONFINITE_ROW_HI : Fld := ⟨40, 8⟩

/-- KNEAD_TILE_NONFINITE_LOAF (Table 04.9). -/
def Reg.KNEAD_TILE_NONFINITE_LOAF (t k : Nat) : Nat := 0x300408 + 0x20000 * t + 0x1000 * k
def F.KNEAD_TILE_NONFINITE_LOAF_LOAF : Fld := ⟨0, 32⟩
def F.KNEAD_TILE_NONFINITE_LOAF_SLICE : Fld := ⟨32, 6⟩

/-- KNEAD_SATURATE_COUNT (Table 04.9). -/
def Reg.KNEAD_SATURATE_COUNT (t k : Nat) : Nat := 0x300410 + 0x20000 * t + 0x1000 * k
def F.KNEAD_SATURATE_COUNT_COUNT : Fld := ⟨0, 32⟩
def F.KNEAD_SATURATE_COUNT_OVF : Fld := ⟨32, 1⟩

/-- KNEAD_VANISHED_ELEMENT_COUNT (Table 04.9). -/
def Reg.KNEAD_VANISHED_ELEMENT_COUNT (t k : Nat) : Nat := 0x300418 + 0x20000 * t + 0x1000 * k
def F.KNEAD_VANISHED_ELEMENT_COUNT_COUNT : Fld := ⟨0, 32⟩
def F.KNEAD_VANISHED_ELEMENT_COUNT_OVF : Fld := ⟨32, 1⟩

/-- KNEAD_SCALE_UNDERFLOW_COUNT (Table 04.9). -/
def Reg.KNEAD_SCALE_UNDERFLOW_COUNT (t k : Nat) : Nat := 0x300420 + 0x20000 * t + 0x1000 * k
def F.KNEAD_SCALE_UNDERFLOW_COUNT_COUNT : Fld := ⟨0, 32⟩
def F.KNEAD_SCALE_UNDERFLOW_COUNT_OVF : Fld := ⟨32, 1⟩

/-- KNEAD_ARRAY_STATE (Table 05.8). -/
def Reg.KNEAD_ARRAY_STATE (t k a : Nat) : Nat := 0x300500 + 0x20000 * t + 0x1000 * k + 0x8 * a
def F.KNEAD_ARRAY_STATE_STATE : Fld := ⟨0, 3⟩
def F.KNEAD_ARRAY_STATE_GANG : Fld := ⟨3, 1⟩
def F.KNEAD_ARRAY_STATE_DESC_ID : Fld := ⟨4, 16⟩
def F.KNEAD_ARRAY_STATE_KPOS : Fld := ⟨20, 16⟩
def F.KNEAD_ARRAY_STATE_TILE_ID : Fld := ⟨36, 16⟩
def F.KNEAD_ARRAY_STATE_SLICE : Fld := ⟨52, 6⟩

/-- KNEAD_PASS_COUNT (Table 05.8). -/
def Reg.KNEAD_PASS_COUNT (t k : Nat) : Nat := 0x300520 + 0x20000 * t + 0x1000 * k
def F.KNEAD_PASS_COUNT_COUNT : Fld := ⟨0, 48⟩
def F.KNEAD_PASS_COUNT_OVF : Fld := ⟨48, 1⟩

/-- KNEAD_DESC_ERROR (Table 05.8). -/
def Reg.KNEAD_DESC_ERROR (t k : Nat) : Nat := 0x300528 + 0x20000 * t + 0x1000 * k
def F.KNEAD_DESC_ERROR_VALID : Fld := ⟨0, 1⟩
def F.KNEAD_DESC_ERROR_MORE : Fld := ⟨1, 1⟩
def F.KNEAD_DESC_ERROR_REASON : Fld := ⟨2, 4⟩
def F.KNEAD_DESC_ERROR_DESC_ID : Fld := ⟨6, 16⟩
def F.KNEAD_DESC_ERROR_LOAF : Fld := ⟨22, 32⟩
def F.KNEAD_DESC_ERROR_SLICE : Fld := ⟨54, 6⟩

/-- KNEAD_CORE_CFG (Table 06.11). -/
def Reg.KNEAD_CORE_CFG (t k : Nat) : Nat := 0x300000 + 0x20000 * t + 0x1000 * k
def F.KNEAD_CORE_CFG_LOGICAL : Fld := ⟨0, 4⟩
def F.KNEAD_CORE_CFG_ENABLED : Fld := ⟨4, 1⟩
def F.KNEAD_CORE_CFG_RADIO : Fld := ⟨5, 1⟩
def F.KNEAD_CORE_CFG_PHYSICAL : Fld := ⟨8, 5⟩

/-- KNEAD_CORE_STATUS (Table 06.11). -/
def Reg.KNEAD_CORE_STATUS (t k : Nat) : Nat := 0x300008 + 0x20000 * t + 0x1000 * k
def F.KNEAD_CORE_STATUS_STATE : Fld := ⟨0, 3⟩
def F.KNEAD_CORE_STATUS_PC : Fld := ⟨3, 16⟩
def F.KNEAD_CORE_STATUS_LOCAL : Fld := ⟨19, 21⟩
def F.KNEAD_CORE_STATUS_PASS_Q : Fld := ⟨40, 3⟩
def F.KNEAD_CORE_STATUS_DMA_Q : Fld := ⟨43, 5⟩

/-- KNEAD_CONTEXT (Table 06.11). -/
def Reg.KNEAD_CONTEXT (t k : Nat) : Nat := 0x300010 + 0x20000 * t + 0x1000 * k
def F.KNEAD_CONTEXT_BENCH_LO : Fld := ⟨0, 18⟩
def F.KNEAD_CONTEXT_BENCH_HI : Fld := ⟨18, 18⟩
def F.KNEAD_CONTEXT_SLICE : Fld := ⟨36, 6⟩
def F.KNEAD_CONTEXT_CTR_LO : Fld := ⟨42, 10⟩
def F.KNEAD_CONTEXT_CTR_N : Fld := ⟨52, 6⟩

/-- KNEAD_LOAF (Table 06.11). -/
def Reg.KNEAD_LOAF (t k : Nat) : Nat := 0x300018 + 0x20000 * t + 0x1000 * k
def F.KNEAD_LOAF_LOAF : Fld := ⟨0, 32⟩

/-- KNEAD_SEQ_ERROR (Table 06.11). -/
def Reg.KNEAD_SEQ_ERROR (t k : Nat) : Nat := 0x300020 + 0x20000 * t + 0x1000 * k
def F.KNEAD_SEQ_ERROR_VALID : Fld := ⟨0, 1⟩
def F.KNEAD_SEQ_ERROR_MORE : Fld := ⟨1, 1⟩
def F.KNEAD_SEQ_ERROR_REASON : Fld := ⟨2, 3⟩
def F.KNEAD_SEQ_ERROR_PC : Fld := ⟨5, 16⟩
def F.KNEAD_SEQ_ERROR_LOAF : Fld := ⟨21, 32⟩
def F.KNEAD_SEQ_ERROR_SLICE : Fld := ⟨53, 6⟩

/-- KNEAD_DMA_ERROR (Table 06.11). -/
def Reg.KNEAD_DMA_ERROR (t k : Nat) : Nat := 0x300028 + 0x20000 * t + 0x1000 * k
def F.KNEAD_DMA_ERROR_VALID : Fld := ⟨0, 1⟩
def F.KNEAD_DMA_ERROR_MORE : Fld := ⟨1, 1⟩
def F.KNEAD_DMA_ERROR_REASON : Fld := ⟨2, 3⟩
def F.KNEAD_DMA_ERROR_INDEX : Fld := ⟨5, 12⟩
def F.KNEAD_DMA_ERROR_LOAF : Fld := ⟨17, 32⟩
def F.KNEAD_DMA_ERROR_SLICE : Fld := ⟨49, 6⟩

/-- KNEAD_LOAF_COUNT (Table 06.11). -/
def Reg.KNEAD_LOAF_COUNT (t k : Nat) : Nat := 0x300030 + 0x20000 * t + 0x1000 * k
def F.KNEAD_LOAF_COUNT_COUNT : Fld := ⟨0, 48⟩
def F.KNEAD_LOAF_COUNT_OVF : Fld := ⟨48, 1⟩

/-- KNEAD_CONTEXT_ID (Table 06.11). -/
def Reg.KNEAD_CONTEXT_ID (t k : Nat) : Nat := 0x300038 + 0x20000 * t + 0x1000 * k
def F.KNEAD_CONTEXT_ID_CTX_ID : Fld := ⟨0, 16⟩

/-- SIEVE_CONTEXT (Table 07.12). -/
def Reg.SIEVE_CONTEXT (t i : Nat) : Nat := 0x2c0000 + 0x2000 * t + 0x100 * i
def F.SIEVE_CONTEXT_BENCH_LO : Fld := ⟨0, 18⟩
def F.SIEVE_CONTEXT_BENCH_HI : Fld := ⟨18, 18⟩
def F.SIEVE_CONTEXT_SLICE : Fld := ⟨36, 6⟩
def F.SIEVE_CONTEXT_CTR_LO : Fld := ⟨42, 10⟩
def F.SIEVE_CONTEXT_CTR_N : Fld := ⟨52, 6⟩

/-- SIEVE_STATUS (Table 07.12). -/
def Reg.SIEVE_STATUS (t i : Nat) : Nat := 0x2c0008 + 0x2000 * t + 0x100 * i
def F.SIEVE_STATUS_STATE : Fld := ⟨0, 3⟩
def F.SIEVE_STATUS_JOB : Fld := ⟨3, 12⟩
def F.SIEVE_STATUS_LOCAL : Fld := ⟨15, 21⟩
def F.SIEVE_STATUS_PAGE : Fld := ⟨36, 16⟩

/-- SIEVE_LOAF (Table 07.12). -/
def Reg.SIEVE_LOAF (t i : Nat) : Nat := 0x2c0010 + 0x2000 * t + 0x100 * i
def F.SIEVE_LOAF_LOAF : Fld := ⟨0, 32⟩

/-- SIEVE_ERROR (Table 07.12). -/
def Reg.SIEVE_ERROR (t i : Nat) : Nat := 0x2c0018 + 0x2000 * t + 0x100 * i
def F.SIEVE_ERROR_VALID : Fld := ⟨0, 1⟩
def F.SIEVE_ERROR_MORE : Fld := ⟨1, 1⟩
def F.SIEVE_ERROR_REASON : Fld := ⟨2, 3⟩
def F.SIEVE_ERROR_JOB : Fld := ⟨5, 12⟩
def F.SIEVE_ERROR_PAGE : Fld := ⟨17, 16⟩
def F.SIEVE_ERROR_JOB_ID : Fld := ⟨33, 16⟩

/-- SIEVE_ERROR_LOAF (Table 07.12). -/
def Reg.SIEVE_ERROR_LOAF (t i : Nat) : Nat := 0x2c0020 + 0x2000 * t + 0x100 * i
def F.SIEVE_ERROR_LOAF_LOAF : Fld := ⟨0, 32⟩
def F.SIEVE_ERROR_LOAF_SLICE : Fld := ⟨32, 6⟩

/-- SIEVE_JOB_COUNT (Table 07.12). -/
def Reg.SIEVE_JOB_COUNT (t i : Nat) : Nat := 0x2c0028 + 0x2000 * t + 0x100 * i
def F.SIEVE_JOB_COUNT_COUNT : Fld := ⟨0, 48⟩
def F.SIEVE_JOB_COUNT_OVF : Fld := ⟨48, 1⟩

/-- SIEVE_LINES_READ (Table 07.12). -/
def Reg.SIEVE_LINES_READ (t i : Nat) : Nat := 0x2c0030 + 0x2000 * t + 0x100 * i
def F.SIEVE_LINES_READ_COUNT : Fld := ⟨0, 48⟩
def F.SIEVE_LINES_READ_OVF : Fld := ⟨48, 1⟩

/-- TIER_CMD_PUSH (Table 08.14). -/
def Reg.TIER_CMD_PUSH (t w : Nat) : Nat := 0x1c0000 + 0x1000 * t + 0x8 * w
def F.TIER_CMD_PUSH_WORD : Fld := ⟨0, 64⟩

/-- TIER_STATUS (Table 08.14). -/
def Reg.TIER_STATUS (t : Nat) : Nat := 0x1c0020 + 0x1000 * t
def F.TIER_STATUS_QUEUED : Fld := ⟨0, 10⟩
def F.TIER_STATUS_INT_BUSY : Fld := ⟨10, 1⟩
def F.TIER_STATUS_EXT_BUSY : Fld := ⟨11, 1⟩

/-- TIER_DONE_HEAD (Table 08.14). -/
def Reg.TIER_DONE_HEAD (t : Nat) : Nat := 0x1c0028 + 0x1000 * t
def F.TIER_DONE_HEAD_HEAD : Fld := ⟨0, 12⟩

/-- TIER_FLAGS (Table 08.14). -/
def Reg.TIER_FLAGS (t w : Nat) : Nat := 0x1c0100 + 0x1000 * t + 0x8 * w
def F.TIER_FLAGS_FLAG : Fld := ⟨0, 64⟩

/-- TIER_DEFER_COUNT (Table 08.14). -/
def Reg.TIER_DEFER_COUNT (t : Nat) : Nat := 0x1c0200 + 0x1000 * t
def F.TIER_DEFER_COUNT_COUNT : Fld := ⟨0, 32⟩
def F.TIER_DEFER_COUNT_OVF : Fld := ⟨32, 1⟩

/-- TIER_SPILL_COUNT (Table 08.14). -/
def Reg.TIER_SPILL_COUNT (t : Nat) : Nat := 0x1c0208 + 0x1000 * t
def F.TIER_SPILL_COUNT_COUNT : Fld := ⟨0, 32⟩
def F.TIER_SPILL_COUNT_OVF : Fld := ⟨32, 1⟩

/-- TIER_BYTES_MOVED (Table 08.14). -/
def Reg.TIER_BYTES_MOVED (t : Nat) : Nat := 0x1c0210 + 0x1000 * t
def F.TIER_BYTES_MOVED_COUNT : Fld := ⟨0, 56⟩
def F.TIER_BYTES_MOVED_OVF : Fld := ⟨56, 1⟩

/-- TIER_SLICE_USE (Table 08.14). -/
def Reg.TIER_SLICE_USE (t s : Nat) : Nat := 0x1c0400 + 0x1000 * t + 0x10 * s
def F.TIER_SLICE_USE_T0 : Fld := ⟨0, 16⟩
def F.TIER_SLICE_USE_T1 : Fld := ⟨16, 16⟩

/-- TIER_SLICE_USE_T2 (Table 08.14). -/
def Reg.TIER_SLICE_USE_T2 (t s : Nat) : Nat := 0x1c0408 + 0x1000 * t + 0x10 * s
def F.TIER_SLICE_USE_T2_T2 : Fld := ⟨0, 26⟩

/-- TRAY_CFG (Table 09.8). -/
def Reg.TRAY_CFG (n : Nat) : Nat := 0x1d0000 + 0x40 * n
def F.TRAY_CFG_ENABLED : Fld := ⟨0, 1⟩
def F.TRAY_CFG_RING_SPACE : Fld := ⟨1, 1⟩
def F.TRAY_CFG_LOG2_ENTRIES : Fld := ⟨2, 5⟩
def F.TRAY_CFG_SLICE : Fld := ⟨7, 6⟩
def F.TRAY_CFG_HOME_TILE : Fld := ⟨13, 3⟩
def F.TRAY_CFG_VECTOR : Fld := ⟨16, 11⟩

/-- TRAY_RING (Table 09.8). -/
def Reg.TRAY_RING (n : Nat) : Nat := 0x1d0008 + 0x40 * n
def F.TRAY_RING_ADDR : Fld := ⟨8, 56⟩

/-- TRAY_JOURNAL (Table 09.8). -/
def Reg.TRAY_JOURNAL (n : Nat) : Nat := 0x1d0010 + 0x40 * n
def F.TRAY_JOURNAL_ADDR : Fld := ⟨6, 58⟩

/-- TRAY_COMPLETION (Table 09.8). -/
def Reg.TRAY_COMPLETION (n : Nat) : Nat := 0x1d0018 + 0x40 * n
def F.TRAY_COMPLETION_ADDR : Fld := ⟨6, 58⟩

/-- TRAY_STATUS (Table 09.8). -/
def Reg.TRAY_STATUS (n : Nat) : Nat := 0x1d0020 + 0x40 * n
def F.TRAY_STATUS_HALTED : Fld := ⟨0, 1⟩
def F.TRAY_STATUS_ABORT_PENDING : Fld := ⟨1, 1⟩
def F.TRAY_STATUS_ABORT_RESULT : Fld := ⟨2, 2⟩

/-- TRAY_NEXT_SEQ (Table 09.8). -/
def Reg.TRAY_NEXT_SEQ (n : Nat) : Nat := 0x1d0028 + 0x40 * n
def F.TRAY_NEXT_SEQ_SEQ : Fld := ⟨0, 64⟩

/-- TRAY_DONE_SEQ (Table 09.8). -/
def Reg.TRAY_DONE_SEQ (n : Nat) : Nat := 0x1d0030 + 0x40 * n
def F.TRAY_DONE_SEQ_SEQ : Fld := ⟨0, 64⟩

/-- TRAY_ABORT (Table 09.8). -/
def Reg.TRAY_ABORT (n : Nat) : Nat := 0x1d0038 + 0x40 * n
def F.TRAY_ABORT_SEQ : Fld := ⟨0, 64⟩

/-- SCHED_CFG (Table 09.9). -/
def Reg.SCHED_CFG (t : Nat) : Nat := 0x180000 + 0x100 * t
def F.SCHED_CFG_ACCEPT_MAX : Fld := ⟨0, 8⟩
def F.SCHED_CFG_RERUN_MAX : Fld := ⟨8, 3⟩
def F.SCHED_CFG_PREFILL_MAX : Fld := ⟨11, 7⟩

/-- SCHED_CONTEXTS (Table 09.9). -/
def Reg.SCHED_CONTEXTS (t : Nat) : Nat := 0x180008 + 0x100 * t
def F.SCHED_CONTEXTS_RESIDENT : Fld := ⟨0, 9⟩
def F.SCHED_CONTEXTS_SAVED : Fld := ⟨9, 9⟩

/-- SCHED_PREEMPT_COUNT (Table 09.9). -/
def Reg.SCHED_PREEMPT_COUNT (t : Nat) : Nat := 0x180010 + 0x100 * t
def F.SCHED_PREEMPT_COUNT_COUNT : Fld := ⟨0, 32⟩
def F.SCHED_PREEMPT_COUNT_OVF : Fld := ⟨32, 1⟩

/-- SCHED_RERUN_COUNT (Table 09.9). -/
def Reg.SCHED_RERUN_COUNT (t : Nat) : Nat := 0x180018 + 0x100 * t
def F.SCHED_RERUN_COUNT_COUNT : Fld := ⟨0, 32⟩
def F.SCHED_RERUN_COUNT_OVF : Fld := ⟨32, 1⟩

/-- RADIO_REQ_RING (Table 10.13). -/
def Reg.RADIO_REQ_RING (t : Nat) : Nat := 0x190000 + 0x100 * t
def F.RADIO_REQ_RING_LOG2 : Fld := ⟨0, 4⟩
def F.RADIO_REQ_RING_ADDR : Fld := ⟨14, 50⟩

/-- RADIO_REQ_DOORBELL (Table 10.13). -/
def Reg.RADIO_REQ_DOORBELL (t : Nat) : Nat := 0x190008 + 0x100 * t
def F.RADIO_REQ_DOORBELL_REC : Fld := ⟨0, 32⟩

/-- RADIO_REQ_TAKEN (Table 10.13). -/
def Reg.RADIO_REQ_TAKEN (t : Nat) : Nat := 0x190010 + 0x100 * t
def F.RADIO_REQ_TAKEN_REC : Fld := ⟨0, 32⟩

/-- RADIO_IND_RING (Table 10.13). -/
def Reg.RADIO_IND_RING (t : Nat) : Nat := 0x190018 + 0x100 * t
def F.RADIO_IND_RING_LOG2 : Fld := ⟨0, 4⟩
def F.RADIO_IND_RING_ADDR : Fld := ⟨14, 50⟩

/-- RADIO_IND_TAIL (Table 10.13). -/
def Reg.RADIO_IND_TAIL (t : Nat) : Nat := 0x190020 + 0x100 * t
def F.RADIO_IND_TAIL_REC : Fld := ⟨0, 32⟩

/-- RADIO_IND_HEAD (Table 10.13). -/
def Reg.RADIO_IND_HEAD (t : Nat) : Nat := 0x190028 + 0x100 * t
def F.RADIO_IND_HEAD_REC : Fld := ⟨0, 32⟩

/-- RADIO_FH_LATE (Table 10.13). -/
def Reg.RADIO_FH_LATE (t : Nat) : Nat := 0x190040 + 0x100 * t
def F.RADIO_FH_LATE_COUNT : Fld := ⟨0, 32⟩
def F.RADIO_FH_LATE_OVF : Fld := ⟨32, 1⟩

/-- RADIO_FH_EARLY (Table 10.13). -/
def Reg.RADIO_FH_EARLY (t : Nat) : Nat := 0x190048 + 0x100 * t
def F.RADIO_FH_EARLY_COUNT : Fld := ⟨0, 32⟩
def F.RADIO_FH_EARLY_OVF : Fld := ⟨32, 1⟩

/-- RADIO_FH_UNKNOWN (Table 10.13). -/
def Reg.RADIO_FH_UNKNOWN (t : Nat) : Nat := 0x190050 + 0x100 * t
def F.RADIO_FH_UNKNOWN_COUNT : Fld := ⟨0, 32⟩
def F.RADIO_FH_UNKNOWN_OVF : Fld := ⟨32, 1⟩

/-- RADIO_FH_DUP (Table 10.13). -/
def Reg.RADIO_FH_DUP (t : Nat) : Nat := 0x190058 + 0x100 * t
def F.RADIO_FH_DUP_COUNT : Fld := ⟨0, 32⟩
def F.RADIO_FH_DUP_OVF : Fld := ⟨32, 1⟩

/-- RADIO_PRB_ABSENT (Table 10.13). -/
def Reg.RADIO_PRB_ABSENT (t : Nat) : Nat := 0x190060 + 0x100 * t
def F.RADIO_PRB_ABSENT_COUNT : Fld := ⟨0, 32⟩
def F.RADIO_PRB_ABSENT_OVF : Fld := ⟨32, 1⟩

/-- RADIO_FAPI_REFUSED (Table 10.13). -/
def Reg.RADIO_FAPI_REFUSED (t : Nat) : Nat := 0x190068 + 0x100 * t
def F.RADIO_FAPI_REFUSED_COUNT : Fld := ⟨0, 32⟩
def F.RADIO_FAPI_REFUSED_OVF : Fld := ⟨32, 1⟩

/-- RADIO_SLOTS_LOST (Table 10.13). -/
def Reg.RADIO_SLOTS_LOST (t : Nat) : Nat := 0x190070 + 0x100 * t
def F.RADIO_SLOTS_LOST_COUNT : Fld := ⟨0, 32⟩
def F.RADIO_SLOTS_LOST_OVF : Fld := ⟨32, 1⟩

/-- RADIO_IND_DROPPED (Table 10.13). -/
def Reg.RADIO_IND_DROPPED (t : Nat) : Nat := 0x190078 + 0x100 * t
def F.RADIO_IND_DROPPED_COUNT : Fld := ⟨0, 32⟩
def F.RADIO_IND_DROPPED_OVF : Fld := ⟨32, 1⟩

/-- RADIO_CB_INTEGRITY (Table 10.13). -/
def Reg.RADIO_CB_INTEGRITY (t : Nat) : Nat := 0x190080 + 0x100 * t
def F.RADIO_CB_INTEGRITY_COUNT : Fld := ⟨0, 32⟩
def F.RADIO_CB_INTEGRITY_OVF : Fld := ⟨32, 1⟩

/-- RADIO_HARQ_MISS (Table 10.13). -/
def Reg.RADIO_HARQ_MISS (t : Nat) : Nat := 0x190088 + 0x100 * t
def F.RADIO_HARQ_MISS_COUNT : Fld := ⟨0, 32⟩
def F.RADIO_HARQ_MISS_OVF : Fld := ⟨32, 1⟩

/-- SIG_STATUS (Table 11.5). -/
def Reg.SIG_STATUS (t d : Nat) : Nat := 0x1b0000 + 0x800 * t + 0x100 * d
def F.SIG_STATUS_STATE : Fld := ⟨0, 3⟩
def F.SIG_STATUS_PC : Fld := ⟨3, 12⟩
def F.SIG_STATUS_LOCAL : Fld := ⟨15, 21⟩
def F.SIG_STATUS_PENDING : Fld := ⟨36, 3⟩
def F.SIG_STATUS_ROT_OFS : Fld := ⟨39, 5⟩

/-- SIG_LOAF (Table 11.5). -/
def Reg.SIG_LOAF (t d : Nat) : Nat := 0x1b0008 + 0x800 * t + 0x100 * d
def F.SIG_LOAF_LOAF : Fld := ⟨0, 32⟩

/-- SIG_ERROR (Table 11.5). -/
def Reg.SIG_ERROR (t d : Nat) : Nat := 0x1b0010 + 0x800 * t + 0x100 * d
def F.SIG_ERROR_VALID : Fld := ⟨0, 1⟩
def F.SIG_ERROR_MORE : Fld := ⟨1, 1⟩
def F.SIG_ERROR_REASON : Fld := ⟨2, 4⟩
def F.SIG_ERROR_PC : Fld := ⟨6, 12⟩
def F.SIG_ERROR_LOAF : Fld := ⟨18, 32⟩
def F.SIG_ERROR_XFER_REASON : Fld := ⟨50, 4⟩

/-- SIG_SATURATE_COUNT (Table 11.5). -/
def Reg.SIG_SATURATE_COUNT (t d : Nat) : Nat := 0x1b0018 + 0x800 * t + 0x100 * d
def F.SIG_SATURATE_COUNT_COUNT : Fld := ⟨0, 32⟩
def F.SIG_SATURATE_COUNT_OVF : Fld := ⟨32, 1⟩

/-- SIG_LOAF_COUNT (Table 11.5). -/
def Reg.SIG_LOAF_COUNT (t d : Nat) : Nat := 0x1b0020 + 0x800 * t + 0x100 * d
def F.SIG_LOAF_COUNT_COUNT : Fld := ⟨0, 48⟩
def F.SIG_LOAF_COUNT_OVF : Fld := ⟨48, 1⟩

/-- SIG_IRQ_COUNT (Table 11.5). -/
def Reg.SIG_IRQ_COUNT (t d : Nat) : Nat := 0x1b0028 + 0x800 * t + 0x100 * d
def F.SIG_IRQ_COUNT_COUNT : Fld := ⟨0, 32⟩
def F.SIG_IRQ_COUNT_OVF : Fld := ⟨32, 1⟩

/-- CODEC_STATUS (Table 12.9). -/
def Reg.CODEC_STATUS (t e : Nat) : Nat := 0x1a0000 + 0x400 * t + 0x80 * e
def F.CODEC_STATUS_STATE : Fld := ⟨0, 3⟩
def F.CODEC_STATUS_DESC : Fld := ⟨3, 10⟩
def F.CODEC_STATUS_LOCAL : Fld := ⟨13, 21⟩

/-- CODEC_LOAF (Table 12.9). -/
def Reg.CODEC_LOAF (t e : Nat) : Nat := 0x1a0008 + 0x400 * t + 0x80 * e
def F.CODEC_LOAF_LOAF : Fld := ⟨0, 32⟩

/-- CODEC_ERROR (Table 12.9). -/
def Reg.CODEC_ERROR (t e : Nat) : Nat := 0x1a0010 + 0x400 * t + 0x80 * e
def F.CODEC_ERROR_VALID : Fld := ⟨0, 1⟩
def F.CODEC_ERROR_MORE : Fld := ⟨1, 1⟩
def F.CODEC_ERROR_REASON : Fld := ⟨2, 3⟩
def F.CODEC_ERROR_DESC : Fld := ⟨5, 10⟩
def F.CODEC_ERROR_LOAF : Fld := ⟨15, 32⟩

/-- CODEC_BLOCKS (Table 12.9). -/
def Reg.CODEC_BLOCKS (t e : Nat) : Nat := 0x1a0018 + 0x400 * t + 0x80 * e
def F.CODEC_BLOCKS_COUNT : Fld := ⟨0, 48⟩
def F.CODEC_BLOCKS_OVF : Fld := ⟨48, 1⟩

/-- CODEC_CRC_FAIL (Table 12.9). -/
def Reg.CODEC_CRC_FAIL (t e : Nat) : Nat := 0x1a0020 + 0x400 * t + 0x80 * e
def F.CODEC_CRC_FAIL_COUNT : Fld := ⟨0, 32⟩
def F.CODEC_CRC_FAIL_OVF : Fld := ⟨32, 1⟩

/-- CODEC_ITER_SKIPPED (Table 12.9). -/
def Reg.CODEC_ITER_SKIPPED (t e : Nat) : Nat := 0x1a0028 + 0x400 * t + 0x80 * e
def F.CODEC_ITER_SKIPPED_COUNT : Fld := ⟨0, 48⟩
def F.CODEC_ITER_SKIPPED_OVF : Fld := ⟨48, 1⟩

/-- CODEC_DETECT (Table 12.9). -/
def Reg.CODEC_DETECT (t e : Nat) : Nat := 0x1a0030 + 0x400 * t + 0x80 * e
def F.CODEC_DETECT_COUNT : Fld := ⟨0, 32⟩
def F.CODEC_DETECT_OVF : Fld := ⟨32, 1⟩

/-- TIME_STATUS (Table 13.8). -/
def Reg.TIME_STATUS : Nat := 0x130000
def F.TIME_STATUS_STATE : Fld := ⟨0, 3⟩
def F.TIME_STATUS_PHASE_SRC : Fld := ⟨3, 2⟩
def F.TIME_STATUS_PTP_PORT : Fld := ⟨5, 4⟩
def F.TIME_STATUS_FREQ_SRC : Fld := ⟨9, 2⟩
def F.TIME_STATUS_SYNCE_LANE : Fld := ⟨11, 4⟩
def F.TIME_STATUS_CLOCK_CLASS : Fld := ⟨15, 8⟩
def F.TIME_STATUS_UTC_OFFSET : Fld := ⟨23, 16⟩

/-- TIME_NOW_SEC (Table 13.8). -/
def Reg.TIME_NOW_SEC : Nat := 0x130008
def F.TIME_NOW_SEC_SEC : Fld := ⟨0, 48⟩

/-- TIME_NOW_NS (Table 13.8). -/
def Reg.TIME_NOW_NS : Nat := 0x130010
def F.TIME_NOW_NS_NS : Fld := ⟨0, 32⟩
def F.TIME_NOW_NS_FRAC : Fld := ⟨32, 16⟩

/-- TIME_OFFSET (Table 13.8). -/
def Reg.TIME_OFFSET : Nat := 0x130018
def F.TIME_OFFSET_OFFSET : Fld := ⟨0, 32⟩
def F.TIME_OFFSET_PATH : Fld := ⟨32, 32⟩

/-- TIME_FREQ_ADJ (Table 13.8). -/
def Reg.TIME_FREQ_ADJ : Nat := 0x130020
def F.TIME_FREQ_ADJ_ADJ : Fld := ⟨0, 40⟩

/-- TIME_SET_SEC (Table 13.8). -/
def Reg.TIME_SET_SEC : Nat := 0x130028
def F.TIME_SET_SEC_SEC : Fld := ⟨0, 48⟩

/-- TIME_SET_NS (Table 13.8). -/
def Reg.TIME_SET_NS : Nat := 0x130030
def F.TIME_SET_NS_NS : Fld := ⟨0, 32⟩

/-- TIME_CMD (Table 13.8). -/
def Reg.TIME_CMD : Nat := 0x130038
def F.TIME_CMD_STEP : Fld := ⟨0, 1⟩

/-- TIME_TOD (Table 13.8). -/
def Reg.TIME_TOD : Nat := 0x130040
def F.TIME_TOD_SEC : Fld := ⟨0, 48⟩

/-- TIME_HOLDOVER_COUNT (Table 13.8). -/
def Reg.TIME_HOLDOVER_COUNT : Nat := 0x130048
def F.TIME_HOLDOVER_COUNT_COUNT : Fld := ⟨0, 32⟩
def F.TIME_HOLDOVER_COUNT_OVF : Fld := ⟨32, 1⟩

/-- TIME_PULSE_CTRL (Table 13.8). -/
def Reg.TIME_PULSE_CTRL (k : Nat) : Nat := 0x130100 + 0x20 * k
def F.TIME_PULSE_CTRL_EN : Fld := ⟨0, 1⟩
def F.TIME_PULSE_CTRL_POL : Fld := ⟨1, 1⟩

/-- TIME_PULSE_START_SEC (Table 13.8). -/
def Reg.TIME_PULSE_START_SEC (k : Nat) : Nat := 0x130108 + 0x20 * k
def F.TIME_PULSE_START_SEC_SEC : Fld := ⟨0, 48⟩

/-- TIME_PULSE_START_NS (Table 13.8). -/
def Reg.TIME_PULSE_START_NS (k : Nat) : Nat := 0x130110 + 0x20 * k
def F.TIME_PULSE_START_NS_NS : Fld := ⟨0, 32⟩

/-- TIME_PULSE_SHAPE (Table 13.8). -/
def Reg.TIME_PULSE_SHAPE (k : Nat) : Nat := 0x130118 + 0x20 * k
def F.TIME_PULSE_SHAPE_PERIOD : Fld := ⟨0, 32⟩
def F.TIME_PULSE_SHAPE_WIDTH : Fld := ⟨32, 32⟩

/-- TIME_CAPT_CTRL (Table 13.8). -/
def Reg.TIME_CAPT_CTRL (k : Nat) : Nat := 0x130200 + 0x20 * k
def F.TIME_CAPT_CTRL_EN : Fld := ⟨0, 1⟩
def F.TIME_CAPT_CTRL_EDGE : Fld := ⟨1, 2⟩
def F.TIME_CAPT_CTRL_LEVEL : Fld := ⟨3, 5⟩

/-- TIME_CAPT_SEC (Table 13.8). -/
def Reg.TIME_CAPT_SEC (k : Nat) : Nat := 0x130208 + 0x20 * k
def F.TIME_CAPT_SEC_SEC : Fld := ⟨0, 48⟩
def F.TIME_CAPT_SEC_VALID : Fld := ⟨48, 1⟩

/-- TIME_CAPT_NS (Table 13.8). -/
def Reg.TIME_CAPT_NS (k : Nat) : Nat := 0x130210 + 0x20 * k
def F.TIME_CAPT_NS_NS : Fld := ⟨0, 32⟩
def F.TIME_CAPT_NS_FRAC : Fld := ⟨32, 16⟩

/-- TIME_CAPT_DISCARD (Table 13.8). -/
def Reg.TIME_CAPT_DISCARD (k : Nat) : Nat := 0x130218 + 0x20 * k
def F.TIME_CAPT_DISCARD_COUNT : Fld := ⟨0, 32⟩
def F.TIME_CAPT_DISCARD_OVF : Fld := ⟨32, 1⟩

/-- TIME_PORT (Table 13.8). -/
def Reg.TIME_PORT (p : Nat) : Nat := 0x130300 + 0x8 * p
def F.TIME_PORT_ASYM : Fld := ⟨0, 32⟩
def F.TIME_PORT_DESKEW : Fld := ⟨32, 16⟩

/-- ETH_PORT_CFG (Table 14.6). -/
def Reg.ETH_PORT_CFG (p : Nat) : Nat := 0x220000 + 0x1000 * p
def F.ETH_PORT_CFG_EN : Fld := ⟨0, 1⟩
def F.ETH_PORT_CFG_LANES : Fld := ⟨1, 3⟩
def F.ETH_PORT_CFG_RATE : Fld := ⟨4, 2⟩
def F.ETH_PORT_CFG_CM : Fld := ⟨6, 1⟩
def F.ETH_PORT_CFG_VLAN_TAG : Fld := ⟨7, 1⟩
def F.ETH_PORT_CFG_MTU : Fld := ⟨8, 14⟩
def F.ETH_PORT_CFG_VID : Fld := ⟨22, 12⟩

/-- ETH_PORT_STATUS (Table 14.6). -/
def Reg.ETH_PORT_STATUS (p : Nat) : Nat := 0x220008 + 0x1000 * p
def F.ETH_PORT_STATUS_LINK : Fld := ⟨0, 1⟩
def F.ETH_PORT_STATUS_LOS : Fld := ⟨1, 8⟩

/-- ETH_GATE_CMD (Table 14.6). -/
def Reg.ETH_GATE_CMD (p : Nat) : Nat := 0x220010 + 0x1000 * p
def F.ETH_GATE_CMD_CMD : Fld := ⟨0, 2⟩

/-- ETH_GATE_STATUS (Table 14.6). -/
def Reg.ETH_GATE_STATUS (p : Nat) : Nat := 0x220018 + 0x1000 * p
def F.ETH_GATE_STATUS_OPER_BANK : Fld := ⟨0, 1⟩
def F.ETH_GATE_STATUS_PENDING : Fld := ⟨1, 1⟩
def F.ETH_GATE_STATUS_OPER_N : Fld := ⟨2, 9⟩

/-- ETH_GATE_ADMIN_BASE_SEC (Table 14.6). -/
def Reg.ETH_GATE_ADMIN_BASE_SEC (p : Nat) : Nat := 0x220020 + 0x1000 * p
def F.ETH_GATE_ADMIN_BASE_SEC_SEC : Fld := ⟨0, 48⟩

/-- ETH_GATE_ADMIN_TIME (Table 14.6). -/
def Reg.ETH_GATE_ADMIN_TIME (p : Nat) : Nat := 0x220028 + 0x1000 * p
def F.ETH_GATE_ADMIN_TIME_BASE_NS : Fld := ⟨0, 32⟩
def F.ETH_GATE_ADMIN_TIME_CYCLE : Fld := ⟨32, 32⟩

/-- ETH_GATE_ADMIN_N (Table 14.6). -/
def Reg.ETH_GATE_ADMIN_N (p : Nat) : Nat := 0x220030 + 0x1000 * p
def F.ETH_GATE_ADMIN_N_N : Fld := ⟨0, 9⟩

/-- ETH_GATE_TAKEOVER_SEC (Table 14.6). -/
def Reg.ETH_GATE_TAKEOVER_SEC (p : Nat) : Nat := 0x220038 + 0x1000 * p
def F.ETH_GATE_TAKEOVER_SEC_SEC : Fld := ⟨0, 48⟩

/-- ETH_GATE_TAKEOVER_NS (Table 14.6). -/
def Reg.ETH_GATE_TAKEOVER_NS (p : Nat) : Nat := 0x220040 + 0x1000 * p
def F.ETH_GATE_TAKEOVER_NS_NS : Fld := ⟨0, 32⟩

/-- ETH_HIST_SNAP (Table 14.6). -/
def Reg.ETH_HIST_SNAP (p : Nat) : Nat := 0x220048 + 0x1000 * p
def F.ETH_HIST_SNAP_SNAP : Fld := ⟨0, 1⟩

/-- ETH_QUEUE (Table 14.6). -/
def Reg.ETH_QUEUE (p q : Nat) : Nat := 0x220100 + 0x1000 * p + 0x20 * q
def F.ETH_QUEUE_CREDIT : Fld := ⟨0, 32⟩
def F.ETH_QUEUE_DEPTH : Fld := ⟨32, 24⟩

/-- ETH_QUEUE_CFG (Table 14.6). -/
def Reg.ETH_QUEUE_CFG (p q : Nat) : Nat := 0x220108 + 0x1000 * p + 0x20 * q
def F.ETH_QUEUE_CFG_IDLE_SLOPE : Fld := ⟨0, 32⟩
def F.ETH_QUEUE_CFG_AGE_LIMIT : Fld := ⟨32, 32⟩

/-- ETH_QUEUE_MAX (Table 14.6). -/
def Reg.ETH_QUEUE_MAX (p q : Nat) : Nat := 0x220110 + 0x1000 * p + 0x20 * q
def F.ETH_QUEUE_MAX_MAX_DEPTH : Fld := ⟨0, 24⟩
def F.ETH_QUEUE_MAX_MAX_DELAY : Fld := ⟨24, 32⟩

/-- ETH_RX_FRAMES (Table 14.6). -/
def Reg.ETH_RX_FRAMES (p : Nat) : Nat := 0x220200 + 0x1000 * p
def F.ETH_RX_FRAMES_COUNT : Fld := ⟨0, 48⟩
def F.ETH_RX_FRAMES_OVF : Fld := ⟨48, 1⟩

/-- ETH_RX_BYTES (Table 14.6). -/
def Reg.ETH_RX_BYTES (p : Nat) : Nat := 0x220208 + 0x1000 * p
def F.ETH_RX_BYTES_COUNT : Fld := ⟨0, 48⟩
def F.ETH_RX_BYTES_OVF : Fld := ⟨48, 1⟩

/-- ETH_TX_FRAMES (Table 14.6). -/
def Reg.ETH_TX_FRAMES (p : Nat) : Nat := 0x220210 + 0x1000 * p
def F.ETH_TX_FRAMES_COUNT : Fld := ⟨0, 48⟩
def F.ETH_TX_FRAMES_OVF : Fld := ⟨48, 1⟩

/-- ETH_TX_BYTES (Table 14.6). -/
def Reg.ETH_TX_BYTES (p : Nat) : Nat := 0x220218 + 0x1000 * p
def F.ETH_TX_BYTES_COUNT : Fld := ⟨0, 48⟩
def F.ETH_TX_BYTES_OVF : Fld := ⟨48, 1⟩

/-- ETH_RX_FCS (Table 14.6). -/
def Reg.ETH_RX_FCS (p : Nat) : Nat := 0x220220 + 0x1000 * p
def F.ETH_RX_FCS_COUNT : Fld := ⟨0, 32⟩
def F.ETH_RX_FCS_OVF : Fld := ⟨32, 1⟩

/-- ETH_RX_LENGTH (Table 14.6). -/
def Reg.ETH_RX_LENGTH (p : Nat) : Nat := 0x220228 + 0x1000 * p
def F.ETH_RX_LENGTH_COUNT : Fld := ⟨0, 32⟩
def F.ETH_RX_LENGTH_OVF : Fld := ⟨32, 1⟩

/-- ETH_RX_OTHER (Table 14.6). -/
def Reg.ETH_RX_OTHER (p : Nat) : Nat := 0x220230 + 0x1000 * p
def F.ETH_RX_OTHER_COUNT : Fld := ⟨0, 32⟩
def F.ETH_RX_OTHER_OVF : Fld := ⟨32, 1⟩

/-- ETH_RX_LANDING_DROP (Table 14.6). -/
def Reg.ETH_RX_LANDING_DROP (p : Nat) : Nat := 0x220238 + 0x1000 * p
def F.ETH_RX_LANDING_DROP_COUNT : Fld := ⟨0, 32⟩
def F.ETH_RX_LANDING_DROP_OVF : Fld := ⟨32, 1⟩

/-- ETH_TX_QUEUE_DROP (Table 14.6). -/
def Reg.ETH_TX_QUEUE_DROP (p : Nat) : Nat := 0x220240 + 0x1000 * p
def F.ETH_TX_QUEUE_DROP_COUNT : Fld := ⟨0, 32⟩
def F.ETH_TX_QUEUE_DROP_OVF : Fld := ⟨32, 1⟩

/-- ETH_TX_AGED (Table 14.6). -/
def Reg.ETH_TX_AGED (p : Nat) : Nat := 0x220248 + 0x1000 * p
def F.ETH_TX_AGED_COUNT : Fld := ⟨0, 32⟩
def F.ETH_TX_AGED_OVF : Fld := ⟨32, 1⟩

/-- ETH_TX_LINK_DOWN (Table 14.6). -/
def Reg.ETH_TX_LINK_DOWN (p : Nat) : Nat := 0x220250 + 0x1000 * p
def F.ETH_TX_LINK_DOWN_COUNT : Fld := ⟨0, 32⟩
def F.ETH_TX_LINK_DOWN_OVF : Fld := ⟨32, 1⟩

/-- ETH_LINK_DOWN_COUNT (Table 14.6). -/
def Reg.ETH_LINK_DOWN_COUNT (p : Nat) : Nat := 0x220258 + 0x1000 * p
def F.ETH_LINK_DOWN_COUNT_COUNT : Fld := ⟨0, 32⟩
def F.ETH_LINK_DOWN_COUNT_OVF : Fld := ⟨32, 1⟩

/-- ETH_HIST_DEPTH (Table 14.6). -/
def Reg.ETH_HIST_DEPTH (p q k : Nat) : Nat := 0x220400 + 0x1000 * p + 0x100 * q + 0x8 * k
def F.ETH_HIST_DEPTH_COUNT : Fld := ⟨0, 32⟩
def F.ETH_HIST_DEPTH_OVF : Fld := ⟨32, 1⟩

/-- ETH_HIST_DELAY (Table 14.6). -/
def Reg.ETH_HIST_DELAY (p q k : Nat) : Nat := 0x220480 + 0x1000 * p + 0x100 * q + 0x8 * k
def F.ETH_HIST_DELAY_COUNT : Fld := ⟨0, 32⟩
def F.ETH_HIST_DELAY_OVF : Fld := ⟨32, 1⟩

/-- ETH_GATE_STORE (Table 14.6). -/
def Reg.ETH_GATE_STORE (p b e : Nat) : Nat := 0x230000 + 0x1000 * p + 0x800 * b + 0x8 * e
def F.ETH_GATE_STORE_ENTRY : Fld := ⟨0, 64⟩

/-- BRAID_CFG (Table 15.11). -/
def Reg.BRAID_CFG : Nat := 0x240000
def F.BRAID_CFG_NODE : Fld := ⟨0, 12⟩
def F.BRAID_CFG_STAGES : Fld := ⟨12, 4⟩
def F.BRAID_CFG_RETRY : Fld := ⟨16, 5⟩

/-- BRAID_EPOCH (Table 15.11). -/
def Reg.BRAID_EPOCH : Nat := 0x240008
def F.BRAID_EPOCH_EPOCH : Fld := ⟨0, 4⟩

/-- BRAID_INFLIGHT (Table 15.11). -/
def Reg.BRAID_INFLIGHT : Nat := 0x240010
def F.BRAID_INFLIGHT_COUNT : Fld := ⟨0, 13⟩
def F.BRAID_INFLIGHT_MAX : Fld := ⟨13, 13⟩

/-- BRAID_PAIR_SEL (Table 15.11). -/
def Reg.BRAID_PAIR_SEL : Nat := 0x240018
def F.BRAID_PAIR_SEL_NODE : Fld := ⟨0, 12⟩

/-- BRAID_PAIR_STATE (Table 15.11). -/
def Reg.BRAID_PAIR_STATE : Nat := 0x240020
def F.BRAID_PAIR_STATE_NEXT_SEQ : Fld := ⟨0, 32⟩
def F.BRAID_PAIR_STATE_UNACKED : Fld := ⟨32, 10⟩
def F.BRAID_PAIR_STATE_CREDITS : Fld := ⟨42, 11⟩
def F.BRAID_PAIR_STATE_DEAD : Fld := ⟨53, 1⟩

/-- BRAID_PUT_ARM (Table 15.11). -/
def Reg.BRAID_PUT_ARM : Nat := 0x240028
def F.BRAID_PUT_ARM_PUT_ID : Fld := ⟨0, 10⟩

/-- BRAID_PUT_STATUS (Table 15.11). -/
def Reg.BRAID_PUT_STATUS : Nat := 0x240030
def F.BRAID_PUT_STATUS_PUT_ID : Fld := ⟨0, 10⟩
def F.BRAID_PUT_STATUS_STATUS : Fld := ⟨10, 4⟩
def F.BRAID_PUT_STATUS_BUSY : Fld := ⟨14, 1⟩

/-- BRAID_DEAD_TARGET (Table 15.11). -/
def Reg.BRAID_DEAD_TARGET : Nat := 0x240100
def F.BRAID_DEAD_TARGET_COUNT : Fld := ⟨0, 32⟩
def F.BRAID_DEAD_TARGET_OVF : Fld := ⟨32, 1⟩

/-- BRAID_REFUSED (Table 15.11). -/
def Reg.BRAID_REFUSED : Nat := 0x240108
def F.BRAID_REFUSED_COUNT : Fld := ⟨0, 32⟩
def F.BRAID_REFUSED_OVF : Fld := ⟨32, 1⟩

/-- BRAID_STALE_DROP (Table 15.11). -/
def Reg.BRAID_STALE_DROP : Nat := 0x240110
def F.BRAID_STALE_DROP_COUNT : Fld := ⟨0, 32⟩
def F.BRAID_STALE_DROP_OVF : Fld := ⟨32, 1⟩

/-- BRAID_PROTOCOL_DROP (Table 15.11). -/
def Reg.BRAID_PROTOCOL_DROP : Nat := 0x240118
def F.BRAID_PROTOCOL_DROP_COUNT : Fld := ⟨0, 32⟩
def F.BRAID_PROTOCOL_DROP_OVF : Fld := ⟨32, 1⟩

/-- BRAID_NO_ROUTE_DROP (Table 15.11). -/
def Reg.BRAID_NO_ROUTE_DROP : Nat := 0x240120
def F.BRAID_NO_ROUTE_DROP_COUNT : Fld := ⟨0, 32⟩
def F.BRAID_NO_ROUTE_DROP_OVF : Fld := ⟨32, 1⟩

/-- BRAID_HOT_LINE (Table 15.11). -/
def Reg.BRAID_HOT_LINE : Nat := 0x240128
def F.BRAID_HOT_LINE_COUNT : Fld := ⟨0, 32⟩
def F.BRAID_HOT_LINE_OVF : Fld := ⟨32, 1⟩

/-- BRAID_PUT_LATE (Table 15.11). -/
def Reg.BRAID_PUT_LATE : Nat := 0x240130
def F.BRAID_PUT_LATE_COUNT : Fld := ⟨0, 32⟩
def F.BRAID_PUT_LATE_OVF : Fld := ⟨32, 1⟩

/-- BRAID_PUT_OVERLAP (Table 15.11). -/
def Reg.BRAID_PUT_OVERLAP : Nat := 0x240138
def F.BRAID_PUT_OVERLAP_COUNT : Fld := ⟨0, 32⟩
def F.BRAID_PUT_OVERLAP_OVF : Fld := ⟨32, 1⟩

/-- BRAID_RETRANSMIT (Table 15.11). -/
def Reg.BRAID_RETRANSMIT : Nat := 0x240140
def F.BRAID_RETRANSMIT_COUNT : Fld := ⟨0, 32⟩
def F.BRAID_RETRANSMIT_OVF : Fld := ⟨32, 1⟩

/-- BRAID_PORT_CFG (Table 15.11). -/
def Reg.BRAID_PORT_CFG (b : Nat) : Nat := 0x241000 + 0x1000 * b
def F.BRAID_PORT_CFG_EN : Fld := ⟨0, 1⟩
def F.BRAID_PORT_CFG_NEIGH_NODE : Fld := ⟨1, 12⟩
def F.BRAID_PORT_CFG_NEIGH_PORT : Fld := ⟨13, 3⟩

/-- BRAID_PORT_STATUS (Table 15.11). -/
def Reg.BRAID_PORT_STATUS (b : Nat) : Nat := 0x241008 + 0x1000 * b
def F.BRAID_PORT_STATUS_LINK : Fld := ⟨0, 1⟩
def F.BRAID_PORT_STATUS_LOS : Fld := ⟨1, 4⟩
def F.BRAID_PORT_STATUS_FENCED : Fld := ⟨5, 4⟩
def F.BRAID_PORT_STATUS_MISWIRED : Fld := ⟨9, 1⟩
def F.BRAID_PORT_STATUS_FAR_NODE : Fld := ⟨10, 12⟩
def F.BRAID_PORT_STATUS_FAR_PORT : Fld := ⟨22, 3⟩

/-- BRAID_PORT_CTRL (Table 15.11). -/
def Reg.BRAID_PORT_CTRL (b : Nat) : Nat := 0x241050 + 0x1000 * b
def F.BRAID_PORT_CTRL_UNFENCE : Fld := ⟨0, 4⟩

/-- BRAID_FLITS_TX (Table 15.11). -/
def Reg.BRAID_FLITS_TX (b : Nat) : Nat := 0x241200 + 0x1000 * b
def F.BRAID_FLITS_TX_COUNT : Fld := ⟨0, 48⟩
def F.BRAID_FLITS_TX_OVF : Fld := ⟨48, 1⟩

/-- BRAID_FLITS_RX (Table 15.11). -/
def Reg.BRAID_FLITS_RX (b : Nat) : Nat := 0x241208 + 0x1000 * b
def F.BRAID_FLITS_RX_COUNT : Fld := ⟨0, 48⟩
def F.BRAID_FLITS_RX_OVF : Fld := ⟨48, 1⟩

/-- BRAID_FEC_CORRECTED (Table 15.11). -/
def Reg.BRAID_FEC_CORRECTED (b : Nat) : Nat := 0x241210 + 0x1000 * b
def F.BRAID_FEC_CORRECTED_COUNT : Fld := ⟨0, 48⟩
def F.BRAID_FEC_CORRECTED_OVF : Fld := ⟨48, 1⟩

/-- BRAID_FEC_UNCORRECTED (Table 15.11). -/
def Reg.BRAID_FEC_UNCORRECTED (b : Nat) : Nat := 0x241218 + 0x1000 * b
def F.BRAID_FEC_UNCORRECTED_COUNT : Fld := ⟨0, 32⟩
def F.BRAID_FEC_UNCORRECTED_OVF : Fld := ⟨32, 1⟩

/-- BRAID_CRC_FAIL (Table 15.11). -/
def Reg.BRAID_CRC_FAIL (b : Nat) : Nat := 0x241220 + 0x1000 * b
def F.BRAID_CRC_FAIL_COUNT : Fld := ⟨0, 32⟩
def F.BRAID_CRC_FAIL_OVF : Fld := ⟨32, 1⟩

/-- BRAID_REPLAYS (Table 15.11). -/
def Reg.BRAID_REPLAYS (b : Nat) : Nat := 0x241228 + 0x1000 * b
def F.BRAID_REPLAYS_COUNT : Fld := ⟨0, 32⟩
def F.BRAID_REPLAYS_OVF : Fld := ⟨32, 1⟩

/-- BRAID_LINK_DOWN_COUNT (Table 15.11). -/
def Reg.BRAID_LINK_DOWN_COUNT (b : Nat) : Nat := 0x241230 + 0x1000 * b
def F.BRAID_LINK_DOWN_COUNT_COUNT : Fld := ⟨0, 32⟩
def F.BRAID_LINK_DOWN_COUNT_OVF : Fld := ⟨32, 1⟩

/-- PROOF_CTR (Table 16.10). -/
def Reg.PROOF_CTR (t c : Nat) : Nat := 0x280000 + 0x8000 * t + 0x10 * c
def F.PROOF_CTR_VALUE : Fld := ⟨0, 32⟩
def F.PROOF_CTR_OVF : Fld := ⟨32, 1⟩
def F.PROOF_CTR_STATE : Fld := ⟨33, 3⟩
def F.PROOF_CTR_SLICE : Fld := ⟨36, 6⟩
def F.PROOF_CTR_LOSS : Fld := ⟨42, 1⟩
def F.PROOF_CTR_WAITERS : Fld := ⟨43, 6⟩

/-- PROOF_PEND (Table 16.10). -/
def Reg.PROOF_PEND (t c : Nat) : Nat := 0x280008 + 0x8000 * t + 0x10 * c
def F.PROOF_PEND_PEND : Fld := ⟨0, 32⟩

/-- PROOF_GLOBAL_CFG (Table 16.10). -/
def Reg.PROOF_GLOBAL_CFG (t g : Nat) : Nat := 0x284000 + 0x8000 * t + 0x8 * g
def F.PROOF_GLOBAL_CFG_FWD : Fld := ⟨0, 1⟩
def F.PROOF_GLOBAL_CFG_FWD_TILE : Fld := ⟨1, 3⟩
def F.PROOF_GLOBAL_CFG_FWD_G : Fld := ⟨4, 4⟩

/-- PROOF_HOST_SIGNAL (Table 16.10). -/
def Reg.PROOF_HOST_SIGNAL (t : Nat) : Nat := 0x284100 + 0x8000 * t
def F.PROOF_HOST_SIGNAL_COUNTER : Fld := ⟨0, 10⟩
def F.PROOF_HOST_SIGNAL_AMOUNT : Fld := ⟨32, 32⟩

/-- PROOF_STEWARD_SIGNAL (Table 16.10). -/
def Reg.PROOF_STEWARD_SIGNAL (t : Nat) : Nat := 0x284108 + 0x8000 * t
def F.PROOF_STEWARD_SIGNAL_COUNTER : Fld := ⟨0, 10⟩
def F.PROOF_STEWARD_SIGNAL_AMOUNT : Fld := ⟨32, 32⟩

/-- PROOF_PARKED (Table 16.10). -/
def Reg.PROOF_PARKED (t : Nat) : Nat := 0x284110 + 0x8000 * t
def F.PROOF_PARKED_LEVEL : Fld := ⟨0, 9⟩
def F.PROOF_PARKED_MAX : Fld := ⟨9, 9⟩

/-- PROOF_DISCARD (Table 16.10). -/
def Reg.PROOF_DISCARD (t : Nat) : Nat := 0x284118 + 0x8000 * t
def F.PROOF_DISCARD_COUNT : Fld := ⟨0, 32⟩
def F.PROOF_DISCARD_OVF : Fld := ⟨32, 1⟩

/-- PROOF_TIMEOUT (Table 16.10). -/
def Reg.PROOF_TIMEOUT (s : Nat) : Nat := 0x2b0000 + 0x8 * s
def F.PROOF_TIMEOUT_US : Fld := ⟨0, 20⟩

/-- PEEL_DATA (Table 16.11). -/
def Reg.PEEL_DATA (n w : Nat) : Nat := 0x150000 + 0x100 * n + 0x8 * w
def F.PEEL_DATA_DATA : Fld := ⟨0, 64⟩

/-- PEEL_LOCK (Table 16.11). -/
def Reg.PEEL_LOCK (n : Nat) : Nat := 0x150080 + 0x100 * n
def F.PEEL_LOCK_OWNER : Fld := ⟨0, 16⟩

/-- PEEL_CTRL (Table 16.11). -/
def Reg.PEEL_CTRL (n : Nat) : Nat := 0x150088 + 0x100 * n
def F.PEEL_CTRL_GO : Fld := ⟨0, 1⟩
def F.PEEL_CTRL_RELEASE : Fld := ⟨1, 1⟩
def F.PEEL_CTRL_TARGET : Fld := ⟨16, 16⟩

/-- PEEL_STATUS (Table 16.11). -/
def Reg.PEEL_STATUS (n : Nat) : Nat := 0x150090 + 0x100 * n
def F.PEEL_STATUS_OWNER : Fld := ⟨0, 16⟩
def F.PEEL_STATUS_PREV : Fld := ⟨16, 16⟩
def F.PEEL_STATUS_HANDOFFS : Fld := ⟨32, 16⟩

/-- PEEL_BIND (Table 16.11). -/
def Reg.PEEL_BIND (n : Nat) : Nat := 0x150098 + 0x100 * n
def F.PEEL_BIND_RECORD : Fld := ⟨0, 64⟩

/-- SLICE_CFG (Table 17.11). -/
def Reg.SLICE_CFG (s : Nat) : Nat := 0x140000 + 0x80 * s
def F.SLICE_CFG_PASID : Fld := ⟨0, 20⟩
def F.SLICE_CFG_CLASS : Fld := ⟨20, 2⟩
def F.SLICE_CFG_EN : Fld := ⟨22, 1⟩
def F.SLICE_CFG_HOST_RESET : Fld := ⟨23, 1⟩

/-- SLICE_CMD (Table 17.11). -/
def Reg.SLICE_CMD (s : Nat) : Nat := 0x140008 + 0x80 * s
def F.SLICE_CMD_CMD : Fld := ⟨0, 3⟩
def F.SLICE_CMD_DRAIN_TICKS : Fld := ⟨16, 16⟩

/-- SLICE_STATUS (Table 17.11). -/
def Reg.SLICE_STATUS (s : Nat) : Nat := 0x140010 + 0x80 * s
def F.SLICE_STATUS_STATE : Fld := ⟨0, 3⟩
def F.SLICE_STATUS_MODE : Fld := ⟨3, 1⟩
def F.SLICE_STATUS_LAST_RESULT : Fld := ⟨4, 8⟩

/-- SLICE_IMAGE (Table 17.11). -/
def Reg.SLICE_IMAGE (s : Nat) : Nat := 0x140018 + 0x80 * s
def F.SLICE_IMAGE_ADDR : Fld := ⟨6, 58⟩

/-- SLICE_IMAGE_LEN (Table 17.11). -/
def Reg.SLICE_IMAGE_LEN (s : Nat) : Nat := 0x140020 + 0x80 * s
def F.SLICE_IMAGE_LEN_MAX : Fld := ⟨0, 32⟩
def F.SLICE_IMAGE_LEN_LEN : Fld := ⟨32, 32⟩

/-- SLICE_EV_RING (Table 17.11). -/
def Reg.SLICE_EV_RING (s : Nat) : Nat := 0x140028 + 0x80 * s
def F.SLICE_EV_RING_LOG2 : Fld := ⟨0, 5⟩
def F.SLICE_EV_RING_ADDR : Fld := ⟨12, 52⟩

/-- SLICE_EV_PTR (Table 17.11). -/
def Reg.SLICE_EV_PTR (s : Nat) : Nat := 0x140030 + 0x80 * s
def F.SLICE_EV_PTR_TAIL : Fld := ⟨0, 32⟩
def F.SLICE_EV_PTR_HEAD : Fld := ⟨32, 32⟩

/-- SLICE_EV_DISCARD (Table 17.11). -/
def Reg.SLICE_EV_DISCARD (s : Nat) : Nat := 0x140038 + 0x80 * s
def F.SLICE_EV_DISCARD_COUNT : Fld := ⟨0, 32⟩
def F.SLICE_EV_DISCARD_OVF : Fld := ⟨32, 1⟩

/-- SLICE_UNBOUND (Table 17.11). -/
def Reg.SLICE_UNBOUND : Nat := 0x142100
def F.SLICE_UNBOUND_COUNT : Fld := ⟨0, 32⟩
def F.SLICE_UNBOUND_OVF : Fld := ⟨32, 1⟩

/-- INTEG_LEAK (Table 18.5). -/
def Reg.INTEG_LEAK : Nat := 0x170000
def F.INTEG_LEAK_LEAK : Fld := ⟨0, 64⟩

/-- INTEG_CORRECTED (Table 18.5). -/
def Reg.INTEG_CORRECTED : Nat := 0x170008
def F.INTEG_CORRECTED_COUNT : Fld := ⟨0, 48⟩
def F.INTEG_CORRECTED_OVF : Fld := ⟨48, 1⟩

/-- INTEG_TEST_ADDR (Table 18.5). -/
def Reg.INTEG_TEST_ADDR : Nat := 0x170010
def F.INTEG_TEST_ADDR_ADDR : Fld := ⟨6, 58⟩

/-- INTEG_TEST_CTRL (Table 18.5). -/
def Reg.INTEG_TEST_CTRL : Nat := 0x170020
def F.INTEG_TEST_CTRL_CMD : Fld := ⟨0, 2⟩

/-- INTEG_TEST_CHECK (Table 18.5). -/
def Reg.INTEG_TEST_CHECK : Nat := 0x170028
def F.INTEG_TEST_CHECK_CHECK : Fld := ⟨0, 16⟩

/-- INTEG_TEST_RESULT (Table 18.5). -/
def Reg.INTEG_TEST_RESULT : Nat := 0x170030
def F.INTEG_TEST_RESULT_DONE : Fld := ⟨0, 1⟩
def F.INTEG_TEST_RESULT_REFUSED : Fld := ⟨1, 1⟩
def F.INTEG_TEST_RESULT_STORED : Fld := ⟨2, 16⟩
def F.INTEG_TEST_RESULT_COMPUTED : Fld := ⟨18, 16⟩

/-- INTEG_LOG_PTR (Table 18.5). -/
def Reg.INTEG_LOG_PTR : Nat := 0x170038
def F.INTEG_LOG_PTR_TAIL : Fld := ⟨0, 32⟩
def F.INTEG_LOG_PTR_HEAD : Fld := ⟨32, 32⟩

/-- INTEG_TEST_DATA (Table 18.5). -/
def Reg.INTEG_TEST_DATA (w : Nat) : Nat := 0x170040 + 0x8 * w
def F.INTEG_TEST_DATA_DATA : Fld := ⟨0, 64⟩

/-- INTEG_BUCKET (Table 18.5). -/
def Reg.INTEG_BUCKET (t b : Nat) : Nat := 0x171000 + 0x1000 * t + 0x8 * b
def F.INTEG_BUCKET_LEVEL : Fld := ⟨0, 8⟩
def F.INTEG_BUCKET_FULL : Fld := ⟨8, 1⟩
def F.INTEG_BUCKET_UNRESOLVED : Fld := ⟨16, 16⟩
def F.INTEG_BUCKET_OVF : Fld := ⟨32, 1⟩

/-- INTEG_FENCE (Table 18.5). -/
def Reg.INTEG_FENCE (t : Nat) : Nat := 0x171400 + 0x1000 * t
def F.INTEG_FENCE_KNEAD : Fld := ⟨0, 17⟩
def F.INTEG_FENCE_SIGNAL : Fld := ⟨17, 8⟩
def F.INTEG_FENCE_CODEC : Fld := ⟨25, 8⟩
def F.INTEG_FENCE_SPARE_FOR : Fld := ⟨33, 5⟩
def F.INTEG_FENCE_SPARE_FENCED : Fld := ⟨38, 1⟩
def F.INTEG_FENCE_ABSENT : Fld := ⟨39, 16⟩

/-- INTEG_FENCE_SIEVE (Table 18.5). -/
def Reg.INTEG_FENCE_SIEVE (t : Nat) : Nat := 0x171408 + 0x1000 * t
def F.INTEG_FENCE_SIEVE_SIEVE : Fld := ⟨0, 32⟩

/-- INTEG_SCRUB (Table 18.5). -/
def Reg.INTEG_SCRUB (t : Nat) : Nat := 0x171410 + 0x1000 * t
def F.INTEG_SCRUB_PASSES : Fld := ⟨0, 32⟩
def F.INTEG_SCRUB_OVF : Fld := ⟨32, 1⟩

/-- INTEG_PROVE (Table 18.5). -/
def Reg.INTEG_PROVE (t : Nat) : Nat := 0x171418 + 0x1000 * t
def F.INTEG_PROVE_RUNS : Fld := ⟨0, 32⟩
def F.INTEG_PROVE_FAILS : Fld := ⟨32, 16⟩
def F.INTEG_PROVE_OVF : Fld := ⟨48, 1⟩

/-- KNEAD_STEP (Table 19.6). -/
def Reg.KNEAD_STEP (t k : Nat) : Nat := 0x300600 + 0x20000 * t + 0x1000 * k
def F.KNEAD_STEP_STEP : Fld := ⟨0, 64⟩

/-- KNEAD_SEED (Table 19.6). -/
def Reg.KNEAD_SEED (t k w : Nat) : Nat := 0x300608 + 0x20000 * t + 0x1000 * k + 0x8 * w
def F.KNEAD_SEED_SEED : Fld := ⟨0, 64⟩

/-- KNEAD_STREAM (Table 19.6). -/
def Reg.KNEAD_STREAM (t k : Nat) : Nat := 0x300628 + 0x20000 * t + 0x1000 * k
def F.KNEAD_STREAM_STREAM : Fld := ⟨0, 6⟩

/-- MEMB_STATUS (Table 20.8). -/
def Reg.MEMB_STATUS : Nat := 0x160000
def F.MEMB_STATUS_STATE : Fld := ⟨0, 3⟩
def F.MEMB_STATUS_PLACE : Fld := ⟨3, 12⟩
def F.MEMB_STATUS_STAGED : Fld := ⟨15, 1⟩
def F.MEMB_STATUS_LAST_REASON : Fld := ⟨16, 8⟩
def F.MEMB_STATUS_FENCE_CAUSE : Fld := ⟨24, 3⟩

/-- MEMB_EPOCH (Table 20.8). -/
def Reg.MEMB_EPOCH : Nat := 0x160008
def F.MEMB_EPOCH_EPOCH : Fld := ⟨0, 32⟩

/-- MEMB_INSTALLED (Table 20.8). -/
def Reg.MEMB_INSTALLED : Nat := 0x160010
def F.MEMB_INSTALLED_TICK : Fld := ⟨0, 64⟩

/-- MEMB_EPOCH_SRC (Table 20.8). -/
def Reg.MEMB_EPOCH_SRC : Nat := 0x160018
def F.MEMB_EPOCH_SRC_ADDR : Fld := ⟨6, 58⟩

/-- MEMB_EPOCH_LEN (Table 20.8). -/
def Reg.MEMB_EPOCH_LEN : Nat := 0x160020
def F.MEMB_EPOCH_LEN_LEN : Fld := ⟨0, 16⟩

/-- MEMB_EPOCH_CMD (Table 20.8). -/
def Reg.MEMB_EPOCH_CMD : Nat := 0x160028
def F.MEMB_EPOCH_CMD_CMD : Fld := ⟨0, 3⟩

/-- MEMB_HB (Table 20.8). -/
def Reg.MEMB_HB : Nat := 0x160030
def F.MEMB_HB_HB_OFFSET : Fld := ⟨0, 32⟩
def F.MEMB_HB_HB_GRACE : Fld := ⟨32, 32⟩

/-- MEMB_PEER_SEL (Table 20.8). -/
def Reg.MEMB_PEER_SEL : Nat := 0x160038
def F.MEMB_PEER_SEL_NODE : Fld := ⟨0, 12⟩

/-- MEMB_PEER_STATE (Table 20.8). -/
def Reg.MEMB_PEER_STATE : Nat := 0x160040
def F.MEMB_PEER_STATE_STATE : Fld := ⟨0, 2⟩
def F.MEMB_PEER_STATE_MISSES : Fld := ⟨2, 8⟩

/-- MEMB_MISS_COUNT (Table 20.8). -/
def Reg.MEMB_MISS_COUNT : Nat := 0x160048
def F.MEMB_MISS_COUNT_COUNT : Fld := ⟨0, 32⟩
def F.MEMB_MISS_COUNT_OVF : Fld := ⟨32, 1⟩

/-- MEMB_SUSPECT_COUNT (Table 20.8). -/
def Reg.MEMB_SUSPECT_COUNT : Nat := 0x160050
def F.MEMB_SUSPECT_COUNT_COUNT : Fld := ⟨0, 32⟩
def F.MEMB_SUSPECT_COUNT_OVF : Fld := ⟨32, 1⟩

/-- MEMB_NOTICE_IGNORED (Table 20.8). -/
def Reg.MEMB_NOTICE_IGNORED : Nat := 0x160058
def F.MEMB_NOTICE_IGNORED_COUNT : Fld := ⟨0, 32⟩
def F.MEMB_NOTICE_IGNORED_OVF : Fld := ⟨32, 1⟩

/-- MEMB_SHADOW (Table 20.8). -/
def Reg.MEMB_SHADOW : Nat := 0x160060
def F.MEMB_SHADOW_TRAY : Fld := ⟨0, 9⟩
def F.MEMB_SHADOW_EN : Fld := ⟨9, 1⟩
def F.MEMB_SHADOW_QUAL_TICKS : Fld := ⟨32, 32⟩

/-- MEMB_SHADOW_SEQ (Table 20.8). -/
def Reg.MEMB_SHADOW_SEQ : Nat := 0x160068
def F.MEMB_SHADOW_SEQ_FIRST_SEQ : Fld := ⟨0, 64⟩

/-- MEMB_SHADOW_STATUS (Table 20.8). -/
def Reg.MEMB_SHADOW_STATUS : Nat := 0x160070
def F.MEMB_SHADOW_STATUS_RESULT : Fld := ⟨0, 2⟩
def F.MEMB_SHADOW_STATUS_MIN_COMPARE : Fld := ⟨32, 32⟩

/-- MEMB_SHADOW_COMPARED (Table 20.8). -/
def Reg.MEMB_SHADOW_COMPARED : Nat := 0x160078
def F.MEMB_SHADOW_COMPARED_COUNT : Fld := ⟨0, 48⟩
def F.MEMB_SHADOW_COMPARED_OVF : Fld := ⟨48, 1⟩

/-- MEMB_COLL (Table 20.8). -/
def Reg.MEMB_COLL (s : Nat) : Nat := 0x160400 + 0x20 * s
def F.MEMB_COLL_EN : Fld := ⟨0, 1⟩
def F.MEMB_COLL_COLL_ID : Fld := ⟨32, 32⟩

/-- MEMB_COLL_LIST (Table 20.8). -/
def Reg.MEMB_COLL_LIST (s : Nat) : Nat := 0x160408 + 0x20 * s
def F.MEMB_COLL_LIST_ADDR : Fld := ⟨6, 58⟩

/-- MEMB_COLL_N (Table 20.8). -/
def Reg.MEMB_COLL_N (s : Nat) : Nat := 0x160410 + 0x20 * s
def F.MEMB_COLL_N_N : Fld := ⟨0, 13⟩

/-- MEMB_COLL_ABORT (Table 20.8). -/
def Reg.MEMB_COLL_ABORT (s : Nat) : Nat := 0x160418 + 0x20 * s
def F.MEMB_COLL_ABORT_ABORT : Fld := ⟨0, 1⟩

/-- CXL_LINK (Table 21.7). -/
def Reg.CXL_LINK : Nat := 0x110000
def F.CXL_LINK_WIDTH : Fld := ⟨0, 5⟩
def F.CXL_LINK_RATE : Fld := ⟨5, 2⟩
def F.CXL_LINK_LOPT : Fld := ⟨7, 1⟩
def F.CXL_LINK_PROTO : Fld := ⟨8, 3⟩

/-- CXL_HDM (Table 21.7). -/
def Reg.CXL_HDM : Nat := 0x110008
def F.CXL_HDM_COMMITTED : Fld := ⟨0, 1⟩
def F.CXL_HDM_BASE : Fld := ⟨28, 36⟩

/-- CXL_IDE (Table 21.7). -/
def Reg.CXL_IDE : Nat := 0x110010
def F.CXL_IDE_IO_ACTIVE : Fld := ⟨0, 1⟩
def F.CXL_IDE_CM_ACTIVE : Fld := ⟨1, 1⟩
def F.CXL_IDE_REQUIRED : Fld := ⟨2, 1⟩

/-- CXL_BISNP_COUNT (Table 21.7). -/
def Reg.CXL_BISNP_COUNT : Nat := 0x110018
def F.CXL_BISNP_COUNT_COUNT : Fld := ⟨0, 48⟩
def F.CXL_BISNP_COUNT_OVF : Fld := ⟨48, 1⟩

/-- CXL_ATS_FAULTS (Table 21.7). -/
def Reg.CXL_ATS_FAULTS : Nat := 0x110020
def F.CXL_ATS_FAULTS_COUNT : Fld := ⟨0, 32⟩
def F.CXL_ATS_FAULTS_OVF : Fld := ⟨32, 1⟩

/-- CXL_POISON_RX (Table 21.7). -/
def Reg.CXL_POISON_RX : Nat := 0x110028
def F.CXL_POISON_RX_COUNT : Fld := ⟨0, 32⟩
def F.CXL_POISON_RX_OVF : Fld := ⟨32, 1⟩

/-- CXL_WRITE_RETRY (Table 21.7). -/
def Reg.CXL_WRITE_RETRY : Nat := 0x110030
def F.CXL_WRITE_RETRY_COUNT : Fld := ⟨0, 32⟩
def F.CXL_WRITE_RETRY_OVF : Fld := ⟨32, 1⟩

/-- SEC_STATUS (Table 22.7). -/
def Reg.SEC_STATUS : Nat := 0x1e0000
def F.SEC_STATUS_STAGE : Fld := ⟨0, 2⟩
def F.SEC_STATUS_SLOT : Fld := ⟨2, 1⟩
def F.SEC_STATUS_FALLBACK : Fld := ⟨3, 1⟩
def F.SEC_STATUS_IDENTITY_OK : Fld := ⟨4, 1⟩
def F.SEC_STATUS_REPAIR_OK : Fld := ⟨5, 1⟩
def F.SEC_STATUS_FIELD_OK : Fld := ⟨6, 1⟩
def F.SEC_STATUS_REASON : Fld := ⟨8, 8⟩

/-- SEC_FW_VERSION (Table 22.7). -/
def Reg.SEC_FW_VERSION : Nat := 0x1e0008
def F.SEC_FW_VERSION_VERSION : Fld := ⟨0, 64⟩

/-- SEC_FW_INFO (Table 22.7). -/
def Reg.SEC_FW_INFO : Nat := 0x1e0010
def F.SEC_FW_INFO_SVN : Fld := ⟨0, 32⟩
def F.SEC_FW_INFO_KEY_INDEX : Fld := ⟨32, 2⟩
def F.SEC_FW_INFO_INTERFACE : Fld := ⟨48, 16⟩

/-- SEC_FW_CMD (Table 22.7). -/
def Reg.SEC_FW_CMD : Nat := 0x1e0018
def F.SEC_FW_CMD_CMD : Fld := ⟨0, 3⟩
def F.SEC_FW_CMD_TILES : Fld := ⟨8, 6⟩

/-- SEC_FW_SRC (Table 22.7). -/
def Reg.SEC_FW_SRC : Nat := 0x1e0020
def F.SEC_FW_SRC_ADDR : Fld := ⟨6, 58⟩

/-- SEC_FW_LEN (Table 22.7). -/
def Reg.SEC_FW_LEN : Nat := 0x1e0028
def F.SEC_FW_LEN_LEN : Fld := ⟨0, 24⟩

/-- SEC_FW_RESULT (Table 22.7). -/
def Reg.SEC_FW_RESULT : Nat := 0x1e0030
def F.SEC_FW_RESULT_STATE : Fld := ⟨0, 3⟩
def F.SEC_FW_RESULT_REASON : Fld := ⟨8, 8⟩
def F.SEC_FW_RESULT_TILES_DONE : Fld := ⟨16, 6⟩

/-- SEC_FIELD_CMD (Table 22.7). -/
def Reg.SEC_FIELD_CMD : Nat := 0x1e0038
def F.SEC_FIELD_CMD_CMD : Fld := ⟨0, 2⟩

/-- SEC_ROM (Table 22.7). -/
def Reg.SEC_ROM : Nat := 0x1e0040
def F.SEC_ROM_VERSION : Fld := ⟨0, 64⟩

/-- PWR_VIN (Table 23.12). -/
def Reg.PWR_VIN : Nat := 0x1f0000
def F.PWR_VIN_VOLT : Fld := ⟨0, 16⟩
def F.PWR_VIN_CURR : Fld := ⟨16, 16⟩
def F.PWR_VIN_POWER : Fld := ⟨32, 16⟩

/-- PWR_STATUS (Table 23.12). -/
def Reg.PWR_STATUS : Nat := 0x1f0008
def F.PWR_STATUS_SUPPLY : Fld := ⟨0, 2⟩
def F.PWR_STATUS_PAUSED : Fld := ⟨2, 6⟩
def F.PWR_STATUS_OC_EMERG : Fld := ⟨8, 1⟩
def F.PWR_STATUS_THERM_EMERG : Fld := ⟨9, 1⟩
def F.PWR_STATUS_VIN_LOW : Fld := ⟨10, 1⟩
def F.PWR_STATUS_BALLAST : Fld := ⟨16, 16⟩

/-- PWR_EXCESS (Table 23.12). -/
def Reg.PWR_EXCESS : Nat := 0x1f0010
def F.PWR_EXCESS_BUCKET : Fld := ⟨0, 32⟩

/-- PWR_TEMP (Table 23.12). -/
def Reg.PWR_TEMP (t : Nat) : Nat := 0x1f0100 + 0x8 * t
def F.PWR_TEMP_LOGIC : Fld := ⟨0, 16⟩
def F.PWR_TEMP_DRAM_MAX : Fld := ⟨16, 16⟩
def F.PWR_TEMP_SNAP : Fld := ⟨32, 16⟩
def F.PWR_TEMP_STACK : Fld := ⟨48, 2⟩

/-- PWR_ENERGY (Table 23.12). -/
def Reg.PWR_ENERGY (t : Nat) : Nat := 0x1f0140 + 0x8 * t
def F.PWR_ENERGY_LAST : Fld := ⟨0, 32⟩
def F.PWR_ENERGY_PLAN : Fld := ⟨32, 32⟩

/-- PWR_STRETCH_COUNT (Table 23.12). -/
def Reg.PWR_STRETCH_COUNT (t : Nat) : Nat := 0x1f0180 + 0x8 * t
def F.PWR_STRETCH_COUNT_COUNT : Fld := ⟨0, 32⟩
def F.PWR_STRETCH_COUNT_OVF : Fld := ⟨32, 1⟩

/-- PWR_PLAN_OVER (Table 23.12). -/
def Reg.PWR_PLAN_OVER (t : Nat) : Nat := 0x1f01c0 + 0x8 * t
def F.PWR_PLAN_OVER_COUNT : Fld := ⟨0, 32⟩
def F.PWR_PLAN_OVER_OVF : Fld := ⟨32, 1⟩

/-- PWR_STEP_EXCESS (Table 23.12). -/
def Reg.PWR_STEP_EXCESS : Nat := 0x1f0200
def F.PWR_STEP_EXCESS_COUNT : Fld := ⟨0, 32⟩
def F.PWR_STEP_EXCESS_OVF : Fld := ⟨32, 1⟩

/-- BRAID_GATE_CMD (Table 15.11). -/
def Reg.BRAID_GATE_CMD (b : Nat) : Nat := 0x241010 + 0x1000 * b
def F.BRAID_GATE_CMD_CMD : Fld := ⟨0, 2⟩

/-- BRAID_GATE_STATUS (Table 15.11). -/
def Reg.BRAID_GATE_STATUS (b : Nat) : Nat := 0x241018 + 0x1000 * b
def F.BRAID_GATE_STATUS_OPER_BANK : Fld := ⟨0, 1⟩
def F.BRAID_GATE_STATUS_PENDING : Fld := ⟨1, 1⟩
def F.BRAID_GATE_STATUS_OPER_N : Fld := ⟨2, 9⟩

/-- BRAID_GATE_ADMIN_BASE_SEC (Table 15.11). -/
def Reg.BRAID_GATE_ADMIN_BASE_SEC (b : Nat) : Nat := 0x241020 + 0x1000 * b
def F.BRAID_GATE_ADMIN_BASE_SEC_SEC : Fld := ⟨0, 48⟩

/-- BRAID_GATE_ADMIN_TIME (Table 15.11). -/
def Reg.BRAID_GATE_ADMIN_TIME (b : Nat) : Nat := 0x241028 + 0x1000 * b
def F.BRAID_GATE_ADMIN_TIME_BASE_NS : Fld := ⟨0, 32⟩
def F.BRAID_GATE_ADMIN_TIME_CYCLE : Fld := ⟨32, 32⟩

/-- BRAID_GATE_ADMIN_N (Table 15.11). -/
def Reg.BRAID_GATE_ADMIN_N (b : Nat) : Nat := 0x241030 + 0x1000 * b
def F.BRAID_GATE_ADMIN_N_N : Fld := ⟨0, 9⟩

/-- BRAID_GATE_TAKEOVER_SEC (Table 15.11). -/
def Reg.BRAID_GATE_TAKEOVER_SEC (b : Nat) : Nat := 0x241038 + 0x1000 * b
def F.BRAID_GATE_TAKEOVER_SEC_SEC : Fld := ⟨0, 48⟩

/-- BRAID_GATE_TAKEOVER_NS (Table 15.11). -/
def Reg.BRAID_GATE_TAKEOVER_NS (b : Nat) : Nat := 0x241040 + 0x1000 * b
def F.BRAID_GATE_TAKEOVER_NS_NS : Fld := ⟨0, 32⟩

/-- BRAID_HIST_SNAP (Table 15.11). -/
def Reg.BRAID_HIST_SNAP (b : Nat) : Nat := 0x241048 + 0x1000 * b
def F.BRAID_HIST_SNAP_SNAP : Fld := ⟨0, 1⟩

/-- BRAID_QUEUE (Table 15.11). -/
def Reg.BRAID_QUEUE (b q : Nat) : Nat := 0x241100 + 0x1000 * b + 0x20 * q
def F.BRAID_QUEUE_CREDIT : Fld := ⟨0, 32⟩
def F.BRAID_QUEUE_DEPTH : Fld := ⟨32, 24⟩

/-- BRAID_QUEUE_CFG (Table 15.11). -/
def Reg.BRAID_QUEUE_CFG (b q : Nat) : Nat := 0x241108 + 0x1000 * b + 0x20 * q
def F.BRAID_QUEUE_CFG_IDLE_SLOPE : Fld := ⟨0, 32⟩
def F.BRAID_QUEUE_CFG_AGE_LIMIT : Fld := ⟨32, 32⟩

/-- BRAID_QUEUE_MAX (Table 15.11). -/
def Reg.BRAID_QUEUE_MAX (b q : Nat) : Nat := 0x241110 + 0x1000 * b + 0x20 * q
def F.BRAID_QUEUE_MAX_MAX_DEPTH : Fld := ⟨0, 24⟩
def F.BRAID_QUEUE_MAX_MAX_DELAY : Fld := ⟨24, 32⟩

/-- BRAID_HIST_DEPTH (Table 15.11). -/
def Reg.BRAID_HIST_DEPTH (b q k : Nat) : Nat := 0x241400 + 0x1000 * b + 0x100 * q + 0x8 * k
def F.BRAID_HIST_DEPTH_COUNT : Fld := ⟨0, 32⟩
def F.BRAID_HIST_DEPTH_OVF : Fld := ⟨32, 1⟩

/-- BRAID_HIST_DELAY (Table 15.11). -/
def Reg.BRAID_HIST_DELAY (b q k : Nat) : Nat := 0x241480 + 0x1000 * b + 0x100 * q + 0x8 * k
def F.BRAID_HIST_DELAY_COUNT : Fld := ⟨0, 32⟩
def F.BRAID_HIST_DELAY_OVF : Fld := ⟨32, 1⟩

/-- BRAID_GATE_STORE (Table 15.11). -/
def Reg.BRAID_GATE_STORE (b b2 e : Nat) : Nat := 0x250000 + 0x1000 * b + 0x800 * b2 + 0x8 * e
def F.BRAID_GATE_STORE_ENTRY : Fld := ⟨0, 64⟩

/-- BRAID_ALIAS (Table 15.11). -/
def Reg.BRAID_ALIAS (j : Nat) : Nat := 0x258000 + 0x8 * j
def F.BRAID_ALIAS_ENTRY0 : Fld := ⟨0, 16⟩
def F.BRAID_ALIAS_ENTRY1 : Fld := ⟨16, 16⟩
def F.BRAID_ALIAS_ENTRY2 : Fld := ⟨32, 16⟩
def F.BRAID_ALIAS_ENTRY3 : Fld := ⟨48, 16⟩

/-- TICK_MAP (Table 02.11). -/
def Reg.TICK_MAP (t j : Nat) : Nat := 0x201000 + 0x1000 * t + 0x8 * j
def F.TICK_MAP_ENTRY0 : Fld := ⟨0, 32⟩
def F.TICK_MAP_ENTRY1 : Fld := ⟨32, 32⟩

/-- TICK_SEL (Table 02.11). -/
def Reg.TICK_SEL (t j : Nat) : Nat := 0x208000 + 0x2000 * t + 0x8 * j
def F.TICK_SEL_MAP_SEL0 : Fld := ⟨0, 8⟩
def F.TICK_SEL_MAP_SEL1 : Fld := ⟨8, 8⟩
def F.TICK_SEL_MAP_SEL2 : Fld := ⟨16, 8⟩
def F.TICK_SEL_MAP_SEL3 : Fld := ⟨24, 8⟩
def F.TICK_SEL_MAP_SEL4 : Fld := ⟨32, 8⟩
def F.TICK_SEL_MAP_SEL5 : Fld := ⟨40, 8⟩
def F.TICK_SEL_MAP_SEL6 : Fld := ⟨48, 8⟩
def F.TICK_SEL_MAP_SEL7 : Fld := ⟨56, 8⟩

/-- DEVICE_EV_RING (Table 17.11 (device ring)). -/
def Reg.DEVICE_EV_RING : Nat := 0x142028
def F.DEVICE_EV_RING_LOG2 : Fld := ⟨0, 5⟩
def F.DEVICE_EV_RING_ADDR : Fld := ⟨12, 52⟩

/-- DEVICE_EV_PTR (Table 17.11 (device ring)). -/
def Reg.DEVICE_EV_PTR : Nat := 0x142030
def F.DEVICE_EV_PTR_TAIL : Fld := ⟨0, 32⟩
def F.DEVICE_EV_PTR_HEAD : Fld := ⟨32, 32⟩

/-- DEVICE_EV_DISCARD (Table 17.11 (device ring)). -/
def Reg.DEVICE_EV_DISCARD : Nat := 0x142038
def F.DEVICE_EV_DISCARD_COUNT : Fld := ⟨0, 32⟩
def F.DEVICE_EV_DISCARD_OVF : Fld := ⟨32, 1⟩

/-- Registers of the Sys chapter. -/
def regRowsSys : List RegRow := [
  ⟨"SYS_IDENT", 0x100000, [], [],
    [⟨F.SYS_IDENT_PART, .ro, 37952⟩, ⟨F.SYS_IDENT_FAMILY, .ro, 1⟩, ⟨F.SYS_IDENT_STEP_MAJOR, .ro, 1⟩, ⟨F.SYS_IDENT_STEP_MINOR, .ro, 0⟩, ⟨F.SYS_IDENT_TILES_BUILT, .ro, 6⟩, ⟨F.SYS_IDENT_KNEAD_BUILT, .ro, 17⟩, ⟨F.SYS_IDENT_SIGNAL_BUILT, .ro, 8⟩]⟩,
  ⟨"SYS_RESET_REQ", 0x100008, [], [.power, .device],
    [⟨F.SYS_RESET_REQ_KIND, .wo, 0⟩, ⟨F.SYS_RESET_REQ_TILE, .wo, 0⟩, ⟨F.SYS_RESET_REQ_UNIT, .wo, 0⟩]⟩,
  ⟨"SYS_RESET_STATUS", 0x100010, [], [.power, .device],
    [⟨F.SYS_RESET_STATUS_PENDING, .ro, 0⟩, ⟨F.SYS_RESET_STATUS_RESULT, .ro, 0⟩]⟩]

/-- Registers of the Tick chapter. -/
def regRowsTick : List RegRow := [
  ⟨"TICK_CFG", 0x200000, [], [.power, .device],
    [⟨F.TICK_CFG_PERIOD, .rwl, 1⟩, ⟨F.TICK_CFG_BOUNDARY_LEN, .rwl, 3125⟩, ⟨F.TICK_CFG_STRETCH_GROUP, .rwl, 0⟩]⟩,
  ⟨"TICK_NOW", 0x200008, [], [.power],
    [⟨F.TICK_NOW_TICK, .ro, 0⟩]⟩,
  ⟨"TICK_TILE_STATUS", 0x200100, [(6, 0x20)], [.power, .device, .tile],
    [⟨F.TICK_TILE_STATUS_LAG, .ro, 0⟩, ⟨F.TICK_TILE_STATUS_PAUSED, .ro, 0⟩, ⟨F.TICK_TILE_STATUS_SKIP_COUNT, .rc, 0⟩, ⟨F.TICK_TILE_STATUS_SKIP_OVF, .rc, 0⟩, ⟨F.TICK_TILE_STATUS_MAX_LAG, .rc, 0⟩]⟩,
  ⟨"TICK_TILE_LATE", 0x200108, [(6, 0x20)], [.power, .device, .tile],
    [⟨F.TICK_TILE_LATE_LATE_COUNT, .rc, 0⟩, ⟨F.TICK_TILE_LATE_LATE_OVF, .rc, 0⟩]⟩,
  ⟨"TICK_PLAN_COMMIT", 0x200110, [(6, 0x20)], [.power, .device, .tile],
    [⟨F.TICK_PLAN_COMMIT_COMMIT, .wo, 0⟩]⟩,
  ⟨"TICK_TRIM", 0x207000, [(6, 0x200), (64, 0x8)], [.power, .device, .tile],
    [⟨F.TICK_TRIM_LEN_ACTIVE, .ro, 0⟩, ⟨F.TICK_TRIM_LEN_NEXT, .rw, 0⟩]⟩,
  ⟨"TICK_MAP", 0x201000, [(6, 0x1000), (512, 0x8)], [.power, .device, .tile],
    [⟨F.TICK_MAP_ENTRY0, .rwl, 0⟩, ⟨F.TICK_MAP_ENTRY1, .rwl, 0⟩]⟩,
  ⟨"TICK_SEL", 0x208000, [(6, 0x2000), (1024, 0x8)], [.power, .device, .tile],
    [⟨F.TICK_SEL_MAP_SEL0, .rwl, 255⟩, ⟨F.TICK_SEL_MAP_SEL1, .rwl, 255⟩, ⟨F.TICK_SEL_MAP_SEL2, .rwl, 255⟩, ⟨F.TICK_SEL_MAP_SEL3, .rwl, 255⟩, ⟨F.TICK_SEL_MAP_SEL4, .rwl, 255⟩, ⟨F.TICK_SEL_MAP_SEL5, .rwl, 255⟩, ⟨F.TICK_SEL_MAP_SEL6, .rwl, 255⟩, ⟨F.TICK_SEL_MAP_SEL7, .rwl, 255⟩]⟩]

/-- Registers of the Recipe chapter. -/
def regRowsRecipe : List RegRow := [
  ⟨"RECIPE_CTRL", 0x120000, [], [.power, .device],
    [⟨F.RECIPE_CTRL_CMD, .wo, 0⟩, ⟨F.RECIPE_CTRL_PERSIST, .wo, 0⟩]⟩,
  ⟨"RECIPE_SRC", 0x120008, [], [.power, .device],
    [⟨F.RECIPE_SRC_ADDR, .rw, 0⟩]⟩,
  ⟨"RECIPE_SRC_LEN", 0x120010, [], [.power, .device],
    [⟨F.RECIPE_SRC_LEN_LEN, .rw, 0⟩]⟩,
  ⟨"RECIPE_ACT_TICK", 0x120018, [], [.power, .device],
    [⟨F.RECIPE_ACT_TICK_TICK, .rw, 0⟩]⟩,
  ⟨"RECIPE_STATUS", 0x120020, [], [.power, .device],
    [⟨F.RECIPE_STATUS_ACTIVE, .ro, 0⟩, ⟨F.RECIPE_STATUS_LOCK_OPEN, .ro, 0⟩, ⟨F.RECIPE_STATUS_CHECKING, .ro, 0⟩, ⟨F.RECIPE_STATUS_STAGED, .ro, 0⟩, ⟨F.RECIPE_STATUS_PERSIST_PENDING, .ro, 0⟩, ⟨F.RECIPE_STATUS_SLOT, .ro, 0⟩, ⟨F.RECIPE_STATUS_LAST_REASON, .ro, 0⟩]⟩,
  ⟨"RECIPE_ACTIVE_ID", 0x120028, [], [.power, .device],
    [⟨F.RECIPE_ACTIVE_ID_ID, .ro, 0⟩]⟩,
  ⟨"RECIPE_EFF_DIGEST", 0x120030, [(4, 0x8)], [.power, .device],
    [⟨F.RECIPE_EFF_DIGEST_DIGEST, .ro, 0⟩]⟩,
  ⟨"RECIPE_AMEND_COUNT", 0x120050, [], [.power, .device],
    [⟨F.RECIPE_AMEND_COUNT_COUNT, .ro, 0⟩, ⟨F.RECIPE_AMEND_COUNT_OVF, .ro, 0⟩]⟩,
  ⟨"RECIPE_LOCKED_WRITES", 0x120058, [], [.power, .device],
    [⟨F.RECIPE_LOCKED_WRITES_COUNT, .rc, 0⟩, ⟨F.RECIPE_LOCKED_WRITES_OVF, .rc, 0⟩]⟩]

/-- Registers of the Knead chapter. -/
def regRowsKnead1 : List RegRow := [
  ⟨"KNEAD_TILE_NONFINITE", 0x300400, [(6, 0x20000), (17, 0x1000)], [.power, .device, .tile, .core],
    [⟨F.KNEAD_TILE_NONFINITE_VALID, .w1c, 0⟩, ⟨F.KNEAD_TILE_NONFINITE_CAUSE, .ro, 0⟩, ⟨F.KNEAD_TILE_NONFINITE_MORE, .ro, 0⟩, ⟨F.KNEAD_TILE_NONFINITE_SOURCE, .ro, 0⟩, ⟨F.KNEAD_TILE_NONFINITE_ROW, .ro, 0⟩, ⟨F.KNEAD_TILE_NONFINITE_COL, .ro, 0⟩, ⟨F.KNEAD_TILE_NONFINITE_TILE_ID, .ro, 0⟩, ⟨F.KNEAD_TILE_NONFINITE_ROW_HI, .ro, 0⟩]⟩,
  ⟨"KNEAD_TILE_NONFINITE_LOAF", 0x300408, [(6, 0x20000), (17, 0x1000)], [.power, .device, .tile, .core],
    [⟨F.KNEAD_TILE_NONFINITE_LOAF_LOAF, .ro, 0⟩, ⟨F.KNEAD_TILE_NONFINITE_LOAF_SLICE, .ro, 0⟩]⟩,
  ⟨"KNEAD_SATURATE_COUNT", 0x300410, [(6, 0x20000), (17, 0x1000)], [.power, .device, .tile, .core],
    [⟨F.KNEAD_SATURATE_COUNT_COUNT, .rc, 0⟩, ⟨F.KNEAD_SATURATE_COUNT_OVF, .rc, 0⟩]⟩,
  ⟨"KNEAD_VANISHED_ELEMENT_COUNT", 0x300418, [(6, 0x20000), (17, 0x1000)], [.power, .device, .tile, .core],
    [⟨F.KNEAD_VANISHED_ELEMENT_COUNT_COUNT, .rc, 0⟩, ⟨F.KNEAD_VANISHED_ELEMENT_COUNT_OVF, .rc, 0⟩]⟩,
  ⟨"KNEAD_SCALE_UNDERFLOW_COUNT", 0x300420, [(6, 0x20000), (17, 0x1000)], [.power, .device, .tile, .core],
    [⟨F.KNEAD_SCALE_UNDERFLOW_COUNT_COUNT, .rc, 0⟩, ⟨F.KNEAD_SCALE_UNDERFLOW_COUNT_OVF, .rc, 0⟩]⟩,
  ⟨"KNEAD_ARRAY_STATE", 0x300500, [(6, 0x20000), (17, 0x1000), (4, 0x8)], [.power, .device, .tile, .core],
    [⟨F.KNEAD_ARRAY_STATE_STATE, .ro, 0⟩, ⟨F.KNEAD_ARRAY_STATE_GANG, .ro, 0⟩, ⟨F.KNEAD_ARRAY_STATE_DESC_ID, .ro, 0⟩, ⟨F.KNEAD_ARRAY_STATE_KPOS, .ro, 0⟩, ⟨F.KNEAD_ARRAY_STATE_TILE_ID, .ro, 0⟩, ⟨F.KNEAD_ARRAY_STATE_SLICE, .ro, 0⟩]⟩,
  ⟨"KNEAD_PASS_COUNT", 0x300520, [(6, 0x20000), (17, 0x1000)], [.power, .device, .tile, .core],
    [⟨F.KNEAD_PASS_COUNT_COUNT, .ro, 0⟩, ⟨F.KNEAD_PASS_COUNT_OVF, .ro, 0⟩]⟩,
  ⟨"KNEAD_DESC_ERROR", 0x300528, [(6, 0x20000), (17, 0x1000)], [.power, .device, .tile, .core],
    [⟨F.KNEAD_DESC_ERROR_VALID, .w1c, 0⟩, ⟨F.KNEAD_DESC_ERROR_MORE, .ro, 0⟩, ⟨F.KNEAD_DESC_ERROR_REASON, .ro, 0⟩, ⟨F.KNEAD_DESC_ERROR_DESC_ID, .ro, 0⟩, ⟨F.KNEAD_DESC_ERROR_LOAF, .ro, 0⟩, ⟨F.KNEAD_DESC_ERROR_SLICE, .ro, 0⟩]⟩,
  ⟨"KNEAD_CORE_CFG", 0x300000, [(6, 0x20000), (17, 0x1000)], [.power, .device, .tile, .core],
    [⟨F.KNEAD_CORE_CFG_LOGICAL, .ro, 0⟩, ⟨F.KNEAD_CORE_CFG_ENABLED, .ro, 0⟩, ⟨F.KNEAD_CORE_CFG_RADIO, .ro, 0⟩, ⟨F.KNEAD_CORE_CFG_PHYSICAL, .ro, 0⟩]⟩,
  ⟨"KNEAD_CORE_STATUS", 0x300008, [(6, 0x20000), (17, 0x1000)], [.power, .device, .tile, .core],
    [⟨F.KNEAD_CORE_STATUS_STATE, .ro, 0⟩, ⟨F.KNEAD_CORE_STATUS_PC, .ro, 0⟩, ⟨F.KNEAD_CORE_STATUS_LOCAL, .ro, 0⟩, ⟨F.KNEAD_CORE_STATUS_PASS_Q, .ro, 0⟩, ⟨F.KNEAD_CORE_STATUS_DMA_Q, .ro, 0⟩]⟩,
  ⟨"KNEAD_CONTEXT", 0x300010, [(6, 0x20000), (17, 0x1000)], [.power, .device, .tile, .core],
    [⟨F.KNEAD_CONTEXT_BENCH_LO, .rw, 0⟩, ⟨F.KNEAD_CONTEXT_BENCH_HI, .rw, 0⟩, ⟨F.KNEAD_CONTEXT_SLICE, .rw, 0⟩, ⟨F.KNEAD_CONTEXT_CTR_LO, .rw, 0⟩, ⟨F.KNEAD_CONTEXT_CTR_N, .rw, 0⟩]⟩,
  ⟨"KNEAD_LOAF", 0x300018, [(6, 0x20000), (17, 0x1000)], [.power, .device, .tile, .core],
    [⟨F.KNEAD_LOAF_LOAF, .ro, 0⟩]⟩]

/-- Registers of the Knead chapter, continued. -/
def regRowsKnead2 : List RegRow := [
  ⟨"KNEAD_SEQ_ERROR", 0x300020, [(6, 0x20000), (17, 0x1000)], [.power, .device, .tile, .core],
    [⟨F.KNEAD_SEQ_ERROR_VALID, .w1c, 0⟩, ⟨F.KNEAD_SEQ_ERROR_MORE, .ro, 0⟩, ⟨F.KNEAD_SEQ_ERROR_REASON, .ro, 0⟩, ⟨F.KNEAD_SEQ_ERROR_PC, .ro, 0⟩, ⟨F.KNEAD_SEQ_ERROR_LOAF, .ro, 0⟩, ⟨F.KNEAD_SEQ_ERROR_SLICE, .ro, 0⟩]⟩,
  ⟨"KNEAD_DMA_ERROR", 0x300028, [(6, 0x20000), (17, 0x1000)], [.power, .device, .tile, .core],
    [⟨F.KNEAD_DMA_ERROR_VALID, .w1c, 0⟩, ⟨F.KNEAD_DMA_ERROR_MORE, .ro, 0⟩, ⟨F.KNEAD_DMA_ERROR_REASON, .ro, 0⟩, ⟨F.KNEAD_DMA_ERROR_INDEX, .ro, 0⟩, ⟨F.KNEAD_DMA_ERROR_LOAF, .ro, 0⟩, ⟨F.KNEAD_DMA_ERROR_SLICE, .ro, 0⟩]⟩,
  ⟨"KNEAD_LOAF_COUNT", 0x300030, [(6, 0x20000), (17, 0x1000)], [.power, .device, .tile, .core],
    [⟨F.KNEAD_LOAF_COUNT_COUNT, .ro, 0⟩, ⟨F.KNEAD_LOAF_COUNT_OVF, .ro, 0⟩]⟩,
  ⟨"KNEAD_CONTEXT_ID", 0x300038, [(6, 0x20000), (17, 0x1000)], [.power, .device, .tile, .core],
    [⟨F.KNEAD_CONTEXT_ID_CTX_ID, .rw, 0⟩]⟩,
  ⟨"KNEAD_STEP", 0x300600, [(6, 0x20000), (17, 0x1000)], [.power, .device, .tile, .core],
    [⟨F.KNEAD_STEP_STEP, .rw, 0⟩]⟩,
  ⟨"KNEAD_SEED", 0x300608, [(6, 0x20000), (17, 0x1000), (4, 0x8)], [.power, .device, .tile, .core],
    [⟨F.KNEAD_SEED_SEED, .rw, 0⟩]⟩,
  ⟨"KNEAD_STREAM", 0x300628, [(6, 0x20000), (17, 0x1000)], [.power, .device, .tile, .core],
    [⟨F.KNEAD_STREAM_STREAM, .rw, 0⟩]⟩]

/-- Registers of the Knead chapter. -/
def regRowsKnead : List RegRow := regRowsKnead1 ++ regRowsKnead2

/-- Registers of the Sieve chapter. -/
def regRowsSieve : List RegRow := [
  ⟨"SIEVE_CONTEXT", 0x2c0000, [(6, 0x2000), (32, 0x100)], [.power, .device, .tile],
    [⟨F.SIEVE_CONTEXT_BENCH_LO, .rw, 0⟩, ⟨F.SIEVE_CONTEXT_BENCH_HI, .rw, 0⟩, ⟨F.SIEVE_CONTEXT_SLICE, .rw, 0⟩, ⟨F.SIEVE_CONTEXT_CTR_LO, .rw, 0⟩, ⟨F.SIEVE_CONTEXT_CTR_N, .rw, 0⟩]⟩,
  ⟨"SIEVE_STATUS", 0x2c0008, [(6, 0x2000), (32, 0x100)], [.power, .device, .tile],
    [⟨F.SIEVE_STATUS_STATE, .ro, 0⟩, ⟨F.SIEVE_STATUS_JOB, .ro, 0⟩, ⟨F.SIEVE_STATUS_LOCAL, .ro, 0⟩, ⟨F.SIEVE_STATUS_PAGE, .ro, 0⟩]⟩,
  ⟨"SIEVE_LOAF", 0x2c0010, [(6, 0x2000), (32, 0x100)], [.power, .device, .tile],
    [⟨F.SIEVE_LOAF_LOAF, .ro, 0⟩]⟩,
  ⟨"SIEVE_ERROR", 0x2c0018, [(6, 0x2000), (32, 0x100)], [.power, .device, .tile],
    [⟨F.SIEVE_ERROR_VALID, .w1c, 0⟩, ⟨F.SIEVE_ERROR_MORE, .ro, 0⟩, ⟨F.SIEVE_ERROR_REASON, .ro, 0⟩, ⟨F.SIEVE_ERROR_JOB, .ro, 0⟩, ⟨F.SIEVE_ERROR_PAGE, .ro, 0⟩, ⟨F.SIEVE_ERROR_JOB_ID, .ro, 0⟩]⟩,
  ⟨"SIEVE_ERROR_LOAF", 0x2c0020, [(6, 0x2000), (32, 0x100)], [.power, .device, .tile],
    [⟨F.SIEVE_ERROR_LOAF_LOAF, .ro, 0⟩, ⟨F.SIEVE_ERROR_LOAF_SLICE, .ro, 0⟩]⟩,
  ⟨"SIEVE_JOB_COUNT", 0x2c0028, [(6, 0x2000), (32, 0x100)], [.power, .device, .tile],
    [⟨F.SIEVE_JOB_COUNT_COUNT, .ro, 0⟩, ⟨F.SIEVE_JOB_COUNT_OVF, .ro, 0⟩]⟩,
  ⟨"SIEVE_LINES_READ", 0x2c0030, [(6, 0x2000), (32, 0x100)], [.power, .device, .tile],
    [⟨F.SIEVE_LINES_READ_COUNT, .ro, 0⟩, ⟨F.SIEVE_LINES_READ_OVF, .ro, 0⟩]⟩]

/-- Registers of the Tier chapter. -/
def regRowsTier : List RegRow := [
  ⟨"TIER_CMD_PUSH", 0x1c0000, [(6, 0x1000), (4, 0x8)], [.power, .device, .tile],
    [⟨F.TIER_CMD_PUSH_WORD, .wo, 0⟩]⟩,
  ⟨"TIER_STATUS", 0x1c0020, [(6, 0x1000)], [.power, .device, .tile],
    [⟨F.TIER_STATUS_QUEUED, .ro, 0⟩, ⟨F.TIER_STATUS_INT_BUSY, .ro, 0⟩, ⟨F.TIER_STATUS_EXT_BUSY, .ro, 0⟩]⟩,
  ⟨"TIER_DONE_HEAD", 0x1c0028, [(6, 0x1000)], [.power, .device, .tile],
    [⟨F.TIER_DONE_HEAD_HEAD, .ro, 0⟩]⟩,
  ⟨"TIER_FLAGS", 0x1c0100, [(6, 0x1000), (16, 0x8)], [.power, .device, .tile],
    [⟨F.TIER_FLAGS_FLAG, .w1c, 0⟩]⟩,
  ⟨"TIER_DEFER_COUNT", 0x1c0200, [(6, 0x1000)], [.power, .device, .tile],
    [⟨F.TIER_DEFER_COUNT_COUNT, .rc, 0⟩, ⟨F.TIER_DEFER_COUNT_OVF, .rc, 0⟩]⟩,
  ⟨"TIER_SPILL_COUNT", 0x1c0208, [(6, 0x1000)], [.power, .device, .tile],
    [⟨F.TIER_SPILL_COUNT_COUNT, .rc, 0⟩, ⟨F.TIER_SPILL_COUNT_OVF, .rc, 0⟩]⟩,
  ⟨"TIER_BYTES_MOVED", 0x1c0210, [(6, 0x1000)], [.power, .device, .tile],
    [⟨F.TIER_BYTES_MOVED_COUNT, .ro, 0⟩, ⟨F.TIER_BYTES_MOVED_OVF, .ro, 0⟩]⟩,
  ⟨"TIER_SLICE_USE", 0x1c0400, [(6, 0x1000), (64, 0x10)], [.power, .device, .tile, .slice],
    [⟨F.TIER_SLICE_USE_T0, .ro, 0⟩, ⟨F.TIER_SLICE_USE_T1, .ro, 0⟩]⟩,
  ⟨"TIER_SLICE_USE_T2", 0x1c0408, [(6, 0x1000), (64, 0x10)], [.power, .device, .tile, .slice],
    [⟨F.TIER_SLICE_USE_T2_T2, .ro, 0⟩]⟩]

/-- Registers of the Tray chapter. -/
def regRowsTray : List RegRow := [
  ⟨"TRAY_CFG", 0x1d0000, [(512, 0x40)], [.power, .device],
    [⟨F.TRAY_CFG_ENABLED, .rwl, 0⟩, ⟨F.TRAY_CFG_RING_SPACE, .rwl, 0⟩, ⟨F.TRAY_CFG_LOG2_ENTRIES, .rwl, 0⟩, ⟨F.TRAY_CFG_SLICE, .rwl, 0⟩, ⟨F.TRAY_CFG_HOME_TILE, .rwl, 0⟩, ⟨F.TRAY_CFG_VECTOR, .rwl, 0⟩]⟩,
  ⟨"TRAY_RING", 0x1d0008, [(512, 0x40)], [.power, .device],
    [⟨F.TRAY_RING_ADDR, .rwl, 0⟩]⟩,
  ⟨"TRAY_JOURNAL", 0x1d0010, [(512, 0x40)], [.power, .device],
    [⟨F.TRAY_JOURNAL_ADDR, .rwl, 0⟩]⟩,
  ⟨"TRAY_COMPLETION", 0x1d0018, [(512, 0x40)], [.power, .device],
    [⟨F.TRAY_COMPLETION_ADDR, .rwl, 0⟩]⟩,
  ⟨"TRAY_STATUS", 0x1d0020, [(512, 0x40)], [.power, .device],
    [⟨F.TRAY_STATUS_HALTED, .ro, 0⟩, ⟨F.TRAY_STATUS_ABORT_PENDING, .ro, 0⟩, ⟨F.TRAY_STATUS_ABORT_RESULT, .ro, 0⟩]⟩,
  ⟨"TRAY_NEXT_SEQ", 0x1d0028, [(512, 0x40)], [.power, .device],
    [⟨F.TRAY_NEXT_SEQ_SEQ, .ro, 0⟩]⟩,
  ⟨"TRAY_DONE_SEQ", 0x1d0030, [(512, 0x40)], [.power, .device],
    [⟨F.TRAY_DONE_SEQ_SEQ, .ro, 0⟩]⟩,
  ⟨"TRAY_ABORT", 0x1d0038, [(512, 0x40)], [.power, .device],
    [⟨F.TRAY_ABORT_SEQ, .wo, 0⟩]⟩,
  ⟨"SCHED_CFG", 0x180000, [(6, 0x100)], [.power, .device, .tile],
    [⟨F.SCHED_CFG_ACCEPT_MAX, .rwl, 64⟩, ⟨F.SCHED_CFG_RERUN_MAX, .rwl, 2⟩, ⟨F.SCHED_CFG_PREFILL_MAX, .rwl, 4⟩]⟩,
  ⟨"SCHED_CONTEXTS", 0x180008, [(6, 0x100)], [.power, .device, .tile],
    [⟨F.SCHED_CONTEXTS_RESIDENT, .ro, 0⟩, ⟨F.SCHED_CONTEXTS_SAVED, .ro, 0⟩]⟩,
  ⟨"SCHED_PREEMPT_COUNT", 0x180010, [(6, 0x100)], [.power, .device, .tile],
    [⟨F.SCHED_PREEMPT_COUNT_COUNT, .rc, 0⟩, ⟨F.SCHED_PREEMPT_COUNT_OVF, .rc, 0⟩]⟩,
  ⟨"SCHED_RERUN_COUNT", 0x180018, [(6, 0x100)], [.power, .device, .tile],
    [⟨F.SCHED_RERUN_COUNT_COUNT, .rc, 0⟩, ⟨F.SCHED_RERUN_COUNT_OVF, .rc, 0⟩]⟩]

/-- Registers of the Radio chapter. -/
def regRowsRadio1 : List RegRow := [
  ⟨"RADIO_REQ_RING", 0x190000, [(6, 0x100)], [.power, .device, .tile],
    [⟨F.RADIO_REQ_RING_LOG2, .rwl, 0⟩, ⟨F.RADIO_REQ_RING_ADDR, .rwl, 0⟩]⟩,
  ⟨"RADIO_REQ_DOORBELL", 0x190008, [(6, 0x100)], [.power, .device, .tile],
    [⟨F.RADIO_REQ_DOORBELL_REC, .wo, 0⟩]⟩,
  ⟨"RADIO_REQ_TAKEN", 0x190010, [(6, 0x100)], [.power, .device, .tile],
    [⟨F.RADIO_REQ_TAKEN_REC, .ro, 0⟩]⟩,
  ⟨"RADIO_IND_RING", 0x190018, [(6, 0x100)], [.power, .device, .tile],
    [⟨F.RADIO_IND_RING_LOG2, .rwl, 0⟩, ⟨F.RADIO_IND_RING_ADDR, .rwl, 0⟩]⟩,
  ⟨"RADIO_IND_TAIL", 0x190020, [(6, 0x100)], [.power, .device, .tile],
    [⟨F.RADIO_IND_TAIL_REC, .ro, 0⟩]⟩,
  ⟨"RADIO_IND_HEAD", 0x190028, [(6, 0x100)], [.power, .device, .tile],
    [⟨F.RADIO_IND_HEAD_REC, .rw, 0⟩]⟩,
  ⟨"RADIO_FH_LATE", 0x190040, [(6, 0x100)], [.power, .device, .tile],
    [⟨F.RADIO_FH_LATE_COUNT, .rc, 0⟩, ⟨F.RADIO_FH_LATE_OVF, .rc, 0⟩]⟩,
  ⟨"RADIO_FH_EARLY", 0x190048, [(6, 0x100)], [.power, .device, .tile],
    [⟨F.RADIO_FH_EARLY_COUNT, .rc, 0⟩, ⟨F.RADIO_FH_EARLY_OVF, .rc, 0⟩]⟩,
  ⟨"RADIO_FH_UNKNOWN", 0x190050, [(6, 0x100)], [.power, .device, .tile],
    [⟨F.RADIO_FH_UNKNOWN_COUNT, .rc, 0⟩, ⟨F.RADIO_FH_UNKNOWN_OVF, .rc, 0⟩]⟩,
  ⟨"RADIO_FH_DUP", 0x190058, [(6, 0x100)], [.power, .device, .tile],
    [⟨F.RADIO_FH_DUP_COUNT, .rc, 0⟩, ⟨F.RADIO_FH_DUP_OVF, .rc, 0⟩]⟩,
  ⟨"RADIO_PRB_ABSENT", 0x190060, [(6, 0x100)], [.power, .device, .tile],
    [⟨F.RADIO_PRB_ABSENT_COUNT, .rc, 0⟩, ⟨F.RADIO_PRB_ABSENT_OVF, .rc, 0⟩]⟩,
  ⟨"RADIO_FAPI_REFUSED", 0x190068, [(6, 0x100)], [.power, .device, .tile],
    [⟨F.RADIO_FAPI_REFUSED_COUNT, .rc, 0⟩, ⟨F.RADIO_FAPI_REFUSED_OVF, .rc, 0⟩]⟩]

/-- Registers of the Radio chapter, continued. -/
def regRowsRadio2 : List RegRow := [
  ⟨"RADIO_SLOTS_LOST", 0x190070, [(6, 0x100)], [.power, .device, .tile],
    [⟨F.RADIO_SLOTS_LOST_COUNT, .rc, 0⟩, ⟨F.RADIO_SLOTS_LOST_OVF, .rc, 0⟩]⟩,
  ⟨"RADIO_IND_DROPPED", 0x190078, [(6, 0x100)], [.power, .device, .tile],
    [⟨F.RADIO_IND_DROPPED_COUNT, .rc, 0⟩, ⟨F.RADIO_IND_DROPPED_OVF, .rc, 0⟩]⟩,
  ⟨"RADIO_CB_INTEGRITY", 0x190080, [(6, 0x100)], [.power, .device, .tile],
    [⟨F.RADIO_CB_INTEGRITY_COUNT, .rc, 0⟩, ⟨F.RADIO_CB_INTEGRITY_OVF, .rc, 0⟩]⟩,
  ⟨"RADIO_HARQ_MISS", 0x190088, [(6, 0x100)], [.power, .device, .tile],
    [⟨F.RADIO_HARQ_MISS_COUNT, .rc, 0⟩, ⟨F.RADIO_HARQ_MISS_OVF, .rc, 0⟩]⟩]

/-- Registers of the Radio chapter. -/
def regRowsRadio : List RegRow := regRowsRadio1 ++ regRowsRadio2

/-- Registers of the Sig chapter. -/
def regRowsSig : List RegRow := [
  ⟨"SIG_STATUS", 0x1b0000, [(6, 0x800), (8, 0x100)], [.power, .device, .tile, .core],
    [⟨F.SIG_STATUS_STATE, .ro, 0⟩, ⟨F.SIG_STATUS_PC, .ro, 0⟩, ⟨F.SIG_STATUS_LOCAL, .ro, 0⟩, ⟨F.SIG_STATUS_PENDING, .ro, 0⟩, ⟨F.SIG_STATUS_ROT_OFS, .ro, 0⟩]⟩,
  ⟨"SIG_LOAF", 0x1b0008, [(6, 0x800), (8, 0x100)], [.power, .device, .tile, .core],
    [⟨F.SIG_LOAF_LOAF, .ro, 0⟩]⟩,
  ⟨"SIG_ERROR", 0x1b0010, [(6, 0x800), (8, 0x100)], [.power, .device, .tile, .core],
    [⟨F.SIG_ERROR_VALID, .w1c, 0⟩, ⟨F.SIG_ERROR_MORE, .ro, 0⟩, ⟨F.SIG_ERROR_REASON, .ro, 0⟩, ⟨F.SIG_ERROR_PC, .ro, 0⟩, ⟨F.SIG_ERROR_LOAF, .ro, 0⟩, ⟨F.SIG_ERROR_XFER_REASON, .ro, 0⟩]⟩,
  ⟨"SIG_SATURATE_COUNT", 0x1b0018, [(6, 0x800), (8, 0x100)], [.power, .device, .tile, .core],
    [⟨F.SIG_SATURATE_COUNT_COUNT, .rc, 0⟩, ⟨F.SIG_SATURATE_COUNT_OVF, .rc, 0⟩]⟩,
  ⟨"SIG_LOAF_COUNT", 0x1b0020, [(6, 0x800), (8, 0x100)], [.power, .device, .tile, .core],
    [⟨F.SIG_LOAF_COUNT_COUNT, .ro, 0⟩, ⟨F.SIG_LOAF_COUNT_OVF, .ro, 0⟩]⟩,
  ⟨"SIG_IRQ_COUNT", 0x1b0028, [(6, 0x800), (8, 0x100)], [.power, .device, .tile, .core],
    [⟨F.SIG_IRQ_COUNT_COUNT, .rc, 0⟩, ⟨F.SIG_IRQ_COUNT_OVF, .rc, 0⟩]⟩]

/-- Registers of the Codec chapter. -/
def regRowsCodec : List RegRow := [
  ⟨"CODEC_STATUS", 0x1a0000, [(6, 0x400), (8, 0x80)], [.power, .device, .tile],
    [⟨F.CODEC_STATUS_STATE, .ro, 0⟩, ⟨F.CODEC_STATUS_DESC, .ro, 0⟩, ⟨F.CODEC_STATUS_LOCAL, .ro, 0⟩]⟩,
  ⟨"CODEC_LOAF", 0x1a0008, [(6, 0x400), (8, 0x80)], [.power, .device, .tile],
    [⟨F.CODEC_LOAF_LOAF, .ro, 0⟩]⟩,
  ⟨"CODEC_ERROR", 0x1a0010, [(6, 0x400), (8, 0x80)], [.power, .device, .tile],
    [⟨F.CODEC_ERROR_VALID, .w1c, 0⟩, ⟨F.CODEC_ERROR_MORE, .ro, 0⟩, ⟨F.CODEC_ERROR_REASON, .ro, 0⟩, ⟨F.CODEC_ERROR_DESC, .ro, 0⟩, ⟨F.CODEC_ERROR_LOAF, .ro, 0⟩]⟩,
  ⟨"CODEC_BLOCKS", 0x1a0018, [(6, 0x400), (8, 0x80)], [.power, .device, .tile],
    [⟨F.CODEC_BLOCKS_COUNT, .ro, 0⟩, ⟨F.CODEC_BLOCKS_OVF, .ro, 0⟩]⟩,
  ⟨"CODEC_CRC_FAIL", 0x1a0020, [(6, 0x400), (8, 0x80)], [.power, .device, .tile],
    [⟨F.CODEC_CRC_FAIL_COUNT, .rc, 0⟩, ⟨F.CODEC_CRC_FAIL_OVF, .rc, 0⟩]⟩,
  ⟨"CODEC_ITER_SKIPPED", 0x1a0028, [(6, 0x400), (8, 0x80)], [.power, .device, .tile],
    [⟨F.CODEC_ITER_SKIPPED_COUNT, .ro, 0⟩, ⟨F.CODEC_ITER_SKIPPED_OVF, .ro, 0⟩]⟩,
  ⟨"CODEC_DETECT", 0x1a0030, [(6, 0x400), (8, 0x80)], [.power, .device, .tile],
    [⟨F.CODEC_DETECT_COUNT, .rc, 0⟩, ⟨F.CODEC_DETECT_OVF, .rc, 0⟩]⟩]

/-- Registers of the Time chapter. -/
def regRowsTime1 : List RegRow := [
  ⟨"TIME_STATUS", 0x130000, [], [.power],
    [⟨F.TIME_STATUS_STATE, .ro, 0⟩, ⟨F.TIME_STATUS_PHASE_SRC, .ro, 0⟩, ⟨F.TIME_STATUS_PTP_PORT, .ro, 0⟩, ⟨F.TIME_STATUS_FREQ_SRC, .ro, 0⟩, ⟨F.TIME_STATUS_SYNCE_LANE, .ro, 0⟩, ⟨F.TIME_STATUS_CLOCK_CLASS, .ro, 248⟩, ⟨F.TIME_STATUS_UTC_OFFSET, .ro, 0⟩]⟩,
  ⟨"TIME_NOW_SEC", 0x130008, [], [.power],
    [⟨F.TIME_NOW_SEC_SEC, .ro, 0⟩]⟩,
  ⟨"TIME_NOW_NS", 0x130010, [], [.power],
    [⟨F.TIME_NOW_NS_NS, .ro, 0⟩, ⟨F.TIME_NOW_NS_FRAC, .ro, 0⟩]⟩,
  ⟨"TIME_OFFSET", 0x130018, [], [.power],
    [⟨F.TIME_OFFSET_OFFSET, .ro, 0⟩, ⟨F.TIME_OFFSET_PATH, .ro, 0⟩]⟩,
  ⟨"TIME_FREQ_ADJ", 0x130020, [], [.power],
    [⟨F.TIME_FREQ_ADJ_ADJ, .ro, 0⟩]⟩,
  ⟨"TIME_SET_SEC", 0x130028, [], [.power, .device],
    [⟨F.TIME_SET_SEC_SEC, .rw, 0⟩]⟩,
  ⟨"TIME_SET_NS", 0x130030, [], [.power, .device],
    [⟨F.TIME_SET_NS_NS, .rw, 0⟩]⟩,
  ⟨"TIME_CMD", 0x130038, [], [.power],
    [⟨F.TIME_CMD_STEP, .wo, 0⟩]⟩,
  ⟨"TIME_TOD", 0x130040, [], [.power, .device],
    [⟨F.TIME_TOD_SEC, .rw, 0⟩]⟩,
  ⟨"TIME_HOLDOVER_COUNT", 0x130048, [], [.power],
    [⟨F.TIME_HOLDOVER_COUNT_COUNT, .rc, 0⟩, ⟨F.TIME_HOLDOVER_COUNT_OVF, .rc, 0⟩]⟩,
  ⟨"TIME_PULSE_CTRL", 0x130100, [(4, 0x20)], [.power, .device],
    [⟨F.TIME_PULSE_CTRL_EN, .rw, 0⟩, ⟨F.TIME_PULSE_CTRL_POL, .rw, 0⟩]⟩,
  ⟨"TIME_PULSE_START_SEC", 0x130108, [(4, 0x20)], [.power, .device],
    [⟨F.TIME_PULSE_START_SEC_SEC, .rw, 0⟩]⟩]

/-- Registers of the Time chapter, continued. -/
def regRowsTime2 : List RegRow := [
  ⟨"TIME_PULSE_START_NS", 0x130110, [(4, 0x20)], [.power, .device],
    [⟨F.TIME_PULSE_START_NS_NS, .rw, 0⟩]⟩,
  ⟨"TIME_PULSE_SHAPE", 0x130118, [(4, 0x20)], [.power, .device],
    [⟨F.TIME_PULSE_SHAPE_PERIOD, .rw, 0⟩, ⟨F.TIME_PULSE_SHAPE_WIDTH, .rw, 0⟩]⟩,
  ⟨"TIME_CAPT_CTRL", 0x130200, [(4, 0x20)], [.power, .device],
    [⟨F.TIME_CAPT_CTRL_EN, .rw, 0⟩, ⟨F.TIME_CAPT_CTRL_EDGE, .rw, 0⟩, ⟨F.TIME_CAPT_CTRL_LEVEL, .ro, 0⟩]⟩,
  ⟨"TIME_CAPT_SEC", 0x130208, [(4, 0x20)], [.power, .device],
    [⟨F.TIME_CAPT_SEC_SEC, .rc, 0⟩, ⟨F.TIME_CAPT_SEC_VALID, .rc, 0⟩]⟩,
  ⟨"TIME_CAPT_NS", 0x130210, [(4, 0x20)], [.power, .device],
    [⟨F.TIME_CAPT_NS_NS, .ro, 0⟩, ⟨F.TIME_CAPT_NS_FRAC, .ro, 0⟩]⟩,
  ⟨"TIME_CAPT_DISCARD", 0x130218, [(4, 0x20)], [.power, .device],
    [⟨F.TIME_CAPT_DISCARD_COUNT, .rc, 0⟩, ⟨F.TIME_CAPT_DISCARD_OVF, .rc, 0⟩]⟩,
  ⟨"TIME_PORT", 0x130300, [(16, 0x8)], [.power, .device],
    [⟨F.TIME_PORT_ASYM, .rw, 0⟩, ⟨F.TIME_PORT_DESKEW, .ro, 0⟩]⟩]

/-- Registers of the Time chapter. -/
def regRowsTime : List RegRow := regRowsTime1 ++ regRowsTime2

/-- Registers of the Eth chapter. -/
def regRowsEth1 : List RegRow := [
  ⟨"ETH_PORT_CFG", 0x220000, [(16, 0x1000)], [.power, .device],
    [⟨F.ETH_PORT_CFG_EN, .rwl, 0⟩, ⟨F.ETH_PORT_CFG_LANES, .rwl, 0⟩, ⟨F.ETH_PORT_CFG_RATE, .ro, 0⟩, ⟨F.ETH_PORT_CFG_CM, .rwl, 0⟩, ⟨F.ETH_PORT_CFG_VLAN_TAG, .rwl, 0⟩, ⟨F.ETH_PORT_CFG_MTU, .rwl, 0⟩, ⟨F.ETH_PORT_CFG_VID, .rwl, 0⟩]⟩,
  ⟨"ETH_PORT_STATUS", 0x220008, [(16, 0x1000)], [.power, .device],
    [⟨F.ETH_PORT_STATUS_LINK, .ro, 0⟩, ⟨F.ETH_PORT_STATUS_LOS, .ro, 0⟩]⟩,
  ⟨"ETH_GATE_CMD", 0x220010, [(16, 0x1000)], [.power, .device],
    [⟨F.ETH_GATE_CMD_CMD, .wo, 0⟩]⟩,
  ⟨"ETH_GATE_STATUS", 0x220018, [(16, 0x1000)], [.power, .device],
    [⟨F.ETH_GATE_STATUS_OPER_BANK, .ro, 0⟩, ⟨F.ETH_GATE_STATUS_PENDING, .ro, 0⟩, ⟨F.ETH_GATE_STATUS_OPER_N, .ro, 0⟩]⟩,
  ⟨"ETH_GATE_ADMIN_BASE_SEC", 0x220020, [(16, 0x1000)], [.power, .device],
    [⟨F.ETH_GATE_ADMIN_BASE_SEC_SEC, .rw, 0⟩]⟩,
  ⟨"ETH_GATE_ADMIN_TIME", 0x220028, [(16, 0x1000)], [.power, .device],
    [⟨F.ETH_GATE_ADMIN_TIME_BASE_NS, .rw, 0⟩, ⟨F.ETH_GATE_ADMIN_TIME_CYCLE, .rw, 0⟩]⟩,
  ⟨"ETH_GATE_ADMIN_N", 0x220030, [(16, 0x1000)], [.power, .device],
    [⟨F.ETH_GATE_ADMIN_N_N, .rw, 0⟩]⟩,
  ⟨"ETH_GATE_TAKEOVER_SEC", 0x220038, [(16, 0x1000)], [.power, .device],
    [⟨F.ETH_GATE_TAKEOVER_SEC_SEC, .ro, 0⟩]⟩,
  ⟨"ETH_GATE_TAKEOVER_NS", 0x220040, [(16, 0x1000)], [.power, .device],
    [⟨F.ETH_GATE_TAKEOVER_NS_NS, .ro, 0⟩]⟩,
  ⟨"ETH_HIST_SNAP", 0x220048, [(16, 0x1000)], [.power, .device],
    [⟨F.ETH_HIST_SNAP_SNAP, .wo, 0⟩]⟩,
  ⟨"ETH_QUEUE", 0x220100, [(16, 0x1000), (8, 0x20)], [.power, .device],
    [⟨F.ETH_QUEUE_CREDIT, .ro, 0⟩, ⟨F.ETH_QUEUE_DEPTH, .ro, 0⟩]⟩,
  ⟨"ETH_QUEUE_CFG", 0x220108, [(16, 0x1000), (8, 0x20)], [.power, .device],
    [⟨F.ETH_QUEUE_CFG_IDLE_SLOPE, .rwl, 0⟩, ⟨F.ETH_QUEUE_CFG_AGE_LIMIT, .rwl, 0⟩]⟩]

/-- Registers of the Eth chapter, continued. -/
def regRowsEth2 : List RegRow := [
  ⟨"ETH_QUEUE_MAX", 0x220110, [(16, 0x1000), (8, 0x20)], [.power, .device],
    [⟨F.ETH_QUEUE_MAX_MAX_DEPTH, .rc, 0⟩, ⟨F.ETH_QUEUE_MAX_MAX_DELAY, .rc, 0⟩]⟩,
  ⟨"ETH_RX_FRAMES", 0x220200, [(16, 0x1000)], [.power, .device],
    [⟨F.ETH_RX_FRAMES_COUNT, .ro, 0⟩, ⟨F.ETH_RX_FRAMES_OVF, .ro, 0⟩]⟩,
  ⟨"ETH_RX_BYTES", 0x220208, [(16, 0x1000)], [.power, .device],
    [⟨F.ETH_RX_BYTES_COUNT, .ro, 0⟩, ⟨F.ETH_RX_BYTES_OVF, .ro, 0⟩]⟩,
  ⟨"ETH_TX_FRAMES", 0x220210, [(16, 0x1000)], [.power, .device],
    [⟨F.ETH_TX_FRAMES_COUNT, .ro, 0⟩, ⟨F.ETH_TX_FRAMES_OVF, .ro, 0⟩]⟩,
  ⟨"ETH_TX_BYTES", 0x220218, [(16, 0x1000)], [.power, .device],
    [⟨F.ETH_TX_BYTES_COUNT, .ro, 0⟩, ⟨F.ETH_TX_BYTES_OVF, .ro, 0⟩]⟩,
  ⟨"ETH_RX_FCS", 0x220220, [(16, 0x1000)], [.power, .device],
    [⟨F.ETH_RX_FCS_COUNT, .rc, 0⟩, ⟨F.ETH_RX_FCS_OVF, .rc, 0⟩]⟩,
  ⟨"ETH_RX_LENGTH", 0x220228, [(16, 0x1000)], [.power, .device],
    [⟨F.ETH_RX_LENGTH_COUNT, .rc, 0⟩, ⟨F.ETH_RX_LENGTH_OVF, .rc, 0⟩]⟩,
  ⟨"ETH_RX_OTHER", 0x220230, [(16, 0x1000)], [.power, .device],
    [⟨F.ETH_RX_OTHER_COUNT, .rc, 0⟩, ⟨F.ETH_RX_OTHER_OVF, .rc, 0⟩]⟩,
  ⟨"ETH_RX_LANDING_DROP", 0x220238, [(16, 0x1000)], [.power, .device],
    [⟨F.ETH_RX_LANDING_DROP_COUNT, .rc, 0⟩, ⟨F.ETH_RX_LANDING_DROP_OVF, .rc, 0⟩]⟩,
  ⟨"ETH_TX_QUEUE_DROP", 0x220240, [(16, 0x1000)], [.power, .device],
    [⟨F.ETH_TX_QUEUE_DROP_COUNT, .rc, 0⟩, ⟨F.ETH_TX_QUEUE_DROP_OVF, .rc, 0⟩]⟩,
  ⟨"ETH_TX_AGED", 0x220248, [(16, 0x1000)], [.power, .device],
    [⟨F.ETH_TX_AGED_COUNT, .rc, 0⟩, ⟨F.ETH_TX_AGED_OVF, .rc, 0⟩]⟩,
  ⟨"ETH_TX_LINK_DOWN", 0x220250, [(16, 0x1000)], [.power, .device],
    [⟨F.ETH_TX_LINK_DOWN_COUNT, .rc, 0⟩, ⟨F.ETH_TX_LINK_DOWN_OVF, .rc, 0⟩]⟩]

/-- Registers of the Eth chapter, continued. -/
def regRowsEth3 : List RegRow := [
  ⟨"ETH_LINK_DOWN_COUNT", 0x220258, [(16, 0x1000)], [.power, .device],
    [⟨F.ETH_LINK_DOWN_COUNT_COUNT, .rc, 0⟩, ⟨F.ETH_LINK_DOWN_COUNT_OVF, .rc, 0⟩]⟩,
  ⟨"ETH_HIST_DEPTH", 0x220400, [(16, 0x1000), (8, 0x100), (16, 0x8)], [.power, .device],
    [⟨F.ETH_HIST_DEPTH_COUNT, .ro, 0⟩, ⟨F.ETH_HIST_DEPTH_OVF, .ro, 0⟩]⟩,
  ⟨"ETH_HIST_DELAY", 0x220480, [(16, 0x1000), (8, 0x100), (16, 0x8)], [.power, .device],
    [⟨F.ETH_HIST_DELAY_COUNT, .ro, 0⟩, ⟨F.ETH_HIST_DELAY_OVF, .ro, 0⟩]⟩,
  ⟨"ETH_GATE_STORE", 0x230000, [(16, 0x1000), (2, 0x800), (256, 0x8)], [.power, .device],
    [⟨F.ETH_GATE_STORE_ENTRY, .rw, 0⟩]⟩]

/-- Registers of the Eth chapter. -/
def regRowsEth : List RegRow := regRowsEth1 ++ regRowsEth2 ++ regRowsEth3

/-- Registers of the Braid chapter. -/
def regRowsBraid1 : List RegRow := [
  ⟨"BRAID_CFG", 0x240000, [], [.power, .device],
    [⟨F.BRAID_CFG_NODE, .rwl, 4095⟩, ⟨F.BRAID_CFG_STAGES, .rwl, 0⟩, ⟨F.BRAID_CFG_RETRY, .rwl, 0⟩]⟩,
  ⟨"BRAID_EPOCH", 0x240008, [], [.power, .device],
    [⟨F.BRAID_EPOCH_EPOCH, .rw, 0⟩]⟩,
  ⟨"BRAID_INFLIGHT", 0x240010, [], [.power, .device],
    [⟨F.BRAID_INFLIGHT_COUNT, .ro, 0⟩, ⟨F.BRAID_INFLIGHT_MAX, .rc, 0⟩]⟩,
  ⟨"BRAID_PAIR_SEL", 0x240018, [], [.power, .device],
    [⟨F.BRAID_PAIR_SEL_NODE, .rw, 0⟩]⟩,
  ⟨"BRAID_PAIR_STATE", 0x240020, [], [.power, .device],
    [⟨F.BRAID_PAIR_STATE_NEXT_SEQ, .ro, 0⟩, ⟨F.BRAID_PAIR_STATE_UNACKED, .ro, 0⟩, ⟨F.BRAID_PAIR_STATE_CREDITS, .ro, 0⟩, ⟨F.BRAID_PAIR_STATE_DEAD, .ro, 0⟩]⟩,
  ⟨"BRAID_PUT_ARM", 0x240028, [], [.power, .device],
    [⟨F.BRAID_PUT_ARM_PUT_ID, .wo, 0⟩]⟩,
  ⟨"BRAID_PUT_STATUS", 0x240030, [], [.power, .device],
    [⟨F.BRAID_PUT_STATUS_PUT_ID, .rw, 0⟩, ⟨F.BRAID_PUT_STATUS_STATUS, .ro, 0⟩, ⟨F.BRAID_PUT_STATUS_BUSY, .ro, 0⟩]⟩,
  ⟨"BRAID_DEAD_TARGET", 0x240100, [], [.power, .device],
    [⟨F.BRAID_DEAD_TARGET_COUNT, .rc, 0⟩, ⟨F.BRAID_DEAD_TARGET_OVF, .rc, 0⟩]⟩,
  ⟨"BRAID_REFUSED", 0x240108, [], [.power, .device],
    [⟨F.BRAID_REFUSED_COUNT, .rc, 0⟩, ⟨F.BRAID_REFUSED_OVF, .rc, 0⟩]⟩,
  ⟨"BRAID_STALE_DROP", 0x240110, [], [.power, .device],
    [⟨F.BRAID_STALE_DROP_COUNT, .rc, 0⟩, ⟨F.BRAID_STALE_DROP_OVF, .rc, 0⟩]⟩,
  ⟨"BRAID_PROTOCOL_DROP", 0x240118, [], [.power, .device],
    [⟨F.BRAID_PROTOCOL_DROP_COUNT, .rc, 0⟩, ⟨F.BRAID_PROTOCOL_DROP_OVF, .rc, 0⟩]⟩,
  ⟨"BRAID_NO_ROUTE_DROP", 0x240120, [], [.power, .device],
    [⟨F.BRAID_NO_ROUTE_DROP_COUNT, .rc, 0⟩, ⟨F.BRAID_NO_ROUTE_DROP_OVF, .rc, 0⟩]⟩]

/-- Registers of the Braid chapter, continued. -/
def regRowsBraid2 : List RegRow := [
  ⟨"BRAID_HOT_LINE", 0x240128, [], [.power, .device],
    [⟨F.BRAID_HOT_LINE_COUNT, .rc, 0⟩, ⟨F.BRAID_HOT_LINE_OVF, .rc, 0⟩]⟩,
  ⟨"BRAID_PUT_LATE", 0x240130, [], [.power, .device],
    [⟨F.BRAID_PUT_LATE_COUNT, .rc, 0⟩, ⟨F.BRAID_PUT_LATE_OVF, .rc, 0⟩]⟩,
  ⟨"BRAID_PUT_OVERLAP", 0x240138, [], [.power, .device],
    [⟨F.BRAID_PUT_OVERLAP_COUNT, .rc, 0⟩, ⟨F.BRAID_PUT_OVERLAP_OVF, .rc, 0⟩]⟩,
  ⟨"BRAID_RETRANSMIT", 0x240140, [], [.power, .device],
    [⟨F.BRAID_RETRANSMIT_COUNT, .rc, 0⟩, ⟨F.BRAID_RETRANSMIT_OVF, .rc, 0⟩]⟩,
  ⟨"BRAID_PORT_CFG", 0x241000, [(8, 0x1000)], [.power, .device],
    [⟨F.BRAID_PORT_CFG_EN, .rwl, 0⟩, ⟨F.BRAID_PORT_CFG_NEIGH_NODE, .rwl, 0⟩, ⟨F.BRAID_PORT_CFG_NEIGH_PORT, .rwl, 0⟩]⟩,
  ⟨"BRAID_PORT_STATUS", 0x241008, [(8, 0x1000)], [.power, .device],
    [⟨F.BRAID_PORT_STATUS_LINK, .ro, 0⟩, ⟨F.BRAID_PORT_STATUS_LOS, .ro, 0⟩, ⟨F.BRAID_PORT_STATUS_FENCED, .ro, 0⟩, ⟨F.BRAID_PORT_STATUS_MISWIRED, .ro, 0⟩, ⟨F.BRAID_PORT_STATUS_FAR_NODE, .ro, 0⟩, ⟨F.BRAID_PORT_STATUS_FAR_PORT, .ro, 0⟩]⟩,
  ⟨"BRAID_PORT_CTRL", 0x241050, [(8, 0x1000)], [.power, .device],
    [⟨F.BRAID_PORT_CTRL_UNFENCE, .wo, 0⟩]⟩,
  ⟨"BRAID_FLITS_TX", 0x241200, [(8, 0x1000)], [.power, .device],
    [⟨F.BRAID_FLITS_TX_COUNT, .ro, 0⟩, ⟨F.BRAID_FLITS_TX_OVF, .ro, 0⟩]⟩,
  ⟨"BRAID_FLITS_RX", 0x241208, [(8, 0x1000)], [.power, .device],
    [⟨F.BRAID_FLITS_RX_COUNT, .ro, 0⟩, ⟨F.BRAID_FLITS_RX_OVF, .ro, 0⟩]⟩,
  ⟨"BRAID_FEC_CORRECTED", 0x241210, [(8, 0x1000)], [.power, .device],
    [⟨F.BRAID_FEC_CORRECTED_COUNT, .ro, 0⟩, ⟨F.BRAID_FEC_CORRECTED_OVF, .ro, 0⟩]⟩,
  ⟨"BRAID_FEC_UNCORRECTED", 0x241218, [(8, 0x1000)], [.power, .device],
    [⟨F.BRAID_FEC_UNCORRECTED_COUNT, .rc, 0⟩, ⟨F.BRAID_FEC_UNCORRECTED_OVF, .rc, 0⟩]⟩,
  ⟨"BRAID_CRC_FAIL", 0x241220, [(8, 0x1000)], [.power, .device],
    [⟨F.BRAID_CRC_FAIL_COUNT, .rc, 0⟩, ⟨F.BRAID_CRC_FAIL_OVF, .rc, 0⟩]⟩]

/-- Registers of the Braid chapter, continued. -/
def regRowsBraid3 : List RegRow := [
  ⟨"BRAID_REPLAYS", 0x241228, [(8, 0x1000)], [.power, .device],
    [⟨F.BRAID_REPLAYS_COUNT, .rc, 0⟩, ⟨F.BRAID_REPLAYS_OVF, .rc, 0⟩]⟩,
  ⟨"BRAID_LINK_DOWN_COUNT", 0x241230, [(8, 0x1000)], [.power, .device],
    [⟨F.BRAID_LINK_DOWN_COUNT_COUNT, .rc, 0⟩, ⟨F.BRAID_LINK_DOWN_COUNT_OVF, .rc, 0⟩]⟩,
  ⟨"BRAID_GATE_CMD", 0x241010, [(8, 0x1000)], [.power, .device],
    [⟨F.BRAID_GATE_CMD_CMD, .wo, 0⟩]⟩,
  ⟨"BRAID_GATE_STATUS", 0x241018, [(8, 0x1000)], [.power, .device],
    [⟨F.BRAID_GATE_STATUS_OPER_BANK, .ro, 0⟩, ⟨F.BRAID_GATE_STATUS_PENDING, .ro, 0⟩, ⟨F.BRAID_GATE_STATUS_OPER_N, .ro, 0⟩]⟩,
  ⟨"BRAID_GATE_ADMIN_BASE_SEC", 0x241020, [(8, 0x1000)], [.power, .device],
    [⟨F.BRAID_GATE_ADMIN_BASE_SEC_SEC, .rw, 0⟩]⟩,
  ⟨"BRAID_GATE_ADMIN_TIME", 0x241028, [(8, 0x1000)], [.power, .device],
    [⟨F.BRAID_GATE_ADMIN_TIME_BASE_NS, .rw, 0⟩, ⟨F.BRAID_GATE_ADMIN_TIME_CYCLE, .rw, 0⟩]⟩,
  ⟨"BRAID_GATE_ADMIN_N", 0x241030, [(8, 0x1000)], [.power, .device],
    [⟨F.BRAID_GATE_ADMIN_N_N, .rw, 0⟩]⟩,
  ⟨"BRAID_GATE_TAKEOVER_SEC", 0x241038, [(8, 0x1000)], [.power, .device],
    [⟨F.BRAID_GATE_TAKEOVER_SEC_SEC, .ro, 0⟩]⟩,
  ⟨"BRAID_GATE_TAKEOVER_NS", 0x241040, [(8, 0x1000)], [.power, .device],
    [⟨F.BRAID_GATE_TAKEOVER_NS_NS, .ro, 0⟩]⟩,
  ⟨"BRAID_HIST_SNAP", 0x241048, [(8, 0x1000)], [.power, .device],
    [⟨F.BRAID_HIST_SNAP_SNAP, .wo, 0⟩]⟩,
  ⟨"BRAID_QUEUE", 0x241100, [(8, 0x1000), (8, 0x20)], [.power, .device],
    [⟨F.BRAID_QUEUE_CREDIT, .ro, 0⟩, ⟨F.BRAID_QUEUE_DEPTH, .ro, 0⟩]⟩,
  ⟨"BRAID_QUEUE_CFG", 0x241108, [(8, 0x1000), (8, 0x20)], [.power, .device],
    [⟨F.BRAID_QUEUE_CFG_IDLE_SLOPE, .rwl, 0⟩, ⟨F.BRAID_QUEUE_CFG_AGE_LIMIT, .rwl, 0⟩]⟩]

/-- Registers of the Braid chapter, continued. -/
def regRowsBraid4 : List RegRow := [
  ⟨"BRAID_QUEUE_MAX", 0x241110, [(8, 0x1000), (8, 0x20)], [.power, .device],
    [⟨F.BRAID_QUEUE_MAX_MAX_DEPTH, .rc, 0⟩, ⟨F.BRAID_QUEUE_MAX_MAX_DELAY, .rc, 0⟩]⟩,
  ⟨"BRAID_HIST_DEPTH", 0x241400, [(8, 0x1000), (8, 0x100), (16, 0x8)], [.power, .device],
    [⟨F.BRAID_HIST_DEPTH_COUNT, .ro, 0⟩, ⟨F.BRAID_HIST_DEPTH_OVF, .ro, 0⟩]⟩,
  ⟨"BRAID_HIST_DELAY", 0x241480, [(8, 0x1000), (8, 0x100), (16, 0x8)], [.power, .device],
    [⟨F.BRAID_HIST_DELAY_COUNT, .ro, 0⟩, ⟨F.BRAID_HIST_DELAY_OVF, .ro, 0⟩]⟩,
  ⟨"BRAID_GATE_STORE", 0x250000, [(8, 0x1000), (2, 0x800), (256, 0x8)], [.power, .device],
    [⟨F.BRAID_GATE_STORE_ENTRY, .rw, 0⟩]⟩,
  ⟨"BRAID_ALIAS", 0x258000, [(1024, 0x8)], [.power, .device],
    [⟨F.BRAID_ALIAS_ENTRY0, .rw, 0⟩, ⟨F.BRAID_ALIAS_ENTRY1, .rw, 0⟩, ⟨F.BRAID_ALIAS_ENTRY2, .rw, 0⟩, ⟨F.BRAID_ALIAS_ENTRY3, .rw, 0⟩]⟩]

/-- Registers of the Braid chapter. -/
def regRowsBraid : List RegRow := regRowsBraid1 ++ regRowsBraid2 ++ regRowsBraid3 ++ regRowsBraid4

/-- Registers of the Proof chapter. -/
def regRowsProof1 : List RegRow := [
  ⟨"PROOF_CTR", 0x280000, [(6, 0x8000), (1024, 0x10)], [.power, .device, .tile],
    [⟨F.PROOF_CTR_VALUE, .rw, 0⟩, ⟨F.PROOF_CTR_OVF, .rw, 0⟩, ⟨F.PROOF_CTR_STATE, .rw, 0⟩, ⟨F.PROOF_CTR_SLICE, .rw, 0⟩, ⟨F.PROOF_CTR_LOSS, .ro, 0⟩, ⟨F.PROOF_CTR_WAITERS, .ro, 0⟩]⟩,
  ⟨"PROOF_PEND", 0x280008, [(6, 0x8000), (1024, 0x10)], [.power, .device, .tile],
    [⟨F.PROOF_PEND_PEND, .ro, 0⟩]⟩,
  ⟨"PROOF_GLOBAL_CFG", 0x284000, [(6, 0x8000), (16, 0x8)], [.power, .device],
    [⟨F.PROOF_GLOBAL_CFG_FWD, .rwl, 0⟩, ⟨F.PROOF_GLOBAL_CFG_FWD_TILE, .rwl, 0⟩, ⟨F.PROOF_GLOBAL_CFG_FWD_G, .rwl, 0⟩]⟩,
  ⟨"PROOF_HOST_SIGNAL", 0x284100, [(6, 0x8000)], [.power, .device, .tile],
    [⟨F.PROOF_HOST_SIGNAL_COUNTER, .wo, 0⟩, ⟨F.PROOF_HOST_SIGNAL_AMOUNT, .wo, 0⟩]⟩,
  ⟨"PROOF_STEWARD_SIGNAL", 0x284108, [(6, 0x8000)], [.power, .device, .tile],
    [⟨F.PROOF_STEWARD_SIGNAL_COUNTER, .wo, 0⟩, ⟨F.PROOF_STEWARD_SIGNAL_AMOUNT, .wo, 0⟩]⟩,
  ⟨"PROOF_PARKED", 0x284110, [(6, 0x8000)], [.power, .device, .tile],
    [⟨F.PROOF_PARKED_LEVEL, .ro, 0⟩, ⟨F.PROOF_PARKED_MAX, .rc, 0⟩]⟩,
  ⟨"PROOF_DISCARD", 0x284118, [(6, 0x8000)], [.power, .device, .tile],
    [⟨F.PROOF_DISCARD_COUNT, .rc, 0⟩, ⟨F.PROOF_DISCARD_OVF, .rc, 0⟩]⟩,
  ⟨"PROOF_TIMEOUT", 0x2b0000, [(64, 0x8)], [.power, .device],
    [⟨F.PROOF_TIMEOUT_US, .rwl, 0⟩]⟩,
  ⟨"PEEL_DATA", 0x150000, [(64, 0x100), (16, 0x8)], [.power, .device],
    [⟨F.PEEL_DATA_DATA, .rw, 0⟩]⟩,
  ⟨"PEEL_LOCK", 0x150080, [(64, 0x100)], [.power, .device],
    [⟨F.PEEL_LOCK_OWNER, .rc, 0⟩]⟩,
  ⟨"PEEL_CTRL", 0x150088, [(64, 0x100)], [.power, .device],
    [⟨F.PEEL_CTRL_GO, .w1s, 0⟩, ⟨F.PEEL_CTRL_RELEASE, .wo, 0⟩, ⟨F.PEEL_CTRL_TARGET, .rw, 0⟩]⟩,
  ⟨"PEEL_STATUS", 0x150090, [(64, 0x100)], [.power, .device],
    [⟨F.PEEL_STATUS_OWNER, .ro, 0⟩, ⟨F.PEEL_STATUS_PREV, .ro, 0⟩, ⟨F.PEEL_STATUS_HANDOFFS, .ro, 0⟩]⟩]

/-- Registers of the Proof chapter, continued. -/
def regRowsProof2 : List RegRow := [
  ⟨"PEEL_BIND", 0x150098, [(64, 0x100)], [.power, .device],
    [⟨F.PEEL_BIND_RECORD, .rwl, 0⟩]⟩]

/-- Registers of the Proof chapter. -/
def regRowsProof : List RegRow := regRowsProof1 ++ regRowsProof2

/-- Registers of the Slice chapter. -/
def regRowsSlice : List RegRow := [
  ⟨"SLICE_CFG", 0x140000, [(64, 0x80)], [.power, .device],
    [⟨F.SLICE_CFG_PASID, .rwl, 0⟩, ⟨F.SLICE_CFG_CLASS, .ro, 0⟩, ⟨F.SLICE_CFG_EN, .rwl, 0⟩, ⟨F.SLICE_CFG_HOST_RESET, .rwl, 0⟩]⟩,
  ⟨"SLICE_CMD", 0x140008, [(64, 0x80)], [.power, .device],
    [⟨F.SLICE_CMD_CMD, .wo, 0⟩, ⟨F.SLICE_CMD_DRAIN_TICKS, .wo, 0⟩]⟩,
  ⟨"SLICE_STATUS", 0x140010, [(64, 0x80)], [.power, .device],
    [⟨F.SLICE_STATUS_STATE, .ro, 0⟩, ⟨F.SLICE_STATUS_MODE, .ro, 0⟩, ⟨F.SLICE_STATUS_LAST_RESULT, .ro, 0⟩]⟩,
  ⟨"SLICE_IMAGE", 0x140018, [(64, 0x80)], [.power, .device],
    [⟨F.SLICE_IMAGE_ADDR, .rw, 0⟩]⟩,
  ⟨"SLICE_IMAGE_LEN", 0x140020, [(64, 0x80)], [.power, .device],
    [⟨F.SLICE_IMAGE_LEN_MAX, .rw, 0⟩, ⟨F.SLICE_IMAGE_LEN_LEN, .ro, 0⟩]⟩,
  ⟨"SLICE_EV_RING", 0x140028, [(64, 0x80)], [.power, .device],
    [⟨F.SLICE_EV_RING_LOG2, .rwl, 0⟩, ⟨F.SLICE_EV_RING_ADDR, .rwl, 0⟩]⟩,
  ⟨"SLICE_EV_PTR", 0x140030, [(64, 0x80)], [.power, .device],
    [⟨F.SLICE_EV_PTR_TAIL, .ro, 0⟩, ⟨F.SLICE_EV_PTR_HEAD, .rw, 0⟩]⟩,
  ⟨"SLICE_EV_DISCARD", 0x140038, [(64, 0x80)], [.power, .device],
    [⟨F.SLICE_EV_DISCARD_COUNT, .rc, 0⟩, ⟨F.SLICE_EV_DISCARD_OVF, .rc, 0⟩]⟩,
  ⟨"SLICE_UNBOUND", 0x142100, [], [.power, .device],
    [⟨F.SLICE_UNBOUND_COUNT, .rc, 0⟩, ⟨F.SLICE_UNBOUND_OVF, .rc, 0⟩]⟩,
  ⟨"DEVICE_EV_RING", 0x142028, [], [.power, .device],
    [⟨F.DEVICE_EV_RING_LOG2, .rw, 0⟩, ⟨F.DEVICE_EV_RING_ADDR, .rw, 0⟩]⟩,
  ⟨"DEVICE_EV_PTR", 0x142030, [], [.power, .device],
    [⟨F.DEVICE_EV_PTR_TAIL, .ro, 0⟩, ⟨F.DEVICE_EV_PTR_HEAD, .rw, 0⟩]⟩,
  ⟨"DEVICE_EV_DISCARD", 0x142038, [], [.power, .device],
    [⟨F.DEVICE_EV_DISCARD_COUNT, .rc, 0⟩, ⟨F.DEVICE_EV_DISCARD_OVF, .rc, 0⟩]⟩]

/-- Registers of the Integ chapter. -/
def regRowsInteg1 : List RegRow := [
  ⟨"INTEG_LEAK", 0x170000, [], [.power, .device],
    [⟨F.INTEG_LEAK_LEAK, .rwl, 0⟩]⟩,
  ⟨"INTEG_CORRECTED", 0x170008, [], [.power, .device],
    [⟨F.INTEG_CORRECTED_COUNT, .ro, 0⟩, ⟨F.INTEG_CORRECTED_OVF, .ro, 0⟩]⟩,
  ⟨"INTEG_TEST_ADDR", 0x170010, [], [.power, .device],
    [⟨F.INTEG_TEST_ADDR_ADDR, .rw, 0⟩]⟩,
  ⟨"INTEG_TEST_CTRL", 0x170020, [], [.power, .device],
    [⟨F.INTEG_TEST_CTRL_CMD, .wo, 0⟩]⟩,
  ⟨"INTEG_TEST_CHECK", 0x170028, [], [.power, .device],
    [⟨F.INTEG_TEST_CHECK_CHECK, .rw, 0⟩]⟩,
  ⟨"INTEG_TEST_RESULT", 0x170030, [], [.power, .device],
    [⟨F.INTEG_TEST_RESULT_DONE, .ro, 0⟩, ⟨F.INTEG_TEST_RESULT_REFUSED, .ro, 0⟩, ⟨F.INTEG_TEST_RESULT_STORED, .ro, 0⟩, ⟨F.INTEG_TEST_RESULT_COMPUTED, .ro, 0⟩]⟩,
  ⟨"INTEG_LOG_PTR", 0x170038, [], [.power, .device],
    [⟨F.INTEG_LOG_PTR_TAIL, .ro, 0⟩, ⟨F.INTEG_LOG_PTR_HEAD, .rw, 0⟩]⟩,
  ⟨"INTEG_TEST_DATA", 0x170040, [(8, 0x8)], [.power, .device],
    [⟨F.INTEG_TEST_DATA_DATA, .rw, 0⟩]⟩,
  ⟨"INTEG_BUCKET", 0x171000, [(6, 0x1000), (121, 0x8)], [.power, .device, .tile],
    [⟨F.INTEG_BUCKET_LEVEL, .ro, 0⟩, ⟨F.INTEG_BUCKET_FULL, .ro, 0⟩, ⟨F.INTEG_BUCKET_UNRESOLVED, .rc, 0⟩, ⟨F.INTEG_BUCKET_OVF, .rc, 0⟩]⟩,
  ⟨"INTEG_FENCE", 0x171400, [(6, 0x1000)], [.power, .device, .tile],
    [⟨F.INTEG_FENCE_KNEAD, .ro, 0⟩, ⟨F.INTEG_FENCE_SIGNAL, .ro, 0⟩, ⟨F.INTEG_FENCE_CODEC, .ro, 0⟩, ⟨F.INTEG_FENCE_SPARE_FOR, .ro, 31⟩, ⟨F.INTEG_FENCE_SPARE_FENCED, .ro, 0⟩, ⟨F.INTEG_FENCE_ABSENT, .ro, 0⟩]⟩,
  ⟨"INTEG_FENCE_SIEVE", 0x171408, [(6, 0x1000)], [.power, .device, .tile],
    [⟨F.INTEG_FENCE_SIEVE_SIEVE, .ro, 0⟩]⟩,
  ⟨"INTEG_SCRUB", 0x171410, [(6, 0x1000)], [.power, .device, .tile],
    [⟨F.INTEG_SCRUB_PASSES, .ro, 0⟩, ⟨F.INTEG_SCRUB_OVF, .ro, 0⟩]⟩]

/-- Registers of the Integ chapter, continued. -/
def regRowsInteg2 : List RegRow := [
  ⟨"INTEG_PROVE", 0x171418, [(6, 0x1000)], [.power, .device, .tile],
    [⟨F.INTEG_PROVE_RUNS, .ro, 0⟩, ⟨F.INTEG_PROVE_FAILS, .ro, 0⟩, ⟨F.INTEG_PROVE_OVF, .ro, 0⟩]⟩]

/-- Registers of the Integ chapter. -/
def regRowsInteg : List RegRow := regRowsInteg1 ++ regRowsInteg2

/-- Registers of the Memb chapter. -/
def regRowsMemb1 : List RegRow := [
  ⟨"MEMB_STATUS", 0x160000, [], [.power, .device],
    [⟨F.MEMB_STATUS_STATE, .ro, 0⟩, ⟨F.MEMB_STATUS_PLACE, .ro, 4095⟩, ⟨F.MEMB_STATUS_STAGED, .ro, 0⟩, ⟨F.MEMB_STATUS_LAST_REASON, .ro, 0⟩, ⟨F.MEMB_STATUS_FENCE_CAUSE, .ro, 0⟩]⟩,
  ⟨"MEMB_EPOCH", 0x160008, [], [.power, .device],
    [⟨F.MEMB_EPOCH_EPOCH, .ro, 0⟩]⟩,
  ⟨"MEMB_INSTALLED", 0x160010, [], [.power, .device],
    [⟨F.MEMB_INSTALLED_TICK, .ro, 0⟩]⟩,
  ⟨"MEMB_EPOCH_SRC", 0x160018, [], [.power, .device],
    [⟨F.MEMB_EPOCH_SRC_ADDR, .rw, 0⟩]⟩,
  ⟨"MEMB_EPOCH_LEN", 0x160020, [], [.power, .device],
    [⟨F.MEMB_EPOCH_LEN_LEN, .rw, 0⟩]⟩,
  ⟨"MEMB_EPOCH_CMD", 0x160028, [], [.power, .device],
    [⟨F.MEMB_EPOCH_CMD_CMD, .wo, 0⟩]⟩,
  ⟨"MEMB_HB", 0x160030, [], [.power, .device],
    [⟨F.MEMB_HB_HB_OFFSET, .ro, 0⟩, ⟨F.MEMB_HB_HB_GRACE, .ro, 0⟩]⟩,
  ⟨"MEMB_PEER_SEL", 0x160038, [], [.power, .device],
    [⟨F.MEMB_PEER_SEL_NODE, .rw, 0⟩]⟩,
  ⟨"MEMB_PEER_STATE", 0x160040, [], [.power, .device],
    [⟨F.MEMB_PEER_STATE_STATE, .ro, 0⟩, ⟨F.MEMB_PEER_STATE_MISSES, .ro, 0⟩]⟩,
  ⟨"MEMB_MISS_COUNT", 0x160048, [], [.power, .device],
    [⟨F.MEMB_MISS_COUNT_COUNT, .rc, 0⟩, ⟨F.MEMB_MISS_COUNT_OVF, .rc, 0⟩]⟩,
  ⟨"MEMB_SUSPECT_COUNT", 0x160050, [], [.power, .device],
    [⟨F.MEMB_SUSPECT_COUNT_COUNT, .rc, 0⟩, ⟨F.MEMB_SUSPECT_COUNT_OVF, .rc, 0⟩]⟩,
  ⟨"MEMB_NOTICE_IGNORED", 0x160058, [], [.power, .device],
    [⟨F.MEMB_NOTICE_IGNORED_COUNT, .rc, 0⟩, ⟨F.MEMB_NOTICE_IGNORED_OVF, .rc, 0⟩]⟩]

/-- Registers of the Memb chapter, continued. -/
def regRowsMemb2 : List RegRow := [
  ⟨"MEMB_SHADOW", 0x160060, [], [.power, .device],
    [⟨F.MEMB_SHADOW_TRAY, .rw, 0⟩, ⟨F.MEMB_SHADOW_EN, .rw, 0⟩, ⟨F.MEMB_SHADOW_QUAL_TICKS, .rw, 20000⟩]⟩,
  ⟨"MEMB_SHADOW_SEQ", 0x160068, [], [.power, .device],
    [⟨F.MEMB_SHADOW_SEQ_FIRST_SEQ, .rw, 0⟩]⟩,
  ⟨"MEMB_SHADOW_STATUS", 0x160070, [], [.power, .device],
    [⟨F.MEMB_SHADOW_STATUS_RESULT, .ro, 0⟩, ⟨F.MEMB_SHADOW_STATUS_MIN_COMPARE, .rw, 1000⟩]⟩,
  ⟨"MEMB_SHADOW_COMPARED", 0x160078, [], [.power, .device],
    [⟨F.MEMB_SHADOW_COMPARED_COUNT, .ro, 0⟩, ⟨F.MEMB_SHADOW_COMPARED_OVF, .ro, 0⟩]⟩,
  ⟨"MEMB_COLL", 0x160400, [(64, 0x20)], [.power, .device, .slice],
    [⟨F.MEMB_COLL_EN, .rw, 0⟩, ⟨F.MEMB_COLL_COLL_ID, .rw, 0⟩]⟩,
  ⟨"MEMB_COLL_LIST", 0x160408, [(64, 0x20)], [.power, .device, .slice],
    [⟨F.MEMB_COLL_LIST_ADDR, .rw, 0⟩]⟩,
  ⟨"MEMB_COLL_N", 0x160410, [(64, 0x20)], [.power, .device, .slice],
    [⟨F.MEMB_COLL_N_N, .rw, 0⟩]⟩,
  ⟨"MEMB_COLL_ABORT", 0x160418, [(64, 0x20)], [.power, .device, .slice],
    [⟨F.MEMB_COLL_ABORT_ABORT, .wo, 0⟩]⟩]

/-- Registers of the Memb chapter. -/
def regRowsMemb : List RegRow := regRowsMemb1 ++ regRowsMemb2

/-- Registers of the Host chapter. -/
def regRowsHost : List RegRow := [
  ⟨"CXL_LINK", 0x110000, [], [.power, .device],
    [⟨F.CXL_LINK_WIDTH, .ro, 0⟩, ⟨F.CXL_LINK_RATE, .ro, 0⟩, ⟨F.CXL_LINK_LOPT, .ro, 0⟩, ⟨F.CXL_LINK_PROTO, .ro, 0⟩]⟩,
  ⟨"CXL_HDM", 0x110008, [], [.power, .device],
    [⟨F.CXL_HDM_COMMITTED, .ro, 0⟩, ⟨F.CXL_HDM_BASE, .ro, 0⟩]⟩,
  ⟨"CXL_IDE", 0x110010, [], [.power, .device],
    [⟨F.CXL_IDE_IO_ACTIVE, .ro, 0⟩, ⟨F.CXL_IDE_CM_ACTIVE, .ro, 0⟩, ⟨F.CXL_IDE_REQUIRED, .ro, 0⟩]⟩,
  ⟨"CXL_BISNP_COUNT", 0x110018, [], [.power, .device],
    [⟨F.CXL_BISNP_COUNT_COUNT, .ro, 0⟩, ⟨F.CXL_BISNP_COUNT_OVF, .ro, 0⟩]⟩,
  ⟨"CXL_ATS_FAULTS", 0x110020, [], [.power, .device],
    [⟨F.CXL_ATS_FAULTS_COUNT, .rc, 0⟩, ⟨F.CXL_ATS_FAULTS_OVF, .rc, 0⟩]⟩,
  ⟨"CXL_POISON_RX", 0x110028, [], [.power, .device],
    [⟨F.CXL_POISON_RX_COUNT, .rc, 0⟩, ⟨F.CXL_POISON_RX_OVF, .rc, 0⟩]⟩,
  ⟨"CXL_WRITE_RETRY", 0x110030, [], [.power, .device],
    [⟨F.CXL_WRITE_RETRY_COUNT, .rc, 0⟩, ⟨F.CXL_WRITE_RETRY_OVF, .rc, 0⟩]⟩]

/-- Registers of the Sec chapter. -/
def regRowsSec : List RegRow := [
  ⟨"SEC_STATUS", 0x1e0000, [], [.power, .device],
    [⟨F.SEC_STATUS_STAGE, .ro, 0⟩, ⟨F.SEC_STATUS_SLOT, .ro, 0⟩, ⟨F.SEC_STATUS_FALLBACK, .ro, 0⟩, ⟨F.SEC_STATUS_IDENTITY_OK, .ro, 0⟩, ⟨F.SEC_STATUS_REPAIR_OK, .ro, 0⟩, ⟨F.SEC_STATUS_FIELD_OK, .ro, 0⟩, ⟨F.SEC_STATUS_REASON, .ro, 0⟩]⟩,
  ⟨"SEC_FW_VERSION", 0x1e0008, [], [.power, .device],
    [⟨F.SEC_FW_VERSION_VERSION, .ro, 0⟩]⟩,
  ⟨"SEC_FW_INFO", 0x1e0010, [], [.power, .device],
    [⟨F.SEC_FW_INFO_SVN, .ro, 0⟩, ⟨F.SEC_FW_INFO_KEY_INDEX, .ro, 0⟩, ⟨F.SEC_FW_INFO_INTERFACE, .ro, 0⟩]⟩,
  ⟨"SEC_FW_CMD", 0x1e0018, [], [.power, .device],
    [⟨F.SEC_FW_CMD_CMD, .wo, 0⟩, ⟨F.SEC_FW_CMD_TILES, .wo, 0⟩]⟩,
  ⟨"SEC_FW_SRC", 0x1e0020, [], [.power, .device],
    [⟨F.SEC_FW_SRC_ADDR, .rw, 0⟩]⟩,
  ⟨"SEC_FW_LEN", 0x1e0028, [], [.power, .device],
    [⟨F.SEC_FW_LEN_LEN, .rw, 0⟩]⟩,
  ⟨"SEC_FW_RESULT", 0x1e0030, [], [.power, .device],
    [⟨F.SEC_FW_RESULT_STATE, .ro, 0⟩, ⟨F.SEC_FW_RESULT_REASON, .ro, 0⟩, ⟨F.SEC_FW_RESULT_TILES_DONE, .ro, 0⟩]⟩,
  ⟨"SEC_FIELD_CMD", 0x1e0038, [], [.power, .device],
    [⟨F.SEC_FIELD_CMD_CMD, .wo, 0⟩]⟩,
  ⟨"SEC_ROM", 0x1e0040, [], [.power, .device],
    [⟨F.SEC_ROM_VERSION, .ro, 0⟩]⟩]

/-- Registers of the Pwr chapter. -/
def regRowsPwr : List RegRow := [
  ⟨"PWR_VIN", 0x1f0000, [], [.power, .device],
    [⟨F.PWR_VIN_VOLT, .ro, 0⟩, ⟨F.PWR_VIN_CURR, .ro, 0⟩, ⟨F.PWR_VIN_POWER, .ro, 0⟩]⟩,
  ⟨"PWR_STATUS", 0x1f0008, [], [.power, .device],
    [⟨F.PWR_STATUS_SUPPLY, .ro, 0⟩, ⟨F.PWR_STATUS_PAUSED, .ro, 0⟩, ⟨F.PWR_STATUS_OC_EMERG, .ro, 0⟩, ⟨F.PWR_STATUS_THERM_EMERG, .ro, 0⟩, ⟨F.PWR_STATUS_VIN_LOW, .ro, 0⟩, ⟨F.PWR_STATUS_BALLAST, .ro, 0⟩]⟩,
  ⟨"PWR_EXCESS", 0x1f0010, [], [.power, .device],
    [⟨F.PWR_EXCESS_BUCKET, .ro, 0⟩]⟩,
  ⟨"PWR_TEMP", 0x1f0100, [(6, 0x8)], [.power, .device],
    [⟨F.PWR_TEMP_LOGIC, .ro, 32768⟩, ⟨F.PWR_TEMP_DRAM_MAX, .ro, 32768⟩, ⟨F.PWR_TEMP_SNAP, .ro, 32768⟩, ⟨F.PWR_TEMP_STACK, .ro, 0⟩]⟩,
  ⟨"PWR_ENERGY", 0x1f0140, [(6, 0x8)], [.power, .device],
    [⟨F.PWR_ENERGY_LAST, .ro, 0⟩, ⟨F.PWR_ENERGY_PLAN, .ro, 0⟩]⟩,
  ⟨"PWR_STRETCH_COUNT", 0x1f0180, [(6, 0x8)], [.power, .device],
    [⟨F.PWR_STRETCH_COUNT_COUNT, .rc, 0⟩, ⟨F.PWR_STRETCH_COUNT_OVF, .rc, 0⟩]⟩,
  ⟨"PWR_PLAN_OVER", 0x1f01c0, [(6, 0x8)], [.power, .device],
    [⟨F.PWR_PLAN_OVER_COUNT, .rc, 0⟩, ⟨F.PWR_PLAN_OVER_OVF, .rc, 0⟩]⟩,
  ⟨"PWR_STEP_EXCESS", 0x1f0200, [], [.power, .device],
    [⟨F.PWR_STEP_EXCESS_COUNT, .rc, 0⟩, ⟨F.PWR_STEP_EXCESS_OVF, .rc, 0⟩]⟩]

/-- Every register row of BAR0. -/
def regRows : List RegRow :=
  regRowsSys ++
  regRowsTick ++
  regRowsRecipe ++
  regRowsKnead ++
  regRowsSieve ++
  regRowsTier ++
  regRowsTray ++
  regRowsRadio ++
  regRowsSig ++
  regRowsCodec ++
  regRowsTime ++
  regRowsEth ++
  regRowsBraid ++
  regRowsProof ++
  regRowsSlice ++
  regRowsInteg ++
  regRowsMemb ++
  regRowsHost ++
  regRowsSec ++
  regRowsPwr

end Sys2Proof.Machine
end

