-- ==== Sys2Proof/Config.lean ====
section
/-! DEFINITION. Config: what one device fixes, and the values the spec leaves open.
An `opaque` constant here has no body: nothing can be proved about what it returns, so a statement holds whatever it is.
Functions of published standards that the spec names without stating them (SHA3-256, the tables of TS 38.212, the
SPDM cryptography) are opaque functions of their inputs: the same input gives the same output, and nothing else is known. -/
namespace Sys2Proof

/-- A fresh value the spec does not state, drawn by the model's own counter (log entry 3). -/
opaque Config.freeWord : Nat → BitVec 64
/-- A fresh run of bytes the spec does not state: draw number, length (log entry 3). -/
opaque Config.freeByte : Nat → Nat → BitVec 8
/-- SHA3-256 (FIPS 202) of a byte string, 32 bytes as one number (R62). -/
opaque Config.sha3 : Bytes → BitVec 256
/-- The bench lines, first and one past the last, that the radio loaf images of a RADIO_CODE section declare on a logical core
of a tile (R142). The spec gives the section no layout (log entry 16). -/
opaque Config.radioLines : Bytes → Nat → Nat → Nat × Nat

/-- The cells that a radio loaf of a tile's RADIO_CODE section serves, with the stage: 0 uplink front stages, 1 uplink decoding,
2 downlink encoding, 3 downlink precoding and framing (Tables 10.8 and 10.9, log entry 16). -/
opaque Config.radioCells : Bytes → Nat → Nat → List (Nat × Nat)

/-- A loaf of a RADIO_CODE section by its LOAF_ID: KIND, unit type, LENGTH; none when the section has no such loaf (log entry 16). -/
opaque Config.codeLoaf : Bytes → Nat → Option (Nat × Nat × Nat)
/-- The bytes of radio and proving images that a RADIO_CODE section places on a logical core: section, tile, core (R443, log entry 16). -/
opaque Config.codeBytes : Bytes → Nat → Nat → Nat

/-- The bytes that RADIO_CODE places on the bench of a logical core: section, tile, core; each with its bench offset (log entry 16). -/
opaque Config.codeBench : Bytes → Nat → Nat → List (Nat × Bytes)
/-- The program of a signal core: section, tile, core (R275, log entry 16). -/
opaque Config.codePmem : Bytes → Nat → Nat → Bytes
/-- The objects of slice 0 that a RADIO_CODE section lists on a tile, each as the 64 bytes of an object descriptor whose CUR fields say where it
is promoted to (R207, Table 08.3, log entry 34). -/
opaque Config.codeObjects : Bytes → Nat → List Bytes

/-- TS 38.212: the columns of a row of a base graph with their shifts V mod Z, for base graph, lifting size, row (R298). -/
opaque Config.ldpcRow : Nat → Nat → Nat → List (Nat × Nat)
/-- TS 38.212: a CRC of a bit string: 0 CRC16, 1 CRC24A, 2 CRC24B, 3 CRC24C, 4 CRC11, 5 CRC6. -/
opaque Config.crc : Nat → List Bool → List Bool
/-- TS 38.212: the rate-matched, interleaved bits of a code block: base graph, Z, parity rows, NCB, RV, E, QM, information bits (R303). -/
opaque Config.ldpcEncode : List Nat → List Bool → List Bool
/-- TS 38.212: polar encoding of a payload under words 4 and 5 of its descriptor (R304). -/
opaque Config.polarEncode : Nat → Nat → List Bool → List Bool
/-- TS 38.212: the role of a bit of a polar code under words 4 and 5: 0 frozen, 1 information, 2 parity check (R304, R305). -/
opaque Config.polarRole : Nat → Nat → Nat → Nat
/-- TS 38.212: the parity-check bit after a prefix of decided bits (R305). -/
opaque Config.polarParity : Nat → Nat → List Bool → Bool
/-- TS 38.212: the 2^n mother-code LLRs of E rate-matched ones (R305). -/
opaque Config.polarDematch : Nat → Nat → List Int → List Int
/-- TS 38.212: the payload and CRC bits in their own order from the decoded information bits (R305). -/
opaque Config.polarPayload : Nat → Nat → List Bool → List Bool
/-- TS 38.212: whether the CRC of a polar payload passes, under its RNTI (R305). -/
opaque Config.polarCrcOk : Nat → Nat → List Bool → Bool
/-- TS 38.211: the summed power-delay profile of an occasion in binary32 codes: word 4 of the descriptor, PRACH_CFG, the samples (R307). -/
opaque Config.prachProfile : Nat → Nat → Bytes → List Nat
/-- TS 38.211: the zone of a preamble in the profile, its first sample and its length (R307). -/
opaque Config.prachZone : Nat → Nat → Nat → Nat × Nat
/-- The mean of samples in binary32; the spec does not give the order of the sums (R307). -/
opaque Config.b32Mean : List Nat → Nat

/-- O-RAN: the U-plane header of a frame, as [eAxC, frameId, subframeId, slotId, symbolId], and its sections: first PRB,
number of PRBs, bytes (R248, R249). The spec names the fields and does not place them. -/
opaque Config.uplaneHdr : Bytes → List Nat
opaque Config.uplaneSections : Bytes → List (Nat × Nat × Bytes)
/-- The EtherType, the slow-protocol subtype or eCPRI message type, and the 802.1Q tags of a frame as VIDs (R338). -/
opaque Config.etherType : Bytes → Nat
opaque Config.etherSub : Bytes → Nat
opaque Config.etherTags : Bytes → List Nat
/-- The line within a tile's landing banks at which the uplink ring block of an eAxC entry stands in a half:
CELLS section, tile, entry, half (R249). The spec does not place the rings. -/
opaque Config.ulRing : Bytes → Nat → Nat → Nat → Nat
/-- The PRBs of the PRACH allocation of a PRACH_CFG (R249). -/
opaque Config.prachAlloc : Nat → Nat
/-- The C-plane and the U-plane frames that the signal cores build for an eAxC entry: entry, draw (R252). -/
opaque Config.fhCplane : Nat → Nat → List Bytes
opaque Config.fhUplane : Nat → Nat → List Bytes
/-- SCF 222.10: the number of PDUs of a message body: MSG_ID, body (R260). -/
opaque Config.fapiPdus : Nat → Bytes → Nat
/-- SCF 222.10: a PDU is of a supported type within a cell descriptor: MSG_ID, descriptor, body, PDU (R260). -/
opaque Config.fapiPduOk : Nat → Bytes → Bytes → Nat → Bool
/-- SCF 222.10: the information bits of a PDU; the DL_TTI PDU a TX_DATA PDU carries the payload of; whether a TX_DATA PDU's TLV
tags and offsets are good for a pool half of so many bytes (R260). -/
opaque Config.fapiBits : Nat → Bytes → Nat → Nat
opaque Config.fapiPdsch : Bytes → Nat → Nat
opaque Config.fapiPayloadOk : Nat → Bytes → Nat → Bool
/-- SCF 222.10: what a PDU adds to the four counts of R266 in group k: MSG_ID, body, PDU, group. -/
opaque Config.fapiLoad : Nat → Bytes → Nat → Nat → List Nat
/-- SCF 222.10: a PUSCH PDU's RNTI, HARQ process and new-data indication; none for another PDU (R263). -/
opaque Config.fapiPusch : Bytes → Nat → Option (Nat × Nat × Bool)
/-- SCF 222.10: the bodies of ERROR.indication (reason of Table 10.7, 0 for a lost slot; MSG_ID; SFN; SLOT) and SLOT.indication. -/
opaque Config.fapiError : Nat → Nat → Nat → Nat → Bytes
opaque Config.fapiSlot : Nat → Nat → Bytes
/-- The bodies of the indications of a MSG_ID that a slot's uplink gives, and the payload it leaves in the pool: draw (R262). -/
opaque Config.fapiUl : Nat → Nat → List Bytes
opaque Config.fapiUlPayload : Nat → Bytes
/-- ITU-T G.8264: an ESMC frame carries quality level DNU (R315). -/
opaque Config.esmcDnu : Bytes → Bool
/-- IEEE 1588: the frame of a PTP message of a port: port, kind, draw (R318). -/
opaque Config.ptpFrame : Nat → Nat → Nat → Bytes
/-- The servo's products ki × theta and kp × theta in units of 2^-16 ppb: BW, measurements a second, theta in ps (R322). -/
opaque Config.servoKi : Nat → Nat → Int → Int
opaque Config.servoKp : Nat → Int → Int

/-- The live lines and the park bases of held passes, by line of the context, that the header line of a save area records (R235 names the
line and not its layout, log entry 26). -/
opaque Config.saveLive : Bytes → Nat
opaque Config.savePark : Bytes → Option Nat
/-- The CDAT encoding of an entry's values (R493). -/
opaque Config.cdatBytes : List Nat → Bytes
/-- The seed S that the PUF of this device gives with the helper data's syndrome, and what a read with too many differing cells gives: draw (R502). -/
opaque Config.pufSeed : Bytes → BitVec 256
opaque Config.pufBad : Nat → BitVec 256
/-- The boot ROM's list of four Farolmune root key digests (R500), and its version. -/
opaque Config.rootDigest : Nat → BitVec 256
opaque Config.romVersion : BitVec 64
/-- FIPS 204: the ML-DSA-44 public key of a seed, a signature under a seed, verification under a public key (R500, R504). -/
opaque Config.mldsaPublic : BitVec 256 → Bytes
opaque Config.mldsaSign : BitVec 256 → Bytes → Bytes
opaque Config.mldsaCheck : Bytes → Bytes → Bytes → Bool
/-- The public key of the Farolmune root key of an index (R505). -/
opaque Config.rootKey : Nat → Bytes
/-- SP 800-185: KMAC256 of a key, a message and a customisation string, 32 bytes (R504, R505). -/
opaque Config.kmac : Bytes → Bytes → Bytes → BitVec 256
/-- FIPS 203: the ciphertext and the shared secret of an ML-KEM-768 encapsulation: key, draw (R511). -/
opaque Config.mlkem : Bytes → Nat → Bytes × Bytes
/-- SPDM 1.3: the encoding of a response: response code, session, its values, its data, its signature (R511). -/
opaque Config.spdmReply : Nat → Nat → List Nat → Bytes → Bytes → Bytes
/-- The alias certificate: its public key, certified by DevID with measurements 1 to 4 (Table 22.3). -/
opaque Config.aliasCert : BitVec 256 → Bytes → Bytes → Bytes
/-- The certificate chain of slot 0: KEY_INDEX of its root, the certificate store, the alias certificate (R511). -/
opaque Config.certChain : Nat → Bytes → Bytes → Bytes
/-- The bytes of a chunk of an SPDM message (R511). -/
opaque Config.chunkBytes : Nat
/-- Which images the directory names while neither copy of it is valid, bit i for A or B of field i (R499). -/
opaque Config.noDirectory : Nat

/-- SYS_IDENT.STEP_MAJOR and STEP_MINOR: the model is a B0 device (log entry 4). -/
def Config.stepByte : Nat := 0x10

end Sys2Proof
end

