-- ==== Sys2Proof/Machine/State.lean ====
section
/-! DEFINITION. State: everything the spec gives the device, as plain data, and the state after power-on.
Every register of BAR0 has its one home in `regs` (the table is in RegMap); what has no register of its own stands in
a structure of its unit. A keyed collection is a `SMap`: keys strictly rising, no entry equal to its default. -/
namespace Sys2Proof.Machine

/-- A keyed collection, keys strictly rising, no entry at its default value. -/
abbrev SMap (V : Type) := List (Nat × V)

/-- One event record (Table 01.8), before its ring is chosen. `at` is the time it arose, in units of 0.2 ns. -/
structure EventRec where
  code : Nat
  slice : Nat
  unit : BitVec 16
  tick : Nat
  time : Nat
  object : BitVec 32
  detail : BitVec 64
  lost : Bool
  deriving DecidableEq, Repr

/-- The kinds of write the device makes to host memory (Table 21.2, R185). -/
inductive HostKind where
  | journal | completion | indication | event | log | image | tier | msix | radioRing
  deriving DecidableEq, Repr

/-- A write to host memory by CXL.cache whose global-observation completion is awaited (R484). -/
structure HostWrite where
  id : Nat
  kind : HostKind
  slice : Nat
  addr : Nat
  data : Bytes
  retries : Nat
  deriving DecidableEq, Repr

/-- What leaves the device at its other interfaces. -/
inductive Output where
  | msix (vector : Nat)
  | hdmData (data : Bytes) (poison : Bool)
  | rspIHitI (addr : Nat)
  | ethFrame (port : Nat) (queue : Nat) (frame : Bytes)
  | braidFlit (port : Nat) (bytes : Bytes)
  | ptp (port : Nat) (kind : Nat) (time : Nat)
  | pulse (k : Nat) (level : Bool) (time : Nat)
  | doe (bytes : Bytes)
  | notify (master : BitVec 16) (channel : Nat)
  | invalidationDone
  | hostSnoop (inv : Bool) (addr : Nat)
  deriving DecidableEq, Repr

/-- Events that arose and are not yet written, rings whose next record carries LOST, the boot buffer, rings written in this
tick, vectors that wait for the writes that caused them, unmasked vectors and pending bits (R26 to R29, R413, R491, R516). -/
structure EvState where
  arisen : List EventRec
  lostRings : List Nat
  boot : List EventRec
  rung : List Nat
  vectors : List (Nat × List Nat)
  unmasked : List Nat
  pendingBits : List Nat
  deriving DecidableEq, Repr

/-- The header of a loaf image (Table 06.1). -/
structure LoafHdr where
  id : Nat
  kind : Nat
  flags : Nat
  length : Nat
  benchLines : Nat
  nInstr : Nat
  nPass : Nat
  nDma : Nat
  instrLine : Nat
  passLine : Nat
  dmaLine : Nat
  deriving DecidableEq, Repr

/-- A context as a loaf runs under it: KNEAD_CONTEXT and KNEAD_CONTEXT_ID, or SIEVE_CONTEXT, at its start (R141, R168). -/
structure Ctx where
  lo : Nat
  hi : Nat
  slice : Nat
  ctrLo : Nat
  ctrN : Nat
  ctxId : Nat
  deriving DecidableEq, Repr

/-- A wait on a counter (R387). `at` and `due` are local kc of the tile. -/
structure Wait where
  tile : Nat
  ctr : Nat
  amount : Nat
  take : Bool
  unit : BitVec 16
  slice : Nat
  due : Nat
  released : Option Nat
  failed : Bool
  deriving DecidableEq, Repr

/-- A scheduled signal on its way to its evaluation cycle (R387, Table 16.3). -/
structure SigEv where
  tile : Nat
  ctr : Nat
  amount : Nat
  slice : Option Nat
  unit : BitVec 16
  at_ : Nat
  landing : Bool
  deriving DecidableEq, Repr

/-- An entry of a parked-signal queue (R393). -/
structure Parked where
  ctr : Nat
  amount : Nat
  source : BitVec 16
  deriving DecidableEq, Repr

/-- A landing signal added to a PEND sum: the slice it carries, what it added, its source unit or master (R390). -/
structure LandSig where
  slice : Option Nat
  amount : Nat
  source : BitVec 16
  deriving DecidableEq, Repr

/-- The counters' state beside their registers: signals in flight, waits, the parked queues, sums taken at the snapshot. -/
structure CtrState where
  sigs : List SigEv
  waits : List Wait
  parked : SMap (List Parked)
  taken : SMap Nat
  pendSrc : SMap (List LandSig)
  deriving DecidableEq, Repr

/-- A pass descriptor (Table 05.6). -/
structure PassDesc where
  mode : Nat
  fmtA : Nat
  fmtB : Nat
  init : Nat
  fin : Nat
  outFmt : Nat
  sround : Bool
  tileId : Nat
  descId : Nat
  kChunks : Nat
  kStart : Nat
  kTail : Nat
  mValid : Nat
  nValid : Nat
  aBase : Nat
  aStride : Nat
  aScale : Nat
  aScaleStride : Nat
  bBase : Nat
  bStride : Nat
  bScale : Nat
  bScaleStride : Nat
  cBase : Nat
  cStride : Nat
  parkBase : Nat
  dBase : Nat
  dStride : Nat
  rqMult : Int
  rqShift : Nat
  rqZero : Int
  gain : Nat
  aPair : Nat
  bPair : Nat
  cdPair : Nat
  zeroOk : Bool
  word7 : Nat
  deriving DecidableEq, Repr

/-- A pass issued: descriptor, counter to signal at its end, local time of its issue, entry cycle (R118, R148). -/
structure PassJob where
  desc : PassDesc
  sig : Option Nat
  issued : Nat
  entry : Nat
  deriving DecidableEq, Repr

/-- Accumulators that stay in the arrays: after CHAIN for the loaf's next pass, after HOLD past its end (R132). -/
structure HeldPass where
  descId : Nat
  mode : Nat
  fmtA : Nat
  fmtB : Nat
  kpos : Nat
  slice : Nat
  ctxId : Nat
  loaf : Nat
  tileId : Nat
  parkBase : Nat
  causes : Nat
  chained : Bool
  deriving DecidableEq, Repr

/-- A DMA or transfer descriptor (Table 06.5). -/
structure DmaDesc where
  src : Nat
  dst : Nat
  counter : Nat
  sig : Bool
  irq : Bool
  route : Nat
  srcAddr : Nat
  dstAddr : Nat
  rows : Nat
  rowLines : Nat
  srcStride : Nat
  dstStride : Nat
  zeroOk : Bool
  deriving DecidableEq, Repr

/-- A DMA descriptor issued: its table index, its words, and the local kc at which it completes once it has begun. -/
structure DmaJob where
  index : Nat
  desc : DmaDesc
  done : Nat
  deriving DecidableEq, Repr

/-- One level of LOOP (R149): the body from `first` up to `last`, `left` passes still to run, this one included. -/
structure LoopFrame where
  first : Nat
  last : Nat
  left : Nat
  deriving DecidableEq, Repr

/-- A Knead core beside its registers: the running loaf and its context and Leaven inputs, the sequencer, the vector unit,
the two engines and their queues, the accumulators and any held pass (R140 to R160). Times are local kc of the tile:
`start` of the loaf, `nextAt` the first free issue slot, `ready` by register, `units` by vector unit, `stored` the last
store's write (R147, R157). Register keys: X 0 to 15, V 32 to 63, M 64 to 71, the SHAPE setting 80. -/
structure KneadCore where
  loaf : Option LoafHdr
  ctx : Ctx
  step : BitVec 64
  seed : List (BitVec 64)
  stream : Nat
  x : SMap (BitVec 64)
  v : SMap (List (BitVec 32))
  vin : SMap (BitVec 256)
  m : SMap (BitVec 256)
  shapeW : Nat
  shapeE : BitVec 64
  shapeS : BitVec 64
  loops : List LoopFrame
  ended : Bool
  passQ : List PassJob
  passRun : List PassJob
  lastPass : Option PassJob
  held : Option HeldPass
  acc : SMap (BitVec 64)
  dmaQ : List DmaJob
  dmaRun : Option DmaJob
  nonfinRaised : Bool
  waiting : Bool
  start : Nat
  nextAt : Nat
  ready : SMap Nat
  units : SMap Nat
  stored : Nat
  deriving DecidableEq, Repr

/-- A Sieve beside its registers (R167 to R176): the running loaf's header and context, whether a field of the header is
reserved, the job, the time it may begin or completes (local kc), and what the running job will write: its partials, the
first non-finite element (cause, row, column) and its scale underflows. `phase`: 0 idle, 1 ready, 2 waiting, 3 running. -/
structure SieveState where
  phase : Nat
  id : Nat
  kind : Nat
  length : Nat
  nJobs : Nat
  jobLine : Nat
  hdrBad : Bool
  ctx : Ctx
  start : Nat
  job : Nat
  t0 : Nat
  done : Nat
  jobId : Nat
  sig : Option Nat
  outs : List (Nat × Bytes)
  bad : Option (Nat × Nat × Nat)
  under : Nat
  nonfinRaised : Bool
  deriving DecidableEq, Repr

/-- One level of a signal core's loop state (R278, R284). -/
structure SigLoop where
  first : Nat
  last : Nat
  left : Nat
  stride : Nat
  deriving DecidableEq, Repr

/-- What exists in both banks of a signal core: scalar registers and loop state (R278), with the branches whose delay bundles
are still to issue (R277). -/
structure SigBank where
  x : SMap (BitVec 32)
  loops : List SigLoop
  rot : Nat
  branches : List (Nat × Nat)
  deriving DecidableEq, Repr

/-- Where a result of a signal core lands: a vector register by physical number, an accumulator, a scalar register of a bank,
the interrupt mask. -/
inductive SigDst where
  | v (n : Nat)
  | ac (n : Nat)
  | x (shadow : Bool) (n : Nat)
  | mask
  deriving DecidableEq, Repr

/-- A result on its way (R276): the kc at whose end it lands, the kc of its issue, its slot's rank, its lanes. -/
structure SigFlight where
  land : Nat
  issued : Nat
  rank : Nat
  dst : SigDst
  val : List Nat
  deriving DecidableEq, Repr

/-- What the SB slot does when its bundle has issued. -/
inductive SigAct where
  | none
  | branch (target : Nat)
  | loop (f : SigLoop)
  | skip (n : Nat)
  | reti
  | end_
  deriving DecidableEq, Repr

/-- A signal core beside its registers (R275 to R291). `slots` of the bundle at `pc` have issued, at local kc `at_`; `act` is what
its SB slot does at the bundle's end. `back` says that the bundle at `pc` is the one that an interrupt held back, which issues next
(R286, R287). Times are local kc of the tile. -/
structure SigCoreState where
  busy : Bool
  id : Nat
  kind : Nat
  length : Nat
  lo : Nat
  hi : Nat
  start : Nat
  pc : Nat
  main : SigBank
  shadow : SigBank
  inShadow : Bool
  resume : Nat
  mask : Nat
  timer : Option Nat
  armed : Option (Nat × Nat)
  v : SMap (List (BitVec 32))
  ac : SMap (List (BitVec 80))
  flight : List SigFlight
  slots : List Nat
  at_ : Nat
  act : SigAct
  nextAt : Nat
  waiting : Bool
  ended : Bool
  xferQ : List DmaJob
  xferRun : Option DmaJob
  back : Bool
  deriving DecidableEq, Repr

/-- A codec descriptor of a running loaf (Table 12.1): its eight words, its begin b and its occupancy O in loaf local time (R295). -/
structure CodecJob where
  words : List Nat
  b : Nat
  o : Nat
  deriving DecidableEq, Repr

/-- A codec engine beside its registers: the running loaf, how many descriptors have begun and completed, the bits of the
transport block so far, and how many descriptors, from the first, have had their saved iterations counted (R294, R300, R302). -/
structure CodecState where
  busy : Bool
  id : Nat
  start : Nat
  jobs : List CodecJob
  begun : Nat
  done : Nat
  tb : List Bool
  counted : Nat
  deriving DecidableEq, Repr

/-- How a loaf ended, until the steward's snapshot collects it: 0 complete, 1 ended by a failed check, 2 ended by a fault; and the
reason its entry's completion record names. -/
structure LoafDone where
  unit : BitVec 13
  loaf : Nat
  slice : Nat
  ctx : Nat
  outcome : Nat
  reason : Nat
  deriving DecidableEq, Repr

/-- A tier command as pushed (Table 08.7), with the tick of its push. -/
structure TierCmd where
  w0 : BitVec 64
  w1 : BitVec 64
  w2 : BitVec 64
  w3 : BitVec 64
  pushed : Nat
  deriving DecidableEq, Repr

/-- What the running command of a stream still does to the data (R202, R204). -/
inductive TierWork where
  | none | copy | evict | clean
  deriving DecidableEq, Repr

/-- The running command of a stream: its status so far (Table 08.9), its reason (Table 08.10), its data work, the Braid
operations it still waits for with the first failure, the host writes it waits for, the page that failed. -/
structure TierRun where
  cmd : TierCmd
  status : Nat
  reason : Nat
  work : TierWork
  left : Nat
  bad : Nat
  ids : List Nat
  page : Nat
  deriving DecidableEq, Repr

/-- The tier engine of a tile beside its registers: its queue and its two streams (R195, R197), and objects whose clean
pages are being repaired (Table 18.1), and commands a tile reset squashed that the next boundary slot reports (R210). -/
structure TierState where
  queue : List TierCmd
  int : Option TierRun
  ext : Option TierRun
  repair : List (Nat × Nat)
  dead : List TierCmd
  deriving DecidableEq, Repr

/-- What an issuer asks of the Braid fabric: a read, a write, a flagged write or a fence (R360, R367). -/
inductive AskKind where
  | read | write | flag | fence
  deriving DecidableEq, Repr

/-- A Braid operation that an issuer wants: `tag` is the issuer's own name for the work it belongs to, `place` the store
place where a read's line lands. -/
structure BraidAsk where
  issuer : BitVec 16
  tag : Nat
  slice : Nat
  kind : AskKind
  addr : Nat
  queue : Nat
  data : Bytes
  place : Nat
  flagCtr : Nat
  deriving DecidableEq, Repr

/-- Entries that one doorbell covers: the first sequence number, how many, and what has landed (R217). -/
structure TrayBatch where
  first : BitVec 64
  count : Nat
  landed : Option (List Bytes)
  deriving DecidableEq, Repr

/-- A tray beside its registers: the last doorbell value taken, fetched entries, how many of them the last snapshot saw,
a landed abort, the abort the snapshot saw, and one that waits for its entry (R217, R239). -/
structure TrayState where
  taken : BitVec 64
  batches : List TrayBatch
  seen : Nat
  abort : Option (BitVec 64)
  abortSeen : Option (BitVec 64)
  abortAhead : Option (BitVec 64)
  deriving DecidableEq, Repr

/-- How an accepted entry completes (Table 09.6): status, reason, object. -/
structure EntryEnd where
  status : Nat
  reason : Nat
  object : Nat
  deriving DecidableEq, Repr

/-- An accepted entry whose completion record is not yet written (R219 to R226). `pos` counts the steps placed, `done` those
complete, `reruns` the re-runs of the step at `done`; `leader` is the entry whose batch it runs in as row `row` (R232). -/
structure Entry where
  tray : Nat
  seq : BitVec 64
  raw : Bytes
  slice : Nat
  accepted : Nat
  journal : Nat
  pos : Nat
  done : Nat
  reruns : Nat
  deferrals : Nat
  leader : Option (Nat × BitVec 64)
  row : Nat
  aborted : Bool
  ending : Option EntryEnd
  doneTick : Nat
  deriving DecidableEq, Repr

/-- One role of a context: its logical core, the first bench line and the first counter it has there, and the image address
last copied for its core lane and its two Sieve lanes. -/
structure Role where
  core : Nat
  lo : Nat
  ctr : Nat
  img : Nat
  img0 : Nat
  img1 : Nat
  deriving DecidableEq, Repr

/-- Where a context stands (R228, R235, R236). -/
inductive CtxStage where
  | resident | saving | saved | restoring | dead
  deriving DecidableEq, Repr

/-- A context of a tile (R228). `live` is LIVE_LINES of the variant it last ran, `longest` the largest time of its save or
restore over its cores; `parked` the held passes that a restore returns to the arrays, by role. -/
structure TCtx where
  slice : Nat
  id : Nat
  prio : Nat
  lines : Nat
  ctrN : Nat
  spillOff : Nat
  argLine : Nat
  batchRows : Nat
  roles : List Role
  stage : CtxStage
  live : Nat
  longest : Nat
  parked : List (Nat × HeldPass)
  open_ : Bool
  deriving DecidableEq, Repr

/-- A FAPI request that a snapshot has taken (R254, R260): its cell, the first tick of its slot, its message, and how many of its
PDUs, from the first, were accepted. -/
structure RadioReq where
  cell : Nat
  start : Nat
  msg : Nat
  body : Bytes
  kept : Nat
  ok : Bool
  deriving DecidableEq, Repr

/-- A slot lost in a direction (R269): cell, first tick, 0 uplink or 1 downlink, cause of Table 10.11. -/
structure LostSlot where
  cell : Nat
  start : Nat
  dir : Nat
  cause : Nat
  deriving DecidableEq, Repr

/-- A PRB that has landed: eAxC entry, group tick, symbol of the slot, PRB (R251). -/
structure PrbMark where
  eaxc : Nat
  group : Nat
  sym : Nat
  prb : Nat
  deriving DecidableEq, Repr

/-- A HARQ soft buffer in use (R263): cell, buffer index, key, tick of its last write. -/
structure SoftBuf where
  cell : Nat
  index : Nat
  rnti : Nat
  proc : Nat
  tick : Nat
  deriving DecidableEq, Repr

/-- The radio state of a tile beside its registers: the last doorbell taken and its fetches, landed records the last snapshot saw,
requests taken, lost slots, PRBs landed and the PRBs of the snapshot, this tick's discards (late, early, unknown, duplicate),
whether the next indication carries LOST, frames sent by eAxC entry, soft buffers, and what has been sent or delivered already:
by 4 × cell + kind, the tick after it. -/
structure RadioState where
  taken : BitVec 64
  batches : List TrayBatch
  seen : Nat
  reqs : List RadioReq
  lost : List LostSlot
  present : List PrbMark
  snap : List PrbMark
  disc : Nat × Nat × Nat × Nat
  indLost : Bool
  frames : SMap Nat
  bufs : List SoftBuf
  sent : SMap Nat
  deriving DecidableEq, Repr

/-- A frame or packet in an egress queue: when it was enqueued (units of 0.2 ns), its bytes, and the kind of PTP message it is. -/
structure TxItem where
  since : Nat
  body : Bytes
  ptp : Option Nat
  deriving DecidableEq, Repr

/-- An egress queue: what waits, oldest first, its credit in units of 2^-16 bit and when that was last brought up to date. -/
structure TxQueue where
  items : List TxItem
  credit : Int
  at_ : Nat
  deriving DecidableEq, Repr

/-- The egress side of a fronthaul or Braid port beside its registers: queues, the queue that transmits and when it ends, the base
and cycle of the operative and the pending gate list (units of 0.2 ns), the pending takeover, live histogram bins by
16 × queue + bin, the tick after that of the last TX_DISCARD event. -/
structure PortState where
  queues : SMap TxQueue
  sending : Option Nat
  busyUntil : Nat
  base : Nat
  cycle : Nat
  takeover : Option Nat
  nextBase : Nat
  nextCycle : Nat
  depthBins : SMap Nat
  delayBins : SMap Nat
  discardTick : Nat
  deriving DecidableEq, Repr

/-- A pulse output beside its registers (R328): its next edge (units of 0.2 ns), whether it is high, period, width, and whether it
ends after the pulse in progress. -/
structure PulseState where
  next : Option Nat
  high : Bool
  period : Nat
  width : Nat
  ending : Bool
  deriving DecidableEq, Repr

/-- A capture input beside its registers (R329): entries and the last captured edge in units of 0.05 ns, and whether a discard since
the last pop was reported. -/
structure CaptState where
  fifo : List Nat
  last : Option Nat
  told : Bool
  deriving DecidableEq, Repr

/-- The clock beside its registers (R313 to R325): the latched NS, whether TIME_TOD was written for the next PPS_IN edge, the seconds of
the last one and its measurement in ps, the parent, measurements given and consecutive small ones, the integral part and past
adjustments (time, adj) in units of 2^-16 ppb, whether a step was withheld, when HOLDOVER began, ESMC by port (time after, DNU),
pulse outputs and capture inputs, and whether the 156.25 MHz reference is lost and the 10 MHz input is present. -/
structure TimeState where
  latched : Bool
  todSet : Bool
  ppsSec : Nat
  pps : Option Int
  parent : BitVec 64
  parentClass : Nat
  count : Nat
  small : Nat
  integ : Int
  hist : List (Nat × Int)
  withheld : Bool
  holdSince : Nat
  esmc : SMap (Nat × Bool)
  pulses : SMap PulseState
  capts : SMap CaptState
  refLost : Bool
  ten : Bool
  deriving DecidableEq, Repr

/-- A Braid operation in flight at its source (R360 to R378): issuer and its tag, physical node, line of the far offset, SEQ of a write
or TAG of a read with its generation, the place a read lands, when it was first and last sent (units of 0.2 ns). -/
structure BraidOp where
  id : Nat
  issuer : BitVec 16
  tag : Nat
  slice : Nat
  kind : AskKind
  addr : Nat
  node : Nat
  seq : Nat
  gen : Nat
  queue : Nat
  data : Bytes
  place : Nat
  flagCtr : Nat
  first : Nat
  last : Nat
  deriving DecidableEq, Repr

/-- The source side of a pair: NEXT_SEQ, credits beyond GUAR, dead (R363, R372, R376). -/
structure BraidSrc where
  next : Nat
  credits : Int
  dead : Bool
  deriving DecidableEq, Repr

/-- The destination side of a pair: BASE, sequence numbers set at or beyond it, held flags (SEQ, counter, slice), credits to
return with the next ACK (R364, R366, R373). -/
structure BraidDst where
  base : Nat
  set : List Nat
  flags : List (Nat × Nat × Nat)
  ret : Nat
  deriving DecidableEq, Repr

/-- An open fence: its issuer and tag, the writes it still waits for, the first failure in SEQ order (R367). -/
structure BraidFence where
  issuer : BitVec 16
  tag : Nat
  ids : List Nat
  bad : Option (Nat × Nat)
  deriving DecidableEq, Repr

/-- A firing of a put: its number, writes still to end, first status other than OK (R381). -/
structure PutRun where
  put : Nat
  run : Nat
  left : Nat
  status : Nat
  deriving DecidableEq, Repr

/-- A Braid link (R355 to R359): next FSEQ, data flits not yet acknowledged, last FSEQ received good, whether the receiver waits
for a replay and whether a NAK is to be sent, the packet being assembled, packets that arrived, units freed and credit at the far
end by virtual channel, units to send, and times of failed trainings by lane. -/
structure BraidLink where
  next : Nat
  replay : List (Nat × Bytes)
  good : Nat
  lost : Bool
  nak : Bool
  part : Bytes
  inq : List Bytes
  freed : List Nat
  credit : List Nat
  tx : Bytes
  fails : SMap (List Nat)
  deriving DecidableEq, Repr

/-- The Braid fabric's state beside its registers (chapter 15). `routes` holds 2 minus the route state of a destination; `outbox`
packets of the local port to be switched, `arrived` packets for it. -/
structure BraidState where
  pairs : SMap BraidSrc
  dests : SMap BraidDst
  ops : List BraidOp
  nextId : Nat
  gens : SMap Nat
  waiters : List (BitVec 16)
  fences : List BraidFence
  failed : List (BitVec 16 × Nat × Nat)
  outbox : List Bytes
  arrived : List Bytes
  granted : Nat
  routes : SMap Nat
  armed : SMap Nat
  launched : SMap Nat
  puts : List PutRun
  putStatus : SMap Nat
  hot : SMap (List (Nat × Nat))
  hotUs : Nat
  links : SMap BraidLink
  deriving DecidableEq, Repr

/-- The power governor and the supply beside their registers (chapter 23): the cause of the shutdown the device is in, 0 for none; whether
THERMTRIP_N is low; the second term of the envelope in mW and when it was computed; the envelope then drawn; the loads per tile last
measured; the excess bucket in mW × 0.2 ns; measured energy of this tick by tile in the same unit; tiles of a thermal emergency; runs of
the present emergency and the groups it has paused; when the last run began or ended; warnings given by tile (1 logic, 2 DRAM). -/
structure PowerState where
  off : Nat
  thermtrip : Bool
  decay : Nat
  at_ : Nat
  drawn : Nat
  loads : List Nat
  bucket : Nat
  energy : SMap Nat
  hot : List Nat
  runs : Nat
  paused : List Nat
  runAt : Nat
  warned : SMap Nat
  deriving DecidableEq, Repr

/-- The kinds of service transfer (R235, R236, R416), in the order they run within one slot. -/
inductive SvcKind where
  | save | zero | restore | copy
  deriving DecidableEq, Repr

/-- A service transfer of a core (R235): its context, role, cost in kc and what is left of it, the tick it was decided in,
the instant it began or continued in the present boundary window,
and the lines it zeroes, or the image address and lane it copies. -/
structure Svc where
  kind : SvcKind
  core : Nat
  slice : Nat
  ctx : Nat
  role : Nat
  cost : Nat
  left : Nat
  decided : Nat
  since : Option Nat
  lo : Nat
  hi : Nat
  image : Nat
  lane : Nat
  deriving DecidableEq, Repr

/-- A step placed in a tick (R231): its entry, its index among the entry's steps, chunk, step counter, offset and length, the
units of its lanes, which of them have started, and how those that ended ended. -/
structure Placed where
  tray : Nat
  seq : BitVec 64
  slice : Nat
  ctx : Nat
  index : Nat
  chunk : Nat
  counter : BitVec 64
  off : Nat
  len : Nat
  live : Nat
  lanes : List (Nat × Nat)
  started : List Nat
  results : List LoafDone
  deriving DecidableEq, Repr

/-- The scheduling state of a tile's steward (chapter 09): contexts, accepted entries, steps placed for the next tick and
steps that have run or run now, service transfers, who last held which bench lines since they were zeroed (core, first line,
line after, slice), and the first slice considered last. -/
structure Sched where
  ctxs : List TCtx
  entries : List Entry
  plan : List Placed
  running : List Placed
  svc : List Svc
  held : List (Nat × Nat × Nat × Nat)
  rot : Nat
  deriving DecidableEq, Repr

/-- A tile beside its registers (R45 to R56): the tick it works on, its local position and local kc, whether the device tick is one it
skips, whether it runs the fallback plan, whether its next plan is committed or the deadline has passed, ticks in a row under the fallback
plan, whether 0x1003 is raised for its tick, the tick of the last snapshot and whether its steps 2 and 3 are taken, landing flags and the snapshot's, a tile reset and a core
reset asked for, core resets due at the edge, cores stopped at a window edge with the local kc, state fields that a pause has replaced
(register, value), and how loaves ended, before and at the snapshot. -/
structure TileState where
  workTick : Nat
  pos : Nat
  lk : Nat
  skipped : Bool
  fallback : Bool
  committed : Bool
  late : Bool
  lateRun : Nat
  atRisk : Bool
  snapTick : Option Nat
  decided : Bool
  flags : List Nat
  snapFlags : List Nat
  resetAsked : Bool
  coreAsked : Option (BitVec 13)
  coreResets : List (BitVec 13)
  stopped : List (BitVec 13 × Nat)
  heldStates : List (Nat × Nat)
  done : List LoafDone
  snapDone : List LoafDone
  deriving DecidableEq, Repr

/-- A slice's command beside its registers (chapter 17): the command that has landed with its DRAIN_TICKS, the tick of its taking, the tick
by which what remains is squashed, the tick of snapshot C, entries squashed, references held at freeze (object, tier, address),
the image fetched, what the last snapshot found finished, the image's writes and its length. -/
structure SliceState where
  cmd : Nat
  drain : Nat
  tick : Nat
  limit : Nat
  done : Option Nat
  squashed : Nat
  refs : List (Nat × Nat × Nat)
  image : Option Bytes
  ready : Bool
  writes : List Nat
  len : Nat
  deriving DecidableEq, Repr

/-- A proving run placed on a unit (R440, R441): its PROVE_ID, unit within its tile, tick and offset, whether it is a repeat, the
temperatures when it started, and whether it completed. -/
structure ProveRun where
  id : Nat
  tile : Nat
  unit : Nat
  tick : Nat
  off : Nat
  rep : Bool
  temps : Option (Nat × Nat)
  ran : Bool
  deriving DecidableEq, Repr

/-- The integrity units beside their registers: proving runs placed or to be compared, units to be fenced at the next edge (tile, unit,
PROVE_ID, tick of the failed repeat), scrub cursors with the local kc of the next read, channels that have wrapped in this pass. -/
structure IntegState where
  runs : List ProveRun
  fences : List (Nat × Nat × Nat × Nat)
  cursor : SMap (Nat × Nat)
  wrapped : List Nat
  deriving DecidableEq, Repr

/-- A watched peer (R463): consecutive misses, whether it is SUSPECT, the TICK of its last heartbeat, the tick after that of the last
one that came in time. -/
structure Peer where
  misses : Nat
  suspect : Bool
  last : Nat
  got : Nat
  deriving DecidableEq, Repr

/-- A collective of a slice (R471, R472): its nodes, and triggers not yet taken: cause, tick, node. -/
structure Coll where
  nodes : List Nat
  triggers : List (Nat × Nat × Nat)
  deriving DecidableEq, Repr

/-- Membership beside its registers (chapter 20): the record in force, a staged one with its FORCE and whether its snapshot has counted
it, a fetch asked for (FORCE), peers by node, the ticks after those of the last heartbeat sent and due time passed, ticks in a row
that missed every peer, a fence decided for the next edge, collectives by slice, abort notices to send (node, COLL_ID, tick,
cause), the shadow chain with its last 256 pairs, the tick in which shadowing was set, and the last count compared. -/
structure MembState where
  record : Bytes
  staged : Bytes
  force : Bool
  counted : Bool
  fetch : Option Bool
  peers : SMap Peer
  hbTick : Nat
  dueTick : Nat
  isol : Nat
  fencing : Nat
  colls : SMap Coll
  notices : List (Nat × Nat × Nat × Nat)
  chain : Bytes
  count : Nat
  hist : List (Nat × Bytes)
  since : Nat
  lastCmp : Nat
  deriving DecidableEq, Repr

/-- An SPDM session (R511): its identifier, whether FINISH has completed it, its shared secret, its key updates. -/
structure Session where
  id : Nat
  live : Bool
  secret : Bytes
  updates : Nat
  deriving DecidableEq, Repr

/-- The security processor beside its registers (chapter 22): the card flash, which outlives power; S once recovered and whether the PUF
was read since power-on; when VIN rose; the firmware image it runs, the repair image in use with its field records, the alias seed;
DRAM training done, stewards released; the image being staged or staged, whether it is a repair image, whether it is fetched; tiles
a live apply still has to do, all it names, the tick since which the present one is waited for, tiles that run no loaf until their
new steward commits, the firmware a tile's steward runs where it differs; field records to be written; SPDM sessions, negotiation,
transcript and chunked messages; IDE key material by 32 × stream + 8 × set + sub-stream, and the key set that is active;
the ms from VIN to the stewards' release, and whether BOOT_DONE is still to be raised;
FW_CURRENT was switched for the next reset. -/
structure SecState where
  flash : SMap Byte
  seed : Option (BitVec 256)
  pufRead : Bool
  vinAt : Nat
  fw : Bytes
  repair : Bytes
  fields : List Bytes
  alias_ : BitVec 256
  trained : Bool
  released : Bool
  image : Bytes
  isRepair : Bool
  fetched : Bool
  live : List Nat
  liveMask : Nat
  liveSince : Nat
  quiet : List Nat
  tileFw : SMap Bytes
  toWrite : List Bytes
  sessions : List Session
  spdm : Nat
  log : Bytes
  chunks : Bytes
  chunkSeq : Nat
  reply : Bytes
  keys : SMap Bytes
  keySet : SMap Nat
  bootMs : Nat
  bootDue : Bool
  switched : Bool
  deriving DecidableEq, Repr

/-- A recipe image fetched and not yet checked (R70): persist on activation, its bytes, RECIPE_SRC_LEN, how the fetch ended. -/
structure RecipeFetch where
  persist : Bool
  image : Bytes
  len : Nat
  how : FetchEnd
  deriving DecidableEq, Repr

/-- A staged recipe image (R70, R71): its bytes, the tick it acts at, persist on activation, the logged amendments that a reload
replays with it, and whether it is a reload's. -/
structure StagedImage where
  image : Bytes
  act : Nat
  persist : Bool
  replay : List Bytes
  flash : Bool
  deriving DecidableEq, Repr

/-- The recipe store beside its registers (chapter 03): the image under check, staged images in staging order, flash writes not yet
verified (whole recipe or amendment with its effective digest), whether amendments of the recipe in force are persisted, the bytes used
in that slot's log, writes queued included, the recipe a reload has checked with its logged amendments, when the reload began, whether
the reload since the last reset was made, cells removed for a coming edge (cell, tick), whether Ethernet ports came up ahead of activation. -/
structure RecipeState where
  fetch : Option RecipeFetch
  staged : List StagedImage
  writes : List (Bool × Bytes × Bytes)
  persist : Bool
  logUsed : Nat
  reload : Option (Bytes × List Bytes)
  reloadAt : Nat
  reloaded : Bool
  ended : List (Nat × Nat)
  ahead : Bool
  deriving DecidableEq, Repr

/-- The device. `now` is device time in units of 0.2 ns, `edge` the tick whose edge was last passed. -/
structure Dev where
  now : Nat
  edge : Nat
  free : Nat
  readOut : Word
  regs : SMap Word
  mem : List Host.Cell
  lineErr : SMap (BitVec 16)
  written : SMap Bool
  ev : EvState
  hostWrites : List HostWrite
  hostNext : Nat
  sent : List Output
  tiles : SMap TileState
  ctrs : CtrState
  cfg : SMap Bytes
  knead : SMap KneadCore
  sieves : SMap SieveState
  tiers : SMap TierState
  asks : List BraidAsk
  trays : SMap TrayState
  sched : SMap Sched
  sig : SMap SigCoreState
  codec : SMap CodecState
  radio : SMap RadioState
  ports : SMap PortState
  time : TimeState
  sampled : Nat
  braid : BraidState
  power : PowerState
  peelSeen : List Nat
  slices : SMap SliceState
  sliceTick : Nat
  integ : IntegState
  memb : MembState
  sp : SecState
  recipe : RecipeState
  deriving DecidableEq, Repr

/-- The state: the commands that wait, oldest first, and the device. -/
structure State where
  pending : List Instr
  dev : Dev
  deriving DecidableEq, Repr

/-- The clock at power-on. -/
def TimeState.init : TimeState := ⟨false, false, 0, none, 0#64, 0, 0, 0, 0, [], false, 0, [], [], [], false, false⟩

/-- The fabric at power-on. -/
def BraidState.init : BraidState := ⟨[], [], [], 0, [], [], [], [], [], [], 0, [], [], [], [], [], [], 0, []⟩

/-- The supply at power-on. -/
def PowerState.init : PowerState := ⟨0, false, 0, 0, 0, [], 0, [], [], 0, [], 0, []⟩

/-- Membership at power-on: unjoined. -/
def MembState.init : MembState := ⟨[], [], false, false, none, [], 0, 0, 0, 0, [], [], [], 0, [], 0, 0⟩

/-- The security processor at first power-on: the flash as the erased part reads (log entry 29). -/
def SecState.init : SecState :=
  ⟨[], none, false, 0, [], [], [], 0#256, false, false, [], false, false, [], 0, 0, [], [], [], [], 0, [], [], 0, [], [], [], 0, false, false⟩

/-- The recipe store at power-on. -/
def RecipeState.init : RecipeState := ⟨none, [], [], false, 0, none, 0, false, [], false⟩

/-- The device after power-on (Table 00.7): every register at the value RegMap states, every store and queue empty. -/
def Dev.init : Dev :=
  { now := 0, edge := 0, free := 0, readOut := 0#64, regs := [], mem := [], lineErr := [], written := [],
    ev := ⟨[], [], [], [], [], [], []⟩, hostWrites := [], hostNext := 0, sent := [], tiles := [], ctrs := ⟨[], [], [], [], []⟩,
    cfg := [], knead := [], sieves := [], tiers := [], asks := [], trays := [], sched := [], sig := [], codec := [],
    radio := [], ports := [], time := TimeState.init, sampled := 0, braid := BraidState.init, power := PowerState.init, peelSeen := [],
    slices := [], sliceTick := 0, integ := ⟨[], [], [], []⟩, memb := MembState.init,
    sp := SecState.init, recipe := RecipeState.init }

/-- The machine right after power-on: no command waits. -/
def State.reset : State := ⟨[], Dev.init⟩

/-- Why the machine stops with a fault. No meaning of this model raises it. -/
inductive Fault where
  /-- Raised by no command: the spec gives every command of the table an effect. Safe: the machine would only stop. -/
  | none
  deriving DecidableEq, Repr

/-- Why a command has no meaning. -/
inductive Refusal where
  /-- Raised by an arm of Dispatch for a command not yet modelled. Safe: the machine only stops. -/
  | notModelled (mnemonic : String)
  deriving DecidableEq, Repr

end Sys2Proof.Machine
end

