-- ==== Sys2Proof/Machine/Ops.lean ====
section
/-! DEFINITION. Ops: the named operations every meaning is written with: keyed collections, registers and their fields,
statistics counters, free values, events, host writes, time, memory with its line checks, and counter signals. -/
namespace Sys2Proof.Machine

/-! ## Keyed collections -/

/-- The entry at a key, if listed. -/
def lookup? {V : Type} : SMap V → Nat → Option V
  | [], _ => none
  | (k, v) :: r, a => if k == a then some v else if a < k then none else lookup? r a

/-- The entry at a key, or the default. -/
def look {V : Type} (dflt : V) (m : SMap V) (a : Nat) : V := (lookup? m a).getD dflt

/-- Remove a key. -/
def erase {V : Type} : SMap V → Nat → SMap V
  | [], _ => []
  | (k, v) :: r, a => if k == a then r else if a < k then (k, v) :: r else (k, v) :: erase r a

/-- Insert or replace at a key. -/
def insertAt {V : Type} : SMap V → Nat → V → SMap V
  | [], a, x => [(a, x)]
  | (k, v) :: r, a, x => if k == a then (a, x) :: r else if a < k then (a, x) :: (k, v) :: r else (k, v) :: insertAt r a x

/-- Store at a key, keeping the canonical form: the default is never listed. -/
def store {V : Type} [DecidableEq V] (dflt : V) (m : SMap V) (a : Nat) (x : V) : SMap V :=
  if x = dflt then erase m a else insertAt m a x

/-- Keys strictly rising, all above a bound. -/
def risingFrom {V : Type} : Nat → SMap V → Bool
  | _, [] => true
  | b, (k, _) :: r => decide (b ≤ k) && risingFrom (k + 1) r

/-- The canonical form: keys strictly rising, no entry at the default its key has. -/
def SMap.wf {V : Type} [DecidableEq V] (dflt : Nat → V) (m : SMap V) : Bool :=
  risingFrom 0 m && m.all fun p => decide (p.2 ≠ dflt p.1)

/-! ## Registers -/

/-- The indices of an offset within a register's dimensions, none when it lies between instances. -/
def dimIndex : List (Nat × Nat) → Nat → Option (List Nat)
  | [], o => if o == 0 then some [] else none
  | (n, s) :: r, o => if o / s < n then (dimIndex r (o % s)).map (o / s :: ·) else none

/-- The register row and the indices that a BAR0 offset names. -/
def findIn : List RegRow → Nat → Option (RegRow × List Nat)
  | [], _ => none
  | r :: rs, a =>
    if a < r.base then findIn rs a else
    match dimIndex r.dims (a - r.base) with
    | some ix => some (r, ix)
    | none => findIn rs a

/-- The register at a BAR0 offset (R489). -/
def findReg (a : Nat) : Option (RegRow × List Nat) := findIn regRows a

/-- The power-on value of a row's fields. -/
def rowReset (r : RegRow) : Nat := r.flds.foldl (fun s f => s + f.rst * 2 ^ f.fld.lo) 0

/-- The class of a slice (Table 17.1). -/
def sliceClass (s : Nat) : Nat := if s == 0 then 0 else if s ≤ 7 then 1 else 2

/-- The power-on value of the register at an offset: its fields' values, the physical index of a core and the class of a slice. -/
def regReset (a : Nat) : Word :=
  match findReg a with
  | none => 0#64
  | some (r, ix) =>
    let own :=
      if r.base == Reg.KNEAD_CORE_CFG 0 0 then ix.getD 1 0 * 2 ^ 8
      else if r.base == Reg.SLICE_CFG 0 then sliceClass (ix.getD 0 0) * 2 ^ 20
      else 0
    BitVec.ofNat 64 (rowReset r + own)

/-- A register's word. -/
def Dev.reg (d : Dev) (a : Nat) : Word :=
  match lookup? d.regs a with
  | some v => v
  | none => regReset a

/-- Write a register's word, whatever its access types. -/
def Dev.setReg (d : Dev) (a : Nat) (v : Word) : Dev := { d with regs := store (regReset a) d.regs a v }

/-- A field of a word. -/
def fieldOf (f : Fld) (w : Word) : Nat := w.toNat / 2 ^ f.lo % 2 ^ f.w

/-- A word with one field replaced. -/
def putField (f : Fld) (w : Word) (v : Nat) : Word :=
  BitVec.ofNat 64 (w.toNat - fieldOf f w * 2 ^ f.lo + v % 2 ^ f.w * 2 ^ f.lo)

/-- A field of a register. -/
def Dev.getF (d : Dev) (a : Nat) (f : Fld) : Nat := fieldOf f (d.reg a)
/-- Set a field of a register. -/
def Dev.setF (d : Dev) (a : Nat) (f : Fld) (v : Nat) : Dev := d.setReg a (putField f (d.reg a) v)
/-- A one-bit field. -/
def Dev.getB (d : Dev) (a : Nat) (f : Fld) : Bool := d.getF a f == 1
/-- Set a one-bit field. -/
def Dev.setB (d : Dev) (a : Nat) (f : Fld) (b : Bool) : Dev := d.setF a f (if b then 1 else 0)

/-- Set several fields of one register. -/
def Dev.setFs (d : Dev) (a : Nat) (l : List (Fld × Nat)) : Dev :=
  d.setReg a (l.foldl (fun w p => putField p.1 w p.2) (d.reg a))

/-- The statistics rule (R30): a counter of width f.w whose overflow bit stands just above it. An increment that would
pass the largest value leaves it there and sets the overflow bit (R111). -/
def Dev.count (d : Dev) (a : Nat) (f : Fld) (n : Nat) : Dev :=
  if n == 0 then d else
  let v := d.getF a f
  if v + n < 2 ^ f.w then d.setF a f (v + n)
  else d.setFs a [(f, 2 ^ f.w - 1), (⟨f.lo + f.w, 1⟩, 1)]

/-- Registers in the reach of a reset of some part: those whose row and indices `p` admits return to their power-on value. -/
def Dev.resetRegs (d : Dev) (p : RegRow → List Nat → Bool) : Dev :=
  { d with regs := d.regs.filter fun e => match findReg e.1 with
      | some (r, ix) => !p r ix
      | none => true }

/-- The bits of a register whose fields have an access type that `p` admits. -/
def rowMask (r : RegRow) (p : Acc → Bool) : Word :=
  BitVec.ofNat 64 (r.flds.foldl (fun s f => if p f.acc then s + (2 ^ f.fld.w - 1) * 2 ^ f.fld.lo else s) 0)
/-- The bits of the register at an offset whose access type is `p`. -/
def regMask (a : Nat) (p : Acc → Bool) : Word := match findReg a with | some (r, _) => rowMask r p | none => 0#64
/-- A write of the RW and RWL fields of a register; its other fields keep their value. -/
def Dev.rwWrite (d : Dev) (a : Nat) (v : Word) : Dev :=
  let m := regMask a fun x => x == .rw || x == .rwl
  d.setReg a ((v &&& m) ||| (d.reg a &&& ~~~m))

/-! ## Free values -/

/-- A fresh word the spec does not state, and the device with its counter advanced (log entry 3). -/
def Dev.fresh (d : Dev) : Word × Dev := (Config.freeWord d.free, { d with free := d.free + 1 })
/-- A fresh run of n bytes. -/
def Dev.freshBytes (d : Dev) (n : Nat) : Bytes × Dev :=
  ((List.range n).map (Config.freeByte d.free), { d with free := d.free + 1 })

/-! ## Unit identifiers and masters -/

/-- A unit identifier (R24). -/
def unitId (tile type idx : Nat) : BitVec 16 := BitVec.ofNat 16 (tile * 0x2000 + type * 0x100 + idx)
/-- The tile steward of a tile. -/
def stewardOf (t : Nat) : BitVec 16 := unitId t 0x09 0
/-- The system steward. -/
def systemSteward : BitVec 16 := 0xF400#16
/-- The security processor. -/
def securityProcessor : BitVec 16 := 0xF500#16
/-- The CXL port as a unit. -/
def cxlPort : BitVec 16 := unitId 7 0x1A 0
/-- A Knead core as a unit. -/
def kneadUnit (t k : Nat) : BitVec 16 := unitId t 0x01 k
/-- The proof counter file of a tile. -/
def ctrFile (t : Nat) : BitVec 16 := unitId t 0x10 0
/-- The type and index of a codec engine (Table 01.7). -/
def engineUnit (t e : Nat) : BitVec 16 :=
  if e < 4 then unitId t 0x05 e else if e < 6 then unitId t 0x06 (e - 4)
  else if e == 6 then unitId t 0x07 0 else unitId t 0x08 0

/-! ## Time -/

/-- One kc in units of 0.2 ns (R34). -/
def kcU : Nat := 4
/-- The tick period in kc (Table 02.1). Codes 5 to 7 are rejected at load and read as 4. -/
def tickKc (code : Nat) : Nat := 78125 * 2 ^ min code 4
/-- The tick length in force, in kc. -/
def Dev.tickLen (d : Dev) : Nat := tickKc (d.getF Reg.TICK_CFG F.TICK_CFG_PERIOD)
/-- The tick length in units of 0.2 ns. -/
def Dev.tickU (d : Dev) : Nat := d.tickLen * kcU
/-- The tick number (R33). -/
def Dev.tickNo (d : Dev) : Nat := d.now / d.tickU
/-- The boundary length B. -/
def Dev.bLen (d : Dev) : Nat := d.getF Reg.TICK_CFG F.TICK_CFG_BOUNDARY_LEN
/-- The offset of the boundary start in the tick. -/
def Dev.bStart (d : Dev) : Nat := d.tickLen - d.bLen
/-- Whole seconds of device time. -/
def Dev.sec (d : Dev) : Nat := d.now / 5 / 1000000000
/-- Nanoseconds within the second. -/
def Dev.ns (d : Dev) : Nat := d.now / 5 % 1000000000

/-! ## Tiles -/

/-- A tile with no work behind it. -/
def TileState.init : TileState :=
  ⟨0, 0, 0, false, false, false, false, 0, false, none, false, [], [], false, none, [], [], [], [], []⟩
/-- A tile. -/
def Dev.tile (d : Dev) (t : Nat) : TileState := look TileState.init d.tiles t
/-- Replace a tile. -/
def Dev.setTile (d : Dev) (t : Nat) (x : TileState) : Dev := { d with tiles := store TileState.init d.tiles t x }
/-- The tile is paused by a stretch (R53). -/
def Dev.paused (d : Dev) (t : Nat) : Bool := d.getB (Reg.TICK_TILE_STATUS t) F.TICK_TILE_STATUS_PAUSED
/-- The stretch group of a tile (Table 02.7). -/
def Dev.groupOf (d : Dev) (t : Nat) : Nat := d.getF Reg.TICK_CFG F.TICK_CFG_STRETCH_GROUP / 8 ^ t % 8

/-- A tile as n kc of device time pass (R54): the local position advances unless the tile is paused or has reached the
boundary start, where it waits for the edge; the lag grows while it is paused short of there. -/
def Dev.advanceTile (n : Nat) (d : Dev) (t : Nat) : Dev :=
  let x := d.tile t
  if d.paused t then
    if x.pos < d.bStart then
      let lag := d.getF (Reg.TICK_TILE_STATUS t) F.TICK_TILE_STATUS_LAG + n
      let m := max (d.getF (Reg.TICK_TILE_STATUS t) F.TICK_TILE_STATUS_MAX_LAG) (min 0xFFF ((lag + 63) / 64))
      d.setFs (Reg.TICK_TILE_STATUS t) [(F.TICK_TILE_STATUS_LAG, lag), (F.TICK_TILE_STATUS_MAX_LAG, m)]
    else d
  else d.setTile t { x with pos := (if x.pos < d.bStart then min d.bStart (x.pos + n) else x.pos), lk := x.lk + n }

/-- The six tiles. -/
def tiles6 : List Nat := [0, 1, 2, 3, 4, 5]

/-- Device time moves n kc on (R34). -/
def Dev.advance (d : Dev) (n : Nat) : Dev :=
  if n == 0 then d else tiles6.foldl (Dev.advanceTile n) { d with now := d.now + n * kcU }

/-- Device time moves on to an instant, unless it lies behind. -/
def Dev.advanceTo (d : Dev) (u : Nat) : Dev := d.advance ((u - d.now + (kcU - 1)) / kcU)

/-! ## Events (R26 to R29) -/

/-- Insert a record after those that arose before it, and in ascending unit order among those of its own cycle (R29). -/
def insertEvent : List EventRec → EventRec → List EventRec
  | [], e => [e]
  | x :: r, e => if x.time == e.time && e.unit.toNat < x.unit.toNat then e :: x :: r else x :: insertEvent r e

/-- Raise an event. Slice 0xFF is an event tied to no slice. -/
def Dev.raise (d : Dev) (code : Nat) (slice : Nat) (unit : BitVec 16) (object : Nat) (detail : Nat) : Dev :=
  let e : EventRec := ⟨code, slice, unit, d.tickNo, d.now, BitVec.ofNat 32 object, BitVec.ofNat 64 detail, false⟩
  { d with ev := { d.ev with arisen := insertEvent d.ev.arisen e } }

/-- n little-endian bytes of a number. -/
def leBytes : Nat → Nat → Bytes
  | 0, _ => []
  | n + 1, v => BitVec.ofNat 8 v :: leBytes n (v / 256)
/-- The number of little-endian bytes. -/
def ofLe : Bytes → Nat
  | [] => 0
  | b :: r => b.toNat + 256 * ofLe r
/-- n bytes of a string from an offset, zero past its end. -/
def bytesAt (l : Bytes) (o n : Nat) : Bytes :=
  let s := (l.drop o).take n
  s ++ List.replicate (n - s.length) 0#8
/-- The little-endian number of n bytes at an offset. -/
def leAt (l : Bytes) (o n : Nat) : Nat := ofLe (bytesAt l o n)

/-- The 32 bytes of an event record (Table 01.8). -/
def EventRec.bytes (e : EventRec) : Bytes :=
  leBytes 2 e.code ++ leBytes 1 e.slice ++ leBytes 1 (if e.lost then 1 else 0) ++ leBytes 2 e.unit.toNat ++
  leBytes 2 (e.time / 5 / 1000000000) ++ leBytes 8 e.tick ++ leBytes 4 (e.time / 5 % 1000000000) ++
  leBytes 4 e.object.toNat ++ leBytes 8 e.detail.toNat

/-! ## Host writes (R484) and outputs -/

/-- Issue a write to host memory. -/
def Dev.hostWrite (d : Dev) (kind : HostKind) (slice addr : Nat) (data : Bytes) : Dev :=
  { d with hostWrites := d.hostWrites ++ [⟨d.hostNext, kind, slice, addr, data, 0⟩], hostNext := d.hostNext + 1 }
/-- Something leaves the device. -/
def Dev.send (d : Dev) (o : Output) : Dev := { d with sent := d.sent ++ [o] }

/-! ## Memory (R429 to R432) -/

/-- Internal place of a bench byte of a physical core: stores that have no device address of their own are placed above
the map of Table 08.2 (log entry 5). -/
def benchAt (t k b : Nat) : Nat := 0x030000000000 + t * 0x20000000 + k * 0x01000000 + b
/-- Internal place of a pantry byte: its device address (Table 08.2). -/
def pantryAt (t b : Nat) : Nat := 0x010000000000 + t * 0x04000000 + b
/-- Internal place of a signal-core data-memory byte. -/
def dmemAt (t d b : Nat) : Nat := 0x040000000000 + t * 0x00800000 + d * 0x00100000 + b
/-- Internal place of a signal-core program-memory byte. -/
def pmemAt (t d b : Nat) : Nat := 0x050000000000 + t * 0x00080000 + d * 0x00010000 + b

/-- What an unlisted byte reads as (log entry 6). -/
def memDflt : Byte := 0#8
/-- One byte of a store. -/
def Dev.byte (d : Dev) (a : Nat) : Byte := look memDflt d.mem a
/-- n bytes from an address. -/
def Dev.bytes (d : Dev) (a n : Nat) : Bytes := (List.range n).map fun i => d.byte (a + i)
/-- Store bytes from an address. -/
def storeBytes : SMap Byte → Nat → Bytes → SMap Byte
  | m, _, [] => m
  | m, a, b :: r => storeBytes (store memDflt m a b) (a + 1) r
/-- The difference between a line's stored check and the check of its data; zero when the line is good. -/
def Dev.errOf (d : Dev) (line : Nat) : BitVec 16 := look 0#16 d.lineErr line
/-- The line is bad (R429). -/
def Dev.bad (d : Dev) (line : Nat) : Bool := d.errOf line != 0#16

/-- A line's error after a write to it: a whole-line write makes it good, a merge into a bad line leaves its check XOR 0xFFFF (R430). -/
def Dev.touchLine (whole : Bool) (d : Dev) (line : Nat) : Dev :=
  let e := if whole || !d.bad line then 0#16 else 0xFFFF#16
  { d with lineErr := store 0#16 d.lineErr line e, written := store false d.written line true }

/-- Write bytes at an address; every line touched is checked under R430 and marked written (R194). -/
def Dev.write (d : Dev) (a : Nat) (l : Bytes) : Dev :=
  if l.isEmpty then d else
  let first := a / 64
  let last := (a + l.length - 1) / 64
  let d := (List.range (last + 1 - first)).foldl (fun d i =>
    let ln := first + i
    Dev.touchLine (decide (a ≤ ln * 64) && decide (ln * 64 + 64 ≤ a + l.length)) d ln) d
  { d with mem := storeBytes d.mem a l }

/-- Zero a range of a store by whole lines: every byte 0, every line good, written bits clear or set. -/
def Dev.zeroRange (d : Dev) (lo hi : Nat) (wr : Bool) : Dev :=
  let out := fun (a : Nat) => decide (a < lo) || decide (hi ≤ a)
  let d := { d with mem := d.mem.filter fun c => out c.1
                    lineErr := d.lineErr.filter fun c => out (c.1 * 64)
                    written := d.written.filter fun c => out (c.1 * 64) }
  if wr then (List.range ((hi - lo) / 64)).foldl (fun d i => { d with written := store false d.written (lo / 64 + i) true }) d else d

/-- One bit step of the line check (R429). -/
def checkBit (c : BitVec 16) : BitVec 16 := if c.getLsbD 15 then (c <<< 1) ^^^ 0x8BB7#16 else c <<< 1
/-- One byte of the line check, most significant bit first. -/
def checkByte (c : BitVec 16) (b : Byte) : BitVec 16 :=
  let x : BitVec 16 := c ^^^ BitVec.ofNat 16 (b.toNat * 256)
  (List.range 8).foldl (fun c _ => checkBit c) x
/-- The check of a line (R429): polynomial 0x8BB7, initial value 0xFFFF. -/
def lineCheck (l : Bytes) : BitVec 16 := l.foldl checkByte 0xFFFF#16

/-- Any line of a byte range is bad; the first such line. -/
def Dev.firstBad (d : Dev) (a n : Nat) : Option Nat :=
  (d.lineErr.find? fun e => decide (a / 64 ≤ e.1) && decide (e.1 * 64 < a + n)).map (·.1)

/-! ## The device address map (R186 to R188) -/

/-- The physical core that holds a logical index on a tile, by KNEAD_CORE_CFG (R15). -/
def Dev.physOf (d : Dev) (t i : Nat) : Option Nat :=
  (List.range 17).find? fun k =>
    d.getB (Reg.KNEAD_CORE_CFG t k) F.KNEAD_CORE_CFG_ENABLED && d.getF (Reg.KNEAD_CORE_CFG t k) F.KNEAD_CORE_CFG_LOGICAL == i
/-- The logical index a physical core holds, none while it is disabled. -/
def Dev.logicalOf (d : Dev) (t k : Nat) : Option Nat :=
  if d.getB (Reg.KNEAD_CORE_CFG t k) F.KNEAD_CORE_CFG_ENABLED then some (d.getF (Reg.KNEAD_CORE_CFG t k) F.KNEAD_CORE_CFG_LOGICAL) else none

/-- The size of the stack DRAM. -/
def dramSize : Nat := 0xC000000000
/-- The DPA lies in a tile's system reserve (R188). -/
def inReserve (x : Nat) : Bool := decide (x < dramSize) && decide (x % 2 ^ 37 ≥ 0x1FF0000000)
/-- The base of a tile's system reserve. -/
def reserveBase (t : Nat) : Nat := t * 2 ^ 37 + 0x1FF0000000
/-- The DRAM channel of its tile on which a DPA's line lies (R187). -/
def channelOf (x : Nat) : Nat := 4 * (x / 2 ^ 33 % 16) + 2 * (x / 2 ^ 32 % 2) + x / 64 % 2

/-- The store place of a device address (Table 08.2), none in a reserved region. -/
def Dev.place (d : Dev) (a : Nat) : Option Nat :=
  if a < dramSize then some a
  else if decide (0x010000000000 ≤ a) && decide (a < 0x010000000000 + 6 * 0x04000000) then some a
  else if decide (0x020000000000 ≤ a) && decide (a < 0x020000000000 + 6 * 0x10000000) then
    let o := a - 0x020000000000
    let b := o % 0x01000000
    if b < 0x00C00000 then (d.physOf (o / 0x10000000) (o / 0x01000000 % 16)).map fun k => benchAt (o / 0x10000000) k b else none
  else none

/-- The integrity block that holds a store place: tile, block index and unit (Table 18.2). A pantry bank is taken as 2 MiB
of consecutive bytes (log entry 7). -/
def blockOf (a : Nat) : Nat × Nat × BitVec 16 :=
  if a < dramSize then (a / 2 ^ 37, channelOf a, unitId (a / 2 ^ 37) 0x0C (channelOf a))
  else if a < 0x030000000000 then
    let o := a - 0x010000000000
    (o / 0x04000000, 64 + o % 0x04000000 / 0x200000, unitId (o / 0x04000000) 0x0B (o % 0x04000000 / 0x200000))
  else if a < 0x040000000000 then
    let o := a - 0x030000000000
    (o / 0x20000000, 96 + o % 0x20000000 / 0x01000000, unitId (o / 0x20000000) 0x01 (o % 0x20000000 / 0x01000000))
  else
    let o := a - 0x040000000000
    (o / 0x00800000, 113 + o % 0x00800000 / 0x00100000, unitId (o / 0x00800000) 0x04 (o % 0x00800000 / 0x00100000))

/-- The device address of a store place, none where the store has none: a disabled core's bench, signal-core memory. -/
def Dev.devAddrOf (d : Dev) (a : Nat) : Option Nat :=
  if a < 0x030000000000 then some a
  else if a < 0x040000000000 then
    let o := a - 0x030000000000
    let t := o / 0x20000000
    (d.logicalOf t (o % 0x20000000 / 0x01000000)).map fun i => 0x020000000000 + t * 0x10000000 + i * 0x01000000 + o % 0x01000000
  else none

/-- An unresolved error: the block's UNRESOLVED count and event 0x5001 (R433). `row` is the row of Table 18.1, from 0.
Where the line has no device address the OBJECT is a free value (log entry 3). -/
def Dev.unresolved (d : Dev) (line reader row slice : Nat) : Dev :=
  let (t, b, u) := blockOf (line * 64)
  let r := Reg.INTEG_BUCKET t b
  let was := d.getB r F.INTEG_BUCKET_OVF
  let d := d.count r F.INTEG_BUCKET_UNRESOLVED 1
  let d := if !was && d.getB r F.INTEG_BUCKET_OVF then d.raise 0x5007 0xFF (stewardOf t) r 0 else d
  match d.devAddrOf (line * 64) with
  | some a => d.raise 0x5001 slice u (a / 64 % 2 ^ 32) (reader + row * 256)
  | none => let (w, d) := d.fresh; d.raise 0x5001 slice u w.toNat (reader + row * 256)

/-! ## Counter signals (R387, R390) -/

/-- A scheduled signal, on its way for `delay` kc of the tile's local time. -/
def Dev.signal (d : Dev) (t c amount : Nat) (slice : Option Nat) (unit : BitVec 16) (delay : Nat) : Dev :=
  { d with ctrs := { d.ctrs with
      sigs := d.ctrs.sigs ++ [(⟨t, c, amount, slice, unit, (d.tile t).lk + delay, false⟩ : SigEv)] } }

/-- The counter identifier of R385. -/
def ctrId (t c : Nat) : Nat := t * 1024 + c

/-- The timeout of a slice's waits in local kc (R392). -/
def Dev.timeoutKc (d : Dev) (s : Nat) : Nat :=
  let us := d.getF (Reg.PROOF_TIMEOUT s) F.PROOF_TIMEOUT_US
  if us == 0 then 2 * d.tickLen else us * 1250

/-- The waits pending on a counter. -/
def Dev.waitersOf (d : Dev) (t c : Nat) : Nat :=
  d.ctrs.waits.countP fun w => w.tile == t && w.ctr == c && w.released.isNone

/-- PROOF_CTR.WAITERS follows the waits pending. -/
def Dev.syncWaiters (d : Dev) (t c : Nat) : Dev :=
  d.setF (Reg.PROOF_CTR t c) F.PROOF_CTR_WAITERS (d.waitersOf t c)

/-- Register a wait (R387). -/
def Dev.addWait (d : Dev) (t c amount : Nat) (take : Bool) (unit : BitVec 16) (slice : Nat) : Dev :=
  let lk := (d.tile t).lk
  let d := { d with ctrs := { d.ctrs with
      waits := d.ctrs.waits ++ [(⟨t, c, amount, take, unit, slice, lk + d.timeoutKc slice, none, false⟩ : Wait)] } }
  d.syncWaiters t c

/-- A landing signal is added to the counter's PEND sum, saturating with event 0xB004 (R390). -/
def Dev.landingSignal (d : Dev) (t c amount : Nat) (slice : Option Nat) (src : BitVec 16) : Dev :=
  let p := d.getF (Reg.PROOF_PEND t c) F.PROOF_PEND_PEND
  let room := min amount (0xFFFFFFFF - p)
  let d := { d with ctrs := { d.ctrs with
      pendSrc := store [] d.ctrs.pendSrc (ctrId t c) (look [] d.ctrs.pendSrc (ctrId t c) ++ [(⟨slice, room, src⟩ : LandSig)]) } }
  let d := d.setF (Reg.PROOF_PEND t c) F.PROOF_PEND_PEND (p + room)
  if p + amount < 2 ^ 32 then d
  else d.raise 0xB004 (d.getF (Reg.PROOF_CTR t c) F.PROOF_CTR_SLICE) (ctrFile t) (ctrId t c) (1 + src.toNat * 2 ^ 8)

/-! ## Running a meaning -/

/-- A command whose effect on the device is `f`: the queue is left as it is. While the supply is shut down nothing acts (R530). -/
def ran (s : State) (f : Dev → Dev) : Host.Outcome State Fault Refusal :=
  .next { s with dev := if s.dev.power.off = 0 then f s.dev else s.dev }
/-- A command that acts on a device that is shut down too: what its supply does. -/
def ranAlways (s : State) (f : Dev → Dev) : Host.Outcome State Fault Refusal := .next { s with dev := f s.dev }

/-- Under IDE_REQUIRED the host has no access until both streams are active (R494). -/
def Dev.ideBlocked (d : Dev) : Bool :=
  d.getB Reg.CXL_IDE F.CXL_IDE_REQUIRED && !(d.getB Reg.CXL_IDE F.CXL_IDE_IO_ACTIVE && d.getB Reg.CXL_IDE F.CXL_IDE_CM_ACTIVE)
/-- A master on the host's side of CXL.io: the host driver or a PASID's accesses (R397). -/
def fromHost (m : Master) : Bool := m.toNat / 256 == 0xC0
/-- A link held in CXL.io alone: configuration space and BAR0 are served, BAR2, CXL.mem and CXL.cache are not (R482). -/
def Dev.ioOnly (d : Dev) : Bool := d.getF Reg.CXL_LINK F.CXL_LINK_PROTO == 1
/-- Recovery mode: the boot ROM serves the SYS and SEC blocks alone (R510). -/
def Dev.recovery (d : Dev) : Bool := d.getF Reg.SEC_STATUS F.SEC_STATUS_STAGE == 2
/-- An access of a master to SYS or SEC: one from the host that IDE_REQUIRED keeps out changes nothing (R494). -/
def ranSys (m : Master) (s : State) (f : Dev → Dev) : Host.Outcome State Fault Refusal :=
  ran s fun d => if fromHost m && d.ideBlocked then d else f d
/-- A write of a master to any other register: ignored in recovery mode too (R510). -/
def ranFrom (m : Master) (s : State) (f : Dev → Dev) : Host.Outcome State Fault Refusal :=
  ranSys m s fun d => if d.recovery then d else f d
/-- A read by a master: zero in recovery mode (R510). -/
def ranRead (m : Master) (s : State) (f : Dev → Dev) : Host.Outcome State Fault Refusal :=
  ranSys m s fun d => if d.recovery then { d with readOut := 0#64 } else f d

end Sys2Proof.Machine
end

