-- ==== Sys2Proof/Machine/Active.lean ====
section
/-! DEFINITION. Active: the sections of the recipe in force, read where a rule names them. `Dev.cfg` holds the bytes of
each section in force under key 8 × type + tile, a device-wide section under tile 0; the accessors here read the record
formats of the chapters that define them. -/
namespace Sys2Proof.Machine

/-- The section types of Table 03.3. -/
def secPartition : Nat := 0x01
def secTick : Nat := 0x02
def secWindowMaps : Nat := 0x03
def secRoutes : Nat := 0x04
def secCells : Nat := 0x05
def secRadioCode : Nat := 0x06
def secMemory : Nat := 0x07
def secSlices : Nat := 0x08
def secPeel : Nat := 0x09
def secBraid : Nat := 0x0A
def secEthernet : Nat := 0x0B
def secTime : Nat := 0x0C
def secIntegrity : Nat := 0x0D
def secEnergy : Nat := 0x0E

/-- A section of the recipe in force; empty when there is none. -/
def Dev.section_ (d : Dev) (ty t : Nat) : Bytes := look [] d.cfg (8 * ty + t)

/-! ## MEMORY (R189) -/

/-- A range record (Table 08.4): base, end, slice, shared. -/
structure Range where
  lo : Nat
  hi : Nat
  slice : Nat
  shared : Bool
  deriving DecidableEq, Repr

/-- The range records of a MEMORY section. -/
def rangesOf (s : Bytes) : List Range :=
  (List.range (leAt s 0 4)).map fun i =>
    let o := 8 + 16 * i
    let b := leAt s o 8
    ⟨b, b + leAt s (o + 8) 4 * 0x200000, leAt s (o + 12) 1, leAt s (o + 13) 1 % 2 == 1⟩

/-- The slice's quota record (Table 08.5), none when it has none. -/
def quotaOf (s : Bytes) (sl : Nat) : Option Bytes :=
  let base := 8 + 16 * leAt s 0 4
  ((List.range (leAt s 4 4)).find? fun i => leAt s (base + 64 * i) 1 == sl).map fun i => bytesAt s (base + 64 * i) 64

/-- The ranges in force. -/
def Dev.ranges (d : Dev) : List Range := rangesOf (d.section_ secMemory 0)

/-- A quota of a slice: field at byte o of its record, zero without one (R190). -/
def Dev.quota (d : Dev) (sl o : Nat) : Nat :=
  match quotaOf (d.section_ secMemory 0) sl with
  | some q => leAt q o 4
  | none => 0

/-- The pantry region of a slice on a tile, in bytes from the pantry's start. -/
def Dev.pantryRegion (d : Dev) (sl t : Nat) : Nat × Nat :=
  match quotaOf (d.section_ secMemory 0) sl with
  | some q => (leAt q (32 + 4 * t) 2 * 4096, (leAt q (32 + 4 * t) 2 + leAt q (34 + 4 * t) 2) * 4096)
  | none => (0, 0)

/-- An address span is covered by a list of spans; fuel bounds the joins. -/
def covered (rs : List (Nat × Nat)) : Nat → Nat → Nat → Bool
  | 0, lo, hi => decide (hi ≤ lo)
  | k + 1, lo, hi =>
    if hi ≤ lo then true else
    match rs.find? fun r => decide (r.1 ≤ lo) && decide (lo < r.2) with
    | some r => covered rs k r.2 hi
    | none => false

/-- A DRAM span lies in the private ranges of a slice (R191). -/
def Dev.inPrivate (d : Dev) (sl lo hi : Nat) : Bool :=
  let rs := (d.ranges.filter fun r => r.slice == sl && !r.shared).map fun r => (r.lo, r.hi)
  covered rs (rs.length + 1) lo hi

/-- The range that holds a DPA. -/
def Dev.rangeAt (d : Dev) (x : Nat) : Option Range := d.ranges.find? fun r => decide (r.lo ≤ x) && decide (x < r.hi)

/-! ## SLICES (R410) -/

/-- The record of a slice (Table 17.2). -/
def Dev.sliceRec (d : Dev) (sl : Nat) : Option Bytes :=
  let s := d.section_ secSlices 0
  ((List.range (leAt s 0 1)).find? fun i => leAt s (64 + 64 * i) 1 == sl).map fun i => bytesAt s (64 + 64 * i) 64

/-- The recipe grants tile-global counter g of tile t to the slice. -/
def Dev.granted (d : Dev) (sl t g : Nat) : Bool :=
  match d.sliceRec sl with
  | some r => leAt r (8 + 2 * t) 2 / 2 ^ g % 2 == 1
  | none => false

/-- The slice is enabled (SLICE_CFG.EN). -/
def Dev.sliceOn (d : Dev) (sl : Nat) : Bool := d.getB (Reg.SLICE_CFG sl) F.SLICE_CFG_EN

/-- A unit may name a counter (R155, R389): its own range, or a tile-global counter granted to its slice. -/
def Dev.ctrAllowed (d : Dev) (t : Nat) (x : Ctx) (c : Nat) : Bool :=
  (decide (x.ctrLo ≤ c) && decide (c < x.ctrLo + x.ctrN)) || (decide (1008 ≤ c) && decide (c < 1024) && d.granted x.slice t (c - 1008))

/-- The counter is FORWARDING, so no wait may name it (R389). -/
def Dev.forwarding (d : Dev) (t c : Nat) : Bool := d.getF (Reg.PROOF_CTR t c) F.PROOF_CTR_STATE == 4

/-- A wait may name a counter: one it may name that is LIVE or BROKEN and owned by its slice (R386, R389, R395, log entry 11). -/
def Dev.waitAllowed (d : Dev) (t : Nat) (x : Ctx) (c : Nat) : Bool :=
  let r := Reg.PROOF_CTR t c
  let st := d.getF r F.PROOF_CTR_STATE
  d.ctrAllowed t x c && (st == 1 || st == 3) && d.getF r F.PROOF_CTR_SLICE == x.slice

/-- A scheduled signal of a unit (R387, R391, Table 16.3): own counters in the same kc, other counters of the tile 16 kc
later, through a FORWARDING counter to its far tile 40 kc later. -/
def Dev.unitSignal (d : Dev) (t c amount : Nat) (slice : Nat) (unit : BitVec 16) (own : Bool) : Dev :=
  if decide (1008 ≤ c) && d.forwarding t c then
    let r := Reg.PROOF_GLOBAL_CFG t (c - 1008)
    d.signal (d.getF r F.PROOF_GLOBAL_CFG_FWD_TILE) (1008 + d.getF r F.PROOF_GLOBAL_CFG_FWD_G) amount (some slice) unit 40
  else d.signal t c amount (some slice) unit (if own then 0 else 16)

/-! ## Bench lines kept clear of contexts (R142, R439) -/

/-- The radio range of a logical core: none unless PARTITION names it a radio core. -/
def Dev.radioRange (d : Dev) (t i : Nat) : Nat × Nat :=
  if d.section_ secRadioCode t == [] then (0, 0) else Config.radioLines (d.section_ secRadioCode t) t i
/-- The proving range of a tile's cores (R439, R446). `cfg` keeps a tile's INTEGRITY section as its header, its tile record and
the proving records of its units. -/
def Dev.proveRange (d : Dev) (t : Nat) : Nat × Nat :=
  let s := d.section_ secIntegrity t
  (leAt s 66 4, leAt s 66 4 + leAt s 70 4)

/-! ## ROUTES (R540) -/

/-- A route record (Table 01.14): far tile, hops, rate. -/
structure Route where
  farTile : Nat
  hops : Nat
  rate : Nat
  deriving DecidableEq, Repr

/-- The offset of the route records in a tile block. -/
def routeOff (b : Bytes) : Nat := 192 + 8 * leAt b 1 1
/-- The offset of the slot records in a tile block. -/
def slotOff (b : Bytes) : Nat := routeOff b + 16 * leAt b 2 2

/-- The route of an index on a tile, if the unit may use it (R540). -/
def Dev.routeFor (d : Dev) (t : Nat) (unit : BitVec 16) (idx : Nat) : Option Route :=
  let b := d.section_ secRoutes t
  let u := unit.toNat % 2 ^ 13
  match (List.range (leAt b 2 2)).find? fun i => leAt b (routeOff b + 16 * i) 2 == idx with
  | none => none
  | some i =>
    let o := routeOff b + 16 * i
    let named := (List.range (leAt b 4 2)).any fun j =>
      let p := slotOff b + 16 * j
      leAt b (p + 11) 1 == t && leAt b (p + 12) 2 == idx && (leAt b p 2 == u || leAt b (p + 2) 2 == u)
    if named then some ⟨leAt b (o + 2) 1, leAt b (o + 3) 1, leAt b (o + 7) 1⟩ else none

/-- Pantry bank b of a tile is a landing bank (Table 01.12). -/
def Dev.landingBank (d : Dev) (t b : Nat) : Bool := leAt (d.section_ secRoutes t) 8 4 / 2 ^ b % 2 == 1

/-! ## Membership as other units see it (R468, R472, R476) -/

/-- The device has fenced itself. -/
def Dev.selfFenced (d : Dev) : Bool := d.getF Reg.MEMB_STATUS F.MEMB_STATUS_STATE == 4
/-- Shadowing is set, and the slice of the shadowed tray. -/
def Dev.shadowOn (d : Dev) : Bool := d.getB Reg.MEMB_SHADOW F.MEMB_SHADOW_EN
def Dev.shadowSlice (d : Dev) : Nat := d.getF (Reg.TRAY_CFG (d.getF Reg.MEMB_SHADOW F.MEMB_SHADOW_TRAY)) F.TRAY_CFG_SLICE
/-- Field at byte o of member entry i of a record, and the index of a node's entry (Table 20.3). -/
def memberAt (r : Bytes) (i o n : Nat) : Nat := leAt r (64 + 8 * i + o) n
def memberOf (r : Bytes) (node : Nat) : Option Nat := (List.range (leAt r 16 2)).find? fun i => memberAt r i 0 2 == node
/-- The node that shadows this one, if any. -/
def Dev.shadowNode (d : Dev) : Option Nat :=
  let r := d.memb.record
  ((List.range (leAt r 16 2)).find? fun i => memberAt r i 4 1 == 2 && memberAt r i 6 2 == d.getF Reg.BRAID_CFG F.BRAID_CFG_NODE).map fun i => memberAt r i 0 2
/-- A slice is a collective slice. -/
def Dev.collective (d : Dev) (s : Nat) : Bool := decide (s < 64) && d.getB (Reg.MEMB_COLL s) F.MEMB_COLL_EN
/-- A trigger of a collective slice (R472); one of causes 1, 2, 3 and 5 owes an abort notice to every other node of the list (R473). -/
def Dev.trigger (d : Dev) (s cause tick node : Nat) : Dev :=
  if !d.collective s then d else
  let c := look ⟨[], []⟩ d.memb.colls s
  let me := d.getF Reg.BRAID_CFG F.BRAID_CFG_NODE
  let id := d.getF (Reg.MEMB_COLL s) F.MEMB_COLL_COLL_ID
  let out := if cause == 4 || cause == 6 then [] else (c.nodes.filter (· != me)).map fun n => (n, id, tick, cause)
  { d with memb := { d.memb with colls := store ⟨[], []⟩ d.memb.colls s { c with triggers := c.triggers ++ [(cause, tick, node)] },
                                 notices := d.memb.notices ++ out } }
/-- A trigger that arises here now. -/
def Dev.triggerHere (d : Dev) (s cause : Nat) : Dev := d.trigger s cause d.tickNo (d.getF Reg.BRAID_CFG F.BRAID_CFG_NODE)

end Sys2Proof.Machine
end

