-- ==== Sys2Proof/Machine/Counters.lean ====
section
/-! DEFINITION. Counters: the proof counter file of a tile (chapter 16): evaluation, the parked-signal queue, landing
signals, breaking, and the commands of the PROOF block. The release of a waiter is in Waits. -/
namespace Sys2Proof.Machine

/-- State and slice of a counter. -/
def Dev.ctrState (d : Dev) (t c : Nat) : Nat := d.getF (Reg.PROOF_CTR t c) F.PROOF_CTR_STATE
def Dev.ctrSlice (d : Dev) (t c : Nat) : Nat := d.getF (Reg.PROOF_CTR t c) F.PROOF_CTR_SLICE
def Dev.ctrValue (d : Dev) (t c : Nat) : Nat := d.getF (Reg.PROOF_CTR t c) F.PROOF_CTR_VALUE

/-- An event of the counter file (R406). -/
def Dev.ctrEvent (d : Dev) (code t c detail : Nat) : Dev := d.raise code (d.ctrSlice t c) (ctrFile t) (ctrId t c) detail

/-- An amount is added to VALUE, saturating with OVF and event 0xB004 (R386). -/
def Dev.ctrAdd (d : Dev) (t c amount : Nat) (src : BitVec 16) : Dev :=
  let r := Reg.PROOF_CTR t c
  let v := d.ctrValue t c + amount
  if v < 2 ^ 32 then d.setF r F.PROOF_CTR_VALUE v
  else (d.setFs r [(F.PROOF_CTR_VALUE, 0xFFFFFFFF), (F.PROOF_CTR_OVF, 1)]).ctrEvent 0xB004 t c (src.toNat * 2 ^ 8)

/-- The parked queue of a tile, and its level register (R393, Table 16.10). -/
def Dev.parked (d : Dev) (t : Nat) : List Parked := look [] d.ctrs.parked t
def Dev.setParked (d : Dev) (t : Nat) (l : List Parked) : Dev :=
  let r := Reg.PROOF_PARKED t
  let m := max (d.getF r F.PROOF_PARKED_MAX) l.length
  ({ d with ctrs := { d.ctrs with parked := store [] d.ctrs.parked t l } } : Dev).setFs r
    [(F.PROOF_PARKED_LEVEL, l.length), (F.PROOF_PARKED_MAX, m)]

/-- Discards counted in PROOF_DISCARD (R404). -/
def Dev.ctrDiscard (d : Dev) (t n : Nat) : Dev := d.count (Reg.PROOF_DISCARD t) F.PROOF_DISCARD_COUNT n

/-- A signal is discarded with event 0xB006. -/
def Dev.ctrRefuse (d : Dev) (t c amount : Nat) (src : BitVec 16) (landing : Bool) : Dev :=
  (d.ctrDiscard t 1).ctrEvent 0xB006 t c (d.ctrState t c + src.toNat * 2 ^ 8 + (if landing then 2 ^ 24 else 0) + amount % 2 ^ 32 * 2 ^ 32)

/-- A signal to a SAVED counter is parked; with the queue full it is lost (R393). -/
def Dev.park (d : Dev) (t c amount : Nat) (src : BitVec 16) : Dev :=
  let q := d.parked t
  if q.length < 256 then d.setParked t (q ++ [⟨c, amount, src⟩])
  else (((d.ctrDiscard t 1).setB (Reg.PROOF_CTR t c) F.PROOF_CTR_LOSS true)).ctrEvent 0xB005 t c (src.toNat + amount % 2 ^ 32 * 2 ^ 32)

/-- A signal meets its counter (R389, R390): applied, parked or discarded. -/
def Dev.ctrMeet (d : Dev) (t c amount : Nat) (slice : Option Nat) (src : BitVec 16) (landing : Bool) : Dev :=
  let own := match slice with | some s => s == d.ctrSlice t c | none => true
  match d.ctrState t c with
  | 1 => if own then d.ctrAdd t c amount src else d.ctrRefuse t c amount src landing
  | 2 => if own || landing then d.park t c amount src else d.ctrRefuse t c amount src landing
  | _ => d.ctrRefuse t c amount src landing

/-! ## Evaluation (R387, R388, R395) -/

/-- Waits in ascending unit-identifier order. -/
def insertWait (w : Wait) : List Wait → List Wait
  | [] => [w]
  | x :: r => if w.unit.toNat < x.unit.toNat then w :: x :: r else x :: insertWait w r

/-- Satisfied takes, in order, and what is left of VALUE. -/
def takesOf : List Wait → Nat → List Wait × Nat
  | [], v => ([], v)
  | w :: r, v =>
    if w.amount ≤ v then let (l, u) := takesOf r (v - w.amount); (w :: l, u) else takesOf r v

/-- Waits of a list become released at a local kc, with an error or without. -/
def Dev.releaseWaits (d : Dev) (ws : List Wait) (at_ : Nat) (bad : Bool) : Dev :=
  let f := fun (w : Wait) => if w.released.isNone && ws.contains w then { w with released := some at_, failed := bad } else w
  { d with ctrs := { d.ctrs with waits := d.ctrs.waits.map f } }

/-- One evaluation of a counter at local kc `e` of its tile (R388). -/
def Dev.ctrEvaluate (d : Dev) (t c e : Nat) : Dev :=
  let here := fun (x : SigEv) => x.tile == t && x.ctr == c && decide (x.at_ ≤ e)
  let mine := d.ctrs.sigs.filter here
  let d := { d with ctrs := { d.ctrs with sigs := d.ctrs.sigs.filter fun x => !here x } }
  let d := mine.foldl (fun d x => d.ctrMeet t c x.amount x.slice x.unit x.landing) d
  let open_ := d.ctrs.waits.filter fun w => w.tile == t && w.ctr == c && w.released.isNone
  if d.ctrState t c == 3 then (d.releaseWaits open_ (e + 8) true).syncWaiters t c
  else if d.ctrState t c != 1 then d
  else
    let v := d.ctrValue t c
    let watches := open_.filter fun w => !w.take && decide (w.amount ≤ v)
    let (takes, left) := takesOf ((open_.filter (·.take)).foldl (fun l w => insertWait w l) []) v
    ((d.releaseWaits (watches ++ takes) (e + 8) false).setF (Reg.PROOF_CTR t c) F.PROOF_CTR_VALUE left).syncWaiters t c

/-- The evaluation cycle that comes next for a counter: now while a wait it could release is open, else its earliest signal. -/
def Dev.nextEval (d : Dev) (t c : Nat) : Option Nat :=
  let lk := (d.tile t).lk
  let v := d.ctrValue t c
  let st := d.ctrState t c
  let due := d.ctrs.waits.any fun w => w.tile == t && w.ctr == c && w.released.isNone && (st == 3 || (st == 1 && decide (w.amount ≤ v)))
  if due then some lk else
  (d.ctrs.sigs.filter fun x => x.tile == t && x.ctr == c).foldl (fun m x => match m with
    | none => some x.at_
    | some y => some (min x.at_ y)) none

/-- COUNTER_EVALUATE: device time moves to the counter's next evaluation cycle, and the counter is evaluated there. -/
def counterEvaluateEffect (t c : Nat) (d : Dev) : Dev :=
  match d.nextEval t c with
  | none => d
  | some e => if d.paused t then d else let d := d.advance (e - (d.tile t).lk); d.ctrEvaluate t c (d.tile t).lk
def execCounterEvaluate (t : Tile) (c : CtrIx) (s : State) : Host.Outcome State Fault Refusal := ran s (counterEvaluateEffect t c)

/-! ## Landing signals (R390) -/

/-- PROOF_HOST_SIGNAL: the host driver's write carries no slice, a PASID's write carries its own; no other master writes it. -/
def proofHostSignalEffect (m : Master) (t : Nat) (v : Word) (d : Dev) : Dev :=
  let c := fieldOf F.PROOF_HOST_SIGNAL_COUNTER v
  let a := fieldOf F.PROOF_HOST_SIGNAL_AMOUNT v
  if m == hostDriver then d.landingSignal t c a none m
  else if m.toNat / 64 == 0xC000 / 64 then d.landingSignal t c a (some (m.toNat % 64)) m
  else d
def execProofHostSignal (m : Master) (t : Tile) (v : Word) (s : State) : Host.Outcome State Fault Refusal := ranFrom m s (proofHostSignalEffect m t v)

/-- PROOF_STEWARD_SIGNAL: the tile's steward and the system steward only (R404). -/
def proofStewardSignalEffect (m : Master) (t : Nat) (v : Word) (d : Dev) : Dev :=
  if m == stewardOf t || m == systemSteward then
    d.landingSignal t (fieldOf F.PROOF_STEWARD_SIGNAL_COUNTER v) (fieldOf F.PROOF_STEWARD_SIGNAL_AMOUNT v) none m
  else d
def execProofStewardSignal (m : Master) (t : Tile) (v : Word) (s : State) : Host.Outcome State Fault Refusal :=
  ranFrom m s (proofStewardSignalEffect m t v)

/-- The boundary snapshot takes a tile's PEND sums: what may be applied is kept for the next worked tick, the rest is parked
or discarded as the counter's state says. -/
def Dev.takePend (d : Dev) (t : Nat) : Dev :=
  let mine := d.ctrs.pendSrc.filter fun p => p.1 / 1024 == t
  let d := { d with ctrs := { d.ctrs with pendSrc := d.ctrs.pendSrc.filter fun p => !(p.1 / 1024 == t) } }
  mine.foldl (fun d p =>
    let c := p.1 % 1024
    let d := d.setF (Reg.PROOF_PEND t c) F.PROOF_PEND_PEND 0
    p.2.foldl (fun d s =>
      let own := match s.slice with | some x => x == d.ctrSlice t c | none => true
      if s.amount == 0 then d
      else if d.ctrState t c == 1 && own then
        { d with ctrs := { d.ctrs with taken := store 0 d.ctrs.taken p.1 (min 0xFFFFFFFF (look 0 d.ctrs.taken p.1 + s.amount)) } }
      else d.ctrMeet t c s.amount s.slice s.source true) d) d

/-- LANDING_SIGNAL_APPLY: at local position 16 of a tick whose work the tile does, each taken sum becomes one signal. -/
def landingSignalApplyEffect (t : Nat) (d : Dev) : Dev :=
  let mine := d.ctrs.taken.filter fun p => p.1 / 1024 == t
  if mine.isEmpty || d.paused t || (d.tile t).skipped || (d.tile t).pos ≥ d.bStart then d else
  let d := d.advance (16 - (d.tile t).pos)
  let d := { d with ctrs := { d.ctrs with taken := d.ctrs.taken.filter fun p => !(p.1 / 1024 == t) } }
  mine.foldl (fun d p => { d with ctrs := { d.ctrs with
    sigs := d.ctrs.sigs ++ [(⟨t, p.1 % 1024, p.2, none, 0#16, (d.tile t).lk, true⟩ : SigEv)] } }) d
def execLandingSignalApply (t : Tile) (s : State) : Host.Outcome State Fault Refusal := ran s (landingSignalApplyEffect t)

/-! ## The steward's writes and resets (R394 to R396, Table 16.5) -/

/-- Parked entries of a tile that `p` selects leave the queue. -/
def Dev.unpark (d : Dev) (t : Nat) (p : Parked → Bool) : Dev :=
  if (d.parked t).any p then d.setParked t ((d.parked t).filter fun x => !p x) else d

/-- A counter becomes BROKEN with event 0xB003 of a cause; its parked entries are discarded and counted. -/
def Dev.breakCtr (d : Dev) (t c cause : Nat) : Dev :=
  let n := (d.parked t).countP (·.ctr == c)
  (((d.ctrDiscard t n).unpark t (·.ctr == c)).setF (Reg.PROOF_CTR t c) F.PROOF_CTR_STATE 3).ctrEvent 0xB003 t c cause

/-- The boundary slot is open by device time (R45). -/
def Dev.inBoundary (d : Dev) : Bool := decide (d.now % d.tickU ≥ d.bStart * kcU)

/-- The steward's write of a counter. A restore from SAVED applies the parked entries in order, or breaks the counter when LOSS is set
(R394). A BROKEN counter leaves that state only to LIVE with VALUE 0 or to FREE (R395). -/
def Dev.ctrWrite (d : Dev) (t c : Nat) (v : Word) : Dev :=
  let r := Reg.PROOF_CTR t c
  let was := d.ctrState t c
  let loss := d.getB r F.PROOF_CTR_LOSS
  let new := fieldOf F.PROOF_CTR_STATE v
  let keep := was == 3 && !(new == 0 || (new == 1 && fieldOf F.PROOF_CTR_VALUE v == 0))
  let d := (d.rwWrite r v).setFs r [(F.PROOF_CTR_LOSS, 0), (F.PROOF_CTR_STATE, if keep then 3 else new)]
  let q := (d.parked t).filter (·.ctr == c)
  if was == 2 && new == 1 then
    if loss then d.breakCtr t c 2
    else q.foldl (fun d p => d.ctrAdd t c p.amount p.source) (d.unpark t (·.ctr == c))
  else if was == 2 && new == 0 then d.unpark t (·.ctr == c)
  else d
/-- The word of a counter with a value, state and slice. -/
def ctrWord (value state slice : Nat) : Word := putField F.PROOF_CTR_SLICE (putField F.PROOF_CTR_STATE (putField F.PROOF_CTR_VALUE 0#64 value) state) slice

/-- PROOF_CTR_WRITE: by the tile's steward in the boundary slot; any other write is ignored with event 0xB007 (R396). -/
def proofCtrWriteEffect (m : Master) (t c : Nat) (v : Word) (d : Dev) : Dev :=
  if m != stewardOf t || !d.inBoundary then d.raise 0xB007 0xFF (ctrFile t) (Reg.PROOF_CTR t c) m.toNat else d.ctrWrite t c v
def execProofCtrWrite (m : Master) (t : Tile) (c : CtrIx) (v : Word) (s : State) : Host.Outcome State Fault Refusal :=
  ranFrom m s (proofCtrWriteEffect m t c v)

/-- Counters of a tile whose registers are listed, which are the only ones that can be other than FREE. -/
def Dev.listedCtrs (d : Dev) (t : Nat) : List Nat :=
  (List.range 1024).filter fun c => (lookup? d.regs (Reg.PROOF_CTR t c)).isSome

/-- A core reset breaks the core's counters that are not FREE (Table 16.5). -/
def Dev.breakRange (d : Dev) (t lo n cause : Nat) : Dev :=
  ((d.listedCtrs t).filter fun c => decide (lo ≤ c) && decide (c < lo + n)).foldl (fun d c =>
    if d.ctrState t c == 0 then d else d.breakCtr t c cause) d
/-- A slice reset breaks every counter of the slice; a FREE one belongs to none. -/
def Dev.breakSlice (d : Dev) (s : Nat) : Dev :=
  tiles6.foldl (fun d t => (d.listedCtrs t).foldl (fun d c =>
    if d.ctrState t c != 0 && d.ctrSlice t c == s then d.breakCtr t c 1 else d) d) d
/-- Tile-global counters that the recipe grants to a slice return LIVE at 0, or FORWARDING. -/
def Dev.grantSlice (d : Dev) (t sl : Nat) : Dev :=
  (List.range 16).foldl (fun d g =>
    if d.granted sl t g then
      let fwd := d.getB (Reg.PROOF_GLOBAL_CFG t g) F.PROOF_GLOBAL_CFG_FWD
      d.setFs (Reg.PROOF_CTR t (1008 + g)) [(F.PROOF_CTR_VALUE, 0), (F.PROOF_CTR_OVF, 0), (F.PROOF_CTR_LOSS, 0),
        (F.PROOF_CTR_STATE, if fwd then 4 else 1), (F.PROOF_CTR_SLICE, sl)]
    else d) d
/-- Those of every slice. -/
def Dev.grantGlobals (d : Dev) (t : Nat) : Dev := (List.range 64).foldl (fun d sl => d.grantSlice t sl) d
/-- A tile reset frees the whole file (Table 16.5). -/
def Dev.clearCtrs (d : Dev) (t : Nat) : Dev :=
  let off := fun (p : Nat × Nat) => !(p.1 / 1024 == t)
  { d with ctrs :=
    { sigs := d.ctrs.sigs.filter fun x => !(x.tile == t), waits := d.ctrs.waits.filter fun x => !(x.tile == t),
      parked := erase d.ctrs.parked t, taken := d.ctrs.taken.filter off,
      pendSrc := d.ctrs.pendSrc.filter fun p => !(p.1 / 1024 == t) } }

/-- The details of a wait's events (Table 16.12). -/
def Wait.detail (w : Wait) (window : Bool) : Nat :=
  w.unit.toNat + (if w.take then 0 else 2 ^ 16) + (if window then 2 ^ 24 else 0) + w.amount % 2 ^ 32 * 2 ^ 32

/-- The waits of a unit still open at its window's edge end there with cause WINDOW (R392). -/
def Dev.windowWaits (d : Dev) (t : Nat) (u : BitVec 16) : Dev :=
  let mine := d.ctrs.waits.filter fun w => w.tile == t && w.unit == u
  let d := { d with ctrs := { d.ctrs with waits := d.ctrs.waits.filter fun w => !(w.tile == t && w.unit == u) } }
  mine.foldl (fun d w =>
    let d := d.syncWaiters t w.ctr
    if w.released.isNone then d.raise 0xB001 w.slice (ctrFile t) (ctrId t w.ctr) (w.detail true) else d) d

end Sys2Proof.Machine
end

