-- ==== Sys2Proof/Machine/Ports.lean ====
section
/-! DEFINITION. Ports: what fronthaul and Braid ports share: egress queues, gate lists, credit-based shaping, queue sampling and
histograms (R339 to R348, R379). A port's registers have the same offsets in both blocks. -/
namespace Sys2Proof.Machine

/-! ## The port -/

/-- The first register of a port's block, and its key among the ports. -/
def gpBase (g : GatePort) : Nat := match g with | .eth p => Reg.ETH_PORT_CFG p | .braid b => Reg.BRAID_PORT_CFG b
def gpKey (g : GatePort) : Nat := match g with | .eth p => p.val | .braid b => 16 + b.val
/-- The unit of a port's events: its MAC group, or the Braid port. -/
def gpUnit (g : GatePort) : BitVec 16 := match g with | .eth p => unitId 7 0x19 (p.val / 8) | .braid b => unitId 7 0x16 b
def gpIndex (g : GatePort) : Nat := match g with | .eth p => p.val | .braid b => b.val
/-- Registers of a port, named by those of Table 14.6. -/
def gpStatus (g : GatePort) : Nat := gpBase g + 0x8
def gpGateCmd (g : GatePort) : Nat := gpBase g + 0x10
def gpGateStatus (g : GatePort) : Nat := gpBase g + 0x18
def gpAdminSec (g : GatePort) : Nat := gpBase g + 0x20
def gpAdminTime (g : GatePort) : Nat := gpBase g + 0x28
def gpAdminN (g : GatePort) : Nat := gpBase g + 0x30
def gpTakeSec (g : GatePort) : Nat := gpBase g + 0x38
def gpTakeNs (g : GatePort) : Nat := gpBase g + 0x40
def gpQueue (g : GatePort) (q : Nat) : Nat := gpBase g + 0x100 + 0x20 * q
def gpQueueCfg (g : GatePort) (q : Nat) : Nat := gpBase g + 0x108 + 0x20 * q
def gpQueueMax (g : GatePort) (q : Nat) : Nat := gpBase g + 0x110 + 0x20 * q
def gpDepth (g : GatePort) (q k : Nat) : Nat := gpBase g + 0x400 + 0x100 * q + 8 * k
def gpDelay (g : GatePort) (q k : Nat) : Nat := gpBase g + 0x480 + 0x100 * q + 8 * k
def gpStore (g : GatePort) (b e : Nat) : Nat := match g with | .eth p => Reg.ETH_GATE_STORE p b e | .braid x => Reg.BRAID_GATE_STORE x b e

/-- A port at rest. -/
def TxQueue.init : TxQueue := ⟨[], 0, 0⟩
def PortState.init : PortState := ⟨[], none, 0, 0, 0, none, 0, 0, [], [], 0⟩
def Dev.port (d : Dev) (g : GatePort) : PortState := look PortState.init d.ports (gpKey g)
def Dev.setPort (d : Dev) (g : GatePort) (x : PortState) : Dev := { d with ports := store PortState.init d.ports (gpKey g) x }
def PortState.queue (x : PortState) (q : Nat) : TxQueue := look TxQueue.init x.queues q
def PortState.setQueue (x : PortState) (q : Nat) (y : TxQueue) : PortState := { x with queues := store TxQueue.init x.queues q y }

/-- The port exists: EN; its link is up. -/
def Dev.portOn (d : Dev) (g : GatePort) : Bool := d.getB (gpBase g) F.ETH_PORT_CFG_EN
def Dev.linkUp (d : Dev) (g : GatePort) : Bool := d.getB (gpStatus g) F.ETH_PORT_STATUS_LINK

/-- The port's record in the recipe (Table 14.5, R382), its FLAGS bit GATES, and its entry for a queue. -/
def Dev.portRec (d : Dev) (g : GatePort) : Bytes :=
  match g with
  | .eth p => bytesAt (d.section_ secEthernet 0) (64 + 256 * p.val) 256
  | .braid b => bytesAt (d.section_ secBraid 0) (64 + 256 * b.val) 256
def Dev.gatesOn (d : Dev) (g : GatePort) : Bool :=
  match g with | .eth _ => leAt (d.portRec g) 2 1 / 4 % 2 == 1 | .braid _ => leAt (d.portRec g) 1 1 % 2 == 1
/-- HI_CREDIT and LO_CREDIT of a queue, in bits. -/
def Dev.queueCredits (d : Dev) (g : GatePort) (q : Nat) : Nat × Nat :=
  let r := d.portRec g
  (leAt r (64 + 24 * q + 8) 4, leAt r (64 + 24 * q + 12) 4)
/-- The port's rate in Gbit/s: Table 14.1, or four Braid lanes of 400 Gbit/s (R355). -/
def Dev.portRate (d : Dev) (g : GatePort) : Nat :=
  match g with
  | .eth _ => 2 ^ d.getF (gpBase g) F.ETH_PORT_CFG_LANES * 25 * 2 ^ d.getF (gpBase g) F.ETH_PORT_CFG_RATE
  | .braid _ => 1600

/-- A statistics counter of a port: event 0x9005 or 0xA00B when its overflow bit is set (R351, R384). -/
def Dev.portCount (d : Dev) (g : GatePort) (r : Nat) (f : Fld) (n : Nat) : Dev :=
  let was := d.getB r ⟨f.lo + f.w, 1⟩
  let d := d.count r f n
  if was || !d.getB r ⟨f.lo + f.w, 1⟩ then d else
  match g with
  | .eth p => d.raise 0x9005 0xFF (gpUnit g) p.val (r % 2 ^ 16)
  | .braid _ => d.raise 0xA00B 0xFF (unitId 7 0x17 0) (r % 2 ^ 20) 0

/-! ## Gate lists (R342) -/

/-- The entries of a bank. -/
def Dev.gateEntries (d : Dev) (g : GatePort) (b n : Nat) : List Nat := (List.range n).map fun e => (d.reg (gpStore g b e)).toNat
/-- Spans of one cycle with the gates open in each: first, one past the last, gates; times in units of 0.2 ns. -/
def gateSpans (cycle : Nat) : Nat → List Nat → List (Nat × Nat × Nat)
  | _, [] => []
  | a, e :: r =>
    if a ≥ cycle then [] else
    let stop := if r.isEmpty then cycle else min cycle (a + e / 2 ^ 32 * 5)
    (a, stop, e % 256) :: gateSpans cycle (a + e / 2 ^ 32 * 5) r
/-- The operative bank's spans. -/
def Dev.operSpans (d : Dev) (g : GatePort) : List (Nat × Nat × Nat) :=
  let s := gpGateStatus g
  gateSpans (d.port g).cycle 0 (d.gateEntries g (d.getF s F.ETH_GATE_STATUS_OPER_BANK) (d.getF s F.ETH_GATE_STATUS_OPER_N))
/-- The place of an instant in the operative cycle. -/
def PortState.phase (x : PortState) (u : Nat) : Nat := (((u : Int) - x.base) % (x.cycle : Int)).toNat
/-- The gates at an instant: all open with GATES = 0. -/
def Dev.gatesAt (d : Dev) (g : GatePort) (u : Nat) : Nat :=
  if !d.gatesOn g then 255 else
  let o := (d.port g).phase u
  match (d.operSpans g).find? fun s => decide (s.1 ≤ o) && decide (o < s.2.1) with
  | some s => s.2.2
  | none => 0
def gateBit (gates q : Nat) : Bool := gates / 2 ^ q % 2 == 1
/-- How long after place `o` of a list's cycle a queue's gate first closes at a span that begins at `lo` or later, none when it never does. -/
def closesAfter (ss : List (Nat × Nat × Nat)) (cycle lo o q : Nat) : Option Nat :=
  (((ss.filter fun s => decide (lo ≤ s.1)) ++ ss.map fun s => (s.1 + cycle, s.2.1 + cycle, s.2.2)).find? fun s => !gateBit s.2.2 q).map fun s => s.1 - o
/-- How long a queue's gate stays open from now, none when it never closes: the next closing of the operative list, or, from a pending
takeover on, of the list that takes over. -/
def Dev.gateCloseIn (d : Dev) (g : GatePort) (q : Nat) : Option Nat :=
  if !d.gatesOn g then none else
  let x := d.port g
  let o := x.phase d.now
  let own := closesAfter (d.operSpans g) x.cycle (o + 1) o q
  match x.takeover with
  | none => own
  | some u =>
    let w := u - d.now
    let first := gateSpans x.nextCycle 0 (d.gateEntries g (1 - d.getF (gpGateStatus g) F.ETH_GATE_STATUS_OPER_BANK) (d.getF (gpAdminN g) F.ETH_GATE_ADMIN_N_N))
    let next := (closesAfter first x.nextCycle 0 0 q).map (· + w)
    match own with
    | some a => if a < w then some a else next
    | none => next
/-- The next instant at which an interval of the operative list begins; none when a takeover ends the interval in progress before it. -/
def Dev.nextInterval (d : Dev) (g : GatePort) : Option Nat :=
  if !d.gatesOn g then none else
  let x := d.port g
  let o := x.phase d.now
  ((d.operSpans g).find? fun s => decide (s.1 ≤ o) && decide (o < s.2.1)).bind fun s =>
    let v := d.now + (s.2.1 - o)
    match x.takeover with
    | some u => if u ≤ v then none else some v
    | none => some v

/-! ## Credit (R345) -/

/-- The change of a credit in units of 2^-16 bit over a span of 0.2 ns units at a slope in kbit/s. -/
def creditOver (slope : Int) (dt : Nat) : Int := slope * dt * 131072 / 10000000
/-- A queue's credit brought up to date; the gate state is that of the span's start (log entry 21). -/
def Dev.creditTo (d : Dev) (g : GatePort) (q : Nat) : Int :=
  let x := d.port g
  let y := x.queue q
  let idle : Int := d.getF (gpQueueCfg g q) F.ETH_QUEUE_CFG_IDLE_SLOPE
  if idle == 0 then 0 else
  let (hi, lo) := d.queueCredits g q
  let clamp := fun (c : Int) => max (-(lo : Int) * 65536) (min ((hi : Int) * 65536) c)
  let tx := if x.sending == some q then min d.now x.busyUntil - y.at_ else 0
  let c := clamp (y.credit + creditOver (idle - (d.portRate g : Int) * 1000000) tx)
  let rest := d.now - y.at_ - tx
  if y.items.isEmpty then (if c > 0 then 0 else min 0 (c + creditOver idle rest))
  else if gateBit (d.gatesAt g y.at_) q then clamp (c + creditOver idle rest) else c

/-- Bytes a queue holds. -/
def TxQueue.depth (y : TxQueue) : Nat := (y.items.map (·.body.length)).sum
/-- Every queue of a port is brought up to now, and its register shown. -/
def Dev.portSync (d : Dev) (g : GatePort) : Dev :=
  let d := (List.range 8).foldl (fun (d : Dev) q =>
    let c := d.creditTo g q
    let x := d.port g
    let y := x.queue q
    let d := if y.items.isEmpty && c == 0 then d.setPort g (x.setQueue q TxQueue.init)
      else d.setPort g (x.setQueue q { y with credit := c, at_ := d.now })
    d.setFs (gpQueue g q) [(F.ETH_QUEUE_CREDIT, ((c / 65536) % (2 ^ 32 : Int)).toNat), (F.ETH_QUEUE_DEPTH, y.depth)]) d
  let x := d.port g
  if x.busyUntil ≤ d.now then d.setPort g { x with sending := none } else d

/-- A queue may start an item that takes `len` units: its gate stays open for it and its credit is not negative (R341, R342). -/
def Dev.qualifies (d : Dev) (g : GatePort) (q len : Nat) : Bool :=
  gateBit (d.gatesAt g d.now) q && (match d.gateCloseIn g q with | some c => decide (len ≤ c) | none => true) &&
  (d.getF (gpQueueCfg g q) F.ETH_QUEUE_CFG_IDLE_SLOPE == 0 || decide (((d.port g).queue q).credit ≥ 0))

/-! ## Sampling (R347, R348) -/

/-- The bin of a value: `base` is 64 for bytes, 10 for nanoseconds (Table 14.4). -/
def binOf (base v : Nat) : Nat := ((List.range 14).find? fun i => decide (v < base * 2 ^ (i + 1))).map (· + 1) |>.getD 15
/-- A live bin counts under R30: 32 bits and an overflow bit above them. -/
def binAdd (v : Nat) : Nat := if v % 2 ^ 32 + 1 < 2 ^ 32 then v + 1 else 2 ^ 33 - 1

/-- One queue of a port samples its depth and its delay. -/
def Dev.sampleQueue (g : GatePort) (d : Dev) (q : Nat) : Dev :=
  let x := d.port g
  let y := x.queue q
  let wait := match y.items with | [] => 0 | i :: _ => (d.now - i.since) / 5
  let kd := 16 * q + (if y.items.isEmpty then 0 else binOf 64 y.depth)
  let kw := 16 * q + (if y.items.isEmpty then 0 else binOf 10 wait)
  let past := fun (d : Dev) (r was : Nat) => if was < 2 ^ 32 && binAdd was ≥ 2 ^ 32 then
    (match g with | .eth p => d.raise 0x9005 0xFF (gpUnit g) p.val (r % 2 ^ 16) | .braid _ => d.raise 0xA00B 0xFF (unitId 7 0x17 0) (r % 2 ^ 20) 0) else d
  let d := past d (gpDepth g q (kd % 16)) (look 0 x.depthBins kd)
  let d := past d (gpDelay g q (kw % 16)) (look 0 x.delayBins kw)
  let d := d.setPort g { x with depthBins := store 0 x.depthBins kd (binAdd (look 0 x.depthBins kd)),
                                delayBins := store 0 x.delayBins kw (binAdd (look 0 x.delayBins kw)) }
  let r := gpQueueMax g q
  d.setFs r [(F.ETH_QUEUE_MAX_MAX_DEPTH, max (d.getF r F.ETH_QUEUE_MAX_MAX_DEPTH) y.depth),
    (F.ETH_QUEUE_MAX_MAX_DELAY, max (d.getF r F.ETH_QUEUE_MAX_MAX_DELAY) (min 0xFFFFFFFF wait))]

/-- Every port. -/
def allPorts : List GatePort := (List.finRange 16).map GatePort.eth ++ (List.finRange 8).map GatePort.braid

/-- QUEUE_SAMPLE: device time moves to the next whole microsecond not yet sampled, and every queue of every port samples there. -/
def queueSampleEffect (d : Dev) : Dev :=
  let u := (d.now + 4999) / 5000 * 5000
  let u := if d.sampled == u + 1 then u + 5000 else u
  let d := { d.advanceTo u with sampled := u + 1 }
  (allPorts.filter d.portOn).foldl (fun (d : Dev) g => (List.range 8).foldl (Dev.sampleQueue g) (d.portSync g)) d
def execQueueSample (s : State) : Host.Outcome State Fault Refusal := ran s queueSampleEffect

/-- A master that reaches device-level registers: the host driver and units, not a slice's PASID (R408). -/
def devMaster (m : Master) : Bool := !(m.toNat / 64 == 0xC000 / 64)

/-- HIST_SNAP: every bin goes to the snapshot registers, and the live bins are cleared. -/
def histSnapEffect (m : Master) (g : GatePort) (d : Dev) : Dev :=
  if !devMaster m then d else
  let x := d.port g
  let d := (List.range 8).foldl (fun (d : Dev) q => (List.range 16).foldl (fun (d : Dev) k =>
    (d.setReg (gpDepth g q k) (BitVec.ofNat 64 (look 0 x.depthBins (16 * q + k)))).setReg (gpDelay g q k) (BitVec.ofNat 64 (look 0 x.delayBins (16 * q + k)))) d) d
  d.setPort g { x with depthBins := [], delayBins := [] }
def execHistSnap (m : Master) (g : GatePort) (s : State) : Host.Outcome State Fault Refusal := ranFrom m s (histSnapEffect m g)

/-! ## Changing a gate list (R343, R344) -/

/-- Masters that may change gate lists: a PASID bound to slice 0, the host driver (worked example of Table 14.3), the system steward. -/
def gateMaster (m : Master) : Bool := m == 0xC000#16 || m == hostDriver || m == systemSteward
/-- A refusal: event 0x9003 or 0xA009 with its reason, the register and the writer. -/
def Dev.gateRefuse (d : Dev) (g : GatePort) (reason r : Nat) (m : Master) : Dev :=
  d.raise (match g with | .eth _ => 0x9003 | .braid _ => 0xA009) 0xFF (gpUnit g) (gpIndex g) (reason + r % 2 ^ 24 * 2 ^ 8 + m.toNat * 2 ^ 32)

/-- The takeover time of a list with a base and a cycle: the base, or the first cycle start at least 1 µs from now. -/
def Dev.takeoverOf (d : Dev) (base cycle : Nat) : Nat :=
  let lim := d.now + 5000
  if lim ≤ base then base else base + ceilDiv (lim - base) cycle * cycle

/-- GATE_CHANGE_CMD: CMD = 1. -/
def gateChangeCmdEffect (m : Master) (g : GatePort) (d : Dev) : Dev :=
  let n := d.getF (gpAdminN g) F.ETH_GATE_ADMIN_N_N
  let cyc := d.getF (gpAdminTime g) F.ETH_GATE_ADMIN_TIME_CYCLE
  if n == 0 || decide (n > 256) || cyc % 4 != 0 || decide (cyc < 1000) || decide (cyc > 10 ^ 9) then d.gateRefuse g 3 (gpGateCmd g) m
  else if !gateMaster m then d.gateRefuse g 4 (gpGateCmd g) m
  else
    let base := (d.getF (gpAdminSec g) F.ETH_GATE_ADMIN_BASE_SEC_SEC * 1000000000 + d.getF (gpAdminTime g) F.ETH_GATE_ADMIN_TIME_BASE_NS) * 5
    let u := d.takeoverOf base (cyc * 5)
    let d := d.setPort g { d.port g with takeover := some u, nextBase := u, nextCycle := cyc * 5 }
    ((d.setB (gpGateStatus g) F.ETH_GATE_STATUS_PENDING true).setF (gpTakeSec g) F.ETH_GATE_TAKEOVER_SEC_SEC (u / 5 / 1000000000)).setF
      (gpTakeNs g) F.ETH_GATE_TAKEOVER_NS_NS (u / 5 % 1000000000)
def execGateChangeCmd (m : Master) (g : GatePort) (s : State) : Host.Outcome State Fault Refusal := ranFrom m s (gateChangeCmdEffect m g)

/-- GATE_CANCEL_CMD: CMD = 2; in the cycle of the takeover it is ignored. -/
def gateCancelCmdEffect (m : Master) (g : GatePort) (d : Dev) : Dev :=
  if !gateMaster m then d.gateRefuse g 4 (gpGateCmd g) m else
  match (d.port g).takeover with
  | none => d
  | some u => if d.now + kcU > u then d else (d.setPort g { d.port g with takeover := none }).setB (gpGateStatus g) F.ETH_GATE_STATUS_PENDING false
def execGateCancelCmd (m : Master) (g : GatePort) (s : State) : Host.Outcome State Fault Refusal := ranFrom m s (gateCancelCmdEffect m g)

/-- The register an administrative write addresses. -/
def gateRegOf (g : GatePort) : GateReg → Nat
  | .baseSec => gpAdminSec g
  | .time => gpAdminTime g
  | .n => gpAdminN g
  | .entry b e => gpStore g b e

/-- GATE_ADMIN_WRITE: reasons 1, 2 and 4 in that order (log entry 21). -/
def gateAdminWriteEffect (m : Master) (g : GatePort) (w : GateReg) (v : Word) (d : Dev) : Dev :=
  let r := gateRegOf g w
  let oper := match w with | .entry b _ => b.val == d.getF (gpGateStatus g) F.ETH_GATE_STATUS_OPER_BANK | _ => false
  if oper then d.gateRefuse g 2 r m
  else if d.getB (gpGateStatus g) F.ETH_GATE_STATUS_PENDING then d.gateRefuse g 1 r m
  else if !gateMaster m then d.gateRefuse g 4 r m
  else d.rwWrite r v
def execGateAdminWrite (m : Master) (g : GatePort) (w : GateReg) (v : Word) (s : State) : Host.Outcome State Fault Refusal :=
  ranFrom m s (gateAdminWriteEffect m g w v)

/-- GATE_TAKEOVER: at the takeover time the banks swap. -/
def gateTakeoverEffect (g : GatePort) (d : Dev) : Dev :=
  match (d.port g).takeover with
  | none => d
  | some u =>
    let d := (d.advanceTo u).portSync g
    let s := gpGateStatus g
    let bank := 1 - d.getF s F.ETH_GATE_STATUS_OPER_BANK
    let x := d.port g
    let d := d.setPort g { x with takeover := none, base := x.nextBase, cycle := x.nextCycle }
    let d := d.setFs s [(F.ETH_GATE_STATUS_OPER_BANK, bank), (F.ETH_GATE_STATUS_PENDING, 0), (F.ETH_GATE_STATUS_OPER_N, d.getF (gpAdminN g) F.ETH_GATE_ADMIN_N_N)]
    d.raise (match g with | .eth _ => 0x9002 | .braid _ => 0xA008) 0xFF (gpUnit g) (gpIndex g)
      (u / 5 / 1000000000 % 2 ^ 16 + u / 5 % 1000000000 * 2 ^ 16 + bank * 2 ^ 48)
def execGateTakeover (g : GatePort) (s : State) : Host.Outcome State Fault Refusal := ran s (gateTakeoverEffect g)

/-- GATE_INTERVAL_CHANGE: device time moves to the next interval of the operative list; credits up to there are settled under the gates
before it. -/
def gateIntervalChangeEffect (g : GatePort) (d : Dev) : Dev :=
  match d.nextInterval g with
  | none => d
  | some u => (d.advanceTo u).portSync g
def execGateIntervalChange (g : GatePort) (s : State) : Host.Outcome State Fault Refusal := ran s (gateIntervalChangeEffect g)

/-- A gate list of a recipe section is loaded into bank 0 as the operative list; its base follows R343, counted from now. -/
def Dev.loadGateList (d : Dev) (g : GatePort) (l : Bytes) : Dev :=
  let n := leAt l 2 2
  let d := (List.range 256).foldl (fun (d : Dev) e =>
    d.setReg (gpStore g 0 e) (if e < n then BitVec.ofNat 64 (leAt l (32 + 8 * e) 8) else 0#64)) d
  let cyc := leAt l 20 4 * 5
  let base := d.takeoverOf ((leAt l 8 8 * 1000000000 + leAt l 16 4) * 5) cyc
  (d.setPort g { d.port g with base := base, cycle := cyc, takeover := none }).setFs (gpGateStatus g)
    [(F.ETH_GATE_STATUS_OPER_BANK, 0), (F.ETH_GATE_STATUS_PENDING, 0), (F.ETH_GATE_STATUS_OPER_N, n)]

end Sys2Proof.Machine
end

