-- ==== Sys2Proof/Machine/Tier.lean ====
section
/-! DEFINITION. Tier: residency objects, the tier engine's queue, its commands, their completion and failures, and what resets
do to them (chapter 08). -/
namespace Sys2Proof.Machine

/-- A tier engine at rest. -/
def TierState.init : TierState := ⟨[], none, none, [], []⟩
def Dev.tier (d : Dev) (t : Nat) : TierState := look TierState.init d.tiers t
def Dev.setTier (d : Dev) (t : Nat) (x : TierState) : Dev := { d with tiers := store TierState.init d.tiers t x }
/-- The tier engine of a tile as a unit. -/
def tierUnit (t : Nat) : BitVec 16 := unitId t 0x0A 0

/-! ## Objects (R192 to R194) -/

/-- An object descriptor (Table 08.6); `zeroOk` says its zero fields are zero. -/
structure Obj where
  id : Nat
  owner : Nat
  homeTier : Nat
  state : Nat
  curTier : Nat
  pages : Nat
  homeAddr : Nat
  curAddr : Nat
  dirtyBase : Nat
  refMask : Nat
  shareMask : Nat
  flags : Nat
  zeroOk : Bool
  deriving DecidableEq, Repr

def objOf (l : Bytes) : Obj :=
  { id := leAt l 0 4, owner := leAt l 4 1, homeTier := leAt l 5 1, state := leAt l 6 1, curTier := leAt l 7 1, pages := leAt l 8 4,
    homeAddr := leAt l 16 8, curAddr := leAt l 24 8, dirtyBase := leAt l 32 8, refMask := leAt l 40 8, shareMask := leAt l 48 8,
    flags := leAt l 56 1, zeroOk := leAt l 12 4 == 0 && leAt l 57 7 == 0 && leAt l 56 1 / 2 == 0 }
def Obj.bytes (o : Obj) : Bytes :=
  leBytes 4 o.id ++ leBytes 1 o.owner ++ leBytes 1 o.homeTier ++ leBytes 1 o.state ++ leBytes 1 o.curTier ++ leBytes 4 o.pages ++ leBytes 4 0 ++
  leBytes 8 o.homeAddr ++ leBytes 8 o.curAddr ++ leBytes 8 o.dirtyBase ++ leBytes 8 o.refMask ++ leBytes 8 o.shareMask ++ leBytes 1 o.flags ++ leBytes 7 0

/-- The place of descriptor i of a tile's object table (Table 08.3). -/
def objPlace (t i : Nat) : Nat := reserveBase t + 64 * i
def Dev.obj (d : Dev) (t i : Nat) : Obj := objOf (d.bytes (objPlace t i) 64)
def Dev.putObj (d : Dev) (t i : Nat) (o : Obj) : Dev := d.write (objPlace t i) o.bytes
/-- The indices of a tile's entries whose STATE is not free. -/
def Dev.objIndices (d : Dev) (t : Nat) : List Nat :=
  let b := reserveBase t
  (d.mem.filter fun c => decide (b ≤ c.1) && decide (c.1 < b + 0x04000000) && (c.1 - b) % 64 == 6).map fun c => (c.1 - b) / 64

/-- A slice may reference the object: the owner always, others by SHARE_MASK. -/
def Obj.admits (o : Obj) (s : Nat) : Bool := o.owner == s || o.shareMask / 2 ^ s % 2 == 1
/-- The object has an upper copy, or one is being made or removed. -/
def Obj.upper (o : Obj) : Bool := o.state == 2 || o.state == 3 || o.state == 4
def Obj.writable (o : Obj) : Bool := o.flags % 2 == 1
def setBit (m s : Nat) : Nat := if m / 2 ^ s % 2 == 1 then m else m + 2 ^ s
def clearBit (m s : Nat) : Nat := if m / 2 ^ s % 2 == 1 then m - 2 ^ s else m

/-- The object an identifier names, if its generation and tile agree (R192). -/
def Dev.objOfId (d : Dev) (t id : Nat) : Option (Nat × Obj) :=
  let i := id % 2 ^ 20
  let o := d.obj t i
  if id / 2 ^ 20 % 8 == t && id / 2 ^ 23 % 2 == 0 && o.state != 0 && o.id == id then some (i, o) else none

/-! ## Charges (R196, R202) -/

/-- Pages a slice has resident in a tier on a tile. -/
def Dev.tierUse (d : Dev) (t s tier : Nat) : Nat :=
  match tier with
  | 0 => d.getF (Reg.TIER_SLICE_USE t s) F.TIER_SLICE_USE_T0
  | 1 => d.getF (Reg.TIER_SLICE_USE t s) F.TIER_SLICE_USE_T1
  | _ => d.getF (Reg.TIER_SLICE_USE_T2 t s) F.TIER_SLICE_USE_T2_T2
def Dev.setTierUse (d : Dev) (t s tier n : Nat) : Dev :=
  match tier with
  | 0 => d.setF (Reg.TIER_SLICE_USE t s) F.TIER_SLICE_USE_T0 n
  | 1 => d.setF (Reg.TIER_SLICE_USE t s) F.TIER_SLICE_USE_T1 n
  | _ => d.setF (Reg.TIER_SLICE_USE_T2 t s) F.TIER_SLICE_USE_T2_T2 n
def Dev.charge (d : Dev) (t : Nat) (o : Obj) : Dev := d.setTierUse t o.owner o.curTier (d.tierUse t o.owner o.curTier + o.pages)
def Dev.uncharge (d : Dev) (t : Nat) (o : Obj) : Dev := d.setTierUse t o.owner o.curTier (d.tierUse t o.owner o.curTier - o.pages)
/-- The offset of a tier's quota in a quota record (Table 08.5). -/
def quotaOff (tier : Nat) : Nat := 8 + 4 * tier
/-- Objects of a slice on a tile, and their pages homed in a tier. -/
def Dev.ownObjs (d : Dev) (t s : Nat) : List (Nat × Obj) := ((d.objIndices t).map fun i => (i, d.obj t i)).filter fun p => p.2.owner == s
def Dev.homePages (d : Dev) (t s tier : Nat) : Nat := (((d.ownObjs t s).filter fun p => p.2.homeTier == tier).map fun p => p.2.pages).sum

/-- The dirty-bitmap pool of a tile. -/
def poolPlace (t : Nat) : Nat := reserveBase t + 0x04000000
def poolRecords : Nat := 8388608
/-- The first run of n free page records, in records from the pool's start (log entry 12). -/
def Dev.poolFree (d : Dev) (t n : Nat) : Option Nat :=
  let used := (d.objIndices t).map fun i => let o := d.obj t i; ((o.dirtyBase - poolPlace t) / 8, o.pages)
  let fits := fun a => decide (a + n ≤ poolRecords) && used.all fun u => decide (a + n ≤ u.1) || decide (u.1 + u.2 ≤ a)
  ((0 :: used.map fun u => u.1 + u.2).filter fits).foldl (fun m a => match m with | none => some a | some b => some (min a b)) none

/-! ## Commands (R195 to R201) -/

def TierCmd.op (c : TierCmd) : Nat := c.w0.toNat % 256
def TierCmd.slice (c : TierCmd) : Nat := c.w0.toNat / 2 ^ 16 % 64
def TierCmd.objId (c : TierCmd) : Nat := c.w0.toNat / 2 ^ 32
def TierCmd.tier (c : TierCmd) : Nat := c.w1.toNat % 8
def TierCmd.addr (c : TierCmd) : Nat := c.w2.toNat
def TierCmd.deadline (c : TierCmd) : Nat := let n := c.w3.toNat / 2 ^ 16 % 2 ^ 16; if n == 0 then 8000 else n
/-- A command from its 32 bytes. -/
def tierCmdOf (l : Bytes) (tick : Nat) : TierCmd :=
  ⟨BitVec.ofNat 64 (leAt l 0 8), BitVec.ofNat 64 (leAt l 8 8), BitVec.ofNat 64 (leAt l 16 8), BitVec.ofNat 64 (leAt l 24 8), tick⟩
/-- A command built by the steward. -/
def mkTierCmd (op slice id tick : Nat) : TierCmd := ⟨BitVec.ofNat 64 (op + slice * 2 ^ 16 + id * 2 ^ 32), 0#64, 0#64, 0#64, tick⟩

/-- A zero field is nonzero, or a reserved value stands (reason 1). -/
def TierCmd.reserved (c : TierCmd) : Bool :=
  let w0 := c.w0.toNat
  let w3 := c.w3.toNat
  c.op == 0 || decide (c.op > 6) || w0 / 256 % 256 != 0 || w0 / 2 ^ 22 % 2 ^ 10 != 0 || c.w1.toNat / 8 != 0 || decide (c.tier > 2) ||
  (c.op != 3 && c.tier != 0) || (c.op != 1 && c.op != 3 && c.addr != 0) || w3 / 2 ^ 11 % 32 != 0 || w3 / 2 ^ 32 != 0

/-- The bench spans of a slice on a tile, as device addresses: its contexts, and what the core registers name for it. -/
def Dev.benchSpans (d : Dev) (t s : Nat) : List (Nat × Nat) :=
  let base := fun i line => 0x020000000000 + t * 0x10000000 + i * 0x01000000 + line * 64
  let own := ((look ⟨[], [], [], [], [], [], 0⟩ d.sched t).ctxs.filter fun c => c.slice == s && c.stage != .saved).flatMap fun c =>
    c.roles.map fun r => (base r.core r.lo, base r.core (r.lo + c.lines))
  let regs := (List.range 17).filterMap fun k =>
    let r := Reg.KNEAD_CONTEXT t k
    if d.getF r F.KNEAD_CONTEXT_SLICE == s then
      (d.logicalOf t k).map fun i => (base i (d.getF r F.KNEAD_CONTEXT_BENCH_LO), base i (d.getF r F.KNEAD_CONTEXT_BENCH_HI))
    else none
  own ++ regs

/-- The upper copy of a PROMOTE lies where the owner may have it (reason 4). -/
def Dev.upperOk (d : Dev) (t : Nat) (o : Obj) (tier a : Nat) : Bool :=
  let hi := a + o.pages * 4096
  match tier with
  | 0 => (d.benchSpans t o.owner).any fun r => decide (r.1 ≤ a) && decide (hi ≤ r.2)
  | 1 => let (lo, top) := d.pantryRegion o.owner t; decide (pantryAt t lo ≤ a) && decide (hi ≤ pantryAt t top)
  | _ => a / 2 ^ 37 == t && (hi - 1) / 2 ^ 37 == t && d.inPrivate o.owner a hi

/-- The home of an object lies where the owner may have it (reason 4): a T2 home in the owner's ranges. -/
def Dev.homeOk (d : Dev) (o : Obj) : Bool :=
  if o.homeTier == 2 then
    let rs := (d.ranges.filter fun r => r.slice == o.owner).map fun r => (r.lo, r.hi)
    covered rs (rs.length + 1) o.homeAddr (o.homeAddr + o.pages * 4096)
  else true

/-- The descriptor image a DEFINE names. -/
def Dev.defineImage (d : Dev) (c : TierCmd) : Obj :=
  match d.place c.addr with
  | some p => objOf (d.bytes p 64)
  | none => objOf []

/-- The checks of Table 08.10, in order of reason. -/
def Dev.tierCheck (d : Dev) (t : Nat) (c : TierCmd) : Option Nat :=
  let s := c.slice
  if c.reserved then some 1
  else if c.op == 1 then
    let o := d.defineImage c
    let inPantry := decide (pantryAt t 0 ≤ c.addr) && decide (c.addr + 64 ≤ pantryAt t 0x04000000)
    if !o.zeroOk || decide (o.homeTier < 2) || decide (o.homeTier > 4) || o.pages == 0 || decide (o.pages > 2 ^ 20) || o.homeAddr % 4096 != 0 then some 1
    else if c.objId / 2 ^ 20 % 8 != t || c.objId / 2 ^ 23 % 2 != 0 || o.id != c.objId then some 2
    else if o.owner != s then some 3
    else if !(inPantry || inReserve c.addr) || !d.homeOk o then some 4
    else if (d.obj t (c.objId % 2 ^ 20)).state != 0 then some 5
    else if decide ((d.ownObjs t s).length + 1 > d.quota s 28) || (decide (o.homeTier ≥ 3) && decide (d.homePages t s o.homeTier + o.pages > d.quota s (quotaOff o.homeTier))) ||
        (d.poolFree t o.pages).isNone then some 6
    else none
  else match d.objOfId t c.objId with
    | none => some 2
    | some (_, o) =>
      if !o.admits s || ((c.op == 2 || c.op == 6) && o.owner != s) then some 3
      else if c.op == 3 && (!d.upperOk t o c.tier c.addr || !d.homeOk o) then some 4
      else if c.op == 2 && (o.refMask != 0 || o.upper) then some 5
      else none

/-- The external stream runs what reads or writes T3 or T4 (R197). -/
def Dev.tierExt (d : Dev) (t : Nat) (c : TierCmd) : Bool :=
  (c.op == 3 || c.op == 4 || c.op == 5) && (match d.objOfId t c.objId with | some (_, o) => decide (o.homeTier ≥ 3) | none => false)

/-- TIER_STATUS follows the queue and the streams. -/
def Dev.tierSync (d : Dev) (t : Nat) : Dev :=
  let x := d.tier t
  d.setFs (Reg.TIER_STATUS t) [(F.TIER_STATUS_QUEUED, x.queue.length), (F.TIER_STATUS_INT_BUSY, if x.int.isSome then 1 else 0),
    (F.TIER_STATUS_EXT_BUSY, if x.ext.isSome then 1 else 0)]

/-- A command is pushed; with 512 queued it is dropped with event 0x4002 reason QUEUE_FULL (R195). -/
def Dev.tierPush (d : Dev) (t : Nat) (c : TierCmd) : Dev :=
  let x := d.tier t
  if x.queue.length ≥ 512 then d.raise 0x4002 c.slice (tierUnit t) c.objId (7 + c.op * 256)
  else (d.setTier t { x with queue := x.queue ++ [c] }).tierSync t

/-- TIER_CMD_PUSH: word w of a command; word 3 pushes. Other masters than the tile's steward: event 0x4009 (R213). -/
def tierCmdPushEffect (m : Master) (t w : Nat) (v : Word) (d : Dev) : Dev :=
  let r := Reg.TIER_CMD_PUSH t w
  if m != stewardOf t then d.raise 0x4009 0xFF (tierUnit t) r m.toNat
  else
    let d := d.setReg r v
    if w == 3 then
      let x := fun i => d.reg (Reg.TIER_CMD_PUSH t i)
      d.tierPush t ⟨x 0, x 1, x 2, v, d.tickNo⟩
    else d
def execTierCmdPush (m : Master) (t : Tile) (w : Fin 4) (v : Word) (s : State) : Host.Outcome State Fault Refusal := ranFrom m s (tierCmdPushEffect m t w v)

/-- TIER_FLAG_CLEAR: a write of 1 clears a flag (R213). -/
def tierFlagClearEffect (m : Master) (t w : Nat) (v : Word) (d : Dev) : Dev :=
  let r := Reg.TIER_FLAGS t w
  if m != stewardOf t then d.raise 0x4009 0xFF (tierUnit t) r m.toNat else d.setReg r (d.reg r &&& ~~~v)
def execTierFlagClear (m : Master) (t : Tile) (w : Fin 16) (v : Word) (s : State) : Host.Outcome State Fault Refusal := ranFrom m s (tierFlagClearEffect m t w v)

/-! ## Beginning a command (R197, R201, R202, R204) -/

def TierState.run (x : TierState) (ext : Bool) : Option TierRun := if ext then x.ext else x.int
def TierState.setRun (x : TierState) (ext : Bool) (r : Option TierRun) : TierState := if ext then { x with ext := r } else { x with int := r }

/-- The commands before the first of a stream, that command, and those after it. -/
def Dev.tierSplit (d : Dev) (t : Nat) (ext : Bool) : List TierCmd → Option (List TierCmd × TierCmd × List TierCmd)
  | [] => none
  | c :: r => if d.tierExt t c == ext then some ([], c, r) else (d.tierSplit t ext r).map fun x => (c :: x.1, x.2)

/-- The next command of an idle stream, once nothing earlier on its object is unfinished and the tick of its push is over. -/
def Dev.tierNext (d : Dev) (t : Nat) (ext : Bool) : Option (TierCmd × List TierCmd) :=
  let x := d.tier t
  if (x.run ext).isSome then none else
  match d.tierSplit t ext x.queue with
  | none => none
  | some (before, c, after) =>
    let i := c.objId % 2 ^ 20
    let same := fun (o : TierCmd) => o.objId % 2 ^ 20 == i
    let other := match x.run (!ext) with | some r => same r.cmd | none => false
    if before.any same || other || (x.repair.any (·.1 == i)) || decide (d.tickNo ≤ c.pushed) then none else some (c, before ++ after)

/-- Back-invalidate snoops before the lines of a SHARED range are touched (R212, R487). -/
def Dev.snoopShared (d : Dev) (write : Bool) (a lines : Nat) : Dev :=
  if a < dramSize && (match d.rangeAt a with | some r => r.shared | none => false) then
    ((List.range lines).foldl (fun d i => d.send (.hostSnoop write (a + 64 * i))) d).count Reg.CXL_BISNP_COUNT F.CXL_BISNP_COUNT_COUNT lines
  else d

/-- Reads of every line of an object homed in T3, which land in its upper copy. -/
def tierReads (t : Nat) (o : Obj) (place : Nat) : List BraidAsk :=
  (List.range (o.pages * 64)).map fun n => ⟨tierUnit t, o.id, o.owner, .read, o.homeAddr + 64 * n, 0, [], place + 64 * n, 0⟩

/-- PROMOTE (R202): the reference, then by the object's state. -/
def Dev.promote (d : Dev) (t i : Nat) (o : Obj) (c : TierCmd) : Dev × Nat × TierWork × Nat :=
  let o := { o with refMask := setBit o.refMask c.slice }
  if o.upper then (d.putObj t i o, if o.curTier == c.tier && o.curAddr == c.addr then 0 else 2, .none, 0)
  else
    let used := d.tierUse t o.owner c.tier
    if used + o.pages > d.quota o.owner (quotaOff c.tier) then
      let d := (d.putObj t i o).count (Reg.TIER_SPILL_COUNT t) F.TIER_SPILL_COUNT_COUNT 1
      (d.raise 0x4001 c.slice (tierUnit t) c.objId (c.tier + used * 2 ^ 32), 1, .none, 0)
    else
      let o := { o with state := 2, curTier := c.tier, curAddr := c.addr }
      let d := (d.putObj t i o).charge t o
      let asks := if o.homeTier == 3 then (match d.place c.addr with | some p => tierReads t o p | none => []) else []
      ({ d with asks := d.asks ++ asks }, 0, .copy, asks.length)

/-- The written bits of a page as a mask, line i at bit i. -/
def Dev.writtenMask (d : Dev) (place : Nat) : Nat :=
  (List.range 64).foldl (fun m i => if look false d.written (place / 64 + i) then m + 2 ^ i else m) 0
/-- The written bits of a page are cleared. -/
def Dev.clearWritten (d : Dev) (place : Nat) : Dev :=
  { d with written := d.written.filter fun e => !(decide (place / 64 ≤ e.1) && decide (e.1 < place / 64 + 64)) }
/-- The OR of two 64-bit masks. -/
def orMask (a b : Nat) : Nat := (BitVec.ofNat 64 a ||| BitVec.ofNat 64 b).toNat

/-- The bitmap of a page takes in its written bits, which are cleared; a bad page record is taken as wholly dirty (R194, Table 18.1). -/
def Dev.gatherDirty (d : Dev) (o : Obj) (place p : Nat) : Nat × Dev :=
  let r := o.dirtyBase + 8 * p
  let m := if d.bad (r / 64) then 2 ^ 64 - 1 else orMask (leAt (d.bytes r 8) 0 8) (d.writtenMask (place + 4096 * p))
  (m, (d.clearWritten (place + 4096 * p)).write r (leBytes 8 m))

/-- The dirty lines of an object, as line numbers in ascending order, with the bitmaps brought up to date. -/
def Dev.dirtyLines (d : Dev) (o : Obj) (place : Nat) : List Nat × Dev :=
  if !o.writable then ([], d) else
  (List.range o.pages).foldl (fun (s : List Nat × Dev) p =>
    let (m, d) := s.2.gatherDirty o place p
    (s.1 ++ ((List.range 64).filter fun i => m / 2 ^ i % 2 == 1).map (64 * p + ·), d)) ([], d)

/-- The write-back of an object homed in T3 or T4 begins: Braid writes and a fence, or CXL.cache writes (R204). A dirty line
that stays bad ends it with INTEGRITY. Answers the status, the Braid operations and host writes it waits for, and the failing page. -/
def Dev.writeBackOut (d : Dev) (t : Nat) (o : Obj) : Dev × Nat × Nat × List Nat × Nat :=
  match d.place o.curAddr with
  | none => (d, 0, 0, [], 0)
  | some p =>
    let (ls, d) := d.dirtyLines o p
    match ls.find? fun n => d.bad (p / 64 + n) with
    | some n => (d.unresolved (p / 64 + n) 1 2 o.owner, 5, 0, [], n / 64)
    | none =>
      let d := d.count (Reg.TIER_BYTES_MOVED t) F.TIER_BYTES_MOVED_COUNT (64 * ls.length)
      if o.homeTier == 3 then
        let ask := fun k n => (⟨tierUnit t, o.id, o.owner, k, o.homeAddr + 64 * n, 0, d.bytes (p + 64 * n) 64, 0, 0⟩ : BraidAsk)
        let as := if ls.isEmpty then [] else (ls.map (ask .write)) ++ [ask .fence 0]
        ({ d with asks := d.asks ++ as }, 0, if as.isEmpty then 0 else 1, [], 0)
      else
        let first := d.hostNext
        (ls.foldl (fun (d : Dev) n => d.hostWrite .tier o.owner (o.homeAddr + 64 * n) (d.bytes (p + 64 * n) 64)) d, 0, 0,
          (List.range ls.length).map (first + ·), 0)

/-- Free an object's entry and its records. -/
def Dev.retire (d : Dev) (t i : Nat) : Dev := d.write (objPlace t i) (List.replicate 64 0#8)

/-- The effect of a command when it begins: the device, its status, its data work, the Braid operations and host writes it waits for,
the page that failed. -/
def Dev.tierStart (d : Dev) (t : Nat) (c : TierCmd) : Dev × Nat × TierWork × Nat × List Nat × Nat :=
  let i := c.objId % 2 ^ 20
  let o := d.obj t i
  match c.op with
  | 1 =>
    let o := d.defineImage c
    let base := poolPlace t + 8 * (d.poolFree t o.pages).getD 0
    let d := d.write base (List.replicate (8 * o.pages) 0#8)
    (d.putObj t i { o with state := 1, curTier := o.homeTier, curAddr := o.homeAddr, dirtyBase := base, refMask := 0 }, 0, .none, 0, [], 0)
  | 2 => (d.retire t i, 0, .none, 0, [], 0)
  | 3 => let (d, st, w, n) := d.promote t i o c; (d, st, w, n, [], 0)
  | 6 =>
    let d := if o.upper then d.uncharge t o else d
    let d := d.write o.dirtyBase (List.replicate (8 * o.pages) 0#8)
    (d.putObj t i { o with state := 1, curTier := o.homeTier, curAddr := o.homeAddr, refMask := 0 }, 0, .none, 0, [], 0)
  | n =>
    let evict := n == 4
    let o := if evict then { o with refMask := clearBit o.refMask c.slice } else o
    let d := d.putObj t i o
    if o.state != 3 || (evict && o.refMask != 0) then (d, 0, .none, 0, [], 0)
    else
      let d := if evict then d.putObj t i { o with state := 4 } else d
      let w := if evict then TierWork.evict else TierWork.clean
      if o.homeTier == 2 then (d, 0, w, 0, [], 0)
      else let (d, st, left, ids, pg) := d.writeBackOut t o; (d, st, w, left, ids, pg)

/-- A stream begins its next command, if its OP is `op`: checked under R201, then its effect. -/
def Dev.tierBegin (d : Dev) (t : Nat) (ext : Bool) (op : Nat) : Dev :=
  match d.tierNext t ext with
  | none => d
  | some (c, q) =>
    if c.op != op then d else
    let d := d.setTier t { d.tier t with queue := q }
    let ln := objPlace t (c.objId % 2 ^ 20) / 64
    let run := fun (d : Dev) (r : TierRun) => (d.setTier t ((d.tier t).setRun ext (some r))).tierSync t
    if d.bad ln && c.op != 1 then
      -- a descriptor that stays bad: STATE 6 with event 0x4007 (Table 18.1)
      let d := d.unresolved ln 1 7 c.slice
      let o := d.obj t (c.objId % 2 ^ 20)
      run ((d.putObj t (c.objId % 2 ^ 20) { o with state := 6 }).raise 0x4007 c.slice (tierUnit t) c.objId (o.curTier + 256)) ⟨c, 5, 0, .none, 0, 0, [], 0⟩
    else match d.tierCheck t c with
      | some r => run (d.raise 0x4002 c.slice (tierUnit t) c.objId (r + c.op * 256)) ⟨c, 7, r, .none, 0, 0, [], 0⟩
      | none =>
        let (d, st, w, left, ids, pg) := d.tierStart t c
        run d ⟨c, st, 0, w, left, 0, ids, pg⟩
def tierDefineEffect (t : Nat) (ext : Bool) (d : Dev) : Dev := d.tierBegin t ext 1
def tierRetireEffect (t : Nat) (ext : Bool) (d : Dev) : Dev := d.tierBegin t ext 2
def tierPromoteEffect (t : Nat) (ext : Bool) (d : Dev) : Dev := d.tierBegin t ext 3
def tierEvictEffect (t : Nat) (ext : Bool) (d : Dev) : Dev := d.tierBegin t ext 4
def tierCleanEffect (t : Nat) (ext : Bool) (d : Dev) : Dev := d.tierBegin t ext 5
def tierDiscardEffect (t : Nat) (ext : Bool) (d : Dev) : Dev := d.tierBegin t ext 6
def execTierDefine (t : Tile) (ext : Bool) (s : State) : Host.Outcome State Fault Refusal := ran s (tierDefineEffect t ext)
def execTierRetire (t : Tile) (ext : Bool) (s : State) : Host.Outcome State Fault Refusal := ran s (tierRetireEffect t ext)
def execTierPromote (t : Tile) (ext : Bool) (s : State) : Host.Outcome State Fault Refusal := ran s (tierPromoteEffect t ext)
def execTierEvict (t : Tile) (ext : Bool) (s : State) : Host.Outcome State Fault Refusal := ran s (tierEvictEffect t ext)
def execTierClean (t : Tile) (ext : Bool) (s : State) : Host.Outcome State Fault Refusal := ran s (tierCleanEffect t ext)
def execTierDiscard (t : Tile) (ext : Bool) (s : State) : Host.Outcome State Fault Refusal := ran s (tierDiscardEffect t ext)

/-! ## Completion (R199, R202, R204, R208) -/

/-- The copy of a PROMOTE is abandoned: pages uncharged, STATE 5, CUR_ADDR takes HOME_ADDR (R208). -/
def Dev.abandonCopy (d : Dev) (t i : Nat) : Dev :=
  let o := d.obj t i
  (d.uncharge t o).putObj t i { o with state := 5, curTier := o.homeTier, curAddr := o.homeAddr }

/-- A T2 copy: every page from the home in ascending order, up to the first line that stays bad. -/
def Dev.copyIn (d : Dev) (t : Nat) (o : Obj) (lower : Bytes) : Dev × Nat × Nat :=
  match d.place o.curAddr with
  | none => (d, 5, 0)
  | some p =>
    let n := o.pages * 4096
    match (if o.homeTier == 2 then d.firstBad o.homeAddr n else none) with
    | some ln => (d.unresolved ln 1 3 o.owner, 5, (ln * 64 - o.homeAddr) / 4096)
    | none =>
      let d := if o.homeTier == 2 then d.snoopShared false o.homeAddr (n / 64) else d
      let d := if o.homeTier == 2 then d.write p (d.bytes o.homeAddr n) else if o.homeTier == 4 then d.write p lower else d
      let d := (List.range o.pages).foldl (fun d i => d.clearWritten (p + 4096 * i)) d
      (d.count (Reg.TIER_BYTES_MOVED t) F.TIER_BYTES_MOVED_COUNT n, 0, 0)

/-- The write-back of an object homed in T2 (R204 step 2). A dirty line that stays bad ends it (Table 18.1). -/
def Dev.writeBackIn (d : Dev) (t : Nat) (o : Obj) : Dev × Nat × Nat :=
  match d.place o.curAddr with
  | none => (d, 0, 0)
  | some p =>
    let (ls, d) := d.dirtyLines o p
    match ls.find? fun n => d.bad (p / 64 + n) with
    | some n => (d.unresolved (p / 64 + n) 1 2 o.owner, 5, n / 64)
    | none =>
      let d := ls.foldl (fun (d : Dev) n => (d.snoopShared true (o.homeAddr + 64 * n) 1).write (o.homeAddr + 64 * n) (d.bytes (p + 64 * n) 64)) d
      (d.count (Reg.TIER_BYTES_MOVED t) F.TIER_BYTES_MOVED_COUNT (64 * ls.length), 0, 0)

/-- The bitmaps of an object are cleared once their lines are written back. -/
def Dev.clearBitmaps (d : Dev) (o : Obj) : Dev := if o.writable then d.write o.dirtyBase (List.replicate (8 * o.pages) 0#8) else d

/-- A write-back failed: the upper copy, its charge and its bitmaps stay, STATE 3 again, event 0x4006 (R204); when the cause is a
dirty line that cannot be read, STATE 6 and event 0x4007 (Table 18.1). -/
def Dev.writeBackFailed (d : Dev) (t i : Nat) (c : TierCmd) (st page : Nat) : Dev :=
  let o := d.obj t i
  let d := (d.putObj t i { o with state := if st == 5 then 6 else 3 }).raise 0x4006 c.slice (tierUnit t) c.objId (st + page * 2 ^ 32)
  if st == 5 then d.raise 0x4007 c.slice (tierUnit t) c.objId (o.curTier + 256) else d

/-- The completion record of a command, the ring's head and its flag, in that order (R199). -/
def Dev.tierRecord (d : Dev) (t : Nat) (c : TierCmd) (st reason : Nat) : Dev :=
  let h := d.getF (Reg.TIER_DONE_HEAD t) F.TIER_DONE_HEAD_HEAD
  let d := d.write (reserveBase t + 0x08000000 + 16 * h)
    (leBytes 4 c.objId ++ leBytes 1 c.op ++ leBytes 1 st ++ leBytes 1 c.slice ++ leBytes 1 reason ++ leBytes 8 d.tickNo)
  let d := d.setF (Reg.TIER_DONE_HEAD t) F.TIER_DONE_HEAD_HEAD (h + 1)
  let f := c.w3.toNat % 1024
  if c.w3.toNat / 1024 % 2 == 1 then
    let r := Reg.TIER_FLAGS t (f / 64)
    d.setReg r (d.reg r ||| BitVec.ofNat 64 (2 ^ (f % 64)))
  else d

/-- The status of Table 08.9 for a failed Braid operation of Table 15.6: a check error at the far end is INTEGRITY, the rest LOWER_FAILED. -/
def tierOfBraid (b : Nat) : Nat := if b == 5 then 5 else 3

/-- The data work of a command that completes: the device and its final status. -/
def Dev.tierData (d : Dev) (t : Nat) (r : TierRun) (lower : Bytes) : Dev × Nat :=
  let c := r.cmd
  let i := c.objId % 2 ^ 20
  let o := d.obj t i
  match r.work with
  | .none => (d, r.status)
  | .copy =>
    if r.bad != 0 then
      let st := tierOfBraid r.bad
      let d := d.abandonCopy t i
      ((if st == 3 then d.raise 0x4003 c.slice (tierUnit t) c.objId (o.homeTier + r.page * 2 ^ 32) else d), st)
    else
      let (d, st, _) := d.copyIn t o lower
      if st == 0 then (d.putObj t i { o with state := 3 }, 0) else (d.abandonCopy t i, st)
  | w =>
    let (d, st, pg) := if r.status != 0 then (d, r.status, r.page) else if r.bad != 0 then (d, tierOfBraid r.bad, r.page)
      else if o.homeTier == 2 then d.writeBackIn t o else (d, 0, 0)
    if st != 0 then (d.writeBackFailed t i c st pg, st)
    else
      let d := d.clearBitmaps o
      if w == .evict then ((d.uncharge t o).putObj t i { o with state := 1, curTier := o.homeTier, curAddr := o.homeAddr }, 0) else (d, 0)

/-- TIER_CMD_COMPLETE: the running command of a stream completes once what it waits for is done. The bytes that a T4 home
returned come with the command. -/
def tierCmdCompleteEffect (t : Nat) (ext : Bool) (lower : Bytes) (d : Dev) : Dev :=
  let x := d.tier t
  match x.run ext with
  | none => d
  | some r =>
    let o := d.obj t (r.cmd.objId % 2 ^ 20)
    let waits := r.left != 0 || d.hostWrites.any (fun w => r.ids.contains w.id) ||
      (r.work == .copy && o.homeTier == 4 && lower.length != o.pages * 4096)
    if waits then d else
    let d := (d.setTier t (x.setRun ext none)).tierSync t
    let (d, st) := d.tierData t r lower
    d.tierRecord t r.cmd st r.reason
def execTierCmdComplete (t : Tile) (ext : Bool) (lower : Bytes) (s : State) : Host.Outcome State Fault Refusal := ran s (tierCmdCompleteEffect t ext lower)

/-- The running command of a stream ends its data work with a status; its Braid operations no longer concern it. -/
def Dev.tierEnd (d : Dev) (t : Nat) (ext : Bool) (r : TierRun) (st : Nat) : Dev :=
  let d := { d with asks := d.asks.filter fun a => !(a.issuer == tierUnit t && a.tag == r.cmd.objId) }
  d.setTier t ((d.tier t).setRun ext (some { r with status := st, work := .none, left := 0, bad := 0, ids := [] }))

/-- TIER_DEADLINE: DEADLINE ticks after its push a command that still runs is LATE: a copy is abandoned as in R208, a write-back
is kept as when it fails (R204, R209). -/
def tierDeadlineEffect (t : Nat) (ext : Bool) (d : Dev) : Dev :=
  match (d.tier t).run ext with
  | none => d
  | some r =>
    if d.tickNo < r.cmd.pushed + r.cmd.deadline then d else
    let i := r.cmd.objId % 2 ^ 20
    match r.work with
    | .none => d
    | .copy => (d.abandonCopy t i).tierEnd t ext r 4
    | _ => (d.writeBackFailed t i r.cmd 4 r.page).tierEnd t ext r 4
def execTierDeadline (t : Tile) (ext : Bool) (s : State) : Host.Outcome State Fault Refusal := ran s (tierDeadlineEffect t ext)

/-- LOWER_TIER_FAILURE: a read from T3 that ended other than OK, or from T4 with an error or poison, ends the copy (R208). -/
def lowerTierFailureEffect (t : Nat) (ext : Bool) (page : Nat) (d : Dev) : Dev :=
  match (d.tier t).run ext with
  | none => d
  | some r =>
    let i := r.cmd.objId % 2 ^ 20
    let o := d.obj t i
    if r.work != .copy || o.homeTier < 3 || (o.homeTier == 3 && tierOfBraid r.bad != 3) || (o.homeTier == 3 && r.bad == 0) then d else
    let pg := if o.homeTier == 3 then r.page else page % 2 ^ 20
    ((d.abandonCopy t i).raise 0x4003 r.cmd.slice (tierUnit t) r.cmd.objId (o.homeTier + pg * 2 ^ 32)).tierEnd t ext r 3
def execLowerTierFailure (t : Tile) (ext : Bool) (page : Nat) (s : State) : Host.Outcome State Fault Refusal := ran s (lowerTierFailureEffect t ext page)

/-- A Braid operation of the tier engine ended: one less to wait for, the first failure kept with its page (R362). -/
def Dev.tierBraidEnd (d : Dev) (t tag status addr : Nat) : Dev :=
  match (d.tier t).ext with
  | none => d
  | some r =>
    if r.cmd.objId != tag || r.left == 0 then d else
    let o := d.obj t (tag % 2 ^ 20)
    let first := r.bad == 0 && status != 0
    d.setTier t { d.tier t with ext := some { r with left := r.left - 1, bad := if first then status else r.bad, page := if first then (addr - o.homeAddr) / 4096 else r.page } }

/-- A CXL.cache write of a write-back failed: the command will complete LOWER_FAILED (Table 21.2). -/
def Dev.tierHostFailed (d : Dev) (id : Nat) : Dev :=
  tiles6.foldl (fun (d : Dev) t => match (d.tier t).ext with
    | some r =>
      if r.ids.contains id then
        let w := d.hostWrites.find? (·.id == id)
        let o := d.obj t (r.cmd.objId % 2 ^ 20)
        d.setTier t { d.tier t with ext := some { r with ids := r.ids.filter (· != id), bad := 9, page := (((w.map (·.addr)).getD 0) - o.homeAddr) / 4096 } }
      else d
    | none => d) d

/-! ## Resets (R210) -/

/-- Remove a slice's reference from every object, and evict those left without one and not its own. -/
def Dev.tierUnref (d : Dev) (t s : Nat) : Dev :=
  (d.objIndices t).foldl (fun (d : Dev) i =>
    let o := d.obj t i
    if o.refMask / 2 ^ s % 2 == 1 then
      let x := d.tier t
      (d.setTier t { x with queue := x.queue ++ [mkTierCmd 4 s o.id d.tickNo] }).tierSync t
    else d) d

/-- Slice reset, drain: the slice's references are cleared as by EVICT, its own objects evicted and retired, after its pending commands. -/
def Dev.tierDrain (d : Dev) (t s : Nat) : Dev :=
  let d := d.tierUnref t s
  (d.ownObjs t s).foldl (fun (d : Dev) p =>
    let others := (List.range 64).filter fun u => u != s && p.2.refMask / 2 ^ u % 2 == 1
    let cs := others.map (fun u => mkTierCmd 4 u p.2.id d.tickNo) ++ [mkTierCmd 2 s p.2.id d.tickNo]
    let x := d.tier t
    (d.setTier t { x with queue := x.queue ++ cs }).tierSync t) d

/-- Slice reset, squash: pending commands of the slice complete SQUASHED, its own objects are dropped and retired, its references
in other objects are cleared as by EVICT. -/
def Dev.tierSquash (d : Dev) (t s : Nat) : Dev :=
  let x := d.tier t
  let mine := x.queue.filter fun c => c.slice == s
  let d := d.setTier t { x with queue := x.queue.filter fun c => c.slice != s }
  let d := mine.foldl (fun (d : Dev) c => d.tierRecord t c 6 0) d
  let d := [false, true].foldl (fun (d : Dev) ext => match (d.tier t).run ext with
    | some r => if r.cmd.slice == s then
        (((d.tierEnd t ext r 6).tierRecord t r.cmd 6 0).setTier t (((d.tierEnd t ext r 6).tier t).setRun ext none)).tierSync t else d
    | none => d) d
  let d := (d.ownObjs t s).foldl (fun (d : Dev) p => ((if p.2.upper then d.uncharge t p.2 else d).retire t p.1)) d
  (d.tierUnref t s).tierSync t

/-- Objects whose upper copy `p` selects become STATE 6 with event 0x4007. -/
def Dev.tierLose (d : Dev) (t : Nat) (p : Obj → Bool) (unchargeToo : Bool) : Dev :=
  (d.objIndices t).foldl (fun (d : Dev) i =>
    let o := d.obj t i
    if o.upper && p o then
      let d := if unchargeToo then d.uncharge t o else d
      (d.putObj t i { o with state := 6, curTier := o.homeTier, curAddr := o.homeAddr }).raise 0x4007 o.owner (tierUnit t) o.id (o.curTier + 256)
    else d) d

/-- Tile reset: queue and streams are cleared, their commands reported SQUASHED at the next boundary slot; T0 and T1 copies are lost.
T2 copies stay charged, though the tile reset cleared the use registers. -/
def Dev.tierTileReset (d : Dev) (t : Nat) : Dev :=
  let x := d.tier t
  let cmds := x.queue ++ (x.int.toList ++ x.ext.toList).map (·.cmd)
  let d := d.setTier t ⟨[], none, none, [], x.dead ++ cmds⟩
  let d := { d with asks := d.asks.filter fun a => a.issuer != tierUnit t }
  let d := (d.tierLose t (fun o => decide (o.curTier ≤ 1)) false).tierSync t
  (d.objIndices t).foldl (fun (d : Dev) i => let o := d.obj t i; if o.upper && o.curTier == 2 then d.charge t o else d) d
/-- Core reset: objects whose upper copy lies in that bench are lost. -/
def Dev.tierCoreReset (d : Dev) (t k : Nat) : Dev :=
  match d.logicalOf t k with
  | none => d
  | some i => d.tierLose t (fun o => o.curTier == 0 && o.curAddr / 0x01000000 % 16 == i) true
/-- The object tables of all tiles are cleared (device and power-on reset). -/
def Dev.tierClearTables (d : Dev) : Dev :=
  tiles6.foldl (fun (d : Dev) t => (d.zeroRange (reserveBase t) (reserveBase t + 0x04000000) false).setTier t TierState.init) d
/-- Commands a tile reset ended are reported at the first boundary slot after it. -/
def Dev.tierReportDead (d : Dev) (t : Nat) : Dev :=
  let x := d.tier t
  x.dead.foldl (fun (d : Dev) c => d.tierRecord t c 6 0) (d.setTier t { x with dead := [] })

end Sys2Proof.Machine
end

