-- ==== Sys2Proof/Machine/Braid.lean ====
section
/-! DEFINITION. Braid: the rack fabric: operations and their ends, sequences, credits and fences, arrival at a destination, the
switch, links and flits, timed puts (chapter 15). -/
namespace Sys2Proof.Machine

def Dev.modBraid (d : Dev) (f : BraidState → BraidState) : Dev := { d with braid := f d.braid }
/-- The Braid switch and a Braid port as units. -/
def braidSwitch : BitVec 16 := unitId 7 0x17 0
def braidUnit (b : Nat) : BitVec 16 := unitId 7 0x16 b

/-! ## The section and the pair states -/

/-- Fields of the BRAID section (R382, Table 15.10). -/
def Dev.braidF (d : Dev) (o n : Nat) : Nat := leAt (d.section_ secBraid 0) o n
def Dev.braidNode (d : Dev) : Nat := d.getF Reg.BRAID_CFG F.BRAID_CFG_NODE
def Dev.guar (d : Dev) : Nat := d.braidF 6 2
/-- The route entry of a node. -/
def Dev.routeEntry (d : Dev) (n : Nat) : Nat := d.braidF (2112 + 4 * n) 4
/-- Window and put records. -/
def Dev.window (d : Dev) (i : Nat) : Bytes := bytesAt (d.section_ secBraid 0) (26688 + 32 * i) 32
def Dev.putRec (d : Dev) (id : Nat) : Option Bytes :=
  let base := 26688 + 32 * d.braidF 14 2
  ((List.range (d.braidF 16 2)).map fun i => bytesAt (d.section_ secBraid 0) (base + 64 * i) 64).find? fun p => leAt p 0 2 == id

def BraidSrc.init : BraidSrc := ⟨0, 0, false⟩
def BraidDst.init : BraidDst := ⟨0, [], [], 0⟩
def Dev.pair (d : Dev) (n : Nat) : BraidSrc := look BraidSrc.init d.braid.pairs n
def Dev.setPair (d : Dev) (n : Nat) (x : BraidSrc) : Dev := d.modBraid fun y => { y with pairs := store BraidSrc.init y.pairs n x }
def Dev.far (d : Dev) (n : Nat) : BraidDst := look BraidDst.init d.braid.dests n
def Dev.setFar (d : Dev) (n : Nat) (x : BraidDst) : Dev := d.modBraid fun y => { y with dests := store BraidDst.init y.dests n x }
def BraidOp.isWrite (o : BraidOp) : Bool := o.kind == .write || o.kind == .flag
def Dev.unacked (d : Dev) (n : Nat) : Nat := d.braid.ops.countP fun o => o.node == n && o.isWrite
/-- Operations in flight, CXL line requests among them (R378). -/
def Dev.inflight (d : Dev) : Nat := d.braid.ops.length + (d.hostWrites.map fun w => ceilDiv w.data.length 64).sum

/-- A statistics counter of the fabric (R384). -/
def Dev.braidCount (d : Dev) (r : Nat) (n : Nat) : Dev :=
  let was := d.getB r ⟨32, 1⟩
  let d := d.count r F.BRAID_REFUSED_COUNT n
  if !was && d.getB r ⟨32, 1⟩ then d.raise 0xA00B 0xFF braidSwitch (r % 2 ^ 20) 0 else d

/-- The registers that show a selected pair, a selected put and the operations in flight. -/
def Dev.braidShow (d : Dev) : Dev :=
  let n := d.getF Reg.BRAID_PAIR_SEL F.BRAID_PAIR_SEL_NODE
  let p := d.pair n
  let d := d.setFs Reg.BRAID_PAIR_STATE [(F.BRAID_PAIR_STATE_NEXT_SEQ, p.next), (F.BRAID_PAIR_STATE_UNACKED, d.unacked n),
    (F.BRAID_PAIR_STATE_CREDITS, ((d.guar : Int) + p.credits).toNat), (F.BRAID_PAIR_STATE_DEAD, if p.dead then 1 else 0)]
  let q := d.getF Reg.BRAID_PUT_STATUS F.BRAID_PUT_STATUS_PUT_ID
  let d := d.setFs Reg.BRAID_PUT_STATUS [(F.BRAID_PUT_STATUS_STATUS, look 0 d.braid.putStatus q),
    (F.BRAID_PUT_STATUS_BUSY, if d.braid.puts.any (·.put == q) then 1 else 0)]
  let c := d.inflight
  d.setFs Reg.BRAID_INFLIGHT [(F.BRAID_INFLIGHT_COUNT, c), (F.BRAID_INFLIGHT_MAX, max c (d.getF Reg.BRAID_INFLIGHT F.BRAID_INFLIGHT_MAX))]

/-! ## Packets (R360, R361) -/

/-- Bits of a header. -/
def hdr (p : Bytes) : Nat := leAt p 0 16
def hdrBits (n lo w : Nat) : Nat := n / 2 ^ lo % 2 ^ w
def pktType (p : Bytes) : Nat := hdrBits (hdr p) 0 4
def pktDst (p : Bytes) : Nat := hdrBits (hdr p) 8 12
def pktSrc (p : Bytes) : Nat := hdrBits (hdr p) 20 12
def pktLine (p : Bytes) : Nat := hdrBits (hdr p) 32 46
def pktEpoch (p : Bytes) : Nat := hdrBits (hdr p) 124 4
/-- A request (TYPE 1 to 3), its egress queue, its virtual channel, and the units of a packet (Table 15.5). -/
def pktReq (p : Bytes) : Bool := decide (1 ≤ pktType p) && decide (pktType p ≤ 3)
def pktQueue (p : Bytes) : Nat := if pktReq p then hdrBits (hdr p) 4 3 else if pktType p == 0xC then 7 else 6
def pktVc (p : Bytes) : Nat := if pktReq p then hdrBits (hdr p) 7 1 else if pktType p == 0xC then 3 else 2
def typeUnits (ty : Nat) : Option Nat :=
  match ty with | 1 => some 1 | 2 => some 5 | 3 => some 5 | 8 => some 5 | 9 => some 1 | 10 => some 1 | 12 => some 5 | _ => none
/-- The number of the low fields common to every header. -/
def Dev.hdrBase (d : Dev) (ty dst : Nat) : Nat :=
  ty + dst * 2 ^ 8 + d.braidNode * 2 ^ 20 + d.getF Reg.BRAID_EPOCH F.BRAID_EPOCH_EPOCH * 2 ^ 124

/-- The packet of an operation; `demand` says that more requests for its node wait for credits. -/
def Dev.opPacket (d : Dev) (o : BraidOp) (demand : Bool) : Bytes :=
  let ty := match o.kind with | .read => 1 | .write => 2 | _ => 3
  let n := d.hdrBase ty o.node + o.queue * 2 ^ 4 + o.addr % 2 ^ 52 / 64 * 2 ^ 32 + (if demand then 2 ^ 123 else 0)
  match o.kind with
  | .read => leBytes 16 (n + o.seq * 2 ^ 78 + o.gen * 2 ^ 90)
  | k => leBytes 16 (n + o.seq * 2 ^ 78 + (if k == .flag then o.flagCtr % 2 ^ 13 * 2 ^ 110 else 0)) ++ bytesAt o.data 0 64
/-- A packet goes to the local port's side of the switch. -/
def Dev.braidOut (d : Dev) (p : Bytes) : Dev := d.modBraid fun x => { x with outbox := x.outbox ++ [p] }

/-! ## Routing (R369, R370) -/

/-- Ports of a set whose links are up, in ascending order. -/
def Dev.usable (d : Dev) (mask : Nat) : List BraidPort := (List.finRange 8).filter fun b => mask / 2 ^ b.val % 2 == 1 && d.linkUp (.braid b)
/-- The set in force for a destination, and its route state: 0 primary, 1 alternate, 2 none. -/
def Dev.routeSet (d : Dev) (n : Nat) : List BraidPort × Nat :=
  let e := d.routeEntry n
  match d.usable (e % 2 ^ 9) with
  | [] => (match d.usable (e / 2 ^ 9 % 2 ^ 9) with | [] => ([], 2) | l => (l, 1))
  | l => (l, 0)
/-- The 12-bit value h. -/
def pktHash (p : Bytes) : Nat :=
  let l := pktLine p
  let terms := if pktReq p then [l % 4096, l / 2 ^ 12 % 4096, l / 2 ^ 24 % 4096, l / 2 ^ 36 % 4096] else if pktType p == 8 then [pktLine p % 4096] else []
  (terms.foldl (fun (x : BitVec 12) t => x ^^^ BitVec.ofNat 12 t) (BitVec.ofNat 12 (pktSrc p) ^^^ BitVec.ofNat 12 (pktDst p))).toNat
/-- The port a packet leaves by. -/
def Dev.routePort (d : Dev) (p : Bytes) : Option BraidPort :=
  let l := (d.routeSet (pktDst p)).1
  l[pktHash p % l.length]?
/-- Route states are evaluated after a change of a link; each change raises event 0xA005. -/
def Dev.routesChanged (d : Dev) (tell : Bool) : Dev :=
  (List.range 4096).foldl (fun (d : Dev) n =>
    let (l, st) := d.routeSet n
    if 2 - look 0 d.braid.routes n == st then d else
    let d := d.modBraid fun x => { x with routes := store 0 x.routes n (2 - st) }
    if tell then d.raise 0xA005 0xFF braidSwitch n (st + (l.foldl (fun m (b : BraidPort) => m + 2 ^ b.val) 0) * 2 ^ 8) else d) d

/-! ## Ends of operations (R362, R367, R376, R381) -/

/-- A write of a put ended; the last one completes the firing. -/
def Dev.putEnd (d : Dev) (tag status : Nat) : Dev :=
  match d.braid.puts.find? fun r => r.put + 1024 * r.run == tag with
  | none => d
  | some r =>
    let st := if r.status == 0 then status else r.status
    let rest := d.braid.puts.filter fun x => !(x.put == r.put && x.run == r.run)
    if r.left > 1 then d.modBraid fun x => { x with puts := x.puts.map fun y => if y.put == r.put && y.run == r.run then { y with left := r.left - 1, status := st } else y }
    else
      let d := d.modBraid fun x => { x with puts := rest, putStatus := store 0 x.putStatus r.put st }
      match d.putRec r.put with
      | none => d
      | some p =>
        let d := if leAt p 3 1 / 4 % 2 == 1 then d.landingSignal (leAt p 5 1) (leAt p 42 2 % 1024) 1 (some (leAt p 2 1)) braidSwitch else d
        if st == 0 then d else d.raise 0xA00A (leAt p 2 1) braidSwitch r.put (1 + st * 2 ^ 8)
/-- An operation's end goes to its issuer. -/
def Dev.issuerEnd (d : Dev) (issuer : BitVec 16) (tag status addr : Nat) : Dev :=
  if issuer == braidSwitch then d.putEnd tag status
  else if issuer.toNat / 2 ^ 8 % 32 == 0x0A then d.tierBraidEnd (issuer.toNat / 2 ^ 13) tag status addr
  else d
/-- Fences that wait for nothing more complete. -/
def Dev.fencesDone (d : Dev) : Dev :=
  let done := d.braid.fences.filter (·.ids.isEmpty)
  done.foldl (fun (d : Dev) f => d.issuerEnd f.issuer f.tag ((f.bad.map (·.2)).getD 0) 0)
    (d.modBraid fun x => { x with fences := x.fences.filter fun f => !f.ids.isEmpty })
/-- The earlier in SEQ order of a failure so far and another. -/
def worse (b : Option (Nat × Nat)) (seq status : Nat) : Option (Nat × Nat) :=
  if status == 0 then b else match b with | some (q, s) => if q ≤ seq then some (q, s) else some (seq, status) | none => some (seq, status)
/-- An operation in flight ends. A read that ends other than OK returns 0xFF bytes. -/
def Dev.opEnd (d : Dev) (o : BraidOp) (status : Nat) (line : Bytes) : Dev :=
  let d := d.modBraid fun x => { x with ops := x.ops.filter (·.id != o.id) }
  let d := if o.kind == .read then d.write o.place (if status == 0 then bytesAt line 0 64 else List.replicate 64 0xFF#8) else d
  let d := if !o.isWrite then d else
    let named := d.braid.fences.any fun f => f.ids.contains o.id
    d.modBraid fun x => { x with
      fences := x.fences.map fun f => if f.ids.contains o.id then { f with ids := f.ids.filter (· != o.id), bad := worse f.bad o.seq status } else f
      failed := if status == 0 || named then x.failed else x.failed ++ [(o.issuer, o.seq, status)] }
  let d := if status == 8 || status == 9 || status == 10 then d.triggerHere o.slice 1 else d
  (d.issuerEnd o.issuer o.tag status o.addr).fencesDone

/-! ## Issue (R352, R363, R365, R367, R378) -/

/-- The first ask of an issuer leaves the list. -/
def dropAsk (issuer : BitVec 16) : List BraidAsk → List BraidAsk
  | [] => []
  | a :: r => if a.issuer == issuer then r else a :: dropAsk issuer r
/-- The alias entry of a logical node. -/
def Dev.aliasOf (d : Dev) (n : Nat) : Nat := (d.reg (Reg.BRAID_ALIAS (n / 4))).toNat / 2 ^ (16 * (n % 4)) % 2 ^ 16
/-- The alias entry an operation goes by: that of its logical node, or for the primary's forwarding to its shadow (R476), which names
a physical node in the bits above the address, that node. -/
def Dev.askAlias (d : Dev) (a : BraidAsk) : Nat := if a.addr ≥ 2 ^ 64 then 2 ^ 15 + (a.addr / 2 ^ 64 - 1) % 4096 else d.aliasOf (a.addr / 2 ^ 52)
/-- A shadow sends no write of the shadowed slice to another node: it completes OK at the source (R476). -/
def Dev.shadowDrops (d : Dev) (a : BraidAsk) : Bool :=
  d.getF Reg.MEMB_STATUS F.MEMB_STATUS_STATE == 3 && d.shadowOn && a.slice == d.shadowSlice && (a.kind == .write || a.kind == .flag) && d.askAlias a % 4096 != d.braidNode
/-- A status with which an operation ends at once, by alias range, alias entry, dead pair and route. -/
def Dev.askStatus (d : Dev) (a : BraidAsk) : Option Nat :=
  let n := a.addr / 2 ^ 52
  let e := d.askAlias a
  let inRange := match d.sliceRec a.slice with | some r => decide (leAt r 24 2 ≤ n) && decide (n < leAt r 24 2 + leAt r 26 2) | none => a.slice ≥ 64
  if !inRange then some 11
  else if d.shadowDrops a then some 0
  else if e / 2 ^ 15 == 0 then some 9
  else if (d.pair (e % 4096)).dead then some 8
  else if e % 4096 != d.braidNode && (d.routeSet (e % 4096)).2 == 2 then some 9
  else none
/-- The operation must wait: in-flight room, credits, the pair's window (R363, R372, R378). -/
def Dev.mustWait (d : Dev) (a : BraidAsk) : Bool :=
  let n := d.askAlias a % 4096
  decide (d.inflight ≥ 4096) || decide ((d.guar : Int) + (d.pair n).credits ≤ 0) || (a.kind != .read && decide (d.unacked n ≥ 512))
/-- The lowest tag free. -/
def Dev.freeTag (d : Dev) : Nat := ((List.range 4096).find? fun k => !(d.braid.ops.any fun o => o.kind == .read && o.seq == k)).getD 0

/-- A read or write is sent. -/
def Dev.opSend (d : Dev) (a : BraidAsk) : Dev :=
  let n := d.askAlias a % 4096
  let p := d.pair n
  let tag := d.freeTag
  let read := a.kind == .read
  let o : BraidOp := ⟨d.braid.nextId, a.issuer, a.tag, a.slice, a.kind, a.addr, n, if read then tag else p.next,
    if read then look 0 d.braid.gens tag else 0, a.queue, a.data, a.place, a.flagCtr, d.now, d.now⟩
  let d := d.setPair n { p with next := if read then p.next else (p.next + 1) % 2 ^ 32, credits := p.credits - 1 }
  let more := d.asks.any (fun x => x.kind != .fence && d.askAlias x % 4096 == n) && decide ((d.guar : Int) + (d.pair n).credits ≤ 0)
  let d := d.modBraid fun x => { x with ops := x.ops ++ [o], nextId := x.nextId + 1,
                                        gens := if read then store 0 x.gens tag ((look 0 x.gens tag + 1) % 256) else x.gens }
  d.braidOut (d.opPacket o more)

/-- The first ask of an issuer is issued, ends at once, or waits; a kind other than `ok` admits leaves it. -/
def Dev.issueAsk (d : Dev) (issuer : BitVec 16) (ok : AskKind → Bool) : Dev :=
  match d.asks.find? fun a => a.issuer == issuer with
  | none => d
  | some a =>
    if !ok a.kind then d else
    let took := fun (d : Dev) => { d.modBraid fun x => { x with waiters := x.waiters.filter (· != issuer) } with asks := dropAsk issuer d.asks }
    if a.kind == .fence then
      let ids := (d.braid.ops.filter fun o => o.issuer == issuer && o.isWrite).map (·.id)
      let bad := (d.braid.failed.filter fun f => f.1 == issuer).foldl (fun b f => worse b f.2.1 f.2.2) none
      (((took d).modBraid fun x => { x with fences := x.fences ++ [⟨issuer, a.tag, ids, bad⟩], failed := x.failed.filter fun f => f.1 != issuer }).fencesDone).braidShow
    else match d.askStatus a with
    | some st =>
      let d := took d
      let d := if a.kind == .read then d.write a.place (List.replicate 64 0xFF#8) else
        d.modBraid fun x => { x with failed := if st == 0 then x.failed else x.failed ++ [(issuer, (d.pair (d.askAlias a % 4096)).next, st)] }
      let d := if st == 8 || st == 9 then d.triggerHere a.slice 1 else d
      (d.issuerEnd issuer a.tag st a.addr).braidShow
    | none =>
      let ahead := d.braid.waiters.takeWhile (· != issuer)
      if d.mustWait a || (decide (d.inflight + 1 ≥ 4096) && !ahead.isEmpty) then
        (if d.braid.waiters.contains issuer then d else d.modBraid fun x => { x with waiters := x.waiters ++ [issuer] })
      else ((took d).opSend a).braidShow

def braidReadIssueEffect (i : BitVec 16) (d : Dev) : Dev := d.issueAsk i fun k => k == .read
def execBraidReadIssue (i : BitVec 16) (s : State) : Host.Outcome State Fault Refusal := ran s (braidReadIssueEffect i)
def braidWriteIssueEffect (i : BitVec 16) (d : Dev) : Dev := d.issueAsk i fun k => k == .write || k == .flag
def execBraidWriteIssue (i : BitVec 16) (s : State) : Host.Outcome State Fault Refusal := ran s (braidWriteIssueEffect i)
def braidFenceEffect (i : BitVec 16) (d : Dev) : Dev := d.issueAsk i fun k => k == .fence
def execBraidFence (i : BitVec 16) (s : State) : Host.Outcome State Fault Refusal := ran s (braidFenceEffect i)
/-- BRAID_ISSUE_RESUME: the first waiter whose operation no longer waits issues it. -/
def braidIssueResumeEffect (d : Dev) : Dev :=
  match d.braid.waiters.find? fun i => match d.asks.find? (·.issuer == i) with | some a => !d.mustWait a | none => true with
  | none => d
  | some i =>
    match d.asks.find? (·.issuer == i) with
    | none => d.modBraid fun x => { x with waiters := x.waiters.filter (· != i) }
    | some _ => (d.modBraid fun x => { x with waiters := i :: x.waiters.filter (· != i) }).issueAsk i fun _ => true
def execBraidIssueResume (s : State) : Host.Outcome State Fault Refusal := ran s braidIssueResumeEffect

/-! ## Arrival (R353, R354, R362, R364, R366, R373 to R375) -/

/-- The first packet for the local port of a type `ok` admits; one of another epoch is dropped and counted (R377). -/
def Dev.takeArrived (d : Dev) (ok : Nat → Bool) : Option (Bytes × Dev) :=
  match d.braid.arrived.find? fun p => ok (pktType p) with
  | none => none
  | some p => some (p, d.modBraid fun x => { x with arrived := x.arrived.erase p })
def Dev.stale (d : Dev) (p : Bytes) : Bool := pktEpoch p != d.getF Reg.BRAID_EPOCH F.BRAID_EPOCH_EPOCH

/-- fold6: the XOR of the six-bit groups of a number. -/
def fold6 : Nat → Nat → Nat
  | 0, _ => 0
  | k + 1, j => (BitVec.ofNat 6 j ^^^ BitVec.ofNat 6 (fold6 k (j / 64))).toNat
/-- The DPA of an offset in a window (R354). -/
def windowDpa (w : Bytes) (off : Nat) : Nat :=
  let n := (off - leAt w 0 8) / 64
  let m := n / 6
  let j := m / 64
  let k := (BitVec.ofNat 6 m ^^^ BitVec.ofNat 6 (fold6 12 j)).toNat
  n % 6 * 2 ^ 37 + k / 4 * 2 ^ 33 + k / 2 % 2 * 2 ^ 32 + (leAt w 8 4 + j / 32) * 4096 + (2 * (j % 32) + k % 2) * 64
/-- The window that holds an offset. -/
def Dev.windowFor (d : Dev) (off : Nat) : Option Bytes :=
  ((List.range (d.braidF 14 2)).map d.window).find? fun w => decide (leAt w 0 8 ≤ off) && decide (off < leAt w 0 8 + 192 * leAt w 12 4 * 4096)
/-- The status of a request at its destination, and its window. -/
def Dev.windowCheck (d : Dev) (p : Bytes) : Nat × Bytes :=
  match d.windowFor (pktLine p * 64) with
  | none => (1, [])
  | some w =>
    let need := match pktType p with | 1 => 0 | 2 => 1 | _ => 2
    let perm := leAt w 17 1
    let c := hdrBits (hdr p) 110 13
    if perm / 2 ^ need % 2 == 0 then (2, w)
    else if pktSrc p < leAt w 18 2 || decide (pktSrc p > leAt w 20 2) then (3, w)
    else if need == 2 && (decide (c % 1024 < leAt w 22 2) || decide (c % 1024 ≥ leAt w 22 2 + leAt w 24 1) || leAt w 25 1 / 2 ^ (c / 1024) % 2 == 0 || decide (c / 1024 ≥ 6)) then (4, w)
    else (0, w)

/-- A request with DEMAND is granted shared credits (R373). -/
def Dev.grantFor (d : Dev) (p : Bytes) : Nat × Dev :=
  if hdrBits (hdr p) 123 1 == 0 then (0, d) else
  let free := d.braidF 10 4 - 4096 * d.guar - d.braid.granted
  let n := min (d.braidF 8 2) free
  (n, d.modBraid fun x => { x with granted := x.granted + n })
/-- An ACK to a source: everything up to BASE, the credits returned, and a grant. -/
def Dev.sendAck (d : Dev) (n grant : Nat) : Dev :=
  let x := d.far n
  let p := d.hdrBase 9 n + (x.base + 2 ^ 32 - 1) % 2 ^ 32 * 2 ^ 32 + min x.ret 1023 * 2 ^ 64 + grant * 2 ^ 74
  (d.setFar n { x with ret := x.ret - min x.ret 1023 }).braidOut (leBytes 16 p)

/-- BRAID_READ_ARRIVE: answered with READ_RESP, which carries the credit back. -/
def braidReadArriveEffect (d : Dev) : Dev :=
  match d.takeArrived (· == 1) with
  | none => d
  | some (p, d) =>
    if d.stale p then d.braidCount Reg.BRAID_STALE_DROP 1 else
    let (st, w) := d.windowCheck p
    let a := windowDpa w (pktLine p * 64)
    let bad := st == 0 && d.bad (a / 64)
    let d := if bad then d.unresolved (a / 64) 4 10 (leAt w 16 1) else d
    let st := if bad then 5 else st
    let line := if st == 0 then d.bytes a 64 else List.replicate 64 0xFF#8
    let (g, d) := d.grantFor p
    let h := d.hdrBase 8 (pktSrc p) + hdrBits (hdr p) 78 20 * 2 ^ 32 + st * 2 ^ 52
    let d := d.braidOut (leBytes 16 h ++ line)
    if g == 0 then d else d.sendAck (pktSrc p) g
def execBraidReadArrive (s : State) : Host.Outcome State Fault Refusal := ran s braidReadArriveEffect

/-- A line written in a window counts towards HOT_LINE (R375). -/
def Dev.hotWrite (d : Dev) (dpa : Nat) : Dev :=
  let us := d.now / 5000
  let key := dpa / 2 ^ 37 * 64 + channelOf dpa
  let d := if d.braid.hotUs == us then d else d.modBraid fun x => { x with hotUs := us, hot := x.hot.map fun p => (p.1, p.2.map fun l => (l.1, 0)) }
  let l := look [] d.braid.hot key
  let n := ((l.find? (·.1 == dpa / 64)).map (·.2)).getD 0 + 1
  let d := d.modBraid fun x => { x with hot := store [] x.hot key ((dpa / 64, n) :: (l.filter fun e => e.1 != dpa / 64).take 3) }
  if n == d.braidF 4 2 + 1 then (d.braidCount Reg.BRAID_HOT_LINE 1).raise 0xA007 0xFF braidSwitch (dpa / 256) n else d

/-- BASE advances past set bits; fuel is the window. -/
def baseOf (set : List Nat) : Nat → Nat → Nat
  | 0, b => b
  | k + 1, b => if set.contains b then baseOf set k ((b + 1) % 2 ^ 32) else b

/-- A primary forwards a write or flag it applied in the shadowed slice to its shadow, at the same offset (R476). -/
def Dev.forwardWrite (d : Dev) (p : Bytes) (slice : Nat) : Dev :=
  match d.shadowNode with
  | none => d
  | some n =>
    if !d.shadowOn || slice != d.shadowSlice then d else
    { d with asks := d.asks ++ [⟨systemSteward, 0, 0xFF, if pktType p == 3 then .flag else .write, (n + 1) * 2 ^ 64 + pktLine p * 64, hdrBits (hdr p) 4 3, bytesAt p 16 64, 0,
      hdrBits (hdr p) 110 13⟩] }

/-- BRAID_WRITE_ARRIVE: R364 in its order, flags when BASE passes them (R366). -/
def braidWriteArriveEffect (d : Dev) : Dev :=
  match d.takeArrived fun ty => ty == 2 || ty == 3 with
  | none => d
  | some (p, d) =>
    if d.stale p then d.braidCount Reg.BRAID_STALE_DROP 1 else
    let n := pktSrc p
    let q := hdrBits (hdr p) 78 32
    let x := d.far n
    let gap := (q + 2 ^ 32 - x.base) % 2 ^ 32
    let (g, d) := d.grantFor p
    if gap ≥ 2 ^ 31 || x.set.contains q then d.sendAck n g
    else if gap ≥ 512 then (let d := d.braidCount Reg.BRAID_PROTOCOL_DROP 1; if g == 0 then d else d.sendAck n g)
    else
      let (st, w) := d.windowCheck p
      let a := windowDpa w (pktLine p * 64)
      let d := if st == 0 then ((d.write a (bytesAt p 16 64)).hotWrite a).forwardWrite p (leAt w 16 1)
        else ((d.braidOut (leBytes 16 (d.hdrBase 10 n + q * 2 ^ 32 + st * 2 ^ 64))).braidCount Reg.BRAID_REFUSED 1).raise
          0xA006 0xFF braidSwitch n (st + pktType p * 2 ^ 8 + pktLine p * 2 ^ 16)
      let flags := if st == 0 && pktType p == 3 then x.flags ++ [(q, hdrBits (hdr p) 110 13, leAt w 16 1)] else x.flags
      let set := q :: x.set
      let base := baseOf set 512 x.base
      let past := fun (s : Nat) => decide ((base + 2 ^ 32 - 1 - s) % 2 ^ 32 < 2 ^ 31)
      let due := flags.filter fun f => past f.1
      let d := d.setFar n { x with base := base, set := set.filter fun s => !past s, flags := flags.filter fun f => !past f.1, ret := x.ret + 1 }
      let ordered := due.foldl (fun (l : List (Nat × Nat × Nat)) f =>
        l.takeWhile (fun y => decide ((y.1 + 2 ^ 32 - x.base) % 2 ^ 32 < (f.1 + 2 ^ 32 - x.base) % 2 ^ 32)) ++ f ::
          l.dropWhile (fun y => decide ((y.1 + 2 ^ 32 - x.base) % 2 ^ 32 < (f.1 + 2 ^ 32 - x.base) % 2 ^ 32))) []
      let d := ordered.foldl (fun (d : Dev) f => d.landingSignal (f.2.1 / 1024) (f.2.1 % 1024) 1 (some f.2.2) braidSwitch) d
      if base != x.base || g != 0 then d.sendAck n g else d
def execBraidWriteArrive (s : State) : Host.Outcome State Fault Refusal := ran s braidWriteArriveEffect

/-- BRAID_READ_RESP_ARRIVE: the first response for a tag in flight ends its read and returns its credit. -/
def braidReadRespArriveEffect (d : Dev) : Dev :=
  match d.takeArrived (· == 8) with
  | none => d
  | some (p, d) =>
    if d.stale p then d.braidCount Reg.BRAID_STALE_DROP 1 else
    match d.braid.ops.find? fun o => o.kind == .read && o.seq == hdrBits (hdr p) 32 12 && o.gen == hdrBits (hdr p) 44 8 && o.node == pktSrc p with
    | none => d
    | some o =>
      let x := d.pair o.node
      ((d.setPair o.node { x with credits := x.credits + 1 }).opEnd o (hdrBits (hdr p) 52 4) (bytesAt p 16 64)).braidShow
def execBraidReadRespArrive (s : State) : Host.Outcome State Fault Refusal := ran s braidReadRespArriveEffect

/-- BRAID_ACK_ARRIVE: writes up to CUM_SEQ end OK; RET and GRANT are credits. -/
def braidAckArriveEffect (d : Dev) : Dev :=
  match d.takeArrived (· == 9) with
  | none => d
  | some (p, d) =>
    if d.stale p then d.braidCount Reg.BRAID_STALE_DROP 1 else
    let n := pktSrc p
    let cum := hdrBits (hdr p) 32 32
    let x := d.pair n
    let d := d.setPair n { x with credits := x.credits + hdrBits (hdr p) 64 10 + hdrBits (hdr p) 74 11 }
    let done := d.braid.ops.filter fun o => o.node == n && o.isWrite && decide ((cum + 2 ^ 32 - o.seq) % 2 ^ 32 < 2 ^ 31)
    (done.foldl (fun (d : Dev) o => d.opEnd o 0 []) d).braidShow
def execBraidAckArrive (s : State) : Host.Outcome State Fault Refusal := ran s braidAckArriveEffect

/-- BRAID_REFUSE_ARRIVE: the named write ends with its status. -/
def braidRefuseArriveEffect (d : Dev) : Dev :=
  match d.takeArrived (· == 10) with
  | none => d
  | some (p, d) =>
    if d.stale p then d.braidCount Reg.BRAID_STALE_DROP 1 else
    match d.braid.ops.find? fun o => o.isWrite && o.node == pktSrc p && o.seq == hdrBits (hdr p) 32 32 with
    | none => d
    | some o => (d.opEnd o (hdrBits (hdr p) 64 4) []).braidShow
def execBraidRefuseArrive (s : State) : Host.Outcome State Fault Refusal := ran s braidRefuseArriveEffect

/-! ## Timeouts, death, epochs (R365, R376, R377) -/

/-- The operation with the least of a time. -/
def earliest (f : BraidOp → Nat) (l : List BraidOp) : Option BraidOp :=
  l.foldl (fun m o => match m with | none => some o | some b => if f o < f b then some o else some b) none

/-- BRAID_RETRY_TIMEOUT: device time moves to the next retry instant, and that operation is sent again. -/
def braidRetryTimeoutEffect (d : Dev) : Dev :=
  match earliest (·.last) d.braid.ops with
  | none => d
  | some o =>
    let d := d.advanceTo (o.last + d.getF Reg.BRAID_CFG F.BRAID_CFG_RETRY * 5000)
    let d := d.modBraid fun x => { x with ops := x.ops.map fun y => if y.id == o.id then { y with last := d.now } else y }
    (d.braidOut (d.opPacket o false)).braidCount Reg.BRAID_RETRANSMIT 1
def execBraidRetryTimeout (s : State) : Host.Outcome State Fault Refusal := ran s braidRetryTimeoutEffect

/-- DEAD_US in units of 0.2 ns. -/
def Dev.deadU (d : Dev) : Nat := (40 + 20 * (d.getF Reg.BRAID_CFG F.BRAID_CFG_STAGES - 1)) * 5000
/-- DEAD_TARGET_TIMEOUT: device time moves to the next such instant; the operation fails and its pair is dead. -/
def deadTargetTimeoutEffect (d : Dev) : Dev :=
  match earliest (·.first) d.braid.ops with
  | none => d
  | some o =>
    let d := d.advanceTo (o.first + d.deadU)
    let d := d.setPair o.node { d.pair o.node with dead := true }
    let mine := d.braid.ops.filter fun x => x.node == o.node
    let d := mine.foldl (fun (d : Dev) x => d.opEnd x 8 []) d
    let det := if o.kind == .read then 0xFFFFFFFF + o.seq * 2 ^ 32 else o.seq
    ((d.raise 0xA004 0xFF braidSwitch o.node det).braidCount Reg.BRAID_DEAD_TARGET 1).braidShow
def execDeadTargetTimeout (s : State) : Host.Outcome State Fault Refusal := ran s deadTargetTimeoutEffect

/-- The device's own packets of an earlier epoch that have not left are dropped: from then on it sends only the new one. -/
def Dev.dropOwn (d : Dev) : Dev :=
  let keep := fun (p : Bytes) => pktSrc p != d.braidNode || !d.stale p
  let d := d.modBraid fun x => { x with outbox := x.outbox.filter keep }
  ((List.finRange 8).filter fun b => d.portOn (.braid b)).foldl (fun (d : Dev) b =>
    let d := (List.range 8).foldl (fun (d : Dev) q =>
      let x := d.port (.braid b)
      d.setPort (.braid b) (x.setQueue q { x.queue q with items := (x.queue q).items.filter fun i => keep i.body })) (d.portSync (.braid b))
    d.portSync (.braid b)) d
/-- A new epoch: every pair starts again (R377). -/
def Dev.braidNewEpoch (d : Dev) (n : Nat) : Dev :=
  let d := d.setF Reg.BRAID_EPOCH F.BRAID_EPOCH_EPOCH n
  let d := d.braid.ops.foldl (fun (d : Dev) o => d.opEnd o 10 []) d
  (d.dropOwn.modBraid fun x => { x with pairs := [], dests := [], granted := 0 }).braidShow

/-- ALIAS_WRITE: by the system steward only (R352, R383). -/
def aliasWriteEffect (m : Master) (n : Nat) (v : BitVec 16) (d : Dev) : Dev :=
  if m != systemSteward then d else d.setF (Reg.BRAID_ALIAS (n / 4)) ⟨16 * (n % 4), 16⟩ v.toNat
def execAliasWrite (m : Master) (n : Fin 4096) (v : BitVec 16) (s : State) : Host.Outcome State Fault Refusal := ranFrom m s (aliasWriteEffect m n v)

/-! ## Timed puts (R380, R381) -/

/-- PUT_ARM: by the steward of the put's SRC_TILE, in a boundary slot, for the next tick. -/
def putArmEffect (m : Master) (v : Nat) (d : Dev) : Dev :=
  let id := v % 1024
  match d.putRec id with
  | none => d
  | some p => if m != stewardOf (leAt p 5 1) || !d.inBoundary then d else d.modBraid fun x => { x with armed := store 0 x.armed id (d.tickNo + 2) }
def execPutArm (m : Master) (v : Word) (s : State) : Host.Outcome State Fault Refusal := ranFrom m s (putArmEffect m v.toNat)

/-- The lines of a put as asks of the put engine. -/
def Dev.putAsks (d : Dev) (p : Bytes) (tag : Nat) : List BraidAsk :=
  let n := leAt p 20 4
  let src := (d.place (leAt p 24 8)).getD 0
  (List.range n).map fun i =>
    let flag := leAt p 3 1 / 2 % 2 == 1 && i + 1 == n
    ⟨braidSwitch, tag, leAt p 2 1, if flag then .flag else .write, leAt p 32 8 + 64 * i, leAt p 4 1, d.bytes (src + 64 * i) 64, 0, leAt p 40 2⟩
/-- A put fires while its slice serves; one that is reset or frozen stops at the edge that follows the snapshot (Table 17.6, R422). -/
def Dev.putServes (d : Dev) (s : Nat) : Bool :=
  let st := d.getF (Reg.SLICE_STATUS s) F.SLICE_STATUS_STATE
  st == 1 || ((st == 2 || st == 3) && (match lookup? d.slices s with | some x => x.tick == d.tickNo | none => false))
/-- PUT_LAUNCH: once in a tick in which it fires, at OFFSET or when its tile reaches READY, whichever is later. -/
def putLaunchEffect (id : Nat) (d : Dev) : Dev :=
  match d.putRec id with
  | none => d
  | some p =>
    let N := d.tickNo
    let t := leAt p 5 1
    let fires := N % leAt p 16 2 == leAt p 18 2 && (leAt p 3 1 % 2 == 0 || look 0 d.braid.armed id == N + 1)
    if !fires || look 0 d.braid.launched id == N + 1 || !d.putServes (leAt p 2 1) || d.selfFenced || !d.getB Reg.RECIPE_STATUS F.RECIPE_STATUS_ACTIVE then d else
    let due := N * d.tickU + leAt p 8 4 * 5
    let d := d.advanceTo due
    let x := d.tile t
    if x.pos < leAt p 12 4 && d.paused t then d else
    let d := d.advance (leAt p 12 4 - x.pos)
    let d := if d.now > due + (kcU - 1) then d.braidCount Reg.BRAID_PUT_LATE 1 else d
    let busy := d.braid.puts.any (·.put == id)
    let d := if busy then (d.braidCount Reg.BRAID_PUT_OVERLAP 1).raise 0xA00A (leAt p 2 1) braidSwitch id 0 else d
    let run := d.braid.nextId
    let asks := d.putAsks p (id + 1024 * run)
    let d := { d with asks := d.asks ++ asks }
    (d.modBraid fun x => { x with launched := store 0 x.launched id (N + 1), nextId := x.nextId + 1,
                                  puts := x.puts ++ [⟨id, run, asks.length, 0⟩] }).braidShow
def execPutLaunch (id : Fin 1024) (s : State) : Host.Outcome State Fault Refusal := ran s (putLaunchEffect id)

/-! ## Links, flits and the switch (R355 to R359, R369) -/

def BraidLink.init : BraidLink := ⟨0, [], 4095, false, false, [], [], [0, 0, 0, 0], [256, 256, 256, 256], [], []⟩
def Dev.blink (d : Dev) (b : Nat) : BraidLink := look BraidLink.init d.braid.links b
def Dev.setBlink (d : Dev) (b : Nat) (x : BraidLink) : Dev := d.modBraid fun y => { y with links := store BraidLink.init y.links b x }
/-- An entry of a list replaced. -/
def bump (l : List Nat) (i : Nat) (f : Nat → Nat) : List Nat := l.zipIdx.map fun p => if p.2 == i then f p.1 else p.1

/-- BRAID_LINK_UP: training completed with a far end; a wrong one leaves the port down and miswired. -/
def braidLinkUpEffect (b : BraidPort) (node port : Nat) (d : Dev) : Dev :=
  let r := Reg.BRAID_PORT_STATUS b
  let c := Reg.BRAID_PORT_CFG b
  let want := d.getF c F.BRAID_PORT_CFG_NEIGH_NODE
  if !d.portOn (.braid b) || d.linkUp (.braid b) || d.getF r F.BRAID_PORT_STATUS_FENCED != 0 || d.time.refLost then d else
  let seen := [(F.BRAID_PORT_STATUS_FAR_NODE, node), (F.BRAID_PORT_STATUS_FAR_PORT, port), (F.BRAID_PORT_STATUS_LOS, 0)]
  if want == 0xFFF || (want == node && d.getF c F.BRAID_PORT_CFG_NEIGH_PORT == port) then
    let d := d.setFs r ([(F.BRAID_PORT_STATUS_LINK, 1), (F.BRAID_PORT_STATUS_MISWIRED, 0)] ++ seen)
    let d := d.setBlink b { BraidLink.init with fails := (d.blink b).fails }
    (d.raise 0xA001 0xFF (braidUnit b) b.val 1).routesChanged true
  else (d.setFs r ([(F.BRAID_PORT_STATUS_MISWIRED, 1)] ++ seen)).raise 0xA002 0xFF (braidUnit b) b.val (node + port * 2 ^ 16)
def execBraidLinkUp (b : BraidPort) (node : BitVec 12) (port : BitVec 3) (s : State) : Host.Outcome State Fault Refusal :=
  ran s (braidLinkUpEffect b node.toNat port.toNat)

/-- A failed training of a lane; the third within a second fences it. -/
def Dev.laneFailed (b : BraidPort) (d : Dev) (i : Nat) : Dev :=
  let x := d.blink b
  let l := ((look [] x.fails i).filter fun u => decide (d.now < u + 5000000000)) ++ [d.now]
  let r := Reg.BRAID_PORT_STATUS b
  let m := d.getF r F.BRAID_PORT_STATUS_FENCED
  let d := d.setBlink b { x with fails := store [] x.fails i l }
  if l.length < 3 || m / 2 ^ i % 2 == 1 then d else (d.setF r F.BRAID_PORT_STATUS_FENCED (m + 2 ^ i)).raise 0xA003 0xFF (braidUnit b) b.val i

/-- The port goes down; what is queued on it is chosen again, what is on its wire is lost. -/
def Dev.braidDown (d : Dev) (b : BraidPort) (los : Nat) : Dev :=
  let g := GatePort.braid b
  let r := Reg.BRAID_PORT_STATUS b
  let was := d.linkUp g
  let d := d.setFs r [(F.BRAID_PORT_STATUS_LINK, 0), (F.BRAID_PORT_STATUS_LOS, los)]
  if !was then d else
  let d := d.portSync g
  let x := d.port g
  let waiting := (List.range 8).flatMap fun q => (x.queue q).items.map (·.body)
  let d := (List.range 8).foldl (fun (d : Dev) q => let x := d.port g; d.setPort g (x.setQueue q { x.queue q with items := [] })) d
  let d := (d.modBraid fun y => { y with outbox := waiting ++ y.outbox }).setBlink b { BraidLink.init with fails := (d.blink b).fails }
  let d := (d.portSync g).portCount g (Reg.BRAID_LINK_DOWN_COUNT b) F.BRAID_LINK_DOWN_COUNT_COUNT 1
  (d.raise 0xA001 0xFF (braidUnit b) b.val (los * 2 ^ 8 + d.getF r F.BRAID_PORT_STATUS_FENCED * 2 ^ 16)).routesChanged true
/-- BRAID_LINK_DOWN: lanes lost, and lanes whose training failed. -/
def braidLinkDownEffect (b : BraidPort) (los bad : Nat) (d : Dev) : Dev :=
  if !d.portOn (.braid b) || (los == 0 && bad == 0) then d else
  let d := ((List.range 4).filter fun i => bad / 2 ^ i % 2 == 1).foldl (Dev.laneFailed b) d
  d.braidDown b los
def execBraidLinkDown (b : BraidPort) (los bad : BitVec 4) (s : State) : Host.Outcome State Fault Refusal := ran s (braidLinkDownEffect b los.toNat bad.toNat)

/-- LANE_UNFENCE: BRAID_PORT_CTRL.UNFENCE. -/
def laneUnfenceEffect (m : Master) (b : BraidPort) (v : Word) (d : Dev) : Dev :=
  if !devMaster m then d else
  let k := fieldOf F.BRAID_PORT_CTRL_UNFENCE v
  let r := Reg.BRAID_PORT_STATUS b
  let old := d.getF r F.BRAID_PORT_STATUS_FENCED
  let x := d.blink b
  (d.setBlink b { x with fails := x.fails.filter fun f => k / 2 ^ f.1 % 2 == 0 }).setF r F.BRAID_PORT_STATUS_FENCED
    (BitVec.ofNat 4 old &&& ~~~(BitVec.ofNat 4 k)).toNat
def execLaneUnfence (m : Master) (b : BraidPort) (v : Word) (s : State) : Host.Outcome State Fault Refusal := ranFrom m s (laneUnfenceEffect m b v)

/-- CRC-32C of bytes (R356), in its reflected form. -/
def crc32c (l : Bytes) : BitVec 32 :=
  ~~~(l.foldl (fun (c : BitVec 32) b => (List.range 8).foldl (fun (c : BitVec 32) _ =>
    if c.getLsbD 0 then (c >>> 1) ^^^ 0x82F63B78#32 else c >>> 1) (c ^^^ b.setWidth 32)) 0xFFFFFFFF#32)
/-- The CRC of a flit, its field taken as zero. -/
def flitCrc (f : Bytes) : Nat := (crc32c (f.take 12 ++ [0#8, 0#8, 0#8, 0#8] ++ f.drop 16)).toNat

/-- Units of a good data flit are assembled into packets; a reserved TYPE is dropped and counted, a unit of zeros between packets fills. -/
def Dev.takeUnit (b : Nat) (d : Dev) (u : Bytes) : Dev :=
  let x := d.blink b
  if x.part.isEmpty then
    if u.all (· == 0#8) then d else
    match typeUnits (pktType u) with
    | none => (d.braidCount Reg.BRAID_PROTOCOL_DROP 1).setBlink b { x with freed := bump x.freed 0 (· + 1) }
    | some 1 => d.setBlink b { x with inq := x.inq ++ [u] }
    | some _ => d.setBlink b { x with part := u }
  else
    let p := x.part ++ u
    if p.length ≥ 80 then d.setBlink b { x with part := [], inq := x.inq ++ [p] } else d.setBlink b { x with part := p }

/-- A data flit goes on the wire. -/
def Dev.flitBytes (d : Dev) (b ty seq : Nat) (units : Bytes) : Bytes :=
  let x := d.blink b
  let h := leBytes 1 ty ++ leBytes 1 0 ++ leBytes 2 seq ++ leBytes 2 (x.good + (if x.nak then 2 ^ 15 else 0)) ++ x.freed.map (fun n => BitVec.ofNat 8 (min n 255)) ++ leBytes 6 0
  let f := h ++ bytesAt units 0 304
  f.take 12 ++ leBytes 4 (flitCrc f) ++ f.drop 16
/-- A flit is sent: freed units and a NAK have gone with it. -/
def Dev.sendFlit (d : Dev) (b ty seq : Nat) (units : Bytes) : Dev :=
  let f := d.flitBytes b ty seq units
  let x := d.blink b
  (d.setBlink b { x with nak := false, freed := x.freed.map fun n => n - min n 255 }).send (.braidFlit b f)

/-- FLIT_RECEIVE (R357): the decoder's corrected symbols or an uncorrectable codeword come with the command. -/
def flitReceiveEffect (b : BraidPort) (f : Bytes) (corrected : Nat) (bad : Bool) (d : Dev) : Dev :=
  let g := GatePort.braid b
  if !d.linkUp g then d else
  let d := d.portCount g (Reg.BRAID_FEC_CORRECTED b) F.BRAID_FEC_CORRECTED_COUNT (min corrected 8)
  let x := d.blink b
  let fail := fun (d : Dev) => d.setBlink b { d.blink b with lost := true, nak := true }
  if bad then fail (d.portCount g (Reg.BRAID_FEC_UNCORRECTED b) F.BRAID_FEC_UNCORRECTED_COUNT 1)
  else if f.length != 320 || leAt f 12 4 != flitCrc f then fail (d.portCount g (Reg.BRAID_CRC_FAIL b) F.BRAID_CRC_FAIL_COUNT 1)
  else
    let ack := leAt f 4 2 % 4096
    let keep := x.replay.filter fun p => decide (0 < (p.1 + 4096 - ack) % 4096) && decide ((p.1 + 4096 - ack) % 4096 < 2048)
    let d := d.setBlink b { x with replay := keep, credit := x.credit.zipIdx.map fun p => p.1 + leAt f (6 + p.2) 1 }
    let d := if leAt f 4 2 / 2 ^ 15 == 0 || keep.isEmpty then d
      else keep.foldl (fun (d : Dev) p => d.sendFlit b 0 p.1 p.2) (d.portCount g (Reg.BRAID_REPLAYS b) F.BRAID_REPLAYS_COUNT 1)
    let x := d.blink b
    if leAt f 0 1 != 0 || leAt f 2 2 % 4096 != (x.good + 1) % 4096 then d
    else
      let d := (d.setBlink b { x with good := (x.good + 1) % 4096, lost := false }).portCount g (Reg.BRAID_FLITS_RX b) F.BRAID_FLITS_RX_COUNT 1
      (List.range 19).foldl (fun (d : Dev) i => Dev.takeUnit b d (bytesAt f (16 + 16 * i) 16)) d
def execFlitReceive (b : BraidPort) (f : Bytes) (corrected : Nat) (bad : Bool) (s : State) : Host.Outcome State Fault Refusal :=
  ran s (flitReceiveEffect b f corrected bad)

/-- A packet moves through the switch: to the local port, to an egress queue with its dateline mark, or away when there is no route.
None when its egress queue is full. -/
def Dev.switchPacket (d : Dev) (p : Bytes) : Option Dev :=
  if pktDst p == d.braidNode then some (d.modBraid fun x => { x with arrived := x.arrived ++ [p] }) else
  match d.routePort p with
  | none => some (if pktSrc p == d.braidNode then d else d.braidCount Reg.BRAID_NO_ROUTE_DROP 1)
  | some b =>
    let g := GatePort.braid b
    let cross := pktReq p && d.routeEntry (pktDst p) / 2 ^ (18 + b.val) % 2 == 1 && pktVc p == 0
    let p := if cross then leBytes 16 (hdr p + 2 ^ 7) ++ p.drop 16 else p
    if ((d.port g).queue (pktQueue p)).items.length ≥ 1024 then none else
    let d := d.portSync g
    let x := d.port g
    let y := x.queue (pktQueue p)
    some ((d.setPort g (x.setQueue (pktQueue p) { y with items := y.items ++ [⟨d.now, p, none⟩], at_ := d.now })).portSync g)

/-- The first packet of a list that can move, and the list without it. -/
def Dev.moveFirst (d : Dev) : List Bytes → Option (Bytes × List Bytes × Dev)
  | [] => none
  | p :: r => match d.switchPacket p with
    | some d' => some (p, r, d')
    | none => match d.moveFirst r with
      | some (q, l, d') => some (q, p :: l, d')
      | none => none
/-- PACKET_FORWARD: a complete packet of a port, 8 the local one, is switched, and its buffer units are freed. -/
def packetForwardEffect (port : Nat) (d : Dev) : Dev :=
  if port == 8 then
    match d.moveFirst d.braid.outbox with
    | none => d
    | some (_, l, d') => d'.modBraid fun x => { x with outbox := l }
  else
    -- a device that has fenced itself discards every arriving packet (R468)
    match (if d.selfFenced then (match (d.blink port).inq with | p :: r => some (p, r, d) | [] => none) else d.moveFirst (d.blink port).inq) with
    | none => d
    | some (p, l, d') =>
      let x := d'.blink port
      d'.setBlink port { x with inq := l, freed := bump x.freed (pktVc p) (· + p.length / 16) }
def execPacketForward (port : Fin 9) (s : State) : Host.Outcome State Fault Refusal := ran s (packetForwardEffect port)

/-- Units waiting go out as a data flit, filled with zero units. -/
def Dev.flushFlit (d : Dev) (b : BraidPort) : Dev :=
  let x := d.blink b
  let u := bytesAt x.tx 0 304
  let d := d.setBlink b { x with tx := x.tx.drop 304, next := (x.next + 1) % 4096, replay := x.replay ++ [(x.next, u)] }
  (d.sendFlit b 0 x.next u).portCount (.braid b) (Reg.BRAID_FLITS_TX b) F.BRAID_FLITS_TX_COUNT 1
/-- BRAID_TX_SELECT (R379): the highest queue whose head may start gives its units to the flit; an idle flit goes when there is nothing to
send or 512 flits are unacknowledged. -/
def braidTxSelectEffect (b : BraidPort) (d : Dev) : Dev :=
  let g := GatePort.braid b
  if !d.linkUp g then d else
  let d := (d.advanceTo (d.port g).busyUntil).portSync g
  let l := d.blink b
  if l.replay.length ≥ 512 || d.selfFenced then d.sendFlit b 1 0 [] else
  match [7, 6, 5, 4, 3, 2, 1, 0].find? fun q => match ((d.port g).queue q).items with
      | [] => false
      | i :: _ =>
        let n := i.body.length / 16
        d.qualifies g q (ceilDiv (8 * n) 19) && decide (n ≤ l.credit.getD (pktVc i.body) 0) with
  | none => if l.tx.isEmpty then d.sendFlit b 1 0 [] else d.flushFlit b
  | some q =>
    let x := d.port g
    let y := x.queue q
    match y.items with
    | [] => d
    | i :: r =>
      let n := i.body.length / 16
      let x := { x.setQueue q { y with items := r, at_ := d.now } with sending := some q, busyUntil := d.now + ceilDiv (8 * n) 19 }
      let d := ((d.setPort g x).setBlink b { l with tx := l.tx ++ i.body, credit := bump l.credit (pktVc i.body) (· - n) }).portSync g
      if (d.blink b).tx.length ≥ 304 then d.flushFlit b else d
def execBraidTxSelect (b : BraidPort) (s : State) : Host.Outcome State Fault Refusal := ran s (braidTxSelectEffect b)

end Sys2Proof.Machine
end

