-- ==== Sys2Proof/Machine/Cells.lean ====
section
/-! DEFINITION. Cells: the records of the CELLS section in force (R244, Tables 10.1 to 10.3, R266). -/
namespace Sys2Proof.Machine

/-- The counts of a CELLS section's header. -/
def nCells (s : Bytes) : Nat := leAt s 0 2
def nEaxc (s : Bytes) : Nat := leAt s 2 2
def nClass (s : Bytes) : Nat := leAt s 4 2
/-- The tile record, cell descriptor, eAxC entry and size-class record of an index. -/
def cellTile (s : Bytes) (t : Nat) : Bytes := bytesAt s (64 + 64 * t) 64
def cellDesc (s : Bytes) (i : Nat) : Bytes := bytesAt s (448 + 128 * i) 128
def eaxcEntry (s : Bytes) (i : Nat) : Bytes := bytesAt s (448 + 128 * nCells s + 16 * i) 16
def classRec (s : Bytes) (i : Nat) : Bytes := bytesAt s (448 + 128 * nCells s + 16 * nEaxc s + 64 * i) 64

/-- The descriptor of a cell of a tile. -/
def Dev.cell? (d : Dev) (t id : Nat) : Option Bytes :=
  let s := d.section_ secCells 0
  ((List.range (nCells s)).map (cellDesc s)).find? fun c => leAt c 0 2 == id && leAt c 2 1 == t
/-- The cells of a tile, in ascending CELL_ID order. -/
def Dev.cellsOf (d : Dev) (t : Nat) : List Bytes :=
  let s := d.section_ secCells 0
  let cs := ((List.range (nCells s)).map (cellDesc s)).filter fun c => leAt c 2 1 == t
  cs.foldl (fun l c => l.takeWhile (fun x => decide (leAt x 0 2 < leAt c 0 2)) ++ c :: l.dropWhile (fun x => decide (leAt x 0 2 < leAt c 0 2))) []
/-- Fields of a cell descriptor. -/
def cellId (c : Bytes) : Nat := leAt c 0 2
def cellMu (c : Bytes) : Nat := leAt c 3 1
def cellPrb (c : Bytes) : Nat := leAt c 4 2
/-- The slot duration in units of 0.2 ns. -/
def slotU (c : Bytes) : Nat := 5000000 / 2 ^ cellMu c
/-- Ticks per slot. -/
def Dev.slotTicks (d : Dev) (c : Bytes) : Nat := slotU c / d.tickU
/-- FIRST[k]; FIRST of n_t is 14 (Table 10.2). -/
def cellFirst (nt : Nat) (c : Bytes) (k : Nat) : Nat := if k ≥ nt then 14 else leAt c 16 8 / 16 ^ k % 16
/-- PRACH_CFG. -/
def cellPrach (c : Bytes) : Nat := leAt c 64 4

end Sys2Proof.Machine
end

