-- ==== Sys2Proof/Machine/RadioLand.lean ====
section
/-! DEFINITION. RadioLand: uplink frames as they land in the rings, and the presence that a snapshot records (R248 to R251). -/
namespace Sys2Proof.Machine

/-- A tile with no radio work. -/
def RadioState.init : RadioState := ⟨0#64, [], 0, [], [], [], [], (0, 0, 0, 0), false, [], [], []⟩
def Dev.rad (d : Dev) (t : Nat) : RadioState := look RadioState.init d.radio t
def Dev.setRad (d : Dev) (t : Nat) (x : RadioState) : Dev := { d with radio := store RadioState.init d.radio t x }
def Dev.modRad (d : Dev) (t : Nat) (f : RadioState → RadioState) : Dev := d.setRad t (f (d.rad t))

/-- The first tick of the slot that holds a tick, with n_t ticks a slot. -/
def slotStart (nt T : Nat) : Nat := T / nt * nt

/-- Fields of an eAxC entry (Table 10.3). -/
def eaxcId (e : Bytes) : Nat := leAt e 0 2
def eaxcCell (e : Bytes) : Nat := leAt e 2 2
def eaxcDir (e : Bytes) : Nat := leAt e 4 1
def eaxcPort (e : Bytes) : Nat := leAt e 6 1
/-- Bytes a PRB of the entry's compression (R245). -/
def eaxcPrbBytes (e : Bytes) : Nat :=
  let c := leAt e 7 1
  let w := if c / 16 == 0 then 16 else c / 16
  match c % 16 with | 0 => 48 | 1 => 3 * w + 1 | _ => 25
/-- The PRBs of an entry of a cell: N_PRB, or the PRACH allocation (R249). -/
def eaxcPrbs (e c : Bytes) : Nat := if eaxcDir e == 2 then Config.prachAlloc (cellPrach c) else cellPrb c

/-- Time in one cycle of the eight-bit frame number, and in one of the SFN, in units of 0.2 ns (R256, log entry 22). -/
def frameU : Nat := 50000000
/-- The instant nearest to now at which a slot of a cell with frame number f modulo m and slot number n begins. -/
def Dev.slotNear (d : Dev) (c : Bytes) (m f n : Nat) : Nat :=
  let cyc := m * frameU
  let x := (f + 1024 * m - leAt c 12 2) % m * frameU + n * slotU c
  let rel := (x + cyc - d.now % cyc) % cyc
  if rel < cyc / 2 then d.now + rel else d.now + rel - cyc

/-- The group of a symbol (R248). -/
def groupOfSym (nt : Nat) (c : Bytes) (j : Nat) : Option Nat :=
  (List.range nt).find? fun k => decide (cellFirst nt c k ≤ j) && decide (j < cellFirst nt c (k + 1))

/-- The tile of a fronthaul port's MAC group (Table 01.2). -/
def macTile (p : Nat) : Nat := if p < 8 then 1 else 4

/-- Discards of this tick: 0 late, 1 early, 2 unknown, 3 duplicate. -/
def addDisc (k : Nat) (x : Nat × Nat × Nat × Nat) : Nat × Nat × Nat × Nat :=
  let (a, b, c, e) := x
  match k with | 0 => (a + 1, b, c, e) | 1 => (a, b + 1, c, e) | 2 => (a, b, c + 1, e) | _ => (a, b, c, e + 1)
/-- A frame counts in one of the four counters. -/
def Dev.fhCount (d : Dev) (t k : Nat) : Dev :=
  let r := match k with | 0 => Reg.RADIO_FH_LATE t | 1 => Reg.RADIO_FH_EARLY t | 2 => Reg.RADIO_FH_UNKNOWN t | _ => Reg.RADIO_FH_DUP t
  (d.count r F.RADIO_FH_LATE_COUNT 1).modRad t fun x => { x with disc := addDisc k x.disc }

/-- The place of a PRB in its ring block: symbol i of the group, PRB p (R249). -/
def Dev.ringPlace (d : Dev) (t idx half : Nat) (e c : Bytes) (i p : Nat) : Nat :=
  let b := eaxcPrbBytes e
  let line := Config.ulRing (d.section_ secCells 0) t idx half + i * ceilDiv (eaxcPrbs e c * b) 64
  pantryAt t ((line * 64 + p * b) % 0x04000000)

/-- A U-plane frame of a known entry is written to its ring, or discarded under the first check that fails (R250, R251). -/
def Dev.uplaneLand (d : Dev) (idx : Nat) (e c : Bytes) (h : List Nat) (secs : List (Nat × Nat × Bytes)) : Dev :=
  let t := leAt c 2 1
  let nt := d.slotTicks c
  let T := d.tickNo
  let off := d.now % d.tickU / kcU
  let j := h.getD 5 0
  let S := d.slotNear c 256 (h.getD 2 0) (h.getD 3 0 * 2 ^ cellMu c + h.getD 4 0) / d.tickU
  match groupOfSym nt c j with
  | none => d.fhCount t 2
  | some k =>
    let G := S + k + 1
    let n := eaxcPrbs e c
    if G < T || (G == T && (d.tile t).snapTick == some T) then d.fhCount t 0
    else if G > T + 1 || (G == T + 1 && decide (off < leAt (cellTile (d.section_ secCells 0) t) 44 4)) then d.fhCount t 1
    else if secs.any fun s => decide (s.1 + s.2.1 > n) then d.fhCount t 2
    else
      let marks := secs.flatMap fun s => (List.range s.2.1).map fun i => (⟨idx, G, j, s.1 + i⟩ : PrbMark)
      let dup := marks.any fun m => (d.rad t).present.contains m
      let d := secs.foldl (fun (d : Dev) s =>
        d.write (d.ringPlace t idx (G % 2) e c (j - cellFirst nt c k) s.1) (bytesAt s.2.2 0 (s.2.1 * eaxcPrbBytes e))) d
      let d := d.modRad t fun x => { x with present := x.present ++ marks.filter fun m => !x.present.contains m }
      if dup then d.fhCount t 3 else d

/-- A frame of eCPRI type 0 arrives on a port. A frame of no known eAxC counts on the tile of the port's MAC group (log entry 22). -/
def Dev.uplaneIn (d : Dev) (p : Nat) (frame : Bytes) : Dev :=
  let s := d.section_ secCells 0
  let h := Config.uplaneHdr frame
  let dir := if h.getD 1 0 == 0 then 0 else 2
  match (List.range (nEaxc s)).find? fun i =>
      let e := eaxcEntry s i; eaxcPort e == p && eaxcId e == h.getD 0 0 && eaxcDir e == dir with
  | none => d.fhCount (macTile p) 2
  | some i =>
    let e := eaxcEntry s i
    match ((List.range (nCells s)).map (cellDesc s)).find? fun c => cellId c == eaxcCell e with
    | none => d.fhCount (macTile p) 2
    | some c => d.uplaneLand i e c h (Config.uplaneSections frame)

/-- The snapshot of tick T: PRBs of group tick T that have landed are recorded, absent ones counted, and the tick's discards
reported (R251, Table 10.14). -/
def Dev.fhSnapshot (d : Dev) (t T : Nat) : Dev :=
  let s := d.section_ secCells 0
  let x := d.rad t
  let due := (List.range (nEaxc s)).filterMap fun i =>
    let e := eaxcEntry s i
    if eaxcDir e == 1 then none else (d.cell? t (eaxcCell e)).map fun c => (i, e, c)
  let absent := (due.map fun q =>
    let nt := d.slotTicks q.2.2
    let k := (T - 1) % nt
    let lo := cellFirst nt q.2.2 k
    let all := (cellFirst nt q.2.2 (k + 1) - lo) * eaxcPrbs q.2.1 q.2.2
    all - (x.present.countP fun m => m.eaxc == q.1 && m.group == T)).sum
  let d := d.count (Reg.RADIO_PRB_ABSENT t) F.RADIO_PRB_ABSENT_COUNT absent
  let (a, b, c, e) := x.disc
  let sat := fun n => min n 0xFFFF
  let d := if a + b + c + e == 0 then d else d.raise 0x6003 0 (stewardOf t) t (sat a + sat b * 2 ^ 16 + sat c * 2 ^ 32 + sat e * 2 ^ 48)
  d.modRad t fun x => { x with snap := x.present.filter (·.group == T), present := x.present.filter fun m => decide (T < m.group), disc := (0, 0, 0, 0) }

end Sys2Proof.Machine
end

