-- ==== Sys2Proof/Machine/Eth.lean ====
section
/-! DEFINITION. Eth: the fronthaul ports: link state, ingress checks, egress and transmission selection (R334 to R341, R346). -/
namespace Sys2Proof.Machine

/-- Fields of a port's record. -/
def Dev.vlanTag (d : Dev) (p : EthPort) : Bool := d.getB (Reg.ETH_PORT_CFG p) F.ETH_PORT_CFG_VLAN_TAG
def Dev.ethLanes (d : Dev) (p : EthPort) : Nat := 2 ^ d.getF (Reg.ETH_PORT_CFG p) F.ETH_PORT_CFG_LANES
/-- The queue of a frame source (R339). -/
def Dev.sourceQ (d : Dev) (p : EthPort) (s : Nat) : Nat := leAt (d.portRec (.eth p)) (16 + s) 1 % 8

/-! ## Links (R337) -/

/-- ETH_LINK_DOWN: the whole port goes down. -/
def ethLinkDownEffect (p : EthPort) (los : Nat) (d : Dev) : Dev :=
  let r := Reg.ETH_PORT_STATUS p
  let m := los % 2 ^ d.ethLanes p
  if !d.portOn (.eth p) || m == 0 then d else
  let was := d.getB r F.ETH_PORT_STATUS_LINK
  let d := d.setFs r [(F.ETH_PORT_STATUS_LINK, 0), (F.ETH_PORT_STATUS_LOS, m)]
  if !was then d else
  (d.portCount (.eth p) (Reg.ETH_LINK_DOWN_COUNT p) F.ETH_LINK_DOWN_COUNT_COUNT 1).raise 0x9001 0xFF (gpUnit (.eth p)) p.val (m * 2 ^ 8)
def execEthLinkDown (p : EthPort) (los : BitVec 8) (s : State) : Host.Outcome State Fault Refusal := ran s (ethLinkDownEffect p los.toNat)

/-- ETH_LINK_UP: every lane aligned; the alignment depth is measured (R320). While the reference is lost no lane comes up (R317). -/
def ethLinkUpEffect (p : EthPort) (deskew : Nat) (d : Dev) : Dev :=
  let r := Reg.ETH_PORT_STATUS p
  if !d.portOn (.eth p) || d.getB r F.ETH_PORT_STATUS_LINK || d.time.refLost then d else
  let d := d.setFs r [(F.ETH_PORT_STATUS_LINK, 1), (F.ETH_PORT_STATUS_LOS, 0)]
  (d.setF (Reg.TIME_PORT p) F.TIME_PORT_DESKEW (if d.ethLanes p == 1 then 0 else deskew)).raise 0x9001 0xFF (gpUnit (.eth p)) p.val 1
def execEthLinkUp (p : EthPort) (deskew : BitVec 16) (s : State) : Host.Outcome State Fault Refusal := ran s (ethLinkUpEffect p deskew.toNat)

/-! ## Ingress (R338) -/

/-- The tags of a frame pass the port's rule. -/
def Dev.tagsOk (d : Dev) (p : EthPort) (tags : List Nat) : Bool :=
  match tags with
  | [] => true
  | [v] => d.vlanTag p && v == d.getF (Reg.ETH_PORT_CFG p) F.ETH_PORT_CFG_VID
  | _ => false
/-- Where a frame goes: 1 the landing rings, 2 the system steward with a PTP frame, 3 with an ESMC frame, 0 nowhere. -/
def frameClass (f : Bytes) : Nat :=
  let ty := Config.etherType f
  let sub := Config.etherSub f
  if ty == 0xAEFE && sub == 0 then 1 else if ty == 0x88F7 then 2 else if ty == 0x8809 && sub == 0x0A then 3 else 0

/-- ETH_FRAME_RECEIVE: checked in order, counted under the first check that fails. -/
def ethFrameReceiveEffect (p : EthPort) (f : Bytes) (fcsOk room : Bool) (d : Dev) : Dev :=
  let g := GatePort.eth p
  let bad := fun r => d.portCount g r F.ETH_RX_FCS_COUNT 1
  if !d.portOn g || !d.linkUp g then d
  else if !fcsOk then bad (Reg.ETH_RX_FCS p)
  else if f.length < 64 || decide (f.length > d.getF (Reg.ETH_PORT_CFG p) F.ETH_PORT_CFG_MTU) then bad (Reg.ETH_RX_LENGTH p)
  else if !d.tagsOk p (Config.etherTags f) || frameClass f == 0 || (d.recipe.ahead && frameClass f == 1) then bad (Reg.ETH_RX_OTHER p)
  else if !room then bad (Reg.ETH_RX_LANDING_DROP p)
  else
    let d := (d.portCount g (Reg.ETH_RX_FRAMES p) F.ETH_RX_FRAMES_COUNT 1).portCount g (Reg.ETH_RX_BYTES p) F.ETH_RX_BYTES_COUNT f.length
    match frameClass f with
    | 1 => d.uplaneIn p f
    | 3 => { d with time := { d.time with esmc := store (0, false) d.time.esmc p (d.now + 1, Config.esmcDnu f) } }
    | _ => d
def execEthFrameReceive (p : EthPort) (f : Bytes) (fcsOk room : Bool) (s : State) : Host.Outcome State Fault Refusal :=
  ran s (ethFrameReceiveEffect p f fcsOk room)

/-! ## Egress (R339 to R341, R346) -/

/-- A discard on the way out: its counter, and event 0x9004 at the port's first of a tick. `kind`: 0 queue full, 1 aged, 2 link down. -/
def Dev.ethDiscard (d : Dev) (p : EthPort) (kind q : Nat) : Dev :=
  let g := GatePort.eth p
  let r := match kind with | 0 => Reg.ETH_TX_QUEUE_DROP p | 1 => Reg.ETH_TX_AGED p | _ => Reg.ETH_TX_LINK_DOWN p
  let d := d.portCount g r F.ETH_TX_AGED_COUNT 1
  if (d.port g).discardTick == d.tickNo + 1 then d else
  (d.setPort g { d.port g with discardTick := d.tickNo + 1 }).raise 0x9004 0xFF (gpUnit g) p.val (2 ^ kind + 2 ^ q * 2 ^ 8)

/-- A frame source enqueues a frame. -/
def Dev.ethEnqueue (d : Dev) (p : EthPort) (src : Nat) (body : Bytes) (ptp : Option Nat) : Dev :=
  let g := GatePort.eth p
  if !d.portOn g then d else
  let q := d.sourceQ p src
  if ((d.port g).queue q).items.length ≥ 1024 then d.ethDiscard p 0 q
  else if !d.linkUp g then d.ethDiscard p 2 q
  else
    let d := d.portSync g
    let x := d.port g
    let y := x.queue q
    (d.setPort g (x.setQueue q { y with items := y.items ++ [⟨d.now, body, ptp⟩], at_ := d.now })).portSync g

/-- Heads that have waited longer than AGE_LIMIT are discarded; fuel is the length of the queue. -/
def Dev.dropAged (p : EthPort) (q : Nat) : Nat → Dev → Dev
  | 0, d => d
  | n + 1, d =>
    let g := GatePort.eth p
    let lim := d.getF (gpQueueCfg g q) F.ETH_QUEUE_CFG_AGE_LIMIT
    let x := d.port g
    let y := x.queue q
    match y.items with
    | [] => d
    | i :: r =>
      if lim == 0 || decide (d.now - i.since ≤ lim * 5) then d
      else Dev.dropAged p q n ((d.setPort g (x.setQueue q { y with items := r })).ethDiscard p 1 q)

/-- Bytes of a frame on the wire, its tag included. -/
def Dev.wireBytes (d : Dev) (p : EthPort) (f : Bytes) : Nat := f.length + if d.vlanTag p then 4 else 0
/-- A frame as it leaves: with the port's VID and its queue's PCP where VLAN_TAG = 1. -/
def Dev.tagged (d : Dev) (p : EthPort) (q : Nat) (f : Bytes) : Bytes :=
  if !d.vlanTag p then f else
  let tci := leAt (d.portRec (.eth p)) (8 + q) 1 % 8 * 2 ^ 13 + d.getF (Reg.ETH_PORT_CFG p) F.ETH_PORT_CFG_VID
  f.take 12 ++ [0x81#8, 0x00#8, BitVec.ofNat 8 (tci / 256), BitVec.ofNat 8 tci] ++ f.drop 12
/-- TX of Table 13.4 in ps, by rate code, and RX. -/
def phyTx (code : Nat) : Nat := [38400, 52608, 41216, 35840].getD code 0
def phyRx (code : Nat) : Nat := [71936, 119296, 96512, 88064].getD code 0

/-- Transmit the head of a queue. -/
def Dev.ethTransmit (d : Dev) (p : EthPort) (q : Nat) : Dev :=
  let g := GatePort.eth p
  let x := d.port g
  let y := x.queue q
  match y.items with
  | [] => d
  | i :: r =>
    let n := d.wireBytes p i.body
    let x := { x.setQueue q { y with items := r, at_ := d.now } with sending := some q, busyUntil := d.now + ceilDiv ((n + 20) * 40) (d.portRate g) }
    let d := ((d.setPort g x).portCount g (Reg.ETH_TX_FRAMES p) F.ETH_TX_FRAMES_COUNT 1).portCount g (Reg.ETH_TX_BYTES p) F.ETH_TX_BYTES_COUNT n
    let d := d.send (.ethFrame p q (d.tagged p q i.body))
    let d := match i.ptp with
      | some k => d.send (.ptp p k (d.now * 200 + phyTx (d.getF (Reg.ETH_PORT_CFG p) F.ETH_PORT_CFG_RATE)))
      | none => d
    d.portSync g

/-- A queue qualifies for transmission (R341). -/
def Dev.ethReady (d : Dev) (p : EthPort) (q : Nat) : Bool :=
  match ((d.port (.eth p)).queue q).items with
  | [] => false
  | i :: _ => d.qualifies (.eth p) q (ceilDiv ((d.wireBytes p i.body + 20) * 40) (d.portRate (.eth p)))
/-- Device time moves to the port's next frame boundary, and aged heads are discarded. -/
def Dev.ethBoundary (d : Dev) (p : EthPort) : Dev :=
  (List.range 8).foldl (fun (d : Dev) q => Dev.dropAged p q ((d.port (.eth p)).queue q).items.length d) ((d.advanceTo (d.port (.eth p)).busyUntil).portSync (.eth p))
/-- ETH_TX_SELECT: at the port's next frame boundary the highest queue that qualifies transmits. -/
def ethTxSelectEffect (p : EthPort) (d : Dev) : Dev :=
  if !d.portOn (.eth p) || !d.linkUp (.eth p) then d else
  let d := d.ethBoundary p
  match [7, 6, 5, 4, 3, 2, 1, 0].find? (d.ethReady p) with
  | some q => d.ethTransmit p q
  | none => d.portSync (.eth p)
def execEthTxSelect (p : EthPort) (s : State) : Host.Outcome State Fault Refusal := ran s (ethTxSelectEffect p)

end Sys2Proof.Machine
end

