-- ==== Sys2Proof/Machine/Time.lean ====
section
/-! DEFINITION. Time: device time, its sources, the servo, steps, PTP messages, pulse outputs and capture inputs (chapter 13). -/
namespace Sys2Proof.Machine

def Dev.modTime (d : Dev) (f : TimeState → TimeState) : Dev := { d with time := f d.time }
/-- The time base as a unit: 0 the clock, 1 to 4 pulse outputs, 5 to 8 capture inputs (R333). -/
def timeUnit (i : Nat) : BitVec 16 := unitId 7 0x1B i
/-- Fields of the TIME record in force (Table 13.6). -/
def Dev.timeF (d : Dev) (o n : Nat) : Nat := leAt (d.section_ secTime 0) o n
def Dev.timeRole (d : Dev) : Nat := d.timeF 1 1
/-- The mode of a PTP port. -/
def Dev.ptpMode (d : Dev) (p : Nat) : Nat := d.timeF (64 + 8 * p) 1
/-- A recipe is active. -/
def Dev.active (d : Dev) : Bool := d.getB Reg.RECIPE_STATUS F.RECIPE_STATUS_ACTIVE
/-- A signed number as n bits. -/
def twos (n : Nat) (x : Int) : Nat := (x % (2 ^ n : Int)).toNat
/-- Bits as a signed number of n bits. -/
def ofTwos (n v : Nat) : Int := if v < 2 ^ (n - 1) then v else (v : Int) - 2 ^ n
/-- Rounding to the nearest whole number, halves away from zero. -/
def nearest (a : Int) (b : Nat) : Int := if a < 0 then -((2 * a.natAbs + b) / (2 * b) : Nat) else ((2 * a.natAbs + b) / (2 * b) : Nat)

/-! ## Reading the counter (R313) -/

/-- FRAC: five values, 0.2 ns apart (R312). -/
def Dev.frac (d : Dev) : Nat := d.now % 5 * 65536 / 5
/-- TIME_NOW_SEC_READ: the read latches NS and FRAC. -/
def timeNowSecReadEffect (m : Master) (d : Dev) : Dev :=
  if !devMaster m then { d with readOut := 0#64 } else
  let d := d.setFs Reg.TIME_NOW_NS [(F.TIME_NOW_NS_NS, d.ns), (F.TIME_NOW_NS_FRAC, d.frac)]
  { d.modTime fun x => { x with latched := true } with readOut := BitVec.ofNat 64 (d.sec % 2 ^ 48) }
def execTimeNowSecRead (m : Master) (s : State) : Host.Outcome State Fault Refusal := ranRead m s (timeNowSecReadEffect m)

/-! ## Clock states (R316) -/

def Dev.clock (d : Dev) : Nat := d.getF Reg.TIME_STATUS F.TIME_STATUS_STATE
/-- The class advertised in a state (Table 13.1). -/
def Dev.classOf (d : Dev) (st : Nat) : Nat :=
  match st with
  | 2 => if d.timeRole == 2 then d.timeF 3 1 else d.time.parentClass
  | 3 => 135
  | 4 => 165
  | _ => 248
/-- A change of state: event 0x8001. -/
def Dev.setClock (d : Dev) (st : Nat) : Dev :=
  let old := d.clock
  if old == st then d else
  let c := d.classOf st
  let d := d.setFs Reg.TIME_STATUS [(F.TIME_STATUS_STATE, st), (F.TIME_STATUS_CLOCK_CLASS, c)]
  d.raise 0x8001 0xFF (timeUnit 0) st (old + c % 256 * 2 ^ 8 + d.getF Reg.TIME_OFFSET F.TIME_OFFSET_OFFSET * 2 ^ 16)

/-- FREQ_MAX in units of 2^-16 ppb. -/
def Dev.fmax (d : Dev) : Int := (d.timeF 8 4 : Int) * 65536
def clampTo (m x : Int) : Int := max (-m) (min m x)
/-- The adjustment shown. -/
def Dev.setAdj (d : Dev) (a : Int) : Dev := d.setF Reg.TIME_FREQ_ADJ F.TIME_FREQ_ADJ_ADJ (twos 40 a)

/-- HOLDOVER is entered: adj becomes the mean of its values over the last HOLD_AVG seconds (R324), entries are counted. -/
def Dev.enterHoldover (d : Dev) : Dev :=
  if d.clock != 1 && d.clock != 2 then d.modTime fun x => { x with count := 0, small := 0 } else
  let from_ := d.now - d.timeF 20 2 * 5000000000
  let v := (d.time.hist.filter fun h => decide (h.1 ≥ from_)).map (·.2)
  let d := if v.isEmpty then d else d.setAdj (v.sum / v.length)
  let d := d.modTime fun x => { x with count := 0, small := 0, holdSince := d.now, hist := [] }
  (d.count Reg.TIME_HOLDOVER_COUNT F.TIME_HOLDOVER_COUNT_COUNT 1).setClock 3

/-- HOLDOVER_EXPIRY: HOLDOVER has lasted HOLDOVER_MAX seconds; device time moves to that instant. -/
def holdoverExpiryEffect (d : Dev) : Dev :=
  if d.clock != 3 then d else (d.advanceTo (d.time.holdSince + d.timeF 16 4 * 5000000000)).setClock 4
def execHoldoverExpiry (s : State) : Host.Outcome State Fault Refusal := ran s holdoverExpiryEffect

/-! ## Measurements (R314, R320 to R323) -/

/-- PPS_IN_EDGE: the edge's device time against its second, TIME_TOD or the previous edge's plus 1, in ps. -/
def ppsInEdgeEffect (sub : Nat) (d : Dev) : Dev :=
  let sec := if d.time.todSet then d.getF Reg.TIME_TOD F.TIME_TOD_SEC else d.time.ppsSec + 1
  let at_ : Int := d.now * 200 + sub * 50
  d.modTime fun x => { x with todSet := false, ppsSec := sec, pps := some (at_ - (sec : Int) * 1000000000000) }
def execPpsInEdge (sub : Fin 16) (s : State) : Host.Outcome State Fault Refusal := ran s (ppsInEdgeEffect sub)

/-- Device time is set; the tick edges passed over do not occur. -/
def Dev.jumpTo (d : Dev) (u : Nat) : Dev := { d with now := u / kcU * kcU }

/-- The servo takes a measurement while it steers: theta in ps, `rate` measurements a second. -/
def Dev.steer (d : Dev) (theta : Int) (rate : Nat) : Dev :=
  let m := d.fmax
  let i := clampTo m (d.time.integ + Config.servoKi (d.timeF 4 1) rate theta)
  let a := clampTo m (-(Config.servoKp (d.timeF 4 1) theta) - i)
  (d.setAdj a).modTime fun x => { x with integ := i, hist := (x.hist.filter fun h => decide (h.1 + 3600 * 5000000000 ≥ d.now)) ++ [(d.now, a)] }

/-- A measurement: shown, stepped or steered, and the state changes it drives (R316, R322, R323). -/
def Dev.measured (d : Dev) (theta path : Int) (rate : Nat) : Dev :=
  let ns := max (-(2 ^ 31 : Int)) (min (2 ^ 31 - 1) (nearest theta 1000))
  let d := d.setFs Reg.TIME_OFFSET [(F.TIME_OFFSET_OFFSET, twos 32 ns), (F.TIME_OFFSET_PATH, twos 32 (nearest path 1000))]
  let small := theta.natAbs ≤ 100000
  let d := d.modTime fun x => { x with count := min 16 (x.count + 1), small := if small then min 16 (x.small + 1) else 0 }
  let big := theta.natAbs > d.timeF 12 4 * 1000
  let st := d.clock
  if big && !d.active then
    let k := nearest (-theta) 800
    let d := d.jumpTo ((d.now : Int) + k * kcU).toNat
    let d := (d.modTime fun x => { x with integ := 0 }).raise 0x8004 0xFF (timeUnit 0) 0 (twos 64 (nearest (k * 800) 1000))
    if (st == 0 || st == 3 || st == 4) && d.time.count == 16 then d.setClock 1 else d
  else
    let d := if big && !d.time.withheld then d.raise 0x8005 0xFF (timeUnit 0) 0 (twos 64 (nearest theta 1000)) else d
    let d := d.modTime fun x => { x with withheld := big }
    match st with
    | 1 => let d := d.steer theta rate; if d.time.small == 16 then d.setClock 2 else d
    | 2 => let d := d.steer theta rate; if theta.natAbs > 1000000 then d.setClock 1 else d
    | _ => if d.time.count == 16 then (d.setClock 1).steer theta rate else d

/-- The MDI time-stamp and offset arithmetic of a PTP measurement (R320, R321), in ps. -/
def Dev.ptpOffset (d : Dev) (p : EthPort) (t1 t2 t3 t4 : Int) : Int × Int :=
  let code := d.getF (Reg.ETH_PORT_CFG p) F.ETH_PORT_CFG_RATE
  let r := Reg.TIME_PORT p
  let t2 := t2 - phyRx code - d.getF r F.TIME_PORT_DESKEW
  let t3 := t3 + phyTx code
  (((t2 - t1) - (t4 - t3)) / 2 - ofTwos 32 (d.getF r F.TIME_PORT_ASYM), ((t2 - t1) + (t4 - t3)) / 2)

/-- SERVO_UPDATE: a measurement of the phase source. A parent other than the last one enters HOLDOVER first (R316). -/
def servoUpdateEffect (x : Meas) (d : Dev) : Dev :=
  match x with
  | .pps =>
    match d.time.pps with
    | none => d
    | some th =>
      if d.timeRole != 2 then d else
      ((d.modTime fun y => { y with pps := none }).setF Reg.TIME_STATUS F.TIME_STATUS_PHASE_SRC 2).measured th 0 1
  | .ptp p parent cls utc t1 t2 t3 t4 =>
    if d.timeRole == 2 || d.ptpMode p != 1 then d else
    let had := d.getF Reg.TIME_STATUS F.TIME_STATUS_PHASE_SRC
    let other := had == 1 && (parent != d.time.parent || d.getF Reg.TIME_STATUS F.TIME_STATUS_PTP_PORT != p.val)
    let show_ := fun (d : Dev) => (d.modTime fun y => { y with parent := parent, parentClass := cls.toNat }).setFs Reg.TIME_STATUS
      [(F.TIME_STATUS_PHASE_SRC, 1), (F.TIME_STATUS_PTP_PORT, p.val), (F.TIME_STATUS_UTC_OFFSET, utc.toNat)]
    let d := if other then
        let was := d.clock
        let d := show_ d.enterHoldover
        if was == 1 || was == 2 then d.raise 0x8003 0xFF (timeUnit 0) p.val parent.toNat else d
      else show_ d
    let d := if d.clock == 2 then d.setF Reg.TIME_STATUS F.TIME_STATUS_CLOCK_CLASS (d.classOf 2) else d
    let (th, path) := d.ptpOffset p t1 t2 t3 t4
    d.measured th path 16
def execServoUpdate (x : Meas) (s : State) : Host.Outcome State Fault Refusal := ran s (servoUpdateEffect x)

/-- The phase source is lost (R316). -/
def Dev.losePhase (d : Dev) : Dev :=
  (d.enterHoldover.setF Reg.TIME_STATUS F.TIME_STATUS_PHASE_SRC 0).modTime fun x => { x with count := 0, small := 0 }

/-! ## Frequency sources (R315) -/

/-- The port that a lane belongs to. -/
def Dev.laneUp (d : Dev) (lane : Nat) : Bool :=
  (List.finRange 16).any fun p => d.portOn (.eth p) && decide (p.val ≤ lane) && decide (lane < p.val + d.ethLanes p) && d.linkUp (.eth p)
/-- A SyncE lane is usable: link up, quality level not DNU, an ESMC message within 5 s. -/
def Dev.syncEOk (d : Dev) (lane : Nat) : Bool :=
  (List.range 16).any fun p => decide (p ≤ lane) && d.laneUp lane &&
    (match lookup? d.time.esmc p with
     | some (u, dnu) => !dnu && decide (d.now < u + 25000000000) && (if h : p < 16 then decide (lane < p + d.ethLanes ⟨p, h⟩) else false)
     | none => false)
/-- The first usable entry of the list: FREQ_SRC and lane. -/
def Dev.freqChoice (d : Dev) : Nat × Nat :=
  ((List.range 4).findSome? fun i =>
    match d.timeF (32 + 2 * i) 1 % 16 with
    | 1 => let l := d.timeF (33 + 2 * i) 1; if d.syncEOk l then some (1, l) else none
    | 2 => if d.time.ten then some (2, 0) else none
    | _ => none).getD (0, 0)
/-- The list is evaluated; a change raises event 0x8002. -/
def Dev.freqEvaluate (d : Dev) : Dev :=
  let old := d.getF Reg.TIME_STATUS F.TIME_STATUS_FREQ_SRC
  let lane := d.getF Reg.TIME_STATUS F.TIME_STATUS_SYNCE_LANE
  let (n, l) := d.freqChoice
  if n == old && l == lane then d else
  (d.setFs Reg.TIME_STATUS [(F.TIME_STATUS_FREQ_SRC, n), (F.TIME_STATUS_SYNCE_LANE, l)]).raise 0x8002 0xFF (timeUnit 0) n (l + old * 2 ^ 8)
/-- FREQ_SOURCE_EVALUATION: the command says whether the 10 MHz input is present. -/
def freqSourceEvaluationEffect (ten : Bool) (d : Dev) : Dev := (d.modTime fun x => { x with ten := ten }).freqEvaluate
def execFreqSourceEvaluation (ten : Bool) (s : State) : Host.Outcome State Fault Refusal := ran s (freqSourceEvaluationEffect ten)

/-! ## Messages and steps (R318, R325) -/

/-- PTP_MESSAGE_SEND: Announce and Sync on a master port, Delay_Req on the slave port; sources 2 and 3 of R339. -/
def ptpMessageSendEffect (p : EthPort) (k : PtpKind) (d : Dev) : Dev :=
  let slave := d.getF Reg.TIME_STATUS F.TIME_STATUS_PHASE_SRC == 1 && d.getF Reg.TIME_STATUS F.TIME_STATUS_PTP_PORT == p.val
  let (ok, n, src) := match k with
    | .announce => (!slave && decide (d.timeRole ≥ 1), 0, 3)
    | .sync => (!slave && decide (d.timeRole ≥ 1), 1, 2)
    | .delayReq => (slave, 2, 2)
  if d.ptpMode p == 0 || !ok then d else
  let (w, d) := d.fresh
  d.ethEnqueue p src (Config.ptpFrame p n w.toNat) (some n)
def execPtpMessageSend (p : EthPort) (k : PtpKind) (s : State) : Host.Outcome State Fault Refusal := ran s (ptpMessageSendEffect p k)

/-- TIME_STEP_CMD: the host driver sets device time while no recipe is active, rounded down to a cycle; otherwise event 0x8005. -/
def timeStepCmdEffect (m : Master) (v : Word) (d : Dev) : Dev :=
  if m != hostDriver || fieldOf F.TIME_CMD_STEP v != 1 then d
  else if d.active then
    let want : Int := ((d.getF Reg.TIME_SET_SEC F.TIME_SET_SEC_SEC * 1000000000 + d.getF Reg.TIME_SET_NS F.TIME_SET_NS_NS) * 5 : Nat)
    d.raise 0x8005 0xFF (timeUnit 0) 1 (twos 64 (nearest ((d.now : Int) - want) 5))
  else d.jumpTo ((d.getF Reg.TIME_SET_SEC F.TIME_SET_SEC_SEC * 1000000000 + d.getF Reg.TIME_SET_NS F.TIME_SET_NS_NS) * 5)
def execTimeStepCmd (m : Master) (v : Word) (s : State) : Host.Outcome State Fault Refusal := ranFrom m s (timeStepCmdEffect m v)

/-! ## Pulse outputs (R328) -/

def PulseState.init : PulseState := ⟨none, false, 0, 0, false⟩
def Dev.pulseSt (d : Dev) (k : Nat) : PulseState := look PulseState.init d.time.pulses k
def Dev.setPulse (d : Dev) (k : Nat) (x : PulseState) : Dev := d.modTime fun y => { y with pulses := store PulseState.init y.pulses k x }

/-- The settings of an output take effect. -/
def Dev.startPulse (d : Dev) (k : Nat) : Dev :=
  let sec := d.getF (Reg.TIME_PULSE_START_SEC k) F.TIME_PULSE_START_SEC_SEC
  let ns := d.getF (Reg.TIME_PULSE_START_NS k) F.TIME_PULSE_START_NS_NS
  let r := Reg.TIME_PULSE_SHAPE k
  let per := d.getF r F.TIME_PULSE_SHAPE_PERIOD * 5
  let u := (sec * 1000000000 + ns) * 5
  let wide := d.getF r F.TIME_PULSE_SHAPE_WIDTH * 5
  let lim := d.now + 5000
  if u > lim then d.setPulse k ⟨some u, false, per, wide, false⟩
  else if per == 0 then (d.setPulse k PulseState.init).raise 0x8007 0xFF (timeUnit (1 + k)) k (sec % 2 ^ 16 + ns * 2 ^ 16)
  else d.setPulse k ⟨some (u + ((lim - u) / per + 1) * per), false, per, wide, false⟩

/-- PULSE_CTRL_WRITE: EN = 1 starts, EN = 0 ends after the pulse in progress. -/
def pulseCtrlWriteEffect (m : Master) (k : Nat) (v : Word) (d : Dev) : Dev :=
  if !devMaster m then d else
  let d := d.rwWrite (Reg.TIME_PULSE_CTRL k) v
  if d.getB (Reg.TIME_PULSE_CTRL k) F.TIME_PULSE_CTRL_EN then d.startPulse k
  else
    let x := d.pulseSt k
    d.setPulse k (if x.high then { x with ending := true } else PulseState.init)
def execPulseCtrlWrite (m : Master) (k : Fin 4) (v : Word) (s : State) : Host.Outcome State Fault Refusal := ranFrom m s (pulseCtrlWriteEffect m k v)

/-- PULSE_EDGE: the output's next edge, at its programmed instant. -/
def pulseEdgeEffect (k : Nat) (d : Dev) : Dev :=
  let x := d.pulseSt k
  match x.next with
  | none => d
  | some u =>
    let d := if u < d.now then d else d.advance ((u - d.now) / kcU)
    let pol := d.getB (Reg.TIME_PULSE_CTRL k) F.TIME_PULSE_CTRL_POL
    let d := d.send (.pulse k (!x.high != pol) u)
    if !x.high then d.setPulse k { x with next := some (u + x.width), high := true }
    else if x.period == 0 || x.ending then d.setPulse k PulseState.init
    else d.setPulse k { x with next := some (u - x.width + x.period), high := false }
def execPulseEdge (k : Fin 4) (s : State) : Host.Outcome State Fault Refusal := ran s (pulseEdgeEffect k)

/-! ## Capture inputs (R329) -/

def CaptState.init : CaptState := ⟨[], none, false⟩
def Dev.captSt (d : Dev) (k : Nat) : CaptState := look CaptState.init d.time.capts k
/-- The inputs and LEVEL. -/
def Dev.setCapt (d : Dev) (k : Nat) (x : CaptState) : Dev :=
  (d.modTime fun y => { y with capts := store CaptState.init y.capts k x }).setF (Reg.TIME_CAPT_CTRL k) F.TIME_CAPT_CTRL_LEVEL x.fifo.length

/-- CAPTURE_EDGE: time-stamped to 0.05 ns, or discarded. -/
def captureEdgeEffect (k : Nat) (rising : Bool) (sub : Nat) (d : Dev) : Dev :=
  let r := Reg.TIME_CAPT_CTRL k
  let sel := d.getF r F.TIME_CAPT_CTRL_EDGE
  if !d.getB r F.TIME_CAPT_CTRL_EN || sel / (if rising then 1 else 2) % 2 == 0 then d else
  let x := d.captSt k
  let at_ := d.now * 4 + sub
  let near := match x.last with | some u => decide (at_ < u + 80) | none => false
  if near || x.fifo.length ≥ 16 then
    let d := d.count (Reg.TIME_CAPT_DISCARD k) F.TIME_CAPT_DISCARD_COUNT 1
    if x.told then d else
    (d.setCapt k { x with told := true }).raise 0x8008 0xFF (timeUnit (5 + k)) k (d.getF (Reg.TIME_CAPT_DISCARD k) F.TIME_CAPT_DISCARD_COUNT)
  else d.setCapt k { x with fifo := x.fifo ++ [at_], last := some at_ }
def execCaptureEdge (k : Fin 4) (rising : Bool) (sub : Fin 16) (s : State) : Host.Outcome State Fault Refusal := ran s (captureEdgeEffect k rising sub)

/-- CAPTURE_POP: a read of TIME_CAPT_SEC pops the oldest entry and latches its NS and FRAC; 0 when the FIFO is empty. -/
def capturePopEffect (m : Master) (k : Nat) (d : Dev) : Dev :=
  if !devMaster m then { d with readOut := 0#64 } else
  let x := d.captSt k
  match x.fifo with
  | [] => { d with readOut := 0#64 }
  | u :: r =>
    let ns := u / 20
    let d := d.setCapt k { x with fifo := r, told := false }
    let d := d.setFs (Reg.TIME_CAPT_NS k) [(F.TIME_CAPT_NS_NS, ns % 1000000000), (F.TIME_CAPT_NS_FRAC, u % 20 * 65536 / 20)]
    { d with readOut := BitVec.ofNat 64 (ns / 1000000000 % 2 ^ 48 + 2 ^ 48) }
def execCapturePop (m : Master) (k : Fin 4) (s : State) : Host.Outcome State Fault Refusal := ranRead m s (capturePopEffect m k)

/-- The pulse and capture settings, and the ports' asymmetries, of a TIME record are loaded (R330). -/
def Dev.loadTime (d : Dev) (s : Bytes) : Dev :=
  let d := (List.range 16).foldl (fun (d : Dev) p => d.setF (Reg.TIME_PORT p) F.TIME_PORT_ASYM (leAt s (68 + 8 * p) 4)) d
  let d := (List.range 4).foldl (fun (d : Dev) k =>
    let o := 192 + 32 * k
    let d := d.setFs (Reg.TIME_PULSE_CTRL k) [(F.TIME_PULSE_CTRL_EN, leAt s o 1), (F.TIME_PULSE_CTRL_POL, leAt s (o + 1) 1)]
    let d := d.setF (Reg.TIME_PULSE_START_SEC k) F.TIME_PULSE_START_SEC_SEC (leAt s (o + 8) 8)
    let d := d.setF (Reg.TIME_PULSE_START_NS k) F.TIME_PULSE_START_NS_NS (leAt s (o + 16) 4)
    let d := d.setFs (Reg.TIME_PULSE_SHAPE k) [(F.TIME_PULSE_SHAPE_PERIOD, leAt s (o + 20) 4), (F.TIME_PULSE_SHAPE_WIDTH, leAt s (o + 24) 4)]
    if leAt s o 1 == 1 then d.startPulse k else d) d
  (List.range 4).foldl (fun (d : Dev) k =>
    d.setFs (Reg.TIME_CAPT_CTRL k) [(F.TIME_CAPT_CTRL_EN, leAt s (320 + 8 * k) 1), (F.TIME_CAPT_CTRL_EDGE, leAt s (321 + 8 * k) 1)]) d

end Sys2Proof.Machine
end

