-- ==== Sys2Proof/Machine/Clock.lean ====
section
/-! DEFINITION. Clock: the loss of a time source and the return of the reference (R317). -/
namespace Sys2Proof.Machine

/-- A source meets its loss condition (Table 13.2): event 0x8006. -/
def Dev.lostSource (d : Dev) (obj idx : Nat) : Dev := d.raise 0x8006 0xFF (timeUnit 0) obj idx

/-- The lanes of every fronthaul and Braid port lose their links. -/
def Dev.dropLinks (d : Dev) : Dev :=
  let d := (List.finRange 16).foldl (fun (d : Dev) p => ethLinkDownEffect p 255 d) d
  ((List.finRange 8).filter fun b => d.portOn (.braid b)).foldl (fun (d : Dev) b => d.braidDown b 15) d

/-- SOURCE_LOSS. -/
def sourceLossEffect (x : TimeSource) (d : Dev) : Dev :=
  let src := d.getF Reg.TIME_STATUS F.TIME_STATUS_PHASE_SRC
  match x with
  | .ptp p => if src == 1 && d.getF Reg.TIME_STATUS F.TIME_STATUS_PTP_PORT == p.val then (d.lostSource 0 p).losePhase else d
  | .pps => if src == 2 then (d.lostSource 1 0).losePhase else d
  | .syncE lane =>
    let ps := (List.finRange 16).filter fun p => decide (p.val ≤ lane.val) && decide (lane.val < p.val + d.ethLanes p)
    let d := d.modTime fun y => { y with esmc := y.esmc.filter fun e => !(ps.any fun p => p.val == e.1) }
    (d.lostSource 2 lane).freqEvaluate
  | .tenMHz => ((d.modTime fun y => { y with ten := false }).lostSource 3 0).freqEvaluate
  | .reference =>
    if d.time.refLost then d else
    ((d.lostSource 4 0).enterHoldover.modTime fun y => { y with refLost := true }).dropLinks
def execSourceLoss (x : TimeSource) (s : State) : Host.Outcome State Fault Refusal := ran s (sourceLossEffect x)

/-- REFERENCE_CLOCK_RETURN: the PLL follows the reference again; links may train. -/
def referenceClockReturnEffect (d : Dev) : Dev := d.modTime fun x => { x with refLost := false }
def execReferenceClockReturn (s : State) : Host.Outcome State Fault Refusal := ran s referenceClockReturnEffect

end Sys2Proof.Machine
end

