-- ==== Sys2Proof/Machine/Float.lean ====
section
/-! DEFINITION. Float: the number formats and arithmetic rules of chapter 04, on exact dyadic values.
A code is a natural number of the format's width; its value is a `Val`; every rounding goes through `roundAt`. -/
namespace Sys2Proof.Machine

/-- The value a floating-point code stands for (R87, R88, R90). `fin neg m e` is (−1)^neg × m × 2^e. -/
inductive Val where
  | nan
  | inf (neg : Bool)
  | fin (neg : Bool) (m : Nat) (e : Int)
  deriving DecidableEq, Repr

/-- The value is NaN or an infinity (R108). -/
def Val.nonFinite : Val → Bool
  | .nan => true
  | .inf _ => true
  | .fin _ _ _ => false

def Val.isNaN : Val → Bool
  | .nan => true
  | _ => false

def Val.isZero : Val → Bool
  | .fin _ m _ => m == 0
  | _ => false

def Val.neg : Val → Val
  | .nan => .nan
  | .inf s => .inf (!s)
  | .fin s m e => .fin (!s) m e

/-- An IEEE-style format: exponent bits, fraction bits, bias. -/
structure FFmt where
  eb : Nat
  fb : Nat
  bias : Nat
  deriving DecidableEq, Repr

/-- binary32 (R88). -/
abbrev b32 : FFmt := ⟨8, 23, 127⟩
/-- E8M7 (R87). -/
abbrev e8m7 : FFmt := ⟨8, 7, 127⟩
/-- binary16 (R88). -/
abbrev b16 : FFmt := ⟨5, 10, 15⟩

/-- The exponent of the smallest subnormal of a format. -/
def FFmt.qmin (f : FFmt) : Int := 1 - (f.bias : Int) - (f.fb : Int)
/-- The canonical NaN of a format (R89): positive, quiet, no further payload. -/
def FFmt.nan (f : FFmt) : Nat := (2 ^ f.eb - 1) * 2 ^ f.fb + 2 ^ (f.fb - 1)
/-- The sign bit of a format as a number. -/
def FFmt.signBit (f : FFmt) : Nat := 2 ^ (f.eb + f.fb)
/-- The code of an infinity. -/
def FFmt.infCode (f : FFmt) (neg : Bool) : Nat :=
  (2 ^ f.eb - 1) * 2 ^ f.fb + if neg then f.signBit else 0

/-- The value of a code of an IEEE-style format. -/
def FFmt.decode (f : FFmt) (c : Nat) : Val :=
  let neg := c / f.signBit % 2 == 1
  let ex := c / 2 ^ f.fb % 2 ^ f.eb
  let fr := c % 2 ^ f.fb
  if ex == 2 ^ f.eb - 1 then (if fr == 0 then .inf neg else .nan)
  else if ex == 0 then .fin neg fr f.qmin
  else .fin neg (2 ^ f.fb + fr) (f.qmin + (ex : Int) - 1)

/-- m / 2^k to the nearest integer, ties to even. -/
def rneShift (m k : Nat) : Nat :=
  let q := m / 2 ^ k
  let r := m % 2 ^ k
  if 2 * r > 2 ^ k || (2 * r == 2 ^ k && q % 2 == 1) then q + 1 else q

/-- How a conversion rounds: to nearest even (R96), or stochastically with a 16-bit r (R97). -/
inductive Rounding where
  | rne
  | stochastic (r : Nat)
  deriving DecidableEq, Repr

/-- m × 2^e in units of 2^q, rounded (R96, R97). -/
def roundAt (rd : Rounding) (m : Nat) (e q : Int) : Nat :=
  match rd with
  | .rne => if q ≤ e then m * 2 ^ (e - q).toNat else rneShift m (q - e).toNat
  | .stochastic r =>
    let fine := q - 16
    let t := if fine ≤ e then m * 2 ^ (e - fine).toNat else m / 2 ^ (fine - e).toNat
    (t + r) / 65536

/-- The unit a nonzero magnitude m × 2^e is rounded to: fb fraction bits below its leading one, never finer than qmin. -/
def roundUnit (fb : Nat) (qmin : Int) (m : Nat) (e : Int) : Int :=
  max ((Nat.log2 m : Int) + e - (fb : Int)) qmin

/-- The code of a value in an IEEE-style format (R89, R96, R97). The flag says that a finite value overflowed. -/
def FFmt.encode (f : FFmt) (rd : Rounding) : Val → Nat × Bool
  | .nan => (f.nan, false)
  | .inf neg => (f.infCode neg, false)
  | .fin neg m e =>
    let sg := if neg then f.signBit else 0
    if m == 0 then (sg, false) else
    let q := roundUnit f.fb f.qmin m e
    let n := roundAt rd m e q
    let qf := (q - f.qmin).toNat
    -- n counts units of 2^q: below 2^fb it is subnormal, otherwise its leading one is the implied bit
    let c := if n < 2 ^ f.fb then n else qf * 2 ^ f.fb + n
    if c ≥ (2 ^ f.eb - 1) * 2 ^ f.fb then (f.infCode neg, true) else (c + sg, false)

/-- A store writes −0 as +0 (R106). -/
def FFmt.storeCode (f : FFmt) (c : Nat) : Nat := if c == f.signBit then 0 else c

/-- An MX element format (Table 04.3); the IEEE-like ones keep their value layout, `special` says which have NaN or infinity. -/
inductive MxElem where
  | e4m3 | e5m2 | e3m2 | e2m3 | e2m1 | int8
  deriving DecidableEq, Repr

/-- Bits of one element code. -/
def MxElem.bits : MxElem → Nat
  | .e4m3 => 8 | .e5m2 => 8 | .e3m2 => 6 | .e2m3 => 6 | .e2m1 => 4 | .int8 => 8
/-- emax of Table 04.3. -/
def MxElem.emax : MxElem → Int
  | .e4m3 => 8 | .e5m2 => 15 | .e3m2 => 4 | .e2m3 => 2 | .e2m1 => 2 | .int8 => 0
/-- The layout of a floating MX element. MXINT8 has none of its own; its row is not used. -/
def MxElem.fmt : MxElem → FFmt
  | .e4m3 => ⟨4, 3, 7⟩ | .e5m2 => ⟨5, 2, 15⟩ | .e3m2 => ⟨3, 2, 3⟩ | .e2m3 => ⟨2, 3, 1⟩ | .e2m1 => ⟨2, 1, 1⟩ | .int8 => ⟨1, 6, 0⟩
/-- The code of the largest finite magnitude (Table 04.3). -/
def MxElem.maxCode : MxElem → Nat
  | .e4m3 => 0x7E | .e5m2 => 0x7B | .e3m2 => 0x1F | .e2m3 => 0x1F | .e2m1 => 0x7 | .int8 => 127

/-- The value of an element code, its block scale apart (R90, Table 04.3). -/
def MxElem.decode (x : MxElem) (c : Nat) : Val :=
  match x with
  | .int8 => if c ≥ 128 then .fin true (256 - c) (-6) else .fin false c (-6)
  | .e5m2 => x.fmt.decode c
  | .e4m3 =>
    if c % 128 == 0x7F then .nan else
    let f := x.fmt
    let ex := c / 8 % 16
    if ex == 0 then .fin (c ≥ 128) (c % 8) f.qmin else .fin (c ≥ 128) (8 + c % 8) (f.qmin + (ex : Int) - 1)
  | _ =>
    let f := x.fmt
    let neg := c / f.signBit % 2 == 1
    let ex := c / 2 ^ f.fb % 2 ^ f.eb
    let fr := c % 2 ^ f.fb
    if ex == 0 then .fin neg fr f.qmin else .fin neg (2 ^ f.fb + fr) (f.qmin + (ex : Int) - 1)

/-- The element code of a finite value: rounded, saturated at the largest finite value of its sign (R96, R100).
The flags say saturated, and vanished: nonzero but rounded to zero, which is written as +0 (R101). -/
def MxElem.encode (x : MxElem) (rd : Rounding) (neg : Bool) (m : Nat) (e : Int) : Nat × Bool × Bool :=
  if m == 0 then (0, false, false) else
  match x with
  | .int8 =>
    let n := roundAt rd m e (-6)
    let s := n > 127
    let n := if s then 127 else n
    if n == 0 then (0, false, true) else ((if neg then 256 - n else n), s, false)
  | _ =>
    let f := x.fmt
    let q := roundUnit f.fb f.qmin m e
    let n := roundAt rd m e q
    let c := if n < 2 ^ f.fb then n else (q - f.qmin).toNat * 2 ^ f.fb + n
    let s := c > x.maxCode
    let c := if s then x.maxCode else c
    if c == 0 then (0, false, true) else ((if neg then c + f.signBit else c), s, false)

/-- One element and its E8M0 block scale as a value (R91): scale 0xFF makes it NaN. -/
def mxValue (x : MxElem) (scale c : Nat) : Val :=
  if scale == 0xFF then .nan else
  match x.decode c with
  | .fin s m e => .fin s m (e + (scale : Int) - 127)
  | v => v

/-- A finite value as an integer count of units of 2^q, q at most its exponent. -/
def unitsOf (neg : Bool) (m : Nat) (e q : Int) : Int :=
  let n : Int := (m * 2 ^ (e - q).toNat : Nat)
  if neg then -n else n

/-- The value i × 2^q, with `zneg` the sign a zero takes. -/
def ofUnits (zneg : Bool) (i q : Int) : Val :=
  .fin (if i == 0 then zneg else i < 0) i.natAbs q

/-- IEEE addition on exact values: an exact zero sum is −0 only when both operands are −0 or the rule of signs gives it (R88). -/
def Val.add : Val → Val → Val
  | .nan, _ => .nan
  | _, .nan => .nan
  | .inf a, .inf b => if a == b then .inf a else .nan
  | .inf a, .fin _ _ _ => .inf a
  | .fin _ _ _, .inf b => .inf b
  | .fin s1 m1 e1, .fin s2 m2 e2 =>
    let q := min e1 e2
    ofUnits (s1 && s2) (unitsOf s1 m1 e1 q + unitsOf s2 m2 e2 q) q

/-- IEEE multiplication on exact values (R88, Table 04.7). -/
def Val.mul : Val → Val → Val
  | .nan, _ => .nan
  | _, .nan => .nan
  | .inf a, .inf b => .inf (xor a b)
  | .inf a, .fin s m _ => if m == 0 then .nan else .inf (xor a s)
  | .fin s m _, .inf b => if m == 0 then .nan else .inf (xor s b)
  | .fin s1 m1 e1, .fin s2 m2 e2 => .fin (xor s1 s2) (m1 * m2) (e1 + e2)

/-- a × b + c with no rounding in between (R150). -/
def Val.fma (a b c : Val) : Val := (a.mul b).add c

/-- a < b, both zeros equal, false when either is NaN (R107, R88). -/
def Val.lt : Val → Val → Bool
  | .nan, _ => false
  | _, .nan => false
  | .inf a, .inf b => a && !b
  | .inf a, .fin _ _ _ => a
  | .fin _ _ _, .inf b => !b
  | .fin s1 m1 e1, .fin s2 m2 e2 =>
    let q := min e1 e2
    unitsOf s1 m1 e1 q < unitsOf s2 m2 e2 q

/-- The maximum of R107: NaN if either is NaN, +0 of two zeros. -/
def Val.max (a b : Val) : Val :=
  if a.isNaN || b.isNaN then .nan
  else if a.isZero && b.isZero then .fin false 0 0
  else if a.lt b then b else a

/-- The minimum of R107: NaN if either is NaN; of two zeros −0 when at least one is −0. -/
def Val.min (a b : Val) : Val :=
  if a.isNaN || b.isNaN then .nan
  else match a, b with
    | .fin s1 0 _, .fin s2 0 _ => .fin (s1 || s2) 0 0
    | _, _ => if b.lt a then b else a

/-- A value rounded to the nearest integer, ties to even (Table 04.4). -/
def rneInt (neg : Bool) (m : Nat) (e : Int) : Int :=
  let n : Int := (roundAt .rne m e 0 : Nat)
  if neg then -n else n

/-- An integer held in [lo, hi]; the flag says that it saturated. -/
def saturate (lo hi x : Int) : Int × Bool :=
  if x < lo then (lo, true) else if x > hi then (hi, true) else (x, false)

/-- A value to a saturating integer format: NaN gives 0 and counts, an infinity its extreme (R95, Table 04.4). -/
def Val.toInt (lo hi : Int) : Val → Int × Bool
  | .nan => (0, true)
  | .inf neg => ((if neg then lo else hi), true)
  | .fin s m e => saturate lo hi (rneInt s m e)

/-- Convergent rounding of an integer by a right shift: nearest, ties to even (R104). -/
def convergent (a : Int) (s : Nat) : Int :=
  let q := a / (2 ^ s : Nat)
  let r := a % (2 ^ s : Nat)
  if 2 * r > (2 ^ s : Nat) || (2 * r == (2 ^ s : Nat) && q % 2 == 1) then q + 1 else q

/-- INT8 requantisation (R105); the flag says that the result saturated. -/
def requant (acc mult : Int) (s : Nat) (z : Int) : Int × Bool :=
  saturate (-128) 127 (convergent (acc * mult) s + z)

/-- The 32-bit code of a signed integer, wrapping. -/
def intCode (w : Nat) (i : Int) : Nat := (i % (2 ^ w : Nat)).toNat

/-- The signed integer of a w-bit code. -/
def codeInt (w c : Nat) : Int := if c % 2 ^ w ≥ 2 ^ (w - 1) then (c % 2 ^ w : Int) - (2 ^ w : Nat) else (c % 2 ^ w : Int)

/-- A signed integer as an exact value. -/
def intVal (i : Int) : Val := .fin (i < 0) i.natAbs 0

/-- A binary32 lane as a value. -/
def laneVal (x : BitVec 32) : Val := b32.decode x.toNat
/-- A value rounded to a binary32 lane (R150). -/
def toLane (v : Val) : BitVec 32 := BitVec.ofNat 32 (b32.encode .rne v).1

/-- One quantised block: scale byte, element codes, saturated count, vanished count. -/
structure MxBlock where
  scale : Nat
  codes : List Nat
  sat : Nat
  van : Nat
  deriving DecidableEq, Repr

/-- ⌊log2⌋ of a nonzero finite magnitude. -/
def log2Of (m : Nat) (e : Int) : Int := (Nat.log2 m : Int) + e

/-- ⌊log2⌋ of the largest magnitude of a list of values, none when every one is zero. -/
def maxLog2 : List Val → Option Int
  | [] => none
  | .fin _ m e :: vs =>
    if m == 0 then maxLog2 vs else
    match maxLog2 vs with
    | none => some (log2Of m e)
    | some x => some (max x (log2Of m e))
  | _ :: vs => maxLog2 vs

/-- The quantiser (R98 to R101): 32 values to one MX block, element i rounded by `rd i`. -/
def quantise (x : MxElem) (rd : Nat → Rounding) (vs : List Val) : MxBlock :=
  if vs.any Val.nonFinite then ⟨0xFF, vs.map fun _ => 0, 0, 0⟩ else
  match maxLog2 vs with
  | none => ⟨0x7F, vs.map fun _ => 0, 0, 0⟩
  | some l =>
    let xs := Max.max (-127) (Min.min 127 (l - x.emax))
    let enc := vs.zipIdx.map fun p => match p.1 with
      | .fin s m e => x.encode (rd p.2) s m (e - xs)
      | _ => (0, false, false)
    ⟨(xs + 127).toNat, enc.map (·.1), enc.countP (·.2.1), enc.countP (·.2.2)⟩

/-- The integer square root, one bit of the result per unit of fuel. -/
def isqrtLoop : Nat → Nat → Nat → Nat
  | 0, _, r => r
  | k + 1, n, r =>
    let c := r + 2 ^ k
    isqrtLoop k n (if c * c ≤ n then c else r)

/-- ⌊√n⌋ for n below 4^k. -/
def isqrt (k n : Nat) : Nat := isqrtLoop k n 0

/-- 1/a, correctly rounded (R151, Table 06.4). The quotient is taken to 60 bits with a sticky bit below them. -/
def recip32 (x : BitVec 32) : BitVec 32 :=
  match laneVal x with
  | .nan => BitVec.ofNat 32 b32.nan
  | .inf s => if s then 0x80000000#32 else 0#32
  | .fin s m e =>
    if m == 0 then BitVec.ofNat 32 (b32.infCode s) else
    let q := 2 ^ 90 / m
    let m' := 2 * q + (if 2 ^ 90 % m == 0 then 0 else 1)
    toLane (.fin s m' (-(e) - 91))

/-- 1/√a, correctly rounded (R151, Table 06.4): the root of 2^200 / a with a sticky bit. -/
def rsqrt32 (x : BitVec 32) : BitVec 32 :=
  match laneVal x with
  | .nan => BitVec.ofNat 32 b32.nan
  | .inf s => if s then BitVec.ofNat 32 b32.nan else 0#32
  | .fin s m e =>
    if m == 0 then BitVec.ofNat 32 (b32.infCode s) else
    if s then BitVec.ofNat 32 b32.nan else
    -- make the exponent even: a = m2 × 2^(2h)
    let odd := e % 2 != 0
    let m2 := if odd then 2 * m else m
    let h := (if odd then e - 1 else e) / 2
    let n := 2 ^ 200 / m2
    let r := isqrt 101 n
    let m' := 2 * r + (if r * r * m2 == 2 ^ 200 then 0 else 1)
    toLane (.fin false m' (-h - 101))

/-- The 2^k-th roots of r in units of 2^−120, by repeated square roots: the list for k = 1, 2, …. -/
def rootChain : Nat → Nat → List Nat
  | 0, _ => []
  | k + 1, r => let r' := isqrt 122 (r * 2 ^ 120); r' :: rootChain k r'

/-- The product of the chain's roots at the set bits of a fraction, most significant first, in units of 2^−120. -/
def rootProduct : List Nat → Nat → Nat → Nat → Nat
  | [], _, _, acc => acc
  | r :: rs, w, f, acc =>
    let acc' := if f / 2 ^ (w - 1) % 2 == 1 then acc * r / 2 ^ 120 else acc
    rootProduct rs (w - 1) f acc'

/-- 2^a, correctly rounded (R151, Table 06.4). The fraction of a is taken to 31 bits exactly when |a| ≥ 2^−8 and the
roots are taken to 120 bits; below 2^−26 the result rounds to 1. -/
def exp2_32 (x : BitVec 32) : BitVec 32 :=
  match laneVal x with
  | .nan => BitVec.ofNat 32 b32.nan
  | .inf s => if s then 0#32 else BitVec.ofNat 32 (b32.infCode false)
  | .fin s m e =>
    if m == 0 then 0x3F800000#32 else
    if !s && ((intVal 128).lt (.fin s m e) || log2Of m e ≥ 7) then BitVec.ofNat 32 (b32.infCode false) else
    if s && (Val.lt (.fin s m e) (intVal (-150))) then 0#32 else
    if log2Of m e < -26 then 0x3F800000#32 else
    -- a in units of 2^−60, exact since a has at most 24 significant bits above 2^−50
    let u := unitsOf s m e (-60)
    let ip := u / (2 ^ 60 : Nat)
    let fr := (u % (2 ^ 60 : Nat)).toNat
    let p := rootProduct (rootChain 60 (2 ^ 121)) 60 fr (2 ^ 120)
    -- a nonzero fraction gives an irrational power, so a sticky bit below 2^−120 decides every rounding
    toLane (.fin false (2 * p + (if fr == 0 then 0 else 1)) (ip - 121))

/-- A reduction tree over adjacent pairs (R152): 2i with 2i + 1 at each level, to one value. -/
def pairTree (f : Val → Val → Val) : Nat → List Val → List Val
  | 0, l => l
  | k + 1, l =>
    let rec pairs : List Val → List Val
      | a :: b :: r => f a b :: pairs r
      | l => l
    pairTree f k (pairs l)

/-- A value rounded to binary32 and read back, as every vector operation holds it. -/
def round32 (v : Val) : Val := b32.decode (b32.encode .rne v).1

/-- The Leaven permutation (R454), k and c as (word 0, word 1). -/
def leavenRound (x : BitVec 64 × BitVec 64) (rot : Nat) : BitVec 64 × BitVec 64 :=
  let x0 := x.1 + x.2
  (x0, (x.2.rotateLeft rot) ^^^ x0)

def leaven (k c : BitVec 64 × BitVec 64) : BitVec 64 × BitVec 64 :=
  let ks2 := k.1 ^^^ k.2
  let x := (c.1 + k.1, c.2 + k.2)
  let x := [16, 44, 8, 36, 24].foldl leavenRound x
  let x := (x.1 + k.2, x.2 + ks2 + 1#64)
  let x := [52, 12, 32, 20, 40].foldl leavenRound x
  (x.1 + ks2, x.2 + k.1 + 2#64)

/-- The 128-bit output as one number. -/
def leavenNat (k c : BitVec 64 × BitVec 64) : Nat :=
  let y := leaven k c
  y.1.toNat + y.2.toNat * 2 ^ 64

end Sys2Proof.Machine
end

