-- ==== Sys2Proof/Machine/Flags.lean ====
section
/-! DEFINITION. Flags: the status a Knead core computes beside its results: the counters and the non-finite capture of
Table 04.9 with their events, the error captures, and the end of a loaf that a failed check or a fault ends. -/
namespace Sys2Proof.Machine

/-- A core at rest: every register zero, nothing queued. -/
def KneadCore.init : KneadCore :=
  ⟨none, ⟨0, 0, 0, 0, 0, 0xFFFF⟩, 0#64, [], 0, [], [], [], [], 0, 0#64, 0#64, [], false, [], [], none, none, [], [], none, false, false, 0, 0, [], [], 0⟩

/-- A Knead core's key. -/
def kKey (t k : Nat) : Nat := t * 17 + k
/-- A Knead core. -/
def Dev.kn (d : Dev) (t k : Nat) : KneadCore := look KneadCore.init d.knead (kKey t k)
/-- Replace a Knead core. -/
def Dev.setKn (d : Dev) (t k : Nat) (c : KneadCore) : Dev := { d with knead := store KneadCore.init d.knead (kKey t k) c }
/-- Change a Knead core. -/
def Dev.modKn (d : Dev) (t k : Nat) (f : KneadCore → KneadCore) : Dev := d.setKn t k (f (d.kn t k))

/-- The loaf identifier a core names in its captures and events. -/
def Dev.kLoaf (d : Dev) (t k : Nat) : Nat := d.getF (Reg.KNEAD_LOAF t k) F.KNEAD_LOAF_LOAF

/-- The three counters of Table 04.9. -/
inductive KCounter where
  | saturate | vanished | underflow
  deriving DecidableEq, Repr

/-- The register of a counter, its field, and the OBJECT of its overflow event (Table 04.10). -/
def KCounter.place (t k : Nat) : KCounter → Nat × Fld × Nat
  | .saturate => (Reg.KNEAD_SATURATE_COUNT t k, F.KNEAD_SATURATE_COUNT_COUNT, 0x10)
  | .vanished => (Reg.KNEAD_VANISHED_ELEMENT_COUNT t k, F.KNEAD_VANISHED_ELEMENT_COUNT_COUNT, 0x18)
  | .underflow => (Reg.KNEAD_SCALE_UNDERFLOW_COUNT t k, F.KNEAD_SCALE_UNDERFLOW_COUNT_COUNT, 0x20)

/-- Add to a format counter; event 0x2021 when its overflow bit goes from 0 to 1 (R111, R112). -/
def Dev.kCount (d : Dev) (t k : Nat) (w : KCounter) (n : Nat) : Dev :=
  let (r, f, o) := w.place t k
  let ovf : Fld := ⟨f.lo + f.w, 1⟩
  let was := d.getB r ovf
  let d := d.count r f n
  if !was && d.getB r ovf then d.raise 0x2021 0xFF (kneadUnit t k) o 0 else d

/-- A non-finite output tile: what R108 records of its first element. -/
structure NonFinite where
  cause : Nat
  source : Nat
  tileId : Nat
  row : Nat
  col : Nat
  deriving DecidableEq, Repr

/-- The capture of R108: the first of a core sets VALID and the fields, later ones set MORE. -/
def Dev.captureNonFinite (d : Dev) (t k loaf slice : Nat) (n : NonFinite) : Dev :=
  let r := Reg.KNEAD_TILE_NONFINITE t k
  if d.getB r F.KNEAD_TILE_NONFINITE_VALID then d.setB r F.KNEAD_TILE_NONFINITE_MORE true
  else
    (d.setFs r [(F.KNEAD_TILE_NONFINITE_VALID, 1), (F.KNEAD_TILE_NONFINITE_CAUSE, n.cause),
      (F.KNEAD_TILE_NONFINITE_SOURCE, n.source), (F.KNEAD_TILE_NONFINITE_ROW, n.row),
      (F.KNEAD_TILE_NONFINITE_COL, n.col), (F.KNEAD_TILE_NONFINITE_TILE_ID, n.tileId),
      (F.KNEAD_TILE_NONFINITE_ROW_HI, n.row / 256)]).setFs (Reg.KNEAD_TILE_NONFINITE_LOAF t k)
      [(F.KNEAD_TILE_NONFINITE_LOAF_LOAF, loaf), (F.KNEAD_TILE_NONFINITE_LOAF_SLICE, slice)]

/-- Event 0x2020 of R108. -/
def Dev.raiseNonFinite (d : Dev) (t k loaf slice : Nat) (n : NonFinite) : Dev :=
  d.raise 0x2020 slice (kneadUnit t k) loaf
    (n.tileId % 65536 + n.row % 256 * 2 ^ 16 + n.col % 256 * 2 ^ 24 + n.cause * 2 ^ 32 + n.source * 2 ^ 40)

/-- A non-finite tile of a Knead loaf: captured, and event 0x2020 once per loaf (R108). -/
def Dev.nonFinite (d : Dev) (t k : Nat) (n : NonFinite) : Dev :=
  let c := d.kn t k
  let d := d.captureNonFinite t k (d.kLoaf t k) c.ctx.slice n
  if c.nonfinRaised then d else
  (d.raiseNonFinite t k (d.kLoaf t k) c.ctx.slice n).modKn t k fun c => { c with nonfinRaised := true }

/-- A capture register: the first failure sets VALID and the fields, further ones set MORE only (Table 05.8). -/
def Dev.capture (d : Dev) (r : Nat) (valid more : Fld) (l : List (Fld × Nat)) : Dev :=
  if d.getB r valid then d.setB r more true else d.setFs r ((valid, 1) :: l)

/-- The arrays of a core leave a state (KNEAD_ARRAY_STATE). -/
def Dev.setArrays (d : Dev) (t k st : Nat) : Dev :=
  [0, 1, 2, 3].foldl (fun d a => d.setF (Reg.KNEAD_ARRAY_STATE t k a) F.KNEAD_ARRAY_STATE_STATE st) d

/-- A held pass is discarded with event 0x2031 (Table 05.5, Table 05.9). -/
def Dev.dropHeld (d : Dev) (t k cause : Nat) : Dev :=
  match (d.kn t k).held with
  | none => d
  | some h =>
    let d := d.modKn t k fun c => { c with held := none, acc := [] }
    if h.chained then d else
    (d.setArrays t k 0).raise 0x2031 h.slice (kneadUnit t k) h.loaf (h.descId + h.kpos * 2 ^ 16 + cause * 2 ^ 32 + 0xF * 2 ^ 40)

/-- The steward will find at its snapshot how a loaf ended. -/
def Dev.loafDone (d : Dev) (t : Nat) (x : LoafDone) : Dev := d.setTile t { d.tile t with done := (d.tile t).done ++ [x] }

/-- The waits of a unit end with it. -/
def Dev.dropWaits (d : Dev) (t : Nat) (u : BitVec 16) : Dev :=
  let mine := d.ctrs.waits.filter fun w => w.tile == t && w.unit == u
  let d := { d with ctrs := { d.ctrs with waits := d.ctrs.waits.filter fun w => !(w.tile == t && w.unit == u) } }
  mine.foldl (fun d w => d.syncWaiters t w.ctr) d

/-- A loaf ends without completing: its queues and running work stop, its registers and accumulators are lost, and the
steward finds the outcome (R159: 1 a failed check, 2 a fault). Accumulators it chained or continued go with it (Table 05.5). -/
def Dev.endLoaf (d : Dev) (t k outcome : Nat) (reason : Nat := 0) : Dev :=
  let c := d.kn t k
  match c.loaf with
  | none => d
  | some h =>
    let used := !c.passRun.isEmpty || (match c.held with | some x => x.chained | none => false)
    let d := if used then (if (match c.held with | some x => !x.chained | none => false) then d.dropHeld t k 1 else d.modKn t k fun c => { c with held := none, acc := [] }) else d
    let d := if used then d.setArrays t k 5 else d
    let d := d.modKn t k fun c => { c with
      loaf := none, passQ := [], passRun := [], lastPass := none, dmaQ := [], dmaRun := none,
      loops := [], ended := false, waiting := false, nonfinRaised := false, ready := [], units := [] }
    let d := d.setFs (Reg.KNEAD_CORE_STATUS t k) [(F.KNEAD_CORE_STATUS_STATE, 0), (F.KNEAD_CORE_STATUS_PASS_Q, 0), (F.KNEAD_CORE_STATUS_DMA_Q, 0)]
    let d := d.dropWaits t (kneadUnit t k)
    d.loafDone t ⟨BitVec.ofNat 13 (0x100 + k), h.id, c.ctx.slice, c.ctx.ctxId, outcome, reason⟩

end Sys2Proof.Machine
end

