-- ==== Sys2Proof/Machine/Operands.lean ====
section
/-! DEFINITION. Operands: operand forms. The fields an instruction uses and how they are checked (R146, R158), register
reads and writes of a Knead core, the loaf header, the pass and DMA descriptors, bench lines relative to a context. -/
namespace Sys2Proof.Machine

/-- What an instruction's 5-bit field names: nothing, a scalar, a vector or a mask register, or a code. -/
inductive FieldUse where
  | none | x | v | mk | code
  deriving DecidableEq, Repr

/-- The fields an opcode uses: D, A, B, C, whether M, and the bits of IMM (R146, Table 06.3). -/
structure KUse where
  d : FieldUse
  a : FieldUse
  b : FieldUse
  c : FieldUse
  m : Bool
  imm : Nat
  deriving DecidableEq, Repr

/-- An unused field is nonzero (reason 1). -/
def FieldUse.unusedBad (u : FieldUse) (v : BitVec 5) : Bool := match u with | .none => v != 0#5 | _ => false
/-- A register field is out of range (reason 2): 16 scalar and 8 mask registers. -/
def FieldUse.rangeBad (u : FieldUse) (v : BitVec 5) : Bool :=
  match u with | .x => decide (v.toNat ≥ 16) | .mk => decide (v.toNat ≥ 8) | _ => false
/-- A destination field is out of range or names M0 or X0 (reason 2). -/
def FieldUse.destBad (u : FieldUse) (v : BitVec 5) : Bool :=
  match u with | .x => v == 0#5 || decide (v.toNat ≥ 16) | .mk => v == 0#5 || decide (v.toNat ≥ 8) | _ => false

/-- The checks of an instruction word alone (R158): reason 1, then reason 2, of Table 06.7; `dst` says that D is a destination. -/
def wordCheck (u : KUse) (dst : Bool) (f : KFields) (codesOk : Bool) : Option Nat :=
  if f.rsv != 0#1 || u.d.unusedBad f.d || u.a.unusedBad f.a || u.b.unusedBad f.b || u.c.unusedBad f.c ||
      (!u.m && f.m != 0#3) || f.imm &&& ~~~(BitVec.ofNat 32 u.imm) != 0#32 || !codesOk then some 1
  else if (if dst then u.d.destBad f.d else u.d.rangeBad f.d) || u.a.rangeBad f.a || u.b.rangeBad f.b || u.c.rangeBad f.c then some 2
  else none

/-- Every bit of IMM. -/
def immAll : Nat := 0xFFFFFFFF

/-! ## Registers of a core (R146) -/

/-- A scalar register; X0 reads as zero. -/
def KneadCore.rx (c : KneadCore) (r : BitVec 5) : BitVec 64 := if r == 0#5 then 0#64 else look 0#64 c.x r.toNat
/-- Write a scalar register; X0 keeps zero. -/
def KneadCore.wx (c : KneadCore) (r : BitVec 5) (v : BitVec 64) : KneadCore :=
  if r == 0#5 then c else { c with x := store 0#64 c.x r.toNat v }

/-- 256 lanes of zero. -/
def zeroLanes : List (BitVec 32) := List.replicate 256 0#32
/-- A vector register. -/
def KneadCore.rv (c : KneadCore) (r : BitVec 5) : List (BitVec 32) := look zeroLanes c.v r.toNat
/-- A mask register; M0 reads as all ones. -/
def KneadCore.rm (c : KneadCore) (r : Nat) : BitVec 256 := if r == 0 then BitVec.allOnes 256 else look 0#256 c.m r
/-- Lane i of a register's lanes. -/
def lane (l : List (BitVec 32)) (i : Nat) : BitVec 32 := l.getD i 0#32

/-- Bits of a 256-bit mask from a test of each lane. -/
def maskOf (p : Nat → Bool) : BitVec 256 := BitVec.ofNat 256 ((List.range 256).foldl (fun s i => if p i then s + 2 ^ i else s) 0)

/-- Write the lanes of a vector register that the mask enables; `inp` marks lanes whose non-finite value came in from
outside the operation (R109). A lane whose mask bit is 0 keeps its old value (R150). -/
def KneadCore.wv (c : KneadCore) (r : BitVec 5) (mk : BitVec 256) (new : List (BitVec 32)) (inp : BitVec 256) : KneadCore :=
  let old := c.rv r
  let l := (List.range 256).map fun i => if mk.getLsbD i then lane new i else lane old i
  { c with v := store zeroLanes c.v r.toNat l
           vin := store 0#256 c.vin r.toNat ((inp &&& mk) ||| (look 0#256 c.vin r.toNat &&& ~~~mk)) }

/-- Write the bits of a mask register that the write mask enables. -/
def KneadCore.wm (c : KneadCore) (r : Nat) (mk : BitVec 256) (new : BitVec 256) : KneadCore :=
  if r == 0 then c else { c with m := store 0#256 c.m r ((new &&& mk) ||| (c.rm r &&& ~~~mk)) }

/-! ## The bench under a context (R141) -/

/-- Lines of the bench. -/
def benchLines : Nat := 196608
/-- n lines from a field lie in the context and in the bench (R141). -/
def Ctx.holds (x : Ctx) (line n : Nat) : Bool := decide (x.lo + line + n ≤ x.hi) && decide (x.lo + line + n ≤ benchLines)
/-- The store place of a line that a loaf names. -/
def Ctx.at_ (x : Ctx) (t k line : Nat) : Nat := benchAt t k ((x.lo + line) * 64)

/-- The context of a core by its registers (Table 06.11). -/
def Dev.kneadCtx (d : Dev) (t k : Nat) : Ctx :=
  let r := Reg.KNEAD_CONTEXT t k
  ⟨d.getF r F.KNEAD_CONTEXT_BENCH_LO, d.getF r F.KNEAD_CONTEXT_BENCH_HI, d.getF r F.KNEAD_CONTEXT_SLICE,
   d.getF r F.KNEAD_CONTEXT_CTR_LO, d.getF r F.KNEAD_CONTEXT_CTR_N, d.getF (Reg.KNEAD_CONTEXT_ID t k) F.KNEAD_CONTEXT_ID_CTX_ID⟩

/-- A loaf header from its 64 bytes (Table 06.1). -/
def loafHdr (l : Bytes) : LoafHdr :=
  ⟨leAt l 0 4, leAt l 4 1, leAt l 5 1, leAt l 8 4, leAt l 12 4, leAt l 16 2, leAt l 18 2, leAt l 20 2, leAt l 22 2, leAt l 24 2, leAt l 26 2⟩

/-- Bits of a word read from a string, lowest first. -/
def bitsAt (l : Bytes) (byteOff lo w : Nat) : Nat := leAt l byteOff 8 / 2 ^ lo % 2 ^ w

/-- A pass descriptor from its 64 bytes (Table 05.6); `zeroOk` says that every field marked zero is zero. -/
def passDesc (l : Bytes) : PassDesc :=
  let b := bitsAt l
  { mode := b 0 0 2, fmtA := b 0 4 4, fmtB := b 0 8 4, init := b 0 12 3, fin := b 0 15 2, outFmt := b 0 17 3, sround := b 0 20 1 == 1,
    tileId := b 0 32 16, descId := b 0 48 16, kChunks := b 8 0 16, kStart := b 8 16 16, kTail := b 8 32 6, mValid := b 8 40 9,
    nValid := b 8 56 8, aBase := b 16 0 18, aStride := b 16 18 16, aScale := b 16 34 18, aScaleStride := b 16 52 12,
    bBase := b 24 0 18, bStride := b 24 18 16, bScale := b 24 34 18, bScaleStride := b 24 52 12,
    cBase := b 32 0 18, cStride := b 32 18 16, parkBase := b 32 34 18, dBase := b 40 0 18, dStride := b 40 18 16,
    rqMult := codeInt 32 (b 48 0 32), rqShift := b 48 32 6, rqZero := codeInt 8 (b 48 38 8), gain := b 48 46 6,
    aPair := b 56 0 18, bPair := b 56 18 18, cdPair := b 56 36 18, word7 := leAt l 56 8,
    zeroOk := b 0 2 2 == 0 && b 0 21 11 == 0 && b 8 38 2 == 0 && b 8 49 7 == 0 && b 32 52 12 == 0 && b 40 34 30 == 0 && b 48 52 12 == 0 && b 56 54 10 == 0 }

/-- A DMA descriptor from its 32 bytes (Table 06.5). Bit 17 of word 0 is IRQ of a signal core (R281). -/
def dmaDesc (l : Bytes) : DmaDesc :=
  let b := bitsAt l
  { src := b 0 0 3, dst := b 0 3 3, counter := b 0 6 10, sig := b 0 16 1 == 1, irq := b 0 17 1 == 1, route := b 0 32 16,
    srcAddr := leAt l 8 8, dstAddr := leAt l 16 8, rows := b 24 0 16, rowLines := b 24 16 16, srcStride := b 24 32 16, dstStride := b 24 48 16,
    zeroOk := b 0 18 14 == 0 && b 0 48 16 == 0 }

/-- The last line a side of a descriptor reaches, relative to its first (Table 06.5). -/
def DmaDesc.extent (x : DmaDesc) (stride : Nat) : Nat := (x.rows - 1) * stride + x.rowLines

/-- The rows of the destination overlap (reason 5 of Table 06.8). -/
def DmaDesc.overlaps (x : DmaDesc) : Bool := decide (x.rows > 1) && decide (x.dstStride < x.rowLines)

end Sys2Proof.Machine
end

