-- ==== Sys2Proof/Machine/Plan.lean ====
section
/-! DEFINITION. Plan: tray entries, programmes, contexts and placed steps as the tile stewards hold them (R218 to R222, R228), and
the start of a lane of a placed step, for which the steward has written the core's registers (R142, R456). -/
namespace Sys2Proof.Machine

/-! ## The steward's tables -/

def Sched.init : Sched := ⟨[], [], [], [], [], [], 0⟩
def Dev.sch (d : Dev) (t : Nat) : Sched := look Sched.init d.sched t
def Dev.setSch (d : Dev) (t : Nat) (x : Sched) : Dev := { d with sched := store Sched.init d.sched t x }
def Dev.modSch (d : Dev) (t : Nat) (f : Sched → Sched) : Dev := d.setSch t (f (d.sch t))
def TrayState.init : TrayState := ⟨0#64, [], 0, none, none, none⟩
def Dev.tray (d : Dev) (n : Nat) : TrayState := look TrayState.init d.trays n
def Dev.setTray (d : Dev) (n : Nat) (x : TrayState) : Dev := { d with trays := store TrayState.init d.trays n x }

/-! ## Entries (Table 09.1) -/

def entKind (l : Bytes) : Nat := leAt l 8 1
def entPrio (l : Bytes) : Nat := leAt l 9 1
def entOpen (l : Bytes) : Bool := leAt l 10 1 % 2 == 1
def entClose (l : Bytes) : Bool := leAt l 10 1 / 2 % 2 == 1 || entKind l == 3
def entIrq (l : Bytes) : Bool := leAt l 10 1 / 4 % 2 == 1
def entChunk (l : Bytes) : Nat := 2 ^ leAt l 11 1
def entCtx (l : Bytes) : Nat := leAt l 12 2
def entTokens (l : Bytes) : Nat := leAt l 16 4
def entOutLines (l : Bytes) : Nat := leAt l 20 4
def entProg (l : Bytes) : Nat := leAt l 24 8
def entOut (l : Bytes) : Nat := leAt l 32 8
def entIn (l : Bytes) : Nat := leAt l 40 8
def entStep0 (l : Bytes) : Nat := leAt l 48 8
def entSpill (l : Bytes) : Nat := leAt l 56 8
/-- The entries of a batch share its leader's steps; an entry of its own leads itself. -/
def Entry.key (e : Entry) : Nat × BitVec 64 := (e.tray, e.seq)
def Entry.leads (e : Entry) : Nat × BitVec 64 := e.leader.getD e.key

/-! ## Programmes (R221, R222) -/

/-- A programme header (Table 09.3). -/
structure ProgHdr where
  nSteps : Nat
  cores : Nat
  batchRows : Nat
  lines : Nat
  ctrN : Nat
  argLine : Nat
  zeroOk : Bool
  deriving DecidableEq, Repr
def progHdr (l : Bytes) : ProgHdr :=
  ⟨leAt l 0 2, leAt l 2 1, leAt l 3 1, leAt l 4 4, leAt l 8 1, leAt l 12 4, leAt l 9 3 == 0 && leAt l 16 48 == 0⟩

/-- A step record (Table 09.4). -/
structure StepRec where
  lanes : Nat
  nVar : Nat
  chunk : Bool
  vars : List Nat
  zeroOk : Bool
  deriving DecidableEq, Repr
def stepRec (l : Bytes) : StepRec :=
  ⟨leAt l 0 6, leAt l 6 1, leAt l 7 1 % 2 == 1, (List.range 4).map fun i => leAt l (8 + 8 * i) 8, leAt l 7 1 / 2 == 0 && leAt l 40 24 == 0⟩

/-- A residency requirement (R203): object, tier, device address. -/
structure Need where
  obj : Nat
  tier : Nat
  addr : Nat
  zeroOk : Bool
  deriving DecidableEq, Repr
/-- A variant record (Table 09.5). -/
structure Variant where
  length : Nat
  nReq : Nat
  live : Nat
  reqs : List Need
  images : List Nat
  zeroOk : Bool
  deriving DecidableEq, Repr
def variantOf (l : Bytes) : Variant :=
  let n := min 16 (leAt l 4 1)
  ⟨leAt l 0 4, leAt l 4 1, leAt l 8 4,
   (List.range n).map fun i => ⟨leAt l (16 + 16 * i) 4, leAt l (20 + 16 * i) 1, leAt l (24 + 16 * i) 8, leAt l (21 + 16 * i) 3 == 0⟩,
   (List.range 48).map fun j => leAt l (272 + 8 * j) 8, leAt l 5 3 == 0 && leAt l 12 4 == 0⟩

def Dev.progHdr (d : Dev) (p : Nat) : ProgHdr := Machine.progHdr (d.bytes p 64)
def Dev.stepRec (d : Dev) (p i : Nat) : StepRec := Machine.stepRec (d.bytes (p + 64 + 64 * i) 64)
def Dev.variant (d : Dev) (a : Nat) : Variant := variantOf (d.bytes a 656)

/-- The first CHUNK step and the length of its run (R222). -/
def Dev.chunkBody (d : Dev) (p : Nat) : Nat × Nat :=
  let fs := (List.range (d.progHdr p).nSteps).map fun i => (d.stepRec p i).chunk
  let b := (fs.takeWhile (!·)).length
  (b, ((fs.drop b).takeWhile (·)).length)
/-- The chunks of a scored prompt. -/
def entChunks (l : Bytes) : Nat := ceilDiv (entTokens l) (entChunk l)
/-- How many steps an entry runs in all. -/
def Dev.stepsOf (d : Dev) (l : Bytes) : Nat :=
  let n := (d.progHdr (entProg l)).nSteps
  if entKind l == 3 then 0 else if entKind l == 2 then n + (entChunks l - 1) * (d.chunkBody (entProg l)).2 else n
/-- The step record and the chunk of the i-th step run. -/
def Dev.stepAt (d : Dev) (l : Bytes) (i : Nat) : Nat × Nat :=
  if entKind l != 2 then (i, 0) else
  let (b, n) := d.chunkBody (entProg l)
  let k := entChunks l
  if i < b || n == 0 then (i, 0) else if i < b + k * n then (b + (i - b) % n, (i - b) / n) else (i - (k - 1) * n, k - 1)
/-- The lanes a mask names. -/
def lanesOf (m : Nat) : List Nat := (List.range 48).filter fun j => m / 2 ^ j % 2 == 1
/-- The role of a lane. -/
def roleOf (j : Nat) : Nat := if j < 16 then j else (j - 16) / 2

/-! ## Contexts -/

/-- A context has been placed on its cores. -/
def TCtx.placed (c : TCtx) : Bool := !c.roles.isEmpty
def Sched.ctx? (x : Sched) (s id : Nat) : Option TCtx := x.ctxs.find? fun c => c.slice == s && c.id == id
/-- Replace a context. -/
def Sched.putCtx (x : Sched) (c : TCtx) : Sched := { x with ctxs := x.ctxs.map fun o => if o.slice == c.slice && o.id == c.id then c else o }
/-- Replace an entry. -/
def Sched.putEntry (x : Sched) (e : Entry) : Sched := { x with entries := x.entries.map fun o => if o.key == e.key then e else o }
/-- SCHED_CONTEXTS follows the contexts. -/
def Dev.syncContexts (d : Dev) (t : Nat) : Dev :=
  let cs := (d.sch t).ctxs.filter (·.placed)
  d.setFs (Reg.SCHED_CONTEXTS t) [(F.SCHED_CONTEXTS_RESIDENT, cs.countP fun c => c.stage != .saved), (F.SCHED_CONTEXTS_SAVED, cs.countP fun c => c.stage == .saved)]

/-- The unit number of a lane of a context on its tile. -/
def Dev.laneUnit (d : Dev) (t : Nat) (c : TCtx) (j : Nat) : Option Nat :=
  match c.roles[roleOf j]? with
  | none => none
  | some r => if j < 16 then (d.physOf t r.core).map (0x100 + ·) else some (0x300 + 2 * r.core + (j - 16) % 2)

/-! ## Arguments (R221) -/

/-- One argument record apart from its RESULT: the entry of its row, or an empty row. -/
def argRecord (e : Option Entry) (chunk : Nat) : Bytes × Bytes :=
  match e with
  | none => (List.replicate 128 0#8 ++ List.replicate 8 0xFF#8 ++ List.replicate 24 0#8, List.replicate 64 0#8)
  | some e =>
    let l := e.raw
    let valid := if entKind l == 2 then min (entChunk l) (entTokens l - chunk * entChunk l) else 0
    (bytesAt l 128 128 ++ leBytes 8 e.seq.toNat ++ leBytes 8 (entIn l) ++ leBytes 8 (entOut l) ++ leBytes 4 chunk ++ leBytes 4 valid,
      List.replicate 64 0#8)

/-- The argument area of one role is written: BATCH_ROWS records, RESULT left as it is. -/
def Dev.writeArgs (d : Dev) (t : Nat) (c : TCtx) (r : Role) (rows : List Entry) (chunk : Nat) : Dev :=
  match d.physOf t r.core with
  | none => d
  | some k =>
    (List.range c.batchRows).foldl (fun (d : Dev) i =>
      if c.argLine + 4 * (i + 1) > c.lines then d else
      let a := benchAt t k ((r.lo + c.argLine) * 64 + 256 * i)
      let (x, y) := argRecord (rows.find? fun e => e.row == i) chunk
      (d.write a x).write (a + 192) y) d

/-! ## Starting a lane (R142, R221, R456) -/

/-- The item of the running plan whose lane a unit has still to start. -/
def Sched.due (x : Sched) (unit : Nat) : Option Placed := x.running.find? fun p => p.lanes.any (fun l => l.2 == unit) && !p.started.contains unit
def Placed.same (a b : Placed) : Bool := a.tray == b.tray && a.seq == b.seq && a.index == b.index

/-- The steward's writes for a core lane: context, context identifier, step counter, seed set, lane. -/
def Dev.laneRegs (d : Dev) (t k : Nat) (c : TCtx) (r : Role) (p : Placed) (lane : Nat) (seeds : Bytes) : Dev :=
  let d := d.setFs (Reg.KNEAD_CONTEXT t k) [(F.KNEAD_CONTEXT_BENCH_LO, r.lo), (F.KNEAD_CONTEXT_BENCH_HI, r.lo + c.lines), (F.KNEAD_CONTEXT_SLICE, c.slice),
    (F.KNEAD_CONTEXT_CTR_LO, r.ctr), (F.KNEAD_CONTEXT_CTR_N, c.ctrN)]
  let d := d.setF (Reg.KNEAD_CONTEXT_ID t k) F.KNEAD_CONTEXT_ID_CTX_ID c.id
  let d := d.setReg (Reg.KNEAD_STEP t k) p.counter
  let d := (List.range 4).foldl (fun (d : Dev) w => d.setReg (Reg.KNEAD_SEED t k w) (BitVec.ofNat 64 (leAt seeds (8 * w) 8))) d
  d.setF (Reg.KNEAD_STREAM t k) F.KNEAD_STREAM_STREAM lane

/-- A unit comes to the start of its lane of a placed step: local time moves to the step's offset, the arguments are written when
the first lane starts, and the core's registers hold what the steward wrote for the step. -/
def Dev.placeLoaf (d : Dev) (t unit : Nat) : Dev :=
  match (d.sch t).due unit with
  | none => d
  | some p =>
    match (d.sch t).ctx? p.slice p.ctx with
    | none => d
    | some c =>
      if d.paused t then d else
      let d := d.advance (p.off - (d.tile t).pos)
      let rows := (d.sch t).entries.filter fun e => e.leads == (p.tray, p.seq)
      let seeds := match rows.head? with | some e => bytesAt e.raw 64 32 | none => []
      let d := if p.started.isEmpty then c.roles.foldl (fun (d : Dev) r => d.writeArgs t c r rows p.chunk) d else d
      let d := d.modSch t fun x => { x with running := x.running.map fun q => if q.same p then { q with started := q.started ++ [unit] } else q }
      match p.lanes.find? fun l => l.2 == unit with
      | some (lane, u) => if u / 0x100 == 1 then (match c.roles[lane]? with | some r => d.laneRegs t (u % 0x100) c r p lane seeds | none => d) else d
      | none => d

end Sys2Proof.Machine
end

