-- ==== Sys2Proof/Machine/Arrays.lean ====
section
/-! DEFINITION. Arrays: the four matrix arrays of a Knead core (chapter 05): descriptor checks, fixed-chunk accumulation,
drain, preload, hold and park. -/
namespace Sys2Proof.Machine

/-! ## Formats and geometry (Tables 05.1, 05.2) -/

/-- Bits of one K-element of an operand format. -/
def opBits (c : Nat) : Nat := if c ≤ 1 then 16 else if c ≤ 3 then 8 else if c ≤ 5 then 6 else if c == 6 then 4 else if c ≤ 8 then 8 else 32
/-- The MX element format of a code, none for the others. -/
def opMx : Nat → Option MxElem
  | 2 => some .e4m3 | 3 => some .e5m2 | 4 => some .e3m2 | 5 => some .e2m3 | 6 => some .e2m1 | 7 => some .int8 | _ => none
/-- The rate of a format: K-elements per cell per kc. -/
def opRate (c : Nat) : Nat := if c ≤ 1 then 1 else if c == 6 then 4 else if c ≤ 8 then 2 else 1
/-- Bytes of one output element. -/
def outBytes : Nat → Nat
  | 0 => 4 | 1 => 2 | 2 => 2 | 3 => 4 | 4 => 1 | _ => 4
/-- Latency L and changeover H of a mode. -/
def modeL (m : Nat) : Nat := if m == 2 then 256 else 128
def modeH (m : Nat) : Nat := if m == 3 then 0 else if m == 2 then 128 else 64
/-- Steps of a pass (R118, R120). -/
def PassDesc.steps (p : PassDesc) : Nat := if p.mode == 3 then p.kChunks else p.kChunks * 64 / min (opRate p.fmtA) (opRate p.fmtB)
/-- A complex pass. -/
def PassDesc.cplx (p : PassDesc) : Bool := p.fmtA == 9
/-- An INT8 pass. -/
def PassDesc.int8 (p : PassDesc) : Bool := p.fmtA == 8
/-- The tiles of a pass: one, or one per pair in SHARE2. -/
def PassDesc.pairs (p : PassDesc) : List Nat := if p.mode == 1 then [0, 1] else [0]
/-- The largest M_VALID and N_VALID of a mode, halved for complex passes. -/
def PassDesc.maxM (p : PassDesc) : Nat := (if p.mode == 0 then 256 else 128) / (if p.cplx then 2 else 1)
def PassDesc.maxN (p : PassDesc) : Nat := (if p.mode == 2 then 128 else 64) / (if p.cplx then 2 else 1)
/-- The cell of array row r and column c of a pair's tile: 4,096 × array + 64 × row + column. -/
def cellOf (mode pair r c : Nat) : Nat :=
  if mode == 2 then ((r / 64) * 2 + c / 64) * 4096 + (r % 64) * 64 + c % 64
  else if mode == 1 then (2 * pair + r / 64) * 4096 + (r % 64) * 64 + c
  else (r / 64) * 4096 + (r % 64) * 64 + c
/-- The SOURCE code of an element's array (Table 04.9). -/
def PassDesc.source (p : PassDesc) (pair r : Nat) : Nat := if p.mode == 2 then 4 else if p.mode == 1 then 2 * pair + r / 64 else r / 64

/-! ## Descriptor checks (Table 05.7) -/

/-- A field that its mode does not use is nonzero, or a reserved code is used (reason 1). -/
def PassDesc.reservedBad (p : PassDesc) : Bool :=
  !p.zeroOk || decide (p.fmtA > 9) || decide (p.fmtB > 9) || decide (p.init > 3) || decide (p.outFmt > 5) || (p.mode != 1 && p.word7 != 0) ||
  (p.mode == 3 && (p.kStart != 0 || p.kTail != 0 || p.mValid != 0 || p.nValid != 0 || p.aStride != 0 || p.bStride != 0 || p.cStride != 0 ||
    p.dStride != 0 || p.aScale != 0 || p.bScale != 0 || p.aScaleStride != 0 || p.bScaleStride != 0 || p.parkBase != 0 || p.rqMult != 0 ||
    p.rqShift != 0 || p.rqZero != 0 || p.gain != 0))

/-- The formats do not fit together (reason 2). -/
def PassDesc.formatBad (p : PassDesc) : Bool :=
  let fam := (decide (p.fmtA ≤ 7) && decide (p.fmtB ≤ 7)) || (p.fmtA == 8 && p.fmtB == 8) || (p.fmtA == 9 && p.fmtB == 9)
  let out := if p.fmtA ≤ 7 then decide (p.outFmt ≤ 2) else if p.fmtA == 8 then p.outFmt == 3 || p.outFmt == 4 else p.outFmt == 5
  !fam || !out || (p.sround && p.outFmt != 1) || (p.cplx && p.init == 1) ||
  (p.mode == 3 && (decide (p.fmtA > 1) || decide (p.fmtB > 1) || decide (p.init > 1) || p.fin != 0))

/-- A count lies outside its range (reason 3). -/
def PassDesc.rangeBad (p : PassDesc) : Bool :=
  p.kChunks == 0 || (p.mode != 3 && (p.mValid == 0 || decide (p.mValid > p.maxM) || p.nValid == 0 || decide (p.nValid > p.maxN))) ||
  decide (p.gain > 32) || decide (p.rqShift > 62) || decide (p.kStart + p.kChunks > 65536)

/-- Lines of one operand row up to the last chunk of the pass. -/
def rowLines (bits chunks : Nat) : Nat := (chunks * 64 * bits + 511) / 512

/-- The regions a pass touches, as (first line, lines) relative to the context. -/
def PassDesc.regions (p : PassDesc) : List (Nat × Nat) :=
  if p.mode == 3 then
    let inL := (p.kChunks * 512 + 63) / 64
    [(p.aBase, inL), (p.bBase, inL), (p.dBase, (p.kChunks * 256 * outBytes p.outFmt + 63) / 64)] ++
    (if p.init == 1 then [(p.cBase, (p.kChunks * 1024 + 63) / 64)] else [])
  else
    let ch := p.kStart + p.kChunks
    let scl := (2 * ch + 63) / 64
    let rowB := (p.nValid * outBytes p.outFmt + 63) / 64
    let pre := (p.nValid * 4 + 63) / 64
    p.pairs.flatMap fun pr =>
      let rows := fun (base stride n len : Nat) => (base, (n - 1) * stride + len)
      [rows (p.aBase + pr * p.aPair) p.aStride p.mValid (rowLines (opBits p.fmtA) ch),
       rows (p.bBase + pr * p.bPair) p.bStride p.nValid (rowLines (opBits p.fmtB) ch)] ++
      (if (opMx p.fmtA).isSome then [rows (p.aScale + pr * p.aPair) p.aScaleStride p.mValid scl] else []) ++
      (if (opMx p.fmtB).isSome then [rows (p.bScale + pr * p.bPair) p.bScaleStride p.nValid scl] else []) ++
      (if p.init == 1 then [rows (p.cBase + pr * p.cdPair) p.cStride p.mValid pre] else []) ++
      (if p.fin == 0 then [rows (p.dBase + pr * p.cdPair) p.dStride p.mValid rowB] else []) ++
      (if p.fin == 2 || p.fin == 3 || p.init == 3 then [(p.parkBase, if p.cplx then 2049 else 1025)] else [])

/-- The park record at a place matches the descriptor (R134). -/
def parkMatches (l : Bytes) (p : PassDesc) : Bool :=
  leAt l 0 2 == p.descId && leAt l 4 1 == p.mode && leAt l 5 1 == p.fmtA + 16 * p.fmtB

/-- Accumulators in the arrays that a pass may continue (R132). -/
def HeldPass.matches_ (h : HeldPass) (p : PassDesc) : Bool := h.descId == p.descId && h.mode == p.mode && h.fmtA == p.fmtA && h.fmtB == p.fmtB

/-- A pass that begins CONTINUE finds what it continues: the chained pass issued before it, or the held pass of its own context. -/
def KneadCore.chainOk (c : KneadCore) (p : PassDesc) : Bool :=
  match c.lastPass with
  | some j => j.desc.fin == 1 && j.desc.descId == p.descId && j.desc.mode == p.mode && j.desc.fmtA == p.fmtA && j.desc.fmtB == p.fmtB
  | none => match c.held with
    | some h => h.matches_ p && h.slice == c.ctx.slice && h.ctxId == c.ctx.ctxId
    | none => false

/-- The checks of Table 05.7, in order of reason (R137). -/
def Dev.passCheck (d : Dev) (t k : Nat) (c : KneadCore) (p : PassDesc) : Option Nat :=
  if p.reservedBad then some 1
  else if p.formatBad then some 2
  else if p.rangeBad then some 3
  else if !(p.regions.all fun r => c.ctx.holds r.1 r.2) then some 4
  else if p.init == 2 && !c.chainOk p then some 5
  else if p.init == 3 && !parkMatches (d.bytes (c.ctx.at_ t k p.parkBase) 64) p then some 6
  else match c.lastPass with
    | some j => if (j.desc.fin == 1 && p.init != 2) || j.desc.fin == 2 || j.desc.fin == 3 then some 7 else none
    | none => none

/-- A descriptor that fails ends its loaf: capture, event 0x2030, no re-run (R137). -/
def Dev.passFail (d : Dev) (t k : Nat) (p : PassDesc) (r : Nat) : Dev :=
  let c := d.kn t k
  let reg := Reg.KNEAD_DESC_ERROR t k
  let d := d.capture reg F.KNEAD_DESC_ERROR_VALID F.KNEAD_DESC_ERROR_MORE
    [(F.KNEAD_DESC_ERROR_REASON, r), (F.KNEAD_DESC_ERROR_DESC_ID, p.descId), (F.KNEAD_DESC_ERROR_LOAF, d.kLoaf t k), (F.KNEAD_DESC_ERROR_SLICE, c.ctx.slice)]
  (d.raise 0x2030 c.ctx.slice (kneadUnit t k) (d.kLoaf t k) (r + p.mode * 2 ^ 8 + p.descId * 2 ^ 16)).endLoaf t k 1 r

/-! ## Fixed-chunk accumulation (R121 to R124) -/

/-- What one chunk or one element's accumulation met: the causes of R109 and the counts of Table 04.9. -/
structure Met where
  scaleRange : Bool
  input : Bool
  arith : Bool
  under : Nat
  sat : Nat
  deriving DecidableEq, Repr

def Met.none : Met := ⟨false, false, false, 0, 0⟩
def Met.join (a b : Met) : Met := ⟨a.scaleRange || b.scaleRange, a.input || b.input, a.arith || b.arith, a.under + b.under, a.sat + b.sat⟩

/-- A product in units of 2^q, truncated toward zero (R122 step 3). -/
def truncUnits (neg : Bool) (m : Nat) (e q : Int) : Int :=
  let n : Int := (if q ≤ e then m * 2 ^ (e - q).toNat else m / 2 ^ (q - e).toNat : Nat)
  if neg then -n else n

/-- The chunk result of a list of products (R102, R122, R103): a binary32 value. -/
def chunkResult (ps : List Val) : Val × Met :=
  if ps.any Val.isNaN || (ps.any (· == .inf true) && ps.any (· == .inf false)) then (.nan, { Met.none with input := true })
  else if ps.any (· == .inf true) then (.inf true, { Met.none with input := true })
  else if ps.any (· == .inf false) then (.inf false, { Met.none with input := true })
  else match maxLog2 ps with
    | none => (.fin false 0 0, Met.none)
    | some e =>
      let q := e - 40
      let s := ps.foldl (fun acc p => match p with | .fin n m pe => acc + truncUnits n m pe q | _ => acc) (0 : Int)
      if s == 0 then (.fin false 0 0, Met.none) else
      let (c, o) := b32.encode .rne (ofUnits false s q)
      if o then (b32.decode c, { Met.none with scaleRange := true })
      else if c == 0 || c == b32.signBit then (.fin false 0 0, { Met.none with under := 1 })
      else (b32.decode c, Met.none)

/-- acc + v in binary32 (R123). -/
def accAdd (acc : Nat) (v : Val) : Nat × Met :=
  let a := b32.decode acc
  let r := a.add v
  let (c, _) := b32.encode .rne r
  let bad := (b32.decode c).nonFinite
  -- a sum that is not finite from finite operands, or of opposite infinities, is the accumulator's own (R109, R123)
  let own := bad && ((!a.nonFinite && !v.nonFinite) || (r.isNaN && !a.isNaN && !v.isNaN))
  (c, { Met.none with arith := own })

/-- An operand row: the place of its elements, of its scales, and its format. -/
structure OpRow where
  at_ : Nat
  scaleAt : Nat
  fmt : Nat
  deriving DecidableEq, Repr

/-- The code of K-element i of a row (R92). -/
def Dev.opCode (d : Dev) (r : OpRow) (i : Nat) : Nat :=
  let b := opBits r.fmt
  (ofLe (d.bytes (r.at_ + i * b / 8) ((i * b % 8 + b + 7) / 8))) / 2 ^ (i * b % 8) % 2 ^ b

/-- The value of K-element i of a float-family row: its element with its block scale, binary16 converted to E8M7 on entry. -/
def Dev.opVal (d : Dev) (r : OpRow) (i : Nat) : Val :=
  let c := d.opCode r i
  match opMx r.fmt with
  | some x => mxValue x (d.byte (r.scaleAt + i / 32)).toNat c
  | none => if r.fmt == 0 then e8m7.decode c else e8m7.decode (e8m7.encode .rne (b16.decode c)).1

/-- The two halves of complex element i. -/
def Dev.opCplx (d : Dev) (r : OpRow) (i : Nat) : Int × Int :=
  let c := d.opCode r i
  (codeInt 16 (c % 65536), codeInt 16 (c / 65536))

/-- The operand rows of row m and column n of a pair (R114, R115). -/
def PassDesc.rowA (p : PassDesc) (x : Ctx) (t k pr m : Nat) : OpRow :=
  ⟨x.at_ t k (p.aBase + pr * p.aPair + m * p.aStride), x.at_ t k (p.aScale + pr * p.aPair + m * p.aScaleStride), p.fmtA⟩
def PassDesc.rowB (p : PassDesc) (x : Ctx) (t k pr n : Nat) : OpRow :=
  ⟨x.at_ t k (p.bBase + pr * p.bPair + n * p.bStride), x.at_ t k (p.bScale + pr * p.bPair + n * p.bScaleStride), p.fmtB⟩

/-- The valid positions of chunk c of a pass: all 64, or K_TAIL in the row's final chunk (R121). -/
def PassDesc.width (p : PassDesc) (c : Nat) : Nat := if p.kTail != 0 && c + 1 == p.kStart + p.kChunks then p.kTail else 64

/-- The accumulation of one float-family element over the chunks of the pass (R123). -/
def Dev.floatElem (d : Dev) (p : PassDesc) (a b : OpRow) (acc0 : Nat) : Nat × Met :=
  (List.range p.kChunks).foldl (fun (s : Nat × Met) j =>
    let c := p.kStart + j
    let ps := (List.range (p.width c)).map fun i => (d.opVal a (64 * c + i)).mul (d.opVal b (64 * c + i))
    let (v, m1) := chunkResult ps
    let (acc, m2) := accAdd s.1 v
    (acc, s.2.join (m1.join m2))) (acc0, Met.none)

/-- Integer accumulation with saturation after each chunk (R124). -/
def intAccum (lo hi : Int) (chunks : List Int) (acc0 : Int) : Int × Met :=
  chunks.foldl (fun s c =>
    let (v, st) := saturate lo hi (s.1 + c)
    (v, { s.2 with sat := s.2.sat + if st then 1 else 0 })) (acc0, Met.none)

/-- The chunk sums of an INT8 element. -/
def Dev.int8Chunks (d : Dev) (p : PassDesc) (a b : OpRow) : List Int :=
  (List.range p.kChunks).map fun j =>
    let c := p.kStart + j
    (List.range (p.width c)).foldl (fun s i => s + codeInt 8 (d.opCode a (64 * c + i)) * codeInt 8 (d.opCode b (64 * c + i))) 0

/-- The chunk sums of one cell of a complex quad: part x of the activation with part y of the weight (R117). -/
def Dev.cplxChunks (d : Dev) (p : PassDesc) (a b : OpRow) (x y : Nat) : List Int :=
  (List.range p.kChunks).map fun j =>
    let c := p.kStart + j
    (List.range (p.width c)).foldl (fun s i =>
      let u := d.opCplx a (64 * c + i)
      let v := d.opCplx b (64 * c + i)
      s + (if x == 0 then u.1 else u.2) * (if y == 0 then v.1 else v.2)) 0

/-- The bounds of a complex cell (R94). -/
def c48lo : Int := -(2 ^ 47)
def c48hi : Int := 2 ^ 47 - 1

/-- An accumulator as its integer. -/
def accInt (v : BitVec 64) : Int := v.toInt

/-- The accumulators that a pass begins with (R129, R130, R134): zero, a preload, what is in the arrays, or a park record. -/
def Dev.initAcc (d : Dev) (p : PassDesc) (x : Ctx) (t k : Nat) (inArrays : SMap (BitVec 64)) (pr r c : Nat) : BitVec 64 :=
  let cell := cellOf p.mode pr r c
  if p.init == 2 then look 0#64 inArrays cell
  else if p.init == 1 then
    let v := leAt (d.bytes (x.at_ t k (p.cBase + pr * p.cdPair + r * p.cStride) + 4 * c) 4) 0 4
    if p.int8 then BitVec.ofInt 64 (codeInt 32 v) else BitVec.ofNat 64 v
  else if p.init == 3 then
    let at_ := x.at_ t k p.parkBase + 64
    if p.cplx then BitVec.ofNat 64 (ofLe (d.bytes (at_ + 8 * cell) 8))
    else
      let v := ofLe (d.bytes (at_ + 4 * cell) 4)
      if p.int8 then BitVec.ofInt 64 (codeInt 32 v) else BitVec.ofNat 64 v
  else 0#64

/-- The accumulators of a whole pass: listed for valid rows and columns, every other cell zero (R121). -/
def Dev.passAcc (d : Dev) (p : PassDesc) (x : Ctx) (t k : Nat) (inArrays : SMap (BitVec 64)) : SMap (BitVec 64) × Met :=
  let elems := p.pairs.flatMap fun pr => (List.range p.mValid).flatMap fun m => (List.range p.nValid).map fun n => (pr, m, n)
  elems.foldl (fun (s : SMap (BitVec 64) × Met) e =>
    let (pr, m, n) := e
    let a := p.rowA x t k pr m
    let b := p.rowB x t k pr n
    if p.cplx then
      [(0, 0), (0, 1), (1, 0), (1, 1)].foldl (fun (s : SMap (BitVec 64) × Met) q =>
        let i0 := accInt (d.initAcc p x t k inArrays pr (2 * m + q.1) (2 * n + q.2))
        let (v, mt) := intAccum c48lo c48hi (d.cplxChunks p a b q.1 q.2) i0
        (store 0#64 s.1 (cellOf p.mode pr (2 * m + q.1) (2 * n + q.2)) (BitVec.ofInt 64 v), s.2.join mt)) s
    else if p.int8 then
      let (v, mt) := intAccum (-(2 ^ 31)) (2 ^ 31 - 1) (d.int8Chunks p a b) (accInt (d.initAcc p x t k inArrays pr m n))
      (store 0#64 s.1 (cellOf p.mode pr m n) (BitVec.ofInt 64 v), s.2.join mt)
    else
      let i0 := (d.initAcc p x t k inArrays pr m n).toNat
      let loadBad := (p.init == 1 || p.init == 3) && (b32.decode i0).nonFinite
      let (v, mt) := d.floatElem p a b i0
      (store 0#64 s.1 (cellOf p.mode pr m n) (BitVec.ofNat 64 v), s.2.join { mt with input := mt.input || loadBad })) ([], Met.none)

/-- The cause of R109, by the first that applies. -/
def Met.cause (m : Met) : Nat := if m.scaleRange then 1 else if m.input then 2 else 3
/-- The causes as a number kept with accumulators that stay in the arrays, and back. -/
def Met.code (m : Met) : Nat := (if m.scaleRange then 1 else 0) + (if m.input then 2 else 0) + (if m.arith then 4 else 0)
def Met.ofCode (n : Nat) : Met := ⟨n % 2 == 1, n / 2 % 2 == 1, n / 4 % 2 == 1, 0, 0⟩

/-! ## Drain (R129) -/

/-- Stochastic rounding of element (i, j) at a drain (Table 19.3). -/
def drainRounding (c : KneadCore) (tileId i j : Nat) : Rounding :=
  let e := 256 * i + j
  let seed := fun n => c.seed.getD n 0#64
  let y := leavenNat (seed 2 ^^^ BitVec.ofNat 64 c.stream, seed 3) (BitVec.ofNat 64 (tileId * 2 ^ 48 + e / 8), c.step)
  .stochastic (y / 2 ^ (16 * (e % 8)) % 65536)

/-- The bytes of one drained element: converted to OUT_FMT, whether not finite, and how often it saturated. -/
def drainElem (c : KneadCore) (p : PassDesc) (acc : SMap (BitVec 64)) (pr m n : Nat) : Bytes × Bool × Nat :=
  if p.cplx then
    let cell := fun dr dc => accInt (look 0#64 acc (cellOf p.mode pr (2 * m + dr) (2 * n + dc)))
    let part := fun v =>
      let (w, s1) := saturate c48lo c48hi v
      let (z, s2) := saturate (-32768) 32767 (convergent w (15 + p.gain))
      (z, (if s1 then 1 else 0) + if s2 then 1 else 0)
    let re := part (cell 0 0 - cell 1 1)
    let im := part (cell 0 1 + cell 1 0)
    (leBytes 2 (intCode 16 re.1) ++ leBytes 2 (intCode 16 im.1), false, re.2 + im.2)
  else
    let v := look 0#64 acc (cellOf p.mode pr m n)
    if p.int8 then
      if p.outFmt == 3 then (leBytes 4 (intCode 32 (accInt v)), false, 0)
      else
        let (z, s) := requant (accInt v) p.rqMult p.rqShift p.rqZero
        (leBytes 1 (intCode 8 z), false, if s then 1 else 0)
    else
      let f := if p.outFmt == 0 then b32 else if p.outFmt == 1 then e8m7 else b16
      let rd := if p.sround then drainRounding c p.tileId m n else .rne
      let code := f.storeCode (f.encode rd (b32.decode v.toNat)).1
      (leBytes (outBytes p.outFmt) code, (f.decode code).nonFinite, 0)

/-- The drain of one pair's tile: rows to the bench, saturations counted, the first non-finite element captured. -/
def Dev.drainPair (t k : Nat) (c : KneadCore) (p : PassDesc) (acc : SMap (BitVec 64)) (met : Met) (d : Dev) (pr : Nat) : Dev :=
  let rows := (List.range p.mValid).map fun m => (m, (List.range p.nValid).map fun n => drainElem c p acc pr m n)
  let d := rows.foldl (fun (d : Dev) r =>
    d.write (c.ctx.at_ t k (p.dBase + pr * p.cdPair + r.1 * p.dStride)) (r.2.flatMap (·.1))) d
  let d := d.kCount t k .saturate ((rows.map fun r => (r.2.map (·.2.2)).sum).sum)
  match rows.findSome? fun r => ((r.2.findIdx? (·.2.1)).map fun j => (r.1, j)) with
  | none => d
  | some (i, j) => d.nonFinite t k ⟨met.cause, p.source pr i, p.tileId, i, j⟩

/-- One lane of an ELEM pass (R120): a × b + c rounded once to binary32, then converted. -/
def Dev.elemLane (d : Dev) (p : PassDesc) (x : Ctx) (t k i : Nat) : Bytes × Bool × Met :=
  let v := fun base fmt => d.opVal ⟨x.at_ t k base, 0, fmt⟩ i
  let a := v p.aBase p.fmtA
  let b := v p.bBase p.fmtB
  let c := if p.init == 1 then b32.decode (leAt (d.bytes (x.at_ t k p.cBase + 4 * i) 4) 0 4) else .fin false 0 0
  let r := b32.decode (b32.encode .rne (a.fma b c)).1
  let f := if p.outFmt == 0 then b32 else if p.outFmt == 1 then e8m7 else b16
  let rd := Rounding.rne
  let code := f.storeCode (f.encode rd r).1
  let bad := (f.decode code).nonFinite
  let inBad := a.nonFinite || b.nonFinite || c.nonFinite
  (leBytes (outBytes p.outFmt) code, bad, { Met.none with input := inBad, arith := bad && !inBad })

/-- An ELEM pass: every lane's result in memory order from D_BASE (R120, R108). -/
def Dev.elemPass (d : Dev) (t k : Nat) (c : KneadCore) (p : PassDesc) : Dev :=
  let ls := (List.range (256 * p.kChunks)).map fun i => d.elemLane p c.ctx t k i
  let met := ls.foldl (fun m l => m.join l.2.2) Met.none
  let d := d.write (c.ctx.at_ t k p.dBase) (ls.flatMap (·.1))
  match ls.findIdx? (·.2.1) with
  | none => d
  | some i => d.nonFinite t k ⟨met.cause, i % 256 / 64, p.tileId, i / 256, i % 256⟩

/-- A park record (Table 05.4). -/
def parkBytes (descId kpos mode fmtA fmtB tileId loaf slice : Nat) (acc : SMap (BitVec 64)) : Bytes :=
  leBytes 2 descId ++ leBytes 2 kpos ++ leBytes 1 mode ++ leBytes 1 (fmtA + 16 * fmtB) ++ leBytes 2 tileId ++ leBytes 4 loaf ++ leBytes 1 slice ++
  List.replicate 51 0#8 ++ (List.range 16384).flatMap fun i => leBytes (if fmtA == 9 then 8 else 4) (look 0#64 acc i).toNat
/-- The park record of a pass that ends PARK. -/
def parkRecord (c : KneadCore) (p : PassDesc) (loaf : Nat) (acc : SMap (BitVec 64)) : Bytes :=
  parkBytes p.descId (p.kStart + p.kChunks) p.mode p.fmtA p.fmtB p.tileId loaf c.ctx.slice acc
/-- The park record of a held pass (R133). -/
def HeldPass.record (h : HeldPass) (acc : SMap (BitVec 64)) : Bytes := parkBytes h.descId h.kpos h.mode h.fmtA h.fmtB h.tileId h.loaf h.slice acc
/-- The accumulators a park record holds, as the arrays keep them (R134). -/
def accOfRecord (fmtA : Nat) (l : Bytes) : SMap (BitVec 64) :=
  (List.range 16384).foldr (fun i m =>
    let v := if fmtA == 9 then BitVec.ofNat 64 (leAt l (64 + 8 * i) 8)
      else if fmtA == 8 then BitVec.ofInt 64 (codeInt 32 (leAt l (64 + 4 * i) 4)) else BitVec.ofNat 64 (leAt l (64 + 4 * i) 4)
    if v == 0#64 then m else (i, v) :: m) []

/-- The first bad line among the regions a pass reads, as a store line. -/
def Dev.passBad (d : Dev) (t k : Nat) (x : Ctx) (p : PassDesc) : Option Nat :=
  let reads := p.regions.filter fun r => !(p.fin == 0 && (p.pairs.any fun pr => r.1 == p.dBase + pr * p.cdPair))
  reads.findSome? fun r => d.firstBad (x.at_ t k r.1) (r.2 * 64)

/-- A pass enters the arrays: what is held there and not continued is discarded (Table 05.5), the state registers name the pass. -/
def Dev.passEnters (d : Dev) (t k : Nat) : Dev :=
  let c := d.kn t k
  match c.passQ with
  | [] => d
  | j :: q =>
    let p := j.desc
    let d := match c.held with
      | some h =>
        if h.chained || p.init == 2 then d
        else d.dropHeld t k (if h.slice == c.ctx.slice && h.ctxId == c.ctx.ctxId then 3 else 0)
      | none => d
    let d := d.modKn t k fun c => { c with passQ := q, passRun := c.passRun ++ [j] }
    let d := d.setF (Reg.KNEAD_CORE_STATUS t k) F.KNEAD_CORE_STATUS_PASS_Q q.length
    [0, 1, 2, 3].foldl (fun d a => d.setFs (Reg.KNEAD_ARRAY_STATE t k a)
      [(F.KNEAD_ARRAY_STATE_STATE, 1), (F.KNEAD_ARRAY_STATE_GANG, if p.mode == 2 then 1 else 0), (F.KNEAD_ARRAY_STATE_DESC_ID, p.descId),
       (F.KNEAD_ARRAY_STATE_KPOS, p.kStart), (F.KNEAD_ARRAY_STATE_TILE_ID, p.tileId), (F.KNEAD_ARRAY_STATE_SLICE, c.ctx.slice)]) d

/-- A signal of a core or one of its engines; its own counters are the 48 of its physical index (R155, Table 16.3). -/
def Dev.kSignal (d : Dev) (t k c n : Nat) : Dev :=
  d.unitSignal t c n (d.kn t k).ctx.slice (kneadUnit t k) (decide (48 * k ≤ c) && decide (c < 48 * k + 48))

/-- A pass ends by DRAIN, CHAIN, HOLD or PARK and signals its counter (R118, R129, R132, R134, R155). A bad operand line ends
the loaf as a fault (Table 18.1). -/
def Dev.passEnds (d : Dev) (t k : Nat) : Dev :=
  let c := d.kn t k
  match c.passRun with
  | [] => d
  | j :: q =>
    let p := j.desc
    match d.passBad t k c.ctx p with
    | some ln => (d.unresolved ln 0 0 c.ctx.slice).endLoaf t k 2 5
    | none =>
      let d1 :=
        if p.mode == 3 then d.elemPass t k c p else
        let (acc, m0) := d.passAcc p c.ctx t k c.acc
        let met := m0.join (match p.init, c.held with | 2, some h => Met.ofCode h.causes | _, _ => Met.none)
        let d := (d.kCount t k .underflow met.under).kCount t k .saturate met.sat
        let stay : HeldPass := ⟨p.descId, p.mode, p.fmtA, p.fmtB, p.kStart + p.kChunks, c.ctx.slice, c.ctx.ctxId, d.kLoaf t k, p.tileId, p.parkBase, met.code, p.fin == 1⟩
        if p.fin == 0 then ((p.pairs.foldl (Dev.drainPair t k c p acc met) d).modKn t k fun c => { c with acc := [], held := none })
        else if p.fin == 3 then (d.write (c.ctx.at_ t k p.parkBase) (parkRecord c p (d.kLoaf t k) acc)).modKn t k fun c => { c with acc := [], held := none }
        else d.modKn t k fun c => { c with acc := acc, held := some stay }
      let d1 := d1.modKn t k fun c => { c with passRun := q }
      let d1 := d1.count (Reg.KNEAD_PASS_COUNT t k) F.KNEAD_PASS_COUNT_COUNT 1
      let d1 := [0, 1, 2, 3].foldl (fun d a => d.setFs (Reg.KNEAD_ARRAY_STATE t k a)
        [(F.KNEAD_ARRAY_STATE_STATE, if p.fin == 2 then 3 else if q.isEmpty then 0 else 1), (F.KNEAD_ARRAY_STATE_KPOS, p.kStart + p.kChunks)]) d1
      match j.sig with
      | some cc => d1.kSignal t k cc 1
      | none => d1

end Sys2Proof.Machine
end

