-- ==== Sys2Proof/Machine/Vector.lean ====
section
/-! DEFINITION. Vector: how a Knead core's sequencer issues one instruction, and the meanings of its vector instructions
(opcodes 0x1C to 0x50 of Table 06.3, R150 to R152, R543). A command carries the fields of the word it issues (log entry 8);
the wrapper makes the checks of R158, waits as R147 says and moves the sequencer on. -/
namespace Sys2Proof.Machine

/-! ## Issue (R146, R147, R158) -/

/-- An opcode: its code, the fields it uses, whether D is a destination, its vector unit (0 load/store, 1 function, 2 ALU),
occupancy, latency, and whether it reads the SHAPE setting (Table 06.3, R147). -/
structure KOp where
  op : Nat
  use : KUse
  dst : Bool
  unit : Option Nat
  occ : Nat
  lat : Nat
  shaped : Bool
  deriving DecidableEq, Repr

/-- What came of an issue: a failed check of Table 06.7, no issue, or an instruction issued. -/
inductive Issued where
  | fail (r : Nat)
  | stay (d : Dev)
  | done (d : Dev)

/-- The key under which a register's ready time stands. -/
def FieldUse.key (u : FieldUse) (v : BitVec 5) : List Nat :=
  match u with | .x => [v.toNat] | .v => [32 + v.toNat] | .mk => [64 + v.toNat] | _ => []

/-- The registers an instruction reads. -/
def KOp.sources (o : KOp) (f : KFields) : List Nat :=
  (if o.dst then [] else o.use.d.key f.d) ++ o.use.a.key f.a ++ o.use.b.key f.b ++ o.use.c.key f.c ++
  (if o.use.m then [64 + f.m.toNat] else []) ++ (if o.shaped then [80] else [])

/-- The first local kc in which an instruction may issue: its slot, its sources, its unit (R147). -/
def KneadCore.issueAt (c : KneadCore) (o : KOp) (f : KFields) : Nat :=
  let unit := match o.unit with | some u => look 0 c.units u | none => 0
  (o.sources f).foldl (fun m r => max m (look 0 c.ready r)) (max c.nextAt unit)

/-- The index of the next instruction. -/
def Dev.kPc (d : Dev) (t k : Nat) : Nat := d.getF (Reg.KNEAD_CORE_STATUS t k) F.KNEAD_CORE_STATUS_PC
/-- The core's status fields. -/
def Dev.kState (d : Dev) (t k st : Nat) : Dev := d.setF (Reg.KNEAD_CORE_STATUS t k) F.KNEAD_CORE_STATUS_STATE st
/-- LOCAL follows the tile's local time (R147). -/
def Dev.kLocal (d : Dev) (t k : Nat) : Nat := (d.tile t).lk - (d.kn t k).start
def Dev.syncLocal (d : Dev) (t k : Nat) : Dev := d.setF (Reg.KNEAD_CORE_STATUS t k) F.KNEAD_CORE_STATUS_LOCAL (d.kLocal t k)

/-- A failed check of an instruction: capture, event 0x2040, the loaf ends and is not re-run (R158, R159). -/
def Dev.seqFail (d : Dev) (t k op r : Nat) : Dev :=
  let pc := d.kPc t k
  let sl := (d.kn t k).ctx.slice
  let d := d.capture (Reg.KNEAD_SEQ_ERROR t k) F.KNEAD_SEQ_ERROR_VALID F.KNEAD_SEQ_ERROR_MORE
    [(F.KNEAD_SEQ_ERROR_REASON, r), (F.KNEAD_SEQ_ERROR_PC, pc), (F.KNEAD_SEQ_ERROR_LOAF, d.kLoaf t k), (F.KNEAD_SEQ_ERROR_SLICE, sl)]
  (d.raise 0x2040 sl (kneadUnit t k) (d.kLoaf t k) (r + pc * 2 ^ 8 + op * 2 ^ 24)).endLoaf t k 1 r

/-- The instruction after a body's last: the body again while passes are left, else past it (R149). -/
def nextOf : List LoopFrame → Nat → Nat × List LoopFrame
  | [], i => (i + 1, [])
  | f :: r, i =>
    if i == f.last then (if f.left > 1 then (f.first, { f with left := f.left - 1 } :: r) else nextOf r i)
    else (i + 1, f :: r)

/-- The sequencer moves on from instruction i. A stream that runs past its last instruction without END fails reason 6;
no opcode fails there, so the OP byte of the event is a free value (log entry 3). -/
def Dev.kNextFrom (d : Dev) (t k i : Nat) : Dev :=
  let c := d.kn t k
  let (pc, loops) := nextOf c.loops i
  let d := d.modKn t k fun c => { c with loops := loops, waiting := false, nextAt := (d.tile t).lk + 1 }
  let d := d.setFs (Reg.KNEAD_CORE_STATUS t k) [(F.KNEAD_CORE_STATUS_STATE, 1), (F.KNEAD_CORE_STATUS_PC, pc)]
  match c.loaf with
  | none => d
  | some h => if pc < h.nInstr || c.ended then d else let (w, d) := d.fresh; d.seqFail t k (w.toNat % 256) 6
def Dev.kNext (d : Dev) (t k : Nat) : Dev := d.kNextFrom t k (d.kPc t k)

/-- Issue one instruction: with no loaf running, after END, while waiting or paused, nothing issues. `codes` is the check of
format codes (reason 1), `pre` that of reasons 4 to 6, `body` the effect in the kc of issue. -/
def Dev.kIssue (d : Dev) (t k : Nat) (o : KOp) (f : KFields) (codes : Bool) (pre : LoafHdr → Option Nat)
    (body : Dev → LoafHdr → Issued) : Dev :=
  let c := d.kn t k
  match c.loaf with
  | none => d
  | some h =>
    if c.ended || c.waiting || d.paused t then d else
    match (wordCheck o.use o.dst f codes).orElse (fun _ => pre h) with
    | some r => d.seqFail t k o.op r
    | none =>
      let d := (d.advance (c.issueAt o f - (d.tile t).lk)).syncLocal t k
      match body d h with
      | .fail r => d.seqFail t k o.op r
      | .stay d => d
      | .done d =>
        let at_ := (d.tile t).lk
        (d.modKn t k fun c => { c with
          units := (match o.unit with | some u => insertAt c.units u (at_ + o.occ) | none => c.units)
          ready := if o.dst then (o.use.d.key f.d).foldl (fun m r => insertAt m r (at_ + o.lat)) c.ready else c.ready }).kNext t k

/-- A vector instruction that only writes registers. -/
def Dev.kVec (d : Dev) (t k : Nat) (o : KOp) (f : KFields) (codes : Bool) (upd : KneadCore → KneadCore) : Dev :=
  d.kIssue t k o f codes (fun _ => none) fun d _ => .done (d.modKn t k upd)

/-! ## Opcode rows (Table 06.3) -/

def useV2 : KUse := ⟨.v, .v, .v, .none, true, 0⟩
def useV3 : KUse := ⟨.v, .v, .v, .v, true, 0⟩
def useV1 : KUse := ⟨.v, .v, .none, .none, true, 0⟩
def alu (op : Nat) (u : KUse) : KOp := ⟨op, u, true, some 2, 1, 4, false⟩
def fun_ (op : Nat) : KOp := ⟨op, useV1, true, some 1, 4, 16, false⟩

/-! ## Lanes -/

/-- A lane's pattern reads as a NaN or an infinity. -/
def laneBad (x : BitVec 32) : Bool := (laneVal x).nonFinite
/-- The mask of the lanes whose pattern is not finite. -/
def badLanes (l : List (BitVec 32)) : BitVec 256 := maskOf fun i => laneBad (lane l i)

/-- Write a vector result: a lane keeps the mark of an input from outside when it is not finite and one of the lanes that
entered it bore the mark (R109, log entry 9). -/
def KneadCore.put (c : KneadCore) (r : BitVec 5) (m : BitVec 3) (new : List (BitVec 32)) (entered : BitVec 256) : KneadCore :=
  c.wv r (c.rm m.toNat) new (badLanes new &&& entered)

/-- The marks of a register's lanes. -/
def KneadCore.marks (c : KneadCore) (r : BitVec 5) : BitVec 256 := look 0#256 c.vin r.toNat

/-- Lane-wise operations of two and one operands in binary32 (R150). -/
def map2 (g : Val → Val → Val) (a b : List (BitVec 32)) : List (BitVec 32) :=
  (List.range 256).map fun i => toLane (g (laneVal (lane a i)) (laneVal (lane b i)))
def KneadCore.vop2 (c : KneadCore) (f : KFields) (g : Val → Val → Val) : KneadCore :=
  c.put f.d f.m (map2 g (c.rv f.a) (c.rv f.b)) (c.marks f.a ||| c.marks f.b)
def KneadCore.vop1 (c : KneadCore) (f : KFields) (g : BitVec 32 → BitVec 32) : KneadCore :=
  c.put f.d f.m ((c.rv f.a).map g) (c.marks f.a)

/-! ## Arithmetic (0x30 to 0x3B) -/

def vaddEffect (t k : Nat) (f : KFields) (d : Dev) : Dev := d.kVec t k (alu 0x30 useV2) f true fun c => c.vop2 f Val.add
def vsubEffect (t k : Nat) (f : KFields) (d : Dev) : Dev := d.kVec t k (alu 0x31 useV2) f true fun c => c.vop2 f fun a b => a.add b.neg
def vmulEffect (t k : Nat) (f : KFields) (d : Dev) : Dev := d.kVec t k (alu 0x32 useV2) f true fun c => c.vop2 f Val.mul
/-- One rounding for the whole of a × b + c (R150). -/
def vfmaEffect (t k : Nat) (f : KFields) (d : Dev) : Dev :=
  d.kVec t k (alu 0x33 useV3) f true fun c =>
    c.put f.d f.m ((List.range 256).map fun i =>
      toLane ((laneVal (lane (c.rv f.a) i)).fma (laneVal (lane (c.rv f.b) i)) (laneVal (lane (c.rv f.c) i))))
      (c.marks f.a ||| c.marks f.b ||| c.marks f.c)
def vmaxEffect (t k : Nat) (f : KFields) (d : Dev) : Dev := d.kVec t k (alu 0x34 useV2) f true fun c => c.vop2 f Val.max
def vminEffect (t k : Nat) (f : KFields) (d : Dev) : Dev := d.kVec t k (alu 0x35 useV2) f true fun c => c.vop2 f Val.min
/-- Mask bits of the enabled lanes; a NaN compares false (R88, R107, log entry 9). -/
def vcmpltEffect (t k : Nat) (f : KFields) (d : Dev) : Dev :=
  d.kVec t k (alu 0x36 ⟨.mk, .v, .v, .none, true, 0⟩) f true fun c =>
    c.wm f.d.toNat (c.rm f.m.toNat) (maskOf fun i => (laneVal (lane (c.rv f.a) i)).lt (laneVal (lane (c.rv f.b) i)))
/-- Bits are copied as they stand. -/
def vselEffect (t k : Nat) (f : KFields) (d : Dev) : Dev :=
  d.kVec t k (alu 0x37 ⟨.v, .v, .v, .mk, true, 0⟩) f true fun c =>
    let sel := c.rm f.c.toNat
    c.put f.d f.m ((List.range 256).map fun i => if sel.getLsbD i then lane (c.rv f.a) i else lane (c.rv f.b) i)
      ((c.marks f.a &&& sel) ||| (c.marks f.b &&& ~~~sel))
def vimmEffect (t k : Nat) (f : KFields) (d : Dev) : Dev :=
  d.kVec t k (alu 0x38 ⟨.v, .none, .none, .none, true, immAll⟩) f true fun c =>
    c.put f.d f.m (List.replicate 256 f.imm) (BitVec.allOnes 256)
def viaddEffect (t k : Nat) (f : KFields) (d : Dev) : Dev :=
  d.kVec t k (alu 0x39 useV2) f true fun c =>
    c.put f.d f.m ((List.range 256).map fun i => lane (c.rv f.a) i + lane (c.rv f.b) i) (BitVec.allOnes 256)

/-- One lane of VCVT (R543, Table 04.4): the new lane and whether it saturated. -/
def cvtLane (b c : Nat) (x : BitVec 32) : BitVec 32 × Bool :=
  if (b == 2 && c == 2) || (b == 4 && c == 4) then (x, false) else
  let v := if b ≤ 2 then laneVal x else intVal x.toInt
  match c with
  | 0 => (toLane (e8m7.decode (e8m7.encode .rne v).1), false)
  | 1 => (toLane (b16.decode (b16.encode .rne v).1), false)
  | 2 => (toLane v, false)
  | 3 => let r := v.toInt (-128) 127; (BitVec.ofInt 32 r.1, r.2)
  | _ => let r := v.toInt (-(2 ^ 31)) (2 ^ 31 - 1); (BitVec.ofInt 32 r.1, r.2)

/-- VCVT: format codes 0 to 4; saturations of the enabled lanes are counted. -/
def vcvtEffect (t k : Nat) (f : KFields) (d : Dev) : Dev :=
  d.kIssue t k (alu 0x3A ⟨.v, .v, .code, .code, true, 0⟩) f (decide (f.b.toNat ≤ 4) && decide (f.c.toNat ≤ 4)) (fun _ => none) fun d _ =>
    let c := d.kn t k
    let rs := (c.rv f.a).map (cvtLane f.b.toNat f.c.toNat)
    let mk := c.rm f.m.toNat
    let sat := (List.range 256).countP fun i => mk.getLsbD i && (rs.getD i (0#32, false)).2
    let entered := if f.b.toNat ≤ 2 then c.marks f.a else 0#256
    let c' := if f.c.toNat ≤ 2 then c.put f.d f.m (rs.map (·.1)) entered else c.wv f.d mk (rs.map (·.1)) 0#256
    .done ((d.setKn t k c').kCount t k .saturate sat)

/-- VROPE: each result rounded once; the odd lanes of B and C are ignored (R152). -/
def vropeEffect (t k : Nat) (f : KFields) (d : Dev) : Dev :=
  d.kVec t k (alu 0x3B useV3) f true fun c =>
    let a := c.rv f.a
    let at_ := fun (l : List (BitVec 32)) i => laneVal (lane l i)
    let new := (List.range 256).map fun i =>
      let e := i / 2 * 2
      let b := at_ (c.rv f.b) e
      let s := at_ (c.rv f.c) e
      if i % 2 == 0 then toLane (((at_ a e).mul b).add ((at_ a (e + 1)).mul s).neg)
      else toLane (((at_ a e).mul s).add ((at_ a (e + 1)).mul b))
    let bc := c.marks f.b ||| c.marks f.c
    let entered := maskOf fun i => let e := i / 2 * 2
      (c.marks f.a).getLsbD e || (c.marks f.a).getLsbD (e + 1) || bc.getLsbD e
    c.put f.d f.m new entered

/-! ## Function unit (R151, Table 06.4) -/

def vexp2Effect (t k : Nat) (f : KFields) (d : Dev) : Dev := d.kVec t k (fun_ 0x40) f true fun c => c.vop1 f exp2_32
def vrecipEffect (t k : Nat) (f : KFields) (d : Dev) : Dev := d.kVec t k (fun_ 0x41) f true fun c => c.vop1 f recip32
def vrsqrtEffect (t k : Nat) (f : KFields) (d : Dev) : Dev := d.kVec t k (fun_ 0x42) f true fun c => c.vop1 f rsqrt32

/-! ## Reductions (R152) -/

/-- Lanes per row of a width code. -/
def widthOf (code : Nat) : Nat := 256 / 2 ^ code

/-- A segmented reduction by the fixed tree; every lane of a segment gets its result. -/
def KneadCore.reduce (c : KneadCore) (f : KFields) (g : Val → Val → Val) : KneadCore :=
  let w := widthOf (f.imm.toNat % 4)
  let a := c.rv f.a
  let segs := (List.range (256 / w)).map fun s =>
    (toLane ((pairTree g (Nat.log2 w) ((List.range w).map fun i => laneVal (lane a (s * w + i)))).headD .nan),
     (List.range w).any fun i => (c.marks f.a).getLsbD (s * w + i))
  c.put f.d f.m ((List.range 256).map fun i => (segs.getD (i / w) (0#32, false)).1)
    (maskOf fun i => (segs.getD (i / w) (0#32, false)).2)

def reduceOp (op : Nat) : KOp := ⟨op, ⟨.v, .v, .none, .none, true, 3⟩, true, some 2, 1, 12, false⟩
def vrsumEffect (t k : Nat) (f : KFields) (d : Dev) : Dev :=
  d.kVec t k (reduceOp 0x48) f true fun c => c.reduce f fun a b => round32 (a.add b)
def vrmaxEffect (t k : Nat) (f : KFields) (d : Dev) : Dev := d.kVec t k (reduceOp 0x49) f true fun c => c.reduce f Val.max

/-- VRAND: 32 bits of Leaven for each lane from the counter base in X[A] (R152, R455, Table 19.3). -/
def vrandLane (c : KneadCore) (xa : BitVec 64) (l : Nat) : BitVec 32 :=
  let y := leavenNat (c.seed.getD 0 0#64 ^^^ BitVec.ofNat 64 c.stream, c.seed.getD 1 0#64)
    (xa * 64#64 + BitVec.ofNat 64 (l / 4), c.step)
  BitVec.ofNat 32 (y / 2 ^ (32 * (l % 4)))
def vrandEffect (t k : Nat) (f : KFields) (d : Dev) : Dev :=
  d.kVec t k ⟨0x50, ⟨.v, .x, .none, .none, true, 0⟩, true, some 2, 2, 12, false⟩ f true fun c =>
    c.put f.d f.m ((List.range 256).map (vrandLane c (c.rx f.a))) (BitVec.allOnes 256)

/-! ## SHAPE, loads and stores (R543, R150) -/

/-- SHAPE: row width code and the two row strides; its setting is ready a kc later. -/
def shapeEffect (t k : Nat) (f : KFields) (d : Dev) : Dev :=
  d.kIssue t k ⟨0x1C, ⟨.none, .x, .x, .none, false, 3⟩, true, none, 1, 1, false⟩ f true (fun _ => none) fun d _ =>
    .done (d.modKn t k fun c => { c with
      shapeW := f.imm.toNat % 4, shapeE := c.rx f.a, shapeS := c.rx f.b
      ready := insertAt c.ready 80 ((d.tile t).lk + 1) })

/-- Bytes of one element of a format code 0 to 4. -/
def fmtBytes (c : Nat) : Nat := if c ≤ 1 then 2 else if c == 3 then 1 else 4

/-- The first line of each row of a vector and the lines the row reaches: row k lies k strides on (R543). -/
def rowsAt (base : BitVec 64) (stride : BitVec 64) (n : Nat) : List Nat :=
  (List.range n).map fun r => (base + BitVec.ofNat 64 r * stride).toNat
/-- Lines that `bytes` bytes from byte `o` of a line reach. -/
def lineSpan (o bytes : Nat) : Nat := (o + bytes + 63) / 64

/-- The rows of the SHAPE setting. -/
def KneadCore.rows (c : KneadCore) : Nat := 256 / widthOf c.shapeW

/-- The first bad line that a list of (line, lines) relative to a context covers. -/
def Dev.badIn (d : Dev) (x : Ctx) (t k : Nat) (l : List (Nat × Nat)) : Option Nat :=
  l.findSome? fun r => d.firstBad (x.at_ t k r.1) (64 * r.2)

/-- One lane as loaded (R543, R89). -/
def loadLane (fmt code : Nat) : BitVec 32 :=
  match fmt with
  | 0 => toLane (e8m7.decode code)
  | 1 => toLane (b16.decode code)
  | 2 => toLane (b32.decode code)
  | 3 => BitVec.ofInt 32 (codeInt 8 code)
  | _ => BitVec.ofNat 32 code

/-- VLD: 256 values under SHAPE, converted exactly. A line outside the context fails reason 3; a line that stays bad ends the
loaf as a fault (Table 18.1). A lane of the enabled mask is marked when it loads a value that is not finite. -/
def vldEffect (t k : Nat) (f : KFields) (d : Dev) : Dev :=
  d.kIssue t k ⟨0x20, ⟨.v, .x, .none, .code, true, immAll⟩, true, some 0, 2, 8, true⟩ f (decide (f.c.toNat ≤ 4)) (fun _ => none) fun d _ =>
    let c := d.kn t k
    let eb := fmtBytes f.c.toNat
    let w := widthOf c.shapeW
    let rows := rowsAt (c.rx f.a + f.imm.setWidth 64) c.shapeE c.rows
    let spans := rows.map fun r => (r, lineSpan 0 (w * eb))
    if !(spans.all fun s => c.ctx.holds s.1 s.2) then .fail 3 else
    match d.badIn c.ctx t k spans with
    | some ln => .stay ((d.unresolved ln 0 0 c.ctx.slice).endLoaf t k 2 5)
    | none =>
      let new := (List.range 256).map fun i =>
        loadLane f.c.toNat (ofLe (d.bytes (c.ctx.at_ t k (rows.getD (i / w) 0) + eb * (i % w)) eb))
      let marks := if f.c.toNat ≤ 2 then BitVec.allOnes 256 else 0#256
      .done (d.setKn t k (c.put f.d f.m new marks))

/-- One lane as stored: its code, whether that is not finite, whether it saturated (R543, R106). -/
def storeLane (fmt : Nat) (x : BitVec 32) : Nat × Bool × Bool :=
  match fmt with
  | 0 => let z := e8m7.storeCode (e8m7.encode .rne (laneVal x)).1; (z, (e8m7.decode z).nonFinite, false)
  | 1 => let z := b16.storeCode (b16.encode .rne (laneVal x)).1; (z, (b16.decode z).nonFinite, false)
  | 2 => let z := b32.storeCode (b32.encode .rne (laneVal x)).1; (z, (b32.decode z).nonFinite, false)
  | 3 => let r := saturate (-128) 127 x.toInt; (intCode 8 r.1, false, r.2)
  | _ => (x.toNat, false, false)

/-- The store instruction names no tile identifier, so the one R108 records is a free value (log entry 10). -/
def Dev.storeNonFinite (d : Dev) (t k cause row col : Nat) : Dev :=
  let (w, d) := d.fresh
  d.nonFinite t k ⟨cause, 5, w.toNat % 65536, row, col⟩

/-- The stores of a core are complete 16 kc after its last (Table 06.3, R157). -/
def Dev.noteStore (d : Dev) (t k : Nat) : Dev := d.modKn t k fun c => { c with stored := (d.tile t).lk + 16 }

/-- VST: V[A] in format C under SHAPE; masked-off lanes are stored as zero; an output tile with SOURCE 5 (R150, R108). -/
def vstEffect (t k : Nat) (f : KFields) (d : Dev) : Dev :=
  d.kIssue t k ⟨0x21, ⟨.none, .v, .x, .code, true, immAll⟩, true, some 0, 2, 16, true⟩ f (decide (f.c.toNat ≤ 4)) (fun _ => none) fun d _ =>
    let c := d.kn t k
    let eb := fmtBytes f.c.toNat
    let w := widthOf c.shapeW
    let rows := rowsAt (c.rx f.b + f.imm.setWidth 64) c.shapeE c.rows
    if !(rows.all fun r => c.ctx.holds r (lineSpan 0 (w * eb))) then .fail 3 else
    let mk := c.rm f.m.toNat
    let ls := (List.range 256).map fun i => if mk.getLsbD i then storeLane f.c.toNat (lane (c.rv f.a) i) else (0, false, false)
    let d := (rows.zipIdx).foldl (fun (d : Dev) r =>
      d.write (c.ctx.at_ t k r.1) (((ls.drop (r.2 * w)).take w).flatMap fun z => leBytes eb z.1)) d
    let d := (d.kCount t k .saturate (ls.countP (·.2.2))).noteStore t k
    match ls.findIdx? (·.2.1) with
    | none => .done d
    | some i =>
      let inp := (List.range 256).any fun j => (ls.getD j (0, false, false)).2.1 && (c.marks f.a).getLsbD j
      .done (d.storeNonFinite t k (if inp then 2 else 3) (i / w) (i % w))

/-- Element codes packed from the lowest bit up (R92). -/
def packCodes (bits : Nat) (l : List Nat) : Bytes :=
  let n := l.zipIdx.foldl (fun s c => s + c.1 * 2 ^ (bits * c.2)) 0
  leBytes ((bits * l.length + 7) / 8) n

/-- VQST: 8 MX blocks and their scales under SHAPE (R98 to R101, R150, R543). -/
def vqstEffect (t k : Nat) (f : KFields) (d : Dev) : Dev :=
  d.kIssue t k ⟨0x22, ⟨.x, .v, .x, .code, true, immAll⟩, false, some 0, 2, 16, true⟩ f ((opMx f.c.toNat).isSome) (fun _ => none) fun d _ =>
    let c := d.kn t k
    match opMx f.c.toNat with
    | none => .fail 1
    | some x =>
      let w := widthOf c.shapeW
      let so := f.imm.toNat / 65536
      let rows := rowsAt (c.rx f.b + BitVec.ofNat 64 (f.imm.toNat % 65536)) c.shapeE c.rows
      let srows := rowsAt (c.rx f.d) c.shapeS c.rows
      if !(rows.all fun r => c.ctx.holds r (lineSpan 0 (w * x.bits / 8))) ||
         !(srows.all fun r => c.ctx.holds (r + so / 64) (lineSpan (so % 64) (w / 32))) then .fail 3 else
      let mk := c.rm f.m.toNat
      let vs := (List.range 256).map fun i => if mk.getLsbD i then laneVal (lane (c.rv f.a) i) else Val.fin false 0 0
      let bs := (List.range 8).map fun b => quantise x (fun _ => .rne) ((vs.drop (32 * b)).take 32)
      let per := w / 32
      let d := rows.zipIdx.foldl (fun (d : Dev) r =>
        d.write (c.ctx.at_ t k r.1) (packCodes x.bits (((bs.drop (r.2 * per)).take per).flatMap (·.codes)))) d
      let d := srows.zipIdx.foldl (fun (d : Dev) r =>
        d.write (c.ctx.at_ t k r.1 + so) (((bs.drop (r.2 * per)).take per).map fun b => BitVec.ofNat 8 b.scale)) d
      let d := (d.kCount t k .saturate ((bs.map (·.sat)).sum)).kCount t k .vanished ((bs.map (·.van)).sum)
      let d := d.noteStore t k
      match bs.findIdx? (·.scale == 0xFF) with
      | none => .done d
      | some b =>
        let inp := (List.range 256).any fun j =>
          (bs.getD (j / 32) ⟨0, [], 0, 0⟩).scale == 0xFF && mk.getLsbD j && (vs.getD j .nan).nonFinite && (c.marks f.a).getLsbD j
        .done (d.storeNonFinite t k (if inp then 2 else 3) (32 * b / w) (32 * b % w))

/-! ## Meanings -/

def execShape (t : Tile) (k : KCore) (f : KFields) (s : State) : Host.Outcome State Fault Refusal := ran s (shapeEffect t k f)
def execVld (t : Tile) (k : KCore) (f : KFields) (s : State) : Host.Outcome State Fault Refusal := ran s (vldEffect t k f)
def execVst (t : Tile) (k : KCore) (f : KFields) (s : State) : Host.Outcome State Fault Refusal := ran s (vstEffect t k f)
def execVqst (t : Tile) (k : KCore) (f : KFields) (s : State) : Host.Outcome State Fault Refusal := ran s (vqstEffect t k f)
def execVadd (t : Tile) (k : KCore) (f : KFields) (s : State) : Host.Outcome State Fault Refusal := ran s (vaddEffect t k f)
def execVsub (t : Tile) (k : KCore) (f : KFields) (s : State) : Host.Outcome State Fault Refusal := ran s (vsubEffect t k f)
def execVmul (t : Tile) (k : KCore) (f : KFields) (s : State) : Host.Outcome State Fault Refusal := ran s (vmulEffect t k f)
def execVfma (t : Tile) (k : KCore) (f : KFields) (s : State) : Host.Outcome State Fault Refusal := ran s (vfmaEffect t k f)
def execVmax (t : Tile) (k : KCore) (f : KFields) (s : State) : Host.Outcome State Fault Refusal := ran s (vmaxEffect t k f)
def execVmin (t : Tile) (k : KCore) (f : KFields) (s : State) : Host.Outcome State Fault Refusal := ran s (vminEffect t k f)
def execVcmplt (t : Tile) (k : KCore) (f : KFields) (s : State) : Host.Outcome State Fault Refusal := ran s (vcmpltEffect t k f)
def execVsel (t : Tile) (k : KCore) (f : KFields) (s : State) : Host.Outcome State Fault Refusal := ran s (vselEffect t k f)
def execVimm (t : Tile) (k : KCore) (f : KFields) (s : State) : Host.Outcome State Fault Refusal := ran s (vimmEffect t k f)
def execViadd (t : Tile) (k : KCore) (f : KFields) (s : State) : Host.Outcome State Fault Refusal := ran s (viaddEffect t k f)
def execVcvt (t : Tile) (k : KCore) (f : KFields) (s : State) : Host.Outcome State Fault Refusal := ran s (vcvtEffect t k f)
def execVrope (t : Tile) (k : KCore) (f : KFields) (s : State) : Host.Outcome State Fault Refusal := ran s (vropeEffect t k f)
def execVexp2 (t : Tile) (k : KCore) (f : KFields) (s : State) : Host.Outcome State Fault Refusal := ran s (vexp2Effect t k f)
def execVrecip (t : Tile) (k : KCore) (f : KFields) (s : State) : Host.Outcome State Fault Refusal := ran s (vrecipEffect t k f)
def execVrsqrt (t : Tile) (k : KCore) (f : KFields) (s : State) : Host.Outcome State Fault Refusal := ran s (vrsqrtEffect t k f)
def execVrsum (t : Tile) (k : KCore) (f : KFields) (s : State) : Host.Outcome State Fault Refusal := ran s (vrsumEffect t k f)
def execVrmax (t : Tile) (k : KCore) (f : KFields) (s : State) : Host.Outcome State Fault Refusal := ran s (vrmaxEffect t k f)
def execVrand (t : Tile) (k : KCore) (f : KFields) (s : State) : Host.Outcome State Fault Refusal := ran s (vrandEffect t k f)

end Sys2Proof.Machine
end

