-- ==== Sys2Proof/Machine/Windows.lean ====
section
/-! DEFINITION. Windows: the window map of a unit, read from the map store and the selectors of the TICK block (R37 to R42),
and the window that a local position lies in, with the trim in force (R48). -/
namespace Sys2Proof.Machine

/-- A window: kind, job, first and last offset. Kind 6 is the span of a radio window released by trimming (R48). -/
structure Win where
  kind : Nat
  sub : Nat
  start : Nat
  stop : Nat
  deriving DecidableEq, Repr

/-- Entry e of map m of a tile (Table 02.11). -/
def Dev.mapEntry (d : Dev) (t m e : Nat) : Nat :=
  d.getF (Reg.TICK_MAP t (8 * m + e / 2)) (if e % 2 == 0 then F.TICK_MAP_ENTRY0 else F.TICK_MAP_ENTRY1)

/-- The map a unit selects, none for 0xFF (R39); the disabled spare core's is SPARE_MAP (R440). -/
def Dev.mapOf (d : Dev) (t : Nat) (unit : Nat) : Option Nat :=
  let spare := unit / 0x100 == 1 && !d.getB (Reg.KNEAD_CORE_CFG t (unit % 0x100)) F.KNEAD_CORE_CFG_ENABLED
  let s := if spare then (if d.section_ secIntegrity t == [] then 0xFF else leAt (d.section_ secIntegrity t) 65 1) else d.getF (Reg.TICK_SEL t (unit / 8)) ⟨8 * (unit % 8), 8⟩
  if s < 64 then some s else none

/-- The entries of a map up to its end of list. -/
def Dev.mapEntries (d : Dev) (t m : Nat) : List Nat := ((List.range 16).map (d.mapEntry t m)).takeWhile fun e => e / 2 ^ 29 != 0

/-- The windows of a list of entries in a tick of `len` kc. -/
def windowsOf (len : Nat) : List Nat → List Win
  | [] => []
  | e :: r =>
    let stop := match r with | [] => len | n :: _ => n % 2 ^ 21
    ⟨e / 2 ^ 29, e / 2 ^ 26 % 8, e % 2 ^ 21, stop⟩ :: windowsOf len r

/-- The mapped windows of a map. -/
def Dev.mapWindows (d : Dev) (t m : Nat) : List Win := windowsOf d.tickLen (d.mapEntries t m)

/-- The windows of a map in force: a trimmable radio window ends at LEN_ACTIVE, and its rest is released (R48). -/
def Dev.liveWindows (d : Dev) (t m : Nat) : List Win :=
  (d.mapWindows t m).flatMap fun w =>
    if w.kind == 1 && w.sub == 1 then
      let e := min w.stop (w.start + d.getF (Reg.TICK_TRIM t m) F.TICK_TRIM_LEN_ACTIVE)
      [{ w with stop := e }, ⟨6, 0, e, w.stop⟩]
    else [w]

/-- The window of a unit at a local position. -/
def Dev.windowAt (d : Dev) (t unit pos : Nat) : Option Win :=
  match d.mapOf t unit with
  | none => none
  | some m => (d.liveWindows t m).find? fun w => decide (w.start ≤ pos) && decide (pos < w.stop)

/-- A loaf of a kind may run in a window (R40, R41, R43): radio loaves in radio windows, inference loaves in inference windows
and released spans, proving runs in their background windows, steward service in the boundary window. Under the fallback
plan every inference window is idle (R47). -/
def kindFits (fallback : Bool) (kind : Nat) (w : Win) : Bool :=
  match kind with
  | 0 => !fallback && (w.kind == 2 || w.kind == 6)
  | 1 => w.kind == 1
  | 2 => w.kind == 3 && w.sub == 3
  | 3 => w.kind == 4
  | _ => false

/-- The unit is fenced (R443, R444). -/
def Dev.fenced (d : Dev) (t unit : Nat) : Bool :=
  let i := unit % 0x100
  let bit := fun (f : Fld) (n : Nat) => d.getF (Reg.INTEG_FENCE t) f / 2 ^ n % 2 == 1
  match unit / 0x100 with
  | 1 => bit F.INTEG_FENCE_KNEAD i
  | 3 => d.getF (Reg.INTEG_FENCE_SIEVE t) F.INTEG_FENCE_SIEVE_SIEVE / 2 ^ i % 2 == 1
  | 4 => bit F.INTEG_FENCE_SIGNAL i
  | 5 => bit F.INTEG_FENCE_CODEC i
  | 6 => bit F.INTEG_FENCE_CODEC (4 + i)
  | 7 => bit F.INTEG_FENCE_CODEC 6
  | 8 => bit F.INTEG_FENCE_CODEC 7
  | _ => false

/-- A proving run starts on its unit: its record keeps the temperatures (Table 18.3). -/
def Dev.proveStart (d : Dev) (t unit kind : Nat) : Dev :=
  if kind != 2 then d else
  let now := (d.getF (Reg.PWR_TEMP t) F.PWR_TEMP_LOGIC, d.getF (Reg.PWR_TEMP t) F.PWR_TEMP_DRAM_MAX)
  { d with integ := { d.integ with runs := d.integ.runs.map fun r =>
    if r.tile == t && r.unit == unit && r.tick == (d.tile t).workTick && r.temps.isNone then { r with temps := some now } else r } }

/-- PARTITION enables the unit: signal cores by SIGNAL_EN, codec engines by CODEC_EN (Table 03.4). -/
def Dev.unitOn (d : Dev) (t unit : Nat) : Bool :=
  let p := d.section_ secPartition t
  let i := unit % 0x100
  match unit / 0x100 with
  | 4 => leAt p 4 1 / 2 ^ i % 2 == 1
  | 5 => leAt p 5 1 / 2 ^ i % 2 == 1
  | 6 => leAt p 5 1 / 2 ^ (4 + i) % 2 == 1
  | 7 => leAt p 5 1 / 64 % 2 == 1
  | 8 => leAt p 5 1 / 128 % 2 == 1
  | _ => true
/-- The space left for a loaf of a kind on a unit now: 0 outside its windows or with no recipe in force. -/
def Dev.spaceFor (d : Dev) (t unit kind : Nat) : Nat :=
  let x := d.tile t
  if d.fenced t unit || !d.unitOn t unit || d.sp.quiet.contains t || !d.getB Reg.RECIPE_STATUS F.RECIPE_STATUS_ACTIVE then 0 else
  match d.windowAt t unit x.pos with
  | some w => if kindFits x.fallback kind w then w.stop - x.pos else 0
  | none => 0

/-- The background windows of a job-free list of units, as spans of local position. -/
def Dev.backgroundSpans (d : Dev) (t : Nat) (units : List Nat) : List (Nat × Nat) :=
  units.flatMap fun u => match d.mapOf t u with
    | none => []
    | some m => ((d.mapWindows t m).filter (·.kind == 3)).map fun w => (w.start, w.stop)

/-- Work of `left` kc from position p that stops inside every span: where it ends (R154). Fuel bounds the spans crossed. -/
def pauseEnd (spans : List (Nat × Nat)) : Nat → Nat → Nat → Nat
  | 0, p, left => p + left
  | k + 1, p, left =>
    match spans.find? fun s => decide (s.1 ≤ p) && decide (p < s.2) with
    | some s => pauseEnd spans k s.2 left
    | none =>
      match (spans.filter fun s => decide (p < s.1) && decide (s.1 < s.2)).foldl (fun m s => min m s.1) (p + left) with
      | n => if n < p + left then pauseEnd spans k n (left - (n - p)) else p + left

end Sys2Proof.Machine
end

