-- ==== Sys2Proof/Machine/Knead.lean ====
section
/-! DEFINITION. Knead: loaves on a Knead core: their start and completion, the control instructions of the sequencer, the pass
queue, the DMA engine, and the steward's context and replay registers (chapters 05, 06 and 19). -/
namespace Sys2Proof.Machine

/-! ## Start and completion (R140, R141, R146, R157) -/

/-- A loaf starts in the context its registers name; when the tile's plan has a step for the core, that step's lane (R221). A loaf that its window has no room for is refused with event 0x1005
(R42); a header line that stays bad ends it as a fault. Every register of the core starts at zero. -/
def kneadLoafStartEffect (t k : Nat) (d0 : Dev) : Dev :=
  let d := if (d0.kn t k).loaf.isSome then d0 else d0.placeLoaf t (0x100 + k)
  let c := d.kn t k
  let x := d.kneadCtx t k
  if c.loaf.isSome || d.paused t || x.hi ≤ x.lo then d else
  let place := x.at_ t k 0
  let h := loafHdr (d.bytes place 64)
  if (d.logicalOf t k).isNone && h.kind != 2 then d else
  match d.firstBad place 64 with
  | some ln => (d.unresolved ln 0 0 x.slice).loafDone t ⟨BitVec.ofNat 13 (0x100 + k), h.id, x.slice, x.ctxId, 2, 5⟩
  | none =>
    let room := d.spaceFor t (0x100 + k) h.kind
    if room < h.length || h.length == 0 then
      d.raise 0x1005 x.slice (stewardOf t) h.id (h.length + room * 2 ^ 32)
    else
      let lk := (d.tile t).lk
      let d := d.setKn t k { KneadCore.init with
        loaf := some h, ctx := x, step := d.reg (Reg.KNEAD_STEP t k), seed := (List.range 4).map fun w => d.reg (Reg.KNEAD_SEED t k w),
        stream := d.getF (Reg.KNEAD_STREAM t k) F.KNEAD_STREAM_STREAM, held := c.held, acc := c.acc, start := lk, nextAt := lk, stored := lk }
      let d := (d.proveStart t (0x100 + k) h.kind).setF (Reg.KNEAD_LOAF t k) F.KNEAD_LOAF_LOAF h.id
      let d := d.setFs (Reg.KNEAD_CORE_STATUS t k) [(F.KNEAD_CORE_STATUS_STATE, 1), (F.KNEAD_CORE_STATUS_PC, 0), (F.KNEAD_CORE_STATUS_LOCAL, 0),
        (F.KNEAD_CORE_STATUS_PASS_Q, 0), (F.KNEAD_CORE_STATUS_DMA_Q, 0)]
      if h.nInstr == 0 then let (w, d) := d.fresh; d.seqFail t k (w.toNat % 256) 6 else d
def execKneadLoafStart (t : Tile) (k : KCore) (s : State) : Host.Outcome State Fault Refusal := ran s (kneadLoafStartEffect t k)

/-- A loaf that has issued END and whose passes, descriptors and stores are done is complete (R157). -/
def kneadLoafCompleteEffect (t k : Nat) (d : Dev) : Dev :=
  let c := d.kn t k
  match c.loaf with
  | none => d
  | some h =>
    if !c.ended || !c.passQ.isEmpty || !c.passRun.isEmpty || !c.dmaQ.isEmpty || c.dmaRun.isSome || d.paused t then d else
    let d := (d.advance (c.stored - (d.tile t).lk)).syncLocal t k
    let d := d.modKn t k fun c => { c with loaf := none, lastPass := none, loops := [], ended := false, waiting := false, nonfinRaised := false }
    let d := d.kState t k 0
    let d := d.setArrays t k (if c.held.isSome then 3 else 0)
    let d := d.count (Reg.KNEAD_LOAF_COUNT t k) F.KNEAD_LOAF_COUNT_COUNT 1
    d.loafDone t ⟨BitVec.ofNat 13 (0x100 + k), h.id, c.ctx.slice, c.ctx.ctxId, 0, 0⟩
def execKneadLoafComplete (t : Tile) (k : KCore) (s : State) : Host.Outcome State Fault Refusal := ran s (kneadLoafCompleteEffect t k)

/-! ## Control instructions (Table 06.3) -/

/-- A control instruction: one issue slot, no unit. -/
def ctl (op : Nat) (d a b : FieldUse) (imm : Nat) : KOp := ⟨op, ⟨d, a, b, .none, false, imm⟩, true, none, 1, 1, false⟩

def nopEffect (t k : Nat) (f : KFields) (d : Dev) : Dev :=
  d.kIssue t k (ctl 0x00 .none .none .none 0) f true (fun _ => none) fun d _ => .done d
def execNop (t : Tile) (k : KCore) (f : KFields) (s : State) : Host.Outcome State Fault Refusal := ran s (nopEffect t k f)

/-- END: the stream ends. A loaf whose last pass ends CHAIN fails reason 7 of Table 05.7 there. -/
def endEffect (t k : Nat) (f : KFields) (d : Dev) : Dev :=
  d.kIssue t k (ctl 0x01 .none .none .none 0) f true (fun _ => none) fun d _ =>
    match (d.kn t k).lastPass with
    | some j => if j.desc.fin == 1 then .stay (d.passFail t k j.desc 7) else .done (d.modKn t k fun c => { c with ended := true })
    | none => .done (d.modKn t k fun c => { c with ended := true })
def execKend (t : Tile) (k : KCore) (f : KFields) (s : State) : Host.Outcome State Fault Refusal := ran s (endEffect t k f)

/-- WAITAT: issues in the first kc whose local time has reached IMM (R147). -/
def waitatEffect (t k : Nat) (f : KFields) (d : Dev) : Dev :=
  d.kIssue t k (ctl 0x02 .none .none .none immAll) f true (fun _ => none) fun d _ =>
    .done ((d.advance (f.imm.toNat - d.kLocal t k)).syncLocal t k)
def execWaitat (t : Tile) (k : KCore) (f : KFields) (s : State) : Host.Outcome State Fault Refusal := ran s (waitatEffect t k f)

/-- The LOOP breaks R149: body length, end of stream, end of the enclosing body, third level. -/
def loopBad (nInstr pc body : Nat) (loops : List LoopFrame) : Bool :=
  body == 0 || decide (body > 256) || decide (pc + body > nInstr - 1) || decide (loops.length ≥ 2) ||
  (match loops with | l :: _ => decide (pc + body > l.last) | [] => false)

/-- LOOP: the body runs IMM[15:0] times; a count of 0 skips it (R149). -/
def loopEffect (t k : Nat) (f : KFields) (d : Dev) : Dev :=
  let body := f.imm.toNat / 65536
  let n := f.imm.toNat % 65536
  let pc := d.kPc t k
  let loops := (d.kn t k).loops
  d.kIssue t k (ctl 0x03 .none .none .none immAll) f true (fun h => if loopBad h.nInstr pc body loops then some 6 else none) fun d _ =>
    if n == 0 then .stay (d.kNextFrom t k (pc + body))
    else .done (d.modKn t k fun c => { c with loops := ⟨pc + 1, pc + body, n⟩ :: c.loops })
def execLoop (t : Tile) (k : KCore) (f : KFields) (s : State) : Host.Outcome State Fault Refusal := ran s (loopEffect t k f)

def sliEffect (t k : Nat) (f : KFields) (d : Dev) : Dev :=
  d.kIssue t k (ctl 0x04 .x .none .none immAll) f true (fun _ => none) fun d _ => .done (d.modKn t k fun c => c.wx f.d (f.imm.setWidth 64))
def execSli (t : Tile) (k : KCore) (f : KFields) (s : State) : Host.Outcome State Fault Refusal := ran s (sliEffect t k f)

def saddiEffect (t k : Nat) (f : KFields) (d : Dev) : Dev :=
  d.kIssue t k (ctl 0x05 .x .x .none immAll) f true (fun _ => none) fun d _ =>
    .done (d.modKn t k fun c => c.wx f.d (c.rx f.a + f.imm.signExtend 64))
def execSaddi (t : Tile) (k : KCore) (f : KFields) (s : State) : Host.Outcome State Fault Refusal := ran s (saddiEffect t k f)

/-! ## Passes (R118, R137, R148) -/

/-- The entry cycle of a pass issued at local time `now` of the tile, given the pass issued before it (R118, R148). -/
def entryCycle (prev : Option PassJob) (now : Nat) (p : PassDesc) : Nat :=
  let fresh := fun (s : Nat) => s + (if p.init == 1 || p.init == 3 then modeH p.mode else 0)
  match prev with
  | none => fresh (now + 4)
  | some j =>
    let q := j.desc
    let tail := j.entry + q.steps
    if p.mode == q.mode && decide (now + 64 ≤ tail) then (if q.fin == 1 then tail else tail + modeH q.mode)
    else if q.fin == 1 then now + 4
    else fresh (max (now + 4) (tail + modeL q.mode + modeH q.mode))

/-- The cycle at which a pass ends and signals (R155). -/
def PassJob.endsAt (j : PassJob) : Nat :=
  let p := j.desc
  j.entry + p.steps + modeL p.mode + (if p.fin == 0 || p.fin == 3 then modeH p.mode else 0)

/-- PASS: index IMM[15:0], and with IMM[26] the counter IMM[25:16] (Table 06.3). The descriptor is checked at issue. -/
def passEffect (t k : Nat) (f : KFields) (d : Dev) : Dev :=
  let im := f.imm.toNat
  let idx := im % 65536
  let ctr := im / 65536 % 1024
  let sig := im / 2 ^ 26 % 2 == 1
  let x := (d.kn t k).ctx
  d.kIssue t k (ctl 0x10 .none .none .none 0x07FFFFFF) f true
    (fun h => if sig && !d.ctrAllowed t x ctr then some 4 else if idx ≥ h.nPass then some 5 else none) fun d h =>
    let c := d.kn t k
    if c.passQ.length ≥ 4 then .stay d else
    let place := x.at_ t k h.passLine + 64 * idx
    match d.firstBad place 64 with
    | some ln => .stay ((d.unresolved ln 0 0 x.slice).endLoaf t k 2 5)
    | none =>
      let p := passDesc (d.bytes place 64)
      match d.passCheck t k c p with
      | some r => .stay (d.passFail t k p r)
      | none =>
        let now := (d.tile t).lk
        let j : PassJob := ⟨p, if sig then some ctr else none, now, entryCycle c.lastPass now p⟩
        .done ((d.modKn t k fun c => { c with passQ := c.passQ ++ [j], lastPass := some j }).setF
          (Reg.KNEAD_CORE_STATUS t k) F.KNEAD_CORE_STATUS_PASS_Q (c.passQ.length + 1))
def execPass (t : Tile) (k : KCore) (f : KFields) (s : State) : Host.Outcome State Fault Refusal := ran s (passEffect t k f)

/-- A queued pass enters at its entry cycle (R118). -/
def passEntryEffect (t k : Nat) (d : Dev) : Dev :=
  match (d.kn t k).passQ with
  | [] => d
  | j :: _ => if d.paused t then d else ((d.advance (j.entry - (d.tile t).lk)).passEnters t k).syncLocal t k
def execPassEntry (t : Tile) (k : KCore) (s : State) : Host.Outcome State Fault Refusal := ran s (passEntryEffect t k)

/-- The oldest running pass ends (R155). -/
def passEndEffect (t k : Nat) (d : Dev) : Dev :=
  match (d.kn t k).passRun with
  | [] => d
  | j :: _ => if d.paused t then d else ((d.advance (j.endsAt - (d.tile t).lk)).syncLocal t k).passEnds t k
def execPassEnd (t : Tile) (k : KCore) (s : State) : Host.Outcome State Fault Refusal := ran s (passEndEffect t k)

/-! ## DMA (R153, R154, R158, R160) -/

/-- The unit number of a unit on its tile. -/
def kneadUnit13 (k : Nat) : Nat := 0x100 + k

/-- One side of a descriptor lies in its space (reason 3 of Table 06.8). -/
def Dev.dmaSideOk (d : Dev) (t : Nat) (x : Ctx) (logical : Nat) (r : DmaDesc) (space a stride : Nat) : Bool :=
  if r.rows == 0 || r.rowLines == 0 then true
  else match space with
    | 0 => x.holds a (r.extent stride)
    | 1 => let (lo, hi) := d.pantryRegion x.slice t; decide (lo ≤ a * 64) && decide ((a + r.extent stride) * 64 ≤ hi)
    | _ => (List.range r.rows).all fun i =>
        let lo := a + i * stride * 64
        let hi := lo + r.rowLines * 64
        d.inPrivate x.slice lo hi &&
          (space != 2 || (lo / 2 ^ 33 == t * 16 + logical && (hi - 1) / 2 ^ 33 == t * 16 + logical))

/-- The far end of a route holds every address of the mesh side. -/
def routeHolds (r : Route) (x : DmaDesc) : Bool :=
  let a := if x.src == 3 then x.srcAddr else x.dstAddr
  let st := if x.src == 3 then x.srcStride else x.dstStride
  a / 2 ^ 37 == r.farTile && (a + x.extent st * 64 - 1) / 2 ^ 37 == r.farTile

/-- The checks of Table 06.8, in order of reason. -/
def Dev.dmaCheck (d : Dev) (t : Nat) (unit : BitVec 16) (logical : Option Nat) (x : Ctx) (irqOk : Bool) (r : DmaDesc) : Option Nat :=
  if !r.zeroOk || decide (r.src > 3) || decide (r.dst > 3) || (r.irq && !irqOk) || (decide (r.src ≥ 2) && r.srcAddr % 64 != 0) ||
      (decide (r.dst ≥ 2) && r.dstAddr % 64 != 0) then some 1
  else if (r.src != 0 && r.dst != 0) || ((r.src == 2 || r.dst == 2) && logical.isNone) then some 2
  else if !(d.dmaSideOk t x (logical.getD 0) r r.src r.srcAddr r.srcStride) || !(d.dmaSideOk t x (logical.getD 0) r r.dst r.dstAddr r.dstStride) ||
      (r.sig && !d.ctrAllowed t x r.counter) then some 3
  else if (r.src == 3 || r.dst == 3) && (match d.routeFor t unit r.route with | some w => !routeHolds w r | none => true) then some 4
  else if r.rows == 0 || r.rowLines == 0 || r.overlaps then some 5
  else none

/-- A descriptor that fails its check: capture, event 0x2041, the loaf ends and is not re-run. -/
def Dev.dmaFail (d : Dev) (t k idx r : Nat) (code detail outcome : Nat) : Dev :=
  let sl := (d.kn t k).ctx.slice
  let d := d.capture (Reg.KNEAD_DMA_ERROR t k) F.KNEAD_DMA_ERROR_VALID F.KNEAD_DMA_ERROR_MORE
    [(F.KNEAD_DMA_ERROR_REASON, r), (F.KNEAD_DMA_ERROR_INDEX, idx), (F.KNEAD_DMA_ERROR_LOAF, d.kLoaf t k), (F.KNEAD_DMA_ERROR_SLICE, sl)]
  (d.raise code sl (kneadUnit t k) (d.kLoaf t k) detail).endLoaf t k outcome r

/-- DMA: queues descriptor IMM[15:0] (R153, R158). -/
def dmaEffect (t k : Nat) (f : KFields) (d : Dev) : Dev :=
  let idx := f.imm.toNat % 65536
  let x := (d.kn t k).ctx
  d.kIssue t k (ctl 0x11 .none .none .none 0xFFFF) f true (fun h => if idx ≥ h.nDma then some 5 else none) fun d h =>
    let c := d.kn t k
    if c.dmaQ.length ≥ 16 then .stay d else
    let place := x.at_ t k h.dmaLine + 32 * idx
    match d.firstBad place 32 with
    | some ln => .stay ((d.unresolved ln 0 0 x.slice).endLoaf t k 2 5)
    | none =>
      let r := dmaDesc (d.bytes place 32)
      match d.dmaCheck t (kneadUnit t k) (d.logicalOf t k) x false r with
      | some n => .stay (d.dmaFail t k idx n 0x2041 (n + idx * 2 ^ 8) 1)
      | none => .done ((d.modKn t k fun c => { c with dmaQ := c.dmaQ ++ [⟨idx, r, 0⟩] }).setF
          (Reg.KNEAD_CORE_STATUS t k) F.KNEAD_CORE_STATUS_DMA_Q (c.dmaQ.length + 1))
def execDma (t : Tile) (k : KCore) (f : KFields) (s : State) : Host.Outcome State Fault Refusal := ran s (dmaEffect t k f)

/-- The rate and latency of a descriptor's path (Table 06.6). -/
def Dev.dmaPath (d : Dev) (t : Nat) (unit : BitVec 16) (kind : Nat) (r : DmaDesc) : Nat × Nat :=
  match (if r.src == 0 then r.dst else r.src) with
  | 0 => (256, 8)
  | 1 => (256, 24)
  | 2 => (if kind == 3 then 480 else 128, 96)
  | _ => match d.routeFor t unit r.route with
    | some w => (min 256 (64 * w.rate), 120 + 40 * w.hops)
    | none => (256, 120)

/-- The head of the queue begins once the descriptor before it has completed; the time it will complete is fixed then (R153, R154). -/
def dmaBeginEffect (t k : Nat) (d : Dev) : Dev :=
  let c := d.kn t k
  match c.dmaQ, c.dmaRun, c.loaf with
  | j :: q, none, some h =>
    if d.paused t then d else
    let (rate, lat) := d.dmaPath t (kneadUnit t k) h.kind j.desc
    let work := lat + ceilDiv (j.desc.rows * j.desc.rowLines * 64) (max rate 1)
    let x := d.tile t
    let own := j.desc.src == 2 || j.desc.dst == 2
    let chans := match d.logicalOf t k with | some p => (List.range 4).map fun i => 0xC00 + 4 * p + i | none => []
    let spans := if own then d.backgroundSpans t chans else []
    let done := x.lk + (pauseEnd spans 64 x.pos work - x.pos)
    (d.modKn t k fun c => { c with dmaQ := q, dmaRun := some { j with done := done } }).setF
      (Reg.KNEAD_CORE_STATUS t k) F.KNEAD_CORE_STATUS_DMA_Q q.length
  | _, _, _ => d
def execDmaBegin (t : Tile) (k : KCore) (s : State) : Host.Outcome State Fault Refusal := ran s (dmaBeginEffect t k)

/-- The store place of byte 0 of row i of one side. -/
def sideAt (t k : Nat) (x : Ctx) (space a : Nat) : Nat :=
  match space with
  | 0 => x.at_ t k a
  | 1 => pantryAt t (a * 64)
  | _ => a

/-- The first bad source line of a descriptor: its store line and its offset among the lines moved. -/
def Dev.dmaBad (d : Dev) (src : Nat → Nat) (rows n : Nat) : Option (Nat × Nat) :=
  (List.range rows).findSome? fun i => (d.firstBad (src i) (n * 64)).map fun ln => (ln, i * n + (ln - src i / 64))

/-- The lines of a descriptor are copied unchanged, row by row, in ascending order (R153, R106). -/
def Dev.copyRows (d : Dev) (src dst : Nat → Nat) (rows n : Nat) : Dev :=
  (List.range rows).foldl (fun d i => d.write (dst i) (d.bytes (src i) (n * 64))) d

/-- The running descriptor completes: its lines stand at the destination and its counter is signalled. A source line that
stays bad ends the loaf as a fault with event 0x2042 (R160). -/
def dmaCompleteEffect (t k : Nat) (d : Dev) : Dev :=
  let c := d.kn t k
  match c.dmaRun with
  | none => d
  | some j =>
    if d.paused t then d else
    let d := (d.advance (j.done - (d.tile t).lk)).syncLocal t k
    let r := j.desc
    let step := fun space st i => if space ≤ 1 then i * st else i * st * 64
    let src := fun i => sideAt t k c.ctx r.src (r.srcAddr + step r.src r.srcStride i)
    let dst := fun i => sideAt t k c.ctx r.dst (r.dstAddr + step r.dst r.dstStride i)
    match d.dmaBad src r.rows r.rowLines with
    | some (ln, off) => (d.unresolved ln 0 0 c.ctx.slice).dmaFail t k j.index 7 0x2042 (j.index + r.src * 2 ^ 16 + off * 2 ^ 24) 2
    | none =>
      let d := (d.copyRows src dst r.rows r.rowLines).modKn t k fun c => { c with dmaRun := none }
      if r.sig then d.kSignal t k r.counter 1 else d
def execDmaComplete (t : Tile) (k : KCore) (s : State) : Host.Outcome State Fault Refusal := ran s (dmaCompleteEffect t k)

/-! ## Counters from a loaf (R155, R389) -/

def signalEffect (t k : Nat) (f : KFields) (d : Dev) : Dev :=
  let c := f.imm.toNat % 1024
  let x := (d.kn t k).ctx
  d.kIssue t k (ctl 0x18 .none .none .none 0xFFFF03FF) f true (fun _ => if d.ctrAllowed t x c then none else some 4) fun d _ =>
    .done (d.kSignal t k c (f.imm.toNat / 65536))
def execSignal (t : Tile) (k : KCore) (f : KFields) (s : State) : Host.Outcome State Fault Refusal := ran s (signalEffect t k f)

/-- TAKE and WATCH register a wait; the instruction issues when it is released (R147, R387). A wait on a counter that is
not LIVE or BROKEN fails the counter check (R386, R389). -/
def Dev.kWait (d : Dev) (t k op : Nat) (f : KFields) (take : Bool) : Dev :=
  let c := f.imm.toNat % 1024
  let x := (d.kn t k).ctx
  d.kIssue t k (ctl op .none .none .none 0xFFFF03FF) f true
    (fun _ => if d.waitAllowed t x c then none else some 4) fun d _ =>
    .stay (((d.addWait t c (f.imm.toNat / 65536) take (kneadUnit t k) x.slice).modKn t k fun c => { c with waiting := true }).kState t k 2)
def takeEffect (t k : Nat) (f : KFields) (d : Dev) : Dev := d.kWait t k 0x19 f true
def execTake (t : Tile) (k : KCore) (f : KFields) (s : State) : Host.Outcome State Fault Refusal := ran s (takeEffect t k f)
def watchEffect (t k : Nat) (f : KFields) (d : Dev) : Dev := d.kWait t k 0x1A f false
def execWatch (t : Tile) (k : KCore) (f : KFields) (s : State) : Host.Outcome State Fault Refusal := ran s (watchEffect t k f)

/-! ## Registers that only the tile steward writes (R142, R456, R459) -/

/-- A write to a steward's register of a core; from any other master it is ignored with event 0x2043. -/
def Dev.kStewardWrite (d : Dev) (m : Master) (t k a : Nat) (v : Word) : Dev :=
  if m == stewardOf t then d.rwWrite a v else d.raise 0x2043 0xFF (kneadUnit t k) a m.toNat

def kneadContextWriteEffect (m : Master) (t k : Nat) (id : Bool) (v : Word) (d : Dev) : Dev :=
  d.kStewardWrite m t k (if id then Reg.KNEAD_CONTEXT_ID t k else Reg.KNEAD_CONTEXT t k) v
def execKneadContextWrite (m : Master) (t : Tile) (k : KCore) (id : Bool) (v : Word) (s : State) : Host.Outcome State Fault Refusal :=
  ranFrom m s (kneadContextWriteEffect m t k id v)

/-- KNEAD_STEP, KNEAD_SEED_0 to KNEAD_SEED_3, KNEAD_STREAM by number. -/
def replayReg (t k : Nat) (n : Nat) : Nat :=
  if n == 0 then Reg.KNEAD_STEP t k else if n ≤ 4 then Reg.KNEAD_SEED t k (n - 1) else Reg.KNEAD_STREAM t k
def replayRegisterWriteEffect (m : Master) (t k n : Nat) (v : Word) (d : Dev) : Dev := d.kStewardWrite m t k (replayReg t k n) v
def execReplayRegisterWrite (m : Master) (t : Tile) (k : KCore) (reg : Fin 6) (v : Word) (s : State) : Host.Outcome State Fault Refusal :=
  ranFrom m s (replayRegisterWriteEffect m t k reg v)

end Sys2Proof.Machine
end

