-- ==== Sys2Proof/Machine/Codec.lean ====
section
/-! DEFINITION. Codec: the LDPC, polar and preamble engines (chapter 12): loaves and their lists, the times of descriptors, layered
min-sum decoding, list decoding, detection and stops. Functions of TS 38.211 and TS 38.212 that the spec names without
stating them are opaque constants of Config (log entry 19). -/
namespace Sys2Proof.Machine

def CodecState.init : CodecState := ⟨false, 0, 0, [], 0, 0, [], 0⟩
def Dev.codecSt (d : Dev) (t e : Nat) : CodecState := look CodecState.init d.codec (8 * t + e)
def Dev.setCodec (d : Dev) (t e : Nat) (c : CodecState) : Dev := { d with codec := store CodecState.init d.codec (8 * t + e) c }
/-- The unit number of an engine on its tile. -/
def engine13 (e : Nat) : Nat := if e < 4 then 0x500 + e else if e < 6 then 0x600 + (e - 4) else if e == 6 then 0x700 else 0x800
/-- Offset of an engine's counter register within BAR0 and event 0x7003 when its overflow bit rises (R310). -/
def Dev.codecCount (d : Dev) (t e r : Nat) (f ovf : Fld) (n : Nat) : Dev :=
  let was := d.getB r ovf
  let d := d.count r f n
  if !was && d.getB r ovf then d.raise 0x7003 0 (engineUnit t e) r 0 else d

/-! ## Descriptors (Tables 12.1 and 12.2) -/

/-- Bits [lo + w − 1 : lo] of word i of a descriptor. -/
def CodecJob.f (j : CodecJob) (i lo w : Nat) : Nat := j.words.getD i 0 / 2 ^ lo % 2 ^ w
def codecJob (l : Bytes) : CodecJob := ⟨(List.range 8).map fun i => leAt l (8 * i) 8, 0, 0⟩
def CodecJob.op (j : CodecJob) : Nat := j.f 0 0 4
def CodecJob.first (j : CodecJob) : Bool := j.f 0 4 1 == 1
def CodecJob.last (j : CodecJob) : Bool := j.f 0 5 1 == 1
def CodecJob.sig (j : CodecJob) : Bool := j.f 0 42 1 == 1
def CodecJob.counter (j : CodecJob) : Nat := j.f 0 32 10
def CodecJob.src (j : CodecJob) : Nat := j.words.getD 1 0
def CodecJob.dst (j : CodecJob) : Nat := j.words.getD 2 0
def CodecJob.status (j : CodecJob) : Nat := j.f 3 0 48
def CodecJob.route (j : CodecJob) : Nat := j.f 3 48 16
/-- LDPC fields. -/
def CodecJob.bg (j : CodecJob) : Nat := j.f 4 0 1
def CodecJob.z (j : CodecJob) : Nat := j.f 4 1 9
def CodecJob.rows (j : CodecJob) : Nat := j.f 4 10 6
def CodecJob.iterMax (j : CodecJob) : Nat := j.f 4 16 5
def CodecJob.cbCrc (j : CodecJob) : Bool := j.f 4 25 1 == 1
def CodecJob.tbCrc (j : CodecJob) : Nat := j.f 4 26 2
def CodecJob.filler (j : CodecJob) : Nat := j.f 4 32 16
def CodecJob.ci (j : CodecJob) : Nat := if j.bg == 0 then 22 else 10
/-- K′ (R298). -/
def CodecJob.kk (j : CodecJob) : Nat := j.ci * j.z - j.filler
/-- Length of the transport-block CRC. -/
def CodecJob.tbLen (j : CodecJob) : Nat := match j.tbCrc with | 1 => 16 | 2 => 24 | _ => 0
/-- Polar fields. -/
def CodecJob.pk (j : CodecJob) : Nat := j.f 4 0 10
def CodecJob.pn (j : CodecJob) : Nat := j.f 4 10 4
def CodecJob.pcrcLen (j : CodecJob) : Nat := match j.f 4 14 2 with | 0 => 6 | 1 => 11 | _ => 24
def CodecJob.plist (j : CodecJob) : Nat := 2 ^ j.f 4 19 2
def CodecJob.pe (j : CodecJob) : Nat := j.f 5 0 16
/-- PRACH fields: repetitions of a format (R307), sequence and IDFT length. -/
def prachReps (fmt : Nat) : Nat :=
  match fmt with | 0 => 1 | 1 => 2 | 2 => 4 | 3 => 4 | 4 => 2 | 5 => 4 | 6 => 6 | 7 => 2 | 8 => 4 | 9 => 6 | 10 => 12 | 11 => 1 | _ => 4
def CodecJob.prachLong (j : CodecJob) : Bool := decide (j.f 4 0 4 ≤ 3)
def CodecJob.ant (j : CodecJob) : Nat := j.f 4 16 5
def CodecJob.idft (j : CodecJob) : Nat := if j.prachLong then 1024 else 256
def CodecJob.seqLen (j : CodecJob) : Nat := if j.prachLong then 839 else 139

/-- Bytes read from SRC and written to DST. -/
def CodecJob.srcBytes (j : CodecJob) : Nat :=
  match j.op with
  | 1 => (j.ci + j.rows) * j.z
  | 2 => ceilDiv (j.kk - (if j.cbCrc then 24 else 0) - (if j.last then j.tbLen else 0)) 8
  | 3 => ceilDiv (j.pk - j.pcrcLen) 8
  | 4 => j.pe
  | _ => j.ant * prachReps (j.f 4 0 4) * j.seqLen * 4
def CodecJob.dstBytes (j : CodecJob) : Nat :=
  match j.op with
  | 1 => 64 * ceilDiv j.kk 512
  | 2 => 64 * ceilDiv (j.f 5 0 32) 512
  | 3 => 64 * ceilDiv j.pe 512
  | 4 => 64 * ceilDiv j.pk 512
  | _ => 8 * j.f 4 21 6

/-- Nonzero entries in the first ROWS rows of a base graph, as R301 gives them for all rows. -/
def ldpcWeight (bg z rows : Nat) : Nat :=
  if bg == 0 && rows == 46 then 316 else if bg == 1 && rows == 42 then 197
  else ((List.range rows).map fun l => (Config.ldpcRow bg z l).length).sum
def CodecJob.tIter (j : CodecJob) : Nat := ceilDiv (ldpcWeight j.bg j.z j.rows * j.z) 2304
/-- The occupancy of a descriptor (R301, R303, R304, R305, R307). -/
def CodecJob.occupancy (j : CodecJob) : Nat :=
  match j.op with
  | 1 => 16 + max (j.iterMax * j.tIter) (max (ceilDiv ((j.ci + j.rows) * j.z) 128) (ceilDiv j.kk 512))
  | 2 => max (ceilDiv (j.ci * j.z) 64) (ceilDiv (j.f 5 0 32) 512)
  | 3 => 16 + ceilDiv (2 ^ j.pn) 64 + ceilDiv j.pe 512
  | 4 => 40 + ceilDiv (2 ^ j.pn * j.pn * j.plist) 64
  | _ => 96 + ceilDiv (j.ant * prachReps (j.f 4 0 4) * j.idft) 16

/-! ## Checks (Table 12.3) -/

/-- The operations that suit an engine. -/
def engineOps (e : Nat) : List Nat := if e < 4 then [1] else if e < 6 then [2] else if e == 6 then [3, 4] else [5]
/-- The 51 lifting sizes (R298). -/
def isLifting (z : Nat) : Bool := [2, 3, 5, 7, 9, 11, 13, 15].any fun a => (List.range 8).any fun j => z == a * 2 ^ j && decide (z ≤ 384)
/-- Bits of words 4 to 7 that an operation leaves zero, and its reserved codes (reason 1). -/
def CodecJob.reserved (j : CodecJob) (e : Nat) : Bool :=
  !(engineOps e).contains j.op || j.f 0 6 2 != 0 || j.f 0 29 3 != 0 || j.f 0 43 5 != 0 || j.f 7 0 64 != 0 ||
  (match j.op with
    | 1 => j.f 4 28 4 != 0 || j.f 4 48 16 != 0 || j.f 5 0 64 != 0 || j.f 6 0 64 != 0 || j.tbCrc == 3
    | 2 => j.f 4 16 9 != 0 || j.f 4 28 4 != 0 || j.f 4 48 16 != 0 || j.f 5 38 26 != 0 || j.f 6 24 40 != 0 || j.tbCrc == 3
    | 3 => j.f 4 19 13 != 0 || j.f 4 48 16 != 0 || j.f 5 16 48 != 0 || j.f 6 0 64 != 0 || j.f 4 14 2 == 3
    | 4 => j.f 4 21 11 != 0 || j.f 4 48 16 != 0 || j.f 5 16 48 != 0 || j.f 6 0 64 != 0 || j.f 4 14 2 == 3
    | _ => j.f 4 27 5 != 0 || j.f 4 42 22 != 0 || j.f 5 0 64 != 0 || j.f 6 0 64 != 0 || decide (j.f 4 0 4 > 12))
/-- A field outside Table 12.2 (reason 2). -/
def Dev.codecParamBad (d : Dev) (t : Nat) (j : CodecJob) : Bool :=
  let ldpc := !isLifting j.z || decide (j.rows < 4) || decide (j.rows > if j.bg == 0 then 46 else 42) || decide (j.filler ≥ j.ci * j.z)
  match j.op with
  | 1 => ldpc || decide (j.iterMax < 1) || decide (j.iterMax > 25) || decide (j.f 4 21 4 < 8)
  | 2 => ldpc || !([1, 2, 4, 6, 8].contains (j.f 5 32 4))
  | 3 => decide (j.pk < 18) || decide (j.pk > 2 ^ j.pn) || decide (j.pn < 5) || decide (j.pn > 9) || decide (j.pk > j.pe) || decide (j.pe > 8192)
  | 4 => decide (j.pk < 18) || decide (j.pk > 2 ^ j.pn) || decide (j.pn < 5) || decide (j.pn > 10) || decide (j.pk > j.pe) || decide (j.pe > 8192)
  | _ => decide (j.f 4 4 12 > 419) || decide (j.ant < 1) || decide (j.ant > 16) || decide (j.f 4 21 6 < 1) || (d.cell? t (j.f 4 32 10)).isNone
/-- Bytes lie in slice 0's pantry region of the tile or its DRAM ranges. -/
def Dev.inSlice0 (d : Dev) (t a n : Nat) : Bool :=
  if a < dramSize then d.inPrivate 0 a (a + n)
  else let (lo, hi) := d.pantryRegion 0 t; decide (pantryAt t lo ≤ a) && decide (a + n ≤ pantryAt t hi)
/-- The first failing check of a descriptor, without those on the list as a whole. -/
def Dev.codecCheck (d : Dev) (t e : Nat) (j : CodecJob) : Option Nat :=
  let addrs := [j.src, j.dst, j.status]
  let dpas := addrs.filter fun a => decide (a < dramSize)
  if j.reserved e || (dpas.isEmpty && j.route != 0) then some 1
  else if d.codecParamBad t j then some 2
  else if j.src % 64 != 0 || j.dst % 64 != 0 || j.status % 16 != 0 || !d.inSlice0 t j.src j.srcBytes || !d.inSlice0 t j.dst j.dstBytes ||
      !d.inSlice0 t j.status 16 then some 3
  else if !dpas.isEmpty && (match d.routeFor t (engineUnit t e) j.route with | some w => dpas.any fun a => a / 2 ^ 37 != w.farTile | none => true) then some 4
  else none
/-- The checks of a whole list, in descriptor order; `open_` says that a transport block has begun (ORDER). -/
def Dev.codecListCheck (d : Dev) (t e : Nat) : Bool → Nat → List CodecJob → Option (Nat × Nat)
  | open_, i, [] => if open_ then some (i - 1, 5) else none
  | open_, i, j :: r =>
    let ldpc := decide (j.op ≤ 2)
    match d.codecCheck t e j with
    | some n => some (i, n)
    | none =>
      if ldpc && (j.first == open_ || (j.tbCrc != 0 && !j.last)) then some (i, 5)
      else if j.sig && !(decide (j.counter ≥ 1008) && d.granted 0 t (j.counter - 1008)) then some (i, 7)
      else Dev.codecListCheck d t e (if ldpc then !j.last else open_) (i + 1) r
/-- The begin of each descriptor (R295). -/
def codecTimes (n : Nat) : Nat → List CodecJob → List CodecJob
  | _, [] => []
  | free, j :: r => let b := max (j.f 0 8 21) (max (8 + n) free); { j with b := b, o := j.occupancy } :: codecTimes n (b + j.occupancy) r

/-! ## Loaves (R294, R295, R297, R308) -/

/-- A loaf ends; the steward finds the outcome and the cause of Table 10.11. -/
def Dev.codecEnd (d : Dev) (t e outcome cause : Nat) : Dev :=
  let c := d.codecSt t e
  let d := (d.setCodec t e CodecState.init).setFs (Reg.CODEC_STATUS t e) [(F.CODEC_STATUS_STATE, if outcome == 0 then 0 else 4)]
  d.loafDone t ⟨BitVec.ofNat 13 (engine13 e), c.id, 0, 0xFFFF, outcome, cause⟩
/-- A failure is captured (Table 12.9). -/
def Dev.codecCapture (d : Dev) (t e reason desc id : Nat) : Dev :=
  d.capture (Reg.CODEC_ERROR t e) F.CODEC_ERROR_VALID F.CODEC_ERROR_MORE [(F.CODEC_ERROR_REASON, reason), (F.CODEC_ERROR_DESC, desc), (F.CODEC_ERROR_LOAF, id)]
/-- An internal fault of the engine, or a stop at a window edge, discards the loaf (Table 12.7). -/
def Dev.codecFault (d : Dev) (t e how : Nat) : Dev :=
  let c := d.codecSt t e
  let i := c.done
  ((d.codecCapture t e 0 i c.id).raise 0x7002 0 (engineUnit t e) c.id (i + how * 2 ^ 16)).codecEnd t e 2 (if how == 0 then 4 else 1)

/-- CODEC_LOAF_START: the loaf of a record of RADIO_CODE reads and checks its list (R294, R295, R297); without room for it the
placement is refused (R42). -/
def codecLoafStartEffect (t e : Nat) (rec : Bytes) (d : Dev) : Dev :=
  let id := leAt rec 0 4
  let kind := leAt rec 4 1
  let len := leAt rec 8 4
  if (d.codecSt t e).busy || d.paused t then d else
  let room := if kind == 1 || kind == 2 then d.spaceFor t (engine13 e) kind else 0
  if room < len || len == 0 then d.raise 0x1005 0 (stewardOf t) id (len + room * 2 ^ 32) else
  let d := (d.proveStart t (engine13 e) kind).setF (Reg.CODEC_LOAF t e) F.CODEC_LOAF_LOAF id
  let d := d.setFs (Reg.CODEC_STATUS t e) [(F.CODEC_STATUS_STATE, 1), (F.CODEC_STATUS_DESC, 0), (F.CODEC_STATUS_LOCAL, 0)]
  let d := d.setCodec t e { CodecState.init with busy := true, id := id, start := (d.tile t).lk }
  let base := pantryAt t ((d.pantryRegion 0 t).1 + 64 * leAt rec 12 4)
  let n := leAt (d.bytes base 64) 0 2
  match d.firstBad base (64 + 64 * n) with
  | some ln => (d.unresolved ln 6 5 0).codecFault t e 0
  | none =>
    let fail := fun (i r op : Nat) =>
      ((d.codecCapture t e r i id).raise 0x7001 0 (engineUnit t e) id (r + i * 2 ^ 8 + op * 2 ^ 24)).codecEnd t e 2 1
    if n > 1024 || leAt (d.bytes base 64) 2 62 != 0 then fail 0 1 0 else
    let js := codecTimes n 0 ((List.range n).map fun i => codecJob (d.bytes (base + 64 + 64 * i) 64))
    match d.codecListCheck t e false 0 js with
    | some (i, r) => fail i r (match js[i]? with | some j => j.op | none => 0)
    | none =>
      match js.getLast? with
      | none => d.codecEnd t e 0 0
      | some j => if j.b + j.o + 32 > len then fail (n - 1) 6 j.op else d.setCodec t e { d.codecSt t e with jobs := js }
def execCodecLoafStart (t : Tile) (e : Engine) (rec : Bytes) (s : State) : Host.Outcome State Fault Refusal := ran s (codecLoafStartEffect t e rec)

/-- CODEC_INTERNAL_FAULT: the running loaf is discarded. -/
def codecInternalFaultEffect (t e : Nat) (d : Dev) : Dev := if (d.codecSt t e).busy then d.codecFault t e 0 else d
def execCodecInternalFault (t : Tile) (e : Engine) (s : State) : Host.Outcome State Fault Refusal := ran s (codecInternalFaultEffect t e)

/-- The next descriptor, if it is of this operation, begins at its b_i. -/
def Dev.codecBegin (d : Dev) (t e op : Nat) : Dev :=
  let c := d.codecSt t e
  match c.jobs[c.begun]? with
  | none => d
  | some j =>
    if !c.busy || j.op != op || d.paused t then d else
    let d := d.advance (c.start + j.b - (d.tile t).lk)
    (d.setCodec t e { c with begun := c.begun + 1 }).setFs (Reg.CODEC_STATUS t e)
      [(F.CODEC_STATUS_STATE, 1), (F.CODEC_STATUS_DESC, c.begun), (F.CODEC_STATUS_LOCAL, (d.tile t).lk - c.start)]
def ldpcDecodeEffect (t e : Nat) (d : Dev) : Dev := d.codecBegin t e 1
def execLdpcDecode (t : Tile) (e : Engine) (s : State) : Host.Outcome State Fault Refusal := ran s (ldpcDecodeEffect t e)
def ldpcEncodeEffect (t e : Nat) (d : Dev) : Dev := d.codecBegin t e 2
def execLdpcEncode (t : Tile) (e : Engine) (s : State) : Host.Outcome State Fault Refusal := ran s (ldpcEncodeEffect t e)
def polarEncodeEffect (t e : Nat) (d : Dev) : Dev := d.codecBegin t e 3
def execPolarEncode (t : Tile) (e : Engine) (s : State) : Host.Outcome State Fault Refusal := ran s (polarEncodeEffect t e)
def polarDecodeEffect (t e : Nat) (d : Dev) : Dev := d.codecBegin t e 4
def execPolarDecode (t : Tile) (e : Engine) (s : State) : Host.Outcome State Fault Refusal := ran s (polarDecodeEffect t e)
def prachDetectEffect (t e : Nat) (d : Dev) : Dev := d.codecBegin t e 5
def execPrachDetect (t : Tile) (e : Engine) (s : State) : Host.Outcome State Fault Refusal := ran s (prachDetectEffect t e)

/-! ## Bits -/

/-- The bits of bytes, most significant first (R302), and back, the last byte filled with zeros. -/
def bitsOf (l : Bytes) : List Bool := l.flatMap fun b => (List.range 8).map fun i => b.getLsbD (7 - i)
def packBits : Nat → List Bool → Bytes
  | 0, _ => []
  | n + 1, l => BitVec.ofNat 8 ((l.take 8).zipIdx.foldl (fun s b => if b.1 then s + 2 ^ (7 - b.2) else s) 0) :: packBits n (l.drop 8)
/-- Whole lines holding the bits, zero-filled. -/
def packLines (l : List Bool) : Bytes := packBits (64 * ceilDiv l.length 512) l

/-- Input bytes with bad lines read as zero, each of them unresolved (Table 12.7); the flag says that one was met. -/
def Dev.codecInput (d : Dev) (a n : Nat) : Bytes × Bool × Dev :=
  let bad := (List.range (ceilDiv (a % 64 + n) 64)).filter fun i => d.bad (a / 64 + i)
  let l := (List.range n).map fun i => if d.bad ((a + i) / 64) then 0#8 else d.byte (a + i)
  (l, !bad.isEmpty, bad.foldl (fun (d : Dev) i => d.unresolved (a / 64 + i) 6 5 0) d)

/-! ## Layered min-sum decoding (R299) -/

def sat511 (x : Int) : Int := max (-511) (min 511 x)
def sat127 (x : Int) : Int := max (-127) (min 127 x)
/-- The decoder's memories: posteriors by bit position, check messages by layer, column and lane. -/
structure LdpcMem where
  p : SMap Int
  r : SMap Int

/-- One row of a layer: lane z of layer l. -/
def ldpcLane (z : Nat) (norm l lane : Nat) (cols : List (Nat × Nat)) (m : LdpcMem) : LdpcMem :=
  let at_ := fun (c : Nat × Nat) => c.1 * z + (lane + c.2) % z
  let key := fun (c : Nat × Nat) => (l * 128 + c.1) * 512 + lane
  let q := cols.map fun c => (c, sat511 (look 0 m.p (at_ c) - look 0 m.r (key c)))
  let m1 := (q.map fun x => x.2.natAbs).foldl min 511
  let k1 := (q.findIdx? fun x => x.2.natAbs == m1).getD 0
  let m2 := ((q.zipIdx.filter fun x => x.2 != k1).map fun x => x.1.2.natAbs).foldl min 511
  let s := q.foldl (fun s x => if x.2 < 0 then !s else s) false
  q.zipIdx.foldl (fun (m : LdpcMem) x =>
    let mag : Int := (norm * (if x.2 == k1 then m2 else m1) / 16 : Nat)
    let r := sat127 (if s != decide (x.1.2 < 0) then -mag else mag)
    ⟨store 0 m.p (at_ x.1.1) (sat511 (x.1.2 + r)), store 0 m.r (key x.1.1) r⟩) m

/-- One iteration over all layers in ascending row order. -/
def ldpcIter (j : CodecJob) (m : LdpcMem) : LdpcMem :=
  (List.range j.rows).foldl (fun m l => (List.range j.z).foldl (fun m lane => ldpcLane j.z (j.f 4 21 4) l lane (Config.ldpcRow j.bg j.z l) m) m) m
/-- The hard decision of a bit: 1 when its posterior is negative. -/
def LdpcMem.bit (m : LdpcMem) (i : Nat) : Bool := decide (look 0 m.p i < 0)
/-- Every check of every layer is even. -/
def LdpcMem.syndromeZero (m : LdpcMem) (j : CodecJob) : Bool :=
  (List.range j.rows).all fun l => (List.range j.z).all fun lane =>
    !((Config.ldpcRow j.bg j.z l).foldl (fun s c => s != m.bit (c.1 * j.z + (lane + c.2) % j.z)) false)
/-- The K′ decided bits. -/
def LdpcMem.bits (m : LdpcMem) (j : CodecJob) : List Bool := (List.range j.kk).map m.bit
/-- The last bits of a string are its CRC of a kind. -/
def crcOk (kind len : Nat) (l : List Bool) : Bool := Config.crc kind (l.take (l.length - len)) == l.drop (l.length - len)
/-- Iterations until the syndrome is zero and the block's CRC passes, at most ITER_MAX; the memories and how many ran. -/
def ldpcLoop (j : CodecJob) : Nat → LdpcMem → LdpcMem × Nat
  | 0, m => (m, 0)
  | n + 1, m =>
    let m := ldpcIter j m
    if m.syndromeZero j && (!j.cbCrc || crcOk 2 24 (m.bits j)) then (m, 1) else let (m, k) := ldpcLoop j n m; (m, k + 1)
/-- The posteriors a decode starts with: INT8 LLRs, −128 as −127, filler positions +127. -/
def ldpcStart (j : CodecJob) (src : Bytes) : LdpcMem :=
  let v := fun (i : Nat) (b : Byte) => if decide (j.kk ≤ i) && decide (i < j.ci * j.z) then 127 else max (-127) b.toInt
  ⟨src.zipIdx.foldr (fun b p => store 0 p b.2 (v b.2 b.1)) [], []⟩
/-- The whole decode of a block: memories and iterations run. -/
def ldpcRun (j : CodecJob) (src : Bytes) : LdpcMem × Nat := ldpcLoop j j.iterMax (ldpcStart j src)

/-! ## List decoding of polar codes (R305) -/

def pf (a b : Int) : Int := sat511 ((if (a < 0) != (b < 0) then -1 else 1) * (min a.natAbs b.natAbs : Nat))
def pg (a b : Int) (u : Bool) : Int := sat511 (if u then b - a else b + a)
/-- The polar transform of a list whose length is a power of two. -/
def polarX : Nat → List Bool → List Bool
  | 0, u => u
  | n + 1, u =>
    let a := polarX n (u.take (2 ^ n))
    let b := polarX n (u.drop (2 ^ n))
    List.zipWith (· != ·) a b ++ b
/-- The LLR of the bit after a decided prefix, from the mother-code LLRs. -/
def polarLlr : Nat → List Int → List Bool → Int
  | 0, l, _ => l.headD 0
  | n + 1, l, u =>
    let a := l.take (2 ^ n)
    let b := l.drop (2 ^ n)
    if u.length < 2 ^ n then polarLlr n (List.zipWith pf a b) u
    else
      let x := polarX n (u.take (2 ^ n))
      polarLlr n (List.zipWith (fun ab u => pg ab.1 ab.2 u) (a.zip b) x) (u.drop (2 ^ n))

/-- A path: decided bits and its metric. -/
abbrev PolarPath := List Bool × Nat
/-- A path takes a bit: against the sign of its LLR costs its magnitude; metrics saturate. -/
def PolarPath.take (p : PolarPath) (llr : Int) (u : Bool) : PolarPath :=
  (p.1 ++ [u], if u != decide (llr < 0) then min 65535 (p.2 + llr.natAbs) else p.2)
/-- The L best of candidates in ranking order: by metric, then as they stand (parent index, 0 before 1). -/
def bestPaths (n : Nat) (l : List PolarPath) : List PolarPath :=
  (l.foldl (fun s p => s.takeWhile (fun q => decide (q.2 ≤ p.2)) ++ p :: s.dropWhile (fun q => decide (q.2 ≤ p.2))) []).take n
/-- One bit position for all paths. -/
def polarBit (j : CodecJob) (llr : List Int) (i : Nat) (ps : List PolarPath) : List PolarPath :=
  let w4 := j.f 4 0 64
  let w5 := j.f 5 0 64
  match Config.polarRole w4 w5 i with
  | 0 => ps.map fun p => p.take (polarLlr j.pn llr p.1) false
  | 2 => ps.map fun p => p.take (polarLlr j.pn llr p.1) (Config.polarParity w4 w5 p.1)
  | _ => bestPaths j.plist (ps.flatMap fun p => let x := polarLlr j.pn llr p.1; [p.take x false, p.take x true])
/-- The paths after the last bit, in rank order. -/
def polarPaths (j : CodecJob) (src : Bytes) : List PolarPath :=
  let llr := Config.polarDematch (j.f 4 0 64) (j.f 5 0 64) (src.map fun b => max (-127) b.toInt)
  bestPaths j.plist ((List.range (2 ^ j.pn)).foldl (fun ps i => polarBit j llr i ps) [([], 0)])
/-- The payload and CRC bits of a path. -/
def polarOut (j : CodecJob) (p : PolarPath) : List Bool :=
  let w4 := j.f 4 0 64
  let w5 := j.f 5 0 64
  Config.polarPayload w4 w5 ((p.1.zipIdx.filter fun b => Config.polarRole w4 w5 b.2 == 1).map (·.1))

/-! ## Preamble detection (R307) -/

/-- p / q in units of 0.25 dB is at least n, on finite binary32 values. -/
def atLeastDb (p q n : Nat) : Bool :=
  match b32.decode p, b32.decode q with
  | .fin false a e, .fin false b f =>
    let lo := min e f
    decide (a ^ 40 * 2 ^ (40 * (e - lo).toNat) ≥ 10 ^ n * (b ^ 40 * 2 ^ (40 * (f - lo).toNat)))
  | _, _ => false
/-- p is at least half of q. -/
def atLeastHalf (p q : Nat) : Bool :=
  match b32.decode p, b32.decode q with
  | .fin false a e, .fin false b f => let lo := min e f; decide (2 * a * 2 ^ (e - lo).toNat ≥ b * 2 ^ (f - lo).toNat)
  | _, _ => false
/-- The place of the largest of samples, the lowest on a tie; codes of non-negative binary32 values order as numbers. -/
def peakOf (l : List Nat) : Nat := (l.zipIdx.foldl (fun (b : Nat × Nat) x => if x.1 > b.1 then x else b) (l.headD 0, 0)).2
/-- The run of samples about position i that are at least half of it. -/
def peakWidth (l : List Nat) (i : Nat) : Nat :=
  let p := l.getD i 0
  1 + ((l.take i).reverse.takeWhile fun x => atLeastHalf x p).length + ((l.drop (i + 1)).takeWhile fun x => atLeastHalf x p).length
/-- The detections of an occasion: preamble, delay in samples, peak; and the noise floor. -/
def prachRun (j : CodecJob) (cfg : Nat) (src : Bytes) : List (Nat × Nat × Nat) × Nat :=
  let prof := Config.prachProfile (j.f 4 0 64) cfg src
  let sigma := Config.b32Mean prof
  let found := (List.range (j.f 4 21 6)).filterMap fun n =>
    let (a, len) := Config.prachZone (j.f 4 0 64) cfg n
    let zone := (prof.drop a).take len
    let i := peakOf zone
    let p := zone.getD i 0
    if atLeastDb p sigma (cfg / 2 ^ 12 % 256) && atLeastDb p (Config.b32Mean zone) (cfg / 2 ^ 20 % 64) && decide (peakWidth prof (a + i) ≤ cfg / 2 ^ 26 % 16)
    then some (n, i, p) else none
  (found, sigma)

/-! ## Completion (R295, R302, R303, R305, R307) -/

/-- Bits of SRC. -/
def Dev.codecBits (d : Dev) (j : CodecJob) (n : Nat) : List Bool × Bool × Dev :=
  let (l, bad, d) := d.codecInput j.src j.srcBytes
  ((bitsOf l).take n, bad, d)

/-- A decoded block that met a bad input line is marked failed: event 0x6004 and its count (R270); its cell, slot and RNTI are those
of the loaf's work, which the descriptor does not name: free values. -/
def Dev.cbIntegrity (d : Dev) (t e idx : Nat) : Dev :=
  let (w, d) := d.fresh
  let (x, d) := d.fresh
  (d.count (Reg.RADIO_CB_INTEGRITY t) F.RADIO_CB_INTEGRITY_COUNT 1).raise 0x6004 0 (engineUnit t e) (w.toNat % 1024) (x.toNat % 2 ^ 40 + idx * 2 ^ 40)

/-- Iterations that early termination saved are counted once (R300). -/
def Dev.codecSkip (d : Dev) (t e : Nat) (j : CodecJob) (ran_ : Nat) : Dev :=
  let c := d.codecSt t e
  if c.counted > c.done then d else
  d.codecCount t e (Reg.CODEC_ITER_SKIPPED t e) F.CODEC_ITER_SKIPPED_COUNT F.CODEC_ITER_SKIPPED_OVF (j.iterMax - ran_)

/-- What a completed descriptor writes: output bytes, status bytes 2 to 15, and the device with its counts. -/
def Dev.codecOutput (d : Dev) (t e : Nat) (j : CodecJob) : Bytes × Bytes × Dev :=
  let c := d.codecSt t e
  let fails := fun (d : Dev) (n : Nat) => d.codecCount t e (Reg.CODEC_CRC_FAIL t e) F.CODEC_CRC_FAIL_COUNT F.CODEC_CRC_FAIL_OVF n
  let flag := fun (b : Bool) (n : Nat) => if b then n else 0
  match j.op with
  | 1 =>
    let (src, bad, d) := d.codecInput j.src j.srcBytes
    let (m, it) := ldpcRun j src
    let bits := m.bits j
    let cbOk := j.cbCrc && crcOk 2 24 bits
    let tb := (if j.first then [] else c.tb) ++ (if j.cbCrc then bits.take (bits.length - 24) else bits)
    let tbChk := j.last && j.tbCrc != 0
    let tbOk := tbChk && crcOk (j.tbCrc - 1) j.tbLen tb
    let d := (d.codecSkip t e j it).setCodec t e { c with tb := if j.last then [] else tb }
    let d := fails d (flag (j.cbCrc && !cbOk) 1 + flag (tbChk && !tbOk) 1)
    let d := if bad then d.cbIntegrity t e (j.f 0 48 16) else d
    (packLines bits, leBytes 1 it ++ leBytes 1 (flag (m.syndromeZero j) 1 + flag cbOk 2 + flag tbChk 4 + flag tbOk 8 + flag bad 16) ++ leBytes 12 0, d)
  | 2 =>
    let app := j.last && j.tbCrc != 0
    let n := j.kk - (if j.cbCrc then 24 else 0) - (if app then j.tbLen else 0)
    let (pay, _, d) := d.codecBits j n
    let tb := (if j.first then [] else c.tb) ++ pay
    let body := if app then pay ++ Config.crc (j.tbCrc - 1) tb else pay
    let body := if j.cbCrc then body ++ Config.crc 2 body else body
    let e_ := j.f 5 0 32
    let out := Config.ldpcEncode [j.bg, j.z, j.rows, j.f 6 0 24, j.f 5 36 2, e_, j.f 5 32 4] (body ++ List.replicate j.filler false)
    (packLines (out.take e_), leBytes 2 0 ++ leBytes 4 e_ ++ leBytes 8 0, d.setCodec t e { c with tb := if j.last then [] else tb })
  | 3 =>
    let (pay, _, d) := d.codecBits j (j.pk - j.pcrcLen)
    (packLines ((Config.polarEncode (j.f 4 0 64) (j.f 5 0 64) pay).take j.pe), leBytes 2 0 ++ leBytes 4 j.pe ++ leBytes 8 0, d)
  | 4 =>
    let (src, bad, d) := d.codecInput j.src j.srcBytes
    let ps := polarPaths j src
    let outs := ps.map (polarOut j)
    let rank := outs.findIdx? fun o => Config.polarCrcOk (j.f 4 0 64) (j.f 5 0 64) o
    let d := fails d (flag rank.isNone 1)
    (packLines ((outs.getD (rank.getD 0) []).take j.pk), leBytes 1 0 ++ leBytes 1 (flag rank.isSome 1 + rank.getD 0 * 2 + flag bad 16) ++ leBytes 12 0, d)
  | _ =>
    let (src, _, d) := d.codecInput j.src j.srcBytes
    let cfg := match d.cell? t (j.f 4 32 10) with | some x => cellPrach x | none => 0
    let (found, sigma) := prachRun j cfg src
    let (list, d) := found.foldl (fun (s : Bytes × Dev) f =>
      let (w, d) := s.2.fresh
      (s.1 ++ leBytes 8 (f.1 + f.2.1 % 65536 * 2 ^ 8 + w.toNat % 256 * 2 ^ 24), d)) ([], d)
    let d := d.codecCount t e (Reg.CODEC_DETECT t e) F.CODEC_DETECT_COUNT F.CODEC_DETECT_OVF found.length
    (list, leBytes 1 found.length ++ leBytes 1 0 ++ leBytes 4 sigma ++ leBytes 8 0, d)

/-- CODEC_DESC_COMPLETE: at b_i + O_i + 32 the oldest begun descriptor's output and status stand in memory and its counter is
signalled; the last one completes the loaf. -/
def codecDescCompleteEffect (t e : Nat) (d : Dev) : Dev :=
  let c := d.codecSt t e
  match c.jobs[c.done]? with
  | none => d
  | some j =>
    if !c.busy || c.done ≥ c.begun || d.paused t then d else
    let d := d.advance (c.start + j.b + j.o + 32 - (d.tile t).lk)
    let (out, st, d) := d.codecOutput t e j
    let d := (d.write j.dst out).write j.status (leBytes 2 (j.f 0 48 16) ++ st)
    let d := d.codecCount t e (Reg.CODEC_BLOCKS t e) F.CODEC_BLOCKS_COUNT F.CODEC_BLOCKS_OVF 1
    let c := d.codecSt t e
    let d := (d.setCodec t e { c with done := c.done + 1 }).setFs (Reg.CODEC_STATUS t e)
      [(F.CODEC_STATUS_STATE, if c.done + 1 < c.begun then 1 else d.getF (Reg.CODEC_STATUS t e) F.CODEC_STATUS_STATE), (F.CODEC_STATUS_LOCAL, (d.tile t).lk - c.start)]
    let d := if j.sig then d.unitSignal t j.counter 1 0 (engineUnit t e) false else d
    if c.done + 1 == c.jobs.length then d.codecEnd t e 0 0 else d
def execCodecDescComplete (t : Tile) (e : Engine) (s : State) : Host.Outcome State Fault Refusal := ran s (codecDescCompleteEffect t e)

/-- LDPC_EARLY_TERMINATION: the iteration that met the syndrome and the CRC ends at b + 16 + k × t_iter; the decoder is gated and the
iterations not run are counted. No time moves for the descriptor (R300). -/
def ldpcEarlyTerminationEffect (t e : Nat) (d : Dev) : Dev :=
  let c := d.codecSt t e
  match c.jobs[c.done]? with
  | none => d
  | some j =>
    let it := (ldpcRun j (d.codecInput j.src j.srcBytes).1).2
    if !c.busy || j.op != 1 || c.done + 1 != c.begun || decide (c.counted > c.done) || it ≥ j.iterMax || d.paused t then d else
    let d := d.advance (c.start + j.b + 16 + it * j.tIter - (d.tile t).lk)
    let d := d.codecSkip t e j it
    (d.setCodec t e { d.codecSt t e with counted := c.done + 1 }).setFs (Reg.CODEC_STATUS t e)
      [(F.CODEC_STATUS_STATE, 2), (F.CODEC_STATUS_LOCAL, (d.tile t).lk - c.start)]
def execLdpcEarlyTermination (t : Tile) (e : Engine) (s : State) : Host.Outcome State Fault Refusal := ran s (ldpcEarlyTerminationEffect t e)

end Sys2Proof.Machine
end

