-- ==== Sys2Proof/Machine/Events.lean ====
section
/-! DEFINITION. Events: event rings, MSI-X vectors and completions of host writes (R26 to R29, R413, R414, R484, R491, R516). -/
namespace Sys2Proof.Machine

/-! ## Vectors (R491) -/

/-- A vector whose causes are done: a message, or its pending bit while it is masked. -/
def Dev.deliverVector (d : Dev) (v : Nat) : Dev :=
  if d.ev.unmasked.contains v then d.send (.msix v)
  else if d.ev.pendingBits.contains v then d
  else { d with ev := { d.ev with pendingBits := d.ev.pendingBits ++ [v] } }

/-- A vector is signalled once the outstanding host writes of a kind and slice are done; a signal before its message is sent
merges into it. -/
def Dev.vector (d : Dev) (v : Nat) (kind : HostKind) (slice : Nat) : Dev :=
  let ids := (d.hostWrites.filter fun w => w.kind == kind && w.slice == slice).map (·.id)
  if d.ev.vectors.any (·.1 == v) then
    { d with ev := { d.ev with vectors := d.ev.vectors.map fun (p : Nat × List Nat) => if p.1 == v then (v, p.2 ++ ids) else p } }
  else if ids.isEmpty then d.deliverVector v
  else { d with ev := { d.ev with vectors := d.ev.vectors ++ [(v, ids)] } }

/-- A write to host memory is done: vectors that waited for it alone are sent (R484, R491). -/
def Dev.writeDone (d : Dev) (id : Nat) : Dev :=
  let d := { d with hostWrites := d.hostWrites.filter fun w => w.id != id }
  let vs := d.ev.vectors.map fun (p : Nat × List Nat) => (p.1, p.2.filter (· != id))
  let d := { d with ev := { d.ev with vectors := vs.filter fun p => !p.2.isEmpty } }
  (vs.filter fun p => p.2.isEmpty).foldl (fun d p => d.deliverVector p.1) d

/-- MSIX_UNMASK, where BAR2 is served (R482, R494, R510): one message follows the unmask of a vector whose pending bit is set. -/
def msixUnmaskEffect (v : Nat) (d : Dev) : Dev :=
  if d.ioOnly || d.ideBlocked || d.recovery || d.ev.unmasked.contains v then d else
  let was := d.ev.pendingBits.contains v
  let d := { d with ev := { d.ev with unmasked := d.ev.unmasked ++ [v], pendingBits := d.ev.pendingBits.filter (· != v) } }
  if was then d.send (.msix v) else d
def execMsixUnmask (v : Fin 2048) (s : State) : Host.Outcome State Fault Refusal := ran s (msixUnmaskEffect v)

/-! ## Rings (R29, R413, R414) -/

/-- The device ring's number beside the 64 slices. -/
def devRing : Nat := 64
/-- The registers of a ring: address, pointers, discards. -/
def ringRegs (r : Nat) : Nat × Nat × Nat :=
  if r == devRing then (Reg.DEVICE_EV_RING, Reg.DEVICE_EV_PTR, Reg.DEVICE_EV_DISCARD)
  else (Reg.SLICE_EV_RING r, Reg.SLICE_EV_PTR r, Reg.SLICE_EV_DISCARD r)
/-- The INTEGRITY section of the first tile that has one: its header's device-wide fields agree in all (R446). -/
def Dev.integHdr (d : Dev) : Bytes := ((tiles6.map fun t => d.section_ secIntegrity t).find? (· != [])).getD []
/-- The proving log's number beside the event rings (R442). -/
def logRing : Nat := 65
/-- The vector of a ring: EV_VECTOR of the slice's record, 0 for the device ring. -/
def Dev.ringVector (d : Dev) (r : Nat) : Nat :=
  if r == devRing then 0 else if r == logRing then leAt d.integHdr 21 2 % 2048 else match d.sliceRec r with | some b => leAt b 37 2 % 2048 | none => 0

/-- A record that finds no room is discarded and counted; the ring's next record carries LOST. -/
def Dev.ringDiscard (d : Dev) (r : Nat) : Dev :=
  let (_, _, c) := ringRegs r
  let d := d.count c F.SLICE_EV_DISCARD_COUNT 1
  if d.ev.lostRings.contains r then d else { d with ev := { d.ev with lostRings := d.ev.lostRings ++ [r] } }

/-- Write a record to a ring. -/
def Dev.ringWrite (d : Dev) (r : Nat) (e : EventRec) : Dev :=
  let (a, p, _) := ringRegs r
  let base := d.getF a F.SLICE_EV_RING_ADDR * 4096
  let size := 2 ^ d.getF a F.SLICE_EV_RING_LOG2
  let tail := d.getF p F.SLICE_EV_PTR_TAIL
  let head := d.getF p F.SLICE_EV_PTR_HEAD
  if base == 0 || (tail + 2 ^ 32 - head) % 2 ^ 32 == size then d.ringDiscard r
  else
    let e := { e with lost := d.ev.lostRings.contains r }
    let d := (d.hostWrite .event r (base + tail % size * 32) e.bytes).setF p F.SLICE_EV_PTR_TAIL (tail + 1)
    { d with ev := { d.ev with lostRings := d.ev.lostRings.filter (· != r), rung := if d.ev.rung.contains r then d.ev.rung else d.ev.rung ++ [r] } }

/-- EVENT_RECORD_WRITE: the oldest event goes to its ring; before the device ring is set up it waits in the 32-record boot buffer. -/
def eventRecordWriteEffect (d : Dev) : Dev :=
  match d.ev.arisen with
  | [] => d
  | e :: r =>
    let d := { d with ev := { d.ev with arisen := r } }
    if e.slice < 64 then d.ringWrite e.slice e
    else if d.getF Reg.DEVICE_EV_RING F.DEVICE_EV_RING_ADDR == 0 then
      if d.ev.boot.length < 32 then { d with ev := { d.ev with boot := d.ev.boot ++ [e] } } else d.ringDiscard devRing
    else d.ringWrite devRing e
def execEventRecordWrite (s : State) : Host.Outcome State Fault Refusal := ran s eventRecordWriteEffect

/-- After the last record of a tick the ring's vector is signalled once (R413). -/
def Dev.ringVectors (d : Dev) : Dev :=
  let rs := d.ev.rung
  rs.foldl (fun d r => d.vector (d.ringVector r) (if r == logRing then .log else .event) r) { d with ev := { d.ev with rung := [] } }

/-- DEVICE_RING_ADDRESS_WRITE: the host driver sets the device ring's address; the boot buffer's records are written then (R516). -/
def deviceRingAddressWriteEffect (m : Master) (v : Word) (d : Dev) : Dev :=
  if m != hostDriver then d else
  let d := d.rwWrite Reg.DEVICE_EV_RING v
  if d.getF Reg.DEVICE_EV_RING F.DEVICE_EV_RING_ADDR == 0 then d else
  let b := d.ev.boot
  b.foldl (fun d e => d.ringWrite devRing e) { d with ev := { d.ev with boot := [] } }
def execDeviceRingAddressWrite (m : Master) (v : Word) (s : State) : Host.Outcome State Fault Refusal :=
  ranFrom m s (deviceRingAddressWriteEffect m v)

/-! ## Failed host accesses (Table 21.2) -/

/-- An access whose translation faults: event 0xE0C4 and its counter (R485). -/
def Dev.atsFault (d : Dev) (slice : Option Nat) (addr : Nat) : Dev :=
  let pasid := match slice with | some s => d.getF (Reg.SLICE_CFG s) F.SLICE_CFG_PASID | none => 0xFFFFFFFF
  (d.count Reg.CXL_ATS_FAULTS F.CXL_ATS_FAULTS_COUNT 1).raise 0xE0C4 (slice.getD 0xFF) cxlPort pasid addr

/-- How a fetch ended, its fault reported. -/
def Dev.fetchEnd (d : Dev) (how : FetchEnd) (slice : Option Nat) (addr : Nat) : Dev :=
  match how with | .translation => d.atsFault slice addr | _ => d

end Sys2Proof.Machine
end

