-- ==== Sys2Proof/Machine/HostMem.lean ====
section
/-! DEFINITION. HostMem: host accesses to the DRAM by CXL.mem, snoops, and the ends of the device's own writes to host memory
(R211, R212, R484 to R488). -/
namespace Sys2Proof.Machine

/-- The DPA a host address decodes to, none outside HDM decoder 0 or before it is committed (R486). -/
def Dev.hdmDecode (d : Dev) (a : Nat) : Option Nat :=
  let base := d.getF Reg.CXL_HDM F.CXL_HDM_BASE * 2 ^ 28
  if d.getB Reg.CXL_HDM F.CXL_HDM_COMMITTED && decide (base ≤ a) && decide (a < base + dramSize) then some (a - base) else none

/-- A refused host access: event 0x4008; `what` is DETAIL byte 0, `none` says that the request decoded to no DPA. -/
def Dev.hdmRefuse (d : Dev) (dpa : Option Nat) (a what : Nat) : Dev :=
  match dpa with
  | some x => d.raise 0x4008 0xFF cxlPort (x / 256) what
  | none => d.raise 0x4008 0xFF cxlPort (a / 256) (what + 256)

/-- What an HDM read returns: a line, or poison whose data the spec does not state. -/
def Dev.hdmAnswer (d : Dev) (data : Option Bytes) : Dev :=
  match data with
  | some l => { d.send (.hdmData l false) with readOut := BitVec.ofNat 64 (leAt l 0 8) }
  | none => let (l, d) := d.freshBytes 64; d.send (.hdmData l true)

/-- HDM_READ: a whole line; poison from a range not exposed, a bad line, no DPA or in recovery mode (R211, R212, R486, R488, R510). -/
def hdmReadEffect (a : Nat) (d : Dev) : Dev :=
  if d.ioOnly then d else
  if d.ideBlocked || d.recovery then d.hdmAnswer none else
  match d.hdmDecode a with
  | none => (d.hdmRefuse none a 0).hdmAnswer none
  | some x =>
    let ln := x / 64
    if inReserve (ln * 64) || (d.rangeAt (ln * 64)).isNone then (d.hdmRefuse (some x) a 0).hdmAnswer none
    else if d.bad ln then (d.unresolved ln 3 9 0xFF).hdmAnswer none
    else d.hdmAnswer (some (d.bytes (ln * 64) 64))
def execHdmRead (addr : Word) (s : State) : Host.Outcome State Fault Refusal := ran s (hdmReadEffect addr.toNat)

/-- HDM_WRITE: a whole line; a poisoned one is stored with a bad check; refused ones are discarded (R211, R212, R430, R486, R488). -/
def hdmWriteEffect (a : Nat) (data : Bytes) (poison : Bool) (d : Dev) : Dev :=
  if d.ioOnly || d.ideBlocked || d.recovery then d else
  match d.hdmDecode a with
  | none => d.hdmRefuse none a 1
  | some x =>
    let ln := x / 64
    if inReserve (ln * 64) || (d.rangeAt (ln * 64)).isNone then d.hdmRefuse (some x) a 1
    else
      let d := d.write (ln * 64) (bytesAt data 0 64)
      if poison then
        ({ d with lineErr := store 0#16 d.lineErr ln 0xFFFF#16 } : Dev).count Reg.CXL_POISON_RX F.CXL_POISON_RX_COUNT 1
      else d
def execHdmWrite (addr : Word) (data : Bytes) (poison : Bool) (s : State) : Host.Outcome State Fault Refusal := ran s (hdmWriteEffect addr.toNat data poison)

/-- H2D_SNOOP: the device holds no host line (R484). -/
def h2dSnoopEffect (a : Nat) (d : Dev) : Dev := d.send (.rspIHitI a)
def execH2dSnoop (addr : Word) (s : State) : Host.Outcome State Fault Refusal := ran s (h2dSnoopEffect addr.toNat)

/-- HOST_WRITE_DONE: the host's global-observation completion (R484); while IDE_REQUIRED
holds the link closed no request has been issued (R494). -/
def hostWriteDoneEffect (id : Nat) (d : Dev) : Dev := if !d.ideBlocked && d.hostWrites.any (·.id == id) then d.writeDone id else d
def execHostWriteDone (id : Nat) (s : State) : Host.Outcome State Fault Refusal := ran s (hostWriteDoneEffect id)

/-- The write kinds that are retried until done (Table 21.2). -/
def HostKind.retried : HostKind → Bool
  | .journal | .completion | .indication | .event | .log => true
  | _ => false

/-- HOST_WRITE_RETRY: a failed write is sent again 1 µs later, counted in CXL_WRITE_RETRY (R485, Table 21.2). -/
def hostWriteRetryEffect (id : Nat) (how : FetchEnd) (d : Dev) : Dev :=
  match d.hostWrites.find? (·.id == id), how with
  | some _, .ok => d
  | some w, how =>
    let d := d.fetchEnd how (if w.slice < 64 then some w.slice else none) w.addr
    if !w.kind.retried then (if w.kind == .tier then d.tierHostFailed id else d).writeDone id else
    ({ d with hostWrites := d.hostWrites.map fun x => if x.id == id then { x with retries := x.retries + 1 } else x } : Dev).count
      Reg.CXL_WRITE_RETRY F.CXL_WRITE_RETRY_COUNT 1
  | none, _ => d
def execHostWriteRetry (id : Nat) (how : FetchEnd) (s : State) : Host.Outcome State Fault Refusal := ran s (hostWriteRetryEffect id how)

end Sys2Proof.Machine
end

