-- ==== Sys2Proof/Machine/Cxl.lean ====
section
/-! DEFINITION. Cxl: the link, translations, the HDM decoder and the DOE mailbox (R482 to R493). A link reset is in Reset. -/
namespace Sys2Proof.Machine

/-! ## The link (R482, R483) -/

/-- What a link serves: all three protocols, or CXL.io alone when one is missing or 256-byte flit mode is (R482). -/
def linkProto (flit256 : Bool) (proto : Nat) : Nat := if flit256 && proto == 7 then 7 else 1
/-- The width, rate and flit fields of CXL_LINK. -/
def Dev.setLink (d : Dev) (width : Nat) (fast lopt : Bool) : Dev :=
  d.setFs Reg.CXL_LINK [(F.CXL_LINK_WIDTH, width), (F.CXL_LINK_RATE, if fast then 2 else 1), (F.CXL_LINK_LOPT, if lopt then 1 else 0)]

/-- CXL_LINK_TRAINED: the negotiated width, rate and flits; a link held in CXL.io alone raises event 0xE0C2. -/
def cxlLinkTrainedEffect (width : Nat) (fast lopt flit256 : Bool) (proto : Nat) (d : Dev) : Dev :=
  let p := linkProto flit256 proto
  let d := (d.setLink width fast lopt).setF Reg.CXL_LINK F.CXL_LINK_PROTO p
  if p == 7 then d else d.raise 0xE0C2 0xFF cxlPort p 0
def execCxlLinkTrained (width : Nat) (fast lopt flit256 : Bool) (proto : BitVec 3) (s : State) : Host.Outcome State Fault Refusal :=
  ran s (cxlLinkTrainedEffect width fast lopt flit256 proto.toNat)

/-- CXL_LINK_DEGRADED: a retrain at lower width or rate without DL_Down keeps serving and raises event 0xE0C1. -/
def cxlLinkDegradedEffect (width : Nat) (fast lopt : Bool) (d : Dev) : Dev :=
  if d.getF Reg.CXL_LINK F.CXL_LINK_PROTO == 0 then d else
  let d := d.setLink width fast lopt
  d.raise 0xE0C1 0xFF cxlPort width (d.getF Reg.CXL_LINK F.CXL_LINK_RATE)
def execCxlLinkDegraded (width : Nat) (fast lopt : Bool) (s : State) : Host.Outcome State Fault Refusal := ran s (cxlLinkDegradedEffect width fast lopt)

/-! ## Translations (R485) -/

/-- An outstanding CXL.cache write uses the translation of an address: its slice's PASID, or none for a device-level one. -/
def Dev.uses (d : Dev) (w : HostWrite) (pasid : Option Nat) (a n : Nat) : Bool :=
  let p := if w.slice < 64 then some (d.getF (Reg.SLICE_CFG w.slice) F.SLICE_CFG_PASID) else none
  p == pasid && decide (w.addr < a + n) && decide (a < w.addr + w.data.length)
/-- ATS_INVALIDATION: completes once no outstanding request uses the entry; until then it is still to come. -/
def atsInvalidationEffect (pasid : Option Nat) (a n : Nat) (d : Dev) : Dev :=
  if d.hostWrites.any fun w => d.uses w pasid a n then d else d.send .invalidationDone
def execAtsInvalidation (pasid : Option (BitVec 20)) (addr : Word) (len : Nat) (s : State) : Host.Outcome State Fault Refusal :=
  ran s (atsInvalidationEffect (pasid.map (·.toNat)) addr.toNat len)

/-! ## HDM decoder 0 (R486) -/

/-- HDM_COMMIT: a base that is a multiple of 256 MiB with the size of exactly 768 GiB is committed, and locked until a device
reset; any other commit is refused, and one that BAR0 does not serve changes nothing (R494, R510). -/
def hdmCommitEffect (base size : Nat) (d : Dev) : Dev :=
  if d.ideBlocked || d.recovery || d.getB Reg.CXL_HDM F.CXL_HDM_COMMITTED || base % 2 ^ 28 != 0 || size != dramSize then d
  else d.setFs Reg.CXL_HDM [(F.CXL_HDM_COMMITTED, 1), (F.CXL_HDM_BASE, base / 2 ^ 28)]
def execHdmCommit (base : Word) (size : Nat) (s : State) : Host.Outcome State Fault Refusal := ran s (hdmCommitEffect base.toNat size)

/-! ## The DOE mailbox (R492, R493) -/

/-- The objects of Table 21.5: vendor, type. -/
def doeObjects : List (Nat × Nat) := [(0x0001, 0), (0x0001, 1), (0x0001, 2), (0x1E98, 2)]
/-- The discovery response to an index: vendor, type and next index; the empty error past the list (R492). -/
def doeDiscoveryReply (i : Nat) : Bytes :=
  match doeObjects[i]? with
  | some (v, ty) => leBytes 2 v ++ leBytes 1 ty ++ leBytes 1 (if i + 1 < doeObjects.length then i + 1 else 0)
  | none => []
/-- DOE_DISCOVERY. Until the stewards are released, configuration requests, and with them the mailbox, are answered with Retry Status (R508);
in recovery mode discovery is served (R510). -/
def doeDiscoveryEffect (i : Nat) (d : Dev) : Dev := if d.getF Reg.SEC_STATUS F.SEC_STATUS_STAGE == 0 then d else d.send (.doe (doeDiscoveryReply i))
def execDoeDiscovery (index : BitVec 8) (s : State) : Host.Outcome State Fault Refusal := ran s (doeDiscoveryEffect index.toNat)

/-- The CDAT (R493): entry 0 the DSMAS as [base, size, non-volatile], entries 1 and 2 the read and write DSLBIS as [latency in ns,
bandwidth in GB/s]. -/
def cdatEntry (i : Nat) : List Nat :=
  match i with | 0 => [0, dramSize, 0] | 1 => [650, 128] | 2 => [450, 128] | _ => []
/-- CDAT_READ: the entry asked for; its encoding is the CDAT's own (log entry 30). In recovery mode it is an object not listed (R510). -/
def cdatReadEffect (i : Nat) (d : Dev) : Dev :=
  if d.getF Reg.SEC_STATUS F.SEC_STATUS_STAGE == 0 then d else if d.recovery then d.send (.doe []) else d.send (.doe (Config.cdatBytes (cdatEntry i)))
def execCdatRead (entry : BitVec 16) (s : State) : Host.Outcome State Fault Refusal := ran s (cdatReadEffect entry.toNat)

end Sys2Proof.Machine
end

