-- ==== Sys2Proof/Machine/Tray.lean ====
section
/-! DEFINITION. Tray: trays and their rings: doorbells, acceptance with its checks, commits, completion records and aborts
(R215 to R227, R239 to R241). -/
namespace Sys2Proof.Machine

/-! ## Doorbells and fetches (R217, R241) -/

/-- The slice of a tray, and whether a master may write its doorbell and abort (R241). -/
def Dev.traySlice (d : Dev) (n : Nat) : Nat := d.getF (Reg.TRAY_CFG n) F.TRAY_CFG_SLICE
def Dev.trayWriter (d : Dev) (n : Nat) (m : Master) : Bool := m == hostDriver || m.toNat == 0xC000 + d.traySlice n
/-- SLICE_STATUS.STATE. -/
def Dev.sliceState (d : Dev) (s : Nat) : Nat := d.getF (Reg.SLICE_STATUS s) F.SLICE_STATUS_STATE
/-- Slots of a tray's rings. -/
def Dev.trayE (d : Dev) (n : Nat) : Nat := 2 ^ d.getF (Reg.TRAY_CFG n) F.TRAY_CFG_LOG2_ENTRIES
def Dev.trayNext (d : Dev) (n : Nat) : BitVec 64 := d.reg (Reg.TRAY_NEXT_SEQ n)
def Dev.trayDone (d : Dev) (n : Nat) : BitVec 64 := d.reg (Reg.TRAY_DONE_SEQ n)

/-- a lies ahead of b under R32. -/
def ahead (a b : BitVec 64) : Bool := a != b && decide ((a - b).toNat < 2 ^ 63)

/-- A tray takes writes while it is enabled and its slice is not resetting (Table 17.6). -/
def Dev.trayLive (d : Dev) (n : Nat) : Bool :=
  d.getB (Reg.TRAY_CFG n) F.TRAY_CFG_ENABLED && d.sliceState (d.traySlice n) != 2 && d.sliceState (d.traySlice n) != 0

/-- TRAY_DOORBELL: a value ahead of the last taken and at most E ahead of TRAY_NEXT_SEQ starts a fetch. BAR2 is not served over a
link held in CXL.io alone (R482). -/
def trayDoorbellEffect (m : Master) (n : Nat) (v : Word) (d : Dev) : Dev :=
  let x := d.tray n
  if d.ioOnly || !d.trayWriter n m || !d.trayLive n || !ahead v x.taken || decide ((v - d.trayNext n).toNat > d.trayE n) then d else
  d.setTray n { x with taken := v, batches := x.batches ++ [⟨x.taken, (v - x.taken).toNat, none⟩] }
def execTrayDoorbell (m : Master) (n : TrayIx) (v : Word) (s : State) : Host.Outcome State Fault Refusal := ranFrom m s (trayDoorbellEffect m n v)

/-- The entries of a batch as the ring in device DRAM holds them. -/
def Dev.ringEntries (d : Dev) (n : Nat) (b : TrayBatch) : List Bytes :=
  (List.range b.count).map fun i => d.bytes (d.getF (Reg.TRAY_RING n) F.TRAY_RING_ADDR * 256 + 256 * (((b.first + BitVec.ofNat 64 i).toNat) % d.trayE n)) 256

/-- A batch's entries land, or its fetch fails and the doorbell counts as not taken (Table 21.2). -/
def landBatch (es : Option (List Bytes)) : List TrayBatch → List TrayBatch × Option (BitVec 64)
  | [] => ([], none)
  | b :: r =>
    if b.landed.isSome then let (l, x) := landBatch es r; (b :: l, x)
    else match es with
      | some l => ({ b with landed := some l } :: r, none)
      | none => ([], some b.first)

/-- TRAY_FETCH_DONE: the oldest fetch of a tray ends. The entries of a ring in host memory come with the command. -/
def trayFetchDoneEffect (n : Nat) (es : List Bytes) (how : FetchEnd) (d : Dev) : Dev :=
  let x := d.tray n
  match x.batches.find? fun b => b.landed.isNone with
  | none => d
  | some b =>
    let own := d.getB (Reg.TRAY_CFG n) F.TRAY_CFG_RING_SPACE
    match how with
    | .ok =>
      if own then d.setTray n { x with batches := (landBatch (some (d.ringEntries n b)) x.batches).1 }
      else if es.length != b.count || !(es.all fun e => e.length == 256) then d
      else d.setTray n { x with batches := (landBatch (some es) x.batches).1 }
    | h =>
      let d := d.fetchEnd h (some (d.traySlice n)) (d.getF (Reg.TRAY_RING n) F.TRAY_RING_ADDR * 256 + 256 * (b.first.toNat % d.trayE n))
      let (l, back) := landBatch none x.batches
      d.setTray n { x with batches := l, taken := back.getD x.taken }
def execTrayFetchDone (n : TrayIx) (es : List Bytes) (how : FetchEnd) (s : State) : Host.Outcome State Fault Refusal := ran s (trayFetchDoneEffect n es how)

/-- TRAY_ABORT: an abort lands; it replaces one still pending (R239). -/
def trayAbortEffect (m : Master) (n : Nat) (q : Word) (d : Dev) : Dev :=
  if !d.trayWriter n m || !d.trayLive n then d else
  (d.setTray n { d.tray n with abort := some q, abortAhead := none }).setB (Reg.TRAY_STATUS n) F.TRAY_STATUS_ABORT_PENDING true
def execTrayAbort (m : Master) (n : TrayIx) (q : Word) (s : State) : Host.Outcome State Fault Refusal := ranFrom m s (trayAbortEffect m n q)

/-! ## Snapshot (R45) -/

/-- The enabled trays homed on a tile, in ascending order. -/
def Dev.homeTrays (d : Dev) (t : Nat) : List Nat :=
  (List.range 512).filter fun n => d.getB (Reg.TRAY_CFG n) F.TRAY_CFG_ENABLED && d.getF (Reg.TRAY_CFG n) F.TRAY_CFG_HOME_TILE == t

/-- What the snapshot sees of a tray: the entries landed so far in doorbell order, and the abort that has landed. -/
def Dev.traySnapshot (d : Dev) (n : Nat) : Dev :=
  let x := d.tray n
  let seen := ((x.batches.takeWhile fun b => b.landed.isSome).map fun b => (b.landed.getD []).length).sum
  d.setTray n { x with seen := seen, abortSeen := x.abort }

/-! ## Ends of entries (R224, R225) -/

/-- An entry's completion is decided, once. -/
def Dev.finish (d : Dev) (t : Nat) (e : Entry) (st reason obj : Nat) : Dev :=
  if e.ending.isSome then d else
  let d := if st == 5 then d.raise 0x1026 e.slice (stewardOf t) e.tray e.seq.toNat else d
  let d := if st == 4 || st == 5 || st == 6 || st == 7 then d.triggerHere e.slice 2 else d
  d.modSch t fun x => x.putEntry { e with ending := some ⟨st, reason, obj⟩, doneTick := d.tickNo, aborted := e.aborted || st == 1 }

/-- Bench lines of a freed context stay marked as held by its slice until they are zeroed (R416); its counters become FREE. -/
def Dev.freeCtx (d : Dev) (t : Nat) (c : TCtx) : Dev :=
  let d := c.roles.foldl (fun (d : Dev) r => (List.range c.ctrN).foldl (fun (d : Dev) i =>
    d.ctrWrite t (r.ctr + i) 0#64) d) d
  (d.modSch t fun x => { x with
    ctxs := x.ctxs.filter fun o => !(o.slice == c.slice && o.id == c.id)
    svc := x.svc.filter fun v => !(v.slice == c.slice && v.ctx == c.id)
    plan := x.plan.filter fun p => !(p.slice == c.slice && p.ctx == c.id)
    running := x.running.filter fun p => !(p.slice == c.slice && p.ctx == c.id) }).syncContexts t

/-- The completion record (Table 09.6). -/
def completionBytes (e : Entry) (x : EntryEnd) : Bytes :=
  leBytes 8 e.seq.toNat ++ leBytes 1 x.status ++ leBytes 1 x.reason ++ leBytes 2 0 ++ leBytes 4 e.done ++ leBytes 8 e.accepted ++
  leBytes 8 e.doneTick ++ leBytes 4 x.object ++ List.replicate 28 0#8

/-- The completion record of the entry at TRAY_DONE_SEQ, once its end is decided and its journal write is done. -/
def Dev.flushOne (d : Dev) (t n : Nat) : Option Dev :=
  match (d.sch t).entries.find? fun e => e.tray == n && e.seq == d.trayDone n with
  | none => none
  | some e =>
    match e.ending with
    | none => none
    | some x =>
      if d.hostWrites.any (·.id == e.journal) then none else
      let a := d.getF (Reg.TRAY_COMPLETION n) F.TRAY_COMPLETION_ADDR * 64 + 64 * (e.seq.toNat % d.trayE n)
      let d := d.hostWrite .completion e.slice a (completionBytes e x)
      let d := d.setReg (Reg.TRAY_DONE_SEQ n) (e.seq + 1)
      let d := if entIrq e.raw then d.vector (d.getF (Reg.TRAY_CFG n) F.TRAY_CFG_VECTOR) .completion e.slice else d
      let d := d.modSch t fun y => { y with entries := y.entries.filter fun o => !(o.key == e.key) }
      match (d.sch t).ctx? e.slice (entCtx e.raw) with
      | some c =>
        if x.status == 2 || !entClose e.raw then some d
        else if x.status == 0 then some (d.freeCtx t c)
        else some (d.modSch t fun y => y.putCtx { c with open_ := true })
      | none => some d
/-- All completion records of a tray that may be written now. -/
def Dev.flush (t n : Nat) : Nat → Dev → Dev
  | 0, d => d
  | k + 1, d => match d.flushOne t n with | some d' => Dev.flush t n k d' | none => d

/-! ## Checks of an entry (Table 09.2) -/

/-- A programme and its records satisfy R221. -/
def Dev.progOk (d : Dev) (sl p : Nat) : Bool :=
  let h := d.progHdr p
  let roles := fun (m : Nat) => (lanesOf m).all fun j => decide (roleOf j < h.cores)
  let varOk := fun (lanes a : Nat) =>
    let v := d.variant a
    d.inPrivate sl a (a + 656) && v.zeroOk && decide (v.nReq ≤ 16) && decide (1 ≤ v.length) && decide (v.length ≤ 1250000) && v.reqs.all (·.zeroOk) &&
      v.images.zipIdx.all fun i => (i.1 != 0) == (lanes / 2 ^ i.2 % 2 == 1) && (i.1 == 0 || d.inPrivate sl i.1 (i.1 + 64))
  h.zeroOk && decide (1 ≤ h.nSteps) && decide (h.nSteps ≤ 4096) && decide (1 ≤ h.cores) && decide (h.cores ≤ 16) && decide (1 ≤ h.batchRows) &&
  decide (h.batchRows ≤ 128) && decide (h.ctrN ≤ 48) && d.inPrivate sl p (p + 64 + 64 * h.nSteps) &&
  (List.range h.nSteps).all fun i =>
    let s := d.stepRec p i
    s.zeroOk && s.lanes != 0 && roles s.lanes && decide (1 ≤ s.nVar) && decide (s.nVar ≤ 4) &&
    s.vars.zipIdx.all fun v => if v.2 < s.nVar then varOk s.lanes v.1 else v.1 == 0

/-- The most lines that a programme's variants leave live. -/
def Dev.liveMost (d : Dev) (p : Nat) : Nat :=
  ((List.range (d.progHdr p).nSteps).flatMap fun i => let s := d.stepRec p i; (s.vars.take s.nVar).map fun a => (d.variant a).live).foldl max 0
/-- As many positions as the programme has cores hold a save area within the slice's ranges (R235). The positions are not known before the
context is placed (log entry 17). -/
def Dev.saveFits (d : Dev) (t sl off p : Nat) : Bool :=
  let own := fun i => let a := t * 2 ^ 37 + i * 2 ^ 33 + off; d.inPrivate sl a (a + 256 + 64 * d.liveMost p)
  decide ((d.progHdr p).cores ≤ (List.range 16).countP own)

/-- The checks of Table 09.2, in order of reason. -/
def Dev.entryCheck (d : Dev) (t sl : Nat) (l : Bytes) : Option Nat :=
  let k := entKind l
  let c := (d.sch t).ctx? sl (entCtx l)
  let p := entProg l
  let out := entOut l
  let own := d.inPrivate sl
  if leAt l 14 2 != 0 || leAt l 96 32 != 0 || decide (k > 3) || decide (entPrio l > 3) || leAt l 10 1 / 8 != 0 ||
      (if k == 2 then decide (leAt l 11 1 < 6) || decide (leAt l 11 1 > 12) || entTokens l == 0 || decide (entTokens l > 2 ^ 20)
       else leAt l 11 1 != 0 || entTokens l != 0) || (k == 3 && p != 0) || (!entOpen l && entSpill l != 0) then some 1
  else if (if entOpen l then c.isSome || decide ((d.sch t).ctxs.length ≥ 256) else (match c with | some x => !x.open_ | none => true)) then some 2
  else if (k != 3 && (!own p (p + 64) || !own (entIn l) (entIn l + 1))) || out % 64 != 0 || !own out (out + 64 * (1 + entOutLines l)) ||
      (entOpen l && (entSpill l % 0x200000 != 0 || decide (entSpill l ≥ 2 ^ 33) || (k != 3 && d.progOk sl p && !d.saveFits t sl (entSpill l) p))) then some 3
  else if k != 3 && (!d.progOk sl p ||
      (match c with
        | some x => x.lines != 0 && (x.lines != (d.progHdr p).lines || (x.placed && x.roles.length != (d.progHdr p).cores))
        | none => false) ||
      (k == 2 && (d.chunkBody p).2 == 0)) then some 4
  else none

/-! ## Acceptance (R219, R220) -/

/-- The first landed entry of a tray, and the batches without it. -/
def takeEntry : List TrayBatch → Option (Bytes × List TrayBatch)
  | [] => none
  | b :: r => match b.landed with
    | some (e :: es) => some (e, if es.isEmpty then r else { b with landed := some es } :: r)
    | _ => none

/-- A context that an accepted OPEN entry creates by name; it has no cores until it is first placed (R228). -/
def newCtx (sl : Nat) (l : Bytes) (h : ProgHdr) : TCtx :=
  ⟨sl, entCtx l, entPrio l, h.lines, h.ctrN, entSpill l, h.argLine, h.batchRows, [], .resident, 0, 0, [], true⟩

/-- One entry of a tray: accepted with its journal record and checked, or the tray halts. Answers the device and whether it goes on. -/
def Dev.acceptOne (d : Dev) (t n : Nat) : Option Dev :=
  let x := d.tray n
  let sl := d.traySlice n
  if x.seen == 0 || d.getB (Reg.TRAY_STATUS n) F.TRAY_STATUS_HALTED || d.sliceState sl != 1 then none else
  match takeEntry x.batches with
  | none => none
  | some (l, bs) =>
    let q := BitVec.ofNat 64 (leAt l 0 8)
    if q != d.trayNext n then
      some (((d.setTray n { x with batches := [], seen := 0 }).setB (Reg.TRAY_STATUS n) F.TRAY_STATUS_HALTED true).raise 0x1021 sl (stewardOf t) n q.toNat)
    else
      let j := d.hostNext
      let d := d.hostWrite .journal sl (d.getF (Reg.TRAY_JOURNAL n) F.TRAY_JOURNAL_ADDR * 64 + 64 * (q.toNat % d.trayE n))
        (leBytes 8 q.toNat ++ leBytes 8 d.tickNo ++ List.replicate 48 0#8)
      let d := (d.setReg (Reg.TRAY_NEXT_SEQ n) (q + 1)).setTray n { x with batches := bs, seen := x.seen - 1 }
      let e : Entry := ⟨n, q, l, sl, d.tickNo, j, 0, 0, 0, 0, none, 0, false, none, 0⟩
      let put := fun (d : Dev) => d.modSch t fun y => { y with entries := y.entries ++ [e] }
      let opens := fun (d : Dev) => if entOpen l && ((d.sch t).ctx? sl (entCtx l)).isNone then
        d.modSch t fun y => { y with ctxs := y.ctxs ++ [newCtx sl l (if entKind l == 3 then ⟨0, 0, 0, 0, 0, 0, true⟩ else d.progHdr (entProg l))] } else d
      if x.abortAhead == some q then
        -- R239: an abort that waits for this entry
        let d := (put (opens d)).finish t e 1 0 0
        some ((d.setTray n { d.tray n with abortAhead := none }).setFs (Reg.TRAY_STATUS n) [(F.TRAY_STATUS_ABORT_PENDING, 0), (F.TRAY_STATUS_ABORT_RESULT, 2)])
      else match d.entryCheck t sl l with
        | some r => some (((put d).raise 0x1020 sl (stewardOf t) n q.toNat).finish t e 2 r 0)
        | none =>
          let d := put (opens d)
          some (if entClose l then d.modSch t fun y => match y.ctx? sl (entCtx l) with | some c => y.putCtx { c with open_ := false } | none => y else d)

/-- Up to `k` entries of a tray; answers how many are left of the slot's limit. -/
def Dev.acceptTray (t n : Nat) : Nat → Dev → Dev × Nat
  | 0, d => (d, 0)
  | k + 1, d => match d.acceptOne t n with
    | some d' => Dev.acceptTray t n k d'
    | none => (d, k + 1)

/-- Acceptance on a tile: trays in ascending order, at most ACCEPT_MAX entries. -/
def Dev.acceptAll (d : Dev) (t : Nat) : Dev :=
  let n := d.getF (Reg.SCHED_CFG t) F.SCHED_CFG_ACCEPT_MAX
  ((d.homeTrays t).foldl (fun (s : Dev × Nat) n => Dev.acceptTray t n s.2 s.1) (d, if n == 0 then 256 else n)).1

/-! ## Commit (R223) -/

/-- RESULT of an entry's argument record, as the context's lowest role holds it. -/
def Dev.entResult (d : Dev) (t : Nat) (e : Entry) : Bytes :=
  match (d.sch t).ctx? e.slice (entCtx e.raw) with
  | some c => match c.roles.head? with
    | some r => match d.physOf t r.core with
      | some k => d.bytes (benchAt t k ((r.lo + c.argLine) * 64 + 256 * e.row + 160)) 32
      | none => List.replicate 32 0#8
    | none => List.replicate 32 0#8
  | none => List.replicate 32 0#8

/-- A commit of the shadowed tray extends the chain (R476). -/
def Dev.chainCommit (d : Dev) (e : Entry) : Dev :=
  let m := d.memb
  let r := d.getF Reg.MEMB_SHADOW_STATUS F.MEMB_SHADOW_STATUS_RESULT
  if !d.shadowOn || r == 0 || e.tray != d.getF Reg.MEMB_SHADOW F.MEMB_SHADOW_TRAY || ahead (d.reg Reg.MEMB_SHADOW_SEQ) e.seq then d else
  let c := leBytes 32 (Config.sha3 (bytesAt m.chain 0 32 ++ leBytes 8 e.seq.toNat ++ d.bytes (entOut e.raw + 64) (64 * entOutLines e.raw))).toNat
  { d with memb := { m with chain := c, count := m.count + 1, hist := ((m.count + 1, c) :: m.hist).take 256 } }

/-- Entries whose last step is complete commit: the commit line is written whole, the entry is DONE. An entry of KIND 3 commits in
the first slot after its acceptance, and one of a collective slice one tick after its last step (R471). -/
def Dev.commitAll (d : Dev) (t : Nat) : Dev :=
  (d.sch t).entries.foldl (fun (d : Dev) e =>
    if e.ending.isSome || e.done < d.stepsOf e.raw || (entKind e.raw == 3 && e.accepted == d.tickNo) || (d.collective e.slice && e.doneTick == d.tickNo) then d else
    ((d.write (entOut e.raw) (leBytes 8 e.seq.toNat ++ leBytes 8 d.tickNo ++ [1#8] ++ List.replicate 15 0#8 ++ d.entResult t e)).chainCommit e).finish t e 0 0 0) d

/-! ## Aborts (R239) -/

/-- The abort the snapshot saw on a tray is acted on. -/
def Dev.actAbort (d : Dev) (t n : Nat) : Dev :=
  let x := d.tray n
  match x.abortSeen with
  | none => d
  | some q =>
    let result := fun (d : Dev) (v p : Nat) => d.setFs (Reg.TRAY_STATUS n) [(F.TRAY_STATUS_ABORT_PENDING, p), (F.TRAY_STATUS_ABORT_RESULT, v)]
    let clear := fun (d : Dev) (a : Option (BitVec 64)) => d.setTray n { x with abortSeen := none, abort := if x.abort == some q then none else x.abort, abortAhead := a }
    if q == d.trayNext n || ahead q (d.trayNext n) then result (clear d (some q)) 3 1
    else match (d.sch t).entries.find? fun e => e.tray == n && e.seq == q with
      | none => result (clear d none) 1 0
      | some e =>
        if e.ending.isSome then result (clear d none) 1 0 else
        let d := clear d none
        let alone := !((d.sch t).entries.any fun o => o.leads == e.leads && o.key != e.key && o.ending.isNone)
        let d := if alone then d.modSch t fun y => { y with plan := y.plan.filter fun p => !((p.tray, p.seq) == e.leads) } else d
        result (d.finish t e 1 0 0) 2 0

/-- Accepted, uncompleted entries that `p` selects complete with a status (R227, R237, Table 17.6). -/
def Dev.finishWhere (d : Dev) (t : Nat) (p : Entry → Bool) (st : Nat) : Dev :=
  (d.sch t).entries.foldl (fun (d : Dev) e => if p e then d.finish t e st 0 0 else d) d

end Sys2Proof.Machine
end

