-- ==== Sys2Proof/Machine/Radio.lean ====
section
/-! DEFINITION. Radio: the FAPI rings, requests and their checks, downlink and C-plane egress, uplink delivery, soft buffers, lost
slots and the demand of a tick (R253 to R271). -/
namespace Sys2Proof.Machine

/-! ## The indication ring (R253, R255) -/

/-- A ring record: its header (Table 10.5) and body. -/
def ringRecord (cell sfn slot flags msg : Nat) (body : Bytes) : Bytes :=
  leBytes 2 cell ++ leBytes 2 sfn ++ leBytes 1 slot ++ leBytes 1 flags ++ leBytes 2 msg ++ leBytes 4 body.length ++ List.replicate 52 0#8 ++ body

/-- One indication record, or a drop with event 0x6005 when the ring is full. -/
def Dev.indWrite (d : Dev) (t cell sfn slot msg : Nat) (body : Bytes) : Dev :=
  let r := Reg.RADIO_IND_RING t
  let tail := d.getF (Reg.RADIO_IND_TAIL t) F.RADIO_IND_TAIL_REC
  let size := 2 ^ d.getF r F.RADIO_IND_RING_LOG2
  if (tail + 2 ^ 32 - d.getF (Reg.RADIO_IND_HEAD t) F.RADIO_IND_HEAD_REC) % 2 ^ 32 == size then
    ((d.count (Reg.RADIO_IND_DROPPED t) F.RADIO_IND_DROPPED_COUNT 1).raise 0x6005 0 cxlPort t (tail + cell * 2 ^ 32 + msg % 256 * 2 ^ 48)).modRad t
      fun x => { x with indLost := true }
  else
    let a := d.getF r F.RADIO_IND_RING_ADDR * 2 ^ 14 + tail % size * 16384
    let d := d.hostWrite .indication 0 a (ringRecord cell sfn slot (if (d.rad t).indLost then 1 else 0) msg body)
    (d.setF (Reg.RADIO_IND_TAIL t) F.RADIO_IND_TAIL_REC (tail + 1)).modRad t fun x => { x with indLost := false }
/-- IND_VECTOR after a delivery. -/
def Dev.indVector (d : Dev) (t : Nat) : Dev := d.vector (leAt (cellTile (d.section_ secCells 0) t) 25 2 % 2048) .indication 0

/-- SFN and SLOT of a slot that begins at a tick (R256). -/
def Dev.sfnSlot (d : Dev) (c : Bytes) (S : Nat) : Nat × Nat :=
  let u := S * d.tickU
  ((u / frameU + leAt c 12 2) % 1024, u % frameU / slotU c)

/-- A slot of a cell is due once in a kind of delivery: the mark of Table 10.8's and R252's instants. -/
def Dev.radioDone (d : Dev) (t cell kind T : Nat) : Bool := look 0 (d.rad t).sent (4 * cell + kind) ≥ T + 1
def Dev.markRadio (d : Dev) (t cell kind T : Nat) : Dev := d.modRad t fun x => { x with sent := store 0 x.sent (4 * cell + kind) (T + 1) }

/-! ## Requests (R254, R258 to R260) -/

/-- RADIO_REQ_DOORBELL: taken only from a master whose PASID is bound to slice 0 (R273); values count 32-bit record numbers. -/
def radioReqDoorbellEffect (m : Master) (t : Nat) (v : Nat) (d : Dev) : Dev :=
  let x := d.rad t
  let rec_ := v % 2 ^ 32
  let was := x.taken.toNat
  let n := (rec_ + 2 ^ 32 - was) % 2 ^ 32
  let room := (rec_ + 2 ^ 32 - d.getF (Reg.RADIO_REQ_TAKEN t) F.RADIO_REQ_TAKEN_REC) % 2 ^ 32
  if m != 0xC000#16 || n == 0 || decide (n ≥ 2 ^ 31) || decide (room > 2 ^ d.getF (Reg.RADIO_REQ_RING t) F.RADIO_REQ_RING_LOG2) then d
  else d.setRad t { x with taken := BitVec.ofNat 64 rec_, batches := x.batches ++ [⟨x.taken, n, none⟩] }
def execRadioReqDoorbell (m : Master) (t : Tile) (v : Word) (s : State) : Host.Outcome State Fault Refusal :=
  ranFrom m s (radioReqDoorbellEffect m t v.toNat)

/-- RADIO_REQ_FETCH_DONE: the oldest fetch of request records ends. -/
def radioReqFetchDoneEffect (t : Nat) (rs : List Bytes) (how : FetchEnd) (d : Dev) : Dev :=
  let x := d.rad t
  match x.batches.find? fun b => b.landed.isNone with
  | none => d
  | some b =>
    match how with
    | .ok => if rs.length != b.count then d else d.setRad t { x with batches := (landBatch (some rs) x.batches).1 }
    | h =>
      let r := Reg.RADIO_REQ_RING t
      let a := d.getF r F.RADIO_REQ_RING_ADDR * 2 ^ 14 + b.first.toNat % 2 ^ d.getF r F.RADIO_REQ_RING_LOG2 * 16384
      let d := d.fetchEnd h (some 0) a
      let (l, back) := landBatch none x.batches
      d.setRad t { x with batches := l, taken := back.getD x.taken }
def execRadioReqFetchDone (t : Tile) (rs : List Bytes) (how : FetchEnd) (s : State) : Host.Outcome State Fault Refusal :=
  ran s (radioReqFetchDoneEffect t rs how)

/-- The requests of a slot, and one of a MSG_ID that was accepted. -/
def RadioState.slotReqs (x : RadioState) (cell S : Nat) : List RadioReq := x.reqs.filter fun r => r.cell == cell && r.start == S
def RadioState.accepted (x : RadioState) (cell S msg : Nat) : Option RadioReq := (x.slotReqs cell S).find? fun r => r.msg == msg && r.ok
/-- Direction of a message: 0 uplink, 1 downlink. -/
def msgDir (msg : Nat) : Nat := if msg == 0x81 then 0 else 1
/-- PDUs and bits that accepted requests of a slot hold in a direction. -/
def RadioState.held (x : RadioState) (cell S dir : Nat) : Nat × Nat :=
  let rs := (x.slotReqs cell S).filter fun r => r.ok && r.msg != 0x84 && msgDir r.msg == dir
  ((rs.map (·.kept)).sum, (rs.map fun r => ((List.range r.kept).map (Config.fapiBits r.msg r.body)).sum).sum)
/-- The four counts of R266 that accepted requests of a slot add in a group. -/
def RadioState.load (x : RadioState) (cell S k : Nat) : List Nat :=
  let rs := (x.slotReqs cell S).filter (·.ok)
  rs.foldl (fun a r => (List.range r.kept).foldl (fun a i => List.zipWith (· + ·) a ((Config.fapiLoad r.msg r.body i k ++ [0, 0, 0, 0]).take 4)) a) [0, 0, 0, 0]

/-- How many of a message's PDUs stay within the slot's limits: PDUs, bits, and the counts of the cell's last class (R260, LIMIT). -/
def Dev.keepPdus (d : Dev) (t : Nat) (c : Bytes) (S msg : Nat) (body : Bytes) : Nat :=
  let x := d.rad t
  let dir := msgDir msg
  let (p0, b0) := x.held (cellId c) S dir
  let pMax := leAt c (if dir == 0 then 40 else 42) 2
  let bMax := leAt c (if dir == 0 then 32 else 36) 4
  let last := classRec (d.section_ secCells 0) (leAt c 44 2 + leAt c 46 1 - 1)
  let fits := fun (n : Nat) =>
    decide (p0 + n ≤ pMax) && decide (b0 + ((List.range n).map (Config.fapiBits msg body)).sum ≤ bMax) &&
    (List.range (d.slotTicks c)).all fun k =>
      let l := (List.range n).foldl (fun a i => List.zipWith (· + ·) a ((Config.fapiLoad msg body i k ++ [0, 0, 0, 0]).take 4)) (x.load (cellId c) S k)
      (List.range 4).all fun j => decide (l.getD j 0 ≤ leAt last (4 * j) 4)
  let n := Config.fapiPdus msg body
  ((List.range (n + 1)).takeWhile fits).length - 1

/-- A refusal (R260): ERROR.indication, event 0x6002 and its count. -/
def Dev.fapiRefuse (d : Dev) (t reason cell msg sfn slot pdus : Nat) : Dev :=
  let d := d.indWrite t cell sfn slot 0x07 (Config.fapiError reason msg sfn slot)
  (d.count (Reg.RADIO_FAPI_REFUSED t) F.RADIO_FAPI_REFUSED_COUNT 1).raise 0x6002 0 (stewardOf t) (if reason == 2 then 0xFFFFFFFF else cell)
    (reason + msg % 256 * 2 ^ 8 + sfn % 2 ^ 16 * 2 ^ 16 + slot % 256 * 2 ^ 32 + pdus % 2 ^ 16 * 2 ^ 40)

/-- One request record taken at the snapshot of tick T: its checks in order (Table 10.7), and the PDUs it keeps. -/
def Dev.takeRequest (t T : Nat) (d : Dev) (r : Bytes) : Dev :=
  let cell := leAt r 0 2
  let sfn := leAt r 2 2
  let slot := leAt r 4 1
  let msg := leAt r 6 2
  let len := leAt r 8 4
  let body := bytesAt r 64 (min len 16320)
  let pdus := Config.fapiPdus msg body
  let no := fun (d : Dev) reason => d.fapiRefuse t reason cell msg sfn slot pdus
  if leAt r 5 1 != 0 || leAt r 12 52 != 0 || !([0x80, 0x81, 0x83, 0x84].contains msg) || decide (len > 16320) then no d 1 else
  match d.cell? t cell with
  | none => no d 2
  | some c =>
    let S := d.slotNear c 1024 sfn slot / d.tickU
    let x := d.rad t
    let put := fun (d : Dev) kept ok => d.modRad t fun x => { x with reqs := x.reqs ++ [(⟨cell, S, msg, body, kept, ok⟩ : RadioReq)] }
    if S < T + 4 then no d 3
    else if S * d.tickU > d.now + 32 * slotU c then no d 4
    else if (x.slotReqs cell S).any (·.msg == msg) then no d 5
    else if msg == 0x84 then
      let half := leAt (cellTile (d.section_ secCells 0) t) 40 4 * 2048
      let tti := (x.slotReqs cell S).find? fun q => q.msg == 0x80 && q.ok
      let named := match tti with | some q => (List.range pdus).all fun i => decide (Config.fapiPdsch body i < Config.fapiPdus 0x80 q.body) | none => pdus == 0
      if !((List.range pdus).all fun i => Config.fapiPayloadOk half body i) || !named then put (no d 7) 0 false
      else
        let kept := match tti with | some q => ((List.range pdus).filter fun i => decide (Config.fapiPdsch body i < q.kept)).length | none => 0
        let d := put d kept true
        if kept < pdus then d.fapiRefuse t 8 cell msg sfn slot (pdus - kept) else d
    else if !((List.range pdus).all (Config.fapiPduOk msg c body)) then put (no d 6) 0 false
    else
      let kept := d.keepPdus t c S msg body
      let d := put d kept true
      if kept < pdus then d.fapiRefuse t 8 cell msg sfn slot (pdus - kept) else d

/-- The records landed by the snapshot are taken in record order (R254). -/
def Dev.takeRequests (d : Dev) (t T : Nat) : Dev :=
  let x := d.rad t
  let ready := x.batches.takeWhile fun b => b.landed.isSome
  let rs := ready.flatMap fun b => b.landed.getD []
  let d := d.setRad t { x with batches := x.batches.drop ready.length }
  let d := rs.foldl (Dev.takeRequest t T) d
  let r := Reg.RADIO_REQ_TAKEN t
  let d := d.setF r F.RADIO_REQ_TAKEN_REC (d.getF r F.RADIO_REQ_TAKEN_REC + rs.length)
  if rs.isEmpty then d else d.indVector t

/-! ## Lost slots (R269) -/

/-- A slot is lost in a direction, once, and only if its request of that direction was accepted (R261). -/
def Dev.loseSlot (d : Dev) (t cell S dir cause : Nat) : Dev :=
  d.modRad t fun x =>
    if (x.accepted cell S (if dir == 0 then 0x81 else 0x80)).isNone || x.lost.any (fun l => l.cell == cell && l.start == S && l.dir == dir) then x
    else { x with lost := x.lost ++ [⟨cell, S, dir, cause⟩] }
/-- The slot whose stage of a kind runs in tick T, and its direction: 0 uplink front, 1 uplink decoding, 2 encoding, 3 precoding. -/
def stageSlot (nt T stage : Nat) : Option (Nat × Nat) :=
  match stage with
  | 0 => if T < 2 then none else some (slotStart nt (T - 2), 0)
  | 1 => if T < 3 then none else some (slotStart nt (T - 3), 0)
  | 2 => if (T + 3) % nt == 0 then some (T + 3, 1) else none
  | _ => some (slotStart nt (T + 2), 1)
/-- A radio loaf that ran in tick T and did not complete loses the slots it serves. -/
def Dev.loseLoaf (t T : Nat) (d : Dev) (l : LoafDone) : Dev :=
  if l.slice != 0 || l.outcome == 0 then d else
  (Config.radioCells (d.section_ secRadioCode t) t l.loaf).foldl (fun (d : Dev) p =>
    match d.cell? t p.1 with
    | none => d
    | some c => match stageSlot (d.slotTicks c) T p.2 with
      | some (S, dir) => d.loseSlot t p.1 S dir (if l.reason == 4 then 4 else 1)
      | none => d) d
/-- A tick whose work a tile skips loses the slots that have a stage in it (cause 2). -/
def Dev.loseTick (d : Dev) (t T : Nat) : Dev :=
  (d.cellsOf t).foldl (fun (d : Dev) c => [0, 1, 2, 3].foldl (fun (d : Dev) st =>
    match stageSlot (d.slotTicks c) T st with
    | some (S, dir) => d.loseSlot t (cellId c) S dir 2
    | none => d) d) d
/-- A unit of a class's work (R266). -/
def Dev.cellUses (d : Dev) (c : Bytes) (unit : BitVec 16) : Bool :=
  (List.range (leAt c 46 1)).any fun i => (List.range 8).any fun j => leAt (classRec (d.section_ secCells 0) (leAt c 44 2 + i)) (16 + 6 * j) 2 == unit.toNat
/-- A reset of a tile, or of one of its units, loses every slot not over that has a stage in or after it (cause 3). -/
def Dev.loseReset (d : Dev) (t : Nat) (unit : Option (BitVec 16)) : Dev :=
  ((d.rad t).reqs.filter (·.ok)).foldl (fun (d : Dev) r =>
    match d.cell? t r.cell with
    | none => d
    | some c =>
      let hit := match unit with | none => true | some u => d.cellUses c u
      if hit && decide (d.tickNo ≤ r.start + d.slotTicks c + 1) then d.loseSlot t r.cell r.start (msgDir r.msg) 3 else d) d

/-- The report of a lost slot. -/
def Dev.reportLost (d : Dev) (t : Nat) (c : Bytes) (l : LostSlot) : Dev :=
  let (sfn, slot) := d.sfnSlot c l.start
  let msg := if l.dir == 0 then 0x81 else 0x80
  let d := d.indWrite t l.cell sfn slot 0x07 (Config.fapiError 0 msg sfn slot)
  (d.count (Reg.RADIO_SLOTS_LOST t) F.RADIO_SLOTS_LOST_COUNT 1).raise 0x6001 0 (stewardOf t) l.cell (sfn + slot * 2 ^ 16 + l.dir * 2 ^ 24 + l.cause * 2 ^ 32)
def RadioState.lostIn (x : RadioState) (cell S dir : Nat) : Option LostSlot := x.lost.find? fun l => l.cell == cell && l.start == S && l.dir == dir

/-! ## Egress (R252, R265) -/

/-- A cell's turn at a local offset of the tick its tile works on: none when the instant has passed or the tile does not reach it (R271). -/
def Dev.radioAt (d : Dev) (t cell kind off : Nat) : Option (Bytes × Nat × Dev) :=
  let x := d.tile t
  if d.paused t || decide (x.pos > off) || d.radioDone t cell kind x.workTick || !d.getB Reg.RECIPE_STATUS F.RECIPE_STATUS_ACTIVE then none else
  (d.cell? t cell).map fun c => (c, x.workTick, (d.advance (off - x.pos)).markRadio t cell kind x.workTick)

/-- The frames of the eAxC entries of a cell and direction are enqueued: C-plane ahead of U-plane; the eAxC's sequence counts them. -/
def Dev.fhEnqueue (d : Dev) (t : Nat) (cell : Nat) (dirs : List Nat) (uplane : Bool) : Dev :=
  let s := d.section_ secCells 0
  (List.range (nEaxc s)).foldl (fun (d : Dev) i =>
    let e := eaxcEntry s i
    if eaxcCell e != cell || !dirs.contains (eaxcDir e) then d else
    if h : eaxcPort e < 16 then
      let p : EthPort := ⟨eaxcPort e, h⟩
      let (w, d) := d.fresh
      let cs := Config.fhCplane i w.toNat
      let us := if uplane then Config.fhUplane i w.toNat else []
      let d := cs.foldl (fun (d : Dev) f => d.ethEnqueue p 1 f none) d
      let d := us.foldl (fun (d : Dev) f => d.ethEnqueue p 0 f none) d
      d.modRad t fun x => { x with frames := store 0 x.frames i (look 0 x.frames i + cs.length + us.length) }
    else d) d

/-- UL_CPLANE_EGRESS: at EGRESS_OFF of tick S − 1, the uplink and PRACH C-plane of slot s with an accepted UL_TTI.request. -/
def ulCplaneEgressEffect (t cell : Nat) (d : Dev) : Dev :=
  match d.cell? t cell with
  | none => d
  | some c => match d.radioAt t cell 0 (leAt c 28 4) with
    | none => d
    | some (c, T, d') =>
      if (T + 1) % d.slotTicks c != 0 || ((d.rad t).accepted cell (T + 1) 0x81).isNone then d
      else d'.fhEnqueue t cell [0, 2] false
def execUlCplaneEgress (t : Tile) (cell : Nat) (s : State) : Host.Outcome State Fault Refusal := ran s (ulCplaneEgressEffect t cell)

/-- DL_EGRESS: at EGRESS_OFF of tick S + k − 1 the frames of group k; at that of tick S + n_t − 1 the report of a lost slot. -/
def dlEgressEffect (t cell : Nat) (d : Dev) : Dev :=
  match d.cell? t cell with
  | none => d
  | some c => match d.radioAt t cell 1 (leAt c 28 4) with
    | none => d
    | some (c, T, d') =>
      let nt := d.slotTicks c
      let S := slotStart nt (T + 1)
      let x := d.rad t
      let send := (x.accepted cell S 0x80).isSome && (x.lostIn cell S 1).isNone
      let old := if (T + 1) % nt == 0 then x.lostIn cell (T + 1 - nt) 1 else none
      if !send && old.isNone then d else
      let d := if send then d'.fhEnqueue t cell [1] true else d'
      match old with
      | some l => ((d.reportLost t c l).modRad t fun x => { x with lost := x.lost.filter (· != l) }).indVector t
      | none => d
def execDlEgress (t : Tile) (cell : Nat) (s : State) : Host.Outcome State Fault Refusal := ran s (dlEgressEffect t cell)

/-! ## Soft buffers (R263) -/

/-- A PUSCH PDU and its buffer: new data takes its key's buffer, a free one, or the one written earliest; a retransmission without one is
a miss. -/
def Dev.harq (d : Dev) (t : Nat) (c : Bytes) (T : Nat) (p : Nat × Nat × Bool) : Dev :=
  let (rnti, proc, new) := p
  let x := d.rad t
  let mine := x.bufs.filter fun b => b.cell == cellId c
  let has := mine.find? fun b => b.rnti == rnti && b.proc == proc
  let put := fun (i : Nat) => d.modRad t fun x =>
    { x with bufs := (x.bufs.filter fun b => !(b.cell == cellId c && b.index == i)) ++ [⟨cellId c, i, rnti, proc, T⟩] }
  match has with
  | some b => put b.index
  | none =>
    if !new then d.count (Reg.RADIO_HARQ_MISS t) F.RADIO_HARQ_MISS_COUNT 1 else
    match (List.range (leAt c 48 2)).find? fun i => !(mine.any (·.index == i)) with
    | some i => put i
    | none =>
      let old := mine.foldl (fun (m : Option SoftBuf) b => match m with
        | none => some b
        | some a => if b.tick < a.tick || (b.tick == a.tick && decide (b.index < a.index)) then some b else some a) none
      match old with | some b => put b.index | none => d

/-! ## Uplink delivery (R262) -/

/-- The place of a slot's payload region in the upper half of the pool (Table 10.6). -/
def Dev.ulRegion (d : Dev) (t : Nat) (c : Bytes) (S : Nat) : Nat × Nat :=
  let r := cellTile (d.section_ secCells 0) t
  let size := fun (x : Bytes) => 64 * ceilDiv (leAt x 32 4) 512
  let before := ((d.cellsOf t).takeWhile fun x => cellId x != cellId c).map fun x => 8 * size x
  (leAt r 32 8 + leAt r 40 4 * 2048 + before.sum + S / d.slotTicks c % 8 * size c, size c)

/-- UL_INDICATION_DELIVERY: at DELIVER_OFF of tick S + n_t + 2, the indications of slot s in order, or the report that it is lost. -/
def ulIndicationDeliveryEffect (t cell : Nat) (d : Dev) : Dev :=
  match d.cell? t cell with
  | none => d
  | some c => match d.radioAt t cell 2 (leAt c 24 4) with
    | none => d
    | some (c, T, d') =>
      let nt := d.slotTicks c
      if T < nt + 2 || (T - 2) % nt != 0 then d else
      let S := T - 2 - nt
      let x := d.rad t
      let forget := fun (d : Dev) => d.modRad t fun x => { x with
        reqs := x.reqs.filter fun r => !(r.cell == cell && decide (r.start ≤ S)), lost := x.lost.filter fun l => !(l.cell == cell && l.start == S && l.dir == 0) }
      match x.lostIn cell S 0, x.accepted cell S 0x81 with
      | some l, _ => (forget (d'.reportLost t c l)).indVector t
      | none, none => forget d'
      | none, some q =>
        let (sfn, slot) := d.sfnSlot c S
        let d := ((List.range q.kept).filterMap (Config.fapiPusch q.body)).foldl (fun (d : Dev) p => d.harq t c T p) d'
        let (w, d) := d.fresh
        let (a, n) := d.ulRegion t c S
        let pay := (Config.fapiUlPayload w.toNat).take n
        let d := if pay.isEmpty then d else d.hostWrite .indication 0 a pay
        let d := [0x86, 0x85, 0x87, 0x89].foldl (fun (d : Dev) msg =>
          (Config.fapiUl msg w.toNat).foldl (fun (d : Dev) b => d.indWrite t cell sfn slot msg (b.take 16320)) d) d
        (forget d).indVector t
def execUlIndicationDelivery (t : Tile) (cell : Nat) (s : State) : Host.Outcome State Fault Refusal := ran s (ulIndicationDeliveryEffect t cell)

/-! ## At an edge and at a snapshot -/

/-- The edge of tick T: SLOT.indication of each slot with S = T + 4 + LEAD_TICKS (R257). -/
def Dev.slotIndications (d : Dev) (t T : Nat) : Dev :=
  let due := (d.cellsOf t).filter fun c => (T + 4 + leAt c 14 1) % d.slotTicks c == 0
  let d := due.foldl (fun (d : Dev) c =>
    let (sfn, slot) := d.sfnSlot c (T + 4 + leAt c 14 1)
    d.indWrite t (cellId c) sfn slot 0x82 (Config.fapiSlot sfn slot)) d
  if due.isEmpty then d else d.indVector t

/-- What the snapshot of tick T does for the radio: presence and discards, the loaves that failed, and the requests. -/
def Dev.radioSnapshot (d : Dev) (t T : Nat) : Dev :=
  if !d.getB Reg.RECIPE_STATUS F.RECIPE_STATUS_ACTIVE then d else
  ((d.tile t).snapDone.foldl (Dev.loseLoaf t T) (d.fhSnapshot t T)).takeRequests t T

/-! ## The demand of a tick (R266 to R268) -/

/-- The stages whose slots a tick serves for a cell, with the slot's first tick. -/
def Dev.servedSlots (d : Dev) (c : Bytes) (T : Nat) : List (Nat × Nat) :=
  [0, 1, 2, 3].filterMap fun st => (stageSlot (d.slotTicks c) T st).map fun p => (p.1, st)
/-- A slot that a tick serves for a cell has no request (R49). -/
def Dev.slotAbsent (d : Dev) (t : Nat) (c : Bytes) (T : Nat) : Bool :=
  (d.servedSlots c T).any fun p => ((d.rad t).slotReqs (cellId c) p.1).isEmpty
/-- The class that covers a tick's counts for a cell: the last where a served slot's requests are absent. -/
def Dev.classFor (d : Dev) (t : Nat) (c : Bytes) (T : Nat) : Bytes :=
  let s := d.section_ secCells 0
  let x := d.rad t
  let nt := d.slotTicks c
  let cl := fun i => classRec s (leAt c 44 2 + i)
  let served := d.servedSlots c T
  let get := fun (st j k : Nat) => match served.find? (·.2 == st) with | some p => (x.load (cellId c) p.1 k).getD j 0 | none => 0
  let want := [get 0 0 ((T - 2) % nt), get 1 1 ((T - 3) % nt), get 3 2 ((T + 2) % nt), get 2 3 0]
  if d.slotAbsent t c T then cl (leAt c 46 1 - 1) else
  match (List.range (leAt c 46 1)).find? fun i => (List.range 4).all fun j => decide (want.getD j 0 ≤ leAt (cl i) (4 * j) 4) with
  | some i => cl i
  | none => cl (leAt c 46 1 - 1)
/-- The length of a class's work on a unit. -/
def classLen (l : Bytes) (unit : Nat) : Nat := ((List.range 8).filterMap fun j => if leAt l (16 + 6 * j) 2 == unit then some (leAt l (18 + 6 * j) 4) else none).sum
/-- D of a map for tick T: the largest sum over the units that select it. -/
def Dev.demand (d : Dev) (t m T : Nat) : Nat :=
  let cs := (d.cellsOf t).map fun c => d.classFor t c T
  let units := cs.flatMap fun l => (List.range 8).map fun j => leAt l (16 + 6 * j) 2
  (units.filter fun u => u != 0xFFFF && d.mapOf t (u % 2 ^ 13) == some m).foldl (fun w u => max w ((cs.map fun l => classLen l u).sum)) 0

end Sys2Proof.Machine
end

