-- ==== Sys2Proof/Machine/Sieve.lean ====
section
/-! DEFINITION. Sieve: Sieve loaves and their ATTEND jobs: checks, scores, the running softmax, partials and timing
(chapter 07). -/
namespace Sys2Proof.Machine

/-- A Sieve at rest. -/
def SieveState.init : SieveState :=
  ⟨0, 0, 0, 0, 0, 0, false, ⟨0, 0, 0, 0, 0, 0xFFFF⟩, 0, 0, 0, 0, 0, none, [], none, 0, false⟩
/-- A Sieve of a tile. -/
def Dev.sieve (d : Dev) (t i : Nat) : SieveState := look SieveState.init d.sieves (32 * t + i)
/-- Replace a Sieve. -/
def Dev.setSieve (d : Dev) (t i : Nat) (x : SieveState) : Dev := { d with sieves := store SieveState.init d.sieves (32 * t + i) x }
/-- A Sieve's unit identifier. -/
def sieveUnit (t i : Nat) : BitVec 16 := unitId t 0x03 i
/-- SIEVE_STATUS.STATE. -/
def Dev.sieveSt (d : Dev) (t i st : Nat) : Dev := d.setF (Reg.SIEVE_STATUS t i) F.SIEVE_STATUS_STATE st

/-- The context SIEVE_CONTEXT names (R168). -/
def Dev.sieveCtx (d : Dev) (t i : Nat) : Ctx :=
  let r := Reg.SIEVE_CONTEXT t i
  ⟨d.getF r F.SIEVE_CONTEXT_BENCH_LO, d.getF r F.SIEVE_CONTEXT_BENCH_HI, d.getF r F.SIEVE_CONTEXT_SLICE,
   d.getF r F.SIEVE_CONTEXT_CTR_LO, d.getF r F.SIEVE_CONTEXT_CTR_N, 0xFFFF⟩

/-- SIEVE_CONTEXT_WRITE: by the tile steward only; any other write is ignored with event 0x3003 (R168). -/
def sieveContextWriteEffect (m : Master) (t i : Nat) (v : Word) (d : Dev) : Dev :=
  let r := Reg.SIEVE_CONTEXT t i
  if m == stewardOf t then d.rwWrite r v else d.raise 0x3003 0xFF (sieveUnit t i) r m.toNat
def execSieveContextWrite (m : Master) (t : Tile) (i : SieveIx) (v : Word) (s : State) : Host.Outcome State Fault Refusal :=
  ranFrom m s (sieveContextWriteEffect m t i v)

/-! ## Descriptors (Tables 07.1 to 07.5) -/

/-- A job descriptor (Table 07.5). -/
structure SieveJob where
  op : Nat
  fmt : Nat
  dim : Nat
  rows : Nat
  waitEn : Bool
  waitCtr : Nat
  sigEn : Bool
  sigCtr : Nat
  jobId : Nat
  qBase : Nat
  listBase : Nat
  nPages : Nat
  outBase : Nat
  qscale : Nat
  token0 : Nat
  limit : Nat
  rowBack : Nat
  zeroOk : Bool
  deriving DecidableEq, Repr

def sieveJob (l : Bytes) : SieveJob :=
  let b := bitsAt l
  { op := b 0 0 2, fmt := b 0 2 2, dim := 32 * 2 ^ b 0 4 2, rows := b 0 6 5, waitEn := b 0 11 1 == 1, waitCtr := b 0 12 10,
    sigEn := b 0 22 1 == 1, sigCtr := b 0 23 10, jobId := b 0 48 16, qBase := b 8 0 18, listBase := b 8 18 18, nPages := b 8 36 16,
    outBase := b 16 0 18, qscale := b 16 32 32, token0 := b 24 0 32, limit := b 24 32 32, rowBack := leAt l 32 8,
    zeroOk := b 0 33 15 == 0 && b 8 52 12 == 0 && b 16 18 14 == 0 && leAt l 40 24 == 0 }

/-- Bytes of a KV element. -/
def SieveJob.eb (j : SieveJob) : Nat := if j.fmt == 0 then 2 else 1
/-- Tokens of a page (Table 07.1). -/
def SieveJob.tp (j : SieveJob) : Nat := 4096 / (j.dim * j.eb)
/-- Lines read per page pair on each channel (Table 07.3). -/
def SieveJob.lc (j : SieveJob) : Nat := if j.fmt == 0 then 64 else 66
/-- The MX element format of a job. -/
def SieveJob.mx (j : SieveJob) : Option MxElem := if j.fmt == 1 then some .e4m3 else if j.fmt == 2 then some .e5m2 else none

/-- A page-list entry (Table 07.2). -/
structure PagePair where
  k : Nat
  v : Nat
  kScale : Nat
  kSlot : Nat
  vScale : Nat
  vSlot : Nat
  zeroOk : Bool
  deriving DecidableEq, Repr

def pagePair (l : Bytes) : PagePair :=
  let b := bitsAt l
  ⟨b 0 0 20, b 0 20 20, b 8 0 20, b 8 20 5, b 8 25 20, b 8 45 5, b 0 40 24 == 0 && b 8 50 14 == 0⟩

/-- The DPA of a page of a Sieve's span (R163, R187). -/
def spanPage (t i page : Nat) : Nat := t * 2 ^ 37 + i * 2 ^ 32 + page * 4096

/-! ## Checks (Table 07.8) -/

/-- The checks of a job descriptor, in order of reason. `waits` says that the job's wait is still to be registered. -/
def Dev.sieveCheck (d : Dev) (t : Nat) (s : SieveState) (j : SieveJob) (waits : Bool) : Option Nat :=
  if s.hdrBad || !j.zeroOk || j.op != 0 || j.fmt == 3 then some 1
  else if j.rows == 0 || decide (j.rows > 16) || j.token0 % j.tp != 0 || decide (j.token0 + j.nPages * j.tp > 2 ^ 32) || j.nPages == 0 then some 2
  else if !s.ctx.holds j.qBase (j.rows * (j.dim / 32)) || !s.ctx.holds j.listBase ((j.nPages + 3) / 4) ||
      !s.ctx.holds j.outBase (j.rows * (1 + j.dim / 16)) then some 3
  else if (j.waitEn && !(if waits then d.waitAllowed t s.ctx j.waitCtr else d.ctrAllowed t s.ctx j.waitCtr)) ||
      (j.sigEn && !d.ctrAllowed t s.ctx j.sigCtr) then some 4
  else none

/-- The check of a page-list entry (reasons 1 and 5). -/
def Dev.pairCheck (d : Dev) (t i : Nat) (s : SieveState) (j : SieveJob) (p : PagePair) : Option Nat :=
  let own := fun page => d.inPrivate s.ctx.slice (spanPage t i page) (spanPage t i page + 4096)
  if !p.zeroOk then some 1
  else if !own p.k || !own p.v then some 5
  else if j.fmt == 0 then (if p.kScale != 0 || p.kSlot != 0 || p.vScale != 0 || p.vSlot != 0 then some 5 else none)
  else if !own p.kScale || !own p.vScale then some 5 else none

/-- A Sieve loaf ends: 0 complete, 1 a failed check, 2 a fault (R181, R182). -/
def Dev.endSieve (d : Dev) (t i outcome : Nat) (reason : Nat := 0) : Dev :=
  let s := d.sieve t i
  ((((d.setSieve t i SieveState.init).sieveSt t i (if outcome == 2 then 5 else 0)).dropWaits t (sieveUnit t i)).loafDone t
    ⟨BitVec.ofNat 13 (0x300 + i), s.id, s.ctx.slice, 0xFFFF, outcome, reason⟩)

/-- The capture of SIEVE_ERROR (R181, Table 07.12). -/
def Dev.sieveCapture (d : Dev) (t i reason page jobId : Nat) : Dev :=
  let s := d.sieve t i
  let r := Reg.SIEVE_ERROR t i
  if d.getB r F.SIEVE_ERROR_VALID then d.setB r F.SIEVE_ERROR_MORE true
  else (d.setFs r [(F.SIEVE_ERROR_VALID, 1), (F.SIEVE_ERROR_REASON, reason), (F.SIEVE_ERROR_JOB, s.job), (F.SIEVE_ERROR_PAGE, page),
      (F.SIEVE_ERROR_JOB_ID, jobId)]).setFs (Reg.SIEVE_ERROR_LOAF t i) [(F.SIEVE_ERROR_LOAF_LOAF, s.id), (F.SIEVE_ERROR_LOAF_SLICE, s.ctx.slice)]

/-- A failed check: capture, event 0x3001, the loaf ends and is not re-run. -/
def Dev.sieveFail (d : Dev) (t i reason page jobId : Nat) : Dev :=
  let s := d.sieve t i
  (((d.sieveCapture t i reason page jobId).raise 0x3001 s.ctx.slice (sieveUnit t i) s.id
    (reason + s.job * 2 ^ 8 + page * 2 ^ 24 + jobId * 2 ^ 40)).endSieve t i 1 reason)

/-! ## The arithmetic (R172 to R175) -/

/-- A KV element: element `e` of token `u` of a page, with its block scale. -/
def Dev.kvVal (d : Dev) (j : SieveJob) (page scaleAt u e : Nat) : Val :=
  let at_ := page + (u * j.dim + e) * j.eb
  match j.mx with
  | some x => mxValue x (d.byte (scaleAt + u * j.dim / 32 + e / 32)).toNat (d.byte at_).toNat
  | none => e8m7.decode (leAt (d.bytes at_ 2) 0 2)

/-- The score of a visible token (R173), with what its chunks met. -/
def Dev.sieveScore (d : Dev) (j : SieveJob) (q : List Val) (page scaleAt u : Nat) : Val × Met :=
  let (acc, m) := (List.range ((j.dim + 63) / 64)).foldl (fun (s : Nat × Met) c =>
    let ps := (List.range (min 64 j.dim)).map fun e => (q.getD (64 * c + e) (.fin false 0 0)).mul (d.kvVal j page scaleAt u (64 * c + e))
    let (v, m1) := chunkResult ps
    let (a, m2) := accAdd s.1 v
    (a, s.2.join (m1.join m2))) ((0 : Nat), Met.none)
  let sc := b32.decode j.qscale
  (round32 ((b32.decode acc).mul sc), { m with input := m.input || sc.nonFinite })

/-- A row's running state (R174): m, l, o, tokens seen, and what it met. -/
structure SieveRow where
  m : Val
  l : Val
  o : List Val
  seen : Nat
  met : Met
  deriving DecidableEq, Repr

def SieveRow.init (dim : Nat) : SieveRow := ⟨.inf true, .fin false 0 0, List.replicate dim (.fin false 0 0), 0, Met.none⟩

/-- 2^a on rounded values. -/
def exp2v (a : Val) : Val := laneVal (exp2_32 (toLane a))

/-- The update of a row by one group of 8: scores, values, none for a masked token (R174). -/
def SieveRow.group (r : SieveRow) (dim : Nat) (g : List (Option (Val × Met × List Val))) : SieveRow :=
  if g.all Option.isNone then r else
  let x := fun i => match g.getD i none with | some t => t.1 | none => Val.inf true
  let mg := (((x 0).max (x 1)).max ((x 2).max (x 3))).max (((x 4).max (x 5)).max ((x 6).max (x 7)))
  let mn := r.m.max mg
  let a := exp2v (round32 (r.m.add mn.neg))
  let p := fun i => match g.getD i none with | some t => exp2v (round32 (t.1.add mn.neg)) | none => Val.fin false 0 0
  let s2 := fun i => round32 ((p i).add (p (i + 1)))
  let sum := round32 ((round32 ((s2 0).add (s2 2))).add (round32 ((s2 4).add (s2 6))))
  let l := round32 (r.l.fma a sum)
  let ws := (List.range dim).map fun e => chunkResult ((List.range 8).map fun i => match g.getD i none with
    | some t => (p i).mul (t.2.2.getD e (.fin false 0 0))
    | none => .fin false 0 0)
  let o := ws.zipIdx.map fun w => round32 ((r.o.getD w.2 (.fin false 0 0)).fma a w.1.1)
  let inBad := g.any fun t => match t with | some y => y.2.1.input || y.2.2.any Val.nonFinite | none => false
  let sc := g.foldl (fun m t => match t with | some y => m.join y.2.1 | none => m) Met.none
  let wm := ws.foldl (fun m w => m.join w.2) Met.none
  ⟨mn, l, o, r.seen + g.countP Option.isSome,
   ⟨r.met.scaleRange || sc.scaleRange || wm.scaleRange, r.met.input || inBad, true, r.met.under + sc.under + wm.under, 0⟩⟩

/-- The visible limit of a row (R172). -/
def SieveJob.visible (j : SieveJob) (r tok : Nat) : Bool :=
  decide ((tok : Int) < (j.limit : Int) - (j.rowBack / 16 ^ r % 16 : Nat))

/-- A row over one page pair. -/
def Dev.sieveRowPage (d : Dev) (t i : Nat) (j : SieveJob) (q : List Val) (r idx : Nat) (p : PagePair) (s : SieveRow) : SieveRow :=
  let kp := spanPage t i p.k
  let vp := spanPage t i p.v
  let ks := spanPage t i p.kScale + 128 * p.kSlot
  let vs := spanPage t i p.vScale + 128 * p.vSlot
  (List.range (j.tp / 8)).foldl (fun s g =>
    s.group j.dim ((List.range 8).map fun n =>
      let u := 8 * g + n
      if j.visible r (j.token0 + idx * j.tp + u) then
        let (x, m) := d.sieveScore j q kp ks u
        some (x, m, (List.range j.dim).map fun e => d.kvVal j vp vs u e)
      else none)) s

/-- The query row r (R171). -/
def Dev.sieveQuery (d : Dev) (t k : Nat) (s : SieveState) (j : SieveJob) (r : Nat) : List Val :=
  let at_ := s.ctx.at_ t k (j.qBase + r * (j.dim / 32))
  (List.range j.dim).map fun e => e8m7.decode (leAt (d.bytes (at_ + 2 * e) 2) 0 2)

/-- A row over the whole job. -/
def Dev.sieveRow (d : Dev) (t i k : Nat) (s : SieveState) (j : SieveJob) (ps : List PagePair) (r : Nat) : SieveRow :=
  let q := d.sieveQuery t k s j r
  ps.zipIdx.foldl (fun x p => d.sieveRowPage t i j q r p.2 p.1 x) (SieveRow.init j.dim)

/-- The code of a binary32 value. -/
def code32 (v : Val) : Nat := (b32.encode .rne v).1

/-- The partial of a row: its header line (Table 07.6) and its vector, −0 written as +0. -/
def partialBytes (j : SieveJob) (r : Nat) (x : SieveRow) : Bytes :=
  leBytes 4 (code32 x.m) ++ leBytes 4 (code32 x.l) ++ leBytes 4 x.seen ++ leBytes 1 r ++ leBytes 1 0 ++ leBytes 2 j.jobId ++
  leBytes 4 j.token0 ++ List.replicate 44 0#8 ++ x.o.flatMap fun v => leBytes 4 (b32.storeCode (code32 v))

/-! ## Jobs -/

/-- What becomes of the first bad line of a page pair: which page, the line within it, its store line. -/
def Dev.pairBad (d : Dev) (t i : Nat) (j : SieveJob) (p : PagePair) : Option (Nat × Nat × Nat) :=
  let page := fun w n => (d.firstBad (spanPage t i n) 4096).map fun ln => (w, ln % 64, ln)
  let slot := fun w n s => (d.firstBad (spanPage t i n + 128 * s) 128).map fun ln => (w, ln % 64, ln)
  (page 0 p.k).or ((page 1 p.v).or (if j.fmt == 0 then none else (slot 2 p.kScale p.kSlot).or (slot 3 p.vScale p.vSlot)))

/-- The steps before a job: the next job waits, is ready, or fails its check because its wait cannot be registered (R167, R176). -/
def Dev.sieveReady (d : Dev) (t i k : Nat) : Dev :=
  let s := d.sieve t i
  let d := d.setFs (Reg.SIEVE_STATUS t i) [(F.SIEVE_STATUS_JOB, s.job), (F.SIEVE_STATUS_PAGE, 0)]
  let line := s.jobLine + s.job
  if !s.ctx.holds line 1 then d.sieveFail t i 3 0xFFFF 0 else
  match d.firstBad (s.ctx.at_ t k line) 64 with
  | some ln => (d.unresolved ln 0 0 s.ctx.slice).endSieve t i 2 5
  | none =>
    let j := sieveJob (d.bytes (s.ctx.at_ t k line) 64)
    if !j.waitEn then (d.setSieve t i { s with phase := 1, jobId := j.jobId }).sieveSt t i 1 else
    match d.sieveCheck t s j true with
    | some r => d.sieveFail t i r 0xFFFF j.jobId
    | none => ((d.setSieve t i { s with phase := 2, jobId := j.jobId }).sieveSt t i 2).addWait t j.waitCtr 1 true (sieveUnit t i) s.ctx.slice

/-- SIEVE_LOAF_START: a loaf starts under SIEVE_CONTEXT in a window with room for it, otherwise event 0x1005 (R42, R167, R168). -/
def sieveLoafStartEffect (t i : Nat) (d0 : Dev) : Dev :=
  let d := if (d0.sieve t i).phase != 0 then d0 else d0.placeLoaf t (0x300 + i)
  let x := d.sieveCtx t i
  match d.physOf t (i / 2) with
  | none => d
  | some k =>
    if (d.sieve t i).phase != 0 || d.paused t || x.hi ≤ x.lo then d else
    let place := x.at_ t k 0
    let l := d.bytes place 64
    let id := leAt l 0 4
    match d.firstBad place 64 with
    | some ln => (d.unresolved ln 0 0 x.slice).loafDone t ⟨BitVec.ofNat 13 (0x300 + i), id, x.slice, 0xFFFF, 2, 5⟩
    | none =>
      let kind := leAt l 4 1
      let len := leAt l 8 4
      let room := d.spaceFor t (0x300 + i) kind
      if room < len || len == 0 then d.raise 0x1005 x.slice (stewardOf t) id (len + room * 2 ^ 32) else
      let lk := (d.tile t).lk
      let s := { SieveState.init with
        phase := 1, id := id, kind := kind, length := len, nJobs := leAt l 16 2, jobLine := leAt l 18 2, ctx := x, start := lk, t0 := lk,
        hdrBad := decide (kind > 2) || leAt l 5 3 != 0 || leAt l 20 44 != 0 }
      let d := ((d.setSieve t i s).proveStart t (0x300 + i) kind).setF (Reg.SIEVE_LOAF t i) F.SIEVE_LOAF_LOAF id
      let d := d.setF (Reg.SIEVE_STATUS t i) F.SIEVE_STATUS_LOCAL 0
      if s.nJobs == 0 then d.endSieve t i 0 else d.sieveReady t i k
def execSieveLoafStart (t : Tile) (i : SieveIx) (s : State) : Host.Outcome State Fault Refusal := ran s (sieveLoafStartEffect t i)

/-- The landing share of a channel in 1/256 (R19). -/
def Dev.landShare (d : Dev) (t c : Nat) : Nat := leAt (d.section_ secRoutes t) (64 + c) 1

/-- When a job that begins at t0 completes (R176). -/
def Dev.sieveDone (d : Dev) (t i : Nat) (j : SieveJob) (t0 : Nat) : Nat :=
  let share := max (d.landShare t (2 * i)) (d.landShare t (2 * i + 1))
  let r := ceilDiv (j.nPages * j.lc * 25 * 256) (48 * (256 - share))
  let spans := d.backgroundSpans t [0xC00 + 2 * i, 0xC00 + 2 * i + 1]
  let x := d.tile t
  let p0 := x.pos - (x.lk - t0) + 64
  let g := pauseEnd spans 64 p0 r - p0 - r
  let c := j.nPages * j.rows * (if j.fmt == 0 then 2 else 4)
  t0 + 64 + max (r + g) c + 24 + j.rows * (1 + j.dim / 16)

/-- Page pairs checked and read in order, up to the first that fails its check or stays bad. -/
def Dev.sievePairs (d : Dev) (t i : Nat) (s : SieveState) (j : SieveJob) : List PagePair → Nat → Dev
  | [], _ => d
  | p :: r, n =>
    match d.pairCheck t i s j p with
    | some w => d.sieveFail t i w n j.jobId
    | none =>
      match d.pairBad t i j p with
      | some (w, line, ln) =>
        (((d.unresolved ln 0 0 s.ctx.slice).sieveCapture t i 6 n j.jobId).raise 0x3002 s.ctx.slice (sieveUnit t i) s.id
          (s.job + n * 2 ^ 16 + w * 2 ^ 32 + line * 2 ^ 40)).endSieve t i 2 5
      | none => (d.count (Reg.SIEVE_LINES_READ t i) F.SIEVE_LINES_READ_COUNT (2 * j.lc)).sievePairs t i s j r (n + 1)

/-- SIEVE_JOB_BEGIN: the ready job is checked, reads its page pairs and computes its partials, which it will write when it completes. -/
def sieveJobBeginEffect (t i : Nat) (d : Dev) : Dev :=
  let s := d.sieve t i
  match d.physOf t (i / 2) with
  | none => d
  | some k =>
    if s.phase != 1 || d.paused t then d else
    let j := sieveJob (d.bytes (s.ctx.at_ t k (s.jobLine + s.job)) 64)
    match d.sieveCheck t s j false with
    | some r => d.sieveFail t i r 0xFFFF j.jobId
    | none =>
      let list := s.ctx.at_ t k j.listBase
      match (d.firstBad list (16 * j.nPages)).or (d.firstBad (s.ctx.at_ t k j.qBase) (j.rows * j.dim * 2)) with
      | some ln => (d.unresolved ln 0 0 s.ctx.slice).endSieve t i 2 5
      | none =>
        let ps := (List.range j.nPages).map fun n => pagePair (d.bytes (list + 16 * n) 16)
        let d := d.sievePairs t i s j ps 0
        if (d.sieve t i).phase != 1 then d else
        let rows := (List.range j.rows).map fun r => d.sieveRow t i k s j ps r
        let outs := rows.zipIdx.map fun x => (s.ctx.at_ t k (j.outBase + x.2 * (1 + j.dim / 16)), partialBytes j x.2 x.1)
        let met := rows.foldl (fun m x => m.join x.met) Met.none
        let bad := (rows.zipIdx.findSome? fun x => (x.1.o.findIdx? Val.nonFinite).map fun c => (met.cause, x.2, c))
        (d.setSieve t i { s with
          phase := 3, done := d.sieveDone t i j s.t0, jobId := j.jobId, sig := if j.sigEn then some j.sigCtr else none,
          outs := outs, bad := bad, under := met.under }).sieveSt t i 1
def execSieveJobBegin (t : Tile) (i : SieveIx) (s : State) : Host.Outcome State Fault Refusal := ran s (sieveJobBeginEffect t i)

/-- SIEVE_JOB_COMPLETE: the partials are written, SIG_CTR is signalled, the last job completes the loaf (R167, R171, R175, R176). -/
def sieveJobCompleteEffect (t i : Nat) (d : Dev) : Dev :=
  let s := d.sieve t i
  match d.physOf t (i / 2) with
  | none => d
  | some k =>
    if s.phase != 3 || d.paused t then d else
    let d := d.advance (s.done - (d.tile t).lk)
    let d := d.setF (Reg.SIEVE_STATUS t i) F.SIEVE_STATUS_LOCAL ((d.tile t).lk - s.start)
    let d := s.outs.foldl (fun (d : Dev) o => d.write o.1 o.2) d
    let d := d.kCount t k .underflow s.under
    let d := match s.bad with
      | none => d
      | some (cause, r, c) =>
        let n : NonFinite := ⟨cause, 6, s.jobId, r, c⟩
        let d := d.captureNonFinite t k s.id s.ctx.slice n
        if s.nonfinRaised then d else d.raiseNonFinite t k s.id s.ctx.slice n
    let d := d.count (Reg.SIEVE_JOB_COUNT t i) F.SIEVE_JOB_COUNT_COUNT 1
    let d := match s.sig with
      | some c => d.unitSignal t c 1 s.ctx.slice (sieveUnit t i) (decide (48 * k ≤ c) && decide (c < 48 * k + 48))
      | none => d
    let raised := s.nonfinRaised || s.bad.isSome
    if s.job + 1 ≥ s.nJobs then d.endSieve t i 0
    else (d.setSieve t i { s with phase := 1, job := s.job + 1, t0 := s.done, outs := [], bad := none, under := 0, sig := none, nonfinRaised := raised }).sieveReady t i k
def execSieveJobComplete (t : Tile) (i : SieveIx) (s : State) : Host.Outcome State Fault Refusal := ran s (sieveJobCompleteEffect t i)

/-- A wait of a Sieve was released in error: reason 7, the loaf ends as a fault (R177, R182). -/
def Dev.sieveWaitFailed (d : Dev) (t i : Nat) : Dev := (d.sieveCapture t i 7 0xFFFF (d.sieve t i).jobId).endSieve t i 2
/-- A wait of a Sieve was released: its job is ready from now. -/
def Dev.sieveReleased (d : Dev) (t i : Nat) : Dev :=
  (d.setSieve t i { d.sieve t i with phase := 1, t0 := (d.tile t).lk }).sieveSt t i 1

end Sys2Proof.Machine
end

