-- ==== Sys2Proof/Machine/Sched.lean ====
section
/-! DEFINITION. Sched: what a tile steward decides in the boundary slot for the work of slices 1 to 63: results of the tick's steps,
contexts and their bench ranges, service transfers, batches, placement, deferral and pre-emption (R200, R203 to R206, R226 to
R238), and the service transfers themselves. -/
namespace Sys2Proof.Machine

/-! ## Entries that run together -/

/-- The unfinished entries that share the steps of a leader, in tray and SEQ order (R232). -/
def Sched.group (x : Sched) (key : Nat × BitVec 64) : List Entry := x.entries.filter fun e => e.leads == key && e.ending.isNone
def Sched.modGroup (x : Sched) (key : Nat × BitVec 64) (f : Entry → Entry) : Sched :=
  { x with entries := x.entries.map fun e => if e.leads == key && e.ending.isNone then f e else e }
/-- Placed and running steps of a leader are given up; what follows is placed again from the last complete step. -/
def Sched.dropSteps (x : Sched) (key : Nat × BitVec 64) : Sched :=
  ({ x with plan := x.plan.filter fun p => !((p.tray, p.seq) == key), running := x.running.filter fun p => !((p.tray, p.seq) == key) }).modGroup key
    fun e => { e with pos := e.done }
/-- All entries of a leader complete with one status. -/
def Dev.finishGroup (d : Dev) (t : Nat) (key : Nat × BitVec 64) (st reason obj : Nat) : Dev :=
  ((d.sch t).group key).foldl (fun d e => d.finish t e st reason obj) (d.modSch t fun x => x.dropSteps key)

/-! ## Results of the tick's steps (R45, R223, R226) -/

/-- The counters of a context's roles go to zero before a re-run. -/
def Dev.zeroCtxCtrs (d : Dev) (t : Nat) (c : TCtx) : Dev :=
  c.roles.foldl (fun (d : Dev) r => (List.range c.ctrN).foldl (fun (d : Dev) i => d.ctrWrite t (r.ctr + i) (ctrWord 0 1 c.slice)) d) d

/-- A step is run again with the same step counter and seeds, or its entries complete FAULTED. -/
def Dev.rerun (d : Dev) (t : Nat) (p : Placed) (r : LoafDone) : Dev :=
  let key := (p.tray, p.seq)
  match (d.sch t).group key with
  | [] => d.modSch t fun x => x.dropSteps key
  | e :: _ =>
    if e.reruns ≥ d.getF (Reg.SCHED_CFG t) F.SCHED_CFG_RERUN_MAX then d.finishGroup t key 5 r.reason r.loaf else
    let n := e.reruns + 1
    let d := d.count (Reg.SCHED_RERUN_COUNT t) F.SCHED_RERUN_COUNT_COUNT 1
    let d := d.raise 0x1024 p.slice (stewardOf t) r.loaf (p.counter.toNat % 2 ^ 48 + n % 256 * 2 ^ 48)
    let d := match (d.sch t).ctx? p.slice p.ctx with | some c => d.zeroCtxCtrs t c | none => d
    d.modSch t fun x => (x.dropSteps key).modGroup key fun e => { e with reruns := n }

/-- A step whose lanes have ended, or one of whose lanes failed, leaves the running list. -/
def Dev.settleItem (t : Nat) (d : Dev) (p : Placed) : Dev :=
  let key := (p.tray, p.seq)
  if !((d.sch t).running.any fun q => q.same p) then d else
  match p.results.find? (·.outcome == 1), p.results.find? (·.outcome == 2) with
  | some r, _ => d.finishGroup t key 3 r.reason r.loaf
  | none, some r => d.rerun t p r
  | none, none =>
    if p.results.length < p.lanes.length then d else
    let d := d.modSch t fun x => ({ x with running := x.running.filter fun q => !q.same p }).modGroup key
      fun e => { e with done := e.done + 1, pos := max e.pos (e.done + 1), reruns := 0, doneTick := d.tickNo }
    d.modSch t fun x => match x.ctx? p.slice p.ctx with | some c => x.putCtx { c with live := p.live } | none => x

/-- How one loaf ended goes to the first running step that still waits for its unit. -/
def attach (r : LoafDone) : List Placed → List Placed
  | [] => []
  | p :: ps =>
    if p.started.contains r.unit.toNat && p.slice == r.slice && !(p.results.any (·.unit == r.unit)) then { p with results := p.results ++ [r] } :: ps
    else p :: attach r ps

/-- The loaf states of the snapshot are taken into the steps they belong to. -/
def Dev.settle (d : Dev) (t : Nat) : Dev :=
  let rs := (d.tile t).snapDone
  let d := d.setTile t { d.tile t with snapDone := [] }
  let d := d.modSch t fun x => { x with running := rs.foldl (fun l r => attach r l) x.running }
  (d.sch t).running.foldl (Dev.settleItem t) d

/-- Step 4 of Table 02.5 on a tile: the results of the snapshot, acceptance, commits and completion records, then aborts. -/
def Dev.step4 (d : Dev) (t : Nat) : Dev :=
  let ns := d.homeTrays t
  let d := ((d.settle t).acceptAll t).commitAll t
  let d := ns.foldl (fun d n => Dev.flush t n (d.sch t).entries.length d) d
  let d := ns.foldl (fun d n => d.actAbort t n) d
  ns.foldl (fun d n => Dev.flush t n (d.sch t).entries.length d) d


/-! ## Bench ranges and counters of a context (R229, R230, R234) -/

/-- The lowest range of n lines that overlaps none of the spans. -/
def lowestFit (obs : List (Nat × Nat)) (n : Nat) : Option Nat :=
  ((0 :: obs.map (·.2)).filter fun a => decide (a + n ≤ benchLines) && obs.all fun o => decide (o.2 ≤ o.1) || decide (a + n ≤ o.1) || decide (o.2 ≤ a)).min?

/-- Spans of a logical core's bench that a new range may not overlap: the radio and proving ranges, and the contexts there that
`keep` names. -/
def Dev.benchTaken (d : Dev) (t i : Nat) (keep : TCtx → Bool) : List (Nat × Nat) :=
  d.radioRange t i :: d.proveRange t ::
    ((d.sch t).ctxs.filter fun c => c.stage != .saved && keep c).flatMap fun c => (c.roles.filter (·.core == i)).map fun r => (r.lo, r.lo + c.lines)

/-- The first run of n free counters of a logical core. -/
def Dev.freeCtrs (d : Dev) (t i n : Nat) : Option Nat :=
  match d.physOf t i with
  | none => none
  | some k => ((List.range (49 - n)).find? fun a => (List.range n).all fun j => d.getF (Reg.PROOF_CTR t (48 * k + a + j)) F.PROOF_CTR_STATE == 0).map (48 * k + ·)

/-- A role on a core: the lowest range there that `keep` leaves open, and its counters. -/
def Dev.roleOn (d : Dev) (t i : Nat) (c : TCtx) (keep : TCtx → Bool) : Option Role :=
  match lowestFit (d.benchTaken t i keep) c.lines, d.freeCtrs t i c.ctrN with
  | some lo, some a => some ⟨i, lo, a, 0, 0, 0⟩
  | _, _ => none

/-- The logical core on whose bench or channels the first requirement of lane i lies: its upper copy or its T2 home (R230). -/
def Dev.homeCore (d : Dev) (t : Nat) (v : Variant) (i : Nat) : Option Nat :=
  match v.reqs[i]? with
  | none => none
  | some n => match d.objOfId t n.obj with
    | none => none
    | some (_, o) =>
      let a := if o.state == 3 then o.curAddr else o.homeAddr
      if a < dramSize then some (a / 2 ^ 33 % 16)
      else if decide (0x020000000000 ≤ a) && decide (a < 0x020060000000) then some ((a - 0x020000000000) / 0x01000000 % 16) else none

/-- The roles of a new context from role i on, each on a core of its own: privileged slices by where their weights lie, general
slices in ascending core order (R229, R230). -/
def Dev.assignRoles (d : Dev) (t : Nat) (c : TCtx) (v : Variant) (keep : TCtx → Bool) : Nat → Nat → List Role → Option (List Role)
  | 0, _, acc => some acc
  | n + 1, i, acc =>
    let used := acc.map (·.core)
    let wanted := if c.slice ≤ 7 then (d.homeCore t v i).filter fun j => !used.contains j else none
    let first := match wanted with | some j => d.roleOn t j c keep | none => none
    let lo := if c.slice ≤ 7 then 0 else match acc.getLast? with | some r => r.core + 1 | none => 0
    match first.or (((List.range 16).filter fun j => decide (lo ≤ j) && !used.contains j).findSome? fun j => d.roleOn t j c keep) with
    | some r => Dev.assignRoles d t c v keep n (i + 1) (acc ++ [r])
    | none => none

/-! ## Service transfers (R235, R236, R416) -/

/-- Arrays that a held pass occupies, as the save formula counts them (R133). -/
def HeldPass.arrays (h : HeldPass) : Nat := if h.mode == 2 then 2 else 4
/-- The held pass of a context on a core. -/
def Dev.heldOf (d : Dev) (t : Nat) (c : TCtx) (core : Nat) : Option (Nat × HeldPass) :=
  match d.physOf t core with
  | none => none
  | some k => match (d.kn t k).held with
    | some h => if h.slice == c.slice && h.ctxId == c.id then some (k, h) else none
    | none => none

/-- T_save of one core of a context. -/
def Dev.saveCost (d : Dev) (t : Nat) (c : TCtx) (core : Nat) : Nat :=
  48 + 64 * (match d.heldOf t c core with | some (_, h) => h.arrays | none => 0) + ceilDiv (64 * c.live) 480 + 2 * c.ctrN
/-- The loaf that a variant runs on lane i continues a held pass: a pass of its image begins CONTINUE with that DESC_ID (R132, R236). -/
def Dev.continues (d : Dev) (v : Variant) (i : Nat) (h : HeldPass) : Bool :=
  let img := v.images.getD i 0
  let l := loafHdr (d.bytes img 64)
  img != 0 && (List.range l.nPass).any fun j =>
    let p := passDesc (d.bytes (img + 64 * l.passLine + 64 * j) 64)
    p.init == 2 && p.descId == h.descId
/-- The held passes of a saved context that its next loaf on a role continues; those it RESUMEs stay in their park records. -/
def Dev.preloaded (d : Dev) (c : TCtx) (v : Variant) (i : Nat) : List (Nat × HeldPass) :=
  c.parked.filter fun p => p.1 == i && d.continues v i p.2
/-- The time of a restore: T_save again, and the preload of passes that the next loaf continues (R236). -/
def Dev.restoreCost (d : Dev) (c : TCtx) (v : Variant) (i : Nat) : Nat :=
  48 + 64 * (((c.parked.filter (·.1 == i)).map fun p => p.2.arrays).sum) + ceilDiv (64 * c.live) 480 + 2 * c.ctrN +
    64 * (((d.preloaded c v i).map fun p => p.2.arrays).sum)

/-- The order of transfers decided in one slot: saves, zeroing, restores, image copies. -/
def SvcKind.rank : SvcKind → Nat
  | .save => 0
  | .zero => 1
  | .restore => 2
  | .copy => 3
/-- A transfer takes its place behind those decided before it. -/
def insertSvc (v : Svc) : List Svc → List Svc
  | [] => [v]
  | w :: r => if w.decided == v.decided && decide (v.kind.rank < w.kind.rank) then v :: w :: r else w :: insertSvc v r
def Dev.addSvc (d : Dev) (t : Nat) (v : Svc) : Dev := d.modSch t fun x => { x with svc := insertSvc v x.svc }
def Dev.mkSvc (d : Dev) (kind : SvcKind) (core slice ctx role cost : Nat) : Svc := ⟨kind, core, slice, ctx, role, cost, cost, d.tickNo, none, 0, 0, 0, 0⟩

/-- Saves of a context on each of its cores are planned (R234, R238). -/
def Dev.planSave (d : Dev) (t : Nat) (c : TCtx) : Dev :=
  let costs := c.roles.map fun r => d.saveCost t c r.core
  let d := c.roles.zipIdx.foldl (fun (d : Dev) r => d.addSvc t (d.mkSvc .save r.1.core c.slice c.id r.2 (d.saveCost t c r.1.core))) d
  let d := d.count (Reg.SCHED_PREEMPT_COUNT t) F.SCHED_PREEMPT_COUNT_COUNT 1
  d.modSch t fun x => x.putCtx { c with stage := .saving, longest := costs.foldl max 0 }

/-- Lines given to a context that another slice's context has held since they were last zeroed are zeroed first; the lines are then
held by the context's slice (R416). -/
def Dev.giveLines (d : Dev) (t : Nat) (c : TCtx) (role : Nat) (r : Role) : Dev :=
  let lo := r.lo
  let hi := r.lo + c.lines
  let dirty := ((d.sch t).held.filter fun h => h.1 == r.core && h.2.2.2 != c.slice && decide (h.2.1 < hi) && decide (lo < h.2.2.1)).map
    fun h => (max lo h.2.1, min hi h.2.2.1)
  let d := if dirty.isEmpty then d else
    let a := (dirty.map (·.1)).foldl min hi
    let b := (dirty.map (·.2)).foldl max lo
    d.addSvc t { d.mkSvc .zero r.core c.slice c.id role (ceilDiv ((b - a) * 64) 256) with lo := a, hi := b }
  d.modSch t fun x => { x with held := x.held ++ [(r.core, lo, hi, c.slice)] }

/-- Contexts that overlap the ranges taken and are not being saved are saved. -/
def Dev.evictFor (d : Dev) (t : Nat) (me : TCtx) (roles : List Role) : Dev :=
  let hit := fun (o : TCtx) => o.stage == .resident && !(o.slice == me.slice && o.id == me.id) &&
    o.roles.any fun q => roles.any fun r => q.core == r.core && decide (q.lo < r.lo + me.lines) && decide (r.lo < q.lo + o.lines)
  ((d.sch t).ctxs.filter hit).foldl (fun d o => d.planSave t o) d

/-- A context of equal or higher PRIO, one that is being restored, and one that a reset has discarded keep their lines. -/
def keepsFrom (p : Nat) (o : TCtx) : Bool := decide (o.prio ≥ p) || o.stage == .restoring || o.stage == .dead

/-- A context that has no cores yet takes them, over contexts of lower PRIO where no range is free (R228 to R230, R234). -/
def Dev.createCtx (d : Dev) (t : Nat) (c : TCtx) (v : Variant) (cores : Nat) : Dev :=
  match (d.assignRoles t c v (fun _ => true) cores 0 []).or (d.assignRoles t c v (keepsFrom c.prio) cores 0 []) with
  | none => d
  | some rs =>
    let d := d.evictFor t c rs
    let d := rs.foldl (fun (d : Dev) r => (List.range c.ctrN).foldl (fun (d : Dev) j =>
      d.ctrWrite t (r.ctr + j) (ctrWord 0 1 c.slice)) d) d
    let d := d.modSch t fun x => x.putCtx { c with roles := rs }
    (rs.zipIdx.foldl (fun (d : Dev) r => d.giveLines t c r.2 r.1) d).syncContexts t

/-- Ranges for every role of a saved context on its own cores. -/
def Dev.rangesAgain (d : Dev) (t : Nat) (c : TCtx) (keep : TCtx → Bool) : Option (List Role) :=
  c.roles.foldr (fun r l => match l, lowestFit (d.benchTaken t r.core keep) c.lines with
    | some l, some lo => some ({ r with lo := lo, img := 0, img0 := 0, img1 := 0 } :: l)
    | _, _ => none) (some [])

/-- A restore is planned into these ranges, for the variant that the context will run next (R236). -/
def Dev.planRestore (d : Dev) (t : Nat) (c : TCtx) (v : Variant) (rs : List Role) : Dev :=
  let cost := d.restoreCost c v
  let c := { c with
    roles := rs, stage := .restoring, longest := (rs.zipIdx.map fun r => cost r.2).foldl max 0
    parked := rs.zipIdx.flatMap fun r => d.preloaded c v r.2 }
  let d := d.modSch t fun x => x.putCtx c
  let d := rs.zipIdx.foldl (fun (d : Dev) r => d.giveLines t c r.2 r.1) d
  (rs.zipIdx.foldl (fun (d : Dev) r => d.addSvc t (d.mkSvc .restore r.1.core c.slice c.id r.2 (cost r.2))) d).syncContexts t

/-! ## Steps that may be placed (R203, R205, R206) -/

/-- A requirement entry is met (R203). -/
def Dev.needMet (d : Dev) (t s : Nat) (n : Need) : Bool :=
  match d.objOfId t n.obj with
  | none => false
  | some (_, o) => o.admits s && ((o.state == 3 && o.curTier == n.tier && o.curAddr == n.addr) ||
      (o.homeTier == 2 && n.tier == 2 && o.homeAddr == n.addr && decide (1 ≤ o.state) && decide (o.state ≤ 3)))
/-- An unmet requirement can no longer be met: its object failed, was lost or retired (R206). -/
def Dev.needDead (d : Dev) (t s : Nat) (n : Need) : Bool :=
  !d.needMet t s n && (match d.objOfId t n.obj with | none => true | some (_, o) => o.state == 5 || o.state == 6)

/-- The step an entry runs next: its record, its variants with their addresses, and its chunk. -/
def Dev.nextStep (d : Dev) (e : Entry) : Option (StepRec × List Variant × Nat) :=
  if e.pos ≥ d.stepsOf e.raw then none else
  let (i, k) := d.stepAt e.raw e.pos
  let r := d.stepRec (entProg e.raw) i
  some (r, (r.vars.take r.nVar).map d.variant, k)
/-- Its variants that are met, in order of preference. -/
def Dev.metVariants (d : Dev) (t : Nat) (e : Entry) : List Variant :=
  match d.nextStep e with
  | some (_, vs, _) => vs.filter fun v => v.reqs.all (d.needMet t e.slice)
  | none => []

/-- The class of an entry's work within its PRIO (R231). -/
def workClass (e : Entry) : Nat := if entKind e.raw == 1 then 0 else if entKind e.raw == 2 then 1 else 2

/-- The leaders with work, in the order of R231: PRIO, class, slice in rotation, tray, SEQ. An entry of a tray waits for the earlier
ones of its context on that tray. -/
def Dev.workOrder (d : Dev) (t : Nat) : List Entry :=
  let x := d.sch t
  let prio := fun (e : Entry) => match x.ctx? e.slice (entCtx e.raw) with | some c => c.prio | none => 0
  let heads := x.entries.filter fun e => e.ending.isNone && (x.group e.leads).head?.map (·.key) == some e.key && (d.nextStep e).isSome &&
    d.sliceState e.slice == 1
  let free := heads.filter fun e => !(x.entries.any fun o => o.tray == e.tray && ahead e.seq o.seq && o.ending.isNone && o.leads != e.leads &&
    entCtx o.raw == entCtx e.raw && !(entKind o.raw == 1 && entKind e.raw == 1))
  let before := fun (a b : Entry) =>
    let ka : Nat × Nat × Nat × Nat := (3 - prio a, workClass a, (a.slice + 64 - x.rot) % 64, a.tray)
    let kb : Nat × Nat × Nat × Nat := (3 - prio b, workClass b, (b.slice + 64 - x.rot) % 64, b.tray)
    if ka == kb then !ahead a.seq b.seq
    else decide (ka.1 < kb.1) || (ka.1 == kb.1 && (decide (ka.2.1 < kb.2.1) || (ka.2.1 == kb.2.1 &&
      (decide (ka.2.2.1 < kb.2.2.1) || (ka.2.2.1 == kb.2.2.1 && decide (ka.2.2.2 < kb.2.2.2))))))
  free.foldl (fun l e => l.takeWhile (fun o => before o e) ++ e :: l.dropWhile (fun o => before o e)) []

/-! ## Deciding saves and restores (R231 step 1, R234, R237, R238) -/

/-- The image last copied for a lane of a role. -/
def Role.image (r : Role) (lane : Nat) : Nat := if lane < 16 then r.img else if (lane - 16) % 2 == 0 then r.img0 else r.img1
/-- The image of a lane lies in the bench, or a copy of it is under way. -/
def Sched.imageComing (x : Sched) (c : TCtx) (lane img : Nat) : Bool :=
  (match c.roles[roleOf lane]? with | some r => r.image lane == img | none => false) ||
  x.svc.any fun v => v.kind == .copy && v.slice == c.slice && v.ctx == c.id && v.lane == lane && v.image == img
/-- All images of a variant lie in the bench or are being copied there. -/
def Sched.imagesComing (x : Sched) (c : TCtx) (v : Variant) : Bool :=
  v.images.zipIdx.all fun i => i.1 == 0 || x.imageComing c i.2 i.1

/-- The length of a loaf image in bytes: through the last of its tables (log entry 17). -/
def Dev.imageBytes (d : Dev) (lane a : Nat) : Nat :=
  if lane < 16 then
    let h := loafHdr (d.bytes a 64)
    max 64 (max (64 * h.instrLine + 8 * h.nInstr) (max (64 * h.passLine + 64 * h.nPass) (64 * h.dmaLine + 32 * h.nDma)))
  else max 64 (64 * (leAt (d.bytes a 64) 18 2 + leAt (d.bytes a 64) 16 2))

/-- A service copy of every image of a variant that is absent (R231). -/
def Dev.copyImages (d : Dev) (t : Nat) (c : TCtx) (v : Variant) : Dev :=
  v.images.zipIdx.foldl (fun (d : Dev) i =>
    if i.1 == 0 || (d.sch t).imageComing c i.2 i.1 then d else
    match c.roles[roleOf i.2]? with
    | none => d
    | some r => d.addSvc t { d.mkSvc .copy r.core c.slice c.id (roleOf i.2) (96 + ceilDiv (d.imageBytes i.2 i.1) 480) with image := i.1, lane := i.2 }) d

/-- A context none of whose entries has a placeable step and none of whose loaves runs (R238). -/
def Dev.blocked (d : Dev) (t : Nat) (c : TCtx) : Bool :=
  let x := d.sch t
  !(x.running.any fun p => p.slice == c.slice && p.ctx == c.id) &&
  !(x.entries.any fun e => e.ending.isNone && e.slice == c.slice && entCtx e.raw == c.id && !(d.metVariants t e).isEmpty)

/-- A saved context with a placeable step: a free range, a range of lower PRIO, or the save of one blocked context (R236, R234, R238). -/
def Dev.tryRestore (d : Dev) (t : Nat) (c : TCtx) (v : Variant) : Dev :=
  match (d.rangesAgain t c (fun _ => true)).or (d.rangesAgain t c (keepsFrom c.prio)) with
  | some rs => (d.evictFor t c rs).planRestore t c v rs
  | none =>
    let cores := c.roles.map (·.core)
    let there := (d.sch t).ctxs.filter fun o => o.stage != .saved && !(o.slice == c.slice && o.id == c.id) && o.roles.any fun r => cores.contains r.core
    if there.any (fun o => o.stage != .resident) || !(there.all (d.blocked t)) then d else
    let cost := fun (o : TCtx) => (o.roles.map fun r => d.saveCost t o r.core).sum
    let better := fun (a b : TCtx) => decide (cost a < cost b) || (cost a == cost b && (decide (a.slice < b.slice) || (a.slice == b.slice && decide (a.id < b.id))))
    match there with
    | [] => d
    | o :: os => d.planSave t (os.foldl (fun a b => if better b a then b else a) o)

/-- Step 5, first part, for one leader: an entry whose step no variant can run is deferred or ends; otherwise its context is
placed, restored, or given its images. Answers the device and whether the entry may be placed. -/
def Dev.prepare (t : Nat) (d : Dev) (e0 : Entry) : Dev :=
  match (d.sch t).entries.find? fun o => o.key == e0.key with
  | none => d
  | some e =>
    match d.nextStep e, (d.sch t).ctx? e.slice (entCtx e.raw) with
    | some (_, vs, _), some c =>
      match d.metVariants t e with
      | [] =>
        if e.pos != e.done then d else
        let needs := vs.flatMap fun v => v.reqs.filter fun n => !d.needMet t e.slice n
        match needs.find? (d.needDead t e.slice) with
        | some n => (d.finishGroup t e.leads 4 0 n.obj).raise 0x4005 e.slice (tierUnit t) n.obj e.seq.toNat
        | none =>
          let loaf := match vs.head? with | some v => (match v.images.find? (· != 0) with | some a => leAt (d.bytes a 64) 0 4 | none => 0) | none => 0
          let obj := match needs.head? with | some n => n.obj | none => 0
          let n := e.deferrals + 1
          let d := d.count (Reg.TIER_DEFER_COUNT t) F.TIER_DEFER_COUNT_COUNT 1
          let d := d.raise 0x4004 e.slice (tierUnit t) loaf (obj + n % 2 ^ 32 * 2 ^ 32)
          d.modSch t fun x => x.modGroup e.leads fun e => { e with deferrals := n }
      | v :: rest =>
        if !c.placed then
          let d := d.createCtx t c v (d.progHdr (entProg e.raw)).cores
          match (d.sch t).ctx? c.slice c.id with
          | some c => if c.placed then d.copyImages t c v else d
          | none => d
        else match c.stage with
          | .resident => if e.pos != e.done || ((v :: rest).any fun w => (d.sch t).imagesComing c w) then d else d.copyImages t c v
          | .saved =>
            let d := d.tryRestore t c v
            (match (d.sch t).ctx? c.slice c.id with | some c => if c.stage == .restoring then d.copyImages t c v else d | none => d)
          | _ => d
    | _, _ => d

/-! ## Placing steps (R231 to R233, R237, R42) -/

/-- The spans of tick N + 1 in which a unit may run inference: its inference windows and what trimming releases (R41, R48). -/
def Dev.nextSpaces (d : Dev) (t unit : Nat) : List (Nat × Nat) :=
  match d.mapOf t unit with
  | none => []
  | some m => (d.mapWindows t m).filterMap fun w =>
    if w.kind == 2 then some (w.start, w.stop)
    else if w.kind == 1 && w.sub == 1 then
      let l := w.stop - w.start
      let n := d.getF (Reg.TICK_TRIM t m) F.TICK_TRIM_LEN_NEXT
      if n > l || n % 200 != 0 || n == l then none else some (w.start + n, w.stop)
    else none

/-- The earliest offset at which every unit has a window that covers the length and that no placed step uses. -/
def Dev.earliest (d : Dev) (t : Nat) (units : List Nat) (from_ len : Nat) : Option Nat :=
  let plan := (d.sch t).plan
  let busy := fun u => (plan.filter fun p => p.lanes.any (·.2 == u)).map fun p => (p.off, p.off + p.len)
  let fits := fun a => units.all fun u =>
    ((d.nextSpaces t u).any fun s => decide (s.1 ≤ a) && decide (a + len ≤ s.2)) && (busy u).all fun b => decide (a + len ≤ b.1) || decide (b.2 ≤ a)
  let starts := units.flatMap fun u => (d.nextSpaces t u).map (·.1) ++ (busy u).map (·.2)
  ((from_ :: starts).filter fun a => decide (from_ ≤ a) && fits a).min?

/-- The transfers of a context are all over by the end of the boundary window now open, each decided before this slot (R237). -/
def Dev.transfersMeet (d : Dev) (t : Nat) (c : TCtx) : Bool :=
  let end_ := (d.tickNo + 1) * d.tickU
  c.roles.all fun r =>
    let q := (d.sch t).svc.filter (·.core == r.core)
    let mine := fun (v : Svc) => v.slice == c.slice && v.ctx == c.id && v.kind != .save
    let upTo := (q.reverse.dropWhile fun v => !mine v).reverse
    let room := match (q.find? fun v => decide (v.left > 0)) with
      | some v => (match v.since with | some s => (end_ - s) / kcU | none => d.bLen)
      | none => d.bLen
    upTo.isEmpty || ((upTo.all fun v => decide (v.decided < d.tickNo)) && decide ((upTo.map (·.left)).sum ≤ room))

/-- A decode batch is formed at step 0 from rows of the context with the same programme and seed set (R232, R456). -/
def Dev.formBatch (d : Dev) (t : Nat) (e : Entry) : Dev :=
  if entKind e.raw != 1 || e.pos != 0 || e.done != 0 || ((d.sch t).group e.leads).length > 1 then d else
  let h := d.progHdr (entProg e.raw)
  let joins := fun (o : Entry) => o.ending.isNone && o.slice == e.slice && entKind o.raw == 1 && entCtx o.raw == entCtx e.raw && o.pos == 0 && o.done == 0 &&
    entProg o.raw == entProg e.raw && bytesAt o.raw 64 32 == bytesAt e.raw 64 32 && (((d.sch t).group o.leads).length ≤ 1)
  let others := ((d.sch t).entries.filter fun o => joins o && o.key != e.key)
  let sorted := others.foldl (fun l (o : Entry) => l.takeWhile (fun a => decide (a.tray < o.tray) || (a.tray == o.tray && ahead o.seq a.seq)) ++ o ::
    l.dropWhile (fun a => decide (a.tray < o.tray) || (a.tray == o.tray && ahead o.seq a.seq))) []
  let rows := sorted.take (h.batchRows - 1)
  rows.zipIdx.foldl (fun (d : Dev) o => d.modSch t fun x => x.putEntry { o.1 with leader := some e.key, row := o.2 + 1 }) d

/-- Chunks of a context's prompts already placed for the next tick (R233). -/
def Sched.chunksPlaced (x : Sched) (c : TCtx) : List (Nat × BitVec 64 × Nat) :=
  ((x.plan.filter fun p => p.slice == c.slice && p.ctx == c.id && x.entries.any fun e => e.key == (p.tray, p.seq) && entKind e.raw == 2).map
    fun p => (p.tray, p.seq, p.chunk)).eraseDups

/-- One step of a leader is placed in the next tick, if it may be (R231). -/
def Dev.placeStep (d : Dev) (t : Nat) (key : Nat × BitVec 64) : Option Dev :=
  match (d.sch t).group key with
  | [] => none
  | e :: _ =>
    match d.nextStep e, (d.sch t).ctx? e.slice (entCtx e.raw) with
    | some (sr, _, chunk), some c =>
      let mine := (d.sch t).plan.filter fun p => (p.tray, p.seq) == key
      let behind := (d.sch t).running.any fun p => (p.tray, p.seq) == key
      let stageOk := match c.stage with
        | .resident => true
        | .restoring => true
        | .saving => (d.sch t).svc.any fun v => v.kind == .save && v.slice == c.slice && v.ctx == c.id && v.decided == d.tickNo
        | .saved => false
        | .dead => false
      let limit := d.getF (Reg.SCHED_CFG t) F.SCHED_CFG_PREFILL_MAX
      let chunks := (d.sch t).chunksPlaced c
      let chunkOk := entKind e.raw != 2 || limit == 0 || chunks.contains (e.tray, e.seq, chunk) || decide (chunks.length < limit)
      if !c.placed || behind || !stageOk || !chunkOk || !d.transfersMeet t c then none else
      match (d.metVariants t e).find? fun v => (d.sch t).imagesComing c v with
      | none => none
      | some v =>
        let lanes := (lanesOf sr.lanes).filterMap fun j => (d.laneUnit t c j).map (j, ·)
        if lanes.length != (lanesOf sr.lanes).length then none else
        -- R444: a lane on a fenced Sieve
        match lanes.find? fun l => d.fenced t l.2 with
        | some l => some (d.finishGroup t key 5 5 (leAt (d.bytes (v.images.getD l.1 0) 64) 0 4))
        | none =>
        let from_ := (mine.map fun p => p.off + p.len).foldl max 0
        match d.earliest t (lanes.map (·.2)) from_ v.length with
        | none => none
        | some off =>
          let d := d.formBatch t e
          let ctr := if entKind e.raw == 1 then 0#64 else BitVec.ofNat 64 (entStep0 e.raw + e.pos)
          let p : Placed := ⟨key.1, key.2, c.slice, c.id, e.pos, chunk, ctr, off, v.length, v.live, lanes, [], []⟩
          some (d.modSch t fun x => ({ x with plan := x.plan ++ [p] }).modGroup key fun e => { e with pos := e.pos + 1 })
    | _, _ => none

/-- As many steps of a leader as fit in the next tick, in order. -/
def Dev.placeSteps (t : Nat) (key : Nat × BitVec 64) : Nat → Dev → Dev
  | 0, d => d
  | n + 1, d => match d.placeStep t key with | some d' => Dev.placeSteps t key n d' | none => d

/-- Held passes whose arrays something other than their continuing loaf uses first are parked (R133). -/
def Dev.parkHeld (d : Dev) (t : Nat) : Dev :=
  (List.range 17).foldl (fun (d : Dev) k =>
    match (d.kn t k).held with
    | none => d
    | some h =>
      let mine := (d.sch t).plan.filter fun p => p.lanes.any (·.2 == 0x100 + k)
      let first := (mine.map (·.off)).min?
      let other := match d.mapOf t (0x100 + k) with
        | none => none
        | some m => (((d.mapWindows t m).filter fun w => w.kind == 1 || (w.kind == 3 && w.sub == 3)).map (·.start)).min?
      let keep := match first, other with
        | none, none => true
        | none, some _ => false
        | some a, b => (match b with | some b => decide (a < b) | none => true) && mine.any fun p => p.off == a && p.slice == h.slice && p.ctx == h.ctxId
      if h.chained || keep then d else
      match (d.sch t).ctx? h.slice h.ctxId with
      | none => d
      | some c => match (c.roles.find? fun r => d.physOf t r.core == some k) with
        | none => d
        | some r =>
          let d := d.write (benchAt t k ((r.lo + h.parkBase) * 64)) (h.record (d.kn t k).acc)
          (d.modKn t k fun c => { c with held := none, acc := [] }).setArrays t k 0) d

/-- Step 5 of Table 02.5 on a tile (R231). -/
def Dev.step5 (d : Dev) (t : Nat) : Dev :=
  let d := (d.workOrder t).foldl (Dev.prepare t) d
  let order := d.workOrder t
  let d := order.foldl (fun d e => Dev.placeSteps t e.key (min 4096 (d.stepsOf e.raw - e.pos)) d) d
  let d := match order.head? with | some e => d.modSch t fun x => { x with rot := (e.slice + 1) % 64 } | none => d
  d.parkHeld t

/-! ## Tier requests of loaves (R200) -/

/-- Step 6: valid entries of each slice's request area are pushed in index order, and their OP is written zero. -/
def Dev.step6 (d : Dev) (t : Nat) : Dev :=
  (List.range 64).foldl (fun (d : Dev) s =>
    let (lo, hi) := d.pantryRegion s t
    if hi < lo + 4096 then d else
    (List.range 128).foldl (fun (d : Dev) i =>
      let a := pantryAt t (lo + 32 * i)
      if d.byte a == 0#8 then d else
      let c := tierCmdOf (d.bytes a 32) d.tickNo
      let d := if c.slice != s then (d.raise 0x4002 s (tierUnit t) c.objId (3 + c.op * 256)).tierRecord t c 7 3 else d.tierPush t c
      d.write a [0#8]) d) d

/-! ## The tick edge (R47, R235) -/

/-- Service transfers pause at the edge; what they have done counts. -/
def Dev.pauseSvc (d : Dev) (t edge : Nat) : Dev :=
  d.modSch t fun x => { x with svc := x.svc.map fun v => match v.since with
    | some s => { v with left := v.left - (edge - s) / kcU, since := none }
    | none => v }

/-- A tile takes its next tick: with a plan in time its steps run, otherwise they are placed again later. Steps that never
started, and steps whose context still waits for a transfer, are placed again too. -/
def Dev.schedEdge (d : Dev) (t edge : Nat) (inTime : Bool) : Dev :=
  let d := d.pauseSvc t edge
  let x := d.sch t
  let waits := fun (p : Placed) => x.svc.any fun v => v.slice == p.slice && v.ctx == p.ctx && v.kind != .save && decide (v.left > 0)
  let (go, wait) := if inTime then x.plan.partition fun p => !waits p else ([], x.plan)
  let (stay, lost) := x.running.partition fun p => !p.started.isEmpty
  let d := (wait ++ lost).foldl (fun d p => d.modSch t fun x => x.modGroup (p.tray, p.seq) fun e => { e with pos := min e.pos (max e.done p.index) }) d
  let again := fun (p : Placed) => (wait ++ lost).any fun q => q.tray == p.tray && q.seq == p.seq && decide (q.index ≤ p.index)
  d.modSch t fun x => { x with plan := [], running := (stay ++ go).filter fun p => !again p }

/-! ## Service transfers run (R235 to R237, R416) -/

/-- The end of the tick that is open now. -/
def Dev.tickEnd (d : Dev) : Nat := (d.tickNo + 1) * d.tickU
/-- Replace one transfer. -/
def Sched.putSvc (x : Sched) (old new : Svc) : Sched := { x with svc := x.svc.map fun v => if v == old then new else v }
def Sched.dropSvc (x : Sched) (old : Svc) : Sched := { x with svc := x.svc.filter (· != old) }
/-- The transfers of a core that still take time, in order. -/
def Sched.coreQueue (x : Sched) (core : Nat) : List Svc := x.svc.filter fun v => v.core == core && decide (v.left > 0)

/-- Device time moves to the boundary start when it lies ahead in this tick; none when the tile is paused or still at work. -/
def Dev.atBoundary (d : Dev) (t : Nat) : Option Dev :=
  let d' := d.advanceTo (d.tickNo * d.tickU + d.bStart * kcU)
  if d'.paused t || (d'.tile t).skipped || (d'.tile t).pos < d'.bStart then none else some d'

/-- SERVICE_TRANSFER_START: in the boundary window, a core's first transfer begins or continues; when a save or restore of the
core is over, the next one begins behind it. The time of a save is that of the state the context then has. -/
def serviceTransferStartEffect (t k : Nat) (d : Dev) : Dev :=
  match d.logicalOf t k, d.atBoundary t with
  | some i, some d' =>
    match (d'.sch t).coreQueue i with
    | [] => d
    | v :: r =>
      match v.since with
      | none =>
        if v.decided ≥ d'.tickNo then d else
        let cost := match v.kind, (d'.sch t).ctx? v.slice v.ctx with
          | .save, some c => if v.left == v.cost then d'.saveCost t c v.core else v.cost
          | _, _ => v.cost
        d'.modSch t fun x => x.putSvc v { v with cost := cost, left := (if v.left == v.cost then cost else v.left), since := some d'.now }
      | some s =>
        let end_ := s + v.left * kcU
        match r with
        | [] => d
        | w :: _ =>
          if decide (end_ > d'.tickEnd) || decide (w.decided ≥ d'.tickNo) || (v.kind != .save && v.kind != .restore) then d else
          let d' := d'.advanceTo end_
          d'.modSch t fun x => (x.putSvc w { w with since := some d'.now }).putSvc v { v with left := 0, since := none }
  | _, _ => d
def execServiceTransferStart (t : Tile) (k : KCore) (s : State) : Host.Outcome State Fault Refusal := ran s (serviceTransferStartEffect t k)

/-- The instant at which every transfer of a kind of a context is over, none while one has still to begin or runs past the edge. -/
def Dev.svcOver (d : Dev) (l : List Svc) : Option Nat :=
  l.foldl (fun m v => match m with
    | none => none
    | some n => if v.left == 0 then some n else match v.since with
      | some s => if s + v.left * kcU ≤ d.tickEnd then some (max n (s + v.left * kcU)) else none
      | none => none) (some d.now)

/-- The save area of a role (R235): a header line, three counter lines, then the live lines. -/
def saveAreaAt (t : Nat) (c : TCtx) (r : Role) : Nat := t * 2 ^ 37 + r.core * 2 ^ 33 + c.spillOff

/-- What a save writes for one role: the held pass into its park record, then the save area; its counters become SAVED. -/
def Dev.saveRole (t : Nat) (c : TCtx) (d : Dev) (ri : Role × Nat) : Dev :=
  let (r, i) := ri
  match d.physOf t r.core with
  | none => d
  | some k =>
    let d := match d.heldOf t c r.core with
      | some (_, h) =>
        let d := d.write (benchAt t k ((r.lo + h.parkBase) * 64)) (h.record (d.kn t k).acc)
        let d := (d.modKn t k fun c => { c with held := none, acc := [] }).setArrays t k 0
        d.modSch t fun x => match x.ctx? c.slice c.id with | some o => x.putCtx { o with parked := o.parked ++ [(i, h)] } | none => x
      | none => d
    let a := saveAreaAt t c r
    let (hdr, d) := d.freshBytes 64
    let vals := (List.range 48).flatMap fun j => leBytes 4 (if j < c.ctrN then d.ctrValue t (r.ctr + j) else 0)
    let d := (d.write a hdr).write (a + 64) vals
    let d := d.write (a + 256) (d.bytes (benchAt t k (r.lo * 64)) (64 * c.live))
    (List.range c.ctrN).foldl (fun (d : Dev) j => d.setF (Reg.PROOF_CTR t (r.ctr + j)) F.PROOF_CTR_STATE 2) d

/-- CONTEXT_SAVED: the save is complete on every core, with event 0x1022. -/
def contextSavedEffect (t id : Nat) (d : Dev) : Dev :=
  match (d.sch t).ctxs.find? fun c => c.id == id && c.stage == .saving with
  | none => d
  | some c =>
    let mine := (d.sch t).svc.filter fun v => v.kind == .save && v.slice == c.slice && v.ctx == c.id
    match d.svcOver mine with
    | none => d
    | some n =>
      let d := d.advanceTo n
      let d := d.modSch t fun x => x.putCtx { c with parked := [] }
      let d := c.roles.zipIdx.foldl (Dev.saveRole t c) d
      let d := d.modSch t fun x => { x with svc := x.svc.filter fun v => !mine.contains v }
      let d := d.modSch t fun x => match x.ctx? c.slice c.id with | some o => x.putCtx { o with stage := .saved } | none => x
      let long := (mine.map (·.cost)).foldl max 0
      (d.syncContexts t).raise 0x1022 c.slice (stewardOf t) c.id long
def execContextSaved (t : Tile) (ctx : BitVec 16) (s : State) : Host.Outcome State Fault Refusal := ran s (contextSavedEffect t ctx.toNat)

/-- What a restore returns to one role: its live lines, its counters, and its held pass. -/
def Dev.restoreRole (t : Nat) (c : TCtx) (d : Dev) (ri : Role × Nat) : Dev :=
  let (r, i) := ri
  match d.physOf t r.core with
  | none => d
  | some k =>
    let a := saveAreaAt t c r
    let d := d.write (benchAt t k (r.lo * 64)) (d.bytes (a + 256) (64 * c.live))
    let d := (List.range c.ctrN).foldl (fun (d : Dev) j =>
      d.ctrWrite t (r.ctr + j) (ctrWord (leAt (d.bytes (a + 64 + 4 * j) 4) 0 4) 1 c.slice)) d
    match c.parked.find? (·.1 == i) with
    | none => d
    | some (_, h) =>
      let l := d.bytes (benchAt t k ((r.lo + h.parkBase) * 64)) (if h.fmtA == 9 then 131136 else 65600)
      (d.modKn t k fun x => { x with held := some h, acc := accOfRecord h.fmtA l }).setArrays t k 3

/-- CONTEXT_RESTORED: the restore is complete on every core, with event 0x1023. -/
def contextRestoredEffect (t id : Nat) (d : Dev) : Dev :=
  match (d.sch t).ctxs.find? fun c => c.id == id && c.stage == .restoring with
  | none => d
  | some c =>
    let mine := (d.sch t).svc.filter fun v => v.kind == .restore && v.slice == c.slice && v.ctx == c.id
    match d.svcOver mine with
    | none => d
    | some n =>
      let d := c.roles.zipIdx.foldl (Dev.restoreRole t c) (d.advanceTo n)
      let d := d.modSch t fun x => { x with svc := x.svc.filter fun v => !mine.contains v }
      let d := d.modSch t fun x => x.putCtx { c with stage := .resident, parked := [] }
      (d.syncContexts t).raise 0x1023 c.slice (stewardOf t) c.id ((mine.map (·.cost)).foldl max 0)
def execContextRestored (t : Tile) (ctx : BitVec 16) (s : State) : Host.Outcome State Fault Refusal := ran s (contextRestoredEffect t ctx.toNat)

/-- The first transfer of a kind on a core that is over by the end of the tick. -/
def Dev.svcDone (d : Dev) (t core : Nat) (kind : SvcKind) : Option (Svc × Nat) :=
  ((d.sch t).svc.find? fun v => v.core == core && v.kind == kind && (v.since.isSome || v.left == 0)).bind fun v => (d.svcOver [v]).map (v, ·)

/-- Spans a, with the lines of another span taken out. -/
def cutSpan (core lo hi : Nat) (h : Nat × Nat × Nat × Nat) : List (Nat × Nat × Nat × Nat) :=
  if h.1 != core || decide (h.2.2.1 ≤ lo) || decide (hi ≤ h.2.1) then [h] else
  (if h.2.1 < lo then [(h.1, h.2.1, lo, h.2.2.2)] else []) ++ (if hi < h.2.2.1 then [(h.1, hi, h.2.2.1, h.2.2.2)] else [])

/-- BENCH_ZEROED: the lines of a zeroing transfer are zero, and held by the context that takes them. -/
def benchZeroedEffect (t k : Nat) (d : Dev) : Dev :=
  match d.logicalOf t k with
  | none => d
  | some i => match d.svcDone t i .zero with
    | none => d
    | some (v, n) =>
      let d := (d.advanceTo n).zeroRange (benchAt t k (v.lo * 64)) (benchAt t k (v.hi * 64)) true
      d.modSch t fun x => { x.dropSvc v with held := x.held.flatMap (cutSpan i v.lo v.hi) ++ [(i, v.lo, v.hi, v.slice)] }
def execBenchZeroed (t : Tile) (k : KCore) (s : State) : Host.Outcome State Fault Refusal := ran s (benchZeroedEffect t k)

/-- Where the image of a lane lies in the bench: the context's base for a core, the base of SIEVE_CONTEXT for a Sieve (R142, R168). -/
def Dev.imagePlace (d : Dev) (t k : Nat) (r : Role) (lane : Nat) : Nat :=
  if lane < 16 then benchAt t k (r.lo * 64)
  else benchAt t k (d.getF (Reg.SIEVE_CONTEXT t (2 * r.core + (lane - 16) % 2)) F.SIEVE_CONTEXT_BENCH_LO * 64)
def Role.setImage (r : Role) (lane a : Nat) : Role :=
  if lane < 16 then { r with img := a } else if (lane - 16) % 2 == 0 then { r with img0 := a } else { r with img1 := a }

/-- IMAGE_COPY_DONE: the image of a lane lies in the context's bench, or a core's radio and proving images in its own. -/
def imageCopyDoneEffect (t k : Nat) (d : Dev) : Dev :=
  match d.logicalOf t k with
  | none => d
  | some i => match d.svcDone t i .copy with
    | none => d
    | some (v, n) =>
      match (d.sch t).ctx? v.slice v.ctx with
      | none =>
        -- the radio and proving images of a core (R443)
        let d := d.advanceTo n
        ((Config.codeBench (d.section_ secRadioCode t) t i).foldl (fun (d : Dev) p => d.write (benchAt t k p.1) p.2) d).modSch t fun x => x.dropSvc v
      | some c => match c.roles[v.role]? with
        | none => d.modSch t fun x => x.dropSvc v
        | some r =>
          let d := d.advanceTo n
          let d := d.write (d.imagePlace t k r v.lane) (d.bytes v.image (d.imageBytes v.lane v.image))
          d.modSch t fun x => (x.dropSvc v).putCtx { c with roles := c.roles.zipIdx.map fun q => if q.2 == v.role then q.1.setImage v.lane v.image else q.1 }
def execImageCopyDone (t : Tile) (k : KCore) (s : State) : Host.Outcome State Fault Refusal := ran s (imageCopyDoneEffect t k)

/-- SERVICE_FAULTED: a fault during a running save or restore discards its context and faults its entries, with event 0x1027. -/
def serviceFaultedEffect (t id : Nat) (d : Dev) : Dev :=
  match (d.sch t).svc.find? fun v => v.ctx == id && (v.kind == .save || v.kind == .restore) && v.since.isSome with
  | none => d
  | some v =>
    match (d.sch t).ctx? v.slice id with
    | none => d
    | some c =>
      let d := d.raise 0x1027 c.slice (stewardOf t) id ((if v.kind == .restore then 1 else 0) + v.core * 256)
      let d := d.finishWhere t (fun e => e.slice == c.slice && entCtx e.raw == id) 5
      d.freeCtx t c
def execServiceFaulted (t : Tile) (ctx : BitVec 16) (s : State) : Host.Outcome State Fault Refusal := ran s (serviceFaultedEffect t ctx.toNat)

end Sys2Proof.Machine
end

