-- ==== Sys2Proof/Machine/Integ.lean ====
section
/-! DEFINITION. Integ: re-fetches and recovery, leaky buckets, the check-bit test mode, scrub, proving runs and what fences a unit
(R429 to R448). -/
namespace Sys2Proof.Machine

/-! ## Leaky buckets (R435) -/

/-- Event 0x5007 when a change set an overflow bit of the block (R448). -/
def Dev.integOvf (was d : Dev) (t r : Nat) (f : Fld) : Dev := if !was.getB r f && d.getB r f then d.raise 0x5007 0xFF (stewardOf t) r 0 else d

/-- A corrected error in a block: the device's count, and the bucket, which raises event 0x5002 once it would pass 255. -/
def Dev.corrected (d : Dev) (line : Nat) : Dev :=
  let (t, b, u) := blockOf (line * 64)
  let r := Reg.INTEG_BUCKET t b
  let d := d.integOvf (d.count Reg.INTEG_CORRECTED F.INTEG_CORRECTED_COUNT 1) t Reg.INTEG_CORRECTED F.INTEG_CORRECTED_OVF
  let v := d.getF r F.INTEG_BUCKET_LEVEL
  if v < 255 then d.setF r F.INTEG_BUCKET_LEVEL (v + 1)
  else if d.getB r F.INTEG_BUCKET_FULL then d
  else (d.setB r F.INTEG_BUCKET_FULL true).raise 0x5002 0xFF u b 0
/-- The LEAK of a block: DRAM, pantry, bench, data memory. -/
def Dev.leakOf (d : Dev) (b : Nat) : Nat :=
  d.getF Reg.INTEG_LEAK ⟨16 * (if b < 64 then 0 else if b < 96 then 1 else if b < 113 then 2 else 3), 16⟩
/-- At a tick edge the buckets whose kind's LEAK divides the tick number leak. -/
def Dev.leakEdge (d : Dev) : Dev :=
  tiles6.foldl (fun (d : Dev) t => (List.range 121).foldl (fun (d : Dev) b =>
    let r := Reg.INTEG_BUCKET t b
    let n := d.leakOf b
    let v := d.getF r F.INTEG_BUCKET_LEVEL
    if (lookup? d.regs r).isNone || n == 0 || d.tickNo % n != 0 || v == 0 then d
    else d.setFs r [(F.INTEG_BUCKET_LEVEL, v - 1), (F.INTEG_BUCKET_FULL, 0)]) d) d

/-! ## Recovery (Table 18.1) -/

/-- The upper copy that holds a line: its object and page. -/
def Dev.upperAt (d : Dev) (t line : Nat) : Option (Nat × Obj × Nat) :=
  ((d.objIndices t).map fun i => (i, d.obj t i)).findSome? fun p =>
    match d.place p.2.curAddr with
    | some a => if p.2.upper && decide (a / 64 ≤ line) && decide (line < a / 64 + 64 * p.2.pages) then some (p.1, p.2, (line - a / 64) / 64) else none
    | none => none
/-- The line of an upper copy is dirty (R194). -/
def Dev.lineDirty (d : Dev) (o : Obj) (line page : Nat) : Bool :=
  o.writable && (look false d.written line || (leAt (d.bytes (o.dirtyBase + 8 * page) 8) 0 8) / 2 ^ (line % 64) % 2 == 1)
/-- The object whose home in T2 holds a line. -/
def Dev.homeAt (d : Dev) (t line : Nat) : Bool :=
  ((d.objIndices t).map (d.obj t)).any fun o => o.homeTier == 2 && decide (o.homeAddr / 64 ≤ line) && decide (line < o.homeAddr / 64 + 64 * o.pages)

/-- An unresolved error found by a reader, with the recovery of what the line holds; a line no row of Table 18.1 repairs stays as it is. -/
def Dev.recover (d : Dev) (line reader slice : Nat) : Dev :=
  let (t, _, _) := blockOf (line * 64)
  let rb := reserveBase t
  let a := line * 64
  if decide (rb ≤ a) && decide (a < rb + 0x04000000) then
    let i := (a - rb) / 64
    let o := d.obj t i
    ((d.unresolved line reader 7 slice).putObj t i { o with state := 6 }).raise 0x4007 slice (tierUnit t) o.id (o.curTier + 256)
  else if decide (poolPlace t ≤ a) && decide (a < poolPlace t + 8 * poolRecords) then d.unresolved line reader 8 slice
  else match d.upperAt t line with
    | some (i, o, page) =>
      if d.lineDirty o line page then
        (((d.unresolved line reader 2 slice).uncharge t o).putObj t i { o with state := 6, curTier := o.homeTier, curAddr := o.homeAddr }).raise 0x4007 o.owner (tierUnit t) o.id (o.curTier + 256)
      else
        let x := d.tier t
        let d := (d.unresolved line reader 1 slice).setTier t { x with repair := if x.repair.contains (i, page) then x.repair else x.repair ++ [(i, page)] }
        d.putObj t i { o with state := 2 }
    | none =>
      if d.homeAt t line then d.unresolved line reader 3 slice
      else if reader == 0 then d.unresolved line reader 0 slice
      else if reader == 3 then d.unresolved line reader 9 slice
      else if reader == 4 then d.unresolved line reader 10 slice
      else if reader == 5 then d.unresolved line reader 6 slice
      else if reader == 6 then d.unresolved line reader 5 slice
      else let (w, d) := d.fresh; d.unresolved line reader (w.toNat % 256) slice

/-- LINE_REFETCH: the re-fetch after a mismatch completes: a line that is good now counts as corrected, one that is bad is unresolved.
Reads that a command of the table makes meet their bad lines in that command's own meaning (log entry 27). -/
def lineRefetchEffect (place reader slice : Nat) (d : Dev) : Dev :=
  if d.bad (place / 64) then d.recover (place / 64) reader (if reader == 2 || reader == 3 || reader == 7 then 0xFF else slice) else d.corrected (place / 64)
def execLineRefetch (place : Nat) (reader : Fin 8) (sl : SliceIx) (s : State) : Host.Outcome State Fault Refusal := ran s (lineRefetchEffect place reader sl)

/-- PAGE_REPAIR_DONE: the oldest repair of a tile re-copies its page from the home; the bytes of a T3 or T4 home come with the command. -/
def pageRepairDoneEffect (t : Nat) (page : Bytes) (d : Dev) : Dev :=
  let x := d.tier t
  match x.repair with
  | [] => d
  | (i, p) :: r =>
    let o := d.obj t i
    if o.homeTier != 2 && page.length != 4096 then d else
    let d := d.setTier t { x with repair := r }
    if o.state != 2 then d else
    match d.place o.curAddr, (if o.homeTier == 2 then d.firstBad (o.homeAddr + 4096 * p) 4096 else none) with
    | none, _ => d
    | some _, some ln => ((d.unresolved ln 1 3 o.owner).uncharge t o).putObj t i { o with state := 5, curTier := o.homeTier, curAddr := o.homeAddr }
    | some a, none =>
      let d := d.write (a + 4096 * p) (if o.homeTier == 2 then d.bytes (o.homeAddr + 4096 * p) 4096 else page)
      let d := d.clearWritten (a + 4096 * p)
      let d := if r.any (·.1 == i) then d else d.putObj t i { o with state := 3 }
      d.raise 0x5003 o.owner (tierUnit t) o.id p
def execPageRepairDone (t : Tile) (page : Bytes) (s : State) : Host.Outcome State Fault Refusal := ran s (pageRepairDoneEffect t page)

/-! ## Check-bit test mode (R436) -/

/-- A test command: its line, or its refusal with event 0x5008. -/
def Dev.testCmd (d : Dev) (m : Master) (go : Nat → Dev → Dev) : Dev :=
  let a := d.getF Reg.INTEG_TEST_ADDR F.INTEG_TEST_ADDR_ADDR * 64
  let ok := m == hostDriver && !inReserve a
  match (if ok then d.place a else none) with
  | some p => go (p / 64) (d.setReg Reg.INTEG_TEST_RESULT 1#64)
  | none => (d.setReg Reg.INTEG_TEST_RESULT 3#64).raise 0x5008 0xFF systemSteward (a / 64) m.toNat
def Dev.testData (d : Dev) : Bytes := (List.range 8).flatMap fun w => leBytes 8 (d.reg (Reg.INTEG_TEST_DATA w)).toNat
/-- TEST_RAW_WRITE: data and check are stored unchanged, the line's written bit is set. -/
def testRawWriteEffect (m : Master) (d : Dev) : Dev :=
  d.testCmd m fun ln d =>
    let l := d.testData
    let d := d.write (64 * ln) l
    let c := BitVec.ofNat 16 (d.getF Reg.INTEG_TEST_CHECK F.INTEG_TEST_CHECK_CHECK)
    { d with lineErr := store 0#16 d.lineErr ln (c ^^^ lineCheck l) }
def execTestRawWrite (m : Master) (s : State) : Host.Outcome State Fault Refusal := ranFrom m s (testRawWriteEffect m)
/-- TEST_RAW_READ: the stored data, the stored check and the check of the data; nothing is re-fetched or counted. -/
def testRawReadEffect (m : Master) (d : Dev) : Dev :=
  d.testCmd m fun ln d =>
    let l := d.bytes (64 * ln) 64
    let c := lineCheck l
    let d := (List.range 8).foldl (fun (d : Dev) w => d.setReg (Reg.INTEG_TEST_DATA w) (BitVec.ofNat 64 (leAt l (8 * w) 8))) d
    d.setFs Reg.INTEG_TEST_RESULT [(F.INTEG_TEST_RESULT_STORED, (c ^^^ d.errOf ln).toNat), (F.INTEG_TEST_RESULT_COMPUTED, c.toNat)]
def execTestRawRead (m : Master) (s : State) : Host.Outcome State Fault Refusal := ranFrom m s (testRawReadEffect m)

/-! ## Scrub (R437, R438) -/

/-- The store place of line n, in ascending order, of a block's store: a DRAM channel, a pantry bank, a bench. -/
def scrubPlace (t b n : Nat) : Nat :=
  if b < 64 then t * 2 ^ 37 + b / 4 * 2 ^ 33 + b / 2 % 2 * 2 ^ 32 + n * 128 + b % 2 * 64
  else if b < 96 then pantryAt t ((b - 64) * 0x200000 + 64 * n)
  else benchAt t (b - 96) (64 * n)
def scrubLines (b : Nat) : Nat := if b < 64 then 2 ^ 25 else if b < 96 then 32768 else benchLines
/-- Lines of one step, and the kc it takes. -/
def scrubStep (b : Nat) : Nat × Nat := if b < 64 then (48, 25) else if b < 96 then (1, 1) else (48, 1)
def scrubUnit (b : Nat) : Nat := if b < 64 then 0xC00 + b else if b < 96 then 0xB00 + (b - 64) else 0x100 + (b - 96)
/-- A channel wraps; the tile's pass counts once all 64 have. -/
def Dev.scrubWrap (d : Dev) (t b : Nat) : Dev :=
  if b ≥ 64 then d else
  let ws := if d.integ.wrapped.contains (64 * t + b) then d.integ.wrapped else d.integ.wrapped ++ [64 * t + b]
  if ws.countP (fun w => w / 64 == t) == 64 then
    let d := { d with integ := { d.integ with wrapped := ws.filter fun w => w / 64 != t } }
    d.integOvf (d.count (Reg.INTEG_SCRUB t) F.INTEG_SCRUB_PASSES 1) t (Reg.INTEG_SCRUB t) F.INTEG_SCRUB_OVF
  else { d with integ := { d.integ with wrapped := ws } }
/-- SCRUB_READ: in a scrub window, the next lines at a unit's cursor are read and checked. -/
def scrubReadEffect (t b : Nat) (d : Dev) : Dev :=
  let key := 128 * t + b
  let (n, kc) := scrubStep b
  let (cur, next) := look (0, 0) d.integ.cursor key
  if d.paused t then d else
  let d' := d.advance (next - (d.tile t).lk)
  match d'.windowAt t (scrubUnit b) (d'.tile t).pos with
  | none => d
  | some w =>
    if !(w.kind == 3 && w.sub == 1) || decide ((d'.tile t).pos + kc > w.stop) then d else
    let ls := (List.range n).map fun i => scrubPlace t b ((cur + i) % scrubLines b) / 64
    let cur' := (cur + n) % scrubLines b
    let d := { d' with integ := { d'.integ with cursor := store (0, 0) d'.integ.cursor key (cur', (d'.tile t).lk + kc) } }
    let d := if cur + n ≥ scrubLines b then d.scrubWrap t b else d
    (ls.filter d.bad).foldl (fun (d : Dev) ln => if d.bad ln then d.recover ln 2 0xFF else d) d
def execScrubRead (t : Tile) (block : Fin 113) (s : State) : Host.Outcome State Fault Refusal := ran s (scrubReadEffect t block)

/-! ## Proving runs (R439 to R442) -/

/-- A proving record (R446). -/
structure ProveRec where
  id : Nat
  type : Nat
  tiles : Nat
  loaf : Nat
  outLine : Nat
  outLines : Nat
  golden : Bytes
  every : Nat
  phase : Nat
  tLo : Int
  tHi : Int
  rotate : Bool
  deriving DecidableEq, Repr
def signed8 (n : Nat) : Int := if n < 128 then n else (n : Int) - 256
def signed16 (n : Nat) : Int := if n < 32768 then n else (n : Int) - 65536
def proveRec (l : Bytes) : ProveRec :=
  ⟨leAt l 0 2, leAt l 2 1, leAt l 3 1, leAt l 4 4, leAt l 8 4, leAt l 12 4, bytesAt l 16 32, leAt l 48 2, leAt l 50 2, signed8 (leAt l 52 1), signed8 (leAt l 53 1), leAt l 54 1 % 2 == 1⟩
/-- The proving records of a tile. -/
def Dev.proveRecs (d : Dev) (t : Nat) : List ProveRec :=
  let s := d.section_ secIntegrity t
  (List.range ((s.length - 96) / 64)).map fun i => proveRec (bytesAt s (96 + 64 * i) 64)
def Dev.proveById (d : Dev) (t id : Nat) : Option ProveRec := (d.proveRecs t).find? (·.id == id)
/-- Units of a type on a tile, as numbers within it. -/
def unitsOfType (ty : Nat) : List Nat :=
  (List.range (match ty with | 1 => 17 | 3 => 32 | 4 => 8 | 5 => 4 | 6 => 2 | 7 => 1 | 8 => 1 | _ => 0)).map (ty * 0x100 + ·)
/-- The units of a tile that a firing of a record runs: all of them, or with ROTATE the one whose turn it is (log entry 27). -/
def ProveRec.unitsOn (r : ProveRec) (t T : Nat) : List Nat :=
  if r.tiles / 2 ^ t % 2 == 0 then []
  else if !r.rotate then unitsOfType r.type
  else
    let all := (tiles6.filter fun u => r.tiles / 2 ^ u % 2 == 1).flatMap fun u => (unitsOfType r.type).map (u, ·)
    match all[T / r.every % max 1 all.length]? with
    | some (u, x) => if u == t then [x] else []
    | none => []
def Dev.proveLength (d : Dev) (t : Nat) (r : ProveRec) : Nat :=
  match Config.codeLoaf (d.section_ secRadioCode t) r.loaf with | some (_, _, n) => n | none => 0
/-- The place of a proving window of a unit that a run of a length fits, and that no run of the tick has taken. -/
def Dev.proveSlot (d : Dev) (t unit len T : Nat) : Option Nat :=
  match d.mapOf t unit with
  | none => none
  | some m => (((d.mapWindows t m).filter fun w => w.kind == 3 && w.sub == 3 && decide (w.start + len ≤ w.stop)).map (·.start)).find? fun a =>
      !(d.integ.runs.any fun x => x.tile == t && x.unit == unit && x.tick == T && x.off == a)
def Dev.placeProve (d : Dev) (t unit : Nat) (r : ProveRec) (T : Nat) (rep : Bool) : Dev :=
  let len := d.proveLength t r
  if len == 0 || d.fenced t unit then d else
  match d.proveSlot t unit len T with
  | some a => { d with integ := { d.integ with runs := d.integ.runs ++ [⟨r.id, t, unit, T, a, rep, none, false⟩] } }
  | none => d
/-- The records that fire in tick T on a tile, in ascending PROVE_ID order. -/
def Dev.placeProves (d : Dev) (t T : Nat) : Dev :=
  let snap := signed16 (d.getF (Reg.PWR_TEMP t) F.PWR_TEMP_SNAP)
  let rs := (d.proveRecs t).filter fun r => r.every != 0 && T % r.every == r.phase && decide (4 * r.tLo ≤ snap) && decide (snap ≤ 4 * r.tHi)
  let rs := rs.foldl (fun l r => l.takeWhile (fun (x : ProveRec) => decide (x.id < r.id)) ++ r :: l.dropWhile (fun (x : ProveRec) => decide (x.id < r.id))) []
  rs.foldl (fun (d : Dev) r => (r.unitsOn t T).foldl (fun (d : Dev) u => d.placeProve t u r T false) d) d

/-- The proving area of a unit (R439), as a store place. -/
def Dev.proveArea (d : Dev) (t unit : Nat) : Nat :=
  let s := d.section_ secIntegrity t
  match unit / 0x100 with
  | 1 => benchAt t (unit % 0x100) (64 * leAt s 66 4)
  | 3 => benchAt t ((d.physOf t (unit % 0x100 / 2)).getD 0) (64 * leAt s 66 4)
  | 4 => dmemAt t (unit % 0x100) (128 * leAt s 74 2)
  | _ => pantryAt t ((d.pantryRegion 0 t).1 + 64 * leAt s 78 4)
def Dev.proveDigest (d : Dev) (t unit : Nat) (r : ProveRec) : Bytes :=
  leBytes 32 (Config.sha3 (d.bytes (d.proveArea t unit + 64 * r.outLine) (64 * r.outLines))).toNat
/-- The neighbours of a logical position (R442). -/
def neighbours (i : Nat) : List Nat :=
  if i > 15 then [0xFF, 0xFF, 0xFF, 0xFF] else
  [if i ≥ 4 then i - 4 else 0xFF, if i + 4 ≤ 15 then i + 4 else 0xFF, if i % 4 != 0 then i - 1 else 0xFF, if i % 4 != 3 then i + 1 else 0xFF]
/-- A record for the proving log ring (Table 18.3); the busy shares are free values (log entry 27). -/
def Dev.proveLog (d : Dev) (x : ProveRun) (result : Nat) (dig : Bytes) : Dev :=
  let h := d.integHdr
  let base := leAt h 12 8
  let size := 2 ^ leAt h 20 1
  let tail := d.getF Reg.INTEG_LOG_PTR F.INTEG_LOG_PTR_TAIL
  let head := d.getF Reg.INTEG_LOG_PTR F.INTEG_LOG_PTR_HEAD
  let u := unitId x.tile 0 0 + BitVec.ofNat 16 x.unit
  if (tail + 2 ^ 32 - head) % 2 ^ 32 == size then d.raise 0x5009 0xFF systemSteward x.id u.toNat else
  let pos := match x.unit / 0x100 with | 1 => (d.logicalOf x.tile (x.unit % 0x100)).getD 16 | 3 => x.unit % 0x100 / 2 | _ => 16
  let (die, dram) := x.temps.getD (0, 0)
  let (busy, d) := d.freshBytes 4
  let (near, d) := d.freshBytes 8
  let l := leBytes 2 x.id ++ leBytes 2 u.toNat ++ leBytes 1 result ++ leBytes 1 0 ++ leBytes 2 die ++ leBytes 2 dram ++ busy ++ leBytes 2 0 ++ leBytes 8 x.tick ++ near ++
    (neighbours pos).flatMap (leBytes 1) ++ leBytes 4 0 ++ dig.take 24
  let d := (d.hostWrite .log logRing (base + tail % size * 64) l).setF Reg.INTEG_LOG_PTR F.INTEG_LOG_PTR_TAIL (tail + 1)
  { d with ev := { d.ev with rung := if d.ev.rung.contains logRing then d.ev.rung else d.ev.rung ++ [logRing] } }

/-- A finished run is compared with GOLDEN (R441). -/
def Dev.proveCompare (d : Dev) (x : ProveRun) : Dev :=
  match d.proveById x.tile x.id with
  | none => d
  | some r =>
    let dig := d.proveDigest x.tile x.unit r
    let ok := dig == r.golden
    let p := Reg.INTEG_PROVE x.tile
    let runs := d.getF p F.INTEG_PROVE_RUNS
    let fails := d.getF p F.INTEG_PROVE_FAILS
    let full := runs == 0xFFFFFFFF || (!ok && fails == 0xFFFF)
    let d := d.integOvf (d.setFs p [(F.INTEG_PROVE_RUNS, min 0xFFFFFFFF (runs + 1)), (F.INTEG_PROVE_FAILS, if ok then fails else min 0xFFFF (fails + 1)),
      (F.INTEG_PROVE_OVF, if full then 1 else d.getF p F.INTEG_PROVE_OVF)]) x.tile p F.INTEG_PROVE_OVF
    let d := d.proveLog x ((if x.rep then 2 else 0) + (if ok then 0 else 1)) dig
    if ok then d else
    let u := unitId x.tile 0 0 + BitVec.ofNat 16 x.unit
    let d := d.raise 0x5004 0xFF u x.id ((if x.rep then 1 else 0) + (x.temps.getD (0, 0)).1 % 2 ^ 16 * 2 ^ 8 + leAt dig 0 5 * 2 ^ 24)
    if x.rep then { d with integ := { d.integ with fences := d.integ.fences ++ [(x.tile, x.unit, x.id, x.tick)] } }
    else d.placeProve x.tile x.unit r (d.tickNo + 1) true

/-- Step 2 of Table 02.5 on a tile, in the boundary slot of tick N: runs of tick N - 1 are compared, those of tick N that completed are
kept for the next slot, and the records that fire in N + 1 are placed. A run that did not complete is dropped. -/
def Dev.step2 (d : Dev) (t : Nat) : Dev :=
  let N := d.tickNo
  let due := d.integ.runs.filter fun x => x.tile == t && x.ran && decide (x.tick < N)
  let d := { d with integ := { d.integ with runs := d.integ.runs.filter fun x => !(x.tile == t && x.ran && decide (x.tick < N)) } }
  let d := due.foldl Dev.proveCompare d
  let ended := (d.tile t).snapDone.filter fun e => e.slice == 0 && e.outcome == 0
  let runs := d.integ.runs.map fun x =>
    if x.tile == t && !x.ran && decide (x.tick ≤ N) &&
        ended.any (fun e => e.unit.toNat == x.unit && (match d.proveById t x.id with | some r => r.loaf == e.loaf | none => false)) then { x with ran := true } else x
  let late := fun (x : ProveRun) => x.tile == t && !x.ran && decide (x.tick ≤ N) && (decide (x.tick < N) || decide ((d.tile t).pos ≥ d.bStart))
  ({ d with integ := { d.integ with runs := runs.filter fun x => !late x } } : Dev).placeProves t (N + 1)

/-! ## Fencing (R443, R444) -/

/-- A bit of a mask field is set. -/
def Dev.setMaskBit (d : Dev) (r : Nat) (f : Fld) (n : Nat) : Dev :=
  let m := d.getF r f
  if m / 2 ^ n % 2 == 1 then d else d.setF r f (m + 2 ^ n)
/-- Under POLICY.FENCE_PERSIST a unit that is fenced gets a KIND 1 field record, unless it has one (R507). -/
def Dev.keepFence (d : Dev) (t unit : Nat) : Dev :=
  let u := (unitId t 0 0).toNat + unit
  if leAt d.sp.fw 28 4 / 4 % 2 == 0 || (d.sp.fields ++ d.sp.toWrite).any (fun r => leAt r 0 1 == 1 && leAt r 2 2 == u) then d else
  { d with sp := { d.sp with toWrite := d.sp.toWrite ++ [leBytes 1 1 ++ leBytes 1 t ++ leBytes 2 u ++ leBytes 4 0 ++ leBytes 8 d.tickNo] } }
/-- The unit's fence shows in its register, with event 0x5005. -/
def Dev.markFence (d : Dev) (t unit id tick : Nat) : Dev :=
  let i := unit % 0x100
  let f := Reg.INTEG_FENCE t
  let d := match unit / 0x100 with
    | 1 => d.setMaskBit f F.INTEG_FENCE_KNEAD i
    | 3 => d.setMaskBit (Reg.INTEG_FENCE_SIEVE t) F.INTEG_FENCE_SIEVE_SIEVE i
    | 4 => d.setMaskBit f F.INTEG_FENCE_SIGNAL i
    | 5 => d.setMaskBit f F.INTEG_FENCE_CODEC i
    | 6 => d.setMaskBit f F.INTEG_FENCE_CODEC (4 + i)
    | 7 => d.setMaskBit f F.INTEG_FENCE_CODEC 6
    | _ => d.setMaskBit f F.INTEG_FENCE_CODEC 7
  (d.raise 0x5005 0xFF (unitId t 0 0 + BitVec.ofNat 16 unit) id tick).keepFence t unit
/-- The spare of a tile that may be mapped: disabled, not fenced, holding no index. -/
def Dev.freeSpare (d : Dev) (t : Nat) : Option Nat :=
  if d.getF (Reg.INTEG_FENCE t) F.INTEG_FENCE_SPARE_FOR != 31 || d.getB (Reg.INTEG_FENCE t) F.INTEG_FENCE_SPARE_FENCED then none else
  (List.range 17).find? fun k => (d.logicalOf t k).isNone && !d.fenced t (0x100 + k)
/-- The index of a fenced core goes to the spare, or is absent; event 0x5006. -/
def Dev.mapSpare (d : Dev) (t k i : Nat) : Dev :=
  let spare := d.freeSpare t
  let d := d.setF (Reg.KNEAD_CORE_CFG t k) F.KNEAD_CORE_CFG_ENABLED 0
  let radio := d.getF (Reg.KNEAD_CORE_CFG t k) F.KNEAD_CORE_CFG_RADIO
  match spare with
  | some j =>
    let d := (d.setFs (Reg.KNEAD_CORE_CFG t j) [(F.KNEAD_CORE_CFG_ENABLED, 1), (F.KNEAD_CORE_CFG_LOGICAL, i), (F.KNEAD_CORE_CFG_RADIO, radio)]).setF (Reg.INTEG_FENCE t) F.INTEG_FENCE_SPARE_FOR i
    let n := Config.codeBytes (d.section_ secRadioCode t) t i
    let d := if n == 0 then d else d.addSvc t (d.mkSvc .copy i 0 0xFFFF 0 (ceilDiv n 256))
    d.raise 0x5006 0xFF (stewardOf t) i (1 + k * 256)
  | none => (d.setMaskBit (Reg.INTEG_FENCE t) F.INTEG_FENCE_ABSENT i).raise 0x5006 0xFF (stewardOf t) i (k * 256)

/-- Slots lost in a tick for want of a unit: those of the cells whose class records name it. -/
def Dev.loseUnit (d : Dev) (t T : Nat) (unit : BitVec 16) (cause : Nat) : Dev :=
  ((d.cellsOf t).filter fun c => d.cellUses c unit).foldl (fun (d : Dev) c => [0, 1, 2, 3].foldl (fun (d : Dev) st =>
    match stageSlot (d.slotTicks c) T st with
    | some (S, dir) => d.loseSlot t (cellId c) S dir cause
    | none => d) d) d
/-- At a tick edge the cells of fenced units, and of a core that still waits for its images, lose their slots (R443, R444). -/
def Dev.fencedSlots (d : Dev) (t T : Nat) : Dev :=
  let out := ((unitsOfType 1 ++ unitsOfType 4).filter (d.fenced t)).map fun u => (u, 3)
  let eng := ((unitsOfType 5 ++ unitsOfType 6 ++ unitsOfType 7 ++ unitsOfType 8).filter (d.fenced t)).map fun u => (u, 4)
  let held := d.getF (Reg.INTEG_FENCE t) F.INTEG_FENCE_SPARE_FOR
  let wait := if (d.sch t).svc.any fun v => v.kind == .copy && v.slice == 0 && v.core == held then [] else
    -- the new core holds the images: its radio work is that of the fenced core, which no longer loses slots
    (unitsOfType 1).filter fun u => d.fenced t u && held != 31
  ((out ++ eng).filter fun p => !wait.contains p.1).foldl (fun (d : Dev) p => d.loseUnit t T (unitId t 0 0 + BitVec.ofNat 16 p.1) p.2) d

end Sys2Proof.Machine
end

