-- ==== Sys2Proof/Machine/Peel.lean ====
section
/-! DEFINITION. Peel: the peel channels and the steward commands carried on them (R397 to R403). -/
namespace Sys2Proof.Machine

def peelUnit : BitVec 16 := unitId 7 0x1D 0
/-- Fields of a binding record (Table 16.6). -/
def Dev.peelBind (d : Dev) (n lo w : Nat) : Nat := (d.reg (Reg.PEEL_BIND n)).toNat / 2 ^ lo % 2 ^ w
def Dev.peelOpen (d : Dev) (n : Nat) : Bool := d.peelBind n 32 1 == 1
def Dev.peelOwner (d : Dev) (n : Nat) : Nat := d.getF (Reg.PEEL_STATUS n) F.PEEL_STATUS_OWNER
def isSliceMaster (m : Nat) : Bool := m / 64 == 0xC000 / 64
/-- A master may use a channel (R399). On an open channel, of the slices' host masters only that of the channel's SLICE. -/
def Dev.peelMay (d : Dev) (n m : Nat) : Bool :=
  if d.peelOpen n then m != 0 && m != 0xFFFF && (!isSliceMaster m || m == 0xC000 + d.peelBind n 40 8)
  else m != 0 && m != 0xFFFF && (m == d.peelBind n 0 16 || m == d.peelBind n 16 16)
/-- Event 0xB010: 1 lock, 2 data, 3 GO target. -/
def Dev.peelRefuse (d : Dev) (n what m : Nat) : Dev := d.raise 0xB010 (d.peelBind n 40 8) peelUnit n (what + m * 2 ^ 8)
/-- The owner of a channel, shown in its status and its lock. -/
def Dev.setPeelOwner (d : Dev) (n o : Nat) : Dev := (d.setF (Reg.PEEL_STATUS n) F.PEEL_STATUS_OWNER o).setF (Reg.PEEL_LOCK n) F.PEEL_LOCK_OWNER o

/-- PEEL_LOCK_READ: acquires a free channel, or returns its owner. -/
def peelLockReadEffect (m n : Nat) (d : Dev) : Dev :=
  let ans := fun (d : Dev) (v : Nat) => { d with readOut := BitVec.ofNat 64 v }
  if !d.peelMay n m then ans (d.peelRefuse n 1 m) 0xFFFF
  else if d.peelOwner n != 0 then ans d (d.peelOwner n)
  else ans ((d.setPeelOwner n m).setF (Reg.PEEL_STATUS n) F.PEEL_STATUS_HANDOFFS 0) 0
def execPeelLockRead (m : Master) (n : PeelIx) (s : State) : Host.Outcome State Fault Refusal := ranRead m s (peelLockReadEffect m.toNat n)

/-- PEEL_DATA_ACCESS: the owner's read or write of a data word (R400). -/
def peelDataAccessEffect (m n w : Nat) (wr : Option Word) (d : Dev) : Dev :=
  let own := d.peelOwner n == m && m != 0
  match wr with
  | none => { d with readOut := if own then d.reg (Reg.PEEL_DATA n w) else 0#64 }
  | some v => if own then d.setReg (Reg.PEEL_DATA n w) v else d.peelRefuse n 2 m
def execPeelDataAccess (m : Master) (n : PeelIx) (w : Fin 16) (wr : Option Word) (s : State) : Host.Outcome State Fault Refusal :=
  (if wr.isNone then ranRead else ranFrom) m s (peelDataAccessEffect m.toNat n w wr)

/-- A new owner is told: a host master by VECTOR, a unit by a notice; a tile steward sees it at its next snapshot. -/
def Dev.peelNotify (d : Dev) (n o : Nat) : Dev :=
  if isSliceMaster o || o == 0xC0FF then d.deliverVector (d.peelBind n 48 11) else d.send (.notify (BitVec.ofNat 16 o) n)

/-- The channel goes from its owner to another. -/
def Dev.handTo (d : Dev) (n o : Nat) : Dev :=
  let r := Reg.PEEL_STATUS n
  let old := d.peelOwner n
  let d := (d.setPeelOwner n o).setFs r [(F.PEEL_STATUS_PREV, old), (F.PEEL_STATUS_HANDOFFS, d.getF r F.PEEL_STATUS_HANDOFFS + 1)]
  let d := d.setB (Reg.PEEL_CTRL n) F.PEEL_CTRL_GO true
  { d with peelSeen := d.peelSeen.filter (· != n) }.peelNotify n o
/-- PEEL_HANDOFF: GO = 1 by the owner, to the other master of the pair or to TARGET (R401). -/
def peelHandoffEffect (m n : Nat) (v : Word) (d : Dev) : Dev :=
  if d.peelOwner n != m || m == 0 then d else
  let go := fieldOf F.PEEL_CTRL_GO v == 1
  if d.peelOpen n then
    let tgt := fieldOf F.PEEL_CTRL_TARGET v
    let d := d.setF (Reg.PEEL_CTRL n) F.PEEL_CTRL_TARGET tgt
    if !go then d else if tgt == m || !d.peelMay n tgt then d.peelRefuse n 3 m else d.handTo n tgt
  else if go then d.handTo n (if d.peelBind n 0 16 == m then d.peelBind n 16 16 else d.peelBind n 0 16) else d
def execPeelHandoff (m : Master) (n : PeelIx) (v : Word) (s : State) : Host.Outcome State Fault Refusal := ranFrom m s (peelHandoffEffect m.toNat n v)

/-- A channel becomes free: its data zero, GO 0. -/
def Dev.peelFree (d : Dev) (n : Nat) : Dev :=
  let d := (List.range 16).foldl (fun (d : Dev) w => d.setReg (Reg.PEEL_DATA n w) 0#64) d
  let d := (d.setPeelOwner n 0).setB (Reg.PEEL_CTRL n) F.PEEL_CTRL_GO false
  { d with peelSeen := d.peelSeen.filter (· != n) }
/-- PEEL_RELEASE: RELEASE = 1 by the owner (R402). -/
def peelReleaseEffect (m n : Nat) (v : Word) (d : Dev) : Dev :=
  if d.peelOwner n != m || m == 0 || fieldOf F.PEEL_CTRL_RELEASE v != 1 then d else d.peelFree n
def execPeelRelease (m : Master) (n : PeelIx) (v : Word) (s : State) : Host.Outcome State Fault Refusal := ranFrom m s (peelReleaseEffect m.toNat n v)

/-- The owner's reach is reset: its channels are freed, the other master of a bound one is told, and event 0xB011 is raised; the kind
is coded 0 to 4 as in Table 00.7. -/
def Dev.peelForce (d : Dev) (owner kind : Nat) : Dev :=
  ((List.range 64).filter fun n => d.peelOwner n == owner && owner != 0).foldl (fun (d : Dev) n =>
    let d := d.peelFree n
    let d := if d.peelOpen n then d else d.peelNotify n (if d.peelBind n 0 16 == owner then d.peelBind n 16 16 else d.peelBind n 0 16)
    d.raise 0xB011 (d.peelBind n 40 8) peelUnit n (owner + kind * 2 ^ 16)) d
/-- A tile's snapshot sees the hand-offs to its steward. -/
def Dev.peelSnapshot (d : Dev) (t : Nat) : Dev :=
  { d with peelSeen := (List.range 64).filter fun n => d.peelSeen.contains n || (d.peelOwner n == (stewardOf t).toNat && d.getB (Reg.PEEL_CTRL n) F.PEEL_CTRL_GO) }

/-! ## Steward commands (R403) -/

/-- Word w of a channel. -/
def Dev.peelWord (d : Dev) (n w : Nat) : Nat := (d.reg (Reg.PEEL_DATA n w)).toNat
/-- The tile of the steward that owns a channel and may answer: none for the system steward. -/
def Dev.peelSteward (d : Dev) (n : Nat) : Option (Option Nat) :=
  let o := d.peelOwner n
  if o == systemSteward.toNat then some none
  else match tiles6.find? fun t => o == (stewardOf t).toNat with
    | some t => if d.peelSeen.contains n && d.inBoundary then some (some t) else none
    | none => none
/-- A steward's reply: words 1 to k, status, and the channel goes back to whoever handed it over. -/
def Dev.peelReply (d : Dev) (n status : Nat) (words : List Nat) : Dev :=
  let w0 := d.peelWord n 0
  let d := d.setReg (Reg.PEEL_DATA n 0) (BitVec.ofNat 64 (w0 % 2 ^ 16 + words.length * 2 ^ 16 + status * 2 ^ 24 + w0 / 2 ^ 32 * 2 ^ 32))
  let d := words.zipIdx.foldl (fun (d : Dev) p => d.setReg (Reg.PEEL_DATA n (p.2 + 1)) (BitVec.ofNat 64 p.1)) d
  d.handTo n (d.getF (Reg.PEEL_STATUS n) F.PEEL_STATUS_PREV)
/-- A request with a command word that a steward may answer now. -/
def Dev.peelAsk (d : Dev) (n : Nat) (ok : Nat → Bool) : Option (Option Nat) :=
  if !d.getB (Reg.PEEL_CTRL n) F.PEEL_CTRL_GO || !ok (d.peelWord n 0 % 2 ^ 16) then none else d.peelSteward n
/-- WORDS of the request. -/
def Dev.peelWords (d : Dev) (n : Nat) : Nat := d.peelWord n 0 / 2 ^ 16 % 256
/-- The requester. -/
def Dev.peelPrev (d : Dev) (n : Nat) : Nat := d.getF (Reg.PEEL_STATUS n) F.PEEL_STATUS_PREV

/-- ECHO: the same words. A COMMAND of no row is answered here too, with UNKNOWN (log entry 25). -/
def echoEffect (n : Nat) (d : Dev) : Dev :=
  match d.peelAsk n fun c => c != 0x10 && c != 0x20 with
  | none => d
  | some _ =>
    if d.peelWord n 0 % 2 ^ 16 != 1 then d.peelReply n 1 []
    else if d.peelWords n > 15 then d.peelReply n 2 []
    else d.peelReply n 0 ((List.range (d.peelWords n)).map fun i => d.peelWord n (i + 1))
def execEcho (n : PeelIx) (s : State) : Host.Outcome State Fault Refusal := ran s (echoEffect n)

/-- READ_COUNTER: PROOF_CTR and PEND of a counter of the steward's tile; DENIED to a slice's host master that does not own it. -/
def readCounterEffect (n : Nat) (d : Dev) : Dev :=
  match d.peelAsk n (· == 0x10) with
  | none => d
  | some none => d.peelReply n 1 []
  | some (some t) =>
    let c := d.peelWord n 1 % 1024
    let p := d.peelPrev n
    if d.peelWords n == 0 || d.peelWords n > 15 then d.peelReply n 2 []
    else if isSliceMaster p && d.getF (Reg.PROOF_CTR t c) F.PROOF_CTR_SLICE != p % 64 then d.peelReply n 3 []
    else d.peelReply n 0 [(d.reg (Reg.PROOF_CTR t c)).toNat, d.getF (Reg.PROOF_PEND t c) F.PROOF_PEND_PEND]
def execReadCounter (n : PeelIx) (s : State) : Host.Outcome State Fault Refusal := ran s (readCounterEffect n)

/-- REPORT_CONTEXTS: SCHED_CONTEXTS of the tile and the contexts of a slice. -/
def reportContextsEffect (n : Nat) (d : Dev) : Dev :=
  match d.peelAsk n (· == 0x20) with
  | none => d
  | some none => d.peelReply n 1 []
  | some (some t) =>
    if d.peelWords n == 0 || d.peelWords n > 15 then d.peelReply n 2 [] else
    let cs := (d.sch t).ctxs.filter fun c => c.placed && c.slice == d.peelWord n 1 % 64
    d.peelReply n 0 [(d.reg (Reg.SCHED_CONTEXTS t)).toNat, cs.countP (fun c => c.stage != .saved) + cs.countP (fun c => c.stage == .saved) * 2 ^ 16]
def execReportContexts (n : PeelIx) (s : State) : Host.Outcome State Fault Refusal := ran s (reportContextsEffect n)

end Sys2Proof.Machine
end

