-- ==== Sys2Proof/Machine/Slice.lean ====
section
/-! DEFINITION. Slice: reset, freeze, restore and release of slices, their state image, and accesses of unbound PASIDs (chapter 17). -/
namespace Sys2Proof.Machine

def SliceState.init : SliceState := ⟨0, 0, 0, 0, none, 0, [], none, false, [], 0⟩
def Dev.sli (d : Dev) (s : Nat) : SliceState := look SliceState.init d.slices s
def Dev.setSli (d : Dev) (s : Nat) (x : SliceState) : Dev := { d with slices := store SliceState.init d.slices s x }
def Dev.setSliceState (d : Dev) (s n : Nat) : Dev := d.setF (Reg.SLICE_STATUS s) F.SLICE_STATUS_STATE n
def Dev.setSliceResult (d : Dev) (s n : Nat) : Dev := d.setF (Reg.SLICE_STATUS s) F.SLICE_STATUS_LAST_RESULT n
/-- The trays of a slice (Table 17.3). -/
def Dev.sliceTrays (d : Dev) (s : Nat) : List Nat :=
  (List.range 512).filter fun n => d.getB (Reg.TRAY_CFG n) F.TRAY_CFG_ENABLED && d.traySlice n == s
/-- The slice serves a cell: slice 0, while CELLS names one (R407, R418). -/
def Dev.servesCell (d : Dev) (s : Nat) : Bool := s == 0 && nCells (d.section_ secCells 0) != 0

/-! ## Commands (R418, R421, R422, R423, R425) -/

/-- Event 0xC002: 1 MASTER, 2 STATE, 3 RADIO, 4 DISABLED. -/
def Dev.sliceRefuse (d : Dev) (m : Master) (s cmd reason : Nat) : Dev :=
  d.raise 0xC002 0xFF systemSteward s (reason + cmd * 2 ^ 8 + m.toNat * 2 ^ 16)
/-- Who may write a command: the host driver, and for resets the slice's own PASID where HOST_RESET is 1. -/
def Dev.sliceMay (d : Dev) (m : Master) (s cmd : Nat) : Bool :=
  m == hostDriver || (decide (cmd ≤ 2) && m.toNat == 0xC000 + s && d.getB (Reg.SLICE_CFG s) F.SLICE_CFG_HOST_RESET)

/-- A reset lands: absorbed in one of the same mode or by a squash; a squash goes on from a drain; a freeze or restore is given up. -/
def Dev.landReset (d : Dev) (s cmd drain : Nat) : Dev :=
  let x := d.sli s
  if d.sliceState s == 2 then
    if cmd == 2 && !d.getB (Reg.SLICE_STATUS s) F.SLICE_STATUS_MODE then d.setSli s { x with cmd := 2 } else d
  else if x.cmd == 2 || x.cmd == cmd then d
  else d.setSli s { x with cmd := cmd, drain := drain }

/-- SLICE_CMD 1 and 2. -/
def Dev.sliceReset (d : Dev) (m : Master) (s cmd drain : Nat) : Dev :=
  if !d.sliceMay m s cmd then d.sliceRefuse m s cmd 1
  else if d.sliceState s == 0 then d.sliceRefuse m s cmd 4
  else if d.servesCell s then d.sliceRefuse m s cmd 3
  else d.landReset s cmd drain
def sliceResetDrainEffect (m : Master) (s drain : Nat) (d : Dev) : Dev := d.sliceReset m s 1 drain
def sliceResetSquashEffect (m : Master) (s : Nat) (d : Dev) : Dev := d.sliceReset m s 2 0
def execSliceResetDrain (m : Master) (s : SliceIx) (drainTicks : BitVec 16) (x : State) : Host.Outcome State Fault Refusal :=
  ranFrom m x (sliceResetDrainEffect m s drainTicks.toNat)
def execSliceResetSquash (m : Master) (s : SliceIx) (x : State) : Host.Outcome State Fault Refusal := ranFrom m x (sliceResetSquashEffect m s)

/-- A command of the host driver for a slice in one of some states, no other command of the slice having landed. -/
def Dev.sliceHostCmd (d : Dev) (m : Master) (s cmd : Nat) (ok : List Nat) (go : Dev → Dev) : Dev :=
  if m != hostDriver then d.sliceRefuse m s cmd 1
  else if d.sliceState s == 0 then d.sliceRefuse m s cmd 4
  else if cmd == 3 && s == 0 then d.sliceRefuse m s cmd 3
  else if !ok.contains (d.sliceState s) || (d.sli s).cmd != 0 || (d.sli s).ready then d.sliceRefuse m s cmd 2
  else go d
/-- SLICE_CMD 3: a serving slice is frozen at the snapshot; a frozen one has its image written again. -/
def sliceFreezeEffect (m : Master) (s : Nat) (d : Dev) : Dev :=
  d.sliceHostCmd m s 3 [1, 4] fun d => d.setSli s { d.sli s with cmd := 3 }
def execSliceFreeze (m : Master) (s : SliceIx) (x : State) : Host.Outcome State Fault Refusal := ranFrom m x (sliceFreezeEffect m s)
/-- SLICE_CMD 4: the image is fetched, STATE 5. -/
def sliceRestoreEffect (m : Master) (s : Nat) (d : Dev) : Dev :=
  d.sliceHostCmd m s 4 [1] fun d => (d.setSliceState s 5).setSli s SliceState.init
def execSliceRestore (m : Master) (s : SliceIx) (x : State) : Host.Outcome State Fault Refusal := ranFrom m x (sliceRestoreEffect m s)
/-- SLICE_CMD 5: a frozen slice serves again from the snapshot. -/
def sliceReleaseEffect (m : Master) (s : Nat) (d : Dev) : Dev :=
  d.sliceHostCmd m s 5 [4] fun d => d.setSli s { d.sli s with cmd := 5 }
def execSliceRelease (m : Master) (s : SliceIx) (x : State) : Host.Outcome State Fault Refusal := ranFrom m x (sliceReleaseEffect m s)

/-! ## Outstanding transfers (R420) -/

def Dev.tierBusy (d : Dev) (s : Nat) : Bool := tiles6.any fun t =>
  let x := d.tier t
  x.queue.any (fun c => c.slice == s) || (match x.int with | some r => r.cmd.slice == s | none => false) || (match x.ext with | some r => r.cmd.slice == s | none => false)
/-- Tier commands, Braid operations of tier engines and puts, and journal and completion writes of the slice. -/
def Dev.outstanding (d : Dev) (s : Nat) : Bool :=
  d.tierBusy s || d.asks.any (·.slice == s) || d.braid.ops.any (·.slice == s) ||
  d.hostWrites.any fun w => w.slice == s && (w.kind == .journal || w.kind == .completion)

/-! ## Taking a reset (Table 17.6) -/

/-- What a tile's steward holds for the slice beyond its contexts and accepted entries is dropped. -/
def Dev.stopWork (s : Nat) (d : Dev) (t : Nat) : Dev :=
  d.modSch t fun x => { x with svc := x.svc.filter fun v => v.slice != s, plan := x.plan.filter fun p => p.slice != s }
/-- Fetched entries not yet accepted, and a pending abort, are dropped. -/
def Dev.dropFetched (d : Dev) (n : Nat) : Dev :=
  (d.setTray n { TrayState.init with taken := d.trayNext n }).setFs (Reg.TRAY_STATUS n)
    [(F.TRAY_STATUS_ABORT_PENDING, 0), (F.TRAY_STATUS_ABORT_RESULT, 0)]
/-- What remains of a slice's transfers is squashed; Braid writes already issued complete on the fabric unheeded. -/
def Dev.squashRest (d : Dev) (s : Nat) : Dev :=
  let d := tiles6.foldl (fun (d : Dev) t => d.tierSquash t s) d
  { d with asks := d.asks.filter fun a => a.slice != s }
/-- The stewards take a reset: mode 0 drain, 1 squash. -/
def Dev.takeReset (d : Dev) (s mode : Nat) : Dev :=
  let x := d.sli s
  let st := d.sliceState s
  let d := if st == 3 || st == 5 then d.setSliceResult s 3 else d
  let d := (d.setSliceState s 2).setF (Reg.SLICE_STATUS s) F.SLICE_STATUS_MODE mode
  let d := tiles6.foldl (Dev.stopWork s) d
  let d := ((d.sliceTrays s).foldl Dev.dropFetched d).breakSlice s
  let d := if mode == 0 then tiles6.foldl (fun (d : Dev) t => d.tierDrain t s) d else d.squashRest s
  d.setSli s { SliceState.init with tick := d.tickNo, limit := d.tickNo + (if mode == 1 then 1 else if x.drain == 0 then 8000 else x.drain) }

/-- Snapshot C: every accepted, uncompleted entry completes SQUASHED. -/
def Dev.snapC (d : Dev) (s result : Nat) : Dev :=
  let mine := fun (e : Entry) => e.slice == s && e.ending.isNone
  let n := (tiles6.map fun t => (d.sch t).entries.countP mine).sum
  let d := tiles6.foldl (fun (d : Dev) t => d.finishWhere t mine 7) d
  let d := tiles6.foldl (fun (d : Dev) t => (d.sliceTrays s).foldl (fun (d : Dev) k => Dev.flush t k (d.sch t).entries.length d) d) d
  (d.setSliceResult s result).setSli s { d.sli s with done := some d.tickNo, squashed := n }
/-- A slice that is being reset, at a later snapshot. -/
def Dev.resetOn (d : Dev) (s : Nat) : Dev :=
  let x := d.sli s
  match x.done with
  | some c =>
    let busy := tiles6.any (fun t => (d.sch t).entries.any (·.slice == s)) || d.hostWrites.any fun w => w.slice == s && w.kind == .completion
    if c < d.tickNo && !busy then d.setSli s { x with ready := true } else d
  | none =>
    if x.cmd == 2 then
      let d := (d.squashRest s).setF (Reg.SLICE_STATUS s) F.SLICE_STATUS_MODE 1
      d.setSli s { x with cmd := 0, limit := d.tickNo + 1 }
    else if d.tickNo ≤ x.tick then d
    else if d.getB (Reg.SLICE_STATUS s) F.SLICE_STATUS_MODE then (if d.tickNo < x.limit then d else d.snapC s 0)
    else if !d.outstanding s then d.snapC s 0
    else if d.tickNo < x.limit then d
    else (d.squashRest s).snapC s 1

/-! ## Freezing (R422 to R424) -/

/-- Saves of the slice's resident contexts on a tile are planned. -/
def Dev.saveSlice (s : Nat) (d : Dev) (t : Nat) : Dev :=
  ((d.sch t).ctxs.filter fun c => c.slice == s && c.placed && c.stage == .resident).foldl (fun d c => d.planSave t c) d
/-- References that a slice holds: object, tier and address of its upper copy. -/
def Dev.sliceRefs (d : Dev) (s : Nat) : List (Nat × Nat × Nat) :=
  tiles6.flatMap fun t => ((d.objIndices t).map (d.obj t)).filterMap fun o =>
    if o.refMask / 2 ^ s % 2 == 1 then some (o.id, o.curTier, o.curAddr) else none
/-- Granted tile-global counters of the slice that stand in a state. -/
def Dev.globalsIn (d : Dev) (s t st : Nat) : List Nat :=
  ((List.range 16).map (1008 + ·)).filter fun c => d.granted s t (c - 1008) && d.ctrState t c == st
/-- The stewards take a freeze. -/
def Dev.takeFreeze (d : Dev) (s : Nat) : Dev :=
  let refs := d.sliceRefs s
  let d := d.setSliceState s 3
  let d := tiles6.foldl (fun (d : Dev) t => d.modSch t fun x => { x with plan := x.plan.filter fun p => p.slice != s }) d
  let d := (d.sliceTrays s).foldl (fun (d : Dev) n => d.setTray n { d.tray n with batches := [], seen := 0, taken := d.trayNext n }) d
  let d := tiles6.foldl (fun (d : Dev) t =>
    let d := (d.saveSlice s t).tierUnref t s
    (d.globalsIn s t 1).foldl (fun (d : Dev) c => d.setF (Reg.PROOF_CTR t c) F.PROOF_CTR_STATE 2) d) d
  d.setSli s { SliceState.init with tick := d.tickNo, refs := refs }

/-- A record of a state image (R424), padded to a 64-byte boundary. -/
def imageRecord (ty : Nat) (body : Bytes) : Bytes :=
  let l := leBytes 2 ty ++ leBytes 2 0 ++ leBytes 4 (16 + body.length) ++ leBytes 8 0 ++ body
  l ++ List.replicate ((64 - l.length % 64) % 64) 0#8
/-- The quota record and the range records of a slice (Tables 08.4, 08.5). -/
def Dev.quotaBytes (d : Dev) (s : Nat) : Bytes := (quotaOf (d.section_ secMemory 0) s).getD (List.replicate 64 0#8)
def Dev.rangeBytes (d : Dev) (s : Nat) : Bytes :=
  let m := d.section_ secMemory 0
  ((List.range (leAt m 0 4)).filter fun i => leAt m (8 + 16 * i + 12) 1 == s).flatMap fun i => bytesAt m (8 + 16 * i) 16
/-- Record 0x02 of a tray. -/
def Dev.trayImage (d : Dev) (n : Nat) : Bytes :=
  let t := d.getF (Reg.TRAY_CFG n) F.TRAY_CFG_HOME_TILE
  let head := leBytes 2 n ++ leBytes 1 t ++ leBytes 1 (d.getF (Reg.TRAY_CFG n) F.TRAY_CFG_LOG2_ENTRIES) ++
    leBytes 4 (d.getF (Reg.TRAY_STATUS n) F.TRAY_STATUS_HALTED) ++ leBytes 8 (d.trayNext n).toNat ++ leBytes 8 (d.trayDone n).toNat ++ List.replicate 40 0#8
  let block := fun (e : Entry) =>
    let (i, k) := d.stepAt e.raw e.done
    e.raw ++ leBytes 2 i ++ leBytes 4 k ++ leBytes 2 e.reruns ++ leBytes 4 e.done ++ List.replicate 52 0#8
  let es := (List.range ((d.trayNext n - d.trayDone n).toNat)).filterMap fun i =>
    (d.sch t).entries.find? fun e => e.tray == n && e.seq == d.trayDone n + BitVec.ofNat 64 i
  imageRecord 2 (head ++ es.flatMap block)
/-- Record 0x03 of a context. -/
def ctxImage (t : Nat) (c : TCtx) : Bytes :=
  imageRecord 3 (leBytes 2 c.id ++ leBytes 1 t ++ leBytes 1 c.prio ++ leBytes 1 c.roles.length ++ leBytes 1 c.ctrN ++ leBytes 2 0 ++ leBytes 4 c.lines ++
    leBytes 4 0 ++ leBytes 8 c.spillOff ++ bytesAt (c.roles.flatMap fun r => leBytes 1 r.core) 0 16 ++ List.replicate 24 0#8)
/-- Record 0x04. -/
def Dev.ctrImage (d : Dev) (s : Nat) : Bytes :=
  let gs := tiles6.flatMap fun t => ((List.range 16).filter fun g => d.granted s t g).map fun g => (t, 1008 + g)
  let one := fun (p : Nat × Nat) =>
    let r := Reg.PROOF_CTR p.1 p.2
    leBytes 2 (ctrId p.1 p.2) ++ leBytes 2 (d.getF r F.PROOF_CTR_OVF + 2 * d.getF r F.PROOF_CTR_LOSS) ++ leBytes 4 (d.ctrValue p.1 p.2) ++
      leBytes 4 (d.getF (Reg.PROOF_PEND p.1 p.2) F.PROOF_PEND_PEND) ++ leBytes 4 0
  let ps := tiles6.flatMap fun t => ((d.parked t).filter fun q => d.ctrSlice t q.ctr == s).map fun q =>
    leBytes 2 (ctrId t q.ctr) ++ leBytes 2 q.source.toNat ++ leBytes 4 q.amount ++ leBytes 8 0
  imageRecord 4 (leBytes 4 gs.length ++ leBytes 4 ps.length ++ gs.flatMap one ++ ps.flatten)
/-- Record 0x05. -/
def Dev.objImage (d : Dev) (s : Nat) (refs : List (Nat × Nat × Nat)) : Bytes :=
  let os := tiles6.flatMap fun t => (d.ownObjs t s).map fun p => ({ p.2 with state := 1, curAddr := p.2.homeAddr, refMask := 0 } : Obj).bytes
  imageRecord 5 (leBytes 4 os.length ++ leBytes 4 refs.length ++ os.flatten ++
    refs.flatMap fun r => leBytes 4 r.1 ++ leBytes 1 r.2.1 ++ leBytes 3 0 ++ leBytes 8 r.2.2)
/-- A SHA3-256 value as the 32 bytes of a field. -/
def digestBytes (x : BitVec 256) : Bytes := leBytes 32 x.toNat
/-- The digest of a block whose field of 32 bytes at an offset is taken as zero. -/
def digestAround (l : Bytes) (o : Nat) : Bytes := digestBytes (Config.sha3 (l.take o ++ List.replicate 32 0#8 ++ l.drop (o + 32)))
/-- The state image of a slice (Tables 17.8, 17.9). -/
def Dev.stateImage (d : Dev) (s : Nat) : Bytes :=
  let cs := tiles6.flatMap fun t => ((d.sch t).ctxs.filter (·.slice == s)).map (ctxImage t)
  let ts := (d.sliceTrays s).map d.trayImage
  let recs := imageRecord 1 ((d.sliceRec s).getD [] ++ d.quotaBytes s ++ d.rangeBytes s) :: ts ++ cs ++ [d.ctrImage s, d.objImage s (d.sli s).refs, imageRecord 6 []]
  let body := recs.flatten
  let head := [0x53#8, 0x4C#8, 0x43#8, 0x45#8] ++ leBytes 2 1 ++ leBytes 1 s ++ leBytes 1 Config.stepByte ++ leBytes 4 (64 + body.length) ++
    leBytes 2 recs.length ++ leBytes 2 0 ++ leBytes 8 d.tickNo ++ leBytes 8 0
  let zero := head ++ List.replicate 32 0#8 ++ body
  head ++ digestBytes (Config.sha3 zero) ++ body

/-- The image is written to SLICE_IMAGE, or is larger than MAX. -/
def Dev.writeImage (d : Dev) (s : Nat) : Dev :=
  let l := d.stateImage s
  let x := d.sli s
  if l.length > d.getF (Reg.SLICE_IMAGE_LEN s) F.SLICE_IMAGE_LEN_MAX then d.setSli s { x with cmd := 0, ready := true, writes := [], len := 0 }
  else (d.hostWrite .image s (d.getF (Reg.SLICE_IMAGE s) F.SLICE_IMAGE_ADDR * 64) l).setSli s { x with cmd := 0, ready := true, writes := [d.hostNext], len := l.length }
/-- A slice that is freezing, at a later snapshot. -/
def Dev.freezeOn (d : Dev) (s : Nat) : Dev :=
  if (d.sli s).ready then d else
  let d := tiles6.foldl (Dev.saveSlice s) d
  let moving := tiles6.any fun t => (d.sch t).ctxs.any (fun c => c.slice == s && c.placed && c.stage != .saved) || (d.sch t).svc.any (·.slice == s)
  if moving || d.outstanding s then d else d.writeImage s
/-- SLICE_FREEZE_COMPLETE: the image's writes are done. -/
def sliceFreezeCompleteEffect (s : Nat) (d : Dev) : Dev :=
  let x := d.sli s
  let st := d.sliceState s
  if !(st == 3 || st == 4) || !x.ready || d.hostWrites.any (fun w => x.writes.contains w.id) then d else
  let res := if x.len == 0 then 2 else 0
  let d := ((d.setF (Reg.SLICE_IMAGE_LEN s) F.SLICE_IMAGE_LEN_LEN x.len).setSliceState s 4).setSliceResult s res
  (d.setSli s { x with ready := false, writes := [], len := 0 }).raise 0xC003 0xFF systemSteward s (x.len + res * 2 ^ 32)
def execSliceFreezeComplete (s : SliceIx) (x : State) : Host.Outcome State Fault Refusal := ran x (sliceFreezeCompleteEffect s)
/-- A release is taken: STATE 1, and the slice's tile-global counters are LIVE with their parked entries applied (R394, R423). -/
def Dev.takeRelease (d : Dev) (s : Nat) : Dev :=
  let d := tiles6.foldl (fun (d : Dev) t => (d.globalsIn s t 2).foldl (fun (d : Dev) c =>
    d.ctrWrite t c (putField F.PROOF_CTR_STATE (d.reg (Reg.PROOF_CTR t c)) 1)) d) d
  (d.setSliceState s 1).setSli s SliceState.init

/-! ## Restoring (R425, R426) -/

/-- The records of an image: type and body, by their LENGTH fields; none where a record header is wrong. -/
def imageRecords : Nat → Bytes → Option (List (Nat × Bytes))
  | 0, l => if l.isEmpty then some [] else none
  | k + 1, l =>
    if l.isEmpty then some [] else
    let n := leAt l 4 4
    if n < 16 || l.length < n || leAt l 2 2 != 0 || leAt l 8 8 != 0 || leAt l 0 2 == 0 || leAt l 0 2 > 6 then none
    else (imageRecords k (l.drop (ceilDiv n 64 * 64))).map ((leAt l 0 2, bytesAt l 16 (n - 16)) :: ·)
def bodiesOf (rs : List (Nat × Bytes)) (ty : Nat) : List Bytes := (rs.filter (·.1 == ty)).map (·.2)
def bodyOf (rs : List (Nat × Bytes)) (ty : Nat) : Bytes := (bodiesOf rs ty).headD []
def imageRecs (l : Bytes) : List (Nat × Bytes) := (imageRecords (l.length / 64) (l.drop 64)).getD []
/-- The records stand in the order of Table 17.9: one each but for trays and contexts, END last. -/
def recordOrder (rs : List (Nat × Bytes)) : Bool :=
  let ts := rs.map (·.1)
  (ts.zip ts.tail).all (fun p => decide (p.1 ≤ p.2)) && [1, 4, 5, 6].all fun t => ts.count t == 1
/-- Entry blocks of a tray record. -/
def trayBlocks (b : Bytes) : List Bytes := (List.range ((b.length - 64) / 320)).map fun i => bytesAt b (64 + 320 * i) 320
/-- Descriptors and references of an OBJECTS record. -/
def imageObjs (b : Bytes) : List Obj := (List.range (leAt b 0 4)).map fun i => objOf (bytesAt b (8 + 64 * i) 64)
def imageRefs (b : Bytes) : List (Nat × Nat × Nat) :=
  let o := 8 + 64 * leAt b 0 4
  (List.range (leAt b 4 4)).map fun i => (leAt b (o + 16 * i) 4, leAt b (o + 16 * i + 4) 1, leAt b (o + 16 * i + 8) 8)
/-- Parked signals of a COUNTERS record: identifier, source, amount. -/
def imageParked (b : Bytes) : List (Nat × Nat × Nat) :=
  let o := 8 + 16 * leAt b 0 4
  (List.range (leAt b 4 4)).map fun i => (leAt b (o + 16 * i) 2, leAt b (o + 16 * i + 2) 2, leAt b (o + 16 * i + 4) 4)
def objTile (id : Nat) : Nat := id / 2 ^ 20 % 8
/-- An object is defined with its records; none where the page-record pool has no room. -/
def Dev.installObj (d : Dev) (o : Obj) : Option Dev :=
  let t := objTile o.id
  (d.poolFree t o.pages).map fun n =>
    let base := poolPlace t + 8 * n
    (d.write base (List.replicate (8 * o.pages) 0#8)).putObj t (o.id % 2 ^ 20) { o with state := 1, curTier := o.homeTier, curAddr := o.homeAddr, dirtyBase := base, refMask := 0 }
def Dev.installObjs (d : Dev) : List Obj → Option Dev
  | [] => some d
  | o :: os => (d.installObj o).bind fun d => d.installObjs os

/-- The slice is idle (R425): no context, no accepted entry, no object of its own. -/
def Dev.sliceIdle (d : Dev) (s : Nat) : Bool :=
  tiles6.all fun t => !(d.sch t).ctxs.any (·.slice == s) && !(d.sch t).entries.any (·.slice == s) && (d.ownObjs t s).isEmpty
/-- SHAPE: trays and contexts of the image fit the target. -/
def Dev.shapeOk (d : Dev) (s : Nat) (rs : List (Nat × Bytes)) : Bool :=
  (bodiesOf rs 2).all (fun b =>
    let n := leAt b 0 2
    (d.sliceTrays s).contains n && leAt b 2 1 == d.getF (Reg.TRAY_CFG n) F.TRAY_CFG_HOME_TILE && leAt b 3 1 == d.getF (Reg.TRAY_CFG n) F.TRAY_CFG_LOG2_ENTRIES) &&
  (bodiesOf rs 3).all (fun b => decide (leAt b 2 1 < 6) && (List.range (leAt b 4 1)).all fun i => (d.physOf (leAt b 2 1) (leAt b (24 + i) 1)).isSome) &&
  tiles6.all fun t => decide ((d.sch t).ctxs.length + ((bodiesOf rs 3).countP fun b => leAt b 2 1 == t) ≤ 256)
/-- QUOTA: objects and their pages homed in T3 and T4, and the page records. -/
def Dev.imageQuotaOk (d : Dev) (s : Nat) (os : List Obj) : Bool :=
  tiles6.all (fun t =>
    let mine := os.filter fun o => objTile o.id == t
    let pages := fun k => ((mine.filter (·.homeTier == k)).map (·.pages)).sum
    decide (mine.length ≤ d.quota s 28) && decide (pages 3 ≤ d.quota s (quotaOff 3)) && decide (pages 4 ≤ d.quota s (quotaOff 4))) &&
  (d.installObjs os).isSome

/-- The checks of Table 17.10 on a fetched image, in order. -/
def Dev.imageCheck (d : Dev) (s : Nat) (l : Bytes) : Option Nat :=
  let rs := imageRecs l
  let one := bodyOf rs 1
  let cb := bodyOf rs 4
  let os := imageObjs (bodyOf rs 5)
  if leAt l 0 4 != 0x45434C53 || leAt l 4 2 != 1 || leAt l 6 1 != s || leAt l 8 4 != l.length || l.length % 64 != 0 || leAt l 14 2 != 0 || leAt l 24 8 != 0 ||
      (imageRecords (l.length / 64) (l.drop 64)).isNone || rs.length != leAt l 12 2 || !recordOrder rs then some 2
  else if digestAround l 32 != bytesAt l 32 32 then some 3
  else if leAt l 7 1 != Config.stepByte then some 4
  else if !d.sliceIdle s then some 5
  else if !d.shapeOk s rs then some 6
  else if one.drop 128 != d.rangeBytes s || bytesAt one 96 24 != bytesAt (d.quotaBytes s) 32 24 then some 7
  else if !d.imageQuotaOk s os then some 8
  else if bytesAt one 8 12 != bytesAt ((d.sliceRec s).getD []) 8 12 ||
      tiles6.any (fun t => decide ((d.parked t).length + ((imageParked cb).countP fun p => p.1 / 1024 == t) > 256)) then some 9
  else if os.any fun o => (d.obj (objTile o.id) (o.id % 2 ^ 20)).state != 0 then some 10
  else none

/-- SLICE_IMAGE_FETCH_DONE: the image is checked; a failed restore changes nothing. -/
def sliceImageFetchDoneEffect (s : Nat) (l : Bytes) (how : FetchEnd) (d : Dev) : Dev :=
  if d.sliceState s != 5 || (d.sli s).image.isSome then d else
  let d := d.fetchEnd how none (d.getF (Reg.SLICE_IMAGE s) F.SLICE_IMAGE_ADDR * 64)
  let bad := if how != .ok || decide (leAt l 8 4 > d.getF (Reg.SLICE_IMAGE_LEN s) F.SLICE_IMAGE_LEN_MAX) then some 1 else d.imageCheck s l
  match bad with
  | some r => ((d.setSliceState s 1).setSliceResult s (0x10 + r)).raise 0xC005 0xFF systemSteward s r
  | none => d.setSli s { d.sli s with image := some l }
def execSliceImageFetchDone (s : SliceIx) (image : Bytes) (how : FetchEnd) (x : State) : Host.Outcome State Fault Refusal :=
  ran x (sliceImageFetchDoneEffect s image how)

/-- A tray takes its numbers, and its accepted entries with their progress. -/
def Dev.installTray (s : Nat) (d : Dev) (b : Bytes) : Dev :=
  let n := leAt b 0 2
  let t := leAt b 2 1
  let next := BitVec.ofNat 64 (leAt b 8 8)
  let d := (((d.setReg (Reg.TRAY_NEXT_SEQ n) next).setReg (Reg.TRAY_DONE_SEQ n) (BitVec.ofNat 64 (leAt b 16 8))).setF (Reg.TRAY_STATUS n) F.TRAY_STATUS_HALTED (leAt b 4 1 % 2)).setTray n
    { TrayState.init with taken := next }
  (trayBlocks b).foldl (fun (d : Dev) x =>
    let raw := bytesAt x 0 256
    let done := leAt x 264 4
    let e : Entry := ⟨n, BitVec.ofNat 64 (leAt raw 0 8), raw, s, d.tickNo, d.hostNext, done, done, leAt x 262 1, 0, none, 0, false, none, 0⟩
    ({ d with hostNext := d.hostNext + 1 } : Dev).modSch t fun y => { y with entries := y.entries ++ [e] }) d

/-- What a save area's header says was parked in a role: the park record in its live lines (log entry 26). -/
def Dev.parkedIn (d : Dev) (t : Nat) (c : TCtx) (r : Role) : Option HeldPass :=
  let a := saveAreaAt t c r
  (Config.savePark (d.bytes a 64)).map fun base =>
    let l := d.bytes (a + 256 + 64 * base) 64
    ⟨leAt l 0 2, leAt l 4 1, leAt l 5 1 % 16, leAt l 5 1 / 16, leAt l 2 2, c.slice, c.id, leAt l 8 4, leAt l 6 2, base, 0, false⟩
/-- A context is installed as saved; its counters, taken on its cores, hold what the restore will read from the save area. -/
def Dev.installCtx (s : Nat) (d : Dev) (b : Bytes) : Dev :=
  let t := leAt b 2 1
  let id := leAt b 0 2
  let n := leAt b 5 1
  let es := (d.sch t).entries.filter fun e => e.slice == s && entCtx e.raw == id
  let h := match es.find? fun e => entKind e.raw != 3 with | some e => d.progHdr (entProg e.raw) | none => ⟨0, 0, 0, 0, 0, 0, true⟩
  let c0 : TCtx := ⟨s, id, leAt b 3 1, leAt b 8 4, n, leAt b 16 8, h.argLine, h.batchRows, [], .saved, 0, 0, [], !(es.any fun e => entClose e.raw)⟩
  let (roles, d) := (List.range (leAt b 4 1)).foldl (fun (x : List Role × Dev) i =>
    let core := leAt b (24 + i) 1
    let a := (x.2.freeCtrs t core n).getD (48 * (x.2.physOf t core).getD 0)
    let d := (List.range n).foldl (fun (d : Dev) j => d.setReg (Reg.PROOF_CTR t (a + j)) (ctrWord 0 2 s)) x.2
    (x.1 ++ [⟨core, 0, a, 0, 0, 0⟩], d)) ([], d)
  let live := (roles.map fun r => Config.saveLive (d.bytes (saveAreaAt t c0 r) 64)).foldl max 0
  let c := { c0 with roles := roles, live := min live c0.lines, stage := if roles.isEmpty then .resident else .saved,
                     parked := roles.zipIdx.filterMap fun p => (d.parkedIn t c0 p.1).map (p.2, ·) }
  (d.modSch t fun x => { x with ctxs := x.ctxs ++ [c] }).syncContexts t
/-- Tile-global counters and parked entries of a COUNTERS record. -/
def Dev.installCtrs (s : Nat) (d : Dev) (b : Bytes) : Dev :=
  let d := (List.range (leAt b 0 4)).foldl (fun (d : Dev) i =>
    let o := 8 + 16 * i
    let t := leAt b o 2 / 1024
    let c := leAt b o 2 % 1024
    let d := d.setFs (Reg.PROOF_CTR t c) [(F.PROOF_CTR_VALUE, leAt b (o + 4) 4), (F.PROOF_CTR_OVF, leAt b (o + 2) 1 % 2), (F.PROOF_CTR_LOSS, leAt b (o + 2) 1 / 2 % 2)]
    if leAt b (o + 8) 4 == 0 then d else d.landingSignal t c (leAt b (o + 8) 4) (some s) systemSteward) d
  (imageParked b).foldl (fun (d : Dev) p =>
    let t := p.1 / 1024
    d.setParked t (d.parked t ++ [⟨p.1 % 1024, p.2.2, BitVec.ofNat 16 p.2.1⟩])) d
/-- SLICE_RESTORE_INSTALL: a checked image takes effect at a snapshot. -/
def sliceRestoreInstallEffect (s : Nat) (d : Dev) : Dev :=
  match (d.sli s).ready, (d.sli s).image with
  | true, some l =>
    let rs := imageRecs l
    let os := imageObjs (bodyOf rs 5)
    let refs := imageRefs (bodyOf rs 5)
    let own := refs.filter fun r => os.any (·.id == r.1)
    let d := (bodiesOf rs 2).foldl (Dev.installTray s) d
    let d := ((bodiesOf rs 3).foldl (Dev.installCtx s) d).installCtrs s (bodyOf rs 4)
    let d := (d.installObjs os).getD d
    let d := own.foldl (fun (d : Dev) r =>
      d.tierPush (objTile r.1) { mkTierCmd 3 s r.1 d.tickNo with w1 := BitVec.ofNat 64 r.2.1, w2 := BitVec.ofNat 64 r.2.2 }) d
    let d := ((d.setSliceState s 1).setSliceResult s 0).setSli s SliceState.init
    d.raise 0xC004 0xFF systemSteward s ((bodiesOf rs 3).length + (((bodiesOf rs 2).map fun b => (trayBlocks b).length).sum % 2 ^ 16) * 2 ^ 16 +
      (refs.length - own.length) % 2 ^ 16 * 2 ^ 32)
  | _, _ => d
def execSliceRestoreInstall (s : SliceIx) (x : State) : Host.Outcome State Fault Refusal := ran x (sliceRestoreInstallEffect s)

/-! ## The snapshot, and the end of a reset -/

/-- One slice at a snapshot: what has landed is taken, what is under way goes on. -/
def Dev.sliceStep (d : Dev) (s : Nat) : Dev :=
  let x := d.sli s
  match d.sliceState s with
  | 0 => d
  | 2 => d.resetOn s
  | st =>
    if x.cmd == 1 || x.cmd == 2 then d.takeReset s (x.cmd - 1)
    else if st == 3 then d.freezeOn s
    else if st == 4 && x.cmd == 5 then d.takeRelease s
    else if st == 4 && x.cmd == 3 then d.writeImage s
    else if st == 1 && x.cmd == 3 then d.takeFreeze s
    else if st == 5 && x.image.isSome then d.setSli s { x with ready := true }
    else d
/-- The stewards' snapshot of slice commands, once in a tick: the boundary window opens at one instant (R418). -/
def Dev.sliceSnapshot (d : Dev) : Dev :=
  if d.sliceTick == d.tickNo + 1 then d else (List.range 64).foldl Dev.sliceStep { d with sliceTick := d.tickNo + 1 }

/-- A tray and its rings take their slice-reset values. -/
def Dev.resetTray (d : Dev) (n : Nat) : Dev :=
  (((d.setReg (Reg.TRAY_STATUS n) 0#64).setReg (Reg.TRAY_NEXT_SEQ n) 0#64).setReg (Reg.TRAY_DONE_SEQ n) 0#64).setTray n TrayState.init
/-- SLICE_RESET_COMPLETE: contexts are freed, counters FREE and granted ones LIVE at 0, peel channels released, STATE 1, event 0xC001. -/
def sliceResetCompleteEffect (s : Nat) (d : Dev) : Dev :=
  let x := d.sli s
  if d.sliceState s != 2 || !x.ready then d else
  let d := tiles6.foldl (fun (d : Dev) t =>
    let d := ((d.sch t).ctxs.filter (·.slice == s)).foldl (fun d c => d.freeCtx t c) d
    let d := ((d.listedCtrs t).filter fun c => d.ctrSlice t c == s && d.ctrState t c != 4).foldl (fun d c => d.ctrWrite t c 0#64) d
    d.grantSlice t s) d
  let d := d.peelForce (0xC000 + s) 3
  let d := (d.sliceTrays s).foldl Dev.resetTray d
  -- the registers of the slice's collective slot (chapter 20)
  let d := ((d.setReg (Reg.MEMB_COLL s) 0#64).setReg (Reg.MEMB_COLL_LIST s) 0#64).setReg (Reg.MEMB_COLL_N s) 0#64
  let d := { d with memb := { d.memb with colls := erase d.memb.colls s } }
  let d := ((d.setReg (Reg.SLICE_EV_PTR s) 0#64).setReg (Reg.SLICE_EV_DISCARD s) 0#64).setF (Reg.SLICE_IMAGE_LEN s) F.SLICE_IMAGE_LEN_LEN 0
  let d := (d.setSliceState s 1).setSli s SliceState.init
  d.raise 0xC001 0xFF systemSteward s (d.getF (Reg.SLICE_STATUS s) F.SLICE_STATUS_MODE + d.getF (Reg.SLICE_STATUS s) F.SLICE_STATUS_LAST_RESULT * 2 ^ 8 +
    x.squashed % 2 ^ 16 * 2 ^ 16 + x.tick % 2 ^ 32 * 2 ^ 32)
def execSliceResetComplete (s : SliceIx) (x : State) : Host.Outcome State Fault Refusal := ran x (sliceResetCompleteEffect s)

/-! ## Unbound PASIDs (R409) -/

/-- UNBOUND_PASID_ACCESS: an access under a PASID bound to no enabled slice reads zero and changes nothing else. -/
def unboundPasidAccessEffect (pasid off : Nat) (wr : Bool) (d : Dev) : Dev :=
  if (List.range 64).any fun s => d.sliceOn s && d.getF (Reg.SLICE_CFG s) F.SLICE_CFG_PASID == pasid then d else
  let d := if wr then d else { d with readOut := 0#64 }
  (d.count Reg.SLICE_UNBOUND F.SLICE_UNBOUND_COUNT 1).raise 0xC006 0xFF cxlPort pasid (off % 2 ^ 32 + (if wr then 2 ^ 32 else 0))
def execUnboundPasidAccess (pasid : BitVec 20) (off : Nat) (write : Bool) (s : State) : Host.Outcome State Fault Refusal :=
  (if write then ranFrom else ranRead) hostDriver s (unboundPasidAccessEffect pasid.toNat off write)

end Sys2Proof.Machine
end

