-- ==== Sys2Proof/Machine/Memb.lean ====
section
/-! DEFINITION. Memb: heartbeats, epochs, self-fencing, collectives and shadowing (chapter 20). -/
namespace Sys2Proof.Machine

def Dev.modMemb (d : Dev) (f : MembState → MembState) : Dev := { d with memb := f d.memb }
def Dev.membState (d : Dev) : Nat := d.getF Reg.MEMB_STATUS F.MEMB_STATUS_STATE
def Dev.membEpoch (d : Dev) : Nat := d.getF Reg.MEMB_EPOCH F.MEMB_EPOCH_EPOCH
/-- The device is a member, a spare or a shadow. -/
def Dev.joined (d : Dev) : Bool := decide (1 ≤ d.membState) && decide (d.membState ≤ 3)

/-! ## Watching (R461 to R463) -/

/-- The watch set: the rest of the group, the far ends of the Braid links that are up, and the primary or the shadow. -/
def Dev.watchSet (d : Dev) : List Nat :=
  let r := d.memb.record
  let me := d.braidNode
  let ms := List.range (leAt r 16 2)
  let mine := memberOf r me
  let group := match mine with | some j => (ms.filter fun i => memberAt r i 5 1 == memberAt r j 5 1).map fun i => memberAt r i 0 2 | none => []
  let far := ((List.finRange 8).filter fun (b : BraidPort) => d.linkUp (.braid b)).map fun (b : BraidPort) => d.getF (Reg.BRAID_PORT_STATUS b) F.BRAID_PORT_STATUS_FAR_NODE
  let prim := match mine with | some j => if memberAt r j 4 1 == 2 then [memberAt r j 6 2] else [] | none => []
  ((group ++ far ++ prim ++ d.shadowNode.toList).filter (· != me)).eraseDups
def Peer.init : Peer := ⟨0, false, 0, 0⟩
def Dev.peer (d : Dev) (n : Nat) : Peer := look Peer.init d.memb.peers n
/-- MEMB_PEER_STATE shows the selected peer. -/
def Dev.membShow (d : Dev) : Dev :=
  let n := d.getF Reg.MEMB_PEER_SEL F.MEMB_PEER_SEL_NODE
  let p := d.peer n
  d.setFs Reg.MEMB_PEER_STATE [(F.MEMB_PEER_STATE_STATE, if !d.joined || !d.watchSet.contains n then 0 else if p.suspect then 2 else 1), (F.MEMB_PEER_STATE_MISSES, p.misses)]
def Dev.setPeer (d : Dev) (n : Nat) (p : Peer) : Dev := d.modMemb fun x => { x with peers := store Peer.init x.peers n p }
def Dev.hbOffset (d : Dev) : Nat := d.getF Reg.MEMB_HB F.MEMB_HB_HB_OFFSET
def Dev.hbGrace (d : Dev) : Nat := d.getF Reg.MEMB_HB F.MEMB_HB_HB_GRACE

/-- Fenced units of the device. -/
def Dev.fencedUnits (d : Dev) : Nat :=
  (tiles6.map fun t => (([1, 3, 4, 5, 6, 7, 8].flatMap fun ty => (List.range 32).map (ty * 256 + ·)).filter (d.fenced t)).length).sum
/-- A message of queue 7 to a node (Table 20.1): TYPE 0xC and its 64-byte body. -/
def Dev.membSend (d : Dev) (n : Nat) (body : Bytes) : Dev := d.braidOut (leBytes 16 (d.hdrBase 12 n) ++ bytesAt body 0 64)
/-- The periodic heartbeat. All six tiles count as in service (log entry 28). -/
def Dev.heartbeat (d : Dev) : Bytes :=
  let place := d.getF Reg.MEMB_STATUS F.MEMB_STATUS_PLACE
  let sus := ((d.memb.peers.filter fun p => p.2.suspect).map (·.1)).take 8
  leBytes 4 d.membEpoch ++ leBytes 8 d.tickNo ++ leBytes 2 d.braidNode ++ leBytes 2 (if place == 0xFFF then 0xFFFF else place) ++ leBytes 1 (d.membState - 1) ++ leBytes 1 0x3F ++
    leBytes 2 d.fencedUnits ++ leBytes 1 sus.length ++ leBytes 1 0 ++ leBytes 2 0 ++ leBytes 8 d.memb.count ++ bytesAt d.memb.chain 0 16 ++ bytesAt (sus.flatMap (leBytes 2)) 0 16
/-- HEARTBEAT_SEND: at HB_OFFSET of a tick, once. -/
def heartbeatSendEffect (d : Dev) : Dev :=
  if !d.joined || d.memb.hbTick == d.tickNo + 1 then d else
  let d := d.advanceTo (d.tickNo * d.tickU + d.hbOffset * 5)
  let d := d.modMemb fun x => { x with hbTick := d.tickNo + 1 }
  let body := d.heartbeat
  d.watchSet.foldl (fun (d : Dev) n => d.membSend n body) d
def execHeartbeatSend (s : State) : Host.Outcome State Fault Refusal := ran s heartbeatSendEffect

/-- The first packet of TYPE 0xC and KIND k that has arrived. -/
def Dev.takeMemb (d : Dev) (k : Nat) : Option (Bytes × Dev) :=
  match d.braid.arrived.find? fun p => pktType p == 12 && leAt p 37 1 == k with
  | none => none
  | some p => some (p, d.modBraid fun x => { x with arrived := x.arrived.erase p })

/-- The chain of the other side is compared with the pair of the same count (R477). -/
def Dev.shadowCompare (d : Dev) (node : Nat) (b : Bytes) : Dev :=
  let other := (match memberOf d.memb.record d.braidNode with
    | some j => memberAt d.memb.record j 4 1 == 2 && memberAt d.memb.record j 6 2 == node | none => false) || d.shadowNode == some node
  let n := leAt b 24 8
  if !d.shadowOn || !other || d.getF Reg.MEMB_SHADOW_STATUS F.MEMB_SHADOW_STATUS_RESULT != 1 then d else
  match d.memb.hist.find? (·.1 == n) with
  | none => d
  | some (_, c) =>
    let d := (d.count Reg.MEMB_SHADOW_COMPARED F.MEMB_SHADOW_COMPARED_COUNT 1).modMemb fun x => { x with lastCmp := n }
    if c.take 16 == bytesAt b 32 16 then d
    else (d.setF Reg.MEMB_SHADOW_STATUS F.MEMB_SHADOW_STATUS_RESULT 3).raise 0xD008 0xFF systemSteward node (1 + n % 2 ^ 48 * 2 ^ 8)
/-- HEARTBEAT_ARRIVE: one of another epoch is discarded (R377); one in time clears suspicion. -/
def heartbeatArriveEffect (d : Dev) : Dev :=
  match d.takeMemb 0 with
  | none => d
  | some (p, d) =>
    if d.stale p then d.braidCount Reg.BRAID_STALE_DROP 1 else
    let b := p.drop 16
    let n := leAt b 12 2
    let T := leAt b 4 8
    if !d.joined || !d.watchSet.contains n then d else
    let x := d.peer n
    let inTime := T == d.tickNo && decide (d.now ≤ d.tickNo * d.tickU + (d.hbOffset + d.hbGrace) * 5)
    let d := d.setPeer n { x with last := T, got := if inTime then T + 1 else x.got, suspect := x.suspect && !inTime, misses := if inTime then 0 else x.misses }
    let d := if inTime && x.suspect then d.raise 0xD002 0xFF systemSteward n (T % 2 ^ 32) else d
    (d.shadowCompare n b).membShow
def execHeartbeatArrive (s : State) : Host.Outcome State Fault Refusal := ran s heartbeatArriveEffect

/-- A fence of this device is decided: cause of Table 20.8, and a trigger of every collective slice (CAUSE 3). -/
def Dev.decideFence (d : Dev) (cause : Nat) : Dev :=
  (List.range 64).foldl (fun (d : Dev) s => d.triggerHere s 3) (d.modMemb fun x => { x with fencing := cause })
/-- A peer's heartbeat of the tick was due: missed, it may become SUSPECT. -/
def Dev.peerDue (T : Nat) (d : Dev) (n : Nat) : Dev :=
  let x := d.peer n
  if x.got == T + 1 then d else
  let m := min 255 (x.misses + 1)
  let d := d.count Reg.MEMB_MISS_COUNT F.MEMB_MISS_COUNT_COUNT 1
  if decide (m ≥ 2) && !x.suspect then
    ((d.setPeer n { x with misses := m, suspect := true }).count Reg.MEMB_SUSPECT_COUNT F.MEMB_SUSPECT_COUNT_COUNT 1).raise 0xD001 0xFF systemSteward n (m + x.last % 2 ^ 32 * 2 ^ 8)
  else d.setPeer n { x with misses := m }
/-- HEARTBEAT_DUE: the due time of a tick, once; FENCE_TICKS of them that missed every peer decide a fence. -/
def heartbeatDueEffect (d : Dev) : Dev :=
  if !d.joined || d.memb.dueTick == d.tickNo + 1 then d else
  let T := d.tickNo
  let d := d.advanceTo (T * d.tickU + (d.hbOffset + d.hbGrace) * 5)
  let ws := d.watchSet
  let all := !ws.isEmpty && ws.all fun n => (d.peer n).got != T + 1
  let d := ws.foldl (Dev.peerDue T) d
  let k := if all then d.memb.isol + 1 else 0
  let d := (d.modMemb fun x => { x with dueTick := T + 1, isol := k }).membShow
  if decide (k ≥ leAt d.memb.record 19 1) && decide (k > 0) && d.memb.fencing == 0 then d.decideFence 2 else d
def execHeartbeatDue (s : State) : Host.Outcome State Fault Refusal := ran s heartbeatDueEffect

/-! ## Fencing (R468) -/

/-- The device fences itself. -/
def Dev.fenceSelf (d : Dev) (cause : Nat) : Dev :=
  let mine := fun (e : Entry) => e.slice != 0 && e.ending.isNone
  let n := (tiles6.map fun t => (d.sch t).entries.countP mine).sum
  let d := tiles6.foldl (fun (d : Dev) t =>
    let d := d.finishWhere t mine 6
    ((d.sch t).ctxs.filter fun c => c.slice != 0).foldl (fun d c => d.freeCtx t c) d) d
  let d := (d.modMemb fun x => { x with fencing := 0, isol := 0 }).setFs Reg.MEMB_STATUS [(F.MEMB_STATUS_STATE, 4), (F.MEMB_STATUS_FENCE_CAUSE, cause)]
  (d.raise 0xD006 0xFF systemSteward d.membEpoch (cause + n % 2 ^ 16 * 2 ^ 8)).membShow
/-- HOST_FENCE: MEMB_EPOCH_CMD 4 decides the fence, which the next tick edge carries out. -/
def hostFenceEffect (m : Master) (d : Dev) : Dev := if m != hostDriver then d else d.decideFence 3
def execHostFence (m : Master) (s : State) : Host.Outcome State Fault Refusal := ranFrom m s (hostFenceEffect m)
/-- A tick edge carries out a host's fence. -/
def Dev.fenceEdge (d : Dev) : Dev := if d.memb.fencing == 3 then d.fenceSelf 3 else d
/-- ISOLATION_FENCE: at the edge after the tick whose due time decided it. -/
def isolationFenceEffect (d : Dev) : Dev :=
  if d.memb.fencing == 2 && decide (d.tickNo ≥ d.memb.dueTick) then d.fenceSelf 2 else d
def execIsolationFence (s : State) : Host.Outcome State Fault Refusal := ran s isolationFenceEffect

/-! ## Epoch records (R465 to R467) -/

/-- EPOCH_STAGE and EPOCH_STAGE_FORCE: the record is fetched. -/
def epochStageEffect (m : Master) (force : Bool) (d : Dev) : Dev := if m != hostDriver then d else d.modMemb fun x => { x with fetch := some force }
def execEpochStage (m : Master) (s : State) : Host.Outcome State Fault Refusal := ranFrom m s (epochStageEffect m false)
def epochStageForceEffect (m : Master) (d : Dev) : Dev := epochStageEffect m true d
def execEpochStageForce (m : Master) (s : State) : Host.Outcome State Fault Refusal := ranFrom m s (epochStageForceEffect m)
/-- The staged record is dropped. -/
def Dev.unstage (d : Dev) : Dev := (d.modMemb fun x => { x with staged := [], force := false, counted := false }).setB Reg.MEMB_STATUS F.MEMB_STATUS_STAGED false
def epochDiscardEffect (m : Master) (d : Dev) : Dev := if m != hostDriver then d else d.unstage
def execEpochDiscard (m : Master) (s : State) : Host.Outcome State Fault Refusal := ranFrom m s (epochDiscardEffect m)

/-- A record is rejected with event 0xD004. -/
def Dev.epochReject (d : Dev) (epoch reason : Nat) : Dev :=
  (d.setF Reg.MEMB_STATUS F.MEMB_STATUS_LAST_REASON reason).raise 0xD004 0xFF systemSteward epoch reason

/-- A place is held twice, or a node listed out of order (reason 6). -/
def recordDup (r : Bytes) : Bool :=
  let ns := (List.range (leAt r 16 2)).map fun i => memberAt r i 0 2
  let ps := ((List.range (leAt r 16 2)).map fun i => memberAt r i 2 2).filter (· != 0xFFFF)
  (ns.zip ns.tail).any (fun p => decide (p.1 ≥ p.2)) || ps.eraseDups.length != ps.length
/-- A role does not fit its entry (reason 7). -/
def recordRole (r : Bytes) : Bool :=
  let n := leAt r 16 2
  let ms := List.range n
  let badEntry := fun i =>
    let role := memberAt r i 4 1
    let place := memberAt r i 2 2
    (role == 1 && place != 0xFFFF) || (role == 0 && place == 0xFFFF) ||
      (role == 2 && (match memberOf r (memberAt r i 6 2) with | some j => memberAt r j 4 1 != 0 | none => true))
  let badGroup := fun g =>
    let inG := ms.filter fun i => memberAt r i 5 1 == g
    decide ((inG.filter fun i => memberAt r i 2 2 != 0xFFFF).length > 64) || decide ((inG.filter fun i => memberAt r i 4 1 == 1).length > 1)
  ms.any badEntry || ((ms.map fun i => memberAt r i 5 1).eraseDups.any badGroup)
/-- A field of the header or of an entry is out of range (reason 3). -/
def Dev.recordHeader (d : Dev) (r : Bytes) : Bool :=
  let half := d.tickU / 10
  let off := leAt r 20 4
  let grace := leAt r 24 4
  leAt r 0 4 != 0x48435045 || digestAround r 32 != bytesAt r 32 32 || leAt r 18 1 != 0 || leAt r 28 4 != 0 || leAt r 16 2 == 0 || decide (leAt r 16 2 > 4096) || leAt r 19 1 == 0 ||
  off % 4 != 0 || decide (off ≥ half) || grace % 4 != 0 || decide (grace < 4000) || decide (grace > half) ||
  (List.range (leAt r 16 2)).any fun i =>
    decide (memberAt r i 0 2 > 4095) || (decide (memberAt r i 2 2 > 4095) && memberAt r i 2 2 != 0xFFFF) || decide (memberAt r i 4 1 > 2) ||
      (memberAt r i 4 1 != 2 && memberAt r i 6 2 != 0xFFFF)
/-- The checks of Table 20.4a, in order. -/
def Dev.recordCheck (d : Dev) (r : Bytes) (force : Bool) : Option Nat :=
  let st := d.membState
  if r.length != 64 + 8 * leAt r 16 2 || r.length != d.getF Reg.MEMB_EPOCH_LEN F.MEMB_EPOCH_LEN_LEN then some 1
  else if !d.memb.staged.isEmpty then some 2
  else if d.recordHeader r then some 3
  else if (if force then st != 0 && st != 4 else leAt r 4 4 != (d.membEpoch + 1) % 2 ^ 32) then some 4
  else if leAt r 8 8 ≤ d.tickNo then some 5
  else if recordDup r then some 6
  else if recordRole r then some 7
  else none
/-- EPOCH_RECORD_CHECK: the fetched record is staged or rejected. -/
def epochRecordCheckEffect (r : Bytes) (how : FetchEnd) (d : Dev) : Dev :=
  match d.memb.fetch with
  | none => d
  | some force =>
    let d := d.modMemb fun x => { x with fetch := none }
    let d := d.fetchEnd how none (d.getF Reg.MEMB_EPOCH_SRC F.MEMB_EPOCH_SRC_ADDR * 64)
    match (if how != .ok then some 1 else d.recordCheck r force) with
    | some n => d.epochReject (leAt r 4 4) n
    | none =>
      ((d.modMemb fun x => { x with staged := r, force := force, counted := false }).setB Reg.MEMB_STATUS F.MEMB_STATUS_STAGED true).raise
        0xD003 0xFF systemSteward (leAt r 4 4) (leAt r 8 8)
def execEpochRecordCheck (record : Bytes) (how : FetchEnd) (s : State) : Host.Outcome State Fault Refusal := ran s (epochRecordCheckEffect record how)

/-- Write an alias entry, counting a change. -/
def Dev.aliasPut (s : Dev × Nat) (n v : Nat) : Dev × Nat :=
  if s.1.aliasOf n == v then s else (s.1.setF (Reg.BRAID_ALIAS (n / 4)) ⟨16 * (n % 4), 16⟩ v, s.2 + 1)
/-- The alias table under a record (R467). -/
def Dev.installAliases (d : Dev) (r : Bytes) : Dev × Nat :=
  let ms := List.range (leAt r 16 2)
  let s := ms.foldl (fun s i => if memberAt r i 2 2 == 0xFFFF then s else Dev.aliasPut s (memberAt r i 2 2) (2 ^ 15 + memberAt r i 0 2)) (d, 0)
  let nodes := ms.map fun i => memberAt r i 0 2
  (List.range 4096).foldl (fun s n =>
    let e := s.1.aliasOf n
    if e / 2 ^ 15 == 1 && !nodes.contains (e % 4096) then Dev.aliasPut s n (e % 2 ^ 15) else s) s
/-- The record takes effect at a device it lists. -/
def Dev.installEpoch (d : Dev) (r : Bytes) (i : Nat) : Dev :=
  let place := memberAt r i 2 2
  let role := memberAt r i 4 1
  let d := ((d.braidNewEpoch (leAt r 4 4 % 16)).setF Reg.MEMB_EPOCH F.MEMB_EPOCH_EPOCH (leAt r 4 4)).setF Reg.MEMB_INSTALLED F.MEMB_INSTALLED_TICK (leAt r 8 8)
  let (d, n) := d.installAliases r
  let d := d.setFs Reg.MEMB_HB [(F.MEMB_HB_HB_OFFSET, leAt r 20 4), (F.MEMB_HB_HB_GRACE, leAt r 24 4)]
  let d := d.setFs Reg.MEMB_STATUS [(F.MEMB_STATUS_STATE, role + 1), (F.MEMB_STATUS_PLACE, if place == 0xFFFF then 0xFFF else place), (F.MEMB_STATUS_FENCE_CAUSE, 0)]
  let d := d.modMemb fun x => { x with record := r, isol := 0, fencing := 0 }
  let ws := d.watchSet
  let d := d.modMemb fun x => { x with peers := x.peers.filter fun p => ws.contains p.1 }
  (d.raise 0xD005 0xFF systemSteward (leAt r 4 4) (place + role * 2 ^ 16 + leAt r 16 2 * 2 ^ 24 + n % 2 ^ 16 * 2 ^ 40)).membShow
/-- EPOCH_INSTALL: at the edge of INSTALL_TICK. A record that came after the snapshot is discarded as LATE; a fenced or unjoined device takes
one only with FORCE (R469). -/
def epochInstallEffect (d : Dev) : Dev :=
  let r := d.memb.staged
  if r.isEmpty || decide (d.tickNo < leAt r 8 8) then d else
  let counted := d.memb.counted
  let force := d.memb.force
  let d := d.unstage
  if !counted then d.epochReject (leAt r 4 4) 5
  else match memberOf r d.braidNode with
    | none => d.fenceSelf 1
    | some i => if !force && !d.joined then d else d.installEpoch r i
def execEpochInstall (s : State) : Host.Outcome State Fault Refusal := ran s epochInstallEffect

/-! ## Collectives (R471 to R474) -/

/-- COLLECTIVE_DECLARE: MEMB_COLL with EN; the node list is fetched. A failed fetch declares nothing. -/
def collectiveDeclareEffect (m : Master) (s id : Nat) (l : Bytes) (how : FetchEnd) (d : Dev) : Dev :=
  let n := d.getF (Reg.MEMB_COLL_N s) F.MEMB_COLL_N_N
  if m != hostDriver then d
  else if how != .ok || l.length != 2 * n then d.fetchEnd how none (d.getF (Reg.MEMB_COLL_LIST s) F.MEMB_COLL_LIST_ADDR * 64)
  else
    let d := d.setFs (Reg.MEMB_COLL s) [(F.MEMB_COLL_EN, 1), (F.MEMB_COLL_COLL_ID, id)]
    d.modMemb fun x => { x with colls := store ⟨[], []⟩ x.colls s ⟨(List.range n).map fun i => leAt l (2 * i) 2, []⟩ }
def execCollectiveDeclare (m : Master) (sl : SliceIx) (collId : BitVec 32) (list : Bytes) (how : FetchEnd) (s : State) : Host.Outcome State Fault Refusal :=
  ranFrom m s (collectiveDeclareEffect m sl collId.toNat list how)
/-- COLLECTIVE_HOST_ABORT: a trigger of CAUSE 5. -/
def collectiveHostAbortEffect (m : Master) (s : Nat) (d : Dev) : Dev := if m != hostDriver then d else d.triggerHere s 5
def execCollectiveHostAbort (m : Master) (sl : SliceIx) (s : State) : Host.Outcome State Fault Refusal := ranFrom m s (collectiveHostAbortEffect m sl)

/-- The collective slice that a COLL_ID names. -/
def Dev.collById (d : Dev) (id : Nat) : Option Nat := (List.range 64).find? fun s => d.collective s && d.getF (Reg.MEMB_COLL s) F.MEMB_COLL_COLL_ID == id
/-- ABORT_NOTICE_ARRIVE: a trigger of CAUSE 6 with the sender's TRIGGER_TICK, or ignored and counted. -/
def abortNoticeArriveEffect (d : Dev) : Dev :=
  match d.takeMemb 1 with
  | none => d
  | some (p, d) =>
    if d.stale p then d.braidCount Reg.BRAID_STALE_DROP 1 else
    let b := p.drop 16
    match d.collById (leAt b 24 4) with
    | some s =>
      if (look ⟨[], []⟩ d.memb.colls s).nodes.contains (leAt b 12 2) then d.trigger s 6 (leAt b 4 8) (leAt b 14 2)
      else d.count Reg.MEMB_NOTICE_IGNORED F.MEMB_NOTICE_IGNORED_COUNT 1
    | none => d.count Reg.MEMB_NOTICE_IGNORED F.MEMB_NOTICE_IGNORED_COUNT 1
def execAbortNoticeArrive (s : State) : Host.Outcome State Fault Refusal := ran s abortNoticeArriveEffect
/-- ABORT_NOTICE_SEND: the notices that triggers owe go out. -/
def abortNoticeSendEffect (d : Dev) : Dev :=
  let ns := d.memb.notices
  let d := d.modMemb fun x => { x with notices := [] }
  ns.foldl (fun (d : Dev) n =>
    d.membSend n.1 (leBytes 4 d.membEpoch ++ leBytes 8 n.2.2.1 ++ leBytes 2 d.braidNode ++ leBytes 2 d.braidNode ++ leBytes 1 n.2.2.2 ++ leBytes 4 0 ++ leBytes 1 1 ++ leBytes 2 0 ++
      leBytes 4 n.2.1)) d
def execAbortNoticeSend (s : State) : Host.Outcome State Fault Refusal := ran s abortNoticeSendEffect

/-- The abort of a collective slice whose triggers a snapshot holds: entries not committed, but for those whose last step was complete before
the earliest TRIGGER_TICK, complete ABORTED with that trigger's CAUSE as REASON. -/
def Dev.collAbort (d : Dev) (s : Nat) : Dev :=
  let c := look ⟨[], []⟩ d.memb.colls s
  match c.triggers with
  | [] => d
  | x :: xs =>
    let (cause, tick, node) := xs.foldl (fun (a b : Nat × Nat × Nat) => if b.2.1 < a.2.1 then b else a) x
    let d := d.modMemb fun y => { y with colls := store ⟨[], []⟩ y.colls s { c with triggers := [] } }
    let mine := fun (d : Dev) (e : Entry) => e.slice == s && e.ending.isNone && (decide (e.done < d.stepsOf e.raw) || decide (e.doneTick ≥ tick))
    let n := (tiles6.map fun t => (d.sch t).entries.countP (mine d)).sum
    let d := tiles6.foldl (fun (d : Dev) t => ((d.sch t).entries.filter (mine d)).foldl (fun (d : Dev) e => d.finish t e 1 cause 0) d) d
    d.raise 0xD007 s systemSteward (d.getF (Reg.MEMB_COLL s) F.MEMB_COLL_COLL_ID) (cause + node % 2 ^ 16 * 2 ^ 8 + tick % 2 ^ 32 * 2 ^ 24 + min 255 n * 2 ^ 56)
/-- The boundary snapshot: a staged record for the next tick counts, with its triggers of CAUSE 4; then aborts are taken. -/
def Dev.membSnapshot (d : Dev) : Dev :=
  let r := d.memb.staged
  let due := !r.isEmpty && leAt r 8 8 == d.tickNo + 1
  let d := if due then d.modMemb fun x => { x with counted := true } else d
  let d := if due && (memberOf r d.braidNode).isNone then d.decideFence 1 else d
  let d := if due then (List.range 64).foldl (fun (d : Dev) s =>
      match (look ⟨[], []⟩ d.memb.colls s).nodes.find? fun n => (memberOf r n).isNone with
      | some n => d.trigger s 4 d.tickNo n
      | none => d) d else d
  (List.range 64).foldl Dev.collAbort d

/-! ## Shadowing (R476, R477) -/

/-- SHADOW_SET: MEMB_SHADOW is written; EN starts the chain afresh. -/
def shadowSetEffect (m : Master) (v : Word) (d : Dev) : Dev :=
  if m != hostDriver then d else
  let d := (d.rwWrite Reg.MEMB_SHADOW v).setReg Reg.MEMB_SHADOW_COMPARED 0#64
  let d := d.modMemb fun x => { x with chain := [], count := 0, hist := [], since := d.tickNo, lastCmp := 0 }
  d.setF Reg.MEMB_SHADOW_STATUS F.MEMB_SHADOW_STATUS_RESULT (if d.shadowOn then 1 else 0)
def execShadowSet (m : Master) (v : Word) (s : State) : Host.Outcome State Fault Refusal := ranFrom m s (shadowSetEffect m v)
/-- The other side of shadowing. -/
def Dev.otherSide (d : Dev) : Nat :=
  match memberOf d.memb.record d.braidNode with
  | some j => if memberAt d.memb.record j 4 1 == 2 then memberAt d.memb.record j 6 2 else d.shadowNode.getD 0xFFFF
  | none => 0xFFFF
/-- SHADOW_QUALIFY: QUAL_TICKS have passed without a mismatch and with MIN_COMPARE comparisons. -/
def shadowQualifyEffect (d : Dev) : Dev :=
  let r := d.getF Reg.MEMB_SHADOW_STATUS F.MEMB_SHADOW_STATUS_RESULT
  if r != 1 || decide (d.tickNo < d.memb.since + d.getF Reg.MEMB_SHADOW F.MEMB_SHADOW_QUAL_TICKS) ||
      decide (d.getF Reg.MEMB_SHADOW_COMPARED F.MEMB_SHADOW_COMPARED_COUNT < d.getF Reg.MEMB_SHADOW_STATUS F.MEMB_SHADOW_STATUS_MIN_COMPARE) then d else
  (d.setF Reg.MEMB_SHADOW_STATUS F.MEMB_SHADOW_STATUS_RESULT 2).raise 0xD008 0xFF systemSteward d.otherSide (d.memb.lastCmp % 2 ^ 48 * 2 ^ 8)
def execShadowQualify (s : State) : Host.Outcome State Fault Refusal := ran s shadowQualifyEffect

end Sys2Proof.Machine
end

