-- ==== Sys2Proof/Machine/Power.lean ====
section
/-! DEFINITION. Power: the supply, the governor's envelope, emergencies, temperatures and wiring faults (chapter 23). Shutdown and
recovery are in Reset. -/
namespace Sys2Proof.Machine

def Dev.modPower (d : Dev) (f : PowerState → PowerState) : Dev := { d with power := f d.power }
/-- The governor's tile section, and the supply and conversion unit (R539). -/
def govUnit (t : Nat) : BitVec 16 := unitId t 0x11 0
def supplyUnit : BitVec 16 := unitId 7 0x1C 0
/-- PWR_ALERT_N is low (R534). -/
def Dev.alertLow (d : Dev) : Bool :=
  d.getB Reg.PWR_STATUS F.PWR_STATUS_OC_EMERG || d.getB Reg.PWR_STATUS F.PWR_STATUS_THERM_EMERG || d.getB Reg.PWR_STATUS F.PWR_STATUS_VIN_LOW

/-- VIN_LOW: from 36 V up to 40 V for 1 ms; `volt` in 10 mV (Table 23.4). -/
def vinLowEffect (volt : Nat) (d : Dev) : Dev :=
  if volt < 3600 || volt ≥ 4000 || d.getB Reg.PWR_STATUS F.PWR_STATUS_VIN_LOW then d else
  ((d.setF Reg.PWR_VIN F.PWR_VIN_VOLT volt).setB Reg.PWR_STATUS F.PWR_STATUS_VIN_LOW true).raise 0xF007 0xFF supplyUnit 1 (volt * 2 ^ 8)
def execVinLow (volt : BitVec 16) (s : State) : Host.Outcome State Fault Refusal := ran s (vinLowEffect volt.toNat)

/-! ## The envelope (R524, R525, R527) -/

/-- The segments of a tile's energy record: start in kc, power in mW. -/
def Dev.energySegs (d : Dev) (t : Nat) : List (Nat × Nat) :=
  let s := d.section_ secEnergy t
  (List.range (leAt s 1 1)).map fun i => (leAt s (16 + 8 * i) 4, leAt s (20 + 8 * i) 2 * 1000)
/-- The planned power of a tile at an offset. -/
def planAt (segs : List (Nat × Nat)) (o : Nat) : Nat := (((segs.takeWhile fun s => decide (s.1 ≤ o)).getLast?).map (·.2)).getD 0
/-- The first term of the envelope at an offset, in mW: the slope is 64 mW a kc, the plan periodic in the tick. -/
def Dev.planAhead (d : Dev) (o : Nat) : Nat :=
  if !d.getB Reg.RECIPE_STATUS F.RECIPE_STATUS_ACTIVE then 0 else
  let segs := tiles6.map d.energySegs
  let total := fun u => (segs.map fun s => planAt s u).sum
  let starts := segs.flatMap fun s => s.map (·.1)
  starts.foldl (fun m u => max m (total u - 64 * ((u + d.tickLen - o) % d.tickLen))) (total o)

/-- BALLAST_UPDATE: the loads of the six tiles in mW come with the command. Device time moves to the next multiple of 25 kc; the ballast
draws the envelope's excess over the load, in steps of 0.25 W, at most 900 W. The excess bucket and the tick's energy follow. -/
def ballastUpdateEffect (loads : List Nat) (d : Dev) : Dev :=
  let d := d.advanceTo (d.power.at_ + 25 * kcU)
  let x := d.power
  let loads := (List.range 6).map fun t => loads.getD t 0
  let l := loads.sum
  let dt := d.now - x.at_
  let decay := max l (x.decay - 64 * dt / kcU)
  let o := d.now % d.tickU / kcU
  let e := max (d.planAhead o) decay
  let ballast := min 900000 ((e - l) / 250 * 250)
  let fill := (x.bucket : Int) + ((x.drawn : Int) - 1400000) * dt
  let step := l - (x.drawn + 64 * dt / kcU)
  let rise := (List.range 6).map fun t => loads.getD t 0 - x.loads.getD t 0
  let t := rise.findIdx fun r => r == rise.foldl max 0
  let d := if !x.loads.isEmpty && step > 0 then
      (d.count Reg.PWR_STEP_EXCESS F.PWR_STEP_EXCESS_COUNT 1).raise 0xF005 0xFF (govUnit t) t (step / 1000 % 2 ^ 16 + o * 2 ^ 16) else d
  let d := d.modPower fun x => { x with decay := decay, at_ := d.now, drawn := l + ballast, loads := loads,
                                        bucket := min 12500000000000 fill.toNat,
                                        energy := (List.range 6).foldl (fun m t => store 0 m t (look 0 m t + x.loads.getD t 0 * dt)) x.energy }
  let d := d.setF Reg.PWR_EXCESS F.PWR_EXCESS_BUCKET (d.power.bucket / 5000000000)
  (d.setF Reg.PWR_VIN F.PWR_VIN_POWER ((l + ballast) / 1000)).setF Reg.PWR_STATUS F.PWR_STATUS_BALLAST (ballast / 1000)
def execBallastUpdate (loads : List Nat) (s : State) : Host.Outcome State Fault Refusal := ran s (ballastUpdateEffect loads)

/-- A tick edge: each tile's measured energy against its plan (R527). -/
def Dev.energyEdge (d : Dev) : Dev :=
  let d := tiles6.foldl (fun (d : Dev) t =>
    let r := Reg.PWR_ENERGY t
    let last := look 0 d.power.energy t / 5000000
    let plan := d.getF r F.PWR_ENERGY_PLAN
    let d := d.setF r F.PWR_ENERGY_LAST last
    if d.getB Reg.RECIPE_STATUS F.RECIPE_STATUS_ACTIVE && decide (last * 100 > plan * 105) then
      (d.count (Reg.PWR_PLAN_OVER t) F.PWR_PLAN_OVER_COUNT 1).raise 0xF006 0xFF (govUnit t) t (last + plan * 2 ^ 32)
    else d) d
  d.modPower fun x => { x with energy := [] }

/-! ## Emergencies (R528) -/

/-- A temperature in 0.25 °C as a signed number; 0x8000 is no reading. -/
def tempOf (v : Nat) : Option Int := if v == 0x8000 then none else some (BitVec.ofNat 16 v).toInt
def atLeast (v : Nat) (limit : Int) : Bool := match tempOf v with | some x => decide (limit ≤ x) | none => false
/-- Tiles whose sensors read 104 °C, or a DRAM die 94 °C, or more. -/
def Dev.hotTiles (d : Dev) : List Nat :=
  tiles6.filter fun t => atLeast (d.getF (Reg.PWR_TEMP t) F.PWR_TEMP_LOGIC) 416 || atLeast (d.getF (Reg.PWR_TEMP t) F.PWR_TEMP_DRAM_MAX) 376
/-- An over-current emergency at a VIN power in W. -/
def Dev.overCurrent (d : Dev) (power : Nat) : Bool := decide (d.power.bucket ≥ 12500000000000) || decide (power > 1650)

/-- EMERGENCY_BEGIN: the VIN power measured over 1 µs comes with the command; the runs of R529 are the pause commands. -/
def emergencyBeginEffect (power : Nat) (d : Dev) : Dev :=
  let d := d.setF Reg.PWR_VIN F.PWR_VIN_POWER power
  let oc := d.overCurrent power
  let hot := d.hotTiles
  if !oc && hot.isEmpty then d else
  let was := d.getB Reg.PWR_STATUS F.PWR_STATUS_OC_EMERG || d.getB Reg.PWR_STATUS F.PWR_STATUS_THERM_EMERG
  let d := if oc then d.setB Reg.PWR_STATUS F.PWR_STATUS_OC_EMERG true else d
  let d := if hot.isEmpty then d else d.setB Reg.PWR_STATUS F.PWR_STATUS_THERM_EMERG true
  d.modPower fun x => { x with hot := x.hot ++ hot.filter fun t => !x.hot.contains t, runs := if was then x.runs else 0, paused := if was then x.paused else [] }
def execEmergencyBegin (power : BitVec 16) (s : State) : Host.Outcome State Fault Refusal := ran s (emergencyBeginEffect power.toNat)

/-- The tiles of groups as a mask. -/
def Dev.groupTiles (d : Dev) (groups : List Nat) : List Nat := tiles6.filter fun t => groups.contains (d.groupOf t)
def tileMask (ts : List Nat) : Nat := ts.foldl (fun m t => m + 2 ^ t) 0
/-- EMERGENCY_END: an emergency whose condition no longer holds ends; event 0xF002 when none is left. -/
def emergencyEndEffect (power : Nat) (d : Dev) : Dev :=
  let r := Reg.PWR_STATUS
  let d := d.setF Reg.PWR_VIN F.PWR_VIN_POWER power
  let oc := d.getB r F.PWR_STATUS_OC_EMERG
  let th := d.getB r F.PWR_STATUS_THERM_EMERG
  let hot := d.hotTiles
  let oc' := oc && d.overCurrent power
  let th' := th && !hot.isEmpty
  if (!oc && !th) || (oc' == oc && th' == th) then d else
  let d := (d.setB r F.PWR_STATUS_OC_EMERG oc').setB r F.PWR_STATUS_THERM_EMERG th'
  if oc' || th' then d.modPower fun x => { x with hot := hot } else
  let ts := d.groupTiles d.power.paused
  (d.raise 0xF002 0xFF (govUnit (ts.headD 0)) (tileMask ts) d.power.runs).modPower fun x => { x with hot := [], runs := 0, paused := [] }
def execEmergencyEnd (power : BitVec 16) (s : State) : Host.Outcome State Fault Refusal := ran s (emergencyEndEffect power.toNat)

/-! ## Temperatures and wiring faults (R531, R532) -/

/-- TEMP_SENSOR_READ: the hottest logic sensor and DRAM die of a tile; event 0xF003 when a threshold is first reached. -/
def tempSensorReadEffect (t logic dram stack : Nat) (d : Dev) : Dev :=
  let d := d.setFs (Reg.PWR_TEMP t) [(F.PWR_TEMP_LOGIC, logic), (F.PWR_TEMP_DRAM_MAX, dram), (F.PWR_TEMP_STACK, stack)]
  let w := look 0 d.power.warned t
  let arm := fun (bit v : Nat) (limit : Int) => if atLeast v limit then true else if atLeast v (limit - 19) then w / bit % 2 == 1 else false
  let a := arm 1 logic 380
  let b := arm 2 dram 352
  let new := (a && w % 2 == 0) || (b && w / 2 % 2 == 0)
  let d := d.modPower fun x => { x with warned := store 0 x.warned t ((if a then 1 else 0) + (if b then 2 else 0)) }
  if new then d.raise 0xF003 0xFF (govUnit t) t (logic + dram * 2 ^ 16) else d
def execTempSensorRead (t : Tile) (logic dram : BitVec 16) (stack : BitVec 2) (s : State) : Host.Outcome State Fault Refusal :=
  ran s (tempSensorReadEffect t logic.toNat dram.toNat stack.toNat)

/-- VIN_OPEN_DETECT. -/
def vinOpenDetectEffect (q volt : Nat) (d : Dev) : Dev :=
  (d.setF Reg.PWR_VIN F.PWR_VIN_VOLT volt).raise 0xF007 0xFF supplyUnit 2 (q + volt * 2 ^ 8)
def execVinOpenDetect (q : Fin 4) (volt : BitVec 16) (s : State) : Host.Outcome State Fault Refusal := ran s (vinOpenDetectEffect q volt.toNat)

/-- SIDEBAND_FAULT: event 0xF008; its UNIT is the governor's tile section, whose tile the spec does not name (log entry 24). -/
def sidebandFaultEffect (i : Nat) (d : Dev) : Dev := let (w, d) := d.fresh; d.raise 0xF008 0xFF (govUnit (w.toNat % 6)) i 0
def execSidebandFault (i : Fin 28) (s : State) : Host.Outcome State Fault Refusal := ran s (sidebandFaultEffect i)

end Sys2Proof.Machine
end

