-- ==== Sys2Proof/Machine/Sec.lean ====
section
/-! DEFINITION. Sec: the card flash, the boot, firmware and repair images, firmware update and SPDM (R498 to R517). -/
namespace Sys2Proof.Machine

/-- A change to the security processor's own state. -/
def Dev.modSp (d : Dev) (f : SecState → SecState) : Dev := { d with sp := f d.sp }

/-! ## The card flash (R498, R499) -/

/-- A byte of the flash: an erased one reads 0xFF (log entry 29). -/
def Dev.flashByte (d : Dev) (a : Nat) : Byte := look 0xFF#8 d.sp.flash a
/-- Bytes of the flash. -/
def Dev.flash (d : Dev) (a n : Nat) : Bytes := (List.range n).map fun i => d.flashByte (a + i)
/-- Bytes written to the flash from an address. -/
def flashStore : SMap Byte → Nat → Bytes → SMap Byte
  | m, _, [] => m
  | m, a, b :: r => flashStore (store 0xFF#8 m a b) (a + 1) r
/-- A write to the flash. -/
def Dev.flashWrite (d : Dev) (a : Nat) (l : Bytes) : Dev := d.modSp fun x => { x with flash := flashStore x.flash a l }

/-- The record of a directory copy. -/
def Dev.dirCopy (d : Dev) (c : Nat) : Bytes := d.flash (c * 0x8000) 64
/-- A directory record is valid: its MAGIC and its SHA3-256. -/
def dirValid (r : Bytes) : Bool := leAt r 0 4 == 0x31524944 && bytesAt r 32 32 == digestBytes (Config.sha3 (bytesAt r 0 32))
/-- The directory copy that governs: the valid one, or the one with the later GENERATION (R32, R499). -/
def Dev.dirGoverns (d : Dev) : Option Nat :=
  let r0 := d.dirCopy 0
  let r1 := d.dirCopy 1
  if dirValid r0 then
    if dirValid r1 then
      let k := (leAt r1 4 4 + 2 ^ 32 - leAt r0 4 4) % 2 ^ 32
      some (if k != 0 && decide (k < 2 ^ 31) then 1 else 0)
    else some 0
  else if dirValid r1 then some 1 else none
/-- Field i of the directory in force: 0 FW_CURRENT, 1 RECIPE_CURRENT, 2 REPAIR_CURRENT (log entry 29). -/
def Dev.dirField (d : Dev) (i : Nat) : Nat :=
  match d.dirGoverns with
  | some c => leAt (d.dirCopy c) (8 + i) 1 % 2
  | none => Config.noDirectory / 2 ^ i % 2
/-- A directory write: the copy that does not govern, GENERATION one higher (R499). -/
def Dev.setDir (d : Dev) (i v : Nat) : Dev :=
  let g := d.dirGoverns
  let gen := match g with | some c => leAt (d.dirCopy c) 4 4 + 1 | none => 1
  let fs := (List.range 3).flatMap fun j => leBytes 1 (if j == i then v else d.dirField j)
  let body := leBytes 4 0x31524944 ++ leBytes 4 gen ++ fs ++ leBytes 21 0
  d.flashWrite (match g with | some 0 => 0x8000 | _ => 0) (body ++ digestBytes (Config.sha3 body))

/-- Where firmware slots, repair images, recipe slots and amendment logs lie (Table 22.1). -/
def fwSlot (x : Nat) : Nat := if x == 0 then 0x400000 else 0xC00000
def repairSlot (x : Nat) : Nat := if x == 0 then 0x100000 else 0x200000
def recipeSlot (x : Nat) : Nat := if x == 0 then 0x2000000 else 0x4000000
def amendLog (x : Nat) : Nat := if x == 0 then 0x3000000 else 0x5000000

/-! ## Images (R500, R505, Table 22.5) -/

/-- ASCII text as bytes. -/
def ascii (t : String) : Bytes := t.toList.map fun c => BitVec.ofNat 8 c.toNat
/-- A seed as bytes. -/
def seedBytes (x : BitVec 256) : Bytes := digestBytes x
/-- Bytes are all zero. -/
def allZero (l : Bytes) : Bool := l.all (· == 0#8)
/-- The size a firmware image's header gives it: header, key, body, signature block. -/
def fwSize (h : Bytes) : Nat := 256 + 1312 + leAt h 24 4 + 2432
/-- The eight section entries of a firmware header: type, offset, size. -/
def fwSections (h : Bytes) : List (Nat × Nat × Nat) :=
  (List.range 8).map fun i => (leAt h (64 + 16 * i) 2, leAt h (68 + 16 * i) 4, leAt h (72 + 16 * i) 4)
/-- The header of a firmware image is in order: MAGIC, FORMAT, LENGTH, zero fields and SECTIONS (Table 22.2). -/
def fwHeaderOk (h : Bytes) : Bool :=
  let n := leAt h 24 4
  leAt h 0 4 == 0x57464C4C && leAt h 4 2 == 1 && n % 64 == 0 && decide (fwSize h ≤ 0x800000) && leAt h 28 2 / 8 == 0 && allZero (bytesAt h 192 64)
    && ((List.range 8).all fun i => leAt h (66 + 16 * i) 2 == 0 && leAt h (76 + 16 * i) 4 == 0)
    && ([1, 2, 3, 4].all fun ty => (fwSections h).countP (fun e => e.1 == ty) == 1)
    && ((fwSections h).all fun e => decide (e.1 ≤ 4) && (e.1 == 0 || decide (e.2.1 + e.2.2 ≤ n)))
/-- The STEP byte of SYS_IDENT and its PART. -/
def Dev.partOk (_d : Dev) (part step : Nat) : Bool := part == 0x9440 && step == Config.stepByte
/-- The first check of Table 22.5 that a firmware image fails; the image is read only as far as its header allows. -/
def Dev.fwFault (d : Dev) (h : Bytes) (image : Unit → Bytes) : Option Nat :=
  if !fwHeaderOk h then some 3
  else
    let l := image ()
    let n := leAt h 24 4
    let key := bytesAt l 256 1312
    let sig := bytesAt l (1568 + n) 2432
    if !allZero (bytesAt sig 2420 12) then some 3
    else if !d.partOk (leAt h 6 2) (leAt h 8 1) then some 4
    else if leAt h 9 1 > 3 || Config.sha3 key != Config.rootDigest (leAt h 9 1) then some 5
    else if digestAround (l.take (1568 + n)) 32 != bytesAt h 32 32 then some 6
    else if !Config.mldsaCheck key (bytesAt h 32 32) (sig.take 2420) then some 7 else none
/-- The check of the firmware slot x (R501). -/
def Dev.fwSlotFault (d : Dev) (x : Nat) : Option Nat :=
  let h := d.flash (fwSlot x) 256
  d.fwFault h fun _ => d.flash (fwSlot x) (fwSize h)

/-- The DevID seed, and the repair key of a seed (Table 22.3). -/
def devIdSeed (s : BitVec 256) : BitVec 256 := Config.sha3 (ascii "LLY-DEVID" ++ seedBytes s)
def repairKey (s : BitVec 256) : BitVec 256 := Config.kmac (seedBytes s) (List.replicate 32 0#8) (ascii "LLY-REPAIR")
/-- The size of a repair image (R505). FIELD_LEN counts its records and their tag (log entry 31). -/
def repairSize (h : Bytes) : Nat := 128 + leAt h 8 4 + leAt h 12 4
/-- The header of a repair image is in order. -/
def repairHeaderOk (h : Bytes) : Bool :=
  let f := leAt h 12 4
  leAt h 0 4 == 0x31525052 && allZero (bytesAt h 48 80) && decide (2432 ≤ leAt h 8 4) && decide (repairSize h ≤ 0x100000)
    && decide (32 ≤ f) && decide (f ≤ 4096 * 16 + 32) && f % 16 == 0
/-- The first check of Table 22.5 that a repair image fails. -/
def Dev.repairFault (d : Dev) (h : Bytes) (image : Unit → Bytes) : Option Nat :=
  if !repairHeaderOk h then some 3
  else
    let l := image ()
    let n := leAt h 8 4 - 2432
    if !allZero (bytesAt l (128 + n + 2420) 12) then some 3
    else if !d.partOk (leAt h 4 2) (leAt h 6 1) then some 4
    else if leAt h 7 1 > 3 then some 5
    else if !Config.mldsaCheck (Config.rootKey (leAt h 7 1)) (digestBytes (Config.sha3 (l.take (128 + n)))) (bytesAt l (128 + n) 2420) then some 7
    else match d.sp.seed with
      | some s => if bytesAt h 16 32 == digestBytes (Config.sha3 (Config.mldsaPublic (devIdSeed s))) then none else some 9
      | none => some 9
/-- The check of repair image x (R506). -/
def Dev.repairSlotFault (d : Dev) (x : Nat) : Option Nat :=
  let h := d.flash (repairSlot x) 128
  d.repairFault h fun _ => d.flash (repairSlot x) (repairSize h)
/-- The records of a field section, and the tag over header and records (R505). -/
def fieldArea (l : Bytes) : Bytes := bytesAt l (128 + leAt l 8 4) (leAt l 12 4 - 32)
def fieldTag (s : BitVec 256) (l : Bytes) : Bytes := digestBytes (Config.kmac (seedBytes (repairKey s)) (l.take 128 ++ fieldArea l) [])
/-- The records of an image whose field section passes. -/
def Dev.fieldRecs (d : Dev) (l : Bytes) : Option (List Bytes) :=
  match d.sp.seed with
  | none => none
  | some s =>
    if bytesAt l (repairSize l - 32) 32 != fieldTag s l then none else
    some (((List.range (leAt l 12 4 / 16 - 2)).map fun i => bytesAt (fieldArea l) (16 * i) 16).filter fun r => leAt r 0 1 != 0)
/-- An image with other field records, and its tag anew. -/
def withFields (s : BitVec 256) (l : Bytes) (rs : List Bytes) : Bytes :=
  let n := leAt l 12 4 - 32
  let l := l.take (128 + leAt l 8 4) ++ bytesAt rs.flatten 0 n
  l ++ fieldTag s l

/-! ## Boot (R501 to R508) -/

/-- A security event (Table 22.8). -/
def Dev.secEvent (d : Dev) (code object detail : Nat) : Dev := d.raise code 0xFF securityProcessor object detail
/-- The reason of a rejection is shown and event 0xE002 raised. -/
def Dev.imageRejected (d : Dev) (object reason : Nat) : Dev :=
  (d.setF Reg.SEC_STATUS F.SEC_STATUS_REASON reason).secEvent 0xE002 object reason
/-- Recovery mode (R510). -/
def Dev.recover_ (d : Dev) (reason : Nat) : Dev :=
  (d.setFs Reg.SEC_STATUS [(F.SEC_STATUS_STAGE, 2), (F.SEC_STATUS_REASON, reason)]).secEvent 0xE003 reason 0
/-- The stage of SEC_STATUS. -/
def Dev.secStage (d : Dev) : Nat := d.getF Reg.SEC_STATUS F.SEC_STATUS_STAGE

/-- RAILS_IN_REGULATION: the security processor leaves reset, reads and clears the PUF, and recovers S; `cellsOff` is the percentage of
its cells that differ from enrolment (R502, R503, R522). -/
def railsInRegulationEffect (cellsOff : Nat) (d : Dev) : Dev :=
  if d.getF Reg.PWR_STATUS F.PWR_STATUS_SUPPLY != 0 then d else
  let d := (d.setF Reg.PWR_STATUS F.PWR_STATUS_SUPPLY 1).setReg Reg.SEC_ROM Config.romVersion
  if d.sp.pufRead then d else
  let h := d.flash 0x10000 64
  let s := if cellsOff ≤ 15 then Config.pufSeed (d.flash 0x10040 (leAt h 4 4 % 0x10000)) else Config.pufBad d.free
  let d := { d with free := d.free + 1 }.modSp fun x => { x with pufRead := true }
  if leAt h 0 4 == 0x504C4548 && bytesAt h 32 32 == digestBytes (Config.sha3 (ascii "LLY-CHECK" ++ seedBytes s)) then
    (d.modSp fun x => { x with seed := some s }).setF Reg.SEC_STATUS F.SEC_STATUS_IDENTITY_OK 1
  else (d.imageRejected 4 8).recover_ 8
def execRailsInRegulation (cellsOff : Nat) (s : State) : Host.Outcome State Fault Refusal := ran s (railsInRegulationEffect cellsOff)

/-- The firmware of a slot is loaded. -/
def Dev.bootSlot (d : Dev) (x : Nat) (fallback : Bool) : Dev :=
  let l := d.flash (fwSlot x) (fwSize (d.flash (fwSlot x) 256))
  let d := d.modSp fun y => { y with fw := l }
  let d := d.setFs Reg.SEC_STATUS [(F.SEC_STATUS_SLOT, x), (F.SEC_STATUS_FALLBACK, if fallback then 1 else 0), (F.SEC_STATUS_IDENTITY_OK, 1)]
  let d := (d.setReg Reg.SEC_FW_VERSION (BitVec.ofNat 64 (leAt l 16 8))).setFs Reg.SEC_FW_INFO
    [(F.SEC_FW_INFO_SVN, leAt l 12 4), (F.SEC_FW_INFO_KEY_INDEX, leAt l 9 1), (F.SEC_FW_INFO_INTERFACE, leAt l 10 2)]
  if d.sp.switched && !fallback then (d.modSp fun y => { y with switched := false }).secEvent 0xE005 (leAt l 16 4) 0 else d
/-- FIRMWARE_VERIFY: the slot FW_CURRENT names, then the other, then recovery mode (R501). -/
def firmwareVerifyEffect (d : Dev) : Dev :=
  if d.secStage != 0 || d.sp.seed.isNone || d.sp.fw != [] then d else
  let x := d.dirField 0
  match d.fwSlotFault x with
  | none => d.bootSlot x false
  | some r =>
    let d := d.imageRejected x r
    match d.fwSlotFault (1 - x) with
    | none => d.bootSlot (1 - x) true
    | some r => (d.imageRejected (1 - x) r).recover_ r
def execFirmwareVerify (s : State) : Host.Outcome State Fault Refusal := ran s firmwareVerifyEffect

/-- The repair digest (R505), and POLICY of the running firmware. -/
def Dev.repairDigest (d : Dev) : Bytes := digestBytes (Config.sha3 d.sp.repair)
def Dev.policy (d : Dev) : Nat := leAt d.sp.fw 28 4
/-- The alias seed of the running firmware and repair image (Table 22.3). -/
def Dev.aliasSeed (d : Dev) : BitVec 256 :=
  Config.sha3 (ascii "LLY-ALIAS" ++ seedBytes (d.sp.seed.getD 0#256) ++ bytesAt d.sp.fw 32 32 ++ d.repairDigest)
/-- A new alias key, and the policy's IDE_REQUIRED. -/
def Dev.takeAlias (d : Dev) : Dev :=
  (d.modSp fun x => { x with alias_ := d.aliasSeed }).setF Reg.CXL_IDE F.CXL_IDE_REQUIRED (d.policy / 2 % 2)
/-- A repair image is in use: its field section is checked, the alias key derived, the stewards released (R506, R508). -/
def Dev.useRepair (d : Dev) (x : Nat) : Dev :=
  let l := d.flash (repairSlot x) (repairSize (d.flash (repairSlot x) 128))
  let fs := d.fieldRecs l
  let d := if fs.isSome then d else d.imageRejected (2 + x) 10
  let d := d.modSp fun y => { y with
    repair := l, fields := fs.getD [], released := true, bootDue := true, bootMs := (d.now - y.vinAt) / 5000000 }
  (d.setFs Reg.SEC_STATUS [(F.SEC_STATUS_REPAIR_OK, 1), (F.SEC_STATUS_FIELD_OK, if fs.isSome then 1 else 0), (F.SEC_STATUS_STAGE, 1)]).takeAlias
/-- REPAIR_IMAGE_CHECK: the image REPAIR_CURRENT names, then the other, then recovery mode (R506). -/
def repairImageCheckEffect (d : Dev) : Dev :=
  if d.secStage != 0 || d.sp.fw == [] then d else
  let x := d.dirField 2
  match d.repairSlotFault x with
  | none => d.useRepair x
  | some r =>
    let d := d.imageRejected (2 + x) r
    match d.repairSlotFault (1 - x) with
    | none => d.useRepair (1 - x)
    | some r => (d.imageRejected (3 - x) r).recover_ 11
def execRepairImageCheck (s : State) : Host.Outcome State Fault Refusal := ran s repairImageCheckEffect
/-- BOOT_DONE, once the reload has ended (Table 22.4). -/
def Dev.bootDone (d : Dev) : Dev :=
  if !d.sp.bootDue then d else
  let st := fun f => d.getF Reg.SEC_STATUS f
  (d.modSp fun x => { x with bootDue := false }).secEvent 0xE001 ((d.reg Reg.SEC_FW_VERSION).toNat % 2 ^ 32)
    (st F.SEC_STATUS_SLOT + st F.SEC_STATUS_FALLBACK * 2 ^ 8 + st F.SEC_STATUS_FIELD_OK * 2 ^ 16 + d.sp.bootMs % 2 ^ 32 * 2 ^ 32)
/-- DRAM_TRAINING_COMPLETE: all stacks are trained, repairs applied (R508). -/
def dramTrainingCompleteEffect (d : Dev) : Dev := if d.sp.released then d.modSp fun x => { x with trained := true } else d
def execDramTrainingComplete (s : State) : Host.Outcome State Fault Refusal := ran s dramTrainingCompleteEffect

/-! ## Firmware update (R513, R514) -/

/-- STATE and REASON of SEC_FW_RESULT. -/
def Dev.fwState (d : Dev) : Nat := d.getF Reg.SEC_FW_RESULT F.SEC_FW_RESULT_STATE
def Dev.setFwState (d : Dev) (st reason : Nat) : Dev :=
  d.setFs Reg.SEC_FW_RESULT [(F.SEC_FW_RESULT_STATE, st), (F.SEC_FW_RESULT_REASON, reason)]
/-- A staging begins. -/
def Dev.startStaging (d : Dev) (repair : Bool) : Dev :=
  if d.fwState == 1 || d.fwState == 2 || d.fwState == 3 then d.setF Reg.SEC_FW_RESULT F.SEC_FW_RESULT_REASON 12
  else (d.setFwState 1 0).modSp fun x => { x with image := [], isRepair := repair, fetched := false }
/-- FW_STAGE: SEC_FW_CMD 1 of the host driver, by running firmware or in recovery mode. -/
def fwStageEffect (m : Master) (d : Dev) : Dev := if m != hostDriver || d.secStage == 0 then d else d.startStaging false
def execFwStage (m : Master) (s : State) : Host.Outcome State Fault Refusal := ranSys m s (fwStageEffect m)
/-- STAGE_REPAIR_IMAGE: SEC_FW_CMD 5, in recovery mode only (R510). -/
def stageRepairImageEffect (m : Master) (d : Dev) : Dev := if m != hostDriver || !d.recovery then d else d.startStaging true
def execStageRepairImage (m : Master) (s : State) : Host.Outcome State Fault Refusal := ranSys m s (stageRepairImageEffect m)
/-- A staging that fails. -/
def Dev.stagingFailed (d : Dev) (reason : Nat) : Dev := (d.setFwState 0 reason).imageRejected 5 reason
/-- FW_IMAGE_FETCH_DONE: the fetched image is checked; a good one goes on to the flash write. -/
def fwImageFetchDoneEffect (l : Bytes) (how : FetchEnd) (d : Dev) : Dev :=
  if d.fwState != 1 || d.sp.fetched then d else
  let size := if d.sp.isRepair then repairSize l else fwSize l
  let len := d.getF Reg.SEC_FW_LEN F.SEC_FW_LEN_LEN
  if how != .ok || len != size || l.length != size then
    (d.fetchEnd how none (d.getF Reg.SEC_FW_SRC F.SEC_FW_SRC_ADDR * 64)).stagingFailed 2
  else match (if d.sp.isRepair then d.repairFault l fun _ => l else d.fwFault l fun _ => l) with
    | some r => d.stagingFailed r
    | none => d.modSp fun x => { x with image := l, fetched := true }
def execFwImageFetchDone (image : Bytes) (how : FetchEnd) (s : State) : Host.Outcome State Fault Refusal :=
  ran s (fwImageFetchDoneEffect image how)
/-- FW_FLASH_WRITE_DONE: the image is in the slot that is not current, read back and verified; it is staged. -/
def fwFlashWriteDoneEffect (ok : Bool) (d : Dev) : Dev :=
  if d.fwState != 1 || !d.sp.fetched then d
  else if !ok then d.stagingFailed 1
  else
    let l := d.sp.image
    let d := d.setFwState 2 0
    if d.sp.isRepair then d.flashWrite (repairSlot (1 - d.dirField 2)) l
    else
      let x := 1 - d.dirField 0
      (d.flashWrite (fwSlot x) l).secEvent 0xE004 (leAt l 16 4) (leAt l 12 4 + x * 2 ^ 32)
def execFwFlashWriteDone (ok : Bool) (s : State) : Host.Outcome State Fault Refusal := ran s (fwFlashWriteDoneEffect ok)

/-- A command for the staged firmware, from the host driver to running firmware. -/
def Dev.stagedFw (d : Dev) (m : Master) : Bool := m == hostDriver && d.secStage == 1 && d.fwState == 2
/-- FW_APPLY_AT_RESET: FW_CURRENT is switched; the image takes effect at the next reset. -/
def fwApplyAtResetEffect (m : Master) (d : Dev) : Dev := if !d.stagedFw m then d else
  ((d.setDir 0 (1 - d.dirField 0)).setFwState 4 0).modSp fun x => { x with switched := true }
def execFwApplyAtReset (m : Master) (s : State) : Host.Outcome State Fault Refusal := ranSys m s (fwApplyAtResetEffect m)
/-- FW_DISCARD: the staged image is discarded. -/
def fwDiscardEffect (m : Master) (d : Dev) : Dev :=
  if m != hostDriver || d.fwState != 2 then d else (d.setFwState 0 0).modSp fun x => { x with image := [], fetched := false }
def execFwDiscard (m : Master) (s : State) : Host.Outcome State Fault Refusal := ranSys m s (fwDiscardEffect m)

/-- Every SPDM session ends by a restart or a reset (R512). -/
def Dev.endSessions (d : Dev) : Dev :=
  let ss := d.sp.sessions
  ss.foldl (fun (d : Dev) x => d.secEvent 0xE008 x.id 2) (d.modSp fun x => { x with sessions := [], spdm := 0, log := [], chunks := [], chunkSeq := 0, reply := [] })
/-- Every named tile is done: the system steward is replaced, the security processor restarts, FW_CURRENT is switched (R514). -/
def Dev.liveFinish (d : Dev) : Dev :=
  let l := d.sp.image
  let x := 1 - d.dirField 0
  let d := d.endSessions.modSp fun y => { y with fw := l, image := [], fetched := false, tileFw := [] }
  let d := d.setFs Reg.SEC_STATUS [(F.SEC_STATUS_SLOT, x), (F.SEC_STATUS_FALLBACK, 0)]
  let d := (d.setReg Reg.SEC_FW_VERSION (BitVec.ofNat 64 (leAt l 16 8))).setFs Reg.SEC_FW_INFO
    [(F.SEC_FW_INFO_SVN, leAt l 12 4), (F.SEC_FW_INFO_KEY_INDEX, leAt l 9 1), (F.SEC_FW_INFO_INTERFACE, leAt l 10 2)]
  ((d.takeAlias.setDir 0 x).setFwState 0 0).secEvent 0xE005 (leAt l 16 4) (1 + d.sp.liveMask * 2 ^ 8)
/-- FW_APPLY_LIVE: refused unless the staged INTERFACE equals the running one. -/
def fwApplyLiveEffect (m : Master) (mask : Nat) (d : Dev) : Dev :=
  if !d.stagedFw m then d
  else if leAt d.sp.image 10 2 != leAt d.sp.fw 10 2 then d.setF Reg.SEC_FW_RESULT F.SEC_FW_RESULT_REASON 13
  else
    let ts := tiles6.filter fun t => mask / 2 ^ t % 2 == 1
    let d := (d.setFwState 3 0).setF Reg.SEC_FW_RESULT F.SEC_FW_RESULT_TILES_DONE 0
    let d := d.modSp fun x => { x with live := ts, liveMask := mask, liveSince := d.tickNo }
    if ts.isEmpty then d.liveFinish else d
def execFwApplyLive (m : Master) (tiles : BitVec 6) (s : State) : Host.Outcome State Fault Refusal := ranSys m s (fwApplyLiveEffect m tiles.toNat)
/-- The tile holds no cell and no resident or saved context. -/
def Dev.tileEmpty (d : Dev) (t : Nat) : Bool := (d.cellsOf t).isEmpty && !(d.sch t).ctxs.any (·.placed)
/-- FW_LIVE_TILE_STEP: at step 1 of a boundary slot at which the next tile is empty, its steward image is replaced. -/
def fwLiveTileStepEffect (t : Nat) (d : Dev) : Dev :=
  if d.fwState != 3 || d.sp.live.head? != some t || !d.inBoundary || !d.tileEmpty t then d else
  let r := Reg.SEC_FW_RESULT
  let d := d.setF r F.SEC_FW_RESULT_TILES_DONE (orMask (d.getF r F.SEC_FW_RESULT_TILES_DONE) (2 ^ t))
  let d := d.modSp fun x => { x with
    live := x.live.drop 1, liveSince := d.tickNo, quiet := if x.quiet.contains t then x.quiet else x.quiet ++ [t],
    tileFw := store [] x.tileFw t (bytesAt x.image 0 64) }
  if d.sp.live.isEmpty then d.liveFinish else d
def execFwLiveTileStep (t : Tile) (s : State) : Host.Outcome State Fault Refusal := ran s (fwLiveTileStepEffect t)
/-- FW_APPLY_TILE_TIMEOUT: a tile occupied for 8,000 ticks stops the apply; the image stays staged (log entry 31). -/
def fwApplyTileTimeoutEffect (d : Dev) : Dev :=
  match d.fwState == 3, d.sp.live with
  | true, t :: _ =>
    if d.tickNo - d.sp.liveSince < 8000 then d else
    ((d.setFwState 2 14).modSp fun x => { x with live := [] }).secEvent 0xE006 14 (d.getF Reg.SEC_FW_RESULT F.SEC_FW_RESULT_TILES_DONE + t * 2 ^ 8)
  | _, _ => d
def execFwApplyTileTimeout (s : State) : Host.Outcome State Fault Refusal := ran s fwApplyTileTimeoutEffect

/-! ## Field records (R507) -/

/-- The repair image with the field records held goes to the copy that is not current, which then is. -/
def Dev.writeFields (d : Dev) : Dev :=
  let x := 1 - d.dirField 2
  (d.flashWrite (repairSlot x) (withFields (d.sp.seed.getD 0#256) d.sp.repair d.sp.fields)).setDir 2 x
/-- FIELD_RECORD_WRITE: the oldest record that waits is written, verified and made current; event 0xE007. -/
def fieldRecordWriteEffect (ok : Bool) (d : Dev) : Dev :=
  match d.sp.toWrite with
  | [] => d
  | r :: rest =>
    let room := decide (d.sp.fields.length < leAt d.sp.repair 12 4 / 16 - 2)
    let d := d.modSp fun x => { x with toWrite := rest, fields := if ok && room then x.fields ++ [r] else x.fields }
    let d := if ok && room then d.writeFields else d
    d.secEvent 0xE007 (leAt r 2 2) (leAt r 0 1 + (if ok && room then 0 else 2 ^ 8) + d.sp.fields.length % 2 ^ 16 * 2 ^ 16)
def execFieldRecordWrite (ok : Bool) (s : State) : Host.Outcome State Fault Refusal := ran s (fieldRecordWriteEffect ok)
/-- SEC_FIELD_CMD clears records; what is fenced stays so until the next power-on or activation. -/
def Dev.clearFields (m : Master) (p : Bytes → Bool) (d : Dev) : Dev :=
  if m != hostDriver || d.secStage != 1 then d else
  (d.modSp fun x => { x with fields := x.fields.filter fun r => !p r, toWrite := x.toWrite.filter fun r => !p r }).writeFields
/-- CLEAR_FENCE_RECORDS: the KIND 1 records. -/
def clearFenceRecordsEffect (m : Master) (d : Dev) : Dev := d.clearFields m fun r => leAt r 0 1 == 1
def execClearFenceRecords (m : Master) (s : State) : Host.Outcome State Fault Refusal := ranSys m s (clearFenceRecordsEffect m)
/-- CLEAR_FIELD_RECORDS: all of them. -/
def clearFieldRecordsEffect (m : Master) (d : Dev) : Dev := d.clearFields m fun _ => true
def execClearFieldRecords (m : Master) (s : State) : Host.Outcome State Fault Refusal := ranSys m s (clearFieldRecordsEffect m)

end Sys2Proof.Machine
end

