-- ==== Sys2Proof/Machine/Check.lean ====
section
/-! DEFINITION. Check: an image's header and directory, and the checks of its sections by Table 03.6, reasons 0x08 to 0x11. A check of
a section answers the byte offset, within the section, of the first field that fails it. -/
namespace Sys2Proof.Machine

/-! ## The image (R62 to R64) -/

/-- KIND, TILE, LENGTH, ACT_TICK of a header, whether it is signed, and the bytes it counts with its signature block. -/
def imgKind (l : Bytes) : Nat := leAt l 6 1
def imgTile (l : Bytes) : Nat := leAt l 7 1
def imgLength (l : Bytes) : Nat := leAt l 12 4
def imgId (l : Bytes) : Nat := leAt l 24 8
def imgAct (l : Bytes) : Nat := leAt l 32 8
def imgSigned (l : Bytes) : Bool := leAt l 11 1 % 2 == 1
def imgDigest (l : Bytes) : Bytes := bytesAt l 40 32
def imgSize (l : Bytes) : Nat := imgLength l + (if imgSigned l then 2496 else 0)

/-- A directory entry: its index, type, scope, offset and size. -/
structure DirEntry where
  index : Nat
  type : Nat
  scope : Nat
  off : Nat
  size : Nat
  deriving DecidableEq, Repr

/-- The directory of an image. -/
def dirOf (l : Bytes) : List DirEntry :=
  (List.range (leAt l 16 2)).map fun i => let o := 256 + 16 * i; ⟨i, leAt l o 2, leAt l (o + 2) 1, leAt l (o + 4) 4, leAt l (o + 8) 4⟩
/-- The bytes of a section, and the tiles of a scope. -/
def DirEntry.bytes (e : DirEntry) (l : Bytes) : Bytes := bytesAt l e.off e.size
def scopeTiles (m : Nat) : List Nat := tiles6.filter fun t => m / 2 ^ t % 2 == 1
def DirEntry.tiles (e : DirEntry) : List Nat := scopeTiles e.scope

/-- An offset when a condition fails, the first of several, and bytes that must be zero. -/
def need (ok : Bool) (o : Nat) : Option Nat := if ok then none else some o
def firstOf (l : List (Option Nat)) : Option Nat := (l.find? (·.isSome)).getD none
def zeros (l : Bytes) (o n : Nat) : Option Nat := ((List.range n).find? fun i => leAt l (o + i) 1 != 0).map (o + ·)
def within_ (v lo hi : Nat) : Bool := decide (lo ≤ v) && decide (v ≤ hi)
/-- Elements pairwise distinct. -/
def distinct : List Nat → Bool
  | [] => true
  | a :: r => !r.contains a && distinct r
/-- Half-open spans that do not overlap. -/
def disjoint : List (Nat × Nat) → Bool
  | [] => true
  | a :: r => (r.all fun b => decide (a.2 ≤ b.1) || decide (b.2 ≤ a.1)) && disjoint r

/-- The types a full recipe requires, those one entry covers the device with, and those an amendment may carry (Table 03.3). -/
def requiredTypes : List Nat := [0x01, 0x02, 0x03, 0x04, 0x07, 0x08, 0x09, 0x0C, 0x0D, 0x0E]
def deviceTypes : List Nat := [0x02, 0x05, 0x07, 0x08, 0x09, 0x0A, 0x0B, 0x0C]
def tileAmendTypes : List Nat := [0x01, 0x03, 0x04, 0x06, 0x0D, 0x0E]
def cellAmendTypes : List Nat := [0x03, 0x05, 0x06]

/-- The tile blocks of a WINDOW_MAPS or ROUTES section, cut by a size that each block's start gives; none when they do not add up to it. -/
def cutBlocks (size : Bytes → Nat) : Nat → Bytes → Option (List Bytes)
  | 0, s => if s.isEmpty then some [] else none
  | n + 1, s =>
    let k := size s
    if s.length < 64 || s.length < k || k == 0 then none else (cutBlocks size n (s.drop k)).map (s.take k :: ·)
/-- The length of a WINDOW_MAPS block (R542) and of a ROUTES block (R540). -/
def mapBlockSize (b : Bytes) : Nat := 64 + 4096 + 8192 + ceilDiv (8 * leAt b 1 1) 64 * 64
def routeBlockSize (b : Bytes) : Nat := ceilDiv (192 + 8 * leAt b 1 1 + 16 * leAt b 2 2 + 16 * leAt b 4 2) 64 * 64

/-- A section's size is that of its records (log entry 33). -/
def sizeOk (e : DirEntry) (s : Bytes) : Bool :=
  let n := e.tiles.length
  match e.type with
  | 0x01 => s.length == 16 * n
  | 0x02 => s.length == 64
  | 0x03 => (cutBlocks mapBlockSize n s).isSome
  | 0x04 => (cutBlocks routeBlockSize n s).isSome
  | 0x05 => s.length == 448 + 128 * nCells s + 16 * nEaxc s + 64 * nClass s
  | 0x07 => s.length == 8 + 16 * leAt s 0 4 + 64 * leAt s 4 4
  | 0x08 => s.length == 64 + 64 * leAt s 0 1 + 32 * leAt s 2 2
  | 0x09 => s.length == 512
  | 0x0A => decide (26688 + 32 * leAt s 14 2 + 64 * leAt s 16 2 ≤ s.length)
  | 0x0B => decide (4160 ≤ s.length)
  | 0x0C => s.length == 384
  | 0x0D => s.length == 64 + 32 * n + 64 * leAt s 0 2
  | 0x0E => s.length == 512 * n
  | _ => true

/-- DIRECTORY: R63, the type and scope rules of R64, and sections of another size than their records. The directory index that fails. -/
def dirFault (l : Bytes) : Option (Nat × Nat) :=
  let es := dirOf l
  let k := imgKind l
  let one := fun (e : DirEntry) => firstOf [
    need (within_ e.type 1 14 && (k != 1 || tileAmendTypes.contains e.type) && (k != 2 || cellAmendTypes.contains e.type)) 0,
    need (within_ e.scope 1 0x3F && (k != 1 || e.scope == 2 ^ imgTile l) && (k != 0 || !deviceTypes.contains e.type || e.scope == 0x3F)) 2,
    need (leAt l (256 + 16 * e.index + 3) 1 == 0) 3,
    need (e.off % 64 == 0 && decide (256 + 16 * es.length ≤ e.off) && decide (e.off + e.size ≤ imgLength l)) 4,
    need (es.all fun f => decide (f.index ≥ e.index) || (decide (f.off + f.size ≤ e.off) && (f.type != e.type || f.scope &&& e.scope == 0))) 4,
    need (leAt l (256 + 16 * e.index + 12) 4 == 0) 12]
  match es.findSome? fun e => (one e).map fun o => (e.index, o) with
  | some r => some r
  | none => (es.find? fun e => !sizeOk e (e.bytes l)).map fun e => (e.index, 8)
/-- MISSING_SECTION: the scopes of a required type do not cover the six tiles. -/
def missing (l : Bytes) : Bool :=
  imgKind l == 0 && requiredTypes.any fun ty => ((dirOf l).filter (·.type == ty)).foldl (fun m e => m ||| e.scope) 0 != 0x3F

/-! ## The configuration an image gives -/

/-- The parts of the sections of an image, by section and tile (see Active). -/
def DirEntry.parts (e : DirEntry) (l : Bytes) : List (Nat × Bytes) :=
  let s := e.bytes l
  let ts := e.tiles
  let per := fun (bs : List Bytes) => (ts.zip bs).map fun p => (8 * e.type + p.1, p.2)
  match e.type with
  | 0x01 => per ((List.range ts.length).map fun i => bytesAt s (16 * i) 16)
  | 0x03 => per ((cutBlocks mapBlockSize ts.length s).getD [])
  | 0x04 => per ((cutBlocks routeBlockSize ts.length s).getD [])
  | 0x06 => per (ts.map fun _ => s)
  | 0x0D => (ts.zipIdx).map fun p =>
      let recs := (List.range (leAt s 0 2)).map fun i => bytesAt s (64 + 32 * ts.length + 64 * i) 64
      (8 * e.type + p.1, bytesAt s 0 64 ++ bytesAt s (64 + 32 * p.2) 32 ++ (recs.filter fun r => leAt r 3 1 / 2 ^ p.1 % 2 == 1).flatten)
  | 0x0E => per ((List.range ts.length).map fun i => bytesAt s (512 * i) 512)
  | _ => [(8 * e.type, s)]
/-- The cells, eAxC entries and classes of a CELLS section for some tiles, with classes counted from `base`. -/
def cellsFor (s : Bytes) (ts : List Nat) (base : Nat) : List Bytes × List Bytes × List Bytes :=
  let cs := ((List.range (nCells s)).map (cellDesc s)).filter fun c => ts.contains (leAt c 2 1)
  let ids := cs.map cellId
  (cs.map fun c => c.take 44 ++ leBytes 2 (leAt c 44 2 + base) ++ c.drop 46,
    ((List.range (nEaxc s)).map (eaxcEntry s)).filter fun e => ids.contains (leAt e 2 2), (List.range (nClass s)).map (classRec s))
/-- A CELLS section with the tiles of a cell amendment's scope replaced (R75, R77). -/
def mergeCells (old new : Bytes) (ts : List Nat) : Bytes :=
  let (c0, e0, k0) := cellsFor old (tiles6.filter fun t => !ts.contains t) 0
  let (c1, e1, k1) := cellsFor new ts k0.length
  leBytes 2 (c0.length + c1.length) ++ leBytes 2 (e0.length + e1.length) ++ leBytes 2 (k0.length + k1.length) ++ leBytes 58 0
    ++ (tiles6.flatMap fun t => cellTile (if ts.contains t then new else old) t)
    ++ (c0 ++ c1).flatten ++ (e0 ++ e1).flatten ++ (k0 ++ k1).flatten
/-- The configuration with the sections of an image in force: a full recipe's alone, an amendment's over those in force. -/
def newCfg (old : SMap Bytes) (l : Bytes) : SMap Bytes :=
  (dirOf l).foldl (fun c e =>
    (e.parts l).foldl (fun c p =>
      let v := if e.type == secCells && imgKind l == 2 then mergeCells (look [] old (8 * secCells)) p.2 e.tiles else p.2
      store [] c p.1 v) c) (if imgKind l == 0 then [] else old)

/-- The tick length that a configuration gives, in kc; its boundary length. -/
def Dev.cfgTick (d : Dev) : Nat := let s := d.section_ secTick 0; if s == [] then d.tickLen else tickKc (leAt s 0 1)
def Dev.cfgB (d : Dev) : Nat := let s := d.section_ secTick 0; if s == [] then d.bLen else leAt s 4 4
def Dev.cfgGroup (d : Dev) (t : Nat) : Nat := leAt (d.section_ secTick 0) (8 + t) 1

/-! ## 0x0A FIELD_RANGE -/

def tickRange (s : Bytes) : Option Nat :=
  firstOf [need (decide (leAt s 0 1 ≤ 4)) 0, zeros s 1 3,
    need (within_ (leAt s 4 4) 2500 12500 && leAt s 4 4 % 25 == 0 && decide (leAt s 4 4 * 8 ≤ tickKc (leAt s 0 1))) 4,
    firstOf ((List.range 6).map fun t => need (decide (leAt s (8 + t) 1 ≤ 7)) (8 + t)), zeros s 14 50]
def partitionRange (s : Bytes) (ts : List Nat) : Option Nat :=
  firstOf (ts.zipIdx.map fun p => let o := 16 * p.2
    firstOf [need (leAt s o 1 == p.1) o, need (decide (leAt s (o + 1) 1 ≤ 16)) (o + 1), zeros s (o + 6) 10])
/-- CELLS: R244 to R246. -/
def cellsRange (s : Bytes) : Option Nat :=
  let n := nCells s
  let cs := (List.range n).map (cellDesc s)
  let es := (List.range (nEaxc s)).map (eaxcEntry s)
  let tileRec := fun t => let o := 64 + 64 * t
    if (cs.filter fun c => leAt c 2 1 == t).isEmpty && allZero (cellTile s t) then none else
    firstOf [need (leAt s o 8 % 16384 == 0) o, need (within_ (leAt s (o + 8) 1) 4 12) (o + 8), zeros s (o + 9) 7, need (leAt s (o + 16) 8 % 16384 == 0) (o + 16),
      need (within_ (leAt s (o + 24) 1) 4 12) (o + 24), need (decide (leAt s (o + 25) 2 < 2048)) (o + 25), zeros s (o + 27) 5,
      need (leAt s (o + 32) 8 % 4096 == 0) (o + 32), zeros s (o + 48) 16,
      need (decide ((cs.filter fun c => leAt c 2 1 == t).length ≤ 128)) 0]
  let cell := fun i => let o := 448 + 128 * i; let c := cellDesc s i
    let id := cellId c
    let mine := es.filter fun e => leAt e 2 2 == id
    let ports := fun dir => (mine.filter fun e => leAt e 4 1 == dir).map fun e => leAt e 5 1
    let all := fun (k : Nat) (l : List Nat) => l.length == k && (List.range k).all fun j => l.contains j
    firstOf [need (decide (id < 1024) && (cs.countP fun x => cellId x == id) == 1) o, need (decide (leAt c 2 1 ≤ 5)) (o + 2), need (decide (cellMu c ≤ 3)) (o + 3),
      need (within_ (cellPrb c) 1 273) (o + 4), need (within_ (leAt c 6 1) 1 16 && all (leAt c 6 1) (ports 1)) (o + 6),
      need (within_ (leAt c 7 1) 1 16 && all (leAt c 7 1) (ports 0)) (o + 7),
      need (within_ (leAt c 8 1) 1 16) (o + 8), need (within_ (leAt c 9 1) 1 16) (o + 9), need (decide (leAt c 10 1 ≤ 1)) (o + 10),
      need (decide (leAt c 11 1 < 8) && (ports 2).length == leAt c 11 1 / 4) (o + 11), need (decide (leAt c 12 2 < 1024)) (o + 12),
      need (within_ (leAt c 14 1) 1 64) (o + 14), zeros s (o + 15) 1,
      need (leAt c 16 8 % 16 == 0 && (List.range 15).all fun k => leAt c 16 8 / 16 ^ (k + 1) % 16 == 0 || decide (leAt c 16 8 / 16 ^ k % 16 ≤ leAt c 16 8 / 16 ^ (k + 1) % 16)) (o + 16),
      need (decide (1 ≤ leAt c 46 1) && decide (leAt c 46 1 ≤ 8) && decide (leAt c 44 2 + leAt c 46 1 ≤ nClass s)) (o + 44), need (decide (1 ≤ leAt c 47 1)) (o + 47),
      need (within_ (leAt c 48 2) 1 4096) (o + 48), zeros s (o + 50) 6, zeros s (o + 68) 60]
  let eaxc := fun i => let o := 448 + 128 * n + 16 * i; let e := eaxcEntry s i
    let m := leAt e 7 1 % 16
    let w := leAt e 7 1 / 16
    firstOf [need (es.countP (fun x => leAt x 0 2 == leAt e 0 2 && leAt x 4 1 == leAt e 4 1 && leAt x 6 1 == leAt e 6 1) == 1) o,
      need (cs.any fun c => cellId c == leAt e 2 2) (o + 2), need (decide (leAt e 4 1 ≤ 2)) (o + 4), need (decide (leAt e 6 1 ≤ 15)) (o + 6),
      need ((m == 0 && w == 0) || (m == 1 && (w == 0 || w == 8 || w == 9 || w == 12)) || (m == 3 && w == 8)) (o + 7), need (decide (leAt e 8 1 ≤ 1)) (o + 8), zeros s (o + 9) 7]
  firstOf ([need (decide (n ≤ 768)) 0, need (decide (nEaxc s ≤ 16384)) 2, need (decide (nClass s ≤ 6144)) 4, zeros s 6 58]
    ++ tiles6.map tileRec ++ (List.range n).map cell ++ (List.range (nEaxc s)).map eaxc)
def memoryRange (s : Bytes) : Option Nat :=
  let n := leAt s 0 4
  firstOf ([need (within_ n 1 1024) 0, need (within_ (leAt s 4 4) 1 64) 4]
    ++ ((List.range n).map fun i => let o := 8 + 16 * i
      firstOf [need (leAt s o 8 % 0x200000 == 0) o, need (decide (1 ≤ leAt s (o + 8) 4)) (o + 8), need (decide (leAt s (o + 12) 1 < 64)) (o + 12), need (decide (leAt s (o + 13) 1 ≤ 1)) (o + 13), zeros s (o + 14) 2])
    ++ ((List.range (leAt s 4 4)).map fun i => let o := 8 + 16 * n + 64 * i
      firstOf [need (decide (leAt s o 1 < 64)) o, zeros s (o + 1) 7, zeros s (o + 56) 8]))
/-- SLICES: Tables 17.2 and 17.3, R411. -/
def slicesRange (s : Bytes) (cells : Bool) : Option Nat :=
  let n := leAt s 0 1
  let rec_ := fun i => bytesAt s (64 + 64 * i) 64
  let on := ((List.range n).map rec_).filter fun r => leAt r 2 1 % 2 == 1
  let slice := fun i => let o := 64 + 64 * i; let r := rec_ i
    firstOf [need (decide (leAt r 0 1 < 64) && ((List.range n).countP fun j => leAt (rec_ j) 0 1 == leAt r 0 1) == 1) o, need (leAt r 1 1 == sliceClass (leAt r 0 1)) (o + 1),
      need (decide (leAt r 2 1 ≤ 3)) (o + 2), zeros s (o + 3) 1,
      need (decide (leAt r 4 4 < 2 ^ 20) && (leAt r 2 1 % 2 == 0 || (leAt r 4 4 != 0 && (on.countP fun x => leAt x 4 4 == leAt r 4 4) == 1))) (o + 4),
      firstOf (tiles6.map fun t => need ((List.range n).all fun j => j == i || leAt (rec_ j) (8 + 2 * t) 2 &&& leAt r (8 + 2 * t) 2 == 0) (o + 8 + 2 * t)),
      need (decide (leAt r 20 4 ≤ 1000000)) (o + 20), need (decide (leAt r 26 2 ≤ 4096) && decide (leAt r 24 2 + leAt r 26 2 ≤ 4096)) (o + 24),
      need (leAt r 28 8 % 4096 == 0) (o + 28), need (leAt r 28 8 == 0 || within_ (leAt r 36 1) 6 16) (o + 36), need (decide (leAt r 37 2 < 2048)) (o + 37), zeros s (o + 39) 25]
  let base := 64 + 64 * n
  let tray := fun i => let o := base + 32 * i; let r := bytesAt s o 32
    firstOf [need (decide (leAt r 0 2 < 512) && ((List.range (leAt s 2 2)).countP fun j => leAt s (base + 32 * j) 2 == leAt r 0 2) == 1) o,
      need (leAt r 2 1 != 0 && on.any fun x => leAt x 0 1 == leAt r 2 1) (o + 2), need (decide (leAt r 3 1 ≤ 5)) (o + 3), need (within_ (leAt r 4 1) 4 16) (o + 4),
      need (decide (leAt r 5 1 ≤ 1)) (o + 5), need (decide (leAt r 6 2 < 2048)) (o + 6), need (leAt r 8 8 % 256 == 0) (o + 8), need (leAt r 16 8 % 64 == 0) (o + 16),
      need (leAt r 24 8 % 64 == 0) (o + 24)]
  firstOf ([need (within_ n 1 64 && (!cells || on.any fun x => leAt x 0 1 == 0)) 0, zeros s 1 1, need (decide (leAt s 2 2 ≤ 512)) 2, zeros s 4 60]
    ++ (List.range n).map slice ++ (List.range (leAt s 2 2)).map tray)
/-- PEEL_BINDING: R398. -/
def peelRange (s : Bytes) : Option Nat :=
  firstOf ((List.range 64).map fun n => let o := 8 * n
    let a := leAt s o 2
    let b := leAt s (o + 2) 2
    let sl := leAt s (o + 5) 1
    let ok := fun m => !isSliceMaster m || m % 64 == sl
    firstOf [if leAt s (o + 4) 1 == 1 then need (a == 0 && b == 0) o else need ((a == 0 && b == 0 && sl == 0) || (a != 0 && a != 0xFFFF && b != 0 && b != 0xFFFF && ok a && ok b)) o,
      need (decide (leAt s (o + 4) 1 ≤ 1)) (o + 4), need (decide (sl < 64) || sl == 0xFF) (o + 5), need (decide (leAt s (o + 6) 2 < 2048)) (o + 6)])
/-- A queue entry of Table 14.5, its CLASS at most `cls`. -/
def queueRange (s : Bytes) (o cls : Nat) : Option Nat := firstOf [need (decide (leAt s (o + 16) 1 ≤ cls)) (o + 16), zeros s (o + 17) 7]
/-- A gate list at an offset: header and entries; where it ends (R342, R349). -/
def listRange (s : Bytes) (o ports : Nat) (keep : Nat) : Option Nat :=
  let n := leAt s (o + 2) 2
  firstOf ([need (decide (leAt s o 1 < ports)) o, zeros s (o + 1) 1, need (within_ n 1 256) (o + 2), zeros s (o + 4) 4, need (decide (leAt s (o + 16) 4 < 1000000000)) (o + 16),
    need (leAt s (o + 20) 4 % 4 == 0 && within_ (leAt s (o + 20) 4) 1000 1000000000) (o + 20), zeros s (o + 24) 8]
    ++ (List.range n).map fun e => let q := o + 32 + 8 * e
      firstOf [need (leAt s q 1 &&& keep == keep) q, zeros s (q + 1) 3, need (leAt s (q + 4) 4 % 4 == 0 && within_ (leAt s (q + 4) 4) 4 1000000000) (q + 4)])
/-- The offsets of a section's gate lists. -/
def listOffs (s : Bytes) : Nat → Nat → List Nat
  | 0, _ => []
  | n + 1, o => o :: listOffs s n (o + 32 + 8 * leAt s (o + 2) 2)
/-- Each port with GATES = 1 has exactly one list, and no other port has one; the lists end with the section. -/
def listsRange (s : Bytes) (n base ports keep : Nat) (gates : Nat → Bool) : Option Nat :=
  let os := listOffs s n base
  let end_ := match os.getLast? with | some o => o + 32 + 8 * leAt s (o + 2) 2 | none => base
  firstOf ([need (s.length == end_) base] ++ (os.map fun o => listRange s o ports keep)
    ++ (List.range ports).map fun p => need ((os.countP fun o => leAt s o 1 == p) == (if gates p then 1 else 0)) base)
/-- The port types of Table 14.1: rate code, LANES. -/
def portTypes : List (Nat × Nat) := [(0, 1), (0, 4), (1, 1), (1, 2), (1, 4), (1, 8), (2, 1), (2, 2), (2, 4), (2, 8), (3, 1), (3, 2), (3, 4)]
/-- ETHERNET: R335, R346, R349. -/
def ethRange (s : Bytes) : Option Nat :=
  let at_ := fun p => 64 + 256 * p
  let on := fun p => leAt s (at_ p) 1 == 1
  let lanes := fun p => leAt s (at_ p + 1) 1
  let port := fun p => let o := at_ p
    let cls := fun q => leAt s (o + 64 + 24 * q + 16) 1
    let qs := List.range 8
    firstOf [need (decide (leAt s o 1 ≤ 1)) o, if !on p then none else firstOf [
      need (portTypes.contains (leAt s (p / 8) 1, lanes p) && p % lanes p == 0 && p / 8 == (p + lanes p - 1) / 8
        && (List.range p).all fun r => !on r || decide (r + lanes r ≤ p)) (o + 1),
      need (decide (leAt s (o + 2) 1 < 8)) (o + 2), zeros s (o + 3) 1, need (within_ (leAt s (o + 4) 2) 64 9216) (o + 4), need (within_ (leAt s (o + 6) 2) 1 4094) (o + 6),
      firstOf (qs.map fun q => need (decide (leAt s (o + 8 + q) 1 < 8)) (o + 8 + q)), firstOf ((List.range 5).map fun i => need (decide (leAt s (o + 16 + i) 1 < 8)) (o + 16 + i)),
      zeros s (o + 21) 43, firstOf (qs.map fun q => queueRange s (o + 64 + 24 * q) 2),
      if leAt s (o + 2) 1 % 2 == 0 then none else firstOf [need (decide (leAt s (o + 4) 2 ≤ 2000)) (o + 4),
        firstOf (qs.map fun q => need ((cls q != 2 || q == 7) && (cls q == 0 || leAt s (o + 64 + 24 * q) 4 == 0)
          && (cls q != 1 || (List.range 8).all fun r => cls r != 0 || decide (r < q))) (o + 64 + 24 * q))]]]
  firstOf ([need (decide (leAt s 0 1 ≤ 3)) 0, need (decide (leAt s 1 1 ≤ 3)) 1, zeros s 3 61] ++ (List.range 16).map port
    ++ [listsRange s (leAt s 2 1) 4160 16 0 fun p => on p && leAt s (at_ p + 2) 1 / 4 % 2 == 1])
/-- BRAID: R372, R379, R382, Tables 15.1, 15.8 and 15.10. -/
def braidRange (s : Bytes) (tickNs : Nat) : Option Nat :=
  let nw := leAt s 14 2
  let np := leAt s 16 2
  let at_ := fun b => 64 + 256 * b
  let port := fun b => let o := at_ b
    firstOf [need (decide (leAt s o 1 ≤ 1)) o, need (decide (leAt s (o + 1) 1 ≤ 1)) (o + 1), need (decide (leAt s (o + 2) 2 < 4096)) (o + 2), need (decide (leAt s (o + 4) 1 < 8)) (o + 4),
      zeros s (o + 5) 59, firstOf ((List.range 8).map fun q => firstOf [queueRange s (o + 64 + 24 * q) 0,
        need (decide (q < 6) || leAt s (o + 64 + 24 * q) 4 == 0) (o + 64 + 24 * q)])]
  let win := fun i => let o := 26688 + 32 * i
    firstOf [need (leAt s o 8 % 4096 == 0) o, need (within_ (leAt s (o + 12) 4) 1 1048576 && decide (leAt s (o + 8) 4 + leAt s (o + 12) 4 ≤ 1048576)) (o + 12),
      need (decide (leAt s (o + 16) 1 < 64)) (o + 16), need (decide (leAt s (o + 17) 1 < 8)) (o + 17), need (decide (leAt s (o + 18) 2 ≤ leAt s (o + 20) 2) && decide (leAt s (o + 20) 2 < 4096)) (o + 18),
      need (decide (leAt s (o + 22) 2 + leAt s (o + 24) 1 ≤ 1024)) (o + 22), need (decide (leAt s (o + 25) 1 < 64)) (o + 25), zeros s (o + 26) 6]
  let pb := 26688 + 32 * nw
  let put := fun i => let o := pb + 64 * i
    firstOf [need (decide (leAt s o 2 < 1024) && ((List.range np).countP fun j => leAt s (pb + 64 * j) 2 == leAt s o 2) == 1) o, need (decide (leAt s (o + 2) 1 < 64)) (o + 2),
      need (decide (leAt s (o + 3) 1 < 8)) (o + 3), need (decide (leAt s (o + 4) 1 ≤ 5)) (o + 4), need (decide (leAt s (o + 5) 1 ≤ 5)) (o + 5),
      need (leAt s (o + 8) 4 % 4 == 0 && decide (leAt s (o + 8) 4 < tickNs)) (o + 8), need (decide (1 ≤ leAt s (o + 16) 2) && decide (leAt s (o + 18) 2 < leAt s (o + 16) 2)) (o + 16),
      need (within_ (leAt s (o + 20) 4) 1 1048576) (o + 20), need (leAt s (o + 24) 8 % 64 == 0) (o + 24), need (leAt s (o + 32) 8 % 64 == 0) (o + 32)]
  firstOf ([need (decide (leAt s 0 2 ≤ 4094)) 0, need (decide (leAt s 2 1 ≤ 15)) 2, need (within_ (leAt s 3 1) 1 32) 3, need (decide (1 ≤ leAt s 4 2)) 4, need (within_ (leAt s 6 2) 1 16) 6,
    need (within_ (leAt s 8 2) 1 1024) 8, need (decide (4096 * leAt s 6 2 + leAt s 8 2 ≤ leAt s 10 4)) 10, need (decide (nw ≤ 64)) 14, need (decide (np ≤ 1024)) 16, need (decide (leAt s 18 1 ≤ 8)) 18, zeros s 19 45]
    ++ (List.range 8).map port ++ (List.range nw).map win ++ (List.range np).map put
    ++ [listsRange s (leAt s 18 1) (pb + 64 * np) 8 0xC0 fun b => leAt s (at_ b + 1) 1 == 1])
/-- TIME: R330. -/
def timeRange (s : Bytes) : Option Nat :=
  let port := fun p => let o := 64 + 8 * p
    if leAt s o 1 == 0 then zeros s o 8 else firstOf [need (decide (leAt s o 1 ≤ 2)) o, need (decide (1 ≤ leAt s (o + 1) 1)) (o + 1), need (decide (leAt s (o + 2) 1 ≤ 1)) (o + 2), zeros s (o + 3) 1]
  let pulse := fun k => let o := 192 + 32 * k
    if leAt s o 1 == 0 then zeros s o 32 else firstOf [need (leAt s o 1 == 1) o, need (decide (leAt s (o + 1) 1 ≤ 1)) (o + 1), zeros s (o + 2) 6,
      need (decide (leAt s (o + 8) 8 < 2 ^ 48)) (o + 8), need (decide (leAt s (o + 16) 4 < 1000000000)) (o + 16), zeros s (o + 28) 4]
  let capt := fun k => let o := 320 + 8 * k
    if leAt s o 1 == 0 then zeros s o 8 else firstOf [need (leAt s o 1 == 1) o, need (within_ (leAt s (o + 1) 1) 1 3) (o + 1), zeros s (o + 2) 6]
  firstOf ([need (within_ (leAt s 0 1) 24 43) 0, need (decide (leAt s 1 1 ≤ 2)) 1,
    need (if leAt s 1 1 == 2 then within_ (leAt s 3 1) 6 7 else leAt s 3 1 == 0) 3, need (within_ (leAt s 4 1) 1 40) 4, zeros s 5 3, need (within_ (leAt s 8 4) 1000 100000) 8,
    need (within_ (leAt s 12 4) 100 1000000000) 12, need (within_ (leAt s 16 4) 1 86400) 16, need (within_ (leAt s 20 2) 1 3600) 20, zeros s 22 10]
    ++ ((List.range 4).map fun i => let o := 32 + 2 * i
      firstOf [need (decide (leAt s o 1 ≤ 2)) o, need (if leAt s o 1 == 1 then decide (leAt s (o + 1) 1 ≤ 15) else leAt s (o + 1) 1 == 0) (o + 1)])
    ++ [zeros s 40 24] ++ (List.range 16).map port ++ (List.range 4).map pulse ++ (List.range 4).map capt ++ [zeros s 352 32])
/-- INTEGRITY, one entry: R446 and the proving ranges of R439; `c` is the new configuration. -/
def integRange (c : Dev) (s : Bytes) (ts : List Nat) (scope : Nat) : Option Nat :=
  let rec_ := fun (p : Nat × Nat) => let o := 64 + 32 * p.2
    let t := p.1
    let lo := leAt s (o + 2) 4
    let hi := lo + leAt s (o + 6) 4
    firstOf [need (leAt s o 1 == t) o, need (decide (leAt s (o + 1) 1 < 64) || leAt s (o + 1) 1 == 0xFF) (o + 1),
      need (decide (hi ≤ benchLines) && (List.range 16).all fun i => let r := c.radioRange t i; decide (r.2 ≤ lo) || decide (hi ≤ r.1) || r.1 == r.2 || lo == hi) (o + 2), zeros s (o + 22) 10]
  let pr := fun i => let o := 64 + 32 * ts.length + 64 * i
    let ty := leAt s (o + 2) 1
    firstOf [need (ty == 1 || within_ ty 3 8) (o + 2), need (leAt s (o + 3) 1 ||| scope == scope) (o + 3),
      need ((scopeTiles (leAt s (o + 3) 1)).all fun t => match Config.codeLoaf (c.section_ secRadioCode t) (leAt s (o + 4) 4) with | some (k, u, _) => k == 2 && u == ty | none => false) (o + 4),
      need (decide (1 ≤ leAt s (o + 48) 2)) (o + 48), need (decide (leAt s (o + 50) 2 < leAt s (o + 48) 2)) (o + 50), need (decide (leAt s (o + 54) 1 ≤ 1)) (o + 54), zeros s (o + 55) 9]
  firstOf ([need (decide (leAt s 0 2 ≤ 256)) 0, need (decide (1 ≤ leAt s 10 2)) 10, need (leAt s 12 8 % 4096 == 0) 12, need (leAt s 12 8 == 0 || within_ (leAt s 20 1) 6 16) 20,
    need (decide (leAt s 21 2 < 2048)) 21, zeros s 23 41] ++ ts.zipIdx.map rec_ ++ (List.range (leAt s 0 2)).map pr)
/-- ENERGY: R524. -/
def energyRange (s : Bytes) (ts : List Nat) (len : Nat) : Option Nat :=
  firstOf (ts.zipIdx.map fun p => let o := 512 * p.2
    let n := leAt s (o + 1) 1
    let st := fun i => leAt s (o + 16 + 8 * i) 4
    firstOf ([need (leAt s o 1 == p.1) o, need (within_ n 1 60) (o + 1), zeros s (o + 2) 14, need (st 0 == 0) (o + 16)]
      ++ ((List.range n).map fun i => let q := o + 16 + 8 * i
        firstOf [need (decide (st i < len) && (i == 0 || decide (st (i - 1) < st i))) q, need (decide (leAt s (q + 4) 2 ≤ 300)) (q + 4), zeros s (q + 6) 2])))
/-- The envelope under L = P at an offset, in mW (R525): the cones of every segment of the periodic plan. -/
def envelopeAt (segs : List (Nat × Nat × Nat)) (len x : Nat) : Nat :=
  segs.foldl (fun m (s : Nat × Nat × Nat) =>
    let (a, b, p) := s
    let dist := if a ≤ x && x ≤ b then 0 else min ((a + len - x) % len) ((x + len - b) % len)
    max m (p - 64 * dist)) 0
/-- The limits of R526 on the sum of the tiles' plans. -/
def Dev.energyFault (c : Dev) : Bool :=
  let len := c.cfgTick
  let plans := tiles6.map c.energySegs
  let starts := (plans.flatMap fun s => s.map (·.1)).foldl (fun l x => if l.contains x then l else l.takeWhile (fun y => decide (y < x)) ++ x :: l.dropWhile (fun y => decide (y < x))) []
  let segs := (starts.zip (starts.drop 1 ++ [len])).map fun p => (p.1, p.2, (plans.map fun s => planAt s p.1).sum)
  let env := envelopeAt segs len
  let excess := segs.map fun s => (max (env s.1) s.2.2 - s.2.2, max (env s.2.1) s.2.2 - s.2.2)
  -- 256 times the energy of each segment in mW·kc
  let area := (segs.zip excess).foldl (fun m (q : (Nat × Nat × Nat) × (Nat × Nat)) =>
    let w := q.1.2.1 - q.1.1
    let (a, b) := q.2
    let both := a + b - 64 * w
    m + 256 * w * q.1.2.2 + (2 * a * a + 2 * b * b - both * both)) 0
  segs.any (fun s => decide (s.2.2 > 1650000)) || excess.any (fun e => decide (e.1 > 900000) || decide (e.2 > 900000)) || decide (area > 256 * 1400000 * len)

/-! ## 0x0B PARTITION, 0x0C WINDOW_MAP, 0x0D REFRESH_SHORT -/

/-- Entry e of map m, and the selector of a unit, in a tile's WINDOW_MAPS block (R542). -/
def blkEntry (b : Bytes) (m e : Nat) : Nat := leAt b (64 + 64 * m + 4 * e) 4
def blkSel (b : Bytes) (u : Nat) : Nat := leAt b (4160 + u) 1
/-- The windows of a map of a block. -/
def blkWindows (b : Bytes) (len m : Nat) : List Win := windowsOf len (((List.range 16).map (blkEntry b m)).takeWhile fun e => e / 2 ^ 29 != 0)
/-- The windows of a unit of a tile in a configuration. -/
def Dev.cfgWindows (c : Dev) (t u : Nat) : List Win :=
  let b := c.section_ secWindowMaps t
  if blkSel b u < 64 then blkWindows b c.cfgTick (blkSel b u) else []
/-- The physical core of logical index i under DISABLED_CORE (R15). -/
def physUnder (f i : Nat) : Nat := if i == f then 16 else i
/-- RADIO_CORES names every logical core whose map holds a radio window (R65). -/
def Dev.partitionFault (c : Dev) (t : Nat) : Bool :=
  let p := c.section_ secPartition t
  (List.range 16).any fun i => leAt p 2 2 / 2 ^ i % 2 == 0 && (c.cfgWindows t (0x100 + physUnder (leAt p 1 1) i)).any (·.kind == 1)
/-- The units of Table 02.3 that exist. -/
def mapUnit (u : Nat) : Bool :=
  let n := match u / 0x100 with
    | 1 => 17 | 3 => 32 | 4 => 8 | 5 => 4 | 6 => 2 | 7 => 1 | 8 => 1 | 0x0A => 1 | 0x0B => 32 | 0x0C => 64 | 0x0E => 1 | _ => 0
  decide (u % 0x100 < n)
/-- A map of a block breaks R37 or R40: the byte offset of the entry. -/
def mapFault (b : Bytes) (len bnd m : Nat) : Option Nat :=
  let es := (List.range 16).map (blkEntry b m)
  let live := es.takeWhile fun e => e / 2 ^ 29 != 0
  let o := 64 + 64 * m
  if live.isEmpty then zeros b o 64 else
  firstOf ([need (decide (2 ≤ live.length)) o] ++ (live.zipIdx.map fun p => let e := p.1
      let k := e / 2 ^ 29
      let sub := e / 2 ^ 26 % 8
      need (decide (k ≤ 5) && e / 2 ^ 21 % 32 == 0 && decide (sub ≤ (if k == 1 then 1 else if k == 3 then 4 else 0))
        && (if p.2 == 0 then e % 2 ^ 21 == 0 else decide (live.getD (p.2 - 1) 0 % 2 ^ 21 < e % 2 ^ 21))
        && (k == 4) == (p.2 + 1 == live.length) && (k != 4 || e % 2 ^ 21 == len - bnd)) (o + 4 * p.2))
    ++ [need (decide ((live.countP fun e => e / 2 ^ 29 == 1 && e / 2 ^ 26 % 8 == 1) ≤ 1)) o, zeros b (o + 4 * live.length) (64 - 4 * live.length)])
/-- A selector breaks R38 or R39: DRAM channels need multiples of 25 kc, signal cores and codec engines hold no inference window. -/
def selFault (b : Bytes) (len u : Nat) : Bool :=
  let s := blkSel b u
  let ws := blkWindows b len s
  if s == 0xFF then false else
  !mapUnit u || decide (64 ≤ s) || ws.isEmpty || (u / 0x100 == 0x0C && ws.any fun w => w.start % 25 != 0) || (within_ (u / 0x100) 4 8 && ws.any (·.kind == 2))
/-- A tile's block breaks R37 to R40 or R542. -/
def windowFault (b : Bytes) (t len bnd : Nat) : Option Nat :=
  firstOf ([need (leAt b 0 1 == t) 0, need (decide (leAt b 1 1 ≤ 64)) 1, zeros b 2 62] ++ (List.range 64).map (mapFault b len bnd)
    ++ (List.range 8192).map fun u => need (!selFault b len u) (4160 + u))
/-- The refresh reservation of a channel falls short of Table 02.4 (R44). -/
def Dev.refreshShort (c : Dev) (t : Nat) : Bool :=
  (List.range 64).any fun ch =>
    let ws := (c.cfgWindows t (0xC00 + ch)).filter fun w => w.kind == 3 && w.sub == 0 && decide (400 ≤ w.stop - w.start)
    decide (ws.foldl (fun n w => n + (w.stop - w.start)) 0 * 156250 < 1600 * c.cfgTick)
/-- A scrub pass would take longer than SCRUB_PERIOD (R438). -/
def Dev.scrubSlow (c : Dev) (t : Nat) : Bool :=
  let period := leAt (c.section_ secIntegrity t) 10 2
  (List.range 113).any fun b =>
    let (n, kc) := scrubStep b
    let per := (c.cfgWindows t (scrubUnit b)).foldl (fun m w => if w.kind == 3 && w.sub == 1 then m + (w.stop - w.start) else m) 0 * n / kc
    -- 1.25 × 10^9 kc a second
    per == 0 || decide (ceilDiv (scrubLines b) per * c.cfgTick > period * 1250000000)

/-! ## 0x0E ROUTE (R540, R541) -/

/-- The neighbours of a tile on the mesh. -/
def meshOf (t : Nat) : List Nat := match t with | 0 => [1, 3] | 1 => [0, 2, 4] | 2 => [1, 5] | 3 => [0, 4] | 4 => [1, 3, 5] | _ => [2, 4]
/-- A unit may stand at a crossbar port of a tile (R540). -/
def slotUnit (t u : Nat) : Bool :=
  let i := u % 0x100
  if u ≥ 2 ^ 13 then false else
  match u / 0x100 with
  | 1 => decide (i ≤ 16) | 4 => decide (i ≤ 7) | 5 => decide (i ≤ 3) | 6 => decide (i ≤ 1) | 7 => i == 0 | 8 => i == 0 | 0x0A => i == 0 | 0x0B => decide (i ≤ 31)
  | 0x0C => decide (i ≤ 63) | 0x0F => (meshOf t).contains i
  | 0x14 => t == 1 && i == 0 | 0x15 => t == 4 && i == 0 | 0x16 => decide (i ≤ 7) && [0, 2, 3, 5].getD (i / 2) 6 == t
  | 0x18 => decide (i ≤ 15) && t == (if i < 8 then 1 else 4) | 0x19 => decide (i ≤ 1) && t == (if i == 0 then 1 else 4) | 0x1A => t == 1 && i == 0
  | 0x1B => t == 4 && decide (i ≤ 8) | _ => false
/-- The capacity of a crossbar connection, in units of 64 B/kc. -/
def slotCap (u : Nat) : Nat := if u / 0x100 == 0x0F then 16 else 4
/-- A route record's path: the tiles entered. -/
def routePath (b : Bytes) (o : Nat) : List Nat := (List.range (min 3 (leAt b (o + 3) 1))).map fun h => leAt b (o + 4 + h) 1
/-- A path follows the links from a tile and enters none twice. -/
def pathOk : Nat → List Nat → List Nat → Bool
  | _, _, [] => true
  | t, seen, x :: r => (meshOf t).contains x && !seen.contains x && pathOk x (x :: seen) r
/-- A slot record. -/
structure SlotRec where
  off : Nat
  src : Nat
  dst : Nat
  start : Nat
  width : Nat
  len : Nat
  origin : Nat
  route : Nat
  deriving DecidableEq, Repr
def slotsOf (b : Bytes) : List SlotRec :=
  (List.range (leAt b 4 2)).map fun i => let o := slotOff b + 16 * i
    ⟨o, leAt b o 2, leAt b (o + 2) 2, leAt b (o + 4) 3, leAt b (o + 7) 1, leAt b (o + 8) 3, leAt b (o + 11) 1, leAt b (o + 12) 2⟩
/-- The width of the slots of a list that run at a kc. -/
def widthAt (l : List SlotRec) (x : Nat) : Nat := l.foldl (fun n s => if s.start ≤ x && x < s.start + s.len then n + s.width else n) 0
/-- LANDING_LANES and CTR_LANE of the direction from tile t to tile x, in lanes. -/
def Dev.linkLanes (c : Dev) (t x : Nat) : Nat × Nat :=
  let b := c.section_ secRoutes t
  match (List.range (leAt b 1 1)).find? fun i => leAt b (192 + 8 * i) 1 == x with
  | some i => (leAt b (193 + 8 * i) 1, leAt b (194 + 8 * i) 1)
  | none => (0, 0)
/-- The offset of the route record of an index in a block. -/
def routeAt (b : Bytes) (idx : Nat) : Option Nat := ((List.range (leAt b 2 2)).find? fun i => leAt b (routeOff b + 16 * i) 2 == idx).map fun i => routeOff b + 16 * i
/-- A tile's ROUTES block breaks R540 or R541: the byte offset within the block. -/
def Dev.routeFault (c : Dev) (t : Nat) : Option Nat :=
  let b := c.section_ secRoutes t
  let nl := leAt b 1 1
  let slots := slotsOf b
  let len := c.cfgTick
  let link := fun i => let o := 192 + 8 * i
    firstOf [need ((meshOf t).contains (leAt b o 1) && ((List.range nl).countP fun j => leAt b (192 + 8 * j) 1 == leAt b o 1) == 1) o, need (within_ (leAt b (o + 1) 1) 2 8) (o + 1),
      need (decide (leAt b (o + 2) 1 ≤ 1)) (o + 2), zeros b (o + 3) 5]
  let route := fun i => let o := routeOff b + 16 * i
    let hops := leAt b (o + 3) 1
    let path := routePath b o
    let far := leAt b (o + 2) 1
    firstOf [need (((List.range (leAt b 2 2)).countP fun j => leAt b (routeOff b + 16 * j) 2 == leAt b o 2) == 1) o,
      need (decide (hops ≤ 3) && pathOk t [t] path && (t :: path).getLast? == some far && c.cfgGroup t == c.cfgGroup far) (o + 2),
      need ((List.range (3 - hops)).all fun h => leAt b (o + 4 + hops + h) 1 == 0xFF) (o + 4), need (within_ (leAt b (o + 7) 1) 1 4) (o + 7), zeros b (o + 8) 8,
      need ((t :: path).all fun x => (slotsOf (c.section_ secRoutes x)).any fun s => s.origin == t && s.route == leAt b o 2) o]
  let slot := fun (s : SlotRec) =>
    let ob := c.section_ secRoutes s.origin
    let rate := (routeAt ob s.route).map fun o => leAt ob (o + 7) 1
    let bg := (c.cfgWindows t 0xE00).filter (·.kind == 3)
    let from_ := slots.filter (·.src == s.src)
    let to_ := slots.filter (·.dst == s.dst)
    let lanes := fun (x y : Nat) (l : List SlotRec) => let (a, k) := c.linkLanes x y; decide (widthAt l s.start + a + k ≤ 16)
    firstOf [need (slotUnit t s.src) s.off, need (slotUnit t s.dst) (s.off + 2),
      need (decide (s.start + s.len ≤ len) && bg.all fun w => decide (s.start + s.len ≤ w.start) || decide (w.stop ≤ s.start)) (s.off + 4),
      need (decide (1 ≤ s.width) && decide (s.width ≤ max (slotCap s.src) (slotCap s.dst)) && rate == some s.width) (s.off + 7),
      need (decide (1 ≤ s.len)) (s.off + 8), need (decide (s.origin ≤ 5)) (s.off + 11), zeros b (s.off + 14) 2,
      need (decide (widthAt from_ s.start ≤ slotCap s.src) && decide (widthAt to_ s.start ≤ slotCap s.dst)
        && (s.dst / 0x100 != 0x0F || lanes t (s.dst % 0x100) to_) && (s.src / 0x100 != 0x0F || lanes (s.src % 0x100) t from_)) s.off]
  let fwd := (List.range 16).all fun g =>
    let r := Reg.PROOF_GLOBAL_CFG t g
    let far := c.getF r F.PROOF_GLOBAL_CFG_FWD_TILE
    !c.getB r F.PROOF_GLOBAL_CFG_FWD || (c.cfgGroup t == c.cfgGroup far && !c.getB (Reg.PROOF_GLOBAL_CFG far (c.getF r F.PROOF_GLOBAL_CFG_FWD_G)) F.PROOF_GLOBAL_CFG_FWD
      && ((List.range 6).foldl (fun l _ => l ++ (l.flatMap fun x => (meshOf x).filter fun y => (c.linkLanes x y).2 == 1 && !l.contains y)) [t]).contains far)
  firstOf ([need (leAt b 0 1 == t) 0, need (nl == (meshOf t).length) 1, need (decide (leAt b 2 2 ≤ 4096)) 2, need (decide (leAt b 4 2 ≤ 16384)) 4, zeros b 6 2, need (leAt b 8 4 != 0) 8,
    need (within_ (leAt b 12 1) 1 64) 12, zeros b 13 51] ++ ((List.range 64).map fun ch => firstOf [need (within_ (leAt b (64 + ch) 1) 8 128) (64 + ch),
      need (decide (leAt b (64 + ch) 1 + leAt b (128 + ch) 1 ≤ 128)) (128 + ch)]) ++ (List.range nl).map link ++ (List.range (leAt b 2 2)).map route ++ slots.map slot ++ [need fwd 0])

/-! ## 0x0F RADIO_PROOF, 0x10 NUMEROLOGY, 0x11 QUOTA -/

/-- The worst-case demand of a map: every cell of the tile at its last class (R268). -/
def Dev.worstDemand (c : Dev) (t m : Nat) : Nat :=
  let b := c.section_ secWindowMaps t
  let s := c.section_ secCells 0
  let last := (c.cellsOf t).map fun x => classRec s (leAt x 44 2 + leAt x 46 1 - 1)
  ((List.range 8192).filter fun u => mapUnit u && blkSel b u == m).foldl (fun n u => max n ((last.map fun r => classLen r ((unitId t 0 0).toNat + u)).sum)) 0
/-- A tile's proof summaries fail R67: one for each map with a trimmable radio window, in ascending order. -/
def Dev.proofFault (c : Dev) (t : Nat) : Option Nat :=
  let b := c.section_ secWindowMaps t
  let trim := fun m => (blkWindows b c.cfgTick m).find? fun w => w.kind == 1 && w.sub == 1
  let ms := (List.range 64).filter fun m => (trim m).isSome
  let at_ := fun i => 12352 + 8 * i
  firstOf ([need (leAt b 1 1 == ms.length) 1] ++ ms.zipIdx.map fun p => let o := at_ p.2
    let l := match trim p.1 with | some w => w.stop - w.start | none => 0
    firstOf [need (leAt b o 1 == p.1) o, need (leAt b (o + 1) 1 == t) (o + 1), zeros b (o + 2) 2, need (leAt b (o + 4) 4 == c.worstDemand t p.1 && decide (leAt b (o + 4) 4 ≤ l)) (o + 4)])
/-- The classes of a cell do not rise in every limit and every length (R266). -/
def classFault (s : Bytes) (i : Nat) : Bool :=
  let x := cellDesc s i
  (List.range (leAt x 46 1 - 1)).any fun k =>
    let a := classRec s (leAt x 44 2 + k)
    let b := classRec s (leAt x 44 2 + k + 1)
    let us := (List.range 8).flatMap fun j => [leAt a (16 + 6 * j) 2, leAt b (16 + 6 * j) 2]
    !((List.range 4).all fun j => decide (leAt a (4 * j) 4 ≤ leAt b (4 * j) 4)) || us.any fun u => u != 0xFFFF && decide (classLen b u < classLen a u)
/-- A cell's slot is shorter than the tick (R36). -/
def Dev.muFault (c : Dev) (i : Nat) : Bool := decide (slotU (cellDesc (c.section_ secCells 0) i) < c.cfgTick * kcU)
/-- MEMORY breaks R190. -/
def memoryFault (s : Bytes) : Option Nat :=
  let rs := rangesOf s
  let n := rs.length
  let qs := (List.range (leAt s 4 4)).map fun i => bytesAt s (8 + 16 * n + 64 * i) 64
  let sum := fun o => (qs.map fun q => leAt q o 4).sum
  let pan := fun q t => (leAt q (32 + 4 * t) 2, leAt q (32 + 4 * t) 2 + leAt q (34 + 4 * t) 2)
  let priv := fun sl t => (rs.filter fun r => r.slice == sl && !r.shared).foldl (fun m r => m + (min r.hi ((t + 1) * 2 ^ 37) - max r.lo (t * 2 ^ 37)) / 4096) 0
  let reserve := tiles6.map fun t => (reserveBase t, (t + 1) * 2 ^ 37)
  let qo := fun (i : Nat) => 8 + 16 * n + 64 * i
  firstOf ([need (disjoint (rs.map (fun r => (r.lo, r.hi)) ++ reserve) && rs.all (fun r => decide (r.hi ≤ dramSize))) 8, need (rs.all fun r => r.slice != 0 || !r.shared) 8,
    need (decide (sum 8 ≤ 49152)) (qo 0 + 8), need (decide (sum 12 ≤ 16384)) (qo 0 + 12), need (distinct (qs.map fun q => leAt q 0 1)) (qo 0)]
    ++ (tiles6.map fun t => need (disjoint ((qs.map fun q => pan q t).filter fun p => decide (p.1 < p.2))) (qo 0 + 32 + 4 * t))
    ++ qs.zipIdx.map fun p => let q := p.1
      firstOf (tiles6.map fun t => firstOf [need (decide (leAt q 12 4 ≤ leAt q (34 + 4 * t) 2)) (qo p.2 + 12), need (decide (leAt q 16 4 ≤ priv (leAt q 0 1) t)) (qo p.2 + 16),
        need (decide ((pan q t).2 ≤ 16384)) (qo p.2 + 32 + 4 * t)]))
/-- The Braid windows break R353. -/
def Dev.windowQuota (c : Dev) : Option Nat :=
  let s := c.section_ secBraid 0
  let ws := (List.range (leAt s 14 2)).map fun i => bytesAt s (26688 + 32 * i) 32
  let lo := fun w => leAt w 8 4
  let n := fun w => leAt w 12 4
  firstOf ([need (disjoint (ws.map fun w => (leAt w 0 8, leAt w 0 8 + 192 * n w * 4096)) && disjoint (ws.map fun w => (lo w, lo w + n w))) 26688]
    ++ ws.zipIdx.map fun p => need ((List.range 192).all fun k =>
      let a := k / 32 * 2 ^ 37 + k % 32 * 2 ^ 32 + lo p.1 * 4096
      c.inPrivate (leAt p.1 16 1) a (a + n p.1 * 4096)) (26688 + 32 * p.2 + 8))

end Sys2Proof.Machine
end

