-- ==== Sys2Proof/Machine/SigCore.lean ====
section
/-! DEFINITION. SigCore: the signal cores (chapter 11): issue of a bundle slot by slot, results in flight, loops with the
rotating region, interrupts, transfers and stops. A bundle's SB slot issues first and fixes the kc of the bundle; V0, V1 and LS
issue with it (log entry 18). -/
namespace Sys2Proof.Machine

def SigBank.init : SigBank := ⟨[], [], 0, []⟩
def SigCoreState.init : SigCoreState :=
  ⟨false, 0, 0, 0, 0, 0, 0, 0, SigBank.init, SigBank.init, false, 0, 0, none, none, [], [], [], [], 0, .none, 0, false, false, [], none, false⟩
def Dev.sg (d : Dev) (t i : Nat) : SigCoreState := look SigCoreState.init d.sig (8 * t + i)
def Dev.setSg (d : Dev) (t i : Nat) (c : SigCoreState) : Dev := { d with sig := store SigCoreState.init d.sig (8 * t + i) c }
def Dev.modSg (d : Dev) (t i : Nat) (f : SigCoreState → SigCoreState) : Dev := d.setSg t i (f (d.sg t i))
/-- The unit identifier of a signal core, and its unit number on its tile. -/
def sigUnit (t i : Nat) : BitVec 16 := unitId t 0x04 i
def sigUnit13 (i : Nat) : Nat := 0x400 + i
/-- Its counters: 24 of its own, and slice 0's tile-global ones (R285). -/
def sigCtx (i : Nat) : Ctx := ⟨0, 0, 0, 816 + 24 * i, 24, 0xFFFF⟩

def Dev.sigState (d : Dev) (t i st : Nat) : Dev := d.setF (Reg.SIG_STATUS t i) F.SIG_STATUS_STATE st
/-- PC, LOCAL and ROT_OFS follow the core. -/
def Dev.sigSync (d : Dev) (t i : Nat) : Dev :=
  let c := d.sg t i
  d.setFs (Reg.SIG_STATUS t i) [(F.SIG_STATUS_PC, c.pc), (F.SIG_STATUS_LOCAL, (d.tile t).lk - c.start),
    (F.SIG_STATUS_ROT_OFS, if c.inShadow then c.shadow.rot else c.main.rot)]

/-! ## Registers (R278, R279) -/

def SigCoreState.bank (c : SigCoreState) : SigBank := if c.inShadow then c.shadow else c.main
def SigCoreState.modBank (c : SigCoreState) (f : SigBank → SigBank) : SigCoreState :=
  if c.inShadow then { c with shadow := f c.shadow } else { c with main := f c.main }
/-- X0 reads as zero. -/
def SigCoreState.rx (c : SigCoreState) (n : BitVec 6) : BitVec 32 := if n == 0#6 then 0#32 else look 0#32 c.bank.x n.toNat
/-- The physical number of a vector register under the bank's rotation. -/
def SigCoreState.phys (c : SigCoreState) (n : BitVec 6) : Nat := if n.toNat < 32 then n.toNat else 32 + (n.toNat - 32 + c.bank.rot) % 32
def zeroV : List (BitVec 32) := List.replicate 32 0#32
def zeroAc : List (BitVec 80) := List.replicate 32 0#80
def SigCoreState.rv (c : SigCoreState) (n : BitVec 6) : List (BitVec 32) := look zeroV c.v (c.phys n)
def SigCoreState.rac (c : SigCoreState) (n : BitVec 6) : List (BitVec 80) := look zeroAc c.ac n.toNat

/-- A complex value of two signed parts of w bits, the real part low (R94). -/
def parts (w v : Nat) : Int × Int := (codeInt w (v % 2 ^ w), codeInt w (v / 2 ^ w % 2 ^ w))
def unparts (w : Nat) (p : Int × Int) : Nat := intCode w p.1 + intCode w p.2 * 2 ^ w

/-! ## Results in flight (R276) -/

/-- A result lands. -/
def SigCoreState.put (c : SigCoreState) (f : SigFlight) : SigCoreState :=
  match f.dst with
  | .v n => { c with v := store zeroV c.v n (f.val.map (BitVec.ofNat 32)) }
  | .ac n => { c with ac := store zeroAc c.ac n (f.val.map (BitVec.ofNat 80)) }
  | .x sh n =>
    if n == 0 then c else
    let w := BitVec.ofNat 32 (f.val.headD 0)
    if sh then { c with shadow := { c.shadow with x := store 0#32 c.shadow.x n w } } else { c with main := { c.main with x := store 0#32 c.main.x n w } }
  | .mask => { c with mask := f.val.headD 0 % 8 }
/-- Results in the order in which they land: by kc, then the later issued last, then the later slot last. -/
def insertFlight (f : SigFlight) : List SigFlight → List SigFlight
  | [] => [f]
  | g :: r => if f.land < g.land || (f.land == g.land && (f.issued < g.issued || (f.issued == g.issued && f.rank < g.rank))) then f :: g :: r else g :: insertFlight f r
/-- Every result that lands before local kc `now` stands in its register. -/
def SigCoreState.settleTo (c : SigCoreState) (now : Nat) : SigCoreState :=
  let due := c.flight.takeWhile fun f => decide (f.land < now)
  due.foldl (fun c f => c.put f) { c with flight := c.flight.drop due.length }
/-- An operation of the bundle sends a result off. -/
def SigCoreState.result (c : SigCoreState) (rank lat : Nat) (dst : SigDst) (val : List Nat) : SigCoreState :=
  { c with flight := insertFlight ⟨c.at_ + lat - 1, c.at_, rank, dst, val⟩ c.flight }

/-! ## Ends of loaves (R289, R290) -/

/-- A loaf ends, with the cause of Table 10.11 when it is discarded: nothing of the core's registers, queues, pending bits and armed sources is kept. -/
def Dev.sigEnd (d : Dev) (t i outcome reason : Nat) : Dev :=
  let c := d.sg t i
  let d := (d.setSg t i SigCoreState.init).setFs (Reg.SIG_STATUS t i) [(F.SIG_STATUS_STATE, if outcome == 0 then 0 else 5), (F.SIG_STATUS_PENDING, 0)]
  let d := d.dropWaits t (sigUnit t i)
  d.loafDone t ⟨BitVec.ofNat 13 (sigUnit13 i), c.id, 0, 0xFFFF, outcome, reason⟩
/-- A check of Table 11.3 fails: the loaf ends in that kc, with a capture and event 0x6010. -/
def Dev.sigFail (d : Dev) (t i slot reason xr : Nat) : Dev :=
  let c := d.sg t i
  let d := d.capture (Reg.SIG_ERROR t i) F.SIG_ERROR_VALID F.SIG_ERROR_MORE
    [(F.SIG_ERROR_REASON, reason), (F.SIG_ERROR_PC, c.pc), (F.SIG_ERROR_LOAF, c.id), (F.SIG_ERROR_XFER_REASON, xr)]
  (d.raise 0x6010 0 (sigUnit t i) c.id (reason + c.pc % 2 ^ 16 * 2 ^ 8 + slot * 2 ^ 24 + xr * 2 ^ 32)).sigEnd t i 2 1

/-- SIG_LOAF_START: the placed loaf of a 16-byte record starts at ENTRY, every register zero; without room for it the placement is
refused with event 0x1005 (R42, R278, R289). -/
def sigLoafStartEffect (t i : Nat) (rec : Bytes) (d : Dev) : Dev :=
  let id := leAt rec 0 4
  let kind := leAt rec 4 1
  let entry := leAt rec 6 2
  let len := leAt rec 8 4
  if (d.sg t i).busy || d.paused t then d else
  let room := if kind == 1 || kind == 2 then d.spaceFor t (sigUnit13 i) kind else 0
  if room < len || len == 0 then d.raise 0x1005 0 (stewardOf t) id (len + room * 2 ^ 32) else
  let lk := (d.tile t).lk
  let d := d.setSg t i { SigCoreState.init with
    busy := true, id := id, kind := kind, length := len, lo := leAt rec 12 2, hi := leAt rec 14 2, start := lk, pc := entry, nextAt := lk }
  let d := (((d.proveStart t (sigUnit13 i) kind).setF (Reg.SIG_LOAF t i) F.SIG_LOAF_LOAF id).sigState t i 1).sigSync t i
  if entry > 4095 then d.sigFail t i 3 6 0 else d
def execSigLoafStart (t : Tile) (i : SigIx) (rec : Bytes) (s : State) : Host.Outcome State Fault Refusal := ran s (sigLoafStartEffect t i rec)

/-- SIG_LOAF_COMPLETE: END has issued, every result has landed and every transfer completed (R289). -/
def sigLoafCompleteEffect (t i : Nat) (d : Dev) : Dev :=
  let c := d.sg t i
  if !c.busy || !c.ended || !c.xferQ.isEmpty || c.xferRun.isSome || d.paused t then d else
  let last := c.flight.foldl (fun m f => max m (f.land + 1)) c.nextAt
  let d := (d.advance (last - (d.tile t).lk)).sigSync t i
  (d.count (Reg.SIG_LOAF_COUNT t i) F.SIG_LOAF_COUNT_COUNT 1).sigEnd t i 0 0
def execSigLoafComplete (t : Tile) (i : SigIx) (s : State) : Host.Outcome State Fault Refusal := ran s (sigLoafCompleteEffect t i)

/-- SIG_RESULT_LAND: time moves to the end of the kc in which the earliest result in flight lands. -/
def sigResultLandEffect (t i : Nat) (d : Dev) : Dev :=
  let c := d.sg t i
  match c.flight with
  | [] => d
  | f :: _ =>
    if !c.slots.isEmpty || d.paused t then d else
    let d := d.advance (f.land + 1 - (d.tile t).lk)
    (d.modSg t i fun c => c.settleTo (f.land + 1)).sigSync t i
def execSigResultLand (t : Tile) (i : SigIx) (s : State) : Host.Outcome State Fault Refusal := ran s (sigResultLandEffect t i)

/-! ## Interrupt sources (R286) -/

def Dev.sigPend (d : Dev) (t i k : Nat) : Dev :=
  let r := Reg.SIG_STATUS t i
  let m := d.getF r F.SIG_STATUS_PENDING
  d.setF r F.SIG_STATUS_PENDING (if m / 2 ^ k % 2 == 1 then m else m + 2 ^ k)
/-- The TIMER source fires when local time has reached the armed value. -/
def Dev.sigTimer (d : Dev) (t i : Nat) : Dev :=
  let c := d.sg t i
  match c.timer with
  | some x => if (d.tile t).lk - c.start ≥ x then (d.modSg t i fun c => { c with timer := none }).sigPend t i 0 else d
  | none => d
/-- The COUNTER source fires when its counter has reached the armed value; nothing is consumed. -/
def Dev.sigCounter (d : Dev) (t i : Nat) : Dev :=
  match (d.sg t i).armed with
  | some (c, v) => if d.ctrState t c == 1 && decide (d.ctrValue t c ≥ v) then (d.modSg t i fun c => { c with armed := none }).sigPend t i 1 else d
  | none => d

/-- SIG_TIMER_FIRE: time moves to the armed local time, and the source's pending bit is set. -/
def sigTimerFireEffect (t i : Nat) (d : Dev) : Dev :=
  let c := d.sg t i
  match c.timer with
  | none => d
  | some x => if d.paused t then d else ((d.advance (c.start + x - (d.tile t).lk)).sigTimer t i).sigSync t i
def execSigTimerFire (t : Tile) (i : SigIx) (s : State) : Host.Outcome State Fault Refusal := ran s (sigTimerFireEffect t i)
/-- SIG_COUNTER_FIRE: the armed counter has reached its value. -/
def sigCounterFireEffect (t i : Nat) (d : Dev) : Dev := if d.paused t then d else d.sigCounter t i
def execSigCounterFire (t : Tile) (i : SigIx) (s : State) : Host.Outcome State Fault Refusal := ran s (sigCounterFireEffect t i)

/-! ## Issue of a bundle (R276, R277, R284, R286, R287) -/

/-- The loops after the bundle at `pc`: passes left, the next bundle, what ended passes add to the rotation. -/
def sigLoopEnd (pc : Nat) : List SigLoop → Nat → List SigLoop × Nat × Nat
  | [], next => ([], next, 0)
  | f :: r, next =>
    if pc != f.last then (f :: r, next, 0)
    else if f.left > 1 then ({ f with left := f.left - 1 } :: r, f.first, f.stride)
    else let (l, n, s) := sigLoopEnd pc r next; (l, n, f.stride + s)

/-- The bundle has issued in all four slots: loops, branches whose delay is over, and the end of a handler take effect. -/
def SigCoreState.closeBundle (c : SigCoreState) : SigCoreState :=
  let b := c.bank
  let (loops, next, turn) := sigLoopEnd c.pc b.loops (match c.act with | .skip n => c.pc + 1 + n | _ => c.pc + 1)
  let waits := b.branches.map fun x => (x.1, x.2 - 1)
  let next := match waits.find? (·.2 == 0) with | some x => x.1 | none => next
  let branches := waits.filter (fun x => x.2 != 0) ++ (match c.act with | .branch x => [(x, 2)] | _ => [])
  let (loops, rot) := match c.act with
    | .loop f => (f :: loops, if f.stride != 0 then 0 else b.rot)
    | _ => (loops, (b.rot + turn) % 32)
  let c := c.modBank fun _ => { b with loops := loops, rot := rot, branches := branches }
  { c with slots := [], act := .none, nextAt := c.at_ + 1, pc := next, ended := c.ended || c.act == .end_, back := false }

/-- A handler ends: the primary bank, and the interrupted bundle four kc later (R287). -/
def SigCoreState.leave (c : SigCoreState) : SigCoreState := { c with inShadow := false, pc := c.resume, nextAt := c.at_ + 4, back := true }

/-- What came of a slot's issue: a failed check, no issue yet, or issued. -/
inductive SigOut where
  | fail (reason xr : Nat)
  | stay (d : Dev)
  | done (d : Dev)

/-- A slot has issued; the bundle ends with its fourth. -/
def Dev.sigSlotDone (d : Dev) (t i rank : Nat) : Dev :=
  let c := d.sg t i
  let slots := c.slots ++ [rank]
  if slots.length < 4 then d.setSg t i { c with slots := slots } else
  let back := c.act == .reti && c.inShadow
  let c' := c.closeBundle
  let c' := if back then c'.leave else c'
  let d := (d.setSg t i c').sigSync t i
  if back then d.sigState t i 1 else d

/-- A bundle comes to issue: time moves to the first free issue kc, results due stand in their registers, sources that are due fire. -/
def Dev.sigOpen (d : Dev) (t i : Nat) : Dev :=
  let d := d.advance ((d.sg t i).nextAt - (d.tile t).lk)
  let lk := (d.tile t).lk
  (((d.modSg t i fun c => { c.settleTo lk with at_ := lk, act := .none }).sigTimer t i).sigCounter t i).sigSync t i

/-- One slot of the bundle at PC. SB comes first and fixes the kc of the bundle. `bad` says that the word is reserved or sets an unused
field. -/
def Dev.sigSlot (d : Dev) (t i rank : Nat) (bad : Bool) (body : Dev → SigOut) : Dev :=
  let c := d.sg t i
  if !c.busy || c.ended || c.waiting || d.paused t || c.slots.contains rank || (rank != 3 && !c.slots.contains 3) then d else
  let d := if rank == 3 then d.sigOpen t i else d
  if rank == 3 && decide (c.pc > 4095) then d.sigFail t i rank 6 0
  else if bad then d.sigFail t i rank 1 0
  else match body d with
    | .fail r xr => d.sigFail t i rank r xr
    | .stay d => d
    | .done d => d.sigSlotDone t i rank

/-- The rank of a slot. -/
def slotRank : SlotSel → Nat
  | .v0 => 0 | .v1 => 1 | .ls => 2 | .sb => 3
def vslotRank : VSlot → Nat
  | .v0 => 0 | .v1 => 1

/-- OP 0: no operation in any slot. -/
def sigNopEffect (t i : Nat) (slot : SlotSel) (f : SFields) (d : Dev) : Dev :=
  d.sigSlot t i (slotRank slot) (f != ⟨0, 0, 0, 0⟩) .done
def execSigNop (t : Tile) (i : SigIx) (slot : SlotSel) (f : SFields) (s : State) : Host.Outcome State Fault Refusal := ran s (sigNopEffect t i slot f)

/-! ## Vector MAC slots (R282, R283) -/

/-- Saturated components count (R283); event 0x6012 when the counter's overflow bit rises. -/
def Dev.sigSat (d : Dev) (t i n : Nat) : Dev :=
  let r := Reg.SIG_SATURATE_COUNT t i
  let was := d.getB r F.SIG_SATURATE_COUNT_OVF
  let d := d.count r F.SIG_SATURATE_COUNT_COUNT n
  if !was && d.getB r F.SIG_SATURATE_COUNT_OVF then d.raise 0x6012 0 (sigUnit t i) 0x18 0 else d
/-- Both parts of a value saturated to w bits, and how many did. -/
def satParts (w : Nat) (p : Int × Int) : (Int × Int) × Nat :=
  let a := saturate (-(2 ^ (w - 1))) (2 ^ (w - 1) - 1) p.1
  let b := saturate (-(2 ^ (w - 1))) (2 ^ (w - 1) - 1) p.2
  ((a.1, b.1), (if a.2 then 1 else 0) + if b.2 then 1 else 0)

/-- A vector operation: reason 2 in a handler; lane results with their saturations go to a destination. -/
def Dev.sigVec (d : Dev) (t i : Nat) (slot : VSlot) (bad : Bool) (lat : Nat) (dst : SigCoreState → SigDst)
    (lane : SigCoreState → Nat → Nat × Nat) : Dev :=
  d.sigSlot t i (vslotRank slot) bad fun d =>
    let c := d.sg t i
    if c.inShadow then .fail 2 0 else
    let rs := (List.range 32).map (lane c)
    .done ((d.modSg t i fun c => c.result (vslotRank slot) lat (dst c) (rs.map (·.1))).sigSat t i (rs.map (·.2)).sum)

def lane32 (l : List (BitVec 32)) (j : Nat) : Int × Int := parts 16 (l.getD j 0#32).toNat
def lane80 (l : List (BitVec 80)) (j : Nat) : Int × Int := parts 40 (l.getD j 0#80).toNat
/-- The product of two complex values, the second conjugated or not. -/
def cprod (conj : Bool) (a b : Int × Int) : Int × Int :=
  if conj then (a.1 * b.1 + a.2 * b.2, a.2 * b.1 - a.1 * b.2) else (a.1 * b.1 - a.2 * b.2, a.1 * b.2 + a.2 * b.1)
/-- CMUL and its relatives: an exact product, added to the accumulator or not, saturated at 40 bits. -/
def Dev.sigMac (d : Dev) (t i : Nat) (slot : VSlot) (f : SFields) (conj acc : Bool) : Dev :=
  d.sigVec t i slot (decide (f.d.toNat > 15) || f.x != 0#8) 3 (fun _ => .ac f.d.toNat) fun c j =>
    let p := cprod conj (lane32 (c.rv f.a) j) (lane32 (c.rv f.b) j)
    let o := if acc then lane80 (c.rac f.d) j else (0, 0)
    let (v, n) := satParts 40 (o.1 + p.1, o.2 + p.2)
    (unparts 40 v, n)
def cmulEffect (t i : Nat) (slot : VSlot) (f : SFields) (d : Dev) : Dev := d.sigMac t i slot f false false
def cmacEffect (t i : Nat) (slot : VSlot) (f : SFields) (d : Dev) : Dev := d.sigMac t i slot f false true
def cmuljEffect (t i : Nat) (slot : VSlot) (f : SFields) (d : Dev) : Dev := d.sigMac t i slot f true false
def cmacjEffect (t i : Nat) (slot : VSlot) (f : SFields) (d : Dev) : Dev := d.sigMac t i slot f true true
def execCmul (t : Tile) (i : SigIx) (slot : VSlot) (f : SFields) (s : State) : Host.Outcome State Fault Refusal := ran s (cmulEffect t i slot f)
def execCmac (t : Tile) (i : SigIx) (slot : VSlot) (f : SFields) (s : State) : Host.Outcome State Fault Refusal := ran s (cmacEffect t i slot f)
def execCmulj (t : Tile) (i : SigIx) (slot : VSlot) (f : SFields) (s : State) : Host.Outcome State Fault Refusal := ran s (cmuljEffect t i slot f)
def execCmacj (t : Tile) (i : SigIx) (slot : VSlot) (f : SFields) (s : State) : Host.Outcome State Fault Refusal := ran s (cmacjEffect t i slot f)

/-- A vector operation into V[D] whose lanes saturate to Q1.15. -/
def Dev.sigQ15 (d : Dev) (t i : Nat) (slot : VSlot) (f : SFields) (bad : Bool) (lat : Nat) (lane : SigCoreState → Nat → Int × Int) : Dev :=
  d.sigVec t i slot bad lat (fun c => .v (c.phys f.d)) fun c j => let (v, n) := satParts 16 (lane c j); (unparts 16 v, n)

/-- VADD and VSUB: X[0] tells them apart, X[7:1] is zero. -/
def sigVaddEffect (t i : Nat) (slot : VSlot) (f : SFields) (d : Dev) : Dev :=
  d.sigQ15 t i slot f (f.x.toNat / 2 != 0) 1 fun c j => let a := lane32 (c.rv f.a) j; let b := lane32 (c.rv f.b) j; (a.1 + b.1, a.2 + b.2)
def execSigVadd (t : Tile) (i : SigIx) (slot : VSlot) (f : SFields) (s : State) : Host.Outcome State Fault Refusal := ran s (sigVaddEffect t i slot f)
def sigVsubEffect (t i : Nat) (slot : VSlot) (f : SFields) (d : Dev) : Dev :=
  d.sigQ15 t i slot f (f.x.toNat / 2 != 0) 1 fun c j => let a := lane32 (c.rv f.a) j; let b := lane32 (c.rv f.b) j; (a.1 - b.1, a.2 - b.2)
def execSigVsub (t : Tile) (i : SigIx) (slot : VSlot) (f : SFields) (s : State) : Host.Outcome State Fault Refusal := ran s (sigVsubEffect t i slot f)
/-- VNARROW: convergent rounding by s = X[4:0], then Q1.15. -/
def vnarrowEffect (t i : Nat) (slot : VSlot) (f : SFields) (d : Dev) : Dev :=
  d.sigQ15 t i slot f (decide (f.a.toNat > 15) || f.b != 0#6 || f.x.toNat / 32 != 0) 2 fun c j =>
    let v := lane80 (c.rac f.a) j
    (convergent v.1 (f.x.toNat % 32), convergent v.2 (f.x.toNat % 32))
def execVnarrow (t : Tile) (i : SigIx) (slot : VSlot) (f : SFields) (s : State) : Host.Outcome State Fault Refusal := ran s (vnarrowEffect t i slot f)
/-- VWIDEN: V[A] × 2^15 into an accumulator. -/
def vwidenEffect (t i : Nat) (slot : VSlot) (f : SFields) (d : Dev) : Dev :=
  d.sigVec t i slot (decide (f.d.toNat > 15) || f.b != 0#6 || f.x != 0#8) 2 (fun _ => .ac f.d.toNat) fun c j =>
    let v := lane32 (c.rv f.a) j
    (unparts 40 (v.1 * 2 ^ 15, v.2 * 2 ^ 15), 0)
def execVwiden (t : Tile) (i : SigIx) (slot : VSlot) (f : SFields) (s : State) : Host.Outcome State Fault Refusal := ran s (vwidenEffect t i slot f)
/-- VSHLV: both components left by bits [3:0] of the real part of V[B], saturating. -/
def vshlvEffect (t i : Nat) (slot : VSlot) (f : SFields) (d : Dev) : Dev :=
  d.sigQ15 t i slot f (f.x != 0#8) 1 fun c j =>
    let v := lane32 (c.rv f.a) j
    let s := ((c.rv f.b).getD j 0#32).toNat % 16
    (v.1 * 2 ^ s, v.2 * 2 ^ s)
def execVshlv (t : Tile) (i : SigIx) (slot : VSlot) (f : SFields) (s : State) : Host.Outcome State Fault Refusal := ran s (vshlvEffect t i slot f)
/-- VUNPK: signed fields of w = X[4:0] bits, bit 0 of the bytes of V[A] then V[B] first (log entry 18). -/
def vunpkEffect (t i : Nat) (slot : VSlot) (f : SFields) (d : Dev) : Dev :=
  let w := f.x.toNat % 32
  d.sigQ15 t i slot f (f.x.toNat / 32 != 0 || decide (w < 8) || decide (w > 16)) 2 fun c j =>
    let big := ((c.rv f.a) ++ (c.rv f.b)).foldr (fun (x : BitVec 32) n => x.toNat + 2 ^ 32 * n) 0
    (codeInt w (big / 2 ^ (2 * j * w) % 2 ^ w), codeInt w (big / 2 ^ ((2 * j + 1) * w) % 2 ^ w))
def execVunpk (t : Tile) (i : SigIx) (slot : VSlot) (f : SFields) (s : State) : Host.Outcome State Fault Refusal := ran s (vunpkEffect t i slot f)
/-- VPERM: lane i is the lane of V[A] that the real part of V[B] names. -/
def vpermEffect (t i : Nat) (slot : VSlot) (f : SFields) (d : Dev) : Dev :=
  d.sigQ15 t i slot f (f.x != 0#8) 2 fun c j => lane32 (c.rv f.a) (((c.rv f.b).getD j 0#32).toNat % 32)
def execVperm (t : Tile) (i : SigIx) (slot : VSlot) (f : SFields) (s : State) : Host.Outcome State Fault Refusal := ran s (vpermEffect t i slot f)

/-! ## Data memory (R280, R282, R289) -/

/-- n bytes at a data-memory address lie in the loaf's rows. -/
def SigCoreState.holds (c : SigCoreState) (a n : Nat) : Bool := decide (c.lo * 128 ≤ a) && decide (a + n ≤ c.hi * 128) && decide (a + n ≤ 0x100000)
/-- A read of the LS slot that meets a bad line ends the loaf with reason 8 (R290, Table 18.1). -/
def Dev.sigRead (d : Dev) (t i a n : Nat) (k : Bytes → Dev → SigOut) : SigOut :=
  match d.firstBad (dmemAt t i a) n with
  | some ln => .stay ((d.unresolved ln 5 6 0).sigFail t i 2 8 0)
  | none => k (d.bytes (dmemAt t i a) n) d
/-- A post-increment by X × 128, with latency 1. -/
def SigCoreState.postInc (c : SigCoreState) (f : SFields) : SigCoreState :=
  c.result 2 1 (.x c.inShadow f.a.toNat) [((c.rx f.a).toNat + f.x.toNat * 128) % 2 ^ 32]

/-- VLD: the row at X[A]. -/
def sigVldEffect (t i : Nat) (f : SFields) (d : Dev) : Dev :=
  d.sigSlot t i 2 (f.b != 0#6 || decide (f.a.toNat > 31)) fun d =>
    let c := d.sg t i
    let a := (c.rx f.a).toNat
    if c.inShadow then .fail 2 0 else if a % 128 != 0 || !c.holds a 128 then .fail 3 0 else
    d.sigRead t i a 128 fun l d => .done (d.modSg t i fun c =>
      (c.result 2 4 (.v (c.phys f.d)) ((List.range 32).map fun j => leAt l (4 * j) 4)).postInc f)
def execSigVld (t : Tile) (i : SigIx) (f : SFields) (s : State) : Host.Outcome State Fault Refusal := ran s (sigVldEffect t i f)
/-- VST: V[B] to the row at X[A]. -/
def sigVstEffect (t i : Nat) (f : SFields) (d : Dev) : Dev :=
  d.sigSlot t i 2 (f.d != 0#6 || decide (f.a.toNat > 31)) fun d =>
    let c := d.sg t i
    let a := (c.rx f.a).toNat
    if c.inShadow then .fail 2 0 else if a % 128 != 0 || !c.holds a 128 then .fail 3 0 else
    .done ((d.write (dmemAt t i a) ((c.rv f.b).flatMap fun x => leBytes 4 x.toNat)).modSg t i fun c => c.postInc f)
def execSigVst (t : Tile) (i : SigIx) (f : SFields) (s : State) : Host.Outcome State Fault Refusal := ran s (sigVstEffect t i f)
/-- SLD: the word at X[A] + 4 × X. -/
def sldEffect (t i : Nat) (f : SFields) (d : Dev) : Dev :=
  d.sigSlot t i 2 (f.b != 0#6 || decide (f.a.toNat > 31) || decide (f.d.toNat > 31)) fun d =>
    let c := d.sg t i
    let a := (c.rx f.a).toNat + 4 * f.x.toNat
    if a % 4 != 0 || !c.holds a 4 then .fail 3 0 else
    d.sigRead t i a 4 fun l d => .done (d.modSg t i fun c => c.result 2 3 (.x c.inShadow f.d.toNat) [leAt l 0 4])
def execSld (t : Tile) (i : SigIx) (f : SFields) (s : State) : Host.Outcome State Fault Refusal := ran s (sldEffect t i f)
/-- SST: X[B] to the word at X[A] + 4 × X. -/
def sstEffect (t i : Nat) (f : SFields) (d : Dev) : Dev :=
  d.sigSlot t i 2 (f.d != 0#6 || decide (f.a.toNat > 31) || decide (f.b.toNat > 31)) fun d =>
    let c := d.sg t i
    let a := (c.rx f.a).toNat + 4 * f.x.toNat
    if a % 4 != 0 || !c.holds a 4 then .fail 3 0 else .done (d.write (dmemAt t i a) (leBytes 4 (c.rx f.b).toNat))
def execSst (t : Tile) (i : SigIx) (f : SFields) (s : State) : Host.Outcome State Fault Refusal := ran s (sstEffect t i f)

/-! ## Transfers (R281) -/

/-- One side of a transfer lies in its space: data-memory lines of the loaf's rows, lines of a bench, the pantry region or the DRAM
ranges of slice 0. -/
def Dev.xferSideOk (d : Dev) (t : Nat) (c : SigCoreState) (r : DmaDesc) (space a stride : Nat) : Bool :=
  if r.rows == 0 || r.rowLines == 0 then true
  else match space with
    | 0 => c.holds (a * 64) (r.extent stride * 64)
    | 4 => decide (a + r.extent stride ≤ benchLines) && (d.physOf t (r.route % 16)).isSome
    | 1 => let (lo, hi) := d.pantryRegion 0 t; decide (lo ≤ a * 64) && decide ((a + r.extent stride) * 64 ≤ hi)
    | _ => (List.range r.rows).all fun j => d.inPrivate 0 (a + j * stride * 64) (a + j * stride * 64 + r.rowLines * 64)
/-- The checks of Table 06.8 as they stand on a signal core. -/
def Dev.xferCheck (d : Dev) (t i : Nat) (c : SigCoreState) (r : DmaDesc) : Option Nat :=
  if !r.zeroOk || decide (r.src > 4) || decide (r.dst > 4) || (r.src == 3 && r.srcAddr % 64 != 0) || (r.dst == 3 && r.dstAddr % 64 != 0) then some 1
  else if (r.src != 0 && r.dst != 0) || r.src == 2 || r.dst == 2 then some 2
  else if !d.xferSideOk t c r r.src r.srcAddr r.srcStride || !d.xferSideOk t c r r.dst r.dstAddr r.dstStride || (r.sig && !d.ctrAllowed t (sigCtx i) r.counter) then some 3
  else if (r.src == 3 || r.dst == 3) && (match d.routeFor t (sigUnit t i) r.route with | some w => !routeHolds w r | none => true) then some 4
  else if r.rows == 0 || r.rowLines == 0 || r.overlaps then some 5
  else none

/-- XFER: the descriptor at X[A] is checked and queued; with sixteen waiting, issue waits (R147, R281). -/
def xferEffect (t i : Nat) (f : SFields) (d : Dev) : Dev :=
  d.sigSlot t i 2 (f.d != 0#6 || f.b != 0#6 || f.x != 0#8 || decide (f.a.toNat > 31)) fun d =>
    let c := d.sg t i
    let a := (c.rx f.a).toNat
    if a % 4 != 0 || !c.holds a 32 then .fail 3 0 else
    if c.xferQ.length ≥ 16 then .stay d else
    d.sigRead t i a 32 fun l d =>
      let r := dmaDesc l
      match d.xferCheck t i c r with
      | some n => .fail 7 n
      | none => .done (d.modSg t i fun c => { c with xferQ := c.xferQ ++ [⟨0, r, 0⟩] })
def execXfer (t : Tile) (i : SigIx) (f : SFields) (s : State) : Host.Outcome State Fault Refusal := ran s (xferEffect t i f)

/-- The rate and latency of a transfer's path (Table 11.1). -/
def Dev.xferPath (d : Dev) (t i : Nat) (r : DmaDesc) : Nat × Nat :=
  match (if r.src == 0 then r.dst else r.src) with
  | 3 => (match d.routeFor t (sigUnit t i) r.route with | some w => (min 128 (64 * w.rate), 120 + 40 * w.hops) | none => (128, 120))
  | 4 => (128, 36)
  | _ => (128, 24)
/-- SIG_XFER_BEGIN: the head of the queue begins once the transfer before it has completed (R153). -/
def sigXferBeginEffect (t i : Nat) (d : Dev) : Dev :=
  let c := d.sg t i
  match c.xferQ, c.xferRun with
  | j :: q, none =>
    if d.paused t then d else
    let (rate, lat) := d.xferPath t i j.desc
    d.setSg t i { c with xferQ := q, xferRun := some { j with done := (d.tile t).lk + lat + ceilDiv (j.desc.rows * j.desc.rowLines * 64) (max rate 1) } }
  | _, _ => d
def execSigXferBegin (t : Tile) (i : SigIx) (s : State) : Host.Outcome State Fault Refusal := ran s (sigXferBeginEffect t i)

/-- The store place of a line of one side. -/
def Dev.xferAt (d : Dev) (t i : Nat) (r : DmaDesc) (space a : Nat) : Nat :=
  match space with
  | 0 => dmemAt t i (a * 64)
  | 1 => pantryAt t (a * 64)
  | 4 => benchAt t ((d.physOf t (r.route % 16)).getD 0) (a * 64)
  | _ => a
/-- A core signals; its own 24 counters are reached in the same kc (Table 16.3). -/
def Dev.sigSignals (d : Dev) (t i c n : Nat) : Dev := d.unitSignal t c n 0 (sigUnit t i) (decide (816 + 24 * i ≤ c) && decide (c < 840 + 24 * i))
/-- SIG_XFER_COMPLETE: the lines stand at the destination, the counter is signalled, IRQ raises XFER_DONE. -/
def sigXferCompleteEffect (t i : Nat) (d : Dev) : Dev :=
  let c := d.sg t i
  match c.xferRun with
  | none => d
  | some j =>
    if d.paused t then d else
    let d := (d.advance (j.done - (d.tile t).lk)).sigSync t i
    let r := j.desc
    let step := fun space st n => if space == 3 then n * st * 64 else n * st
    let src := fun n => d.xferAt t i r r.src (r.srcAddr + step r.src r.srcStride n)
    let dst := fun n => d.xferAt t i r r.dst (r.dstAddr + step r.dst r.dstStride n)
    match d.dmaBad src r.rows r.rowLines with
    | some (ln, _) => (d.unresolved ln 5 6 0).sigFail t i 2 8 0
    | none =>
      let d := (d.copyRows src dst r.rows r.rowLines).modSg t i fun c => { c with xferRun := none }
      let d := if r.sig then d.sigSignals t i r.counter 1 else d
      if r.irq then d.sigPend t i 2 else d
def execSigXferComplete (t : Tile) (i : SigIx) (s : State) : Host.Outcome State Fault Refusal := ran s (sigXferCompleteEffect t i)

/-! ## Scalar and branch slot -/

/-- The lowest source that is pending and enabled. -/
def sigSource (pending mask : Nat) : Option Nat := (List.range 3).find? fun k => pending / 2 ^ k % 2 == 1 && mask / 2 ^ k % 2 == 1
/-- INTPT: a pending enabled source is taken in place of the bundle, outside handlers; the bundle that a handler returns to issues, and
other sources wait for a later one (R286, R287). -/
def intptEffect (t i : Nat) (f : SFields) (d : Dev) : Dev :=
  d.sigSlot t i 3 (f != ⟨0, 0, 0, 0⟩) fun d =>
    let c := d.sg t i
    let r := Reg.SIG_STATUS t i
    match (if c.inShadow || c.back then none else sigSource (d.getF r F.SIG_STATUS_PENDING) c.mask) with
    | none => .done d
    | some k =>
      let d := d.setF r F.SIG_STATUS_PENDING (d.getF r F.SIG_STATUS_PENDING - 2 ^ k)
      let d := d.count (Reg.SIG_IRQ_COUNT t i) F.SIG_IRQ_COUNT_COUNT 1
      .stay (((d.setSg t i { c with inShadow := true, resume := c.pc, pc := 16 * k, nextAt := c.at_ + 4 }).sigState t i 3).sigSync t i)
def execIntpt (t : Tile) (i : SigIx) (f : SFields) (s : State) : Host.Outcome State Fault Refusal := ran s (intptEffect t i f)

/-- A scalar operation into X[D] with latency 1. -/
def Dev.sigScalar (d : Dev) (t i : Nat) (f : SFields) (bad : Bool) (v : SigCoreState → BitVec 32) : Dev :=
  d.sigSlot t i 3 (bad || decide (f.d.toNat > 31)) fun d =>
    .done (d.modSg t i fun c => c.result 3 1 (.x c.inShadow f.d.toNat) [(v c).toNat])
/-- The unused field and the register fields of a two-source operation. -/
def badXX (f : SFields) : Bool := f.x != 0#8 || decide (f.a.toNat > 31) || decide (f.b.toNat > 31)
def saddEffect (t i : Nat) (f : SFields) (d : Dev) : Dev := d.sigScalar t i f (badXX f) fun c => c.rx f.a + c.rx f.b
def execSadd (t : Tile) (i : SigIx) (f : SFields) (s : State) : Host.Outcome State Fault Refusal := ran s (saddEffect t i f)
def ssubEffect (t i : Nat) (f : SFields) (d : Dev) : Dev := d.sigScalar t i f (badXX f) fun c => c.rx f.a - c.rx f.b
def execSsub (t : Tile) (i : SigIx) (f : SFields) (s : State) : Host.Outcome State Fault Refusal := ran s (ssubEffect t i f)
def sandEffect (t i : Nat) (f : SFields) (d : Dev) : Dev := d.sigScalar t i f (badXX f) fun c => c.rx f.a &&& c.rx f.b
def execSand (t : Tile) (i : SigIx) (f : SFields) (s : State) : Host.Outcome State Fault Refusal := ran s (sandEffect t i f)
def sorEffect (t i : Nat) (f : SFields) (d : Dev) : Dev := d.sigScalar t i f (badXX f) fun c => c.rx f.a ||| c.rx f.b
def execSor (t : Tile) (i : SigIx) (f : SFields) (s : State) : Host.Outcome State Fault Refusal := ran s (sorEffect t i f)
def sxorEffect (t i : Nat) (f : SFields) (d : Dev) : Dev := d.sigScalar t i f (badXX f) fun c => c.rx f.a ^^^ c.rx f.b
def execSxor (t : Tile) (i : SigIx) (f : SFields) (s : State) : Host.Outcome State Fault Refusal := ran s (sxorEffect t i f)

/-- A shift: amounts of 32 and more, and a right shift of a value with its sign bit set, have no stated result: a free value
(log entry 18). -/
def Dev.sigShift (d : Dev) (t i : Nat) (f : SFields) (right : Bool) : Dev :=
  d.sigSlot t i 3 (badXX f || decide (f.d.toNat > 31)) fun d =>
    let c := d.sg t i
    let v := c.rx f.a
    let n := (c.rx f.b).toNat
    if n ≥ 32 || (right && decide (n > 0) && v.getLsbD 31) then
      let (w, d) := d.fresh
      .done (d.modSg t i fun c => c.result 3 1 (.x c.inShadow f.d.toNat) [w.toNat % 2 ^ 32])
    else .done (d.modSg t i fun c => c.result 3 1 (.x c.inShadow f.d.toNat) [(if right then v >>> n else v <<< n).toNat])
def sshlEffect (t i : Nat) (f : SFields) (d : Dev) : Dev := d.sigShift t i f false
def execSshl (t : Tile) (i : SigIx) (f : SFields) (s : State) : Host.Outcome State Fault Refusal := ran s (sshlEffect t i f)
def sshrEffect (t i : Nat) (f : SFields) (d : Dev) : Dev := d.sigShift t i f true
def execSshr (t : Tile) (i : SigIx) (f : SFields) (s : State) : Host.Outcome State Fault Refusal := ran s (sshrEffect t i f)

/-- SADDI: X sign-extended. -/
def sigSaddiEffect (t i : Nat) (f : SFields) (d : Dev) : Dev :=
  d.sigScalar t i f (f.b != 0#6 || decide (f.a.toNat > 31)) fun c => c.rx f.a + f.x.signExtend 32
def execSigSaddi (t : Tile) (i : SigIx) (f : SFields) (s : State) : Host.Outcome State Fault Refusal := ran s (sigSaddiEffect t i f)
/-- SLI: the 20 bits of A, B and X, zero-extended; with A[5] = 1 their low half goes to X[D][31:16] (log entry 18). -/
def sigSliEffect (t i : Nat) (f : SFields) (d : Dev) : Dev :=
  let v : BitVec 20 := f.a ++ f.b ++ f.x
  d.sigScalar t i f false fun c => if f.a.getLsbD 5 then v.setWidth 16 ++ (c.rx f.d).setWidth 16 else v.setWidth 32
def execSigSli (t : Tile) (i : SigIx) (f : SFields) (s : State) : Host.Outcome State Fault Refusal := ran s (sigSliEffect t i f)

/-- BR: to bundle B and X together when X[A] meets condition D; two delay bundles follow (R277). Inside a body it stays in the body
and out of its last two bundles (R284). -/
def brEffect (t i : Nat) (f : SFields) (d : Dev) : Dev :=
  let target := (f.b ++ f.x).toNat
  d.sigSlot t i 3 (decide (f.d.toNat > 3) || decide (f.a.toNat > 31)) fun d =>
    let c := d.sg t i
    let v := c.rx f.a
    let badLoop := match c.bank.loops with
      | l :: _ => decide (target < l.first) || decide (target > l.last) || decide (c.pc + 1 ≥ l.last)
      | [] => false
    if target > 4095 then .fail 6 0 else if badLoop then .fail 5 0 else
    let taken := match f.d.toNat with | 0 => true | 1 => v == 0#32 | 2 => v != 0#32 | _ => v.getLsbD 31
    .done (if taken then d.setSg t i { c with act := .branch target } else d)
def execBr (t : Tile) (i : SigIx) (f : SFields) (s : State) : Host.Outcome State Fault Refusal := ran s (brEffect t i f)

/-- LOOP: the next X + 1 bundles, X[A] times; a stride code rotates (R279, R284). -/
def sigLoopEffect (t i : Nat) (f : SFields) (d : Dev) : Dev :=
  d.sigSlot t i 3 (f.d != 0#6 || f.b.toNat / 4 != 0 || decide (f.a.toNat > 31)) fun d =>
    let c := d.sg t i
    let n := (c.rx f.a).toNat
    let stride := match f.b.toNat % 4 with | 0 => 0 | 1 => 1 | 2 => 2 | _ => 4
    if c.bank.loops.length ≥ 2 || (stride != 0 && c.bank.loops.any fun l => l.stride != 0) then .fail 5 0 else
    .done (d.setSg t i { c with act := if n == 0 then .skip (f.x.toNat + 1) else .loop ⟨c.pc + 1, c.pc + 1 + f.x.toNat, n, stride⟩ })
def execSigLoop (t : Tile) (i : SigIx) (f : SFields) (s : State) : Host.Outcome State Fault Refusal := ran s (sigLoopEffect t i f)

/-- The unused and register fields of an operation on a counter. -/
def badCtr (f : SFields) : Bool := f.d != 0#6 || badXX f
/-- SIGNAL: counter X[A][9:0], amount X[B], at issue (R285). -/
def sigSignalEffect (t i : Nat) (f : SFields) (d : Dev) : Dev :=
  d.sigSlot t i 3 (badCtr f) fun d =>
    let c := d.sg t i
    let n := (c.rx f.a).toNat % 1024
    if !d.ctrAllowed t (sigCtx i) n then .fail 4 0 else .done (d.sigSignals t i n (c.rx f.b).toNat)
def execSigSignal (t : Tile) (i : SigIx) (f : SFields) (s : State) : Host.Outcome State Fault Refusal := ran s (sigSignalEffect t i f)
/-- TAKE and WATCH: the whole bundle waits until the wait is released (R277, R285). -/
def Dev.sigWait (d : Dev) (t i : Nat) (f : SFields) (take : Bool) : Dev :=
  d.sigSlot t i 3 (badCtr f) fun d =>
    let c := d.sg t i
    let n := (c.rx f.a).toNat % 1024
    if !d.waitAllowed t (sigCtx i) n then .fail 4 0 else
    .stay (((d.addWait t n (c.rx f.b).toNat take (sigUnit t i) 0).modSg t i fun c => { c with waiting := true }).sigState t i 2)
def sigTakeEffect (t i : Nat) (f : SFields) (d : Dev) : Dev := d.sigWait t i f true
def execSigTake (t : Tile) (i : SigIx) (f : SFields) (s : State) : Host.Outcome State Fault Refusal := ran s (sigTakeEffect t i f)
def sigWatchEffect (t i : Nat) (f : SFields) (d : Dev) : Dev := d.sigWait t i f false
def execSigWatch (t : Tile) (i : SigIx) (f : SFields) (s : State) : Host.Outcome State Fault Refusal := ran s (sigWatchEffect t i f)
/-- A wait is released: the bundle issues in that kc, its SB slot first. -/
def Dev.sigReleased (d : Dev) (t i : Nat) : Dev :=
  let lk := (d.tile t).lk
  let d := d.modSg t i fun c => { c.settleTo lk with at_ := lk, waiting := false }
  ((d.sigState t i (if (d.sg t i).inShadow then 3 else 1)).sigSlotDone t i 3).sigSync t i
/-- A wait that fails ends the loaf as a fault. -/
def Dev.sigWaitFailed (d : Dev) (t i : Nat) : Dev := d.sigEnd t i 2 1

/-- One source register and nothing else. -/
def badA (f : SFields) : Bool := f.d != 0#6 || f.b != 0#6 || f.x != 0#8 || decide (f.a.toNat > 31)
/-- WAITAT: the bundle issues when local time has reached X[A]. -/
def sigWaitatEffect (t i : Nat) (f : SFields) (d : Dev) : Dev :=
  d.sigSlot t i 3 (badA f) fun d =>
    let c := d.sg t i
    let d := d.advance (c.start + (c.rx f.a).toNat - (d.tile t).lk)
    let lk := (d.tile t).lk
    .done ((d.modSg t i fun c => { c.settleTo lk with at_ := lk }).sigSync t i)
def execSigWaitat (t : Tile) (i : SigIx) (f : SFields) (s : State) : Host.Outcome State Fault Refusal := ran s (sigWaitatEffect t i f)
/-- SETTMR arms the TIMER source. -/
def settmrEffect (t i : Nat) (f : SFields) (d : Dev) : Dev :=
  d.sigSlot t i 3 (badA f) fun d => .done (d.modSg t i fun c => { c with timer := some (c.rx f.a).toNat })
def execSettmr (t : Tile) (i : SigIx) (f : SFields) (s : State) : Host.Outcome State Fault Refusal := ran s (settmrEffect t i f)
/-- ARMW arms the COUNTER source. -/
def armwEffect (t i : Nat) (f : SFields) (d : Dev) : Dev :=
  d.sigSlot t i 3 (badCtr f) fun d =>
    let c := d.sg t i
    let n := (c.rx f.a).toNat % 1024
    if !d.waitAllowed t (sigCtx i) n then .fail 4 0 else .done (d.setSg t i { c with armed := some (n, (c.rx f.b).toNat) })
def execArmw (t : Tile) (i : SigIx) (f : SFields) (s : State) : Host.Outcome State Fault Refusal := ran s (armwEffect t i f)
/-- IRQEN: the enable mask, with latency 1. -/
def irqenEffect (t i : Nat) (f : SFields) (d : Dev) : Dev :=
  d.sigSlot t i 3 (badA f) fun d => .done (d.modSg t i fun c => c.result 3 1 .mask [(c.rx f.a).toNat % 8])
def execIrqen (t : Tile) (i : SigIx) (f : SFields) (s : State) : Host.Outcome State Fault Refusal := ran s (irqenEffect t i f)
/-- RETI: the handler ends with its bundle; outside a handler it does nothing more (log entry 18). -/
def retiEffect (t i : Nat) (f : SFields) (d : Dev) : Dev :=
  d.sigSlot t i 3 (f != ⟨0, 0, 0, 0⟩) fun d => .done (d.modSg t i fun c => { c with act := .reti })
def execReti (t : Tile) (i : SigIx) (f : SFields) (s : State) : Host.Outcome State Fault Refusal := ran s (retiEffect t i f)
/-- END: the stream ends with its bundle. -/
def sigEndEffect (t i : Nat) (f : SFields) (d : Dev) : Dev :=
  d.sigSlot t i 3 (f != ⟨0, 0, 0, 0⟩) fun d => .done (d.modSg t i fun c => { c with act := .end_ })
def execSigEnd (t : Tile) (i : SigIx) (f : SFields) (s : State) : Host.Outcome State Fault Refusal := ran s (sigEndEffect t i f)

end Sys2Proof.Machine
end

