-- ==== Sys2Proof/Machine/RecipeLoad.lean ====
section
/-! DEFINITION. RecipeLoad: the registers and stores that the sections of a configuration load (R71, R75, R84). Each operation
reads the configuration in force, `Dev.cfg`. -/
namespace Sys2Proof.Machine

/-- A change to the recipe store. -/
def Dev.modRecipe (d : Dev) (f : RecipeState → RecipeState) : Dev := { d with recipe := f d.recipe }
/-- A field of RECIPE_STATUS. -/
def Dev.recipeF (d : Dev) (f : Fld) : Nat := d.getF Reg.RECIPE_STATUS f
/-- A recipe event (R85). -/
def Dev.recipeEvent (d : Dev) (code object detail : Nat) : Dev := d.raise code 0xFF systemSteward object detail
/-- The effective digest (R69), and its registers. -/
def Dev.effDigest (d : Dev) : Bytes := (List.range 4).flatMap fun w => leBytes 8 (d.reg (Reg.RECIPE_EFF_DIGEST w)).toNat
def Dev.setEff (d : Dev) (l : Bytes) : Dev :=
  (List.range 4).foldl (fun (d : Dev) w => d.setReg (Reg.RECIPE_EFF_DIGEST w) (BitVec.ofNat 64 (leAt l (8 * w) 8))) d
/-- The effective digest after an image: a full recipe's own, or SHA3-256 of the digest before and the amendment's. -/
def digestAfter (eff l : Bytes) : Bytes := if imgKind l == 0 then imgDigest l else digestBytes (Config.sha3 (eff ++ imgDigest l))

/-! ## Parts of a tile -/

/-- PARTITION: physical core k holds logical k, the disabled one's index goes to K16 (R15, Table 03.4). -/
def Dev.loadPartition (d : Dev) (t : Nat) : Dev :=
  let p := d.section_ secPartition t
  let f := leAt p 1 1
  (List.range 17).foldl (fun (d : Dev) k =>
    let i := if k == 16 then f else k
    let on := k != f
    d.setFs (Reg.KNEAD_CORE_CFG t k) [(F.KNEAD_CORE_CFG_ENABLED, if on then 1 else 0), (F.KNEAD_CORE_CFG_LOGICAL, if on then i else 0),
      (F.KNEAD_CORE_CFG_RADIO, if on then leAt p 2 2 / 2 ^ i % 2 else 0)]) d
/-- The mapped length of a map's trimmable radio window, 0 without one. -/
def Dev.mappedLen (d : Dev) (t m : Nat) : Nat :=
  match (d.mapWindows t m).find? fun w => w.kind == 1 && w.sub == 1 with | some w => w.stop - w.start | none => 0
/-- LEN_NEXT reads the mapped length, after each edge and where a map is loaded. -/
def Dev.resetTrims (d : Dev) (t : Nat) : Dev :=
  (List.range 64).foldl (fun (d : Dev) m => d.setF (Reg.TICK_TRIM t m) F.TICK_TRIM_LEN_NEXT (d.mappedLen t m)) d
/-- LEN_ACTIVE reads the mapped length. -/
def Dev.untrim (d : Dev) (t : Nat) : Dev :=
  (List.range 64).foldl (fun (d : Dev) m => d.setF (Reg.TICK_TRIM t m) F.TICK_TRIM_LEN_ACTIVE (d.mappedLen t m)) d
/-- WINDOW_MAPS: the map store and the selectors of a tile (R542). -/
def Dev.loadMaps (d : Dev) (t : Nat) : Dev :=
  let b := d.section_ secWindowMaps t
  let d := (List.range 512).foldl (fun (d : Dev) j => d.setReg (Reg.TICK_MAP t j) (BitVec.ofNat 64 (leAt b (64 + 8 * j) 8))) d
  let d := (List.range 1024).foldl (fun (d : Dev) j => d.setReg (Reg.TICK_SEL t j) (BitVec.ofNat 64 (leAt b (4160 + 8 * j) 8))) d
  d.resetTrims t
/-- CELLS: the ring registers of a tile (Table 10.1). -/
def Dev.loadCells (d : Dev) (t : Nat) : Dev :=
  let x := cellTile (d.section_ secCells 0) t
  (d.setFs (Reg.RADIO_REQ_RING t) [(F.RADIO_REQ_RING_ADDR, leAt x 0 8 / 2 ^ 14), (F.RADIO_REQ_RING_LOG2, leAt x 8 1)]).setFs
    (Reg.RADIO_IND_RING t) [(F.RADIO_IND_RING_ADDR, leAt x 16 8 / 2 ^ 14), (F.RADIO_IND_RING_LOG2, leAt x 24 1)]
/-- RADIO_CODE: radio and proving images on the benches, signal-core programs in their memories (R142, log entry 16). -/
def Dev.loadCode (d : Dev) (t : Nat) : Dev :=
  let s := d.section_ secRadioCode t
  if s == [] then d else
  let d := (List.range 16).foldl (fun (d : Dev) i =>
    match d.physOf t i with
    | some k => (Config.codeBench s t i).foldl (fun (d : Dev) p => d.write (benchAt t k p.1) p.2) d
    | none => d) d
  (List.range 8).foldl (fun (d : Dev) i => { d with mem := storeBytes d.mem (pmemAt t i 0) (Config.codePmem s t i) }) d
/-- ENERGY: the tile's plan over one tick, in µJ (R524). -/
def Dev.loadEnergy (d : Dev) (t : Nat) : Dev :=
  let segs := d.energySegs t
  let ends := (segs.drop 1).map (·.1) ++ [d.tickLen]
  d.setF (Reg.PWR_ENERGY t) F.PWR_ENERGY_PLAN (((segs.zip ends).map fun p => p.1.2 * (p.2 - p.1.1)).sum * 8 / 10000000)

/-- The objects of slice 0 that RADIO_CODE lists on a tile (R207, log entry 34). -/
def Dev.radioObjs (c : Dev) (t : Nat) : List Obj :=
  let s := c.section_ secRadioCode t
  if s == [] then [] else ((Config.codeObjects s t).map objOf).filter fun o => o.owner == 0 && objTile o.id == t
/-- They exceed slice 0's quotas. -/
def Dev.radioObjsFault (c : Dev) : Bool :=
  let os := tiles6.flatMap c.radioObjs
  !c.imageQuotaOk 0 os || tiles6.any fun t => [0, 1, 2].any fun k =>
    decide ((((c.radioObjs t).filter fun o => o.curTier == k && o.curTier < o.homeTier).map (·.pages)).sum > c.quota 0 (quotaOff k))
/-- Slice 0's objects of a tile are evicted, and those of the configuration in force defined and promoted. -/
def Dev.loadObjs (d : Dev) (t : Nat) : Dev :=
  let d := (d.ownObjs t 0).foldl (fun (d : Dev) p => (if p.2.upper then d.uncharge t p.2 else d).retire t p.1) d
  (d.radioObjs t).foldl (fun (d : Dev) o =>
    match d.installObj o with
    | none => d
    | some d =>
      if o.homeTier ≤ o.curTier then d else
      let i := o.id % 2 ^ 20
      let n := d.obj t i
      let (data, d) := if o.homeTier == 2 then (d.bytes o.homeAddr (4096 * o.pages), d) else d.freshBytes (4096 * o.pages)
      let d := match d.place o.curAddr with | some a => d.write a data | none => d
      let n := { n with state := 2, curTier := o.curTier, curAddr := o.curAddr }
      (d.putObj t i n).charge t n) d

/-! ## Device-wide parts -/

/-- TICK (Table 03.5). -/
def Dev.loadTick (d : Dev) : Dev :=
  let s := d.section_ secTick 0
  d.setFs Reg.TICK_CFG [(F.TICK_CFG_PERIOD, leAt s 0 1), (F.TICK_CFG_BOUNDARY_LEN, leAt s 4 4),
    (F.TICK_CFG_STRETCH_GROUP, tiles6.foldl (fun n t => n + leAt s (8 + t) 1 % 8 * 8 ^ t) 0)]
/-- SLICES: a slice's registers (Table 17.2). -/
def Dev.loadSlice (d : Dev) (s : Nat) : Dev :=
  let r := (d.sliceRec s).getD (leBytes 64 0)
  let on := leAt r 2 1 % 2
  let d := d.setFs (Reg.SLICE_CFG s) [(F.SLICE_CFG_PASID, leAt r 4 4), (F.SLICE_CFG_EN, on), (F.SLICE_CFG_HOST_RESET, leAt r 2 1 / 2 % 2)]
  let d := d.setFs (Reg.SLICE_STATUS s) [(F.SLICE_STATUS_STATE, on), (F.SLICE_STATUS_MODE, 0), (F.SLICE_STATUS_LAST_RESULT, 0)]
  let d := d.setF (Reg.PROOF_TIMEOUT s) F.PROOF_TIMEOUT_US (leAt r 20 4)
  (d.setFs (Reg.SLICE_EV_RING s) [(F.SLICE_EV_RING_ADDR, leAt r 28 8 / 4096), (F.SLICE_EV_RING_LOG2, leAt r 36 1)]).setSli s SliceState.init
/-- A tray's registers (Table 17.3), zero for a tray without a record. -/
def Dev.loadTray (d : Dev) (n : Nat) : Dev :=
  let s := d.section_ secSlices 0
  let base := 64 + 64 * leAt s 0 1
  let hit := (List.range (leAt s 2 2)).find? fun i => leAt s (base + 32 * i) 2 == n
  let r := match hit with | some i => bytesAt s (base + 32 * i) 32 | none => leBytes 32 0
  let d := d.setFs (Reg.TRAY_CFG n) [(F.TRAY_CFG_ENABLED, if hit.isSome then 1 else 0), (F.TRAY_CFG_RING_SPACE, leAt r 5 1), (F.TRAY_CFG_LOG2_ENTRIES, leAt r 4 1),
    (F.TRAY_CFG_SLICE, leAt r 2 1), (F.TRAY_CFG_HOME_TILE, leAt r 3 1), (F.TRAY_CFG_VECTOR, leAt r 6 2)]
  let d := d.setF (Reg.TRAY_RING n) F.TRAY_RING_ADDR (leAt r 8 8 / 256)
  let d := d.setF (Reg.TRAY_JOURNAL n) F.TRAY_JOURNAL_ADDR (leAt r 16 8 / 64)
  d.setF (Reg.TRAY_COMPLETION n) F.TRAY_COMPLETION_ADDR (leAt r 24 8 / 64)
/-- A port's queue settings, and its gate list where it has one, 0 entries where not (Table 14.5). -/
def Dev.loadQueues (d : Dev) (g : GatePort) : Dev :=
  let r := d.portRec g
  let d := (List.range 8).foldl (fun (d : Dev) q => d.setFs (gpQueueCfg g q)
    [(F.ETH_QUEUE_CFG_IDLE_SLOPE, leAt r (64 + 24 * q) 4), (F.ETH_QUEUE_CFG_AGE_LIMIT, leAt r (68 + 24 * q) 4)]) d
  let (s, n, base) := match g with
    | .eth _ => let s := d.section_ secEthernet 0; (s, leAt s 2 1, 4160)
    | .braid _ => let s := d.section_ secBraid 0; (s, leAt s 18 1, 26688 + 32 * leAt s 14 2 + 64 * leAt s 16 2)
  match (listOffs s n base).find? fun o => leAt s o 1 == gpIndex g with
  | some o => d.loadGateList g (s.drop o)
  | none => d.setFs (gpGateStatus g) [(F.ETH_GATE_STATUS_OPER_BANK, 0), (F.ETH_GATE_STATUS_PENDING, 0), (F.ETH_GATE_STATUS_OPER_N, 0)]
/-- ETHERNET: a port; without the section it is down (R349, Table 14.6). -/
def Dev.loadEth (d : Dev) (p : EthPort) : Dev :=
  let s := d.section_ secEthernet 0
  let r := d.portRec (.eth p)
  let lanes := match leAt r 1 1 with | 2 => 1 | 4 => 2 | 8 => 3 | _ => 0
  let d := if leAt r 0 1 == 0 then ethLinkDownEffect p 1 d else d
  (d.setFs (Reg.ETH_PORT_CFG p) [(F.ETH_PORT_CFG_EN, leAt r 0 1), (F.ETH_PORT_CFG_LANES, lanes), (F.ETH_PORT_CFG_RATE, leAt s (p.val / 8) 1),
    (F.ETH_PORT_CFG_CM, leAt r 2 1 % 2), (F.ETH_PORT_CFG_VLAN_TAG, leAt r 2 1 / 2 % 2), (F.ETH_PORT_CFG_MTU, leAt r 4 2), (F.ETH_PORT_CFG_VID, leAt r 6 2)]).loadQueues (.eth p)
/-- BRAID: the header and a port; without the section every port is down (R382). -/
def Dev.loadBraid (d : Dev) : Dev :=
  let s := d.section_ secBraid 0
  let d := d.setFs Reg.BRAID_CFG [(F.BRAID_CFG_NODE, if s == [] then 0xFFF else leAt s 0 2), (F.BRAID_CFG_STAGES, leAt s 2 1), (F.BRAID_CFG_RETRY, leAt s 3 1)]
  let d := allPorts.foldl (fun (d : Dev) g => match g with
    | .eth _ => d
    | .braid b =>
      let r := d.portRec g
      let d := if leAt r 0 1 == 0 then d.braidDown b 0 else d
      (d.setFs (Reg.BRAID_PORT_CFG b) [(F.BRAID_PORT_CFG_EN, leAt r 0 1), (F.BRAID_PORT_CFG_NEIGH_NODE, leAt r 2 2), (F.BRAID_PORT_CFG_NEIGH_PORT, leAt r 4 1)]).loadQueues g) d
  d.braidShow
/-- PEEL_BINDING (R398). -/
def Dev.loadPeel (d : Dev) : Dev :=
  (List.range 64).foldl (fun (d : Dev) n => d.setReg (Reg.PEEL_BIND n) (BitVec.ofNat 64 (leAt (d.section_ secPeel 0) (8 * n) 8))) d

/-! ## Fences and a tile's work -/

/-- A fenced Knead core's index goes to the spare or is absent; a fenced spare is never mapped (R443). -/
def Dev.fenceCore (d : Dev) (t k : Nat) : Dev :=
  match d.logicalOf t k with
  | some i => d.mapSpare t k i
  | none => d.setF (Reg.INTEG_FENCE t) F.INTEG_FENCE_SPARE_FENCED 1
/-- A full recipe lifts the fences, and those of KIND 1 field records return from the activation edge (R445, R507). -/
def Dev.refence (d : Dev) : Dev :=
  let d := tiles6.foldl (fun (d : Dev) t => (d.setReg (Reg.INTEG_FENCE t) (regReset (Reg.INTEG_FENCE t))).setReg (Reg.INTEG_FENCE_SIEVE t) 0#64) d
  (d.sp.fields.filter fun r => leAt r 0 1 == 1).foldl (fun (d : Dev) r =>
    let t := leAt r 1 1
    let u := leAt r 2 2 % 2 ^ 13
    if t ≥ 6 || d.fenced t u then d else
    let (w, d) := d.fresh
    let d := d.markFence t u (w.toNat % 2 ^ 16) (leAt r 8 8)
    if u / 0x100 == 1 then d.fenceCore t (u % 0x100) else d) d
/-- The work of a tile that is not finished is gone, with no committed effect (R35): what its units run, its waits and signals on the way. -/
def Dev.dropWork (d : Dev) (t : Nat) : Dev :=
  let d := (List.range 17).foldl (fun (d : Dev) k => (((List.range 4).foldl (fun (d : Dev) a => d.setReg (Reg.KNEAD_ARRAY_STATE t k a) 0#64) d).setReg
    (Reg.KNEAD_CORE_STATUS t k) 0#64).modKn t k fun c => { KneadCore.init with ctx := c.ctx, step := c.step, seed := c.seed, stream := c.stream }) d
  let d := (List.range 32).foldl (fun (d : Dev) i => (d.setReg (Reg.SIEVE_STATUS t i) 0#64).setSieve t i SieveState.init) d
  let d := (List.range 8).foldl (fun (d : Dev) i =>
    ((d.setReg (Reg.SIG_STATUS t i) 0#64).setSg t i SigCoreState.init).setCodec t i CodecState.init |>.setReg (Reg.CODEC_STATUS t i) 0#64) d
  let cs := (d.ctrs.waits.filter (·.tile == t)).map (·.ctr)
  let d := { d with ctrs := { d.ctrs with sigs := d.ctrs.sigs.filter (·.tile != t), waits := d.ctrs.waits.filter (·.tile != t) } }
  let d := cs.foldl (fun (d : Dev) c => d.syncWaiters t c) d
  d.modSch t fun x => { x with plan := [], running := [], svc := [] }
/-- A tile at the edge at which work begins under a new recipe: no lag, at offset 0 of that tick. -/
def Dev.freshTile (d : Dev) (t : Nat) : Dev :=
  let x := d.tile t
  let d := (d.dropWork t).setTile t { TileState.init with workTick := d.tickNo, lk := x.lk, flags := x.flags, snapFlags := x.snapFlags, resetAsked := x.resetAsked, coreAsked := x.coreAsked }
  let d := d.setF (Reg.TICK_TILE_STATUS t) F.TICK_TILE_STATUS_LAG 0
  d.modRad t fun r => { RadioState.init with taken := r.taken, indLost := r.indLost }

/-! ## A configuration -/

/-- A part of a tile's configuration, by section type, is loaded. -/
def Dev.loadPart (d : Dev) (ty t : Nat) : Dev :=
  match ty with
  | 0x01 => d.loadPartition t
  | 0x03 => d.loadMaps t
  | 0x05 => d.loadCells t
  | 0x06 => (d.loadCode t).loadObjs t
  | 0x0E => d.loadEnergy t
  | _ => d
/-- Every register that a full recipe sets, at its activation edge; the tick period is in force already. -/
def Dev.loadAll (d : Dev) : Dev :=
  let d := tiles6.foldl (fun (d : Dev) t => ([0x01, 0x03, 0x05, 0x0E].foldl (fun (d : Dev) ty => d.loadPart ty t) d).untrim t) d
  let d := (List.range 64).foldl (fun (d : Dev) s => d.loadSlice s) d
  let d := (List.range 512).foldl (fun (d : Dev) n => d.loadTray n) d
  let d := tiles6.foldl (fun (d : Dev) t => d.grantGlobals t) d
  let d := allPorts.foldl (fun (d : Dev) g => match g with | .eth p => d.loadEth p | .braid _ => d) d.loadPeel
  let d := d.loadBraid.setReg Reg.INTEG_LEAK (BitVec.ofNat 64 (leAt d.integHdr 2 8))
  let d := d.refence
  tiles6.foldl (fun (d : Dev) t => d.loadPart 0x06 t) d

end Sys2Proof.Machine
end

