-- ==== Sys2Proof/Machine/Recipe.lean ====
section
/-! DEFINITION. Recipe: loading, checking, staging and activating a recipe, amendments, the recipe lock, persistence and reload (R70 to R84,
R509). A rejection is its reason (Table 03.6), directory index and byte offset. -/
namespace Sys2Proof.Machine

/-! ## The checks of Table 03.6 -/

/-- Reason, directory index, byte offset. -/
abbrev Rej := Nat × Nat × Nat
/-- The first check of a list that fails; a later one is made only when those before it pass (R70). -/
def firstRej : List (Unit → Option Rej) → Option Rej
  | [] => none
  | f :: r => match f () with | some x => some x | none => firstRej r
/-- A failure of the image as a whole at a byte offset. -/
def imageRej (reason : Nat) (o : Option Nat) : Option Rej := o.map fun o => (reason, 0xFFFF, o)
/-- A failure of a section at a byte offset within it. -/
def DirEntry.rej (e : DirEntry) (reason : Nat) (o : Option Nat) : Option Rej := o.map fun o => (reason, e.index, o)

/-- HEADER: Table 03.1 and R62. -/
def headerFault (l : Bytes) : Option Nat :=
  let k := imgKind l
  let n := leAt l 16 2
  let len := imgLength l
  firstOf [need (leAt l 0 4 == 0x4E595242) 0, need (leAt l 4 2 == 1) 4, need (decide (k ≤ 2)) 6, need (if k == 1 then decide (imgTile l ≤ 5) else imgTile l == 0xFF) 7,
    need (decide (leAt l 11 1 ≤ 1)) 11, need (decide (len ≤ if k == 0 then 0x1000000 else 0x100000) && len % 64 == 0 && decide (256 + 16 * n ≤ len)) 12,
    need (within_ n 1 256) 16, zeros l 18 6, need (k != 0 || allZero (bytesAt l 72 32)) 72, need (leAt l 104 4 == (if imgSigned l then len else 0)) 104, zeros l 108 148]
/-- WRONG_PART. -/
def Dev.partFault (d : Dev) (l : Bytes) : Option Nat := firstOf [need (leAt l 8 2 == 0x9440) 8, need (d.partOk (leAt l 8 2) (leAt l 10 1)) 10]
/-- The recipe key list of the running firmware (R68). -/
def Dev.recipeKey (d : Dev) (id : Bytes) : Option Bytes :=
  match (fwSections d.sp.fw).find? fun e => e.1 == 4 with
  | some (_, o, n) => ((List.range (min 8 (n / 1320))).find? fun i => bytesAt d.sp.fw (1568 + o + 1320 * i) 8 == id).map fun i => bytesAt d.sp.fw (1576 + o + 1320 * i) 1312
  | none => none
/-- SIGNATURE and KEY_UNKNOWN (R68): a signature under a key that is not listed cannot be verified and fails the second. -/
def Dev.sigFault (d : Dev) (l : Bytes) : Option Rej :=
  let o := imgLength l
  if !imgSigned l then imageRej 6 (need (d.policy % 2 == 0) 11)
  else if leAt l (o + 8) 4 != 2420 then imageRej 6 (some (o + 8))
  else match zeros l (o + 12) 4 with
    | some p => imageRej 6 (some p)
    | none =>
      match d.recipeKey (bytesAt l o 8) with
      | none => imageRej 7 (some o)
      | some key => if Config.mldsaCheck key (imgDigest l) (bytesAt l (o + 16) 2420) then imageRej 6 (zeros l (o + 2436) 60) else imageRej 6 (some (o + 16))

/-- Blocks of a section with their offsets. -/
def blocksAt : Nat → List Bytes → List (Nat × Bytes)
  | _, [] => []
  | o, b :: r => (o, b) :: blocksAt (o + b.length) r
/-- The tile blocks of a WINDOW_MAPS or ROUTES section: tile, offset, bytes. -/
def DirEntry.blocks (e : DirEntry) (l : Bytes) : List (Nat × Nat × Bytes) :=
  e.tiles.zip (blocksAt 0 ((cutBlocks (if e.type == 3 then mapBlockSize else routeBlockSize) e.tiles.length (e.bytes l)).getD []))

/-- FIELD_RANGE of one section; `c` holds the configuration the image would give. -/
def Dev.entryRange (c : Dev) (l : Bytes) (e : DirEntry) : Option Nat :=
  let s := e.bytes l
  match e.type with
  | 0x01 => partitionRange s e.tiles
  | 0x02 => tickRange s
  | 0x05 => firstOf ([cellsRange s] ++ ((List.range (nCells s)).map fun i => need (e.tiles.contains (leAt (cellDesc s i) 2 1)) (450 + 128 * i))
      ++ [(cellsRange (c.section_ secCells 0)).map fun _ => 0])
  | 0x07 => memoryRange s
  | 0x08 => slicesRange s (c.section_ secCells 0 != [])
  | 0x09 => peelRange s
  | 0x0A => braidRange s (c.cfgTick * 4 / 5)
  | 0x0B => ethRange s
  | 0x0C => timeRange s
  | 0x0D => integRange c s e.tiles e.scope
  | 0x0E => energyRange s e.tiles c.cfgTick
  | _ => none
/-- FIELD_RANGE: every section, then what sections state together: the scrub plan (R438), INTEGRITY entries (R446), the energy plan (R526). -/
def Dev.rangeFault (d c : Dev) (l : Bytes) : Option Rej :=
  let es := dirOf l
  let ints := es.filter (·.type == 0x0D)
  let wide := fun s => (bytesAt s 2 8, bytesAt s 12 11)
  let ref := if imgKind l == 0 then (ints.head?.map fun e => wide (e.bytes l)) else some (wide d.integHdr)
  let ids := ints.flatMap fun e => let s := e.bytes l; (List.range (leAt s 0 2)).map fun i => leAt s (64 + 32 * e.tiles.length + 64 * i) 2
  let slow := fun (e : DirEntry) => (e.type == 0x0D || (e.type == 3 && ints.isEmpty)) && e.tiles.any c.scrubSlow
  firstRej ((es.map fun e => fun _ => e.rej 0x0A (c.entryRange l e))
    ++ (es.map fun e => fun _ => e.rej 0x0A (need (!slow e) (if e.type == 0x0D then 10 else 0)))
    ++ (ints.map fun e => fun _ => e.rej 0x0A (need (some (wide (e.bytes l)) == ref) 2))
    ++ [fun _ => match ints.getLast? with | some e => e.rej 0x0A (need (distinct ids) (64 + 32 * e.tiles.length)) | none => none,
        fun _ => match es.find? (·.type == 0x0E) with | some e => e.rej 0x0A (need (!c.energyFault) 0) | none => none])

/-- The routes that an amendment must keep (R76): link records, and the slots at a mesh link. -/
def routesKept (b : Bytes) : Bytes × List (List Nat) :=
  (bytesAt b 192 (8 * leAt b 1 1), ((slotsOf b).filter fun s => s.src / 0x100 == 0x0F || s.dst / 0x100 == 0x0F).map fun s =>
    [s.src, s.dst, s.start, s.width, s.len, s.origin, s.route])
/-- PARTITION to QUOTA: reasons 0x0B to 0x11. -/
def Dev.planFault (d c : Dev) (l : Bytes) : Option Rej :=
  let es := dirOf l
  let maps := es.filter (·.type == 3)
  let of := fun (ty : Nat) => es.filter (·.type == ty)
  let perBlock := fun (es : List DirEntry) (reason : Nat) (f : Nat → Bytes → Option Nat) =>
    es.flatMap fun e => (e.blocks l).map fun b => fun (_ : Unit) => e.rej reason ((f b.1 b.2.2).map (b.2.1 + ·))
  let cells := c.section_ secCells 0
  firstRej (((of 1 ++ (if (of 1).isEmpty then maps else [])).flatMap fun e => e.tiles.zipIdx.map fun p => fun (_ : Unit) =>
      e.rej 0x0B (need (!c.partitionFault p.1) (if e.type == 1 then 16 * p.2 + 2 else 0)))
    ++ perBlock maps 0x0C (fun t b => windowFault b t c.cfgTick c.cfgB)
    ++ perBlock maps 0x0D (fun t _ => need (!c.refreshShort t) 4160)
    ++ perBlock (of 4) 0x0E (fun t b => firstOf [c.routeFault t, need (imgKind l == 0 || routesKept b == routesKept (d.section_ secRoutes t)) 192])
    ++ (if (of 4).isEmpty then perBlock maps 0x0E (fun t _ => (c.routeFault t).map fun _ => 0) else [])
    ++ perBlock maps 0x0F (fun t _ => c.proofFault t)
    ++ ((of 5).flatMap fun e => (e.tiles.map fun t => fun (_ : Unit) => e.rej 0x0F ((c.proofFault t).map fun _ => 0))
      ++ (List.range (nCells (e.bytes l))).map fun i => fun _ => e.rej 0x0F (need (!classFault (e.bytes l) i) (448 + 128 * i + 44)))
    ++ ((of 5).flatMap fun e => (List.range (nCells cells)).map fun i => fun _ => e.rej 0x10 (need (!c.muFault i) (448 + 128 * i + 3)))
    ++ ((of 7).map fun e => fun _ => e.rej 0x11 (memoryFault (e.bytes l)))
    ++ ((of 10).map fun e => fun _ => e.rej 0x11 c.windowQuota)
    ++ ((of 6).map fun e => fun _ => e.rej 0x11 (need (!c.radioObjsFault) 0)))

/-- The checks 0x03 to 0x11 of an image over a configuration. -/
def Dev.contentFault (d : Dev) (base : SMap Bytes) (l : Bytes) : Option Rej :=
  let c : Dev := { d with cfg := newCfg base l }
  firstRej [fun _ => imageRej 3 (headerFault l), fun _ => imageRej 4 (d.partFault l),
    fun _ => imageRej 5 (need (digestAround (l.take (imgLength l)) 40 == imgDigest l) 40), fun _ => d.sigFault l,
    fun _ => (dirFault l).map fun p => (8, p.1, p.2), fun _ => imageRej 9 (need (!missing l) 0),
    fun _ => Dev.rangeFault { d with cfg := base } c l, fun _ => Dev.planFault { d with cfg := base } c l]

/-- The staged images that act at or before a tick, in order of action, and the configuration and digest they lead to. -/
def Dev.stagedBefore (d : Dev) (act : Nat) : List StagedImage :=
  (d.recipe.staged.filter fun x => decide (x.act ≤ act)).foldl
    (fun l x => l.takeWhile (fun y => decide (y.act ≤ x.act)) ++ x :: l.dropWhile (fun y => decide (y.act ≤ x.act))) []
def Dev.cfgBefore (d : Dev) (act : Nat) : SMap Bytes × Bytes :=
  (d.stagedBefore act).foldl (fun p x => (newCfg p.1 x.image, digestAfter p.2 x.image)) (d.cfg, d.effDigest)
/-- STALE_BASE: an amendment's base is not the digest before it, or there is no recipe before it. -/
def staleBase (l eff : Bytes) (some_ : Bool) : Bool := imgKind l != 0 && (!some_ || bytesAt l 72 32 != eff)
/-- ALIGN: R72 for a full recipe, R77 for a cell amendment (log entry 35). -/
def Dev.misaligned (d : Dev) (c : Dev) (l : Bytes) (act : Nat) : Bool :=
  let u := act * d.tickU
  let cells := fun (x : Dev) (ts : List Nat) => ts.flatMap x.cellsOf
  match imgKind l with
  | 0 => u % (c.cfgTick * kcU) != 0 || (cells c tiles6).any fun x => u % slotU x != 0
  | 2 => let ts := ((dirOf l).filter (·.type == secCells)).flatMap (·.tiles)
    (cells c ts ++ cells d ts).any fun x => u % slotU x != 0
  | _ => false
/-- The staging limit of R70: one full recipe, four amendments. -/
def Dev.stageFull (d : Dev) (l : Bytes) : Bool :=
  let n := fun (full : Bool) => d.recipe.staged.countP fun x => (imgKind x.image == 0) == full
  if imgKind l == 0 then decide (1 ≤ n true) else decide (4 ≤ n false)
/-- All checks of a fetched image; `act` its activation tick (Table 03.6). -/
def Dev.fetchFault (d : Dev) (f : RecipeFetch) (act : Nat) : Option Rej :=
  let l := f.image
  let (base, eff) := d.cfgBefore act
  let before := d.active || (d.stagedBefore act).any fun x => imgKind x.image == 0
  let c : Dev := { d with cfg := newCfg base l }
  firstRej [fun _ => imageRej 1 (need (f.len == imgSize l) 12), fun _ => imageRej 2 (need (!d.stageFull l) 0), fun _ => d.contentFault base l,
    fun _ => imageRej 0x12 (need (!staleBase l eff before) 72), fun _ => imageRej 0x13 (need (!Dev.misaligned { d with cfg := base } c l act) 32),
    fun _ => imageRej 0x14 (need (decide (d.tickNo + (if imgKind l == 0 then 8 else 2) ≤ act)) 32)]

/-! ## Rejection and staging -/

/-- Event 0x1011 of an image whose header was read. -/
def Dev.rejectImage (d : Dev) (l : Bytes) (r : Rej) : Dev :=
  (d.setF Reg.RECIPE_STATUS F.RECIPE_STATUS_LAST_REASON r.1).recipeEvent 0x1011 (imgId l % 2 ^ 32)
    (r.1 + imgKind l * 2 ^ 8 + r.2.1 * 2 ^ 16 + r.2.2 % 2 ^ 32 * 2 ^ 32)
/-- Event 0x1011 before a header was read (R85). -/
def Dev.rejectUnread (d : Dev) (reason : Nat) : Dev :=
  (d.setF Reg.RECIPE_STATUS F.RECIPE_STATUS_LAST_REASON reason).recipeEvent 0x1011 0 (reason + 0xFFFFFF00)
/-- STAGED counts the images staged. -/
def Dev.showStaged (d : Dev) : Dev := d.setF Reg.RECIPE_STATUS F.RECIPE_STATUS_STAGED d.recipe.staged.length
/-- An image joins the staged ones; the TIME section of a full recipe is in effect from then while no recipe is active (R330). -/
def Dev.stage (d : Dev) (x : StagedImage) : Dev :=
  let l := x.image
  let d := ((d.modRecipe fun r => { r with staged := r.staged ++ [x] }).showStaged).recipeEvent 0x1010 (imgId l % 2 ^ 32) (imgKind l)
  if imgKind l != 0 || d.active then d else
  let s := look [] (newCfg [] l) (8 * secTime)
  Dev.loadTime { d with cfg := store [] d.cfg (8 * secTime) s } s

/-! ## Commands of RECIPE_CTRL -/

/-- A load command fetches nothing while a check is in progress (R70). -/
def Dev.startFetch (d : Dev) (f : RecipeFetch) : Dev :=
  if d.recipe.fetch.isSome then d.rejectUnread 2 else (d.setF Reg.RECIPE_STATUS F.RECIPE_STATUS_CHECKING 1).modRecipe fun r => { r with fetch := some f }
/-- LOAD_FROM_SRC: the bytes at RECIPE_SRC come with the command; the fetch needs CXL.cache (R482). -/
def loadFromSrcEffect (m : Master) (persist : Bool) (l : Bytes) (how : FetchEnd) (d : Dev) : Dev :=
  if m != hostDriver then d else
  let n := d.getF Reg.RECIPE_SRC_LEN F.RECIPE_SRC_LEN_LEN
  let how := if d.getF Reg.CXL_LINK F.CXL_LINK_PROTO / 2 % 2 == 0 then .error else how
  let busy := d.recipe.fetch.isSome
  let d := d.startFetch ⟨persist, bytesAt l 0 n, n, how⟩
  if busy then d else d.fetchEnd how none (d.getF Reg.RECIPE_SRC F.RECIPE_SRC_ADDR * 64)
def execLoadFromSrc (m : Master) (persist : Bool) (bytes : Bytes) (how : FetchEnd) (s : State) : Host.Outcome State Fault Refusal :=
  ranFrom m s (loadFromSrcEffect m persist bytes how)
/-- The recipe of the current flash slot, as far as its header gives it a length. -/
def Dev.slotImage (d : Dev) : Bytes :=
  let a := recipeSlot (d.dirField 1)
  let h := d.flash a 256
  if (headerFault h).isSome then h else d.flash a (imgSize h)
/-- LOAD_FROM_FLASH. -/
def loadFromFlashEffect (m : Master) (d : Dev) : Dev :=
  if m != hostDriver then d else let l := d.slotImage; d.startFetch ⟨false, l, imgSize l, .ok⟩
def execLoadFromFlash (m : Master) (s : State) : Host.Outcome State Fault Refusal := ranFrom m s (loadFromFlashEffect m)
/-- RECIPE_DISCARD_STAGED. -/
def recipeDiscardStagedEffect (m : Master) (d : Dev) : Dev :=
  if m != hostDriver then d else
  let d := (d.setF Reg.RECIPE_STATUS F.RECIPE_STATUS_CHECKING 0).modRecipe fun r => { r with fetch := none, staged := [], reload := none }
  if d.recipe.reloaded then d.showStaged.bootDone else d.showStaged
def execRecipeDiscardStaged (m : Master) (s : State) : Host.Outcome State Fault Refusal := ranFrom m s (recipeDiscardStagedEffect m)
/-- OPEN_LOCK (R80, R85). -/
def openLockEffect (m : Master) (d : Dev) : Dev :=
  if m != hostDriver then d
  else if d.active then d.recipeEvent 0x1014 Reg.RECIPE_CTRL m.toNat
  else d.setF Reg.RECIPE_STATUS F.RECIPE_STATUS_LOCK_OPEN 1
def execOpenLock (m : Master) (s : State) : Host.Outcome State Fault Refusal := ranFrom m s (openLockEffect m)
/-- CLOSE_LOCK. -/
def closeLockEffect (m : Master) (d : Dev) : Dev := if m != hostDriver then d else d.setF Reg.RECIPE_STATUS F.RECIPE_STATUS_LOCK_OPEN 0
def execCloseLock (m : Master) (s : State) : Host.Outcome State Fault Refusal := ranFrom m s (closeLockEffect m)

/-- RECIPE_CHECK: the fetched image is staged or rejected. RECIPE_ACT_TICK is read in this cycle (R71). -/
def recipeCheckEffect (d : Dev) : Dev :=
  match d.recipe.fetch with
  | none => d
  | some f =>
    let d := (d.setF Reg.RECIPE_STATUS F.RECIPE_STATUS_CHECKING 0).modRecipe fun r => { r with fetch := none }
    if f.how != .ok then d.rejectUnread 1 else
    let act := if imgAct f.image == 0 then (d.reg Reg.RECIPE_ACT_TICK).toNat else imgAct f.image
    match d.fetchFault f act with
    | some r => d.rejectImage f.image r
    | none => d.stage ⟨f.image, act, f.persist, [], false⟩
def execRecipeCheck (s : State) : Host.Outcome State Fault Refusal := ran s recipeCheckEffect

/-! ## Activation of a full recipe (R71 to R74, R78) -/

/-- SLICES_OPEN: a slice 1 to 63 has tray work, an accepted entry or a resident context (log entry 35). -/
def Dev.slicesOpen (d : Dev) : Bool :=
  (List.range 512).any (fun n => d.getB (Reg.TRAY_CFG n) F.TRAY_CFG_ENABLED && ((d.reg (Reg.TRAY_NEXT_SEQ n)) != 0#64 || !(d.tray n).batches.isEmpty))
    || tiles6.any fun t => (d.sch t).entries.any (·.slice != 0) || (d.sch t).ctxs.any fun c => c.slice != 0 && c.placed && c.stage == .resident
/-- The full recipe that is staged. -/
def Dev.stagedFull (d : Dev) : Option StagedImage := d.recipe.staged.find? fun x => imgKind x.image == 0
/-- An image leaves the staged ones. -/
def Dev.unstageImage (d : Dev) (x : StagedImage) : Dev := (d.modRecipe fun r => { r with staged := r.staged.erase x }).showStaged
/-- A flash write of the system steward begins. -/
def Dev.queueWrite (d : Dev) (full : Bool) (l eff : Bytes) : Dev :=
  (d.modRecipe fun r => { r with writes := r.writes ++ [(full, l, eff)] }).setF Reg.RECIPE_STATUS F.RECIPE_STATUS_PERSIST_PENDING 1
/-- The staged full recipe comes into force at the present instant, its activation edge; logged amendments of a reload with it (R83). -/
def Dev.activate (d : Dev) (x : StagedImage) : Dev :=
  let old := if d.active then tiles6.flatMap fun t => (d.cellsOf t).map cellId else []
  let late := d.recipe.staged.filter fun y => imgKind y.image != 0 && decide (x.act ≤ y.act)
  let d := (late.foldl (fun (d : Dev) y => (d.unstageImage y).rejectImage y.image (0x17, 0xFFFF, 0)) (d.unstageImage x))
  let timed := d.section_ secTime 0 == look [] (newCfg [] x.image) (8 * secTime) && !d.active
  let imgs := x.image :: x.replay
  let d := { d with cfg := imgs.foldl newCfg [] }
  let d := d.loadTick
  let d := old.foldl (fun (d : Dev) c => d.raise 0x1015 0 systemSteward c d.tickNo) d
  let d := tiles6.foldl (fun (d : Dev) t => d.freshTile t) d
  let d := d.loadAll
  let d := if timed then d else d.loadTime (d.section_ secTime 0)
  let eff := imgs.foldl digestAfter []
  let d := (d.setEff eff).setReg Reg.RECIPE_ACTIVE_ID (BitVec.ofNat 64 (imgId x.image))
  let d := d.setReg Reg.RECIPE_AMEND_COUNT (BitVec.ofNat 64 x.replay.length)
  let d := d.setFs Reg.RECIPE_STATUS [(F.RECIPE_STATUS_ACTIVE, 1), (F.RECIPE_STATUS_LOCK_OPEN, 0)]
  let d := d.recipeEvent 0x1012 (imgId x.image % 2 ^ 32) (leAt eff 0 8)
  let d := d.modRecipe fun r => { r with persist := x.persist || x.flash, logUsed := if x.flash then r.logUsed else 0, ended := [], ahead := false }
  let d := if x.persist then d.queueWrite true x.image eff else d
  d.bootDone
/-! ## Amendments (R75 to R79) -/

/-- Cells that an amendment removes, of the tiles it names. -/
def Dev.removedCells (d c : Dev) : List Nat :=
  let ids := fun (x : Dev) => tiles6.flatMap fun t => (x.cellsOf t).map cellId
  (ids d).filter fun i => !(ids c).contains i
/-- TILE_BUSY: a tile amendment with PARTITION or ROUTES finds a resident inference context or a cell (R76). -/
def Dev.tileBusy (d : Dev) (l : Bytes) : Bool :=
  imgKind l == 1 && (dirOf l).any (fun e => e.type == 1 || e.type == 4) &&
    (!(d.cellsOf (imgTile l)).isEmpty || (d.sch (imgTile l)).ctxs.any fun c => c.placed && c.stage == .resident)
/-- The log of a slot has room for an entry: effective digest and image (log entry 36). -/
def Dev.logRoom (d : Dev) (l : Bytes) : Bool := decide (d.recipe.logUsed + 32 + l.length ≤ 0x400000)
/-- An amendment of the coming tick is applied, or rejected as a whole. -/
def Dev.amend (S : Nat) (d : Dev) (x : StagedImage) : Dev :=
  let l := x.image
  let c : Dev := { d with cfg := newCfg d.cfg l }
  let d := d.unstageImage x
  let r := firstRej [fun _ => imageRej 0x12 (need (!staleBase l d.effDigest d.active) 72), fun _ => imageRej 0x13 (need (!d.misaligned c l x.act) 32),
    fun _ => imageRej 0x14 (need (x.act == S) 32), fun _ => imageRej 0x16 (need (!d.tileBusy l) 0)]
  match r with
  | some r => d.rejectImage l r
  | none =>
    let gone := d.removedCells c
    let d := { d with cfg := c.cfg }
    let d := (dirOf l).foldl (fun (d : Dev) e => e.tiles.foldl (fun (d : Dev) t => d.loadPart e.type t) d) d
    let d := ((dirOf l).filter (·.type == 1)).foldl (fun (d : Dev) e => e.tiles.foldl (fun (d : Dev) t =>
      ((List.range 17).filter fun k => d.fenced t (0x100 + k)).foldl (fun (d : Dev) k => d.fenceCore t k) d) d) d
    let d := d.modRecipe fun r => { r with ended := r.ended ++ gone.map fun i => (i, S) }
    let eff := digestAfter d.effDigest l
    let d := ((d.setEff eff).count Reg.RECIPE_AMEND_COUNT F.RECIPE_AMEND_COUNT_COUNT 1).recipeEvent 0x1013 (imgId l % 2 ^ 32) (leAt eff 0 8)
    if !d.recipe.persist then d
    else if d.logRoom l then (d.queueWrite false l eff).modRecipe fun r => { r with logUsed := r.logUsed + 32 + l.length }
    else d.recipeEvent 0x1016 (imgId l % 2 ^ 32) (2 + d.recipeF F.RECIPE_STATUS_SLOT * 2 ^ 8)
/-- Step 1 of the boundary slot of tick S − 1: amendments stated for tick S, in staging order; one whose tick has passed is LATE. -/
def Dev.amendments (d : Dev) (S : Nat) : Dev :=
  (d.recipe.staged.filter fun x => imgKind x.image != 0 && decide (x.act ≤ S)).foldl (Dev.amend S) d
/-- The edge of tick S: cells removed for it are reported (R77). -/
def Dev.endedCells (d : Dev) : Dev :=
  let (now, later) := d.recipe.ended.partition fun p => decide (p.2 ≤ d.tickNo)
  now.foldl (fun (d : Dev) p => d.raise 0x1015 0 systemSteward p.1 p.2) (d.modRecipe fun r => { r with ended := later })

/-! ## Persistence and reload (R82, R83, R509) -/

/-- The bytes that queued amendments will take of the log. -/
def queuedBytes (l : List (Bool × Bytes × Bytes)) : Nat := (l.map fun (w : Bool × Bytes × Bytes) => if w.1 then 0 else 32 + w.2.1.length).sum
/-- RECIPE_PERSIST_DONE: the oldest flash write is verified, or failed. A recipe goes to the slot that is not current, with an empty log, and
the slot becomes current; an amendment is appended to the current slot's log. When a recipe's write fails its amendments' writes go too. -/
def recipePersistDoneEffect (ok : Bool) (d : Dev) : Dev :=
  match d.recipe.writes with
  | [] => d
  | (full, l, eff) :: rest =>
    let slot := d.dirField 1
    let to_ := if full then 1 - slot else slot
    let left := if full && !ok then rest.dropWhile fun w => !w.1 else rest
    let at_ := d.recipe.logUsed - queuedBytes d.recipe.writes
    let d := (d.modRecipe fun r => { r with writes := left }).setF Reg.RECIPE_STATUS F.RECIPE_STATUS_PERSIST_PENDING (if left.isEmpty then 0 else 1)
    let d :=
      if full then
        if ok then (((d.flashWrite (recipeSlot to_) l).flashWrite (amendLog to_) (List.replicate 288 0xFF#8)).setDir 1 to_).setF Reg.RECIPE_STATUS F.RECIPE_STATUS_SLOT to_
        else d.modRecipe fun r => { r with persist := false }
      else if ok then d.flashWrite (amendLog to_ + at_) (eff ++ l ++ List.replicate (min 288 (0x400000 - (at_ + 32 + l.length))) 0xFF#8)
      else d.modRecipe fun r => { r with logUsed := r.logUsed - (32 + l.length) }
    d.recipeEvent 0x1016 (imgId l % 2 ^ 32) ((if ok then 0 else 1) + to_ * 2 ^ 8)
def execRecipePersistDone (ok : Bool) (s : State) : Host.Outcome State Fault Refusal := ran s (recipePersistDoneEffect ok)

/-- The entries of an amendment log: digest logged, image; fuel bounds their number. -/
def Dev.logEntries (d : Dev) (a stop : Nat) : Nat → List (Bytes × Bytes)
  | 0 => []
  | n + 1 =>
    let h := d.flash (a + 32) 256
    if (headerFault h).isSome || decide (a + 32 + imgSize h > stop) then []
    else (d.flash a 32, d.flash (a + 32) (imgSize h)) :: d.logEntries (a + 32 + imgSize h) stop n
/-- The logged amendments replay over a recipe: every image passes its checks and leads to the digest logged with it. -/
def Dev.replayFault (d : Dev) (cfg : SMap Bytes) (eff : Bytes) : List (Bytes × Bytes) → Option (Bytes × Rej)
  | [] => none
  | (g, l) :: r =>
    let e := digestAfter eff l
    match firstRej [fun _ => d.contentFault cfg l, fun _ => imageRej 0x12 (need (bytesAt l 72 32 == eff && e == g) 72)] with
    | some x => some (l, x)
    | none => d.replayFault (newCfg cfg l) e r
/-- RECIPE_RELOAD: the recipe of the current slot is checked with its logged amendments. Its TIME section takes effect and its PTP-capable
ports come up for PTP and ESMC (R509). Without a valid recipe ACTIVE stays 0, and the boot is over. -/
def recipeReloadEffect (d : Dev) : Dev :=
  if !d.sp.trained || !d.sp.released || d.active || d.recipe.reloaded then d else
  let slot := d.dirField 1
  let d := (d.setF Reg.RECIPE_STATUS F.RECIPE_STATUS_SLOT slot).modRecipe fun r => { r with reloaded := true }
  let l := d.slotImage
  let log := d.logEntries (amendLog slot) (amendLog slot + 0x400000) 4096
  let bad := match d.contentFault [] l with
    | some r => some (l, r)
    | none => if imgKind l != 0 then some (l, (3, 0xFFFF, 6)) else d.replayFault (newCfg [] l) (imgDigest l) log
  match bad with
  | some (x, r) => (d.rejectImage x r).bootDone
  | none =>
    let imgs := log.map (·.2)
    let cfg := (l :: imgs).foldl newCfg []
    let d := d.modRecipe fun r => { r with reload := some (l, imgs), reloadAt := d.now, logUsed := (log.map fun e => 32 + e.2.length).sum, ahead := true }
    let s := look [] cfg (8 * secTime)
    let d := Dev.loadTime { d with cfg := store [] (store [] d.cfg (8 * secTime) s) (8 * secEthernet) (look [] cfg (8 * secEthernet)) } s
    allPorts.foldl (fun (d : Dev) g => match g with
      | .eth p => if d.ptpMode p != 0 then d.loadEth p else d
      | .braid _ => d) d
def execRecipeReload (s : State) : Host.Outcome State Fault Refusal := ran s recipeReloadEffect

/-- The first tick from n on whose edge is a multiple of a span. -/
def nextAligned (n u span : Nat) : Nat := (List.range (span / u + 1)).foldl (fun k _ => if k * u % span == 0 then k else k + 1) n
/-- RELOAD_END: with the checks done and the clock LOCKED, or LOCK_WAIT passed, the recipe is staged for the first tick that R71 and R72 allow. -/
def reloadEndEffect (d : Dev) : Dev :=
  match d.recipe.reload with
  | none => d
  | some (l, imgs) =>
    let wait := d.policy / 2 ^ 16
    let locked := d.getF Reg.TIME_STATUS F.TIME_STATUS_STATE == 2
    if !locked && (wait == 0 || decide (d.now - d.recipe.reloadAt < wait * 5000000000)) then d else
    let c : Dev := { d with cfg := newCfg [] l }
    let slots := (tiles6.flatMap c.cellsOf).map slotU
    let span := slots.foldl max (max d.tickU (c.cfgTick * kcU))
    let act := nextAligned (d.tickNo + 8) d.tickU span
    let d := d.modRecipe fun r => { r with reload := none }
    let x : StagedImage := ⟨l, act, false, imgs, true⟩
    (d.modRecipe fun r => { r with staged := r.staged ++ [x] }).showStaged.recipeEvent 0x1010 (imgId l % 2 ^ 32) 0
def execReloadEnd (s : State) : Host.Outcome State Fault Refusal := ran s reloadEndEffect

end Sys2Proof.Machine
end

