-- ==== Sys2Proof/Machine/RegAccess.lean ====
section
/-! DEFINITION. RegAccess: accesses to registers that have no row of their own: writes by access type, clears of error captures, reads of RC
counters (R6, R31, R80, R81, R111, R408, R489). -/
namespace Sys2Proof.Machine

/-- A register lies in a block the boot ROM serves in recovery mode: SYS or SEC (R510). -/
def romServes (off : Nat) : Bool := off / 0x10000 == 0x10 || off / 0x10000 == 0x1E
/-- A master reaches a register of no row of its own: a slice its own slice-scoped ones alone (R408, Table 17.4). -/
def reaches (m : Master) (off : Nat) : Bool :=
  if !isSliceMaster m.toNat then true else
  let s := m.toNat % 64
  off == Reg.SLICE_EV_PTR s || off == Reg.SLICE_EV_DISCARD s || (s == 0 && tiles6.any fun t => off == Reg.RADIO_IND_HEAD t)
/-- Registers whose writes have rows of their own, by the base of their row. -/
def ownRows : List Nat :=
  [Reg.TICK_TRIM 0 0, Reg.KNEAD_CONTEXT 0 0, Reg.KNEAD_CONTEXT_ID 0 0, Reg.KNEAD_STEP 0 0, Reg.KNEAD_SEED 0 0 0, Reg.KNEAD_STREAM 0 0,
    Reg.SIEVE_CONTEXT 0 0, Reg.PROOF_CTR 0 0, Reg.PEEL_DATA 0 0, Reg.PEEL_CTRL 0, Reg.TIME_PULSE_CTRL 0, Reg.DEVICE_EV_RING, Reg.MEMB_SHADOW,
    Reg.BRAID_ALIAS 0, Reg.ETH_GATE_ADMIN_BASE_SEC 0, Reg.ETH_GATE_ADMIN_TIME 0, Reg.ETH_GATE_ADMIN_N 0, Reg.ETH_GATE_STORE 0 0 0,
    Reg.BRAID_GATE_ADMIN_BASE_SEC 0, Reg.BRAID_GATE_ADMIN_TIME 0, Reg.BRAID_GATE_ADMIN_N 0, Reg.BRAID_GATE_STORE 0 0 0]
/-- A write of a reachable register takes effect: its RW and RWL fields, and what follows from them. -/
def Dev.regWrite (d : Dev) (m : Master) (r : RegRow) (ix : List Nat) (off : Nat) (v : Word) : Dev :=
  let t := ix.headD 0
  let host := m == hostDriver
  let block := off / 0x10000
  if block == 0x16 || block == 0x1E || r.base == Reg.INTEG_TEST_ADDR || r.base == Reg.INTEG_TEST_CHECK || r.base == Reg.INTEG_TEST_DATA 0 then
    if !host then d
    else if r.base == Reg.MEMB_COLL 0 then
      if v.toNat % 2 == 1 then d else (d.rwWrite off v).modMemb fun x => { x with colls := erase x.colls t }
    else (d.rwWrite off v).membShow
  else if r.base == Reg.RADIO_IND_HEAD 0 then if m == 0xC000#16 then d.rwWrite off v else d
  else if r.base == Reg.BRAID_EPOCH then if m == systemSteward then d.braidNewEpoch (v.toNat % 16) else d
  else
    let d := d.rwWrite off v
    if r.base == Reg.TICK_MAP 0 0 then (d.resetTrims t).untrim t
    else if r.base == Reg.SLICE_CFG 0 then if d.getF (Reg.SLICE_STATUS t) F.SLICE_STATUS_STATE ≤ 1 then d.setSliceState t (d.getF off F.SLICE_CFG_EN) else d
    else if r.base == Reg.TIME_TOD then d.modTime fun x => { x with todSet := true }
    else if r.base == Reg.BRAID_PAIR_SEL || r.base == Reg.BRAID_PUT_STATUS || r.base == Reg.BRAID_CFG then d.braidShow
    else d
/-- REGISTER_WRITE. A write of another size than 8 bytes, or not aligned, is ignored with event 0xE0C5 (R489); an RWL register takes one only
while the recipe lock is open, and otherwise counts it with event 0x1014 (R81). -/
def registerWriteEffect (m : Master) (off size : Nat) (v : Word) (d : Dev) : Dev :=
  if d.recovery && !romServes off then d
  else if fromHost m && (size != 8 || off % 8 != 0) then d.raise 0xE0C5 0xFF cxlPort (off % 2 ^ 32) (size % 2 ^ 8 + m.toNat * 2 ^ 8)
  else match findReg off with
    | none => d
    | some (r, ix) =>
      if !reaches m off || ownRows.contains r.base then d
      else if (r.flds.any (·.acc == .rwl)) && !d.getB Reg.RECIPE_STATUS F.RECIPE_STATUS_LOCK_OPEN then
        (d.count Reg.RECIPE_LOCKED_WRITES F.RECIPE_LOCKED_WRITES_COUNT 1).recipeEvent 0x1014 (off % 2 ^ 32) m.toNat
      else d.regWrite m r ix off v
def execRegisterWrite (m : Master) (off size : Nat) (v : Word) (s : State) : Host.Outcome State Fault Refusal := ranSys m s (registerWriteEffect m off size v)

/-- ERROR_CAPTURE_CLEAR: a 1 written to VALID clears every field of the capture, its second register with it. -/
def errorCaptureClearEffect (m : Master) (off : Nat) (d : Dev) : Dev :=
  match findReg off with
  | none => d
  | some (r, ix) =>
    if !reaches m off || r.base == Reg.TIER_FLAGS 0 0 || !(r.flds.any (·.acc == .w1c)) then d else
    let d := d.setReg off 0#64
    let t := ix.headD 0
    let k := ix.getD 1 0
    if r.base == Reg.KNEAD_TILE_NONFINITE 0 0 then d.setReg (Reg.KNEAD_TILE_NONFINITE_LOAF t k) 0#64
    else if r.base == Reg.SIEVE_ERROR 0 0 then d.setReg (Reg.SIEVE_ERROR_LOAF t k) 0#64
    else d
def execErrorCaptureClear (m : Master) (off : Nat) (s : State) : Host.Outcome State Fault Refusal := ranFrom m s (errorCaptureClearEffect m off)

/-- RC_COUNTER_READ: the register's value, then its RC fields are cleared, a counter with its overflow bit. TIME_CAPT_SEC and PEEL_LOCK have rows
of their own. A slice reads a register outside its reach as zero. -/
def rcCounterReadEffect (m : Master) (off : Nat) (d : Dev) : Dev :=
  match findReg off with
  | none => { d with readOut := 0#64 }
  | some (r, _) =>
    if r.base == Reg.TIME_CAPT_SEC 0 || r.base == Reg.PEEL_LOCK 0 || !(r.flds.any (·.acc == .rc)) then d
    else if !reaches m off then { d with readOut := 0#64 }
    else
      let v := d.reg off
      { d.setReg off (v &&& ~~~(rowMask r (· == .rc))) with readOut := v &&& ~~~(rowMask r (· == .wo)) }
def execRcCounterRead (m : Master) (off : Nat) (s : State) : Host.Outcome State Fault Refusal :=
  if romServes off then ranSys m s (rcCounterReadEffect m off) else ranRead m s (rcCounterReadEffect m off)

end Sys2Proof.Machine
end

