-- ==== Sys2Proof/Machine/Spdm.lean ====
section
/-! DEFINITION. Spdm: the security processor as an SPDM 1.3 responder over DOE, and IDE_KM in its sessions (R494, R511, R512).
The spec names the protocol and states which requests are supported, what they do here, and the measurement blocks; response codes are
those of DSP0274 and the encoding of a response is an opaque function of its values (log entry 32). -/
namespace Sys2Proof.Machine

/-- An answer: response code, session, values, data, signature. One above an object's 32 KiB waits for CHUNK_GET. -/
def Dev.answer (d : Dev) (code sid : Nat) (vals : List Nat) (data sig : Bytes) : Dev :=
  let l := Config.spdmReply code sid vals data sig
  if l.length ≤ 0x8000 then d.send (.doe l)
  else (d.modSp fun x => { x with reply := l, chunkSeq := 0 }).send (.doe (Config.spdmReply 0x7F sid [0x0F] [] []))
/-- An error response. -/
def Dev.spdmError (d : Dev) (code sid : Nat) : Dev := d.answer 0x7F sid [code] [] []
/-- Requests are served by running firmware only: before the stewards are released the port answers configuration requests with Retry Status
(R508), and in recovery mode SPDM is answered as an object not listed (R510). -/
def Dev.spdmRun (d : Dev) (f : Dev → Dev) : Dev := if d.secStage == 0 then d else if d.secStage != 1 then d.send (.doe []) else f d
/-- A request of the negotiated connection, added to the transcript. -/
def Dev.spdmAt (d : Dev) (need : Nat) (req : Bytes) (f : Dev → Dev) : Dev :=
  d.spdmRun fun d => if d.sp.spdm < need then d.spdmError 0x04 0 else f (d.modSp fun x => { x with log := x.log ++ req })
/-- The connection has negotiated up to a stage. -/
def Dev.spdmStage (d : Dev) (n : Nat) : Dev := d.modSp fun x => { x with spdm := n }

/-- GET_VERSION begins a connection: version 1.3. -/
def getVersionEffect (req : Bytes) (d : Dev) : Dev :=
  d.spdmRun fun d => (d.modSp fun x => { x with spdm := 1, log := req }).answer 0x04 0 [0x13] [] []
def execGetVersion (req : Bytes) (s : State) : Host.Outcome State Fault Refusal := ran s (getVersionEffect req)
/-- What R511 supports and does not, in its order: certificates, challenge, measurements signed and unsigned, key exchange, heartbeat,
key update, chunks; mutual authentication, PSK, SET_CERTIFICATE, GET_CSR, event messages. -/
def spdmSupport : List Nat := [1, 1, 1, 1, 1, 1, 1, 1, 0, 0, 0, 0, 0]
/-- GET_CAPABILITIES. -/
def getCapabilitiesEffect (req : Bytes) (d : Dev) : Dev := d.spdmAt 1 req fun d => (d.spdmStage 2).answer 0x61 0 spdmSupport [] []
def execGetCapabilities (req : Bytes) (s : State) : Host.Outcome State Fault Refusal := ran s (getCapabilitiesEffect req)
/-- NEGOTIATE_ALGORITHMS: ML-DSA-44 and ML-KEM-768 by their extended numbers. -/
def negotiateAlgorithmsEffect (req : Bytes) (d : Dev) : Dev := d.spdmAt 2 req fun d => (d.spdmStage 3).answer 0x63 0 [0x0001, 0x0002] [] []
def execNegotiateAlgorithms (req : Bytes) (s : State) : Host.Outcome State Fault Refusal := ran s (negotiateAlgorithmsEffect req)

/-- Measurement block 1 to 7 (Table 22.6). -/
def Dev.measurement (d : Dev) (i : Nat) : Bytes :=
  match i with
  | 1 => leBytes 8 (d.reg Reg.SEC_ROM).toNat
  | 2 => bytesAt d.sp.fw 32 32
  | 3 => leBytes 8 (d.reg Reg.SEC_FW_VERSION).toNat ++ leBytes 4 (d.getF Reg.SEC_FW_INFO F.SEC_FW_INFO_SVN) ++ leBytes 1 (d.getF Reg.SEC_FW_INFO F.SEC_FW_INFO_KEY_INDEX)
      ++ leBytes 1 (d.getF Reg.SEC_STATUS F.SEC_STATUS_SLOT) ++ leBytes 1 (d.getF Reg.SEC_STATUS F.SEC_STATUS_FALLBACK) ++ leBytes 1 0
  | 4 => d.repairDigest
  | 5 => leBytes 4 d.policy
  | 6 => (List.range 4).flatMap fun w => leBytes 8 (d.reg (Reg.RECIPE_EFF_DIGEST w)).toNat
  | 7 => leBytes 8 (d.reg Reg.RECIPE_ACTIVE_ID).toNat ++ leBytes 2 (d.getF Reg.RECIPE_AMEND_COUNT F.RECIPE_AMEND_COUNT_COUNT) ++ leBytes 6 0
  | _ => []
/-- The certificate chain of slot 0: the root of KEY_INDEX, DevID, alias (R511). -/
def Dev.certChain (d : Dev) : Bytes :=
  Config.certChain (leAt d.sp.fw 9 1) (d.flash 0x30000 0x10000)
    (Config.aliasCert (devIdSeed (d.sp.seed.getD 0#256)) (Config.mldsaPublic d.sp.alias_) ([1, 2, 3, 4].flatMap d.measurement))
/-- A signature over the transcript with the alias key. -/
def Dev.spdmSign (d : Dev) (data : Bytes) : Bytes := Config.mldsaSign d.sp.alias_ (d.sp.log ++ data)

/-- GET_DIGESTS: slot 0 alone is provisioned. -/
def getDigestsEffect (req : Bytes) (d : Dev) : Dev := d.spdmAt 3 req fun d => d.answer 0x01 0 [1] (digestBytes (Config.sha3 d.certChain)) []
def execGetDigests (req : Bytes) (s : State) : Host.Outcome State Fault Refusal := ran s (getDigestsEffect req)
/-- GET_CERTIFICATE: a portion of the chain of slot 0, and what remains of it. -/
def getCertificateEffect (slot off len : Nat) (req : Bytes) (d : Dev) : Dev :=
  d.spdmAt 3 req fun d =>
    if slot != 0 then d.spdmError 0x01 0 else
    let l := (d.certChain.drop off).take len
    d.answer 0x02 0 [l.length, d.certChain.length - off - l.length] l []
def execGetCertificate (sl : BitVec 4) (off len : BitVec 16) (req : Bytes) (s : State) : Host.Outcome State Fault Refusal :=
  ran s (getCertificateEffect sl.toNat off.toNat len.toNat req)
/-- CHALLENGE: signed with the alias key. -/
def challengeEffect (slot : Nat) (req : Bytes) (d : Dev) : Dev :=
  d.spdmAt 3 req fun d => if slot != 0 then d.spdmError 0x01 0 else d.answer 0x03 0 [] (digestBytes (Config.sha3 d.certChain)) (d.spdmSign [])
def execChallenge (sl : BitVec 4) (req : Bytes) (s : State) : Host.Outcome State Fault Refusal := ran s (challengeEffect sl.toNat req)
/-- GET_MEASUREMENTS: every block returned is of one instant (R512); index 0 asks for their number, 0xFF for all. -/
def getMeasurementsEffect (i : Nat) (signed : Bool) (req : Bytes) (d : Dev) : Dev :=
  d.spdmAt 3 req fun d =>
    let is := if i == 0xFF then [1, 2, 3, 4, 5, 6, 7] else if i == 0 then [] else [i]
    if decide (7 < i) && i != 0xFF then d.spdmError 0x01 0 else
    let l := is.flatMap d.measurement
    d.answer 0x60 0 (if i == 0 then [7] else is) l (if signed then d.spdmSign l else [])
def execGetMeasurements (index : BitVec 8) (signed : Bool) (req : Bytes) (s : State) : Host.Outcome State Fault Refusal :=
  ran s (getMeasurementsEffect index.toNat signed req)

/-! ## Sessions (R511, R512) -/

/-- The session of an identifier. -/
def Dev.session? (d : Dev) (sid : Nat) : Option Session := d.sp.sessions.find? (·.id == sid)
/-- KEY_EXCHANGE: encapsulates to the requester's ML-KEM-768 key and opens a session; a fifth is refused. -/
def keyExchangeEffect (sid : Nat) (key req : Bytes) (d : Dev) : Dev :=
  d.spdmAt 3 req fun d =>
    if key.length != 1184 then d.spdmError 0x01 0
    else if d.sp.sessions.length ≥ 4 then d.spdmError 0x0A 0
    else
      let (w, d) := d.fresh
      let id := sid + w.toNat % 2 ^ 16 * 2 ^ 16
      let (ct, ss) := Config.mlkem key d.free
      let d := { d with free := d.free + 1 }.modSp fun x => { x with sessions := x.sessions ++ [(⟨id, false, ss, 0⟩ : Session)] }
      (d.secEvent 0xE008 id 0).answer 0x64 id [] ct (d.spdmSign ct)
def execKeyExchange (sid : BitVec 16) (key : Bytes) (req : Bytes) (s : State) : Host.Outcome State Fault Refusal :=
  ran s (keyExchangeEffect sid.toNat key req)
/-- A session is dropped. -/
def Dev.endSession (d : Dev) (sid : Nat) : Dev :=
  (d.modSp fun x => { x with sessions := x.sessions.filter (·.id != sid) }).secEvent 0xE008 sid 1
/-- A request within a session: one that FINISH has completed, or not yet. -/
def Dev.inSession (d : Dev) (sid : Nat) (live : Bool) (f : Session → Dev → Dev) : Dev :=
  d.spdmRun fun d => match d.session? sid with
    | some x => if x.live == live then f x d else d.spdmError 0x04 sid
    | none => d.spdmError 0x02 sid
/-- A session changed. -/
def Dev.putSession (d : Dev) (x : Session) : Dev := d.modSp fun y => { y with sessions := y.sessions.map fun z => if z.id == x.id then x else z }
/-- FINISH completes the session; one whose verification fails ends it. -/
def finishEffect (sid : Nat) (ok : Bool) (d : Dev) : Dev :=
  d.inSession sid false fun x d => if ok then (d.putSession { x with live := true }).answer 0x65 sid [] [] [] else (d.endSession sid).spdmError 0x06 sid
def execFinish (sid : BitVec 32) (ok : Bool) (s : State) : Host.Outcome State Fault Refusal := ran s (finishEffect sid.toNat ok)
/-- END_SESSION. -/
def endSessionEffect (sid : Nat) (d : Dev) : Dev := d.inSession sid true fun _ d => (d.endSession sid).answer 0x6C sid [] [] []
def execEndSession (sid : BitVec 32) (s : State) : Host.Outcome State Fault Refusal := ran s (endSessionEffect sid.toNat)
/-- HEARTBEAT. -/
def spdmHeartbeatEffect (sid : Nat) (d : Dev) : Dev := d.inSession sid true fun _ d => d.answer 0x68 sid [] [] []
def execSpdmHeartbeat (sid : BitVec 32) (s : State) : Host.Outcome State Fault Refusal := ran s (spdmHeartbeatEffect sid.toNat)
/-- KEY_UPDATE: the requester's keys, or those of both directions, go on to their next. -/
def keyUpdateEffect (sid : Nat) (all : Bool) (d : Dev) : Dev :=
  d.inSession sid true fun x d => (d.putSession { x with updates := x.updates + 1 }).answer 0x69 sid [if all then 2 else 1] [] []
def execKeyUpdate (sid : BitVec 32) (all : Bool) (s : State) : Host.Outcome State Fault Refusal := ran s (keyUpdateEffect sid.toNat all)

/-! ## Chunks (R511) -/

/-- CHUNK_SEND: a chunk in its turn is added to the message; the one numbered 0 begins it. -/
def chunkSendEffect (handle seq : Nat) (last : Bool) (l : Bytes) (d : Dev) : Dev :=
  d.spdmRun fun d =>
    if seq != 0 && seq != d.sp.chunkSeq then d.spdmError 0x01 0 else
    (d.modSp fun x => { x with chunks := (if seq == 0 then [] else x.chunks) ++ l, chunkSeq := if last then 0 else seq + 1 }).answer 0x05 0 [handle, seq] [] []
def execChunkSend (handle : BitVec 8) (seq : BitVec 16) (last : Bool) (chunk : Bytes) (s : State) : Host.Outcome State Fault Refusal :=
  ran s (chunkSendEffect handle.toNat seq.toNat last chunk)
/-- CHUNK_GET: a chunk of the response that waits. -/
def chunkGetEffect (handle seq : Nat) (d : Dev) : Dev :=
  d.spdmRun fun d =>
    let l := (d.sp.reply.drop (seq * Config.chunkBytes)).take Config.chunkBytes
    if l.isEmpty then d.spdmError 0x01 0 else
    d.send (.doe (Config.spdmReply 0x06 0 [handle, seq, if d.sp.reply.length ≤ (seq + 1) * Config.chunkBytes then 1 else 0] l []))
def execChunkGet (handle : BitVec 8) (seq : BitVec 16) (s : State) : Host.Outcome State Fault Refusal := ran s (chunkGetEffect handle.toNat seq.toNat)

/-! ## IDE_KM (R494) -/

/-- Where the key of a stream's key set and sub-stream stands, and a stream's active bit in CXL_IDE. -/
def keyAt (cm : Bool) (set sub : Nat) : Nat := (if cm then 32 else 0) + 8 * set + sub
def ideBit (cm : Bool) : Fld := if cm then F.CXL_IDE_CM_ACTIVE else F.CXL_IDE_IO_ACTIVE
/-- IDE_KM QUERY: the two streams and which are active. -/
def ideKmQueryEffect (sid : Nat) (d : Dev) : Dev :=
  d.inSession sid true fun _ d => d.answer 0x7E sid [0, 2, d.getF Reg.CXL_IDE F.CXL_IDE_IO_ACTIVE, d.getF Reg.CXL_IDE F.CXL_IDE_CM_ACTIVE] [] []
def execIdeKmQuery (sid : BitVec 32) (s : State) : Host.Outcome State Fault Refusal := ran s (ideKmQueryEffect sid.toNat)
/-- KEY_PROG installs a stream key. -/
def keyProgEffect (sid : Nat) (cm : Bool) (set sub : Nat) (key : Bytes) (d : Dev) : Dev :=
  d.inSession sid true fun _ d => (d.modSp fun x => { x with keys := store [] x.keys (keyAt cm set sub) key }).answer 0x7E sid [3, 0] [] []
def execKeyProg (sid : BitVec 32) (cm : Bool) (set : Fin 2) (sub : Fin 6) (key : Bytes) (s : State) : Host.Outcome State Fault Refusal :=
  ran s (keyProgEffect sid.toNat cm set sub key)
/-- A stream's key set is installed. -/
def Dev.keySetIn (d : Dev) (cm : Bool) (set : Nat) : Bool := (List.range 6).any fun b => look [] d.sp.keys (keyAt cm set b) != []
/-- K_SET_GO activates a stream's key set. -/
def kSetGoEffect (sid : Nat) (cm : Bool) (set : Nat) (d : Dev) : Dev :=
  d.inSession sid true fun _ d =>
    let d := if !d.keySetIn cm set then d else
      (d.modSp fun x => { x with keySet := store 0 x.keySet (if cm then 1 else 0) (set + 1) }).setB Reg.CXL_IDE (ideBit cm) true
    d.answer 0x7E sid [4] [] []
def execKSetGo (sid : BitVec 32) (cm : Bool) (set : Fin 2) (s : State) : Host.Outcome State Fault Refusal := ran s (kSetGoEffect sid.toNat cm set)
/-- K_SET_STOP stops a stream's key set: a stream that used it is no longer active. -/
def kSetStopEffect (sid : Nat) (cm : Bool) (set : Nat) (d : Dev) : Dev :=
  d.inSession sid true fun _ d =>
    let k := if cm then 1 else 0
    let d := (List.range 6).foldl (fun (d : Dev) b => d.modSp fun x => { x with keys := erase x.keys (keyAt cm set b) }) d
    let d := if look 0 d.sp.keySet k != set + 1 then d else
      (d.modSp fun x => { x with keySet := erase x.keySet k }).setB Reg.CXL_IDE (ideBit cm) false
    d.answer 0x7E sid [4] [] []
def execKSetStop (sid : BitVec 32) (cm : Bool) (set : Fin 2) (s : State) : Host.Outcome State Fault Refusal := ran s (kSetStopEffect sid.toNat cm set)

end Sys2Proof.Machine
end

