-- ==== Sys2Proof/Machine/Reset.lean ====
section
/-! DEFINITION. Reset: core, tile, device and power-on resets (R8 to R11, Table 00.7), the requests for them, and the supply's shutdown
(R521, R530). -/
namespace Sys2Proof.Machine

/-! ## What a reset discards (R227, R443) -/

/-- Accepted, uncompleted entries that `p` selects end DISCARDED, in order; event 0x1025 names each tray's range. -/
def Dev.discardEntries (d : Dev) (t : Nat) (p : Entry → Bool) : Dev :=
  (d.homeTrays t).foldl (fun (d : Dev) n =>
    match (d.sch t).entries.filter fun e => e.tray == n && p e && e.ending.isNone with
    | [] => d
    | e :: r => ((e :: r).foldl (fun (d : Dev) e => d.finish t e 6 0 0) d).raise 0x1025 e.slice systemSteward n
        (e.seq.toNat % 2 ^ 32 + (r.length + 1) * 2 ^ 32)) d
/-- A context of a reset core: its entries are discarded now, and it is freed at the next boundary slot, where the steward may write
its counters (R396). -/
def Dev.discardCtx (t : Nat) (d : Dev) (c : TCtx) : Dev :=
  let d := d.discardEntries t fun e => e.slice == c.slice && entCtx e.raw == c.id
  d.modSch t fun x => { x.putCtx { c with stage := .dead } with
    svc := x.svc.filter fun v => !(v.slice == c.slice && v.ctx == c.id)
    plan := x.plan.filter fun p => !(p.slice == c.slice && p.ctx == c.id)
    running := x.running.filter fun p => !(p.slice == c.slice && p.ctx == c.id) }
/-- Contexts that a core reset discarded are freed. -/
def Dev.freeDead (d : Dev) (t : Nat) : Dev := ((d.sch t).ctxs.filter (·.stage == .dead)).foldl (fun d c => d.freeCtx t c) d

/-! ## A core (Table 00.7) -/

/-- A core's registers, but for its place in the recipe, return to their power-on value. -/
def Dev.resetCoreRegs (d : Dev) (t i : Nat) (knead : Bool) : Dev :=
  d.resetRegs fun r ix => r.reach.contains .core && (decide (Reg.KNEAD_CORE_CFG 0 0 ≤ r.base) == knead) && r.base != Reg.KNEAD_CORE_CFG 0 0 && ix.take 2 == [t, i]
/-- A Sieve: its job is discarded and its registers are reset. -/
def Dev.resetSieve (d : Dev) (t i : Nat) : Dev :=
  let d := if (d.sieve t i).phase == 0 then d else d.endSieve t i 2
  (d.setSieve t i SieveState.init).resetRegs fun r ix => decide (Reg.SIEVE_CONTEXT 0 0 ≤ r.base) && decide (r.base < Reg.SIEVE_CONTEXT 0 0 + 0x100) && ix == [t, i]
/-- What a reset does to the work that sat on a logical core: contexts resident there are discarded, lines zeroed, radio slots lost, the
upper copies in its bench lost, its Sieves reset (R183, R210, R443). -/
def Dev.resetIndex (d : Dev) (t k i : Nat) : Dev :=
  let d := d.tierCoreReset t k
  let d := ((d.sch t).ctxs.filter fun c => c.stage != .saved && c.stage != .dead && c.roles.any (·.core == i)).foldl (Dev.discardCtx t) d
  let d := d.modSch t fun x => { x with svc := x.svc.filter (·.core != i), held := x.held.filter (·.1 != i) }
  (d.resetSieve t (2 * i)).resetSieve t (2 * i + 1)
/-- Core reset of a Knead core: its loaf, bench, registers and counters. Its radio and proving images are copied again by service transfer
where it keeps its index (R443, log entry 38). -/
def Dev.resetKnead (d : Dev) (t k : Nat) (keep : Bool) : Dev :=
  let d := d.loseReset t (some (kneadUnit t k))
  let d := (d.endLoaf t k 2).dropWaits t (kneadUnit t k)
  let at_ := d.logicalOf t k
  let d := match at_ with | some i => d.resetIndex t k i | none => d
  let d := (d.setKn t k KneadCore.init).resetCoreRegs t k true
  let d := d.zeroRange (benchAt t k 0) (benchAt t k 0xC00000) false
  let d := d.breakRange t (48 * k) 48 0
  match at_ with
  | some i =>
    let n := Config.codeBytes (d.section_ secRadioCode t) t i
    if keep && n != 0 then d.addSvc t (d.mkSvc .copy i 0 0xFFFF 0 (ceilDiv n 256)) else d
  | none => d
/-- Core reset of a signal core: its loaf, data memory, both banks, pending sources, registers and counters (R291). -/
def Dev.resetSignal (d : Dev) (t i : Nat) : Dev :=
  let d := d.loseReset t (some (sigUnit t i))
  let d := if (d.sg t i).busy then d.sigEnd t i 2 1 else d
  let d := (d.setSg t i SigCoreState.init).resetCoreRegs t i false
  (d.zeroRange (dmemAt t i 0) (dmemAt t i 0x100000) false).breakRange t (816 + 24 * i) 24 0
/-- A unit that R11 admits: a Knead core by its physical index, or a signal core. -/
def resettable (u : Nat) : Bool := (u / 0x100 == 1 && decide (u % 0x100 < 17)) || (u / 0x100 == 4 && decide (u % 0x100 < 8))
/-- The core reset of a unit. -/
def Dev.coreReset (d : Dev) (t u : Nat) : Dev :=
  let d := d.setTile t { d.tile t with stopped := (d.tile t).stopped.filter fun p => p.1.toNat != u }
  if u / 0x100 == 1 then d.resetKnead t (u % 0x100) true else d.resetSignal t (u % 0x100)

/-! ## A tile -/

/-- What the recipe in force gives a tile returns to it. -/
def Dev.reloadTile (d : Dev) (t : Nat) : Dev :=
  if !d.active then d else
  let d := [0x01, 0x03, 0x05].foldl (fun (d : Dev) ty => d.loadPart ty t) d
  ((d.untrim t).loadCode t).grantGlobals t
/-- Tile reset: cores, engines, steward, pantry and counters (R8, R210, R227, R402, R445). Only what stack DRAM holds stays. The lag falls to
0, so its position is the boundary start; a pause by the governor goes on (log entry 39). -/
def Dev.tileReset (d : Dev) (t : Nat) : Dev :=
  let d := d.loseReset t none
  let d := d.discardEntries t fun _ => true
  let x := d.tile t
  let d := (List.range 17).foldl (fun (d : Dev) k => d.setKn t k KneadCore.init) d
  let d := (List.range 32).foldl (fun (d : Dev) i => d.setSieve t i SieveState.init) d
  let d := (List.range 8).foldl (fun (d : Dev) i => (d.setSg t i SigCoreState.init).setCodec t i CodecState.init) d
  let d := (d.clearCtrs t).resetRegs fun r ix => r.reach.contains .tile && ix.head? == some t
  let d := d.zeroRange (benchAt t 0 0) (benchAt t 17 0) false
  let d := (d.zeroRange (dmemAt t 0 0) (dmemAt t 8 0) false).zeroRange (pmemAt t 0 0) (pmemAt t 8 0) false
  let d := (d.zeroRange (pantryAt t 0) (pantryAt t 0x04000000) false).tierTileReset t
  let d := d.modSch t fun s => { s with ctxs := [], plan := [], running := [], svc := [], held := [], rot := 0 }
  let d := d.modRad t fun r => { RadioState.init with reqs := r.reqs, lost := r.lost, sent := r.sent }
  let d := { d with integ := { d.integ with runs := d.integ.runs.filter (·.tile != t), fences := d.integ.fences.filter (·.1 != t),
                                            cursor := d.integ.cursor.filter (·.1 / 128 != t), wrapped := d.integ.wrapped.filter (· / 128 != t) } }
  let d := (d.peelForce (stewardOf t).toNat 2).modSp fun s => { s with quiet := s.quiet.filter (· != t) }
  let d := d.setTile t { TileState.init with workTick := x.workTick, pos := d.bStart, lk := x.lk, snapTick := x.snapTick, decided := x.decided }
  let d := d.setF (Reg.TICK_TILE_STATUS t) F.TICK_TILE_STATUS_PAUSED (d.getF Reg.PWR_STATUS F.PWR_STATUS_PAUSED / 2 ^ t % 2)
  (d.homeTrays t).foldl (fun d n => Dev.flush t n (d.sch t).entries.length d) (d.reloadTile t)

/-! ## The device -/

/-- Stack DRAM that a device reset leaves as it was. -/
def keptByDevice (a : Nat) : Bool := decide (a < dramSize) && decide (a % 2 ^ 37 < 0x1FF0000000)
/-- The boot starts again from the firmware read, with the seed kept; without a seed the device is in recovery mode again (R502, R509). -/
def Dev.rebooted (d : Dev) (old : SecState) : Dev :=
  let d := d.modSp fun _ => { SecState.init with
    flash := old.flash, seed := old.seed, pufRead := old.pufRead, trained := old.trained, switched := old.switched, vinAt := old.vinAt }
  let d := if old.pufRead then d.setReg Reg.SEC_ROM Config.romVersion else d
  let d := old.sessions.foldl (fun (d : Dev) x => d.secEvent 0xE008 x.id 2) d
  if old.pufRead && old.seed.isNone then (d.imageRejected 4 8).recover_ 8 else d
/-- Device reset (Table 00.7): everything but device time and the servo, training results, the seed, stack DRAM outside the reserves, and
the supply, whose registers only a power-on reset reaches. -/
def Dev.deviceReset (d : Dev) : Dev :=
  let keep := fun (a : Nat) (fs : List Fld) (n : Dev) => n.setFs a (fs.map fun f => (f, d.getF a f))
  let n := { Dev.init with
    now := d.now, free := d.free, sent := d.sent,
    regs := d.regs.filter fun e => match findReg e.1 with | some (r, _) => !r.reach.contains .device | none => false
    mem := d.mem.filter fun c => keptByDevice c.1
    lineErr := d.lineErr.filter fun c => keptByDevice (c.1 * 64)
    written := d.written.filter fun c => keptByDevice (c.1 * 64)
    time := { d.time with pulses := [], capts := [] }
    power := { d.power with energy := [], hot := [], runs := 0, paused := [], warned := [] } }
  let n := { n with edge := n.tickNo }
  let n := keep Reg.PWR_STATUS [F.PWR_STATUS_SUPPLY, F.PWR_STATUS_VIN_LOW, F.PWR_STATUS_BALLAST] n
  let n := keep Reg.PWR_EXCESS [F.PWR_EXCESS_BUCKET] (keep Reg.PWR_VIN [F.PWR_VIN_VOLT, F.PWR_VIN_CURR, F.PWR_VIN_POWER] n)
  let n := tiles6.foldl (fun n t => keep (Reg.PWR_TEMP t) [F.PWR_TEMP_LOGIC, F.PWR_TEMP_DRAM_MAX, F.PWR_TEMP_STACK] n) n
  n.rebooted d.sp
/-- Power-on reset: the whole device; the card flash outlives it. -/
def Dev.powerOn (d : Dev) : Dev := { Dev.init with free := d.free, sent := d.sent, sp := { SecState.init with flash := d.sp.flash } }

/-! ## The commands -/

/-- POWER_ON_RESET: VIN rises through 38 V (R521). -/
def powerOnResetEffect (d : Dev) : Dev := d.powerOn
def execPowerOnReset (s : State) : Host.Outcome State Fault Refusal := ranAlways s powerOnResetEffect
/-- RESET_PIN: RESET_N held low for at least 1 µs. -/
def resetPinEffect (d : Dev) : Dev := d.deviceReset
def execResetPin (s : State) : Host.Outcome State Fault Refusal := ran s resetPinEffect
/-- CXL_LINK_RESET: DL_Down, Hot Reset or Link Disable (R483). -/
def cxlLinkResetEffect (d : Dev) : Dev := d.deviceReset
def execCxlLinkReset (s : State) : Host.Outcome State Fault Refusal := ran s cxlLinkResetEffect
/-- IDE_INTEGRITY_FAILURE: the stream becomes insecure; under IDE_REQUIRED the device reset follows, and keys must be installed again. -/
def ideIntegrityFailureEffect (cm : Bool) (d : Dev) : Dev :=
  if d.getF Reg.CXL_IDE (ideBit cm) == 0 then d else
  let req := d.getB Reg.CXL_IDE F.CXL_IDE_REQUIRED
  let d := if req then d.deviceReset else d.setF Reg.CXL_IDE (ideBit cm) 0
  d.raise 0xE0C3 0xFF cxlPort (if cm then 1 else 0) (if req then 1 else 0)
def execIdeIntegrityFailure (cm : Bool) (s : State) : Host.Outcome State Fault Refusal := ran s (ideIntegrityFailureEffect cm)

/-- SYS_RESET_STATUS after a request. -/
def Dev.resetStatus (d : Dev) (pending result : Nat) : Dev :=
  d.setFs Reg.SYS_RESET_STATUS [(F.SYS_RESET_STATUS_PENDING, pending), (F.SYS_RESET_STATUS_RESULT, result)]
/-- A request while another waits is refused: RESULT reads 2. -/
def Dev.resetRefused (d : Dev) : Dev := d.setF Reg.SYS_RESET_STATUS F.SYS_RESET_STATUS_RESULT 2
/-- A request awaits its boundary slot. -/
def Dev.resetPending (d : Dev) : Bool := d.getB Reg.SYS_RESET_STATUS F.SYS_RESET_STATUS_PENDING
/-- TILE_RESET_REQUEST: SYS_RESET_REQ with KIND 1. -/
def tileResetRequestEffect (m : Master) (t : Nat) (d : Dev) : Dev :=
  if m != hostDriver then d
  else if d.resetPending || decide (t > 5) then d.resetRefused
  else (d.setTile t { d.tile t with resetAsked := true }).setF Reg.SYS_RESET_STATUS F.SYS_RESET_STATUS_PENDING 1
def execTileResetRequest (m : Master) (tile : BitVec 3) (unit : BitVec 13) (s : State) : Host.Outcome State Fault Refusal :=
  ranSys m s fun d => let _ := unit; tileResetRequestEffect m tile.toNat d
/-- CORE_RESET_REQUEST: SYS_RESET_REQ with KIND 2. -/
def coreResetRequestEffect (m : Master) (t : Nat) (unit : BitVec 13) (d : Dev) : Dev :=
  if m != hostDriver then d
  else if d.resetPending || decide (t > 5) || !resettable unit.toNat then d.resetRefused
  else (d.setTile t { d.tile t with coreAsked := some unit }).setF Reg.SYS_RESET_STATUS F.SYS_RESET_STATUS_PENDING 1
def execCoreResetRequest (m : Master) (tile : BitVec 3) (unit : BitVec 13) (s : State) : Host.Outcome State Fault Refusal :=
  ranSys m s (coreResetRequestEffect m tile.toNat unit)
/-- The instant at which the boundary slot of the present tick opens. -/
def Dev.slotOpens (d : Dev) : Nat := (d.tickNo + 1) * d.tickU - d.bLen * kcU
/-- FALLBACK_TILE_RESET: at the snapshot of the 64th tick in a row that a tile ran under the fallback plan. -/
def fallbackTileResetEffect (t : Nat) (d : Dev) : Dev :=
  let x := d.tile t
  if !d.active || !x.fallback || x.skipped || decide (x.lateRun < 64) then d else (d.advanceTo d.slotOpens).tileReset t
def execFallbackTileReset (t : Tile) (s : State) : Host.Outcome State Fault Refusal := ran s (fallbackTileResetEffect t)
/-- STUCK_CORE_RESET: 256 kc after the window edge at which the core was stopped it is still not idle. -/
def stuckCoreResetEffect (t : Nat) (unit : BitVec 13) (d : Dev) : Dev :=
  match (d.tile t).stopped.find? (·.1 == unit) with
  | none => d
  | some (_, lk) => if d.paused t then d else (d.advance (lk + 256 - (d.tile t).lk)).coreReset t unit.toNat
def execStuckCoreReset (t : Tile) (unit : BitVec 13) (s : State) : Host.Outcome State Fault Refusal := ran s (stuckCoreResetEffect t unit)

/-! ## Shutdown and recovery (R521, R530) -/

/-- SHUTDOWN: every loaf is discarded, the supply ramps down; cause 1 undervoltage, 2 overvoltage, 3 thermal, 4 overcurrent. Voltage in 10 mV
and power in W come with the command. -/
def shutdownEffect (cause volt power : Nat) (d : Dev) : Dev :=
  let d := (d.setF Reg.PWR_VIN F.PWR_VIN_VOLT volt).setF Reg.PWR_VIN F.PWR_VIN_POWER power
  let d := d.raise 0xF004 0xFF supplyUnit cause (volt + power * 2 ^ 16)
  let d := tiles6.foldl (fun (d : Dev) t => d.dropWork t) d
  let d := d.setF Reg.PWR_STATUS F.PWR_STATUS_SUPPLY 2
  d.modPower fun x => { x with off := cause, thermtrip := decide (cause = 3) }
def execShutdown (cause : Fin 4) (volt power : BitVec 16) (s : State) : Host.Outcome State Fault Refusal :=
  ran s (shutdownEffect (cause.val + 1) volt.toNat power.toNat)
/-- OVERVOLTAGE_RECOVERY: VIN below 60 V for 10 ms after the overvoltage raises a power-on reset. -/
def overvoltageRecoveryEffect (d : Dev) : Dev := if d.power.off = 2 then d.powerOn else d
def execOvervoltageRecovery (s : State) : Host.Outcome State Fault Refusal := ranAlways s overvoltageRecoveryEffect

end Sys2Proof.Machine
end

