-- ==== Sys2Proof/Machine/Tick.lean ====
section
/-! DEFINITION. Tick: landing flags, the tick edge, window edges, the boundary slot, plans and trims (R33 to R56), pause runs (R529), and the
activation of a recipe at an edge (R35, R71). Placement and the other decisions of the slot are in Sched, Tray and the chapters they cite. -/
namespace Sys2Proof.Machine

/-- Change a tile. -/
def Dev.modTile (d : Dev) (t : Nat) (f : TileState → TileState) : Dev := d.setTile t (f (d.tile t))
/-- The present tick's edge, and kc since then. -/
def Dev.edgeAt (d : Dev) : Nat := d.tickNo * d.tickU
def Dev.offset (d : Dev) : Nat := (d.now - d.edgeAt) / kcU

/-! ## Landing (R19 to R21) -/

/-- LANDING_ARRIVAL: a flag is set. Without room a frame's discard is counted at its port, and any other source is held back (R20). -/
def landingArrivalEffect (t flag : Nat) (room : Bool) (d : Dev) : Dev :=
  if !room || (d.tile t).flags.contains flag then d else d.modTile t fun x => { x with flags := x.flags ++ [flag] }
def execLandingArrival (t : Tile) (src : LandSrc) (flag : Nat) (room : Bool) (s : State) : Host.Outcome State Fault Refusal :=
  ran s fun d => let _ := src; landingArrivalEffect t flag room d

/-! ## The edge (R33 to R35, R47, R54 to R56) -/

/-- What an edge does outside the tiles: vectors of the rings written, energy, leaks, a fence of the device decided, cells that ended. -/
def Dev.edgeDevice (d : Dev) : Dev := d.ringVectors.energyEdge.leakEdge.fenceEdge.endedCells
/-- Core resets raised in the boundary slot take effect. -/
def Dev.edgeResets (d : Dev) (t : Nat) : Dev :=
  let us := (d.tile t).coreResets
  us.foldl (fun (d : Dev) u => d.coreReset t u.toNat) (d.modTile t fun x => { x with coreResets := [] })
/-- Units fenced in the boundary slot run nothing from this edge; a Knead core's index goes to the spare, as a core reset reaches it (R443). -/
def Dev.edgeFences (d : Dev) (t : Nat) : Dev :=
  let fs := d.integ.fences.filter (·.1 == t)
  let d := { d with integ := { d.integ with fences := d.integ.fences.filter (·.1 != t) } }
  fs.foldl (fun (d : Dev) f =>
    let u := f.2.1
    let d := if u / 0x100 == 1 then d.resetKnead t (u % 0x100) false else d
    let d := d.markFence t u f.2.2.1 f.2.2.2
    if u / 0x100 == 1 then d.fenceCore t (u % 0x100) else d) d
/-- A tile of the group has not reached the boundary start (R56). -/
def Dev.groupLags (d : Dev) (t : Nat) : Bool := tiles6.any fun u => d.groupOf u == d.groupOf t && decide ((d.tile u).pos < d.bStart)
/-- The tile goes on with its earlier tick; a plan for the skipped one is placed again later. -/
def Dev.skipTick (d : Dev) (t : Nat) : Dev :=
  let N := d.tickNo
  let d := d.pauseSvc t d.edgeAt
  let ps := (d.sch t).plan
  let d := ps.foldl (fun (d : Dev) p => d.modSch t fun x => x.modGroup (p.tray, p.seq) fun e => { e with pos := min e.pos (max e.done p.index) }) d
  let d := d.modSch t fun x => { x with plan := [] }
  let d := d.modTile t fun x => { x with skipped := true, committed := false, late := false, decided := false }
  let d := (d.resetTrims t).count (Reg.TICK_TILE_STATUS t) F.TICK_TILE_STATUS_SKIP_COUNT 1
  (d.raise 0x1002 0xFF (stewardOf t) t N).loseTick t N
/-- The fallback plan counts, once. -/
def Dev.countLate (d : Dev) (t : Nat) : Dev := d.count (Reg.TICK_TILE_LATE t) F.TICK_TILE_LATE_LATE_COUNT 1
/-- LEN_ACTIVE takes LEN_NEXT. -/
def Dev.takeTrims (d : Dev) (t : Nat) : Dev :=
  (List.range 64).foldl (fun (d : Dev) m => d.setF (Reg.TICK_TRIM t m) F.TICK_TRIM_LEN_ACTIVE (d.getF (Reg.TICK_TRIM t m) F.TICK_TRIM_LEN_NEXT)) d
/-- The tile begins the present tick, under its committed plan or the fallback plan. -/
def Dev.beginTick (d : Dev) (t : Nat) : Dev :=
  let N := d.tickNo
  let x := d.tile t
  let on := d.active
  let ok := x.committed && !x.late
  let d := if on && !ok && !x.late then d.countLate t else d
  let d := if on && !x.committed then d.raise 0x1001 0xFF (stewardOf t) t 0xFFFFFFFF else d
  let o := min d.bStart d.offset
  let held := d.paused t
  let d := d.setF (Reg.TICK_TILE_STATUS t) F.TICK_TILE_STATUS_LAG (if held then o else 0)
  let d := d.modTile t fun x => { x with
    workTick := N, pos := if held then 0 else o, skipped := false, fallback := on && !ok, committed := false, late := false,
    lateRun := if on && !ok then x.lateRun + 1 else 0, atRisk := false, decided := false }
  let d := (if ok then d.takeTrims t else d.untrim t).resetTrims t
  ((d.schedEdge t d.edgeAt ok).fencedSlots t N).slotIndications t N
/-- TICK_EDGE: device time moves to the next edge, unless the present tick's edge has not been passed yet. -/
def tickEdgeEffect (d : Dev) : Dev :=
  let d := if d.tickNo == d.edge then d.advanceTo ((d.tickNo + 1) * d.tickU) else d
  let d := Dev.edgeDevice { d with edge := d.tickNo }
  let skips := tiles6.filter fun t => d.active && d.groupLags t
  let d := tiles6.foldl (fun (d : Dev) t => (d.edgeResets t).edgeFences t) d
  tiles6.foldl (fun (d : Dev) t => if skips.contains t then d.skipTick t else d.beginTick t) d
def execTickEdge (s : State) : Host.Outcome State Fault Refusal := ran s tickEdgeEffect

/-! ## Activation of a full recipe at its edge (R35, R71 to R73) -/

/-- RECIPE_ACTIVATION: device time moves to the edge of the staged recipe's tick; the checks of 0x12 to 0x17 are made again. The edge itself
is passed under the old numbering, and every tile begins the activation tick under the new one. -/
def recipeActivationEffect (d : Dev) : Dev :=
  match d.stagedFull with
  | none => d
  | some x =>
    let u := x.act * d.tickU
    let c : Dev := { d with cfg := newCfg [] x.image }
    let late := decide (u < d.now)
    let d := if late then d else d.advanceTo u
    let r := firstRej [fun _ => imageRej 0x13 (need (!d.misaligned c x.image x.act) 32), fun _ => imageRej 0x14 (need (!late) 32),
      fun _ => imageRej 0x15 (need (!(d.active && d.slicesOpen)) 0)]
    match r with
    | some r => let d := (d.unstageImage x).rejectImage x.image r; if x.flash then d.bootDone else d
    | none =>
      let d := if d.tickNo == d.edge then d else tiles6.foldl Dev.edgeResets d.edgeDevice
      let d := d.activate x
      tiles6.foldl (fun (d : Dev) t => d.slotIndications t d.tickNo) { d with edge := d.tickNo }
def execRecipeActivation (s : State) : Host.Outcome State Fault Refusal := ran s recipeActivationEffect

/-! ## Window edges (R41, R42, R51) -/

/-- A unit that is still busy is stopped: its loaf is discarded with event 0x1004, its waits end. -/
def Dev.stopUnit (d : Dev) (t u m pos : Nat) : Dev :=
  let i := u % 0x100
  let lk := (d.tile t).lk
  let stop := fun (slice id : Nat) (go : Dev → Dev) (d : Dev) =>
    let d := d.windowWaits t (unitId t 0 0 + BitVec.ofNat 16 u)
    let d := go (d.raise 0x1004 slice (stewardOf t) id (m + pos * 2 ^ 16))
    if u / 0x100 == 1 || u / 0x100 == 4 then d.modTile t fun x => { x with stopped := x.stopped ++ [(BitVec.ofNat 13 u, lk)] } else d
  match u / 0x100 with
  | 1 => let c := d.kn t i
    match c.loaf with
    | some h => if c.start < lk then stop c.ctx.slice h.id (fun d => d.endLoaf t i 2) d else d
    | none => d
  | 3 => let x := d.sieve t i
    if x.phase != 0 && decide (x.start < lk) then stop x.ctx.slice x.id (fun d => d.endSieve t i 2) d else d
  | 4 => let c := d.sg t i
    if c.busy && decide (c.start < lk) then stop 0 c.id (fun d => d.sigEnd t i 2 1) d else d
  | n =>
    let e := match n with | 5 => i | 6 => 4 + i | 7 => 6 | _ => 7
    if n < 5 || n > 8 then d else
    let c := d.codecSt t e
    if c.busy && decide (c.start < lk) then stop 0 c.id (fun d => d.codecFault t e 1) d else d
/-- WINDOW_EDGE: the local position moves to the start of the entry's window, or, for a trimmed radio window that has begun, to where its
released span starts. A unit still busy there is stopped. -/
def windowEdgeEffect (t u e : Nat) (d : Dev) : Dev :=
  match d.mapOf t u with
  | none => d
  | some m => match (d.mapWindows t m)[e]? with
    | none => d
    | some w =>
      let pos := (d.tile t).pos
      let len := d.getF (Reg.TICK_TRIM t m) F.TICK_TRIM_LEN_ACTIVE
      let to_ := if pos ≤ w.start then some w.start
        else if w.kind == 1 && w.sub == 1 && decide (pos ≤ w.start + len) && decide (w.start + len < w.stop) then some (w.start + len) else none
      match to_ with
      | none => d
      | some p => if d.paused t then d else (d.advance (p - pos)).stopUnit t u m p
def execWindowEdge (t : Tile) (unit : BitVec 13) (entry : Fin 16) (s : State) : Host.Outcome State Fault Refusal :=
  ran s (windowEdgeEffect t unit.toNat entry)

/-! ## The boundary slot (R45 to R49) -/

/-- A request for a tile reset is met by the snapshot that first holds it; one for a core reset is raised at step 2. -/
def Dev.askedReset (t : Nat) (d : Dev) : Dev := if (d.tile t).resetAsked then (d.tileReset t).resetStatus 0 1 else d
/-- A tile's snapshot: landing flags, slot configuration, loaf states, trays, signal sums, channels, temperature. -/
def Dev.tileSnapshot (d : Dev) (t : Nat) : Dev :=
  let N := d.tickNo
  let d := d.askedReset t
  let d := d.modTile t fun x => { x with snapFlags := x.flags, flags := [], snapDone := (x.snapDone.filter (·.slice != 0)) ++ x.done, done := [], snapTick := some N }
  let d := d.setF (Reg.PWR_TEMP t) F.PWR_TEMP_SNAP (d.getF (Reg.PWR_TEMP t) F.PWR_TEMP_LOGIC)
  let d := (d.homeTrays t).foldl Dev.traySnapshot ((d.freeDead t).tierReportDead t)
  ((d.takePend t).radioSnapshot t N).peelSnapshot t
/-- The snapshots of all tiles, at one instant since B is the device's, step 1 and the device's own decisions: once in a tick. -/
def Dev.openSlot (d : Dev) : Dev :=
  if d.sliceTick == d.tickNo + 1 then d else
  (((tiles6.foldl Dev.tileSnapshot d).amendments (d.tickNo + 1)).sliceSnapshot).membSnapshot
/-- The core reset that is asked for is raised, to take effect at the edge. -/
def Dev.raiseCore (d : Dev) (t : Nat) : Dev :=
  match (d.tile t).coreAsked with
  | none => d
  | some u => (d.modTile t fun x => { x with coreAsked := none, coreResets := x.coreResets ++ [u] }).resetStatus 0 1
/-- A cell that uses a unit of the map has a slot without requests in a tick (R49). -/
def Dev.mapAbsent (d : Dev) (t m T : Nat) : Bool :=
  (d.cellsOf t).any fun c => d.slotAbsent t c T && (List.range (leAt c 46 1)).any fun i =>
    let l := classRec (d.section_ secCells 0) (leAt c 44 2 + i)
    (List.range 8).any fun j => leAt l (16 + 6 * j) 2 != 0xFFFF && d.mapOf t (leAt l (16 + 6 * j) 2 % 2 ^ 13) == some m
/-- Step 3: LEN_NEXT of each map with a trimmable radio window (R48, R49). -/
def Dev.trim (t : Nat) (d : Dev) (m : Nat) : Dev :=
  let L := d.mappedLen t m
  if L == 0 then d else
  let T := d.tickNo + 1
  let n := if d.mapAbsent t m T then L else min L (200 * ceilDiv (d.demand t m T) 200)
  d.setF (Reg.TICK_TRIM t m) F.TICK_TRIM_LEN_NEXT n
/-- BOUNDARY_SNAPSHOT: device time moves to the opening of the slot; the snapshot is taken, then steps 1 to 3. Steps 4 to 6 are recorded with
the commit (log entry 15). -/
def boundarySnapshotEffect (t : Nat) (d : Dev) : Dev :=
  let d := (d.advanceTo d.slotOpens).openSlot
  if (d.tile t).decided then d else
  let d := ((d.raiseCore t).step2 t).modTile t fun x => { x with decided := true }
  if d.active then (List.range 64).foldl (Dev.trim t) d else d
def execBoundarySnapshot (t : Tile) (s : State) : Host.Outcome State Fault Refusal := ran s (boundarySnapshotEffect t)

/-- The commit deadline of the present tick: 250 kc before its end. -/
def Dev.deadline (d : Dev) : Nat := (d.tickNo + 1) * d.tickU - 250 * kcU
/-- A refused write of a steward's register (R60). -/
def Dev.tickRefuse (d : Dev) (t a : Nat) (m : Master) : Dev := d.raise 0x1006 0xFF (stewardOf t) a m.toNat
/-- TICK_PLAN_COMMIT: in time, steps 4 to 6 take effect; late, event 0x1001 gives the management cycles (1 ns) past the deadline. -/
def tickPlanCommitEffect (m : Master) (t : Nat) (v : Word) (d : Dev) : Dev :=
  if m != stewardOf t then d.tickRefuse t (Reg.TICK_PLAN_COMMIT t) m else
  let x := d.tile t
  if !v.getLsbD 0 || !d.active || !x.decided || x.committed then d else
  let d := d.modTile t fun x => { x with committed := true }
  if d.now ≤ d.deadline && !x.late then
    let d := ((d.step4 t).step5 t).step6 t
    d.modSp fun s => { s with quiet := s.quiet.filter (· != t) }
  else
    let d := if x.late then d else d.countLate t
    (d.modTile t fun x => { x with late := true }).raise 0x1001 0xFF (stewardOf t) t ((d.now - d.deadline) / 5)
def execTickPlanCommit (m : Master) (t : Tile) (v : Word) (s : State) : Host.Outcome State Fault Refusal := ranFrom m s (tickPlanCommitEffect m t v)
/-- COMMIT_DEADLINE: with no commit the tile will run the fallback plan, and the late commit is counted. -/
def commitDeadlineEffect (t : Nat) (d : Dev) : Dev :=
  let d := d.advanceTo d.deadline
  let x := d.tile t
  if !d.active || x.committed || x.late then d else (d.modTile t fun x => { x with late := true }).countLate t
def execCommitDeadline (t : Tile) (s : State) : Host.Outcome State Fault Refusal := ran s (commitDeadlineEffect t)
/-- TICK_TRIM_WRITE: LEN_NEXT; values above L, or not multiples of 200, are taken as L (Table 02.11). -/
def tickTrimWriteEffect (m : Master) (t map len : Nat) (d : Dev) : Dev :=
  if m != stewardOf t then d.tickRefuse t (Reg.TICK_TRIM t map) m else
  let L := d.mappedLen t map
  d.setF (Reg.TICK_TRIM t map) F.TICK_TRIM_LEN_NEXT (if len > L || len % 200 != 0 then L else len)
def execTickTrimWrite (m : Master) (t : Tile) (map : Fin 64) (len : BitVec 21) (s : State) : Host.Outcome State Fault Refusal :=
  ranFrom m s (tickTrimWriteEffect m t map len.toNat)

/-! ## Pause runs (R53, R54, R529) -/

/-- The groups that a mask names. -/
def groupsOf (mask : Nat) : List Nat := (List.range 8).filter fun g => mask / 2 ^ g % 2 == 1
/-- The tiles that the present emergency pauses. -/
def Dev.toPause (d : Dev) : List Nat :=
  if d.getB Reg.PWR_STATUS F.PWR_STATUS_OC_EMERG then tiles6
  else if d.getB Reg.PWR_STATUS F.PWR_STATUS_THERM_EMERG then d.groupTiles (d.power.hot.map d.groupOf) else []
/-- The tiles that are paused now. -/
def Dev.pausedTiles (d : Dev) : List Nat := tiles6.filter fun t => d.getF Reg.PWR_STATUS F.PWR_STATUS_PAUSED / 2 ^ t % 2 == 1
/-- STATE fields of a tile's units: register, code while paused, and whether a code is that of work in progress. -/
def stateRegs (t : Nat) : List (Nat × Nat × (Nat → Bool)) :=
  (List.range 17).flatMap (fun k => (Reg.KNEAD_CORE_STATUS t k, 4, fun v => decide (1 ≤ v) && decide (v ≤ 3)) ::
    (List.range 4).map fun a => (Reg.KNEAD_ARRAY_STATE t k a, 4, fun v => v == 1 || v == 2)) ++
  (List.range 32).map (fun i => (Reg.SIEVE_STATUS t i, 4, fun v => decide (1 ≤ v) && decide (v ≤ 3))) ++
  (List.range 8).map (fun i => (Reg.SIG_STATUS t i, 4, fun v => decide (1 ≤ v) && decide (v ≤ 3))) ++
  (List.range 8).map (fun i => (Reg.CODEC_STATUS t i, 3, fun v => v == 1 || v == 2))
/-- The STATE field of those registers. -/
def stateFld : Fld := ⟨0, 3⟩
/-- A tile pauses: work in progress shows the code of a pause. -/
def Dev.pauseTile (d : Dev) (t : Nat) : Dev :=
  let busy := (stateRegs t).filter fun r => r.2.2 (d.getF r.1 stateFld)
  let d := d.modTile t fun x => { x with heldStates := busy.map fun r => (r.1, d.getF r.1 stateFld) }
  let d := busy.foldl (fun (d : Dev) r => d.setF r.1 stateFld r.2.1) d
  (d.setF (Reg.TICK_TILE_STATUS t) F.TICK_TILE_STATUS_PAUSED 1).count (Reg.PWR_STRETCH_COUNT t) F.PWR_STRETCH_COUNT_COUNT 1
/-- A tile runs on: its units show again what they do. -/
def Dev.resumeTile (d : Dev) (t : Nat) : Dev :=
  let hs := (d.tile t).heldStates
  let d := hs.foldl (fun (d : Dev) h => if d.getF h.1 stateFld == 0 then d else d.setF h.1 stateFld h.2) (d.modTile t fun x => { x with heldStates := [] })
  d.setF (Reg.TICK_TILE_STATUS t) F.TICK_TILE_STATUS_PAUSED 0
/-- STRETCH_PAUSE_START: a run begins on every tile of the groups that the emergency pauses, 1,000 kc after the last one at the earliest. -/
def stretchPauseStartEffect (groups : Nat) (d : Dev) : Dev :=
  let ts := d.toPause
  if ts.isEmpty || !d.pausedTiles.isEmpty || d.groupTiles (groupsOf groups) != ts then d else
  let d := if d.power.runAt == 0 then d else d.advanceTo (d.power.runAt + 1000 * kcU)
  let gs := (ts.map d.groupOf).foldl (fun l g => if l.contains g || d.power.paused.contains g then l else l ++ [g]) []
  let new := d.groupTiles gs
  let why := (if d.getB Reg.PWR_STATUS F.PWR_STATUS_OC_EMERG then 1 else 0) + (if d.getB Reg.PWR_STATUS F.PWR_STATUS_THERM_EMERG then 2 else 0)
  let d := (ts.foldl Dev.pauseTile d).setF Reg.PWR_STATUS F.PWR_STATUS_PAUSED (tileMask ts)
  let d := d.modPower fun x => { x with runs := x.runs + 1, paused := x.paused ++ gs, runAt := d.now }
  if new.isEmpty then d else d.raise 0xF001 0xFF (govUnit (new.headD 0)) (tileMask new) (why + d.getF Reg.PWR_VIN F.PWR_VIN_POWER * 2 ^ 8)
def execStretchPauseStart (groups : BitVec 8) (s : State) : Host.Outcome State Fault Refusal := ran s (stretchPauseStartEffect groups.toNat)
/-- STRETCH_PAUSE_END: 1,000 kc after its start the run ends in every tile it paused. -/
def stretchPauseEndEffect (groups : Nat) (d : Dev) : Dev :=
  let ts := d.pausedTiles
  if ts.isEmpty || !ts.all (fun t => (groupsOf groups).contains (d.groupOf t)) then d else
  let d := d.advanceTo (d.power.runAt + 1000 * kcU)
  let d := (ts.foldl Dev.resumeTile d).setF Reg.PWR_STATUS F.PWR_STATUS_PAUSED 0
  d.modPower fun x => { x with runAt := d.now }
def execStretchPauseEnd (groups : BitVec 8) (s : State) : Host.Outcome State Fault Refusal := ran s (stretchPauseEndEffect groups.toNat)

/-- Maps of a tile with a radio window, at its length in force, that ends beyond a local position (R55). -/
def Dev.atRiskMaps (d : Dev) (t : Nat) : Nat :=
  (List.range 64).foldl (fun n m => if (d.liveWindows t m).any fun w => w.kind == 1 && decide ((d.tile t).pos < w.stop) then n + 2 ^ m else n) 0
/-- RADIO_AT_RISK: the lag passes B / 2 for the first time in the tick the tile works on. -/
def radioAtRiskEffect (t : Nat) (d : Dev) : Dev :=
  let x := d.tile t
  let lag := fun (d : Dev) => d.getF (Reg.TICK_TILE_STATUS t) F.TICK_TILE_STATUS_LAG
  if !d.active || x.atRisk || decide (x.pos ≥ d.bStart) then d else
  let d := if d.paused t then d.advance (d.bLen / 2 + 1 - lag d) else d
  if lag d * 2 ≤ d.bLen then d else
  (d.modTile t fun x => { x with atRisk := true }).raise 0x1003 0xFF (stewardOf t) (lag d) (d.atRiskMaps t)
def execRadioAtRisk (t : Tile) (s : State) : Host.Outcome State Fault Refusal := ran s (radioAtRiskEffect t)

end Sys2Proof.Machine
end

