-- ==== Sys2Proof/Machine/Waits.lean ====
section
/-! DEFINITION. Waits: the release of waiters of a tile's counters, by a signal, a broken counter or a timeout (R387, R392, R395). -/
namespace Sys2Proof.Machine

/-- The wait of a tile whose instant comes first, by a key that may be absent; of equal instants the lower unit. -/
def firstWait (t : Nat) (key : Wait → Option Nat) (ws : List Wait) : Option (Wait × Nat) :=
  ws.foldl (fun b w =>
    if w.tile != t then b else
    match key w, b with
    | none, b => b
    | some n, none => some (w, n)
    | some n, some (x, m) => if n < m || (n == m && w.unit.toNat < x.unit.toNat) then some (w, n) else b) none

/-- A wait is over and leaves its counter. -/
def Dev.endWait (d : Dev) (w : Wait) : Dev :=
  ({ d with ctrs := { d.ctrs with waits := d.ctrs.waits.erase w } } : Dev).syncWaiters w.tile w.ctr

/-- The unit type, and the index within the type, of a waiter (R24). -/
def waiterType (w : Wait) : Nat := w.unit.toNat / 256 % 32
def waiterIx (w : Wait) : Nat := w.unit.toNat % 256

/-- The waiter goes on: a Knead instruction issues, a Sieve's job is ready, a signal core's bundle issues. -/
def Dev.resumeUnit (d : Dev) (w : Wait) : Dev :=
  let t := w.tile
  let i := waiterIx w
  if waiterType w == 1 then (d.syncLocal t i).kNext t i
  else if waiterType w == 3 then d.sieveReleased t i
  else if waiterType w == 4 then d.sigReleased t i
  else d
/-- The waiter's loaf ends as a fault. -/
def Dev.failUnit (d : Dev) (w : Wait) : Dev :=
  let t := w.tile
  let i := waiterIx w
  if waiterType w == 1 then d.endLoaf t i 2
  else if waiterType w == 3 then d.sieveWaitFailed t i
  else if waiterType w == 4 then d.sigWaitFailed t i
  else d

/-- WAIT_RELEASE: time moves to the earliest release of the tile, eight kc after its evaluation. A wait on a broken counter is
released with an error, event 0xB002, and its loaf ends. -/
def waitReleaseEffect (t : Nat) (d : Dev) : Dev :=
  match firstWait t (·.released) d.ctrs.waits with
  | none => d
  | some (w, n) =>
    if d.paused t then d else
    let d := (d.advance (n - (d.tile t).lk)).endWait w
    if w.failed then (d.raise 0xB002 w.slice (ctrFile t) (ctrId t w.ctr) (w.detail false)).failUnit w else d.resumeUnit w
def execWaitRelease (t : Tile) (s : State) : Host.Outcome State Fault Refusal := ran s (waitReleaseEffect t)

/-- WAIT_TIMEOUT: a wait still pending at its expiry is released with an error, event 0xB001, and its loaf ends. An evaluation of its
counter that falls no later comes first. -/
def waitTimeoutEffect (t : Nat) (d : Dev) : Dev :=
  match firstWait t (fun w => if w.released.isNone then some w.due else none) d.ctrs.waits with
  | none => d
  | some (w, n) =>
    let first := match d.nextEval t w.ctr with | some e => decide (e ≤ n) | none => false
    if d.paused t || first then d else
    let d := (d.advance (n - (d.tile t).lk)).endWait w
    (d.raise 0xB001 w.slice (ctrFile t) (ctrId t w.ctr) (w.detail false)).failUnit w
def execWaitTimeout (t : Tile) (s : State) : Host.Outcome State Fault Refusal := ran s (waitTimeoutEffect t)

end Sys2Proof.Machine
end

