-- ==== Sys2Proof/Machine/Dispatch.lean ====
section
/-! DEFINITION. Dispatch: one arm per command, each a direct call of its meaning. -/
namespace Sys2Proof.Machine

def exec (i : Instr) (s : State) : Host.Outcome State Fault Refusal :=
  match i with
  | .powerOnReset => Sys2Proof.Machine.execPowerOnReset s
  | .resetPin => Sys2Proof.Machine.execResetPin s
  | .tileResetRequest m tile unit => Sys2Proof.Machine.execTileResetRequest m tile unit s
  | .coreResetRequest m tile unit => Sys2Proof.Machine.execCoreResetRequest m tile unit s
  | .fallbackTileReset t => Sys2Proof.Machine.execFallbackTileReset t s
  | .stuckCoreReset t unit => Sys2Proof.Machine.execStuckCoreReset t unit s
  | .landingArrival t src flag room => Sys2Proof.Machine.execLandingArrival t src flag room s
  | .eventRecordWrite => Sys2Proof.Machine.execEventRecordWrite s
  | .tickEdge => Sys2Proof.Machine.execTickEdge s
  | .windowEdge t unit entry => Sys2Proof.Machine.execWindowEdge t unit entry s
  | .boundarySnapshot t => Sys2Proof.Machine.execBoundarySnapshot t s
  | .tickPlanCommit m t v => Sys2Proof.Machine.execTickPlanCommit m t v s
  | .commitDeadline t => Sys2Proof.Machine.execCommitDeadline t s
  | .tickTrimWrite m t map len => Sys2Proof.Machine.execTickTrimWrite m t map len s
  | .stretchPauseStart groups => Sys2Proof.Machine.execStretchPauseStart groups s
  | .stretchPauseEnd groups => Sys2Proof.Machine.execStretchPauseEnd groups s
  | .radioAtRisk t => Sys2Proof.Machine.execRadioAtRisk t s
  | .loadFromSrc m persist bytes how => Sys2Proof.Machine.execLoadFromSrc m persist bytes how s
  | .loadFromFlash m => Sys2Proof.Machine.execLoadFromFlash m s
  | .recipeDiscardStaged m => Sys2Proof.Machine.execRecipeDiscardStaged m s
  | .openLock m => Sys2Proof.Machine.execOpenLock m s
  | .closeLock m => Sys2Proof.Machine.execCloseLock m s
  | .recipeCheck => Sys2Proof.Machine.execRecipeCheck s
  | .recipeActivation => Sys2Proof.Machine.execRecipeActivation s
  | .recipePersistDone ok => Sys2Proof.Machine.execRecipePersistDone ok s
  | .recipeReload => Sys2Proof.Machine.execRecipeReload s
  | .reloadEnd => Sys2Proof.Machine.execReloadEnd s
  | .errorCaptureClear m off => Sys2Proof.Machine.execErrorCaptureClear m off s
  | .rcCounterRead m off => Sys2Proof.Machine.execRcCounterRead m off s
  | .registerWrite m off size v => Sys2Proof.Machine.execRegisterWrite m off size v s
  | .kneadLoafStart t k => Sys2Proof.Machine.execKneadLoafStart t k s
  | .kneadLoafComplete t k => Sys2Proof.Machine.execKneadLoafComplete t k s
  | .nop t k f => Sys2Proof.Machine.execNop t k f s
  | .kend t k f => Sys2Proof.Machine.execKend t k f s
  | .waitat t k f => Sys2Proof.Machine.execWaitat t k f s
  | .loop t k f => Sys2Proof.Machine.execLoop t k f s
  | .sli t k f => Sys2Proof.Machine.execSli t k f s
  | .saddi t k f => Sys2Proof.Machine.execSaddi t k f s
  | .pass t k f => Sys2Proof.Machine.execPass t k f s
  | .dma t k f => Sys2Proof.Machine.execDma t k f s
  | .signal t k f => Sys2Proof.Machine.execSignal t k f s
  | .take t k f => Sys2Proof.Machine.execTake t k f s
  | .watch t k f => Sys2Proof.Machine.execWatch t k f s
  | .shape t k f => Sys2Proof.Machine.execShape t k f s
  | .vld t k f => Sys2Proof.Machine.execVld t k f s
  | .vst t k f => Sys2Proof.Machine.execVst t k f s
  | .vqst t k f => Sys2Proof.Machine.execVqst t k f s
  | .vadd t k f => Sys2Proof.Machine.execVadd t k f s
  | .vsub t k f => Sys2Proof.Machine.execVsub t k f s
  | .vmul t k f => Sys2Proof.Machine.execVmul t k f s
  | .vfma t k f => Sys2Proof.Machine.execVfma t k f s
  | .vmax t k f => Sys2Proof.Machine.execVmax t k f s
  | .vmin t k f => Sys2Proof.Machine.execVmin t k f s
  | .vcmplt t k f => Sys2Proof.Machine.execVcmplt t k f s
  | .vsel t k f => Sys2Proof.Machine.execVsel t k f s
  | .vimm t k f => Sys2Proof.Machine.execVimm t k f s
  | .viadd t k f => Sys2Proof.Machine.execViadd t k f s
  | .vcvt t k f => Sys2Proof.Machine.execVcvt t k f s
  | .vrope t k f => Sys2Proof.Machine.execVrope t k f s
  | .vexp2 t k f => Sys2Proof.Machine.execVexp2 t k f s
  | .vrecip t k f => Sys2Proof.Machine.execVrecip t k f s
  | .vrsqrt t k f => Sys2Proof.Machine.execVrsqrt t k f s
  | .vrsum t k f => Sys2Proof.Machine.execVrsum t k f s
  | .vrmax t k f => Sys2Proof.Machine.execVrmax t k f s
  | .vrand t k f => Sys2Proof.Machine.execVrand t k f s
  | .passEntry t k => Sys2Proof.Machine.execPassEntry t k s
  | .passEnd t k => Sys2Proof.Machine.execPassEnd t k s
  | .dmaBegin t k => Sys2Proof.Machine.execDmaBegin t k s
  | .dmaComplete t k => Sys2Proof.Machine.execDmaComplete t k s
  | .kneadContextWrite m t k id v => Sys2Proof.Machine.execKneadContextWrite m t k id v s
  | .replayRegisterWrite m t k reg v => Sys2Proof.Machine.execReplayRegisterWrite m t k reg v s
  | .sieveContextWrite m t ix v => Sys2Proof.Machine.execSieveContextWrite m t ix v s
  | .sieveLoafStart t ix => Sys2Proof.Machine.execSieveLoafStart t ix s
  | .sieveJobBegin t ix => Sys2Proof.Machine.execSieveJobBegin t ix s
  | .sieveJobComplete t ix => Sys2Proof.Machine.execSieveJobComplete t ix s
  | .tierCmdPush m t w v => Sys2Proof.Machine.execTierCmdPush m t w v s
  | .tierDefine t ext => Sys2Proof.Machine.execTierDefine t ext s
  | .tierRetire t ext => Sys2Proof.Machine.execTierRetire t ext s
  | .tierPromote t ext => Sys2Proof.Machine.execTierPromote t ext s
  | .tierEvict t ext => Sys2Proof.Machine.execTierEvict t ext s
  | .tierClean t ext => Sys2Proof.Machine.execTierClean t ext s
  | .tierDiscard t ext => Sys2Proof.Machine.execTierDiscard t ext s
  | .tierCmdComplete t ext lower => Sys2Proof.Machine.execTierCmdComplete t ext lower s
  | .tierDeadline t ext => Sys2Proof.Machine.execTierDeadline t ext s
  | .lowerTierFailure t ext page => Sys2Proof.Machine.execLowerTierFailure t ext page s
  | .tierFlagClear m t w v => Sys2Proof.Machine.execTierFlagClear m t w v s
  | .hdmRead addr => Sys2Proof.Machine.execHdmRead addr s
  | .hdmWrite addr data poison => Sys2Proof.Machine.execHdmWrite addr data poison s
  | .h2dSnoop addr => Sys2Proof.Machine.execH2dSnoop addr s
  | .hostWriteDone id => Sys2Proof.Machine.execHostWriteDone id s
  | .hostWriteRetry id how => Sys2Proof.Machine.execHostWriteRetry id how s
  | .trayDoorbell m n seq => Sys2Proof.Machine.execTrayDoorbell m n seq s
  | .trayFetchDone n entries how => Sys2Proof.Machine.execTrayFetchDone n entries how s
  | .trayAbort m n seq => Sys2Proof.Machine.execTrayAbort m n seq s
  | .serviceTransferStart t k => Sys2Proof.Machine.execServiceTransferStart t k s
  | .contextSaved t ctx => Sys2Proof.Machine.execContextSaved t ctx s
  | .contextRestored t ctx => Sys2Proof.Machine.execContextRestored t ctx s
  | .benchZeroed t k => Sys2Proof.Machine.execBenchZeroed t k s
  | .imageCopyDone t k => Sys2Proof.Machine.execImageCopyDone t k s
  | .serviceFaulted t ctx => Sys2Proof.Machine.execServiceFaulted t ctx s
  | .radioReqDoorbell m t v => Sys2Proof.Machine.execRadioReqDoorbell m t v s
  | .radioReqFetchDone t recs how => Sys2Proof.Machine.execRadioReqFetchDone t recs how s
  | .ulCplaneEgress t cell => Sys2Proof.Machine.execUlCplaneEgress t cell s
  | .dlEgress t cell => Sys2Proof.Machine.execDlEgress t cell s
  | .ulIndicationDelivery t cell => Sys2Proof.Machine.execUlIndicationDelivery t cell s
  | .sigLoafStart t d rec => Sys2Proof.Machine.execSigLoafStart t d rec s
  | .sigLoafComplete t d => Sys2Proof.Machine.execSigLoafComplete t d s
  | .sigResultLand t d => Sys2Proof.Machine.execSigResultLand t d s
  | .sigNop t d slot f => Sys2Proof.Machine.execSigNop t d slot f s
  | .cmul t d slot f => Sys2Proof.Machine.execCmul t d slot f s
  | .cmac t d slot f => Sys2Proof.Machine.execCmac t d slot f s
  | .cmulj t d slot f => Sys2Proof.Machine.execCmulj t d slot f s
  | .cmacj t d slot f => Sys2Proof.Machine.execCmacj t d slot f s
  | .sigVadd t d slot f => Sys2Proof.Machine.execSigVadd t d slot f s
  | .sigVsub t d slot f => Sys2Proof.Machine.execSigVsub t d slot f s
  | .vnarrow t d slot f => Sys2Proof.Machine.execVnarrow t d slot f s
  | .vwiden t d slot f => Sys2Proof.Machine.execVwiden t d slot f s
  | .vshlv t d slot f => Sys2Proof.Machine.execVshlv t d slot f s
  | .vunpk t d slot f => Sys2Proof.Machine.execVunpk t d slot f s
  | .vperm t d slot f => Sys2Proof.Machine.execVperm t d slot f s
  | .sigVld t d f => Sys2Proof.Machine.execSigVld t d f s
  | .sigVst t d f => Sys2Proof.Machine.execSigVst t d f s
  | .sld t d f => Sys2Proof.Machine.execSld t d f s
  | .sst t d f => Sys2Proof.Machine.execSst t d f s
  | .xfer t d f => Sys2Proof.Machine.execXfer t d f s
  | .intpt t d f => Sys2Proof.Machine.execIntpt t d f s
  | .sadd t d f => Sys2Proof.Machine.execSadd t d f s
  | .ssub t d f => Sys2Proof.Machine.execSsub t d f s
  | .sand t d f => Sys2Proof.Machine.execSand t d f s
  | .sor t d f => Sys2Proof.Machine.execSor t d f s
  | .sxor t d f => Sys2Proof.Machine.execSxor t d f s
  | .sshl t d f => Sys2Proof.Machine.execSshl t d f s
  | .sshr t d f => Sys2Proof.Machine.execSshr t d f s
  | .sigSaddi t d f => Sys2Proof.Machine.execSigSaddi t d f s
  | .sigSli t d f => Sys2Proof.Machine.execSigSli t d f s
  | .br t d f => Sys2Proof.Machine.execBr t d f s
  | .sigLoop t d f => Sys2Proof.Machine.execSigLoop t d f s
  | .sigSignal t d f => Sys2Proof.Machine.execSigSignal t d f s
  | .sigTake t d f => Sys2Proof.Machine.execSigTake t d f s
  | .sigWatch t d f => Sys2Proof.Machine.execSigWatch t d f s
  | .sigWaitat t d f => Sys2Proof.Machine.execSigWaitat t d f s
  | .settmr t d f => Sys2Proof.Machine.execSettmr t d f s
  | .armw t d f => Sys2Proof.Machine.execArmw t d f s
  | .irqen t d f => Sys2Proof.Machine.execIrqen t d f s
  | .reti t d f => Sys2Proof.Machine.execReti t d f s
  | .sigEnd t d f => Sys2Proof.Machine.execSigEnd t d f s
  | .sigTimerFire t d => Sys2Proof.Machine.execSigTimerFire t d s
  | .sigCounterFire t d => Sys2Proof.Machine.execSigCounterFire t d s
  | .sigXferBegin t d => Sys2Proof.Machine.execSigXferBegin t d s
  | .sigXferComplete t d => Sys2Proof.Machine.execSigXferComplete t d s
  | .codecLoafStart t e rec => Sys2Proof.Machine.execCodecLoafStart t e rec s
  | .ldpcDecode t e => Sys2Proof.Machine.execLdpcDecode t e s
  | .ldpcEncode t e => Sys2Proof.Machine.execLdpcEncode t e s
  | .polarEncode t e => Sys2Proof.Machine.execPolarEncode t e s
  | .polarDecode t e => Sys2Proof.Machine.execPolarDecode t e s
  | .prachDetect t e => Sys2Proof.Machine.execPrachDetect t e s
  | .codecDescComplete t e => Sys2Proof.Machine.execCodecDescComplete t e s
  | .codecInternalFault t e => Sys2Proof.Machine.execCodecInternalFault t e s
  | .timeNowSecRead m => Sys2Proof.Machine.execTimeNowSecRead m s
  | .ppsInEdge sub => Sys2Proof.Machine.execPpsInEdge sub s
  | .servoUpdate x => Sys2Proof.Machine.execServoUpdate x s
  | .freqSourceEvaluation tenMHz => Sys2Proof.Machine.execFreqSourceEvaluation tenMHz s
  | .sourceLoss x => Sys2Proof.Machine.execSourceLoss x s
  | .holdoverExpiry => Sys2Proof.Machine.execHoldoverExpiry s
  | .ptpMessageSend p k => Sys2Proof.Machine.execPtpMessageSend p k s
  | .timeStepCmd m v => Sys2Proof.Machine.execTimeStepCmd m v s
  | .pulseCtrlWrite m k v => Sys2Proof.Machine.execPulseCtrlWrite m k v s
  | .pulseEdge k => Sys2Proof.Machine.execPulseEdge k s
  | .captureEdge k rising sub => Sys2Proof.Machine.execCaptureEdge k rising sub s
  | .capturePop m k => Sys2Proof.Machine.execCapturePop m k s
  | .ethLinkDown p los => Sys2Proof.Machine.execEthLinkDown p los s
  | .ethLinkUp p deskew => Sys2Proof.Machine.execEthLinkUp p deskew s
  | .ethFrameReceive p frame fcsOk room => Sys2Proof.Machine.execEthFrameReceive p frame fcsOk room s
  | .ethTxSelect p => Sys2Proof.Machine.execEthTxSelect p s
  | .gateIntervalChange g => Sys2Proof.Machine.execGateIntervalChange g s
  | .gateChangeCmd m g => Sys2Proof.Machine.execGateChangeCmd m g s
  | .gateCancelCmd m g => Sys2Proof.Machine.execGateCancelCmd m g s
  | .gateAdminWrite m g reg v => Sys2Proof.Machine.execGateAdminWrite m g reg v s
  | .gateTakeover g => Sys2Proof.Machine.execGateTakeover g s
  | .queueSample => Sys2Proof.Machine.execQueueSample s
  | .histSnap m g => Sys2Proof.Machine.execHistSnap m g s
  | .braidLinkUp b farNode farPort => Sys2Proof.Machine.execBraidLinkUp b farNode farPort s
  | .braidLinkDown b los untrained => Sys2Proof.Machine.execBraidLinkDown b los untrained s
  | .laneUnfence m b v => Sys2Proof.Machine.execLaneUnfence m b v s
  | .flitReceive b flit corrected bad => Sys2Proof.Machine.execFlitReceive b flit corrected bad s
  | .packetForward port => Sys2Proof.Machine.execPacketForward port s
  | .braidReadIssue issuer => Sys2Proof.Machine.execBraidReadIssue issuer s
  | .braidWriteIssue issuer => Sys2Proof.Machine.execBraidWriteIssue issuer s
  | .braidFence issuer => Sys2Proof.Machine.execBraidFence issuer s
  | .braidIssueResume => Sys2Proof.Machine.execBraidIssueResume s
  | .braidReadArrive => Sys2Proof.Machine.execBraidReadArrive s
  | .braidWriteArrive => Sys2Proof.Machine.execBraidWriteArrive s
  | .braidReadRespArrive => Sys2Proof.Machine.execBraidReadRespArrive s
  | .braidAckArrive => Sys2Proof.Machine.execBraidAckArrive s
  | .braidRefuseArrive => Sys2Proof.Machine.execBraidRefuseArrive s
  | .braidRetryTimeout => Sys2Proof.Machine.execBraidRetryTimeout s
  | .deadTargetTimeout => Sys2Proof.Machine.execDeadTargetTimeout s
  | .braidTxSelect b => Sys2Proof.Machine.execBraidTxSelect b s
  | .aliasWrite m node v => Sys2Proof.Machine.execAliasWrite m node v s
  | .putArm m v => Sys2Proof.Machine.execPutArm m v s
  | .putLaunch id => Sys2Proof.Machine.execPutLaunch id s
  | .counterEvaluate t c => Sys2Proof.Machine.execCounterEvaluate t c s
  | .waitRelease t => Sys2Proof.Machine.execWaitRelease t s
  | .waitTimeout t => Sys2Proof.Machine.execWaitTimeout t s
  | .proofHostSignal m t v => Sys2Proof.Machine.execProofHostSignal m t v s
  | .proofStewardSignal m t v => Sys2Proof.Machine.execProofStewardSignal m t v s
  | .landingSignalApply t => Sys2Proof.Machine.execLandingSignalApply t s
  | .proofCtrWrite m t c v => Sys2Proof.Machine.execProofCtrWrite m t c v s
  | .peelLockRead m n => Sys2Proof.Machine.execPeelLockRead m n s
  | .peelDataAccess m n w wr => Sys2Proof.Machine.execPeelDataAccess m n w wr s
  | .peelHandoff m n v => Sys2Proof.Machine.execPeelHandoff m n v s
  | .peelRelease m n v => Sys2Proof.Machine.execPeelRelease m n v s
  | .echo n => Sys2Proof.Machine.execEcho n s
  | .readCounter n => Sys2Proof.Machine.execReadCounter n s
  | .reportContexts n => Sys2Proof.Machine.execReportContexts n s
  | .sliceResetDrain m sl drainTicks => Sys2Proof.Machine.execSliceResetDrain m sl drainTicks s
  | .sliceResetSquash m sl => Sys2Proof.Machine.execSliceResetSquash m sl s
  | .sliceFreeze m sl => Sys2Proof.Machine.execSliceFreeze m sl s
  | .sliceRestore m sl => Sys2Proof.Machine.execSliceRestore m sl s
  | .sliceRelease m sl => Sys2Proof.Machine.execSliceRelease m sl s
  | .sliceResetComplete sl => Sys2Proof.Machine.execSliceResetComplete sl s
  | .sliceFreezeComplete sl => Sys2Proof.Machine.execSliceFreezeComplete sl s
  | .sliceRestoreInstall sl => Sys2Proof.Machine.execSliceRestoreInstall sl s
  | .unboundPasidAccess pasid off write => Sys2Proof.Machine.execUnboundPasidAccess pasid off write s
  | .deviceRingAddressWrite m v => Sys2Proof.Machine.execDeviceRingAddressWrite m v s
  | .lineRefetch place reader sl => Sys2Proof.Machine.execLineRefetch place reader sl s
  | .pageRepairDone t page => Sys2Proof.Machine.execPageRepairDone t page s
  | .testRawWrite m => Sys2Proof.Machine.execTestRawWrite m s
  | .testRawRead m => Sys2Proof.Machine.execTestRawRead m s
  | .scrubRead t block => Sys2Proof.Machine.execScrubRead t block s
  | .fieldRecordWrite ok => Sys2Proof.Machine.execFieldRecordWrite ok s
  | .heartbeatSend => Sys2Proof.Machine.execHeartbeatSend s
  | .heartbeatArrive => Sys2Proof.Machine.execHeartbeatArrive s
  | .heartbeatDue => Sys2Proof.Machine.execHeartbeatDue s
  | .abortNoticeArrive => Sys2Proof.Machine.execAbortNoticeArrive s
  | .abortNoticeSend => Sys2Proof.Machine.execAbortNoticeSend s
  | .epochStage m => Sys2Proof.Machine.execEpochStage m s
  | .epochStageForce m => Sys2Proof.Machine.execEpochStageForce m s
  | .epochDiscard m => Sys2Proof.Machine.execEpochDiscard m s
  | .hostFence m => Sys2Proof.Machine.execHostFence m s
  | .epochRecordCheck record how => Sys2Proof.Machine.execEpochRecordCheck record how s
  | .epochInstall => Sys2Proof.Machine.execEpochInstall s
  | .isolationFence => Sys2Proof.Machine.execIsolationFence s
  | .collectiveDeclare m sl collId list how => Sys2Proof.Machine.execCollectiveDeclare m sl collId list how s
  | .collectiveHostAbort m sl => Sys2Proof.Machine.execCollectiveHostAbort m sl s
  | .shadowSet m v => Sys2Proof.Machine.execShadowSet m v s
  | .shadowQualify => Sys2Proof.Machine.execShadowQualify s
  | .cxlLinkTrained width fast lopt flit256 proto => Sys2Proof.Machine.execCxlLinkTrained width fast lopt flit256 proto s
  | .cxlLinkReset => Sys2Proof.Machine.execCxlLinkReset s
  | .cxlLinkDegraded width fast lopt => Sys2Proof.Machine.execCxlLinkDegraded width fast lopt s
  | .atsInvalidation pasid addr len => Sys2Proof.Machine.execAtsInvalidation pasid addr len s
  | .hdmCommit base size => Sys2Proof.Machine.execHdmCommit base size s
  | .msixUnmask v => Sys2Proof.Machine.execMsixUnmask v s
  | .doeDiscovery index => Sys2Proof.Machine.execDoeDiscovery index s
  | .cdatRead entry => Sys2Proof.Machine.execCdatRead entry s
  | .getVersion req => Sys2Proof.Machine.execGetVersion req s
  | .getCapabilities req => Sys2Proof.Machine.execGetCapabilities req s
  | .negotiateAlgorithms req => Sys2Proof.Machine.execNegotiateAlgorithms req s
  | .getDigests req => Sys2Proof.Machine.execGetDigests req s
  | .getCertificate sl off len req => Sys2Proof.Machine.execGetCertificate sl off len req s
  | .challenge sl req => Sys2Proof.Machine.execChallenge sl req s
  | .getMeasurements index signed req => Sys2Proof.Machine.execGetMeasurements index signed req s
  | .keyExchange sid key req => Sys2Proof.Machine.execKeyExchange sid key req s
  | .finish sid ok => Sys2Proof.Machine.execFinish sid ok s
  | .endSession sid => Sys2Proof.Machine.execEndSession sid s
  | .spdmHeartbeat sid => Sys2Proof.Machine.execSpdmHeartbeat sid s
  | .keyUpdate sid all => Sys2Proof.Machine.execKeyUpdate sid all s
  | .chunkSend handle seq last chunk => Sys2Proof.Machine.execChunkSend handle seq last chunk s
  | .chunkGet handle seq => Sys2Proof.Machine.execChunkGet handle seq s
  | .ideKmQuery sid => Sys2Proof.Machine.execIdeKmQuery sid s
  | .keyProg sid cm set sub key => Sys2Proof.Machine.execKeyProg sid cm set sub key s
  | .kSetGo sid cm set => Sys2Proof.Machine.execKSetGo sid cm set s
  | .kSetStop sid cm set => Sys2Proof.Machine.execKSetStop sid cm set s
  | .ideIntegrityFailure cm => Sys2Proof.Machine.execIdeIntegrityFailure cm s
  | .railsInRegulation cellsOff => Sys2Proof.Machine.execRailsInRegulation cellsOff s
  | .firmwareVerify => Sys2Proof.Machine.execFirmwareVerify s
  | .repairImageCheck => Sys2Proof.Machine.execRepairImageCheck s
  | .dramTrainingComplete => Sys2Proof.Machine.execDramTrainingComplete s
  | .fwStage m => Sys2Proof.Machine.execFwStage m s
  | .fwApplyAtReset m => Sys2Proof.Machine.execFwApplyAtReset m s
  | .fwApplyLive m tiles => Sys2Proof.Machine.execFwApplyLive m tiles s
  | .fwDiscard m => Sys2Proof.Machine.execFwDiscard m s
  | .stageRepairImage m => Sys2Proof.Machine.execStageRepairImage m s
  | .fwFlashWriteDone ok => Sys2Proof.Machine.execFwFlashWriteDone ok s
  | .fwLiveTileStep t => Sys2Proof.Machine.execFwLiveTileStep t s
  | .fwApplyTileTimeout => Sys2Proof.Machine.execFwApplyTileTimeout s
  | .clearFenceRecords m => Sys2Proof.Machine.execClearFenceRecords m s
  | .clearFieldRecords m => Sys2Proof.Machine.execClearFieldRecords m s
  | .vinLow volt => Sys2Proof.Machine.execVinLow volt s
  | .shutdown cause volt power => Sys2Proof.Machine.execShutdown cause volt power s
  | .overvoltageRecovery => Sys2Proof.Machine.execOvervoltageRecovery s
  | .ballastUpdate loads => Sys2Proof.Machine.execBallastUpdate loads s
  | .emergencyBegin power => Sys2Proof.Machine.execEmergencyBegin power s
  | .tempSensorRead t logic dram stack => Sys2Proof.Machine.execTempSensorRead t logic dram stack s
  | .vinOpenDetect quarter volt => Sys2Proof.Machine.execVinOpenDetect quarter volt s
  | .sidebandFault ix => Sys2Proof.Machine.execSidebandFault ix s
  | .referenceClockReturn => Sys2Proof.Machine.execReferenceClockReturn s
  | .emergencyEnd power => Sys2Proof.Machine.execEmergencyEnd power s
  | .ldpcEarlyTermination t e => Sys2Proof.Machine.execLdpcEarlyTermination t e s
  | .sliceImageFetchDone sl image how => Sys2Proof.Machine.execSliceImageFetchDone sl image how s
  | .fwImageFetchDone image how => Sys2Proof.Machine.execFwImageFetchDone image how s

end Sys2Proof.Machine
end

