-- ==== Sys2Proof/Safety.lean ====
section
/-! DEFINITION. Safety: what the stores of a device look like in every state that a run can reach, and what it means that a command
completes. -/
namespace Sys2Proof.Machine

/-- The canonical form of memory: addresses strictly rising, no entry equal to what an unlisted address reads as. -/
def Memory.wf (m : List Host.Cell) : Bool := SMap.wf (fun _ => memDflt) m
/-- The register file lists no register at its power-on value, in rising order. -/
def regsWf (m : SMap Word) : Bool := SMap.wf regReset m

/-- Every store, the register file and every collection of units, pairs and links is in canonical form. -/
def Dev.canon (d : Dev) : Prop :=
  regsWf d.regs = true ∧ Memory.wf d.mem = true ∧ SMap.wf (fun _ => 0#16) d.lineErr = true ∧ SMap.wf (fun _ => false) d.written = true ∧
  SMap.wf (fun _ => TileState.init) d.tiles = true ∧
  SMap.wf (fun _ => []) d.cfg = true ∧
  SMap.wf (fun _ => KneadCore.init) d.knead = true ∧
  SMap.wf (fun _ => SieveState.init) d.sieves = true ∧
  SMap.wf (fun _ => TierState.init) d.tiers = true ∧
  SMap.wf (fun _ => TrayState.init) d.trays = true ∧
  SMap.wf (fun _ => Sched.init) d.sched = true ∧
  SMap.wf (fun _ => SigCoreState.init) d.sig = true ∧
  SMap.wf (fun _ => CodecState.init) d.codec = true ∧
  SMap.wf (fun _ => RadioState.init) d.radio = true ∧
  SMap.wf (fun _ => PortState.init) d.ports = true ∧
  SMap.wf (fun _ => SliceState.init) d.slices = true ∧
  SMap.wf (fun _ => BraidSrc.init) d.braid.pairs = true ∧
  SMap.wf (fun _ => BraidDst.init) d.braid.dests = true ∧
  SMap.wf (fun _ => BraidLink.init) d.braid.links = true

/-- A command answers a next state: the queue is as it was, and the device has a property. -/
def Runs (c : Instr) (s : State) (p : Dev → Prop) : Prop := ∃ e, exec c s = .next { s with dev := e } ∧ p e
/-- Every byte of every store reads as before, and so do every line's check and written bit. -/
def Dev.sameStores (d e : Dev) : Prop :=
  ∀ a, e.byte a = d.byte a ∧ e.errOf a = d.errOf a ∧ look false e.written a = look false d.written a
/-- Every register but those that `but` names reads as before. -/
def Dev.sameRegs (d e : Dev) (but : Nat → Prop) : Prop := ∀ a, ¬ but a → e.reg a = d.reg a

/-- One event record more has arisen, and it is as `p` says. -/
def Dev.raised (d e : Dev) (p : EventRec → Prop) : Prop := ∃ r, p r ∧ e.ev.arisen = insertEvent d.ev.arisen r

/-- A Knead core has an instruction to issue: the loaf of header `h` runs, its stream has not ended, it waits on nothing, its tile runs. -/
def Dev.issues (d : Dev) (t k : Nat) (h : LoafHdr) : Prop :=
  (d.kn t k).loaf = some h ∧ (d.kn t k).ended = false ∧ (d.kn t k).waiting = false ∧ d.paused t = false
/-- The instruction after the present one lies in the stream (R149). -/
def Dev.streamOn (d : Dev) (t k : Nat) (h : LoafHdr) : Prop := (nextOf (d.kn t k).loops (d.kPc t k)).1 < h.nInstr
/-- The registers that the passing of time changes. -/
def lagReg (a : Nat) : Prop := ∃ t : Tile, a = Reg.TICK_TILE_STATUS t
/-- An instruction of a Knead core issued in its first possible kc, changed the core by `upd` and nothing else but the sequencer, and the
stream moved on: every store, every other core, every event and every register but the core's status keeps its value. -/
def Dev.issued (d : Dev) (t k : Nat) (o : KOp) (f : KFields) (upd : KneadCore → KneadCore) (e : Dev) : Prop :=
  (e.tile t).lk = max (d.tile t).lk ((d.kn t k).issueAt o f) ∧
  { e.kn t k with loops := (upd (d.kn t k)).loops, ready := (upd (d.kn t k)).ready, units := (upd (d.kn t k)).units,
                  nextAt := (upd (d.kn t k)).nextAt, waiting := (upd (d.kn t k)).waiting } = upd (d.kn t k) ∧
  e.kPc t k = (nextOf (upd (d.kn t k)).loops (d.kPc t k)).1 % 2 ^ 16 ∧ (e.kn t k).nextAt = (e.tile t).lk + 1 ∧
  (∀ t' k', kKey t' k' ≠ kKey t k → e.kn t' k' = d.kn t' k') ∧
  d.sameRegs e (fun a => a = Reg.KNEAD_CORE_STATUS t k ∨ lagReg a) ∧ e.mem = d.mem ∧ e.lineErr = d.lineErr ∧ e.written = d.written ∧
  e.ev = d.ev ∧ e.ctrs = d.ctrs

/-- A signal core has a slot of its bundle to issue: SB before any other, each slot once (R276, log entry 18). -/
def Dev.sigReady (d : Dev) (t i rank : Nat) : Prop :=
  let c := d.sg t i
  c.busy = true ∧ c.ended = false ∧ c.waiting = false ∧ d.paused t = false ∧ c.pc ≤ 4095 ∧
  (if rank = 3 then c.slots = [] else rank ∉ c.slots ∧ 3 ∈ c.slots)
/-- A slot issued an operation of latency `lat`: its result is on its way, and no register, no byte of memory and no time changes with it. -/
def Dev.sigSent (d : Dev) (t i rank lat : Nat) (dst : SigDst) (val : List Nat) (e : Dev) : Prop :=
  let c := d.sg t i
  (e.sg t i).flight = insertFlight ⟨c.at_ + lat - 1, c.at_, rank, dst, val⟩ c.flight ∧
  (e.sg t i).v = c.v ∧ (e.sg t i).ac = c.ac ∧ (e.sg t i).main.x = c.main.x ∧ (e.sg t i).shadow.x = c.shadow.x ∧
  e.mem = d.mem ∧ e.now = d.now ∧ e.ctrs = d.ctrs ∧
  d.sameRegs e fun a => a = Reg.SIG_STATUS t i ∨ a = Reg.SIG_SATURATE_COUNT t i

/-- The supply serves the device: no shutdown is in force (R530). -/
def State.on (s : State) : Prop := s.dev.power.off = 0
/-- An access of a master is served: no shutdown is in force, and IDE_REQUIRED does not keep the host out (R494, R530). -/
def State.serves (s : State) (m : Master) : Prop := s.on ∧ (fromHost m && s.dev.ideBlocked) = false
/-- An access of a master outside SYS and SEC is served: the boot ROM is not the only one to answer either (R510). -/
def State.admits (s : State) (m : Master) : Prop := s.serves m ∧ s.dev.recovery = false

/-- The master that sends a command through BAR0 or BAR2; commands that arise otherwise name none. -/
def senderOf : Instr → Option Master
  | .tileResetRequest m _ _ | .coreResetRequest m _ _ | .registerWrite m _ _ _ | .fwStage m | .fwApplyAtReset m | .fwApplyLive m _ | .fwDiscard m
  | .stageRepairImage m | .clearFenceRecords m | .clearFieldRecords m | .tickPlanCommit m _ _ | .tickTrimWrite m _ _ _ | .loadFromSrc m _ _ _
  | .loadFromFlash m | .recipeDiscardStaged m | .openLock m | .closeLock m | .errorCaptureClear m _ | .kneadContextWrite m _ _ _ _
  | .replayRegisterWrite m _ _ _ _ | .sieveContextWrite m _ _ _ | .tierCmdPush m _ _ _ | .tierFlagClear m _ _ _ | .trayDoorbell m _ _
  | .trayAbort m _ _ | .radioReqDoorbell m _ _ | .timeStepCmd m _ | .pulseCtrlWrite m _ _ | .gateChangeCmd m _ | .gateCancelCmd m _
  | .gateAdminWrite m _ _ _ | .histSnap m _ | .laneUnfence m _ _ | .aliasWrite m _ _ | .putArm m _ | .proofHostSignal m _ _
  | .proofStewardSignal m _ _ | .proofCtrWrite m _ _ _ | .peelHandoff m _ _ | .peelRelease m _ _ | .sliceResetDrain m _ _ | .sliceResetSquash m _
  | .sliceFreeze m _ | .sliceRestore m _ | .sliceRelease m _ | .deviceRingAddressWrite m _ | .testRawWrite m | .testRawRead m | .epochStage m
  | .epochStageForce m | .epochDiscard m | .hostFence m | .collectiveDeclare m _ _ _ _ | .collectiveHostAbort m _ | .shadowSet m _
  | .timeNowSecRead m | .capturePop m _ | .peelLockRead m _
  | .rcCounterRead m _ | .peelDataAccess m _ _ _ => some m
  | _ => none
/-- The write goes to a block that the boot ROM does not serve in recovery mode (R510). -/
def beyondRom : Instr → Bool
  | .tickPlanCommit _ _ _ | .tickTrimWrite _ _ _ _ | .loadFromSrc _ _ _ _ | .loadFromFlash _ | .recipeDiscardStaged _ | .openLock _ | .closeLock _
  | .errorCaptureClear _ _ | .kneadContextWrite _ _ _ _ _ | .replayRegisterWrite _ _ _ _ _ | .sieveContextWrite _ _ _ _ | .tierCmdPush _ _ _ _
  | .tierFlagClear _ _ _ _ | .trayDoorbell _ _ _ | .trayAbort _ _ _ | .radioReqDoorbell _ _ _ | .timeStepCmd _ _ | .pulseCtrlWrite _ _ _
  | .gateChangeCmd _ _ | .gateCancelCmd _ _ | .gateAdminWrite _ _ _ _ | .histSnap _ _ | .laneUnfence _ _ _ | .aliasWrite _ _ _ | .putArm _ _
  | .proofHostSignal _ _ _ | .proofStewardSignal _ _ _ | .proofCtrWrite _ _ _ _ | .peelHandoff _ _ _ | .peelRelease _ _ _ | .sliceResetDrain _ _ _
  | .sliceResetSquash _ _ | .sliceFreeze _ _ | .sliceRestore _ _ | .sliceRelease _ _ | .deviceRingAddressWrite _ _ | .testRawWrite _ | .testRawRead _
  | .epochStage _ | .epochStageForce _ | .epochDiscard _ | .hostFence _ | .collectiveDeclare _ _ _ _ _ | .collectiveHostAbort _ _ | .shadowSet _ _ => true
  | _ => false

end Sys2Proof.Machine
end

