-- ==== Sys2Proof/Certificates/Slice0/Obligations.lean ====
section
/-! DEFINITION. Obligations: the statements about this model. -/
open Sys2Proof Sys2Proof.Machine

/-- A power-on reset leaves of the device its card flash alone (Table 00.7). -/
def Obligations.PowerOnResetsWholeDevice : Prop :=
  let wiped := fun (d e : Dev) => (∀ a, e.reg a = regReset a) ∧ e.now = 0 ∧ e.cfg = [] ∧ e.sp.seed = none ∧ e.sp.trained = false ∧
    e.ev.arisen = [] ∧ e.hostWrites = [] ∧ e.power.off = 0 ∧ e.sp.flash = d.sp.flash
  (∀ s : State, Runs .powerOnReset s (wiped s.dev)) ∧
  (∀ s : State, s.dev.power.off = 2 → Runs .overvoltageRecovery s (wiped s.dev)) ∧
  (∀ s : State, s.dev.power.off ≠ 2 → Runs .overvoltageRecovery s fun e => e = s.dev)

/-- What a device reset keeps and what it clears (Table 00.7). -/
def Obligations.DeviceResetKeepsTimeSeedAndStackDram : Prop :=
  ∀ (c : Instr) (s : State), (c = .resetPin ∨ c = .cxlLinkReset) → s.on → s.dev.canon → Runs c s fun e =>
    e.now = s.dev.now ∧ e.time = { s.dev.time with pulses := [], capts := [] } ∧ e.sp.seed = s.dev.sp.seed ∧
    e.sp.trained = s.dev.sp.trained ∧ e.sp.flash = s.dev.sp.flash ∧ e.cfg = [] ∧ e.hostWrites = [] ∧
    (∀ a, keptByDevice a = true → e.byte a = s.dev.byte a ∧
      e.errOf (a / 64) = s.dev.errOf (a / 64) ∧ look false e.written (a / 64) = look false s.dev.written (a / 64)) ∧
    (∀ a r ix, findReg a = some (r, ix) → a / 0x10000 ≠ 0x1E → a / 0x10000 ≠ Reg.PWR_STATUS / 0x10000 →
      e.reg a = if r.reach.contains .device then regReset a else s.dev.reg a)

/-- Requests for resets, resets on faults, and the supply's shutdown (R11, R494, R521, R530). -/
def Obligations.ResetCommandsReachTheirPart : Prop :=
  (∀ (m : Master) (tl : BitVec 3) (un : BitVec 13) (s : State), s.serves m →
    (m ≠ hostDriver → Runs (.tileResetRequest m tl un) s (· = s.dev)) ∧
    (m = hostDriver → (s.dev.getF Reg.SYS_RESET_STATUS F.SYS_RESET_STATUS_PENDING = 1 ∨ tl.toNat > 5) →
      Runs (.tileResetRequest m tl un) s (· = s.dev.setF Reg.SYS_RESET_STATUS F.SYS_RESET_STATUS_RESULT 2)) ∧
    (m = hostDriver → s.dev.getF Reg.SYS_RESET_STATUS F.SYS_RESET_STATUS_PENDING ≠ 1 → tl.toNat ≤ 5 →
      Runs (.tileResetRequest m tl un) s (· = (s.dev.setTile tl.toNat { s.dev.tile tl.toNat with resetAsked := true }).setF
        Reg.SYS_RESET_STATUS F.SYS_RESET_STATUS_PENDING 1))) ∧
  (∀ (m : Master) (tl : BitVec 3) (un : BitVec 13) (s : State), s.serves m →
    (m ≠ hostDriver → Runs (.coreResetRequest m tl un) s (· = s.dev)) ∧
    (m = hostDriver → (s.dev.getF Reg.SYS_RESET_STATUS F.SYS_RESET_STATUS_PENDING = 1 ∨ tl.toNat > 5 ∨ resettable un.toNat = false) →
      Runs (.coreResetRequest m tl un) s (· = s.dev.setF Reg.SYS_RESET_STATUS F.SYS_RESET_STATUS_RESULT 2)) ∧
    (m = hostDriver → s.dev.getF Reg.SYS_RESET_STATUS F.SYS_RESET_STATUS_PENDING ≠ 1 → tl.toNat ≤ 5 → resettable un.toNat = true →
      Runs (.coreResetRequest m tl un) s (· = (s.dev.setTile tl.toNat { s.dev.tile tl.toNat with coreAsked := some un }).setF
        Reg.SYS_RESET_STATUS F.SYS_RESET_STATUS_PENDING 1))) ∧
  (∀ (t : Tile) (s : State), s.on → s.dev.active = true → (s.dev.tile t).fallback = true → (s.dev.tile t).skipped = false →
    64 ≤ (s.dev.tile t).lateRun → Runs (.fallbackTileReset t) s (· = (s.dev.advanceTo s.dev.slotOpens).tileReset t)) ∧
  (∀ (t : Tile) (un w : BitVec 13) (lk : Nat) (s : State), s.on → (s.dev.tile t).stopped.find? (·.1 == un) = some (w, lk) → s.dev.paused t = false →
    Runs (.stuckCoreReset t un) s (· = (s.dev.advance (lk + 256 - (s.dev.tile t).lk)).coreReset t un.toNat)) ∧
  (∀ (cm : Bool) (s : State), s.on → s.dev.getF Reg.CXL_IDE (ideBit cm) ≠ 0 → Runs (.ideIntegrityFailure cm) s fun e =>
    e = if s.dev.getF Reg.CXL_IDE F.CXL_IDE_REQUIRED = 1 then s.dev.deviceReset.raise 0xE0C3 0xFF cxlPort (if cm then 1 else 0) 1
      else (s.dev.setF Reg.CXL_IDE (ideBit cm) 0).raise 0xE0C3 0xFF cxlPort (if cm then 1 else 0) 0) ∧
  (∀ (c : Fin 4) (v w : BitVec 16) (s : State), s.on → Runs (.shutdown c v w) s fun e =>
    e.power.off = c.val + 1 ∧ (e.power.thermtrip = true ↔ c.val = 2) ∧
    e = ((tiles6.foldl Dev.dropWork ((s.dev.setF Reg.PWR_VIN F.PWR_VIN_VOLT v.toNat).setF Reg.PWR_VIN F.PWR_VIN_POWER w.toNat
      |>.raise 0xF004 0xFF supplyUnit (c.val + 1) (v.toNat + w.toNat * 2 ^ 16))).setF Reg.PWR_STATUS F.PWR_STATUS_SUPPLY 2).modPower
        fun x => { x with off := c.val + 1, thermtrip := decide (c.val = 2) })

/-- Landing flags (R20, R21) and event rings (R26 to R29, R413, R516). -/
def Obligations.EventsReachTheirRings : Prop :=
  (∀ (t : Tile) (src : LandSrc) (flag : Nat) (s : State), s.on →
    ((s.dev.tile t).flags.contains flag = false → Runs (.landingArrival t src flag true) s
      (· = s.dev.setTile t { s.dev.tile t with flags := (s.dev.tile t).flags ++ [flag] })) ∧
    Runs (.landingArrival t src flag false) s (· = s.dev)) ∧
  (∀ (x : EventRec) (r : List EventRec) (s : State), s.on → s.dev.canon → s.dev.ev.arisen = x :: r → x.slice < 64 →
    let g := x.slice
    let base := s.dev.getF (Reg.SLICE_EV_RING g) F.SLICE_EV_RING_ADDR * 4096
    let size := 2 ^ s.dev.getF (Reg.SLICE_EV_RING g) F.SLICE_EV_RING_LOG2
    let tail := s.dev.getF (Reg.SLICE_EV_PTR g) F.SLICE_EV_PTR_TAIL
    let head := s.dev.getF (Reg.SLICE_EV_PTR g) F.SLICE_EV_PTR_HEAD
    base ≠ 0 →
    ((tail + 2 ^ 32 - head) % 2 ^ 32 ≠ size → Runs .eventRecordWrite s fun e =>
      e.hostWrites = s.dev.hostWrites ++ [⟨s.dev.hostNext, .event, g, base + tail % size * 32,
        EventRec.bytes { x with lost := s.dev.ev.lostRings.contains g }, 0⟩] ∧
      e.getF (Reg.SLICE_EV_PTR g) F.SLICE_EV_PTR_TAIL = (tail + 1) % 2 ^ 32 ∧
      e.getF (Reg.SLICE_EV_PTR g) F.SLICE_EV_PTR_HEAD = head ∧
      s.dev.sameRegs e (· = Reg.SLICE_EV_PTR g) ∧ e.ev.arisen = r ∧ e.ev.lostRings = s.dev.ev.lostRings.filter (· != g) ∧
      s.dev.sameStores e) ∧
    ((tail + 2 ^ 32 - head) % 2 ^ 32 = size → Runs .eventRecordWrite s fun e =>
      e.hostWrites = s.dev.hostWrites ∧ e.ev.arisen = r ∧ g ∈ e.ev.lostRings ∧ s.dev.sameRegs e (· = Reg.SLICE_EV_DISCARD g) ∧
      s.dev.sameStores e)) ∧
  (∀ (x : EventRec) (r : List EventRec) (s : State), s.on → s.dev.ev.arisen = x :: r → x.slice = 0xFF →
    s.dev.getF Reg.DEVICE_EV_RING F.DEVICE_EV_RING_ADDR = 0 → s.dev.ev.boot.length < 32 →
    Runs .eventRecordWrite s (· = { s.dev with ev := { s.dev.ev with arisen := r, boot := s.dev.ev.boot ++ [x] } }))

/-- Tick periods and tick numbers (R33, R34, Table 02.1). -/
def Obligations.TickNumberFollowsDeviceTime : Prop :=
  (∀ d : Dev, d.getF Reg.TICK_CFG F.TICK_CFG_PERIOD ≤ 4 →
    d.tickLen = 78125 * 2 ^ d.getF Reg.TICK_CFG F.TICK_CFG_PERIOD ∧
    d.tickNo * (312500 * 2 ^ d.getF Reg.TICK_CFG F.TICK_CFG_PERIOD) ≤ d.now ∧
    d.now < (d.tickNo + 1) * (312500 * 2 ^ d.getF Reg.TICK_CFG F.TICK_CFG_PERIOD)) ∧
  (∀ (d : Dev) (n : Nat), (d.advance n).now = d.now + 4 * n)

/-- The edge, window edges, the snapshot and the commit deadline (R33, R42, R45 to R51, R56). -/
def Obligations.EdgesAndSnapshotsMoveTheTick : Prop :=
  (∀ s : State, s.on → s.dev.tickNo = s.dev.edge →
    let d0 := s.dev.advanceTo ((s.dev.tickNo + 1) * s.dev.tickU)
    let d1 := Dev.edgeDevice { d0 with edge := d0.tickNo }
    let d2 := tiles6.foldl (fun (d : Dev) t => (d.edgeResets t).edgeFences t) d1
    Runs .tickEdge s (· = tiles6.foldl (fun (d : Dev) t =>
      if t ∈ tiles6.filter (fun t => d1.active && d1.groupLags t) then d.skipTick t else d.beginTick t) d2)) ∧
  (∀ (t : Tile) (un : BitVec 13) (en : Fin 16) (m : Nat) (w : Win) (s : State), s.on → s.dev.mapOf t un.toNat = some m →
    (s.dev.mapWindows t m)[en.val]? = some w → (s.dev.tile t).pos ≤ w.start → s.dev.paused t = false →
    Runs (.windowEdge t un en) s (· = (s.dev.advance (w.start - (s.dev.tile t).pos)).stopUnit t un.toNat m w.start)) ∧
  (∀ (d : Dev) (t : Tile) (k : KCore) (m pos : Nat) (h : LoafHdr), (d.kn t k).loaf = some h → (d.kn t k).start < (d.tile t).lk →
    d.stopUnit t (0x100 + k) m pos =
      (((d.windowWaits t (unitId t 0 0 + BitVec.ofNat 16 (0x100 + k))).raise 0x1004 (d.kn t k).ctx.slice (stewardOf t) h.id (m + pos * 2 ^ 16)).endLoaf t k 2).modTile
        t fun x => { x with stopped := x.stopped ++ [(BitVec.ofNat 13 (0x100 + k), (d.tile t).lk)] }) ∧
  (∀ (t : Tile) (s : State), s.on →
    let d0 := (s.dev.advanceTo s.dev.slotOpens).openSlot
    let d1 := ((d0.raiseCore t).step2 t).modTile t fun x => { x with decided := true }
    ((d0.tile t).decided = true → Runs (.boundarySnapshot t) s (· = d0)) ∧
    ((d0.tile t).decided = false → Runs (.boundarySnapshot t) s
      (· = if d1.active then (List.range 64).foldl (Dev.trim t) d1 else d1))) ∧
  (∀ (t : Tile) (s : State), s.on →
    let d := s.dev.advanceTo s.dev.deadline
    d.active = true → (d.tile t).committed = false → (d.tile t).late = false →
    Runs (.commitDeadline t) s (· = (d.setTile t { d.tile t with late := true }).count (Reg.TICK_TILE_LATE t) F.TICK_TILE_LATE_LATE_COUNT 1))

/-- The commit and the trims (R47, R48, R60, Table 02.11). -/
def Obligations.PlansAndTrimsAreTheStewards : Prop :=
  (∀ (m : Master) (t : Tile) (v : Word) (s : State), s.admits m →
    (m ≠ stewardOf t → Runs (.tickPlanCommit m t v) s
      (· = s.dev.raise 0x1006 0xFF (stewardOf t) (Reg.TICK_PLAN_COMMIT t) m.toNat)) ∧
    (m = stewardOf t → v.getLsbD 0 = true → s.dev.active = true → (s.dev.tile t).decided = true → (s.dev.tile t).committed = false →
      let d := s.dev.setTile t { s.dev.tile t with committed := true }
      (s.dev.now + 1000 ≤ (s.dev.tickNo + 1) * s.dev.tickU → (d.tile t).late = false →
        Runs (.tickPlanCommit m t v) s (· = (((d.step4 t).step5 t).step6 t).modSp fun x => { x with quiet := x.quiet.filter (· != t.val) })) ∧
      (s.dev.now + 1000 > (s.dev.tickNo + 1) * s.dev.tickU → (s.dev.tile t).late = true → Runs (.tickPlanCommit m t v) s
        (· = (d.modTile t fun x => { x with late := true }).raise 0x1001 0xFF (stewardOf t) t ((s.dev.now - s.dev.deadline) / 5))))) ∧
  (∀ (m : Master) (t : Tile) (map : Fin 64) (len : BitVec 21) (s : State), s.admits m → s.dev.canon →
    (m ≠ stewardOf t → Runs (.tickTrimWrite m t map len) s
      (· = s.dev.raise 0x1006 0xFF (stewardOf t) (Reg.TICK_TRIM t map) m.toNat)) ∧
    (m = stewardOf t → Runs (.tickTrimWrite m t map len) s fun e =>
      e.getF (Reg.TICK_TRIM t map) F.TICK_TRIM_LEN_NEXT =
        (if len.toNat > s.dev.mappedLen t map ∨ len.toNat % 200 ≠ 0 then s.dev.mappedLen t map else len.toNat) % 2 ^ 21 ∧
      e.getF (Reg.TICK_TRIM t map) F.TICK_TRIM_LEN_ACTIVE = s.dev.getF (Reg.TICK_TRIM t map) F.TICK_TRIM_LEN_ACTIVE ∧
      s.dev.sameRegs e (· = Reg.TICK_TRIM t map) ∧ s.dev.sameStores e ∧ e.tiles = s.dev.tiles))

/-- Trimming (R48, R49). -/
def Obligations.TrimmedLengthFollowsDemand : Prop :=
  (∀ (d : Dev) (t : Tile) (m : Fin 64), d.canon → 0 < d.mappedLen t m → d.mappedLen t m < 2 ^ 21 →
    let L := d.mappedLen t m
    let D := d.demand t m (d.tickNo + 1)
    let n := (d.trim t m).getF (Reg.TICK_TRIM t m) F.TICK_TRIM_LEN_NEXT
    (d.mapAbsent t m (d.tickNo + 1) = false → n = min L (200 * ceilDiv D 200) ∧ n ≤ L ∧ (D ≤ L → D ≤ n)) ∧
    (d.mapAbsent t m (d.tickNo + 1) = true → n = L) ∧ d.sameRegs (d.trim t m) (· = Reg.TICK_TRIM t m)) ∧
  (∀ (d : Dev) (t : Tile) (m : Fin 64), d.canon →
    (d.takeTrims t).getF (Reg.TICK_TRIM t m) F.TICK_TRIM_LEN_ACTIVE = d.getF (Reg.TICK_TRIM t m) F.TICK_TRIM_LEN_NEXT ∧
    (d.takeTrims t).getF (Reg.TICK_TRIM t m) F.TICK_TRIM_LEN_NEXT = d.getF (Reg.TICK_TRIM t m) F.TICK_TRIM_LEN_NEXT)

/-- Clock stretch (R53 to R55, R529). -/
def Obligations.PauseRunsStopTheGroups : Prop :=
  (∀ (gs : BitVec 8) (s : State), s.on → s.dev.toPause ≠ [] → s.dev.pausedTiles = [] → s.dev.groupTiles (groupsOf gs.toNat) = s.dev.toPause →
    s.dev.power.runAt = 0 → Runs (.stretchPauseStart gs) s fun e =>
      e.power.runAt = s.dev.now ∧ e.power.runs = s.dev.power.runs + 1 ∧ e.now = s.dev.now ∧ e.mem = s.dev.mem) ∧
  (∀ (gs : BitVec 8) (s : State), s.on → s.dev.pausedTiles ≠ [] →
    (s.dev.pausedTiles.all fun t => (groupsOf gs.toNat).contains (s.dev.groupOf t)) = true →
    let d := s.dev.advanceTo (s.dev.power.runAt + 1000 * kcU)
    Runs (.stretchPauseEnd gs) s (· = ((s.dev.pausedTiles.foldl Dev.resumeTile d).setF Reg.PWR_STATUS F.PWR_STATUS_PAUSED 0).modPower
      fun x => { x with runAt := d.now })) ∧
  (∀ (d : Dev) (t : Tile) (n : Nat), d.canon → 0 < n → (d.tile t).pos < d.bStart →
    (d.paused t = true → d.getF (Reg.TICK_TILE_STATUS t) F.TICK_TILE_STATUS_LAG + n < 2 ^ 21 →
      ((d.advanceTile n t).tile t).pos = (d.tile t).pos ∧
      (d.advanceTile n t).getF (Reg.TICK_TILE_STATUS t) F.TICK_TILE_STATUS_LAG = d.getF (Reg.TICK_TILE_STATUS t) F.TICK_TILE_STATUS_LAG + n) ∧
    (d.paused t = false → (d.tile t).pos + n ≤ d.bStart →
      d.advanceTile n t = d.setTile t { d.tile t with pos := (d.tile t).pos + n, lk := (d.tile t).lk + n })) ∧
  (∀ (t : Tile) (s : State), s.on → s.dev.active = true → (s.dev.tile t).pos < s.dev.bStart → s.dev.paused t = false →
    s.dev.getF (Reg.TICK_TILE_STATUS t) F.TICK_TILE_STATUS_LAG * 2 > s.dev.bLen →
    ((s.dev.tile t).atRisk = false → Runs (.radioAtRisk t) s (· = (s.dev.setTile t { s.dev.tile t with atRisk := true }).raise 0x1003 0xFF (stewardOf t)
      (s.dev.getF (Reg.TICK_TILE_STATUS t) F.TICK_TILE_STATUS_LAG) (s.dev.atRiskMaps t))) ∧
    ((s.dev.tile t).atRisk = true → Runs (.radioAtRisk t) s (· = s.dev)))

/-- Loads, discards and the lock (R70, R80, R84). -/
def Obligations.RecipeCommandsLoadAndLock : Prop :=
  (∀ (pe : Bool) (l : Bytes) (s : State), s.admits hostDriver → s.dev.canon →
    let n := s.dev.getF Reg.RECIPE_SRC_LEN F.RECIPE_SRC_LEN_LEN
    (s.dev.recipe.fetch = none → s.dev.getF Reg.CXL_LINK F.CXL_LINK_PROTO / 2 % 2 = 1 → Runs (.loadFromSrc hostDriver pe l .ok) s fun e =>
      e.recipe = { s.dev.recipe with fetch := some ⟨pe, bytesAt l 0 n, n, .ok⟩ } ∧
      e.getF Reg.RECIPE_STATUS F.RECIPE_STATUS_CHECKING = 1 ∧ s.dev.sameRegs e (· = Reg.RECIPE_STATUS) ∧ s.dev.sameStores e ∧ e.cfg = s.dev.cfg) ∧
    (s.dev.recipe.fetch ≠ none → Runs (.loadFromSrc hostDriver pe l .ok) s (· = s.dev.rejectUnread 2))) ∧
  (∀ s : State, s.admits hostDriver → s.dev.canon →
    (s.dev.recipe.fetch = none → Runs (.loadFromFlash hostDriver) s fun e =>
      e.recipe = { s.dev.recipe with fetch := some ⟨false, s.dev.slotImage, imgSize s.dev.slotImage, .ok⟩ } ∧
      e.getF Reg.RECIPE_STATUS F.RECIPE_STATUS_CHECKING = 1 ∧ s.dev.sameRegs e (· = Reg.RECIPE_STATUS) ∧ s.dev.sameStores e) ∧
    (s.dev.recipe.fetch ≠ none → Runs (.loadFromFlash hostDriver) s (· = s.dev.rejectUnread 2)) ∧
    Runs (.recipeDiscardStaged hostDriver) s fun e => e.recipe.fetch = none ∧ e.recipe.staged = [] ∧
      e.getF Reg.RECIPE_STATUS F.RECIPE_STATUS_STAGED = 0 ∧ e.getF Reg.RECIPE_STATUS F.RECIPE_STATUS_CHECKING = 0 ∧
      s.dev.sameRegs e (· = Reg.RECIPE_STATUS) ∧ s.dev.sameStores e) ∧
  (∀ s : State, s.admits hostDriver → s.dev.canon →
    (s.dev.active = false → Runs (.openLock hostDriver) s fun e => e.getF Reg.RECIPE_STATUS F.RECIPE_STATUS_LOCK_OPEN = 1 ∧
      s.dev.sameRegs e (· = Reg.RECIPE_STATUS) ∧ s.dev.sameStores e) ∧
    (s.dev.active = true → Runs (.openLock hostDriver) s (· = s.dev.raise 0x1014 0xFF systemSteward 0x120000 hostDriver.toNat)) ∧
    Runs (.closeLock hostDriver) s fun e => e.getF Reg.RECIPE_STATUS F.RECIPE_STATUS_LOCK_OPEN = 0 ∧
      s.dev.sameRegs e (· = Reg.RECIPE_STATUS) ∧ s.dev.sameStores e) ∧
  (∀ (m : Master) (pe : Bool) (l : Bytes) (how : FetchEnd) (s : State), s.admits m → m ≠ hostDriver →
    Runs (.loadFromSrc m pe l how) s (· = s.dev) ∧ Runs (.loadFromFlash m) s (· = s.dev) ∧ Runs (.recipeDiscardStaged m) s (· = s.dev) ∧
    Runs (.openLock m) s (· = s.dev) ∧ Runs (.closeLock m) s (· = s.dev))

/-- The check of a fetched image (R70, R71). -/
def Obligations.RejectedImagesChangeNoConfiguration : Prop :=
  ∀ (f : RecipeFetch) (s : State), s.on → s.dev.canon → s.dev.recipe.fetch = some f →
    let act := if imgAct f.image = 0 then (s.dev.reg Reg.RECIPE_ACT_TICK).toNat else imgAct f.image
    let d := (s.dev.setF Reg.RECIPE_STATUS F.RECIPE_STATUS_CHECKING 0).modRecipe fun r => { r with fetch := none }
    let kept := fun (e : Dev) (reason : Nat) => e.getF Reg.RECIPE_STATUS F.RECIPE_STATUS_LAST_REASON = reason % 2 ^ 8 ∧
      e.cfg = s.dev.cfg ∧ e.effDigest = s.dev.effDigest ∧ e.recipe = { s.dev.recipe with fetch := none } ∧
      s.dev.sameRegs e (· = Reg.RECIPE_STATUS) ∧ s.dev.sameStores e
    (f.how ≠ .ok → Runs .recipeCheck s (kept · 1)) ∧
    (∀ r, f.how = .ok → d.fetchFault f act = some r → Runs .recipeCheck s (kept · r.1)) ∧
    (f.how = .ok → d.fetchFault f act = none → Runs .recipeCheck s fun e =>
      e = d.stage ⟨f.image, act, f.persist, [], false⟩ ∧ e.recipe.fetch = none ∧
      e.recipe.staged = s.dev.recipe.staged ++ [⟨f.image, act, f.persist, [], false⟩])

/-- Activation, persistence and reload (R71 to R74, R82, R83, R509). -/
def Obligations.RecipesActivatePersistAndReload : Prop :=
  (∀ (x : StagedImage) (s : State), s.on → s.dev.stagedFull = some x →
    let u := x.act * s.dev.tickU
    let c : Dev := { s.dev with cfg := newCfg [] x.image }
    let d := s.dev.advanceTo u
    (s.dev.now ≤ u → d.misaligned c x.image x.act = false → (d.active && d.slicesOpen) = false → Runs .recipeActivation s fun e =>
      let d1 := if d.tickNo = d.edge then d else tiles6.foldl Dev.edgeResets d.edgeDevice
      let d2 := d1.activate x
      e = tiles6.foldl (fun (d : Dev) t => d.slotIndications t d.tickNo) { d2 with edge := d2.tickNo }) ∧
    (u < s.dev.now → s.dev.misaligned c x.image x.act = false → x.flash = false →
      Runs .recipeActivation s (· = (s.dev.unstageImage x).rejectImage x.image (0x14, 0xFFFF, 32)))) ∧
  (∀ (l eff : Bytes) (rest : List (Bool × Bytes × Bytes)) (s : State), s.on → s.dev.recipe.writes = (false, l, eff) :: rest →
    let d := (s.dev.modRecipe fun r => { r with writes := rest }).setF Reg.RECIPE_STATUS F.RECIPE_STATUS_PERSIST_PENDING (if rest.isEmpty then 0 else 1)
    let slot := s.dev.dirField 1
    let at_ := s.dev.recipe.logUsed - queuedBytes s.dev.recipe.writes
    Runs (.recipePersistDone true) s (· = (d.flashWrite (amendLog slot + at_)
      (eff ++ l ++ List.replicate (min 288 (0x400000 - (at_ + 32 + l.length))) 0xFF#8)).recipeEvent 0x1016 (imgId l % 2 ^ 32) (slot * 2 ^ 8)) ∧
    Runs (.recipePersistDone false) s (· = (d.modRecipe fun r => { r with logUsed := r.logUsed - (32 + l.length) }).recipeEvent 0x1016
      (imgId l % 2 ^ 32) (1 + slot * 2 ^ 8))) ∧
  (∀ (r : Rej) (s : State), s.on → s.dev.sp.trained = true → s.dev.sp.released = true → s.dev.active = false → s.dev.recipe.reloaded = false →
    let d := (s.dev.setF Reg.RECIPE_STATUS F.RECIPE_STATUS_SLOT (s.dev.dirField 1)).modRecipe fun r => { r with reloaded := true }
    d.contentFault [] d.slotImage = some r → Runs .recipeReload s (· = (d.rejectImage d.slotImage r).bootDone)) ∧
  (∀ (l : Bytes) (imgs : List Bytes) (s : State), s.on → s.dev.recipe.reload = some (l, imgs) →
    s.dev.getF Reg.TIME_STATUS F.TIME_STATUS_STATE = 2 → Runs .reloadEnd s fun e =>
      e.recipe.reload = none ∧ ∃ act, s.dev.tickNo + 8 ≤ act ∧ e.recipe.staged = s.dev.recipe.staged ++ [⟨l, act, false, imgs, true⟩])

/-- Accesses by access type (R6, R31, R80, R81, R489). -/
def Obligations.RegisterAccessesFollowTheirTypes : Prop :=
  (∀ (m : Master) (off size : Nat) (v : Word) (s : State), s.admits m → s.dev.canon →
    (fromHost m = true → (size ≠ 8 ∨ off % 8 ≠ 0) → Runs (.registerWrite m off size v) s
      (· = s.dev.raise 0xE0C5 0xFF cxlPort (off % 2 ^ 32) (size % 2 ^ 8 + m.toNat * 2 ^ 8))) ∧
    (size = 8 → off % 8 = 0 → findReg off = none → Runs (.registerWrite m off size v) s (· = s.dev)) ∧
    (∀ r ix, size = 8 → off % 8 = 0 → findReg off = some (r, ix) → reaches m off = true → ownRows.contains r.base = false →
      ((r.flds.any (·.acc == .rwl)) = true → s.dev.getF Reg.RECIPE_STATUS F.RECIPE_STATUS_LOCK_OPEN ≠ 1 →
        Runs (.registerWrite m off size v) s fun e => s.dev.sameRegs e (· = Reg.RECIPE_LOCKED_WRITES) ∧ s.dev.sameStores e ∧
          e.ev.arisen = (s.dev.raise 0x1014 0xFF systemSteward (off % 2 ^ 32) m.toNat).ev.arisen) ∧
      (((r.flds.any (·.acc == .rwl)) = false ∨ s.dev.getF Reg.RECIPE_STATUS F.RECIPE_STATUS_LOCK_OPEN = 1) →
        Runs (.registerWrite m off size v) s (· = s.dev.regWrite m r ix off v)))) ∧
  (∀ (d : Dev) (off : Nat) (v : Word), d.canon →
    let k := regMask off fun x => x == .rw || x == .rwl
    (d.rwWrite off v).reg off = (v &&& k) ||| (d.reg off &&& ~~~k) ∧ d.sameRegs (d.rwWrite off v) (· = off) ∧ d.sameStores (d.rwWrite off v)) ∧
  (∀ (m : Master) (off : Nat) (r : RegRow) (ix : List Nat) (s : State), s.admits m → s.dev.canon → findReg off = some (r, ix) →
    reaches m off = true → r.base ≠ Reg.TIME_CAPT_SEC 0 → r.base ≠ Reg.PEEL_LOCK 0 → (r.flds.any (·.acc == .rc)) = true →
    Runs (.rcCounterRead m off) s fun e => e.readOut = s.dev.reg off &&& ~~~(rowMask r (· == .wo)) ∧
      e.reg off = s.dev.reg off &&& ~~~(rowMask r (· == .rc)) ∧ s.dev.sameRegs e (· = off) ∧ s.dev.sameStores e) ∧
  (∀ (m : Master) (off : Nat) (r : RegRow) (ix : List Nat) (s : State), s.admits m → s.dev.canon → findReg off = some (r, ix) →
    reaches m off = true → r.base ≠ Reg.TIER_FLAGS 0 0 → r.base ≠ Reg.KNEAD_TILE_NONFINITE 0 0 → r.base ≠ Reg.SIEVE_ERROR 0 0 →
    (r.flds.any (·.acc == .w1c)) = true → Runs (.errorCaptureClear m off) s fun e => e.reg off = 0#64 ∧ s.dev.sameRegs e (· = off) ∧ s.dev.sameStores e)

/-- Opcodes 0x30 to 0x50 (Table 06.3, R146, R147, R150 to R152, R543). -/
def Obligations.VectorInstructionsWriteTheirLanes : Prop :=
  ∀ (t : Tile) (k : KCore) (f : KFields) (h : LoafHdr) (s : State), s.on → s.dev.canon → s.dev.issues t k h → s.dev.streamOn t k h →
    let does := fun (i : Instr) (o : KOp) (upd : KneadCore → KneadCore) =>
      wordCheck o.use o.dst f true = none → Runs i s (s.dev.issued t k o f upd)
    let lanes := fun (g : Val → Val → Val) (c : KneadCore) => c.put f.d f.m (map2 g (c.rv f.a) (c.rv f.b)) (c.marks f.a ||| c.marks f.b)
    let each := fun (g : BitVec 32 → BitVec 32) (c : KneadCore) => c.put f.d f.m ((c.rv f.a).map g) (c.marks f.a)
    does (.vadd t k f) (alu 0x30 useV2) (lanes Val.add) ∧
    does (.vsub t k f) (alu 0x31 useV2) (lanes fun a b => a.add b.neg) ∧
    does (.vmul t k f) (alu 0x32 useV2) (lanes Val.mul) ∧
    does (.vfma t k f) (alu 0x33 useV3) (fun c => c.put f.d f.m ((List.range 256).map fun i =>
      toLane ((laneVal (lane (c.rv f.a) i)).fma (laneVal (lane (c.rv f.b) i)) (laneVal (lane (c.rv f.c) i))))
      (c.marks f.a ||| c.marks f.b ||| c.marks f.c)) ∧
    does (.vmax t k f) (alu 0x34 useV2) (lanes Val.max) ∧
    does (.vmin t k f) (alu 0x35 useV2) (lanes Val.min) ∧
    does (.vcmplt t k f) (alu 0x36 ⟨.mk, .v, .v, .none, true, 0⟩) (fun c =>
      c.wm f.d.toNat (c.rm f.m.toNat) (maskOf fun i => (laneVal (lane (c.rv f.a) i)).lt (laneVal (lane (c.rv f.b) i)))) ∧
    does (.vsel t k f) (alu 0x37 ⟨.v, .v, .v, .mk, true, 0⟩) (fun c => c.put f.d f.m
      ((List.range 256).map fun i => if (c.rm f.c.toNat).getLsbD i then lane (c.rv f.a) i else lane (c.rv f.b) i)
      ((c.marks f.a &&& c.rm f.c.toNat) ||| (c.marks f.b &&& ~~~(c.rm f.c.toNat)))) ∧
    does (.vimm t k f) (alu 0x38 ⟨.v, .none, .none, .none, true, immAll⟩) (fun c => c.put f.d f.m (List.replicate 256 f.imm) (BitVec.allOnes 256)) ∧
    does (.viadd t k f) (alu 0x39 useV2) (fun c => c.put f.d f.m ((List.range 256).map fun i => lane (c.rv f.a) i + lane (c.rv f.b) i) (BitVec.allOnes 256)) ∧
    (∃ mk : KneadCore → BitVec 256, does (.vrope t k f) (alu 0x3B useV3) fun c => c.put f.d f.m ((List.range 256).map fun i =>
      let a := laneVal (lane (c.rv f.a) (i / 2 * 2))
      let a1 := laneVal (lane (c.rv f.a) (i / 2 * 2 + 1))
      let b := laneVal (lane (c.rv f.b) (i / 2 * 2))
      let z := laneVal (lane (c.rv f.c) (i / 2 * 2))
      if i % 2 == 0 then toLane ((a.mul b).add (a1.mul z).neg) else toLane ((a.mul z).add (a1.mul b))) (mk c)) ∧
    does (.vexp2 t k f) (fun_ 0x40) (each exp2_32) ∧
    does (.vrecip t k f) (fun_ 0x41) (each recip32) ∧
    does (.vrsqrt t k f) (fun_ 0x42) (each rsqrt32) ∧
    does (.vrsum t k f) (reduceOp 0x48) (fun c => c.reduce f fun a b => round32 (a.add b)) ∧
    does (.vrmax t k f) (reduceOp 0x49) (fun c => c.reduce f Val.max) ∧
    does (.vrand t k f) ⟨0x50, ⟨.v, .x, .none, .none, true, 0⟩, true, some 2, 2, 12, false⟩
      (fun c => c.put f.d f.m ((List.range 256).map (vrandLane c (c.rx f.a))) (BitVec.allOnes 256)) ∧
    (wordCheck ⟨.v, .v, .code, .code, true, 0⟩ true f (decide (f.b.toNat ≤ 4) && decide (f.c.toNat ≤ 4)) = none → Runs (.vcvt t k f) s fun e =>
      (e.tile t).lk = max (s.dev.tile t).lk ((s.dev.kn t k).issueAt (alu 0x3A ⟨.v, .v, .code, .code, true, 0⟩) f) ∧
      (e.kn t k).rv f.d = ((s.dev.kn t k).wv f.d ((s.dev.kn t k).rm f.m.toNat)
        (((s.dev.kn t k).rv f.a).map fun x => (cvtLane f.b.toNat f.c.toNat x).1) 0#256).rv f.d ∧
      e.mem = s.dev.mem ∧ s.dev.sameRegs e (fun a => a = Reg.KNEAD_CORE_STATUS t k ∨ a = Reg.KNEAD_SATURATE_COUNT t k ∨ lagReg a))

/-- Opcodes 0x00 to 0x05, 0x18 and 0x1C (Table 06.3, R147, R149, R155). -/
def Obligations.ControlInstructionsMoveTheStream : Prop :=
  ∀ (t : Tile) (k : KCore) (f : KFields) (h : LoafHdr) (s : State), s.on → s.dev.canon → s.dev.issues t k h →
    (s.dev.streamOn t k h → wordCheck (ctl 0x00 .none .none .none 0).use true f true = none →
      Runs (.nop t k f) s (s.dev.issued t k (ctl 0x00 .none .none .none 0) f id)) ∧
    (s.dev.streamOn t k h → wordCheck (ctl 0x04 .x .none .none immAll).use true f true = none →
      Runs (.sli t k f) s (s.dev.issued t k (ctl 0x04 .x .none .none immAll) f fun c => c.wx f.d (f.imm.setWidth 64))) ∧
    (s.dev.streamOn t k h → wordCheck (ctl 0x05 .x .x .none immAll).use true f true = none →
      Runs (.saddi t k f) s (s.dev.issued t k (ctl 0x05 .x .x .none immAll) f fun c => c.wx f.d (c.rx f.a + f.imm.signExtend 64))) ∧
    (s.dev.streamOn t k h → wordCheck ⟨.none, .x, .x, .none, false, 3⟩ true f true = none → Runs (.shape t k f) s fun e =>
      (e.kn t k).shapeW = f.imm.toNat % 4 ∧ (e.kn t k).shapeE = (s.dev.kn t k).rx f.a ∧ (e.kn t k).shapeS = (s.dev.kn t k).rx f.b ∧
      (e.kn t k).x = (s.dev.kn t k).x ∧ (e.kn t k).v = (s.dev.kn t k).v ∧ (e.kn t k).m = (s.dev.kn t k).m ∧ e.mem = s.dev.mem) ∧
    (s.dev.streamOn t k h → wordCheck (ctl 0x03 .none .none .none immAll).use true f true = none →
      loopBad h.nInstr (s.dev.kPc t k) (f.imm.toNat / 65536) (s.dev.kn t k).loops = false → f.imm.toNat % 65536 ≠ 0 → Runs (.loop t k f) s fun e =>
      (e.kn t k).loops = ⟨s.dev.kPc t k + 1, s.dev.kPc t k + f.imm.toNat / 65536, f.imm.toNat % 65536⟩ :: (s.dev.kn t k).loops ∧
      e.kPc t k = (s.dev.kPc t k + 1) % 2 ^ 16 ∧ e.mem = s.dev.mem) ∧
    (wordCheck (ctl 0x03 .none .none .none immAll).use true f true = none → (s.dev.kn t k).loops = [] →
      loopBad h.nInstr (s.dev.kPc t k) (f.imm.toNat / 65536) [] = false → f.imm.toNat % 65536 = 0 → Runs (.loop t k f) s fun e =>
      s.dev.kPc t k + f.imm.toNat / 65536 + 1 < h.nInstr →
        (e.kn t k).loops = [] ∧ e.kPc t k = (s.dev.kPc t k + f.imm.toNat / 65536 + 1) % 2 ^ 16 ∧ e.mem = s.dev.mem) ∧
    (wordCheck (ctl 0x01 .none .none .none 0).use true f true = none → (∀ j, (s.dev.kn t k).lastPass = some j → j.desc.fin ≠ 1) →
      Runs (.kend t k f) s fun e => (e.kn t k).ended = true ∧ (e.kn t k).loaf = some h ∧ e.mem = s.dev.mem ∧ e.ev = s.dev.ev) ∧
    (s.dev.streamOn t k h → wordCheck (ctl 0x02 .none .none .none immAll).use true f true = none → Runs (.waitat t k f) s fun e =>
      (s.dev.kn t k).start ≤ (s.dev.tile t).lk → f.imm.toNat ≤ e.kLocal t k ∧ e.mem = s.dev.mem ∧ (e.kn t k).x = (s.dev.kn t k).x) ∧
    (s.dev.streamOn t k h → wordCheck (ctl 0x18 .none .none .none 0xFFFF03FF).use true f true = none →
      s.dev.ctrAllowed t (s.dev.kn t k).ctx (f.imm.toNat % 1024) = true → Runs (.signal t k f) s fun e =>
      e.ctrs.sigs.length = s.dev.ctrs.sigs.length + 1 ∧ e.ctrs.waits = s.dev.ctrs.waits ∧ e.mem = s.dev.mem ∧
      (f.imm.toNat % 1024 < 1008 → ∃ x, e.ctrs.sigs = s.dev.ctrs.sigs ++ [x] ∧ x.tile = t.val ∧ x.ctr = f.imm.toNat % 1024 ∧ x.amount = f.imm.toNat / 65536))

/-- Failed checks (R158, R159, Tables 06.7, 06.11 and 06.12). -/
def Obligations.FailedChecksEndTheLoaf : Prop :=
  (∀ (d : Dev) (t : Tile) (k : KCore) (h : LoafHdr) (op r : Nat), d.canon → (d.kn t k).loaf = some h → (d.kn t k).held = none →
    let e := d.seqFail t k op r
    (e.kn t k).loaf = none ∧ (e.kn t k).passQ = [] ∧ (e.kn t k).dmaQ = [] ∧ (e.kn t k).dmaRun = none ∧ e.mem = d.mem ∧
    e.getF (Reg.KNEAD_SEQ_ERROR t k) F.KNEAD_SEQ_ERROR_VALID = 1 ∧
    e.ev.arisen = (d.raise 0x2040 (d.kn t k).ctx.slice (kneadUnit t k) (d.kLoaf t k) (r + d.kPc t k * 2 ^ 8 + op * 2 ^ 24)).ev.arisen ∧
    (d.getF (Reg.KNEAD_SEQ_ERROR t k) F.KNEAD_SEQ_ERROR_VALID = 0 → e.getF (Reg.KNEAD_SEQ_ERROR t k) F.KNEAD_SEQ_ERROR_REASON = r % 8)) ∧
  (∀ (t : Tile) (k : KCore) (f : KFields) (h : LoafHdr) (s : State) (r : Nat), s.on → s.dev.issues t k h →
    (wordCheck useV2 true f true = some r → Runs (.vadd t k f) s (· = s.dev.seqFail t k 0x30 r)) ∧
    (wordCheck (ctl 0x04 .x .none .none immAll).use true f true = some r → Runs (.sli t k f) s (· = s.dev.seqFail t k 0x04 r)) ∧
    (wordCheck (ctl 0x10 .none .none .none 0x07FFFFFF).use true f true = some r → Runs (.pass t k f) s (· = s.dev.seqFail t k 0x10 r)))

/-- VLD, VST and VQST (Table 06.3, R141, R150, R543). -/
def Obligations.VectorStoresAndLoadsMoveLines : Prop :=
  ∀ (t : Tile) (k : KCore) (f : KFields) (h : LoafHdr) (s : State), s.on → s.dev.canon → s.dev.issues t k h → s.dev.streamOn t k h →
    let c := s.dev.kn t k
    let w := widthOf c.shapeW
    (let rows := rowsAt (c.rx f.a + f.imm.setWidth 64) c.shapeE c.rows
     let eb := fmtBytes f.c.toNat
     wordCheck ⟨.v, .x, .none, .code, true, immAll⟩ true f (decide (f.c.toNat ≤ 4)) = none →
     ((∀ r ∈ rows, c.ctx.holds r (lineSpan 0 (w * eb)) = true) → s.dev.badIn c.ctx t k (rows.map fun r => (r, lineSpan 0 (w * eb))) = none →
       Runs (.vld t k f) s fun e => e.mem = s.dev.mem ∧
         (e.kn t k).v = (c.put f.d f.m ((List.range 256).map fun i =>
           loadLane f.c.toNat (ofLe (s.dev.bytes (c.ctx.at_ t k (rows.getD (i / w) 0) + eb * (i % w)) eb)))
           (if f.c.toNat ≤ 2 then BitVec.allOnes 256 else 0#256)).v) ∧
     ((∃ r ∈ rows, c.ctx.holds r (lineSpan 0 (w * eb)) = false) → Runs (.vld t k f) s fun e =>
       (e.kn t k).loaf = none ∧ e.mem = s.dev.mem)) ∧
    (let rows := rowsAt (c.rx f.b + f.imm.setWidth 64) c.shapeE c.rows
     let eb := fmtBytes f.c.toNat
     wordCheck ⟨.none, .v, .x, .code, true, immAll⟩ true f (decide (f.c.toNat ≤ 4)) = none →
     (∀ r ∈ rows, c.ctx.holds r (lineSpan 0 (w * eb)) = true) → Runs (.vst t k f) s fun e => ∀ a,
       (∀ r ∈ rows, a < c.ctx.at_ t k r ∨ c.ctx.at_ t k r + w * eb ≤ a) → e.byte a = s.dev.byte a) ∧
    (∀ x, opMx f.c.toNat = some x →
      let so := f.imm.toNat / 65536
      let rows := rowsAt (c.rx f.b + BitVec.ofNat 64 (f.imm.toNat % 65536)) c.shapeE c.rows
      let srows := rowsAt (c.rx f.d) c.shapeS c.rows
      wordCheck ⟨.x, .v, .x, .code, true, immAll⟩ false f true = none → c.shapeW ≤ 3 →
      (∀ r ∈ rows, c.ctx.holds r (lineSpan 0 (w * x.bits / 8)) = true) →
      (∀ r ∈ srows, c.ctx.holds (r + so / 64) (lineSpan (so % 64) (w / 32)) = true) → Runs (.vqst t k f) s fun e => ∀ a,
        (∀ r ∈ rows, a < c.ctx.at_ t k r ∨ c.ctx.at_ t k r + w * x.bits / 8 ≤ a) →
        (∀ r ∈ srows, a < c.ctx.at_ t k r + so ∨ c.ctx.at_ t k r + so + w / 32 ≤ a) → e.byte a = s.dev.byte a)

/-- Passes, DMA, waits and the steward's registers of a core (R118, R142, R147, R148, R153, R155, R158). -/
def Obligations.EnginesQueueAndFinishWork : Prop :=
  (∀ (t : Tile) (k : KCore) (f : KFields) (h : LoafHdr) (s : State), s.on → s.dev.canon → s.dev.issues t k h → s.dev.streamOn t k h →
    let c := s.dev.kn t k
    let x := c.ctx
    let im := f.imm.toNat
    (wordCheck (ctl 0x10 .none .none .none 0x07FFFFFF).use true f true = none → im / 2 ^ 26 % 2 = 0 → im % 65536 < h.nPass → c.passQ.length < 4 →
      s.dev.firstBad (x.at_ t k h.passLine + 64 * (im % 65536)) 64 = none →
      let p := passDesc (s.dev.bytes (x.at_ t k h.passLine + 64 * (im % 65536)) 64)
      ((s.dev.advance (c.issueAt (ctl 0x10 .none .none .none 0x07FFFFFF) f - (s.dev.tile t).lk)).syncLocal t k).passCheck t k c p = none →
      Runs (.pass t k f) s fun e => ∃ j, (e.kn t k).passQ = c.passQ ++ [j] ∧ j.desc = p ∧ j.sig = none ∧ j.issued = (e.tile t).lk ∧
        j.entry = entryCycle c.lastPass j.issued p ∧ e.mem = s.dev.mem) ∧
    (wordCheck (ctl 0x11 .none .none .none 0xFFFF).use true f true = none → im < h.nDma → c.dmaQ.length < 16 →
      s.dev.firstBad (x.at_ t k h.dmaLine + 32 * im) 32 = none →
      let r := dmaDesc (s.dev.bytes (x.at_ t k h.dmaLine + 32 * im) 32)
      let d := (s.dev.advance (c.issueAt (ctl 0x11 .none .none .none 0xFFFF) f - (s.dev.tile t).lk)).syncLocal t k
      d.dmaCheck t (kneadUnit t k) (d.logicalOf t k) x false r = none →
      Runs (.dma t k f) s fun e => (e.kn t k).dmaQ = c.dmaQ ++ [⟨im, r, 0⟩] ∧ e.mem = s.dev.mem) ∧
    (wordCheck (ctl 0x19 .none .none .none 0xFFFF03FF).use true f true = none → s.dev.waitAllowed t x (im % 1024) = true →
      Runs (.take t k f) s fun e => (e.kn t k).waiting = true ∧ e.mem = s.dev.mem ∧ e.ctrs.waits.length = s.dev.ctrs.waits.length + 1 ∧
        ∃ w ∈ e.ctrs.waits, w.tile = t.val ∧ w.ctr = im % 1024 ∧ w.amount = im / 65536 ∧ w.take = true ∧ w.unit = kneadUnit t k ∧ w.slice = x.slice) ∧
    (wordCheck (ctl 0x1A .none .none .none 0xFFFF03FF).use true f true = none → s.dev.waitAllowed t x (im % 1024) = true →
      Runs (.watch t k f) s fun e => (e.kn t k).waiting = true ∧ e.mem = s.dev.mem ∧ e.ctrs.waits.length = s.dev.ctrs.waits.length + 1 ∧
        ∃ w ∈ e.ctrs.waits, w.tile = t.val ∧ w.ctr = im % 1024 ∧ w.amount = im / 65536 ∧ w.take = false ∧ w.unit = kneadUnit t k ∧ w.slice = x.slice)) ∧
  (∀ (t : Tile) (k : KCore) (s : State), s.on → s.dev.paused t = false →
    (∀ j q, (s.dev.kn t k).passQ = j :: q → Runs (.passEntry t k) s
      (· = ((s.dev.advance (j.entry - (s.dev.tile t).lk)).passEnters t k).syncLocal t k)) ∧
    (∀ j q, (s.dev.kn t k).passRun = j :: q → Runs (.passEnd t k) s
      (· = ((s.dev.advance (j.endsAt - (s.dev.tile t).lk)).syncLocal t k).passEnds t k)) ∧
    (∀ j q h, (s.dev.kn t k).dmaQ = j :: q → (s.dev.kn t k).dmaRun = none → (s.dev.kn t k).loaf = some h → s.dev.canon → Runs (.dmaBegin t k) s fun e =>
      (e.kn t k).dmaQ = q ∧ (∃ n, (e.kn t k).dmaRun = some { j with done := n } ∧
        (j.desc.src ≠ 2 → j.desc.dst ≠ 2 → n = (s.dev.tile t).lk + (s.dev.dmaPath t (kneadUnit t k) h.kind j.desc).2 +
          ceilDiv (j.desc.rows * j.desc.rowLines * 64) (max (s.dev.dmaPath t (kneadUnit t k) h.kind j.desc).1 1))) ∧ e.mem = s.dev.mem) ∧
    (∀ j, (s.dev.kn t k).dmaRun = some j → j.desc.sig = false →
      let d := (s.dev.advance (j.done - (s.dev.tile t).lk)).syncLocal t k
      let at_ := fun (sp a st i : Nat) => sideAt t k (s.dev.kn t k).ctx sp (a + if sp ≤ 1 then i * st else i * st * 64)
      d.dmaBad (at_ j.desc.src j.desc.srcAddr j.desc.srcStride) j.desc.rows j.desc.rowLines = none → Runs (.dmaComplete t k) s
        (· = (d.copyRows (at_ j.desc.src j.desc.srcAddr j.desc.srcStride) (at_ j.desc.dst j.desc.dstAddr j.desc.dstStride)
          j.desc.rows j.desc.rowLines).modKn t k fun c => { c with dmaRun := none }))) ∧
  (∀ (m : Master) (t : Tile) (k : KCore) (id : Bool) (v : Word) (s : State), s.admits m →
    let a := if id then Reg.KNEAD_CONTEXT_ID t k else Reg.KNEAD_CONTEXT t k
    (m = stewardOf t → Runs (.kneadContextWrite m t k id v) s (· = s.dev.rwWrite a v)) ∧
    (m ≠ stewardOf t → Runs (.kneadContextWrite m t k id v) s (· = s.dev.raise 0x2043 0xFF (kneadUnit t k) a m.toNat))) ∧
  (∀ (m : Master) (t : Tile) (k : KCore) (r : Fin 6) (v : Word) (s : State), s.admits m →
    (m = stewardOf t → Runs (.replayRegisterWrite m t k r v) s (· = s.dev.rwWrite (replayReg t k r) v)) ∧
    (m ≠ stewardOf t → Runs (.replayRegisterWrite m t k r v) s (· = s.dev.raise 0x2043 0xFF (kneadUnit t k) (replayReg t k r) m.toNat)))

/-- Start and completion of a loaf (R42, R140, R141, R146, R157). -/
def Obligations.LoavesStartCleanAndEndCounted : Prop :=
  (∀ (t : Tile) (k : KCore) (s : State), s.on → s.dev.canon → (s.dev.kn t k).loaf = none → s.dev.placeLoaf t (0x100 + k) = s.dev →
    s.dev.paused t = false → s.dev.logicalOf t k ≠ none →
    let x := s.dev.kneadCtx t k
    let h := loafHdr (s.dev.bytes (x.at_ t k 0) 64)
    let room := s.dev.spaceFor t (0x100 + k) h.kind
    x.lo < x.hi → s.dev.firstBad (x.at_ t k 0) 64 = none →
    (h.length ≤ room → h.length ≠ 0 → h.nInstr ≠ 0 → Runs (.kneadLoafStart t k) s fun e =>
      (e.kn t k).loaf = some h ∧ (e.kn t k).ctx = x ∧ (e.kn t k).x = [] ∧ (e.kn t k).v = [] ∧ (e.kn t k).m = [] ∧
      (e.kn t k).start = (s.dev.tile t).lk ∧ e.kPc t k = 0 ∧ e.kLoaf t k = h.id % 2 ^ 32 ∧ e.mem = s.dev.mem) ∧
    ((room < h.length ∨ h.length = 0) → Runs (.kneadLoafStart t k) s
      (· = s.dev.raise 0x1005 x.slice (stewardOf t) h.id (h.length + room * 2 ^ 32)))) ∧
  (∀ (t : Tile) (k : KCore) (h : LoafHdr) (s : State), s.on → s.dev.canon → (s.dev.kn t k).loaf = some h → (s.dev.kn t k).ended = true →
    (s.dev.kn t k).passQ = [] → (s.dev.kn t k).passRun = [] → (s.dev.kn t k).dmaQ = [] → (s.dev.kn t k).dmaRun = none → s.dev.paused t = false →
    Runs (.kneadLoafComplete t k) s fun e => (e.kn t k).loaf = none ∧ (e.kn t k).stored ≤ (e.tile t).lk ∧ e.mem = s.dev.mem ∧
      (e.tile t).done = (s.dev.tile t).done ++ [⟨BitVec.ofNat 13 (0x100 + k), h.id, (s.dev.kn t k).ctx.slice, (s.dev.kn t k).ctx.ctxId, 0, 0⟩])

/-- The four commands of a Sieve (R167, R168, R171, R176, R181). -/
def Obligations.SievesRunTheirJobs : Prop :=
  (∀ (m : Master) (t : Tile) (i : SieveIx) (v : Word) (s : State), s.admits m →
    (m = stewardOf t → Runs (.sieveContextWrite m t i v) s (· = s.dev.rwWrite (Reg.SIEVE_CONTEXT t i) v)) ∧
    (m ≠ stewardOf t → Runs (.sieveContextWrite m t i v) s
      (· = s.dev.raise 0x3003 0xFF (sieveUnit t i) (Reg.SIEVE_CONTEXT t i) m.toNat))) ∧
  (∀ (t : Tile) (i : SieveIx) (k : Nat) (s : State), s.on → s.dev.canon → s.dev.physOf t (i / 2) = some k → (s.dev.sieve t i).phase = 0 →
    s.dev.placeLoaf t (0x300 + i) = s.dev → s.dev.paused t = false →
    let x := s.dev.sieveCtx t i
    let l := s.dev.bytes (x.at_ t k 0) 64
    let room := s.dev.spaceFor t (0x300 + i) (leAt l 4 1)
    x.lo < x.hi → s.dev.firstBad (x.at_ t k 0) 64 = none →
    (leAt l 8 4 ≤ room → leAt l 8 4 ≠ 0 → leAt l 16 2 ≠ 0 → x.holds (leAt l 18 2) 1 = true →
      s.dev.firstBad (x.at_ t k (leAt l 18 2)) 64 = none → (sieveJob (s.dev.bytes (x.at_ t k (leAt l 18 2)) 64)).waitEn = false →
      Runs (.sieveLoafStart t i) s fun e => (e.sieve t i).phase = 1 ∧ (e.sieve t i).id = leAt l 0 4 ∧ (e.sieve t i).ctx = x ∧
        (e.sieve t i).job = 0 ∧ (e.sieve t i).t0 = (s.dev.tile t).lk ∧ e.mem = s.dev.mem) ∧
    ((room < leAt l 8 4 ∨ leAt l 8 4 = 0) → Runs (.sieveLoafStart t i) s
      (· = s.dev.raise 0x1005 x.slice (stewardOf t) (leAt l 0 4) (leAt l 8 4 + room * 2 ^ 32)))) ∧
  (∀ (t : Tile) (i : SieveIx) (k : Nat) (s : State), s.on → s.dev.canon → s.dev.physOf t (i / 2) = some k → (s.dev.sieve t i).phase = 1 →
    s.dev.paused t = false →
    let x := s.dev.sieve t i
    let j := sieveJob (s.dev.bytes (x.ctx.at_ t k (x.jobLine + x.job)) 64)
    let ps := (List.range j.nPages).map fun n => pagePair (s.dev.bytes (x.ctx.at_ t k j.listBase + 16 * n) 16)
    (∀ r, s.dev.sieveCheck t x j false = some r → Runs (.sieveJobBegin t i) s (· = s.dev.sieveFail t i r 0xFFFF j.jobId)) ∧
    (s.dev.sieveCheck t x j false = none → s.dev.firstBad (x.ctx.at_ t k j.listBase) (16 * j.nPages) = none →
      s.dev.firstBad (x.ctx.at_ t k j.qBase) (j.rows * j.dim * 2) = none →
      (∀ p ∈ ps, s.dev.pairCheck t i x j p = none ∧ s.dev.pairBad t i j p = none) → Runs (.sieveJobBegin t i) s fun e =>
        (e.sieve t i).phase = 3 ∧ (e.sieve t i).outs.length = j.rows ∧ (e.sieve t i).sig = (if j.sigEn then some j.sigCtr else none) ∧
        (∃ r g, (e.sieve t i).done = x.t0 + 64 + max (r + g) (j.nPages * j.rows * (if j.fmt = 0 then 2 else 4)) + 24 + j.rows * (1 + j.dim / 16) ∧
          r = ceilDiv (j.nPages * j.lc * 25 * 256) (48 * (256 - max (s.dev.landShare t (2 * i)) (s.dev.landShare t (2 * i + 1))))) ∧
        e.mem = s.dev.mem)) ∧
  (∀ (t : Tile) (i : SieveIx) (k : Nat) (s : State), s.on → s.dev.canon → s.dev.physOf t (i / 2) = some k → (s.dev.sieve t i).phase = 3 →
    s.dev.paused t = false → (s.dev.sieve t i).nJobs ≤ (s.dev.sieve t i).job + 1 →
    let x := s.dev.sieve t i
    Runs (.sieveJobComplete t i) s fun e => (e.sieve t i).phase = 0 ∧
      (∀ a, (∀ o ∈ x.outs, a < o.1 ∨ o.1 + o.2.length ≤ a) → e.byte a = s.dev.byte a) ∧
      (∀ p o q, x.outs = p ++ o :: q → ∀ n, n < o.2.length → (∀ u ∈ q, o.1 + n < u.1 ∨ u.1 + u.2.length ≤ o.1 + n) →
        e.byte (o.1 + n) = o.2.getD n 0#8))

/-- Tier commands up to their begin (R195 to R197, R201, R202, R204, R213). -/
def Obligations.TierCommandsQueueCheckAndBegin : Prop :=
  (∀ (m : Master) (t : Tile) (w : Fin 4) (v : Word) (s : State), s.admits m →
    (m ≠ stewardOf t → Runs (.tierCmdPush m t w v) s (· = s.dev.raise 0x4009 0xFF (tierUnit t) (Reg.TIER_CMD_PUSH t w) m.toNat)) ∧
    (m = stewardOf t → w ≠ 3 → Runs (.tierCmdPush m t w v) s (· = s.dev.setReg (Reg.TIER_CMD_PUSH t w) v)) ∧
    (m = stewardOf t → w = 3 → s.dev.canon →
      let c : TierCmd := ⟨s.dev.reg (Reg.TIER_CMD_PUSH t 0), s.dev.reg (Reg.TIER_CMD_PUSH t 1), s.dev.reg (Reg.TIER_CMD_PUSH t 2), v, s.dev.tickNo⟩
      ((s.dev.tier t).queue.length < 512 → Runs (.tierCmdPush m t w v) s fun e =>
        (e.tier t).queue = (s.dev.tier t).queue ++ [c] ∧ e.getF (Reg.TIER_STATUS t) F.TIER_STATUS_QUEUED = (s.dev.tier t).queue.length + 1 ∧
        e.mem = s.dev.mem ∧ e.ev = s.dev.ev) ∧
      (512 ≤ (s.dev.tier t).queue.length → Runs (.tierCmdPush m t w v) s (· = (s.dev.setReg (Reg.TIER_CMD_PUSH t w) v).raise 0x4002 c.slice
        (tierUnit t) c.objId (7 + c.op * 256))))) ∧
  (∀ (m : Master) (t : Tile) (w : Fin 16) (v : Word) (s : State), s.admits m →
    (m = stewardOf t → Runs (.tierFlagClear m t w v) s (· = s.dev.setReg (Reg.TIER_FLAGS t w) (s.dev.reg (Reg.TIER_FLAGS t w) &&& ~~~v))) ∧
    (m ≠ stewardOf t → Runs (.tierFlagClear m t w v) s (· = s.dev.raise 0x4009 0xFF (tierUnit t) (Reg.TIER_FLAGS t w) m.toNat))) ∧
  (∀ (t : Tile) (ext : Bool) (c : TierCmd) (q : List TierCmd) (s : State), s.on → s.dev.canon → s.dev.tierNext t ext = some (c, q) →
    s.dev.bad (objPlace t (c.objId % 2 ^ 20) / 64) = false →
    let i := c.objId % 2 ^ 20
    let o := s.dev.obj t i
    let begun := fun (st : Nat) (w : TierWork) (e : Dev) => ∃ r, (e.tier t).run ext = some r ∧ r.cmd = c ∧ r.status = st ∧ r.reason = 0 ∧
      r.work = w ∧ (e.tier t).queue = q
    (∀ r, (s.dev.setTier t { s.dev.tier t with queue := q }).tierCheck t c = some r →
      let failed := fun (e : Dev) => (∃ x, (e.tier t).run ext = some x ∧ x.cmd = c ∧ x.status = 7 ∧ x.reason = r ∧ x.work = .none) ∧
        e.mem = s.dev.mem ∧ e.ev = (s.dev.raise 0x4002 c.slice (tierUnit t) c.objId (r + c.op * 256)).ev
      (c.op = 1 → Runs (.tierDefine t ext) s failed) ∧ (c.op = 2 → Runs (.tierRetire t ext) s failed) ∧
      (c.op = 3 → Runs (.tierPromote t ext) s failed) ∧ (c.op = 4 → Runs (.tierEvict t ext) s failed) ∧
      (c.op = 5 → Runs (.tierClean t ext) s failed) ∧ (c.op = 6 → Runs (.tierDiscard t ext) s failed)) ∧
    ((s.dev.setTier t { s.dev.tier t with queue := q }).tierCheck t c = none →
      (c.op = 1 → Runs (.tierDefine t ext) s fun e => begun 0 .none e ∧ (e.obj t i).state = 1 ∧ (e.obj t i).refMask = 0 ∧
        (e.obj t i).id = c.objId ∧ (e.obj t i).owner = c.slice ∧ (e.obj t i).pages = (s.dev.defineImage c).pages ∧
        (e.obj t i).curAddr = (s.dev.defineImage c).homeAddr) ∧
      (c.op = 2 → Runs (.tierRetire t ext) s fun e => begun 0 .none e ∧ (e.obj t i).state = 0) ∧
      (c.op = 3 → o.upper = true → Runs (.tierPromote t ext) s fun e =>
        begun (if o.curTier = c.tier ∧ o.curAddr = c.addr then 0 else 2) .none e ∧ (e.obj t i).refMask = setBit o.refMask c.slice ∧
        (e.obj t i).state = o.state ∧ (e.obj t i).curAddr = o.curAddr) ∧
      (c.op = 3 → o.upper = false → s.dev.quota o.owner (quotaOff c.tier) < s.dev.tierUse t o.owner c.tier + o.pages →
        Runs (.tierPromote t ext) s fun e => begun 1 .none e ∧ (e.obj t i).refMask = setBit o.refMask c.slice ∧ (e.obj t i).state = o.state ∧
        e.ev = (s.dev.raise 0x4001 c.slice (tierUnit t) c.objId (c.tier + s.dev.tierUse t o.owner c.tier * 2 ^ 32)).ev) ∧
      (c.op = 3 → o.upper = false → s.dev.tierUse t o.owner c.tier + o.pages ≤ s.dev.quota o.owner (quotaOff c.tier) →
        Runs (.tierPromote t ext) s fun e => begun 0 .copy e ∧ (e.obj t i).refMask = setBit o.refMask c.slice ∧ (e.obj t i).state = 2 ∧
        (e.obj t i).curTier = c.tier ∧ (e.obj t i).curAddr = c.addr ∧ e.ev = s.dev.ev) ∧
      (c.op = 4 → (o.state ≠ 3 ∨ clearBit o.refMask c.slice ≠ 0) → Runs (.tierEvict t ext) s fun e => begun 0 .none e ∧
        (e.obj t i).refMask = clearBit o.refMask c.slice ∧ (e.obj t i).state = o.state) ∧
      (c.op = 4 → o.state = 3 → clearBit o.refMask c.slice = 0 → o.homeTier = 2 → Runs (.tierEvict t ext) s fun e => begun 0 .evict e ∧
        (e.obj t i).refMask = 0 ∧ (e.obj t i).state = 4) ∧
      (c.op = 5 → o.state = 3 → o.homeTier = 2 → Runs (.tierClean t ext) s fun e => begun 0 .clean e ∧ (e.obj t i).state = 3 ∧
        (e.obj t i).refMask = o.refMask) ∧
      (c.op = 6 → Runs (.tierDiscard t ext) s fun e => begun 0 .none e ∧ (e.obj t i).refMask = 0 ∧ (e.obj t i).state = 1 ∧
        (e.obj t i).curAddr = o.homeAddr)))

/-- The ends of tier commands (R199, R202, R208, R209). -/
def Obligations.TierCommandsCompleteOrFail : Prop :=
  ∀ (t : Tile) (ext : Bool) (r : TierRun) (s : State), s.on → s.dev.canon → (s.dev.tier t).run ext = some r →
    let i := r.cmd.objId % 2 ^ 20
    let o := s.dev.obj t i
    let ring := reserveBase t + 0x08000000 + 16 * s.dev.getF (Reg.TIER_DONE_HEAD t) F.TIER_DONE_HEAD_HEAD
    let record := fun (st : Nat) => leBytes 4 r.cmd.objId ++ leBytes 1 r.cmd.op ++ leBytes 1 st ++ leBytes 1 r.cmd.slice ++ leBytes 1 r.reason ++
      leBytes 8 s.dev.tickNo
    (∀ lower, r.work = .none → r.left = 0 → r.ids = [] → Runs (.tierCmdComplete t ext lower) s fun e =>
      (e.tier t).run ext = none ∧ (∀ n, n < 16 → e.byte (ring + n) = (record r.status).getD n 0#8) ∧
      (∀ a, a < ring ∨ ring + 16 ≤ a → e.byte a = s.dev.byte a) ∧
      e.getF (Reg.TIER_DONE_HEAD t) F.TIER_DONE_HEAD_HEAD = (s.dev.getF (Reg.TIER_DONE_HEAD t) F.TIER_DONE_HEAD_HEAD + 1) % 4096 ∧
      (r.cmd.w3.toNat / 1024 % 2 = 1 → ∀ f : Fin 1024, f.val = r.cmd.w3.toNat % 1024 →
        (e.reg (Reg.TIER_FLAGS t (f / 64))).getLsbD (f % 64) = true)) ∧
    (∀ p, r.work = .copy → r.left = 0 → r.ids = [] → r.bad = 0 → o.homeTier = 2 → s.dev.place o.curAddr = some p → p % 64 = 0 →
      s.dev.firstBad o.homeAddr (o.pages * 4096) = none →
      (p + o.pages * 4096 ≤ reserveBase t ∨ reserveBase t + 0x10000000 ≤ p) →
      (p + o.pages * 4096 ≤ o.homeAddr ∨ o.homeAddr + o.pages * 4096 ≤ p) → o.homeAddr + o.pages * 4096 ≤ reserveBase t →
      Runs (.tierCmdComplete t ext []) s fun e => (e.obj t i).state = 3 ∧ (e.tier t).run ext = none ∧
        ∀ n, n < o.pages * 4096 → e.byte (p + n) = s.dev.byte (o.homeAddr + n)) ∧
    (s.dev.tickNo < r.cmd.pushed + r.cmd.deadline → Runs (.tierDeadline t ext) s (· = s.dev)) ∧
    (r.cmd.pushed + r.cmd.deadline ≤ s.dev.tickNo → r.work = .copy → Runs (.tierDeadline t ext) s fun e =>
      (∃ x, (e.tier t).run ext = some x ∧ x.cmd = r.cmd ∧ x.status = 4 ∧ x.work = .none) ∧ (e.obj t i).state = 5 ∧
      (e.obj t i).curAddr = o.homeAddr ∧ (e.obj t i).refMask = o.refMask) ∧
    (∀ pg, r.work = .copy → o.homeTier = 4 → Runs (.lowerTierFailure t ext pg) s fun e =>
      (∃ x, (e.tier t).run ext = some x ∧ x.cmd = r.cmd ∧ x.status = 3 ∧ x.work = .none) ∧ (e.obj t i).state = 5 ∧
      (e.obj t i).curAddr = o.homeAddr ∧ e.ev = (s.dev.raise 0x4003 r.cmd.slice (tierUnit t) r.cmd.objId (4 + pg % 2 ^ 20 * 2 ^ 32)).ev)

/-- CXL.mem accesses and CXL.cache writes (R211, R212, R430, R484 to R486, R488). -/
def Obligations.HostReadsAndWritesWholeLines : Prop :=
  (∀ (a : Word) (s : State), s.on → s.dev.ioOnly = false → s.dev.ideBlocked = false → s.dev.recovery = false → s.dev.canon →
    (s.dev.hdmDecode a.toNat = none → Runs (.hdmRead a) s fun e => e.mem = s.dev.mem ∧
      (∃ l, e.sent = s.dev.sent ++ [.hdmData l true]) ∧ e.ev = (s.dev.raise 0x4008 0xFF cxlPort (a.toNat / 256) 256).ev) ∧
    (∀ x, s.dev.hdmDecode a.toNat = some x →
      let ln := x / 64
      let shut := inReserve (ln * 64) = true ∨ s.dev.rangeAt (ln * 64) = none
      (shut → Runs (.hdmRead a) s fun e => e.mem = s.dev.mem ∧
        (∃ l, e.sent = s.dev.sent ++ [.hdmData l true]) ∧ e.ev = (s.dev.raise 0x4008 0xFF cxlPort (x / 256) 0).ev) ∧
      (¬ shut → s.dev.bad ln = false → Runs (.hdmRead a) s fun e => s.dev.sameStores e ∧ e.ev = s.dev.ev ∧ e.regs = s.dev.regs ∧
        e.sent = s.dev.sent ++ [.hdmData (s.dev.bytes (ln * 64) 64) false]) ∧
      (¬ shut → s.dev.bad ln = true → Runs (.hdmRead a) s fun e => s.dev.sameStores e ∧ ∃ l, e.sent = s.dev.sent ++ [.hdmData l true]) ∧
      (∀ data p, shut → Runs (.hdmWrite a data p) s (· = s.dev.raise 0x4008 0xFF cxlPort (x / 256) 1)) ∧
      (∀ data p, ¬ shut → Runs (.hdmWrite a data p) s fun e => e.ev = s.dev.ev ∧ e.bad ln = p ∧
        (∀ n, n < 64 → e.byte (ln * 64 + n) = (bytesAt data 0 64).getD n 0#8) ∧
        ∀ b, b / 64 ≠ ln → e.byte b = s.dev.byte b ∧ e.errOf (b / 64) = s.dev.errOf (b / 64))) ∧
    (∀ data p, s.dev.hdmDecode a.toNat = none → Runs (.hdmWrite a data p) s (· = s.dev.raise 0x4008 0xFF cxlPort (a.toNat / 256) 257))) ∧
  (∀ (a : Word) (s : State), s.on → Runs (.h2dSnoop a) s fun e => e = { s.dev with sent := s.dev.sent ++ [.rspIHitI a.toNat] }) ∧
  (∀ (id : Nat) (s : State), s.on → s.dev.ideBlocked = false → (∃ w ∈ s.dev.hostWrites, w.id = id) → Runs (.hostWriteDone id) s fun e =>
    e.hostWrites = s.dev.hostWrites.filter (fun w => w.id != id) ∧
    s.dev.sameStores e ∧ e.regs = s.dev.regs) ∧
  (∀ (id : Nat) (w : HostWrite) (s : State), s.on → s.dev.hostWrites.find? (·.id == id) = some w → w.kind.retried = true →
    Runs (.hostWriteRetry id .error) s fun e =>
      e = ({ s.dev with hostWrites := s.dev.hostWrites.map fun x => if x.id == id then { x with retries := x.retries + 1 } else x } : Dev).count
        Reg.CXL_WRITE_RETRY F.CXL_WRITE_RETRY_COUNT 1)

/-- The tray commands of the host (R217, R239, R241). -/
def Obligations.TraysTakeDoorbellsFetchesAndAborts : Prop :=
  (∀ (m : Master) (n : TrayIx) (v : Word) (s : State), s.admits m →
    let x := s.dev.tray n
    let good := s.dev.ioOnly = false ∧ s.dev.trayWriter n m = true ∧ s.dev.trayLive n = true ∧ ahead v x.taken = true ∧
      (v - s.dev.reg (Reg.TRAY_NEXT_SEQ n)).toNat ≤ s.dev.trayE n
    (good → Runs (.trayDoorbell m n v) s
      (· = s.dev.setTray n { x with taken := v, batches := x.batches ++ [⟨x.taken, (v - x.taken).toNat, none⟩] })) ∧
    (¬ good → Runs (.trayDoorbell m n v) s (· = s.dev))) ∧
  (∀ (n : TrayIx) (pre post : List TrayBatch) (b : TrayBatch) (es : List Bytes) (s : State), s.on → s.dev.canon →
    (s.dev.tray n).batches = pre ++ b :: post → (∀ x ∈ pre, x.landed ≠ none) → b.landed = none →
    (s.dev.getF (Reg.TRAY_CFG n) F.TRAY_CFG_RING_SPACE ≠ 1 → es.length = b.count → (∀ l ∈ es, l.length = 256) →
      Runs (.trayFetchDone n es .ok) s fun e => (e.tray n).batches = pre ++ { b with landed := some es } :: post ∧
        (e.tray n).taken = (s.dev.tray n).taken ∧ e.mem = s.dev.mem ∧ e.regs = s.dev.regs) ∧
    (s.dev.getF (Reg.TRAY_CFG n) F.TRAY_CFG_RING_SPACE = 1 → Runs (.trayFetchDone n es .ok) s fun e => ∃ l,
      (e.tray n).batches = pre ++ { b with landed := some l } :: post ∧ l.length = b.count ∧ ∀ i, i < b.count →
        l[i]? = some (s.dev.bytes (s.dev.getF (Reg.TRAY_RING n) F.TRAY_RING_ADDR * 256 +
          256 * ((b.first + BitVec.ofNat 64 i).toNat % s.dev.trayE n)) 256)) ∧
    Runs (.trayFetchDone n es .error) s fun e => (e.tray n).batches = pre ∧ (e.tray n).taken = b.first ∧ e.mem = s.dev.mem) ∧
  (∀ (m : Master) (n : TrayIx) (q : Word) (s : State), s.admits m → s.dev.canon →
    let good := s.dev.trayWriter n m = true ∧ s.dev.trayLive n = true
    (good → Runs (.trayAbort m n q) s fun e => (e.tray n).abort = some q ∧ (e.tray n).batches = (s.dev.tray n).batches ∧
      e.getF (Reg.TRAY_STATUS n) F.TRAY_STATUS_ABORT_PENDING = 1 ∧ s.dev.sameRegs e (· = Reg.TRAY_STATUS n) ∧ e.sched = s.dev.sched) ∧
    (¬ good → Runs (.trayAbort m n q) s (· = s.dev)))

/-- The service transfers of the tile stewards (R235 to R237, R416). -/
def Obligations.ServiceTransfersMoveContexts : Prop :=
  (∀ (t : Tile) (k : KCore) (i : Nat) (d' : Dev) (v : Svc) (q : List Svc) (s : State), s.on → s.dev.canon → s.dev.logicalOf t k = some i →
    s.dev.atBoundary t = some d' → (s.dev.sch t).coreQueue i = v :: q → v.since = none → v.decided < d'.tickNo →
    Runs (.serviceTransferStart t k) s fun e => e.now = d'.now ∧ e.mem = s.dev.mem ∧
      ∃ w ∈ (e.sch t).svc, w.since = some d'.now ∧ w.core = v.core ∧ w.kind = v.kind ∧ w.slice = v.slice ∧ w.ctx = v.ctx) ∧
  (∀ (t : Tile) (id : BitVec 16) (c : TCtx) (n : Nat) (s : State), s.on → s.dev.canon →
    (s.dev.sch t).ctxs.find? (fun c => c.id == id.toNat && c.stage == .saving) = some c →
    s.dev.svcOver ((s.dev.sch t).svc.filter fun v => v.kind == .save && v.slice == c.slice && v.ctx == c.id) = some n →
    Runs (.contextSaved t id) s fun e => (∃ o, (e.sch t).ctx? c.slice c.id = some o ∧ o.stage = .saved) ∧
      s.dev.raised e (fun r => r.code = 0x1022 ∧ r.slice = c.slice ∧ r.unit = stewardOf t ∧ r.object.toNat = id.toNat) ∧
      (∀ r k, c.roles = [r] → s.dev.physOf t r.core = some k → s.dev.heldOf t c r.core = none →
        (saveAreaAt t c r + 256 + 64 * c.live ≤ benchAt t k (r.lo * 64) ∨ benchAt t k (r.lo * 64) + 64 * c.live ≤ saveAreaAt t c r) →
        ∀ b, b < 64 * c.live → e.byte (saveAreaAt t c r + 256 + b) = s.dev.byte (benchAt t k (r.lo * 64) + b))) ∧
  (∀ (t : Tile) (id : BitVec 16) (c : TCtx) (n : Nat) (s : State), s.on → s.dev.canon →
    (s.dev.sch t).ctxs.find? (fun c => c.id == id.toNat && c.stage == .restoring) = some c →
    s.dev.svcOver ((s.dev.sch t).svc.filter fun v => v.kind == .restore && v.slice == c.slice && v.ctx == c.id) = some n →
    Runs (.contextRestored t id) s fun e => (∃ o, (e.sch t).ctx? c.slice c.id = some o ∧ o.stage = .resident ∧ o.parked = []) ∧
      ∃ r ∈ e.ev.arisen, r.code = 0x1023 ∧ r.slice = c.slice ∧ r.unit = stewardOf t ∧ r.object.toNat = id.toNat) ∧
  (∀ (t : Tile) (k : KCore) (i n : Nat) (v : Svc) (s : State), s.on → s.dev.canon → s.dev.logicalOf t k = some i →
    s.dev.svcDone t i .zero = some (v, n) → Runs (.benchZeroed t k) s fun e =>
      (∀ a, benchAt t k (v.lo * 64) ≤ a → a < benchAt t k (v.hi * 64) → e.byte a = 0#8) ∧
      (∀ a, a < benchAt t k (v.lo * 64) ∨ benchAt t k (v.hi * 64) ≤ a → e.byte a = s.dev.byte a) ∧ v ∉ (e.sch t).svc) ∧
  (∀ (t : Tile) (k : KCore) (i n : Nat) (v : Svc) (c : TCtx) (r : Role) (s : State), s.on → s.dev.canon → s.dev.logicalOf t k = some i →
    s.dev.svcDone t i .copy = some (v, n) → (s.dev.sch t).ctx? v.slice v.ctx = some c → c.roles[v.role]? = some r →
    Runs (.imageCopyDone t k) s fun e =>
      (∀ b, b < s.dev.imageBytes v.lane v.image → e.byte (s.dev.imagePlace t k r v.lane + b) = s.dev.byte (v.image + b)) ∧
      (∀ a, a < s.dev.imagePlace t k r v.lane ∨ s.dev.imagePlace t k r v.lane + s.dev.imageBytes v.lane v.image ≤ a → e.byte a = s.dev.byte a) ∧
      ∃ o r', (e.sch t).ctx? v.slice v.ctx = some o ∧ o.roles[v.role]? = some r' ∧ r'.image v.lane = v.image) ∧
  (∀ (t : Tile) (id : BitVec 16) (v : Svc) (c : TCtx) (s : State), s.on → s.dev.canon →
    (s.dev.sch t).svc.find? (fun v => v.ctx == id.toNat && (v.kind == .save || v.kind == .restore) && v.since.isSome) = some v →
    (s.dev.sch t).ctx? v.slice id.toNat = some c → Runs (.serviceFaulted t id) s fun e =>
      (e.sch t).ctx? v.slice id.toNat = none ∧ e.mem = s.dev.mem ∧
      (∃ r ∈ e.ev.arisen, r.code = 0x1027 ∧ r.slice = c.slice ∧ r.object.toNat = id.toNat) ∧
      ∀ x ∈ (e.sch t).entries, x.slice = c.slice → entCtx x.raw = id.toNat → x.ending ≠ none)

/-- The commands of the radio pipeline (R252, R254, R261, R262, R269, R273). -/
def Obligations.RadioRequestsLandAndSlotsGoOut : Prop :=
  (∀ (m : Master) (t : Tile) (v : Word) (s : State), s.admits m →
    let x := s.dev.rad t
    let n := (v.toNat % 2 ^ 32 + 2 ^ 32 - x.taken.toNat) % 2 ^ 32
    let good := m = 0xC000#16 ∧ n ≠ 0 ∧ n < 2 ^ 31 ∧ (v.toNat % 2 ^ 32 + 2 ^ 32 - s.dev.getF (Reg.RADIO_REQ_TAKEN t) F.RADIO_REQ_TAKEN_REC) % 2 ^ 32 ≤
      2 ^ s.dev.getF (Reg.RADIO_REQ_RING t) F.RADIO_REQ_RING_LOG2
    (good → Runs (.radioReqDoorbell m t v) s
      (· = s.dev.setRad t { x with taken := BitVec.ofNat 64 (v.toNat % 2 ^ 32), batches := x.batches ++ [⟨x.taken, n, none⟩] })) ∧
    (¬ good → Runs (.radioReqDoorbell m t v) s (· = s.dev))) ∧
  (∀ (t : Tile) (pre post : List TrayBatch) (b : TrayBatch) (rs : List Bytes) (s : State), s.on → s.dev.canon →
    (s.dev.rad t).batches = pre ++ b :: post → (∀ x ∈ pre, x.landed ≠ none) → b.landed = none →
    (rs.length = b.count → Runs (.radioReqFetchDone t rs .ok) s fun e => (e.rad t).batches = pre ++ { b with landed := some rs } :: post ∧
      (e.rad t).reqs = (s.dev.rad t).reqs ∧ e.mem = s.dev.mem ∧ e.regs = s.dev.regs) ∧
    Runs (.radioReqFetchDone t rs .error) s fun e => (e.rad t).batches = pre ∧ (e.rad t).taken = b.first ∧ e.mem = s.dev.mem) ∧
  (∀ (t : Tile) (cell : Nat) (c c' : Bytes) (T : Nat) (d' : Dev) (s : State), s.on → s.dev.cell? t cell = some c →
    s.dev.radioAt t cell 0 (leAt c 28 4) = some (c', T, d') →
    ((T + 1) % s.dev.slotTicks c' = 0 → ((s.dev.rad t).accepted cell (T + 1) 0x81).isSome = true →
      Runs (.ulCplaneEgress t cell) s (· = d'.fhEnqueue t cell [0, 2] false)) ∧
    (((s.dev.rad t).accepted cell (T + 1) 0x81) = none → Runs (.ulCplaneEgress t cell) s (· = s.dev))) ∧
  (∀ (t : Tile) (cell : Nat) (c c' : Bytes) (T : Nat) (d' : Dev) (s : State), s.on → s.dev.cell? t cell = some c →
    s.dev.radioAt t cell 1 (leAt c 28 4) = some (c', T, d') →
    let S := slotStart (s.dev.slotTicks c') (T + 1)
    ((T + 1) % s.dev.slotTicks c' ≠ 0 → (s.dev.rad t).lostIn cell S 1 = none → ((s.dev.rad t).accepted cell S 0x80).isSome = true →
      Runs (.dlEgress t cell) s (· = d'.fhEnqueue t cell [1] true)) ∧
    ((T + 1) % s.dev.slotTicks c' ≠ 0 → ((s.dev.rad t).lostIn cell S 1 ≠ none ∨ (s.dev.rad t).accepted cell S 0x80 = none) →
      Runs (.dlEgress t cell) s (· = s.dev)) ∧
    (∀ l, (T + 1) % s.dev.slotTicks c' = 0 → (s.dev.rad t).lostIn cell (T + 1 - s.dev.slotTicks c') 1 = some l → s.dev.canon →
      Runs (.dlEgress t cell) s fun e => l ∉ (e.rad t).lost ∧ ∃ r ∈ e.ev.arisen, r.code = 0x6001 ∧ r.unit = stewardOf t ∧ r.object = BitVec.ofNat 32 cell)) ∧
  (∀ (t : Tile) (cell : Nat) (c c' : Bytes) (T : Nat) (d' : Dev) (s : State), s.on → s.dev.canon → s.dev.cell? t cell = some c →
    s.dev.radioAt t cell 2 (leAt c 24 4) = some (c', T, d') → s.dev.slotTicks c' + 2 ≤ T → (T - 2) % s.dev.slotTicks c' = 0 →
    let S := T - 2 - s.dev.slotTicks c'
    Runs (.ulIndicationDelivery t cell) s fun e => e.mem = s.dev.mem ∧ e.now = d'.now ∧ (∀ r ∈ (e.rad t).reqs, r.cell = cell → S < r.start) ∧
      ((s.dev.rad t).lostIn cell S 0 = none → (s.dev.rad t).accepted cell S 0x81 = none → e.hostWrites = s.dev.hostWrites ∧ e.ev = s.dev.ev) ∧
      ((s.dev.rad t).lostIn cell S 0 ≠ none → (e.rad t).lostIn cell S 0 = none ∧ ∃ r ∈ e.ev.arisen, r.code = 0x6001 ∧ r.unit = stewardOf t))

/-- The V0 and V1 slots (R276, R279, R282, R283, R288). -/
def Obligations.SignalVectorSlotsSendTheirResults : Prop :=
  ∀ (t : Tile) (i : SigIx) (v : VSlot) (f : SFields) (s : State), s.on → s.dev.canon → s.dev.sigReady t i (vslotRank v) →
    let c := s.dev.sg t i
    let a := fun j => lane32 (c.rv f.a) j
    let b := fun j => lane32 (c.rv f.b) j
    let sent := fun (lat : Nat) (dst : SigDst) (w : Nat) (val : Nat → Int × Int) =>
      s.dev.sigSent t i (vslotRank v) lat dst ((List.range 32).map fun j => unparts w (satParts w (val j)).1)
    let sum := fun (x y : Int × Int) => (x.1 + y.1, x.2 + y.2)
    let good := f.x = 0 ∧ f.d.toNat ≤ 15
    (f = ⟨0, 0, 0, 0⟩ → Runs (.sigNop t i (if v = .v0 then .v0 else .v1) f) s fun e => (e.sg t i).flight = c.flight ∧ (e.sg t i).v = c.v ∧
      (e.sg t i).ac = c.ac ∧ (e.sg t i).main.x = c.main.x ∧ e.mem = s.dev.mem ∧ e.now = s.dev.now ∧ e.ev = s.dev.ev) ∧
    (c.inShadow = false →
      (good → Runs (.cmul t i v f) s (sent 3 (.ac f.d.toNat) 40 fun j =>
        ((a j).1 * (b j).1 - (a j).2 * (b j).2, (a j).1 * (b j).2 + (a j).2 * (b j).1))) ∧
      (good → Runs (.cmac t i v f) s (sent 3 (.ac f.d.toNat) 40 fun j => sum (lane80 (c.rac f.d) j)
        ((a j).1 * (b j).1 - (a j).2 * (b j).2, (a j).1 * (b j).2 + (a j).2 * (b j).1))) ∧
      (good → Runs (.cmulj t i v f) s (sent 3 (.ac f.d.toNat) 40 fun j =>
        ((a j).1 * (b j).1 + (a j).2 * (b j).2, (a j).2 * (b j).1 - (a j).1 * (b j).2))) ∧
      (good → Runs (.cmacj t i v f) s (sent 3 (.ac f.d.toNat) 40 fun j => sum (lane80 (c.rac f.d) j)
        ((a j).1 * (b j).1 + (a j).2 * (b j).2, (a j).2 * (b j).1 - (a j).1 * (b j).2))) ∧
      (f.x.toNat < 2 → Runs (.sigVadd t i v f) s (sent 1 (.v (c.phys f.d)) 16 fun j => sum (a j) (b j))) ∧
      (f.x.toNat < 2 → Runs (.sigVsub t i v f) s (sent 1 (.v (c.phys f.d)) 16 fun j => ((a j).1 - (b j).1, (a j).2 - (b j).2))) ∧
      (f.a.toNat ≤ 15 → f.b = 0 → f.x.toNat < 32 → Runs (.vnarrow t i v f) s (sent 2 (.v (c.phys f.d)) 16 fun j =>
        (convergent (lane80 (c.rac f.a) j).1 f.x.toNat, convergent (lane80 (c.rac f.a) j).2 f.x.toNat))) ∧
      (good → f.b = 0 → Runs (.vwiden t i v f) s (sent 2 (.ac f.d.toNat) 40 fun j => ((a j).1 * 2 ^ 15, (a j).2 * 2 ^ 15))) ∧
      (f.x = 0 → Runs (.vshlv t i v f) s (sent 1 (.v (c.phys f.d)) 16 fun j =>
        let n := ((c.rv f.b).getD j 0#32).toNat % 16
        ((a j).1 * 2 ^ n, (a j).2 * 2 ^ n))) ∧
      (8 ≤ f.x.toNat → f.x.toNat ≤ 16 → Runs (.vunpk t i v f) s (sent 2 (.v (c.phys f.d)) 16 fun j =>
        let w := f.x.toNat
        let big := ((c.rv f.a) ++ (c.rv f.b)).foldr (fun (x : BitVec 32) n => x.toNat + 2 ^ 32 * n) 0
        (codeInt w (big / 2 ^ (2 * j * w) % 2 ^ w), codeInt w (big / 2 ^ ((2 * j + 1) * w) % 2 ^ w)))) ∧
      (f.x = 0 → Runs (.vperm t i v f) s (sent 2 (.v (c.phys f.d)) 16 fun j => lane32 (c.rv f.a) (((c.rv f.b).getD j 0#32).toNat % 32)))) ∧
    (good → c.inShadow = true → Runs (.cmul t i v f) s (· = s.dev.sigFail t i (vslotRank v) 2 0)) ∧
    (15 < f.d.toNat → Runs (.cmul t i v f) s (· = s.dev.sigFail t i (vslotRank v) 1 0))

/-- The LS slot and the transfer engine (R280 to R282, R289, R290, Table 11.1). -/
def Obligations.SignalLoadsStoresAndTransfers : Prop :=
  (∀ (t : Tile) (i : SigIx) (f : SFields) (s : State), s.on → s.dev.canon → s.dev.sigReady t i 2 → f.a.toNat ≤ 31 →
    let c := s.dev.sg t i
    let row := (c.rx f.a).toNat
    let word := (c.rx f.a).toNat + 4 * f.x.toNat
    (f.b = 0 → c.inShadow = false → row % 128 = 0 → c.holds row 128 = true → s.dev.firstBad (dmemAt t i row) 128 = none → Runs (.sigVld t i f) s fun e =>
      (⟨c.at_ + 3, c.at_, 2, .v (c.phys f.d), (List.range 32).map fun j => leAt (s.dev.bytes (dmemAt t i row) 128) (4 * j) 4⟩ : SigFlight) ∈ (e.sg t i).flight ∧
      (⟨c.at_, c.at_, 2, .x false f.a.toNat, [(row + f.x.toNat * 128) % 2 ^ 32]⟩ : SigFlight) ∈ (e.sg t i).flight ∧
      (e.sg t i).v = c.v ∧ e.mem = s.dev.mem ∧ e.now = s.dev.now) ∧
    (f.b = 0 → c.inShadow = false → (row % 128 ≠ 0 ∨ c.holds row 128 = false) → Runs (.sigVld t i f) s (· = s.dev.sigFail t i 2 3 0)) ∧
    (f.d = 0 → c.inShadow = false → row % 128 = 0 → c.holds row 128 = true → (c.rv f.b).length = 32 → Runs (.sigVst t i f) s fun e =>
      (∀ n, n < 128 → e.byte (dmemAt t i row + n) = ((c.rv f.b).flatMap fun x => leBytes 4 x.toNat).getD n 0#8) ∧
      (∀ a, a < dmemAt t i row ∨ dmemAt t i row + 128 ≤ a → e.byte a = s.dev.byte a) ∧ (e.sg t i).v = c.v ∧ e.now = s.dev.now) ∧
    (f.b = 0 → f.d.toNat ≤ 31 → word % 4 = 0 → c.holds word 4 = true → s.dev.firstBad (dmemAt t i word) 4 = none →
      Runs (.sld t i f) s (s.dev.sigSent t i 2 3 (.x c.inShadow f.d.toNat) [leAt (s.dev.bytes (dmemAt t i word) 4) 0 4])) ∧
    (f.d = 0 → f.b.toNat ≤ 31 → word % 4 = 0 → c.holds word 4 = true → Runs (.sst t i f) s fun e =>
      (∀ n, n < 4 → e.byte (dmemAt t i word + n) = (leBytes 4 (c.rx f.b).toNat).getD n 0#8) ∧
      (∀ a, a < dmemAt t i word ∨ dmemAt t i word + 4 ≤ a → e.byte a = s.dev.byte a) ∧ (e.sg t i).flight = c.flight ∧ e.now = s.dev.now) ∧
    (f.d = 0 → f.b = 0 → f.x = 0 → row % 4 = 0 → c.holds row 32 = true → c.xferQ.length < 16 → s.dev.firstBad (dmemAt t i row) 32 = none →
      s.dev.xferCheck t i c (dmaDesc (s.dev.bytes (dmemAt t i row) 32)) = none → Runs (.xfer t i f) s fun e =>
      (e.sg t i).xferQ = c.xferQ ++ [⟨0, dmaDesc (s.dev.bytes (dmemAt t i row) 32), 0⟩] ∧ e.mem = s.dev.mem ∧ e.now = s.dev.now)) ∧
  (∀ (t : Tile) (i : SigIx) (j : DmaJob) (q : List DmaJob) (s : State), s.on → s.dev.canon → (s.dev.sg t i).xferQ = j :: q →
    (s.dev.sg t i).xferRun = none → s.dev.paused t = false → Runs (.sigXferBegin t i) s fun e =>
      (e.sg t i).xferQ = q ∧ e.mem = s.dev.mem ∧ ∃ n, (e.sg t i).xferRun = some { j with done := n } ∧ n = (s.dev.tile t).lk +
        (s.dev.xferPath t i j.desc).2 + ceilDiv (j.desc.rows * j.desc.rowLines * 64) (max (s.dev.xferPath t i j.desc).1 1)) ∧
  (∀ (t : Tile) (i : SigIx) (j : DmaJob) (s : State), s.on → s.dev.canon → (s.dev.sg t i).xferRun = some j → s.dev.paused t = false →
    j.desc.sig = false → j.desc.irq = false →
    let d := (s.dev.advance (j.done - (s.dev.tile t).lk)).sigSync t i
    let at_ := fun (sp a st n : Nat) => d.xferAt t i j.desc sp (a + if sp = 3 then n * st * 64 else n * st)
    d.dmaBad (at_ j.desc.src j.desc.srcAddr j.desc.srcStride) j.desc.rows j.desc.rowLines = none → Runs (.sigXferComplete t i) s fun e =>
      e.mem = (d.copyRows (at_ j.desc.src j.desc.srcAddr j.desc.srcStride) (at_ j.desc.dst j.desc.dstAddr j.desc.dstStride)
        j.desc.rows j.desc.rowLines).mem ∧ (e.sg t i).xferRun = none ∧ e.now = d.now)

/-- Opcodes 0x02 to 0x0A and 0x16 of the SB slot (R276, R278, R282). -/
def Obligations.SignalScalarSlotComputesWrapping : Prop :=
  ∀ (t : Tile) (i : SigIx) (f : SFields) (s : State), s.on → s.dev.canon → s.dev.sigReady t i 3 → f.d.toNat ≤ 31 →
    let d := s.dev.sigOpen t i
    let c := d.sg t i
    let x := c.rx f.a
    let y := c.rx f.b
    let sends := fun (v : BitVec 32) => d.sigSent t i 3 1 (.x c.inShadow f.d.toNat) [v.toNat]
    let two := f.x = 0 ∧ f.a.toNat ≤ 31 ∧ f.b.toNat ≤ 31
    (two → Runs (.sadd t i f) s (sends (x + y))) ∧
    (two → Runs (.ssub t i f) s (sends (x - y))) ∧
    (two → Runs (.sand t i f) s (sends (x &&& y))) ∧
    (two → Runs (.sor t i f) s (sends (x ||| y))) ∧
    (two → Runs (.sxor t i f) s (sends (x ^^^ y))) ∧
    (f.b = 0 → f.a.toNat ≤ 31 → Runs (.sigSaddi t i f) s (sends (x + f.x.signExtend 32))) ∧
    (f.a.getLsbD 5 = false → Runs (.sigSli t i f) s (sends (BitVec.ofNat 32 (f.a.toNat * 2 ^ 14 + f.b.toNat * 2 ^ 8 + f.x.toNat)))) ∧
    (f.a.getLsbD 5 = true → Runs (.sigSli t i f) s (sends (BitVec.ofNat 32 ((f.a.toNat * 2 ^ 14 + f.b.toNat * 2 ^ 8 + f.x.toNat) % 2 ^ 16 * 2 ^ 16 +
      (c.rx f.d).toNat % 2 ^ 16)))) ∧
    (two → y.toNat < 32 → Runs (.sshl t i f) s (sends (BitVec.ofNat 32 (x.toNat * 2 ^ y.toNat)))) ∧
    (two → y.toNat < 32 → (x.toNat < 2 ^ 31 ∨ y.toNat = 0) → Runs (.sshr t i f) s (sends (BitVec.ofNat 32 (x.toNat / 2 ^ y.toNat)))) ∧
    (two → 32 ≤ y.toNat → Runs (.sshl t i f) s fun e => ∃ v : BitVec 32, sends v e) ∧
    (two → (32 ≤ y.toNat ∨ (2 ^ 31 ≤ x.toNat ∧ y.toNat ≠ 0)) → Runs (.sshr t i f) s fun e => ∃ v : BitVec 32, sends v e) ∧
    (f.d = 0 → f.b = 0 → f.x = 0 → f.a.toNat ≤ 31 → Runs (.irqen t i f) s (d.sigSent t i 3 1 .mask [x.toNat % 8]))

/-- The rest of the SB slot (R277, R279, R284 to R287). -/
def Obligations.SignalControlFlowAndCounters : Prop :=
  ∀ (t : Tile) (i : SigIx) (f : SFields) (s : State), s.on → s.dev.canon → s.dev.sigReady t i 3 →
    let d := s.dev.sigOpen t i
    let c := d.sg t i
    let x := c.rx f.a
    let n := x.toNat % 1024
    let acts := fun (a : SigAct) (e : Dev) => (e.sg t i).act = a ∧ (e.sg t i).slots = [3] ∧ (e.sg t i).flight = c.flight ∧ e.mem = s.dev.mem ∧ e.now = d.now
    let cond := f.d.toNat = 0 ∨ (f.d.toNat = 1 ∧ x = 0) ∨ (f.d.toNat = 2 ∧ x ≠ 0) ∨ (f.d.toNat = 3 ∧ x.getLsbD 31 = true)
    let target := f.b.toNat * 256 + f.x.toNat
    let ctr := f.d = 0 ∧ f.x = 0 ∧ f.a.toNat ≤ 31 ∧ f.b.toNat ≤ 31
    let one := f.d = 0 ∧ f.b = 0 ∧ f.x = 0 ∧ f.a.toNat ≤ 31
    (f.d.toNat ≤ 3 → f.a.toNat ≤ 31 → c.bank.loops = [] → target ≤ 4095 →
      (cond → Runs (.br t i f) s (acts (.branch target))) ∧ (¬ cond → Runs (.br t i f) s (acts .none))) ∧
    (f.d.toNat ≤ 3 → f.a.toNat ≤ 31 → 4095 < target → Runs (.br t i f) s (· = d.sigFail t i 3 6 0)) ∧
    (f.d = 0 → f.b.toNat < 4 → f.a.toNat ≤ 31 → c.bank.loops = [] → Runs (.sigLoop t i f) s (acts (if x.toNat = 0 then .skip (f.x.toNat + 1) else
      .loop ⟨c.pc + 1, c.pc + 1 + f.x.toNat, x.toNat, match f.b.toNat with | 0 => 0 | 1 => 1 | 2 => 2 | _ => 4⟩))) ∧
    (f.d = 0 → f.b.toNat < 4 → f.a.toNat ≤ 31 → 2 ≤ c.bank.loops.length → Runs (.sigLoop t i f) s (· = d.sigFail t i 3 5 0)) ∧
    (ctr → d.ctrAllowed t (sigCtx i) n = true → Runs (.sigSignal t i f) s fun e => e.ctrs.sigs.length = s.dev.ctrs.sigs.length + 1 ∧ e.mem = s.dev.mem ∧
      (n < 1008 → ∃ y, e.ctrs.sigs = s.dev.ctrs.sigs ++ [y] ∧ y.tile = t.val ∧ y.ctr = n ∧ y.amount = (c.rx f.b).toNat ∧ y.unit = sigUnit t i)) ∧
    (ctr → d.ctrAllowed t (sigCtx i) n = false → Runs (.sigSignal t i f) s (· = d.sigFail t i 3 4 0)) ∧
    (ctr → d.waitAllowed t (sigCtx i) n = true → Runs (.sigTake t i f) s fun e => (e.sg t i).waiting = true ∧ e.mem = s.dev.mem ∧
      ∃ w, e.ctrs.waits = s.dev.ctrs.waits ++ [w] ∧ w.tile = t.val ∧ w.ctr = n ∧ w.amount = (c.rx f.b).toNat ∧ w.take = true ∧ w.unit = sigUnit t i) ∧
    (ctr → d.waitAllowed t (sigCtx i) n = true → Runs (.sigWatch t i f) s fun e => (e.sg t i).waiting = true ∧ e.mem = s.dev.mem ∧
      ∃ w, e.ctrs.waits = s.dev.ctrs.waits ++ [w] ∧ w.tile = t.val ∧ w.ctr = n ∧ w.amount = (c.rx f.b).toNat ∧ w.take = false ∧ w.unit = sigUnit t i) ∧
    (one → Runs (.sigWaitat t i f) s fun e => c.start + x.toNat ≤ (e.tile t).lk ∧ d.now ≤ e.now ∧ e.mem = s.dev.mem ∧ (e.sg t i).slots = [3]) ∧
    (one → Runs (.settmr t i f) s fun e => (e.sg t i).timer = some x.toNat ∧ (e.sg t i).flight = c.flight ∧ e.mem = s.dev.mem) ∧
    (ctr → d.waitAllowed t (sigCtx i) n = true → Runs (.armw t i f) s fun e => (e.sg t i).armed = some (n, (c.rx f.b).toNat) ∧
      (e.sg t i).flight = c.flight ∧ e.mem = s.dev.mem) ∧
    (f = ⟨0, 0, 0, 0⟩ → Runs (.sigEnd t i f) s (acts .end_) ∧ Runs (.reti t i f) s (acts .reti) ∧ Runs (.sigNop t i .sb f) s (acts .none)) ∧
    (f = ⟨0, 0, 0, 0⟩ →
      let p := d.getF (Reg.SIG_STATUS t i) F.SIG_STATUS_PENDING
      ((c.inShadow = true ∨ c.back = true ∨ sigSource p c.mask = none) → Runs (.intpt t i f) s (acts .none)) ∧
      (∀ k, c.inShadow = false → c.back = false → sigSource p c.mask = some k → Runs (.intpt t i f) s fun e =>
        (e.sg t i).inShadow = true ∧ (e.sg t i).pc = 16 * k ∧ (e.sg t i).resume = c.pc ∧ (e.sg t i).nextAt = c.at_ + 4 ∧ (e.sg t i).flight = c.flight ∧
        e.getF (Reg.SIG_STATUS t i) F.SIG_STATUS_PENDING = p - 2 ^ k ∧ e.mem = s.dev.mem))

/-- Signal-core loaves and interrupt sources (R42, R276, R278, R286, R289). -/
def Obligations.SignalLoavesStartLandAndComplete : Prop :=
  ∀ (t : Tile) (i : SigIx) (s : State), s.on → s.dev.canon → s.dev.paused t = false →
    let c := s.dev.sg t i
    (∀ rec, c.busy = false → (leAt rec 4 1 = 1 ∨ leAt rec 4 1 = 2) →
      let room := s.dev.spaceFor t (sigUnit13 i) (leAt rec 4 1)
      (leAt rec 8 4 ≤ room → leAt rec 8 4 ≠ 0 → leAt rec 6 2 ≤ 4095 → Runs (.sigLoafStart t i rec) s fun e =>
        e.sg t i = { SigCoreState.init with
          busy := true, id := leAt rec 0 4, kind := leAt rec 4 1, length := leAt rec 8 4, lo := leAt rec 12 2, hi := leAt rec 14 2,
          start := (s.dev.tile t).lk, pc := leAt rec 6 2, nextAt := (s.dev.tile t).lk } ∧ e.mem = s.dev.mem ∧ e.ev = s.dev.ev) ∧
      ((room < leAt rec 8 4 ∨ leAt rec 8 4 = 0) → Runs (.sigLoafStart t i rec) s
        (· = s.dev.raise 0x1005 0 (stewardOf t) (leAt rec 0 4) (leAt rec 8 4 + room * 2 ^ 32)))) ∧
    (∀ f q, c.flight = f :: q → c.slots = [] → Runs (.sigResultLand t i) s fun e => f.land + 1 ≤ (e.tile t).lk ∧
      (e.sg t i) = c.settleTo (f.land + 1) ∧ e.mem = s.dev.mem ∧ e.ctrs = s.dev.ctrs) ∧
    (∀ x, c.timer = some x → Runs (.sigTimerFire t i) s fun e => (e.sg t i).timer = none ∧ c.start + x ≤ (e.tile t).lk ∧
      e.getF (Reg.SIG_STATUS t i) F.SIG_STATUS_PENDING % 2 = 1 ∧ e.mem = s.dev.mem) ∧
    (∀ n v, c.armed = some (n, v) →
      (s.dev.ctrState t n = 1 → v ≤ s.dev.ctrValue t n → Runs (.sigCounterFire t i) s fun e => (e.sg t i).armed = none ∧
        e.getF (Reg.SIG_STATUS t i) F.SIG_STATUS_PENDING / 2 % 2 = 1 ∧ e.mem = s.dev.mem ∧ e.ctrs = s.dev.ctrs) ∧
      ((s.dev.ctrState t n ≠ 1 ∨ s.dev.ctrValue t n < v) → Runs (.sigCounterFire t i) s (· = s.dev))) ∧
    (c.busy = true → c.ended = true → c.xferQ = [] → c.xferRun = none → Runs (.sigLoafComplete t i) s fun e => e.sg t i = SigCoreState.init ∧
      (e.tile t).done = (s.dev.tile t).done ++ [⟨BitVec.ofNat 13 (sigUnit13 i), c.id, 0, 0xFFFF, 0, 0⟩] ∧ e.mem = s.dev.mem ∧
      (s.dev.getF (Reg.SIG_LOAF_COUNT t i) F.SIG_LOAF_COUNT_COUNT < 2 ^ 48 - 1 →
        e.getF (Reg.SIG_LOAF_COUNT t i) F.SIG_LOAF_COUNT_COUNT = s.dev.getF (Reg.SIG_LOAF_COUNT t i) F.SIG_LOAF_COUNT_COUNT + 1))

/-- The codec engines (R294, R295, R297, R300, R302, R308). -/
def Obligations.CodecLoavesRunTheirLists : Prop :=
  (∀ (t : Tile) (e : Engine) (rec : Bytes) (s : State), s.on → s.dev.canon → s.dev.paused t = false → (s.dev.codecSt t e).busy = false →
    (leAt rec 4 1 = 1 ∨ leAt rec 4 1 = 2) →
    let len := leAt rec 8 4
    let room := s.dev.spaceFor t (engine13 e) (leAt rec 4 1)
    let base := pantryAt t ((s.dev.pantryRegion 0 t).1 + 64 * leAt rec 12 4)
    let n := leAt (s.dev.bytes base 64) 0 2
    let js := codecTimes n 0 ((List.range n).map fun i => codecJob (s.dev.bytes (base + 64 + 64 * i) 64))
    ((room < len ∨ len = 0) → Runs (.codecLoafStart t e rec) s (· = s.dev.raise 0x1005 0 (stewardOf t) (leAt rec 0 4) (len + room * 2 ^ 32))) ∧
    (len ≤ room → len ≠ 0 → s.dev.firstBad base (64 + 64 * n) = none → n ≤ 1024 → leAt (s.dev.bytes base 64) 2 62 = 0 →
      (∀ j, s.dev.codecListCheck t e false 0 js = none → js.getLast? = some j → j.b + j.o + 32 ≤ len → Runs (.codecLoafStart t e rec) s fun d =>
        d.codecSt t e = { CodecState.init with busy := true, id := leAt rec 0 4, start := (s.dev.tile t).lk, jobs := js } ∧
        d.mem = s.dev.mem ∧ d.ev = s.dev.ev) ∧
      (∀ i r, s.dev.codecListCheck t e false 0 js = some (i, r) → Runs (.codecLoafStart t e rec) s fun d => d.codecSt t e = CodecState.init ∧
        d.mem = s.dev.mem ∧ ∃ op, d.ev = (s.dev.raise 0x7001 0 (engineUnit t e) (leAt rec 0 4) (r + i * 2 ^ 8 + op * 2 ^ 24)).ev))) ∧
  (∀ (t : Tile) (e : Engine) (j : CodecJob) (s : State), s.on → s.dev.canon → s.dev.paused t = false → (s.dev.codecSt t e).busy = true →
    let c := s.dev.codecSt t e
    (c.jobs[c.begun]? = some j →
      let begins := fun (d : Dev) => (d.codecSt t e) = { c with begun := c.begun + 1 } ∧ c.start + j.b ≤ (d.tile t).lk ∧ d.mem = s.dev.mem ∧ d.ev = s.dev.ev
      (j.op = 1 → Runs (.ldpcDecode t e) s begins) ∧ (j.op = 2 → Runs (.ldpcEncode t e) s begins) ∧ (j.op = 3 → Runs (.polarEncode t e) s begins) ∧
      (j.op = 4 → Runs (.polarDecode t e) s begins) ∧ (j.op = 5 → Runs (.prachDetect t e) s begins)) ∧
    (c.jobs[c.done]? = some j → c.done < c.begun →
      let out := ((s.dev.advance (c.start + j.b + j.o + 32 - (s.dev.tile t).lk)).codecOutput t e j).1
      Runs (.codecDescComplete t e) s fun d => c.start + j.b + j.o + 32 ≤ (d.tile t).lk ∧
        (∀ a, (a < j.dst ∨ j.dst + out.length ≤ a) → (a < j.status ∨ j.status + 16 ≤ a) → d.byte a = s.dev.byte a) ∧
        (∀ n, n < out.length → (j.dst + n < j.status ∨ j.status + 16 ≤ j.dst + n) → d.byte (j.dst + n) = out.getD n 0#8) ∧
        (∀ n, n < 2 → d.byte (j.status + n) = (leBytes 2 (j.f 0 48 16)).getD n 0#8) ∧
        (c.done + 1 < c.jobs.length → (d.codecSt t e).done = c.done + 1 ∧ (d.codecSt t e).jobs = c.jobs) ∧
        (c.done + 1 = c.jobs.length → d.codecSt t e = CodecState.init ∧
          (d.tile t).done = (s.dev.tile t).done ++ [⟨BitVec.ofNat 13 (engine13 e), c.id, 0, 0xFFFF, 0, 0⟩])) ∧
    (c.jobs[c.done]? = some j → j.op = 1 → c.done + 1 = c.begun → c.counted ≤ c.done →
      let it := (ldpcRun j (s.dev.codecInput j.src j.srcBytes).1).2
      it < j.iterMax → Runs (.ldpcEarlyTermination t e) s fun d => d.codecSt t e = { c with counted := c.done + 1 } ∧ d.mem = s.dev.mem ∧
        c.start + j.b + 16 + it * j.tIter ≤ (d.tile t).lk ∧ d.getF (Reg.CODEC_STATUS t e) F.CODEC_STATUS_STATE = 2 ∧
        d.reg (Reg.CODEC_ITER_SKIPPED t e) = (s.dev.count (Reg.CODEC_ITER_SKIPPED t e) F.CODEC_ITER_SKIPPED_COUNT (j.iterMax - it)).reg (Reg.CODEC_ITER_SKIPPED t e)) ∧
    Runs (.codecInternalFault t e) s fun d => d.codecSt t e = CodecState.init ∧ d.mem = s.dev.mem ∧
      d.ev = (s.dev.raise 0x7002 0 (engineUnit t e) c.id c.done).ev ∧
      (d.tile t).done = (s.dev.tile t).done ++ [⟨BitVec.ofNat 13 (engine13 e), c.id, 0, 0xFFFF, 2, 4⟩])

/-- Reads and steps of the clock, pulses and captures (R311, R312, R313, R325, R328, R329). -/
def Obligations.ClockReadsStepsPulsesAndCaptures : Prop :=
  (
    ∀ (m : Master) (s : State), s.admits m → devMaster m = true → s.dev.canon → Runs (.timeNowSecRead m) s fun e =>
      e.readOut = BitVec.ofNat 64 (s.dev.now / 5 / 1000000000 % 2 ^ 48) ∧
      e.getF Reg.TIME_NOW_NS F.TIME_NOW_NS_NS = s.dev.now / 5 % 1000000000 ∧
      (∃ f, f < 5 ∧ f = s.dev.now % 5 ∧ e.getF Reg.TIME_NOW_NS F.TIME_NOW_NS_FRAC = [0, 13107, 26214, 39321, 52428].getD f 0) ∧
      s.dev.sameRegs e (· = Reg.TIME_NOW_NS) ∧ e.mem = s.dev.mem ∧ e.ev = s.dev.ev ∧ e.now = s.dev.now) ∧
  (
    (∀ (v : Word) (s : State), s.admits hostDriver → fieldOf F.TIME_CMD_STEP v = 1 →
      (s.dev.active = false → Runs (.timeStepCmd hostDriver v) s (· = { s.dev with
        now := (s.dev.getF Reg.TIME_SET_SEC F.TIME_SET_SEC_SEC * 1000000000 + s.dev.getF Reg.TIME_SET_NS F.TIME_SET_NS_NS) * 5 / 4 * 4 })) ∧
      (s.dev.active = true → Runs (.timeStepCmd hostDriver v) s fun e => e.regs = s.dev.regs ∧ e.mem = s.dev.mem ∧ e.now = s.dev.now ∧
        e.time = s.dev.time ∧ s.dev.raised e fun r => r.code = 0x8005 ∧ r.object = 1#32)) ∧
    (∀ (m : Master) (k : Fin 4) (v : Word) (s : State), s.admits m → devMaster m = true →
      let d := s.dev.rwWrite (Reg.TIME_PULSE_CTRL k) v
      let start := (d.getF (Reg.TIME_PULSE_START_SEC k) F.TIME_PULSE_START_SEC_SEC * 1000000000 + d.getF (Reg.TIME_PULSE_START_NS k) F.TIME_PULSE_START_NS_NS) * 5
      let per := d.getF (Reg.TIME_PULSE_SHAPE k) F.TIME_PULSE_SHAPE_PERIOD * 5
      let put := fun x : PulseState => { s.dev.time with pulses := store PulseState.init s.dev.time.pulses k x }
      let wide := d.getF (Reg.TIME_PULSE_SHAPE k) F.TIME_PULSE_SHAPE_WIDTH * 5
      Runs (.pulseCtrlWrite m k v) s fun e => e.regs = d.regs ∧ e.mem = s.dev.mem ∧ e.now = s.dev.now ∧
        (d.getB (Reg.TIME_PULSE_CTRL k) F.TIME_PULSE_CTRL_EN = true →
          (s.dev.now + 5000 < start → e.time = put ⟨some start, false, per, wide, false⟩ ∧ e.ev = s.dev.ev) ∧
          (start ≤ s.dev.now + 5000 → per = 0 → e.time = put PulseState.init ∧
            s.dev.raised e fun r => r.code = 0x8007 ∧ r.object = BitVec.ofNat 32 k) ∧
          (start ≤ s.dev.now + 5000 → per ≠ 0 → ∃ j u, u = start + j * per ∧ s.dev.now + 5000 < u ∧ u ≤ s.dev.now + 5000 + per ∧
            e.time = put ⟨some u, false, per, wide, false⟩ ∧ e.ev = s.dev.ev)) ∧
        (d.getB (Reg.TIME_PULSE_CTRL k) F.TIME_PULSE_CTRL_EN = false → e.time = put
          (if (s.dev.pulseSt k).high = true then { s.dev.pulseSt k with ending := true } else PulseState.init) ∧ e.ev = s.dev.ev)) ∧
    (∀ (k : Fin 4) (u : Nat) (s : State), s.on → s.dev.now ≤ u → u < s.dev.now + 4 → (s.dev.pulseSt k).next = some u →
      let x := s.dev.pulseSt k
      let put := fun x : PulseState => { s.dev.time with pulses := store PulseState.init s.dev.time.pulses k x }
      Runs (.pulseEdge k) s fun e => e.regs = s.dev.regs ∧ e.mem = s.dev.mem ∧ e.now = s.dev.now ∧ e.ev = s.dev.ev ∧
        e.sent = s.dev.sent ++ [.pulse k (xor (!x.high) (s.dev.getB (Reg.TIME_PULSE_CTRL k) F.TIME_PULSE_CTRL_POL)) u] ∧
        e.time = put
          (if x.high = false then { x with next := some (u + x.width), high := true }
           else if x.period = 0 ∨ x.ending = true then PulseState.init
           else { x with next := some (u - x.width + x.period), high := false })) ∧
    (∀ (k : Fin 4) (rising : Bool) (sub : Fin 16) (s : State), s.on → s.dev.canon →
      s.dev.getB (Reg.TIME_CAPT_CTRL k) F.TIME_CAPT_CTRL_EN = true →
      s.dev.getF (Reg.TIME_CAPT_CTRL k) F.TIME_CAPT_CTRL_EDGE / (if rising then 1 else 2) % 2 = 1 →
      let x := s.dev.captSt k
      let at_ := s.dev.now * 4 + sub
      let near := ∃ u, x.last = some u ∧ at_ < u + 80
      (¬ near → x.fifo.length < 16 → Runs (.captureEdge k rising sub) s fun e =>
        e.time = { s.dev.time with capts := store CaptState.init s.dev.time.capts k { x with fifo := x.fifo ++ [at_], last := some at_ } } ∧
        e.getF (Reg.TIME_CAPT_CTRL k) F.TIME_CAPT_CTRL_LEVEL = x.fifo.length + 1 ∧
        s.dev.sameRegs e (· = Reg.TIME_CAPT_CTRL k) ∧ e.mem = s.dev.mem ∧ e.ev = s.dev.ev) ∧
      (near ∨ 16 ≤ x.fifo.length → Runs (.captureEdge k rising sub) s fun e =>
        e.reg (Reg.TIME_CAPT_DISCARD k) = (s.dev.count (Reg.TIME_CAPT_DISCARD k) F.TIME_CAPT_DISCARD_COUNT 1).reg (Reg.TIME_CAPT_DISCARD k) ∧
        e.time = { s.dev.time with capts := if x.told = true then s.dev.time.capts else store CaptState.init s.dev.time.capts k { x with told := true } } ∧
        (x.told = true → e.ev = s.dev.ev) ∧ (x.told = false → s.dev.raised e fun r => r.code = 0x8008 ∧ r.object = BitVec.ofNat 32 k))) ∧
    (∀ (m : Master) (k : Fin 4) (s : State), s.admits m → devMaster m = true → s.dev.canon →
      ((s.dev.captSt k).fifo = [] → Runs (.capturePop m k) s (· = { s.dev with readOut := 0#64 })) ∧
      (∀ u r, (s.dev.captSt k).fifo = u :: r → Runs (.capturePop m k) s fun e =>
        e.readOut = BitVec.ofNat 64 (u / 20 / 1000000000 % 2 ^ 48 + 2 ^ 48) ∧
        e.getF (Reg.TIME_CAPT_NS k) F.TIME_CAPT_NS_NS = u / 20 % 1000000000 ∧ e.getF (Reg.TIME_CAPT_NS k) F.TIME_CAPT_NS_FRAC = u % 20 * 65536 / 20 ∧
        e.time = { s.dev.time with capts := store CaptState.init s.dev.time.capts k { s.dev.captSt k with fifo := r, told := false } } ∧
        s.dev.sameRegs e (fun a => a = Reg.TIME_CAPT_NS k ∨ a = Reg.TIME_CAPT_CTRL k) ∧ e.mem = s.dev.mem ∧ e.ev = s.dev.ev)))

/-- The time sources and the servo (R314 to R318, R322 to R324). -/
def Obligations.ClockFollowsItsSources : Prop :=
  (∀ (sub : Fin 16) (s : State), s.on →
    let sec := if s.dev.time.todSet = true then s.dev.getF Reg.TIME_TOD F.TIME_TOD_SEC else s.dev.time.ppsSec + 1
    Runs (.ppsInEdge sub) s (· = { s.dev with time := { s.dev.time with todSet := false, ppsSec := sec, pps := some ((s.dev.now * 200 + sub * 50 : Nat) - (sec : Int) * 1000000000000) } })) ∧
  (∀ (th : Int) (s : State), s.on → s.dev.canon → s.dev.time.pps = some th → s.dev.timeRole = 2 →
    let k := nearest (-th) 800
    let big := th.natAbs > s.dev.timeF 12 4 * 1000
    (big → s.dev.active = false → Runs (.servoUpdate .pps) s fun e => e.now = ((s.dev.now : Int) + k * 4).toNat / 4 * 4 ∧ e.time.integ = 0 ∧
      e.mem = s.dev.mem ∧ ∃ r ∈ e.ev.arisen, r.code = 0x8004) ∧
    (s.dev.active = true → Runs (.servoUpdate .pps) s fun e => e.now = s.dev.now ∧ e.mem = s.dev.mem) ∧
    (¬ big → s.dev.clock = 1 → s.dev.time.small = 15 → th.natAbs ≤ 100000 → Runs (.servoUpdate .pps) s fun e => e.clock = 2 ∧ e.now = s.dev.now ∧
      ∃ r ∈ e.ev.arisen, r.code = 0x8001 ∧ r.object = 2#32) ∧
    (¬ big → s.dev.clock = 2 → 1000000 < th.natAbs → Runs (.servoUpdate .pps) s fun e => e.clock = 1 ∧ e.now = s.dev.now ∧
      ∃ r ∈ e.ev.arisen, r.code = 0x8001 ∧ r.object = 1#32)) ∧
  (∀ (p : EthPort) (parent : Word) (cls : BitVec 8) (utc : BitVec 16) (t1 t2 t3 t4 : Nat) (s : State), s.on →
    s.dev.timeRole = 2 ∨ s.dev.ptpMode p ≠ 1 → Runs (.servoUpdate (.ptp p parent cls utc t1 t2 t3 t4)) s (· = s.dev)) ∧
  (∀ (ten : Bool) (s : State), s.on → s.dev.canon → Runs (.freqSourceEvaluation ten) s fun e => e.time = { s.dev.time with ten := ten } ∧ e.mem = s.dev.mem ∧
    e.getF Reg.TIME_STATUS F.TIME_STATUS_FREQ_SRC = (Dev.freqChoice { s.dev with time := { s.dev.time with ten := ten } }).1 % 4 ∧
    e.clock = s.dev.clock ∧ s.dev.sameRegs e (· = Reg.TIME_STATUS)) ∧
  (∀ (s : State), s.on → s.dev.canon →
    (∀ p : EthPort, s.dev.getF Reg.TIME_STATUS F.TIME_STATUS_PHASE_SRC = 1 → s.dev.getF Reg.TIME_STATUS F.TIME_STATUS_PTP_PORT = p.val →
      s.dev.clock = 1 ∨ s.dev.clock = 2 → Runs (.sourceLoss (.ptp p)) s fun e => e.clock = 3 ∧ e.getF Reg.TIME_STATUS F.TIME_STATUS_PHASE_SRC = 0 ∧
        e.now = s.dev.now ∧ e.mem = s.dev.mem ∧ ∃ r ∈ e.ev.arisen, r.code = 0x8006 ∧ r.object = 0#32) ∧
    (s.dev.getF Reg.TIME_STATUS F.TIME_STATUS_PHASE_SRC ≠ 2 → Runs (.sourceLoss .pps) s (· = s.dev)) ∧
    (s.dev.time.refLost = true → Runs (.sourceLoss .reference) s (· = s.dev)) ∧
    (s.dev.time.refLost = false → Runs (.sourceLoss .reference) s fun e => e.time.refLost = true)) ∧
  (∀ s : State, s.on → s.dev.canon →
    (s.dev.clock = 3 → Runs .holdoverExpiry s fun e => e.clock = 4 ∧ s.dev.time.holdSince + s.dev.timeF 16 4 * 5000000000 ≤ e.now ∧ e.mem = s.dev.mem) ∧
    (s.dev.clock ≠ 3 → Runs .holdoverExpiry s (· = s.dev)) ∧
    Runs .referenceClockReturn s (· = { s.dev with time := { s.dev.time with refLost := false } })) ∧
  (∀ (p : EthPort) (k : PtpKind) (s : State), s.on →
    let slave := s.dev.getF Reg.TIME_STATUS F.TIME_STATUS_PHASE_SRC = 1 ∧ s.dev.getF Reg.TIME_STATUS F.TIME_STATUS_PTP_PORT = p.val
    let may := s.dev.ptpMode p ≠ 0 ∧ (if k = .delayReq then slave else ¬ slave ∧ 1 ≤ s.dev.timeRole)
    (¬ may → Runs (.ptpMessageSend p k) s (· = s.dev)) ∧
    (may → ∃ body src n, Runs (.ptpMessageSend p k) s (· = (s.dev.fresh.2).ethEnqueue p src body (some n)) ∧ src = (if k = .announce then 3 else 2)))

/-- Links, ingress and egress of a fronthaul port (R337, R338, R341). -/
def Obligations.FronthaulPortsLinkReceiveAndSend : Prop :=
  (∀ (p : EthPort) (los : BitVec 8) (s : State), s.on → s.dev.canon →
    let m := los.toNat % 2 ^ s.dev.ethLanes p
    (s.dev.portOn (.eth p) = true → m ≠ 0 → s.dev.linkUp (.eth p) = true → Runs (.ethLinkDown p los) s fun e =>
      e.linkUp (.eth p) = false ∧ e.getF (Reg.ETH_PORT_STATUS p) F.ETH_PORT_STATUS_LOS = m % 256 ∧
      (s.dev.getF (Reg.ETH_LINK_DOWN_COUNT p) F.ETH_LINK_DOWN_COUNT_COUNT < 2 ^ 32 - 1 →
        e.getF (Reg.ETH_LINK_DOWN_COUNT p) F.ETH_LINK_DOWN_COUNT_COUNT = s.dev.getF (Reg.ETH_LINK_DOWN_COUNT p) F.ETH_LINK_DOWN_COUNT_COUNT + 1) ∧
      s.dev.sameRegs e (fun a => a = Reg.ETH_PORT_STATUS p ∨ a = Reg.ETH_LINK_DOWN_COUNT p) ∧ e.mem = s.dev.mem ∧ e.ports = s.dev.ports ∧
      ∃ r ∈ e.ev.arisen, r.code = 0x9001 ∧ r.object = BitVec.ofNat 32 p ∧ r.detail = BitVec.ofNat 64 (m * 2 ^ 8)) ∧
    (s.dev.portOn (.eth p) = false ∨ m = 0 → Runs (.ethLinkDown p los) s (· = s.dev))) ∧
  (∀ (p : EthPort) (deskew : BitVec 16) (s : State), s.on → s.dev.canon →
    (s.dev.portOn (.eth p) = true → s.dev.linkUp (.eth p) = false → s.dev.time.refLost = false → Runs (.ethLinkUp p deskew) s fun e =>
      e.linkUp (.eth p) = true ∧ e.getF (Reg.ETH_PORT_STATUS p) F.ETH_PORT_STATUS_LOS = 0 ∧
      e.getF (Reg.TIME_PORT p) F.TIME_PORT_DESKEW = (if s.dev.ethLanes p = 1 then 0 else deskew.toNat) ∧
      s.dev.sameRegs e (fun a => a = Reg.ETH_PORT_STATUS p ∨ a = Reg.TIME_PORT p) ∧ e.mem = s.dev.mem ∧
      s.dev.raised e fun r => r.code = 0x9001 ∧ r.object = BitVec.ofNat 32 p ∧ r.detail = 1#64) ∧
    (s.dev.portOn (.eth p) = false ∨ s.dev.linkUp (.eth p) = true ∨ s.dev.time.refLost = true → Runs (.ethLinkUp p deskew) s (· = s.dev))) ∧
  (∀ (p : EthPort) (f : Bytes) (fcsOk room : Bool) (s : State), s.on →
    let up := s.dev.portOn (.eth p) = true ∧ s.dev.linkUp (.eth p) = true
    let does := fun e => Runs (.ethFrameReceive p f fcsOk room) s (· = e)
    let count := fun r => s.dev.portCount (.eth p) r F.ETH_RX_FCS_COUNT 1
    let short := f.length < 64 ∨ s.dev.getF (Reg.ETH_PORT_CFG p) F.ETH_PORT_CFG_MTU < f.length
    let other := s.dev.tagsOk p (Config.etherTags f) = false ∨ frameClass f = 0 ∨ (s.dev.recipe.ahead = true ∧ frameClass f = 1)
    let good := (s.dev.portCount (.eth p) (Reg.ETH_RX_FRAMES p) F.ETH_RX_FRAMES_COUNT 1).portCount (.eth p) (Reg.ETH_RX_BYTES p) F.ETH_RX_BYTES_COUNT f.length
    (¬ up → does s.dev) ∧
    (up → fcsOk = false → does (count (Reg.ETH_RX_FCS p))) ∧
    (up → fcsOk = true → short → does (count (Reg.ETH_RX_LENGTH p))) ∧
    (up → fcsOk = true → ¬ short → other → does (count (Reg.ETH_RX_OTHER p))) ∧
    (up → fcsOk = true → ¬ short → ¬ other → room = false → does (count (Reg.ETH_RX_LANDING_DROP p))) ∧
    (up → fcsOk = true → ¬ short → ¬ other → room = true →
      (frameClass f = 1 → does (good.uplaneIn p f)) ∧ (frameClass f = 2 → does good) ∧
      (frameClass f = 3 → does { good with time := { good.time with esmc := store (0, false) good.time.esmc p (good.now + 1, Config.esmcDnu f) } }))) ∧
  (∀ (p : EthPort) (s : State), s.on → s.dev.canon →
    let d := s.dev.ethBoundary p
    let up := s.dev.portOn (.eth p) = true ∧ s.dev.linkUp (.eth p) = true
    (¬ up → Runs (.ethTxSelect p) s (· = s.dev)) ∧
    (up → (∀ q < 8, d.ethReady p q = false) → Runs (.ethTxSelect p) s fun e => e.sent = s.dev.sent ∧ e.mem = s.dev.mem ∧ e.now = d.now) ∧
    (∀ q i r, up → q < 8 → d.ethReady p q = true → (∀ q' < 8, q < q' → d.ethReady p q' = false) → ((d.port (.eth p)).queue q).items = i :: r →
      Runs (.ethTxSelect p) s fun e => e.mem = s.dev.mem ∧ e.now = d.now ∧
        e.sent = s.dev.sent ++ (.ethFrame p q (d.tagged p q i.body) :: i.ptp.toList.map fun k => .ptp p k (d.now * 200 + phyTx (d.getF (Reg.ETH_PORT_CFG p) F.ETH_PORT_CFG_RATE)))))

/-- Gate lists and sampling (R342 to R344, R347, R348). -/
def Obligations.GateListsTakeOverAndQueuesAreSampled : Prop :=
  (
    (∀ (m : Master) (g : GatePort) (s : State), s.admits m → s.dev.canon →
      let n := s.dev.getF (gpAdminN g) F.ETH_GATE_ADMIN_N_N
      let cyc := s.dev.getF (gpAdminTime g) F.ETH_GATE_ADMIN_TIME_CYCLE
      let base := (s.dev.getF (gpAdminSec g) F.ETH_GATE_ADMIN_BASE_SEC_SEC * 1000000000 + s.dev.getF (gpAdminTime g) F.ETH_GATE_ADMIN_TIME_BASE_NS) * 5
      let good := 1 ≤ n ∧ n ≤ 256 ∧ cyc % 4 = 0 ∧ 1000 ≤ cyc ∧ cyc ≤ 10 ^ 9
      (¬ good → Runs (.gateChangeCmd m g) s (· = s.dev.gateRefuse g 3 (gpGateCmd g) m)) ∧
      (good → gateMaster m = false → Runs (.gateChangeCmd m g) s (· = s.dev.gateRefuse g 4 (gpGateCmd g) m)) ∧
      (good → gateMaster m = true → ∃ u, (s.dev.now + 5000 ≤ base → u = base) ∧
        (base < s.dev.now + 5000 → ∃ k, u = base + k * (cyc * 5) ∧ s.dev.now + 5000 ≤ u ∧ u < s.dev.now + 5000 + cyc * 5) ∧
        Runs (.gateChangeCmd m g) s fun e => e.port g = { s.dev.port g with takeover := some u, nextBase := u, nextCycle := cyc * 5 } ∧
          e.getB (gpGateStatus g) F.ETH_GATE_STATUS_PENDING = true ∧ e.mem = s.dev.mem ∧ e.ev = s.dev.ev ∧ e.now = s.dev.now ∧
          s.dev.sameRegs e fun a => a = gpGateStatus g ∨ a = gpTakeSec g ∨ a = gpTakeNs g)) ∧
    (∀ (m : Master) (g : GatePort) (s : State), s.admits m → s.dev.canon →
      (gateMaster m = false → Runs (.gateCancelCmd m g) s (· = s.dev.gateRefuse g 4 (gpGateCmd g) m)) ∧
      (gateMaster m = true → (∀ u, (s.dev.port g).takeover = some u → u < s.dev.now + 4) → Runs (.gateCancelCmd m g) s (· = s.dev)) ∧
      (∀ u, gateMaster m = true → (s.dev.port g).takeover = some u → s.dev.now + 4 ≤ u → Runs (.gateCancelCmd m g) s fun e =>
        e.port g = { s.dev.port g with takeover := none } ∧ e.getB (gpGateStatus g) F.ETH_GATE_STATUS_PENDING = false ∧
        s.dev.sameRegs e (· = gpGateStatus g) ∧ e.mem = s.dev.mem ∧ e.ev = s.dev.ev)) ∧
    (∀ (m : Master) (g : GatePort) (w : GateReg) (v : Word) (s : State), s.admits m →
      let oper := ∃ b e, w = .entry b e ∧ b.val = s.dev.getF (gpGateStatus g) F.ETH_GATE_STATUS_OPER_BANK
      let pend := s.dev.getB (gpGateStatus g) F.ETH_GATE_STATUS_PENDING = true
      let does := fun e => Runs (.gateAdminWrite m g w v) s (· = e)
      (oper → does (s.dev.gateRefuse g 2 (gateRegOf g w) m)) ∧ (¬ oper → pend → does (s.dev.gateRefuse g 1 (gateRegOf g w) m)) ∧
      (¬ oper → ¬ pend → gateMaster m = false → does (s.dev.gateRefuse g 4 (gateRegOf g w) m)) ∧
      (¬ oper → ¬ pend → gateMaster m = true → does (s.dev.rwWrite (gateRegOf g w) v))) ∧
    (∀ (g : GatePort) (reason r : Nat) (m : Master) (d : Dev), (d.gateRefuse g reason r m).regs = d.regs ∧ (d.gateRefuse g reason r m).ports = d.ports ∧
      d.raised (d.gateRefuse g reason r m) fun x => x.code = (match g with | .eth _ => 0x9003 | .braid _ => 0xA009) ∧ x.detail.toNat % 256 = reason % 256) ∧
    (∀ (g : GatePort) (s : State), s.on → s.dev.canon →
      ((s.dev.port g).takeover = none → Runs (.gateTakeover g) s (· = s.dev)) ∧
      (∀ u, (s.dev.port g).takeover = some u → Runs (.gateTakeover g) s fun e => u ≤ e.now ∧ (e.port g).takeover = none ∧
        (e.port g).base = (s.dev.port g).nextBase ∧ (e.port g).cycle = (s.dev.port g).nextCycle ∧
        e.getF (gpGateStatus g) F.ETH_GATE_STATUS_OPER_BANK = 1 - s.dev.getF (gpGateStatus g) F.ETH_GATE_STATUS_OPER_BANK ∧
        e.getB (gpGateStatus g) F.ETH_GATE_STATUS_PENDING = false ∧
        e.getF (gpGateStatus g) F.ETH_GATE_STATUS_OPER_N = s.dev.getF (gpAdminN g) F.ETH_GATE_ADMIN_N_N ∧ e.mem = s.dev.mem ∧
        s.dev.raised e fun x => x.code = (match g with | .eth _ => 0x9002 | .braid _ => 0xA008) ∧ x.object = BitVec.ofNat 32 (gpIndex g))) ∧
    (∀ (g : GatePort) (s : State), s.on →
      (s.dev.nextInterval g = none → Runs (.gateIntervalChange g) s (· = s.dev)) ∧
      (∀ u, s.dev.nextInterval g = some u → s.dev.now < u ∧ Runs (.gateIntervalChange g) s fun e => u ≤ e.now ∧ e.mem = s.dev.mem ∧ e.ev = s.dev.ev ∧ e.sent = s.dev.sent))) ∧
  (
    (∀ s : State, s.on → s.dev.canon → s.dev.now % 4 = 0 → Runs .queueSample s fun e => e.now % 5000 = 0 ∧ s.dev.now ≤ e.now ∧ e.now < s.dev.now + 10000 ∧
      e.sampled = e.now + 1 ∧ e.sampled ≠ s.dev.sampled ∧ e.mem = s.dev.mem ∧ e.sent = s.dev.sent ∧
      ∀ g : GatePort, s.dev.portOn g = false → e.port g = s.dev.port g) ∧
    (∀ (g : GatePort) (q : Nat) (d : Dev), d.canon →
      let x := d.port g
      let y := x.queue q
      let kd := 16 * q + (if y.items = [] then 0 else binOf 64 y.depth)
      let kw := 16 * q + (match y.items with | [] => 0 | i :: _ => binOf 10 ((d.now - i.since) / 5))
      (Dev.sampleQueue g d q).port g = { x with depthBins := store 0 x.depthBins kd (binAdd (look 0 x.depthBins kd)), delayBins := store 0 x.delayBins kw (binAdd (look 0 x.delayBins kw)) }) ∧
    (∀ base v : Nat, 1 ≤ base → 1 ≤ binOf base v ∧ binOf base v ≤ 15 ∧ (binOf base v ≤ 14 → v < base * 2 ^ binOf base v) ∧
      (2 ≤ binOf base v → base * 2 ^ (binOf base v - 1) ≤ v)) ∧
    (∀ (m : Master) (g : GatePort) (s : State), s.admits m → devMaster m = true → s.dev.canon → Runs (.histSnap m g) s fun e =>
      (e.port g).depthBins = [] ∧ (e.port g).delayBins = [] ∧ (∀ g' : GatePort, gpKey g' ≠ gpKey g → e.port g' = s.dev.port g') ∧
      (∀ q < 8, ∀ k < 16, e.reg (gpDepth g q k) = BitVec.ofNat 64 (look 0 (s.dev.port g).depthBins (16 * q + k)) ∧
        e.reg (gpDelay g q k) = BitVec.ofNat 64 (look 0 (s.dev.port g).delayBins (16 * q + k))) ∧
      s.dev.sameRegs e (fun a => ∃ q < 8, ∃ k < 16, a = gpDepth g q k ∨ a = gpDelay g q k) ∧ e.mem = s.dev.mem ∧ e.ev = s.dev.ev))

/-- The issue of Braid operations (R352, R363, R365, R367, R372, R378). -/
def Obligations.BraidOperationsIssueOrWait : Prop :=
  (∀ (i : BitVec 16) (a : BraidAsk) (s : State), s.on → s.dev.canon → s.dev.asks.find? (fun x => x.issuer == i) = some a → s.dev.askStatus a = none →
    s.dev.mustWait a = false → s.dev.inflight + 1 < 4096 →
    let n := s.dev.askAlias a % 4096
    let x := s.dev.pair n
    let sent := fun (seq gen next : Nat) (e : Dev) =>
      ∃ o : BraidOp, e.braid.ops = s.dev.braid.ops ++ [o] ∧ o.issuer = i ∧ o.kind = a.kind ∧ o.node = n ∧ o.seq = seq ∧ o.gen = gen ∧ o.data = a.data ∧
        e.pair n = { x with next := next, credits := x.credits - 1 } ∧ (∃ demand, e.braid.outbox = s.dev.braid.outbox ++ [s.dev.opPacket o demand]) ∧
        e.asks = dropAsk i s.dev.asks ∧ e.mem = s.dev.mem ∧ e.now = s.dev.now ∧ e.ctrs = s.dev.ctrs ∧ e.ev = s.dev.ev
    (a.kind = .read → Runs (.braidReadIssue i) s (sent s.dev.freeTag (look 0 s.dev.braid.gens s.dev.freeTag) x.next)) ∧
    (a.kind = .write ∨ a.kind = .flag → Runs (.braidWriteIssue i) s (sent x.next 0 ((x.next + 1) % 2 ^ 32)))) ∧
  (∀ (i : BitVec 16) (a : BraidAsk) (st : Nat) (s : State), s.on → s.dev.asks.find? (fun x => x.issuer == i) = some a → s.dev.askStatus a = some st →
    (a.kind = .read → Runs (.braidReadIssue i) s fun e => e.braid.outbox = s.dev.braid.outbox ∧ e.braid.ops = s.dev.braid.ops ∧ e.braid.pairs = s.dev.braid.pairs) ∧
    (a.kind = .write ∨ a.kind = .flag → Runs (.braidWriteIssue i) s fun e =>
      e.braid.outbox = s.dev.braid.outbox ∧ e.braid.ops = s.dev.braid.ops ∧ e.braid.pairs = s.dev.braid.pairs)) ∧
  (∀ (i : BitVec 16) (a : BraidAsk) (s : State), s.on → s.dev.asks.find? (fun x => x.issuer == i) = some a → s.dev.askStatus a = none → s.dev.mustWait a = true →
    let waits := { s.dev with braid := { s.dev.braid with waiters := if i ∈ s.dev.braid.waiters then s.dev.braid.waiters else s.dev.braid.waiters ++ [i] } }
    (a.kind = .read → Runs (.braidReadIssue i) s (· = waits)) ∧ (a.kind = .write ∨ a.kind = .flag → Runs (.braidWriteIssue i) s (· = waits))) ∧
  (∀ (i : BitVec 16) (a : BraidAsk) (s : State), s.on → s.dev.asks.find? (fun x => x.issuer == i) = some a → a.kind = .fence →
    (∀ f ∈ s.dev.braid.fences, f.ids ≠ []) →
    let ids := (s.dev.braid.ops.filter fun o => o.issuer == i && o.isWrite).map (·.id)
    (ids ≠ [] → Runs (.braidFence i) s fun e => ∃ bad, e.braid.fences = s.dev.braid.fences ++ [⟨i, a.tag, ids, bad⟩] ∧ e.asks = dropAsk i s.dev.asks ∧
      e.braid.ops = s.dev.braid.ops ∧ e.braid.outbox = s.dev.braid.outbox ∧ e.mem = s.dev.mem ∧ e.now = s.dev.now) ∧
    (ids = [] → i = systemSteward → Runs (.braidFence i) s fun e => e.braid.fences = s.dev.braid.fences ∧ e.asks = dropAsk i s.dev.asks ∧ e.mem = s.dev.mem)) ∧
  (∀ (i : BitVec 16) (s : State), s.on → s.dev.asks.find? (fun x => x.issuer == i) = none →
    Runs (.braidReadIssue i) s (· = s.dev) ∧ Runs (.braidWriteIssue i) s (· = s.dev) ∧ Runs (.braidFence i) s (· = s.dev)) ∧
  (∀ s : State, s.on →
    (s.dev.braid.waiters = [] → Runs .braidIssueResume s (· = s.dev)) ∧
    (∀ i a r, s.dev.braid.waiters = i :: r → s.dev.asks.find? (fun x => x.issuer == i) = some a → s.dev.mustWait a = false → Runs .braidIssueResume s
      (· = Dev.issueAsk { s.dev with braid := { s.dev.braid with waiters := i :: r.filter (· != i) } } i fun _ => true))) ∧
  (∀ (m : Master) (n : Fin 4096) (v : BitVec 16) (s : State), s.admits m → s.dev.canon →
    (m = systemSteward → Runs (.aliasWrite m n v) s fun e => e.aliasOf n = v.toNat ∧ (∀ k : Fin 4096, k ≠ n → e.aliasOf k = s.dev.aliasOf k) ∧
      s.dev.sameRegs e (· = Reg.BRAID_ALIAS (n / 4)) ∧ e.mem = s.dev.mem ∧ e.braid = s.dev.braid) ∧
    (m ≠ systemSteward → Runs (.aliasWrite m n v) s (· = s.dev)))

/-- Arrival at a destination (R353, R354, R362, R364, R366, R377). -/
def Obligations.BraidRequestsApplyOnceInOrder : Prop :=
  (∀ (p : Bytes) (s : State), s.on → s.dev.braid.arrived.find? (fun x => decide (pktType x = 2 ∨ pktType x = 3)) = some p →
    pktEpoch p ≠ s.dev.getF Reg.BRAID_EPOCH F.BRAID_EPOCH_EPOCH → Runs .braidWriteArrive s fun e => e.mem = s.dev.mem ∧ e.ctrs = s.dev.ctrs ∧
      e.braid = { s.dev.braid with arrived := s.dev.braid.arrived.erase p } ∧
      e.reg Reg.BRAID_STALE_DROP = (s.dev.count Reg.BRAID_STALE_DROP F.BRAID_REFUSED_COUNT 1).reg Reg.BRAID_STALE_DROP) ∧
  (∀ (p : Bytes) (s : State), s.on → s.dev.canon → s.dev.braid.arrived.find? (fun x => decide (pktType x = 2 ∨ pktType x = 3)) = some p →
    pktEpoch p = s.dev.getF Reg.BRAID_EPOCH F.BRAID_EPOCH_EPOCH → hdrBits (hdr p) 123 1 = 0 →
    let n := pktSrc p
    let q := hdrBits (hdr p) 78 32
    let x := s.dev.far n
    let gap := (q + 2 ^ 32 - x.base) % 2 ^ 32
    let w := (s.dev.windowCheck p).2
    let st := (s.dev.windowCheck p).1
    let a := windowDpa w (pktLine p * 64)
    (2 ^ 31 ≤ gap ∨ q ∈ x.set → Runs .braidWriteArrive s fun e => e.mem = s.dev.mem ∧ e.ctrs = s.dev.ctrs ∧ e.regs = s.dev.regs ∧
      (e.far n).base = x.base ∧ (e.far n).set = x.set ∧ ∃ ack, e.braid.outbox = s.dev.braid.outbox ++ [ack] ∧ pktType ack = 9) ∧
    (gap < 2 ^ 31 → 512 ≤ gap → q ∉ x.set → Runs .braidWriteArrive s fun e => e.mem = s.dev.mem ∧ e.ctrs = s.dev.ctrs ∧ e.braid.dests = s.dev.braid.dests ∧
      e.braid.outbox = s.dev.braid.outbox ∧
      e.reg Reg.BRAID_PROTOCOL_DROP = (s.dev.count Reg.BRAID_PROTOCOL_DROP F.BRAID_REFUSED_COUNT 1).reg Reg.BRAID_PROTOCOL_DROP) ∧
    (gap < 512 → q ∉ x.set → st = 0 → x.flags = [] → pktType p = 2 → Runs .braidWriteArrive s fun e => e.mem = storeBytes s.dev.mem a (bytesAt p 16 64) ∧
      e.ctrs = s.dev.ctrs ∧ (∀ b, b < a ∨ a + 64 ≤ b → e.byte b = s.dev.byte b)) ∧
    (gap < 512 → q ∉ x.set → st ≠ 0 → x.flags = [] → Runs .braidWriteArrive s fun e => e.mem = s.dev.mem ∧ e.ctrs = s.dev.ctrs ∧
      (∃ r ∈ e.ev.arisen, r.code = 0xA006 ∧ r.object = BitVec.ofNat 32 n) ∧
      ∃ rest, e.braid.outbox = s.dev.braid.outbox ++ leBytes 16 (s.dev.hdrBase 10 n + q * 2 ^ 32 + st * 2 ^ 64) :: rest) ∧
    (0 < gap → gap < 512 → q ∉ x.set → x.base ∉ x.set → st = 0 → x.flags = [] → pktType p = 3 → x.base < 2 ^ 32 → Runs .braidWriteArrive s fun e =>
      e.ctrs = s.dev.ctrs ∧ (e.far n).base = x.base ∧ (e.far n).flags = [(q, hdrBits (hdr p) 110 13, leAt w 16 1)])) ∧
  (∀ s : State, s.on → (∀ p ∈ s.dev.braid.arrived, pktType p ≠ 2 ∧ pktType p ≠ 3) → Runs .braidWriteArrive s (· = s.dev)) ∧
  (∀ (p : Bytes) (s : State), s.on → s.dev.braid.arrived.find? (fun x => pktType x == 1) = some p →
    pktEpoch p = s.dev.getF Reg.BRAID_EPOCH F.BRAID_EPOCH_EPOCH → hdrBits (hdr p) 123 1 = 0 →
    let st := (s.dev.windowCheck p).1
    let a := windowDpa (s.dev.windowCheck p).2 (pktLine p * 64)
    (st ≠ 0 → Runs .braidReadArrive s fun e => e.mem = s.dev.mem ∧ e.ctrs = s.dev.ctrs ∧ e.regs = s.dev.regs ∧ e.ev = s.dev.ev ∧
      e.braid.outbox = s.dev.braid.outbox ++ [leBytes 16 (s.dev.hdrBase 8 (pktSrc p) + hdrBits (hdr p) 78 20 * 2 ^ 32 + st * 2 ^ 52) ++ List.replicate 64 0xFF#8]) ∧
    (st = 0 → s.dev.bad (a / 64) = false → Runs .braidReadArrive s fun e => e.mem = s.dev.mem ∧ e.ctrs = s.dev.ctrs ∧ e.regs = s.dev.regs ∧ e.ev = s.dev.ev ∧
      e.braid.outbox = s.dev.braid.outbox ++ [leBytes 16 (s.dev.hdrBase 8 (pktSrc p) + hdrBits (hdr p) 78 20 * 2 ^ 32) ++ s.dev.bytes a 64]))

/-- Ends of operations (R362, R365, R373, R376). -/
def Obligations.BraidResponsesAndTimeoutsEndOperations : Prop :=
  (∀ (p : Bytes) (s : State), s.on → s.dev.braid.arrived.find? (fun x => pktType x == 8) = some p → pktEpoch p = s.dev.getF Reg.BRAID_EPOCH F.BRAID_EPOCH_EPOCH →
    let d := { s.dev with braid := { s.dev.braid with arrived := s.dev.braid.arrived.erase p } }
    let mine := fun o : BraidOp => o.kind == .read && o.seq == hdrBits (hdr p) 32 12 && o.gen == hdrBits (hdr p) 44 8 && o.node == pktSrc p
    ((∀ o ∈ s.dev.braid.ops, mine o = false) → Runs .braidReadRespArrive s (· = d)) ∧
    (∀ o, s.dev.braid.ops.find? mine = some o → Runs .braidReadRespArrive s
      (· = ((d.setPair o.node { s.dev.pair o.node with credits := (s.dev.pair o.node).credits + 1 }).opEnd o (hdrBits (hdr p) 52 4) (bytesAt p 16 64)).braidShow))) ∧
  (∀ (d : Dev) (o : BraidOp) (status : Nat) (line : Bytes), o.issuer = systemSteward → status < 8 → d.braid.fences = [] →
    ((d.opEnd o status line).braid.ops = d.braid.ops.filter fun x => x.id != o.id) ∧
    (o.kind = .read → (d.opEnd o status line).mem = storeBytes d.mem o.place (if status = 0 then bytesAt line 0 64 else List.replicate 64 0xFF#8)) ∧
    (o.isWrite = true → (d.opEnd o status line).mem = d.mem ∧
      (d.opEnd o status line).braid.failed = d.braid.failed ++ (if status = 0 then [] else [(o.issuer, o.seq, status)]))) ∧
  (∀ (p : Bytes) (s : State), s.on → s.dev.canon → s.dev.braid.arrived.find? (fun x => pktType x == 9) = some p → pktEpoch p = s.dev.getF Reg.BRAID_EPOCH F.BRAID_EPOCH_EPOCH →
    let n := pktSrc p
    let done := fun o : BraidOp => o.node == n && o.isWrite && decide ((hdrBits (hdr p) 32 32 + 2 ^ 32 - o.seq) % 2 ^ 32 < 2 ^ 31)
    (∀ o ∈ s.dev.braid.ops, o.issuer = systemSteward) → s.dev.braid.fences = [] → Runs .braidAckArrive s fun e =>
      (∀ o ∈ e.braid.ops, o ∈ s.dev.braid.ops ∧ done o = false) ∧ e.mem = s.dev.mem ∧ e.braid.failed = s.dev.braid.failed ∧
      (e.pair n).credits = (s.dev.pair n).credits + hdrBits (hdr p) 64 10 + hdrBits (hdr p) 74 11 ∧ (e.pair n).next = (s.dev.pair n).next) ∧
  (∀ (p : Bytes) (s : State), s.on → s.dev.braid.arrived.find? (fun x => pktType x == 10) = some p → pktEpoch p = s.dev.getF Reg.BRAID_EPOCH F.BRAID_EPOCH_EPOCH →
    let d := { s.dev with braid := { s.dev.braid with arrived := s.dev.braid.arrived.erase p } }
    let mine := fun o : BraidOp => o.isWrite && o.node == pktSrc p && o.seq == hdrBits (hdr p) 32 32
    ((∀ o ∈ s.dev.braid.ops, mine o = false) → Runs .braidRefuseArrive s (· = d)) ∧
    (∀ o, s.dev.braid.ops.find? mine = some o → Runs .braidRefuseArrive s (· = (d.opEnd o (hdrBits (hdr p) 64 4) []).braidShow))) ∧
  (∀ s : State, s.on → s.dev.braid.ops = [] → Runs .braidRetryTimeout s (· = s.dev) ∧ Runs .deadTargetTimeout s (· = s.dev)) ∧
  (∀ (o : BraidOp) (s : State), s.on → s.dev.canon → earliest (·.last) s.dev.braid.ops = some o → Runs .braidRetryTimeout s fun e =>
    o.last + s.dev.getF Reg.BRAID_CFG F.BRAID_CFG_RETRY * 5000 ≤ e.now ∧ e.braid.ops.map (·.id) = s.dev.braid.ops.map (·.id) ∧
    e.braid.outbox = s.dev.braid.outbox ++ [s.dev.opPacket o false] ∧ e.braid.pairs = s.dev.braid.pairs ∧ e.mem = s.dev.mem ∧ e.ctrs = s.dev.ctrs ∧
    e.reg Reg.BRAID_RETRANSMIT = (s.dev.count Reg.BRAID_RETRANSMIT F.BRAID_REFUSED_COUNT 1).reg Reg.BRAID_RETRANSMIT) ∧
  (∀ (o : BraidOp) (s : State), s.on → s.dev.canon → earliest (·.first) s.dev.braid.ops = some o → Runs .deadTargetTimeout s fun e =>
    o.first + s.dev.deadU ≤ e.now ∧ (∃ r ∈ e.ev.arisen, r.code = 0xA004 ∧ r.object = BitVec.ofNat 32 o.node) ∧ (e.pair o.node).dead = true)

/-- Links, flits and the switch (R356 to R359, R369, R379). -/
def Obligations.BraidLinksCarryPacketsInOrder : Prop :=
  (∀ (b : BraidPort) (node : BitVec 12) (port : BitVec 3) (s : State), s.on → s.dev.canon →
    let want := s.dev.getF (Reg.BRAID_PORT_CFG b) F.BRAID_PORT_CFG_NEIGH_NODE
    let fits := want = 0xFFF ∨ (want = node.toNat ∧ s.dev.getF (Reg.BRAID_PORT_CFG b) F.BRAID_PORT_CFG_NEIGH_PORT = port.toNat)
    let may := s.dev.portOn (.braid b) = true ∧ s.dev.linkUp (.braid b) = false ∧ s.dev.getF (Reg.BRAID_PORT_STATUS b) F.BRAID_PORT_STATUS_FENCED = 0 ∧ s.dev.time.refLost = false
    (¬ may → Runs (.braidLinkUp b node port) s (· = s.dev)) ∧
    (may → fits → Runs (.braidLinkUp b node port) s fun e => e.linkUp (.braid b) = true ∧ e.getB (Reg.BRAID_PORT_STATUS b) F.BRAID_PORT_STATUS_MISWIRED = false ∧
      e.getF (Reg.BRAID_PORT_STATUS b) F.BRAID_PORT_STATUS_FAR_NODE = node.toNat ∧ e.getF (Reg.BRAID_PORT_STATUS b) F.BRAID_PORT_STATUS_FAR_PORT = port.toNat ∧
      e.blink b = { BraidLink.init with fails := (s.dev.blink b).fails } ∧ e.mem = s.dev.mem ∧ s.dev.sameRegs e (· = Reg.BRAID_PORT_STATUS b) ∧
      ∃ r ∈ e.ev.arisen, r.code = 0xA001 ∧ r.object = BitVec.ofNat 32 b) ∧
    (may → ¬ fits → Runs (.braidLinkUp b node port) s fun e => e.linkUp (.braid b) = false ∧ e.getB (Reg.BRAID_PORT_STATUS b) F.BRAID_PORT_STATUS_MISWIRED = true ∧
      e.braid = s.dev.braid ∧ e.mem = s.dev.mem ∧ s.dev.sameRegs e (· = Reg.BRAID_PORT_STATUS b) ∧ s.dev.raised e fun r => r.code = 0xA002 ∧ r.object = BitVec.ofNat 32 b)) ∧
  (∀ (b : BraidPort) (los bad : BitVec 4) (s : State), s.on → s.dev.canon →
    (s.dev.portOn (.braid b) = false ∨ (los = 0 ∧ bad = 0) → Runs (.braidLinkDown b los bad) s (· = s.dev)) ∧
    (s.dev.portOn (.braid b) = true → los ≠ 0 → bad = 0 → s.dev.linkUp (.braid b) = false → Runs (.braidLinkDown b los bad) s fun e => e.linkUp (.braid b) = false ∧
      e.getF (Reg.BRAID_PORT_STATUS b) F.BRAID_PORT_STATUS_LOS = los.toNat ∧ e.braid = s.dev.braid ∧ e.ports = s.dev.ports ∧ e.mem = s.dev.mem ∧ e.ev = s.dev.ev) ∧
    (s.dev.portOn (.braid b) = true → los ≠ 0 → s.dev.linkUp (.braid b) = true → Runs (.braidLinkDown b los bad) s fun e => e.linkUp (.braid b) = false ∧
      e.getF (Reg.BRAID_PORT_STATUS b) F.BRAID_PORT_STATUS_LOS = los.toNat ∧ e.mem = s.dev.mem ∧ e.sent = s.dev.sent ∧
      ∃ r ∈ e.ev.arisen, r.code = 0xA001 ∧ r.object = BitVec.ofNat 32 b)) ∧
  (∀ (m : Master) (b : BraidPort) (v : Word) (s : State), s.admits m → devMaster m = true → s.dev.canon → Runs (.laneUnfence m b v) s fun e =>
    (∀ i < 4, e.getF (Reg.BRAID_PORT_STATUS b) F.BRAID_PORT_STATUS_FENCED / 2 ^ i % 2 =
      if v.toNat / 2 ^ i % 2 = 1 then 0 else s.dev.getF (Reg.BRAID_PORT_STATUS b) F.BRAID_PORT_STATUS_FENCED / 2 ^ i % 2) ∧
    s.dev.sameRegs e (· = Reg.BRAID_PORT_STATUS b) ∧ e.mem = s.dev.mem ∧ e.ev = s.dev.ev ∧ e.ports = s.dev.ports) ∧
  (∀ (b : BraidPort) (f : Bytes) (corrected : Nat) (bad : Bool) (s : State), s.on → s.dev.canon →
    let x := s.dev.blink b
    let crcOk := f.length = 320 ∧ leAt f 12 4 = flitCrc f
    (s.dev.linkUp (.braid b) = false → Runs (.flitReceive b f corrected bad) s (· = s.dev)) ∧
    (s.dev.linkUp (.braid b) = true → bad = true ∨ ¬ crcOk → Runs (.flitReceive b f corrected bad) s fun e =>
      e.blink b = { x with lost := true, nak := true } ∧ e.sent = s.dev.sent ∧ e.mem = s.dev.mem ∧ e.braid.arrived = s.dev.braid.arrived ∧
      s.dev.sameRegs e fun a => a = Reg.BRAID_FEC_CORRECTED b ∨ a = Reg.BRAID_FEC_UNCORRECTED b ∨ a = Reg.BRAID_CRC_FAIL b) ∧
    (s.dev.linkUp (.braid b) = true → bad = false → crcOk → leAt f 4 2 / 2 ^ 15 = 0 → leAt f 0 1 ≠ 0 ∨ leAt f 2 2 % 4096 ≠ (x.good + 1) % 4096 →
      Runs (.flitReceive b f corrected bad) s fun e => (e.blink b).good = x.good ∧ (e.blink b).inq = x.inq ∧ (e.blink b).part = x.part ∧ e.sent = s.dev.sent ∧ e.mem = s.dev.mem) ∧
    (s.dev.linkUp (.braid b) = true → bad = false → crcOk → leAt f 0 1 = 0 → leAt f 2 2 % 4096 = (x.good + 1) % 4096 →
      Runs (.flitReceive b f corrected bad) s fun e => (e.blink b).good = (x.good + 1) % 4096 ∧ e.mem = s.dev.mem ∧ e.ctrs = s.dev.ctrs)) ∧
  (∀ s : State, s.on →
    (s.dev.braid.outbox = [] → Runs (.packetForward 8) s (· = s.dev)) ∧
    (∀ p r, s.dev.braid.outbox = p :: r → pktDst p = s.dev.braidNode → Runs (.packetForward 8) s
      (· = { s.dev with braid := { s.dev.braid with outbox := r, arrived := s.dev.braid.arrived ++ [p] } })) ∧
    (∀ (b : BraidPort) p r, s.dev.canon → s.dev.selfFenced = false → (s.dev.blink b).inq = p :: r → pktDst p = s.dev.braidNode → Runs (.packetForward (b.castLE (by decide))) s fun e =>
      e.braid.arrived = s.dev.braid.arrived ++ [p] ∧ (e.blink b).inq = r ∧ (e.blink b).freed = bump (s.dev.blink b).freed (pktVc p) (· + p.length / 16) ∧ e.mem = s.dev.mem) ∧
    (∀ (b : BraidPort), s.dev.selfFenced = false → (s.dev.blink b).inq = [] → Runs (.packetForward (b.castLE (by decide))) s (· = s.dev))) ∧
  (∀ (b : BraidPort) (s : State), s.on → s.dev.canon →
    let d := (s.dev.advanceTo (s.dev.port (.braid b)).busyUntil).portSync (.braid b)
    (s.dev.linkUp (.braid b) = false → Runs (.braidTxSelect b) s (· = s.dev)) ∧
    (s.dev.linkUp (.braid b) = true → 512 ≤ (d.blink b).replay.length → Runs (.braidTxSelect b) s (· = d.sendFlit b 1 0 [])) ∧
    (s.dev.linkUp (.braid b) = true → d.selfFenced = false → (d.blink b).replay.length < 512 → (d.blink b).tx = [] →
      (∀ q < 8, ((d.port (.braid b)).queue q).items = []) → Runs (.braidTxSelect b) s (· = d.sendFlit b 1 0 [])) ∧
    (∀ ty seq units, (d.sendFlit b ty seq units).sent = d.sent ++ [.braidFlit b (d.flitBytes b ty seq units)] ∧ (d.sendFlit b ty seq units).ports = d.ports ∧
      (d.sendFlit b ty seq units).mem = d.mem ∧ ((d.sendFlit b ty seq units).blink b).nak = false))

/-- Timed puts (R380, R381). -/
def Obligations.TimedPutsArmAndLaunch : Prop :=
  (∀ (m : Master) (v : Word) (s : State), s.admits m →
    let id := v.toNat % 1024
    (s.dev.putRec id = none → Runs (.putArm m v) s (· = s.dev)) ∧
    (∀ p, s.dev.putRec id = some p →
      (m ≠ stewardOf (leAt p 5 1) ∨ s.dev.inBoundary = false → Runs (.putArm m v) s (· = s.dev)) ∧
      (m = stewardOf (leAt p 5 1) → s.dev.inBoundary = true → Runs (.putArm m v) s
        (· = { s.dev with braid := { s.dev.braid with armed := store 0 s.dev.braid.armed id (s.dev.tickNo + 2) } })))) ∧
  (∀ (id : Fin 1024) (s : State), s.on →
    (s.dev.putRec id = none → Runs (.putLaunch id) s (· = s.dev)) ∧
    (∀ p, s.dev.putRec id = some p → s.dev.tickNo % leAt p 16 2 ≠ leAt p 18 2 ∨ (leAt p 3 1 % 2 = 1 ∧ look 0 s.dev.braid.armed id ≠ s.dev.tickNo + 1) ∨
      look 0 s.dev.braid.launched id = s.dev.tickNo + 1 → Runs (.putLaunch id) s (· = s.dev)) ∧
    (∀ p, s.dev.canon → s.dev.putRec id = some p → s.dev.tickNo % leAt p 16 2 = leAt p 18 2 → (leAt p 3 1 % 2 = 0 ∨ look 0 s.dev.braid.armed id = s.dev.tickNo + 1) →
      look 0 s.dev.braid.launched id ≠ s.dev.tickNo + 1 → s.dev.putServes (leAt p 2 1) = true → s.dev.selfFenced = false →
      s.dev.getB Reg.RECIPE_STATUS F.RECIPE_STATUS_ACTIVE = true → (s.dev.paused (leAt p 5 1) = false ∨ leAt p 12 4 ≤ (s.dev.tile (leAt p 5 1)).pos) →
      Runs (.putLaunch id) s fun e => s.dev.tickNo * s.dev.tickU + leAt p 8 4 * 5 ≤ e.now ∧ e.mem = s.dev.mem ∧ e.sent = s.dev.sent ∧
        e.braid.launched = store 0 s.dev.braid.launched id (s.dev.tickNo + 1) ∧ e.braid.puts = s.dev.braid.puts ++ [⟨id, s.dev.braid.nextId, leAt p 20 4, 0⟩] ∧
        e.asks = s.dev.asks ++ s.dev.putAsks p (id + 1024 * s.dev.braid.nextId))) ∧
  (∀ (d : Dev) (p : Bytes) (tag i : Nat) (h : i < (d.putAsks p tag).length),
    let a := (d.putAsks p tag)[i]
    (d.putAsks p tag).length = leAt p 20 4 ∧ a.addr = leAt p 32 8 + 64 * i ∧ a.queue = leAt p 4 1 ∧ a.slice = leAt p 2 1 ∧
    a.data = d.bytes ((d.place (leAt p 24 8)).getD 0 + 64 * i) 64 ∧
    (a.kind = .flag ↔ leAt p 3 1 / 2 % 2 = 1 ∧ i + 1 = leAt p 20 4) ∧ (a.kind ≠ .flag → a.kind = .write))

/-- The spread of a window's lines over tiles, channels and pages (R354). -/
def Obligations.WindowLinesSpreadOneToOne : Prop :=
  (∀ j < 2 ^ 72, fold6 12 j = ((List.range 12).foldl (fun (x : BitVec 6) g => x ^^^ BitVec.ofNat 6 (j / 64 ^ g)) 0#6).toNat) ∧
  ∀ (w : Bytes) (a n : Nat), leAt w 8 4 + leAt w 12 4 ≤ 2 ^ 20 → a < 192 * 64 * leAt w 12 4 → n < 192 * 64 * leAt w 12 4 →
    let dpa := fun x => windowDpa w (leAt w 0 8 + 64 * x)
    let t := n % 6
    let m := n / 6
    let j := m / 2 ^ 6
    let k := (BitVec.ofNat 6 m ^^^ BitVec.ofNat 6 (fold6 12 j)).toNat
    dpa n = t * 2 ^ 37 + k / 4 * 2 ^ 33 + k / 2 % 2 * 2 ^ 32 + (leAt w 8 4 + j / 32) * 4096 + (2 * (j % 32) + k % 2) * 64 ∧
    dpa n / 2 ^ 37 = t ∧ channelOf (dpa n) = k ∧ leAt w 8 4 ≤ dpa n / 4096 % 2 ^ 20 ∧ dpa n / 4096 % 2 ^ 20 < leAt w 8 4 + leAt w 12 4 ∧
    (dpa a = dpa n → a = n)

/-- Evaluation, release and timeout (R386, R387, R388, R392, R395). -/
def Obligations.CountersAddTakeReleaseAndExpire : Prop :=
  (
    (∀ (t : Tile) (c : CtrIx) (s : State), s.on → (s.dev.nextEval t c = none ∨ s.dev.paused t = true) → Runs (.counterEvaluate t c) s (· = s.dev)) ∧
    (∀ (t : Tile) (c : CtrIx) (x : SigEv) (s : State), s.on → s.dev.canon → s.dev.paused t = false →
      s.dev.ctrs.sigs.filter (fun y => y.tile == t.val && y.ctr == c.val) = [x] → (∀ w ∈ s.dev.ctrs.waits, ¬ (w.tile = t ∧ w.ctr = c ∧ w.released = none)) →
      s.dev.ctrState t c = 1 → (x.slice = none ∨ x.slice = some (s.dev.ctrSlice t c)) → Runs (.counterEvaluate t c) s fun e =>
        e.ctrValue t c = min (s.dev.ctrValue t c + x.amount) 0xFFFFFFFF ∧ e.ctrState t c = 1 ∧ x.at_ ≤ (e.tile t).lk ∧
        e.ctrs = { s.dev.ctrs with sigs := s.dev.ctrs.sigs.filter fun y => !(y.tile == t.val && y.ctr == c.val) } ∧
        s.dev.sameRegs e (fun a => a = Reg.PROOF_CTR t c ∨ lagReg a) ∧ e.mem = s.dev.mem) ∧
    (∀ (t : Tile) (c : CtrIx) (s : State), s.on → s.dev.canon → s.dev.paused t = false → (∀ y ∈ s.dev.ctrs.sigs, ¬ (y.tile = t ∧ y.ctr = c)) →
      let open_ := fun w : Wait => w.tile = t ∧ w.ctr = c ∧ w.released = none
      let v := s.dev.ctrValue t c
      let at_ := (s.dev.tile t).lk + 8
      (s.dev.ctrState t c = 1 → Runs (.counterEvaluate t c) s fun e => e.mem = s.dev.mem ∧ e.now = s.dev.now ∧
        (∀ w ∈ s.dev.ctrs.waits, open_ w → w.take = false → w.amount ≤ v → { w with released := some at_, failed := false } ∈ e.ctrs.waits) ∧
        (∀ w ∈ s.dev.ctrs.waits, ¬ open_ w ∨ v < w.amount → w ∈ e.ctrs.waits) ∧
        (∃ l : List Wait, (∀ w ∈ l, w ∈ s.dev.ctrs.waits ∧ open_ w ∧ w.take = true ∧ w.amount ≤ v) ∧ e.ctrValue t c + (l.map (·.amount)).sum = v)) ∧
      (s.dev.ctrState t c = 3 → Runs (.counterEvaluate t c) s fun e => e.mem = s.dev.mem ∧ e.now = s.dev.now ∧ e.ctrValue t c = v ∧
        (∀ w ∈ s.dev.ctrs.waits, open_ w → { w with released := some at_, failed := true } ∈ e.ctrs.waits)))) ∧
  (
    (∀ (t : Tile) (s : State), s.on →
      (firstWait t (·.released) s.dev.ctrs.waits = none ∨ s.dev.paused t = true → Runs (.waitRelease t) s (· = s.dev)) ∧
      (∀ w n, s.dev.paused t = false → firstWait t (·.released) s.dev.ctrs.waits = some (w, n) →
        let d := (s.dev.advance (n - (s.dev.tile t).lk)).endWait w
        n ≤ (d.tile t).lk ∧ d.mem = s.dev.mem ∧ d.ctrs.waits = s.dev.ctrs.waits.erase w ∧
        (w.failed = false → Runs (.waitRelease t) s (· = d.resumeUnit w)) ∧
        (w.failed = true → Runs (.waitRelease t) s (· = (d.raise 0xB002 w.slice (ctrFile t) (ctrId t w.ctr) (w.detail false)).failUnit w)))) ∧
    (∀ (t : Tile) (s : State), s.on →
      let first := firstWait t (fun w => if w.released.isNone then some w.due else none) s.dev.ctrs.waits
      (first = none ∨ s.dev.paused t = true → Runs (.waitTimeout t) s (· = s.dev)) ∧
      (∀ w n, s.dev.paused t = false → first = some (w, n) →
        (∀ e, s.dev.nextEval t w.ctr = some e → e ≤ n → Runs (.waitTimeout t) s (· = s.dev)) ∧
        ((∀ e, s.dev.nextEval t w.ctr = some e → n < e) → Runs (.waitTimeout t) s
          (· = (((s.dev.advance (n - (s.dev.tile t).lk)).endWait w).raise 0xB001 w.slice (ctrFile t) (ctrId t w.ctr) (w.detail false)).failUnit w)))) ∧
    (∀ (t : Nat) (key : Wait → Option Nat) (ws : List Wait) (w : Wait) (n : Nat), firstWait t key ws = some (w, n) →
      w ∈ ws ∧ w.tile = t ∧ key w = some n ∧ ∀ x ∈ ws, x.tile = t → ∀ m, key x = some m → n ≤ m))

/-- Landing signals and the steward's writes (R390, R395, R396, R404). -/
def Obligations.LandingSignalsWaitForTheirTick : Prop :=
  (∀ (m : Master) (t : Tile) (v : Word) (s : State), s.admits m → s.dev.canon →
    let joins := fun (c a : Nat) (e : Dev) =>
      let p := s.dev.getF (Reg.PROOF_PEND t c) F.PROOF_PEND_PEND
      e.getF (Reg.PROOF_PEND t c) F.PROOF_PEND_PEND = min (p + a) 0xFFFFFFFF ∧ s.dev.sameRegs e (· = Reg.PROOF_PEND t c) ∧ e.mem = s.dev.mem ∧
      e.ctrs.sigs = s.dev.ctrs.sigs ∧ e.ctrs.waits = s.dev.ctrs.waits ∧ (p + a < 2 ^ 32 → e.ev = s.dev.ev) ∧ (2 ^ 32 ≤ p + a → s.dev.raised e fun r => r.code = 0xB004)
    (m = hostDriver ∨ isSliceMaster m.toNat = true → Runs (.proofHostSignal m t v) s (joins (v.toNat % 1024) (v.toNat / 2 ^ 32))) ∧
    (m ≠ hostDriver → isSliceMaster m.toNat = false → Runs (.proofHostSignal m t v) s (· = s.dev)) ∧
    (m = stewardOf t ∨ m = systemSteward → Runs (.proofStewardSignal m t v) s (joins (v.toNat % 1024) (v.toNat / 2 ^ 32))) ∧
    (m ≠ stewardOf t → m ≠ systemSteward → Runs (.proofStewardSignal m t v) s (· = s.dev))) ∧
  (∀ (t : Tile) (s : State), s.on →
    let mine := s.dev.ctrs.taken.filter fun p => p.1 / 1024 == t.val
    (mine = [] ∨ s.dev.paused t = true ∨ (s.dev.tile t).skipped = true ∨ s.dev.bStart ≤ (s.dev.tile t).pos → Runs (.landingSignalApply t) s (· = s.dev)) ∧
    (mine ≠ [] → s.dev.paused t = false → (s.dev.tile t).skipped = false → (s.dev.tile t).pos < s.dev.bStart → Runs (.landingSignalApply t) s fun e =>
      e.ctrs = { s.dev.ctrs with
        taken := s.dev.ctrs.taken.filter fun p => !(p.1 / 1024 == t.val)
        sigs := s.dev.ctrs.sigs ++ mine.map fun p => ⟨t, p.1 % 1024, p.2, none, 0#16, (s.dev.tile t).lk + (16 - (s.dev.tile t).pos), true⟩ } ∧
      e.mem = s.dev.mem ∧ e.ev = s.dev.ev)) ∧
  (∀ (m : Master) (t : Tile) (c : CtrIx) (v : Word) (s : State), s.admits m → s.dev.canon →
    (m ≠ stewardOf t ∨ s.dev.inBoundary = false → Runs (.proofCtrWrite m t c v) s fun e => e.regs = s.dev.regs ∧ e.ctrs = s.dev.ctrs ∧ e.mem = s.dev.mem ∧
      s.dev.raised e fun r => r.code = 0xB007 ∧ r.object = BitVec.ofNat 32 (Reg.PROOF_CTR t c)) ∧
    (m = stewardOf t → s.dev.inBoundary = true → s.dev.ctrState t c ≠ 2 → Runs (.proofCtrWrite m t c v) s fun e =>
      let new := fieldOf F.PROOF_CTR_STATE v
      e.ctrState t c = (if s.dev.ctrState t c = 3 ∧ ¬ (new = 0 ∨ (new = 1 ∧ v.toNat % 2 ^ 32 = 0)) then 3 else new) ∧
      e.getB (Reg.PROOF_CTR t c) F.PROOF_CTR_LOSS = false ∧ e.ctrValue t c = (s.dev.rwWrite (Reg.PROOF_CTR t c) v).ctrValue t c ∧
      s.dev.sameRegs e (· = Reg.PROOF_CTR t c) ∧ e.ctrs = s.dev.ctrs ∧ e.mem = s.dev.mem ∧ e.ev = s.dev.ev))

/-- The mailboxes and steward commands (R399 to R403). That the system steward answers a tile's command UNKNOWN is the model's choice (log entry
25). -/
def Obligations.PeelChannelsHaveOneOwnerAndStewardsAnswer : Prop :=
  (
    (∀ (m : Master) (n : PeelIx) (s : State), s.admits m → s.dev.canon →
      (s.dev.peelMay n m.toNat = false → Runs (.peelLockRead m n) s fun e => e.readOut = 0xFFFF#64 ∧ e.regs = s.dev.regs ∧ e.mem = s.dev.mem ∧
        s.dev.raised e fun r => r.code = 0xB010 ∧ r.object = BitVec.ofNat 32 n) ∧
      (s.dev.peelMay n m.toNat = true → s.dev.peelOwner n ≠ 0 → Runs (.peelLockRead m n) s (· = { s.dev with readOut := BitVec.ofNat 64 (s.dev.peelOwner n) })) ∧
      (s.dev.peelMay n m.toNat = true → s.dev.peelOwner n = 0 → Runs (.peelLockRead m n) s fun e => e.readOut = 0#64 ∧ e.peelOwner n = m.toNat ∧
        e.getF (Reg.PEEL_STATUS n) F.PEEL_STATUS_HANDOFFS = 0 ∧ s.dev.sameRegs e (fun a => a = Reg.PEEL_STATUS n ∨ a = Reg.PEEL_LOCK n) ∧ e.mem = s.dev.mem ∧ e.ev = s.dev.ev)) ∧
    (∀ (m : Master) (n : PeelIx) (v : Word) (s : State), s.admits m → s.dev.canon →
      let other := if s.dev.peelBind n 0 16 = m.toNat then s.dev.peelBind n 16 16 else s.dev.peelBind n 0 16
      let gone := fun (nxt : Nat) (e : Dev) => e.peelOwner n = nxt ∧ e.peelPrev n = m.toNat ∧ e.getB (Reg.PEEL_CTRL n) F.PEEL_CTRL_GO = true ∧
        e.getF (Reg.PEEL_STATUS n) F.PEEL_STATUS_HANDOFFS = (s.dev.getF (Reg.PEEL_STATUS n) F.PEEL_STATUS_HANDOFFS + 1) % 2 ^ 16 ∧
        s.dev.sameRegs e (fun a => a = Reg.PEEL_STATUS n ∨ a = Reg.PEEL_LOCK n ∨ a = Reg.PEEL_CTRL n) ∧ e.mem = s.dev.mem
      (s.dev.peelOwner n ≠ m.toNat → Runs (.peelHandoff m n v) s (· = s.dev)) ∧
      (s.dev.peelOwner n = m.toNat → m ≠ 0 → s.dev.peelOpen n = false → fieldOf F.PEEL_CTRL_GO v = 1 → Runs (.peelHandoff m n v) s (gone other)) ∧
      (s.dev.peelOwner n = m.toNat → m ≠ 0 → s.dev.peelOpen n = true → fieldOf F.PEEL_CTRL_GO v = 1 →
        let tgt := fieldOf F.PEEL_CTRL_TARGET v
        (tgt ≠ m.toNat → s.dev.peelMay n tgt = true → Runs (.peelHandoff m n v) s (gone tgt)) ∧
        (tgt = m.toNat ∨ s.dev.peelMay n tgt = false → Runs (.peelHandoff m n v) s fun e => e.peelOwner n = m.toNat ∧ s.dev.raised e fun r => r.code = 0xB010))) ∧
    (∀ (m : Master) (n : PeelIx) (v : Word) (s : State), s.admits m → s.dev.canon →
      (s.dev.peelOwner n ≠ m.toNat ∨ fieldOf F.PEEL_CTRL_RELEASE v ≠ 1 → Runs (.peelRelease m n v) s (· = s.dev)) ∧
      (s.dev.peelOwner n = m.toNat → m ≠ 0 → fieldOf F.PEEL_CTRL_RELEASE v = 1 → Runs (.peelRelease m n v) s fun e => e.peelOwner n = 0 ∧
        (∀ w < 16, e.reg (Reg.PEEL_DATA n w) = 0#64) ∧ e.getB (Reg.PEEL_CTRL n) F.PEEL_CTRL_GO = false ∧ e.mem = s.dev.mem ∧ e.ev = s.dev.ev ∧
        s.dev.sameRegs e (fun a => a = Reg.PEEL_STATUS n ∨ a = Reg.PEEL_LOCK n ∨ a = Reg.PEEL_CTRL n ∨ ∃ w < 16, a = Reg.PEEL_DATA n w)))) ∧
  (
    (∀ (n : PeelIx) (s : State), s.on →
      let w := s.dev.peelWords n
      (s.dev.peelAsk n (fun c => c != 0x10 && c != 0x20) = none → Runs (.echo n) s (· = s.dev)) ∧
      (∀ who, s.dev.peelAsk n (fun c => c != 0x10 && c != 0x20) = some who →
        (s.dev.peelWord n 0 % 2 ^ 16 = 1 → w ≤ 15 → Runs (.echo n) s (· = s.dev.peelReply n 0 ((List.range w).map fun i => s.dev.peelWord n (i + 1)))) ∧
        (s.dev.peelWord n 0 % 2 ^ 16 = 1 → 15 < w → Runs (.echo n) s (· = s.dev.peelReply n 2 [])) ∧
        (s.dev.peelWord n 0 % 2 ^ 16 ≠ 1 → Runs (.echo n) s (· = s.dev.peelReply n 1 [])))) ∧
    (∀ (n : PeelIx) (t : Nat) (s : State), s.on →
      let c := s.dev.peelWord n 1 % 1024
      let p := s.dev.peelPrev n
      let w := s.dev.peelWords n
      let owns := isSliceMaster p = true → s.dev.getF (Reg.PROOF_CTR t c) F.PROOF_CTR_SLICE = p % 64
      (s.dev.peelAsk n (· == 0x10) = none → Runs (.readCounter n) s (· = s.dev)) ∧
      (s.dev.peelAsk n (· == 0x10) = some (some t) → 1 ≤ w → w ≤ 15 →
        (owns → Runs (.readCounter n) s (· = s.dev.peelReply n 0 [(s.dev.reg (Reg.PROOF_CTR t c)).toNat, s.dev.getF (Reg.PROOF_PEND t c) F.PROOF_PEND_PEND])) ∧
        (¬ owns → Runs (.readCounter n) s (· = s.dev.peelReply n 3 []))) ∧
      (s.dev.peelAsk n (· == 0x10) = some (some t) → w = 0 ∨ 15 < w → Runs (.readCounter n) s (· = s.dev.peelReply n 2 [])) ∧
      (s.dev.peelAsk n (· == 0x10) = some none → Runs (.readCounter n) s (· = s.dev.peelReply n 1 []))) ∧
    (∀ (n : PeelIx) (t : Nat) (s : State), s.on →
      let cs := (s.dev.sch t).ctxs.filter fun c => c.placed && c.slice == s.dev.peelWord n 1 % 64
      (s.dev.peelAsk n (· == 0x20) = none → Runs (.reportContexts n) s (· = s.dev)) ∧
      (s.dev.peelAsk n (· == 0x20) = some (some t) → 1 ≤ s.dev.peelWords n → s.dev.peelWords n ≤ 15 → Runs (.reportContexts n) s
        (· = s.dev.peelReply n 0 [(s.dev.reg (Reg.SCHED_CONTEXTS t)).toNat, cs.countP (fun c => c.stage != .saved) + cs.countP (fun c => c.stage == .saved) * 2 ^ 16]))) ∧
    (∀ (d : Dev) (n status : Nat) (words : List Nat), d.canon → n < 64 → words.length ≤ 15 → status < 4 →
      let e := d.peelReply n status words
      e.peelWord n 0 % 2 ^ 16 = d.peelWord n 0 % 2 ^ 16 ∧ e.peelWord n 0 / 2 ^ 32 = d.peelWord n 0 / 2 ^ 32 ∧ e.peelWord n 0 / 2 ^ 16 % 2 ^ 8 = words.length ∧
      e.peelWord n 0 / 2 ^ 24 % 2 ^ 8 = status ∧ (∀ i (h : i < words.length), e.peelWord n (i + 1) = words[i] % 2 ^ 64) ∧
      e.peelOwner n = d.peelPrev n ∧ e.peelPrev n = d.peelOwner n ∧ e.mem = d.mem))

/-- Commands to slices and their ends (Table 17.6, R418, R421, R422, R425 to R428). -/
def Obligations.SliceCommandsLandAndComplete : Prop :=
  (
    (∀ (d : Dev) (m : Master) (s cmd reason : Nat), (d.sliceRefuse m s cmd reason).regs = d.regs ∧ (d.sliceRefuse m s cmd reason).mem = d.mem ∧
      (d.sliceRefuse m s cmd reason).slices = d.slices ∧ d.raised (d.sliceRefuse m s cmd reason) fun r => r.code = 0xC002 ∧ r.object = BitVec.ofNat 32 s) ∧
    (∀ (m : Master) (i : SliceIx) (drain : BitVec 16) (s : State), s.admits m →
      let st := s.dev.sliceState i
      let x := s.dev.sli i
      let drains := fun e => Runs (.sliceResetDrain m i drain) s (· = e)
      let squashes := fun e => Runs (.sliceResetSquash m i) s (· = e)
      (s.dev.sliceMay m i 1 = false → drains (s.dev.sliceRefuse m i 1 1) ∧ squashes (s.dev.sliceRefuse m i 2 1)) ∧
      (s.dev.sliceMay m i 1 = true → st = 0 → drains (s.dev.sliceRefuse m i 1 4) ∧ squashes (s.dev.sliceRefuse m i 2 4)) ∧
      (s.dev.sliceMay m i 1 = true → st ≠ 0 → s.dev.servesCell i = true → drains (s.dev.sliceRefuse m i 1 3) ∧ squashes (s.dev.sliceRefuse m i 2 3)) ∧
      (s.dev.sliceMay m i 1 = true → st ≠ 0 → s.dev.servesCell i = false →
        (st = 2 → drains s.dev ∧ (s.dev.getB (Reg.SLICE_STATUS i) F.SLICE_STATUS_MODE = true → squashes s.dev) ∧
          (s.dev.getB (Reg.SLICE_STATUS i) F.SLICE_STATUS_MODE = false → squashes (s.dev.setSli i { x with cmd := 2 }))) ∧
        (st ≠ 2 → x.cmd = 0 ∨ 3 ≤ x.cmd → drains (s.dev.setSli i { x with cmd := 1, drain := drain.toNat }) ∧ squashes (s.dev.setSli i { x with cmd := 2, drain := 0 })))) ∧
    (∀ (m : Master) (i : SliceIx) (s : State), s.admits m →
      let st := s.dev.sliceState i
      let idle := (s.dev.sli i).cmd = 0 ∧ (s.dev.sli i).ready = false
      (m ≠ hostDriver → Runs (.sliceFreeze m i) s (· = s.dev.sliceRefuse m i 3 1) ∧ Runs (.sliceRestore m i) s (· = s.dev.sliceRefuse m i 4 1) ∧
        Runs (.sliceRelease m i) s (· = s.dev.sliceRefuse m i 5 1)) ∧
      (m = hostDriver → st = 0 → Runs (.sliceFreeze m i) s (· = s.dev.sliceRefuse m i 3 4) ∧ Runs (.sliceRestore m i) s (· = s.dev.sliceRefuse m i 4 4) ∧
        Runs (.sliceRelease m i) s (· = s.dev.sliceRefuse m i 5 4)) ∧
      (m = hostDriver → st ≠ 0 → i.val = 0 → Runs (.sliceFreeze m i) s (· = s.dev.sliceRefuse m i 3 3)) ∧
      (m = hostDriver → st ≠ 0 → i.val ≠ 0 → (st = 1 ∨ st = 4) → idle → Runs (.sliceFreeze m i) s (· = s.dev.setSli i { s.dev.sli i with cmd := 3 })) ∧
      (m = hostDriver → st = 1 → idle → Runs (.sliceRestore m i) s (· = (s.dev.setSliceState i 5).setSli i SliceState.init)) ∧
      (m = hostDriver → st = 4 → idle → Runs (.sliceRelease m i) s (· = s.dev.setSli i { s.dev.sli i with cmd := 5 })) ∧
      (m = hostDriver → st = 2 ∨ st = 3 ∨ st = 5 → (i.val ≠ 0 → Runs (.sliceFreeze m i) s (· = s.dev.sliceRefuse m i 3 2)) ∧
        Runs (.sliceRestore m i) s (· = s.dev.sliceRefuse m i 4 2) ∧ Runs (.sliceRelease m i) s (· = s.dev.sliceRefuse m i 5 2)))) ∧
  (
    (∀ (i : SliceIx) (s : State), s.on → s.dev.canon →
      let x := s.dev.sli i
      let may := (s.dev.sliceState i = 3 ∨ s.dev.sliceState i = 4) ∧ x.ready = true ∧ ∀ w ∈ s.dev.hostWrites, w.id ∉ x.writes
      let res := if x.len = 0 then 2 else 0
      (¬ may → Runs (.sliceFreezeComplete i) s (· = s.dev)) ∧
      (may → Runs (.sliceFreezeComplete i) s fun e => e.sliceState i = 4 ∧ e.getF (Reg.SLICE_STATUS i) F.SLICE_STATUS_LAST_RESULT = res ∧
        e.getF (Reg.SLICE_IMAGE_LEN i) F.SLICE_IMAGE_LEN_LEN = x.len % 2 ^ 32 ∧ e.mem = s.dev.mem ∧ e.sli i = { x with ready := false, writes := [], len := 0 } ∧
        s.dev.sameRegs e (fun a => a = Reg.SLICE_STATUS i ∨ a = Reg.SLICE_IMAGE_LEN i) ∧ s.dev.raised e fun r => r.code = 0xC003 ∧ r.object = BitVec.ofNat 32 i)) ∧
    (∀ (i : SliceIx) (l : Bytes) (how : FetchEnd) (s : State), s.on → s.dev.canon →
      (s.dev.sliceState i ≠ 5 ∨ (s.dev.sli i).image ≠ none → Runs (.sliceImageFetchDone i l how) s (· = s.dev)) ∧
      (s.dev.sliceState i = 5 → (s.dev.sli i).image = none → how ≠ .ok → Runs (.sliceImageFetchDone i l how) s fun e => e.sliceState i = 1 ∧
        e.getF (Reg.SLICE_STATUS i) F.SLICE_STATUS_LAST_RESULT = 0x11 ∧ e.slices = s.dev.slices ∧ ∃ r ∈ e.ev.arisen, r.code = 0xC005 ∧ r.object = BitVec.ofNat 32 i) ∧
      (s.dev.sliceState i = 5 → (s.dev.sli i).image = none → how = .ok → leAt l 8 4 ≤ s.dev.getF (Reg.SLICE_IMAGE_LEN i) F.SLICE_IMAGE_LEN_MAX →
        s.dev.imageCheck i l = none → Runs (.sliceImageFetchDone i l how) s fun e => e.sli i = { s.dev.sli i with image := some l } ∧ e.regs = s.dev.regs ∧ e.mem = s.dev.mem)) ∧
    (∀ (i : SliceIx) (s : State), s.on → s.dev.canon →
      ((s.dev.sli i).ready = false ∨ (s.dev.sli i).image = none → Runs (.sliceRestoreInstall i) s (· = s.dev)) ∧
      (∀ l, (s.dev.sli i).ready = true → (s.dev.sli i).image = some l → Runs (.sliceRestoreInstall i) s fun e => e.sliceState i = 1 ∧ e.sli i = SliceState.init ∧
        e.getF (Reg.SLICE_STATUS i) F.SLICE_STATUS_LAST_RESULT = 0 ∧ ∃ r ∈ e.ev.arisen, r.code = 0xC004 ∧ r.object = BitVec.ofNat 32 i)) ∧
    (∀ (i : SliceIx) (s : State), s.on → s.dev.canon →
      (s.dev.sliceState i ≠ 2 ∨ (s.dev.sli i).ready = false → Runs (.sliceResetComplete i) s (· = s.dev)) ∧
      (s.dev.sliceState i = 2 → (s.dev.sli i).ready = true → Runs (.sliceResetComplete i) s fun e => e.sliceState i = 1 ∧ e.sli i = SliceState.init ∧
        e.reg (Reg.SLICE_EV_PTR i) = 0#64 ∧ e.reg (Reg.SLICE_EV_DISCARD i) = 0#64 ∧ ∃ r ∈ e.ev.arisen, r.code = 0xC001 ∧ r.object = BitVec.ofNat 32 i)))

/-- PEEL_DATA (R400). -/
def Obligations.OnlyTheOwnerUsesPeelData : Prop :=
  ∀ (m : Master) (n : PeelIx) (w : Fin 16) (v : Word) (s : State), s.admits m → s.dev.canon → m ≠ 0 →
    (s.dev.peelOwner n = m.toNat → Runs (.peelDataAccess m n w none) s (· = { s.dev with readOut := s.dev.reg (Reg.PEEL_DATA n w) }) ∧
      Runs (.peelDataAccess m n w (some v)) s fun e => e.reg (Reg.PEEL_DATA n w) = v ∧ s.dev.sameRegs e (· = Reg.PEEL_DATA n w) ∧ e.mem = s.dev.mem ∧ e.ev = s.dev.ev) ∧
    (s.dev.peelOwner n ≠ m.toNat → Runs (.peelDataAccess m n w none) s (· = { s.dev with readOut := 0#64 }) ∧
      Runs (.peelDataAccess m n w (some v)) s fun e => e.regs = s.dev.regs ∧ e.mem = s.dev.mem ∧
        s.dev.raised e fun r => r.code = 0xB010 ∧ r.object = BitVec.ofNat 32 n ∧ r.detail.toNat % 2 ^ 8 = 2)

/-- Unbound PASIDs (R409). -/
def Obligations.UnboundPasidsReadZero : Prop :=
  ∀ (pasid : BitVec 20) (off : Nat) (wr : Bool) (s : State), s.admits hostDriver → s.dev.canon →
    (∀ i < 64, s.dev.sliceOn i = true → s.dev.getF (Reg.SLICE_CFG i) F.SLICE_CFG_PASID ≠ pasid.toNat) → Runs (.unboundPasidAccess pasid off wr) s fun e =>
      (wr = false → e.readOut = 0#64) ∧
      (s.dev.getF Reg.SLICE_UNBOUND F.SLICE_UNBOUND_COUNT < 2 ^ 32 - 1 → e.getF Reg.SLICE_UNBOUND F.SLICE_UNBOUND_COUNT = s.dev.getF Reg.SLICE_UNBOUND F.SLICE_UNBOUND_COUNT + 1) ∧
      s.dev.sameRegs e (· = Reg.SLICE_UNBOUND) ∧ (s.dev.raised e fun r => r.code = 0xC006 ∧ r.object = pasid.setWidth 32) ∧
      e = { s.dev with regs := e.regs, readOut := e.readOut, ev := e.ev }

/-- Line errors (R433, R435, R436, R437, Table 18.1). -/
def Obligations.LineErrorsAreCountedRepairedTestedAndScrubbed : Prop :=
  (
    (∀ (place : Nat) (rd : Fin 8) (sl : SliceIx) (s : State), s.on → s.dev.canon →
      let b := blockOf (place / 64 * 64)
      let r := Reg.INTEG_BUCKET b.1 b.2.1
      let v := s.dev.getF r F.INTEG_BUCKET_LEVEL
      let n := s.dev.getF Reg.INTEG_CORRECTED F.INTEG_CORRECTED_COUNT
      (s.dev.bad (place / 64) = false → Runs (.lineRefetch place rd sl) s fun e =>
        (n < 2 ^ 48 - 1 → e.getF Reg.INTEG_CORRECTED F.INTEG_CORRECTED_COUNT = n + 1) ∧
        (n = 2 ^ 48 - 1 → e.getF Reg.INTEG_CORRECTED F.INTEG_CORRECTED_COUNT = n ∧ e.getB Reg.INTEG_CORRECTED F.INTEG_CORRECTED_OVF = true) ∧
        (v < 255 → e.getF r F.INTEG_BUCKET_LEVEL = v + 1 ∧ e.getB r F.INTEG_BUCKET_FULL = s.dev.getB r F.INTEG_BUCKET_FULL) ∧
        (v = 255 → s.dev.getB r F.INTEG_BUCKET_FULL = false → e.getF r F.INTEG_BUCKET_LEVEL = 255 ∧ e.getB r F.INTEG_BUCKET_FULL = true ∧
          ∃ q ∈ e.ev.arisen, q.code = 0x5002 ∧ q.unit = b.2.2 ∧ q.object = BitVec.ofNat 32 b.2.1) ∧
        (v = 255 → s.dev.getB r F.INTEG_BUCKET_FULL = true → e.reg r = s.dev.reg r) ∧
        s.dev.sameRegs e (fun a => a = r ∨ a = Reg.INTEG_CORRECTED) ∧ e.mem = s.dev.mem ∧ e.lineErr = s.dev.lineErr ∧ e.written = s.dev.written) ∧
      (b.1 < 6 → s.dev.bad (place / 64) = true → Runs (.lineRefetch place rd sl) s fun e =>
        (s.dev.getF r F.INTEG_BUCKET_UNRESOLVED < 2 ^ 16 - 1 → e.getF r F.INTEG_BUCKET_UNRESOLVED = s.dev.getF r F.INTEG_BUCKET_UNRESOLVED + 1) ∧
        (∃ q ∈ e.ev.arisen, q.code = 0x5001 ∧ q.unit = b.2.2) ∧
        ∀ a, a < reserveBase b.1 ∨ reserveBase b.1 + 2 ^ 28 ≤ a → e.byte a = s.dev.byte a)) ∧
    (∀ (t : Tile) (page : Bytes) (s : State), s.on → s.dev.canon →
      let x := s.dev.tier t
      (x.repair = [] → Runs (.pageRepairDone t page) s (· = s.dev)) ∧
      (∀ i p rest, x.repair = (i, p) :: rest → (s.dev.obj t i).homeTier ≠ 2 → page.length ≠ 4096 →
        Runs (.pageRepairDone t page) s (· = s.dev)) ∧
      (∀ i p rest, x.repair = (i, p) :: rest → (s.dev.obj t i).homeTier = 2 ∨ page.length = 4096 → (s.dev.obj t i).state ≠ 2 →
        Runs (.pageRepairDone t page) s (· = s.dev.setTier t { x with repair := rest })) ∧
      (∀ i p rest a, x.repair = (i, p) :: rest → (s.dev.obj t i).state = 2 → s.dev.place (s.dev.obj t i).curAddr = some a →
        let home := (s.dev.obj t i).homeAddr + 4096 * p
        let own := (s.dev.obj t i).homeTier = 2
        (own ∧ s.dev.firstBad home 4096 = none) ∨ (¬ own ∧ page.length = 4096) →
        Runs (.pageRepairDone t page) s fun e => (e.tier t).repair = rest ∧
          (∃ r ∈ e.ev.arisen, r.code = 0x5003 ∧ r.unit = tierUnit t) ∧
          (a + 4096 * p + 4096 ≤ reserveBase t ∨ reserveBase t + 64 * i + 64 ≤ a + 4096 * p → ∀ k < 4096, e.byte (a + 4096 * p + k) =
            if (s.dev.obj t i).homeTier = 2 then s.dev.byte (home + k) else page.getD k 0)))) ∧
  (
    (∀ (m : Master) (s : State), s.admits m → s.dev.canon →
      let a := s.dev.getF Reg.INTEG_TEST_ADDR F.INTEG_TEST_ADDR_ADDR * 64
      (m ≠ hostDriver ∨ inReserve a = true ∨ s.dev.place a = none →
        let no := fun e => e.reg Reg.INTEG_TEST_RESULT = 3#64 ∧ s.dev.sameRegs e (· = Reg.INTEG_TEST_RESULT) ∧ s.dev.sameStores e ∧
          s.dev.raised e fun r => r.code = 0x5008 ∧ r.object = BitVec.ofNat 32 (a / 64)
        Runs (.testRawWrite m) s no ∧ Runs (.testRawRead m) s no) ∧
      (∀ p, m = hostDriver → inReserve a = false → s.dev.place a = some p →
        (Runs (.testRawWrite m) s fun e => e.reg Reg.INTEG_TEST_RESULT = 1#64 ∧ s.dev.sameRegs e (· = Reg.INTEG_TEST_RESULT) ∧ e.ev = s.dev.ev ∧
          e.bytes p 64 = s.dev.testData ∧ look false e.written (p / 64) = true ∧
          (e.errOf (p / 64)) ^^^ lineCheck s.dev.testData = BitVec.ofNat 16 (s.dev.getF Reg.INTEG_TEST_CHECK F.INTEG_TEST_CHECK_CHECK) ∧
          (∀ b, b < p ∨ p + 64 ≤ b → e.byte b = s.dev.byte b) ∧ ∀ l, l ≠ p / 64 → e.errOf l = s.dev.errOf l) ∧
        Runs (.testRawRead m) s fun e => s.dev.sameStores e ∧ e.ev = s.dev.ev ∧
          (∀ w : Fin 8, e.reg (Reg.INTEG_TEST_DATA w) = BitVec.ofNat 64 (leAt (s.dev.bytes p 64) (8 * w) 8)) ∧
          e.getF Reg.INTEG_TEST_RESULT F.INTEG_TEST_RESULT_DONE = 1 ∧ e.getF Reg.INTEG_TEST_RESULT F.INTEG_TEST_RESULT_REFUSED = 0 ∧
          e.getF Reg.INTEG_TEST_RESULT F.INTEG_TEST_RESULT_STORED = (lineCheck (s.dev.bytes p 64) ^^^ s.dev.errOf (p / 64)).toNat ∧
          e.getF Reg.INTEG_TEST_RESULT F.INTEG_TEST_RESULT_COMPUTED = (lineCheck (s.dev.bytes p 64)).toNat ∧
          s.dev.sameRegs e fun x => x = Reg.INTEG_TEST_RESULT ∨ ∃ w : Fin 8, x = Reg.INTEG_TEST_DATA w)) ∧
    (∀ (t : Tile) (b : Fin 113) (s : State), s.on → s.dev.canon →
      let at_ := look (0, 0) s.dev.integ.cursor (128 * t.val + b.val)
      let d := s.dev.advance (at_.2 - (s.dev.tile t).lk)
      (s.dev.paused t = true → Runs (.scrubRead t b) s (· = s.dev)) ∧
      (s.dev.paused t = false → d.windowAt t (scrubUnit b) (d.tile t).pos = none → Runs (.scrubRead t b) s (· = s.dev)) ∧
      (∀ w, s.dev.paused t = false → d.windowAt t (scrubUnit b) (d.tile t).pos = some w →
        (w.kind ≠ 3 ∨ w.sub ≠ 1 ∨ w.stop < (d.tile t).pos + (scrubStep b).2 → Runs (.scrubRead t b) s (· = s.dev)) ∧
        (w.kind = 3 → w.sub = 1 → (d.tile t).pos + (scrubStep b).2 ≤ w.stop →
          (∀ i < (scrubStep b).1, s.dev.bad (scrubPlace t b ((at_.1 + i) % scrubLines b) / 64) = false) → Runs (.scrubRead t b) s fun e =>
            e.integ.cursor = store (0, 0) s.dev.integ.cursor (128 * t.val + b.val) ((at_.1 + (scrubStep b).1) % scrubLines b, (d.tile t).lk + (scrubStep b).2) ∧
            e.mem = s.dev.mem ∧ e.lineErr = s.dev.lineErr ∧ e.written = s.dev.written ∧ s.dev.sameRegs e fun a => lagReg a ∨ a = Reg.INTEG_SCRUB t))))

/-- Heartbeats and fences (R461 to R463, R468, Table 20.1). -/
def Obligations.HeartbeatsAreSentJudgedAndMissed : Prop :=
  (
    (∀ d : Dev, d.heartbeat.length = 64 ∧ leAt d.heartbeat 0 4 = d.membEpoch ∧ leAt d.heartbeat 4 8 = d.tickNo % 2 ^ 64 ∧ leAt d.heartbeat 12 2 = d.braidNode ∧
      leAt d.heartbeat 21 1 = 0) ∧
    (∀ (s : State), s.on →
      (s.dev.joined = false ∨ s.dev.memb.hbTick = s.dev.tickNo + 1 → Runs .heartbeatSend s (· = s.dev)) ∧
      (s.dev.joined = true → s.dev.memb.hbTick ≠ s.dev.tickNo + 1 →
        let d := s.dev.advanceTo (s.dev.tickNo * s.dev.tickU + s.dev.hbOffset * 5)
        Runs .heartbeatSend s fun e => e.memb = { s.dev.memb with hbTick := d.tickNo + 1 } ∧ e.mem = s.dev.mem ∧ e.regs = d.regs ∧ e.ev = s.dev.ev ∧
          e.braid.outbox = s.dev.braid.outbox ++ d.watchSet.map fun n => leBytes 16 (d.hdrBase 12 n) ++ d.heartbeat)) ∧
    (∀ (s : State), s.on → s.dev.takeMemb 0 = none → Runs .heartbeatArrive s (· = s.dev)) ∧
    (∀ (s : State) (p : Bytes) (d : Dev), s.on → s.dev.takeMemb 0 = some (p, d) →
      let n := leAt p 28 2
      let T := leAt p 20 8
      let x := s.dev.peer n
      (s.dev.stale p = true → Runs .heartbeatArrive s (· = d.braidCount Reg.BRAID_STALE_DROP 1)) ∧
      (s.dev.stale p = false → s.dev.joined = false ∨ n ∉ s.dev.watchSet → Runs .heartbeatArrive s (· = d)) ∧
      (s.dev.stale p = false → s.dev.joined = true → n ∈ s.dev.watchSet → T = s.dev.tickNo → s.dev.now ≤ T * s.dev.tickU + (s.dev.hbOffset + s.dev.hbGrace) * 5 →
        Runs .heartbeatArrive s fun e => e.memb.peers = store Peer.init s.dev.memb.peers n { x with last := T, got := T + 1, suspect := false, misses := 0 } ∧
          (x.suspect = true → ∃ r ∈ e.ev.arisen, r.code = 0xD002 ∧ r.object = BitVec.ofNat 32 n) ∧ e.mem = s.dev.mem))) ∧
  (
    (∀ (d : Dev) (T n : Nat), let x := d.peer n
      (x.got = T + 1 → Dev.peerDue T d n = d) ∧
      (x.got ≠ T + 1 → let m := min 255 (x.misses + 1)
        (Dev.peerDue T d n).memb.peers = store Peer.init d.memb.peers n { x with misses := m, suspect := x.suspect || decide (2 ≤ m) } ∧
        (Dev.peerDue T d n).mem = d.mem ∧
        (2 ≤ m → x.suspect = false → d.raised (Dev.peerDue T d n) fun r => r.code = 0xD001 ∧ r.object = BitVec.ofNat 32 n ∧ r.detail.toNat % 2 ^ 8 = m) ∧
        (m < 2 ∨ x.suspect = true → (Dev.peerDue T d n).ev = d.ev))) ∧
    (∀ (s : State), s.on →
      let T := s.dev.tickNo
      (s.dev.joined = false ∨ s.dev.memb.dueTick = T + 1 → Runs .heartbeatDue s (· = s.dev)) ∧
      (s.dev.joined = true → s.dev.memb.dueTick ≠ T + 1 →
        let d := s.dev.advanceTo (T * s.dev.tickU + (s.dev.hbOffset + s.dev.hbGrace) * 5)
        let all := d.watchSet ≠ [] ∧ ∀ n ∈ d.watchSet, (s.dev.peer n).got ≠ T + 1
        Runs .heartbeatDue s fun e => e.memb.dueTick = T + 1 ∧ e.memb.peers = (d.watchSet.foldl (Dev.peerDue T) d).memb.peers ∧ e.mem = s.dev.mem ∧
          (¬ all → e.memb.isol = 0 ∧ e.memb.fencing = s.dev.memb.fencing ∧ e.memb.colls = s.dev.memb.colls) ∧
          (all → e.memb.isol = s.dev.memb.isol + 1 ∧ (s.dev.memb.isol + 1 < leAt s.dev.memb.record 19 1 → e.memb.fencing = s.dev.memb.fencing) ∧
            (leAt s.dev.memb.record 19 1 ≤ s.dev.memb.isol + 1 → s.dev.memb.fencing = 0 → e.memb.fencing = 2)))) ∧
    (∀ (m : Master) (s : State), s.admits m →
      (m ≠ hostDriver → Runs (.hostFence m) s (· = s.dev)) ∧
      (m = hostDriver → Runs (.hostFence m) s fun e => e.memb.fencing = 3 ∧ e.regs = s.dev.regs ∧ e.mem = s.dev.mem ∧ e.ev = s.dev.ev)) ∧
    (∀ (s : State), s.on → s.dev.canon →
      (s.dev.memb.fencing ≠ 2 ∨ s.dev.tickNo < s.dev.memb.dueTick → Runs .isolationFence s (· = s.dev)) ∧
      (s.dev.memb.fencing = 2 → s.dev.memb.dueTick ≤ s.dev.tickNo → Runs .isolationFence s fun e => e.membState = 4 ∧
        e.getF Reg.MEMB_STATUS F.MEMB_STATUS_FENCE_CAUSE = 2 ∧ e.memb.fencing = 0 ∧ ∃ r ∈ e.ev.arisen, r.code = 0xD006)))

/-- Epochs, collectives and shadowing (R465 to R467, R471 to R473, R476, R477). -/
def Obligations.EpochRecordsCollectivesAndShadowing : Prop :=
  (
    (∀ (m : Master) (s : State), s.admits m → s.dev.canon →
      (m ≠ hostDriver → Runs (.epochStage m) s (· = s.dev) ∧ Runs (.epochStageForce m) s (· = s.dev) ∧ Runs (.epochDiscard m) s (· = s.dev)) ∧
      (m = hostDriver → Runs (.epochStage m) s (· = { s.dev with memb := { s.dev.memb with fetch := some false } }) ∧
        Runs (.epochStageForce m) s (· = { s.dev with memb := { s.dev.memb with fetch := some true } }) ∧
        Runs (.epochDiscard m) s fun e => e.memb = { s.dev.memb with staged := [], force := false, counted := false } ∧
          e.getB Reg.MEMB_STATUS F.MEMB_STATUS_STAGED = false ∧ s.dev.sameRegs e (· = Reg.MEMB_STATUS) ∧ e.mem = s.dev.mem)) ∧
    (∀ (r : Bytes) (how : FetchEnd) (s : State), s.on → s.dev.canon →
      (s.dev.memb.fetch = none → Runs (.epochRecordCheck r how) s (· = s.dev)) ∧
      (∀ f, s.dev.memb.fetch = some f → how = .ok → s.dev.recordCheck r f = none → Runs (.epochRecordCheck r how) s fun e =>
        e.memb = { s.dev.memb with fetch := none, staged := r, force := f, counted := false } ∧ e.getB Reg.MEMB_STATUS F.MEMB_STATUS_STAGED = true ∧
        s.dev.sameRegs e (· = Reg.MEMB_STATUS) ∧ e.mem = s.dev.mem ∧ s.dev.raised e fun x => x.code = 0xD003 ∧ x.detail = BitVec.ofNat 64 (leAt r 8 8)) ∧
      (∀ f n, s.dev.memb.fetch = some f → (how ≠ .ok ∧ n = 1) ∨ (how = .ok ∧ s.dev.recordCheck r f = some n) → Runs (.epochRecordCheck r how) s fun e =>
        e.memb = { s.dev.memb with fetch := none } ∧ e.getF Reg.MEMB_STATUS F.MEMB_STATUS_LAST_REASON = n % 256 ∧ e.mem = s.dev.mem ∧
        ∃ x ∈ e.ev.arisen, x.code = 0xD004 ∧ x.detail = BitVec.ofNat 64 n)) ∧
    (∀ (s : State), s.on → s.dev.canon →
      let r := s.dev.memb.staged
      (r = [] ∨ s.dev.tickNo < leAt r 8 8 → Runs .epochInstall s (· = s.dev)) ∧
      (r ≠ [] → leAt r 8 8 ≤ s.dev.tickNo → s.dev.memb.counted = false → Runs .epochInstall s fun e => e.memb.staged = [] ∧
        e.getF Reg.MEMB_STATUS F.MEMB_STATUS_LAST_REASON = 5 ∧ e.getB Reg.MEMB_STATUS F.MEMB_STATUS_STAGED = false ∧
        s.dev.raised e fun x => x.code = 0xD004 ∧ x.detail = 5) ∧
      (∀ i, r ≠ [] → leAt r 8 8 ≤ s.dev.tickNo → s.dev.memb.counted = true → memberOf r s.dev.braidNode = some i → s.dev.memb.force = true ∨ s.dev.joined = true →
        (∀ j < leAt r 16 2, memberAt r j 2 2 ≤ 4095 ∨ memberAt r j 2 2 = 0xFFFF) →
        Runs .epochInstall s fun e => e.membEpoch = leAt r 4 4 ∧ e.reg Reg.MEMB_INSTALLED = BitVec.ofNat 64 (leAt r 8 8) ∧
          e.membState = (memberAt r i 4 1 + 1) % 8 ∧ e.memb.record = r ∧ e.memb.staged = [] ∧ (s.dev.braid.ops = [] → e.mem = s.dev.mem) ∧
          ∃ x ∈ e.ev.arisen, x.code = 0xD005 ∧ x.object = BitVec.ofNat 32 (leAt r 4 4)) ∧
      (r ≠ [] → leAt r 8 8 ≤ s.dev.tickNo → s.dev.memb.counted = true → memberOf r s.dev.braidNode = none → Runs .epochInstall s fun e => e.membState = 4 ∧
        e.getF Reg.MEMB_STATUS F.MEMB_STATUS_FENCE_CAUSE = 1 ∧ e.memb.staged = [] ∧ ∃ x ∈ e.ev.arisen, x.code = 0xD006))) ∧
  (
    (∀ (m : Master) (i : SliceIx) (id : BitVec 32) (l : Bytes) (how : FetchEnd) (s : State), s.admits m → s.dev.canon →
      let n := s.dev.getF (Reg.MEMB_COLL_N i) F.MEMB_COLL_N_N
      (m ≠ hostDriver ∨ how = .error ∨ (how = .ok ∧ l.length ≠ 2 * n) → Runs (.collectiveDeclare m i id l how) s (· = s.dev)) ∧
      (m = hostDriver → how = .translation → Runs (.collectiveDeclare m i id l how) s
        (· = s.dev.atsFault none (s.dev.getF (Reg.MEMB_COLL_LIST i) F.MEMB_COLL_LIST_ADDR * 64))) ∧
      (m = hostDriver → how = .ok → l.length = 2 * n → Runs (.collectiveDeclare m i id l how) s fun e => e.collective i = true ∧
        e.getF (Reg.MEMB_COLL i) F.MEMB_COLL_COLL_ID = id.toNat ∧ e.memb.colls = store ⟨[], []⟩ s.dev.memb.colls i ⟨(List.range n).map fun j => leAt l (2 * j) 2, []⟩ ∧
        s.dev.sameRegs e (· = Reg.MEMB_COLL i) ∧ e.mem = s.dev.mem ∧ e.ev = s.dev.ev) ∧
      (m = hostDriver → s.dev.collective i = true → Runs (.collectiveHostAbort m i) s fun e => e.regs = s.dev.regs ∧ e.mem = s.dev.mem ∧
        let c := look ⟨[], []⟩ s.dev.memb.colls i
        e.memb.colls = store ⟨[], []⟩ s.dev.memb.colls i { c with triggers := c.triggers ++ [(5, s.dev.tickNo, s.dev.braidNode)] } ∧
        e.memb.notices = s.dev.memb.notices ++ (c.nodes.filter (· != s.dev.braidNode)).map fun k => (k, s.dev.getF (Reg.MEMB_COLL i) F.MEMB_COLL_COLL_ID, s.dev.tickNo, 5)) ∧
      (m ≠ hostDriver ∨ s.dev.collective i = false → Runs (.collectiveHostAbort m i) s (· = s.dev))) ∧
    (∀ (s : State), s.on → s.dev.takeMemb 1 = none → Runs .abortNoticeArrive s (· = s.dev)) ∧
    (∀ (s : State) (p : Bytes) (d : Dev), s.on → s.dev.takeMemb 1 = some (p, d) →
      let from_ := leAt p 28 2
      (s.dev.stale p = true → Runs .abortNoticeArrive s (· = d.braidCount Reg.BRAID_STALE_DROP 1)) ∧
      (∀ i, s.dev.stale p = false → s.dev.collById (leAt p 40 4) = some i → from_ ∈ (look ⟨[], []⟩ s.dev.memb.colls i).nodes →
        Runs .abortNoticeArrive s (· = d.trigger i 6 (leAt p 20 8) (leAt p 30 2))) ∧
      (s.dev.stale p = false → (∀ i, s.dev.collById (leAt p 40 4) = some i → from_ ∉ (look ⟨[], []⟩ s.dev.memb.colls i).nodes) →
        Runs .abortNoticeArrive s (· = d.count Reg.MEMB_NOTICE_IGNORED F.MEMB_NOTICE_IGNORED_COUNT 1))) ∧
    (∀ (s : State), s.on → Runs .abortNoticeSend s fun e => e.memb = { s.dev.memb with notices := [] } ∧ e.regs = s.dev.regs ∧ e.mem = s.dev.mem ∧ e.ev = s.dev.ev ∧
      e.braid.outbox.length = s.dev.braid.outbox.length + s.dev.memb.notices.length ∧ ∀ n ∈ s.dev.memb.notices, ∃ p ∈ e.braid.outbox,
        p.length = 80 ∧ leAt p 16 4 = s.dev.membEpoch ∧ leAt p 20 8 = n.2.2.1 % 2 ^ 64 ∧ leAt p 32 1 = n.2.2.2 % 2 ^ 8 ∧ leAt p 37 1 = 1 ∧ leAt p 40 4 = n.2.1 % 2 ^ 32) ∧
    (∀ (m : Master) (v : Word) (s : State), s.admits m → s.dev.canon →
      (m ≠ hostDriver → Runs (.shadowSet m v) s (· = s.dev)) ∧
      (m = hostDriver → Runs (.shadowSet m v) s fun e => e.memb = { s.dev.memb with chain := [], count := 0, hist := [], since := s.dev.tickNo, lastCmp := 0 } ∧
        e.reg Reg.MEMB_SHADOW_COMPARED = 0#64 ∧ e.getF Reg.MEMB_SHADOW_STATUS F.MEMB_SHADOW_STATUS_RESULT = (if e.shadowOn then 1 else 0) ∧
        e.getF Reg.MEMB_SHADOW_STATUS F.MEMB_SHADOW_STATUS_MIN_COMPARE = s.dev.getF Reg.MEMB_SHADOW_STATUS F.MEMB_SHADOW_STATUS_MIN_COMPARE ∧
        e.mem = s.dev.mem ∧ e.ev = s.dev.ev ∧
        s.dev.sameRegs e fun a => a = Reg.MEMB_SHADOW ∨ a = Reg.MEMB_SHADOW_COMPARED ∨ a = Reg.MEMB_SHADOW_STATUS)) ∧
    (∀ (s : State), s.on → s.dev.canon →
      let due := s.dev.getF Reg.MEMB_SHADOW_STATUS F.MEMB_SHADOW_STATUS_RESULT = 1 ∧ s.dev.memb.since + s.dev.getF Reg.MEMB_SHADOW F.MEMB_SHADOW_QUAL_TICKS ≤ s.dev.tickNo ∧
        s.dev.getF Reg.MEMB_SHADOW_STATUS F.MEMB_SHADOW_STATUS_MIN_COMPARE ≤ s.dev.getF Reg.MEMB_SHADOW_COMPARED F.MEMB_SHADOW_COMPARED_COUNT
      (¬ due → Runs .shadowQualify s (· = s.dev)) ∧
      (due → Runs .shadowQualify s fun e => e.getF Reg.MEMB_SHADOW_STATUS F.MEMB_SHADOW_STATUS_RESULT = 2 ∧ s.dev.sameRegs e (· = Reg.MEMB_SHADOW_STATUS) ∧
        e.mem = s.dev.mem ∧ e.memb = s.dev.memb ∧ s.dev.raised e fun r => r.code = 0xD008 ∧ r.object = BitVec.ofNat 32 s.dev.otherSide)))

/-- Host attachment (R482, R483, R485, R486, R491 to R493, R508, R510, R516). -/
def Obligations.LinkDecoderVectorsRingAndMailbox : Prop :=
  (
    (∀ (width : Nat) (fast lopt flit : Bool) (proto : BitVec 3) (s : State), s.on → s.dev.canon →
      let p := if flit = true ∧ proto = 7#3 then 7 else 1
      let shows := fun (e : Dev) => e.getF Reg.CXL_LINK F.CXL_LINK_WIDTH = width % 32 ∧ e.getF Reg.CXL_LINK F.CXL_LINK_RATE = (if fast then 2 else 1) ∧
        e.getB Reg.CXL_LINK F.CXL_LINK_LOPT = lopt ∧ s.dev.sameRegs e (· = Reg.CXL_LINK) ∧ e.mem = s.dev.mem
      (Runs (.cxlLinkTrained width fast lopt flit proto) s fun e => shows e ∧ e.getF Reg.CXL_LINK F.CXL_LINK_PROTO = p ∧ (p = 7 → e.ev = s.dev.ev) ∧
        (p = 1 → s.dev.raised e fun r => r.code = 0xE0C2 ∧ r.object = 1#32)) ∧
      (s.dev.getF Reg.CXL_LINK F.CXL_LINK_PROTO = 0 → Runs (.cxlLinkDegraded width fast lopt) s (· = s.dev)) ∧
      (s.dev.getF Reg.CXL_LINK F.CXL_LINK_PROTO ≠ 0 → Runs (.cxlLinkDegraded width fast lopt) s fun e => shows e ∧
        e.getF Reg.CXL_LINK F.CXL_LINK_PROTO = s.dev.getF Reg.CXL_LINK F.CXL_LINK_PROTO ∧ s.dev.raised e fun r => r.code = 0xE0C1 ∧ r.object = BitVec.ofNat 32 width)) ∧
    (∀ (s : State), s.on → Runs .resetPin s (· = s.dev.deviceReset) ∧ Runs .cxlLinkReset s (· = s.dev.deviceReset)) ∧
    (∀ (p : Option (BitVec 20)) (a : Word) (n : Nat) (s : State), s.on →
      ((∀ w ∈ s.dev.hostWrites, s.dev.uses w (p.map (·.toNat)) a.toNat n = false) → Runs (.atsInvalidation p a n) s (· = { s.dev with sent := s.dev.sent ++ [.invalidationDone] })) ∧
      ((∃ w ∈ s.dev.hostWrites, s.dev.uses w (p.map (·.toNat)) a.toNat n = true) → Runs (.atsInvalidation p a n) s (· = s.dev))) ∧
    (∀ (base : Word) (size : Nat) (s : State), s.on → s.dev.canon →
      let good := s.dev.ideBlocked = false ∧ s.dev.recovery = false ∧ s.dev.getB Reg.CXL_HDM F.CXL_HDM_COMMITTED = false ∧ base.toNat % 2 ^ 28 = 0 ∧ size = dramSize
      (¬ good → Runs (.hdmCommit base size) s (· = s.dev)) ∧
      (good → Runs (.hdmCommit base size) s fun e => e.getB Reg.CXL_HDM F.CXL_HDM_COMMITTED = true ∧ s.dev.sameRegs e (· = Reg.CXL_HDM) ∧ e.mem = s.dev.mem ∧ e.ev = s.dev.ev ∧
        ∀ a, e.hdmDecode a = if base.toNat ≤ a ∧ a < base.toNat + dramSize then some (a - base.toNat) else none))) ∧
  (
    (∀ (v : Fin 2048) (s : State), s.on →
      let bar2 := s.dev.ioOnly = false ∧ s.dev.ideBlocked = false ∧ s.dev.recovery = false
      (¬ bar2 ∨ v.val ∈ s.dev.ev.unmasked → Runs (.msixUnmask v) s (· = s.dev)) ∧
      (bar2 → v.val ∉ s.dev.ev.unmasked → Runs (.msixUnmask v) s fun e =>
        e.ev = { s.dev.ev with unmasked := s.dev.ev.unmasked ++ [v.val], pendingBits := s.dev.ev.pendingBits.filter (· != v.val) } ∧ e.regs = s.dev.regs ∧
        (v.val ∈ s.dev.ev.pendingBits → e.sent = s.dev.sent ++ [.msix v]) ∧ (v.val ∉ s.dev.ev.pendingBits → e.sent = s.dev.sent))) ∧
    (∀ (m : Master) (v : Word) (s : State), s.admits m → s.dev.canon →
      let d := s.dev.rwWrite Reg.DEVICE_EV_RING v
      let addr := d.getF Reg.DEVICE_EV_RING F.DEVICE_EV_RING_ADDR
      (m ≠ hostDriver → Runs (.deviceRingAddressWrite m v) s (· = s.dev)) ∧
      (m = hostDriver → addr = 0 → Runs (.deviceRingAddressWrite m v) s (· = d)) ∧
      (m = hostDriver → addr ≠ 0 → Runs (.deviceRingAddressWrite m v) s fun e => e.ev.boot = [] ∧ e.ev.arisen = s.dev.ev.arisen ∧ e.mem = s.dev.mem ∧
        s.dev.sameRegs e (fun a => a = Reg.DEVICE_EV_RING ∨ a = Reg.DEVICE_EV_PTR ∨ a = Reg.DEVICE_EV_DISCARD) ∧
        ∀ r, s.dev.ev.boot = [r] → s.dev.getF Reg.DEVICE_EV_PTR F.SLICE_EV_PTR_HEAD = s.dev.getF Reg.DEVICE_EV_PTR F.SLICE_EV_PTR_TAIL →
          let at_ := s.dev.getF Reg.DEVICE_EV_PTR F.SLICE_EV_PTR_TAIL % 2 ^ d.getF Reg.DEVICE_EV_RING F.SLICE_EV_RING_LOG2
          e.hostWrites = s.dev.hostWrites ++ [⟨s.dev.hostNext, .event, devRing, addr * 4096 + at_ * 32,
            ({ r with lost := s.dev.ev.lostRings.contains devRing } : EventRec).bytes, 0⟩])) ∧
    (∀ (i : BitVec 8) (n : BitVec 16) (s : State), s.on →
      let st := s.dev.getF Reg.SEC_STATUS F.SEC_STATUS_STAGE
      let reply_ := fun l => { s.dev with sent := s.dev.sent ++ [.doe l] }
      (st = 0 → Runs (.doeDiscovery i) s (· = s.dev) ∧ Runs (.cdatRead n) s (· = s.dev)) ∧
      (st ≠ 0 → Runs (.doeDiscovery i) s (· = reply_ (match i.toNat with
        | 0 => [1, 0, 0, 1] | 1 => [1, 0, 1, 2] | 2 => [1, 0, 2, 3] | 3 => [0x98, 0x1E, 2, 0] | _ => []))) ∧
      (st = 2 → Runs (.cdatRead n) s (· = reply_ [])) ∧
      (st ≠ 0 → st ≠ 2 → Runs (.cdatRead n) s (· = reply_ (Config.cdatBytes (cdatEntry n.toNat))))))

/-- SPDM and IDE_KM (R494, R510 to R512, Table 22.6). -/
def Obligations.AttestationSessionsAndStreams : Prop :=
  (
    (∀ d : Dev, (d.measurement 1).length = 8 ∧ (d.measurement 2).length = 32 ∧ (d.measurement 3).length = 16 ∧ (d.measurement 4).length = 32 ∧ (d.measurement 5).length = 4 ∧
      (d.measurement 6).length = 32 ∧ (d.measurement 7).length = 16 ∧ leAt (d.measurement 1) 0 8 = (d.reg Reg.SEC_ROM).toNat ∧
      leAt (d.measurement 7) 0 8 = (d.reg Reg.RECIPE_ACTIVE_ID).toNat ∧ leAt (d.measurement 3) 8 4 = d.getF Reg.SEC_FW_INFO F.SEC_FW_INFO_SVN) ∧
    (∀ (c : Instr) (req : Bytes) (sl : BitVec 4) (off len : BitVec 16) (i : BitVec 8) (sg : Bool) (sid : BitVec 16) (key : Bytes) (id : BitVec 32) (s : State), s.on →
      c = .getVersion req ∨ c = .getCapabilities req ∨ c = .negotiateAlgorithms req ∨ c = .getDigests req ∨ c = .getCertificate sl off len req ∨ c = .challenge sl req ∨
        c = .getMeasurements i sg req ∨ c = .keyExchange sid key req ∨ c = .finish id sg ∨ c = .endSession id ∨ c = .spdmHeartbeat id ∨ c = .keyUpdate id sg ∨
        c = .chunkSend i off sg key ∨ c = .chunkGet i off ∨ c = .ideKmQuery id →
      (s.dev.secStage = 0 → Runs c s (· = s.dev)) ∧ (2 ≤ s.dev.secStage → Runs c s (· = { s.dev with sent := s.dev.sent ++ [.doe []] }))) ∧
    (∀ (req : Bytes) (sl : BitVec 4) (off len : BitVec 16) (i : BitVec 8) (sg : Bool) (s : State), s.on → s.dev.secStage = 1 →
      let d := s.dev.modSp fun x => { x with log := x.log ++ req }
      let early := s.dev.spdmError 0x04 0
      let l := (d.certChain.drop off.toNat).take len.toNat
      let ix := if i = 0xFF#8 then [1, 2, 3, 4, 5, 6, 7] else if i = 0#8 then [] else [i.toNat]
      (Runs (.getVersion req) s (· = (s.dev.modSp fun x => { x with spdm := 1, log := req }).answer 0x04 0 [0x13] [] [])) ∧
      (s.dev.sp.spdm < 1 → Runs (.getCapabilities req) s (· = early)) ∧
      (1 ≤ s.dev.sp.spdm → Runs (.getCapabilities req) s (· = (d.modSp fun x => { x with spdm := 2 }).answer 0x61 0 spdmSupport [] [])) ∧
      (s.dev.sp.spdm < 2 → Runs (.negotiateAlgorithms req) s (· = early)) ∧
      (2 ≤ s.dev.sp.spdm → Runs (.negotiateAlgorithms req) s (· = (d.modSp fun x => { x with spdm := 3 }).answer 0x63 0 [1, 2] [] [])) ∧
      (s.dev.sp.spdm < 3 → Runs (.getDigests req) s (· = early) ∧ Runs (.getCertificate sl off len req) s (· = early) ∧ Runs (.challenge sl req) s (· = early) ∧
        Runs (.getMeasurements i sg req) s (· = early)) ∧
      (3 ≤ s.dev.sp.spdm →
        (Runs (.getDigests req) s (· = d.answer 0x01 0 [1] (digestBytes (Config.sha3 d.certChain)) [])) ∧
        (sl ≠ 0#4 → Runs (.getCertificate sl off len req) s (· = d.spdmError 0x01 0) ∧ Runs (.challenge sl req) s (· = d.spdmError 0x01 0)) ∧
        (sl = 0#4 → Runs (.getCertificate sl off len req) s (· = d.answer 0x02 0 [l.length, d.certChain.length - off.toNat - l.length] l []) ∧
          Runs (.challenge sl req) s (· = d.answer 0x03 0 [] (digestBytes (Config.sha3 d.certChain)) (Config.mldsaSign d.sp.alias_ d.sp.log))) ∧
        (7 < i.toNat → i ≠ 0xFF#8 → Runs (.getMeasurements i sg req) s (· = d.spdmError 0x01 0)) ∧
        (i.toNat ≤ 7 ∨ i = 0xFF#8 → Runs (.getMeasurements i sg req) s
          (· = d.answer 0x60 0 (if i = 0#8 then [7] else ix) (ix.flatMap d.measurement) (if sg then d.spdmSign (ix.flatMap d.measurement) else []))))) ∧
    (∀ (sid : BitVec 16) (key req : Bytes) (s : State), s.on → s.dev.secStage = 1 → 3 ≤ s.dev.sp.spdm →
      let d := s.dev.modSp fun x => { x with log := x.log ++ req }
      (key.length ≠ 1184 → Runs (.keyExchange sid key req) s (· = d.spdmError 0x01 0)) ∧
      (key.length = 1184 → 4 ≤ s.dev.sp.sessions.length → Runs (.keyExchange sid key req) s (· = d.spdmError 0x0A 0)) ∧
      (key.length = 1184 → s.dev.sp.sessions.length < 4 → Runs (.keyExchange sid key req) s fun e => ∃ x, e.sp.sessions = s.dev.sp.sessions ++ [x] ∧
        x.id % 2 ^ 16 = sid.toNat ∧ x.live = false ∧ e.regs = s.dev.regs ∧ e.mem = s.dev.mem ∧ s.dev.raised e fun r => r.code = 0xE008 ∧ r.detail = 0))) ∧
  (
    (∀ (id : BitVec 32) (b cm : Bool) (set : Fin 2) (sub : Fin 6) (key : Bytes) (s : State), s.on → s.dev.secStage = 1 →
      let no := s.dev.spdmError 0x02 id.toNat
      s.dev.session? id.toNat = none → Runs (.finish id b) s (· = no) ∧ Runs (.endSession id) s (· = no) ∧ Runs (.spdmHeartbeat id) s (· = no) ∧ Runs (.keyUpdate id b) s (· = no) ∧
        Runs (.ideKmQuery id) s (· = no) ∧ Runs (.keyProg id cm set sub key) s (· = no) ∧ Runs (.kSetGo id cm set) s (· = no) ∧ Runs (.kSetStop id cm set) s (· = no)) ∧
    (∀ (id : BitVec 32) (b cm : Bool) (set : Fin 2) (sub : Fin 6) (key : Bytes) (x : Session) (s : State), s.on → s.dev.secStage = 1 → s.dev.session? id.toNat = some x →
      let n := id.toNat
      let early := s.dev.spdmError 0x04 n
      let ended := (s.dev.modSp fun y => { y with sessions := y.sessions.filter (·.id != n) }).raise 0xE008 0xFF securityProcessor n 1
      let io := s.dev.getF Reg.CXL_IDE F.CXL_IDE_IO_ACTIVE
      let act := s.dev.getF Reg.CXL_IDE F.CXL_IDE_CM_ACTIVE
      (x.live = true → Runs (.finish id b) s (· = early)) ∧
      (x.live = false → Runs (.endSession id) s (· = early) ∧ Runs (.spdmHeartbeat id) s (· = early) ∧ Runs (.keyUpdate id b) s (· = early) ∧ Runs (.ideKmQuery id) s (· = early) ∧
        Runs (.keyProg id cm set sub key) s (· = early) ∧ Runs (.kSetGo id cm set) s (· = early) ∧ Runs (.kSetStop id cm set) s (· = early)) ∧
      (x.live = false → (b = true → Runs (.finish id b) s (· = (s.dev.putSession { x with live := true }).answer 0x65 n [] [] [])) ∧
        (b = false → Runs (.finish id b) s (· = ended.spdmError 0x06 n))) ∧
      (x.live = true →
        (Runs (.endSession id) s (· = ended.answer 0x6C n [] [] [])) ∧ (Runs (.spdmHeartbeat id) s (· = s.dev.answer 0x68 n [] [] [])) ∧
        (Runs (.keyUpdate id b) s (· = (s.dev.putSession { x with updates := x.updates + 1 }).answer 0x69 n [if b then 2 else 1] [] [])) ∧
        (Runs (.ideKmQuery id) s (· = s.dev.answer 0x7E n [0, 2, io, act] [] [])) ∧
        (Runs (.keyProg id cm set sub key) s fun e => e.sp.keys = store [] s.dev.sp.keys (keyAt cm set sub) key ∧ e.regs = s.dev.regs ∧ e.mem = s.dev.mem ∧ e.ev = s.dev.ev) ∧
        (s.dev.keySetIn cm set = false → Runs (.kSetGo id cm set) s (· = s.dev.answer 0x7E n [4] [] [])) ∧
        (s.dev.canon → s.dev.keySetIn cm set = true → Runs (.kSetGo id cm set) s fun e => e.getB Reg.CXL_IDE (ideBit cm) = true ∧ s.dev.sameRegs e (· = Reg.CXL_IDE) ∧
          e.sp.keySet = store 0 s.dev.sp.keySet (if cm then 1 else 0) (set + 1) ∧ e.sp.keys = s.dev.sp.keys ∧ e.mem = s.dev.mem) ∧
        (s.dev.canon → look 0 s.dev.sp.keySet (if cm then 1 else 0) = set + 1 → Runs (.kSetStop id cm set) s fun e => e.getB Reg.CXL_IDE (ideBit cm) = false ∧
          s.dev.sameRegs e (· = Reg.CXL_IDE) ∧ e.mem = s.dev.mem) ∧
        (look 0 s.dev.sp.keySet (if cm then 1 else 0) ≠ set + 1 → Runs (.kSetStop id cm set) s fun e => e.regs = s.dev.regs ∧ e.mem = s.dev.mem ∧ e.sp.keySet = s.dev.sp.keySet))) ∧
    (∀ (h : BitVec 8) (q : BitVec 16) (last : Bool) (l : Bytes) (s : State), s.on → s.dev.secStage = 1 →
      let part := (s.dev.sp.reply.drop (q.toNat * Config.chunkBytes)).take Config.chunkBytes
      (q ≠ 0#16 → q.toNat ≠ s.dev.sp.chunkSeq → Runs (.chunkSend h q last l) s (· = s.dev.spdmError 0x01 0)) ∧
      (q = 0#16 ∨ q.toNat = s.dev.sp.chunkSeq → Runs (.chunkSend h q last l) s fun e => e.sp.chunks = (if q = 0#16 then [] else s.dev.sp.chunks) ++ l ∧
        e.regs = s.dev.regs ∧ e.mem = s.dev.mem ∧ e.ev = s.dev.ev) ∧
      (part = [] → Runs (.chunkGet h q) s (· = s.dev.spdmError 0x01 0)) ∧
      (part ≠ [] → Runs (.chunkGet h q) s fun e => e = { s.dev with sent := e.sent } ∧ ∃ n, e.sent = s.dev.sent ++ [.doe (Config.spdmReply 0x06 0 [h.toNat, q.toNat, n] part [])])) ∧
    (∀ (cm : Bool) (s : State), s.on → s.dev.canon →
      (s.dev.getB Reg.CXL_IDE (ideBit cm) = false → Runs (.ideIntegrityFailure cm) s (· = s.dev)) ∧
      (s.dev.getB Reg.CXL_IDE (ideBit cm) = true → s.dev.getB Reg.CXL_IDE F.CXL_IDE_REQUIRED = false → Runs (.ideIntegrityFailure cm) s fun e =>
        e.getB Reg.CXL_IDE (ideBit cm) = false ∧ s.dev.sameRegs e (· = Reg.CXL_IDE) ∧ e.mem = s.dev.mem ∧
        s.dev.raised e fun r => r.code = 0xE0C3 ∧ r.object = (if cm then 1 else 0) ∧ r.detail = 0) ∧
      (s.dev.getB Reg.CXL_IDE (ideBit cm) = true → s.dev.getB Reg.CXL_IDE F.CXL_IDE_REQUIRED = true → Runs (.ideIntegrityFailure cm) s
        (· = s.dev.deviceReset.raise 0xE0C3 0xFF cxlPort (if cm then 1 else 0) 1))))

/-- The boot, firmware update and field records (R499 to R514, Table 22.5). -/
def Obligations.BootVerifiesAndFirmwareUpdates : Prop :=
  (
    (∀ (n : Nat) (s : State), s.on → s.dev.canon →
      let h := s.dev.flash 0x10000 64
      let seed := if n ≤ 15 then Config.pufSeed (s.dev.flash 0x10040 (leAt h 4 4 % 0x10000)) else Config.pufBad s.dev.free
      let good := leAt h 0 4 = 0x504C4548 ∧ bytesAt h 32 32 = digestBytes (Config.sha3 (ascii "LLY-CHECK" ++ seedBytes seed))
      let soft := s.dev.getF Reg.PWR_STATUS F.PWR_STATUS_SUPPLY = 0
      let regulates := fun (e : Dev) => e.getF Reg.PWR_STATUS F.PWR_STATUS_SUPPLY = 1 ∧ e.reg Reg.SEC_ROM = Config.romVersion ∧ e.mem = s.dev.mem ∧
        s.dev.sameRegs e (fun a => a = Reg.PWR_STATUS ∨ a = Reg.SEC_ROM ∨ a = Reg.SEC_STATUS)
      (¬ soft → Runs (.railsInRegulation n) s (· = s.dev)) ∧
      (soft → s.dev.sp.pufRead = true → Runs (.railsInRegulation n) s fun e => regulates e ∧ e.sp = s.dev.sp ∧ e.ev = s.dev.ev) ∧
      (soft → s.dev.sp.pufRead = false → good → Runs (.railsInRegulation n) s fun e => regulates e ∧ e.sp = { s.dev.sp with pufRead := true, seed := some seed } ∧
        e.getB Reg.SEC_STATUS F.SEC_STATUS_IDENTITY_OK = true ∧ e.ev = s.dev.ev) ∧
      (soft → s.dev.sp.pufRead = false → ¬ good → Runs (.railsInRegulation n) s fun e => regulates e ∧ e.sp = { s.dev.sp with pufRead := true } ∧ e.recovery = true ∧
        e.getF Reg.SEC_STATUS F.SEC_STATUS_REASON = 8 ∧ (∃ r ∈ e.ev.arisen, r.code = 0xE002 ∧ r.object = 4 ∧ r.detail = 8) ∧ ∃ r ∈ e.ev.arisen, r.code = 0xE003 ∧ r.object = 8)) ∧
    (∀ (s : State), s.on → s.dev.canon →
      let x := s.dev.dirField 0
      let due := s.dev.secStage = 0 ∧ s.dev.sp.seed ≠ none ∧ s.dev.sp.fw = []
      let runs := fun (e : Dev) (y : Nat) (fb : Bool) => e.sp.fw = s.dev.flash (fwSlot y) (fwSize (s.dev.flash (fwSlot y) 256)) ∧ e.getF Reg.SEC_STATUS F.SEC_STATUS_SLOT = y % 2 ∧
        e.getB Reg.SEC_STATUS F.SEC_STATUS_FALLBACK = fb ∧ e.secStage = 0 ∧ e.reg Reg.SEC_FW_VERSION = BitVec.ofNat 64 (leAt e.sp.fw 16 8) ∧
        e.getF Reg.SEC_FW_INFO F.SEC_FW_INFO_SVN = leAt e.sp.fw 12 4 ∧ e.mem = s.dev.mem
      (¬ due → Runs .firmwareVerify s (· = s.dev)) ∧
      (due → s.dev.fwSlotFault x = none → Runs .firmwareVerify s fun e => runs e x false) ∧
      (∀ r, due → s.dev.fwSlotFault x = some r → s.dev.fwSlotFault (1 - x) = none → Runs .firmwareVerify s fun e => runs e (1 - x) true ∧
        ∃ q ∈ e.ev.arisen, q.code = 0xE002 ∧ q.object = BitVec.ofNat 32 x ∧ q.detail = BitVec.ofNat 64 r) ∧
      (∀ r r', due → s.dev.fwSlotFault x = some r → s.dev.fwSlotFault (1 - x) = some r' → Runs .firmwareVerify s fun e => e.recovery = true ∧ e.sp = s.dev.sp ∧
        e.mem = s.dev.mem ∧ ∃ q ∈ e.ev.arisen, q.code = 0xE003 ∧ q.object = BitVec.ofNat 32 r')) ∧
    (∀ (s : State), s.on → s.dev.canon →
      let x := s.dev.dirField 2
      let due := s.dev.secStage = 0 ∧ s.dev.sp.fw ≠ []
      let uses := fun (e : Dev) (y : Nat) => e.sp.repair = s.dev.flash (repairSlot y) (repairSize (s.dev.flash (repairSlot y) 128)) ∧ e.sp.released = true ∧ e.secStage = 1 ∧
        e.getB Reg.SEC_STATUS F.SEC_STATUS_REPAIR_OK = true ∧ e.getB Reg.SEC_STATUS F.SEC_STATUS_FIELD_OK = (s.dev.fieldRecs e.sp.repair).isSome ∧
        e.sp.fields = (s.dev.fieldRecs e.sp.repair).getD [] ∧ e.sp.alias_ = e.aliasSeed ∧ e.getF Reg.CXL_IDE F.CXL_IDE_REQUIRED = e.policy / 2 % 2 ∧ e.mem = s.dev.mem
      (¬ due → Runs .repairImageCheck s (· = s.dev)) ∧
      (due → s.dev.repairSlotFault x = none → Runs .repairImageCheck s (uses · x)) ∧
      (∀ r, due → s.dev.repairSlotFault x = some r → s.dev.repairSlotFault (1 - x) = none → Runs .repairImageCheck s fun e => uses e (1 - x) ∧
        ∃ q ∈ e.ev.arisen, q.code = 0xE002 ∧ q.object = BitVec.ofNat 32 (2 + x)) ∧
      (∀ r r', due → s.dev.repairSlotFault x = some r → s.dev.repairSlotFault (1 - x) = some r' → Runs .repairImageCheck s fun e => e.recovery = true ∧ e.sp = s.dev.sp ∧
        e.getF Reg.SEC_STATUS F.SEC_STATUS_REASON = 11 ∧ ∃ q ∈ e.ev.arisen, q.code = 0xE003 ∧ q.object = 11) ∧
      (s.dev.sp.released = false → Runs .dramTrainingComplete s (· = s.dev)) ∧
      (s.dev.sp.released = true → Runs .dramTrainingComplete s (· = { s.dev with sp := { s.dev.sp with trained := true } })))) ∧
  (
    (∀ (m : Master) (s : State), s.serves m → s.dev.canon →
      let busy := s.dev.fwState = 1 ∨ s.dev.fwState = 2 ∨ s.dev.fwState = 3
      let refused := fun (e : Dev) => e.getF Reg.SEC_FW_RESULT F.SEC_FW_RESULT_REASON = 12 ∧ e.fwState = s.dev.fwState ∧ e.sp = s.dev.sp ∧ e.mem = s.dev.mem ∧ e.ev = s.dev.ev ∧
        s.dev.sameRegs e (· = Reg.SEC_FW_RESULT)
      let staging := fun (e : Dev) (rep : Bool) => e.fwState = 1 ∧ e.getF Reg.SEC_FW_RESULT F.SEC_FW_RESULT_REASON = 0 ∧
        e.sp = { s.dev.sp with image := [], isRepair := rep, fetched := false } ∧ e.mem = s.dev.mem ∧ e.ev = s.dev.ev ∧ s.dev.sameRegs e (· = Reg.SEC_FW_RESULT)
      (m ≠ hostDriver ∨ s.dev.secStage = 0 → Runs (.fwStage m) s (· = s.dev)) ∧ (m ≠ hostDriver ∨ s.dev.recovery = false → Runs (.stageRepairImage m) s (· = s.dev)) ∧
      (m = hostDriver → s.dev.secStage ≠ 0 → (busy → Runs (.fwStage m) s refused) ∧ (¬ busy → Runs (.fwStage m) s (staging · false))) ∧
      (m = hostDriver → s.dev.recovery = true → (busy → Runs (.stageRepairImage m) s refused) ∧ (¬ busy → Runs (.stageRepairImage m) s (staging · true)))) ∧
    (∀ (l : Bytes) (how : FetchEnd) (ok : Bool) (s : State), s.on → s.dev.canon →
      let size := if s.dev.sp.isRepair then repairSize l else fwSize l
      let whole := how = .ok ∧ s.dev.getF Reg.SEC_FW_LEN F.SEC_FW_LEN_LEN = size ∧ l.length = size
      let check := if s.dev.sp.isRepair then s.dev.repairFault l fun _ => l else s.dev.fwFault l fun _ => l
      let fails := fun (e : Dev) (r : Nat) => e.fwState = 0 ∧ e.getF Reg.SEC_FW_RESULT F.SEC_FW_RESULT_REASON = r % 256 ∧ e.sp = s.dev.sp ∧ e.mem = s.dev.mem ∧
        ∃ q ∈ e.ev.arisen, q.code = 0xE002 ∧ q.object = 5 ∧ q.detail = BitVec.ofNat 64 r
      (s.dev.fwState ≠ 1 ∨ s.dev.sp.fetched = true → Runs (.fwImageFetchDone l how) s (· = s.dev)) ∧
      (s.dev.fwState = 1 → s.dev.sp.fetched = false → ¬ whole → Runs (.fwImageFetchDone l how) s (fails · 2)) ∧
      (∀ r, s.dev.fwState = 1 → s.dev.sp.fetched = false → whole → check = some r → Runs (.fwImageFetchDone l how) s (fails · r)) ∧
      (s.dev.fwState = 1 → s.dev.sp.fetched = false → whole → check = none → Runs (.fwImageFetchDone l how) s
        (· = { s.dev with sp := { s.dev.sp with image := l, fetched := true } })) ∧
      (s.dev.fwState ≠ 1 ∨ s.dev.sp.fetched = false → Runs (.fwFlashWriteDone ok) s (· = s.dev)) ∧
      (s.dev.fwState = 1 → s.dev.sp.fetched = true → ok = false → Runs (.fwFlashWriteDone ok) s (fails · 1)) ∧
      (s.dev.fwState = 1 → s.dev.sp.fetched = true → ok = true → s.dev.sp.isRepair = true → Runs (.fwFlashWriteDone ok) s fun e => e.fwState = 2 ∧ e.ev = s.dev.ev ∧
        e.sp = { s.dev.sp with flash := flashStore s.dev.sp.flash (repairSlot (1 - s.dev.dirField 2)) s.dev.sp.image } ∧ e.mem = s.dev.mem) ∧
      (s.dev.fwState = 1 → s.dev.sp.fetched = true → ok = true → s.dev.sp.isRepair = false → Runs (.fwFlashWriteDone ok) s fun e => e.fwState = 2 ∧
        e.sp = { s.dev.sp with flash := flashStore s.dev.sp.flash (fwSlot (1 - s.dev.dirField 0)) s.dev.sp.image } ∧ e.mem = s.dev.mem ∧
        s.dev.raised e fun q => q.code = 0xE004 ∧ q.object = BitVec.ofNat 32 (leAt s.dev.sp.image 16 4))) ∧
    (∀ (m : Master) (tiles : BitVec 6) (s : State), s.serves m → s.dev.canon →
      let may := m = hostDriver ∧ s.dev.secStage = 1 ∧ s.dev.fwState = 2
      let named := tiles6.filter fun t => tiles.toNat / 2 ^ t % 2 == 1
      (¬ may → Runs (.fwApplyAtReset m) s (· = s.dev) ∧ Runs (.fwApplyLive m tiles) s (· = s.dev)) ∧
      (may → Runs (.fwApplyAtReset m) s fun e => e.fwState = 4 ∧ e.sp.switched = true ∧ e.sp.flash = (s.dev.setDir 0 (1 - s.dev.dirField 0)).sp.flash ∧ e.mem = s.dev.mem ∧
        e.ev = s.dev.ev ∧ s.dev.sameRegs e (· = Reg.SEC_FW_RESULT)) ∧
      (m ≠ hostDriver ∨ s.dev.fwState ≠ 2 → Runs (.fwDiscard m) s (· = s.dev)) ∧
      (m = hostDriver → s.dev.fwState = 2 → Runs (.fwDiscard m) s fun e => e.fwState = 0 ∧ e.sp = { s.dev.sp with image := [], fetched := false } ∧ e.mem = s.dev.mem ∧
        s.dev.sameRegs e (· = Reg.SEC_FW_RESULT)) ∧
      (may → leAt s.dev.sp.image 10 2 ≠ leAt s.dev.sp.fw 10 2 → Runs (.fwApplyLive m tiles) s fun e => e.fwState = 2 ∧ e.sp = s.dev.sp ∧
        e.getF Reg.SEC_FW_RESULT F.SEC_FW_RESULT_REASON = 13 ∧ s.dev.sameRegs e (· = Reg.SEC_FW_RESULT)) ∧
      (may → leAt s.dev.sp.image 10 2 = leAt s.dev.sp.fw 10 2 → named ≠ [] → Runs (.fwApplyLive m tiles) s fun e => e.fwState = 3 ∧
        e.sp = { s.dev.sp with live := named, liveMask := tiles.toNat, liveSince := s.dev.tickNo } ∧ e.getF Reg.SEC_FW_RESULT F.SEC_FW_RESULT_TILES_DONE = 0 ∧ e.mem = s.dev.mem))) ∧
  (
    (∀ (t : Tile) (s : State), s.on → s.dev.canon →
      let due := s.dev.fwState = 3 ∧ s.dev.sp.live.head? = some t.val ∧ s.dev.inBoundary = true ∧ s.dev.tileEmpty t = true
      (¬ due → Runs (.fwLiveTileStep t) s (· = s.dev)) ∧
      (∀ u rest, due → s.dev.sp.live = t.val :: u :: rest → Runs (.fwLiveTileStep t) s fun e => e.sp.live = u :: rest ∧ e.sp.liveSince = s.dev.tickNo ∧ t.val ∈ e.sp.quiet ∧
        e.sp.fw = s.dev.sp.fw ∧ e.fwState = 3 ∧ e.getF Reg.SEC_FW_RESULT F.SEC_FW_RESULT_TILES_DONE / 2 ^ t.val % 2 = 1 ∧ e.mem = s.dev.mem ∧ e.ev = s.dev.ev) ∧
      (due → s.dev.sp.live = [t.val] → Runs (.fwLiveTileStep t) s fun e => e.sp.fw = s.dev.sp.image ∧ e.sp.sessions = [] ∧ e.fwState = 0 ∧ e.mem = s.dev.mem ∧
        e.reg Reg.SEC_FW_VERSION = BitVec.ofNat 64 (leAt s.dev.sp.image 16 8) ∧
        ∃ q ∈ e.ev.arisen, q.code = 0xE005 ∧ q.detail = BitVec.ofNat 64 (1 + s.dev.sp.liveMask * 2 ^ 8))) ∧
    (∀ (s : State), s.on → s.dev.canon →
      (s.dev.fwState ≠ 3 ∨ s.dev.sp.live = [] ∨ s.dev.tickNo - s.dev.sp.liveSince < 8000 → Runs .fwApplyTileTimeout s (· = s.dev)) ∧
      (∀ t rest, s.dev.fwState = 3 → s.dev.sp.live = t :: rest → 8000 ≤ s.dev.tickNo - s.dev.sp.liveSince → Runs .fwApplyTileTimeout s fun e => e.fwState = 2 ∧
        e.sp = { s.dev.sp with live := [] } ∧ e.getF Reg.SEC_FW_RESULT F.SEC_FW_RESULT_REASON = 14 ∧ e.mem = s.dev.mem ∧
        s.dev.raised e fun q => q.code = 0xE006 ∧ q.object = 14)) ∧
    (∀ (ok : Bool) (s : State), s.on →
      (s.dev.sp.toWrite = [] → Runs (.fieldRecordWrite ok) s (· = s.dev)) ∧
      (∀ r rest, s.dev.sp.toWrite = r :: rest →
        let kept := ok = true ∧ s.dev.sp.fields.length < leAt s.dev.sp.repair 12 4 / 16 - 2
        Runs (.fieldRecordWrite ok) s fun e => e.sp.toWrite = rest ∧ e.regs = s.dev.regs ∧ e.mem = s.dev.mem ∧
          (kept → e.sp.fields = s.dev.sp.fields ++ [r]) ∧ (¬ kept → e.sp.fields = s.dev.sp.fields ∧ e.sp.flash = s.dev.sp.flash) ∧
          s.dev.raised e fun q => q.code = 0xE007 ∧ q.object = BitVec.ofNat 32 (leAt r 2 2))) ∧
    (∀ (m : Master) (s : State), s.serves m →
      (m ≠ hostDriver ∨ s.dev.secStage ≠ 1 → Runs (.clearFenceRecords m) s (· = s.dev) ∧ Runs (.clearFieldRecords m) s (· = s.dev)) ∧
      (m = hostDriver → s.dev.secStage = 1 →
        (Runs (.clearFenceRecords m) s fun e => e.sp.fields = s.dev.sp.fields.filter (fun r => leAt r 0 1 != 1) ∧ e.regs = s.dev.regs ∧ e.mem = s.dev.mem ∧ e.ev = s.dev.ev) ∧
        Runs (.clearFieldRecords m) s fun e => e.sp.fields = [] ∧ e.sp.toWrite = [] ∧ e.regs = s.dev.regs ∧ e.mem = s.dev.mem ∧ e.ev = s.dev.ev)))

/-- Power and temperatures (R521, R525, R527 to R529, R531, R532). -/
def Obligations.PowerWatchesBallastsAndWarns : Prop :=
  (
    (∀ (v : BitVec 16) (s : State), s.on → s.dev.canon →
      let low := 3600 ≤ v.toNat ∧ v.toNat < 4000 ∧ s.dev.getB Reg.PWR_STATUS F.PWR_STATUS_VIN_LOW = false
      (¬ low → Runs (.vinLow v) s (· = s.dev)) ∧
      (low → Runs (.vinLow v) s fun e => e.getB Reg.PWR_STATUS F.PWR_STATUS_VIN_LOW = true ∧ e.getF Reg.PWR_VIN F.PWR_VIN_VOLT = v.toNat ∧ e.alertLow = true ∧
        s.dev.sameRegs e (fun a => a = Reg.PWR_STATUS ∨ a = Reg.PWR_VIN) ∧ e.mem = s.dev.mem ∧
        s.dev.raised e fun r => r.code = 0xF007 ∧ r.object = 1 ∧ r.detail = BitVec.ofNat 64 (v.toNat * 256))) ∧
    (∀ (loads : List Nat) (s : State), s.on → s.dev.canon →
      let d := s.dev.advanceTo (s.dev.power.at_ + 25 * kcU)
      let ls := (List.range 6).map fun t => loads.getD t 0
      let l := ls.sum
      let dt := d.now - s.dev.power.at_
      Runs (.ballastUpdate loads) s fun e => e.now = d.now ∧ e.power.at_ = d.now ∧ e.power.loads = ls ∧ e.power.decay = max l (s.dev.power.decay - 64 * dt / 4) ∧
        l ≤ e.power.drawn ∧ e.power.drawn ≤ l + 900000 ∧ (e.power.drawn - l) % 250 = 0 ∧ e.power.bucket ≤ 12500000000000 ∧ e.mem = s.dev.mem ∧
        e.getF Reg.PWR_VIN F.PWR_VIN_POWER = e.power.drawn / 1000 % 2 ^ 16 ∧ e.getF Reg.PWR_STATUS F.PWR_STATUS_BALLAST = (e.power.drawn - l) / 1000 % 2 ^ 16 ∧
        e.getF Reg.PWR_EXCESS F.PWR_EXCESS_BUCKET = e.power.bucket / 5000000000 ∧
        (s.dev.power.loads ≠ [] → s.dev.power.drawn + 64 * dt / 4 < l → ∃ r ∈ e.ev.arisen, r.code = 0xF005) ∧
        (s.dev.power.loads = [] ∨ l ≤ s.dev.power.drawn + 64 * dt / 4 → e.ev = s.dev.ev)) ∧
    (∀ (p : BitVec 16) (s : State), s.on → s.dev.canon →
      let oc := 12500000000000 ≤ s.dev.power.bucket ∨ 1650 < p.toNat
      let hot := s.dev.hotTiles ≠ []
      let wasOc := s.dev.getB Reg.PWR_STATUS F.PWR_STATUS_OC_EMERG
      let wasTh := s.dev.getB Reg.PWR_STATUS F.PWR_STATUS_THERM_EMERG
      let shows := fun (e : Dev) => e.getF Reg.PWR_VIN F.PWR_VIN_POWER = p.toNat ∧ e.mem = s.dev.mem ∧ s.dev.sameRegs e (fun a => a = Reg.PWR_STATUS ∨ a = Reg.PWR_VIN)
      (Runs (.emergencyBegin p) s fun e => shows e ∧ e.ev = s.dev.ev ∧ (e.getB Reg.PWR_STATUS F.PWR_STATUS_OC_EMERG = true ↔ wasOc = true ∨ oc) ∧
        (e.getB Reg.PWR_STATUS F.PWR_STATUS_THERM_EMERG = true ↔ wasTh = true ∨ hot) ∧ (¬ oc → ¬ hot → e.power = s.dev.power)) ∧
      (Runs (.emergencyEnd p) s fun e => shows e ∧ (e.getB Reg.PWR_STATUS F.PWR_STATUS_OC_EMERG = true ↔ wasOc = true ∧ oc) ∧
        (e.getB Reg.PWR_STATUS F.PWR_STATUS_THERM_EMERG = true ↔ wasTh = true ∧ hot) ∧
        ((wasOc = true ∨ wasTh = true) → ¬ (wasOc = true ∧ oc) → ¬ (wasTh = true ∧ hot) → e.power.runs = 0 ∧ e.power.paused = [] ∧
          s.dev.raised e fun r => r.code = 0xF002 ∧ r.detail = BitVec.ofNat 64 s.dev.power.runs) ∧
        ((wasOc = false ∧ wasTh = false) ∨ (wasOc = true ∧ oc) ∨ (wasTh = true ∧ hot) → e.ev = s.dev.ev)))) ∧
  (
    (∀ (t : Tile) (lg dr : BitVec 16) (st : BitVec 2) (s : State), s.on → s.dev.canon →
      let was := look 0 s.dev.power.warned t
      let reaches := fun (v : BitVec 16) (q : Int) => v ≠ 0x8000#16 ∧ q ≤ v.toInt
      let new := (was % 2 = 0 ∧ reaches lg 380) ∨ (was / 2 % 2 = 0 ∧ reaches dr 352)
      Runs (.tempSensorRead t lg dr st) s fun e => e.getF (Reg.PWR_TEMP t) F.PWR_TEMP_LOGIC = lg.toNat ∧ e.getF (Reg.PWR_TEMP t) F.PWR_TEMP_DRAM_MAX = dr.toNat ∧
        e.getF (Reg.PWR_TEMP t) F.PWR_TEMP_STACK = st.toNat ∧ e.getF (Reg.PWR_TEMP t) F.PWR_TEMP_SNAP = s.dev.getF (Reg.PWR_TEMP t) F.PWR_TEMP_SNAP ∧ e.mem = s.dev.mem ∧
        s.dev.sameRegs e (· = Reg.PWR_TEMP t) ∧
        (∃ n, e.power.warned = store 0 s.dev.power.warned t n ∧ n < 4 ∧ (reaches lg 380 → n % 2 = 1) ∧ (¬ reaches lg 361 → n % 2 = 0) ∧
          (reaches dr 352 → n / 2 = 1) ∧ (¬ reaches dr 333 → n / 2 = 0)) ∧
        (new → s.dev.raised e fun r => r.code = 0xF003 ∧ r.object = BitVec.ofNat 32 t ∧ r.detail = BitVec.ofNat 64 (lg.toNat + dr.toNat * 2 ^ 16)) ∧ (¬ new → e.ev = s.dev.ev)) ∧
    (∀ (q : Fin 4) (v : BitVec 16) (s : State), s.on → s.dev.canon → Runs (.vinOpenDetect q v) s fun e => e.getF Reg.PWR_VIN F.PWR_VIN_VOLT = v.toNat ∧ e.mem = s.dev.mem ∧
      s.dev.sameRegs e (· = Reg.PWR_VIN) ∧ s.dev.raised e fun r => r.code = 0xF007 ∧ r.object = 2 ∧ r.detail = BitVec.ofNat 64 (q.val + v.toNat * 256)) ∧
    (∀ (i : Fin 28) (s : State), s.on → Runs (.sidebandFault i) s fun e => e.regs = s.dev.regs ∧ e.mem = s.dev.mem ∧
      ∃ t < 6, s.dev.raised e fun r => r.code = 0xF008 ∧ r.object = BitVec.ofNat 32 i ∧ r.unit = govUnit t))

/-- The step law. -/
def Obligations.AStepRunsTheFrontCommand : Prop :=
  (∀ (c : Instr) (q : List Instr) (s : State), step { s with pending := c :: q } = exec c { s with pending := q }) ∧
  (∀ (s : State), step { s with pending := [] } = .next { s with pending := [], dev := s.dev.advance 1 })

/-- Totality, and the shutdown (R530). -/
def Obligations.EveryCommandCompletesAndADownDeviceIsStill : Prop :=
  (∀ (c : Instr) (s : State), ∃ e, exec c s = .next { s with dev := e }) ∧
  (∀ (c : Instr) (s : State), ¬ s.on → c ≠ .powerOnReset → c ≠ .overvoltageRecovery → exec c s = .next s)

/-- Host accesses that are not served (R494, R510). -/
def Obligations.TheHostIsKeptOutWithoutIdeAndInRecovery : Prop :=
  (∀ (c : Instr) (m : Master) (s : State), senderOf c = some m → fromHost m = true → s.dev.ideBlocked = true → exec c s = .next s) ∧
  (∀ (c : Instr) (s : State), beyondRom c = true → s.dev.recovery = true → exec c s = .next s) ∧
  (∀ (a : Word) (l : Bytes) (p : Bool) (s : State), s.dev.ideBlocked = true ∨ s.dev.recovery = true → exec (.hdmWrite a l p) s = .next s) ∧
  (∀ (a : Word) (s : State), s.on → s.dev.ioOnly = false → s.dev.ideBlocked = true ∨ s.dev.recovery = true → Runs (.hdmRead a) s fun e =>
    e.regs = s.dev.regs ∧ e.mem = s.dev.mem ∧ e.ev = s.dev.ev ∧ ∃ l, e.sent = s.dev.sent ++ [.hdmData l true])

/-- The canonical form is kept by every step. -/
def Obligations.EveryStepKeepsTheStoresCanonical : Prop :=
  ∀ s s' : State, s.dev.canon → step s = .next s' → s'.dev.canon

/-- Reset (Table 00.7). -/
def Obligations.ResetIsCanonical : Prop :=
  State.reset.dev.canon ∧ State.reset.pending = [] ∧ State.reset.on ∧ State.reset.dev.mem = [] ∧ ∀ a, State.reset.dev.reg a = regReset a
end

