-- ==== Sys2Proof/Laws/Maps.lean ====
section
/-! SUPPORT. Maps: the laws of a keyed collection: a store keeps the canonical form, the key stored reads as the value stored, and every other
key reads as before. -/
namespace Sys2Proof.Machine

variable {V : Type}

theorem risingFrom_mono {m : SMap V} {b c : Nat} (hbc : b ≤ c) (h : risingFrom c m = true) : risingFrom b m = true := by
  cases m with
  | nil => rfl
  | cons p r =>
    simp only [risingFrom, Bool.and_eq_true, decide_eq_true_eq] at h ⊢
    exact ⟨Nat.le_trans hbc h.1, h.2⟩

/-- Below every key nothing is listed. -/
theorem lookup?_below {m : SMap V} {b a : Nat} (h : risingFrom b m = true) (ha : a < b) : lookup? m a = none := by
  cases m with
  | nil => rfl
  | cons p r =>
    simp only [risingFrom, Bool.and_eq_true, decide_eq_true_eq] at h
    have h1 : ¬ p.1 = a := by omega
    have h2 : a < p.1 := by omega
    simp [lookup?, h1, h2]

/-- The entry a rising list gives at a key is one of its entries. -/
theorem lookup?_mem {m : SMap V} {a : Nat} {v : V} (h : lookup? m a = some v) : (a, v) ∈ m := by
  induction m with
  | nil => cases h
  | cons p r ih =>
    obtain ⟨k, w⟩ := p
    simp only [lookup?, beq_iff_eq] at h
    split at h
    · cases h; subst_vars; exact List.mem_cons_self ..
    · split at h
      · cases h
      · exact List.mem_cons_of_mem _ (ih h)

theorem risingFrom_insertAt {m : SMap V} {b a : Nat} {x : V} (h : risingFrom b m = true) (ha : b ≤ a) :
    risingFrom b (insertAt m a x) = true := by
  induction m generalizing b with
  | nil => simp [insertAt, risingFrom, ha]
  | cons p r ih =>
    obtain ⟨k, v⟩ := p
    simp only [risingFrom, Bool.and_eq_true, decide_eq_true_eq] at h
    simp only [insertAt, beq_iff_eq]
    split
    · subst_vars; simp [risingFrom, h.1, h.2]
    · split
      · simp only [risingFrom, Bool.and_eq_true, decide_eq_true_eq]
        exact ⟨ha, by omega, h.2⟩
      · simp only [risingFrom, Bool.and_eq_true, decide_eq_true_eq]
        exact ⟨h.1, ih h.2 (by omega)⟩

theorem risingFrom_erase {m : SMap V} {b a : Nat} (h : risingFrom b m = true) : risingFrom b (erase m a) = true := by
  induction m generalizing b with
  | nil => rfl
  | cons p r ih =>
    obtain ⟨k, v⟩ := p
    simp only [risingFrom, Bool.and_eq_true, decide_eq_true_eq] at h
    simp only [erase]
    split
    · exact risingFrom_mono (by omega) h.2
    · split
      · simp only [risingFrom, Bool.and_eq_true, decide_eq_true_eq]
        exact h
      · simp only [risingFrom, Bool.and_eq_true, decide_eq_true_eq]
        exact ⟨h.1, ih h.2⟩

theorem risingFrom_filter {m : SMap V} {b : Nat} (p : Nat × V → Bool) (h : risingFrom b m = true) : risingFrom b (m.filter p) = true := by
  induction m generalizing b with
  | nil => rfl
  | cons q r ih =>
    simp only [risingFrom, Bool.and_eq_true, decide_eq_true_eq] at h
    rw [List.filter_cons]
    split
    · simp only [risingFrom, Bool.and_eq_true, decide_eq_true_eq]
      exact ⟨h.1, ih h.2⟩
    · exact risingFrom_mono (by omega) (ih h.2)

theorem lookup?_insertAt_self {m : SMap V} {a : Nat} {x : V} : lookup? (insertAt m a x) a = some x := by
  induction m with
  | nil => simp [insertAt, lookup?]
  | cons p r ih =>
    obtain ⟨k, v⟩ := p
    simp only [insertAt]
    split
    · simp [lookup?]
    · split
      · simp [lookup?]
      · next h1 h2 => simp [lookup?, h1, h2, ih]

theorem lookup?_insertAt_ne {m : SMap V} {a b : Nat} {x : V} (hne : a ≠ b) : lookup? (insertAt m a x) b = lookup? m b := by
  induction m with
  | nil => simp [insertAt, lookup?, hne]
  | cons p r ih =>
    obtain ⟨k, v⟩ := p
    simp only [insertAt]
    split
    · next h1 => simp only [beq_iff_eq] at h1; subst h1; simp [lookup?, hne]
    · split
      · next h1 h2 =>
        simp only [lookup?, beq_iff_eq, hne, if_false]
        split
        · have : ¬ k = b := by omega
          have h3 : b < k := by omega
          simp [this, h3]
        · rfl
      · simp only [lookup?]; rw [ih]

theorem lookup?_erase_self {m : SMap V} {b a : Nat} (h : risingFrom b m = true) : lookup? (erase m a) a = none := by
  induction m generalizing b with
  | nil => rfl
  | cons p r ih =>
    obtain ⟨k, v⟩ := p
    simp only [risingFrom, Bool.and_eq_true, decide_eq_true_eq] at h
    simp only [erase, beq_iff_eq]
    split
    · exact lookup?_below h.2 (by omega)
    · split
      · next h1 h2 => simp [lookup?, h1, h2]
      · next h1 h2 => simp [lookup?, h1, h2, ih h.2]

theorem lookup?_erase_ne {m : SMap V} {b a c : Nat} (h : risingFrom b m = true) (hne : a ≠ c) : lookup? (erase m a) c = lookup? m c := by
  induction m generalizing b with
  | nil => rfl
  | cons p r ih =>
    obtain ⟨k, v⟩ := p
    simp only [risingFrom, Bool.and_eq_true, decide_eq_true_eq] at h
    simp only [erase, beq_iff_eq]
    split
    · next h1 =>
      subst h1
      simp only [lookup?, beq_iff_eq, hne, if_false]
      split
      · exact lookup?_below h.2 (by omega)
      · rfl
    · split
      · rfl
      · simp only [lookup?]; rw [ih h.2]

theorem lookup?_filter {m : SMap V} {b a : Nat} (p : Nat → Bool) (h : risingFrom b m = true) :
    lookup? (m.filter fun e => p e.1) a = if p a then lookup? m a else none := by
  induction m generalizing b with
  | nil => simp [lookup?]
  | cons q r ih =>
    obtain ⟨k, v⟩ := q
    simp only [risingFrom, Bool.and_eq_true, decide_eq_true_eq] at h
    rw [List.filter_cons]
    by_cases hk : k = a
    · subst hk
      by_cases hp : p k = true
      · simp [hp, lookup?]
      · simp only [Bool.not_eq_true] at hp
        simp only [hp, Bool.false_eq_true, if_false]
        exact lookup?_below (risingFrom_filter _ h.2) (by omega)
    · by_cases hlt : a < k
      · have h1 : lookup? r a = none := lookup?_below h.2 (by omega)
        have h2 := lookup?_below (risingFrom_filter (fun e => p e.1) h.2) (show a < k + 1 by omega)
        split
        · simp [lookup?, hk, hlt]
        · simp [lookup?, hk, hlt, h2]
      · split
        · simp only [lookup?, beq_iff_eq, hk, hlt, if_false]; exact ih h.2
        · simp only [lookup?, beq_iff_eq, hk, hlt, if_false]; exact ih h.2

theorem all_erase {m : SMap V} {a : Nat} {p : Nat × V → Bool} (h : m.all p = true) : (erase m a).all p = true := by
  induction m with
  | nil => rfl
  | cons q r ih =>
    simp only [List.all_cons, Bool.and_eq_true] at h
    simp only [erase]
    split
    · exact h.2
    · split
      · simp [List.all_cons, h.1, h.2]
      · simp [List.all_cons, h.1, ih h.2]

theorem all_insertAt {m : SMap V} {a : Nat} {x : V} {p : Nat × V → Bool} (h : m.all p = true) (hx : p (a, x) = true) :
    (insertAt m a x).all p = true := by
  induction m with
  | nil => simp [insertAt, hx]
  | cons q r ih =>
    simp only [List.all_cons, Bool.and_eq_true] at h
    simp only [insertAt]
    split
    · simp [List.all_cons, hx, h.2]
    · split
      · simp [List.all_cons, hx, h.1, h.2]
      · simp [List.all_cons, h.1, ih h.2]

section Store
variable [DecidableEq V]

theorem SMap.wf_rising {d : Nat → V} {m : SMap V} (h : SMap.wf d m = true) : risingFrom 0 m = true := by
  simp only [SMap.wf, Bool.and_eq_true] at h; exact h.1

theorem SMap.wf_nil (d : Nat → V) : SMap.wf d [] = true := rfl

theorem SMap.wf_filter {d : Nat → V} {m : SMap V} (p : Nat × V → Bool) (h : SMap.wf d m = true) : SMap.wf d (m.filter p) = true := by
  simp only [SMap.wf, Bool.and_eq_true, List.all_eq_true] at h ⊢
  exact ⟨risingFrom_filter p h.1, fun x hx => h.2 x (List.mem_filter.1 hx).1⟩

/-- A store under the default of its key keeps the canonical form. -/
theorem SMap.wf_store {d : Nat → V} {m : SMap V} (a : Nat) (x : V) (h : SMap.wf d m = true) : SMap.wf d (store (d a) m a x) = true := by
  simp only [SMap.wf, Bool.and_eq_true] at h ⊢
  simp only [store]
  split
  · exact ⟨risingFrom_erase h.1, all_erase h.2⟩
  · next hx => exact ⟨risingFrom_insertAt h.1 (Nat.zero_le _), all_insertAt h.2 (by simp [hx])⟩

/-- A store keeps rising keys. -/
theorem rising_store {dflt : V} {m : SMap V} {a : Nat} {x : V} (h : risingFrom 0 m = true) : risingFrom 0 (store dflt m a x) = true := by
  simp only [store]
  split
  · exact risingFrom_erase h
  · exact risingFrom_insertAt h (Nat.zero_le _)

/-- The key stored reads as the value stored. -/
theorem look_store_self {dflt : V} {m : SMap V} {a : Nat} {x : V} (h : risingFrom 0 m = true) : look dflt (store dflt m a x) a = x := by
  simp only [look, store]
  split
  · next hx => rw [lookup?_erase_self h, hx]; rfl
  · rw [lookup?_insertAt_self]; rfl

/-- Every other key reads as before. -/
theorem look_store_ne {dflt e : V} {m : SMap V} {a b : Nat} {x : V} (h : risingFrom 0 m = true) (hne : a ≠ b) :
    look e (store dflt m a x) b = look e m b := by
  simp only [look, store]
  split
  · rw [lookup?_erase_ne h hne]
  · rw [lookup?_insertAt_ne hne]

end Store
end Sys2Proof.Machine
end

