-- ==== Sys2Proof/Laws/Ops.lean ====
section
/-! SUPPORT. Ops: the laws of registers and their fields, and of the stores of memory: what a write leaves where it wrote, and that it leaves
everything else. -/
namespace Sys2Proof.Machine

/-! ## The parts of the canonical form -/

theorem Dev.canon_regs {d : Dev} (h : d.canon) : regsWf d.regs = true := h.1
theorem Dev.canon_mem {d : Dev} (h : d.canon) : Memory.wf d.mem = true := h.2.1
theorem Dev.canon_lineErr {d : Dev} (h : d.canon) : SMap.wf (fun _ => 0#16) d.lineErr = true := h.2.2.1
theorem Dev.canon_written {d : Dev} (h : d.canon) : SMap.wf (fun _ => false) d.written = true := h.2.2.2.1
theorem Dev.canon_tiles {d : Dev} (h : d.canon) : SMap.wf (fun _ => TileState.init) d.tiles = true := h.2.2.2.2.1
theorem Dev.canon_cfg {d : Dev} (h : d.canon) : SMap.wf (fun _ => []) d.cfg = true := h.2.2.2.2.2.1
theorem Dev.canon_knead {d : Dev} (h : d.canon) : SMap.wf (fun _ => KneadCore.init) d.knead = true := h.2.2.2.2.2.2.1
theorem Dev.canon_sieves {d : Dev} (h : d.canon) : SMap.wf (fun _ => SieveState.init) d.sieves = true := h.2.2.2.2.2.2.2.1
theorem Dev.canon_tiers {d : Dev} (h : d.canon) : SMap.wf (fun _ => TierState.init) d.tiers = true := h.2.2.2.2.2.2.2.2.1
theorem Dev.canon_trays {d : Dev} (h : d.canon) : SMap.wf (fun _ => TrayState.init) d.trays = true := h.2.2.2.2.2.2.2.2.2.1
theorem Dev.canon_sched {d : Dev} (h : d.canon) : SMap.wf (fun _ => Sched.init) d.sched = true := h.2.2.2.2.2.2.2.2.2.2.1
theorem Dev.canon_sig {d : Dev} (h : d.canon) : SMap.wf (fun _ => SigCoreState.init) d.sig = true := h.2.2.2.2.2.2.2.2.2.2.2.1
theorem Dev.canon_codec {d : Dev} (h : d.canon) : SMap.wf (fun _ => CodecState.init) d.codec = true := h.2.2.2.2.2.2.2.2.2.2.2.2.1
theorem Dev.canon_radio {d : Dev} (h : d.canon) : SMap.wf (fun _ => RadioState.init) d.radio = true := h.2.2.2.2.2.2.2.2.2.2.2.2.2.1
theorem Dev.canon_ports {d : Dev} (h : d.canon) : SMap.wf (fun _ => PortState.init) d.ports = true := h.2.2.2.2.2.2.2.2.2.2.2.2.2.2.1
theorem Dev.canon_slices {d : Dev} (h : d.canon) : SMap.wf (fun _ => SliceState.init) d.slices = true := h.2.2.2.2.2.2.2.2.2.2.2.2.2.2.2.1
theorem Dev.canon_pairs {d : Dev} (h : d.canon) : SMap.wf (fun _ => BraidSrc.init) d.braid.pairs = true := h.2.2.2.2.2.2.2.2.2.2.2.2.2.2.2.2.1
theorem Dev.canon_dests {d : Dev} (h : d.canon) : SMap.wf (fun _ => BraidDst.init) d.braid.dests = true := h.2.2.2.2.2.2.2.2.2.2.2.2.2.2.2.2.2.1
theorem Dev.canon_links {d : Dev} (h : d.canon) : SMap.wf (fun _ => BraidLink.init) d.braid.links = true := h.2.2.2.2.2.2.2.2.2.2.2.2.2.2.2.2.2.2

/-- A device whose stores and collections are those of a device in canonical form is in canonical form. -/
theorem Dev.canon_of {d e : Dev} (h : d.canon)
    (h0 : e.regs = d.regs) (h1 : e.mem = d.mem) (h2 : e.lineErr = d.lineErr) (h3 : e.written = d.written)
    (h4 : e.tiles = d.tiles) (h5 : e.cfg = d.cfg) (h6 : e.knead = d.knead) (h7 : e.sieves = d.sieves)
    (h8 : e.tiers = d.tiers) (h9 : e.trays = d.trays) (h10 : e.sched = d.sched) (h11 : e.sig = d.sig)
    (h12 : e.codec = d.codec) (h13 : e.radio = d.radio) (h14 : e.ports = d.ports) (h15 : e.slices = d.slices)
    (h16 : e.braid.pairs = d.braid.pairs) (h17 : e.braid.dests = d.braid.dests) (h18 : e.braid.links = d.braid.links) : e.canon := by
  simpa only [Dev.canon, h0, h1, h2, h3, h4, h5, h6, h7, h8, h9, h10, h11, h12, h13, h14, h15, h16, h17, h18] using h

/-! ## Fields of a word -/

/-- The field lies in a word. -/
def Fld.fits (f : Fld) : Prop := f.lo + f.w ≤ 64
/-- Two fields of a word share no bit. -/
def Fld.apart (f g : Fld) : Prop := f.lo + f.w ≤ g.lo ∨ g.lo + g.w ≤ f.lo

/-- A word without one field, as a number below it and a number above it. -/
theorem word_split (f : Fld) (n : Nat) : n = n % 2 ^ f.lo + 2 ^ f.lo * (n / 2 ^ f.lo % 2 ^ f.w) + 2 ^ (f.lo + f.w) * (n / 2 ^ (f.lo + f.w)) := by
  have h1 := Nat.mod_add_div n (2 ^ f.lo)
  have h2 := Nat.mod_add_div (n / 2 ^ f.lo) (2 ^ f.w)
  rw [Nat.div_div_eq_div_mul, ← Nat.pow_add] at h2
  calc n = n % 2 ^ f.lo + 2 ^ f.lo * (n / 2 ^ f.lo) := h1.symm
    _ = n % 2 ^ f.lo + 2 ^ f.lo * (n / 2 ^ f.lo % 2 ^ f.w + 2 ^ f.w * (n / 2 ^ (f.lo + f.w))) := by rw [h2]
    _ = _ := by ring

/-- The number of a word with one field replaced. -/
theorem putField_toNat (f : Fld) (w : Word) (v : Nat) (hf : f.fits) :
    (putField f w v).toNat = w.toNat % 2 ^ f.lo + 2 ^ f.lo * (v % 2 ^ f.w) + 2 ^ (f.lo + f.w) * (w.toNat / 2 ^ (f.lo + f.w)) := by
  have hs := word_split f w.toNat
  have hlt := w.isLt
  have e1 : w.toNat - fieldOf f w * 2 ^ f.lo + v % 2 ^ f.w * 2 ^ f.lo =
      w.toNat % 2 ^ f.lo + 2 ^ f.lo * (v % 2 ^ f.w) + 2 ^ (f.lo + f.w) * (w.toNat / 2 ^ (f.lo + f.w)) := by
    rw [fieldOf, Nat.mul_comm _ (2 ^ f.lo), Nat.mul_comm (v % _) (2 ^ f.lo)]
    generalize 2 ^ f.lo * (w.toNat / 2 ^ f.lo % 2 ^ f.w) = x at *
    omega
  rw [putField, BitVec.toNat_ofNat, e1]
  apply Nat.mod_eq_of_lt
  have h1 : w.toNat % 2 ^ f.lo < 2 ^ f.lo := Nat.mod_lt _ (Nat.two_pow_pos _)
  have h2 : v % 2 ^ f.w < 2 ^ f.w := Nat.mod_lt _ (Nat.two_pow_pos _)
  have h3 : w.toNat % 2 ^ f.lo + 2 ^ f.lo * (v % 2 ^ f.w) < 2 ^ (f.lo + f.w) := by
    rw [Nat.pow_add]
    calc _ < 2 ^ f.lo + 2 ^ f.lo * (v % 2 ^ f.w) := by omega
      _ = 2 ^ f.lo * (v % 2 ^ f.w + 1) := by rw [Nat.mul_add]; omega
      _ ≤ _ := Nat.mul_le_mul_left _ h2
  have h4 : w.toNat / 2 ^ (f.lo + f.w) + 1 ≤ 2 ^ (64 - (f.lo + f.w)) := by
    have : w.toNat < 2 ^ (f.lo + f.w) * 2 ^ (64 - (f.lo + f.w)) := by
      rw [← Nat.pow_add, Nat.add_sub_cancel' hf]; exact hlt
    exact (Nat.div_lt_iff_lt_mul (Nat.two_pow_pos _)).2 (by rw [Nat.mul_comm]; exact this)
  calc _ < 2 ^ (f.lo + f.w) + 2 ^ (f.lo + f.w) * (w.toNat / 2 ^ (f.lo + f.w)) := by omega
    _ = 2 ^ (f.lo + f.w) * (w.toNat / 2 ^ (f.lo + f.w) + 1) := by rw [Nat.mul_add]; omega
    _ ≤ 2 ^ (f.lo + f.w) * 2 ^ (64 - (f.lo + f.w)) := Nat.mul_le_mul_left _ h4
    _ = 2 ^ 64 := by rw [← Nat.pow_add, Nat.add_sub_cancel' hf]

/-- A field replaced reads as the value, cut to its width. -/
theorem fieldOf_putField (f : Fld) (w : Word) (v : Nat) (hf : f.fits) : fieldOf f (putField f w v) = v % 2 ^ f.w := by
  rw [fieldOf, putField_toNat f w v hf]
  have h1 : w.toNat % 2 ^ f.lo < 2 ^ f.lo := Nat.mod_lt _ (Nat.two_pow_pos _)
  have e : w.toNat % 2 ^ f.lo + 2 ^ f.lo * (v % 2 ^ f.w) + 2 ^ (f.lo + f.w) * (w.toNat / 2 ^ (f.lo + f.w)) =
      2 ^ f.lo * (v % 2 ^ f.w + 2 ^ f.w * (w.toNat / 2 ^ (f.lo + f.w))) + w.toNat % 2 ^ f.lo := by
    rw [Nat.mul_add, Nat.pow_add, Nat.mul_assoc]; omega
  rw [e, Nat.mul_add_div (Nat.two_pow_pos _), Nat.div_eq_of_lt h1, Nat.add_zero, Nat.add_mul_mod_self_left]
  exact Nat.mod_eq_of_lt (Nat.mod_lt _ (Nat.two_pow_pos _))

/-- A field of a width of bits that a word's lower bits decide. -/
theorem fieldOf_low (g : Fld) (n : Nat) (k : Nat) (h : g.lo + g.w ≤ k) : n % 2 ^ k / 2 ^ g.lo % 2 ^ g.w = n / 2 ^ g.lo % 2 ^ g.w := by
  obtain ⟨j, rfl⟩ := Nat.exists_eq_add_of_le (show g.lo ≤ k by omega)
  rw [Nat.pow_add, Nat.mod_mul_right_div_self, Nat.mod_mod_of_dvd]
  exact Nat.pow_dvd_pow 2 (by omega)

/-- A field apart from the one replaced keeps its value. -/
theorem fieldOf_putField_apart (f g : Fld) (w : Word) (v : Nat) (hf : f.fits) (h : f.apart g) :
    fieldOf g (putField f w v) = fieldOf g w := by
  rw [fieldOf, fieldOf, putField_toNat f w v hf]
  have h1 : w.toNat % 2 ^ f.lo < 2 ^ f.lo := Nat.mod_lt _ (Nat.two_pow_pos _)
  have h2 : v % 2 ^ f.w < 2 ^ f.w := Nat.mod_lt _ (Nat.two_pow_pos _)
  rcases h with h | h
  · obtain ⟨j, hj⟩ := Nat.exists_eq_add_of_le h
    have h3 : w.toNat % 2 ^ f.lo + 2 ^ f.lo * (v % 2 ^ f.w) < 2 ^ (f.lo + f.w) := by
      rw [Nat.pow_add]
      calc _ < 2 ^ f.lo + 2 ^ f.lo * (v % 2 ^ f.w) := by omega
        _ = 2 ^ f.lo * (v % 2 ^ f.w + 1) := by rw [Nat.mul_add]; omega
        _ ≤ _ := Nat.mul_le_mul_left _ h2
    have e : 2 ^ g.lo = 2 ^ (f.lo + f.w) * 2 ^ j := by rw [hj, Nat.pow_add]
    rw [e, ← Nat.div_div_eq_div_mul, ← Nat.div_div_eq_div_mul, Nat.add_mul_div_left _ _ (Nat.two_pow_pos _),
      Nat.div_eq_of_lt h3, Nat.zero_add]
  · rw [← fieldOf_low g _ f.lo h, ← fieldOf_low g w.toNat f.lo h]
    congr 2
    rw [Nat.pow_add, Nat.mul_assoc, Nat.add_mul_mod_self_left, Nat.add_mul_mod_self_left, Nat.mod_mod]

/-! ## Registers -/

variable {d : Dev}

theorem Dev.canon_rising (h : d.canon) : risingFrom 0 d.regs = true := SMap.wf_rising h.1

/-- A register written reads as the word written. -/
theorem Dev.reg_setReg_self (a : Nat) (v : Word) (h : d.canon) : (d.setReg a v).reg a = v := by
  have := look_store_self (dflt := regReset a) (a := a) (x := v) (d.canon_rising h)
  simp only [look] at this
  simp only [Dev.reg, Dev.setReg]
  split
  · next w hw => rw [hw] at this; exact this
  · next hw => rw [hw] at this; exact this

/-- Every other register reads as before. -/
theorem Dev.reg_setReg_ne {a b : Nat} (v : Word) (h : d.canon) (hne : a ≠ b) : (d.setReg a v).reg b = d.reg b := by
  have hl : lookup? (store (regReset a) d.regs a v) b = lookup? d.regs b := by
    simp only [store]
    split
    · exact lookup?_erase_ne (d.canon_rising h) hne
    · exact lookup?_insertAt_ne hne
  simp only [Dev.reg, Dev.setReg, hl]

theorem Dev.canon_setReg (a : Nat) (v : Word) (h : d.canon) : (d.setReg a v).canon := ⟨SMap.wf_store a v h.1, h.2⟩
theorem Dev.canon_setF (a : Nat) (f : Fld) (v : Nat) (h : d.canon) : (d.setF a f v).canon := Dev.canon_setReg _ _ h
theorem Dev.canon_setB (a : Nat) (f : Fld) (b : Bool) (h : d.canon) : (d.setB a f b).canon := Dev.canon_setReg _ _ h
theorem Dev.canon_setFs (a : Nat) (l : List (Fld × Nat)) (h : d.canon) : (d.setFs a l).canon := Dev.canon_setReg _ _ h

/-- A register whose fields were set reads as they were set in order. -/
theorem Dev.reg_setFs_self (a : Nat) (l : List (Fld × Nat)) (h : d.canon) :
    (d.setFs a l).reg a = l.foldl (fun w p => putField p.1 w p.2) (d.reg a) := Dev.reg_setReg_self _ _ h
/-- Every other register reads as before. -/
theorem Dev.reg_setFs_ne {a b : Nat} (l : List (Fld × Nat)) (h : d.canon) (hne : a ≠ b) : (d.setFs a l).reg b = d.reg b :=
  Dev.reg_setReg_ne _ h hne
/-- Devices of equal register files read equally. -/
theorem Dev.reg_of {d e : Dev} (h : e.regs = d.regs) : e.reg = d.reg := by funext a; simp only [Dev.reg, h]

/-- A field set reads as the value, cut to its width. -/
theorem Dev.getF_setF (a : Nat) (f : Fld) (v : Nat) (h : d.canon) (hf : f.fits) : (d.setF a f v).getF a f = v % 2 ^ f.w := by
  rw [Dev.getF, Dev.setF, Dev.reg_setReg_self a _ h, fieldOf_putField f _ v hf]
/-- The other fields of the register keep their values. -/
theorem Dev.getF_setF_apart (a : Nat) (f g : Fld) (v : Nat) (h : d.canon) (hf : f.fits) (hfg : f.apart g) :
    (d.setF a f v).getF a g = d.getF a g := by
  rw [Dev.getF, Dev.setF, Dev.reg_setReg_self a _ h, fieldOf_putField_apart f g _ v hf hfg, Dev.getF]
/-- The fields of every other register keep their values. -/
theorem Dev.getF_setF_ne {a b : Nat} (f g : Fld) (v : Nat) (h : d.canon) (hne : a ≠ b) : (d.setF a f v).getF b g = d.getF b g := by
  rw [Dev.getF, Dev.setF, Dev.reg_setReg_ne _ h hne, Dev.getF]
/-- Setting a field changes no other register. -/
theorem Dev.sameRegs_setF (a : Nat) (f : Fld) (v : Nat) (h : d.canon) : d.sameRegs (d.setF a f v) (· = a) :=
  fun _ hb => Dev.reg_setReg_ne _ h (fun e => hb e.symm)

/-- The statistics rule (R30): a counter below its largest value rises by the amount; else it stands there with its overflow bit set. -/
theorem Dev.getF_count (a : Nat) (f : Fld) (n : Nat) (h : d.canon) (hf : f.lo + f.w + 1 ≤ 64) (hv : d.getF a f + n < 2 ^ f.w) :
    (d.count a f n).getF a f = d.getF a f + n := by
  simp only [Dev.count, beq_iff_eq]
  split
  · next h0 => rw [h0, Nat.add_zero]
  · rw [Dev.getF_setF a f _ h (by simp only [Fld.fits]; omega), Nat.mod_eq_of_lt hv]

/-! ## Memory -/

theorem rising_storeBytes {m : SMap Byte} (a : Nat) (l : Bytes) (h : risingFrom 0 m = true) : risingFrom 0 (storeBytes m a l) = true := by
  induction l generalizing m a with
  | nil => exact h
  | cons b r ih => exact ih _ (rising_store h)

/-- Storing bytes keeps the canonical form of memory. -/
theorem Memory.wf_storeBytes {m : SMap Byte} (a : Nat) (l : Bytes) (h : Memory.wf m = true) : Memory.wf (storeBytes m a l) = true := by
  induction l generalizing m a with
  | nil => exact h
  | cons b r ih => exact ih _ (SMap.wf_store (d := fun _ => memDflt) a b h)

/-- A byte outside the bytes stored reads as before. -/
theorem look_storeBytes_out {m : SMap Byte} (a b : Nat) (l : Bytes) (h : risingFrom 0 m = true) (hb : b < a ∨ a + l.length ≤ b) :
    look memDflt (storeBytes m a l) b = look memDflt m b := by
  induction l generalizing m a with
  | nil => rfl
  | cons x r ih =>
    simp only [List.length_cons] at hb
    rw [storeBytes, ih _ (rising_store h) (by omega), look_store_ne h (by omega)]

/-- A byte stored reads as it was given. -/
theorem look_storeBytes_in {m : SMap Byte} (a i : Nat) (l : Bytes) (h : risingFrom 0 m = true) (hi : i < l.length) :
    look memDflt (storeBytes m a l) (a + i) = l[i] := by
  induction l generalizing m a i with
  | nil => simp at hi
  | cons x r ih =>
    rw [storeBytes]
    cases i with
    | zero =>
      rw [look_storeBytes_out _ _ _ (rising_store h) (by omega), Nat.add_zero, look_store_self h]; rfl
    | succ j =>
      have := ih (m := store memDflt m a x) (a + 1) j (rising_store h) (by simpa using hi)
      rw [show a + (j + 1) = a + 1 + j by omega, this]; rfl

theorem Dev.canon_foldl {α : Type} (f : Dev → α → Dev) (l : List α) (hf : ∀ d x, Dev.canon d → (f d x).canon) {d : Dev} (h : d.canon) :
    (l.foldl f d).canon := by
  induction l generalizing d with
  | nil => exact h
  | cons x r ih => exact ih (hf d x h)

theorem Dev.canon_touchLine (whole : Bool) (line : Nat) (h : d.canon) : (Dev.touchLine whole d line).canon :=
  ⟨h.1, h.2.1, SMap.wf_store (d := fun _ => 0#16) line _ h.2.2.1, SMap.wf_store (d := fun _ => false) line true h.2.2.2.1, h.2.2.2.2⟩

theorem Dev.mem_touchLines (w : Nat → Bool) (g : Nat → Nat) (l : List Nat) (d : Dev) :
    (l.foldl (fun d i => Dev.touchLine (w i) d (g i)) d).mem = d.mem := by
  induction l generalizing d with
  | nil => rfl
  | cons x r ih => exact ih _
/-- The bytes after a write. -/
theorem Dev.mem_write (a : Nat) (l : Bytes) : (d.write a l).mem = storeBytes d.mem a l := by
  simp only [Dev.write]
  split
  · next h => rw [List.isEmpty_iff.1 h]; rfl
  · simp only
    rw [Dev.mem_touchLines (fun i => decide (a ≤ (a / 64 + i) * 64) && decide ((a / 64 + i) * 64 + 64 ≤ a + l.length)) (a / 64 + ·)]

/-- A write keeps the canonical form of every store. -/
theorem Dev.canon_write (a : Nat) (l : Bytes) (h : d.canon) : (d.write a l).canon := by
  simp only [Dev.write]
  split
  · exact h
  · have h2 := Dev.canon_foldl (fun d i => Dev.touchLine (decide (a ≤ (a / 64 + i) * 64) && decide ((a / 64 + i) * 64 + 64 ≤ a + l.length)) d (a / 64 + i))
      (List.range ((a + l.length - 1) / 64 + 1 - a / 64)) (fun d i hd => Dev.canon_touchLine _ _ hd) h
    exact ⟨h2.1, Memory.wf_storeBytes a l h2.2.1, h2.2.2⟩

/-- A write changes no byte outside its own. -/
theorem Dev.byte_write_out (a b : Nat) (l : Bytes) (h : d.canon) (hb : b < a ∨ a + l.length ≤ b) : (d.write a l).byte b = d.byte b := by
  rw [Dev.byte, Dev.mem_write]
  exact look_storeBytes_out a b l (SMap.wf_rising h.2.1) hb
/-- A byte written reads as written. -/
theorem Dev.byte_write_in (a i : Nat) (l : Bytes) (h : d.canon) (hi : i < l.length) : (d.write a l).byte (a + i) = l[i] := by
  rw [Dev.byte, Dev.mem_write]
  exact look_storeBytes_in a i l (SMap.wf_rising h.2.1) hi

/-- Zeroing a range keeps the canonical form. -/
theorem Dev.canon_zeroRange (lo hi : Nat) (wr : Bool) (h : d.canon) : (d.zeroRange lo hi wr).canon := by
  have h1 : Dev.canon { d with mem := d.mem.filter fun c => decide (c.1 < lo) || decide (hi ≤ c.1)
                               lineErr := d.lineErr.filter fun c => decide (c.1 * 64 < lo) || decide (hi ≤ c.1 * 64)
                               written := d.written.filter fun c => decide (c.1 * 64 < lo) || decide (hi ≤ c.1 * 64) } :=
    ⟨h.1, SMap.wf_filter _ h.2.1, SMap.wf_filter _ h.2.2.1, SMap.wf_filter _ h.2.2.2.1, h.2.2.2.2⟩
  simp only [Dev.zeroRange]
  split
  · exact Dev.canon_foldl (fun d i => { d with written := store false d.written (lo / 64 + i) true }) _
      (fun d i hd => ⟨hd.1, hd.2.1, hd.2.2.1, SMap.wf_store (d := fun _ => false) (lo / 64 + i) true hd.2.2.2.1, hd.2.2.2.2⟩) h1
  · exact h1

/-- Returning registers to their power-on values keeps the canonical form. -/
theorem Dev.canon_resetRegs (p : RegRow → List Nat → Bool) (h : d.canon) : (d.resetRegs p).canon := ⟨SMap.wf_filter _ h.1, h.2⟩

/-- The device at power-on is in canonical form. -/
theorem Dev.canon_init : Dev.init.canon := ⟨rfl, rfl, rfl, rfl, rfl, rfl, rfl, rfl, rfl, rfl, rfl, rfl, rfl, rfl, rfl, rfl, rfl, rfl, rfl⟩

end Sys2Proof.Machine
end

