-- ==== Sys2Proof/Laws/Run.lean ====
section
/-! SUPPORT. Run: how a command's outcome follows from its effect on the device, one lemma for each way in which a meaning is run. -/
namespace Sys2Proof.Machine

/-- While the supply serves, a command's outcome is its effect on the device. -/
theorem ran_on {s : State} {f : Dev → Dev} (h : s.on) : ran s f = .next { s with dev := f s.dev } := by
  have h : s.dev.power.off = 0 := h
  simp [ran, h]
/-- A device that is shut down answers no command. -/
theorem ran_off {s : State} {f : Dev → Dev} (h : ¬ s.on) : ran s f = .next s := by
  have h : ¬ s.dev.power.off = 0 := h
  simp [ran, h]
/-- A served access has its effect. -/
theorem ranSys_serves {s : State} {m : Master} {f : Dev → Dev} (h : s.serves m) : ranSys m s f = .next { s with dev := f s.dev } := by
  rw [ranSys, ran_on h.1]
  simp [h.2]
/-- A host access that IDE_REQUIRED keeps out changes nothing. -/
theorem ranSys_blocked {s : State} {m : Master} {f : Dev → Dev} (h : (fromHost m && s.dev.ideBlocked) = true) : ranSys m s f = .next s := by
  simp only [ranSys, ran, h, if_true]
  split <;> rfl
/-- A served write outside SYS and SEC has its effect. -/
theorem ranFrom_admits {s : State} {m : Master} {f : Dev → Dev} (h : s.admits m) : ranFrom m s f = .next { s with dev := f s.dev } := by
  rw [ranFrom, ranSys_serves h.1]
  simp [h.2]
/-- A served read outside SYS and SEC has its effect. -/
theorem ranRead_admits {s : State} {m : Master} {f : Dev → Dev} (h : s.admits m) : ranRead m s f = .next { s with dev := f s.dev } := by
  rw [ranRead, ranSys_serves h.1]
  simp [h.2]

variable {c : Instr} {s : State} {m : Master} {f : Dev → Dev} {p : Dev → Prop}

/-- A command of a supplied device runs with what its effect leaves. -/
theorem runs_ran (he : exec c s = ran s f) (h : s.on) (hp : p (f s.dev)) : Runs c s p := ⟨_, he.trans (ran_on h), hp⟩
/-- A served access to SYS or SEC runs with what its effect leaves. -/
theorem runs_ranSys (he : exec c s = ranSys m s f) (h : s.serves m) (hp : p (f s.dev)) : Runs c s p := ⟨_, he.trans (ranSys_serves h), hp⟩
/-- A served write runs with what its effect leaves. -/
theorem runs_ranFrom (he : exec c s = ranFrom m s f) (h : s.admits m) (hp : p (f s.dev)) : Runs c s p := ⟨_, he.trans (ranFrom_admits h), hp⟩
/-- A served read runs with what its effect leaves. -/
theorem runs_ranRead (he : exec c s = ranRead m s f) (h : s.admits m) (hp : p (f s.dev)) : Runs c s p := ⟨_, he.trans (ranRead_admits h), hp⟩

end Sys2Proof.Machine
end

