-- ==== Sys2Proof/Laws/State.lean ====
section
/-! SUPPORT. State: what each update of the device leaves as it was, one lemma per field and update, and what the field it changes is then. -/
namespace Sys2Proof.Machine

variable (d : Dev)

/-! ### setReg -/

@[simp] theorem Dev.setReg_now (a : Nat) (v : Word) : (d.setReg a v).now = d.now := (rfl)
@[simp] theorem Dev.setReg_edge (a : Nat) (v : Word) : (d.setReg a v).edge = d.edge := (rfl)
@[simp] theorem Dev.setReg_free (a : Nat) (v : Word) : (d.setReg a v).free = d.free := (rfl)
@[simp] theorem Dev.setReg_readOut (a : Nat) (v : Word) : (d.setReg a v).readOut = d.readOut := (rfl)
@[simp] theorem Dev.setReg_mem (a : Nat) (v : Word) : (d.setReg a v).mem = d.mem := (rfl)
@[simp] theorem Dev.setReg_lineErr (a : Nat) (v : Word) : (d.setReg a v).lineErr = d.lineErr := (rfl)
@[simp] theorem Dev.setReg_written (a : Nat) (v : Word) : (d.setReg a v).written = d.written := (rfl)
@[simp] theorem Dev.setReg_ev (a : Nat) (v : Word) : (d.setReg a v).ev = d.ev := (rfl)
@[simp] theorem Dev.setReg_hostWrites (a : Nat) (v : Word) : (d.setReg a v).hostWrites = d.hostWrites := (rfl)
@[simp] theorem Dev.setReg_hostNext (a : Nat) (v : Word) : (d.setReg a v).hostNext = d.hostNext := (rfl)
@[simp] theorem Dev.setReg_sent (a : Nat) (v : Word) : (d.setReg a v).sent = d.sent := (rfl)
@[simp] theorem Dev.setReg_tiles (a : Nat) (v : Word) : (d.setReg a v).tiles = d.tiles := (rfl)
@[simp] theorem Dev.setReg_ctrs (a : Nat) (v : Word) : (d.setReg a v).ctrs = d.ctrs := (rfl)
@[simp] theorem Dev.setReg_cfg (a : Nat) (v : Word) : (d.setReg a v).cfg = d.cfg := (rfl)
@[simp] theorem Dev.setReg_knead (a : Nat) (v : Word) : (d.setReg a v).knead = d.knead := (rfl)
@[simp] theorem Dev.setReg_sieves (a : Nat) (v : Word) : (d.setReg a v).sieves = d.sieves := (rfl)
@[simp] theorem Dev.setReg_tiers (a : Nat) (v : Word) : (d.setReg a v).tiers = d.tiers := (rfl)
@[simp] theorem Dev.setReg_asks (a : Nat) (v : Word) : (d.setReg a v).asks = d.asks := (rfl)
@[simp] theorem Dev.setReg_trays (a : Nat) (v : Word) : (d.setReg a v).trays = d.trays := (rfl)
@[simp] theorem Dev.setReg_sched (a : Nat) (v : Word) : (d.setReg a v).sched = d.sched := (rfl)
@[simp] theorem Dev.setReg_sig (a : Nat) (v : Word) : (d.setReg a v).sig = d.sig := (rfl)
@[simp] theorem Dev.setReg_codec (a : Nat) (v : Word) : (d.setReg a v).codec = d.codec := (rfl)
@[simp] theorem Dev.setReg_radio (a : Nat) (v : Word) : (d.setReg a v).radio = d.radio := (rfl)
@[simp] theorem Dev.setReg_ports (a : Nat) (v : Word) : (d.setReg a v).ports = d.ports := (rfl)
@[simp] theorem Dev.setReg_time (a : Nat) (v : Word) : (d.setReg a v).time = d.time := (rfl)
@[simp] theorem Dev.setReg_sampled (a : Nat) (v : Word) : (d.setReg a v).sampled = d.sampled := (rfl)
@[simp] theorem Dev.setReg_braid (a : Nat) (v : Word) : (d.setReg a v).braid = d.braid := (rfl)
@[simp] theorem Dev.setReg_power (a : Nat) (v : Word) : (d.setReg a v).power = d.power := (rfl)
@[simp] theorem Dev.setReg_peelSeen (a : Nat) (v : Word) : (d.setReg a v).peelSeen = d.peelSeen := (rfl)
@[simp] theorem Dev.setReg_slices (a : Nat) (v : Word) : (d.setReg a v).slices = d.slices := (rfl)
@[simp] theorem Dev.setReg_sliceTick (a : Nat) (v : Word) : (d.setReg a v).sliceTick = d.sliceTick := (rfl)
@[simp] theorem Dev.setReg_integ (a : Nat) (v : Word) : (d.setReg a v).integ = d.integ := (rfl)
@[simp] theorem Dev.setReg_memb (a : Nat) (v : Word) : (d.setReg a v).memb = d.memb := (rfl)
@[simp] theorem Dev.setReg_sp (a : Nat) (v : Word) : (d.setReg a v).sp = d.sp := (rfl)
@[simp] theorem Dev.setReg_recipe (a : Nat) (v : Word) : (d.setReg a v).recipe = d.recipe := (rfl)
@[simp] theorem Dev.setReg_byte (a : Nat) (v : Word) (r : Nat) : (d.setReg a v).byte r = d.byte r := (rfl)
@[simp] theorem Dev.setReg_errOf (a : Nat) (v : Word) (r : Nat) : (d.setReg a v).errOf r = d.errOf r := (rfl)
@[simp] theorem Dev.setReg_section_ (a : Nat) (v : Word) (y r : Nat) : (d.setReg a v).section_ y r = d.section_ y r := (rfl)
@[simp] theorem Dev.setReg_tile (a : Nat) (v : Word) (r : Nat) : (d.setReg a v).tile r = d.tile r := (rfl)
@[simp] theorem Dev.setReg_kn (a : Nat) (v : Word) (r y : Nat) : (d.setReg a v).kn r y = d.kn r y := (rfl)
@[simp] theorem Dev.setReg_sieve (a : Nat) (v : Word) (r y : Nat) : (d.setReg a v).sieve r y = d.sieve r y := (rfl)
@[simp] theorem Dev.setReg_tier (a : Nat) (v : Word) (r : Nat) : (d.setReg a v).tier r = d.tier r := (rfl)
@[simp] theorem Dev.setReg_tray (a : Nat) (v : Word) (r : Nat) : (d.setReg a v).tray r = d.tray r := (rfl)
@[simp] theorem Dev.setReg_sch (a : Nat) (v : Word) (r : Nat) : (d.setReg a v).sch r = d.sch r := (rfl)
@[simp] theorem Dev.setReg_sg (a : Nat) (v : Word) (r y : Nat) : (d.setReg a v).sg r y = d.sg r y := (rfl)
@[simp] theorem Dev.setReg_codecSt (a : Nat) (v : Word) (r y : Nat) : (d.setReg a v).codecSt r y = d.codecSt r y := (rfl)
@[simp] theorem Dev.setReg_rad (a : Nat) (v : Word) (r : Nat) : (d.setReg a v).rad r = d.rad r := (rfl)
@[simp] theorem Dev.setReg_port (a : Nat) (v : Word) (y : GatePort) : (d.setReg a v).port y = d.port y := (rfl)
@[simp] theorem Dev.setReg_sli (a : Nat) (v : Word) (r : Nat) : (d.setReg a v).sli r = d.sli r := (rfl)
@[simp] theorem Dev.setReg_pair (a : Nat) (v : Word) (r : Nat) : (d.setReg a v).pair r = d.pair r := (rfl)
@[simp] theorem Dev.setReg_far (a : Nat) (v : Word) (r : Nat) : (d.setReg a v).far r = d.far r := (rfl)
@[simp] theorem Dev.setReg_blink (a : Nat) (v : Word) (r : Nat) : (d.setReg a v).blink r = d.blink r := (rfl)

/-! ### setF -/

@[simp] theorem Dev.setF_now (a : Nat) (f : Fld) (v : Nat) : (d.setF a f v).now = d.now := (rfl)
@[simp] theorem Dev.setF_edge (a : Nat) (f : Fld) (v : Nat) : (d.setF a f v).edge = d.edge := (rfl)
@[simp] theorem Dev.setF_free (a : Nat) (f : Fld) (v : Nat) : (d.setF a f v).free = d.free := (rfl)
@[simp] theorem Dev.setF_readOut (a : Nat) (f : Fld) (v : Nat) : (d.setF a f v).readOut = d.readOut := (rfl)
@[simp] theorem Dev.setF_mem (a : Nat) (f : Fld) (v : Nat) : (d.setF a f v).mem = d.mem := (rfl)
@[simp] theorem Dev.setF_lineErr (a : Nat) (f : Fld) (v : Nat) : (d.setF a f v).lineErr = d.lineErr := (rfl)
@[simp] theorem Dev.setF_written (a : Nat) (f : Fld) (v : Nat) : (d.setF a f v).written = d.written := (rfl)
@[simp] theorem Dev.setF_ev (a : Nat) (f : Fld) (v : Nat) : (d.setF a f v).ev = d.ev := (rfl)
@[simp] theorem Dev.setF_hostWrites (a : Nat) (f : Fld) (v : Nat) : (d.setF a f v).hostWrites = d.hostWrites := (rfl)
@[simp] theorem Dev.setF_hostNext (a : Nat) (f : Fld) (v : Nat) : (d.setF a f v).hostNext = d.hostNext := (rfl)
@[simp] theorem Dev.setF_sent (a : Nat) (f : Fld) (v : Nat) : (d.setF a f v).sent = d.sent := (rfl)
@[simp] theorem Dev.setF_tiles (a : Nat) (f : Fld) (v : Nat) : (d.setF a f v).tiles = d.tiles := (rfl)
@[simp] theorem Dev.setF_ctrs (a : Nat) (f : Fld) (v : Nat) : (d.setF a f v).ctrs = d.ctrs := (rfl)
@[simp] theorem Dev.setF_cfg (a : Nat) (f : Fld) (v : Nat) : (d.setF a f v).cfg = d.cfg := (rfl)
@[simp] theorem Dev.setF_knead (a : Nat) (f : Fld) (v : Nat) : (d.setF a f v).knead = d.knead := (rfl)
@[simp] theorem Dev.setF_sieves (a : Nat) (f : Fld) (v : Nat) : (d.setF a f v).sieves = d.sieves := (rfl)
@[simp] theorem Dev.setF_tiers (a : Nat) (f : Fld) (v : Nat) : (d.setF a f v).tiers = d.tiers := (rfl)
@[simp] theorem Dev.setF_asks (a : Nat) (f : Fld) (v : Nat) : (d.setF a f v).asks = d.asks := (rfl)
@[simp] theorem Dev.setF_trays (a : Nat) (f : Fld) (v : Nat) : (d.setF a f v).trays = d.trays := (rfl)
@[simp] theorem Dev.setF_sched (a : Nat) (f : Fld) (v : Nat) : (d.setF a f v).sched = d.sched := (rfl)
@[simp] theorem Dev.setF_sig (a : Nat) (f : Fld) (v : Nat) : (d.setF a f v).sig = d.sig := (rfl)
@[simp] theorem Dev.setF_codec (a : Nat) (f : Fld) (v : Nat) : (d.setF a f v).codec = d.codec := (rfl)
@[simp] theorem Dev.setF_radio (a : Nat) (f : Fld) (v : Nat) : (d.setF a f v).radio = d.radio := (rfl)
@[simp] theorem Dev.setF_ports (a : Nat) (f : Fld) (v : Nat) : (d.setF a f v).ports = d.ports := (rfl)
@[simp] theorem Dev.setF_time (a : Nat) (f : Fld) (v : Nat) : (d.setF a f v).time = d.time := (rfl)
@[simp] theorem Dev.setF_sampled (a : Nat) (f : Fld) (v : Nat) : (d.setF a f v).sampled = d.sampled := (rfl)
@[simp] theorem Dev.setF_braid (a : Nat) (f : Fld) (v : Nat) : (d.setF a f v).braid = d.braid := (rfl)
@[simp] theorem Dev.setF_power (a : Nat) (f : Fld) (v : Nat) : (d.setF a f v).power = d.power := (rfl)
@[simp] theorem Dev.setF_peelSeen (a : Nat) (f : Fld) (v : Nat) : (d.setF a f v).peelSeen = d.peelSeen := (rfl)
@[simp] theorem Dev.setF_slices (a : Nat) (f : Fld) (v : Nat) : (d.setF a f v).slices = d.slices := (rfl)
@[simp] theorem Dev.setF_sliceTick (a : Nat) (f : Fld) (v : Nat) : (d.setF a f v).sliceTick = d.sliceTick := (rfl)
@[simp] theorem Dev.setF_integ (a : Nat) (f : Fld) (v : Nat) : (d.setF a f v).integ = d.integ := (rfl)
@[simp] theorem Dev.setF_memb (a : Nat) (f : Fld) (v : Nat) : (d.setF a f v).memb = d.memb := (rfl)
@[simp] theorem Dev.setF_sp (a : Nat) (f : Fld) (v : Nat) : (d.setF a f v).sp = d.sp := (rfl)
@[simp] theorem Dev.setF_recipe (a : Nat) (f : Fld) (v : Nat) : (d.setF a f v).recipe = d.recipe := (rfl)
@[simp] theorem Dev.setF_byte (a : Nat) (f : Fld) (v : Nat) (r : Nat) : (d.setF a f v).byte r = d.byte r := (rfl)
@[simp] theorem Dev.setF_errOf (a : Nat) (f : Fld) (v : Nat) (r : Nat) : (d.setF a f v).errOf r = d.errOf r := (rfl)
@[simp] theorem Dev.setF_section_ (a : Nat) (f : Fld) (v : Nat) (y r : Nat) : (d.setF a f v).section_ y r = d.section_ y r := (rfl)
@[simp] theorem Dev.setF_tile (a : Nat) (f : Fld) (v : Nat) (r : Nat) : (d.setF a f v).tile r = d.tile r := (rfl)
@[simp] theorem Dev.setF_kn (a : Nat) (f : Fld) (v : Nat) (r y : Nat) : (d.setF a f v).kn r y = d.kn r y := (rfl)
@[simp] theorem Dev.setF_sieve (a : Nat) (f : Fld) (v : Nat) (r y : Nat) : (d.setF a f v).sieve r y = d.sieve r y := (rfl)
@[simp] theorem Dev.setF_tier (a : Nat) (f : Fld) (v : Nat) (r : Nat) : (d.setF a f v).tier r = d.tier r := (rfl)
@[simp] theorem Dev.setF_tray (a : Nat) (f : Fld) (v : Nat) (r : Nat) : (d.setF a f v).tray r = d.tray r := (rfl)
@[simp] theorem Dev.setF_sch (a : Nat) (f : Fld) (v : Nat) (r : Nat) : (d.setF a f v).sch r = d.sch r := (rfl)
@[simp] theorem Dev.setF_sg (a : Nat) (f : Fld) (v : Nat) (r y : Nat) : (d.setF a f v).sg r y = d.sg r y := (rfl)
@[simp] theorem Dev.setF_codecSt (a : Nat) (f : Fld) (v : Nat) (r y : Nat) : (d.setF a f v).codecSt r y = d.codecSt r y := (rfl)
@[simp] theorem Dev.setF_rad (a : Nat) (f : Fld) (v : Nat) (r : Nat) : (d.setF a f v).rad r = d.rad r := (rfl)
@[simp] theorem Dev.setF_port (a : Nat) (f : Fld) (v : Nat) (y : GatePort) : (d.setF a f v).port y = d.port y := (rfl)
@[simp] theorem Dev.setF_sli (a : Nat) (f : Fld) (v : Nat) (r : Nat) : (d.setF a f v).sli r = d.sli r := (rfl)
@[simp] theorem Dev.setF_pair (a : Nat) (f : Fld) (v : Nat) (r : Nat) : (d.setF a f v).pair r = d.pair r := (rfl)
@[simp] theorem Dev.setF_far (a : Nat) (f : Fld) (v : Nat) (r : Nat) : (d.setF a f v).far r = d.far r := (rfl)
@[simp] theorem Dev.setF_blink (a : Nat) (f : Fld) (v : Nat) (r : Nat) : (d.setF a f v).blink r = d.blink r := (rfl)

/-! ### setB -/

@[simp] theorem Dev.setB_now (a : Nat) (f : Fld) (b : Bool) : (d.setB a f b).now = d.now := (rfl)
@[simp] theorem Dev.setB_edge (a : Nat) (f : Fld) (b : Bool) : (d.setB a f b).edge = d.edge := (rfl)
@[simp] theorem Dev.setB_free (a : Nat) (f : Fld) (b : Bool) : (d.setB a f b).free = d.free := (rfl)
@[simp] theorem Dev.setB_readOut (a : Nat) (f : Fld) (b : Bool) : (d.setB a f b).readOut = d.readOut := (rfl)
@[simp] theorem Dev.setB_mem (a : Nat) (f : Fld) (b : Bool) : (d.setB a f b).mem = d.mem := (rfl)
@[simp] theorem Dev.setB_lineErr (a : Nat) (f : Fld) (b : Bool) : (d.setB a f b).lineErr = d.lineErr := (rfl)
@[simp] theorem Dev.setB_written (a : Nat) (f : Fld) (b : Bool) : (d.setB a f b).written = d.written := (rfl)
@[simp] theorem Dev.setB_ev (a : Nat) (f : Fld) (b : Bool) : (d.setB a f b).ev = d.ev := (rfl)
@[simp] theorem Dev.setB_hostWrites (a : Nat) (f : Fld) (b : Bool) : (d.setB a f b).hostWrites = d.hostWrites := (rfl)
@[simp] theorem Dev.setB_hostNext (a : Nat) (f : Fld) (b : Bool) : (d.setB a f b).hostNext = d.hostNext := (rfl)
@[simp] theorem Dev.setB_sent (a : Nat) (f : Fld) (b : Bool) : (d.setB a f b).sent = d.sent := (rfl)
@[simp] theorem Dev.setB_tiles (a : Nat) (f : Fld) (b : Bool) : (d.setB a f b).tiles = d.tiles := (rfl)
@[simp] theorem Dev.setB_ctrs (a : Nat) (f : Fld) (b : Bool) : (d.setB a f b).ctrs = d.ctrs := (rfl)
@[simp] theorem Dev.setB_cfg (a : Nat) (f : Fld) (b : Bool) : (d.setB a f b).cfg = d.cfg := (rfl)
@[simp] theorem Dev.setB_knead (a : Nat) (f : Fld) (b : Bool) : (d.setB a f b).knead = d.knead := (rfl)
@[simp] theorem Dev.setB_sieves (a : Nat) (f : Fld) (b : Bool) : (d.setB a f b).sieves = d.sieves := (rfl)
@[simp] theorem Dev.setB_tiers (a : Nat) (f : Fld) (b : Bool) : (d.setB a f b).tiers = d.tiers := (rfl)
@[simp] theorem Dev.setB_asks (a : Nat) (f : Fld) (b : Bool) : (d.setB a f b).asks = d.asks := (rfl)
@[simp] theorem Dev.setB_trays (a : Nat) (f : Fld) (b : Bool) : (d.setB a f b).trays = d.trays := (rfl)
@[simp] theorem Dev.setB_sched (a : Nat) (f : Fld) (b : Bool) : (d.setB a f b).sched = d.sched := (rfl)
@[simp] theorem Dev.setB_sig (a : Nat) (f : Fld) (b : Bool) : (d.setB a f b).sig = d.sig := (rfl)
@[simp] theorem Dev.setB_codec (a : Nat) (f : Fld) (b : Bool) : (d.setB a f b).codec = d.codec := (rfl)
@[simp] theorem Dev.setB_radio (a : Nat) (f : Fld) (b : Bool) : (d.setB a f b).radio = d.radio := (rfl)
@[simp] theorem Dev.setB_ports (a : Nat) (f : Fld) (b : Bool) : (d.setB a f b).ports = d.ports := (rfl)
@[simp] theorem Dev.setB_time (a : Nat) (f : Fld) (b : Bool) : (d.setB a f b).time = d.time := (rfl)
@[simp] theorem Dev.setB_sampled (a : Nat) (f : Fld) (b : Bool) : (d.setB a f b).sampled = d.sampled := (rfl)
@[simp] theorem Dev.setB_braid (a : Nat) (f : Fld) (b : Bool) : (d.setB a f b).braid = d.braid := (rfl)
@[simp] theorem Dev.setB_power (a : Nat) (f : Fld) (b : Bool) : (d.setB a f b).power = d.power := (rfl)
@[simp] theorem Dev.setB_peelSeen (a : Nat) (f : Fld) (b : Bool) : (d.setB a f b).peelSeen = d.peelSeen := (rfl)
@[simp] theorem Dev.setB_slices (a : Nat) (f : Fld) (b : Bool) : (d.setB a f b).slices = d.slices := (rfl)
@[simp] theorem Dev.setB_sliceTick (a : Nat) (f : Fld) (b : Bool) : (d.setB a f b).sliceTick = d.sliceTick := (rfl)
@[simp] theorem Dev.setB_integ (a : Nat) (f : Fld) (b : Bool) : (d.setB a f b).integ = d.integ := (rfl)
@[simp] theorem Dev.setB_memb (a : Nat) (f : Fld) (b : Bool) : (d.setB a f b).memb = d.memb := (rfl)
@[simp] theorem Dev.setB_sp (a : Nat) (f : Fld) (b : Bool) : (d.setB a f b).sp = d.sp := (rfl)
@[simp] theorem Dev.setB_recipe (a : Nat) (f : Fld) (b : Bool) : (d.setB a f b).recipe = d.recipe := (rfl)
@[simp] theorem Dev.setB_byte (a : Nat) (f : Fld) (b : Bool) (r : Nat) : (d.setB a f b).byte r = d.byte r := (rfl)
@[simp] theorem Dev.setB_errOf (a : Nat) (f : Fld) (b : Bool) (r : Nat) : (d.setB a f b).errOf r = d.errOf r := (rfl)
@[simp] theorem Dev.setB_section_ (a : Nat) (f : Fld) (b : Bool) (y r : Nat) : (d.setB a f b).section_ y r = d.section_ y r := (rfl)
@[simp] theorem Dev.setB_tile (a : Nat) (f : Fld) (b : Bool) (r : Nat) : (d.setB a f b).tile r = d.tile r := (rfl)
@[simp] theorem Dev.setB_kn (a : Nat) (f : Fld) (b : Bool) (r y : Nat) : (d.setB a f b).kn r y = d.kn r y := (rfl)
@[simp] theorem Dev.setB_sieve (a : Nat) (f : Fld) (b : Bool) (r y : Nat) : (d.setB a f b).sieve r y = d.sieve r y := (rfl)
@[simp] theorem Dev.setB_tier (a : Nat) (f : Fld) (b : Bool) (r : Nat) : (d.setB a f b).tier r = d.tier r := (rfl)
@[simp] theorem Dev.setB_tray (a : Nat) (f : Fld) (b : Bool) (r : Nat) : (d.setB a f b).tray r = d.tray r := (rfl)
@[simp] theorem Dev.setB_sch (a : Nat) (f : Fld) (b : Bool) (r : Nat) : (d.setB a f b).sch r = d.sch r := (rfl)
@[simp] theorem Dev.setB_sg (a : Nat) (f : Fld) (b : Bool) (r y : Nat) : (d.setB a f b).sg r y = d.sg r y := (rfl)
@[simp] theorem Dev.setB_codecSt (a : Nat) (f : Fld) (b : Bool) (r y : Nat) : (d.setB a f b).codecSt r y = d.codecSt r y := (rfl)
@[simp] theorem Dev.setB_rad (a : Nat) (f : Fld) (b : Bool) (r : Nat) : (d.setB a f b).rad r = d.rad r := (rfl)
@[simp] theorem Dev.setB_port (a : Nat) (f : Fld) (b : Bool) (y : GatePort) : (d.setB a f b).port y = d.port y := (rfl)
@[simp] theorem Dev.setB_sli (a : Nat) (f : Fld) (b : Bool) (r : Nat) : (d.setB a f b).sli r = d.sli r := (rfl)
@[simp] theorem Dev.setB_pair (a : Nat) (f : Fld) (b : Bool) (r : Nat) : (d.setB a f b).pair r = d.pair r := (rfl)
@[simp] theorem Dev.setB_far (a : Nat) (f : Fld) (b : Bool) (r : Nat) : (d.setB a f b).far r = d.far r := (rfl)
@[simp] theorem Dev.setB_blink (a : Nat) (f : Fld) (b : Bool) (r : Nat) : (d.setB a f b).blink r = d.blink r := (rfl)

/-! ### setFs -/

@[simp] theorem Dev.setFs_now (a : Nat) (l : List (Fld × Nat)) : (d.setFs a l).now = d.now := (rfl)
@[simp] theorem Dev.setFs_edge (a : Nat) (l : List (Fld × Nat)) : (d.setFs a l).edge = d.edge := (rfl)
@[simp] theorem Dev.setFs_free (a : Nat) (l : List (Fld × Nat)) : (d.setFs a l).free = d.free := (rfl)
@[simp] theorem Dev.setFs_readOut (a : Nat) (l : List (Fld × Nat)) : (d.setFs a l).readOut = d.readOut := (rfl)
@[simp] theorem Dev.setFs_mem (a : Nat) (l : List (Fld × Nat)) : (d.setFs a l).mem = d.mem := (rfl)
@[simp] theorem Dev.setFs_lineErr (a : Nat) (l : List (Fld × Nat)) : (d.setFs a l).lineErr = d.lineErr := (rfl)
@[simp] theorem Dev.setFs_written (a : Nat) (l : List (Fld × Nat)) : (d.setFs a l).written = d.written := (rfl)
@[simp] theorem Dev.setFs_ev (a : Nat) (l : List (Fld × Nat)) : (d.setFs a l).ev = d.ev := (rfl)
@[simp] theorem Dev.setFs_hostWrites (a : Nat) (l : List (Fld × Nat)) : (d.setFs a l).hostWrites = d.hostWrites := (rfl)
@[simp] theorem Dev.setFs_hostNext (a : Nat) (l : List (Fld × Nat)) : (d.setFs a l).hostNext = d.hostNext := (rfl)
@[simp] theorem Dev.setFs_sent (a : Nat) (l : List (Fld × Nat)) : (d.setFs a l).sent = d.sent := (rfl)
@[simp] theorem Dev.setFs_tiles (a : Nat) (l : List (Fld × Nat)) : (d.setFs a l).tiles = d.tiles := (rfl)
@[simp] theorem Dev.setFs_ctrs (a : Nat) (l : List (Fld × Nat)) : (d.setFs a l).ctrs = d.ctrs := (rfl)
@[simp] theorem Dev.setFs_cfg (a : Nat) (l : List (Fld × Nat)) : (d.setFs a l).cfg = d.cfg := (rfl)
@[simp] theorem Dev.setFs_knead (a : Nat) (l : List (Fld × Nat)) : (d.setFs a l).knead = d.knead := (rfl)
@[simp] theorem Dev.setFs_sieves (a : Nat) (l : List (Fld × Nat)) : (d.setFs a l).sieves = d.sieves := (rfl)
@[simp] theorem Dev.setFs_tiers (a : Nat) (l : List (Fld × Nat)) : (d.setFs a l).tiers = d.tiers := (rfl)
@[simp] theorem Dev.setFs_asks (a : Nat) (l : List (Fld × Nat)) : (d.setFs a l).asks = d.asks := (rfl)
@[simp] theorem Dev.setFs_trays (a : Nat) (l : List (Fld × Nat)) : (d.setFs a l).trays = d.trays := (rfl)
@[simp] theorem Dev.setFs_sched (a : Nat) (l : List (Fld × Nat)) : (d.setFs a l).sched = d.sched := (rfl)
@[simp] theorem Dev.setFs_sig (a : Nat) (l : List (Fld × Nat)) : (d.setFs a l).sig = d.sig := (rfl)
@[simp] theorem Dev.setFs_codec (a : Nat) (l : List (Fld × Nat)) : (d.setFs a l).codec = d.codec := (rfl)
@[simp] theorem Dev.setFs_radio (a : Nat) (l : List (Fld × Nat)) : (d.setFs a l).radio = d.radio := (rfl)
@[simp] theorem Dev.setFs_ports (a : Nat) (l : List (Fld × Nat)) : (d.setFs a l).ports = d.ports := (rfl)
@[simp] theorem Dev.setFs_time (a : Nat) (l : List (Fld × Nat)) : (d.setFs a l).time = d.time := (rfl)
@[simp] theorem Dev.setFs_sampled (a : Nat) (l : List (Fld × Nat)) : (d.setFs a l).sampled = d.sampled := (rfl)
@[simp] theorem Dev.setFs_braid (a : Nat) (l : List (Fld × Nat)) : (d.setFs a l).braid = d.braid := (rfl)
@[simp] theorem Dev.setFs_power (a : Nat) (l : List (Fld × Nat)) : (d.setFs a l).power = d.power := (rfl)
@[simp] theorem Dev.setFs_peelSeen (a : Nat) (l : List (Fld × Nat)) : (d.setFs a l).peelSeen = d.peelSeen := (rfl)
@[simp] theorem Dev.setFs_slices (a : Nat) (l : List (Fld × Nat)) : (d.setFs a l).slices = d.slices := (rfl)
@[simp] theorem Dev.setFs_sliceTick (a : Nat) (l : List (Fld × Nat)) : (d.setFs a l).sliceTick = d.sliceTick := (rfl)
@[simp] theorem Dev.setFs_integ (a : Nat) (l : List (Fld × Nat)) : (d.setFs a l).integ = d.integ := (rfl)
@[simp] theorem Dev.setFs_memb (a : Nat) (l : List (Fld × Nat)) : (d.setFs a l).memb = d.memb := (rfl)
@[simp] theorem Dev.setFs_sp (a : Nat) (l : List (Fld × Nat)) : (d.setFs a l).sp = d.sp := (rfl)
@[simp] theorem Dev.setFs_recipe (a : Nat) (l : List (Fld × Nat)) : (d.setFs a l).recipe = d.recipe := (rfl)
@[simp] theorem Dev.setFs_byte (a : Nat) (l : List (Fld × Nat)) (r : Nat) : (d.setFs a l).byte r = d.byte r := (rfl)
@[simp] theorem Dev.setFs_errOf (a : Nat) (l : List (Fld × Nat)) (r : Nat) : (d.setFs a l).errOf r = d.errOf r := (rfl)
@[simp] theorem Dev.setFs_section_ (a : Nat) (l : List (Fld × Nat)) (y r : Nat) : (d.setFs a l).section_ y r = d.section_ y r := (rfl)
@[simp] theorem Dev.setFs_tile (a : Nat) (l : List (Fld × Nat)) (r : Nat) : (d.setFs a l).tile r = d.tile r := (rfl)
@[simp] theorem Dev.setFs_kn (a : Nat) (l : List (Fld × Nat)) (r y : Nat) : (d.setFs a l).kn r y = d.kn r y := (rfl)
@[simp] theorem Dev.setFs_sieve (a : Nat) (l : List (Fld × Nat)) (r y : Nat) : (d.setFs a l).sieve r y = d.sieve r y := (rfl)
@[simp] theorem Dev.setFs_tier (a : Nat) (l : List (Fld × Nat)) (r : Nat) : (d.setFs a l).tier r = d.tier r := (rfl)
@[simp] theorem Dev.setFs_tray (a : Nat) (l : List (Fld × Nat)) (r : Nat) : (d.setFs a l).tray r = d.tray r := (rfl)
@[simp] theorem Dev.setFs_sch (a : Nat) (l : List (Fld × Nat)) (r : Nat) : (d.setFs a l).sch r = d.sch r := (rfl)
@[simp] theorem Dev.setFs_sg (a : Nat) (l : List (Fld × Nat)) (r y : Nat) : (d.setFs a l).sg r y = d.sg r y := (rfl)
@[simp] theorem Dev.setFs_codecSt (a : Nat) (l : List (Fld × Nat)) (r y : Nat) : (d.setFs a l).codecSt r y = d.codecSt r y := (rfl)
@[simp] theorem Dev.setFs_rad (a : Nat) (l : List (Fld × Nat)) (r : Nat) : (d.setFs a l).rad r = d.rad r := (rfl)
@[simp] theorem Dev.setFs_port (a : Nat) (l : List (Fld × Nat)) (y : GatePort) : (d.setFs a l).port y = d.port y := (rfl)
@[simp] theorem Dev.setFs_sli (a : Nat) (l : List (Fld × Nat)) (r : Nat) : (d.setFs a l).sli r = d.sli r := (rfl)
@[simp] theorem Dev.setFs_pair (a : Nat) (l : List (Fld × Nat)) (r : Nat) : (d.setFs a l).pair r = d.pair r := (rfl)
@[simp] theorem Dev.setFs_far (a : Nat) (l : List (Fld × Nat)) (r : Nat) : (d.setFs a l).far r = d.far r := (rfl)
@[simp] theorem Dev.setFs_blink (a : Nat) (l : List (Fld × Nat)) (r : Nat) : (d.setFs a l).blink r = d.blink r := (rfl)

/-! ### raise -/

@[simp] theorem Dev.raise_now (c s : Nat) (u : BitVec 16) (o x : Nat) : (d.raise c s u o x).now = d.now := (rfl)
@[simp] theorem Dev.raise_edge (c s : Nat) (u : BitVec 16) (o x : Nat) : (d.raise c s u o x).edge = d.edge := (rfl)
@[simp] theorem Dev.raise_free (c s : Nat) (u : BitVec 16) (o x : Nat) : (d.raise c s u o x).free = d.free := (rfl)
@[simp] theorem Dev.raise_readOut (c s : Nat) (u : BitVec 16) (o x : Nat) : (d.raise c s u o x).readOut = d.readOut := (rfl)
@[simp] theorem Dev.raise_regs (c s : Nat) (u : BitVec 16) (o x : Nat) : (d.raise c s u o x).regs = d.regs := (rfl)
@[simp] theorem Dev.raise_mem (c s : Nat) (u : BitVec 16) (o x : Nat) : (d.raise c s u o x).mem = d.mem := (rfl)
@[simp] theorem Dev.raise_lineErr (c s : Nat) (u : BitVec 16) (o x : Nat) : (d.raise c s u o x).lineErr = d.lineErr := (rfl)
@[simp] theorem Dev.raise_written (c s : Nat) (u : BitVec 16) (o x : Nat) : (d.raise c s u o x).written = d.written := (rfl)
@[simp] theorem Dev.raise_hostWrites (c s : Nat) (u : BitVec 16) (o x : Nat) : (d.raise c s u o x).hostWrites = d.hostWrites := (rfl)
@[simp] theorem Dev.raise_hostNext (c s : Nat) (u : BitVec 16) (o x : Nat) : (d.raise c s u o x).hostNext = d.hostNext := (rfl)
@[simp] theorem Dev.raise_sent (c s : Nat) (u : BitVec 16) (o x : Nat) : (d.raise c s u o x).sent = d.sent := (rfl)
@[simp] theorem Dev.raise_tiles (c s : Nat) (u : BitVec 16) (o x : Nat) : (d.raise c s u o x).tiles = d.tiles := (rfl)
@[simp] theorem Dev.raise_ctrs (c s : Nat) (u : BitVec 16) (o x : Nat) : (d.raise c s u o x).ctrs = d.ctrs := (rfl)
@[simp] theorem Dev.raise_cfg (c s : Nat) (u : BitVec 16) (o x : Nat) : (d.raise c s u o x).cfg = d.cfg := (rfl)
@[simp] theorem Dev.raise_knead (c s : Nat) (u : BitVec 16) (o x : Nat) : (d.raise c s u o x).knead = d.knead := (rfl)
@[simp] theorem Dev.raise_sieves (c s : Nat) (u : BitVec 16) (o x : Nat) : (d.raise c s u o x).sieves = d.sieves := (rfl)
@[simp] theorem Dev.raise_tiers (c s : Nat) (u : BitVec 16) (o x : Nat) : (d.raise c s u o x).tiers = d.tiers := (rfl)
@[simp] theorem Dev.raise_asks (c s : Nat) (u : BitVec 16) (o x : Nat) : (d.raise c s u o x).asks = d.asks := (rfl)
@[simp] theorem Dev.raise_trays (c s : Nat) (u : BitVec 16) (o x : Nat) : (d.raise c s u o x).trays = d.trays := (rfl)
@[simp] theorem Dev.raise_sched (c s : Nat) (u : BitVec 16) (o x : Nat) : (d.raise c s u o x).sched = d.sched := (rfl)
@[simp] theorem Dev.raise_sig (c s : Nat) (u : BitVec 16) (o x : Nat) : (d.raise c s u o x).sig = d.sig := (rfl)
@[simp] theorem Dev.raise_codec (c s : Nat) (u : BitVec 16) (o x : Nat) : (d.raise c s u o x).codec = d.codec := (rfl)
@[simp] theorem Dev.raise_radio (c s : Nat) (u : BitVec 16) (o x : Nat) : (d.raise c s u o x).radio = d.radio := (rfl)
@[simp] theorem Dev.raise_ports (c s : Nat) (u : BitVec 16) (o x : Nat) : (d.raise c s u o x).ports = d.ports := (rfl)
@[simp] theorem Dev.raise_time (c s : Nat) (u : BitVec 16) (o x : Nat) : (d.raise c s u o x).time = d.time := (rfl)
@[simp] theorem Dev.raise_sampled (c s : Nat) (u : BitVec 16) (o x : Nat) : (d.raise c s u o x).sampled = d.sampled := (rfl)
@[simp] theorem Dev.raise_braid (c s : Nat) (u : BitVec 16) (o x : Nat) : (d.raise c s u o x).braid = d.braid := (rfl)
@[simp] theorem Dev.raise_power (c s : Nat) (u : BitVec 16) (o x : Nat) : (d.raise c s u o x).power = d.power := (rfl)
@[simp] theorem Dev.raise_peelSeen (c s : Nat) (u : BitVec 16) (o x : Nat) : (d.raise c s u o x).peelSeen = d.peelSeen := (rfl)
@[simp] theorem Dev.raise_slices (c s : Nat) (u : BitVec 16) (o x : Nat) : (d.raise c s u o x).slices = d.slices := (rfl)
@[simp] theorem Dev.raise_sliceTick (c s : Nat) (u : BitVec 16) (o x : Nat) : (d.raise c s u o x).sliceTick = d.sliceTick := (rfl)
@[simp] theorem Dev.raise_integ (c s : Nat) (u : BitVec 16) (o x : Nat) : (d.raise c s u o x).integ = d.integ := (rfl)
@[simp] theorem Dev.raise_memb (c s : Nat) (u : BitVec 16) (o x : Nat) : (d.raise c s u o x).memb = d.memb := (rfl)
@[simp] theorem Dev.raise_sp (c s : Nat) (u : BitVec 16) (o x : Nat) : (d.raise c s u o x).sp = d.sp := (rfl)
@[simp] theorem Dev.raise_recipe (c s : Nat) (u : BitVec 16) (o x : Nat) : (d.raise c s u o x).recipe = d.recipe := (rfl)
@[simp] theorem Dev.raise_reg (c s : Nat) (u : BitVec 16) (o x : Nat) (r : Nat) : (d.raise c s u o x).reg r = d.reg r := (rfl)
@[simp] theorem Dev.raise_getF (c s : Nat) (u : BitVec 16) (o x : Nat) (r : Nat) (q : Fld) : (d.raise c s u o x).getF r q = d.getF r q := (rfl)
@[simp] theorem Dev.raise_getB (c s : Nat) (u : BitVec 16) (o x : Nat) (r : Nat) (q : Fld) : (d.raise c s u o x).getB r q = d.getB r q := (rfl)
@[simp] theorem Dev.raise_paused (c s : Nat) (u : BitVec 16) (o x : Nat) (r : Nat) : (d.raise c s u o x).paused r = d.paused r := (rfl)
@[simp] theorem Dev.raise_byte (c s : Nat) (u : BitVec 16) (o x : Nat) (r : Nat) : (d.raise c s u o x).byte r = d.byte r := (rfl)
@[simp] theorem Dev.raise_errOf (c s : Nat) (u : BitVec 16) (o x : Nat) (r : Nat) : (d.raise c s u o x).errOf r = d.errOf r := (rfl)
@[simp] theorem Dev.raise_section_ (c s : Nat) (u : BitVec 16) (o x : Nat) (y r : Nat) : (d.raise c s u o x).section_ y r = d.section_ y r := (rfl)
@[simp] theorem Dev.raise_tile (c s : Nat) (u : BitVec 16) (o x : Nat) (r : Nat) : (d.raise c s u o x).tile r = d.tile r := (rfl)
@[simp] theorem Dev.raise_kn (c s : Nat) (u : BitVec 16) (o x : Nat) (r y : Nat) : (d.raise c s u o x).kn r y = d.kn r y := (rfl)
@[simp] theorem Dev.raise_sieve (c s : Nat) (u : BitVec 16) (o x : Nat) (r y : Nat) : (d.raise c s u o x).sieve r y = d.sieve r y := (rfl)
@[simp] theorem Dev.raise_tier (c s : Nat) (u : BitVec 16) (o x : Nat) (r : Nat) : (d.raise c s u o x).tier r = d.tier r := (rfl)
@[simp] theorem Dev.raise_tray (c s : Nat) (u : BitVec 16) (o x : Nat) (r : Nat) : (d.raise c s u o x).tray r = d.tray r := (rfl)
@[simp] theorem Dev.raise_sch (c s : Nat) (u : BitVec 16) (o x : Nat) (r : Nat) : (d.raise c s u o x).sch r = d.sch r := (rfl)
@[simp] theorem Dev.raise_sg (c s : Nat) (u : BitVec 16) (o x : Nat) (r y : Nat) : (d.raise c s u o x).sg r y = d.sg r y := (rfl)
@[simp] theorem Dev.raise_codecSt (c s : Nat) (u : BitVec 16) (o x : Nat) (r y : Nat) : (d.raise c s u o x).codecSt r y = d.codecSt r y := (rfl)
@[simp] theorem Dev.raise_rad (c s : Nat) (u : BitVec 16) (o x : Nat) (r : Nat) : (d.raise c s u o x).rad r = d.rad r := (rfl)
@[simp] theorem Dev.raise_port (c s : Nat) (u : BitVec 16) (o x : Nat) (y : GatePort) : (d.raise c s u o x).port y = d.port y := (rfl)
@[simp] theorem Dev.raise_sli (c s : Nat) (u : BitVec 16) (o x : Nat) (r : Nat) : (d.raise c s u o x).sli r = d.sli r := (rfl)
@[simp] theorem Dev.raise_pair (c s : Nat) (u : BitVec 16) (o x : Nat) (r : Nat) : (d.raise c s u o x).pair r = d.pair r := (rfl)
@[simp] theorem Dev.raise_far (c s : Nat) (u : BitVec 16) (o x : Nat) (r : Nat) : (d.raise c s u o x).far r = d.far r := (rfl)
@[simp] theorem Dev.raise_blink (c s : Nat) (u : BitVec 16) (o x : Nat) (r : Nat) : (d.raise c s u o x).blink r = d.blink r := (rfl)

/-! ### send -/

@[simp] theorem Dev.send_sent (o : Output) : (d.send o).sent = d.sent ++ [o] := (rfl)
@[simp] theorem Dev.send_now (o : Output) : (d.send o).now = d.now := (rfl)
@[simp] theorem Dev.send_edge (o : Output) : (d.send o).edge = d.edge := (rfl)
@[simp] theorem Dev.send_free (o : Output) : (d.send o).free = d.free := (rfl)
@[simp] theorem Dev.send_readOut (o : Output) : (d.send o).readOut = d.readOut := (rfl)
@[simp] theorem Dev.send_regs (o : Output) : (d.send o).regs = d.regs := (rfl)
@[simp] theorem Dev.send_mem (o : Output) : (d.send o).mem = d.mem := (rfl)
@[simp] theorem Dev.send_lineErr (o : Output) : (d.send o).lineErr = d.lineErr := (rfl)
@[simp] theorem Dev.send_written (o : Output) : (d.send o).written = d.written := (rfl)
@[simp] theorem Dev.send_ev (o : Output) : (d.send o).ev = d.ev := (rfl)
@[simp] theorem Dev.send_hostWrites (o : Output) : (d.send o).hostWrites = d.hostWrites := (rfl)
@[simp] theorem Dev.send_hostNext (o : Output) : (d.send o).hostNext = d.hostNext := (rfl)
@[simp] theorem Dev.send_tiles (o : Output) : (d.send o).tiles = d.tiles := (rfl)
@[simp] theorem Dev.send_ctrs (o : Output) : (d.send o).ctrs = d.ctrs := (rfl)
@[simp] theorem Dev.send_cfg (o : Output) : (d.send o).cfg = d.cfg := (rfl)
@[simp] theorem Dev.send_knead (o : Output) : (d.send o).knead = d.knead := (rfl)
@[simp] theorem Dev.send_sieves (o : Output) : (d.send o).sieves = d.sieves := (rfl)
@[simp] theorem Dev.send_tiers (o : Output) : (d.send o).tiers = d.tiers := (rfl)
@[simp] theorem Dev.send_asks (o : Output) : (d.send o).asks = d.asks := (rfl)
@[simp] theorem Dev.send_trays (o : Output) : (d.send o).trays = d.trays := (rfl)
@[simp] theorem Dev.send_sched (o : Output) : (d.send o).sched = d.sched := (rfl)
@[simp] theorem Dev.send_sig (o : Output) : (d.send o).sig = d.sig := (rfl)
@[simp] theorem Dev.send_codec (o : Output) : (d.send o).codec = d.codec := (rfl)
@[simp] theorem Dev.send_radio (o : Output) : (d.send o).radio = d.radio := (rfl)
@[simp] theorem Dev.send_ports (o : Output) : (d.send o).ports = d.ports := (rfl)
@[simp] theorem Dev.send_time (o : Output) : (d.send o).time = d.time := (rfl)
@[simp] theorem Dev.send_sampled (o : Output) : (d.send o).sampled = d.sampled := (rfl)
@[simp] theorem Dev.send_braid (o : Output) : (d.send o).braid = d.braid := (rfl)
@[simp] theorem Dev.send_power (o : Output) : (d.send o).power = d.power := (rfl)
@[simp] theorem Dev.send_peelSeen (o : Output) : (d.send o).peelSeen = d.peelSeen := (rfl)
@[simp] theorem Dev.send_slices (o : Output) : (d.send o).slices = d.slices := (rfl)
@[simp] theorem Dev.send_sliceTick (o : Output) : (d.send o).sliceTick = d.sliceTick := (rfl)
@[simp] theorem Dev.send_integ (o : Output) : (d.send o).integ = d.integ := (rfl)
@[simp] theorem Dev.send_memb (o : Output) : (d.send o).memb = d.memb := (rfl)
@[simp] theorem Dev.send_sp (o : Output) : (d.send o).sp = d.sp := (rfl)
@[simp] theorem Dev.send_recipe (o : Output) : (d.send o).recipe = d.recipe := (rfl)
@[simp] theorem Dev.send_reg (o : Output) (r : Nat) : (d.send o).reg r = d.reg r := (rfl)
@[simp] theorem Dev.send_getF (o : Output) (r : Nat) (q : Fld) : (d.send o).getF r q = d.getF r q := (rfl)
@[simp] theorem Dev.send_getB (o : Output) (r : Nat) (q : Fld) : (d.send o).getB r q = d.getB r q := (rfl)
@[simp] theorem Dev.send_paused (o : Output) (r : Nat) : (d.send o).paused r = d.paused r := (rfl)
@[simp] theorem Dev.send_byte (o : Output) (r : Nat) : (d.send o).byte r = d.byte r := (rfl)
@[simp] theorem Dev.send_errOf (o : Output) (r : Nat) : (d.send o).errOf r = d.errOf r := (rfl)
@[simp] theorem Dev.send_section_ (o : Output) (y r : Nat) : (d.send o).section_ y r = d.section_ y r := (rfl)
@[simp] theorem Dev.send_tile (o : Output) (r : Nat) : (d.send o).tile r = d.tile r := (rfl)
@[simp] theorem Dev.send_kn (o : Output) (r y : Nat) : (d.send o).kn r y = d.kn r y := (rfl)
@[simp] theorem Dev.send_sieve (o : Output) (r y : Nat) : (d.send o).sieve r y = d.sieve r y := (rfl)
@[simp] theorem Dev.send_tier (o : Output) (r : Nat) : (d.send o).tier r = d.tier r := (rfl)
@[simp] theorem Dev.send_tray (o : Output) (r : Nat) : (d.send o).tray r = d.tray r := (rfl)
@[simp] theorem Dev.send_sch (o : Output) (r : Nat) : (d.send o).sch r = d.sch r := (rfl)
@[simp] theorem Dev.send_sg (o : Output) (r y : Nat) : (d.send o).sg r y = d.sg r y := (rfl)
@[simp] theorem Dev.send_codecSt (o : Output) (r y : Nat) : (d.send o).codecSt r y = d.codecSt r y := (rfl)
@[simp] theorem Dev.send_rad (o : Output) (r : Nat) : (d.send o).rad r = d.rad r := (rfl)
@[simp] theorem Dev.send_port (o : Output) (y : GatePort) : (d.send o).port y = d.port y := (rfl)
@[simp] theorem Dev.send_sli (o : Output) (r : Nat) : (d.send o).sli r = d.sli r := (rfl)
@[simp] theorem Dev.send_pair (o : Output) (r : Nat) : (d.send o).pair r = d.pair r := (rfl)
@[simp] theorem Dev.send_far (o : Output) (r : Nat) : (d.send o).far r = d.far r := (rfl)
@[simp] theorem Dev.send_blink (o : Output) (r : Nat) : (d.send o).blink r = d.blink r := (rfl)

/-! ### hostWrite -/

@[simp] theorem Dev.hostWrite_now (k : HostKind) (s a : Nat) (l : Bytes) : (d.hostWrite k s a l).now = d.now := (rfl)
@[simp] theorem Dev.hostWrite_edge (k : HostKind) (s a : Nat) (l : Bytes) : (d.hostWrite k s a l).edge = d.edge := (rfl)
@[simp] theorem Dev.hostWrite_free (k : HostKind) (s a : Nat) (l : Bytes) : (d.hostWrite k s a l).free = d.free := (rfl)
@[simp] theorem Dev.hostWrite_readOut (k : HostKind) (s a : Nat) (l : Bytes) : (d.hostWrite k s a l).readOut = d.readOut := (rfl)
@[simp] theorem Dev.hostWrite_regs (k : HostKind) (s a : Nat) (l : Bytes) : (d.hostWrite k s a l).regs = d.regs := (rfl)
@[simp] theorem Dev.hostWrite_mem (k : HostKind) (s a : Nat) (l : Bytes) : (d.hostWrite k s a l).mem = d.mem := (rfl)
@[simp] theorem Dev.hostWrite_lineErr (k : HostKind) (s a : Nat) (l : Bytes) : (d.hostWrite k s a l).lineErr = d.lineErr := (rfl)
@[simp] theorem Dev.hostWrite_written (k : HostKind) (s a : Nat) (l : Bytes) : (d.hostWrite k s a l).written = d.written := (rfl)
@[simp] theorem Dev.hostWrite_ev (k : HostKind) (s a : Nat) (l : Bytes) : (d.hostWrite k s a l).ev = d.ev := (rfl)
@[simp] theorem Dev.hostWrite_sent (k : HostKind) (s a : Nat) (l : Bytes) : (d.hostWrite k s a l).sent = d.sent := (rfl)
@[simp] theorem Dev.hostWrite_tiles (k : HostKind) (s a : Nat) (l : Bytes) : (d.hostWrite k s a l).tiles = d.tiles := (rfl)
@[simp] theorem Dev.hostWrite_ctrs (k : HostKind) (s a : Nat) (l : Bytes) : (d.hostWrite k s a l).ctrs = d.ctrs := (rfl)
@[simp] theorem Dev.hostWrite_cfg (k : HostKind) (s a : Nat) (l : Bytes) : (d.hostWrite k s a l).cfg = d.cfg := (rfl)
@[simp] theorem Dev.hostWrite_knead (k : HostKind) (s a : Nat) (l : Bytes) : (d.hostWrite k s a l).knead = d.knead := (rfl)
@[simp] theorem Dev.hostWrite_sieves (k : HostKind) (s a : Nat) (l : Bytes) : (d.hostWrite k s a l).sieves = d.sieves := (rfl)
@[simp] theorem Dev.hostWrite_tiers (k : HostKind) (s a : Nat) (l : Bytes) : (d.hostWrite k s a l).tiers = d.tiers := (rfl)
@[simp] theorem Dev.hostWrite_asks (k : HostKind) (s a : Nat) (l : Bytes) : (d.hostWrite k s a l).asks = d.asks := (rfl)
@[simp] theorem Dev.hostWrite_trays (k : HostKind) (s a : Nat) (l : Bytes) : (d.hostWrite k s a l).trays = d.trays := (rfl)
@[simp] theorem Dev.hostWrite_sched (k : HostKind) (s a : Nat) (l : Bytes) : (d.hostWrite k s a l).sched = d.sched := (rfl)
@[simp] theorem Dev.hostWrite_sig (k : HostKind) (s a : Nat) (l : Bytes) : (d.hostWrite k s a l).sig = d.sig := (rfl)
@[simp] theorem Dev.hostWrite_codec (k : HostKind) (s a : Nat) (l : Bytes) : (d.hostWrite k s a l).codec = d.codec := (rfl)
@[simp] theorem Dev.hostWrite_radio (k : HostKind) (s a : Nat) (l : Bytes) : (d.hostWrite k s a l).radio = d.radio := (rfl)
@[simp] theorem Dev.hostWrite_ports (k : HostKind) (s a : Nat) (l : Bytes) : (d.hostWrite k s a l).ports = d.ports := (rfl)
@[simp] theorem Dev.hostWrite_time (k : HostKind) (s a : Nat) (l : Bytes) : (d.hostWrite k s a l).time = d.time := (rfl)
@[simp] theorem Dev.hostWrite_sampled (k : HostKind) (s a : Nat) (l : Bytes) : (d.hostWrite k s a l).sampled = d.sampled := (rfl)
@[simp] theorem Dev.hostWrite_braid (k : HostKind) (s a : Nat) (l : Bytes) : (d.hostWrite k s a l).braid = d.braid := (rfl)
@[simp] theorem Dev.hostWrite_power (k : HostKind) (s a : Nat) (l : Bytes) : (d.hostWrite k s a l).power = d.power := (rfl)
@[simp] theorem Dev.hostWrite_peelSeen (k : HostKind) (s a : Nat) (l : Bytes) : (d.hostWrite k s a l).peelSeen = d.peelSeen := (rfl)
@[simp] theorem Dev.hostWrite_slices (k : HostKind) (s a : Nat) (l : Bytes) : (d.hostWrite k s a l).slices = d.slices := (rfl)
@[simp] theorem Dev.hostWrite_sliceTick (k : HostKind) (s a : Nat) (l : Bytes) : (d.hostWrite k s a l).sliceTick = d.sliceTick := (rfl)
@[simp] theorem Dev.hostWrite_integ (k : HostKind) (s a : Nat) (l : Bytes) : (d.hostWrite k s a l).integ = d.integ := (rfl)
@[simp] theorem Dev.hostWrite_memb (k : HostKind) (s a : Nat) (l : Bytes) : (d.hostWrite k s a l).memb = d.memb := (rfl)
@[simp] theorem Dev.hostWrite_sp (k : HostKind) (s a : Nat) (l : Bytes) : (d.hostWrite k s a l).sp = d.sp := (rfl)
@[simp] theorem Dev.hostWrite_recipe (k : HostKind) (s a : Nat) (l : Bytes) : (d.hostWrite k s a l).recipe = d.recipe := (rfl)
@[simp] theorem Dev.hostWrite_reg (k : HostKind) (s a : Nat) (l : Bytes) (r : Nat) : (d.hostWrite k s a l).reg r = d.reg r := (rfl)
@[simp] theorem Dev.hostWrite_getF (k : HostKind) (s a : Nat) (l : Bytes) (r : Nat) (q : Fld) : (d.hostWrite k s a l).getF r q = d.getF r q := (rfl)
@[simp] theorem Dev.hostWrite_getB (k : HostKind) (s a : Nat) (l : Bytes) (r : Nat) (q : Fld) : (d.hostWrite k s a l).getB r q = d.getB r q := (rfl)
@[simp] theorem Dev.hostWrite_paused (k : HostKind) (s a : Nat) (l : Bytes) (r : Nat) : (d.hostWrite k s a l).paused r = d.paused r := (rfl)
@[simp] theorem Dev.hostWrite_byte (k : HostKind) (s a : Nat) (l : Bytes) (r : Nat) : (d.hostWrite k s a l).byte r = d.byte r := (rfl)
@[simp] theorem Dev.hostWrite_errOf (k : HostKind) (s a : Nat) (l : Bytes) (r : Nat) : (d.hostWrite k s a l).errOf r = d.errOf r := (rfl)
@[simp] theorem Dev.hostWrite_section_ (k : HostKind) (s a : Nat) (l : Bytes) (y r : Nat) : (d.hostWrite k s a l).section_ y r = d.section_ y r := (rfl)
@[simp] theorem Dev.hostWrite_tile (k : HostKind) (s a : Nat) (l : Bytes) (r : Nat) : (d.hostWrite k s a l).tile r = d.tile r := (rfl)
@[simp] theorem Dev.hostWrite_kn (k : HostKind) (s a : Nat) (l : Bytes) (r y : Nat) : (d.hostWrite k s a l).kn r y = d.kn r y := (rfl)
@[simp] theorem Dev.hostWrite_sieve (k : HostKind) (s a : Nat) (l : Bytes) (r y : Nat) : (d.hostWrite k s a l).sieve r y = d.sieve r y := (rfl)
@[simp] theorem Dev.hostWrite_tier (k : HostKind) (s a : Nat) (l : Bytes) (r : Nat) : (d.hostWrite k s a l).tier r = d.tier r := (rfl)
@[simp] theorem Dev.hostWrite_tray (k : HostKind) (s a : Nat) (l : Bytes) (r : Nat) : (d.hostWrite k s a l).tray r = d.tray r := (rfl)
@[simp] theorem Dev.hostWrite_sch (k : HostKind) (s a : Nat) (l : Bytes) (r : Nat) : (d.hostWrite k s a l).sch r = d.sch r := (rfl)
@[simp] theorem Dev.hostWrite_sg (k : HostKind) (s a : Nat) (l : Bytes) (r y : Nat) : (d.hostWrite k s a l).sg r y = d.sg r y := (rfl)
@[simp] theorem Dev.hostWrite_codecSt (k : HostKind) (s a : Nat) (l : Bytes) (r y : Nat) : (d.hostWrite k s a l).codecSt r y = d.codecSt r y := (rfl)
@[simp] theorem Dev.hostWrite_rad (k : HostKind) (s a : Nat) (l : Bytes) (r : Nat) : (d.hostWrite k s a l).rad r = d.rad r := (rfl)
@[simp] theorem Dev.hostWrite_port (k : HostKind) (s a : Nat) (l : Bytes) (y : GatePort) : (d.hostWrite k s a l).port y = d.port y := (rfl)
@[simp] theorem Dev.hostWrite_sli (k : HostKind) (s a : Nat) (l : Bytes) (r : Nat) : (d.hostWrite k s a l).sli r = d.sli r := (rfl)
@[simp] theorem Dev.hostWrite_pair (k : HostKind) (s a : Nat) (l : Bytes) (r : Nat) : (d.hostWrite k s a l).pair r = d.pair r := (rfl)
@[simp] theorem Dev.hostWrite_far (k : HostKind) (s a : Nat) (l : Bytes) (r : Nat) : (d.hostWrite k s a l).far r = d.far r := (rfl)
@[simp] theorem Dev.hostWrite_blink (k : HostKind) (s a : Nat) (l : Bytes) (r : Nat) : (d.hostWrite k s a l).blink r = d.blink r := (rfl)

/-! ### setTile -/

@[simp] theorem Dev.setTile_tiles (t : Nat) (x : TileState) : (d.setTile t x).tiles = store TileState.init d.tiles t x := (rfl)
@[simp] theorem Dev.setTile_now (t : Nat) (x : TileState) : (d.setTile t x).now = d.now := (rfl)
@[simp] theorem Dev.setTile_edge (t : Nat) (x : TileState) : (d.setTile t x).edge = d.edge := (rfl)
@[simp] theorem Dev.setTile_free (t : Nat) (x : TileState) : (d.setTile t x).free = d.free := (rfl)
@[simp] theorem Dev.setTile_readOut (t : Nat) (x : TileState) : (d.setTile t x).readOut = d.readOut := (rfl)
@[simp] theorem Dev.setTile_regs (t : Nat) (x : TileState) : (d.setTile t x).regs = d.regs := (rfl)
@[simp] theorem Dev.setTile_mem (t : Nat) (x : TileState) : (d.setTile t x).mem = d.mem := (rfl)
@[simp] theorem Dev.setTile_lineErr (t : Nat) (x : TileState) : (d.setTile t x).lineErr = d.lineErr := (rfl)
@[simp] theorem Dev.setTile_written (t : Nat) (x : TileState) : (d.setTile t x).written = d.written := (rfl)
@[simp] theorem Dev.setTile_ev (t : Nat) (x : TileState) : (d.setTile t x).ev = d.ev := (rfl)
@[simp] theorem Dev.setTile_hostWrites (t : Nat) (x : TileState) : (d.setTile t x).hostWrites = d.hostWrites := (rfl)
@[simp] theorem Dev.setTile_hostNext (t : Nat) (x : TileState) : (d.setTile t x).hostNext = d.hostNext := (rfl)
@[simp] theorem Dev.setTile_sent (t : Nat) (x : TileState) : (d.setTile t x).sent = d.sent := (rfl)
@[simp] theorem Dev.setTile_ctrs (t : Nat) (x : TileState) : (d.setTile t x).ctrs = d.ctrs := (rfl)
@[simp] theorem Dev.setTile_cfg (t : Nat) (x : TileState) : (d.setTile t x).cfg = d.cfg := (rfl)
@[simp] theorem Dev.setTile_knead (t : Nat) (x : TileState) : (d.setTile t x).knead = d.knead := (rfl)
@[simp] theorem Dev.setTile_sieves (t : Nat) (x : TileState) : (d.setTile t x).sieves = d.sieves := (rfl)
@[simp] theorem Dev.setTile_tiers (t : Nat) (x : TileState) : (d.setTile t x).tiers = d.tiers := (rfl)
@[simp] theorem Dev.setTile_asks (t : Nat) (x : TileState) : (d.setTile t x).asks = d.asks := (rfl)
@[simp] theorem Dev.setTile_trays (t : Nat) (x : TileState) : (d.setTile t x).trays = d.trays := (rfl)
@[simp] theorem Dev.setTile_sched (t : Nat) (x : TileState) : (d.setTile t x).sched = d.sched := (rfl)
@[simp] theorem Dev.setTile_sig (t : Nat) (x : TileState) : (d.setTile t x).sig = d.sig := (rfl)
@[simp] theorem Dev.setTile_codec (t : Nat) (x : TileState) : (d.setTile t x).codec = d.codec := (rfl)
@[simp] theorem Dev.setTile_radio (t : Nat) (x : TileState) : (d.setTile t x).radio = d.radio := (rfl)
@[simp] theorem Dev.setTile_ports (t : Nat) (x : TileState) : (d.setTile t x).ports = d.ports := (rfl)
@[simp] theorem Dev.setTile_time (t : Nat) (x : TileState) : (d.setTile t x).time = d.time := (rfl)
@[simp] theorem Dev.setTile_sampled (t : Nat) (x : TileState) : (d.setTile t x).sampled = d.sampled := (rfl)
@[simp] theorem Dev.setTile_braid (t : Nat) (x : TileState) : (d.setTile t x).braid = d.braid := (rfl)
@[simp] theorem Dev.setTile_power (t : Nat) (x : TileState) : (d.setTile t x).power = d.power := (rfl)
@[simp] theorem Dev.setTile_peelSeen (t : Nat) (x : TileState) : (d.setTile t x).peelSeen = d.peelSeen := (rfl)
@[simp] theorem Dev.setTile_slices (t : Nat) (x : TileState) : (d.setTile t x).slices = d.slices := (rfl)
@[simp] theorem Dev.setTile_sliceTick (t : Nat) (x : TileState) : (d.setTile t x).sliceTick = d.sliceTick := (rfl)
@[simp] theorem Dev.setTile_integ (t : Nat) (x : TileState) : (d.setTile t x).integ = d.integ := (rfl)
@[simp] theorem Dev.setTile_memb (t : Nat) (x : TileState) : (d.setTile t x).memb = d.memb := (rfl)
@[simp] theorem Dev.setTile_sp (t : Nat) (x : TileState) : (d.setTile t x).sp = d.sp := (rfl)
@[simp] theorem Dev.setTile_recipe (t : Nat) (x : TileState) : (d.setTile t x).recipe = d.recipe := (rfl)
@[simp] theorem Dev.setTile_reg (t : Nat) (x : TileState) (r : Nat) : (d.setTile t x).reg r = d.reg r := (rfl)
@[simp] theorem Dev.setTile_getF (t : Nat) (x : TileState) (r : Nat) (q : Fld) : (d.setTile t x).getF r q = d.getF r q := (rfl)
@[simp] theorem Dev.setTile_getB (t : Nat) (x : TileState) (r : Nat) (q : Fld) : (d.setTile t x).getB r q = d.getB r q := (rfl)
@[simp] theorem Dev.setTile_paused (t : Nat) (x : TileState) (r : Nat) : (d.setTile t x).paused r = d.paused r := (rfl)
@[simp] theorem Dev.setTile_byte (t : Nat) (x : TileState) (r : Nat) : (d.setTile t x).byte r = d.byte r := (rfl)
@[simp] theorem Dev.setTile_errOf (t : Nat) (x : TileState) (r : Nat) : (d.setTile t x).errOf r = d.errOf r := (rfl)
@[simp] theorem Dev.setTile_section_ (t : Nat) (x : TileState) (y r : Nat) : (d.setTile t x).section_ y r = d.section_ y r := (rfl)
@[simp] theorem Dev.setTile_kn (t : Nat) (x : TileState) (r y : Nat) : (d.setTile t x).kn r y = d.kn r y := (rfl)
@[simp] theorem Dev.setTile_sieve (t : Nat) (x : TileState) (r y : Nat) : (d.setTile t x).sieve r y = d.sieve r y := (rfl)
@[simp] theorem Dev.setTile_tier (t : Nat) (x : TileState) (r : Nat) : (d.setTile t x).tier r = d.tier r := (rfl)
@[simp] theorem Dev.setTile_tray (t : Nat) (x : TileState) (r : Nat) : (d.setTile t x).tray r = d.tray r := (rfl)
@[simp] theorem Dev.setTile_sch (t : Nat) (x : TileState) (r : Nat) : (d.setTile t x).sch r = d.sch r := (rfl)
@[simp] theorem Dev.setTile_sg (t : Nat) (x : TileState) (r y : Nat) : (d.setTile t x).sg r y = d.sg r y := (rfl)
@[simp] theorem Dev.setTile_codecSt (t : Nat) (x : TileState) (r y : Nat) : (d.setTile t x).codecSt r y = d.codecSt r y := (rfl)
@[simp] theorem Dev.setTile_rad (t : Nat) (x : TileState) (r : Nat) : (d.setTile t x).rad r = d.rad r := (rfl)
@[simp] theorem Dev.setTile_port (t : Nat) (x : TileState) (y : GatePort) : (d.setTile t x).port y = d.port y := (rfl)
@[simp] theorem Dev.setTile_sli (t : Nat) (x : TileState) (r : Nat) : (d.setTile t x).sli r = d.sli r := (rfl)
@[simp] theorem Dev.setTile_pair (t : Nat) (x : TileState) (r : Nat) : (d.setTile t x).pair r = d.pair r := (rfl)
@[simp] theorem Dev.setTile_far (t : Nat) (x : TileState) (r : Nat) : (d.setTile t x).far r = d.far r := (rfl)
@[simp] theorem Dev.setTile_blink (t : Nat) (x : TileState) (r : Nat) : (d.setTile t x).blink r = d.blink r := (rfl)

/-! ### setKn -/

@[simp] theorem Dev.setKn_knead (t k : Nat) (c : KneadCore) : (d.setKn t k c).knead = store KneadCore.init d.knead (kKey t k) c := (rfl)
@[simp] theorem Dev.setKn_now (t k : Nat) (c : KneadCore) : (d.setKn t k c).now = d.now := (rfl)
@[simp] theorem Dev.setKn_edge (t k : Nat) (c : KneadCore) : (d.setKn t k c).edge = d.edge := (rfl)
@[simp] theorem Dev.setKn_free (t k : Nat) (c : KneadCore) : (d.setKn t k c).free = d.free := (rfl)
@[simp] theorem Dev.setKn_readOut (t k : Nat) (c : KneadCore) : (d.setKn t k c).readOut = d.readOut := (rfl)
@[simp] theorem Dev.setKn_regs (t k : Nat) (c : KneadCore) : (d.setKn t k c).regs = d.regs := (rfl)
@[simp] theorem Dev.setKn_mem (t k : Nat) (c : KneadCore) : (d.setKn t k c).mem = d.mem := (rfl)
@[simp] theorem Dev.setKn_lineErr (t k : Nat) (c : KneadCore) : (d.setKn t k c).lineErr = d.lineErr := (rfl)
@[simp] theorem Dev.setKn_written (t k : Nat) (c : KneadCore) : (d.setKn t k c).written = d.written := (rfl)
@[simp] theorem Dev.setKn_ev (t k : Nat) (c : KneadCore) : (d.setKn t k c).ev = d.ev := (rfl)
@[simp] theorem Dev.setKn_hostWrites (t k : Nat) (c : KneadCore) : (d.setKn t k c).hostWrites = d.hostWrites := (rfl)
@[simp] theorem Dev.setKn_hostNext (t k : Nat) (c : KneadCore) : (d.setKn t k c).hostNext = d.hostNext := (rfl)
@[simp] theorem Dev.setKn_sent (t k : Nat) (c : KneadCore) : (d.setKn t k c).sent = d.sent := (rfl)
@[simp] theorem Dev.setKn_tiles (t k : Nat) (c : KneadCore) : (d.setKn t k c).tiles = d.tiles := (rfl)
@[simp] theorem Dev.setKn_ctrs (t k : Nat) (c : KneadCore) : (d.setKn t k c).ctrs = d.ctrs := (rfl)
@[simp] theorem Dev.setKn_cfg (t k : Nat) (c : KneadCore) : (d.setKn t k c).cfg = d.cfg := (rfl)
@[simp] theorem Dev.setKn_sieves (t k : Nat) (c : KneadCore) : (d.setKn t k c).sieves = d.sieves := (rfl)
@[simp] theorem Dev.setKn_tiers (t k : Nat) (c : KneadCore) : (d.setKn t k c).tiers = d.tiers := (rfl)
@[simp] theorem Dev.setKn_asks (t k : Nat) (c : KneadCore) : (d.setKn t k c).asks = d.asks := (rfl)
@[simp] theorem Dev.setKn_trays (t k : Nat) (c : KneadCore) : (d.setKn t k c).trays = d.trays := (rfl)
@[simp] theorem Dev.setKn_sched (t k : Nat) (c : KneadCore) : (d.setKn t k c).sched = d.sched := (rfl)
@[simp] theorem Dev.setKn_sig (t k : Nat) (c : KneadCore) : (d.setKn t k c).sig = d.sig := (rfl)
@[simp] theorem Dev.setKn_codec (t k : Nat) (c : KneadCore) : (d.setKn t k c).codec = d.codec := (rfl)
@[simp] theorem Dev.setKn_radio (t k : Nat) (c : KneadCore) : (d.setKn t k c).radio = d.radio := (rfl)
@[simp] theorem Dev.setKn_ports (t k : Nat) (c : KneadCore) : (d.setKn t k c).ports = d.ports := (rfl)
@[simp] theorem Dev.setKn_time (t k : Nat) (c : KneadCore) : (d.setKn t k c).time = d.time := (rfl)
@[simp] theorem Dev.setKn_sampled (t k : Nat) (c : KneadCore) : (d.setKn t k c).sampled = d.sampled := (rfl)
@[simp] theorem Dev.setKn_braid (t k : Nat) (c : KneadCore) : (d.setKn t k c).braid = d.braid := (rfl)
@[simp] theorem Dev.setKn_power (t k : Nat) (c : KneadCore) : (d.setKn t k c).power = d.power := (rfl)
@[simp] theorem Dev.setKn_peelSeen (t k : Nat) (c : KneadCore) : (d.setKn t k c).peelSeen = d.peelSeen := (rfl)
@[simp] theorem Dev.setKn_slices (t k : Nat) (c : KneadCore) : (d.setKn t k c).slices = d.slices := (rfl)
@[simp] theorem Dev.setKn_sliceTick (t k : Nat) (c : KneadCore) : (d.setKn t k c).sliceTick = d.sliceTick := (rfl)
@[simp] theorem Dev.setKn_integ (t k : Nat) (c : KneadCore) : (d.setKn t k c).integ = d.integ := (rfl)
@[simp] theorem Dev.setKn_memb (t k : Nat) (c : KneadCore) : (d.setKn t k c).memb = d.memb := (rfl)
@[simp] theorem Dev.setKn_sp (t k : Nat) (c : KneadCore) : (d.setKn t k c).sp = d.sp := (rfl)
@[simp] theorem Dev.setKn_recipe (t k : Nat) (c : KneadCore) : (d.setKn t k c).recipe = d.recipe := (rfl)
@[simp] theorem Dev.setKn_reg (t k : Nat) (c : KneadCore) (r : Nat) : (d.setKn t k c).reg r = d.reg r := (rfl)
@[simp] theorem Dev.setKn_getF (t k : Nat) (c : KneadCore) (r : Nat) (q : Fld) : (d.setKn t k c).getF r q = d.getF r q := (rfl)
@[simp] theorem Dev.setKn_getB (t k : Nat) (c : KneadCore) (r : Nat) (q : Fld) : (d.setKn t k c).getB r q = d.getB r q := (rfl)
@[simp] theorem Dev.setKn_paused (t k : Nat) (c : KneadCore) (r : Nat) : (d.setKn t k c).paused r = d.paused r := (rfl)
@[simp] theorem Dev.setKn_byte (t k : Nat) (c : KneadCore) (r : Nat) : (d.setKn t k c).byte r = d.byte r := (rfl)
@[simp] theorem Dev.setKn_errOf (t k : Nat) (c : KneadCore) (r : Nat) : (d.setKn t k c).errOf r = d.errOf r := (rfl)
@[simp] theorem Dev.setKn_section_ (t k : Nat) (c : KneadCore) (y r : Nat) : (d.setKn t k c).section_ y r = d.section_ y r := (rfl)
@[simp] theorem Dev.setKn_tile (t k : Nat) (c : KneadCore) (r : Nat) : (d.setKn t k c).tile r = d.tile r := (rfl)
@[simp] theorem Dev.setKn_sieve (t k : Nat) (c : KneadCore) (r y : Nat) : (d.setKn t k c).sieve r y = d.sieve r y := (rfl)
@[simp] theorem Dev.setKn_tier (t k : Nat) (c : KneadCore) (r : Nat) : (d.setKn t k c).tier r = d.tier r := (rfl)
@[simp] theorem Dev.setKn_tray (t k : Nat) (c : KneadCore) (r : Nat) : (d.setKn t k c).tray r = d.tray r := (rfl)
@[simp] theorem Dev.setKn_sch (t k : Nat) (c : KneadCore) (r : Nat) : (d.setKn t k c).sch r = d.sch r := (rfl)
@[simp] theorem Dev.setKn_sg (t k : Nat) (c : KneadCore) (r y : Nat) : (d.setKn t k c).sg r y = d.sg r y := (rfl)
@[simp] theorem Dev.setKn_codecSt (t k : Nat) (c : KneadCore) (r y : Nat) : (d.setKn t k c).codecSt r y = d.codecSt r y := (rfl)
@[simp] theorem Dev.setKn_rad (t k : Nat) (c : KneadCore) (r : Nat) : (d.setKn t k c).rad r = d.rad r := (rfl)
@[simp] theorem Dev.setKn_port (t k : Nat) (c : KneadCore) (y : GatePort) : (d.setKn t k c).port y = d.port y := (rfl)
@[simp] theorem Dev.setKn_sli (t k : Nat) (c : KneadCore) (r : Nat) : (d.setKn t k c).sli r = d.sli r := (rfl)
@[simp] theorem Dev.setKn_pair (t k : Nat) (c : KneadCore) (r : Nat) : (d.setKn t k c).pair r = d.pair r := (rfl)
@[simp] theorem Dev.setKn_far (t k : Nat) (c : KneadCore) (r : Nat) : (d.setKn t k c).far r = d.far r := (rfl)
@[simp] theorem Dev.setKn_blink (t k : Nat) (c : KneadCore) (r : Nat) : (d.setKn t k c).blink r = d.blink r := (rfl)

/-! ### setSieve -/

@[simp] theorem Dev.setSieve_sieves (t i : Nat) (x : SieveState) : (d.setSieve t i x).sieves = store SieveState.init d.sieves (32 * t + i) x := (rfl)
@[simp] theorem Dev.setSieve_now (t i : Nat) (x : SieveState) : (d.setSieve t i x).now = d.now := (rfl)
@[simp] theorem Dev.setSieve_edge (t i : Nat) (x : SieveState) : (d.setSieve t i x).edge = d.edge := (rfl)
@[simp] theorem Dev.setSieve_free (t i : Nat) (x : SieveState) : (d.setSieve t i x).free = d.free := (rfl)
@[simp] theorem Dev.setSieve_readOut (t i : Nat) (x : SieveState) : (d.setSieve t i x).readOut = d.readOut := (rfl)
@[simp] theorem Dev.setSieve_regs (t i : Nat) (x : SieveState) : (d.setSieve t i x).regs = d.regs := (rfl)
@[simp] theorem Dev.setSieve_mem (t i : Nat) (x : SieveState) : (d.setSieve t i x).mem = d.mem := (rfl)
@[simp] theorem Dev.setSieve_lineErr (t i : Nat) (x : SieveState) : (d.setSieve t i x).lineErr = d.lineErr := (rfl)
@[simp] theorem Dev.setSieve_written (t i : Nat) (x : SieveState) : (d.setSieve t i x).written = d.written := (rfl)
@[simp] theorem Dev.setSieve_ev (t i : Nat) (x : SieveState) : (d.setSieve t i x).ev = d.ev := (rfl)
@[simp] theorem Dev.setSieve_hostWrites (t i : Nat) (x : SieveState) : (d.setSieve t i x).hostWrites = d.hostWrites := (rfl)
@[simp] theorem Dev.setSieve_hostNext (t i : Nat) (x : SieveState) : (d.setSieve t i x).hostNext = d.hostNext := (rfl)
@[simp] theorem Dev.setSieve_sent (t i : Nat) (x : SieveState) : (d.setSieve t i x).sent = d.sent := (rfl)
@[simp] theorem Dev.setSieve_tiles (t i : Nat) (x : SieveState) : (d.setSieve t i x).tiles = d.tiles := (rfl)
@[simp] theorem Dev.setSieve_ctrs (t i : Nat) (x : SieveState) : (d.setSieve t i x).ctrs = d.ctrs := (rfl)
@[simp] theorem Dev.setSieve_cfg (t i : Nat) (x : SieveState) : (d.setSieve t i x).cfg = d.cfg := (rfl)
@[simp] theorem Dev.setSieve_knead (t i : Nat) (x : SieveState) : (d.setSieve t i x).knead = d.knead := (rfl)
@[simp] theorem Dev.setSieve_tiers (t i : Nat) (x : SieveState) : (d.setSieve t i x).tiers = d.tiers := (rfl)
@[simp] theorem Dev.setSieve_asks (t i : Nat) (x : SieveState) : (d.setSieve t i x).asks = d.asks := (rfl)
@[simp] theorem Dev.setSieve_trays (t i : Nat) (x : SieveState) : (d.setSieve t i x).trays = d.trays := (rfl)
@[simp] theorem Dev.setSieve_sched (t i : Nat) (x : SieveState) : (d.setSieve t i x).sched = d.sched := (rfl)
@[simp] theorem Dev.setSieve_sig (t i : Nat) (x : SieveState) : (d.setSieve t i x).sig = d.sig := (rfl)
@[simp] theorem Dev.setSieve_codec (t i : Nat) (x : SieveState) : (d.setSieve t i x).codec = d.codec := (rfl)
@[simp] theorem Dev.setSieve_radio (t i : Nat) (x : SieveState) : (d.setSieve t i x).radio = d.radio := (rfl)
@[simp] theorem Dev.setSieve_ports (t i : Nat) (x : SieveState) : (d.setSieve t i x).ports = d.ports := (rfl)
@[simp] theorem Dev.setSieve_time (t i : Nat) (x : SieveState) : (d.setSieve t i x).time = d.time := (rfl)
@[simp] theorem Dev.setSieve_sampled (t i : Nat) (x : SieveState) : (d.setSieve t i x).sampled = d.sampled := (rfl)
@[simp] theorem Dev.setSieve_braid (t i : Nat) (x : SieveState) : (d.setSieve t i x).braid = d.braid := (rfl)
@[simp] theorem Dev.setSieve_power (t i : Nat) (x : SieveState) : (d.setSieve t i x).power = d.power := (rfl)
@[simp] theorem Dev.setSieve_peelSeen (t i : Nat) (x : SieveState) : (d.setSieve t i x).peelSeen = d.peelSeen := (rfl)
@[simp] theorem Dev.setSieve_slices (t i : Nat) (x : SieveState) : (d.setSieve t i x).slices = d.slices := (rfl)
@[simp] theorem Dev.setSieve_sliceTick (t i : Nat) (x : SieveState) : (d.setSieve t i x).sliceTick = d.sliceTick := (rfl)
@[simp] theorem Dev.setSieve_integ (t i : Nat) (x : SieveState) : (d.setSieve t i x).integ = d.integ := (rfl)
@[simp] theorem Dev.setSieve_memb (t i : Nat) (x : SieveState) : (d.setSieve t i x).memb = d.memb := (rfl)
@[simp] theorem Dev.setSieve_sp (t i : Nat) (x : SieveState) : (d.setSieve t i x).sp = d.sp := (rfl)
@[simp] theorem Dev.setSieve_recipe (t i : Nat) (x : SieveState) : (d.setSieve t i x).recipe = d.recipe := (rfl)
@[simp] theorem Dev.setSieve_reg (t i : Nat) (x : SieveState) (r : Nat) : (d.setSieve t i x).reg r = d.reg r := (rfl)
@[simp] theorem Dev.setSieve_getF (t i : Nat) (x : SieveState) (r : Nat) (q : Fld) : (d.setSieve t i x).getF r q = d.getF r q := (rfl)
@[simp] theorem Dev.setSieve_getB (t i : Nat) (x : SieveState) (r : Nat) (q : Fld) : (d.setSieve t i x).getB r q = d.getB r q := (rfl)
@[simp] theorem Dev.setSieve_paused (t i : Nat) (x : SieveState) (r : Nat) : (d.setSieve t i x).paused r = d.paused r := (rfl)
@[simp] theorem Dev.setSieve_byte (t i : Nat) (x : SieveState) (r : Nat) : (d.setSieve t i x).byte r = d.byte r := (rfl)
@[simp] theorem Dev.setSieve_errOf (t i : Nat) (x : SieveState) (r : Nat) : (d.setSieve t i x).errOf r = d.errOf r := (rfl)
@[simp] theorem Dev.setSieve_section_ (t i : Nat) (x : SieveState) (y r : Nat) : (d.setSieve t i x).section_ y r = d.section_ y r := (rfl)
@[simp] theorem Dev.setSieve_tile (t i : Nat) (x : SieveState) (r : Nat) : (d.setSieve t i x).tile r = d.tile r := (rfl)
@[simp] theorem Dev.setSieve_kn (t i : Nat) (x : SieveState) (r y : Nat) : (d.setSieve t i x).kn r y = d.kn r y := (rfl)
@[simp] theorem Dev.setSieve_tier (t i : Nat) (x : SieveState) (r : Nat) : (d.setSieve t i x).tier r = d.tier r := (rfl)
@[simp] theorem Dev.setSieve_tray (t i : Nat) (x : SieveState) (r : Nat) : (d.setSieve t i x).tray r = d.tray r := (rfl)
@[simp] theorem Dev.setSieve_sch (t i : Nat) (x : SieveState) (r : Nat) : (d.setSieve t i x).sch r = d.sch r := (rfl)
@[simp] theorem Dev.setSieve_sg (t i : Nat) (x : SieveState) (r y : Nat) : (d.setSieve t i x).sg r y = d.sg r y := (rfl)
@[simp] theorem Dev.setSieve_codecSt (t i : Nat) (x : SieveState) (r y : Nat) : (d.setSieve t i x).codecSt r y = d.codecSt r y := (rfl)
@[simp] theorem Dev.setSieve_rad (t i : Nat) (x : SieveState) (r : Nat) : (d.setSieve t i x).rad r = d.rad r := (rfl)
@[simp] theorem Dev.setSieve_port (t i : Nat) (x : SieveState) (y : GatePort) : (d.setSieve t i x).port y = d.port y := (rfl)
@[simp] theorem Dev.setSieve_sli (t i : Nat) (x : SieveState) (r : Nat) : (d.setSieve t i x).sli r = d.sli r := (rfl)
@[simp] theorem Dev.setSieve_pair (t i : Nat) (x : SieveState) (r : Nat) : (d.setSieve t i x).pair r = d.pair r := (rfl)
@[simp] theorem Dev.setSieve_far (t i : Nat) (x : SieveState) (r : Nat) : (d.setSieve t i x).far r = d.far r := (rfl)
@[simp] theorem Dev.setSieve_blink (t i : Nat) (x : SieveState) (r : Nat) : (d.setSieve t i x).blink r = d.blink r := (rfl)

/-! ### setTier -/

@[simp] theorem Dev.setTier_tiers (t : Nat) (x : TierState) : (d.setTier t x).tiers = store TierState.init d.tiers t x := (rfl)
@[simp] theorem Dev.setTier_now (t : Nat) (x : TierState) : (d.setTier t x).now = d.now := (rfl)
@[simp] theorem Dev.setTier_edge (t : Nat) (x : TierState) : (d.setTier t x).edge = d.edge := (rfl)
@[simp] theorem Dev.setTier_free (t : Nat) (x : TierState) : (d.setTier t x).free = d.free := (rfl)
@[simp] theorem Dev.setTier_readOut (t : Nat) (x : TierState) : (d.setTier t x).readOut = d.readOut := (rfl)
@[simp] theorem Dev.setTier_regs (t : Nat) (x : TierState) : (d.setTier t x).regs = d.regs := (rfl)
@[simp] theorem Dev.setTier_mem (t : Nat) (x : TierState) : (d.setTier t x).mem = d.mem := (rfl)
@[simp] theorem Dev.setTier_lineErr (t : Nat) (x : TierState) : (d.setTier t x).lineErr = d.lineErr := (rfl)
@[simp] theorem Dev.setTier_written (t : Nat) (x : TierState) : (d.setTier t x).written = d.written := (rfl)
@[simp] theorem Dev.setTier_ev (t : Nat) (x : TierState) : (d.setTier t x).ev = d.ev := (rfl)
@[simp] theorem Dev.setTier_hostWrites (t : Nat) (x : TierState) : (d.setTier t x).hostWrites = d.hostWrites := (rfl)
@[simp] theorem Dev.setTier_hostNext (t : Nat) (x : TierState) : (d.setTier t x).hostNext = d.hostNext := (rfl)
@[simp] theorem Dev.setTier_sent (t : Nat) (x : TierState) : (d.setTier t x).sent = d.sent := (rfl)
@[simp] theorem Dev.setTier_tiles (t : Nat) (x : TierState) : (d.setTier t x).tiles = d.tiles := (rfl)
@[simp] theorem Dev.setTier_ctrs (t : Nat) (x : TierState) : (d.setTier t x).ctrs = d.ctrs := (rfl)
@[simp] theorem Dev.setTier_cfg (t : Nat) (x : TierState) : (d.setTier t x).cfg = d.cfg := (rfl)
@[simp] theorem Dev.setTier_knead (t : Nat) (x : TierState) : (d.setTier t x).knead = d.knead := (rfl)
@[simp] theorem Dev.setTier_sieves (t : Nat) (x : TierState) : (d.setTier t x).sieves = d.sieves := (rfl)
@[simp] theorem Dev.setTier_asks (t : Nat) (x : TierState) : (d.setTier t x).asks = d.asks := (rfl)
@[simp] theorem Dev.setTier_trays (t : Nat) (x : TierState) : (d.setTier t x).trays = d.trays := (rfl)
@[simp] theorem Dev.setTier_sched (t : Nat) (x : TierState) : (d.setTier t x).sched = d.sched := (rfl)
@[simp] theorem Dev.setTier_sig (t : Nat) (x : TierState) : (d.setTier t x).sig = d.sig := (rfl)
@[simp] theorem Dev.setTier_codec (t : Nat) (x : TierState) : (d.setTier t x).codec = d.codec := (rfl)
@[simp] theorem Dev.setTier_radio (t : Nat) (x : TierState) : (d.setTier t x).radio = d.radio := (rfl)
@[simp] theorem Dev.setTier_ports (t : Nat) (x : TierState) : (d.setTier t x).ports = d.ports := (rfl)
@[simp] theorem Dev.setTier_time (t : Nat) (x : TierState) : (d.setTier t x).time = d.time := (rfl)
@[simp] theorem Dev.setTier_sampled (t : Nat) (x : TierState) : (d.setTier t x).sampled = d.sampled := (rfl)
@[simp] theorem Dev.setTier_braid (t : Nat) (x : TierState) : (d.setTier t x).braid = d.braid := (rfl)
@[simp] theorem Dev.setTier_power (t : Nat) (x : TierState) : (d.setTier t x).power = d.power := (rfl)
@[simp] theorem Dev.setTier_peelSeen (t : Nat) (x : TierState) : (d.setTier t x).peelSeen = d.peelSeen := (rfl)
@[simp] theorem Dev.setTier_slices (t : Nat) (x : TierState) : (d.setTier t x).slices = d.slices := (rfl)
@[simp] theorem Dev.setTier_sliceTick (t : Nat) (x : TierState) : (d.setTier t x).sliceTick = d.sliceTick := (rfl)
@[simp] theorem Dev.setTier_integ (t : Nat) (x : TierState) : (d.setTier t x).integ = d.integ := (rfl)
@[simp] theorem Dev.setTier_memb (t : Nat) (x : TierState) : (d.setTier t x).memb = d.memb := (rfl)
@[simp] theorem Dev.setTier_sp (t : Nat) (x : TierState) : (d.setTier t x).sp = d.sp := (rfl)
@[simp] theorem Dev.setTier_recipe (t : Nat) (x : TierState) : (d.setTier t x).recipe = d.recipe := (rfl)
@[simp] theorem Dev.setTier_reg (t : Nat) (x : TierState) (r : Nat) : (d.setTier t x).reg r = d.reg r := (rfl)
@[simp] theorem Dev.setTier_getF (t : Nat) (x : TierState) (r : Nat) (q : Fld) : (d.setTier t x).getF r q = d.getF r q := (rfl)
@[simp] theorem Dev.setTier_getB (t : Nat) (x : TierState) (r : Nat) (q : Fld) : (d.setTier t x).getB r q = d.getB r q := (rfl)
@[simp] theorem Dev.setTier_paused (t : Nat) (x : TierState) (r : Nat) : (d.setTier t x).paused r = d.paused r := (rfl)
@[simp] theorem Dev.setTier_byte (t : Nat) (x : TierState) (r : Nat) : (d.setTier t x).byte r = d.byte r := (rfl)
@[simp] theorem Dev.setTier_errOf (t : Nat) (x : TierState) (r : Nat) : (d.setTier t x).errOf r = d.errOf r := (rfl)
@[simp] theorem Dev.setTier_section_ (t : Nat) (x : TierState) (y r : Nat) : (d.setTier t x).section_ y r = d.section_ y r := (rfl)
@[simp] theorem Dev.setTier_tile (t : Nat) (x : TierState) (r : Nat) : (d.setTier t x).tile r = d.tile r := (rfl)
@[simp] theorem Dev.setTier_kn (t : Nat) (x : TierState) (r y : Nat) : (d.setTier t x).kn r y = d.kn r y := (rfl)
@[simp] theorem Dev.setTier_sieve (t : Nat) (x : TierState) (r y : Nat) : (d.setTier t x).sieve r y = d.sieve r y := (rfl)
@[simp] theorem Dev.setTier_tray (t : Nat) (x : TierState) (r : Nat) : (d.setTier t x).tray r = d.tray r := (rfl)
@[simp] theorem Dev.setTier_sch (t : Nat) (x : TierState) (r : Nat) : (d.setTier t x).sch r = d.sch r := (rfl)
@[simp] theorem Dev.setTier_sg (t : Nat) (x : TierState) (r y : Nat) : (d.setTier t x).sg r y = d.sg r y := (rfl)
@[simp] theorem Dev.setTier_codecSt (t : Nat) (x : TierState) (r y : Nat) : (d.setTier t x).codecSt r y = d.codecSt r y := (rfl)
@[simp] theorem Dev.setTier_rad (t : Nat) (x : TierState) (r : Nat) : (d.setTier t x).rad r = d.rad r := (rfl)
@[simp] theorem Dev.setTier_port (t : Nat) (x : TierState) (y : GatePort) : (d.setTier t x).port y = d.port y := (rfl)
@[simp] theorem Dev.setTier_sli (t : Nat) (x : TierState) (r : Nat) : (d.setTier t x).sli r = d.sli r := (rfl)
@[simp] theorem Dev.setTier_pair (t : Nat) (x : TierState) (r : Nat) : (d.setTier t x).pair r = d.pair r := (rfl)
@[simp] theorem Dev.setTier_far (t : Nat) (x : TierState) (r : Nat) : (d.setTier t x).far r = d.far r := (rfl)
@[simp] theorem Dev.setTier_blink (t : Nat) (x : TierState) (r : Nat) : (d.setTier t x).blink r = d.blink r := (rfl)

/-! ### setTray -/

@[simp] theorem Dev.setTray_trays (n : Nat) (x : TrayState) : (d.setTray n x).trays = store TrayState.init d.trays n x := (rfl)
@[simp] theorem Dev.setTray_now (n : Nat) (x : TrayState) : (d.setTray n x).now = d.now := (rfl)
@[simp] theorem Dev.setTray_edge (n : Nat) (x : TrayState) : (d.setTray n x).edge = d.edge := (rfl)
@[simp] theorem Dev.setTray_free (n : Nat) (x : TrayState) : (d.setTray n x).free = d.free := (rfl)
@[simp] theorem Dev.setTray_readOut (n : Nat) (x : TrayState) : (d.setTray n x).readOut = d.readOut := (rfl)
@[simp] theorem Dev.setTray_regs (n : Nat) (x : TrayState) : (d.setTray n x).regs = d.regs := (rfl)
@[simp] theorem Dev.setTray_mem (n : Nat) (x : TrayState) : (d.setTray n x).mem = d.mem := (rfl)
@[simp] theorem Dev.setTray_lineErr (n : Nat) (x : TrayState) : (d.setTray n x).lineErr = d.lineErr := (rfl)
@[simp] theorem Dev.setTray_written (n : Nat) (x : TrayState) : (d.setTray n x).written = d.written := (rfl)
@[simp] theorem Dev.setTray_ev (n : Nat) (x : TrayState) : (d.setTray n x).ev = d.ev := (rfl)
@[simp] theorem Dev.setTray_hostWrites (n : Nat) (x : TrayState) : (d.setTray n x).hostWrites = d.hostWrites := (rfl)
@[simp] theorem Dev.setTray_hostNext (n : Nat) (x : TrayState) : (d.setTray n x).hostNext = d.hostNext := (rfl)
@[simp] theorem Dev.setTray_sent (n : Nat) (x : TrayState) : (d.setTray n x).sent = d.sent := (rfl)
@[simp] theorem Dev.setTray_tiles (n : Nat) (x : TrayState) : (d.setTray n x).tiles = d.tiles := (rfl)
@[simp] theorem Dev.setTray_ctrs (n : Nat) (x : TrayState) : (d.setTray n x).ctrs = d.ctrs := (rfl)
@[simp] theorem Dev.setTray_cfg (n : Nat) (x : TrayState) : (d.setTray n x).cfg = d.cfg := (rfl)
@[simp] theorem Dev.setTray_knead (n : Nat) (x : TrayState) : (d.setTray n x).knead = d.knead := (rfl)
@[simp] theorem Dev.setTray_sieves (n : Nat) (x : TrayState) : (d.setTray n x).sieves = d.sieves := (rfl)
@[simp] theorem Dev.setTray_tiers (n : Nat) (x : TrayState) : (d.setTray n x).tiers = d.tiers := (rfl)
@[simp] theorem Dev.setTray_asks (n : Nat) (x : TrayState) : (d.setTray n x).asks = d.asks := (rfl)
@[simp] theorem Dev.setTray_sched (n : Nat) (x : TrayState) : (d.setTray n x).sched = d.sched := (rfl)
@[simp] theorem Dev.setTray_sig (n : Nat) (x : TrayState) : (d.setTray n x).sig = d.sig := (rfl)
@[simp] theorem Dev.setTray_codec (n : Nat) (x : TrayState) : (d.setTray n x).codec = d.codec := (rfl)
@[simp] theorem Dev.setTray_radio (n : Nat) (x : TrayState) : (d.setTray n x).radio = d.radio := (rfl)
@[simp] theorem Dev.setTray_ports (n : Nat) (x : TrayState) : (d.setTray n x).ports = d.ports := (rfl)
@[simp] theorem Dev.setTray_time (n : Nat) (x : TrayState) : (d.setTray n x).time = d.time := (rfl)
@[simp] theorem Dev.setTray_sampled (n : Nat) (x : TrayState) : (d.setTray n x).sampled = d.sampled := (rfl)
@[simp] theorem Dev.setTray_braid (n : Nat) (x : TrayState) : (d.setTray n x).braid = d.braid := (rfl)
@[simp] theorem Dev.setTray_power (n : Nat) (x : TrayState) : (d.setTray n x).power = d.power := (rfl)
@[simp] theorem Dev.setTray_peelSeen (n : Nat) (x : TrayState) : (d.setTray n x).peelSeen = d.peelSeen := (rfl)
@[simp] theorem Dev.setTray_slices (n : Nat) (x : TrayState) : (d.setTray n x).slices = d.slices := (rfl)
@[simp] theorem Dev.setTray_sliceTick (n : Nat) (x : TrayState) : (d.setTray n x).sliceTick = d.sliceTick := (rfl)
@[simp] theorem Dev.setTray_integ (n : Nat) (x : TrayState) : (d.setTray n x).integ = d.integ := (rfl)
@[simp] theorem Dev.setTray_memb (n : Nat) (x : TrayState) : (d.setTray n x).memb = d.memb := (rfl)
@[simp] theorem Dev.setTray_sp (n : Nat) (x : TrayState) : (d.setTray n x).sp = d.sp := (rfl)
@[simp] theorem Dev.setTray_recipe (n : Nat) (x : TrayState) : (d.setTray n x).recipe = d.recipe := (rfl)
@[simp] theorem Dev.setTray_reg (n : Nat) (x : TrayState) (r : Nat) : (d.setTray n x).reg r = d.reg r := (rfl)
@[simp] theorem Dev.setTray_getF (n : Nat) (x : TrayState) (r : Nat) (q : Fld) : (d.setTray n x).getF r q = d.getF r q := (rfl)
@[simp] theorem Dev.setTray_getB (n : Nat) (x : TrayState) (r : Nat) (q : Fld) : (d.setTray n x).getB r q = d.getB r q := (rfl)
@[simp] theorem Dev.setTray_paused (n : Nat) (x : TrayState) (r : Nat) : (d.setTray n x).paused r = d.paused r := (rfl)
@[simp] theorem Dev.setTray_byte (n : Nat) (x : TrayState) (r : Nat) : (d.setTray n x).byte r = d.byte r := (rfl)
@[simp] theorem Dev.setTray_errOf (n : Nat) (x : TrayState) (r : Nat) : (d.setTray n x).errOf r = d.errOf r := (rfl)
@[simp] theorem Dev.setTray_section_ (n : Nat) (x : TrayState) (y r : Nat) : (d.setTray n x).section_ y r = d.section_ y r := (rfl)
@[simp] theorem Dev.setTray_tile (n : Nat) (x : TrayState) (r : Nat) : (d.setTray n x).tile r = d.tile r := (rfl)
@[simp] theorem Dev.setTray_kn (n : Nat) (x : TrayState) (r y : Nat) : (d.setTray n x).kn r y = d.kn r y := (rfl)
@[simp] theorem Dev.setTray_sieve (n : Nat) (x : TrayState) (r y : Nat) : (d.setTray n x).sieve r y = d.sieve r y := (rfl)
@[simp] theorem Dev.setTray_tier (n : Nat) (x : TrayState) (r : Nat) : (d.setTray n x).tier r = d.tier r := (rfl)
@[simp] theorem Dev.setTray_sch (n : Nat) (x : TrayState) (r : Nat) : (d.setTray n x).sch r = d.sch r := (rfl)
@[simp] theorem Dev.setTray_sg (n : Nat) (x : TrayState) (r y : Nat) : (d.setTray n x).sg r y = d.sg r y := (rfl)
@[simp] theorem Dev.setTray_codecSt (n : Nat) (x : TrayState) (r y : Nat) : (d.setTray n x).codecSt r y = d.codecSt r y := (rfl)
@[simp] theorem Dev.setTray_rad (n : Nat) (x : TrayState) (r : Nat) : (d.setTray n x).rad r = d.rad r := (rfl)
@[simp] theorem Dev.setTray_port (n : Nat) (x : TrayState) (y : GatePort) : (d.setTray n x).port y = d.port y := (rfl)
@[simp] theorem Dev.setTray_sli (n : Nat) (x : TrayState) (r : Nat) : (d.setTray n x).sli r = d.sli r := (rfl)
@[simp] theorem Dev.setTray_pair (n : Nat) (x : TrayState) (r : Nat) : (d.setTray n x).pair r = d.pair r := (rfl)
@[simp] theorem Dev.setTray_far (n : Nat) (x : TrayState) (r : Nat) : (d.setTray n x).far r = d.far r := (rfl)
@[simp] theorem Dev.setTray_blink (n : Nat) (x : TrayState) (r : Nat) : (d.setTray n x).blink r = d.blink r := (rfl)

/-! ### setSch -/

@[simp] theorem Dev.setSch_sched (t : Nat) (x : Sched) : (d.setSch t x).sched = store Sched.init d.sched t x := (rfl)
@[simp] theorem Dev.setSch_now (t : Nat) (x : Sched) : (d.setSch t x).now = d.now := (rfl)
@[simp] theorem Dev.setSch_edge (t : Nat) (x : Sched) : (d.setSch t x).edge = d.edge := (rfl)
@[simp] theorem Dev.setSch_free (t : Nat) (x : Sched) : (d.setSch t x).free = d.free := (rfl)
@[simp] theorem Dev.setSch_readOut (t : Nat) (x : Sched) : (d.setSch t x).readOut = d.readOut := (rfl)
@[simp] theorem Dev.setSch_regs (t : Nat) (x : Sched) : (d.setSch t x).regs = d.regs := (rfl)
@[simp] theorem Dev.setSch_mem (t : Nat) (x : Sched) : (d.setSch t x).mem = d.mem := (rfl)
@[simp] theorem Dev.setSch_lineErr (t : Nat) (x : Sched) : (d.setSch t x).lineErr = d.lineErr := (rfl)
@[simp] theorem Dev.setSch_written (t : Nat) (x : Sched) : (d.setSch t x).written = d.written := (rfl)
@[simp] theorem Dev.setSch_ev (t : Nat) (x : Sched) : (d.setSch t x).ev = d.ev := (rfl)
@[simp] theorem Dev.setSch_hostWrites (t : Nat) (x : Sched) : (d.setSch t x).hostWrites = d.hostWrites := (rfl)
@[simp] theorem Dev.setSch_hostNext (t : Nat) (x : Sched) : (d.setSch t x).hostNext = d.hostNext := (rfl)
@[simp] theorem Dev.setSch_sent (t : Nat) (x : Sched) : (d.setSch t x).sent = d.sent := (rfl)
@[simp] theorem Dev.setSch_tiles (t : Nat) (x : Sched) : (d.setSch t x).tiles = d.tiles := (rfl)
@[simp] theorem Dev.setSch_ctrs (t : Nat) (x : Sched) : (d.setSch t x).ctrs = d.ctrs := (rfl)
@[simp] theorem Dev.setSch_cfg (t : Nat) (x : Sched) : (d.setSch t x).cfg = d.cfg := (rfl)
@[simp] theorem Dev.setSch_knead (t : Nat) (x : Sched) : (d.setSch t x).knead = d.knead := (rfl)
@[simp] theorem Dev.setSch_sieves (t : Nat) (x : Sched) : (d.setSch t x).sieves = d.sieves := (rfl)
@[simp] theorem Dev.setSch_tiers (t : Nat) (x : Sched) : (d.setSch t x).tiers = d.tiers := (rfl)
@[simp] theorem Dev.setSch_asks (t : Nat) (x : Sched) : (d.setSch t x).asks = d.asks := (rfl)
@[simp] theorem Dev.setSch_trays (t : Nat) (x : Sched) : (d.setSch t x).trays = d.trays := (rfl)
@[simp] theorem Dev.setSch_sig (t : Nat) (x : Sched) : (d.setSch t x).sig = d.sig := (rfl)
@[simp] theorem Dev.setSch_codec (t : Nat) (x : Sched) : (d.setSch t x).codec = d.codec := (rfl)
@[simp] theorem Dev.setSch_radio (t : Nat) (x : Sched) : (d.setSch t x).radio = d.radio := (rfl)
@[simp] theorem Dev.setSch_ports (t : Nat) (x : Sched) : (d.setSch t x).ports = d.ports := (rfl)
@[simp] theorem Dev.setSch_time (t : Nat) (x : Sched) : (d.setSch t x).time = d.time := (rfl)
@[simp] theorem Dev.setSch_sampled (t : Nat) (x : Sched) : (d.setSch t x).sampled = d.sampled := (rfl)
@[simp] theorem Dev.setSch_braid (t : Nat) (x : Sched) : (d.setSch t x).braid = d.braid := (rfl)
@[simp] theorem Dev.setSch_power (t : Nat) (x : Sched) : (d.setSch t x).power = d.power := (rfl)
@[simp] theorem Dev.setSch_peelSeen (t : Nat) (x : Sched) : (d.setSch t x).peelSeen = d.peelSeen := (rfl)
@[simp] theorem Dev.setSch_slices (t : Nat) (x : Sched) : (d.setSch t x).slices = d.slices := (rfl)
@[simp] theorem Dev.setSch_sliceTick (t : Nat) (x : Sched) : (d.setSch t x).sliceTick = d.sliceTick := (rfl)
@[simp] theorem Dev.setSch_integ (t : Nat) (x : Sched) : (d.setSch t x).integ = d.integ := (rfl)
@[simp] theorem Dev.setSch_memb (t : Nat) (x : Sched) : (d.setSch t x).memb = d.memb := (rfl)
@[simp] theorem Dev.setSch_sp (t : Nat) (x : Sched) : (d.setSch t x).sp = d.sp := (rfl)
@[simp] theorem Dev.setSch_recipe (t : Nat) (x : Sched) : (d.setSch t x).recipe = d.recipe := (rfl)
@[simp] theorem Dev.setSch_reg (t : Nat) (x : Sched) (r : Nat) : (d.setSch t x).reg r = d.reg r := (rfl)
@[simp] theorem Dev.setSch_getF (t : Nat) (x : Sched) (r : Nat) (q : Fld) : (d.setSch t x).getF r q = d.getF r q := (rfl)
@[simp] theorem Dev.setSch_getB (t : Nat) (x : Sched) (r : Nat) (q : Fld) : (d.setSch t x).getB r q = d.getB r q := (rfl)
@[simp] theorem Dev.setSch_paused (t : Nat) (x : Sched) (r : Nat) : (d.setSch t x).paused r = d.paused r := (rfl)
@[simp] theorem Dev.setSch_byte (t : Nat) (x : Sched) (r : Nat) : (d.setSch t x).byte r = d.byte r := (rfl)
@[simp] theorem Dev.setSch_errOf (t : Nat) (x : Sched) (r : Nat) : (d.setSch t x).errOf r = d.errOf r := (rfl)
@[simp] theorem Dev.setSch_section_ (t : Nat) (x : Sched) (y r : Nat) : (d.setSch t x).section_ y r = d.section_ y r := (rfl)
@[simp] theorem Dev.setSch_tile (t : Nat) (x : Sched) (r : Nat) : (d.setSch t x).tile r = d.tile r := (rfl)
@[simp] theorem Dev.setSch_kn (t : Nat) (x : Sched) (r y : Nat) : (d.setSch t x).kn r y = d.kn r y := (rfl)
@[simp] theorem Dev.setSch_sieve (t : Nat) (x : Sched) (r y : Nat) : (d.setSch t x).sieve r y = d.sieve r y := (rfl)
@[simp] theorem Dev.setSch_tier (t : Nat) (x : Sched) (r : Nat) : (d.setSch t x).tier r = d.tier r := (rfl)
@[simp] theorem Dev.setSch_tray (t : Nat) (x : Sched) (r : Nat) : (d.setSch t x).tray r = d.tray r := (rfl)
@[simp] theorem Dev.setSch_sg (t : Nat) (x : Sched) (r y : Nat) : (d.setSch t x).sg r y = d.sg r y := (rfl)
@[simp] theorem Dev.setSch_codecSt (t : Nat) (x : Sched) (r y : Nat) : (d.setSch t x).codecSt r y = d.codecSt r y := (rfl)
@[simp] theorem Dev.setSch_rad (t : Nat) (x : Sched) (r : Nat) : (d.setSch t x).rad r = d.rad r := (rfl)
@[simp] theorem Dev.setSch_port (t : Nat) (x : Sched) (y : GatePort) : (d.setSch t x).port y = d.port y := (rfl)
@[simp] theorem Dev.setSch_sli (t : Nat) (x : Sched) (r : Nat) : (d.setSch t x).sli r = d.sli r := (rfl)
@[simp] theorem Dev.setSch_pair (t : Nat) (x : Sched) (r : Nat) : (d.setSch t x).pair r = d.pair r := (rfl)
@[simp] theorem Dev.setSch_far (t : Nat) (x : Sched) (r : Nat) : (d.setSch t x).far r = d.far r := (rfl)
@[simp] theorem Dev.setSch_blink (t : Nat) (x : Sched) (r : Nat) : (d.setSch t x).blink r = d.blink r := (rfl)

/-! ### setSg -/

@[simp] theorem Dev.setSg_sig (t i : Nat) (c : SigCoreState) : (d.setSg t i c).sig = store SigCoreState.init d.sig (8 * t + i) c := (rfl)
@[simp] theorem Dev.setSg_now (t i : Nat) (c : SigCoreState) : (d.setSg t i c).now = d.now := (rfl)
@[simp] theorem Dev.setSg_edge (t i : Nat) (c : SigCoreState) : (d.setSg t i c).edge = d.edge := (rfl)
@[simp] theorem Dev.setSg_free (t i : Nat) (c : SigCoreState) : (d.setSg t i c).free = d.free := (rfl)
@[simp] theorem Dev.setSg_readOut (t i : Nat) (c : SigCoreState) : (d.setSg t i c).readOut = d.readOut := (rfl)
@[simp] theorem Dev.setSg_regs (t i : Nat) (c : SigCoreState) : (d.setSg t i c).regs = d.regs := (rfl)
@[simp] theorem Dev.setSg_mem (t i : Nat) (c : SigCoreState) : (d.setSg t i c).mem = d.mem := (rfl)
@[simp] theorem Dev.setSg_lineErr (t i : Nat) (c : SigCoreState) : (d.setSg t i c).lineErr = d.lineErr := (rfl)
@[simp] theorem Dev.setSg_written (t i : Nat) (c : SigCoreState) : (d.setSg t i c).written = d.written := (rfl)
@[simp] theorem Dev.setSg_ev (t i : Nat) (c : SigCoreState) : (d.setSg t i c).ev = d.ev := (rfl)
@[simp] theorem Dev.setSg_hostWrites (t i : Nat) (c : SigCoreState) : (d.setSg t i c).hostWrites = d.hostWrites := (rfl)
@[simp] theorem Dev.setSg_hostNext (t i : Nat) (c : SigCoreState) : (d.setSg t i c).hostNext = d.hostNext := (rfl)
@[simp] theorem Dev.setSg_sent (t i : Nat) (c : SigCoreState) : (d.setSg t i c).sent = d.sent := (rfl)
@[simp] theorem Dev.setSg_tiles (t i : Nat) (c : SigCoreState) : (d.setSg t i c).tiles = d.tiles := (rfl)
@[simp] theorem Dev.setSg_ctrs (t i : Nat) (c : SigCoreState) : (d.setSg t i c).ctrs = d.ctrs := (rfl)
@[simp] theorem Dev.setSg_cfg (t i : Nat) (c : SigCoreState) : (d.setSg t i c).cfg = d.cfg := (rfl)
@[simp] theorem Dev.setSg_knead (t i : Nat) (c : SigCoreState) : (d.setSg t i c).knead = d.knead := (rfl)
@[simp] theorem Dev.setSg_sieves (t i : Nat) (c : SigCoreState) : (d.setSg t i c).sieves = d.sieves := (rfl)
@[simp] theorem Dev.setSg_tiers (t i : Nat) (c : SigCoreState) : (d.setSg t i c).tiers = d.tiers := (rfl)
@[simp] theorem Dev.setSg_asks (t i : Nat) (c : SigCoreState) : (d.setSg t i c).asks = d.asks := (rfl)
@[simp] theorem Dev.setSg_trays (t i : Nat) (c : SigCoreState) : (d.setSg t i c).trays = d.trays := (rfl)
@[simp] theorem Dev.setSg_sched (t i : Nat) (c : SigCoreState) : (d.setSg t i c).sched = d.sched := (rfl)
@[simp] theorem Dev.setSg_codec (t i : Nat) (c : SigCoreState) : (d.setSg t i c).codec = d.codec := (rfl)
@[simp] theorem Dev.setSg_radio (t i : Nat) (c : SigCoreState) : (d.setSg t i c).radio = d.radio := (rfl)
@[simp] theorem Dev.setSg_ports (t i : Nat) (c : SigCoreState) : (d.setSg t i c).ports = d.ports := (rfl)
@[simp] theorem Dev.setSg_time (t i : Nat) (c : SigCoreState) : (d.setSg t i c).time = d.time := (rfl)
@[simp] theorem Dev.setSg_sampled (t i : Nat) (c : SigCoreState) : (d.setSg t i c).sampled = d.sampled := (rfl)
@[simp] theorem Dev.setSg_braid (t i : Nat) (c : SigCoreState) : (d.setSg t i c).braid = d.braid := (rfl)
@[simp] theorem Dev.setSg_power (t i : Nat) (c : SigCoreState) : (d.setSg t i c).power = d.power := (rfl)
@[simp] theorem Dev.setSg_peelSeen (t i : Nat) (c : SigCoreState) : (d.setSg t i c).peelSeen = d.peelSeen := (rfl)
@[simp] theorem Dev.setSg_slices (t i : Nat) (c : SigCoreState) : (d.setSg t i c).slices = d.slices := (rfl)
@[simp] theorem Dev.setSg_sliceTick (t i : Nat) (c : SigCoreState) : (d.setSg t i c).sliceTick = d.sliceTick := (rfl)
@[simp] theorem Dev.setSg_integ (t i : Nat) (c : SigCoreState) : (d.setSg t i c).integ = d.integ := (rfl)
@[simp] theorem Dev.setSg_memb (t i : Nat) (c : SigCoreState) : (d.setSg t i c).memb = d.memb := (rfl)
@[simp] theorem Dev.setSg_sp (t i : Nat) (c : SigCoreState) : (d.setSg t i c).sp = d.sp := (rfl)
@[simp] theorem Dev.setSg_recipe (t i : Nat) (c : SigCoreState) : (d.setSg t i c).recipe = d.recipe := (rfl)
@[simp] theorem Dev.setSg_reg (t i : Nat) (c : SigCoreState) (r : Nat) : (d.setSg t i c).reg r = d.reg r := (rfl)
@[simp] theorem Dev.setSg_getF (t i : Nat) (c : SigCoreState) (r : Nat) (q : Fld) : (d.setSg t i c).getF r q = d.getF r q := (rfl)
@[simp] theorem Dev.setSg_getB (t i : Nat) (c : SigCoreState) (r : Nat) (q : Fld) : (d.setSg t i c).getB r q = d.getB r q := (rfl)
@[simp] theorem Dev.setSg_paused (t i : Nat) (c : SigCoreState) (r : Nat) : (d.setSg t i c).paused r = d.paused r := (rfl)
@[simp] theorem Dev.setSg_byte (t i : Nat) (c : SigCoreState) (r : Nat) : (d.setSg t i c).byte r = d.byte r := (rfl)
@[simp] theorem Dev.setSg_errOf (t i : Nat) (c : SigCoreState) (r : Nat) : (d.setSg t i c).errOf r = d.errOf r := (rfl)
@[simp] theorem Dev.setSg_section_ (t i : Nat) (c : SigCoreState) (y r : Nat) : (d.setSg t i c).section_ y r = d.section_ y r := (rfl)
@[simp] theorem Dev.setSg_tile (t i : Nat) (c : SigCoreState) (r : Nat) : (d.setSg t i c).tile r = d.tile r := (rfl)
@[simp] theorem Dev.setSg_kn (t i : Nat) (c : SigCoreState) (r y : Nat) : (d.setSg t i c).kn r y = d.kn r y := (rfl)
@[simp] theorem Dev.setSg_sieve (t i : Nat) (c : SigCoreState) (r y : Nat) : (d.setSg t i c).sieve r y = d.sieve r y := (rfl)
@[simp] theorem Dev.setSg_tier (t i : Nat) (c : SigCoreState) (r : Nat) : (d.setSg t i c).tier r = d.tier r := (rfl)
@[simp] theorem Dev.setSg_tray (t i : Nat) (c : SigCoreState) (r : Nat) : (d.setSg t i c).tray r = d.tray r := (rfl)
@[simp] theorem Dev.setSg_sch (t i : Nat) (c : SigCoreState) (r : Nat) : (d.setSg t i c).sch r = d.sch r := (rfl)
@[simp] theorem Dev.setSg_codecSt (t i : Nat) (c : SigCoreState) (r y : Nat) : (d.setSg t i c).codecSt r y = d.codecSt r y := (rfl)
@[simp] theorem Dev.setSg_rad (t i : Nat) (c : SigCoreState) (r : Nat) : (d.setSg t i c).rad r = d.rad r := (rfl)
@[simp] theorem Dev.setSg_port (t i : Nat) (c : SigCoreState) (y : GatePort) : (d.setSg t i c).port y = d.port y := (rfl)
@[simp] theorem Dev.setSg_sli (t i : Nat) (c : SigCoreState) (r : Nat) : (d.setSg t i c).sli r = d.sli r := (rfl)
@[simp] theorem Dev.setSg_pair (t i : Nat) (c : SigCoreState) (r : Nat) : (d.setSg t i c).pair r = d.pair r := (rfl)
@[simp] theorem Dev.setSg_far (t i : Nat) (c : SigCoreState) (r : Nat) : (d.setSg t i c).far r = d.far r := (rfl)
@[simp] theorem Dev.setSg_blink (t i : Nat) (c : SigCoreState) (r : Nat) : (d.setSg t i c).blink r = d.blink r := (rfl)

/-! ### setCodec -/

@[simp] theorem Dev.setCodec_codec (t e : Nat) (c : CodecState) : (d.setCodec t e c).codec = store CodecState.init d.codec (8 * t + e) c := (rfl)
@[simp] theorem Dev.setCodec_now (t e : Nat) (c : CodecState) : (d.setCodec t e c).now = d.now := (rfl)
@[simp] theorem Dev.setCodec_edge (t e : Nat) (c : CodecState) : (d.setCodec t e c).edge = d.edge := (rfl)
@[simp] theorem Dev.setCodec_free (t e : Nat) (c : CodecState) : (d.setCodec t e c).free = d.free := (rfl)
@[simp] theorem Dev.setCodec_readOut (t e : Nat) (c : CodecState) : (d.setCodec t e c).readOut = d.readOut := (rfl)
@[simp] theorem Dev.setCodec_regs (t e : Nat) (c : CodecState) : (d.setCodec t e c).regs = d.regs := (rfl)
@[simp] theorem Dev.setCodec_mem (t e : Nat) (c : CodecState) : (d.setCodec t e c).mem = d.mem := (rfl)
@[simp] theorem Dev.setCodec_lineErr (t e : Nat) (c : CodecState) : (d.setCodec t e c).lineErr = d.lineErr := (rfl)
@[simp] theorem Dev.setCodec_written (t e : Nat) (c : CodecState) : (d.setCodec t e c).written = d.written := (rfl)
@[simp] theorem Dev.setCodec_ev (t e : Nat) (c : CodecState) : (d.setCodec t e c).ev = d.ev := (rfl)
@[simp] theorem Dev.setCodec_hostWrites (t e : Nat) (c : CodecState) : (d.setCodec t e c).hostWrites = d.hostWrites := (rfl)
@[simp] theorem Dev.setCodec_hostNext (t e : Nat) (c : CodecState) : (d.setCodec t e c).hostNext = d.hostNext := (rfl)
@[simp] theorem Dev.setCodec_sent (t e : Nat) (c : CodecState) : (d.setCodec t e c).sent = d.sent := (rfl)
@[simp] theorem Dev.setCodec_tiles (t e : Nat) (c : CodecState) : (d.setCodec t e c).tiles = d.tiles := (rfl)
@[simp] theorem Dev.setCodec_ctrs (t e : Nat) (c : CodecState) : (d.setCodec t e c).ctrs = d.ctrs := (rfl)
@[simp] theorem Dev.setCodec_cfg (t e : Nat) (c : CodecState) : (d.setCodec t e c).cfg = d.cfg := (rfl)
@[simp] theorem Dev.setCodec_knead (t e : Nat) (c : CodecState) : (d.setCodec t e c).knead = d.knead := (rfl)
@[simp] theorem Dev.setCodec_sieves (t e : Nat) (c : CodecState) : (d.setCodec t e c).sieves = d.sieves := (rfl)
@[simp] theorem Dev.setCodec_tiers (t e : Nat) (c : CodecState) : (d.setCodec t e c).tiers = d.tiers := (rfl)
@[simp] theorem Dev.setCodec_asks (t e : Nat) (c : CodecState) : (d.setCodec t e c).asks = d.asks := (rfl)
@[simp] theorem Dev.setCodec_trays (t e : Nat) (c : CodecState) : (d.setCodec t e c).trays = d.trays := (rfl)
@[simp] theorem Dev.setCodec_sched (t e : Nat) (c : CodecState) : (d.setCodec t e c).sched = d.sched := (rfl)
@[simp] theorem Dev.setCodec_sig (t e : Nat) (c : CodecState) : (d.setCodec t e c).sig = d.sig := (rfl)
@[simp] theorem Dev.setCodec_radio (t e : Nat) (c : CodecState) : (d.setCodec t e c).radio = d.radio := (rfl)
@[simp] theorem Dev.setCodec_ports (t e : Nat) (c : CodecState) : (d.setCodec t e c).ports = d.ports := (rfl)
@[simp] theorem Dev.setCodec_time (t e : Nat) (c : CodecState) : (d.setCodec t e c).time = d.time := (rfl)
@[simp] theorem Dev.setCodec_sampled (t e : Nat) (c : CodecState) : (d.setCodec t e c).sampled = d.sampled := (rfl)
@[simp] theorem Dev.setCodec_braid (t e : Nat) (c : CodecState) : (d.setCodec t e c).braid = d.braid := (rfl)
@[simp] theorem Dev.setCodec_power (t e : Nat) (c : CodecState) : (d.setCodec t e c).power = d.power := (rfl)
@[simp] theorem Dev.setCodec_peelSeen (t e : Nat) (c : CodecState) : (d.setCodec t e c).peelSeen = d.peelSeen := (rfl)
@[simp] theorem Dev.setCodec_slices (t e : Nat) (c : CodecState) : (d.setCodec t e c).slices = d.slices := (rfl)
@[simp] theorem Dev.setCodec_sliceTick (t e : Nat) (c : CodecState) : (d.setCodec t e c).sliceTick = d.sliceTick := (rfl)
@[simp] theorem Dev.setCodec_integ (t e : Nat) (c : CodecState) : (d.setCodec t e c).integ = d.integ := (rfl)
@[simp] theorem Dev.setCodec_memb (t e : Nat) (c : CodecState) : (d.setCodec t e c).memb = d.memb := (rfl)
@[simp] theorem Dev.setCodec_sp (t e : Nat) (c : CodecState) : (d.setCodec t e c).sp = d.sp := (rfl)
@[simp] theorem Dev.setCodec_recipe (t e : Nat) (c : CodecState) : (d.setCodec t e c).recipe = d.recipe := (rfl)
@[simp] theorem Dev.setCodec_reg (t e : Nat) (c : CodecState) (r : Nat) : (d.setCodec t e c).reg r = d.reg r := (rfl)
@[simp] theorem Dev.setCodec_getF (t e : Nat) (c : CodecState) (r : Nat) (q : Fld) : (d.setCodec t e c).getF r q = d.getF r q := (rfl)
@[simp] theorem Dev.setCodec_getB (t e : Nat) (c : CodecState) (r : Nat) (q : Fld) : (d.setCodec t e c).getB r q = d.getB r q := (rfl)
@[simp] theorem Dev.setCodec_paused (t e : Nat) (c : CodecState) (r : Nat) : (d.setCodec t e c).paused r = d.paused r := (rfl)
@[simp] theorem Dev.setCodec_byte (t e : Nat) (c : CodecState) (r : Nat) : (d.setCodec t e c).byte r = d.byte r := (rfl)
@[simp] theorem Dev.setCodec_errOf (t e : Nat) (c : CodecState) (r : Nat) : (d.setCodec t e c).errOf r = d.errOf r := (rfl)
@[simp] theorem Dev.setCodec_section_ (t e : Nat) (c : CodecState) (y r : Nat) : (d.setCodec t e c).section_ y r = d.section_ y r := (rfl)
@[simp] theorem Dev.setCodec_tile (t e : Nat) (c : CodecState) (r : Nat) : (d.setCodec t e c).tile r = d.tile r := (rfl)
@[simp] theorem Dev.setCodec_kn (t e : Nat) (c : CodecState) (r y : Nat) : (d.setCodec t e c).kn r y = d.kn r y := (rfl)
@[simp] theorem Dev.setCodec_sieve (t e : Nat) (c : CodecState) (r y : Nat) : (d.setCodec t e c).sieve r y = d.sieve r y := (rfl)
@[simp] theorem Dev.setCodec_tier (t e : Nat) (c : CodecState) (r : Nat) : (d.setCodec t e c).tier r = d.tier r := (rfl)
@[simp] theorem Dev.setCodec_tray (t e : Nat) (c : CodecState) (r : Nat) : (d.setCodec t e c).tray r = d.tray r := (rfl)
@[simp] theorem Dev.setCodec_sch (t e : Nat) (c : CodecState) (r : Nat) : (d.setCodec t e c).sch r = d.sch r := (rfl)
@[simp] theorem Dev.setCodec_sg (t e : Nat) (c : CodecState) (r y : Nat) : (d.setCodec t e c).sg r y = d.sg r y := (rfl)
@[simp] theorem Dev.setCodec_rad (t e : Nat) (c : CodecState) (r : Nat) : (d.setCodec t e c).rad r = d.rad r := (rfl)
@[simp] theorem Dev.setCodec_port (t e : Nat) (c : CodecState) (y : GatePort) : (d.setCodec t e c).port y = d.port y := (rfl)
@[simp] theorem Dev.setCodec_sli (t e : Nat) (c : CodecState) (r : Nat) : (d.setCodec t e c).sli r = d.sli r := (rfl)
@[simp] theorem Dev.setCodec_pair (t e : Nat) (c : CodecState) (r : Nat) : (d.setCodec t e c).pair r = d.pair r := (rfl)
@[simp] theorem Dev.setCodec_far (t e : Nat) (c : CodecState) (r : Nat) : (d.setCodec t e c).far r = d.far r := (rfl)
@[simp] theorem Dev.setCodec_blink (t e : Nat) (c : CodecState) (r : Nat) : (d.setCodec t e c).blink r = d.blink r := (rfl)

/-! ### setRad -/

@[simp] theorem Dev.setRad_radio (t : Nat) (x : RadioState) : (d.setRad t x).radio = store RadioState.init d.radio t x := (rfl)
@[simp] theorem Dev.setRad_now (t : Nat) (x : RadioState) : (d.setRad t x).now = d.now := (rfl)
@[simp] theorem Dev.setRad_edge (t : Nat) (x : RadioState) : (d.setRad t x).edge = d.edge := (rfl)
@[simp] theorem Dev.setRad_free (t : Nat) (x : RadioState) : (d.setRad t x).free = d.free := (rfl)
@[simp] theorem Dev.setRad_readOut (t : Nat) (x : RadioState) : (d.setRad t x).readOut = d.readOut := (rfl)
@[simp] theorem Dev.setRad_regs (t : Nat) (x : RadioState) : (d.setRad t x).regs = d.regs := (rfl)
@[simp] theorem Dev.setRad_mem (t : Nat) (x : RadioState) : (d.setRad t x).mem = d.mem := (rfl)
@[simp] theorem Dev.setRad_lineErr (t : Nat) (x : RadioState) : (d.setRad t x).lineErr = d.lineErr := (rfl)
@[simp] theorem Dev.setRad_written (t : Nat) (x : RadioState) : (d.setRad t x).written = d.written := (rfl)
@[simp] theorem Dev.setRad_ev (t : Nat) (x : RadioState) : (d.setRad t x).ev = d.ev := (rfl)
@[simp] theorem Dev.setRad_hostWrites (t : Nat) (x : RadioState) : (d.setRad t x).hostWrites = d.hostWrites := (rfl)
@[simp] theorem Dev.setRad_hostNext (t : Nat) (x : RadioState) : (d.setRad t x).hostNext = d.hostNext := (rfl)
@[simp] theorem Dev.setRad_sent (t : Nat) (x : RadioState) : (d.setRad t x).sent = d.sent := (rfl)
@[simp] theorem Dev.setRad_tiles (t : Nat) (x : RadioState) : (d.setRad t x).tiles = d.tiles := (rfl)
@[simp] theorem Dev.setRad_ctrs (t : Nat) (x : RadioState) : (d.setRad t x).ctrs = d.ctrs := (rfl)
@[simp] theorem Dev.setRad_cfg (t : Nat) (x : RadioState) : (d.setRad t x).cfg = d.cfg := (rfl)
@[simp] theorem Dev.setRad_knead (t : Nat) (x : RadioState) : (d.setRad t x).knead = d.knead := (rfl)
@[simp] theorem Dev.setRad_sieves (t : Nat) (x : RadioState) : (d.setRad t x).sieves = d.sieves := (rfl)
@[simp] theorem Dev.setRad_tiers (t : Nat) (x : RadioState) : (d.setRad t x).tiers = d.tiers := (rfl)
@[simp] theorem Dev.setRad_asks (t : Nat) (x : RadioState) : (d.setRad t x).asks = d.asks := (rfl)
@[simp] theorem Dev.setRad_trays (t : Nat) (x : RadioState) : (d.setRad t x).trays = d.trays := (rfl)
@[simp] theorem Dev.setRad_sched (t : Nat) (x : RadioState) : (d.setRad t x).sched = d.sched := (rfl)
@[simp] theorem Dev.setRad_sig (t : Nat) (x : RadioState) : (d.setRad t x).sig = d.sig := (rfl)
@[simp] theorem Dev.setRad_codec (t : Nat) (x : RadioState) : (d.setRad t x).codec = d.codec := (rfl)
@[simp] theorem Dev.setRad_ports (t : Nat) (x : RadioState) : (d.setRad t x).ports = d.ports := (rfl)
@[simp] theorem Dev.setRad_time (t : Nat) (x : RadioState) : (d.setRad t x).time = d.time := (rfl)
@[simp] theorem Dev.setRad_sampled (t : Nat) (x : RadioState) : (d.setRad t x).sampled = d.sampled := (rfl)
@[simp] theorem Dev.setRad_braid (t : Nat) (x : RadioState) : (d.setRad t x).braid = d.braid := (rfl)
@[simp] theorem Dev.setRad_power (t : Nat) (x : RadioState) : (d.setRad t x).power = d.power := (rfl)
@[simp] theorem Dev.setRad_peelSeen (t : Nat) (x : RadioState) : (d.setRad t x).peelSeen = d.peelSeen := (rfl)
@[simp] theorem Dev.setRad_slices (t : Nat) (x : RadioState) : (d.setRad t x).slices = d.slices := (rfl)
@[simp] theorem Dev.setRad_sliceTick (t : Nat) (x : RadioState) : (d.setRad t x).sliceTick = d.sliceTick := (rfl)
@[simp] theorem Dev.setRad_integ (t : Nat) (x : RadioState) : (d.setRad t x).integ = d.integ := (rfl)
@[simp] theorem Dev.setRad_memb (t : Nat) (x : RadioState) : (d.setRad t x).memb = d.memb := (rfl)
@[simp] theorem Dev.setRad_sp (t : Nat) (x : RadioState) : (d.setRad t x).sp = d.sp := (rfl)
@[simp] theorem Dev.setRad_recipe (t : Nat) (x : RadioState) : (d.setRad t x).recipe = d.recipe := (rfl)
@[simp] theorem Dev.setRad_reg (t : Nat) (x : RadioState) (r : Nat) : (d.setRad t x).reg r = d.reg r := (rfl)
@[simp] theorem Dev.setRad_getF (t : Nat) (x : RadioState) (r : Nat) (q : Fld) : (d.setRad t x).getF r q = d.getF r q := (rfl)
@[simp] theorem Dev.setRad_getB (t : Nat) (x : RadioState) (r : Nat) (q : Fld) : (d.setRad t x).getB r q = d.getB r q := (rfl)
@[simp] theorem Dev.setRad_paused (t : Nat) (x : RadioState) (r : Nat) : (d.setRad t x).paused r = d.paused r := (rfl)
@[simp] theorem Dev.setRad_byte (t : Nat) (x : RadioState) (r : Nat) : (d.setRad t x).byte r = d.byte r := (rfl)
@[simp] theorem Dev.setRad_errOf (t : Nat) (x : RadioState) (r : Nat) : (d.setRad t x).errOf r = d.errOf r := (rfl)
@[simp] theorem Dev.setRad_section_ (t : Nat) (x : RadioState) (y r : Nat) : (d.setRad t x).section_ y r = d.section_ y r := (rfl)
@[simp] theorem Dev.setRad_tile (t : Nat) (x : RadioState) (r : Nat) : (d.setRad t x).tile r = d.tile r := (rfl)
@[simp] theorem Dev.setRad_kn (t : Nat) (x : RadioState) (r y : Nat) : (d.setRad t x).kn r y = d.kn r y := (rfl)
@[simp] theorem Dev.setRad_sieve (t : Nat) (x : RadioState) (r y : Nat) : (d.setRad t x).sieve r y = d.sieve r y := (rfl)
@[simp] theorem Dev.setRad_tier (t : Nat) (x : RadioState) (r : Nat) : (d.setRad t x).tier r = d.tier r := (rfl)
@[simp] theorem Dev.setRad_tray (t : Nat) (x : RadioState) (r : Nat) : (d.setRad t x).tray r = d.tray r := (rfl)
@[simp] theorem Dev.setRad_sch (t : Nat) (x : RadioState) (r : Nat) : (d.setRad t x).sch r = d.sch r := (rfl)
@[simp] theorem Dev.setRad_sg (t : Nat) (x : RadioState) (r y : Nat) : (d.setRad t x).sg r y = d.sg r y := (rfl)
@[simp] theorem Dev.setRad_codecSt (t : Nat) (x : RadioState) (r y : Nat) : (d.setRad t x).codecSt r y = d.codecSt r y := (rfl)
@[simp] theorem Dev.setRad_port (t : Nat) (x : RadioState) (y : GatePort) : (d.setRad t x).port y = d.port y := (rfl)
@[simp] theorem Dev.setRad_sli (t : Nat) (x : RadioState) (r : Nat) : (d.setRad t x).sli r = d.sli r := (rfl)
@[simp] theorem Dev.setRad_pair (t : Nat) (x : RadioState) (r : Nat) : (d.setRad t x).pair r = d.pair r := (rfl)
@[simp] theorem Dev.setRad_far (t : Nat) (x : RadioState) (r : Nat) : (d.setRad t x).far r = d.far r := (rfl)
@[simp] theorem Dev.setRad_blink (t : Nat) (x : RadioState) (r : Nat) : (d.setRad t x).blink r = d.blink r := (rfl)

/-! ### setPort -/

@[simp] theorem Dev.setPort_ports (g : GatePort) (x : PortState) : (d.setPort g x).ports = store PortState.init d.ports (gpKey g) x := (rfl)
@[simp] theorem Dev.setPort_now (g : GatePort) (x : PortState) : (d.setPort g x).now = d.now := (rfl)
@[simp] theorem Dev.setPort_edge (g : GatePort) (x : PortState) : (d.setPort g x).edge = d.edge := (rfl)
@[simp] theorem Dev.setPort_free (g : GatePort) (x : PortState) : (d.setPort g x).free = d.free := (rfl)
@[simp] theorem Dev.setPort_readOut (g : GatePort) (x : PortState) : (d.setPort g x).readOut = d.readOut := (rfl)
@[simp] theorem Dev.setPort_regs (g : GatePort) (x : PortState) : (d.setPort g x).regs = d.regs := (rfl)
@[simp] theorem Dev.setPort_mem (g : GatePort) (x : PortState) : (d.setPort g x).mem = d.mem := (rfl)
@[simp] theorem Dev.setPort_lineErr (g : GatePort) (x : PortState) : (d.setPort g x).lineErr = d.lineErr := (rfl)
@[simp] theorem Dev.setPort_written (g : GatePort) (x : PortState) : (d.setPort g x).written = d.written := (rfl)
@[simp] theorem Dev.setPort_ev (g : GatePort) (x : PortState) : (d.setPort g x).ev = d.ev := (rfl)
@[simp] theorem Dev.setPort_hostWrites (g : GatePort) (x : PortState) : (d.setPort g x).hostWrites = d.hostWrites := (rfl)
@[simp] theorem Dev.setPort_hostNext (g : GatePort) (x : PortState) : (d.setPort g x).hostNext = d.hostNext := (rfl)
@[simp] theorem Dev.setPort_sent (g : GatePort) (x : PortState) : (d.setPort g x).sent = d.sent := (rfl)
@[simp] theorem Dev.setPort_tiles (g : GatePort) (x : PortState) : (d.setPort g x).tiles = d.tiles := (rfl)
@[simp] theorem Dev.setPort_ctrs (g : GatePort) (x : PortState) : (d.setPort g x).ctrs = d.ctrs := (rfl)
@[simp] theorem Dev.setPort_cfg (g : GatePort) (x : PortState) : (d.setPort g x).cfg = d.cfg := (rfl)
@[simp] theorem Dev.setPort_knead (g : GatePort) (x : PortState) : (d.setPort g x).knead = d.knead := (rfl)
@[simp] theorem Dev.setPort_sieves (g : GatePort) (x : PortState) : (d.setPort g x).sieves = d.sieves := (rfl)
@[simp] theorem Dev.setPort_tiers (g : GatePort) (x : PortState) : (d.setPort g x).tiers = d.tiers := (rfl)
@[simp] theorem Dev.setPort_asks (g : GatePort) (x : PortState) : (d.setPort g x).asks = d.asks := (rfl)
@[simp] theorem Dev.setPort_trays (g : GatePort) (x : PortState) : (d.setPort g x).trays = d.trays := (rfl)
@[simp] theorem Dev.setPort_sched (g : GatePort) (x : PortState) : (d.setPort g x).sched = d.sched := (rfl)
@[simp] theorem Dev.setPort_sig (g : GatePort) (x : PortState) : (d.setPort g x).sig = d.sig := (rfl)
@[simp] theorem Dev.setPort_codec (g : GatePort) (x : PortState) : (d.setPort g x).codec = d.codec := (rfl)
@[simp] theorem Dev.setPort_radio (g : GatePort) (x : PortState) : (d.setPort g x).radio = d.radio := (rfl)
@[simp] theorem Dev.setPort_time (g : GatePort) (x : PortState) : (d.setPort g x).time = d.time := (rfl)
@[simp] theorem Dev.setPort_sampled (g : GatePort) (x : PortState) : (d.setPort g x).sampled = d.sampled := (rfl)
@[simp] theorem Dev.setPort_braid (g : GatePort) (x : PortState) : (d.setPort g x).braid = d.braid := (rfl)
@[simp] theorem Dev.setPort_power (g : GatePort) (x : PortState) : (d.setPort g x).power = d.power := (rfl)
@[simp] theorem Dev.setPort_peelSeen (g : GatePort) (x : PortState) : (d.setPort g x).peelSeen = d.peelSeen := (rfl)
@[simp] theorem Dev.setPort_slices (g : GatePort) (x : PortState) : (d.setPort g x).slices = d.slices := (rfl)
@[simp] theorem Dev.setPort_sliceTick (g : GatePort) (x : PortState) : (d.setPort g x).sliceTick = d.sliceTick := (rfl)
@[simp] theorem Dev.setPort_integ (g : GatePort) (x : PortState) : (d.setPort g x).integ = d.integ := (rfl)
@[simp] theorem Dev.setPort_memb (g : GatePort) (x : PortState) : (d.setPort g x).memb = d.memb := (rfl)
@[simp] theorem Dev.setPort_sp (g : GatePort) (x : PortState) : (d.setPort g x).sp = d.sp := (rfl)
@[simp] theorem Dev.setPort_recipe (g : GatePort) (x : PortState) : (d.setPort g x).recipe = d.recipe := (rfl)
@[simp] theorem Dev.setPort_reg (g : GatePort) (x : PortState) (r : Nat) : (d.setPort g x).reg r = d.reg r := (rfl)
@[simp] theorem Dev.setPort_getF (g : GatePort) (x : PortState) (r : Nat) (q : Fld) : (d.setPort g x).getF r q = d.getF r q := (rfl)
@[simp] theorem Dev.setPort_getB (g : GatePort) (x : PortState) (r : Nat) (q : Fld) : (d.setPort g x).getB r q = d.getB r q := (rfl)
@[simp] theorem Dev.setPort_paused (g : GatePort) (x : PortState) (r : Nat) : (d.setPort g x).paused r = d.paused r := (rfl)
@[simp] theorem Dev.setPort_byte (g : GatePort) (x : PortState) (r : Nat) : (d.setPort g x).byte r = d.byte r := (rfl)
@[simp] theorem Dev.setPort_errOf (g : GatePort) (x : PortState) (r : Nat) : (d.setPort g x).errOf r = d.errOf r := (rfl)
@[simp] theorem Dev.setPort_section_ (g : GatePort) (x : PortState) (y r : Nat) : (d.setPort g x).section_ y r = d.section_ y r := (rfl)
@[simp] theorem Dev.setPort_tile (g : GatePort) (x : PortState) (r : Nat) : (d.setPort g x).tile r = d.tile r := (rfl)
@[simp] theorem Dev.setPort_kn (g : GatePort) (x : PortState) (r y : Nat) : (d.setPort g x).kn r y = d.kn r y := (rfl)
@[simp] theorem Dev.setPort_sieve (g : GatePort) (x : PortState) (r y : Nat) : (d.setPort g x).sieve r y = d.sieve r y := (rfl)
@[simp] theorem Dev.setPort_tier (g : GatePort) (x : PortState) (r : Nat) : (d.setPort g x).tier r = d.tier r := (rfl)
@[simp] theorem Dev.setPort_tray (g : GatePort) (x : PortState) (r : Nat) : (d.setPort g x).tray r = d.tray r := (rfl)
@[simp] theorem Dev.setPort_sch (g : GatePort) (x : PortState) (r : Nat) : (d.setPort g x).sch r = d.sch r := (rfl)
@[simp] theorem Dev.setPort_sg (g : GatePort) (x : PortState) (r y : Nat) : (d.setPort g x).sg r y = d.sg r y := (rfl)
@[simp] theorem Dev.setPort_codecSt (g : GatePort) (x : PortState) (r y : Nat) : (d.setPort g x).codecSt r y = d.codecSt r y := (rfl)
@[simp] theorem Dev.setPort_rad (g : GatePort) (x : PortState) (r : Nat) : (d.setPort g x).rad r = d.rad r := (rfl)
@[simp] theorem Dev.setPort_sli (g : GatePort) (x : PortState) (r : Nat) : (d.setPort g x).sli r = d.sli r := (rfl)
@[simp] theorem Dev.setPort_pair (g : GatePort) (x : PortState) (r : Nat) : (d.setPort g x).pair r = d.pair r := (rfl)
@[simp] theorem Dev.setPort_far (g : GatePort) (x : PortState) (r : Nat) : (d.setPort g x).far r = d.far r := (rfl)
@[simp] theorem Dev.setPort_blink (g : GatePort) (x : PortState) (r : Nat) : (d.setPort g x).blink r = d.blink r := (rfl)

/-! ### setSli -/

@[simp] theorem Dev.setSli_slices (s : Nat) (x : SliceState) : (d.setSli s x).slices = store SliceState.init d.slices s x := (rfl)
@[simp] theorem Dev.setSli_now (s : Nat) (x : SliceState) : (d.setSli s x).now = d.now := (rfl)
@[simp] theorem Dev.setSli_edge (s : Nat) (x : SliceState) : (d.setSli s x).edge = d.edge := (rfl)
@[simp] theorem Dev.setSli_free (s : Nat) (x : SliceState) : (d.setSli s x).free = d.free := (rfl)
@[simp] theorem Dev.setSli_readOut (s : Nat) (x : SliceState) : (d.setSli s x).readOut = d.readOut := (rfl)
@[simp] theorem Dev.setSli_regs (s : Nat) (x : SliceState) : (d.setSli s x).regs = d.regs := (rfl)
@[simp] theorem Dev.setSli_mem (s : Nat) (x : SliceState) : (d.setSli s x).mem = d.mem := (rfl)
@[simp] theorem Dev.setSli_lineErr (s : Nat) (x : SliceState) : (d.setSli s x).lineErr = d.lineErr := (rfl)
@[simp] theorem Dev.setSli_written (s : Nat) (x : SliceState) : (d.setSli s x).written = d.written := (rfl)
@[simp] theorem Dev.setSli_ev (s : Nat) (x : SliceState) : (d.setSli s x).ev = d.ev := (rfl)
@[simp] theorem Dev.setSli_hostWrites (s : Nat) (x : SliceState) : (d.setSli s x).hostWrites = d.hostWrites := (rfl)
@[simp] theorem Dev.setSli_hostNext (s : Nat) (x : SliceState) : (d.setSli s x).hostNext = d.hostNext := (rfl)
@[simp] theorem Dev.setSli_sent (s : Nat) (x : SliceState) : (d.setSli s x).sent = d.sent := (rfl)
@[simp] theorem Dev.setSli_tiles (s : Nat) (x : SliceState) : (d.setSli s x).tiles = d.tiles := (rfl)
@[simp] theorem Dev.setSli_ctrs (s : Nat) (x : SliceState) : (d.setSli s x).ctrs = d.ctrs := (rfl)
@[simp] theorem Dev.setSli_cfg (s : Nat) (x : SliceState) : (d.setSli s x).cfg = d.cfg := (rfl)
@[simp] theorem Dev.setSli_knead (s : Nat) (x : SliceState) : (d.setSli s x).knead = d.knead := (rfl)
@[simp] theorem Dev.setSli_sieves (s : Nat) (x : SliceState) : (d.setSli s x).sieves = d.sieves := (rfl)
@[simp] theorem Dev.setSli_tiers (s : Nat) (x : SliceState) : (d.setSli s x).tiers = d.tiers := (rfl)
@[simp] theorem Dev.setSli_asks (s : Nat) (x : SliceState) : (d.setSli s x).asks = d.asks := (rfl)
@[simp] theorem Dev.setSli_trays (s : Nat) (x : SliceState) : (d.setSli s x).trays = d.trays := (rfl)
@[simp] theorem Dev.setSli_sched (s : Nat) (x : SliceState) : (d.setSli s x).sched = d.sched := (rfl)
@[simp] theorem Dev.setSli_sig (s : Nat) (x : SliceState) : (d.setSli s x).sig = d.sig := (rfl)
@[simp] theorem Dev.setSli_codec (s : Nat) (x : SliceState) : (d.setSli s x).codec = d.codec := (rfl)
@[simp] theorem Dev.setSli_radio (s : Nat) (x : SliceState) : (d.setSli s x).radio = d.radio := (rfl)
@[simp] theorem Dev.setSli_ports (s : Nat) (x : SliceState) : (d.setSli s x).ports = d.ports := (rfl)
@[simp] theorem Dev.setSli_time (s : Nat) (x : SliceState) : (d.setSli s x).time = d.time := (rfl)
@[simp] theorem Dev.setSli_sampled (s : Nat) (x : SliceState) : (d.setSli s x).sampled = d.sampled := (rfl)
@[simp] theorem Dev.setSli_braid (s : Nat) (x : SliceState) : (d.setSli s x).braid = d.braid := (rfl)
@[simp] theorem Dev.setSli_power (s : Nat) (x : SliceState) : (d.setSli s x).power = d.power := (rfl)
@[simp] theorem Dev.setSli_peelSeen (s : Nat) (x : SliceState) : (d.setSli s x).peelSeen = d.peelSeen := (rfl)
@[simp] theorem Dev.setSli_sliceTick (s : Nat) (x : SliceState) : (d.setSli s x).sliceTick = d.sliceTick := (rfl)
@[simp] theorem Dev.setSli_integ (s : Nat) (x : SliceState) : (d.setSli s x).integ = d.integ := (rfl)
@[simp] theorem Dev.setSli_memb (s : Nat) (x : SliceState) : (d.setSli s x).memb = d.memb := (rfl)
@[simp] theorem Dev.setSli_sp (s : Nat) (x : SliceState) : (d.setSli s x).sp = d.sp := (rfl)
@[simp] theorem Dev.setSli_recipe (s : Nat) (x : SliceState) : (d.setSli s x).recipe = d.recipe := (rfl)
@[simp] theorem Dev.setSli_reg (s : Nat) (x : SliceState) (r : Nat) : (d.setSli s x).reg r = d.reg r := (rfl)
@[simp] theorem Dev.setSli_getF (s : Nat) (x : SliceState) (r : Nat) (q : Fld) : (d.setSli s x).getF r q = d.getF r q := (rfl)
@[simp] theorem Dev.setSli_getB (s : Nat) (x : SliceState) (r : Nat) (q : Fld) : (d.setSli s x).getB r q = d.getB r q := (rfl)
@[simp] theorem Dev.setSli_paused (s : Nat) (x : SliceState) (r : Nat) : (d.setSli s x).paused r = d.paused r := (rfl)
@[simp] theorem Dev.setSli_byte (s : Nat) (x : SliceState) (r : Nat) : (d.setSli s x).byte r = d.byte r := (rfl)
@[simp] theorem Dev.setSli_errOf (s : Nat) (x : SliceState) (r : Nat) : (d.setSli s x).errOf r = d.errOf r := (rfl)
@[simp] theorem Dev.setSli_section_ (s : Nat) (x : SliceState) (y r : Nat) : (d.setSli s x).section_ y r = d.section_ y r := (rfl)
@[simp] theorem Dev.setSli_tile (s : Nat) (x : SliceState) (r : Nat) : (d.setSli s x).tile r = d.tile r := (rfl)
@[simp] theorem Dev.setSli_kn (s : Nat) (x : SliceState) (r y : Nat) : (d.setSli s x).kn r y = d.kn r y := (rfl)
@[simp] theorem Dev.setSli_sieve (s : Nat) (x : SliceState) (r y : Nat) : (d.setSli s x).sieve r y = d.sieve r y := (rfl)
@[simp] theorem Dev.setSli_tier (s : Nat) (x : SliceState) (r : Nat) : (d.setSli s x).tier r = d.tier r := (rfl)
@[simp] theorem Dev.setSli_tray (s : Nat) (x : SliceState) (r : Nat) : (d.setSli s x).tray r = d.tray r := (rfl)
@[simp] theorem Dev.setSli_sch (s : Nat) (x : SliceState) (r : Nat) : (d.setSli s x).sch r = d.sch r := (rfl)
@[simp] theorem Dev.setSli_sg (s : Nat) (x : SliceState) (r y : Nat) : (d.setSli s x).sg r y = d.sg r y := (rfl)
@[simp] theorem Dev.setSli_codecSt (s : Nat) (x : SliceState) (r y : Nat) : (d.setSli s x).codecSt r y = d.codecSt r y := (rfl)
@[simp] theorem Dev.setSli_rad (s : Nat) (x : SliceState) (r : Nat) : (d.setSli s x).rad r = d.rad r := (rfl)
@[simp] theorem Dev.setSli_port (s : Nat) (x : SliceState) (y : GatePort) : (d.setSli s x).port y = d.port y := (rfl)
@[simp] theorem Dev.setSli_pair (s : Nat) (x : SliceState) (r : Nat) : (d.setSli s x).pair r = d.pair r := (rfl)
@[simp] theorem Dev.setSli_far (s : Nat) (x : SliceState) (r : Nat) : (d.setSli s x).far r = d.far r := (rfl)
@[simp] theorem Dev.setSli_blink (s : Nat) (x : SliceState) (r : Nat) : (d.setSli s x).blink r = d.blink r := (rfl)

/-! ### setPair -/

@[simp] theorem Dev.setPair_now (n : Nat) (x : BraidSrc) : (d.setPair n x).now = d.now := (rfl)
@[simp] theorem Dev.setPair_edge (n : Nat) (x : BraidSrc) : (d.setPair n x).edge = d.edge := (rfl)
@[simp] theorem Dev.setPair_free (n : Nat) (x : BraidSrc) : (d.setPair n x).free = d.free := (rfl)
@[simp] theorem Dev.setPair_readOut (n : Nat) (x : BraidSrc) : (d.setPair n x).readOut = d.readOut := (rfl)
@[simp] theorem Dev.setPair_regs (n : Nat) (x : BraidSrc) : (d.setPair n x).regs = d.regs := (rfl)
@[simp] theorem Dev.setPair_mem (n : Nat) (x : BraidSrc) : (d.setPair n x).mem = d.mem := (rfl)
@[simp] theorem Dev.setPair_lineErr (n : Nat) (x : BraidSrc) : (d.setPair n x).lineErr = d.lineErr := (rfl)
@[simp] theorem Dev.setPair_written (n : Nat) (x : BraidSrc) : (d.setPair n x).written = d.written := (rfl)
@[simp] theorem Dev.setPair_ev (n : Nat) (x : BraidSrc) : (d.setPair n x).ev = d.ev := (rfl)
@[simp] theorem Dev.setPair_hostWrites (n : Nat) (x : BraidSrc) : (d.setPair n x).hostWrites = d.hostWrites := (rfl)
@[simp] theorem Dev.setPair_hostNext (n : Nat) (x : BraidSrc) : (d.setPair n x).hostNext = d.hostNext := (rfl)
@[simp] theorem Dev.setPair_sent (n : Nat) (x : BraidSrc) : (d.setPair n x).sent = d.sent := (rfl)
@[simp] theorem Dev.setPair_tiles (n : Nat) (x : BraidSrc) : (d.setPair n x).tiles = d.tiles := (rfl)
@[simp] theorem Dev.setPair_ctrs (n : Nat) (x : BraidSrc) : (d.setPair n x).ctrs = d.ctrs := (rfl)
@[simp] theorem Dev.setPair_cfg (n : Nat) (x : BraidSrc) : (d.setPair n x).cfg = d.cfg := (rfl)
@[simp] theorem Dev.setPair_knead (n : Nat) (x : BraidSrc) : (d.setPair n x).knead = d.knead := (rfl)
@[simp] theorem Dev.setPair_sieves (n : Nat) (x : BraidSrc) : (d.setPair n x).sieves = d.sieves := (rfl)
@[simp] theorem Dev.setPair_tiers (n : Nat) (x : BraidSrc) : (d.setPair n x).tiers = d.tiers := (rfl)
@[simp] theorem Dev.setPair_asks (n : Nat) (x : BraidSrc) : (d.setPair n x).asks = d.asks := (rfl)
@[simp] theorem Dev.setPair_trays (n : Nat) (x : BraidSrc) : (d.setPair n x).trays = d.trays := (rfl)
@[simp] theorem Dev.setPair_sched (n : Nat) (x : BraidSrc) : (d.setPair n x).sched = d.sched := (rfl)
@[simp] theorem Dev.setPair_sig (n : Nat) (x : BraidSrc) : (d.setPair n x).sig = d.sig := (rfl)
@[simp] theorem Dev.setPair_codec (n : Nat) (x : BraidSrc) : (d.setPair n x).codec = d.codec := (rfl)
@[simp] theorem Dev.setPair_radio (n : Nat) (x : BraidSrc) : (d.setPair n x).radio = d.radio := (rfl)
@[simp] theorem Dev.setPair_ports (n : Nat) (x : BraidSrc) : (d.setPair n x).ports = d.ports := (rfl)
@[simp] theorem Dev.setPair_time (n : Nat) (x : BraidSrc) : (d.setPair n x).time = d.time := (rfl)
@[simp] theorem Dev.setPair_sampled (n : Nat) (x : BraidSrc) : (d.setPair n x).sampled = d.sampled := (rfl)
@[simp] theorem Dev.setPair_power (n : Nat) (x : BraidSrc) : (d.setPair n x).power = d.power := (rfl)
@[simp] theorem Dev.setPair_peelSeen (n : Nat) (x : BraidSrc) : (d.setPair n x).peelSeen = d.peelSeen := (rfl)
@[simp] theorem Dev.setPair_slices (n : Nat) (x : BraidSrc) : (d.setPair n x).slices = d.slices := (rfl)
@[simp] theorem Dev.setPair_sliceTick (n : Nat) (x : BraidSrc) : (d.setPair n x).sliceTick = d.sliceTick := (rfl)
@[simp] theorem Dev.setPair_integ (n : Nat) (x : BraidSrc) : (d.setPair n x).integ = d.integ := (rfl)
@[simp] theorem Dev.setPair_memb (n : Nat) (x : BraidSrc) : (d.setPair n x).memb = d.memb := (rfl)
@[simp] theorem Dev.setPair_sp (n : Nat) (x : BraidSrc) : (d.setPair n x).sp = d.sp := (rfl)
@[simp] theorem Dev.setPair_recipe (n : Nat) (x : BraidSrc) : (d.setPair n x).recipe = d.recipe := (rfl)
@[simp] theorem Dev.setPair_reg (n : Nat) (x : BraidSrc) (r : Nat) : (d.setPair n x).reg r = d.reg r := (rfl)
@[simp] theorem Dev.setPair_getF (n : Nat) (x : BraidSrc) (r : Nat) (q : Fld) : (d.setPair n x).getF r q = d.getF r q := (rfl)
@[simp] theorem Dev.setPair_getB (n : Nat) (x : BraidSrc) (r : Nat) (q : Fld) : (d.setPair n x).getB r q = d.getB r q := (rfl)
@[simp] theorem Dev.setPair_paused (n : Nat) (x : BraidSrc) (r : Nat) : (d.setPair n x).paused r = d.paused r := (rfl)
@[simp] theorem Dev.setPair_byte (n : Nat) (x : BraidSrc) (r : Nat) : (d.setPair n x).byte r = d.byte r := (rfl)
@[simp] theorem Dev.setPair_errOf (n : Nat) (x : BraidSrc) (r : Nat) : (d.setPair n x).errOf r = d.errOf r := (rfl)
@[simp] theorem Dev.setPair_section_ (n : Nat) (x : BraidSrc) (y r : Nat) : (d.setPair n x).section_ y r = d.section_ y r := (rfl)
@[simp] theorem Dev.setPair_tile (n : Nat) (x : BraidSrc) (r : Nat) : (d.setPair n x).tile r = d.tile r := (rfl)
@[simp] theorem Dev.setPair_kn (n : Nat) (x : BraidSrc) (r y : Nat) : (d.setPair n x).kn r y = d.kn r y := (rfl)
@[simp] theorem Dev.setPair_sieve (n : Nat) (x : BraidSrc) (r y : Nat) : (d.setPair n x).sieve r y = d.sieve r y := (rfl)
@[simp] theorem Dev.setPair_tier (n : Nat) (x : BraidSrc) (r : Nat) : (d.setPair n x).tier r = d.tier r := (rfl)
@[simp] theorem Dev.setPair_tray (n : Nat) (x : BraidSrc) (r : Nat) : (d.setPair n x).tray r = d.tray r := (rfl)
@[simp] theorem Dev.setPair_sch (n : Nat) (x : BraidSrc) (r : Nat) : (d.setPair n x).sch r = d.sch r := (rfl)
@[simp] theorem Dev.setPair_sg (n : Nat) (x : BraidSrc) (r y : Nat) : (d.setPair n x).sg r y = d.sg r y := (rfl)
@[simp] theorem Dev.setPair_codecSt (n : Nat) (x : BraidSrc) (r y : Nat) : (d.setPair n x).codecSt r y = d.codecSt r y := (rfl)
@[simp] theorem Dev.setPair_rad (n : Nat) (x : BraidSrc) (r : Nat) : (d.setPair n x).rad r = d.rad r := (rfl)
@[simp] theorem Dev.setPair_port (n : Nat) (x : BraidSrc) (y : GatePort) : (d.setPair n x).port y = d.port y := (rfl)
@[simp] theorem Dev.setPair_sli (n : Nat) (x : BraidSrc) (r : Nat) : (d.setPair n x).sli r = d.sli r := (rfl)

/-! ### setFar -/

@[simp] theorem Dev.setFar_now (n : Nat) (x : BraidDst) : (d.setFar n x).now = d.now := (rfl)
@[simp] theorem Dev.setFar_edge (n : Nat) (x : BraidDst) : (d.setFar n x).edge = d.edge := (rfl)
@[simp] theorem Dev.setFar_free (n : Nat) (x : BraidDst) : (d.setFar n x).free = d.free := (rfl)
@[simp] theorem Dev.setFar_readOut (n : Nat) (x : BraidDst) : (d.setFar n x).readOut = d.readOut := (rfl)
@[simp] theorem Dev.setFar_regs (n : Nat) (x : BraidDst) : (d.setFar n x).regs = d.regs := (rfl)
@[simp] theorem Dev.setFar_mem (n : Nat) (x : BraidDst) : (d.setFar n x).mem = d.mem := (rfl)
@[simp] theorem Dev.setFar_lineErr (n : Nat) (x : BraidDst) : (d.setFar n x).lineErr = d.lineErr := (rfl)
@[simp] theorem Dev.setFar_written (n : Nat) (x : BraidDst) : (d.setFar n x).written = d.written := (rfl)
@[simp] theorem Dev.setFar_ev (n : Nat) (x : BraidDst) : (d.setFar n x).ev = d.ev := (rfl)
@[simp] theorem Dev.setFar_hostWrites (n : Nat) (x : BraidDst) : (d.setFar n x).hostWrites = d.hostWrites := (rfl)
@[simp] theorem Dev.setFar_hostNext (n : Nat) (x : BraidDst) : (d.setFar n x).hostNext = d.hostNext := (rfl)
@[simp] theorem Dev.setFar_sent (n : Nat) (x : BraidDst) : (d.setFar n x).sent = d.sent := (rfl)
@[simp] theorem Dev.setFar_tiles (n : Nat) (x : BraidDst) : (d.setFar n x).tiles = d.tiles := (rfl)
@[simp] theorem Dev.setFar_ctrs (n : Nat) (x : BraidDst) : (d.setFar n x).ctrs = d.ctrs := (rfl)
@[simp] theorem Dev.setFar_cfg (n : Nat) (x : BraidDst) : (d.setFar n x).cfg = d.cfg := (rfl)
@[simp] theorem Dev.setFar_knead (n : Nat) (x : BraidDst) : (d.setFar n x).knead = d.knead := (rfl)
@[simp] theorem Dev.setFar_sieves (n : Nat) (x : BraidDst) : (d.setFar n x).sieves = d.sieves := (rfl)
@[simp] theorem Dev.setFar_tiers (n : Nat) (x : BraidDst) : (d.setFar n x).tiers = d.tiers := (rfl)
@[simp] theorem Dev.setFar_asks (n : Nat) (x : BraidDst) : (d.setFar n x).asks = d.asks := (rfl)
@[simp] theorem Dev.setFar_trays (n : Nat) (x : BraidDst) : (d.setFar n x).trays = d.trays := (rfl)
@[simp] theorem Dev.setFar_sched (n : Nat) (x : BraidDst) : (d.setFar n x).sched = d.sched := (rfl)
@[simp] theorem Dev.setFar_sig (n : Nat) (x : BraidDst) : (d.setFar n x).sig = d.sig := (rfl)
@[simp] theorem Dev.setFar_codec (n : Nat) (x : BraidDst) : (d.setFar n x).codec = d.codec := (rfl)
@[simp] theorem Dev.setFar_radio (n : Nat) (x : BraidDst) : (d.setFar n x).radio = d.radio := (rfl)
@[simp] theorem Dev.setFar_ports (n : Nat) (x : BraidDst) : (d.setFar n x).ports = d.ports := (rfl)
@[simp] theorem Dev.setFar_time (n : Nat) (x : BraidDst) : (d.setFar n x).time = d.time := (rfl)
@[simp] theorem Dev.setFar_sampled (n : Nat) (x : BraidDst) : (d.setFar n x).sampled = d.sampled := (rfl)
@[simp] theorem Dev.setFar_power (n : Nat) (x : BraidDst) : (d.setFar n x).power = d.power := (rfl)
@[simp] theorem Dev.setFar_peelSeen (n : Nat) (x : BraidDst) : (d.setFar n x).peelSeen = d.peelSeen := (rfl)
@[simp] theorem Dev.setFar_slices (n : Nat) (x : BraidDst) : (d.setFar n x).slices = d.slices := (rfl)
@[simp] theorem Dev.setFar_sliceTick (n : Nat) (x : BraidDst) : (d.setFar n x).sliceTick = d.sliceTick := (rfl)
@[simp] theorem Dev.setFar_integ (n : Nat) (x : BraidDst) : (d.setFar n x).integ = d.integ := (rfl)
@[simp] theorem Dev.setFar_memb (n : Nat) (x : BraidDst) : (d.setFar n x).memb = d.memb := (rfl)
@[simp] theorem Dev.setFar_sp (n : Nat) (x : BraidDst) : (d.setFar n x).sp = d.sp := (rfl)
@[simp] theorem Dev.setFar_recipe (n : Nat) (x : BraidDst) : (d.setFar n x).recipe = d.recipe := (rfl)
@[simp] theorem Dev.setFar_reg (n : Nat) (x : BraidDst) (r : Nat) : (d.setFar n x).reg r = d.reg r := (rfl)
@[simp] theorem Dev.setFar_getF (n : Nat) (x : BraidDst) (r : Nat) (q : Fld) : (d.setFar n x).getF r q = d.getF r q := (rfl)
@[simp] theorem Dev.setFar_getB (n : Nat) (x : BraidDst) (r : Nat) (q : Fld) : (d.setFar n x).getB r q = d.getB r q := (rfl)
@[simp] theorem Dev.setFar_paused (n : Nat) (x : BraidDst) (r : Nat) : (d.setFar n x).paused r = d.paused r := (rfl)
@[simp] theorem Dev.setFar_byte (n : Nat) (x : BraidDst) (r : Nat) : (d.setFar n x).byte r = d.byte r := (rfl)
@[simp] theorem Dev.setFar_errOf (n : Nat) (x : BraidDst) (r : Nat) : (d.setFar n x).errOf r = d.errOf r := (rfl)
@[simp] theorem Dev.setFar_section_ (n : Nat) (x : BraidDst) (y r : Nat) : (d.setFar n x).section_ y r = d.section_ y r := (rfl)
@[simp] theorem Dev.setFar_tile (n : Nat) (x : BraidDst) (r : Nat) : (d.setFar n x).tile r = d.tile r := (rfl)
@[simp] theorem Dev.setFar_kn (n : Nat) (x : BraidDst) (r y : Nat) : (d.setFar n x).kn r y = d.kn r y := (rfl)
@[simp] theorem Dev.setFar_sieve (n : Nat) (x : BraidDst) (r y : Nat) : (d.setFar n x).sieve r y = d.sieve r y := (rfl)
@[simp] theorem Dev.setFar_tier (n : Nat) (x : BraidDst) (r : Nat) : (d.setFar n x).tier r = d.tier r := (rfl)
@[simp] theorem Dev.setFar_tray (n : Nat) (x : BraidDst) (r : Nat) : (d.setFar n x).tray r = d.tray r := (rfl)
@[simp] theorem Dev.setFar_sch (n : Nat) (x : BraidDst) (r : Nat) : (d.setFar n x).sch r = d.sch r := (rfl)
@[simp] theorem Dev.setFar_sg (n : Nat) (x : BraidDst) (r y : Nat) : (d.setFar n x).sg r y = d.sg r y := (rfl)
@[simp] theorem Dev.setFar_codecSt (n : Nat) (x : BraidDst) (r y : Nat) : (d.setFar n x).codecSt r y = d.codecSt r y := (rfl)
@[simp] theorem Dev.setFar_rad (n : Nat) (x : BraidDst) (r : Nat) : (d.setFar n x).rad r = d.rad r := (rfl)
@[simp] theorem Dev.setFar_port (n : Nat) (x : BraidDst) (y : GatePort) : (d.setFar n x).port y = d.port y := (rfl)
@[simp] theorem Dev.setFar_sli (n : Nat) (x : BraidDst) (r : Nat) : (d.setFar n x).sli r = d.sli r := (rfl)

/-! ### setBlink -/

@[simp] theorem Dev.setBlink_now (n : Nat) (x : BraidLink) : (d.setBlink n x).now = d.now := (rfl)
@[simp] theorem Dev.setBlink_edge (n : Nat) (x : BraidLink) : (d.setBlink n x).edge = d.edge := (rfl)
@[simp] theorem Dev.setBlink_free (n : Nat) (x : BraidLink) : (d.setBlink n x).free = d.free := (rfl)
@[simp] theorem Dev.setBlink_readOut (n : Nat) (x : BraidLink) : (d.setBlink n x).readOut = d.readOut := (rfl)
@[simp] theorem Dev.setBlink_regs (n : Nat) (x : BraidLink) : (d.setBlink n x).regs = d.regs := (rfl)
@[simp] theorem Dev.setBlink_mem (n : Nat) (x : BraidLink) : (d.setBlink n x).mem = d.mem := (rfl)
@[simp] theorem Dev.setBlink_lineErr (n : Nat) (x : BraidLink) : (d.setBlink n x).lineErr = d.lineErr := (rfl)
@[simp] theorem Dev.setBlink_written (n : Nat) (x : BraidLink) : (d.setBlink n x).written = d.written := (rfl)
@[simp] theorem Dev.setBlink_ev (n : Nat) (x : BraidLink) : (d.setBlink n x).ev = d.ev := (rfl)
@[simp] theorem Dev.setBlink_hostWrites (n : Nat) (x : BraidLink) : (d.setBlink n x).hostWrites = d.hostWrites := (rfl)
@[simp] theorem Dev.setBlink_hostNext (n : Nat) (x : BraidLink) : (d.setBlink n x).hostNext = d.hostNext := (rfl)
@[simp] theorem Dev.setBlink_sent (n : Nat) (x : BraidLink) : (d.setBlink n x).sent = d.sent := (rfl)
@[simp] theorem Dev.setBlink_tiles (n : Nat) (x : BraidLink) : (d.setBlink n x).tiles = d.tiles := (rfl)
@[simp] theorem Dev.setBlink_ctrs (n : Nat) (x : BraidLink) : (d.setBlink n x).ctrs = d.ctrs := (rfl)
@[simp] theorem Dev.setBlink_cfg (n : Nat) (x : BraidLink) : (d.setBlink n x).cfg = d.cfg := (rfl)
@[simp] theorem Dev.setBlink_knead (n : Nat) (x : BraidLink) : (d.setBlink n x).knead = d.knead := (rfl)
@[simp] theorem Dev.setBlink_sieves (n : Nat) (x : BraidLink) : (d.setBlink n x).sieves = d.sieves := (rfl)
@[simp] theorem Dev.setBlink_tiers (n : Nat) (x : BraidLink) : (d.setBlink n x).tiers = d.tiers := (rfl)
@[simp] theorem Dev.setBlink_asks (n : Nat) (x : BraidLink) : (d.setBlink n x).asks = d.asks := (rfl)
@[simp] theorem Dev.setBlink_trays (n : Nat) (x : BraidLink) : (d.setBlink n x).trays = d.trays := (rfl)
@[simp] theorem Dev.setBlink_sched (n : Nat) (x : BraidLink) : (d.setBlink n x).sched = d.sched := (rfl)
@[simp] theorem Dev.setBlink_sig (n : Nat) (x : BraidLink) : (d.setBlink n x).sig = d.sig := (rfl)
@[simp] theorem Dev.setBlink_codec (n : Nat) (x : BraidLink) : (d.setBlink n x).codec = d.codec := (rfl)
@[simp] theorem Dev.setBlink_radio (n : Nat) (x : BraidLink) : (d.setBlink n x).radio = d.radio := (rfl)
@[simp] theorem Dev.setBlink_ports (n : Nat) (x : BraidLink) : (d.setBlink n x).ports = d.ports := (rfl)
@[simp] theorem Dev.setBlink_time (n : Nat) (x : BraidLink) : (d.setBlink n x).time = d.time := (rfl)
@[simp] theorem Dev.setBlink_sampled (n : Nat) (x : BraidLink) : (d.setBlink n x).sampled = d.sampled := (rfl)
@[simp] theorem Dev.setBlink_power (n : Nat) (x : BraidLink) : (d.setBlink n x).power = d.power := (rfl)
@[simp] theorem Dev.setBlink_peelSeen (n : Nat) (x : BraidLink) : (d.setBlink n x).peelSeen = d.peelSeen := (rfl)
@[simp] theorem Dev.setBlink_slices (n : Nat) (x : BraidLink) : (d.setBlink n x).slices = d.slices := (rfl)
@[simp] theorem Dev.setBlink_sliceTick (n : Nat) (x : BraidLink) : (d.setBlink n x).sliceTick = d.sliceTick := (rfl)
@[simp] theorem Dev.setBlink_integ (n : Nat) (x : BraidLink) : (d.setBlink n x).integ = d.integ := (rfl)
@[simp] theorem Dev.setBlink_memb (n : Nat) (x : BraidLink) : (d.setBlink n x).memb = d.memb := (rfl)
@[simp] theorem Dev.setBlink_sp (n : Nat) (x : BraidLink) : (d.setBlink n x).sp = d.sp := (rfl)
@[simp] theorem Dev.setBlink_recipe (n : Nat) (x : BraidLink) : (d.setBlink n x).recipe = d.recipe := (rfl)
@[simp] theorem Dev.setBlink_reg (n : Nat) (x : BraidLink) (r : Nat) : (d.setBlink n x).reg r = d.reg r := (rfl)
@[simp] theorem Dev.setBlink_getF (n : Nat) (x : BraidLink) (r : Nat) (q : Fld) : (d.setBlink n x).getF r q = d.getF r q := (rfl)
@[simp] theorem Dev.setBlink_getB (n : Nat) (x : BraidLink) (r : Nat) (q : Fld) : (d.setBlink n x).getB r q = d.getB r q := (rfl)
@[simp] theorem Dev.setBlink_paused (n : Nat) (x : BraidLink) (r : Nat) : (d.setBlink n x).paused r = d.paused r := (rfl)
@[simp] theorem Dev.setBlink_byte (n : Nat) (x : BraidLink) (r : Nat) : (d.setBlink n x).byte r = d.byte r := (rfl)
@[simp] theorem Dev.setBlink_errOf (n : Nat) (x : BraidLink) (r : Nat) : (d.setBlink n x).errOf r = d.errOf r := (rfl)
@[simp] theorem Dev.setBlink_section_ (n : Nat) (x : BraidLink) (y r : Nat) : (d.setBlink n x).section_ y r = d.section_ y r := (rfl)
@[simp] theorem Dev.setBlink_tile (n : Nat) (x : BraidLink) (r : Nat) : (d.setBlink n x).tile r = d.tile r := (rfl)
@[simp] theorem Dev.setBlink_kn (n : Nat) (x : BraidLink) (r y : Nat) : (d.setBlink n x).kn r y = d.kn r y := (rfl)
@[simp] theorem Dev.setBlink_sieve (n : Nat) (x : BraidLink) (r y : Nat) : (d.setBlink n x).sieve r y = d.sieve r y := (rfl)
@[simp] theorem Dev.setBlink_tier (n : Nat) (x : BraidLink) (r : Nat) : (d.setBlink n x).tier r = d.tier r := (rfl)
@[simp] theorem Dev.setBlink_tray (n : Nat) (x : BraidLink) (r : Nat) : (d.setBlink n x).tray r = d.tray r := (rfl)
@[simp] theorem Dev.setBlink_sch (n : Nat) (x : BraidLink) (r : Nat) : (d.setBlink n x).sch r = d.sch r := (rfl)
@[simp] theorem Dev.setBlink_sg (n : Nat) (x : BraidLink) (r y : Nat) : (d.setBlink n x).sg r y = d.sg r y := (rfl)
@[simp] theorem Dev.setBlink_codecSt (n : Nat) (x : BraidLink) (r y : Nat) : (d.setBlink n x).codecSt r y = d.codecSt r y := (rfl)
@[simp] theorem Dev.setBlink_rad (n : Nat) (x : BraidLink) (r : Nat) : (d.setBlink n x).rad r = d.rad r := (rfl)
@[simp] theorem Dev.setBlink_port (n : Nat) (x : BraidLink) (y : GatePort) : (d.setBlink n x).port y = d.port y := (rfl)
@[simp] theorem Dev.setBlink_sli (n : Nat) (x : BraidLink) (r : Nat) : (d.setBlink n x).sli r = d.sli r := (rfl)

/-! ### modTime -/

@[simp] theorem Dev.modTime_time (f : TimeState → TimeState) : (d.modTime f).time = f d.time := (rfl)
@[simp] theorem Dev.modTime_now (f : TimeState → TimeState) : (d.modTime f).now = d.now := (rfl)
@[simp] theorem Dev.modTime_edge (f : TimeState → TimeState) : (d.modTime f).edge = d.edge := (rfl)
@[simp] theorem Dev.modTime_free (f : TimeState → TimeState) : (d.modTime f).free = d.free := (rfl)
@[simp] theorem Dev.modTime_readOut (f : TimeState → TimeState) : (d.modTime f).readOut = d.readOut := (rfl)
@[simp] theorem Dev.modTime_regs (f : TimeState → TimeState) : (d.modTime f).regs = d.regs := (rfl)
@[simp] theorem Dev.modTime_mem (f : TimeState → TimeState) : (d.modTime f).mem = d.mem := (rfl)
@[simp] theorem Dev.modTime_lineErr (f : TimeState → TimeState) : (d.modTime f).lineErr = d.lineErr := (rfl)
@[simp] theorem Dev.modTime_written (f : TimeState → TimeState) : (d.modTime f).written = d.written := (rfl)
@[simp] theorem Dev.modTime_ev (f : TimeState → TimeState) : (d.modTime f).ev = d.ev := (rfl)
@[simp] theorem Dev.modTime_hostWrites (f : TimeState → TimeState) : (d.modTime f).hostWrites = d.hostWrites := (rfl)
@[simp] theorem Dev.modTime_hostNext (f : TimeState → TimeState) : (d.modTime f).hostNext = d.hostNext := (rfl)
@[simp] theorem Dev.modTime_sent (f : TimeState → TimeState) : (d.modTime f).sent = d.sent := (rfl)
@[simp] theorem Dev.modTime_tiles (f : TimeState → TimeState) : (d.modTime f).tiles = d.tiles := (rfl)
@[simp] theorem Dev.modTime_ctrs (f : TimeState → TimeState) : (d.modTime f).ctrs = d.ctrs := (rfl)
@[simp] theorem Dev.modTime_cfg (f : TimeState → TimeState) : (d.modTime f).cfg = d.cfg := (rfl)
@[simp] theorem Dev.modTime_knead (f : TimeState → TimeState) : (d.modTime f).knead = d.knead := (rfl)
@[simp] theorem Dev.modTime_sieves (f : TimeState → TimeState) : (d.modTime f).sieves = d.sieves := (rfl)
@[simp] theorem Dev.modTime_tiers (f : TimeState → TimeState) : (d.modTime f).tiers = d.tiers := (rfl)
@[simp] theorem Dev.modTime_asks (f : TimeState → TimeState) : (d.modTime f).asks = d.asks := (rfl)
@[simp] theorem Dev.modTime_trays (f : TimeState → TimeState) : (d.modTime f).trays = d.trays := (rfl)
@[simp] theorem Dev.modTime_sched (f : TimeState → TimeState) : (d.modTime f).sched = d.sched := (rfl)
@[simp] theorem Dev.modTime_sig (f : TimeState → TimeState) : (d.modTime f).sig = d.sig := (rfl)
@[simp] theorem Dev.modTime_codec (f : TimeState → TimeState) : (d.modTime f).codec = d.codec := (rfl)
@[simp] theorem Dev.modTime_radio (f : TimeState → TimeState) : (d.modTime f).radio = d.radio := (rfl)
@[simp] theorem Dev.modTime_ports (f : TimeState → TimeState) : (d.modTime f).ports = d.ports := (rfl)
@[simp] theorem Dev.modTime_sampled (f : TimeState → TimeState) : (d.modTime f).sampled = d.sampled := (rfl)
@[simp] theorem Dev.modTime_braid (f : TimeState → TimeState) : (d.modTime f).braid = d.braid := (rfl)
@[simp] theorem Dev.modTime_power (f : TimeState → TimeState) : (d.modTime f).power = d.power := (rfl)
@[simp] theorem Dev.modTime_peelSeen (f : TimeState → TimeState) : (d.modTime f).peelSeen = d.peelSeen := (rfl)
@[simp] theorem Dev.modTime_slices (f : TimeState → TimeState) : (d.modTime f).slices = d.slices := (rfl)
@[simp] theorem Dev.modTime_sliceTick (f : TimeState → TimeState) : (d.modTime f).sliceTick = d.sliceTick := (rfl)
@[simp] theorem Dev.modTime_integ (f : TimeState → TimeState) : (d.modTime f).integ = d.integ := (rfl)
@[simp] theorem Dev.modTime_memb (f : TimeState → TimeState) : (d.modTime f).memb = d.memb := (rfl)
@[simp] theorem Dev.modTime_sp (f : TimeState → TimeState) : (d.modTime f).sp = d.sp := (rfl)
@[simp] theorem Dev.modTime_recipe (f : TimeState → TimeState) : (d.modTime f).recipe = d.recipe := (rfl)
@[simp] theorem Dev.modTime_reg (f : TimeState → TimeState) (r : Nat) : (d.modTime f).reg r = d.reg r := (rfl)
@[simp] theorem Dev.modTime_getF (f : TimeState → TimeState) (r : Nat) (q : Fld) : (d.modTime f).getF r q = d.getF r q := (rfl)
@[simp] theorem Dev.modTime_getB (f : TimeState → TimeState) (r : Nat) (q : Fld) : (d.modTime f).getB r q = d.getB r q := (rfl)
@[simp] theorem Dev.modTime_paused (f : TimeState → TimeState) (r : Nat) : (d.modTime f).paused r = d.paused r := (rfl)
@[simp] theorem Dev.modTime_byte (f : TimeState → TimeState) (r : Nat) : (d.modTime f).byte r = d.byte r := (rfl)
@[simp] theorem Dev.modTime_errOf (f : TimeState → TimeState) (r : Nat) : (d.modTime f).errOf r = d.errOf r := (rfl)
@[simp] theorem Dev.modTime_section_ (f : TimeState → TimeState) (y r : Nat) : (d.modTime f).section_ y r = d.section_ y r := (rfl)
@[simp] theorem Dev.modTime_tile (f : TimeState → TimeState) (r : Nat) : (d.modTime f).tile r = d.tile r := (rfl)
@[simp] theorem Dev.modTime_kn (f : TimeState → TimeState) (r y : Nat) : (d.modTime f).kn r y = d.kn r y := (rfl)
@[simp] theorem Dev.modTime_sieve (f : TimeState → TimeState) (r y : Nat) : (d.modTime f).sieve r y = d.sieve r y := (rfl)
@[simp] theorem Dev.modTime_tier (f : TimeState → TimeState) (r : Nat) : (d.modTime f).tier r = d.tier r := (rfl)
@[simp] theorem Dev.modTime_tray (f : TimeState → TimeState) (r : Nat) : (d.modTime f).tray r = d.tray r := (rfl)
@[simp] theorem Dev.modTime_sch (f : TimeState → TimeState) (r : Nat) : (d.modTime f).sch r = d.sch r := (rfl)
@[simp] theorem Dev.modTime_sg (f : TimeState → TimeState) (r y : Nat) : (d.modTime f).sg r y = d.sg r y := (rfl)
@[simp] theorem Dev.modTime_codecSt (f : TimeState → TimeState) (r y : Nat) : (d.modTime f).codecSt r y = d.codecSt r y := (rfl)
@[simp] theorem Dev.modTime_rad (f : TimeState → TimeState) (r : Nat) : (d.modTime f).rad r = d.rad r := (rfl)
@[simp] theorem Dev.modTime_port (f : TimeState → TimeState) (y : GatePort) : (d.modTime f).port y = d.port y := (rfl)
@[simp] theorem Dev.modTime_sli (f : TimeState → TimeState) (r : Nat) : (d.modTime f).sli r = d.sli r := (rfl)
@[simp] theorem Dev.modTime_pair (f : TimeState → TimeState) (r : Nat) : (d.modTime f).pair r = d.pair r := (rfl)
@[simp] theorem Dev.modTime_far (f : TimeState → TimeState) (r : Nat) : (d.modTime f).far r = d.far r := (rfl)
@[simp] theorem Dev.modTime_blink (f : TimeState → TimeState) (r : Nat) : (d.modTime f).blink r = d.blink r := (rfl)

/-! ### modBraid -/

@[simp] theorem Dev.modBraid_braid (f : BraidState → BraidState) : (d.modBraid f).braid = f d.braid := (rfl)
@[simp] theorem Dev.modBraid_now (f : BraidState → BraidState) : (d.modBraid f).now = d.now := (rfl)
@[simp] theorem Dev.modBraid_edge (f : BraidState → BraidState) : (d.modBraid f).edge = d.edge := (rfl)
@[simp] theorem Dev.modBraid_free (f : BraidState → BraidState) : (d.modBraid f).free = d.free := (rfl)
@[simp] theorem Dev.modBraid_readOut (f : BraidState → BraidState) : (d.modBraid f).readOut = d.readOut := (rfl)
@[simp] theorem Dev.modBraid_regs (f : BraidState → BraidState) : (d.modBraid f).regs = d.regs := (rfl)
@[simp] theorem Dev.modBraid_mem (f : BraidState → BraidState) : (d.modBraid f).mem = d.mem := (rfl)
@[simp] theorem Dev.modBraid_lineErr (f : BraidState → BraidState) : (d.modBraid f).lineErr = d.lineErr := (rfl)
@[simp] theorem Dev.modBraid_written (f : BraidState → BraidState) : (d.modBraid f).written = d.written := (rfl)
@[simp] theorem Dev.modBraid_ev (f : BraidState → BraidState) : (d.modBraid f).ev = d.ev := (rfl)
@[simp] theorem Dev.modBraid_hostWrites (f : BraidState → BraidState) : (d.modBraid f).hostWrites = d.hostWrites := (rfl)
@[simp] theorem Dev.modBraid_hostNext (f : BraidState → BraidState) : (d.modBraid f).hostNext = d.hostNext := (rfl)
@[simp] theorem Dev.modBraid_sent (f : BraidState → BraidState) : (d.modBraid f).sent = d.sent := (rfl)
@[simp] theorem Dev.modBraid_tiles (f : BraidState → BraidState) : (d.modBraid f).tiles = d.tiles := (rfl)
@[simp] theorem Dev.modBraid_ctrs (f : BraidState → BraidState) : (d.modBraid f).ctrs = d.ctrs := (rfl)
@[simp] theorem Dev.modBraid_cfg (f : BraidState → BraidState) : (d.modBraid f).cfg = d.cfg := (rfl)
@[simp] theorem Dev.modBraid_knead (f : BraidState → BraidState) : (d.modBraid f).knead = d.knead := (rfl)
@[simp] theorem Dev.modBraid_sieves (f : BraidState → BraidState) : (d.modBraid f).sieves = d.sieves := (rfl)
@[simp] theorem Dev.modBraid_tiers (f : BraidState → BraidState) : (d.modBraid f).tiers = d.tiers := (rfl)
@[simp] theorem Dev.modBraid_asks (f : BraidState → BraidState) : (d.modBraid f).asks = d.asks := (rfl)
@[simp] theorem Dev.modBraid_trays (f : BraidState → BraidState) : (d.modBraid f).trays = d.trays := (rfl)
@[simp] theorem Dev.modBraid_sched (f : BraidState → BraidState) : (d.modBraid f).sched = d.sched := (rfl)
@[simp] theorem Dev.modBraid_sig (f : BraidState → BraidState) : (d.modBraid f).sig = d.sig := (rfl)
@[simp] theorem Dev.modBraid_codec (f : BraidState → BraidState) : (d.modBraid f).codec = d.codec := (rfl)
@[simp] theorem Dev.modBraid_radio (f : BraidState → BraidState) : (d.modBraid f).radio = d.radio := (rfl)
@[simp] theorem Dev.modBraid_ports (f : BraidState → BraidState) : (d.modBraid f).ports = d.ports := (rfl)
@[simp] theorem Dev.modBraid_time (f : BraidState → BraidState) : (d.modBraid f).time = d.time := (rfl)
@[simp] theorem Dev.modBraid_sampled (f : BraidState → BraidState) : (d.modBraid f).sampled = d.sampled := (rfl)
@[simp] theorem Dev.modBraid_power (f : BraidState → BraidState) : (d.modBraid f).power = d.power := (rfl)
@[simp] theorem Dev.modBraid_peelSeen (f : BraidState → BraidState) : (d.modBraid f).peelSeen = d.peelSeen := (rfl)
@[simp] theorem Dev.modBraid_slices (f : BraidState → BraidState) : (d.modBraid f).slices = d.slices := (rfl)
@[simp] theorem Dev.modBraid_sliceTick (f : BraidState → BraidState) : (d.modBraid f).sliceTick = d.sliceTick := (rfl)
@[simp] theorem Dev.modBraid_integ (f : BraidState → BraidState) : (d.modBraid f).integ = d.integ := (rfl)
@[simp] theorem Dev.modBraid_memb (f : BraidState → BraidState) : (d.modBraid f).memb = d.memb := (rfl)
@[simp] theorem Dev.modBraid_sp (f : BraidState → BraidState) : (d.modBraid f).sp = d.sp := (rfl)
@[simp] theorem Dev.modBraid_recipe (f : BraidState → BraidState) : (d.modBraid f).recipe = d.recipe := (rfl)
@[simp] theorem Dev.modBraid_reg (f : BraidState → BraidState) (r : Nat) : (d.modBraid f).reg r = d.reg r := (rfl)
@[simp] theorem Dev.modBraid_getF (f : BraidState → BraidState) (r : Nat) (q : Fld) : (d.modBraid f).getF r q = d.getF r q := (rfl)
@[simp] theorem Dev.modBraid_getB (f : BraidState → BraidState) (r : Nat) (q : Fld) : (d.modBraid f).getB r q = d.getB r q := (rfl)
@[simp] theorem Dev.modBraid_paused (f : BraidState → BraidState) (r : Nat) : (d.modBraid f).paused r = d.paused r := (rfl)
@[simp] theorem Dev.modBraid_byte (f : BraidState → BraidState) (r : Nat) : (d.modBraid f).byte r = d.byte r := (rfl)
@[simp] theorem Dev.modBraid_errOf (f : BraidState → BraidState) (r : Nat) : (d.modBraid f).errOf r = d.errOf r := (rfl)
@[simp] theorem Dev.modBraid_section_ (f : BraidState → BraidState) (y r : Nat) : (d.modBraid f).section_ y r = d.section_ y r := (rfl)
@[simp] theorem Dev.modBraid_tile (f : BraidState → BraidState) (r : Nat) : (d.modBraid f).tile r = d.tile r := (rfl)
@[simp] theorem Dev.modBraid_kn (f : BraidState → BraidState) (r y : Nat) : (d.modBraid f).kn r y = d.kn r y := (rfl)
@[simp] theorem Dev.modBraid_sieve (f : BraidState → BraidState) (r y : Nat) : (d.modBraid f).sieve r y = d.sieve r y := (rfl)
@[simp] theorem Dev.modBraid_tier (f : BraidState → BraidState) (r : Nat) : (d.modBraid f).tier r = d.tier r := (rfl)
@[simp] theorem Dev.modBraid_tray (f : BraidState → BraidState) (r : Nat) : (d.modBraid f).tray r = d.tray r := (rfl)
@[simp] theorem Dev.modBraid_sch (f : BraidState → BraidState) (r : Nat) : (d.modBraid f).sch r = d.sch r := (rfl)
@[simp] theorem Dev.modBraid_sg (f : BraidState → BraidState) (r y : Nat) : (d.modBraid f).sg r y = d.sg r y := (rfl)
@[simp] theorem Dev.modBraid_codecSt (f : BraidState → BraidState) (r y : Nat) : (d.modBraid f).codecSt r y = d.codecSt r y := (rfl)
@[simp] theorem Dev.modBraid_rad (f : BraidState → BraidState) (r : Nat) : (d.modBraid f).rad r = d.rad r := (rfl)
@[simp] theorem Dev.modBraid_port (f : BraidState → BraidState) (y : GatePort) : (d.modBraid f).port y = d.port y := (rfl)
@[simp] theorem Dev.modBraid_sli (f : BraidState → BraidState) (r : Nat) : (d.modBraid f).sli r = d.sli r := (rfl)

/-! ### modPower -/

@[simp] theorem Dev.modPower_power (f : PowerState → PowerState) : (d.modPower f).power = f d.power := (rfl)
@[simp] theorem Dev.modPower_now (f : PowerState → PowerState) : (d.modPower f).now = d.now := (rfl)
@[simp] theorem Dev.modPower_edge (f : PowerState → PowerState) : (d.modPower f).edge = d.edge := (rfl)
@[simp] theorem Dev.modPower_free (f : PowerState → PowerState) : (d.modPower f).free = d.free := (rfl)
@[simp] theorem Dev.modPower_readOut (f : PowerState → PowerState) : (d.modPower f).readOut = d.readOut := (rfl)
@[simp] theorem Dev.modPower_regs (f : PowerState → PowerState) : (d.modPower f).regs = d.regs := (rfl)
@[simp] theorem Dev.modPower_mem (f : PowerState → PowerState) : (d.modPower f).mem = d.mem := (rfl)
@[simp] theorem Dev.modPower_lineErr (f : PowerState → PowerState) : (d.modPower f).lineErr = d.lineErr := (rfl)
@[simp] theorem Dev.modPower_written (f : PowerState → PowerState) : (d.modPower f).written = d.written := (rfl)
@[simp] theorem Dev.modPower_ev (f : PowerState → PowerState) : (d.modPower f).ev = d.ev := (rfl)
@[simp] theorem Dev.modPower_hostWrites (f : PowerState → PowerState) : (d.modPower f).hostWrites = d.hostWrites := (rfl)
@[simp] theorem Dev.modPower_hostNext (f : PowerState → PowerState) : (d.modPower f).hostNext = d.hostNext := (rfl)
@[simp] theorem Dev.modPower_sent (f : PowerState → PowerState) : (d.modPower f).sent = d.sent := (rfl)
@[simp] theorem Dev.modPower_tiles (f : PowerState → PowerState) : (d.modPower f).tiles = d.tiles := (rfl)
@[simp] theorem Dev.modPower_ctrs (f : PowerState → PowerState) : (d.modPower f).ctrs = d.ctrs := (rfl)
@[simp] theorem Dev.modPower_cfg (f : PowerState → PowerState) : (d.modPower f).cfg = d.cfg := (rfl)
@[simp] theorem Dev.modPower_knead (f : PowerState → PowerState) : (d.modPower f).knead = d.knead := (rfl)
@[simp] theorem Dev.modPower_sieves (f : PowerState → PowerState) : (d.modPower f).sieves = d.sieves := (rfl)
@[simp] theorem Dev.modPower_tiers (f : PowerState → PowerState) : (d.modPower f).tiers = d.tiers := (rfl)
@[simp] theorem Dev.modPower_asks (f : PowerState → PowerState) : (d.modPower f).asks = d.asks := (rfl)
@[simp] theorem Dev.modPower_trays (f : PowerState → PowerState) : (d.modPower f).trays = d.trays := (rfl)
@[simp] theorem Dev.modPower_sched (f : PowerState → PowerState) : (d.modPower f).sched = d.sched := (rfl)
@[simp] theorem Dev.modPower_sig (f : PowerState → PowerState) : (d.modPower f).sig = d.sig := (rfl)
@[simp] theorem Dev.modPower_codec (f : PowerState → PowerState) : (d.modPower f).codec = d.codec := (rfl)
@[simp] theorem Dev.modPower_radio (f : PowerState → PowerState) : (d.modPower f).radio = d.radio := (rfl)
@[simp] theorem Dev.modPower_ports (f : PowerState → PowerState) : (d.modPower f).ports = d.ports := (rfl)
@[simp] theorem Dev.modPower_time (f : PowerState → PowerState) : (d.modPower f).time = d.time := (rfl)
@[simp] theorem Dev.modPower_sampled (f : PowerState → PowerState) : (d.modPower f).sampled = d.sampled := (rfl)
@[simp] theorem Dev.modPower_braid (f : PowerState → PowerState) : (d.modPower f).braid = d.braid := (rfl)
@[simp] theorem Dev.modPower_peelSeen (f : PowerState → PowerState) : (d.modPower f).peelSeen = d.peelSeen := (rfl)
@[simp] theorem Dev.modPower_slices (f : PowerState → PowerState) : (d.modPower f).slices = d.slices := (rfl)
@[simp] theorem Dev.modPower_sliceTick (f : PowerState → PowerState) : (d.modPower f).sliceTick = d.sliceTick := (rfl)
@[simp] theorem Dev.modPower_integ (f : PowerState → PowerState) : (d.modPower f).integ = d.integ := (rfl)
@[simp] theorem Dev.modPower_memb (f : PowerState → PowerState) : (d.modPower f).memb = d.memb := (rfl)
@[simp] theorem Dev.modPower_sp (f : PowerState → PowerState) : (d.modPower f).sp = d.sp := (rfl)
@[simp] theorem Dev.modPower_recipe (f : PowerState → PowerState) : (d.modPower f).recipe = d.recipe := (rfl)
@[simp] theorem Dev.modPower_reg (f : PowerState → PowerState) (r : Nat) : (d.modPower f).reg r = d.reg r := (rfl)
@[simp] theorem Dev.modPower_getF (f : PowerState → PowerState) (r : Nat) (q : Fld) : (d.modPower f).getF r q = d.getF r q := (rfl)
@[simp] theorem Dev.modPower_getB (f : PowerState → PowerState) (r : Nat) (q : Fld) : (d.modPower f).getB r q = d.getB r q := (rfl)
@[simp] theorem Dev.modPower_paused (f : PowerState → PowerState) (r : Nat) : (d.modPower f).paused r = d.paused r := (rfl)
@[simp] theorem Dev.modPower_byte (f : PowerState → PowerState) (r : Nat) : (d.modPower f).byte r = d.byte r := (rfl)
@[simp] theorem Dev.modPower_errOf (f : PowerState → PowerState) (r : Nat) : (d.modPower f).errOf r = d.errOf r := (rfl)
@[simp] theorem Dev.modPower_section_ (f : PowerState → PowerState) (y r : Nat) : (d.modPower f).section_ y r = d.section_ y r := (rfl)
@[simp] theorem Dev.modPower_tile (f : PowerState → PowerState) (r : Nat) : (d.modPower f).tile r = d.tile r := (rfl)
@[simp] theorem Dev.modPower_kn (f : PowerState → PowerState) (r y : Nat) : (d.modPower f).kn r y = d.kn r y := (rfl)
@[simp] theorem Dev.modPower_sieve (f : PowerState → PowerState) (r y : Nat) : (d.modPower f).sieve r y = d.sieve r y := (rfl)
@[simp] theorem Dev.modPower_tier (f : PowerState → PowerState) (r : Nat) : (d.modPower f).tier r = d.tier r := (rfl)
@[simp] theorem Dev.modPower_tray (f : PowerState → PowerState) (r : Nat) : (d.modPower f).tray r = d.tray r := (rfl)
@[simp] theorem Dev.modPower_sch (f : PowerState → PowerState) (r : Nat) : (d.modPower f).sch r = d.sch r := (rfl)
@[simp] theorem Dev.modPower_sg (f : PowerState → PowerState) (r y : Nat) : (d.modPower f).sg r y = d.sg r y := (rfl)
@[simp] theorem Dev.modPower_codecSt (f : PowerState → PowerState) (r y : Nat) : (d.modPower f).codecSt r y = d.codecSt r y := (rfl)
@[simp] theorem Dev.modPower_rad (f : PowerState → PowerState) (r : Nat) : (d.modPower f).rad r = d.rad r := (rfl)
@[simp] theorem Dev.modPower_port (f : PowerState → PowerState) (y : GatePort) : (d.modPower f).port y = d.port y := (rfl)
@[simp] theorem Dev.modPower_sli (f : PowerState → PowerState) (r : Nat) : (d.modPower f).sli r = d.sli r := (rfl)
@[simp] theorem Dev.modPower_pair (f : PowerState → PowerState) (r : Nat) : (d.modPower f).pair r = d.pair r := (rfl)
@[simp] theorem Dev.modPower_far (f : PowerState → PowerState) (r : Nat) : (d.modPower f).far r = d.far r := (rfl)
@[simp] theorem Dev.modPower_blink (f : PowerState → PowerState) (r : Nat) : (d.modPower f).blink r = d.blink r := (rfl)

/-! ### modMemb -/

@[simp] theorem Dev.modMemb_memb (f : MembState → MembState) : (d.modMemb f).memb = f d.memb := (rfl)
@[simp] theorem Dev.modMemb_now (f : MembState → MembState) : (d.modMemb f).now = d.now := (rfl)
@[simp] theorem Dev.modMemb_edge (f : MembState → MembState) : (d.modMemb f).edge = d.edge := (rfl)
@[simp] theorem Dev.modMemb_free (f : MembState → MembState) : (d.modMemb f).free = d.free := (rfl)
@[simp] theorem Dev.modMemb_readOut (f : MembState → MembState) : (d.modMemb f).readOut = d.readOut := (rfl)
@[simp] theorem Dev.modMemb_regs (f : MembState → MembState) : (d.modMemb f).regs = d.regs := (rfl)
@[simp] theorem Dev.modMemb_mem (f : MembState → MembState) : (d.modMemb f).mem = d.mem := (rfl)
@[simp] theorem Dev.modMemb_lineErr (f : MembState → MembState) : (d.modMemb f).lineErr = d.lineErr := (rfl)
@[simp] theorem Dev.modMemb_written (f : MembState → MembState) : (d.modMemb f).written = d.written := (rfl)
@[simp] theorem Dev.modMemb_ev (f : MembState → MembState) : (d.modMemb f).ev = d.ev := (rfl)
@[simp] theorem Dev.modMemb_hostWrites (f : MembState → MembState) : (d.modMemb f).hostWrites = d.hostWrites := (rfl)
@[simp] theorem Dev.modMemb_hostNext (f : MembState → MembState) : (d.modMemb f).hostNext = d.hostNext := (rfl)
@[simp] theorem Dev.modMemb_sent (f : MembState → MembState) : (d.modMemb f).sent = d.sent := (rfl)
@[simp] theorem Dev.modMemb_tiles (f : MembState → MembState) : (d.modMemb f).tiles = d.tiles := (rfl)
@[simp] theorem Dev.modMemb_ctrs (f : MembState → MembState) : (d.modMemb f).ctrs = d.ctrs := (rfl)
@[simp] theorem Dev.modMemb_cfg (f : MembState → MembState) : (d.modMemb f).cfg = d.cfg := (rfl)
@[simp] theorem Dev.modMemb_knead (f : MembState → MembState) : (d.modMemb f).knead = d.knead := (rfl)
@[simp] theorem Dev.modMemb_sieves (f : MembState → MembState) : (d.modMemb f).sieves = d.sieves := (rfl)
@[simp] theorem Dev.modMemb_tiers (f : MembState → MembState) : (d.modMemb f).tiers = d.tiers := (rfl)
@[simp] theorem Dev.modMemb_asks (f : MembState → MembState) : (d.modMemb f).asks = d.asks := (rfl)
@[simp] theorem Dev.modMemb_trays (f : MembState → MembState) : (d.modMemb f).trays = d.trays := (rfl)
@[simp] theorem Dev.modMemb_sched (f : MembState → MembState) : (d.modMemb f).sched = d.sched := (rfl)
@[simp] theorem Dev.modMemb_sig (f : MembState → MembState) : (d.modMemb f).sig = d.sig := (rfl)
@[simp] theorem Dev.modMemb_codec (f : MembState → MembState) : (d.modMemb f).codec = d.codec := (rfl)
@[simp] theorem Dev.modMemb_radio (f : MembState → MembState) : (d.modMemb f).radio = d.radio := (rfl)
@[simp] theorem Dev.modMemb_ports (f : MembState → MembState) : (d.modMemb f).ports = d.ports := (rfl)
@[simp] theorem Dev.modMemb_time (f : MembState → MembState) : (d.modMemb f).time = d.time := (rfl)
@[simp] theorem Dev.modMemb_sampled (f : MembState → MembState) : (d.modMemb f).sampled = d.sampled := (rfl)
@[simp] theorem Dev.modMemb_braid (f : MembState → MembState) : (d.modMemb f).braid = d.braid := (rfl)
@[simp] theorem Dev.modMemb_power (f : MembState → MembState) : (d.modMemb f).power = d.power := (rfl)
@[simp] theorem Dev.modMemb_peelSeen (f : MembState → MembState) : (d.modMemb f).peelSeen = d.peelSeen := (rfl)
@[simp] theorem Dev.modMemb_slices (f : MembState → MembState) : (d.modMemb f).slices = d.slices := (rfl)
@[simp] theorem Dev.modMemb_sliceTick (f : MembState → MembState) : (d.modMemb f).sliceTick = d.sliceTick := (rfl)
@[simp] theorem Dev.modMemb_integ (f : MembState → MembState) : (d.modMemb f).integ = d.integ := (rfl)
@[simp] theorem Dev.modMemb_sp (f : MembState → MembState) : (d.modMemb f).sp = d.sp := (rfl)
@[simp] theorem Dev.modMemb_recipe (f : MembState → MembState) : (d.modMemb f).recipe = d.recipe := (rfl)
@[simp] theorem Dev.modMemb_reg (f : MembState → MembState) (r : Nat) : (d.modMemb f).reg r = d.reg r := (rfl)
@[simp] theorem Dev.modMemb_getF (f : MembState → MembState) (r : Nat) (q : Fld) : (d.modMemb f).getF r q = d.getF r q := (rfl)
@[simp] theorem Dev.modMemb_getB (f : MembState → MembState) (r : Nat) (q : Fld) : (d.modMemb f).getB r q = d.getB r q := (rfl)
@[simp] theorem Dev.modMemb_paused (f : MembState → MembState) (r : Nat) : (d.modMemb f).paused r = d.paused r := (rfl)
@[simp] theorem Dev.modMemb_byte (f : MembState → MembState) (r : Nat) : (d.modMemb f).byte r = d.byte r := (rfl)
@[simp] theorem Dev.modMemb_errOf (f : MembState → MembState) (r : Nat) : (d.modMemb f).errOf r = d.errOf r := (rfl)
@[simp] theorem Dev.modMemb_section_ (f : MembState → MembState) (y r : Nat) : (d.modMemb f).section_ y r = d.section_ y r := (rfl)
@[simp] theorem Dev.modMemb_tile (f : MembState → MembState) (r : Nat) : (d.modMemb f).tile r = d.tile r := (rfl)
@[simp] theorem Dev.modMemb_kn (f : MembState → MembState) (r y : Nat) : (d.modMemb f).kn r y = d.kn r y := (rfl)
@[simp] theorem Dev.modMemb_sieve (f : MembState → MembState) (r y : Nat) : (d.modMemb f).sieve r y = d.sieve r y := (rfl)
@[simp] theorem Dev.modMemb_tier (f : MembState → MembState) (r : Nat) : (d.modMemb f).tier r = d.tier r := (rfl)
@[simp] theorem Dev.modMemb_tray (f : MembState → MembState) (r : Nat) : (d.modMemb f).tray r = d.tray r := (rfl)
@[simp] theorem Dev.modMemb_sch (f : MembState → MembState) (r : Nat) : (d.modMemb f).sch r = d.sch r := (rfl)
@[simp] theorem Dev.modMemb_sg (f : MembState → MembState) (r y : Nat) : (d.modMemb f).sg r y = d.sg r y := (rfl)
@[simp] theorem Dev.modMemb_codecSt (f : MembState → MembState) (r y : Nat) : (d.modMemb f).codecSt r y = d.codecSt r y := (rfl)
@[simp] theorem Dev.modMemb_rad (f : MembState → MembState) (r : Nat) : (d.modMemb f).rad r = d.rad r := (rfl)
@[simp] theorem Dev.modMemb_port (f : MembState → MembState) (y : GatePort) : (d.modMemb f).port y = d.port y := (rfl)
@[simp] theorem Dev.modMemb_sli (f : MembState → MembState) (r : Nat) : (d.modMemb f).sli r = d.sli r := (rfl)
@[simp] theorem Dev.modMemb_pair (f : MembState → MembState) (r : Nat) : (d.modMemb f).pair r = d.pair r := (rfl)
@[simp] theorem Dev.modMemb_far (f : MembState → MembState) (r : Nat) : (d.modMemb f).far r = d.far r := (rfl)
@[simp] theorem Dev.modMemb_blink (f : MembState → MembState) (r : Nat) : (d.modMemb f).blink r = d.blink r := (rfl)

/-! ### modSp -/

@[simp] theorem Dev.modSp_sp (f : SecState → SecState) : (d.modSp f).sp = f d.sp := (rfl)
@[simp] theorem Dev.modSp_now (f : SecState → SecState) : (d.modSp f).now = d.now := (rfl)
@[simp] theorem Dev.modSp_edge (f : SecState → SecState) : (d.modSp f).edge = d.edge := (rfl)
@[simp] theorem Dev.modSp_free (f : SecState → SecState) : (d.modSp f).free = d.free := (rfl)
@[simp] theorem Dev.modSp_readOut (f : SecState → SecState) : (d.modSp f).readOut = d.readOut := (rfl)
@[simp] theorem Dev.modSp_regs (f : SecState → SecState) : (d.modSp f).regs = d.regs := (rfl)
@[simp] theorem Dev.modSp_mem (f : SecState → SecState) : (d.modSp f).mem = d.mem := (rfl)
@[simp] theorem Dev.modSp_lineErr (f : SecState → SecState) : (d.modSp f).lineErr = d.lineErr := (rfl)
@[simp] theorem Dev.modSp_written (f : SecState → SecState) : (d.modSp f).written = d.written := (rfl)
@[simp] theorem Dev.modSp_ev (f : SecState → SecState) : (d.modSp f).ev = d.ev := (rfl)
@[simp] theorem Dev.modSp_hostWrites (f : SecState → SecState) : (d.modSp f).hostWrites = d.hostWrites := (rfl)
@[simp] theorem Dev.modSp_hostNext (f : SecState → SecState) : (d.modSp f).hostNext = d.hostNext := (rfl)
@[simp] theorem Dev.modSp_sent (f : SecState → SecState) : (d.modSp f).sent = d.sent := (rfl)
@[simp] theorem Dev.modSp_tiles (f : SecState → SecState) : (d.modSp f).tiles = d.tiles := (rfl)
@[simp] theorem Dev.modSp_ctrs (f : SecState → SecState) : (d.modSp f).ctrs = d.ctrs := (rfl)
@[simp] theorem Dev.modSp_cfg (f : SecState → SecState) : (d.modSp f).cfg = d.cfg := (rfl)
@[simp] theorem Dev.modSp_knead (f : SecState → SecState) : (d.modSp f).knead = d.knead := (rfl)
@[simp] theorem Dev.modSp_sieves (f : SecState → SecState) : (d.modSp f).sieves = d.sieves := (rfl)
@[simp] theorem Dev.modSp_tiers (f : SecState → SecState) : (d.modSp f).tiers = d.tiers := (rfl)
@[simp] theorem Dev.modSp_asks (f : SecState → SecState) : (d.modSp f).asks = d.asks := (rfl)
@[simp] theorem Dev.modSp_trays (f : SecState → SecState) : (d.modSp f).trays = d.trays := (rfl)
@[simp] theorem Dev.modSp_sched (f : SecState → SecState) : (d.modSp f).sched = d.sched := (rfl)
@[simp] theorem Dev.modSp_sig (f : SecState → SecState) : (d.modSp f).sig = d.sig := (rfl)
@[simp] theorem Dev.modSp_codec (f : SecState → SecState) : (d.modSp f).codec = d.codec := (rfl)
@[simp] theorem Dev.modSp_radio (f : SecState → SecState) : (d.modSp f).radio = d.radio := (rfl)
@[simp] theorem Dev.modSp_ports (f : SecState → SecState) : (d.modSp f).ports = d.ports := (rfl)
@[simp] theorem Dev.modSp_time (f : SecState → SecState) : (d.modSp f).time = d.time := (rfl)
@[simp] theorem Dev.modSp_sampled (f : SecState → SecState) : (d.modSp f).sampled = d.sampled := (rfl)
@[simp] theorem Dev.modSp_braid (f : SecState → SecState) : (d.modSp f).braid = d.braid := (rfl)
@[simp] theorem Dev.modSp_power (f : SecState → SecState) : (d.modSp f).power = d.power := (rfl)
@[simp] theorem Dev.modSp_peelSeen (f : SecState → SecState) : (d.modSp f).peelSeen = d.peelSeen := (rfl)
@[simp] theorem Dev.modSp_slices (f : SecState → SecState) : (d.modSp f).slices = d.slices := (rfl)
@[simp] theorem Dev.modSp_sliceTick (f : SecState → SecState) : (d.modSp f).sliceTick = d.sliceTick := (rfl)
@[simp] theorem Dev.modSp_integ (f : SecState → SecState) : (d.modSp f).integ = d.integ := (rfl)
@[simp] theorem Dev.modSp_memb (f : SecState → SecState) : (d.modSp f).memb = d.memb := (rfl)
@[simp] theorem Dev.modSp_recipe (f : SecState → SecState) : (d.modSp f).recipe = d.recipe := (rfl)
@[simp] theorem Dev.modSp_reg (f : SecState → SecState) (r : Nat) : (d.modSp f).reg r = d.reg r := (rfl)
@[simp] theorem Dev.modSp_getF (f : SecState → SecState) (r : Nat) (q : Fld) : (d.modSp f).getF r q = d.getF r q := (rfl)
@[simp] theorem Dev.modSp_getB (f : SecState → SecState) (r : Nat) (q : Fld) : (d.modSp f).getB r q = d.getB r q := (rfl)
@[simp] theorem Dev.modSp_paused (f : SecState → SecState) (r : Nat) : (d.modSp f).paused r = d.paused r := (rfl)
@[simp] theorem Dev.modSp_byte (f : SecState → SecState) (r : Nat) : (d.modSp f).byte r = d.byte r := (rfl)
@[simp] theorem Dev.modSp_errOf (f : SecState → SecState) (r : Nat) : (d.modSp f).errOf r = d.errOf r := (rfl)
@[simp] theorem Dev.modSp_section_ (f : SecState → SecState) (y r : Nat) : (d.modSp f).section_ y r = d.section_ y r := (rfl)
@[simp] theorem Dev.modSp_tile (f : SecState → SecState) (r : Nat) : (d.modSp f).tile r = d.tile r := (rfl)
@[simp] theorem Dev.modSp_kn (f : SecState → SecState) (r y : Nat) : (d.modSp f).kn r y = d.kn r y := (rfl)
@[simp] theorem Dev.modSp_sieve (f : SecState → SecState) (r y : Nat) : (d.modSp f).sieve r y = d.sieve r y := (rfl)
@[simp] theorem Dev.modSp_tier (f : SecState → SecState) (r : Nat) : (d.modSp f).tier r = d.tier r := (rfl)
@[simp] theorem Dev.modSp_tray (f : SecState → SecState) (r : Nat) : (d.modSp f).tray r = d.tray r := (rfl)
@[simp] theorem Dev.modSp_sch (f : SecState → SecState) (r : Nat) : (d.modSp f).sch r = d.sch r := (rfl)
@[simp] theorem Dev.modSp_sg (f : SecState → SecState) (r y : Nat) : (d.modSp f).sg r y = d.sg r y := (rfl)
@[simp] theorem Dev.modSp_codecSt (f : SecState → SecState) (r y : Nat) : (d.modSp f).codecSt r y = d.codecSt r y := (rfl)
@[simp] theorem Dev.modSp_rad (f : SecState → SecState) (r : Nat) : (d.modSp f).rad r = d.rad r := (rfl)
@[simp] theorem Dev.modSp_port (f : SecState → SecState) (y : GatePort) : (d.modSp f).port y = d.port y := (rfl)
@[simp] theorem Dev.modSp_sli (f : SecState → SecState) (r : Nat) : (d.modSp f).sli r = d.sli r := (rfl)
@[simp] theorem Dev.modSp_pair (f : SecState → SecState) (r : Nat) : (d.modSp f).pair r = d.pair r := (rfl)
@[simp] theorem Dev.modSp_far (f : SecState → SecState) (r : Nat) : (d.modSp f).far r = d.far r := (rfl)
@[simp] theorem Dev.modSp_blink (f : SecState → SecState) (r : Nat) : (d.modSp f).blink r = d.blink r := (rfl)

/-! ### modRecipe -/

@[simp] theorem Dev.modRecipe_recipe (f : RecipeState → RecipeState) : (d.modRecipe f).recipe = f d.recipe := (rfl)
@[simp] theorem Dev.modRecipe_now (f : RecipeState → RecipeState) : (d.modRecipe f).now = d.now := (rfl)
@[simp] theorem Dev.modRecipe_edge (f : RecipeState → RecipeState) : (d.modRecipe f).edge = d.edge := (rfl)
@[simp] theorem Dev.modRecipe_free (f : RecipeState → RecipeState) : (d.modRecipe f).free = d.free := (rfl)
@[simp] theorem Dev.modRecipe_readOut (f : RecipeState → RecipeState) : (d.modRecipe f).readOut = d.readOut := (rfl)
@[simp] theorem Dev.modRecipe_regs (f : RecipeState → RecipeState) : (d.modRecipe f).regs = d.regs := (rfl)
@[simp] theorem Dev.modRecipe_mem (f : RecipeState → RecipeState) : (d.modRecipe f).mem = d.mem := (rfl)
@[simp] theorem Dev.modRecipe_lineErr (f : RecipeState → RecipeState) : (d.modRecipe f).lineErr = d.lineErr := (rfl)
@[simp] theorem Dev.modRecipe_written (f : RecipeState → RecipeState) : (d.modRecipe f).written = d.written := (rfl)
@[simp] theorem Dev.modRecipe_ev (f : RecipeState → RecipeState) : (d.modRecipe f).ev = d.ev := (rfl)
@[simp] theorem Dev.modRecipe_hostWrites (f : RecipeState → RecipeState) : (d.modRecipe f).hostWrites = d.hostWrites := (rfl)
@[simp] theorem Dev.modRecipe_hostNext (f : RecipeState → RecipeState) : (d.modRecipe f).hostNext = d.hostNext := (rfl)
@[simp] theorem Dev.modRecipe_sent (f : RecipeState → RecipeState) : (d.modRecipe f).sent = d.sent := (rfl)
@[simp] theorem Dev.modRecipe_tiles (f : RecipeState → RecipeState) : (d.modRecipe f).tiles = d.tiles := (rfl)
@[simp] theorem Dev.modRecipe_ctrs (f : RecipeState → RecipeState) : (d.modRecipe f).ctrs = d.ctrs := (rfl)
@[simp] theorem Dev.modRecipe_cfg (f : RecipeState → RecipeState) : (d.modRecipe f).cfg = d.cfg := (rfl)
@[simp] theorem Dev.modRecipe_knead (f : RecipeState → RecipeState) : (d.modRecipe f).knead = d.knead := (rfl)
@[simp] theorem Dev.modRecipe_sieves (f : RecipeState → RecipeState) : (d.modRecipe f).sieves = d.sieves := (rfl)
@[simp] theorem Dev.modRecipe_tiers (f : RecipeState → RecipeState) : (d.modRecipe f).tiers = d.tiers := (rfl)
@[simp] theorem Dev.modRecipe_asks (f : RecipeState → RecipeState) : (d.modRecipe f).asks = d.asks := (rfl)
@[simp] theorem Dev.modRecipe_trays (f : RecipeState → RecipeState) : (d.modRecipe f).trays = d.trays := (rfl)
@[simp] theorem Dev.modRecipe_sched (f : RecipeState → RecipeState) : (d.modRecipe f).sched = d.sched := (rfl)
@[simp] theorem Dev.modRecipe_sig (f : RecipeState → RecipeState) : (d.modRecipe f).sig = d.sig := (rfl)
@[simp] theorem Dev.modRecipe_codec (f : RecipeState → RecipeState) : (d.modRecipe f).codec = d.codec := (rfl)
@[simp] theorem Dev.modRecipe_radio (f : RecipeState → RecipeState) : (d.modRecipe f).radio = d.radio := (rfl)
@[simp] theorem Dev.modRecipe_ports (f : RecipeState → RecipeState) : (d.modRecipe f).ports = d.ports := (rfl)
@[simp] theorem Dev.modRecipe_time (f : RecipeState → RecipeState) : (d.modRecipe f).time = d.time := (rfl)
@[simp] theorem Dev.modRecipe_sampled (f : RecipeState → RecipeState) : (d.modRecipe f).sampled = d.sampled := (rfl)
@[simp] theorem Dev.modRecipe_braid (f : RecipeState → RecipeState) : (d.modRecipe f).braid = d.braid := (rfl)
@[simp] theorem Dev.modRecipe_power (f : RecipeState → RecipeState) : (d.modRecipe f).power = d.power := (rfl)
@[simp] theorem Dev.modRecipe_peelSeen (f : RecipeState → RecipeState) : (d.modRecipe f).peelSeen = d.peelSeen := (rfl)
@[simp] theorem Dev.modRecipe_slices (f : RecipeState → RecipeState) : (d.modRecipe f).slices = d.slices := (rfl)
@[simp] theorem Dev.modRecipe_sliceTick (f : RecipeState → RecipeState) : (d.modRecipe f).sliceTick = d.sliceTick := (rfl)
@[simp] theorem Dev.modRecipe_integ (f : RecipeState → RecipeState) : (d.modRecipe f).integ = d.integ := (rfl)
@[simp] theorem Dev.modRecipe_memb (f : RecipeState → RecipeState) : (d.modRecipe f).memb = d.memb := (rfl)
@[simp] theorem Dev.modRecipe_sp (f : RecipeState → RecipeState) : (d.modRecipe f).sp = d.sp := (rfl)
@[simp] theorem Dev.modRecipe_reg (f : RecipeState → RecipeState) (r : Nat) : (d.modRecipe f).reg r = d.reg r := (rfl)
@[simp] theorem Dev.modRecipe_getF (f : RecipeState → RecipeState) (r : Nat) (q : Fld) : (d.modRecipe f).getF r q = d.getF r q := (rfl)
@[simp] theorem Dev.modRecipe_getB (f : RecipeState → RecipeState) (r : Nat) (q : Fld) : (d.modRecipe f).getB r q = d.getB r q := (rfl)
@[simp] theorem Dev.modRecipe_paused (f : RecipeState → RecipeState) (r : Nat) : (d.modRecipe f).paused r = d.paused r := (rfl)
@[simp] theorem Dev.modRecipe_byte (f : RecipeState → RecipeState) (r : Nat) : (d.modRecipe f).byte r = d.byte r := (rfl)
@[simp] theorem Dev.modRecipe_errOf (f : RecipeState → RecipeState) (r : Nat) : (d.modRecipe f).errOf r = d.errOf r := (rfl)
@[simp] theorem Dev.modRecipe_section_ (f : RecipeState → RecipeState) (y r : Nat) : (d.modRecipe f).section_ y r = d.section_ y r := (rfl)
@[simp] theorem Dev.modRecipe_tile (f : RecipeState → RecipeState) (r : Nat) : (d.modRecipe f).tile r = d.tile r := (rfl)
@[simp] theorem Dev.modRecipe_kn (f : RecipeState → RecipeState) (r y : Nat) : (d.modRecipe f).kn r y = d.kn r y := (rfl)
@[simp] theorem Dev.modRecipe_sieve (f : RecipeState → RecipeState) (r y : Nat) : (d.modRecipe f).sieve r y = d.sieve r y := (rfl)
@[simp] theorem Dev.modRecipe_tier (f : RecipeState → RecipeState) (r : Nat) : (d.modRecipe f).tier r = d.tier r := (rfl)
@[simp] theorem Dev.modRecipe_tray (f : RecipeState → RecipeState) (r : Nat) : (d.modRecipe f).tray r = d.tray r := (rfl)
@[simp] theorem Dev.modRecipe_sch (f : RecipeState → RecipeState) (r : Nat) : (d.modRecipe f).sch r = d.sch r := (rfl)
@[simp] theorem Dev.modRecipe_sg (f : RecipeState → RecipeState) (r y : Nat) : (d.modRecipe f).sg r y = d.sg r y := (rfl)
@[simp] theorem Dev.modRecipe_codecSt (f : RecipeState → RecipeState) (r y : Nat) : (d.modRecipe f).codecSt r y = d.codecSt r y := (rfl)
@[simp] theorem Dev.modRecipe_rad (f : RecipeState → RecipeState) (r : Nat) : (d.modRecipe f).rad r = d.rad r := (rfl)
@[simp] theorem Dev.modRecipe_port (f : RecipeState → RecipeState) (y : GatePort) : (d.modRecipe f).port y = d.port y := (rfl)
@[simp] theorem Dev.modRecipe_sli (f : RecipeState → RecipeState) (r : Nat) : (d.modRecipe f).sli r = d.sli r := (rfl)
@[simp] theorem Dev.modRecipe_pair (f : RecipeState → RecipeState) (r : Nat) : (d.modRecipe f).pair r = d.pair r := (rfl)
@[simp] theorem Dev.modRecipe_far (f : RecipeState → RecipeState) (r : Nat) : (d.modRecipe f).far r = d.far r := (rfl)
@[simp] theorem Dev.modRecipe_blink (f : RecipeState → RecipeState) (r : Nat) : (d.modRecipe f).blink r = d.blink r := (rfl)

/-! ### count -/

/-- A counter changes its own register or nothing. -/
theorem Dev.count_cases (a : Nat) (f : Fld) (n : Nat) : d.count a f n = d ∨ ∃ w, d.count a f n = d.setReg a w := by
  unfold Dev.count
  by_cases h : (n == 0) = true
  · exact .inl (if_pos h)
  · rw [if_neg h]
    by_cases h2 : d.getF a f + n < 2 ^ f.w
    · exact .inr ⟨_, if_pos h2⟩
    · exact .inr ⟨_, if_neg h2⟩
theorem Dev.canon_count (a : Nat) (f : Fld) (n : Nat) (h : d.canon) : (d.count a f n).canon := by
  obtain e | ⟨w, e⟩ := d.count_cases a f n <;> rw [e]
  · exact h
  · exact Dev.canon_setReg a w h
theorem Dev.sameRegs_count (a : Nat) (f : Fld) (n : Nat) (h : d.canon) : d.sameRegs (d.count a f n) (· = a) := by
  intro b hb
  obtain e | ⟨w, e⟩ := d.count_cases a f n <;> rw [e]
  exact Dev.reg_setReg_ne _ h fun x => hb x.symm
@[simp] theorem Dev.count_now (a : Nat) (f : Fld) (n : Nat) : (d.count a f n).now = d.now := by obtain e | ⟨w, e⟩ := d.count_cases a f n <;> simp only [e, Dev.setReg_now]
@[simp] theorem Dev.count_edge (a : Nat) (f : Fld) (n : Nat) : (d.count a f n).edge = d.edge := by obtain e | ⟨w, e⟩ := d.count_cases a f n <;> simp only [e, Dev.setReg_edge]
@[simp] theorem Dev.count_free (a : Nat) (f : Fld) (n : Nat) : (d.count a f n).free = d.free := by obtain e | ⟨w, e⟩ := d.count_cases a f n <;> simp only [e, Dev.setReg_free]
@[simp] theorem Dev.count_readOut (a : Nat) (f : Fld) (n : Nat) : (d.count a f n).readOut = d.readOut := by obtain e | ⟨w, e⟩ := d.count_cases a f n <;> simp only [e, Dev.setReg_readOut]
@[simp] theorem Dev.count_mem (a : Nat) (f : Fld) (n : Nat) : (d.count a f n).mem = d.mem := by obtain e | ⟨w, e⟩ := d.count_cases a f n <;> simp only [e, Dev.setReg_mem]
@[simp] theorem Dev.count_lineErr (a : Nat) (f : Fld) (n : Nat) : (d.count a f n).lineErr = d.lineErr := by obtain e | ⟨w, e⟩ := d.count_cases a f n <;> simp only [e, Dev.setReg_lineErr]
@[simp] theorem Dev.count_written (a : Nat) (f : Fld) (n : Nat) : (d.count a f n).written = d.written := by obtain e | ⟨w, e⟩ := d.count_cases a f n <;> simp only [e, Dev.setReg_written]
@[simp] theorem Dev.count_ev (a : Nat) (f : Fld) (n : Nat) : (d.count a f n).ev = d.ev := by obtain e | ⟨w, e⟩ := d.count_cases a f n <;> simp only [e, Dev.setReg_ev]
@[simp] theorem Dev.count_hostWrites (a : Nat) (f : Fld) (n : Nat) : (d.count a f n).hostWrites = d.hostWrites := by obtain e | ⟨w, e⟩ := d.count_cases a f n <;> simp only [e, Dev.setReg_hostWrites]
@[simp] theorem Dev.count_hostNext (a : Nat) (f : Fld) (n : Nat) : (d.count a f n).hostNext = d.hostNext := by obtain e | ⟨w, e⟩ := d.count_cases a f n <;> simp only [e, Dev.setReg_hostNext]
@[simp] theorem Dev.count_sent (a : Nat) (f : Fld) (n : Nat) : (d.count a f n).sent = d.sent := by obtain e | ⟨w, e⟩ := d.count_cases a f n <;> simp only [e, Dev.setReg_sent]
@[simp] theorem Dev.count_tiles (a : Nat) (f : Fld) (n : Nat) : (d.count a f n).tiles = d.tiles := by obtain e | ⟨w, e⟩ := d.count_cases a f n <;> simp only [e, Dev.setReg_tiles]
@[simp] theorem Dev.count_ctrs (a : Nat) (f : Fld) (n : Nat) : (d.count a f n).ctrs = d.ctrs := by obtain e | ⟨w, e⟩ := d.count_cases a f n <;> simp only [e, Dev.setReg_ctrs]
@[simp] theorem Dev.count_cfg (a : Nat) (f : Fld) (n : Nat) : (d.count a f n).cfg = d.cfg := by obtain e | ⟨w, e⟩ := d.count_cases a f n <;> simp only [e, Dev.setReg_cfg]
@[simp] theorem Dev.count_knead (a : Nat) (f : Fld) (n : Nat) : (d.count a f n).knead = d.knead := by obtain e | ⟨w, e⟩ := d.count_cases a f n <;> simp only [e, Dev.setReg_knead]
@[simp] theorem Dev.count_sieves (a : Nat) (f : Fld) (n : Nat) : (d.count a f n).sieves = d.sieves := by obtain e | ⟨w, e⟩ := d.count_cases a f n <;> simp only [e, Dev.setReg_sieves]
@[simp] theorem Dev.count_tiers (a : Nat) (f : Fld) (n : Nat) : (d.count a f n).tiers = d.tiers := by obtain e | ⟨w, e⟩ := d.count_cases a f n <;> simp only [e, Dev.setReg_tiers]
@[simp] theorem Dev.count_asks (a : Nat) (f : Fld) (n : Nat) : (d.count a f n).asks = d.asks := by obtain e | ⟨w, e⟩ := d.count_cases a f n <;> simp only [e, Dev.setReg_asks]
@[simp] theorem Dev.count_trays (a : Nat) (f : Fld) (n : Nat) : (d.count a f n).trays = d.trays := by obtain e | ⟨w, e⟩ := d.count_cases a f n <;> simp only [e, Dev.setReg_trays]
@[simp] theorem Dev.count_sched (a : Nat) (f : Fld) (n : Nat) : (d.count a f n).sched = d.sched := by obtain e | ⟨w, e⟩ := d.count_cases a f n <;> simp only [e, Dev.setReg_sched]
@[simp] theorem Dev.count_sig (a : Nat) (f : Fld) (n : Nat) : (d.count a f n).sig = d.sig := by obtain e | ⟨w, e⟩ := d.count_cases a f n <;> simp only [e, Dev.setReg_sig]
@[simp] theorem Dev.count_codec (a : Nat) (f : Fld) (n : Nat) : (d.count a f n).codec = d.codec := by obtain e | ⟨w, e⟩ := d.count_cases a f n <;> simp only [e, Dev.setReg_codec]
@[simp] theorem Dev.count_radio (a : Nat) (f : Fld) (n : Nat) : (d.count a f n).radio = d.radio := by obtain e | ⟨w, e⟩ := d.count_cases a f n <;> simp only [e, Dev.setReg_radio]
@[simp] theorem Dev.count_ports (a : Nat) (f : Fld) (n : Nat) : (d.count a f n).ports = d.ports := by obtain e | ⟨w, e⟩ := d.count_cases a f n <;> simp only [e, Dev.setReg_ports]
@[simp] theorem Dev.count_time (a : Nat) (f : Fld) (n : Nat) : (d.count a f n).time = d.time := by obtain e | ⟨w, e⟩ := d.count_cases a f n <;> simp only [e, Dev.setReg_time]
@[simp] theorem Dev.count_sampled (a : Nat) (f : Fld) (n : Nat) : (d.count a f n).sampled = d.sampled := by obtain e | ⟨w, e⟩ := d.count_cases a f n <;> simp only [e, Dev.setReg_sampled]
@[simp] theorem Dev.count_braid (a : Nat) (f : Fld) (n : Nat) : (d.count a f n).braid = d.braid := by obtain e | ⟨w, e⟩ := d.count_cases a f n <;> simp only [e, Dev.setReg_braid]
@[simp] theorem Dev.count_power (a : Nat) (f : Fld) (n : Nat) : (d.count a f n).power = d.power := by obtain e | ⟨w, e⟩ := d.count_cases a f n <;> simp only [e, Dev.setReg_power]
@[simp] theorem Dev.count_peelSeen (a : Nat) (f : Fld) (n : Nat) : (d.count a f n).peelSeen = d.peelSeen := by obtain e | ⟨w, e⟩ := d.count_cases a f n <;> simp only [e, Dev.setReg_peelSeen]
@[simp] theorem Dev.count_slices (a : Nat) (f : Fld) (n : Nat) : (d.count a f n).slices = d.slices := by obtain e | ⟨w, e⟩ := d.count_cases a f n <;> simp only [e, Dev.setReg_slices]
@[simp] theorem Dev.count_sliceTick (a : Nat) (f : Fld) (n : Nat) : (d.count a f n).sliceTick = d.sliceTick := by obtain e | ⟨w, e⟩ := d.count_cases a f n <;> simp only [e, Dev.setReg_sliceTick]
@[simp] theorem Dev.count_integ (a : Nat) (f : Fld) (n : Nat) : (d.count a f n).integ = d.integ := by obtain e | ⟨w, e⟩ := d.count_cases a f n <;> simp only [e, Dev.setReg_integ]
@[simp] theorem Dev.count_memb (a : Nat) (f : Fld) (n : Nat) : (d.count a f n).memb = d.memb := by obtain e | ⟨w, e⟩ := d.count_cases a f n <;> simp only [e, Dev.setReg_memb]
@[simp] theorem Dev.count_sp (a : Nat) (f : Fld) (n : Nat) : (d.count a f n).sp = d.sp := by obtain e | ⟨w, e⟩ := d.count_cases a f n <;> simp only [e, Dev.setReg_sp]
@[simp] theorem Dev.count_recipe (a : Nat) (f : Fld) (n : Nat) : (d.count a f n).recipe = d.recipe := by obtain e | ⟨w, e⟩ := d.count_cases a f n <;> simp only [e, Dev.setReg_recipe]
@[simp] theorem Dev.count_byte (a : Nat) (f : Fld) (n : Nat) (r : Nat) : (d.count a f n).byte r = d.byte r := by obtain e | ⟨w, e⟩ := d.count_cases a f n <;> simp only [e, Dev.setReg_byte]
@[simp] theorem Dev.count_errOf (a : Nat) (f : Fld) (n : Nat) (r : Nat) : (d.count a f n).errOf r = d.errOf r := by obtain e | ⟨w, e⟩ := d.count_cases a f n <;> simp only [e, Dev.setReg_errOf]
@[simp] theorem Dev.count_section_ (a : Nat) (f : Fld) (n : Nat) (y r : Nat) : (d.count a f n).section_ y r = d.section_ y r := by obtain e | ⟨w, e⟩ := d.count_cases a f n <;> simp only [e, Dev.setReg_section_]
@[simp] theorem Dev.count_tile (a : Nat) (f : Fld) (n : Nat) (r : Nat) : (d.count a f n).tile r = d.tile r := by obtain e | ⟨w, e⟩ := d.count_cases a f n <;> simp only [e, Dev.setReg_tile]
@[simp] theorem Dev.count_kn (a : Nat) (f : Fld) (n : Nat) (r y : Nat) : (d.count a f n).kn r y = d.kn r y := by obtain e | ⟨w, e⟩ := d.count_cases a f n <;> simp only [e, Dev.setReg_kn]
@[simp] theorem Dev.count_sieve (a : Nat) (f : Fld) (n : Nat) (r y : Nat) : (d.count a f n).sieve r y = d.sieve r y := by obtain e | ⟨w, e⟩ := d.count_cases a f n <;> simp only [e, Dev.setReg_sieve]
@[simp] theorem Dev.count_tier (a : Nat) (f : Fld) (n : Nat) (r : Nat) : (d.count a f n).tier r = d.tier r := by obtain e | ⟨w, e⟩ := d.count_cases a f n <;> simp only [e, Dev.setReg_tier]
@[simp] theorem Dev.count_tray (a : Nat) (f : Fld) (n : Nat) (r : Nat) : (d.count a f n).tray r = d.tray r := by obtain e | ⟨w, e⟩ := d.count_cases a f n <;> simp only [e, Dev.setReg_tray]
@[simp] theorem Dev.count_sch (a : Nat) (f : Fld) (n : Nat) (r : Nat) : (d.count a f n).sch r = d.sch r := by obtain e | ⟨w, e⟩ := d.count_cases a f n <;> simp only [e, Dev.setReg_sch]
@[simp] theorem Dev.count_sg (a : Nat) (f : Fld) (n : Nat) (r y : Nat) : (d.count a f n).sg r y = d.sg r y := by obtain e | ⟨w, e⟩ := d.count_cases a f n <;> simp only [e, Dev.setReg_sg]
@[simp] theorem Dev.count_codecSt (a : Nat) (f : Fld) (n : Nat) (r y : Nat) : (d.count a f n).codecSt r y = d.codecSt r y := by obtain e | ⟨w, e⟩ := d.count_cases a f n <;> simp only [e, Dev.setReg_codecSt]
@[simp] theorem Dev.count_rad (a : Nat) (f : Fld) (n : Nat) (r : Nat) : (d.count a f n).rad r = d.rad r := by obtain e | ⟨w, e⟩ := d.count_cases a f n <;> simp only [e, Dev.setReg_rad]
@[simp] theorem Dev.count_port (a : Nat) (f : Fld) (n : Nat) (y : GatePort) : (d.count a f n).port y = d.port y := by obtain e | ⟨w, e⟩ := d.count_cases a f n <;> simp only [e, Dev.setReg_port]
@[simp] theorem Dev.count_sli (a : Nat) (f : Fld) (n : Nat) (r : Nat) : (d.count a f n).sli r = d.sli r := by obtain e | ⟨w, e⟩ := d.count_cases a f n <;> simp only [e, Dev.setReg_sli]
@[simp] theorem Dev.count_pair (a : Nat) (f : Fld) (n : Nat) (r : Nat) : (d.count a f n).pair r = d.pair r := by obtain e | ⟨w, e⟩ := d.count_cases a f n <;> simp only [e, Dev.setReg_pair]
@[simp] theorem Dev.count_far (a : Nat) (f : Fld) (n : Nat) (r : Nat) : (d.count a f n).far r = d.far r := by obtain e | ⟨w, e⟩ := d.count_cases a f n <;> simp only [e, Dev.setReg_far]
@[simp] theorem Dev.count_blink (a : Nat) (f : Fld) (n : Nat) (r : Nat) : (d.count a f n).blink r = d.blink r := by obtain e | ⟨w, e⟩ := d.count_cases a f n <;> simp only [e, Dev.setReg_blink]

/-! ### The state -/

@[simp] theorem State.dev_of (s : State) (e : Dev) : ({ s with dev := e } : State).dev = e := rfl
@[simp] theorem State.pending_of (s : State) (e : Dev) : ({ s with dev := e } : State).pending = s.pending := rfl
@[simp] theorem State.dev_of_pending (s : State) (q : List Instr) : ({ s with pending := q } : State).dev = s.dev := rfl
@[simp] theorem State.pending_of_pending (s : State) (q : List Instr) : ({ s with pending := q } : State).pending = q := rfl

/-! ### Units read back -/

/-- The unit set reads back. -/
theorem Dev.tile_setTile (t : Nat) (x : TileState) (h : d.canon) : (d.setTile t x).tile t = x :=
  look_store_self (SMap.wf_rising (Dev.canon_tiles h))
/-- Every other such unit is as it was. -/
theorem Dev.tile_setTile_ne (t : Nat) (t' : Nat) (x : TileState) (h : d.canon) (hne : t ≠ t') : (d.setTile t x).tile t' = d.tile t' :=
  look_store_ne (SMap.wf_rising (Dev.canon_tiles h)) hne
/-- The unit set reads back. -/
theorem Dev.kn_setKn (t k : Nat) (x : KneadCore) (h : d.canon) : (d.setKn t k x).kn t k = x :=
  look_store_self (SMap.wf_rising (Dev.canon_knead h))
/-- Every other such unit is as it was. -/
theorem Dev.kn_setKn_ne (t k : Nat) (t' k' : Nat) (x : KneadCore) (h : d.canon) (hne : (kKey t k) ≠ (kKey t' k')) : (d.setKn t k x).kn t' k' = d.kn t' k' :=
  look_store_ne (SMap.wf_rising (Dev.canon_knead h)) hne
/-- The unit set reads back. -/
theorem Dev.sieve_setSieve (t i : Nat) (x : SieveState) (h : d.canon) : (d.setSieve t i x).sieve t i = x :=
  look_store_self (SMap.wf_rising (Dev.canon_sieves h))
/-- Every other such unit is as it was. -/
theorem Dev.sieve_setSieve_ne (t i : Nat) (t' i' : Nat) (x : SieveState) (h : d.canon) (hne : (32 * t + i) ≠ (32 * t' + i')) : (d.setSieve t i x).sieve t' i' = d.sieve t' i' :=
  look_store_ne (SMap.wf_rising (Dev.canon_sieves h)) hne
/-- The unit set reads back. -/
theorem Dev.tier_setTier (t : Nat) (x : TierState) (h : d.canon) : (d.setTier t x).tier t = x :=
  look_store_self (SMap.wf_rising (Dev.canon_tiers h))
/-- Every other such unit is as it was. -/
theorem Dev.tier_setTier_ne (t : Nat) (t' : Nat) (x : TierState) (h : d.canon) (hne : t ≠ t') : (d.setTier t x).tier t' = d.tier t' :=
  look_store_ne (SMap.wf_rising (Dev.canon_tiers h)) hne
/-- The unit set reads back. -/
theorem Dev.tray_setTray (n : Nat) (x : TrayState) (h : d.canon) : (d.setTray n x).tray n = x :=
  look_store_self (SMap.wf_rising (Dev.canon_trays h))
/-- Every other such unit is as it was. -/
theorem Dev.tray_setTray_ne (n : Nat) (n' : Nat) (x : TrayState) (h : d.canon) (hne : n ≠ n') : (d.setTray n x).tray n' = d.tray n' :=
  look_store_ne (SMap.wf_rising (Dev.canon_trays h)) hne
/-- The unit set reads back. -/
theorem Dev.sch_setSch (t : Nat) (x : Sched) (h : d.canon) : (d.setSch t x).sch t = x :=
  look_store_self (SMap.wf_rising (Dev.canon_sched h))
/-- Every other such unit is as it was. -/
theorem Dev.sch_setSch_ne (t : Nat) (t' : Nat) (x : Sched) (h : d.canon) (hne : t ≠ t') : (d.setSch t x).sch t' = d.sch t' :=
  look_store_ne (SMap.wf_rising (Dev.canon_sched h)) hne
/-- The unit set reads back. -/
theorem Dev.sg_setSg (t i : Nat) (x : SigCoreState) (h : d.canon) : (d.setSg t i x).sg t i = x :=
  look_store_self (SMap.wf_rising (Dev.canon_sig h))
/-- Every other such unit is as it was. -/
theorem Dev.sg_setSg_ne (t i : Nat) (t' i' : Nat) (x : SigCoreState) (h : d.canon) (hne : (8 * t + i) ≠ (8 * t' + i')) : (d.setSg t i x).sg t' i' = d.sg t' i' :=
  look_store_ne (SMap.wf_rising (Dev.canon_sig h)) hne
/-- The unit set reads back. -/
theorem Dev.codecSt_setCodec (t e : Nat) (x : CodecState) (h : d.canon) : (d.setCodec t e x).codecSt t e = x :=
  look_store_self (SMap.wf_rising (Dev.canon_codec h))
/-- Every other such unit is as it was. -/
theorem Dev.codecSt_setCodec_ne (t e : Nat) (t' e' : Nat) (x : CodecState) (h : d.canon) (hne : (8 * t + e) ≠ (8 * t' + e')) : (d.setCodec t e x).codecSt t' e' = d.codecSt t' e' :=
  look_store_ne (SMap.wf_rising (Dev.canon_codec h)) hne
/-- The unit set reads back. -/
theorem Dev.rad_setRad (t : Nat) (x : RadioState) (h : d.canon) : (d.setRad t x).rad t = x :=
  look_store_self (SMap.wf_rising (Dev.canon_radio h))
/-- Every other such unit is as it was. -/
theorem Dev.rad_setRad_ne (t : Nat) (t' : Nat) (x : RadioState) (h : d.canon) (hne : t ≠ t') : (d.setRad t x).rad t' = d.rad t' :=
  look_store_ne (SMap.wf_rising (Dev.canon_radio h)) hne
/-- The unit set reads back. -/
theorem Dev.port_setPort (g : GatePort) (x : PortState) (h : d.canon) : (d.setPort g x).port g = x :=
  look_store_self (SMap.wf_rising (Dev.canon_ports h))
/-- Every other such unit is as it was. -/
theorem Dev.port_setPort_ne (g : GatePort) (g' : GatePort) (x : PortState) (h : d.canon) (hne : (gpKey g) ≠ (gpKey g')) : (d.setPort g x).port g' = d.port g' :=
  look_store_ne (SMap.wf_rising (Dev.canon_ports h)) hne
/-- The unit set reads back. -/
theorem Dev.sli_setSli (s : Nat) (x : SliceState) (h : d.canon) : (d.setSli s x).sli s = x :=
  look_store_self (SMap.wf_rising (Dev.canon_slices h))
/-- Every other such unit is as it was. -/
theorem Dev.sli_setSli_ne (s : Nat) (s' : Nat) (x : SliceState) (h : d.canon) (hne : s ≠ s') : (d.setSli s x).sli s' = d.sli s' :=
  look_store_ne (SMap.wf_rising (Dev.canon_slices h)) hne
/-- The unit set reads back. -/
theorem Dev.pair_setPair (n : Nat) (x : BraidSrc) (h : d.canon) : (d.setPair n x).pair n = x :=
  look_store_self (SMap.wf_rising (Dev.canon_pairs h))
/-- Every other such unit is as it was. -/
theorem Dev.pair_setPair_ne (n : Nat) (n' : Nat) (x : BraidSrc) (h : d.canon) (hne : n ≠ n') : (d.setPair n x).pair n' = d.pair n' :=
  look_store_ne (SMap.wf_rising (Dev.canon_pairs h)) hne
/-- The unit set reads back. -/
theorem Dev.far_setFar (n : Nat) (x : BraidDst) (h : d.canon) : (d.setFar n x).far n = x :=
  look_store_self (SMap.wf_rising (Dev.canon_dests h))
/-- Every other such unit is as it was. -/
theorem Dev.far_setFar_ne (n : Nat) (n' : Nat) (x : BraidDst) (h : d.canon) (hne : n ≠ n') : (d.setFar n x).far n' = d.far n' :=
  look_store_ne (SMap.wf_rising (Dev.canon_dests h)) hne
/-- The unit set reads back. -/
theorem Dev.blink_setBlink (n : Nat) (x : BraidLink) (h : d.canon) : (d.setBlink n x).blink n = x :=
  look_store_self (SMap.wf_rising (Dev.canon_links h))
/-- Every other such unit is as it was. -/
theorem Dev.blink_setBlink_ne (n : Nat) (n' : Nat) (x : BraidLink) (h : d.canon) (hne : n ≠ n') : (d.setBlink n x).blink n' = d.blink n' :=
  look_store_ne (SMap.wf_rising (Dev.canon_links h)) hne

end Sys2Proof.Machine
end

