-- ==== Sys2Proof/Laws/Time.lean ====
section
/-! SUPPORT. Time: what the passing of device time changes: the clock, the tiles' positions, and the lag registers. -/
namespace Sys2Proof.Machine

/-- What every step of a fold keeps, the fold keeps. -/
theorem foldl_keeps {α β γ : Type} {f : β → α → β} (g : β → γ) (h : ∀ b a, g (f b a) = g b) (l : List α) (b : β) : g (l.foldl f b) = g b := by
  induction l generalizing b with
  | nil => rfl
  | cons x r ih => rw [List.foldl_cons, ih, h]

variable (d : Dev)

/-- As time passes a paused tile's lag grows or nothing happens, and a running tile moves on. -/
theorem Dev.advanceTile_cases (n t : Nat) :
    (∃ a b, d.advanceTile n t = d.setFs (Reg.TICK_TILE_STATUS t) [(F.TICK_TILE_STATUS_LAG, a), (F.TICK_TILE_STATUS_MAX_LAG, b)]) ∨
    d.advanceTile n t = d ∨
    (d.paused t = false ∧ ∃ p, d.advanceTile n t = d.setTile t { d.tile t with pos := p, lk := (d.tile t).lk + n }) := by
  unfold Dev.advanceTile
  by_cases h : d.paused t = true
  · by_cases h2 : (d.tile t).pos < d.bStart
    · simp only [h, h2, if_true]; exact .inl ⟨_, _, rfl⟩
    · simp only [h, h2, if_true, if_false]; exact .inr (.inl trivial)
  · simp only [Bool.not_eq_true] at h; simp only [h, if_false, Bool.false_eq_true]; exact .inr (.inr ⟨trivial, _, rfl⟩)

theorem Dev.advanceTile_edge (n t : Nat) : (d.advanceTile n t).edge = d.edge := by
  rcases d.advanceTile_cases n t with ⟨_, _, h⟩ | h | ⟨_, _, h⟩ <;> simp only [h, Dev.setFs_edge, Dev.setTile_edge]
@[simp] theorem Dev.advance_edge (n : Nat) : (d.advance n).edge = d.edge := by
  rw [Dev.advance]
  by_cases h : (n == 0) = true
  · rw [if_pos h]
  · rw [if_neg h]; exact foldl_keeps (·.edge) (fun d t => Dev.advanceTile_edge d n t) _ _
theorem Dev.advanceTile_free (n t : Nat) : (d.advanceTile n t).free = d.free := by
  rcases d.advanceTile_cases n t with ⟨_, _, h⟩ | h | ⟨_, _, h⟩ <;> simp only [h, Dev.setFs_free, Dev.setTile_free]
@[simp] theorem Dev.advance_free (n : Nat) : (d.advance n).free = d.free := by
  rw [Dev.advance]
  by_cases h : (n == 0) = true
  · rw [if_pos h]
  · rw [if_neg h]; exact foldl_keeps (·.free) (fun d t => Dev.advanceTile_free d n t) _ _
theorem Dev.advanceTile_readOut (n t : Nat) : (d.advanceTile n t).readOut = d.readOut := by
  rcases d.advanceTile_cases n t with ⟨_, _, h⟩ | h | ⟨_, _, h⟩ <;> simp only [h, Dev.setFs_readOut, Dev.setTile_readOut]
@[simp] theorem Dev.advance_readOut (n : Nat) : (d.advance n).readOut = d.readOut := by
  rw [Dev.advance]
  by_cases h : (n == 0) = true
  · rw [if_pos h]
  · rw [if_neg h]; exact foldl_keeps (·.readOut) (fun d t => Dev.advanceTile_readOut d n t) _ _
theorem Dev.advanceTile_mem (n t : Nat) : (d.advanceTile n t).mem = d.mem := by
  rcases d.advanceTile_cases n t with ⟨_, _, h⟩ | h | ⟨_, _, h⟩ <;> simp only [h, Dev.setFs_mem, Dev.setTile_mem]
@[simp] theorem Dev.advance_mem (n : Nat) : (d.advance n).mem = d.mem := by
  rw [Dev.advance]
  by_cases h : (n == 0) = true
  · rw [if_pos h]
  · rw [if_neg h]; exact foldl_keeps (·.mem) (fun d t => Dev.advanceTile_mem d n t) _ _
theorem Dev.advanceTile_lineErr (n t : Nat) : (d.advanceTile n t).lineErr = d.lineErr := by
  rcases d.advanceTile_cases n t with ⟨_, _, h⟩ | h | ⟨_, _, h⟩ <;> simp only [h, Dev.setFs_lineErr, Dev.setTile_lineErr]
@[simp] theorem Dev.advance_lineErr (n : Nat) : (d.advance n).lineErr = d.lineErr := by
  rw [Dev.advance]
  by_cases h : (n == 0) = true
  · rw [if_pos h]
  · rw [if_neg h]; exact foldl_keeps (·.lineErr) (fun d t => Dev.advanceTile_lineErr d n t) _ _
theorem Dev.advanceTile_written (n t : Nat) : (d.advanceTile n t).written = d.written := by
  rcases d.advanceTile_cases n t with ⟨_, _, h⟩ | h | ⟨_, _, h⟩ <;> simp only [h, Dev.setFs_written, Dev.setTile_written]
@[simp] theorem Dev.advance_written (n : Nat) : (d.advance n).written = d.written := by
  rw [Dev.advance]
  by_cases h : (n == 0) = true
  · rw [if_pos h]
  · rw [if_neg h]; exact foldl_keeps (·.written) (fun d t => Dev.advanceTile_written d n t) _ _
theorem Dev.advanceTile_ev (n t : Nat) : (d.advanceTile n t).ev = d.ev := by
  rcases d.advanceTile_cases n t with ⟨_, _, h⟩ | h | ⟨_, _, h⟩ <;> simp only [h, Dev.setFs_ev, Dev.setTile_ev]
@[simp] theorem Dev.advance_ev (n : Nat) : (d.advance n).ev = d.ev := by
  rw [Dev.advance]
  by_cases h : (n == 0) = true
  · rw [if_pos h]
  · rw [if_neg h]; exact foldl_keeps (·.ev) (fun d t => Dev.advanceTile_ev d n t) _ _
theorem Dev.advanceTile_hostWrites (n t : Nat) : (d.advanceTile n t).hostWrites = d.hostWrites := by
  rcases d.advanceTile_cases n t with ⟨_, _, h⟩ | h | ⟨_, _, h⟩ <;> simp only [h, Dev.setFs_hostWrites, Dev.setTile_hostWrites]
@[simp] theorem Dev.advance_hostWrites (n : Nat) : (d.advance n).hostWrites = d.hostWrites := by
  rw [Dev.advance]
  by_cases h : (n == 0) = true
  · rw [if_pos h]
  · rw [if_neg h]; exact foldl_keeps (·.hostWrites) (fun d t => Dev.advanceTile_hostWrites d n t) _ _
theorem Dev.advanceTile_hostNext (n t : Nat) : (d.advanceTile n t).hostNext = d.hostNext := by
  rcases d.advanceTile_cases n t with ⟨_, _, h⟩ | h | ⟨_, _, h⟩ <;> simp only [h, Dev.setFs_hostNext, Dev.setTile_hostNext]
@[simp] theorem Dev.advance_hostNext (n : Nat) : (d.advance n).hostNext = d.hostNext := by
  rw [Dev.advance]
  by_cases h : (n == 0) = true
  · rw [if_pos h]
  · rw [if_neg h]; exact foldl_keeps (·.hostNext) (fun d t => Dev.advanceTile_hostNext d n t) _ _
theorem Dev.advanceTile_sent (n t : Nat) : (d.advanceTile n t).sent = d.sent := by
  rcases d.advanceTile_cases n t with ⟨_, _, h⟩ | h | ⟨_, _, h⟩ <;> simp only [h, Dev.setFs_sent, Dev.setTile_sent]
@[simp] theorem Dev.advance_sent (n : Nat) : (d.advance n).sent = d.sent := by
  rw [Dev.advance]
  by_cases h : (n == 0) = true
  · rw [if_pos h]
  · rw [if_neg h]; exact foldl_keeps (·.sent) (fun d t => Dev.advanceTile_sent d n t) _ _
theorem Dev.advanceTile_ctrs (n t : Nat) : (d.advanceTile n t).ctrs = d.ctrs := by
  rcases d.advanceTile_cases n t with ⟨_, _, h⟩ | h | ⟨_, _, h⟩ <;> simp only [h, Dev.setFs_ctrs, Dev.setTile_ctrs]
@[simp] theorem Dev.advance_ctrs (n : Nat) : (d.advance n).ctrs = d.ctrs := by
  rw [Dev.advance]
  by_cases h : (n == 0) = true
  · rw [if_pos h]
  · rw [if_neg h]; exact foldl_keeps (·.ctrs) (fun d t => Dev.advanceTile_ctrs d n t) _ _
theorem Dev.advanceTile_cfg (n t : Nat) : (d.advanceTile n t).cfg = d.cfg := by
  rcases d.advanceTile_cases n t with ⟨_, _, h⟩ | h | ⟨_, _, h⟩ <;> simp only [h, Dev.setFs_cfg, Dev.setTile_cfg]
@[simp] theorem Dev.advance_cfg (n : Nat) : (d.advance n).cfg = d.cfg := by
  rw [Dev.advance]
  by_cases h : (n == 0) = true
  · rw [if_pos h]
  · rw [if_neg h]; exact foldl_keeps (·.cfg) (fun d t => Dev.advanceTile_cfg d n t) _ _
theorem Dev.advanceTile_knead (n t : Nat) : (d.advanceTile n t).knead = d.knead := by
  rcases d.advanceTile_cases n t with ⟨_, _, h⟩ | h | ⟨_, _, h⟩ <;> simp only [h, Dev.setFs_knead, Dev.setTile_knead]
@[simp] theorem Dev.advance_knead (n : Nat) : (d.advance n).knead = d.knead := by
  rw [Dev.advance]
  by_cases h : (n == 0) = true
  · rw [if_pos h]
  · rw [if_neg h]; exact foldl_keeps (·.knead) (fun d t => Dev.advanceTile_knead d n t) _ _
theorem Dev.advanceTile_sieves (n t : Nat) : (d.advanceTile n t).sieves = d.sieves := by
  rcases d.advanceTile_cases n t with ⟨_, _, h⟩ | h | ⟨_, _, h⟩ <;> simp only [h, Dev.setFs_sieves, Dev.setTile_sieves]
@[simp] theorem Dev.advance_sieves (n : Nat) : (d.advance n).sieves = d.sieves := by
  rw [Dev.advance]
  by_cases h : (n == 0) = true
  · rw [if_pos h]
  · rw [if_neg h]; exact foldl_keeps (·.sieves) (fun d t => Dev.advanceTile_sieves d n t) _ _
theorem Dev.advanceTile_tiers (n t : Nat) : (d.advanceTile n t).tiers = d.tiers := by
  rcases d.advanceTile_cases n t with ⟨_, _, h⟩ | h | ⟨_, _, h⟩ <;> simp only [h, Dev.setFs_tiers, Dev.setTile_tiers]
@[simp] theorem Dev.advance_tiers (n : Nat) : (d.advance n).tiers = d.tiers := by
  rw [Dev.advance]
  by_cases h : (n == 0) = true
  · rw [if_pos h]
  · rw [if_neg h]; exact foldl_keeps (·.tiers) (fun d t => Dev.advanceTile_tiers d n t) _ _
theorem Dev.advanceTile_asks (n t : Nat) : (d.advanceTile n t).asks = d.asks := by
  rcases d.advanceTile_cases n t with ⟨_, _, h⟩ | h | ⟨_, _, h⟩ <;> simp only [h, Dev.setFs_asks, Dev.setTile_asks]
@[simp] theorem Dev.advance_asks (n : Nat) : (d.advance n).asks = d.asks := by
  rw [Dev.advance]
  by_cases h : (n == 0) = true
  · rw [if_pos h]
  · rw [if_neg h]; exact foldl_keeps (·.asks) (fun d t => Dev.advanceTile_asks d n t) _ _
theorem Dev.advanceTile_trays (n t : Nat) : (d.advanceTile n t).trays = d.trays := by
  rcases d.advanceTile_cases n t with ⟨_, _, h⟩ | h | ⟨_, _, h⟩ <;> simp only [h, Dev.setFs_trays, Dev.setTile_trays]
@[simp] theorem Dev.advance_trays (n : Nat) : (d.advance n).trays = d.trays := by
  rw [Dev.advance]
  by_cases h : (n == 0) = true
  · rw [if_pos h]
  · rw [if_neg h]; exact foldl_keeps (·.trays) (fun d t => Dev.advanceTile_trays d n t) _ _
theorem Dev.advanceTile_sched (n t : Nat) : (d.advanceTile n t).sched = d.sched := by
  rcases d.advanceTile_cases n t with ⟨_, _, h⟩ | h | ⟨_, _, h⟩ <;> simp only [h, Dev.setFs_sched, Dev.setTile_sched]
@[simp] theorem Dev.advance_sched (n : Nat) : (d.advance n).sched = d.sched := by
  rw [Dev.advance]
  by_cases h : (n == 0) = true
  · rw [if_pos h]
  · rw [if_neg h]; exact foldl_keeps (·.sched) (fun d t => Dev.advanceTile_sched d n t) _ _
theorem Dev.advanceTile_sig (n t : Nat) : (d.advanceTile n t).sig = d.sig := by
  rcases d.advanceTile_cases n t with ⟨_, _, h⟩ | h | ⟨_, _, h⟩ <;> simp only [h, Dev.setFs_sig, Dev.setTile_sig]
@[simp] theorem Dev.advance_sig (n : Nat) : (d.advance n).sig = d.sig := by
  rw [Dev.advance]
  by_cases h : (n == 0) = true
  · rw [if_pos h]
  · rw [if_neg h]; exact foldl_keeps (·.sig) (fun d t => Dev.advanceTile_sig d n t) _ _
theorem Dev.advanceTile_codec (n t : Nat) : (d.advanceTile n t).codec = d.codec := by
  rcases d.advanceTile_cases n t with ⟨_, _, h⟩ | h | ⟨_, _, h⟩ <;> simp only [h, Dev.setFs_codec, Dev.setTile_codec]
@[simp] theorem Dev.advance_codec (n : Nat) : (d.advance n).codec = d.codec := by
  rw [Dev.advance]
  by_cases h : (n == 0) = true
  · rw [if_pos h]
  · rw [if_neg h]; exact foldl_keeps (·.codec) (fun d t => Dev.advanceTile_codec d n t) _ _
theorem Dev.advanceTile_radio (n t : Nat) : (d.advanceTile n t).radio = d.radio := by
  rcases d.advanceTile_cases n t with ⟨_, _, h⟩ | h | ⟨_, _, h⟩ <;> simp only [h, Dev.setFs_radio, Dev.setTile_radio]
@[simp] theorem Dev.advance_radio (n : Nat) : (d.advance n).radio = d.radio := by
  rw [Dev.advance]
  by_cases h : (n == 0) = true
  · rw [if_pos h]
  · rw [if_neg h]; exact foldl_keeps (·.radio) (fun d t => Dev.advanceTile_radio d n t) _ _
theorem Dev.advanceTile_ports (n t : Nat) : (d.advanceTile n t).ports = d.ports := by
  rcases d.advanceTile_cases n t with ⟨_, _, h⟩ | h | ⟨_, _, h⟩ <;> simp only [h, Dev.setFs_ports, Dev.setTile_ports]
@[simp] theorem Dev.advance_ports (n : Nat) : (d.advance n).ports = d.ports := by
  rw [Dev.advance]
  by_cases h : (n == 0) = true
  · rw [if_pos h]
  · rw [if_neg h]; exact foldl_keeps (·.ports) (fun d t => Dev.advanceTile_ports d n t) _ _
theorem Dev.advanceTile_time (n t : Nat) : (d.advanceTile n t).time = d.time := by
  rcases d.advanceTile_cases n t with ⟨_, _, h⟩ | h | ⟨_, _, h⟩ <;> simp only [h, Dev.setFs_time, Dev.setTile_time]
@[simp] theorem Dev.advance_time (n : Nat) : (d.advance n).time = d.time := by
  rw [Dev.advance]
  by_cases h : (n == 0) = true
  · rw [if_pos h]
  · rw [if_neg h]; exact foldl_keeps (·.time) (fun d t => Dev.advanceTile_time d n t) _ _
theorem Dev.advanceTile_sampled (n t : Nat) : (d.advanceTile n t).sampled = d.sampled := by
  rcases d.advanceTile_cases n t with ⟨_, _, h⟩ | h | ⟨_, _, h⟩ <;> simp only [h, Dev.setFs_sampled, Dev.setTile_sampled]
@[simp] theorem Dev.advance_sampled (n : Nat) : (d.advance n).sampled = d.sampled := by
  rw [Dev.advance]
  by_cases h : (n == 0) = true
  · rw [if_pos h]
  · rw [if_neg h]; exact foldl_keeps (·.sampled) (fun d t => Dev.advanceTile_sampled d n t) _ _
theorem Dev.advanceTile_braid (n t : Nat) : (d.advanceTile n t).braid = d.braid := by
  rcases d.advanceTile_cases n t with ⟨_, _, h⟩ | h | ⟨_, _, h⟩ <;> simp only [h, Dev.setFs_braid, Dev.setTile_braid]
@[simp] theorem Dev.advance_braid (n : Nat) : (d.advance n).braid = d.braid := by
  rw [Dev.advance]
  by_cases h : (n == 0) = true
  · rw [if_pos h]
  · rw [if_neg h]; exact foldl_keeps (·.braid) (fun d t => Dev.advanceTile_braid d n t) _ _
theorem Dev.advanceTile_power (n t : Nat) : (d.advanceTile n t).power = d.power := by
  rcases d.advanceTile_cases n t with ⟨_, _, h⟩ | h | ⟨_, _, h⟩ <;> simp only [h, Dev.setFs_power, Dev.setTile_power]
@[simp] theorem Dev.advance_power (n : Nat) : (d.advance n).power = d.power := by
  rw [Dev.advance]
  by_cases h : (n == 0) = true
  · rw [if_pos h]
  · rw [if_neg h]; exact foldl_keeps (·.power) (fun d t => Dev.advanceTile_power d n t) _ _
theorem Dev.advanceTile_peelSeen (n t : Nat) : (d.advanceTile n t).peelSeen = d.peelSeen := by
  rcases d.advanceTile_cases n t with ⟨_, _, h⟩ | h | ⟨_, _, h⟩ <;> simp only [h, Dev.setFs_peelSeen, Dev.setTile_peelSeen]
@[simp] theorem Dev.advance_peelSeen (n : Nat) : (d.advance n).peelSeen = d.peelSeen := by
  rw [Dev.advance]
  by_cases h : (n == 0) = true
  · rw [if_pos h]
  · rw [if_neg h]; exact foldl_keeps (·.peelSeen) (fun d t => Dev.advanceTile_peelSeen d n t) _ _
theorem Dev.advanceTile_slices (n t : Nat) : (d.advanceTile n t).slices = d.slices := by
  rcases d.advanceTile_cases n t with ⟨_, _, h⟩ | h | ⟨_, _, h⟩ <;> simp only [h, Dev.setFs_slices, Dev.setTile_slices]
@[simp] theorem Dev.advance_slices (n : Nat) : (d.advance n).slices = d.slices := by
  rw [Dev.advance]
  by_cases h : (n == 0) = true
  · rw [if_pos h]
  · rw [if_neg h]; exact foldl_keeps (·.slices) (fun d t => Dev.advanceTile_slices d n t) _ _
theorem Dev.advanceTile_sliceTick (n t : Nat) : (d.advanceTile n t).sliceTick = d.sliceTick := by
  rcases d.advanceTile_cases n t with ⟨_, _, h⟩ | h | ⟨_, _, h⟩ <;> simp only [h, Dev.setFs_sliceTick, Dev.setTile_sliceTick]
@[simp] theorem Dev.advance_sliceTick (n : Nat) : (d.advance n).sliceTick = d.sliceTick := by
  rw [Dev.advance]
  by_cases h : (n == 0) = true
  · rw [if_pos h]
  · rw [if_neg h]; exact foldl_keeps (·.sliceTick) (fun d t => Dev.advanceTile_sliceTick d n t) _ _
theorem Dev.advanceTile_integ (n t : Nat) : (d.advanceTile n t).integ = d.integ := by
  rcases d.advanceTile_cases n t with ⟨_, _, h⟩ | h | ⟨_, _, h⟩ <;> simp only [h, Dev.setFs_integ, Dev.setTile_integ]
@[simp] theorem Dev.advance_integ (n : Nat) : (d.advance n).integ = d.integ := by
  rw [Dev.advance]
  by_cases h : (n == 0) = true
  · rw [if_pos h]
  · rw [if_neg h]; exact foldl_keeps (·.integ) (fun d t => Dev.advanceTile_integ d n t) _ _
theorem Dev.advanceTile_memb (n t : Nat) : (d.advanceTile n t).memb = d.memb := by
  rcases d.advanceTile_cases n t with ⟨_, _, h⟩ | h | ⟨_, _, h⟩ <;> simp only [h, Dev.setFs_memb, Dev.setTile_memb]
@[simp] theorem Dev.advance_memb (n : Nat) : (d.advance n).memb = d.memb := by
  rw [Dev.advance]
  by_cases h : (n == 0) = true
  · rw [if_pos h]
  · rw [if_neg h]; exact foldl_keeps (·.memb) (fun d t => Dev.advanceTile_memb d n t) _ _
theorem Dev.advanceTile_sp (n t : Nat) : (d.advanceTile n t).sp = d.sp := by
  rcases d.advanceTile_cases n t with ⟨_, _, h⟩ | h | ⟨_, _, h⟩ <;> simp only [h, Dev.setFs_sp, Dev.setTile_sp]
@[simp] theorem Dev.advance_sp (n : Nat) : (d.advance n).sp = d.sp := by
  rw [Dev.advance]
  by_cases h : (n == 0) = true
  · rw [if_pos h]
  · rw [if_neg h]; exact foldl_keeps (·.sp) (fun d t => Dev.advanceTile_sp d n t) _ _
theorem Dev.advanceTile_recipe (n t : Nat) : (d.advanceTile n t).recipe = d.recipe := by
  rcases d.advanceTile_cases n t with ⟨_, _, h⟩ | h | ⟨_, _, h⟩ <;> simp only [h, Dev.setFs_recipe, Dev.setTile_recipe]
@[simp] theorem Dev.advance_recipe (n : Nat) : (d.advance n).recipe = d.recipe := by
  rw [Dev.advance]
  by_cases h : (n == 0) = true
  · rw [if_pos h]
  · rw [if_neg h]; exact foldl_keeps (·.recipe) (fun d t => Dev.advanceTile_recipe d n t) _ _
theorem Dev.advanceTile_now (n t : Nat) : (d.advanceTile n t).now = d.now := by
  rcases d.advanceTile_cases n t with ⟨_, _, h⟩ | h | ⟨_, _, h⟩ <;> simp only [h, Dev.setFs_now, Dev.setTile_now]
@[simp] theorem Dev.advance_now (n : Nat) : (d.advance n).now = d.now + n * kcU := by
  rw [Dev.advance]
  by_cases h : (n == 0) = true
  · rw [if_pos h, beq_iff_eq.1 h]; omega
  · rw [if_neg h]; exact foldl_keeps (·.now) (fun d t => Dev.advanceTile_now d n t) _ _
@[simp] theorem Dev.advance_zero : d.advance 0 = d := rfl

variable {d}

theorem Dev.canon_setTile (t : Nat) (x : TileState) (h : d.canon) : (d.setTile t x).canon := by
  simpa only [Dev.canon, Dev.setTile, SMap.wf_store (d := fun _ => TileState.init) t x (Dev.canon_tiles h), Dev.canon_tiles h, true_and] using h
theorem Dev.canon_advanceTile (n t : Nat) (h : d.canon) : (d.advanceTile n t).canon := by
  rcases d.advanceTile_cases n t with ⟨_, _, e⟩ | e | ⟨_, _, e⟩ <;> rw [e]
  · exact Dev.canon_setFs _ _ h
  · exact h
  · exact Dev.canon_setTile _ _ h
/-- The clock alone changes no store. -/
theorem Dev.canon_now (u : Nat) (h : d.canon) : ({ d with now := u } : Dev).canon :=
  Dev.canon_of h rfl rfl rfl rfl rfl rfl rfl rfl rfl rfl rfl rfl rfl rfl rfl rfl rfl rfl rfl
/-- The passing of time keeps the canonical form. -/
theorem Dev.canon_advance (n : Nat) (h : d.canon) : (d.advance n).canon := by
  rw [Dev.advance]
  by_cases e : (n == 0) = true
  · rw [if_pos e]; exact h
  · rw [if_neg e]; exact Dev.canon_foldl _ _ (fun _ _ hd => Dev.canon_advanceTile _ _ hd) (Dev.canon_now _ h)
theorem Dev.canon_advanceTo (u : Nat) (h : d.canon) : (d.advanceTo u).canon := Dev.canon_advance _ h

/-- A register that shows no lag keeps its value. -/
theorem Dev.reg_advanceTile (n t : Nat) {a : Nat} (h : d.canon) (ha : a ≠ Reg.TICK_TILE_STATUS t) : (d.advanceTile n t).reg a = d.reg a := by
  rcases d.advanceTile_cases n t with ⟨_, _, e⟩ | e | ⟨_, _, e⟩ <;> rw [e]
  · exact Dev.reg_setReg_ne _ h (Ne.symm ha)
  · rfl

theorem Dev.reg_advanceTiles (n : Nat) (l : List Nat) {a : Nat} (h : d.canon) (ha : ∀ t ∈ l, a ≠ Reg.TICK_TILE_STATUS t) :
    (l.foldl (Dev.advanceTile n) d).reg a = d.reg a := by
  induction l generalizing d with
  | nil => rfl
  | cons t r ih =>
    rw [List.foldl_cons, ih (Dev.canon_advanceTile n t h) (fun u hu => ha u (List.mem_cons_of_mem _ hu)),
      Dev.reg_advanceTile n t h (ha t (List.mem_cons_self ..))]

theorem lagReg_of_mem {t : Nat} (h : t ∈ tiles6) : lagReg (Reg.TICK_TILE_STATUS t) := by
  have h6 : t < 6 := by simp only [tiles6, List.mem_cons, List.not_mem_nil, or_false] at h; omega
  exact ⟨⟨t, h6⟩, rfl⟩

/-- Every register but the lag registers keeps its value as time passes. -/
theorem Dev.reg_advance (n : Nat) {a : Nat} (h : d.canon) (ha : ¬ lagReg a) : (d.advance n).reg a = d.reg a := by
  rw [Dev.advance]
  by_cases e : (n == 0) = true
  · rw [if_pos e]
  · rw [if_neg e, Dev.reg_advanceTiles n tiles6 (Dev.canon_now _ h) (fun t ht e => ha (by rw [e]; exact lagReg_of_mem ht))]
    rfl
theorem Dev.getF_advance (n : Nat) {a : Nat} (f : Fld) (h : d.canon) (ha : ¬ lagReg a) : (d.advance n).getF a f = d.getF a f := by
  rw [Dev.getF, Dev.reg_advance n h ha, Dev.getF]

/-- Another tile's time leaves a tile as it was. -/
theorem Dev.tile_advanceTile_ne (n : Nat) {t u : Nat} (h : d.canon) (hne : t ≠ u) : (d.advanceTile n t).tile u = d.tile u := by
  rcases d.advanceTile_cases n t with ⟨_, _, e⟩ | e | ⟨_, _, e⟩ <;> rw [e]
  · exact Dev.setFs_tile ..
  · exact Dev.tile_setTile_ne _ _ _ _ h hne

/-- Setting the lag fields leaves PAUSED. -/
theorem pausedField (w : Word) (a b : Nat) :
    fieldOf F.TICK_TILE_STATUS_PAUSED (putField F.TICK_TILE_STATUS_MAX_LAG (putField F.TICK_TILE_STATUS_LAG w a) b) = fieldOf F.TICK_TILE_STATUS_PAUSED w := by
  rw [fieldOf_putField_apart _ _ _ _ (by simp [Fld.fits, F.TICK_TILE_STATUS_MAX_LAG]) (by simp [Fld.apart, F.TICK_TILE_STATUS_MAX_LAG, F.TICK_TILE_STATUS_PAUSED]),
    fieldOf_putField_apart _ _ _ _ (by simp [Fld.fits, F.TICK_TILE_STATUS_LAG]) (by simp [Fld.apart, F.TICK_TILE_STATUS_LAG, F.TICK_TILE_STATUS_PAUSED])]
/-- A tile's pause does not end as time passes, nor begin. -/
theorem Dev.paused_advanceTile (n t u : Nat) (h : d.canon) : (d.advanceTile n t).paused u = d.paused u := by
  rcases d.advanceTile_cases n t with ⟨a, b, e⟩ | e | ⟨_, _, e⟩ <;> rw [e]
  · by_cases e : Reg.TICK_TILE_STATUS t = Reg.TICK_TILE_STATUS u
    · rw [Dev.paused, Dev.getB, Dev.getF, ← e, Dev.setFs, Dev.reg_setReg_self _ _ h, Dev.paused, Dev.getB, Dev.getF, ← e]
      rw [List.foldl_cons, List.foldl_cons, List.foldl_nil, pausedField]
    · rw [Dev.paused, Dev.getB, Dev.getF, Dev.setFs, Dev.reg_setReg_ne _ h e]; rfl
  · rfl

/-- A running tile's own cycles pass with device time. -/
theorem Dev.lk_advanceTile (n t : Nat) (h : d.canon) (hp : d.paused t = false) : ((d.advanceTile n t).tile t).lk = (d.tile t).lk + n := by
  unfold Dev.advanceTile
  simp only [hp, if_false, Bool.false_eq_true]
  rw [Dev.tile_setTile _ _ _ h]

theorem Dev.lk_advanceTiles (n t : Nat) (l : List Nat) (h : d.canon) (hp : d.paused t = false) (hn : l.Nodup) :
    ((l.foldl (Dev.advanceTile n) d).tile t).lk = (d.tile t).lk + if t ∈ l then n else 0 := by
  induction l generalizing d with
  | nil => simp
  | cons u r ih =>
    rw [List.nodup_cons] at hn
    rw [List.foldl_cons, ih (Dev.canon_advanceTile n u h) (by rw [Dev.paused_advanceTile n u t h]; exact hp) hn.2]
    by_cases e : u = t
    · subst e; rw [Dev.lk_advanceTile n u h hp]; simp [hn.1]
    · rw [Dev.tile_advanceTile_ne n h e]; simp [Ne.symm e]

/-- A running tile's own cycles pass with device time. -/
theorem Dev.lk_advance (n : Nat) (t : Tile) (h : d.canon) (hp : d.paused t = false) : ((d.advance n).tile t).lk = (d.tile t).lk + n := by
  have ht : (t : Nat) ∈ tiles6 := by
    have := t.isLt
    simp only [tiles6, List.mem_cons, List.not_mem_nil, or_false]; omega
  rw [Dev.advance]
  by_cases e : (n == 0) = true
  · rw [if_pos e, beq_iff_eq.1 e, Nat.add_zero]
  · rw [if_neg e, Dev.lk_advanceTiles (d := { d with now := d.now + n * kcU }) n t tiles6 (Dev.canon_now _ h) hp (by decide), if_pos ht]; rfl

theorem Dev.paused_advanceTiles (n u : Nat) (l : List Nat) (h : d.canon) : (l.foldl (Dev.advanceTile n) d).paused u = d.paused u := by
  induction l generalizing d with
  | nil => rfl
  | cons t r ih => rw [List.foldl_cons, ih (Dev.canon_advanceTile n t h), Dev.paused_advanceTile n t u h]
theorem Dev.paused_advance (n u : Nat) (h : d.canon) : (d.advance n).paused u = d.paused u := by
  rw [Dev.advance]
  by_cases e : (n == 0) = true
  · rw [if_pos e]
  · rw [if_neg e, Dev.paused_advanceTiles (d := { d with now := d.now + n * kcU }) n u tiles6 (Dev.canon_now _ h)]; rfl

end Sys2Proof.Machine
end

