-- ==== Sys2Proof/Tests/Witness1.lean ====
section
/-! SUPPORT. Witness1: for each statement about resets, events, ticks, recipes and register accesses, concrete states and operands that meet
the hypotheses of its clauses, at the ends of their ranges. -/
namespace Sys2Proof.Machine

/-! ## Small states -/

/-- A state with nothing waiting, its device made from the one after reset. -/
def dev (f : Dev → Dev) : State := ⟨[], f Dev.init⟩
/-- Fields of registers, set one after another. -/
def Dev.puts (d : Dev) (l : List (Nat × Fld × Nat)) : Dev := l.foldl (fun d x => d.setF x.1 x.2.1 x.2.2) d
/-- A recipe is active; its configuration is empty. -/
def Dev.actv (d : Dev) : Dev := d.setF Reg.RECIPE_STATUS F.RECIPE_STATUS_ACTIVE 1
/-- Window maps: tile, map, and the windows as kind, sub, start. -/
def Dev.mapped (d : Dev) (t m : Nat) (l : List (Nat × Nat × Nat)) : Dev :=
  l.zipIdx.foldl (fun (d : Dev) (x, i) => d.setF (Reg.TICK_MAP t (8 * m + i / 2)) (if i % 2 == 0 then F.TICK_MAP_ENTRY0 else F.TICK_MAP_ENTRY1)
    (x.1 * 2 ^ 29 + x.2.1 * 2 ^ 26 + x.2.2)) d
/-- A tick of 62.5 µs: tile 0 has inference from 0, trimmable radio from 20,000 to 30,000, background from 30,000, inference from 50,000. -/
def Dev.ticking (d : Dev) : Dev :=
  let d := d.actv.puts [(Reg.TICK_CFG, F.TICK_CFG_PERIOD, 0), (Reg.TICK_CFG, F.TICK_CFG_BOUNDARY_LEN, 5000), (Reg.KNEAD_CORE_CFG 0 0, F.KNEAD_CORE_CFG_ENABLED, 1),
    (Reg.KNEAD_CORE_CFG 0 16, F.KNEAD_CORE_CFG_ENABLED, 1), (Reg.TICK_SEL 0 (0x100 / 8), ⟨0, 8⟩, 0), (Reg.TICK_SEL 0 (0x110 / 8), ⟨0, 8⟩, 0)]
  { d.mapped 0 0 [(2, 0, 0), (1, 1, 20000), (3, 1, 30000), (2, 0, 50000), (4, 0, 73125)] with cfg := [(8, [0, 0, 0, 0, 0xFF, 0xFF, 0, 0, 0, 0, 0, 0, 0, 0, 0, 0])] }

/-- n bytes with numbers at byte offsets. -/
def fields (n : Nat) (l : List (Nat × Nat)) : Bytes := leBytes n ((l.map fun x => x.2 * 2 ^ (8 * x.1)).sum)
/-- A CELLS section: cell 3 of tile 0 at numerology mu, egress 60,000 and delivery 70,000 kc after the slot, one size class on unit 0x110. -/
def tCells (mu : Nat) : Bytes :=
  fields 64 [(0, 1), (2, 2), (4, 1)] ++ fields 384 [(0, 1), (32, 0x4000), (40, 8)]
    ++ fields 128 [(0, 3), (3, mu), (4, 24), (16, 7), (24, 70000), (28, 60000), (32, 100000), (36, 100000), (40, 10), (42, 10), (46, 1), (48, 2)]
    ++ fields 16 [(0, 3)] ++ fields 16 [(0, 3)] ++ fields 64 [(16, 0x110), (22, 0xFFFFFFFFFFFFFFFFFFFFFFFFFFFFFFFFFFFF)]
def Dev.celled (d : Dev) (mu : Nat) : Dev := { d with cfg := store [] d.cfg (8 * secCells) (tCells mu) }

/-! ## Resets and events -/

theorem witness_PowerOnResetsWholeDevice :
    (dev fun d => d.modPower fun x => { x with off := 2 }).dev.power.off = 2 ∧ State.reset.dev.power.off ≠ 2 := by decide +kernel

/-- Registers in and out of a device reset's reach, a byte of stack DRAM, one of the reserve, and a seed. -/
def tKept : State := dev fun d => ((((d.advance 100).write 0x12340 [1, 2, 3]).write 0x1FF0000000 [9]).puts
  [(Reg.TICK_CFG, F.TICK_CFG_PERIOD, 3), (Reg.TIME_STATUS, F.TIME_STATUS_STATE, 2)]).modSp fun x => { x with seed := some 7, trained := true }
theorem witness_DeviceResetKeepsTimeSeedAndStackDram : tKept.on ∧ tKept.dev.canon ∧ keptByDevice 0x1FEFFFFFFF = true ∧ keptByDevice 0x1FF0000000 = false ∧
    tKept.dev.mem.length = 4 ∧ (findReg Reg.TICK_CFG).isSome = true := by
  dsimp only [State.on, Dev.canon]; decide +kernel

theorem witness_ResetCommandsReachTheirPart :
    let p := dev fun d => d.puts [(Reg.SYS_RESET_STATUS, F.SYS_RESET_STATUS_PENDING, 1)]
    let f := dev fun d => d.actv.setTile 5 { TileState.init with fallback := true, lateRun := 64, stopped := [(0x110, 50)] }
    (State.reset.serves hostDriver ∧ stewardOf 0 ≠ hostDriver ∧ State.reset.dev.getF Reg.SYS_RESET_STATUS F.SYS_RESET_STATUS_PENDING ≠ 1 ∧
      resettable 0x110 = true ∧ resettable 0x111 = false ∧ resettable 0x407 = true ∧ resettable 0x408 = false) ∧
    (p.serves hostDriver ∧ p.dev.getF Reg.SYS_RESET_STATUS F.SYS_RESET_STATUS_PENDING = 1) ∧
    (f.on ∧ f.dev.active = true ∧ (f.dev.tile 5).fallback = true ∧ (f.dev.tile 5).skipped = false ∧ 64 ≤ (f.dev.tile 5).lateRun) ∧
    ((f.dev.tile 5).stopped.find? (·.1 == 0x110#13) = some (0x110#13, 50) ∧ f.dev.paused 5 = false) ∧
    (∀ cm, (dev fun d => d.setF Reg.CXL_IDE (ideBit cm) 1).dev.getF Reg.CXL_IDE (ideBit cm) ≠ 0) := by
  dsimp only [State.on, State.serves]; decide +kernel

/-- A ring of 16 entries for slice 3 with an event, and 31 records in the boot buffer. -/
def tRing (tail head slice : Nat) : State := dev fun d =>
  let d := (d.puts [(Reg.SLICE_EV_RING 3, F.SLICE_EV_RING_ADDR, 5), (Reg.SLICE_EV_RING 3, F.SLICE_EV_RING_LOG2, 4),
    (Reg.SLICE_EV_PTR 3, F.SLICE_EV_PTR_TAIL, tail), (Reg.SLICE_EV_PTR 3, F.SLICE_EV_PTR_HEAD, head)]).raise 0x1234 slice 0x2345 9 77
  { d with ev := { d.ev with boot := List.replicate 31 ⟨0, 0xFF, 0, 0, 0, 0, 0, false⟩ } }
theorem witness_EventsReachTheirRings :
    let used := fun (s : State) => (s.dev.getF (Reg.SLICE_EV_PTR 3) F.SLICE_EV_PTR_TAIL + 2 ^ 32 - s.dev.getF (Reg.SLICE_EV_PTR 3) F.SLICE_EV_PTR_HEAD) % 2 ^ 32
    let a := tRing 0xFFFFFFFF 0xFFFFFFF0 3
    let b := tRing 8 0xFFFFFFF8 3
    let c := tRing 0 0 0xFF
    ((State.reset.dev.tile 5).flags.contains (2 ^ 32 - 1) = false) ∧
    (a.on ∧ a.dev.canon ∧ a.dev.ev.arisen.head?.map (·.slice) = some 3 ∧ a.dev.getF (Reg.SLICE_EV_RING 3) F.SLICE_EV_RING_ADDR * 4096 ≠ 0 ∧ used a ≠ 2 ^ 4) ∧
    (b.on ∧ b.dev.canon ∧ b.dev.ev.arisen.head?.map (·.slice) = some 3 ∧ b.dev.getF (Reg.SLICE_EV_RING 3) F.SLICE_EV_RING_LOG2 = 4 ∧ used b = 2 ^ 4) ∧
    (c.on ∧ c.dev.ev.arisen.head?.map (·.slice) = some 0xFF ∧ c.dev.getF Reg.DEVICE_EV_RING F.DEVICE_EV_RING_ADDR = 0 ∧ c.dev.ev.boot.length < 32) := by
  dsimp only [State.on, Dev.canon]; decide +kernel

/-! ## Ticks -/

theorem witness_TickNumberFollowsDeviceTime :
    (Dev.init.puts [(Reg.TICK_CFG, F.TICK_CFG_PERIOD, 4)]).getF Reg.TICK_CFG F.TICK_CFG_PERIOD ≤ 4 := by decide +kernel

/-- A loaf of the longest kind of header used here. -/
def tHdr : LoafHdr := ⟨7, 0, 0, 100, 10, 5, 0, 0, 1, 2, 3⟩
theorem witness_EdgesAndSnapshotsMoveTheTick :
    let s := dev Dev.ticking
    let k := ((Dev.init.ticking.setKn 0 16 { KneadCore.init with loaf := some tHdr }).advance 10)
    let w := s.dev.advanceTo s.dev.deadline
    (s.on ∧ s.dev.tickNo = s.dev.edge) ∧
    (s.dev.mapOf 0 0x110 = some 0 ∧ (s.dev.mapWindows 0 0)[0]?.map (·.start) = some 0 ∧ (s.dev.mapWindows 0 0)[3]?.map (·.start) = some 50000 ∧
      (s.dev.tile 0).pos ≤ 0 ∧ s.dev.paused 0 = false) ∧
    ((k.kn 0 16).loaf = some tHdr ∧ (k.kn 0 16).start < (k.tile 0).lk) ∧
    (((s.dev.advanceTo s.dev.slotOpens).openSlot.tile 0).decided = false ∧
      (((s.dev.setTile 0 { TileState.init with decided := true, snapTick := some 0 }).advanceTo s.dev.slotOpens).openSlot.tile 0).decided = true) ∧
    (w.active = true ∧ (w.tile 0).committed = false ∧ (w.tile 0).late = false) := by
  dsimp only [State.on]; decide +kernel

theorem witness_PlansAndTrimsAreTheStewards :
    let at_ := fun n late => dev fun d => (d.ticking.advance n).setTile 0 { TileState.init with decided := true, late := late }
    let a := at_ 77875 false
    let b := at_ 77876 true
    (a.admits (stewardOf 0) ∧ a.dev.canon ∧ hostDriver ≠ stewardOf 0 ∧ (1#64).getLsbD 0 = true ∧ a.dev.active = true ∧ (a.dev.tile 0).decided = true ∧
      (a.dev.tile 0).committed = false ∧ a.dev.now + 1000 ≤ (a.dev.tickNo + 1) * a.dev.tickU ∧ (a.dev.tile 0).late = false) ∧
    (b.admits (stewardOf 0) ∧ b.dev.active = true ∧ (b.dev.tile 0).decided = true ∧ (b.dev.tile 0).committed = false ∧
      b.dev.now + 1000 > (b.dev.tickNo + 1) * b.dev.tickU ∧ (b.dev.tile 0).late = true) := by
  dsimp only [State.on, State.serves, State.admits, Dev.canon]; decide +kernel

theorem witness_TrimmedLengthFollowsDemand :
    Dev.init.ticking.canon ∧ 0 < Dev.init.ticking.mappedLen 0 0 ∧ Dev.init.ticking.mappedLen 0 0 < 2 ^ 21 ∧ Dev.init.ticking.mapAbsent 0 0 1 = false ∧
    (Dev.init.ticking.celled 2).canon ∧ 0 < (Dev.init.ticking.celled 2).mappedLen 0 0 ∧ (Dev.init.ticking.celled 2).mappedLen 0 0 < 2 ^ 21 ∧
    ((Dev.init.ticking.celled 2).advanceTo (8 * 312500)).mapAbsent 0 0 9 = true := by
  dsimp only [Dev.canon]; decide +kernel

theorem witness_PauseRunsStopTheGroups :
    let e := dev fun d => d.puts [(Reg.PWR_STATUS, F.PWR_STATUS_OC_EMERG, 1)]
    let p := dev fun d => d.puts [(Reg.PWR_STATUS, F.PWR_STATUS_PAUSED, 0x3F), (Reg.TICK_TILE_STATUS 5, F.TICK_TILE_STATUS_PAUSED, 1), (Reg.TICK_TILE_STATUS 5, F.TICK_TILE_STATUS_LAG, 2 ^ 21 - 2)]
    let r := fun risk => dev fun d => (d.ticking.puts [(Reg.TICK_TILE_STATUS 0, F.TICK_TILE_STATUS_LAG, 2501)]).setTile 0 { TileState.init with atRisk := risk }
    (e.on ∧ e.dev.toPause ≠ [] ∧ e.dev.pausedTiles = [] ∧ e.dev.groupTiles (groupsOf 1) = e.dev.toPause ∧ e.dev.power.runAt = 0) ∧
    (p.on ∧ p.dev.pausedTiles ≠ [] ∧ (p.dev.pausedTiles.all fun t => (groupsOf 0xFF).contains (p.dev.groupOf t)) = true) ∧
    (p.dev.canon ∧ (p.dev.tile 5).pos < p.dev.bStart ∧ p.dev.paused 5 = true ∧ p.dev.getF (Reg.TICK_TILE_STATUS 5) F.TICK_TILE_STATUS_LAG + 1 < 2 ^ 21) ∧
    (p.dev.paused 0 = false ∧ (p.dev.tile 0).pos + p.dev.bStart ≤ p.dev.bStart ∧ 0 < p.dev.bStart) ∧
    (∀ risk, (r risk).on ∧ (r risk).dev.active = true ∧ ((r risk).dev.tile 0).pos < (r risk).dev.bStart ∧ (r risk).dev.paused 0 = false ∧
      (r risk).dev.getF (Reg.TICK_TILE_STATUS 0) F.TICK_TILE_STATUS_LAG * 2 > (r risk).dev.bLen ∧ ((r risk).dev.tile 0).atRisk = risk) := by
  dsimp only [State.on, Dev.canon]; decide +kernel

/-! ## Recipes and registers -/

/-- A tile amendment with a PARTITION section for tile 0 under a digest: 384 bytes, to act at tick 20. -/
def tHead : Bytes := fields 40 [(0, 0x4E595242), (4, 1), (6, 1), (8, 0x9440), (10, 0x10), (12, 384), (16, 1), (32, 20)]
def tBody : Bytes := fields 184 [] ++ fields 16 [(0, 1), (2, 1), (4, 320), (8, 16)] ++ fields 48 [] ++ fields 64 [(2, 0xFFFF)]
/-- The amendment with its own digest. -/
def tImage : Bytes := tHead ++ digestBytes (Config.sha3 (tHead ++ List.replicate 32 0#8 ++ tBody)) ++ tBody
theorem tImage_digest : (digestAround (tImage.take 384) 40 == imgDigest tImage) = true := by
  have hd : ∀ x, (digestBytes x).length = 32 := fun _ => rfl
  have ha : tHead.length = 40 := by decide +kernel
  have hb : tBody.length = 312 := by decide +kernel
  have h1 : tImage.take 384 = tImage := List.take_of_length_le (by simp [tImage, hd, ha, hb])
  have h2 : tImage.take 40 = tHead := by simp [tImage, ha]
  have h3 : tImage.drop 72 = tBody := by rw [tImage, ← List.append_nil tBody]; simp [List.drop_append, ha, hd]
  have h4 : imgDigest tImage = digestBytes (Config.sha3 (tHead ++ List.replicate 32 0#8 ++ tBody)) := by
    simp [imgDigest, bytesAt, tImage, ha, hd]
  rw [digestAround, h1, h2, h3, h4, beq_self_eq_true]

def tFetch (l : Bytes) (how : FetchEnd) : RecipeFetch := ⟨true, l, 384, how⟩
def tFetched (f : RecipeFetch) : State := dev fun d => { d.actv with recipe := { d.recipe with fetch := some f } }
theorem witness_RecipeCommandsLoadAndLock :
    let s := dev fun d => d.puts [(Reg.CXL_LINK, F.CXL_LINK_PROTO, 2)]
    let f := tFetched (tFetch [] .ok)
    (s.admits hostDriver ∧ s.dev.canon ∧ s.dev.recipe.fetch = none ∧ s.dev.getF Reg.CXL_LINK F.CXL_LINK_PROTO / 2 % 2 = 1 ∧ s.dev.active = false) ∧
    (f.admits hostDriver ∧ f.dev.canon ∧ f.dev.recipe.fetch ≠ none ∧ f.dev.active = true) ∧ s.admits (stewardOf 0) ∧ stewardOf 0 ≠ hostDriver := by
  dsimp only [State.on, State.serves, State.admits, Dev.canon]; decide +kernel

/-- The device as the check of a fetch finds it. -/
def tChecked (f : RecipeFetch) : Dev := ((tFetched f).dev.setF Reg.RECIPE_STATUS F.RECIPE_STATUS_CHECKING 0).modRecipe fun r => { r with fetch := none }
theorem tImage_content : (tChecked (tFetch tImage .ok)).contentFault [] tImage = none := by
  have h : imgLength tImage = 384 := by decide +kernel
  simp only [Dev.contentFault, h, tImage_digest]
  decide +kernel
theorem witness_RejectedImagesChangeNoConfiguration_staged : (tFetched (tFetch tImage .ok)).on ∧ (tFetched (tFetch tImage .ok)).dev.canon ∧
    (tFetched (tFetch tImage .ok)).dev.recipe.fetch = some (tFetch tImage .ok) ∧ imgAct tImage = 20 ∧
    (tChecked (tFetch tImage .ok)).fetchFault (tFetch tImage .ok) 20 = none := by
  refine ⟨by unfold State.on; decide +kernel, by unfold Dev.canon; decide +kernel, rfl, by decide +kernel, ?_⟩
  have hb : (tChecked (tFetch tImage .ok)).cfgBefore 20 = ([], (tChecked (tFetch tImage .ok)).effDigest) := rfl
  have hl : (tFetch tImage .ok).image = tImage := rfl
  simp only [Dev.fetchFault, hb, hl, tImage_content]
  decide +kernel
theorem witness_RejectedImagesChangeNoConfiguration :
    let bad := tFetch [] .error
    let short := tFetch [] .ok
    (∀ f ∈ [bad, short], (tFetched f).on ∧ (tFetched f).dev.canon ∧ (tFetched f).dev.recipe.fetch = some f) ∧ bad.how ≠ .ok ∧ short.how = .ok ∧
    (tChecked short).fetchFault short 0 = some (1, 0xFFFF, 12) := by
  dsimp only [State.on, Dev.canon]; decide +kernel

theorem witness_RecipesActivatePersistAndReload :
    let x : StagedImage := ⟨[], 10, false, [], false⟩
    let a := fun n => dev fun d => { d.advanceTo n with recipe := { d.recipe with staged := [x] } }
    let c := fun (s : State) => ({ s.dev with cfg := newCfg [] x.image } : Dev)
    let w := dev fun d => d.modRecipe fun r => { r with writes := [(false, [1], List.replicate 32 0), (true, [], [])], logUsed := 33 }
    let r := dev fun d => { d with recipe := { d.recipe with reload := some ([], []) }, sp := { d.sp with trained := true, released := true } }.puts
      [(Reg.TIME_STATUS, F.TIME_STATUS_STATE, 2)]
    let u := x.act * (a 0).dev.tickU
    ((a u).on ∧ (a u).dev.stagedFull = some x ∧ (a u).dev.now ≤ u ∧ ((a u).dev.advanceTo u).misaligned (c (a u)) x.image x.act = false ∧
      (((a u).dev.advanceTo u).active && ((a u).dev.advanceTo u).slicesOpen) = false) ∧
    ((a (u + 1)).dev.stagedFull = some x ∧ u < (a (u + 1)).dev.now ∧ (a (u + 1)).dev.misaligned (c (a (u + 1))) x.image x.act = false ∧ x.flash = false) ∧
    (w.on ∧ w.dev.recipe.writes.head? = some (false, [1], List.replicate 32 0)) ∧
    (r.on ∧ r.dev.sp.trained = true ∧ r.dev.sp.released = true ∧ r.dev.active = false ∧ r.dev.recipe.reloaded = false ∧
      ((r.dev.setF Reg.RECIPE_STATUS F.RECIPE_STATUS_SLOT 0).modRecipe fun r => { r with reloaded := true }).contentFault [] r.dev.slotImage = some (3, 0xFFFF, 0)) ∧
    (r.dev.recipe.reload = some ([], []) ∧ r.dev.getF Reg.TIME_STATUS F.TIME_STATUS_STATE = 2) := by
  dsimp only [State.on]; decide +kernel

theorem witness_RegisterAccessesFollowTheirTypes :
    let s := dev fun d => d.setReg (Reg.TICK_TILE_LATE 5) 0x1FFFFFFFF#64
    let o := dev fun d => d.puts [(Reg.RECIPE_STATUS, F.RECIPE_STATUS_LOCK_OPEN, 1)]
    let row := fun off => (findReg off).map fun p => (p.1.flds.any (·.acc == .rwl), p.1.flds.any (·.acc == .rc), p.1.flds.any (·.acc == .w1c))
    (∀ t ∈ [s, o], t.admits hostDriver ∧ t.dev.canon) ∧ fromHost hostDriver = true ∧ findReg 0x3FFFFF8 = none ∧
    (row Reg.TICK_CFG = some (true, false, false) ∧ reaches hostDriver Reg.TICK_CFG = true ∧ ownRows.contains Reg.TICK_CFG = false ∧
      s.dev.getF Reg.RECIPE_STATUS F.RECIPE_STATUS_LOCK_OPEN ≠ 1 ∧ o.dev.getF Reg.RECIPE_STATUS F.RECIPE_STATUS_LOCK_OPEN = 1) ∧
    (row Reg.TIME_SET_SEC = some (false, false, false) ∧ ownRows.contains Reg.TIME_SET_SEC = false) ∧
    (row (Reg.TICK_TILE_LATE 5) = some (false, true, false) ∧ reaches (stewardOf 0) (Reg.TICK_TILE_LATE 5) = true) ∧
    (row (Reg.SIG_ERROR 2 3) = some (false, false, true) ∧ (findReg (Reg.SIG_ERROR 2 3)).map (·.1.base) = some (Reg.SIG_ERROR 0 0)) := by
  dsimp only [State.on, State.serves, State.admits, Dev.canon]; decide +kernel
end Sys2Proof.Machine
end

