-- ==== Sys2Proof/Tests/Witness2.lean ====
section
/-! SUPPORT. Witness2: the hypotheses of the statements about Knead cores, Sieves, tiers and host lines are met by concrete states and operands. -/
namespace Sys2Proof.Machine

/-! ## Knead cores -/

/-- Tile 0 with a core at stream position pc, time n kc after reset, and bytes stored. -/
def tCore (c : KneadCore) (n pc : Nat) (m : SMap Byte) : State := dev fun d =>
  let d := ((d.ticking.setKn 0 16 c).puts [(Reg.KNEAD_CORE_STATUS 0 16, F.KNEAD_CORE_STATUS_PC, pc), (Reg.PROOF_CTR 0 0, F.PROOF_CTR_STATE, 1),
    (Reg.PROOF_CTR 0 63, F.PROOF_CTR_STATE, 1)]).advance n
  { d with mem := m }
/-- A header: 50 instructions, two passes, two descriptors; passes on line 8, descriptors on line 12. -/
def tLoaf : LoafHdr := ⟨7, 0, 0, 10000, 100, 50, 2, 2, 1, 8, 12⟩
def tKc : KneadCore := { KneadCore.init with loaf := some tLoaf, ctx := ⟨0, 200, 0, 0, 64, 5⟩, x := [(1, 32), (3, 5), (4, 100)], shapeW := 3, shapeE := 4, shapeS := 4 }
def tRun : State := tCore tKc 10 48 []

theorem witness_VectorInstructionsWriteTheirLanes :
    (tRun.on ∧ tRun.dev.canon ∧ tRun.dev.issues 0 16 tLoaf ∧ tRun.dev.streamOn 0 16 tLoaf) ∧
    (∀ p ∈ ([(alu 0x30 useV2, ⟨31, 0, 31, 0, 7, 0, 0⟩), (alu 0x33 useV3, ⟨31, 31, 31, 31, 7, 0, 0⟩), (alu 0x36 ⟨.mk, .v, .v, .none, true, 0⟩, ⟨7, 1, 2, 0, 0, 0, 0⟩),
        (alu 0x37 ⟨.v, .v, .v, .mk, true, 0⟩, ⟨1, 1, 2, 7, 0, 0, 0⟩), (alu 0x38 ⟨.v, .none, .none, .none, true, immAll⟩, ⟨1, 0, 0, 0, 0, 0, 0xFFFFFFFF⟩),
        (fun_ 0x40, ⟨31, 31, 0, 0, 7, 0, 0⟩), (reduceOp 0x48, ⟨1, 2, 0, 0, 1, 0, 3⟩), (⟨0x50, ⟨.v, .x, .none, .none, true, 0⟩, true, some 2, 2, 12, false⟩, ⟨31, 15, 0, 0, 0, 0, 0⟩)] :
        List (KOp × KFields)), wordCheck p.1.use p.1.dst p.2 true = none) ∧
    wordCheck ⟨.v, .v, .code, .code, true, 0⟩ true ⟨31, 1, 4, 4, 7, 0, 0⟩ (decide (4 ≤ 4) && decide (4 ≤ 4)) = none := by
  dsimp only [State.on, Dev.canon, Dev.issues, Dev.streamOn]; decide +kernel

theorem witness_ControlInstructionsMoveTheStream :
    let l := tCore { tKc with loops := [] } 10 1 []
    (∀ s ∈ [tRun, l], s.on ∧ s.dev.canon ∧ s.dev.issues 0 16 tLoaf ∧ s.dev.streamOn 0 16 tLoaf) ∧
    (∀ p ∈ ([(ctl 0x00 .none .none .none 0, ⟨0, 0, 0, 0, 0, 0, 0⟩), (ctl 0x04 .x .none .none immAll, ⟨15, 0, 0, 0, 0, 0, 0xFFFFFFFF⟩),
        (ctl 0x05 .x .x .none immAll, ⟨1, 15, 0, 0, 0, 0, 0x80000000⟩), (ctl 0x03 .none .none .none immAll, ⟨0, 0, 0, 0, 0, 0, 0x002F0003⟩),
        (ctl 0x01 .none .none .none 0, ⟨0, 0, 0, 0, 0, 0, 0⟩), (ctl 0x02 .none .none .none immAll, ⟨0, 0, 0, 0, 0, 0, 5000⟩),
        (ctl 0x18 .none .none .none 0xFFFF03FF, ⟨0, 0, 0, 0, 0, 0, 0xFFFF003F⟩)] : List (KOp × KFields)), wordCheck p.1.use p.1.dst p.2 true = none) ∧
    wordCheck ⟨.none, .x, .x, .none, false, 3⟩ true ⟨0, 15, 15, 0, 0, 0, 3⟩ true = none ∧
    (loopBad tLoaf.nInstr (l.dev.kPc 0 16) 0x2F [] = false ∧ l.dev.kPc 0 16 + 0x2F + 1 < tLoaf.nInstr) ∧
    (l.dev.kn 0 16).lastPass = none ∧ (l.dev.kn 0 16).start ≤ (l.dev.tile 0).lk ∧ l.dev.ctrAllowed 0 (l.dev.kn 0 16).ctx 0x3F = true := by
  dsimp only [State.on, Dev.canon, Dev.issues, Dev.streamOn]; decide +kernel

theorem witness_FailedChecksEndTheLoaf :
    (tRun.dev.canon ∧ (tRun.dev.kn 0 16).loaf = some tLoaf ∧ (tRun.dev.kn 0 16).held = none ∧
      tRun.dev.getF (Reg.KNEAD_SEQ_ERROR 0 16) F.KNEAD_SEQ_ERROR_VALID = 0) ∧ (tRun.on ∧ tRun.dev.issues 0 16 tLoaf) ∧
    wordCheck useV2 true ⟨0, 0, 0, 1, 0, 0, 0⟩ true = some 1 ∧ wordCheck (ctl 0x04 .x .none .none immAll).use true ⟨16, 0, 0, 0, 0, 0, 0⟩ true = some 2 ∧
    wordCheck (ctl 0x10 .none .none .none 0x07FFFFFF).use true ⟨0, 0, 0, 0, 0, 0, 0x08000000⟩ true = some 1 := by
  dsimp only [State.on, Dev.canon, Dev.issues]; decide +kernel

/-- Rows of VLD, VST and VQST in the context, and a row past its end. -/
theorem witness_VectorStoresAndLoadsMoveLines :
    let c := tRun.dev.kn 0 16
    let w := widthOf c.shapeW
    let rows := fun (a : BitVec 64) => rowsAt a c.shapeE c.rows
    (tRun.on ∧ tRun.dev.canon ∧ tRun.dev.issues 0 16 tLoaf ∧ tRun.dev.streamOn 0 16 tLoaf) ∧
    (wordCheck ⟨.v, .x, .none, .code, true, immAll⟩ true ⟨31, 1, 0, 4, 7, 0, 0⟩ (decide (4 ≤ 4)) = none ∧
      (∀ r ∈ rows 32, c.ctx.holds r (lineSpan 0 (w * fmtBytes 4)) = true) ∧ tRun.dev.badIn c.ctx 0 16 ((rows 32).map fun r => (r, lineSpan 0 (w * fmtBytes 4))) = none ∧
      ∃ r ∈ rows (32 + 0xFFFFFFFF), c.ctx.holds r (lineSpan 0 (w * fmtBytes 4)) = false) ∧
    (wordCheck ⟨.none, .v, .x, .code, true, immAll⟩ true ⟨0, 1, 1, 0, 0, 0, 0⟩ (decide (0 ≤ 4)) = none ∧
      ∀ r ∈ rows 32, c.ctx.holds r (lineSpan 0 (w * fmtBytes 0)) = true) ∧
    (∃ x, opMx 2 = some x ∧ wordCheck ⟨.x, .v, .x, .code, true, immAll⟩ false ⟨4, 1, 1, 2, 0, 0, 0x00380000⟩ true = none ∧ c.shapeW ≤ 3 ∧
      (∀ r ∈ rows 32, c.ctx.holds r (lineSpan 0 (w * x.bits / 8)) = true) ∧
      ∀ r ∈ rowsAt (c.rx 4) c.shapeS c.rows, c.ctx.holds (r + 0x38 / 64) (lineSpan (0x38 % 64) (w / 32)) = true) := by
  refine ⟨?_, ?_, ?_, .e4m3, ?_⟩ <;> dsimp only [State.on, Dev.canon, Dev.issues, Dev.streamOn] <;> decide +kernel

/-- A pass and a DMA descriptor on their lines. -/
def tPass : Bytes := fields 64 [(6, 77), (8, 1), (13, 4), (15, 4), (16, 20), (18, 2 * 4), (24, 40), (26, 2 * 4), (40, 60), (42, 4)]
def tDma : Bytes := fields 32 [(8, 20), (16, 60), (24, 2), (26, 1), (28, 1), (30, 1)]
def tLines : SMap Byte := storeBytes (storeBytes [] (benchAt 0 16 (8 * 64)) tPass) (benchAt 0 16 (12 * 64)) tDma
def tPassJob : PassJob := ⟨passDesc tPass, none, 3, 70⟩
def tDmaJob : DmaJob := ⟨0, dmaDesc tDma, 0⟩
theorem witness_EnginesQueueAndFinishWork :
    let s := tCore tKc 10 48 tLines
    let c := s.dev.kn 0 16
    let f : KFields := ⟨0, 0, 0, 0, 0, 0, 0⟩
    let later := fun o => (s.dev.advance (c.issueAt o f - (s.dev.tile 0).lk)).syncLocal 0 16
    let dm := tCore { tKc with dmaRun := some tDmaJob } 10 48 tLines
    (s.on ∧ s.dev.canon ∧ s.dev.issues 0 16 tLoaf ∧ s.dev.streamOn 0 16 tLoaf) ∧
    (wordCheck (ctl 0x10 .none .none .none 0x07FFFFFF).use true f true = none ∧ c.passQ.length < 4 ∧
      s.dev.firstBad (c.ctx.at_ 0 16 tLoaf.passLine) 64 = none ∧
      (later (ctl 0x10 .none .none .none 0x07FFFFFF)).passCheck 0 16 c (passDesc (s.dev.bytes (c.ctx.at_ 0 16 tLoaf.passLine) 64)) = none) ∧
    (wordCheck (ctl 0x11 .none .none .none 0xFFFF).use true f true = none ∧ 0 < tLoaf.nDma ∧ c.dmaQ.length < 16 ∧
      s.dev.firstBad (c.ctx.at_ 0 16 tLoaf.dmaLine) 32 = none ∧
      (later (ctl 0x11 .none .none .none 0xFFFF)).dmaCheck 0 (kneadUnit 0 16) (s.dev.logicalOf 0 16) c.ctx false (dmaDesc (s.dev.bytes (c.ctx.at_ 0 16 tLoaf.dmaLine) 32)) = none) ∧
    (wordCheck (ctl 0x19 .none .none .none 0xFFFF03FF).use true ⟨0, 0, 0, 0, 0, 0, 0xFFFF003F⟩ true = none ∧ s.dev.waitAllowed 0 c.ctx 0x3F = true ∧
      wordCheck (ctl 0x1A .none .none .none 0xFFFF03FF).use true ⟨0, 0, 0, 0, 0, 0, 0x00010000⟩ true = none ∧ s.dev.waitAllowed 0 c.ctx 0 = true) ∧
    (∀ t ∈ [tCore { tKc with passQ := [tPassJob] } 10 48 [], tCore { tKc with passRun := [tPassJob] } 10 48 [], tCore { tKc with dmaQ := [tDmaJob] } 10 48 [], dm],
      t.on ∧ t.dev.canon ∧ t.dev.paused 0 = false ∧ (t.dev.kn 0 16).loaf = some tLoaf) ∧
    (tDmaJob.desc.sig = false ∧ tDmaJob.desc.src ≠ 2 ∧ tDmaJob.desc.dst ≠ 2 ∧
      ((dm.dev.advance (tDmaJob.done - (dm.dev.tile 0).lk)).syncLocal 0 16).dmaBad
        (fun i => sideAt 0 16 tKc.ctx tDmaJob.desc.src (tDmaJob.desc.srcAddr + if tDmaJob.desc.src ≤ 1 then i * tDmaJob.desc.srcStride else i * tDmaJob.desc.srcStride * 64))
        tDmaJob.desc.rows tDmaJob.desc.rowLines = none) ∧
    (State.reset.admits (stewardOf 5) ∧ stewardOf 5 ≠ stewardOf 0) := by
  and_intros <;> (try dsimp only [State.on, State.serves, State.admits, Dev.canon, Dev.issues, Dev.streamOn]) <;> decide +kernel

theorem witness_LoavesStartCleanAndEndCounted :
    let at_ := fun n => dev fun d => { (d.ticking.puts [(Reg.KNEAD_CONTEXT 0 16, F.KNEAD_CONTEXT_BENCH_HI, 200)]).advance 5 with
      mem := storeBytes [] (benchAt 0 16 0) (fields 64 [(0, 7), (8, n), (16, 9), (24, 8)]) }
    let x := (at_ 1).dev.kneadCtx 0 16
    let ended := tCore { tKc with ended := true, stored := 44 } 10 48 []
    (∀ n ∈ [0, 1, 19995, 19996], (at_ n).on ∧ (at_ n).dev.canon ∧ ((at_ n).dev.kn 0 16).loaf = none ∧ (at_ n).dev.placeLoaf 0 0x110 = (at_ n).dev ∧
      (at_ n).dev.paused 0 = false ∧ (at_ n).dev.logicalOf 0 16 ≠ none ∧ x.lo < x.hi ∧ (at_ n).dev.firstBad (x.at_ 0 16 0) 64 = none ∧
      (loafHdr ((at_ n).dev.bytes (x.at_ 0 16 0) 64)).length = n ∧ (loafHdr ((at_ n).dev.bytes (x.at_ 0 16 0) 64)).nInstr ≠ 0 ∧
      (at_ n).dev.spaceFor 0 0x110 0 = 19995) ∧
    (ended.on ∧ ended.dev.canon ∧ (ended.dev.kn 0 16).loaf = some tLoaf ∧ (ended.dev.kn 0 16).ended = true ∧ (ended.dev.kn 0 16).passQ = [] ∧
      (ended.dev.kn 0 16).passRun = [] ∧ (ended.dev.kn 0 16).dmaQ = [] ∧ (ended.dev.kn 0 16).dmaRun = none ∧ ended.dev.paused 0 = false) := by
  dsimp only [State.on, Dev.canon]; decide +kernel

/-! ## Sieves -/

/-- A MEMORY section: 2 MiB at DPAs 0x2_0000_0000 and 0x1E_0000_0000 private to slice 8, and a quota of slice 8 with ten pages of pantry on tile 0. -/
def tMem : Bytes := fields 40 [(0, 2), (4, 1), (8, 0x200000000), (16, 1), (20, 8), (24, 0x1E00000000), (32, 1), (36, 8)] ++
  fields 64 [(0, 8), (8, 100), (12, 100), (16, 100), (20, 100), (28, 10), (34, 10)]
def Dev.withMem (d : Dev) : Dev := { d with cfg := store [] d.cfg (8 * secMemory) tMem }
/-- A job of two pages, 16 rows at most, query on line 20, list on line 40, output on line 60. -/
def tJob (op rows : Nat) : Bytes := fields 64 [(0, op + rows * 64), (6, 77), (8, 20 + 40 * 2 ^ 18 + 2 * 2 ^ 36), (16, 60), (20, 0x3F800000), (28, 100)]
def tSieve : SieveState := { SieveState.init with phase := 1, id := 9, nJobs := 2, jobLine := 10, ctx := ⟨0, 200, 8, 0, 48, 0xFFFF⟩, t0 := 3 }
/-- Sieve 30 of tile 0, its header and job on the bench of core 15. -/
def tSv (x : SieveState) (len op rows : Nat) : State := dev fun d =>
  let d := ((d.ticking.withMem).puts [(Reg.KNEAD_CORE_CFG 0 15, F.KNEAD_CORE_CFG_ENABLED, 1), (Reg.KNEAD_CORE_CFG 0 15, F.KNEAD_CORE_CFG_LOGICAL, 15),
    (Reg.SIEVE_CONTEXT 0 30, F.SIEVE_CONTEXT_BENCH_HI, 200), (Reg.SIEVE_CONTEXT 0 30, F.SIEVE_CONTEXT_SLICE, 8), (Reg.TICK_SEL 0 (0x31E / 8), ⟨8 * 6, 8⟩, 0)]).setSieve 0 30 x
  { d with mem := [(benchAt 0 15 0, fields 64 [(0, 9), (8, len), (16, 2), (18, 10)]), (benchAt 0 15 640, tJob op rows),
    (benchAt 0 15 2560, fields 32 [(16, 511 + 511 * 2 ^ 20)])].foldl (fun m p => storeBytes m p.1 p.2) [] }
theorem witness_SievesRunTheirJobs :
    let idle := tSv SieveState.init
    let x := fun n => (idle n 0 1).dev.sieveCtx 0 30
    let run := tSv tSieve 0 0 16
    let j := sieveJob (run.dev.bytes (tSieve.ctx.at_ 0 15 10) 64)
    let last := tSv { tSieve with phase := 3, job := 1, outs := [(benchAt 0 15 3840, [1, 2]), (benchAt 0 15 3841, [3])], done := 77 } 0 0 1
    (State.reset.admits (stewardOf 5) ∧ stewardOf 5 ≠ stewardOf 0) ∧
    (∀ n ∈ [0, 1, 19999, 20001], (idle n 0 1).on ∧ (idle n 0 1).dev.canon ∧ (idle n 0 1).dev.physOf 0 15 = some 15 ∧ ((idle n 0 1).dev.sieve 0 30).phase = 0 ∧
      (idle n 0 1).dev.placeLoaf 0 0x31E = (idle n 0 1).dev ∧ (idle n 0 1).dev.paused 0 = false ∧ (x n).lo < (x n).hi ∧
      (idle n 0 1).dev.firstBad ((x n).at_ 0 15 0) 64 = none ∧ leAt ((idle n 0 1).dev.bytes ((x n).at_ 0 15 0) 64) 8 4 = n ∧
      (idle n 0 1).dev.spaceFor 0 0x31E 0 = 20000 ∧ (x n).holds 10 1 = true ∧ (idle n 0 1).dev.firstBad ((x n).at_ 0 15 10) 64 = none ∧
      (sieveJob ((idle n 0 1).dev.bytes ((x n).at_ 0 15 10) 64)).waitEn = false) ∧
    (run.on ∧ run.dev.canon ∧ run.dev.physOf 0 15 = some 15 ∧ (run.dev.sieve 0 30).phase = 1 ∧ run.dev.paused 0 = false) ∧
    (run.dev.sieveCheck 0 (run.dev.sieve 0 30) j false = none ∧ run.dev.firstBad (tSieve.ctx.at_ 0 15 j.listBase) (16 * j.nPages) = none ∧
      run.dev.firstBad (tSieve.ctx.at_ 0 15 j.qBase) (j.rows * j.dim * 2) = none ∧
      ∀ p ∈ (List.range j.nPages).map (fun n => pagePair (run.dev.bytes (tSieve.ctx.at_ 0 15 j.listBase + 16 * n) 16)),
        run.dev.pairCheck 0 30 (run.dev.sieve 0 30) j p = none ∧ run.dev.pairBad 0 30 j p = none) ∧
    ((tSv tSieve 0 0 17).dev.sieveCheck 0 tSieve (sieveJob (tJob 0 17)) false = some 2 ∧ (tSv tSieve 0 1 1).dev.sieveCheck 0 tSieve (sieveJob (tJob 1 1)) false = some 1) ∧
    (last.on ∧ last.dev.canon ∧ (last.dev.sieve 0 30).phase = 3 ∧ last.dev.paused 0 = false ∧ (last.dev.sieve 0 30).nJobs ≤ (last.dev.sieve 0 30).job + 1) := by
  and_intros <;> (try dsimp only [State.on, State.serves, State.admits, Dev.canon]) <;> decide +kernel

/-! ## Tiers and host lines -/

/-- Object 5 of slice 8, one page homed in T2, and commands for it. -/
def tObj : Obj := { objOf [] with id := 5, owner := 8, homeTier := 2, state := 1, pages := 1, homeAddr := 0x200010000, curAddr := 0x200010000, dirtyBase := poolPlace 0 }
def tUp : Obj := { tObj with state := 3, curTier := 1, curAddr := pantryAt 0 0x1000, refMask := 256 }
def tCmd (op tier addr w3 : Nat) : TierCmd := ⟨BitVec.ofNat 64 (op + 8 * 2 ^ 16 + 5 * 2 ^ 32), BitVec.ofNat 64 tier, BitVec.ofNat 64 addr, BitVec.ofNat 64 w3, 0⟩
def tTier (o : Obj) (c : TierCmd) (f : Dev → Dev) : State := dev fun d =>
  (f ((d.ticking.withMem.putObj 0 5 o).setTier 0 { TierState.init with queue := [c] })).advanceTo 312500
/-- Each command by operation: one that fails its checks, and one for each way in which it begins. -/
theorem witness_TierCommandsQueueCheckAndBegin :
    let img := fun (d : Dev) => d.write (pantryAt 0 0x2000) tObj.bytes
    let full := dev fun d => d.setTier 0 { TierState.init with queue := List.replicate 512 (tCmd 1 0 0 0) }
    let check := fun (s : State) c => (s.dev.setTier 0 { s.dev.tier 0 with queue := [] }).tierCheck 0 c
    let good := fun (s : State) c => s.on ∧ s.dev.canon ∧ s.dev.tierNext 0 false = some (c, []) ∧ s.dev.bad (objPlace 0 (c.objId % 2 ^ 20) / 64) = false
    let up := pantryAt 0 0x1000
    let pr := tCmd 3 1 up 0
    let over_ := tTier tObj pr (fun d => d.setTierUse 0 8 1 100)
    (State.reset.admits (stewardOf 0) ∧ State.reset.dev.canon ∧ hostDriver ≠ stewardOf 0 ∧ (State.reset.dev.tier 0).queue.length < 512) ∧
    (full.admits (stewardOf 0) ∧ full.dev.canon ∧ 512 ≤ (full.dev.tier 0).queue.length) ∧
    (∀ p ∈ [(tObj, tCmd 1 0 (pantryAt 0 0x2000) 0), (tUp, tCmd 2 0 0 0), (tObj, tCmd 3 1 0 0), (tObj, tCmd 4 0 7 0), (tObj, tCmd 5 0 7 0), (tObj, tCmd 6 0 7 0)],
      good (tTier p.1 p.2 img) p.2 ∧ check (tTier p.1 p.2 img) p.2 ≠ none) ∧
    (∀ p ∈ [({ tObj with state := 0 }, tCmd 1 0 (pantryAt 0 0x2000) 0), (tObj, tCmd 2 0 0 0), (tUp, pr), ({ tUp with curAddr := pantryAt 0 0 }, pr), (tObj, pr),
        ({ tUp with refMask := 257 }, tCmd 4 0 0 0), (tUp, tCmd 4 0 0 0), (tUp, tCmd 5 0 0 0), (tUp, tCmd 6 0 0 0)],
      good (tTier p.1 p.2 img) p.2 ∧ check (tTier p.1 p.2 img) p.2 = none) ∧
    (tUp.upper = true ∧ tUp.curTier = 1 ∧ tUp.curAddr = up ∧ tObj.upper = false) ∧
    ((tTier tObj pr id).dev.tierUse 0 8 1 + 1 ≤ (tTier tObj pr id).dev.quota 8 (quotaOff 1)) ∧
    (good over_ pr ∧ check over_ pr = none ∧ over_.dev.quota 8 (quotaOff 1) < over_.dev.tierUse 0 8 1 + 1) ∧
    (clearBit 257 8 ≠ 0 ∧ clearBit tUp.refMask 8 = 0) := by
  and_intros <;> (try dsimp only [State.on, State.serves, State.admits, Dev.canon]) <;> decide +kernel

def tTierRun (w : TierWork) (n : Nat) : TierRun := ⟨tCmd 3 1 (pantryAt 0 0x1000) n, 2, 0, w, 0, 0, [], 0⟩
theorem witness_TierCommandsCompleteOrFail :
    let run := fun (r : TierRun) (o : Obj) => dev fun d => (d.ticking.withMem.putObj 0 5 o).setTier 0 { TierState.init with int := some r }
    let c := { tUp with state := 2 }
    let s := run (tTierRun .copy 0) c
    let l := tTierRun .copy (2 ^ 16)
    (∀ p ∈ [(tTierRun .none 0x7FF, tObj), (tTierRun .copy 0, c), (tTierRun .copy 0, { c with homeTier := 4 }), (l, c)],
      (run p.1 p.2).on ∧ (run p.1 p.2).dev.canon ∧ ((run p.1 p.2).dev.tier 0).run false = some p.1 ∧ p.1.left = 0 ∧ p.1.ids = [] ∧ p.1.bad = 0 ∧
      (run p.1 p.2).dev.obj 0 5 = p.2) ∧
    ((tTierRun .none 0x7FF).cmd.w3.toNat / 1024 % 2 = 1 ∧ (tTierRun .none 0x7FF).cmd.w3.toNat % 1024 = 1023) ∧
    (s.dev.place c.curAddr = some c.curAddr ∧ c.curAddr % 64 = 0 ∧ s.dev.firstBad c.homeAddr 4096 = none ∧ reserveBase 0 + 0x10000000 ≤ c.curAddr ∧
      c.homeAddr + 4096 ≤ c.curAddr ∧ c.homeAddr + 4096 ≤ reserveBase 0) ∧
    ((run l c).dev.tickNo < l.cmd.pushed + l.cmd.deadline ∧ l.cmd.pushed + l.cmd.deadline ≤ ((run l c).dev.advanceTo 312500).tickNo) := by
  and_intros <;> (try dsimp only [State.on, Dev.canon]) <;> decide +kernel

theorem witness_HostReadsAndWritesWholeLines :
    let s := fun (e : SMap (BitVec 16)) => dev fun d => { d.withMem.puts [(Reg.CXL_HDM, F.CXL_HDM_COMMITTED, 1), (Reg.CXL_HDM, F.CXL_HDM_BASE, 1)] with lineErr := e }
    let g := s []
    let b := s [(0x200000000 / 64, 7#16)]
    let w := dev fun d => d.hostWrite .event 3 0x1000 [1, 2]
    (∀ t ∈ [g, b], t.on ∧ t.dev.ioOnly = false ∧ t.dev.ideBlocked = false ∧ t.dev.recovery = false ∧ t.dev.canon) ∧
    (g.dev.hdmDecode 0xFFFFFFF = none ∧ g.dev.hdmDecode (0x10000000 + dramSize) = none ∧ g.dev.hdmDecode 0x10000000 = some 0 ∧ g.dev.rangeAt 0 = none ∧
      g.dev.hdmDecode 0x210000000 = some 0x200000000 ∧ inReserve 0x200000000 = false ∧ g.dev.rangeAt 0x2001FFFC0 ≠ none ∧ g.dev.rangeAt 0x200200000 = none ∧
      inReserve (dramSize - 64) = true) ∧ (g.dev.bad (0x200000000 / 64) = false ∧ b.dev.bad (0x200000000 / 64) = true) ∧
    (w.on ∧ w.dev.ideBlocked = false ∧ (w.dev.hostWrites.find? (·.id == w.dev.hostNext - 1)).map (·.kind.retried) = some true) := by
  and_intros <;> (try dsimp only [State.on, Dev.canon]) <;> decide +kernel
end Sys2Proof.Machine
end

