-- ==== Sys2Proof/WellFormed.lean ====
section
/-! DEFINITION. WellFormed: the operands a command may have beyond what its types say. -/
namespace Sys2Proof

/-- A 64-bit word of BAR0 (R489). -/
def bar0Word (off : Nat) : Bool := decide (off < 0x4000000) && off % 8 == 0

/-- The command's operands have the sizes the spec gives them: lines of 64 bytes, pages of 4096, entries of 256 (R217), ring records of
16,384 (R253), records of RADIO_CODE of 16 (R289), six loads (R525), and offsets within BAR0. -/
def Instr.wellFormed (i : Instr) : Bool :=
  match i with
  | .powerOnReset => true
  | .resetPin => true
  | .tileResetRequest .. => true
  | .coreResetRequest .. => true
  | .fallbackTileReset .. => true
  | .stuckCoreReset .. => true
  | .landingArrival _ _ flag _ => decide (flag < 2 ^ 32)
  | .eventRecordWrite => true
  | .tickEdge => true
  | .windowEdge .. => true
  | .boundarySnapshot .. => true
  | .tickPlanCommit .. => true
  | .commitDeadline .. => true
  | .tickTrimWrite .. => true
  | .stretchPauseStart .. => true
  | .stretchPauseEnd .. => true
  | .radioAtRisk .. => true
  | .loadFromSrc _ _ bytes _ => decide (bytes.length ≤ 0x1000000 + 2496)
  | .loadFromFlash .. => true
  | .recipeDiscardStaged .. => true
  | .openLock .. => true
  | .closeLock .. => true
  | .recipeCheck => true
  | .recipeActivation => true
  | .recipePersistDone .. => true
  | .recipeReload => true
  | .reloadEnd => true
  | .errorCaptureClear _ off => bar0Word off
  | .rcCounterRead _ off => bar0Word off
  | .registerWrite _ off size _ => decide (off < 0x4000000) && (size == 1 || size == 2 || size == 4 || size == 8)
  | .kneadLoafStart .. => true
  | .kneadLoafComplete .. => true
  | .nop .. => true
  | .kend .. => true
  | .waitat .. => true
  | .loop .. => true
  | .sli .. => true
  | .saddi .. => true
  | .pass .. => true
  | .dma .. => true
  | .signal .. => true
  | .take .. => true
  | .watch .. => true
  | .shape .. => true
  | .vld .. => true
  | .vst .. => true
  | .vqst .. => true
  | .vadd .. => true
  | .vsub .. => true
  | .vmul .. => true
  | .vfma .. => true
  | .vmax .. => true
  | .vmin .. => true
  | .vcmplt .. => true
  | .vsel .. => true
  | .vimm .. => true
  | .viadd .. => true
  | .vcvt .. => true
  | .vrope .. => true
  | .vexp2 .. => true
  | .vrecip .. => true
  | .vrsqrt .. => true
  | .vrsum .. => true
  | .vrmax .. => true
  | .vrand .. => true
  | .passEntry .. => true
  | .passEnd .. => true
  | .dmaBegin .. => true
  | .dmaComplete .. => true
  | .kneadContextWrite .. => true
  | .replayRegisterWrite .. => true
  | .sieveContextWrite .. => true
  | .sieveLoafStart .. => true
  | .sieveJobBegin .. => true
  | .sieveJobComplete .. => true
  | .tierCmdPush .. => true
  | .tierDefine .. => true
  | .tierRetire .. => true
  | .tierPromote .. => true
  | .tierEvict .. => true
  | .tierClean .. => true
  | .tierDiscard .. => true
  | .tierCmdComplete _ _ lower => lower.length % 4096 == 0
  | .tierDeadline .. => true
  | .lowerTierFailure _ _ page => decide (page < 2 ^ 20)
  | .tierFlagClear .. => true
  | .hdmRead .. => true
  | .hdmWrite _ data _ => data.length == 64
  | .h2dSnoop .. => true
  | .hostWriteDone .. => true
  | .hostWriteRetry .. => true
  | .trayDoorbell .. => true
  | .trayFetchDone _ entries _ => entries.all (·.length == 256)
  | .trayAbort .. => true
  | .serviceTransferStart .. => true
  | .contextSaved .. => true
  | .contextRestored .. => true
  | .benchZeroed .. => true
  | .imageCopyDone .. => true
  | .serviceFaulted .. => true
  | .radioReqDoorbell .. => true
  | .radioReqFetchDone _ recs _ => recs.all (·.length == 16384)
  | .ulCplaneEgress _ cell => decide (cell < 2 ^ 16)
  | .dlEgress _ cell => decide (cell < 2 ^ 16)
  | .ulIndicationDelivery _ cell => decide (cell < 2 ^ 16)
  | .sigLoafStart _ _ rec => rec.length == 16
  | .sigLoafComplete .. => true
  | .sigResultLand .. => true
  | .sigNop .. => true
  | .cmul .. => true
  | .cmac .. => true
  | .cmulj .. => true
  | .cmacj .. => true
  | .sigVadd .. => true
  | .sigVsub .. => true
  | .vnarrow .. => true
  | .vwiden .. => true
  | .vshlv .. => true
  | .vunpk .. => true
  | .vperm .. => true
  | .sigVld .. => true
  | .sigVst .. => true
  | .sld .. => true
  | .sst .. => true
  | .xfer .. => true
  | .intpt .. => true
  | .sadd .. => true
  | .ssub .. => true
  | .sand .. => true
  | .sor .. => true
  | .sxor .. => true
  | .sshl .. => true
  | .sshr .. => true
  | .sigSaddi .. => true
  | .sigSli .. => true
  | .br .. => true
  | .sigLoop .. => true
  | .sigSignal .. => true
  | .sigTake .. => true
  | .sigWatch .. => true
  | .sigWaitat .. => true
  | .settmr .. => true
  | .armw .. => true
  | .irqen .. => true
  | .reti .. => true
  | .sigEnd .. => true
  | .sigTimerFire .. => true
  | .sigCounterFire .. => true
  | .sigXferBegin .. => true
  | .sigXferComplete .. => true
  | .codecLoafStart _ _ rec => rec.length == 16
  | .ldpcDecode .. => true
  | .ldpcEncode .. => true
  | .polarEncode .. => true
  | .polarDecode .. => true
  | .prachDetect .. => true
  | .codecDescComplete .. => true
  | .codecInternalFault .. => true
  | .timeNowSecRead .. => true
  | .ppsInEdge .. => true
  | .servoUpdate .. => true
  | .freqSourceEvaluation .. => true
  | .sourceLoss .. => true
  | .holdoverExpiry => true
  | .ptpMessageSend .. => true
  | .timeStepCmd .. => true
  | .pulseCtrlWrite .. => true
  | .pulseEdge .. => true
  | .captureEdge .. => true
  | .capturePop .. => true
  | .ethLinkDown .. => true
  | .ethLinkUp .. => true
  | .ethFrameReceive .. => true
  | .ethTxSelect .. => true
  | .gateIntervalChange .. => true
  | .gateChangeCmd .. => true
  | .gateCancelCmd .. => true
  | .gateAdminWrite .. => true
  | .gateTakeover .. => true
  | .queueSample => true
  | .histSnap .. => true
  | .braidLinkUp .. => true
  | .braidLinkDown .. => true
  | .laneUnfence .. => true
  | .flitReceive .. => true
  | .packetForward .. => true
  | .braidReadIssue .. => true
  | .braidWriteIssue .. => true
  | .braidFence .. => true
  | .braidIssueResume => true
  | .braidReadArrive => true
  | .braidWriteArrive => true
  | .braidReadRespArrive => true
  | .braidAckArrive => true
  | .braidRefuseArrive => true
  | .braidRetryTimeout => true
  | .deadTargetTimeout => true
  | .braidTxSelect .. => true
  | .aliasWrite .. => true
  | .putArm .. => true
  | .putLaunch .. => true
  | .counterEvaluate .. => true
  | .waitRelease .. => true
  | .waitTimeout .. => true
  | .proofHostSignal .. => true
  | .proofStewardSignal .. => true
  | .landingSignalApply .. => true
  | .proofCtrWrite .. => true
  | .peelLockRead .. => true
  | .peelDataAccess .. => true
  | .peelHandoff .. => true
  | .peelRelease .. => true
  | .echo .. => true
  | .readCounter .. => true
  | .reportContexts .. => true
  | .sliceResetDrain .. => true
  | .sliceResetSquash .. => true
  | .sliceFreeze .. => true
  | .sliceRestore .. => true
  | .sliceRelease .. => true
  | .sliceResetComplete .. => true
  | .sliceFreezeComplete .. => true
  | .sliceRestoreInstall .. => true
  | .unboundPasidAccess _ off _ => decide (off < 0x4000000)
  | .deviceRingAddressWrite .. => true
  | .lineRefetch place _ _ => place % 64 == 0
  | .pageRepairDone _ page => page.length == 4096
  | .testRawWrite .. => true
  | .testRawRead .. => true
  | .scrubRead .. => true
  | .fieldRecordWrite .. => true
  | .heartbeatSend => true
  | .heartbeatArrive => true
  | .heartbeatDue => true
  | .abortNoticeArrive => true
  | .abortNoticeSend => true
  | .epochStage .. => true
  | .epochStageForce .. => true
  | .epochDiscard .. => true
  | .hostFence .. => true
  | .epochRecordCheck .. => true
  | .epochInstall => true
  | .isolationFence => true
  | .collectiveDeclare _ _ _ list _ => list.length % 2 == 0
  | .collectiveHostAbort .. => true
  | .shadowSet .. => true
  | .shadowQualify => true
  | .cxlLinkTrained width _ _ _ _ => width == 8 || width == 16
  | .cxlLinkReset => true
  | .cxlLinkDegraded width _ _ => width == 8 || width == 16
  | .atsInvalidation .. => true
  | .hdmCommit .. => true
  | .msixUnmask .. => true
  | .doeDiscovery .. => true
  | .cdatRead .. => true
  | .getVersion .. => true
  | .getCapabilities .. => true
  | .negotiateAlgorithms .. => true
  | .getDigests .. => true
  | .getCertificate .. => true
  | .challenge .. => true
  | .getMeasurements .. => true
  | .keyExchange .. => true
  | .finish .. => true
  | .endSession .. => true
  | .spdmHeartbeat .. => true
  | .keyUpdate .. => true
  | .chunkSend .. => true
  | .chunkGet .. => true
  | .ideKmQuery .. => true
  | .keyProg .. => true
  | .kSetGo .. => true
  | .kSetStop .. => true
  | .ideIntegrityFailure .. => true
  | .railsInRegulation cellsOff => decide (cellsOff ≤ 100)
  | .firmwareVerify => true
  | .repairImageCheck => true
  | .dramTrainingComplete => true
  | .fwStage .. => true
  | .fwApplyAtReset .. => true
  | .fwApplyLive .. => true
  | .fwDiscard .. => true
  | .stageRepairImage .. => true
  | .fwFlashWriteDone .. => true
  | .fwLiveTileStep .. => true
  | .fwApplyTileTimeout => true
  | .clearFenceRecords .. => true
  | .clearFieldRecords .. => true
  | .vinLow .. => true
  | .shutdown .. => true
  | .overvoltageRecovery => true
  | .ballastUpdate loads => loads.length == 6
  | .emergencyBegin .. => true
  | .tempSensorRead .. => true
  | .vinOpenDetect .. => true
  | .sidebandFault .. => true
  | .referenceClockReturn => true
  | .emergencyEnd .. => true
  | .ldpcEarlyTermination .. => true
  | .sliceImageFetchDone _ image _ => image.length % 64 == 0
  | .fwImageFetchDone .. => true

end Sys2Proof
end

section
/-! SUPPORT. Windows: the spread of a window's lines over tiles, channels and pages (R354), and why it is one to one. A line's DPA is
read back field by field (R187), and the fields give back the line's number in the window. -/
namespace Sys2Proof.Machine

/-! ## fold6 -/

/-- XORing the six-bit groups of `j` into `x` one after the other is one XOR with `fold6`. -/
theorem foldl_xor_groups (k : Nat) (x : BitVec 6) (j : Nat) :
    (List.range k).foldl (fun (x : BitVec 6) g => x ^^^ BitVec.ofNat 6 (j / 64 ^ g)) x = x ^^^ BitVec.ofNat 6 (fold6 k j) := by
  induction k generalizing x j with
  | zero => simp [fold6]
  | succ k ih =>
    have groups_above (g : Nat) : j / 64 ^ (g + 1) = j / 64 / 64 ^ g := by rw [Nat.div_div_eq_div_mul, Nat.pow_succ']
    simp only [List.range_succ_eq_map, List.foldl_cons, List.foldl_map, groups_above, ih, fold6, pow_zero, Nat.div_one,
      BitVec.ofNat_toNat, BitVec.setWidth_eq, BitVec.xor_assoc]

theorem fold6_lt (k j : Nat) : fold6 k j < 64 := by
  cases k with
  | zero => simp [fold6]
  | succ k => exact BitVec.isLt _

theorem fold6_eq_foldl (k j : Nat) :
    fold6 k j = ((List.range k).foldl (fun (x : BitVec 6) g => x ^^^ BitVec.ofNat 6 (j / 64 ^ g)) 0#6).toNat := by
  rw [foldl_xor_groups, BitVec.zero_xor, BitVec.toNat_ofNat, Nat.mod_eq_of_lt (fold6_lt k j)]

/-! ## The channel of a line -/

/-- The channel `k` of its tile on which line `m` of the tile's share of a window lies. -/
def windowChannel (m : Nat) : Nat := (BitVec.ofNat 6 m ^^^ BitVec.ofNat 6 (fold6 12 (m / 64))).toNat

theorem windowChannel_lt (m : Nat) : windowChannel m < 64 := BitVec.isLt _

/-- Lines of one index `j` on their channels are told apart by the channel: the XOR with `fold6 j` can be undone. -/
theorem windowChannel_inj {m m' : Nat} (hj : m / 64 = m' / 64) (hk : windowChannel m = windowChannel m') : m = m' := by
  have low : BitVec.ofNat 6 m = BitVec.ofNat 6 m' := by
    have h := BitVec.eq_of_toNat_eq hk
    rw [hj] at h
    exact BitVec.xor_left_inj _ |>.mp h
  have : m % 64 = m' % 64 := by simpa using congrArg BitVec.toNat low
  omega

/-! ## The fields of a DPA -/

/-- The DPA of the line on channel `k` of tile `t` that is the `l`-th of its channel in span page `page` (R187, R354). -/
def spanDpa (t k page l : Nat) : Nat := t * 2 ^ 37 + k / 4 * 2 ^ 33 + k / 2 % 2 * 2 ^ 32 + page * 4096 + (2 * l + k % 2) * 64

variable {t k page l t' k' page' l' : Nat}

theorem spanDpa_tile (hk : k < 64) (hp : page < 2 ^ 20) (hl : l < 32) : spanDpa t k page l / 2 ^ 37 = t := by
  unfold spanDpa; omega

theorem spanDpa_channel (hk : k < 64) (hp : page < 2 ^ 20) (hl : l < 32) : channelOf (spanDpa t k page l) = k := by
  have bits : 4 * (k / 4 % 16) + 2 * (k / 2 % 2) + k % 2 = k := by omega
  have position : spanDpa t k page l / 2 ^ 33 = 16 * t + k / 4 := by unfold spanDpa; omega
  have half : spanDpa t k page l / 2 ^ 32 = 2 * (16 * t + k / 4) + k / 2 % 2 := by unfold spanDpa; omega
  have parity : spanDpa t k page l / 64 % 2 = k % 2 := by unfold spanDpa; omega
  rw [channelOf, position, half, parity, Nat.mul_add_mod, Nat.mul_add_mod, Nat.mod_mod, bits]

theorem spanDpa_page (hp : page < 2 ^ 20) (hl : l < 32) : spanDpa t k page l / 4096 % 2 ^ 20 = page := by
  unfold spanDpa; omega

theorem spanDpa_place (hl : l < 32) : spanDpa t k page l / 128 % 32 = l := by
  unfold spanDpa; omega

theorem spanDpa_inj (hk : k < 64) (hp : page < 2 ^ 20) (hl : l < 32) (hk' : k' < 64) (hp' : page' < 2 ^ 20) (hl' : l' < 32)
    (h : spanDpa t k page l = spanDpa t' k' page' l') : t = t' ∧ k = k' ∧ page = page' ∧ l = l' := by
  refine ⟨?_, ?_, ?_, ?_⟩
  · rw [← spanDpa_tile (t := t) hk hp hl, h, spanDpa_tile hk' hp' hl']
  · rw [← spanDpa_channel (t := t) hk hp hl, h, spanDpa_channel hk' hp' hl']
  · rw [← spanDpa_page (t := t) (k := k) hp hl, h, spanDpa_page hp' hl']
  · rw [← spanDpa_place (t := t) (k := k) (page := page) hl, h, spanDpa_place hl']

/-! ## The lines of a window -/

theorem windowDpa_line (w : Bytes) (n : Nat) :
    windowDpa w (leAt w 0 8 + 64 * n) = spanDpa (n % 6) (windowChannel (n / 6)) (leAt w 8 4 + n / 6 / 64 / 32) (n / 6 / 64 % 32) := by
  have line : (leAt w 0 8 + 64 * n - leAt w 0 8) / 64 = n := by omega
  simp only [windowDpa, line, spanDpa, windowChannel]

/-- A line of a window lies in the window's pages: a page spreads over the 384 channels with 32 lines on each. -/
theorem windowPage_lt {n lo pages : Nat} (hw : lo + pages ≤ 2 ^ 20) (hn : n < 192 * 64 * pages) :
    lo + n / 6 / 64 / 32 < lo + pages ∧ lo + n / 6 / 64 / 32 < 2 ^ 20 := by omega

/-- A line's place on its channel within a page is one of 32. -/
theorem windowPlace_lt (n : Nat) : n / 6 / 64 % 32 < 32 := Nat.mod_lt _ (by decide)

/-- The address of a line gives back its tile, channel, page and place; page and place give its index on the channel, the index and the
channel give its number on the tile (`windowChannel_inj`), and this and the tile give the line. -/
theorem windowDpa_line_inj {w : Bytes} {a n : Nat} (hw : leAt w 8 4 + leAt w 12 4 ≤ 2 ^ 20) (ha : a < 192 * 64 * leAt w 12 4)
    (hn : n < 192 * 64 * leAt w 12 4) (h : windowDpa w (leAt w 0 8 + 64 * a) = windowDpa w (leAt w 0 8 + 64 * n)) : a = n := by
  rw [windowDpa_line, windowDpa_line] at h
  obtain ⟨tile, channel, page, place⟩ := spanDpa_inj (windowChannel_lt _) (windowPage_lt hw ha).2 (windowPlace_lt a)
    (windowChannel_lt _) (windowPage_lt hw hn).2 (windowPlace_lt n) h
  have index : a / 6 / 64 = n / 6 / 64 := by omega
  have onTile : a / 6 = n / 6 := windowChannel_inj index channel
  omega

/-- Settles O42: the address is R354's, R187 reads its fields back, and the fields determine the line. -/
theorem windowLinesSpreadOneToOne : Obligations.WindowLinesSpreadOneToOne := by
  refine ⟨fun j _ => fold6_eq_foldl 12 j, fun w a n hw ha hn => ?_⟩
  obtain ⟨inWindow, inSpan⟩ := windowPage_lt hw hn
  have hk := windowChannel_lt (n / 6)
  have hl := windowPlace_lt n
  refine ⟨windowDpa_line w n, ?_, ?_, ?_, ?_, windowDpa_line_inj hw ha hn⟩ <;> dsimp only <;> rw [windowDpa_line]
  · exact spanDpa_tile hk inSpan hl
  · exact spanDpa_channel hk inSpan hl
  · rw [spanDpa_page inSpan hl]
    exact Nat.le_add_right _ _
  · rw [spanDpa_page inSpan hl]
    exact inWindow

end Sys2Proof.Machine
end

section
/-! SUPPORT. Peel data: who reads and writes the data words of a peel channel (R400). -/
namespace Sys2Proof.Machine

/-- One write of a register changes no other. -/
theorem Dev.sameRegs_setReg {d : Dev} (a : Nat) (v : Word) (h : d.canon) : d.sameRegs (d.setReg a v) (· = a) :=
  fun _ hb => Dev.reg_setReg_ne v h (Ne.symm hb)

/-! ## A refused use of a channel -/

theorem Dev.peelRefuse_regs (d : Dev) (n what m : Nat) : (d.peelRefuse n what m).regs = d.regs := Dev.raise_regs ..
theorem Dev.peelRefuse_mem (d : Dev) (n what m : Nat) : (d.peelRefuse n what m).mem = d.mem := Dev.raise_mem ..

/-- The event of a refused use names the channel, and what was refused in the low byte of its detail (Table 16.12). -/
theorem Dev.raised_peelRefuse (d : Dev) (n m : Nat) {what : Nat} (hw : what < 2 ^ 8) :
    d.raised (d.peelRefuse n what m) fun r => r.code = 0xB010 ∧ r.object = BitVec.ofNat 32 n ∧ r.detail.toNat % 2 ^ 8 = what := by
  refine ⟨_, ⟨rfl, rfl, ?_⟩, rfl⟩
  rw [BitVec.toNat_ofNat]
  omega

/-! ## The access, by who makes it -/

variable {n w : Nat} {m : Nat} {v : Word} {d : Dev}

theorem peelDataAccessEffect_read_owner (hm : m ≠ 0) (ho : d.peelOwner n = m) :
    peelDataAccessEffect m n w none d = { d with readOut := d.reg (Reg.PEEL_DATA n w) } := by
  simp [peelDataAccessEffect, ho, hm]

theorem peelDataAccessEffect_write_owner (hm : m ≠ 0) (ho : d.peelOwner n = m) :
    peelDataAccessEffect m n w (some v) d = d.setReg (Reg.PEEL_DATA n w) v := by
  simp [peelDataAccessEffect, ho, hm]

theorem peelDataAccessEffect_read_other (ho : d.peelOwner n ≠ m) :
    peelDataAccessEffect m n w none d = { d with readOut := 0#64 } := by
  simp [peelDataAccessEffect, ho]

theorem peelDataAccessEffect_write_other (ho : d.peelOwner n ≠ m) :
    peelDataAccessEffect m n w (some v) d = d.peelRefuse n 2 m := by
  simp [peelDataAccessEffect, ho]

theorem exec_peelDataAccess_read (m : Master) (n : PeelIx) (w : Fin 16) (s : State) :
    exec (.peelDataAccess m n w none) s = ranRead m s (peelDataAccessEffect m.toNat n w none) := rfl
theorem exec_peelDataAccess_write (m : Master) (n : PeelIx) (w : Fin 16) (v : Word) (s : State) :
    exec (.peelDataAccess m n w (some v)) s = ranFrom m s (peelDataAccessEffect m.toNat n w (some v)) := rfl

/-- Settles O47: the owner's access is a read or a write of the word's register; any other master's is answered by zero or refused. -/
theorem onlyTheOwnerUsesPeelData : Obligations.OnlyTheOwnerUsesPeelData := by
  intro m n w v s hs hc hm
  have hm : m.toNat ≠ 0 := fun h => hm (BitVec.eq_of_toNat_eq h)
  refine ⟨fun owner => ⟨?_, ?_⟩, fun other => ⟨?_, ?_⟩⟩
  · exact runs_ranRead (exec_peelDataAccess_read ..) hs (peelDataAccessEffect_read_owner hm owner)
  · refine runs_ranFrom (exec_peelDataAccess_write ..) hs ?_
    rw [peelDataAccessEffect_write_owner hm owner]
    exact ⟨Dev.reg_setReg_self _ v hc, Dev.sameRegs_setReg _ v hc, Dev.setReg_mem .., Dev.setReg_ev ..⟩
  · exact runs_ranRead (exec_peelDataAccess_read ..) hs (peelDataAccessEffect_read_other other)
  · refine runs_ranFrom (exec_peelDataAccess_write ..) hs ?_
    rw [peelDataAccessEffect_write_other other]
    exact ⟨Dev.peelRefuse_regs .., Dev.peelRefuse_mem .., Dev.raised_peelRefuse _ _ _ (by decide)⟩

/-- The last channel, owned by the host driver: the owner's and another master's access both meet the hypotheses of O47. -/
theorem witness_OnlyTheOwnerUsesPeelData :
    let s := dev fun d => d.puts [(Reg.PEEL_STATUS 63, F.PEEL_STATUS_OWNER, 0xC0FF)]
    s.dev.canon ∧ (s.admits hostDriver ∧ hostDriver ≠ 0 ∧ s.dev.peelOwner 63 = hostDriver.toNat) ∧
      s.admits (stewardOf 0) ∧ stewardOf 0 ≠ 0 ∧ s.dev.peelOwner 63 ≠ (stewardOf 0).toNat := by
  dsimp only [State.on, State.serves, State.admits, Dev.canon]; decide +kernel

end Sys2Proof.Machine
end

section
/-! SUPPORT. Unbound: an access under a PASID that no enabled slice is bound to (R409). -/
namespace Sys2Proof.Machine

variable {d : Dev} {pasid off : Nat} {wr : Bool}

/-- No enabled slice is bound to the PASID. -/
def Dev.unbound (d : Dev) (pasid : Nat) : Prop := ∀ i < 64, d.sliceOn i = true → d.getF (Reg.SLICE_CFG i) F.SLICE_CFG_PASID ≠ pasid

/-- What the host is told of an unbound access: a count in SLICE_UNBOUND and event 0xC006. -/
def Dev.tellUnbound (d : Dev) (pasid off : Nat) (wr : Bool) : Dev :=
  (d.count Reg.SLICE_UNBOUND F.SLICE_UNBOUND_COUNT 1).raise 0xC006 0xFF cxlPort pasid (off % 2 ^ 32 + (if wr then 2 ^ 32 else 0))

/-! ## The count and the event -/

/-- A counter changes the register file and nothing else. -/
theorem Dev.count_frame (d : Dev) (a : Nat) (f : Fld) (n : Nat) : d.count a f n = { d with regs := (d.count a f n).regs } := by
  obtain e | ⟨w, e⟩ := d.count_cases a f n <;> rw [e]
  rfl

theorem Dev.getF_tellUnbound (h : d.canon) (hn : d.getF Reg.SLICE_UNBOUND F.SLICE_UNBOUND_COUNT < 2 ^ 32 - 1) :
    (d.tellUnbound pasid off wr).getF Reg.SLICE_UNBOUND F.SLICE_UNBOUND_COUNT = d.getF Reg.SLICE_UNBOUND F.SLICE_UNBOUND_COUNT + 1 :=
  Dev.getF_count _ _ 1 h (by decide) (Nat.add_lt_of_lt_sub hn)

theorem Dev.sameRegs_tellUnbound (h : d.canon) : d.sameRegs (d.tellUnbound pasid off wr) (· = Reg.SLICE_UNBOUND) :=
  d.sameRegs_count _ _ _ h

/-- The event of an unbound access names the PASID. -/
theorem Dev.raised_tellUnbound : d.raised (d.tellUnbound pasid off wr) fun r => r.code = 0xC006 ∧ r.object = BitVec.ofNat 32 pasid :=
  ⟨_, ⟨rfl, rfl⟩, congrArg (fun ev : EvState => insertEvent ev.arisen _) (d.count_ev ..)⟩

theorem Dev.tellUnbound_readOut : (d.tellUnbound pasid off wr).readOut = d.readOut := d.count_readOut ..

theorem Dev.tellUnbound_frame : let e := d.tellUnbound pasid off wr
    e = { d with regs := e.regs, readOut := e.readOut, ev := e.ev } := by
  unfold Dev.tellUnbound
  rw [Dev.count_frame]
  rfl

/-! ## The access -/

theorem Dev.unbound.no_slice_matches (h : d.unbound pasid) :
    ((List.range 64).any fun s => d.sliceOn s && d.getF (Reg.SLICE_CFG s) F.SLICE_CFG_PASID == pasid) = false := by
  rw [List.any_eq_false]
  intro i hi hit
  obtain ⟨on, eq⟩ := Bool.and_eq_true_iff.mp hit
  exact h i (List.mem_range.mp hi) on (beq_iff_eq.mp eq)

theorem unboundPasidAccessEffect_write (h : d.unbound pasid) :
    unboundPasidAccessEffect pasid off true d = d.tellUnbound pasid off true := by
  rw [unboundPasidAccessEffect, h.no_slice_matches]
  rfl

theorem unboundPasidAccessEffect_read (h : d.unbound pasid) :
    unboundPasidAccessEffect pasid off false d = ({ d with readOut := 0#64 } : Dev).tellUnbound pasid off false := by
  rw [unboundPasidAccessEffect, h.no_slice_matches]
  rfl

theorem exec_unboundPasidAccess_write (pasid : BitVec 20) (off : Nat) (s : State) :
    exec (.unboundPasidAccess pasid off true) s = ranFrom hostDriver s (unboundPasidAccessEffect pasid.toNat off true) := rfl
theorem exec_unboundPasidAccess_read (pasid : BitVec 20) (off : Nat) (s : State) :
    exec (.unboundPasidAccess pasid off false) s = ranRead hostDriver s (unboundPasidAccessEffect pasid.toNat off false) := rfl

/-- Settles O48: a write only tells of itself; a read first leaves zero to be read and then tells of itself. -/
theorem unboundPasidsReadZero : Obligations.UnboundPasidsReadZero := by
  intro pasid off wr s hs hc hu
  have object : pasid.setWidth 32 = BitVec.ofNat 32 pasid.toNat := (BitVec.ofNat_toNat ..).symm
  rw [object]
  cases wr with
  | true =>
    refine runs_ranFrom (exec_unboundPasidAccess_write ..) hs ?_
    rw [unboundPasidAccessEffect_write hu]
    exact ⟨nofun, Dev.getF_tellUnbound hc, Dev.sameRegs_tellUnbound hc, Dev.raised_tellUnbound, Dev.tellUnbound_frame⟩
  | false =>
    refine runs_ranRead (exec_unboundPasidAccess_read ..) hs ?_
    rw [unboundPasidAccessEffect_read hu]
    have zeroed : ({ s.dev with readOut := 0#64 } : Dev).canon := hc
    exact ⟨fun _ => Dev.tellUnbound_readOut, Dev.getF_tellUnbound zeroed, Dev.sameRegs_tellUnbound zeroed, Dev.raised_tellUnbound, Dev.tellUnbound_frame⟩

/-- Slice 63 is enabled under the largest PASID but one, slice 0 holds the largest and is not enabled, and the count is one short of full:
an access under the largest PASID meets the hypotheses of O48. -/
theorem witness_UnboundPasidsReadZero :
    let s := dev fun d => d.puts [(Reg.SLICE_CFG 0, F.SLICE_CFG_PASID, 2 ^ 20 - 1), (Reg.SLICE_CFG 63, F.SLICE_CFG_PASID, 2 ^ 20 - 2),
      (Reg.SLICE_CFG 63, F.SLICE_CFG_EN, 1), (Reg.SLICE_UNBOUND, F.SLICE_UNBOUND_COUNT, 2 ^ 32 - 2)]
    s.admits hostDriver ∧ s.dev.canon ∧ s.dev.sliceOn 63 = true ∧ s.dev.getF Reg.SLICE_UNBOUND F.SLICE_UNBOUND_COUNT = 2 ^ 32 - 2 ∧
      s.dev.unbound (0xFFFFF#20).toNat := by
  dsimp only [State.on, State.serves, State.admits, Dev.canon, Dev.unbound]; decide +kernel

end Sys2Proof.Machine
end

section
/-! SUPPORT. Canon: every operation of the model keeps the canonical form. `h : d.canon` is carried through an operation `f` by `h.f`, so the
proof about a function names, in their order, the operations that the function is made of. -/
namespace Sys2Proof.Machine

-- One proof after another: with many at once their threads' stacks exceed the memory that the check allows.
set_option Elab.async false

variable {d e : Dev}

/-! ## Parts that the canonical form does not speak of -/

theorem Dev.canon.now {u : Nat} (h : d.canon) : ({ d with now := u } : Dev).canon := h
theorem Dev.canon.edge {n : Nat} (h : d.canon) : ({ d with edge := n } : Dev).canon := h
theorem Dev.canon.free {n : Nat} (h : d.canon) : ({ d with free := n } : Dev).canon := h
theorem Dev.canon.readOut {w : Word} (h : d.canon) : ({ d with readOut := w } : Dev).canon := h
theorem Dev.canon.ev {x : EvState} (h : d.canon) : ({ d with ev := x } : Dev).canon := h
theorem Dev.canon.hostWrites {l : List HostWrite} (h : d.canon) : ({ d with hostWrites := l } : Dev).canon := h
theorem Dev.canon.hostNext {n : Nat} (h : d.canon) : ({ d with hostNext := n } : Dev).canon := h
theorem Dev.canon.sent {l : List Output} (h : d.canon) : ({ d with sent := l } : Dev).canon := h
theorem Dev.canon.ctrs {x : CtrState} (h : d.canon) : ({ d with ctrs := x } : Dev).canon := h
theorem Dev.canon.asks {l : List BraidAsk} (h : d.canon) : ({ d with asks := l } : Dev).canon := h
theorem Dev.canon.time {x : TimeState} (h : d.canon) : ({ d with time := x } : Dev).canon := h
theorem Dev.canon.sampled {n : Nat} (h : d.canon) : ({ d with sampled := n } : Dev).canon := h
theorem Dev.canon.power {x : PowerState} (h : d.canon) : ({ d with power := x } : Dev).canon := h
theorem Dev.canon.peelSeen {l : List Nat} (h : d.canon) : ({ d with peelSeen := l } : Dev).canon := h
theorem Dev.canon.sliceTick {n : Nat} (h : d.canon) : ({ d with sliceTick := n } : Dev).canon := h
theorem Dev.canon.integ {x : IntegState} (h : d.canon) : ({ d with integ := x } : Dev).canon := h
theorem Dev.canon.memb {x : MembState} (h : d.canon) : ({ d with memb := x } : Dev).canon := h
theorem Dev.canon.sp {x : SecState} (h : d.canon) : ({ d with sp := x } : Dev).canon := h
theorem Dev.canon.recipe {x : RecipeState} (h : d.canon) : ({ d with recipe := x } : Dev).canon := h

/-! ## Choices and folds -/

theorem Dev.canon.ite {c : Prop} [Decidable c] (h : d.canon) (h' : e.canon) : (if c then d else e).canon := by split <;> assumption
theorem Dev.canon.foldl {α : Type} {f : Dev → α → Dev} {l : List α} (h : d.canon) (hf : ∀ {d x}, d.canon → (f d x).canon) : (l.foldl f d).canon :=
  Dev.canon_foldl f l (fun _ _ => hf) h

/-! ## Outcomes of an issue -/

/-- The device that an issue of a Knead core leaves, if any, is in canonical form. -/
def Issued.canon : Issued → Prop
  | .fail _ => True
  | .stay d => d.canon
  | .done d => d.canon
/-- The device that a slot of a signal core leaves, if any, is in canonical form. -/
def SigOut.canon : SigOut → Prop
  | .fail _ _ => True
  | .stay d => d.canon
  | .done d => d.canon

/-! ## Parts that it speaks of -/

theorem Dev.canon.setLineErr {ln : Nat} {x : BitVec 16} (h : d.canon) : ({ d with lineErr := store 0#16 d.lineErr ln x } : Dev).canon := by
  simpa only [Dev.canon, SMap.wf_store (d := fun _ => 0#16) _ x (Dev.canon_lineErr h), Dev.canon_lineErr h, true_and] using h
theorem Dev.canon.setMem {a : Nat} {l : Bytes} (h : d.canon) : ({ d with mem := storeBytes d.mem a l } : Dev).canon := by
  simpa only [Dev.canon, Memory.wf_storeBytes a l (Dev.canon_mem h), Dev.canon_mem h, true_and] using h
theorem Dev.canon.setCfg {c : SMap Bytes} (h : d.canon) (hc : SMap.wf (fun _ => []) c = true) : ({ d with cfg := c } : Dev).canon := by
  simpa only [Dev.canon, hc, Dev.canon_cfg h, true_and] using h
theorem Dev.canon.storeCfg {k : Nat} {s : Bytes} (h : d.canon) : ({ d with cfg := store [] d.cfg k s } : Dev).canon :=
  h.setCfg (SMap.wf_store (d := fun _ => []) k s (Dev.canon_cfg h))

/-- An image's sections are stored one by one, so the configuration they make is in canonical form. -/
theorem newCfg_wf {old : SMap Bytes} {l : Bytes} (h : SMap.wf (fun _ => []) old = true) : SMap.wf (fun _ => []) (newCfg old l) = true := by
  unfold newCfg
  refine List.foldlRecOn (motive := fun c => SMap.wf (fun _ => []) c = true) _ _ ?_ fun c hc e _ =>
    List.foldlRecOn (motive := fun c => SMap.wf (fun _ => []) c = true) _ _ hc fun c hc p _ => SMap.wf_store (d := fun _ => []) _ _ hc
  split
  · rfl
  · exact h
theorem newCfgs_wf {ls : List Bytes} : SMap.wf (fun _ => []) (ls.foldl newCfg []) = true :=
  List.foldlRecOn (motive := fun c => SMap.wf (fun _ => []) c = true) _ _ rfl fun _ hc _ _ => newCfg_wf hc

theorem Dev.canon.ofFresh {p : Word × Dev} (h : d.canon) (he : d.fresh = p) : p.2.canon := he ▸ h.free
theorem Dev.canon.ofFreshBytes {n : Nat} {p : Bytes × Dev} (h : d.canon) (he : d.freshBytes n = p) : p.2.canon := he ▸ h.free

/-! ## Ops -/

theorem Dev.canon.setReg {a : Nat} {v : Word} (h : d.canon) : (d.setReg a v).canon := Dev.canon_setReg a v h
theorem Dev.canon.setF {a : Nat} {f : Fld} {v : Nat} (h : d.canon) : (d.setF a f v).canon := h.setReg
theorem Dev.canon.setB {a : Nat} {f : Fld} {b : Bool} (h : d.canon) : (d.setB a f b).canon := h.setF
theorem Dev.canon.setFs {a : Nat} {l : List (Fld × Nat)} (h : d.canon) : (d.setFs a l).canon := h.setReg
theorem Dev.canon.count {a : Nat} {f : Fld} {n : Nat} (h : d.canon) : (d.count a f n).canon := h.ite (h.setF.ite h.setFs)
theorem Dev.canon.resetRegs {p : RegRow → List Nat → Bool} (h : d.canon) : (d.resetRegs p).canon := Dev.canon_resetRegs p h
theorem Dev.canon.rwWrite {a : Nat} {v : Word} (h : d.canon) : (d.rwWrite a v).canon := h.setReg
theorem Dev.canon.fresh (h : d.canon) : (d.fresh).2.canon := h.free
theorem Dev.canon.freshBytes {n : Nat} (h : d.canon) : (d.freshBytes n).2.canon := h
theorem Dev.canon.setTile {t : Nat} {x : TileState} (h : d.canon) : (d.setTile t x).canon := Dev.canon_setTile t x h
theorem Dev.canon.advanceTile {n t : Nat} (h : d.canon) : (d.advanceTile n t).canon := Dev.canon_advanceTile n t h
theorem Dev.canon.advance {n : Nat} (h : d.canon) : (d.advance n).canon := Dev.canon_advance n h
theorem Dev.canon.advanceTo {u : Nat} (h : d.canon) : (d.advanceTo u).canon := Dev.canon_advanceTo u h
theorem Dev.canon.raise {code slice : Nat} {unit : BitVec 16} {object detail : Nat} (h : d.canon) : (d.raise code slice unit object detail).canon :=
  h.ev
theorem Dev.canon.hostWrite {kind : HostKind} {slice addr : Nat} {data : Bytes} (h : d.canon) : (d.hostWrite kind slice addr data).canon := h
theorem Dev.canon.send {o : Output} (h : d.canon) : (d.send o).canon := h.sent
theorem Dev.canon.touchLine {whole : Bool} {line : Nat} (h : d.canon) : (d.touchLine whole line).canon := Dev.canon_touchLine whole line h
theorem Dev.canon.write {a : Nat} {l : Bytes} (h : d.canon) : (d.write a l).canon := Dev.canon_write a l h
theorem Dev.canon.zeroRange {lo hi : Nat} {wr : Bool} (h : d.canon) : (d.zeroRange lo hi wr).canon := Dev.canon_zeroRange lo hi wr h
theorem Dev.canon.unresolved {line reader row slice : Nat} (h : d.canon) : (d.unresolved line reader row slice).canon := by
  unfold Dev.unresolved
  split
  extract_lets _ _ d2 d3
  have h2 : d2.canon := h.count
  have h3 : d3.canon := h2.raise.ite h2
  split
  · exact h3.raise
  · exact h3.fresh.raise
theorem Dev.canon.signal {t c amount : Nat} {slice : Option Nat} {unit : BitVec 16} {delay : Nat} (h : d.canon) : (d.signal t c amount slice unit delay).canon :=
  h.ctrs
theorem Dev.canon.syncWaiters {t c : Nat} (h : d.canon) : (d.syncWaiters t c).canon := h.setF
theorem Dev.canon.addWait {t c amount : Nat} {take : Bool} {unit : BitVec 16} {slice : Nat} (h : d.canon) : (d.addWait t c amount take unit slice).canon :=
  h.ctrs.syncWaiters
theorem Dev.canon.landingSignal {t c amount : Nat} {slice : Option Nat} {src : BitVec 16} (h : d.canon) : (d.landingSignal t c amount slice src).canon :=
  h.ctrs.setF.ite h.ctrs.setF.raise

/-! ## Active -/

theorem Dev.canon.unitSignal {t c amount slice : Nat} {unit : BitVec 16} {own : Bool} (h : d.canon) : (d.unitSignal t c amount slice unit own).canon :=
  h.signal.ite h.signal
theorem Dev.canon.trigger {s cause tick node : Nat} (h : d.canon) : (d.trigger s cause tick node).canon := h.ite h.memb
theorem Dev.canon.triggerHere {s cause : Nat} (h : d.canon) : (d.triggerHere s cause).canon := h.trigger

/-! ## Counters -/

theorem Dev.canon.ctrEvent {code t c detail : Nat} (h : d.canon) : (d.ctrEvent code t c detail).canon := h.raise
theorem Dev.canon.ctrAdd {t c amount : Nat} {src : BitVec 16} (h : d.canon) : (d.ctrAdd t c amount src).canon :=
  h.setF.ite h.setFs.ctrEvent
theorem Dev.canon.setParked {t : Nat} {l : List Parked} (h : d.canon) : (d.setParked t l).canon := h.ctrs.setFs
theorem Dev.canon.ctrDiscard {t n : Nat} (h : d.canon) : (d.ctrDiscard t n).canon := h.count
theorem Dev.canon.ctrRefuse {t c amount : Nat} {src : BitVec 16} {landing : Bool} (h : d.canon) : (d.ctrRefuse t c amount src landing).canon :=
  h.ctrDiscard.ctrEvent
theorem Dev.canon.park {t c amount : Nat} {src : BitVec 16} (h : d.canon) : (d.park t c amount src).canon :=
  h.setParked.ite h.ctrDiscard.setB.ctrEvent
theorem Dev.canon.ctrMeet {t c amount : Nat} {slice : Option Nat} {src : BitVec 16} {landing : Bool} (h : d.canon) : (d.ctrMeet t c amount slice src landing).canon := by
  unfold Dev.ctrMeet
  extract_lets
  split
  · exact h.ctrAdd.ite h.ctrRefuse
  · exact h.park.ite h.ctrRefuse
  · exact h.ctrRefuse
theorem Dev.canon.releaseWaits {ws : List Wait} {at_ : Nat} {bad : Bool} (h : d.canon) : (d.releaseWaits ws at_ bad).canon := h.ctrs
theorem Dev.canon.ctrEvaluate {t c e : Nat} (h : d.canon) : (d.ctrEvaluate t c e).canon := by
  unfold Dev.ctrEvaluate
  extract_lets _ _ _ _ d3
  have h3 : d3.canon := h.ctrs.foldl .ctrMeet
  split
  · exact h3.releaseWaits.syncWaiters
  · split
    · exact h3
    · split
      exact h3.releaseWaits.setF.syncWaiters
theorem Dev.canon.counterEvaluate {t c : Nat} (h : d.canon) : (counterEvaluateEffect t c d).canon := by
  unfold counterEvaluateEffect
  split
  · exact h
  · exact h.ite h.advance.ctrEvaluate
theorem Dev.canon.proofHostSignal {m : Master} {t : Nat} {v : Word} (h : d.canon) : (proofHostSignalEffect m t v d).canon :=
  h.landingSignal.ite (h.landingSignal.ite h)
theorem Dev.canon.proofStewardSignal {m : Master} {t : Nat} {v : Word} (h : d.canon) : (proofStewardSignalEffect m t v d).canon :=
  h.landingSignal.ite h
theorem Dev.canon.takePend {t : Nat} (h : d.canon) : (d.takePend t).canon :=
  h.ctrs.foldl fun h => h.setF.foldl fun h => h.ite (h.ctrs.ite h.ctrMeet)
theorem Dev.canon.landingSignalApply {t : Nat} (h : d.canon) : (landingSignalApplyEffect t d).canon := h.ite (h.advance.ctrs.foldl .ctrs)
theorem Dev.canon.unpark {t : Nat} {p : Parked → Bool} (h : d.canon) : (d.unpark t p).canon := h.setParked.ite h
theorem Dev.canon.breakCtr {t c cause : Nat} (h : d.canon) : (d.breakCtr t c cause).canon := h.ctrDiscard.unpark.setF.ctrEvent
theorem Dev.canon.ctrWrite {t c : Nat} {v : Word} (h : d.canon) : (d.ctrWrite t c v).canon := by
  unfold Dev.ctrWrite
  extract_lets _ _ _ _ _ d2
  have h2 : d2.canon := h.rwWrite.setFs
  exact (h2.breakCtr.ite (h2.unpark.foldl .ctrAdd)).ite (h2.unpark.ite h2)
theorem Dev.canon.proofCtrWrite {m : Master} {t c : Nat} {v : Word} (h : d.canon) : (proofCtrWriteEffect m t c v d).canon :=
  h.raise.ite h.ctrWrite
theorem Dev.canon.breakRange {t lo n cause : Nat} (h : d.canon) : (d.breakRange t lo n cause).canon := h.foldl fun h => h.ite h.breakCtr
theorem Dev.canon.breakSlice {s : Nat} (h : d.canon) : (d.breakSlice s).canon := h.foldl fun h => h.foldl fun h => h.breakCtr.ite h
theorem Dev.canon.grantSlice {t sl : Nat} (h : d.canon) : (d.grantSlice t sl).canon := h.foldl fun h => h.setFs.ite h
theorem Dev.canon.grantGlobals {t : Nat} (h : d.canon) : (d.grantGlobals t).canon := h.foldl .grantSlice
theorem Dev.canon.clearCtrs {t : Nat} (h : d.canon) : (d.clearCtrs t).canon := h.ctrs
theorem Dev.canon.windowWaits {t : Nat} {u : BitVec 16} (h : d.canon) : (d.windowWaits t u).canon :=
  h.ctrs.foldl fun h => h.syncWaiters.raise.ite h.syncWaiters

/-! ## Ports -/

theorem Dev.canon.setPort {g : GatePort} {x : PortState} (h : d.canon) : (d.setPort g x).canon := by
  simpa only [Dev.canon, Dev.setPort, SMap.wf_store (d := fun _ => PortState.init) _ x (Dev.canon_ports h), Dev.canon_ports h, true_and] using h
theorem Dev.canon.portCount {g : GatePort} {r : Nat} {f : Fld} {n : Nat} (h : d.canon) : (d.portCount g r f n).canon := by
  unfold Dev.portCount
  extract_lets _ d2
  have h2 : d2.canon := h.count
  split
  · exact h2
  · split
    · exact h2.raise
    · exact h2.raise
theorem Dev.canon.portSync {g : GatePort} (h : d.canon) : (d.portSync g).canon := by
  unfold Dev.portSync
  extract_lets d2
  have h2 : d2.canon := h.foldl fun h => (h.setPort.ite h.setPort).setFs
  exact h2.setPort.ite h2
theorem Dev.canon.sampleQueue {g : GatePort} {q : Nat} (h : d.canon) : (d.sampleQueue g q).canon := by
  have past {e : Dev} {r was : Nat} (h : e.canon) : (if was < 2 ^ 32 && binAdd was ≥ 2 ^ 32 then
      (match g with | .eth p => e.raise 0x9005 0xFF (gpUnit g) p.val (r % 2 ^ 16) | .braid _ => e.raise 0xA00B 0xFF (unitId 7 0x17 0) (r % 2 ^ 20) 0)
      else e).canon := by
    cases g <;> exact h.raise.ite h
  exact (past (past h)).setPort.setFs
theorem Dev.canon.queueSample (h : d.canon) : (queueSampleEffect d).canon :=
  h.advanceTo.sampled.foldl fun h => h.portSync.foldl .sampleQueue
theorem Dev.canon.histSnap {m : Master} {g : GatePort} (h : d.canon) : (histSnapEffect m g d).canon :=
  h.ite ((h.foldl fun h => h.foldl fun h => h.setReg.setReg).setPort)
theorem Dev.canon.gateRefuse {g : GatePort} {reason r : Nat} {m : Master} (h : d.canon) : (d.gateRefuse g reason r m).canon := h.raise
theorem Dev.canon.gateChangeCmd {m : Master} {g : GatePort} (h : d.canon) : (gateChangeCmdEffect m g d).canon :=
  h.gateRefuse.ite (h.gateRefuse.ite h.setPort.setB.setF.setF)
theorem Dev.canon.gateCancelCmd {m : Master} {g : GatePort} (h : d.canon) : (gateCancelCmdEffect m g d).canon := by
  unfold gateCancelCmdEffect
  extract_lets
  split
  · exact h.gateRefuse
  · split
    · exact h
    · exact h.ite h.setPort.setB
theorem Dev.canon.gateAdminWrite {m : Master} {g : GatePort} {w : GateReg} {v : Word} (h : d.canon) : (gateAdminWriteEffect m g w v d).canon :=
  h.gateRefuse.ite (h.gateRefuse.ite (h.gateRefuse.ite h.rwWrite))
theorem Dev.canon.gateTakeover {g : GatePort} (h : d.canon) : (gateTakeoverEffect g d).canon := by
  unfold gateTakeoverEffect
  extract_lets
  split
  · exact h
  · exact h.advanceTo.portSync.setPort.setFs.raise
theorem Dev.canon.gateIntervalChange {g : GatePort} (h : d.canon) : (gateIntervalChangeEffect g d).canon := by
  unfold gateIntervalChangeEffect
  split
  · exact h
  · exact h.advanceTo.portSync
theorem Dev.canon.loadGateList {g : GatePort} {l : Bytes} (h : d.canon) : (d.loadGateList g l).canon := (h.foldl .setReg).setPort.setFs

/-! ## Tier -/

theorem Dev.canon.setTier {t : Nat} {x : TierState} (h : d.canon) : (d.setTier t x).canon := by
  simpa only [Dev.canon, Dev.setTier, SMap.wf_store (d := fun _ => TierState.init) _ x (Dev.canon_tiers h), Dev.canon_tiers h, true_and] using h
theorem Dev.canon.putObj {t i : Nat} {o : Obj} (h : d.canon) : (d.putObj t i o).canon := h.write
theorem Dev.canon.setTierUse {t s tier n : Nat} (h : d.canon) : (d.setTierUse t s tier n).canon := by
  unfold Dev.setTierUse
  split
  · exact h.setF
  · exact h.setF
  · exact h.setF
theorem Dev.canon.charge {t : Nat} {o : Obj} (h : d.canon) : (d.charge t o).canon := h.setTierUse
theorem Dev.canon.uncharge {t : Nat} {o : Obj} (h : d.canon) : (d.uncharge t o).canon := h.setTierUse
theorem Dev.canon.tierSync {t : Nat} (h : d.canon) : (d.tierSync t).canon := h.setFs
theorem Dev.canon.tierPush {t : Nat} {c : TierCmd} (h : d.canon) : (d.tierPush t c).canon := h.raise.ite h.setTier.tierSync
theorem Dev.canon.tierCmdPush {m : Master} {t w : Nat} {v : Word} (h : d.canon) : (tierCmdPushEffect m t w v d).canon :=
  h.raise.ite (h.setReg.tierPush.ite h.setReg)
theorem Dev.canon.tierFlagClear {m : Master} {t w : Nat} {v : Word} (h : d.canon) : (tierFlagClearEffect m t w v d).canon :=
  h.raise.ite h.setReg
theorem Dev.canon.snoopShared {write : Bool} {a lines : Nat} (h : d.canon) : (d.snoopShared write a lines).canon :=
  ((h.foldl .send).count).ite h
theorem Dev.canon.promote {t i : Nat} {o : Obj} {c : TierCmd} {y : Dev × Nat × TierWork × Nat} (h : d.canon) (he : (d.promote t i o c) = y) : y.1.canon := by
  subst he
  unfold Dev.promote
  extract_lets
  split
  · exact h.putObj
  · split
    · exact h.putObj.count.raise
    · exact h.putObj.charge.asks
theorem Dev.canon.clearWritten {place : Nat} (h : d.canon) : (d.clearWritten place).canon := by
  simpa only [Dev.canon, Dev.clearWritten, SMap.wf_filter _ (Dev.canon_written h), Dev.canon_written h, true_and] using h
theorem Dev.canon.gatherDirty {o : Obj} {place p : Nat} {y : Nat × Dev} (h : d.canon) (he : (d.gatherDirty o place p) = y) : y.2.canon := by
  subst he
  unfold Dev.gatherDirty
  exact h.clearWritten.write
theorem Dev.canon.dirtyLines {o : Obj} {place : Nat} {p : List Nat × Dev} (h : d.canon) (he : d.dirtyLines o place = p) : p.2.canon := by
  subst he
  unfold Dev.dirtyLines
  split
  · exact h
  · refine List.foldlRecOn (motive := fun s : List Nat × Dev => s.2.canon) _ _ h fun s hs i _ => ?_
    split
    next _ _ he => exact hs.gatherDirty he
theorem Dev.canon.writeBackOut {t : Nat} {o : Obj} {y : Dev × Nat × Nat × List Nat × Nat} (h : d.canon) (he : (d.writeBackOut t o) = y) : y.1.canon := by
  subst he
  unfold Dev.writeBackOut
  split
  · exact h
  · split
    · next _ _ _ he1 =>
        extract_lets d3
        have h3 : d3.canon := (h.dirtyLines he1).count
        split
        · exact (h.dirtyLines he1).unresolved
        · split
          · exact h3.asks
          · exact h3.foldl .hostWrite
theorem Dev.canon.retire {t i : Nat} (h : d.canon) : (d.retire t i).canon := h.write
theorem Dev.canon.tierStart {t : Nat} {c : TierCmd} {y : Dev × Nat × TierWork × Nat × List Nat × Nat} (h : d.canon) (he : (d.tierStart t c) = y) : y.1.canon := by
  subst he
  unfold Dev.tierStart
  extract_lets
  split
  · exact h.write.putObj
  · exact h.retire
  · split
    · next _ _ _ _ _ he4 =>
        exact (h.promote he4)
  · exact ((h.uncharge.ite h).write).putObj
  · extract_lets _ _ d5 d6
    have h5 : d5.canon := h.putObj
    have h6 : d6.canon := h5.putObj.ite h5
    split
    · exact h5
    · split
      · exact h6
      · split
        · next _ _ _ _ _ _ he6 =>
            exact (h6.writeBackOut he6)
theorem Dev.canon.tierBegin {t : Nat} {ext : Bool} {op : Nat} (h : d.canon) : (d.tierBegin t ext op).canon := by
  unfold Dev.tierBegin
  extract_lets _ run
  have hrun {b : Dev} {r : TierRun} (h : b.canon) : (run b r).canon := h.setTier.tierSync
  split
  · exact h
  · extract_lets d3
    have h3 : d3.canon := h.setTier
    split
    · exact h
    · split
      · exact hrun h3.unresolved.putObj.raise
      · split
        · exact hrun h3.raise
        · split
          · next _ _ _ _ _ _ _ he4 =>
              exact hrun (h3.tierStart he4)
theorem Dev.canon.tierDefine {t : Nat} {ext : Bool} (h : d.canon) : (tierDefineEffect t ext d).canon := h.tierBegin
theorem Dev.canon.tierRetire {t : Nat} {ext : Bool} (h : d.canon) : (tierRetireEffect t ext d).canon := h.tierBegin
theorem Dev.canon.tierPromote {t : Nat} {ext : Bool} (h : d.canon) : (tierPromoteEffect t ext d).canon := h.tierBegin
theorem Dev.canon.tierEvict {t : Nat} {ext : Bool} (h : d.canon) : (tierEvictEffect t ext d).canon := h.tierBegin
theorem Dev.canon.tierClean {t : Nat} {ext : Bool} (h : d.canon) : (tierCleanEffect t ext d).canon := h.tierBegin
theorem Dev.canon.tierDiscard {t : Nat} {ext : Bool} (h : d.canon) : (tierDiscardEffect t ext d).canon := h.tierBegin
theorem Dev.canon.abandonCopy {t i : Nat} (h : d.canon) : (d.abandonCopy t i).canon := h.uncharge.putObj
theorem Dev.canon.copyIn {t : Nat} {o : Obj} {lower : Bytes} {y : Dev × Nat × Nat} (h : d.canon) (he : (d.copyIn t o lower) = y) : y.1.canon := by
  subst he
  unfold Dev.copyIn
  extract_lets _ d2
  have h2 : d2.canon := h.snoopShared.ite h
  split
  · exact h
  · extract_lets
    split
    · exact h.unresolved
    · exact ((h2.write.ite (h2.write.ite h2)).foldl .clearWritten).count
theorem Dev.canon.writeBackIn {t : Nat} {o : Obj} {y : Dev × Nat × Nat} (h : d.canon) (he : (d.writeBackIn t o) = y) : y.1.canon := by
  subst he
  unfold Dev.writeBackIn
  split
  · exact h
  · split
    · next _ _ _ he1 =>
        extract_lets
        split
        · exact (h.dirtyLines he1).unresolved
        · exact ((h.dirtyLines he1).foldl fun h => h.snoopShared.write).count
theorem Dev.canon.clearBitmaps {o : Obj} (h : d.canon) : (d.clearBitmaps o).canon := h.write.ite h
theorem Dev.canon.writeBackFailed {t i : Nat} {c : TierCmd} {st page : Nat} (h : d.canon) : (d.writeBackFailed t i c st page).canon := by
  unfold Dev.writeBackFailed
  extract_lets _ d2
  have h2 : d2.canon := h.putObj.raise
  exact h2.raise.ite h2
theorem Dev.canon.tierRecord {t : Nat} {c : TierCmd} {st reason : Nat} (h : d.canon) : (d.tierRecord t c st reason).canon :=
  h.write.setF.setReg.ite h.write.setF
theorem Dev.canon.tierData {t : Nat} {r : TierRun} {lower : Bytes} {y : Dev × Nat} (h : d.canon) (he : d.tierData t r lower = y) : y.1.canon := by
  subst he
  unfold Dev.tierData
  extract_lets
  split
  · exact h
  · split
    · exact h.abandonCopy.raise.ite h.abandonCopy
    · split
      next he =>
        split
        · exact (h.copyIn he).putObj
        · exact (h.copyIn he).abandonCopy
  · split
    next e st pg he =>
      have written : e.canon := by
        split at he
        · cases he
          exact h
        · split at he
          · cases he
            exact h
          · split at he
            · exact h.writeBackIn he
            · cases he
              exact h
      split
      · exact written.writeBackFailed
      · extract_lets
        split
        · exact written.clearBitmaps.uncharge.putObj
        · exact written.clearBitmaps
theorem Dev.canon.tierCmdComplete {t : Nat} {ext : Bool} {lower : Bytes} (h : d.canon) : (tierCmdCompleteEffect t ext lower d).canon := by
  unfold tierCmdCompleteEffect
  extract_lets
  split
  · exact h
  · extract_lets
    split
    · exact h
    · split
      · next _ _ _ he2 =>
          exact (h.setTier.tierSync.tierData he2).tierRecord
theorem Dev.canon.tierEnd {t : Nat} {ext : Bool} {r : TierRun} {st : Nat} (h : d.canon) : (d.tierEnd t ext r st).canon := h.asks.setTier
theorem Dev.canon.tierDeadline {t : Nat} {ext : Bool} (h : d.canon) : (tierDeadlineEffect t ext d).canon := by
  unfold tierDeadlineEffect
  split
  · exact h
  · extract_lets
    split
    · exact h
    · split
      · exact h
      · exact h.abandonCopy.tierEnd
      · exact h.writeBackFailed.tierEnd
theorem Dev.canon.lowerTierFailure {t : Nat} {ext : Bool} {page : Nat} (h : d.canon) : (lowerTierFailureEffect t ext page d).canon := by
  unfold lowerTierFailureEffect
  split
  · exact h
  · exact h.ite h.abandonCopy.raise.tierEnd
theorem Dev.canon.tierBraidEnd {t tag status addr : Nat} (h : d.canon) : (d.tierBraidEnd t tag status addr).canon := by
  unfold Dev.tierBraidEnd
  extract_lets
  split
  · exact h
  · exact h.ite h.setTier
theorem Dev.canon.tierHostFailed {id : Nat} (h : d.canon) : (d.tierHostFailed id).canon := by
  refine h.foldl fun h => ?_
  split
  · exact h.setTier.ite h
  · exact h
theorem Dev.canon.tierUnref {t s : Nat} (h : d.canon) : (d.tierUnref t s).canon := h.foldl fun h => h.setTier.tierSync.ite h
theorem Dev.canon.tierDrain {t s : Nat} (h : d.canon) : (d.tierDrain t s).canon := h.tierUnref.foldl fun h => h.setTier.tierSync
theorem Dev.canon.tierSquash {t s : Nat} (h : d.canon) : (d.tierSquash t s).canon := by
  unfold Dev.tierSquash
  extract_lets _ _ _ _ d4
  have h4 : d4.canon := by
    dsimp -zeta only [d4]
    refine (h.setTier.foldl .tierRecord).foldl fun h => ?_
    split
    · exact h.tierEnd.tierRecord.setTier.tierSync.ite h
    · exact h
  exact (h4.foldl fun h => (h.uncharge.ite h).retire).tierUnref.tierSync
theorem Dev.canon.tierLose {t : Nat} {p : Obj → Bool} {unchargeToo : Bool} (h : d.canon) : (d.tierLose t p unchargeToo).canon :=
  h.foldl fun h => ((h.uncharge.ite h).putObj.raise).ite h
theorem Dev.canon.tierTileReset {t : Nat} (h : d.canon) : (d.tierTileReset t).canon :=
  h.setTier.asks.tierLose.tierSync.foldl fun h => h.charge.ite h
theorem Dev.canon.tierCoreReset {t k : Nat} (h : d.canon) : (d.tierCoreReset t k).canon := by
  unfold Dev.tierCoreReset
  split
  · exact h
  · exact h.tierLose
theorem Dev.canon.tierReportDead {t : Nat} (h : d.canon) : (d.tierReportDead t).canon := h.setTier.foldl .tierRecord

/-! ## Braid -/

theorem Dev.canon.modBraid {f : BraidState → BraidState} (h : d.canon) (hp : ∀ x, (f x).pairs = x.pairs := by exact fun _ => rfl)
    (hd : ∀ x, (f x).dests = x.dests := by exact fun _ => rfl) (hl : ∀ x, (f x).links = x.links := by exact fun _ => rfl) : (d.modBraid f).canon := by
  simpa only [Dev.canon, Dev.modBraid, hp, hd, hl] using h
theorem Dev.canon.setPair {n : Nat} {x : BraidSrc} (h : d.canon) : (d.setPair n x).canon := by
  simpa only [Dev.canon, Dev.setPair, Dev.modBraid, SMap.wf_store (d := fun _ => BraidSrc.init) _ x (Dev.canon_pairs h), Dev.canon_pairs h, true_and] using h
theorem Dev.canon.setFar {n : Nat} {x : BraidDst} (h : d.canon) : (d.setFar n x).canon := by
  simpa only [Dev.canon, Dev.setFar, Dev.modBraid, SMap.wf_store (d := fun _ => BraidDst.init) _ x (Dev.canon_dests h), Dev.canon_dests h, true_and] using h
theorem Dev.canon.braidCount {r n : Nat} (h : d.canon) : (d.braidCount r n).canon := h.count.raise.ite h.count
theorem Dev.canon.braidShow (h : d.canon) : (d.braidShow).canon := h.setFs.setFs.setFs
theorem Dev.canon.braidOut {p : Bytes} (h : d.canon) : (d.braidOut p).canon := h.modBraid
theorem Dev.canon.routesChanged {tell : Bool} (h : d.canon) : (d.routesChanged tell).canon := by
  unfold Dev.routesChanged
  split
  · refine h.foldl fun h => ?_
    split
    exact h.ite h.modBraid.raise
  · refine h.foldl fun h => ?_
    split
    exact h.ite h.modBraid
theorem Dev.canon.putEnd {tag status : Nat} (h : d.canon) : (d.putEnd tag status).canon := by
  unfold Dev.putEnd
  split
  · exact h
  · extract_lets _ _ d2
    have h2 : d2.canon := h.modBraid
    split
    · exact h.modBraid
    · split
      · exact h2
      · extract_lets d3
        have h3 : d3.canon := h2.landingSignal.ite h2
        exact h3.ite h3.raise
theorem Dev.canon.issuerEnd {issuer : BitVec 16} {tag status addr : Nat} (h : d.canon) : (d.issuerEnd issuer tag status addr).canon :=
  h.putEnd.ite (h.tierBraidEnd.ite h)
theorem Dev.canon.fencesDone (h : d.canon) : (d.fencesDone).canon := h.modBraid.foldl .issuerEnd
theorem Dev.canon.opEnd {o : BraidOp} {status : Nat} {line : Bytes} (h : d.canon) : (d.opEnd o status line).canon := by
  unfold Dev.opEnd
  extract_lets d2 d3 _ d4
  have h2 : d2.canon := h.modBraid
  have h3 : d3.canon := h2.write.ite h2
  have h4 : d4.canon := h3.ite h3.modBraid
  exact (h4.triggerHere.ite h4).issuerEnd.fencesDone
theorem Dev.canon.opSend {a : BraidAsk} (h : d.canon) : (d.opSend a).canon := h.setPair.modBraid.braidOut
theorem Dev.canon.issueAsk {issuer : BitVec 16} {ok : AskKind → Bool} (h : d.canon) : (d.issueAsk issuer ok).canon := by
  unfold Dev.issueAsk
  extract_lets took _ _ d2
  have htook {b : Dev} (h : b.canon) : (took b).canon := h.modBraid.asks
  have h2 : d2.canon := htook h
  split
  · exact h
  · split
    · exact h
    · split
      · exact (((htook h).modBraid).fencesDone).braidShow
      · split
        · extract_lets d4
          have h4 : d4.canon := h2.write.ite h2.modBraid
          exact (h4.triggerHere.ite h4).issuerEnd.braidShow
        · exact (h.ite h.modBraid).ite (((htook h).opSend).braidShow)
theorem Dev.canon.braidReadIssue {i : BitVec 16} (h : d.canon) : (braidReadIssueEffect i d).canon := h.issueAsk
theorem Dev.canon.braidWriteIssue {i : BitVec 16} (h : d.canon) : (braidWriteIssueEffect i d).canon := h.issueAsk
theorem Dev.canon.braidFence {i : BitVec 16} (h : d.canon) : (braidFenceEffect i d).canon := h.issueAsk
theorem Dev.canon.braidIssueResume (h : d.canon) : (braidIssueResumeEffect d).canon := by
  unfold braidIssueResumeEffect
  split
  · exact h
  · split
    · exact h.modBraid
    · exact h.modBraid.issueAsk
theorem Dev.canon.takeArrived {ok : Nat → Bool} {p : Bytes × Dev} (h : d.canon) (he : d.takeArrived ok = some p) : p.2.canon := by
  unfold Dev.takeArrived at he
  split at he
  · cases he
  · cases he
    exact h.modBraid
theorem Dev.canon.grantFor {p : Bytes} {y : Nat × Dev} (h : d.canon) (he : (d.grantFor p) = y) : y.2.canon := by
  subst he
  unfold Dev.grantFor
  extract_lets
  split
  · exact h
  · exact h.modBraid
theorem Dev.canon.sendAck {n grant : Nat} (h : d.canon) : (d.sendAck n grant).canon := h.setFar.braidOut
theorem Dev.canon.braidReadArrive (h : d.canon) : (braidReadArriveEffect d).canon := by
  unfold braidReadArriveEffect
  split
  · exact h
  · next _ _ _ he1 =>
      split
      · exact (h.takeArrived he1).braidCount
      · split
        extract_lets
        split
        · next _ _ _ he3 =>
            extract_lets _ d5
            have h5 : d5.canon := ((((h.takeArrived he1).unresolved).ite (h.takeArrived he1)).grantFor he3).braidOut
            exact h5.ite h5.sendAck
theorem Dev.canon.hotWrite {dpa : Nat} (h : d.canon) : (d.hotWrite dpa).canon := by
  unfold Dev.hotWrite
  extract_lets _ _ _ _ _ d3
  have h3 : d3.canon := (h.ite h.modBraid).modBraid
  exact h3.braidCount.raise.ite h3
theorem Dev.canon.forwardWrite {p : Bytes} {slice : Nat} (h : d.canon) : (d.forwardWrite p slice).canon := by
  unfold Dev.forwardWrite
  split
  · exact h
  · exact h.ite h.asks
theorem Dev.canon.braidWriteArrive (h : d.canon) : (braidWriteArriveEffect d).canon := by
  unfold braidWriteArriveEffect
  split
  · exact h
  · next _ _ _ he1 =>
      extract_lets
      split
      · exact (h.takeArrived he1).braidCount
      · split
        · next _ _ _ he2 =>
            extract_lets d4
            have h4 : d4.canon := (((h.takeArrived he1).grantFor he2)).braidCount
            split
            · exact (((h.takeArrived he1).grantFor he2)).sendAck
            · split
              · exact h4.ite h4.sendAck
              · split
                extract_lets _ d5 _ _ _ _ d7
                have h5 : d5.canon := ((((((h.takeArrived he1).grantFor he2)).write).hotWrite).forwardWrite).ite ((((((h.takeArrived he1).grantFor he2)).braidOut).braidCount).raise)
                have h7 : d7.canon := h5.setFar.foldl .landingSignal
                exact h7.sendAck.ite h7
theorem Dev.canon.braidReadRespArrive (h : d.canon) : (braidReadRespArriveEffect d).canon := by
  unfold braidReadRespArriveEffect
  split
  · exact h
  · next _ _ _ he1 =>
      split
      · exact (h.takeArrived he1).braidCount
      · split
        · exact (h.takeArrived he1)
        · exact (((h.takeArrived he1).setPair).opEnd).braidShow
theorem Dev.canon.braidAckArrive (h : d.canon) : (braidAckArriveEffect d).canon := by
  unfold braidAckArriveEffect
  split
  · exact h
  · next _ _ _ he1 =>
      exact ((h.takeArrived he1).braidCount).ite ((((h.takeArrived he1).setPair).foldl .opEnd).braidShow)
theorem Dev.canon.braidRefuseArrive (h : d.canon) : (braidRefuseArriveEffect d).canon := by
  unfold braidRefuseArriveEffect
  split
  · exact h
  · next _ _ _ he1 =>
      split
      · exact (h.takeArrived he1).braidCount
      · split
        · exact (h.takeArrived he1)
        · exact ((h.takeArrived he1).opEnd).braidShow
theorem Dev.canon.braidRetryTimeout (h : d.canon) : (braidRetryTimeoutEffect d).canon := by
  unfold braidRetryTimeoutEffect
  split
  · exact h
  · exact h.advanceTo.modBraid.braidOut.braidCount
theorem Dev.canon.deadTargetTimeout (h : d.canon) : (deadTargetTimeoutEffect d).canon := by
  unfold deadTargetTimeoutEffect
  split
  · exact h
  · exact (h.advanceTo.setPair.foldl .opEnd).raise.braidCount.braidShow
theorem Dev.canon.dropOwn (h : d.canon) : (d.dropOwn).canon := h.modBraid.foldl fun h => (h.portSync.foldl .setPort).portSync
theorem Dev.canon.braidNewEpoch {n : Nat} (h : d.canon) : (d.braidNewEpoch n).canon := by
  have restarted {e : Dev} (h : e.canon) : (e.modBraid fun x => { x with pairs := [], dests := [], granted := 0 }).canon := by
    simpa only [Dev.canon, Dev.modBraid, Dev.canon_pairs h, Dev.canon_dests h, SMap.wf_nil, true_and] using h
  exact (restarted (h.setF.foldl .opEnd).dropOwn).braidShow
theorem Dev.canon.aliasWrite {m : Master} {n : Nat} {v : BitVec 16} (h : d.canon) : (aliasWriteEffect m n v d).canon := h.ite h.setF
theorem Dev.canon.putArm {m : Master} {v : Nat} (h : d.canon) : (putArmEffect m v d).canon := by
  unfold putArmEffect
  extract_lets
  split
  · exact h
  · exact h.ite h.modBraid
theorem Dev.canon.putLaunch {id : Nat} (h : d.canon) : (putLaunchEffect id d).canon := by
  unfold putLaunchEffect
  extract_lets
  split
  · exact h
  · extract_lets _ _ _ d2 _ d3 d4
    have h2 : d2.canon := h.advanceTo
    have h3 : d3.canon := h2.advance
    have h4 : d4.canon := h3.braidCount.ite h3
    exact h.ite (h2.ite ((h4.braidCount.raise.ite h4).asks).modBraid.braidShow)
theorem Dev.canon.setBlink {b : Nat} {x : BraidLink} (h : d.canon) : (d.setBlink b x).canon := by
  simpa only [Dev.canon, Dev.setBlink, Dev.modBraid, SMap.wf_store (d := fun _ => BraidLink.init) _ x (Dev.canon_links h), Dev.canon_links h, true_and] using h
theorem Dev.canon.braidLinkUp {b : BraidPort} {node port : Nat} (h : d.canon) : (braidLinkUpEffect b node port d).canon :=
  h.ite (h.setFs.setBlink.raise.routesChanged.ite h.setFs.raise)
theorem Dev.canon.laneFailed {b : BraidPort} {i : Nat} (h : d.canon) : (d.laneFailed b i).canon := by
  unfold Dev.laneFailed
  extract_lets _ _ _ _ d2
  have h2 : d2.canon := h.setBlink
  exact h2.ite h2.setF.raise
theorem Dev.canon.braidDown {b : BraidPort} {los : Nat} (h : d.canon) : (d.braidDown b los).canon :=
  h.setFs.ite ((h.setFs.portSync.foldl .setPort).modBraid.setBlink.portSync.portCount.raise.routesChanged)
theorem Dev.canon.braidLinkDown {b : BraidPort} {los bad : Nat} (h : d.canon) : (braidLinkDownEffect b los bad d).canon :=
  h.ite ((h.foldl .laneFailed).braidDown)
theorem Dev.canon.laneUnfence {m : Master} {b : BraidPort} {v : Word} (h : d.canon) : (laneUnfenceEffect m b v d).canon :=
  h.ite h.setBlink.setF
theorem Dev.canon.takeUnit {b : Nat} {u : Bytes} (h : d.canon) : (d.takeUnit b u).canon := by
  unfold Dev.takeUnit
  extract_lets
  split
  · split
    · exact h
    · split
      · exact h.braidCount.setBlink
      · exact h.setBlink
      · exact h.setBlink
  · exact h.setBlink.ite h.setBlink
theorem Dev.canon.sendFlit {b ty seq : Nat} {units : Bytes} (h : d.canon) : (d.sendFlit b ty seq units).canon := h.setBlink.send
theorem Dev.canon.flitReceive {b : BraidPort} {f : Bytes} {corrected : Nat} {bad : Bool} (h : d.canon) : (flitReceiveEffect b f corrected bad d).canon := by
  unfold flitReceiveEffect
  extract_lets _ d2 _ fail _ _ d3 d4 _ d5
  have h2 : d2.canon := h.portCount
  have hfail {b : Dev} (h : b.canon) : (fail b).canon := h.setBlink
  have h3 : d3.canon := h2.setBlink
  have h4 : d4.canon := h3.ite (h3.portCount.foldl .sendFlit)
  have h5 : d5.canon := h4.setBlink.portCount
  exact h.ite ((hfail h2.portCount).ite ((hfail h2.portCount).ite (h4.ite (h5.foldl .takeUnit))))
theorem Dev.canon.switchPacket {p : Bytes} (h : d.canon) (he : d.switchPacket p = some e) : e.canon := by
  unfold Dev.switchPacket at he
  split at he
  · exact Option.some.inj he ▸ h.modBraid
  · split at he
    · exact Option.some.inj he ▸ h.ite h.braidCount
    · extract_lets at he
      split at he
      · cases he
      · exact Option.some.inj he ▸ h.portSync.setPort.portSync
theorem Dev.canon.moveFirst {l : List Bytes} {y : Bytes × List Bytes × Dev} (h : d.canon) (he : d.moveFirst l = some y) : y.2.2.canon := by
  induction l generalizing y with
  | nil => cases he
  | cons q r ih =>
    unfold Dev.moveFirst at he
    split at he
    next hs => exact Option.some.inj he ▸ h.switchPacket hs
    next =>
      split at he
      next hr =>
        have moved := ih hr
        exact Option.some.inj he ▸ moved
      next => cases he
theorem Dev.canon.packetForward {port : Nat} (h : d.canon) : (packetForwardEffect port d).canon := by
  unfold packetForwardEffect
  split
  · split
    next => exact h
    next _ _ _ he => exact (h.moveFirst he).modBraid
  · split
    next => exact h
    next _ _ _ he =>
      refine Dev.canon.setBlink ?_
      split at he
      · split at he
        · cases he
          exact h
        · cases he
      · exact h.moveFirst he
theorem Dev.canon.flushFlit {b : BraidPort} (h : d.canon) : (d.flushFlit b).canon := h.setBlink.sendFlit.portCount
theorem Dev.canon.braidTxSelect {b : BraidPort} (h : d.canon) : (braidTxSelectEffect b d).canon := by
  unfold braidTxSelectEffect
  extract_lets _ d2
  have h2 : d2.canon := h.advanceTo.portSync
  split
  · exact h
  · split
    · exact h2.sendFlit
    · split
      · exact h2.sendFlit.ite h2.flushFlit
      · extract_lets
        split
        · exact h2
        · extract_lets _ _ _ d3
          have h3 : d3.canon := h2.setPort.setBlink.portSync
          exact h3.flushFlit.ite h3

/-! ## RadioLand -/

theorem Dev.canon.setRad {t : Nat} {x : RadioState} (h : d.canon) : (d.setRad t x).canon := by
  simpa only [Dev.canon, Dev.setRad, SMap.wf_store (d := fun _ => RadioState.init) _ x (Dev.canon_radio h), Dev.canon_radio h, true_and] using h
theorem Dev.canon.modRad {t : Nat} {f : RadioState → RadioState} (h : d.canon) : (d.modRad t f).canon := h.setRad
theorem Dev.canon.fhCount {t k : Nat} (h : d.canon) : (d.fhCount t k).canon := h.count.modRad
theorem Dev.canon.uplaneLand {idx : Nat} {e c : Bytes} {h : List Nat} {secs : List (Nat × Nat × Bytes)} (hd : d.canon) :
    (d.uplaneLand idx e c h secs).canon := by
  unfold Dev.uplaneLand
  extract_lets
  split
  · exact hd.fhCount
  · extract_lets _ _ _ _ d2
    have h2 : d2.canon := (hd.foldl .write).modRad
    exact hd.fhCount.ite (hd.fhCount.ite (hd.fhCount.ite (h2.fhCount.ite h2)))
theorem Dev.canon.uplaneIn {p : Nat} {frame : Bytes} (h : d.canon) : (d.uplaneIn p frame).canon := by
  unfold Dev.uplaneIn
  extract_lets
  split
  · exact h.fhCount
  · extract_lets
    split
    · exact h.fhCount
    · exact h.uplaneLand
theorem Dev.canon.fhSnapshot {t T : Nat} (h : d.canon) : (d.fhSnapshot t T).canon := by
  unfold Dev.fhSnapshot
  extract_lets _ _ _ _ d2
  have h2 : d2.canon := h.count
  split
  exact (h2.ite h2.raise).modRad

/-! ## Eth -/

theorem Dev.canon.ethLinkDown {p : EthPort} {los : Nat} (h : d.canon) : (ethLinkDownEffect p los d).canon :=
  h.ite (h.setFs.ite h.setFs.portCount.raise)
theorem Dev.canon.ethLinkUp {p : EthPort} {deskew : Nat} (h : d.canon) : (ethLinkUpEffect p deskew d).canon := h.ite h.setFs.setF.raise
theorem Dev.canon.ethFrameReceive {p : EthPort} {f : Bytes} {fcsOk room : Bool} (h : d.canon) : (ethFrameReceiveEffect p f fcsOk room d).canon := by
  unfold ethFrameReceiveEffect
  extract_lets _ bad d2
  have hbad {r : Nat} : (bad r).canon := h.portCount
  have h2 : d2.canon := h.portCount.portCount
  split
  · exact h
  · split
    · exact hbad
    · split
      · exact hbad
      · split
        · exact hbad
        · split
          · exact hbad
          · split
            · exact h2.uplaneIn
            · exact h2.time
            · exact h2
theorem Dev.canon.ethDiscard {p : EthPort} {kind q : Nat} (h : d.canon) : (d.ethDiscard p kind q).canon := by
  unfold Dev.ethDiscard
  extract_lets _ _ d2
  have h2 : d2.canon := h.portCount
  exact h2.ite h2.setPort.raise
theorem Dev.canon.ethEnqueue {p : EthPort} {src : Nat} {body : Bytes} {ptp : Option Nat} (h : d.canon) : (d.ethEnqueue p src body ptp).canon :=
  h.ite (h.ethDiscard.ite (h.ethDiscard.ite h.portSync.setPort.portSync))
theorem Dev.canon.dropAged {p : EthPort} {q n : Nat} (h : d.canon) : (Dev.dropAged p q n d).canon := by
  induction n generalizing d with
  | zero => exact h
  | succ n ih =>
    unfold Dev.dropAged
    extract_lets
    split
    · exact h
    · split
      · exact h
      · exact ih h.setPort.ethDiscard
theorem Dev.canon.ethTransmit {p : EthPort} {q : Nat} (h : d.canon) : (d.ethTransmit p q).canon := by
  unfold Dev.ethTransmit
  extract_lets
  split
  · exact h
  · extract_lets _ _ _ _ d3 d4
    have h3 : d3.canon := h.setPort.portCount.portCount.send
    have h4 : d4.canon := by
      dsimp -zeta only [d4]
      split
      · exact h3.send
      · exact h3
    exact h4.portSync
theorem Dev.canon.ethBoundary {p : EthPort} (h : d.canon) : (d.ethBoundary p).canon := h.advanceTo.portSync.foldl .dropAged
theorem Dev.canon.ethTxSelect {p : EthPort} (h : d.canon) : (ethTxSelectEffect p d).canon := by
  unfold ethTxSelectEffect
  extract_lets d2
  have h2 : d2.canon := h.ethBoundary
  split
  · exact h
  · split
    · exact h2.ethTransmit
    · exact h2.portSync

/-! ## Time -/

theorem Dev.canon.modTime {f : TimeState → TimeState} (h : d.canon) : (d.modTime f).canon := h.time
theorem Dev.canon.timeNowSecRead {m : Master} (h : d.canon) : (timeNowSecReadEffect m d).canon := h.readOut.ite h.setFs.modTime.readOut
theorem Dev.canon.setClock {st : Nat} (h : d.canon) : (d.setClock st).canon := h.ite h.setFs.raise
theorem Dev.canon.setAdj {a : ℤ} (h : d.canon) : (d.setAdj a).canon := h.setF
theorem Dev.canon.enterHoldover (h : d.canon) : (d.enterHoldover).canon := h.modTime.ite ((h.ite h.setAdj).modTime.count.setClock)
theorem Dev.canon.holdoverExpiry (h : d.canon) : (holdoverExpiryEffect d).canon := h.ite h.advanceTo.setClock
theorem Dev.canon.ppsInEdge {sub : Nat} (h : d.canon) : (ppsInEdgeEffect sub d).canon := h.modTime
theorem Dev.canon.jumpTo {u : Nat} (h : d.canon) : (d.jumpTo u).canon := h.now
theorem Dev.canon.steer {theta : ℤ} {rate : Nat} (h : d.canon) : (d.steer theta rate).canon := h.setAdj.modTime
theorem Dev.canon.measured {theta path : Int} {rate : Nat} (h : d.canon) : (d.measured theta path rate).canon := by
  have steered {a : Dev} {st : Nat} (h : a.canon) : (match st with
      | 1 => let b := a.steer theta rate; if b.time.small == 16 then b.setClock 2 else b
      | 2 => let b := a.steer theta rate; if theta.natAbs > 1000000 then b.setClock 1 else b
      | _ => if a.time.count == 16 then (a.setClock 1).steer theta rate else a).canon := by
    split
    · exact h.steer.setClock.ite h.steer
    · exact h.steer.setClock.ite h.steer
    · exact h.setClock.steer.ite h
  have h2 {f : TimeState → TimeState} {l : List (Fld × Nat)} : ((d.setFs Reg.TIME_OFFSET l).modTime f).canon := h.setFs.modTime
  unfold Dev.measured
  exact (h2.jumpTo.modTime.raise.setClock.ite h2.jumpTo.modTime.raise).ite (steered (h2.raise.ite h2).modTime)
theorem Dev.canon.servoUpdate {x : Meas} (h : d.canon) : (servoUpdateEffect x d).canon := by
  unfold servoUpdateEffect
  extract_lets
  split
  · split
    · exact h
    · exact h.ite h.modTime.setF.measured
  · extract_lets _ show_ d2 d3
    have hshow_ {b : Dev} (h : b.canon) : (show_ b).canon := h.modTime.setFs
    have h2 : d2.canon := hshow_ h.enterHoldover
    have h3 : d3.canon := (h2.raise.ite h2).ite (hshow_ h)
    split
    · exact h
    · split
      exact (h3.setF.ite h3).measured
theorem Dev.canon.losePhase (h : d.canon) : (d.losePhase).canon := h.enterHoldover.setF.modTime
theorem Dev.canon.freqEvaluate (h : d.canon) : (d.freqEvaluate).canon := by
  unfold Dev.freqEvaluate
  extract_lets
  split
  exact h.ite h.setFs.raise
theorem Dev.canon.freqSourceEvaluation {ten : Bool} (h : d.canon) : (freqSourceEvaluationEffect ten d).canon := h.modTime.freqEvaluate
theorem Dev.canon.ptpMessageSend {p : EthPort} {k : PtpKind} (h : d.canon) : (ptpMessageSendEffect p k d).canon := by
  unfold ptpMessageSendEffect
  extract_lets
  split
  exact h.ite h.fresh.ethEnqueue
theorem Dev.canon.timeStepCmd {m : Master} {v : Word} (h : d.canon) : (timeStepCmdEffect m v d).canon := h.ite (h.raise.ite h.jumpTo)
theorem Dev.canon.setPulse {k : Nat} {x : PulseState} (h : d.canon) : (d.setPulse k x).canon := h.modTime
theorem Dev.canon.startPulse {k : Nat} (h : d.canon) : (d.startPulse k).canon := h.setPulse.ite (h.setPulse.raise.ite h.setPulse)
theorem Dev.canon.pulseCtrlWrite {m : Master} {k : Nat} {v : Word} (h : d.canon) : (pulseCtrlWriteEffect m k v d).canon := by
  unfold pulseCtrlWriteEffect
  extract_lets d2
  have h2 : d2.canon := h.rwWrite
  exact h.ite (h2.startPulse.ite h2.setPulse)
theorem Dev.canon.pulseEdge {k : Nat} (h : d.canon) : (pulseEdgeEffect k d).canon := by
  unfold pulseEdgeEffect
  extract_lets
  split
  · exact h
  · extract_lets _ _ d3
    have h3 : d3.canon := (h.ite h.advance).send
    exact h3.setPulse.ite (h3.setPulse.ite h3.setPulse)
theorem Dev.canon.setCapt {k : Nat} {x : CaptState} (h : d.canon) : (d.setCapt k x).canon := h.modTime.setF
theorem Dev.canon.captureEdge {k : Nat} {rising : Bool} {sub : Nat} (h : d.canon) : (captureEdgeEffect k rising sub d).canon :=
  h.ite ((h.count.ite h.count.setCapt.raise).ite h.setCapt)
theorem Dev.canon.capturePop {m : Master} {k : Nat} (h : d.canon) : (capturePopEffect m k d).canon := by
  unfold capturePopEffect
  extract_lets
  split
  · exact h.readOut
  · split
    · exact h.readOut
    · exact h.setCapt.setFs.readOut
theorem Dev.canon.loadTime {s : Bytes} (h : d.canon) : (d.loadTime s).canon := by
  unfold Dev.loadTime
  extract_lets _ d3
  have h3 : d3.canon := by
    dsimp -zeta only [d3]
    refine (h.foldl .setF).foldl fun h => ?_
    extract_lets _ _ _ _ d6
    have h6 : d6.canon := h.setFs.setF.setF.setFs
    exact h6.startPulse.ite h6
  exact h3.foldl .setFs

/-! ## Clock -/

theorem Dev.canon.lostSource {obj idx : Nat} (h : d.canon) : (d.lostSource obj idx).canon := h.raise
theorem Dev.canon.dropLinks (h : d.canon) : (d.dropLinks).canon := (h.foldl .ethLinkDown).foldl .braidDown
theorem Dev.canon.sourceLoss {x : TimeSource} (h : d.canon) : (sourceLossEffect x d).canon := by
  unfold sourceLossEffect
  extract_lets
  split
  · exact h.lostSource.losePhase.ite h
  · exact h.lostSource.losePhase.ite h
  · exact h.modTime.lostSource.freqEvaluate
  · exact h.modTime.lostSource.freqEvaluate
  · exact h.ite h.lostSource.enterHoldover.modTime.dropLinks
theorem Dev.canon.referenceClockReturn (h : d.canon) : (referenceClockReturnEffect d).canon := h.modTime

/-! ## Flags -/

theorem Dev.canon.setKn {t k : Nat} {c : KneadCore} (h : d.canon) : (d.setKn t k c).canon := by
  simpa only [Dev.canon, Dev.setKn, SMap.wf_store (d := fun _ => KneadCore.init) _ c (Dev.canon_knead h), Dev.canon_knead h, true_and] using h
theorem Dev.canon.modKn {t k : Nat} {f : KneadCore → KneadCore} (h : d.canon) : (d.modKn t k f).canon := h.setKn
theorem Dev.canon.kCount {t k : Nat} {w : KCounter} {n : Nat} (h : d.canon) : (d.kCount t k w n).canon := by
  unfold Dev.kCount
  split
  exact h.count.raise.ite h.count
theorem Dev.canon.captureNonFinite {t k loaf slice : Nat} {n : NonFinite} (h : d.canon) : (d.captureNonFinite t k loaf slice n).canon :=
  h.setB.ite h.setFs.setFs
theorem Dev.canon.raiseNonFinite {t k loaf slice : Nat} {n : NonFinite} (h : d.canon) : (d.raiseNonFinite t k loaf slice n).canon :=
  h.raise
theorem Dev.canon.nonFinite {t k : Nat} {n : NonFinite} (h : d.canon) : (d.nonFinite t k n).canon := by
  unfold Dev.nonFinite
  extract_lets _ d2
  have h2 : d2.canon := h.captureNonFinite
  exact h2.ite h2.raiseNonFinite.modKn
theorem Dev.canon.capture {r : Nat} {valid more : Fld} {l : List (Fld × Nat)} (h : d.canon) : (d.capture r valid more l).canon :=
  h.setB.ite h.setFs
theorem Dev.canon.setArrays {t k st : Nat} (h : d.canon) : (d.setArrays t k st).canon := h.foldl .setF
theorem Dev.canon.dropHeld {t k cause : Nat} (h : d.canon) : (d.dropHeld t k cause).canon := by
  unfold Dev.dropHeld
  extract_lets d2
  have h2 : d2.canon := h.modKn
  split
  · exact h
  · exact h2.ite h2.setArrays.raise
theorem Dev.canon.loafDone {t : Nat} {x : LoafDone} (h : d.canon) : (d.loafDone t x).canon := h.setTile
theorem Dev.canon.dropWaits {t : Nat} {u : BitVec 16} (h : d.canon) : (d.dropWaits t u).canon := h.ctrs.foldl .syncWaiters
theorem Dev.canon.endLoaf {t k outcome reason : Nat} (h : d.canon) : (d.endLoaf t k outcome reason).canon := by
  unfold Dev.endLoaf
  extract_lets _ _ d2
  have h2 : d2.canon := (h.dropHeld.ite h.modKn).ite h
  split
  · exact h
  · exact ((((h2.setArrays.ite h2).modKn).setFs).dropWaits).loafDone

/-! ## Plan -/

theorem Dev.canon.setSch {t : Nat} {x : Sched} (h : d.canon) : (d.setSch t x).canon := by
  simpa only [Dev.canon, Dev.setSch, SMap.wf_store (d := fun _ => Sched.init) _ x (Dev.canon_sched h), Dev.canon_sched h, true_and] using h
theorem Dev.canon.modSch {t : Nat} {f : Sched → Sched} (h : d.canon) : (d.modSch t f).canon := h.setSch
theorem Dev.canon.setTray {n : Nat} {x : TrayState} (h : d.canon) : (d.setTray n x).canon := by
  simpa only [Dev.canon, Dev.setTray, SMap.wf_store (d := fun _ => TrayState.init) _ x (Dev.canon_trays h), Dev.canon_trays h, true_and] using h
theorem Dev.canon.syncContexts {t : Nat} (h : d.canon) : (d.syncContexts t).canon := h.setFs
theorem Dev.canon.writeArgs {t : Nat} {c : TCtx} {r : Role} {rows : List Entry} {chunk : Nat} (h : d.canon) : (d.writeArgs t c r rows chunk).canon := by
  unfold Dev.writeArgs
  split
  · exact h
  · refine h.foldl fun h => ?_
    extract_lets
    split
    · exact h
    · split
      exact h.write.write
theorem Dev.canon.laneRegs {t k : Nat} {c : TCtx} {r : Role} {p : Placed} {lane : Nat} {seeds : Bytes} (h : d.canon) : (d.laneRegs t k c r p lane seeds).canon :=
  (h.setFs.setF.setReg.foldl .setReg).setF
theorem Dev.canon.placeLoaf {t unit : Nat} (h : d.canon) : (d.placeLoaf t unit).canon := by
  unfold Dev.placeLoaf
  split
  · exact h
  · extract_lets d2
    have h2 : d2.canon := h.advance
    split
    · exact h
    · extract_lets _ d4
      have h4 : d4.canon := ((h2.foldl .writeArgs).ite h2).modSch
      split
      · exact h
      · split
        · split
          · split
            · exact h4.laneRegs
            · exact h4
          · exact h4
        · exact h4

/-! ## Arrays -/

theorem Dev.canon.passFail {t k : Nat} {p : PassDesc} {r : Nat} (h : d.canon) : (d.passFail t k p r).canon := h.capture.raise.endLoaf
theorem Dev.canon.drainPair {t k : Nat} {c : KneadCore} {p : PassDesc} {acc : SMap (BitVec 64)} {met : Met} {pr : Nat} (h : d.canon) : (d.drainPair t k c p acc met pr).canon := by
  unfold Dev.drainPair
  extract_lets _ _ d3
  have h3 : d3.canon := (h.foldl .write).kCount
  split
  · exact h3
  · exact h3.nonFinite
theorem Dev.canon.elemPass {t k : Nat} {c : KneadCore} {p : PassDesc} (h : d.canon) : (d.elemPass t k c p).canon := by
  unfold Dev.elemPass
  extract_lets _ _ d2
  have h2 : d2.canon := h.write
  split
  · exact h2
  · exact h2.nonFinite
theorem Dev.canon.passEnters {t k : Nat} (h : d.canon) : (d.passEnters t k).canon := by
  unfold Dev.passEnters
  extract_lets
  split
  · exact h
  · extract_lets _ d2
    have h2 : d2.canon := by
      dsimp -zeta only [d2]
      split
      · exact h.ite h.dropHeld
      · exact h
    exact h2.modKn.setF.foldl .setFs
theorem Dev.canon.kSignal {t k c n : Nat} (h : d.canon) : (d.kSignal t k c n).canon := h.unitSignal
theorem Dev.canon.passEnds {t k : Nat} (h : d.canon) : (d.passEnds t k).canon := by
  unfold Dev.passEnds
  extract_lets c
  split
  · exact h
  · extract_lets p d1 _ _ d4
    have h1 : d1.canon := by
      dsimp -zeta only [d1]
      split
      · exact h.elemPass
      · generalize d.passAcc p c.ctx t k c.acc = y
        obtain ⟨acc, m0⟩ := y
        extract_lets _ d2
        have h2 : d2.canon := h.kCount.kCount
        exact ((h2.foldl .drainPair).modKn).ite (h2.write.modKn.ite h2.modKn)
    have h4 : d4.canon := h1.modKn.count.foldl .setFs
    split
    · exact h.unresolved.endLoaf
    · split
      · exact h4.kSignal
      · exact h4

/-! ## Vector -/

theorem Dev.canon.kState {t k st : Nat} (h : d.canon) : (d.kState t k st).canon := h.setF
theorem Dev.canon.syncLocal {t k : Nat} (h : d.canon) : (d.syncLocal t k).canon := h.setF
theorem Dev.canon.seqFail {t k op r : Nat} (h : d.canon) : (d.seqFail t k op r).canon := h.capture.raise.endLoaf
theorem Dev.canon.kNextFrom {t k i : Nat} (h : d.canon) : (d.kNextFrom t k i).canon := by
  unfold Dev.kNextFrom
  extract_lets
  split
  extract_lets _ d3
  have h3 : d3.canon := h.modKn.setFs
  split
  · exact h3
  · exact h3.ite h3.fresh.seqFail
theorem Dev.canon.kNext {t k : Nat} (h : d.canon) : (d.kNext t k).canon := h.kNextFrom
theorem Dev.canon.kIssue {t k : Nat} {o : KOp} {f : KFields} {codes : Bool} {pre : LoafHdr → Option Nat} {body : Dev → LoafHdr → Issued}
    (h : d.canon) (hb : ∀ {d x}, d.canon → (body d x).canon) : (d.kIssue t k o f codes pre body).canon := by
  unfold Dev.kIssue
  extract_lets
  split
  · exact h
  next x _ =>
    split
    · exact h
    · split
      · exact h.seqFail
      · have h2 : Dev.canon ((d.advance ((d.kn t k).issueAt o f - (d.tile t).lk)).syncLocal t k) := h.advance.syncLocal
        have issued := hb (x := x) h2
        split
        next => exact h2.seqFail
        next he =>
          rw [he] at issued
          exact issued
        next he =>
          rw [he] at issued
          exact Dev.canon.kNext (Dev.canon.modKn issued)
theorem Dev.canon.kVec {t k : Nat} {o : KOp} {f : KFields} {codes : Bool} {upd : KneadCore → KneadCore} (h : d.canon) : (d.kVec t k o f codes upd).canon :=
  h.kIssue .modKn
theorem Dev.canon.vadd {t k : Nat} {f : KFields} (h : d.canon) : (vaddEffect t k f d).canon := h.kVec
theorem Dev.canon.vsub {t k : Nat} {f : KFields} (h : d.canon) : (vsubEffect t k f d).canon := h.kVec
theorem Dev.canon.vmul {t k : Nat} {f : KFields} (h : d.canon) : (vmulEffect t k f d).canon := h.kVec
theorem Dev.canon.vfma {t k : Nat} {f : KFields} (h : d.canon) : (vfmaEffect t k f d).canon := h.kVec
theorem Dev.canon.vmax {t k : Nat} {f : KFields} (h : d.canon) : (vmaxEffect t k f d).canon := h.kVec
theorem Dev.canon.vmin {t k : Nat} {f : KFields} (h : d.canon) : (vminEffect t k f d).canon := h.kVec
theorem Dev.canon.vcmplt {t k : Nat} {f : KFields} (h : d.canon) : (vcmpltEffect t k f d).canon := h.kVec
theorem Dev.canon.vsel {t k : Nat} {f : KFields} (h : d.canon) : (vselEffect t k f d).canon := h.kVec
theorem Dev.canon.vimm {t k : Nat} {f : KFields} (h : d.canon) : (vimmEffect t k f d).canon := h.kVec
theorem Dev.canon.viadd {t k : Nat} {f : KFields} (h : d.canon) : (viaddEffect t k f d).canon := h.kVec
theorem Dev.canon.vcvt {t k : Nat} {f : KFields} (h : d.canon) : (vcvtEffect t k f d).canon := h.kIssue (fun h => h.setKn.kCount)
theorem Dev.canon.vrope {t k : Nat} {f : KFields} (h : d.canon) : (vropeEffect t k f d).canon := h.kVec
theorem Dev.canon.vexp2 {t k : Nat} {f : KFields} (h : d.canon) : (vexp2Effect t k f d).canon := h.kVec
theorem Dev.canon.vrecip {t k : Nat} {f : KFields} (h : d.canon) : (vrecipEffect t k f d).canon := h.kVec
theorem Dev.canon.vrsqrt {t k : Nat} {f : KFields} (h : d.canon) : (vrsqrtEffect t k f d).canon := h.kVec
theorem Dev.canon.vrsum {t k : Nat} {f : KFields} (h : d.canon) : (vrsumEffect t k f d).canon := h.kVec
theorem Dev.canon.vrmax {t k : Nat} {f : KFields} (h : d.canon) : (vrmaxEffect t k f d).canon := h.kVec
theorem Dev.canon.vrand {t k : Nat} {f : KFields} (h : d.canon) : (vrandEffect t k f d).canon := h.kVec
theorem Dev.canon.shape {t k : Nat} {f : KFields} (h : d.canon) : (shapeEffect t k f d).canon := h.kIssue .modKn
theorem Dev.canon.vld {t k : Nat} {f : KFields} (h : d.canon) : (vldEffect t k f d).canon := by
  unfold vldEffect
  extract_lets
  refine h.kIssue fun h => ?_
  extract_lets
  split
  · exact trivial
  · split
    · exact h.unresolved.endLoaf
    · exact h.setKn
theorem Dev.canon.storeNonFinite {t k cause row col : Nat} (h : d.canon) : (d.storeNonFinite t k cause row col).canon := h.fresh.nonFinite
theorem Dev.canon.noteStore {t k : Nat} (h : d.canon) : (d.noteStore t k).canon := h.modKn
theorem Dev.canon.vst {t k : Nat} {f : KFields} (h : d.canon) : (vstEffect t k f d).canon := by
  unfold vstEffect
  extract_lets
  refine h.kIssue fun h => ?_
  extract_lets _ _ _ _ _ _ d3
  have h3 : d3.canon := (h.foldl .write).kCount.noteStore
  split
  · exact trivial
  · split
    · exact h3
    · exact h3.storeNonFinite
theorem Dev.canon.vqst {t k : Nat} {f : KFields} (h : d.canon) : (vqstEffect t k f d).canon := by
  unfold vqstEffect
  extract_lets
  split
  · exact h.kIssue (fun h => trivial)
  · refine h.kIssue fun h => ?_
    extract_lets _ _ _ _ _ _ _ _ _ _ _ d5
    have h5 : d5.canon := (((h.foldl .write).foldl .write).kCount.kCount).noteStore
    split
    · exact trivial
    · split
      · exact h5
      · exact h5.storeNonFinite

/-! ## Windows -/

theorem Dev.canon.proveStart {t unit kind : Nat} (h : d.canon) : (d.proveStart t unit kind).canon := h.ite h.integ

/-! ## Knead -/

theorem Dev.canon.kneadLoafStart {t k : Nat} {d0 : Dev} (h : d0.canon) : (kneadLoafStartEffect t k d0).canon := by
  unfold kneadLoafStartEffect
  extract_lets d2 _ _ _ _ _ _ _ _ _ d5
  have h2 : d2.canon := h.ite h.placeLoaf
  have h5 : d5.canon := h2.setKn.proveStart.setF.setFs
  split
  · exact h2
  · split
    · exact h2
    · split
      · exact h2.unresolved.loafDone
      · exact h2.raise.ite (h5.fresh.seqFail.ite h5)
theorem Dev.canon.kneadLoafComplete {t k : Nat} (h : d.canon) : (kneadLoafCompleteEffect t k d).canon := by
  unfold kneadLoafCompleteEffect
  extract_lets
  split
  · exact h
  · exact h.ite h.advance.syncLocal.modKn.kState.setArrays.count.loafDone
theorem Dev.canon.nop {t k : Nat} {f : KFields} (h : d.canon) : (nopEffect t k f d).canon := h.kIssue (fun h => h)
theorem Dev.canon.end {t k : Nat} {f : KFields} (h : d.canon) : (endEffect t k f d).canon := by
  unfold endEffect
  refine h.kIssue fun h => ?_
  split
  · split
    · exact h.passFail
    · exact h.modKn
  · exact h.modKn
theorem Dev.canon.waitat {t k : Nat} {f : KFields} (h : d.canon) : (waitatEffect t k f d).canon := h.kIssue (fun h => h.advance.syncLocal)
theorem Dev.canon.loop {t k : Nat} {f : KFields} (h : d.canon) : (loopEffect t k f d).canon := by
  unfold loopEffect
  extract_lets
  split
  · exact h.kIssue .kNextFrom
  · exact h.kIssue .modKn
theorem Dev.canon.sli {t k : Nat} {f : KFields} (h : d.canon) : (sliEffect t k f d).canon := h.kIssue .modKn
theorem Dev.canon.saddi {t k : Nat} {f : KFields} (h : d.canon) : (saddiEffect t k f d).canon := h.kIssue .modKn
theorem Dev.canon.pass {t k : Nat} {f : KFields} (h : d.canon) : (passEffect t k f d).canon := by
  unfold passEffect
  extract_lets
  split
  · split
    · refine h.kIssue fun h => ?_
      extract_lets
      split
      · exact h
      · split
        · exact h.unresolved.endLoaf
        · split
          · exact h.passFail
          · exact h.modKn.setF
    · refine h.kIssue fun h => ?_
      extract_lets
      split
      · exact h
      · split
        · exact h.unresolved.endLoaf
        · split
          · exact h.passFail
          · exact h.modKn.setF
  · split
    · refine h.kIssue fun h => ?_
      extract_lets
      split
      · exact h
      · split
        · exact h.unresolved.endLoaf
        · split
          · exact h.passFail
          · exact h.modKn.setF
    · refine h.kIssue fun h => ?_
      extract_lets
      split
      · exact h
      · split
        · exact h.unresolved.endLoaf
        · split
          · exact h.passFail
          · exact h.modKn.setF
theorem Dev.canon.passEntry {t k : Nat} (h : d.canon) : (passEntryEffect t k d).canon := by
  unfold passEntryEffect
  split
  · exact h
  · exact h.ite h.advance.passEnters.syncLocal
theorem Dev.canon.passEnd {t k : Nat} (h : d.canon) : (passEndEffect t k d).canon := by
  unfold passEndEffect
  split
  · exact h
  · exact h.ite h.advance.syncLocal.passEnds
theorem Dev.canon.dmaFail {t k idx r code detail outcome : Nat} (h : d.canon) : (d.dmaFail t k idx r code detail outcome).canon :=
  h.capture.raise.endLoaf
theorem Dev.canon.dma {t k : Nat} {f : KFields} (h : d.canon) : (dmaEffect t k f d).canon := by
  unfold dmaEffect
  extract_lets
  refine h.kIssue fun h => ?_
  extract_lets
  split
  · exact h
  · split
    · exact h.unresolved.endLoaf
    · split
      · exact h.dmaFail
      · exact h.modKn.setF
theorem Dev.canon.dmaBegin {t k : Nat} (h : d.canon) : (dmaBeginEffect t k d).canon := by
  unfold dmaBeginEffect
  extract_lets
  split
  · extract_lets
    split
    · exact h
    · split
      exact h.modKn.setF
  · exact h
theorem Dev.canon.copyRows {src dst : Nat → Nat} {rows n : Nat} (h : d.canon) : (d.copyRows src dst rows n).canon := h.foldl .write
theorem Dev.canon.dmaComplete {t k : Nat} (h : d.canon) : (dmaCompleteEffect t k d).canon := by
  unfold dmaCompleteEffect
  extract_lets
  split
  · exact h
  · extract_lets d2 _ _ _ d3
    have h2 : d2.canon := h.advance.syncLocal
    have h3 : d3.canon := h2.copyRows.modKn
    split
    · exact h
    · split
      · exact h2.unresolved.dmaFail
      · exact h3.kSignal.ite h3
theorem Dev.canon.signalEffect {t k : Nat} {f : KFields} (h : d.canon) : (signalEffect t k f d).canon := h.kIssue .kSignal
theorem Dev.canon.kWait {t k op : Nat} {f : KFields} {take : Bool} (h : d.canon) : (d.kWait t k op f take).canon :=
  h.kIssue (fun h => h.addWait.modKn.kState)
theorem Dev.canon.take {t k : Nat} {f : KFields} (h : d.canon) : (takeEffect t k f d).canon := h.kWait
theorem Dev.canon.watch {t k : Nat} {f : KFields} (h : d.canon) : (watchEffect t k f d).canon := h.kWait
theorem Dev.canon.kStewardWrite {m : Master} {t k a : Nat} {v : Word} (h : d.canon) : (d.kStewardWrite m t k a v).canon :=
  h.rwWrite.ite h.raise
theorem Dev.canon.kneadContextWrite {m : Master} {t k : Nat} {id : Bool} {v : Word} (h : d.canon) : (kneadContextWriteEffect m t k id v d).canon :=
  h.kStewardWrite
theorem Dev.canon.replayRegisterWrite {m : Master} {t k n : Nat} {v : Word} (h : d.canon) : (replayRegisterWriteEffect m t k n v d).canon :=
  h.kStewardWrite

/-! ## Codec -/

theorem Dev.canon.setCodec {t e : Nat} {c : CodecState} (h : d.canon) : (d.setCodec t e c).canon := by
  simpa only [Dev.canon, Dev.setCodec, SMap.wf_store (d := fun _ => CodecState.init) _ c (Dev.canon_codec h), Dev.canon_codec h, true_and] using h
theorem Dev.canon.codecCount {t e r : Nat} {f ovf : Fld} {n : Nat} (h : d.canon) : (d.codecCount t e r f ovf n).canon :=
  h.count.raise.ite h.count
theorem Dev.canon.codecEnd {t e outcome cause : Nat} (h : d.canon) : (d.codecEnd t e outcome cause).canon := h.setCodec.setFs.loafDone
theorem Dev.canon.codecCapture {t e reason desc id : Nat} (h : d.canon) : (d.codecCapture t e reason desc id).canon := h.capture
theorem Dev.canon.codecFault {t e how : Nat} (h : d.canon) : (d.codecFault t e how).canon := h.codecCapture.raise.codecEnd
theorem Dev.canon.codecLoafStart {t e : Nat} {rec : Bytes} (h : d.canon) : (codecLoafStartEffect t e rec d).canon := by
  unfold codecLoafStartEffect
  extract_lets _ _ _ _ _ _ _ d4 _ _ fail
  have h4 : d4.canon := h.proveStart.setF.setFs.setCodec
  have hfail {i : Nat} {r : Nat} {op : Nat} : (fail i r op).canon := h4.codecCapture.raise.codecEnd
  split
  · exact h
  · split
    · exact h.raise
    · split
      · exact h4.unresolved.codecFault
      · split
        · exact hfail
        · split
          · exact hfail
          · split
            · exact h4.codecEnd
            · exact hfail.ite h4.setCodec
theorem Dev.canon.codecInternalFault {t e : Nat} (h : d.canon) : (codecInternalFaultEffect t e d).canon := h.codecFault.ite h
theorem Dev.canon.codecBegin {t e op : Nat} (h : d.canon) : (d.codecBegin t e op).canon := by
  unfold Dev.codecBegin
  extract_lets
  split
  · exact h
  · exact h.ite h.advance.setCodec.setFs
theorem Dev.canon.ldpcDecode {t e : Nat} (h : d.canon) : (ldpcDecodeEffect t e d).canon := h.codecBegin
theorem Dev.canon.ldpcEncode {t e : Nat} (h : d.canon) : (ldpcEncodeEffect t e d).canon := h.codecBegin
theorem Dev.canon.polarEncode {t e : Nat} (h : d.canon) : (polarEncodeEffect t e d).canon := h.codecBegin
theorem Dev.canon.polarDecode {t e : Nat} (h : d.canon) : (polarDecodeEffect t e d).canon := h.codecBegin
theorem Dev.canon.prachDetect {t e : Nat} (h : d.canon) : (prachDetectEffect t e d).canon := h.codecBegin
theorem Dev.canon.codecInput {a n : Nat} {y : Bytes × Bool × Dev} (h : d.canon) (he : (d.codecInput a n) = y) : y.2.2.canon := by
  subst he
  unfold Dev.codecInput
  exact h.foldl .unresolved
theorem Dev.canon.codecBits {j : CodecJob} {n : Nat} {y : List Bool × Bool × Dev} (h : d.canon) (he : (d.codecBits j n) = y) : y.2.2.canon := by
  subst he
  unfold Dev.codecBits
  split
  · next _ _ _ _ he1 =>
      exact (h.codecInput he1)
theorem Dev.canon.cbIntegrity {t e idx : Nat} (h : d.canon) : (d.cbIntegrity t e idx).canon := h.fresh.fresh.count.raise
theorem Dev.canon.codecSkip {t e : Nat} {j : CodecJob} {ran_ : Nat} (h : d.canon) : (d.codecSkip t e j ran_).canon := h.ite h.codecCount
theorem Dev.canon.codecOutput {t e : Nat} {j : CodecJob} {y : Bytes × Bytes × Dev} (h : d.canon) (he : d.codecOutput t e j = y) : y.2.2.canon := by
  subst he
  unfold Dev.codecOutput
  extract_lets _ fails flag
  have hfails {a : Dev} {n : Nat} (h : a.canon) : (fails a n).canon := h.codecCount
  split
  · split
    next he =>
      have read := h.codecInput he
      generalize ldpcRun j _ = y
      exact (hfails read.codecSkip.setCodec).cbIntegrity.ite (hfails read.codecSkip.setCodec)
  · split
    next he => exact (h.codecBits he).setCodec
  · split
    next he => exact h.codecBits he
  · split
    next he => exact hfails (h.codecInput he)
  · split
    next he =>
      have read := h.codecInput he
      extract_lets
      split
      refine Dev.canon.codecCount ?_
      exact List.foldlRecOn (motive := fun s : Bytes × Dev => s.2.canon) _ _ read fun _ hs _ _ => hs.fresh
theorem Dev.canon.codecDescComplete {t e : Nat} (h : d.canon) : (codecDescCompleteEffect t e d).canon := by
  unfold codecDescCompleteEffect
  extract_lets
  split
  · exact h
  · extract_lets
    split
    · exact h
    · split
      · next _ _ _ _ he2 =>
          extract_lets _ _ _ d6 d7
          have h6 : d6.canon := ((((h.advance.codecOutput he2).write).write).codecCount).setCodec.setFs
          have h7 : d7.canon := h6.unitSignal.ite h6
          exact h7.codecEnd.ite h7
theorem Dev.canon.ldpcEarlyTermination {t e : Nat} (h : d.canon) : (ldpcEarlyTerminationEffect t e d).canon := by
  unfold ldpcEarlyTerminationEffect
  extract_lets
  split
  · exact h
  · exact h.ite h.advance.codecSkip.setCodec.setFs

/-! ## Events -/

theorem Dev.canon.deliverVector {v : Nat} (h : d.canon) : (d.deliverVector v).canon := h.send.ite (h.ite h.ev)
theorem Dev.canon.vector {v : Nat} {kind : HostKind} {slice : Nat} (h : d.canon) : (d.vector v kind slice).canon :=
  h.ev.ite (h.deliverVector.ite h.ev)
theorem Dev.canon.writeDone {id : Nat} (h : d.canon) : (d.writeDone id).canon := h.hostWrites.ev.foldl .deliverVector
theorem Dev.canon.msixUnmask {v : Nat} (h : d.canon) : (msixUnmaskEffect v d).canon := h.ite (h.ev.send.ite h.ev)
theorem Dev.canon.ringDiscard {r : Nat} (h : d.canon) : (d.ringDiscard r).canon := by
  unfold Dev.ringDiscard
  split
  exact h.count.ite h.count.ev
theorem Dev.canon.ringWrite {r : Nat} {e : EventRec} (h : d.canon) : (d.ringWrite r e).canon := by
  unfold Dev.ringWrite
  extract_lets
  split
  exact h.ringDiscard.ite h.hostWrite.setF.ev
theorem Dev.canon.eventRecordWrite (h : d.canon) : (eventRecordWriteEffect d).canon := by
  unfold eventRecordWriteEffect
  extract_lets
  split
  · exact h
  · exact h.ev.ringWrite.ite ((h.ev.ev.ite h.ev.ringDiscard).ite h.ev.ringWrite)
theorem Dev.canon.ringVectors (h : d.canon) : (d.ringVectors).canon := h.ev.foldl .vector
theorem Dev.canon.deviceRingAddressWrite {m : Master} {v : Word} (h : d.canon) : (deviceRingAddressWriteEffect m v d).canon := by
  unfold deviceRingAddressWriteEffect
  extract_lets d2
  have h2 : d2.canon := h.rwWrite
  exact h.ite (h2.ite (h2.ev.foldl .ringWrite))
theorem Dev.canon.atsFault {slice : Option Nat} {addr : Nat} (h : d.canon) : (d.atsFault slice addr).canon := h.count.raise
theorem Dev.canon.fetchEnd {how : FetchEnd} {slice : Option Nat} {addr : Nat} (h : d.canon) : (d.fetchEnd how slice addr).canon := by
  unfold Dev.fetchEnd
  split
  · exact h.atsFault
  · exact h

/-! ## HostMem -/

theorem Dev.canon.hdmRefuse {dpa : Option Nat} {a what : Nat} (h : d.canon) : (d.hdmRefuse dpa a what).canon := by
  unfold Dev.hdmRefuse
  split
  · exact h.raise
  · exact h.raise
theorem Dev.canon.hdmAnswer {data : Option Bytes} (h : d.canon) : (d.hdmAnswer data).canon := by
  unfold Dev.hdmAnswer
  split
  · exact h.send.readOut
  · exact h.free.send
theorem Dev.canon.hdmRead {a : Nat} (h : d.canon) : (hdmReadEffect a d).canon := by
  unfold hdmReadEffect
  split
  · exact h
  · split
    · exact h.hdmAnswer
    · split
      · exact h.hdmRefuse.hdmAnswer
      · exact h.hdmRefuse.hdmAnswer.ite (h.unresolved.hdmAnswer.ite h.hdmAnswer)
theorem Dev.canon.hdmWrite {a : Nat} {data : Bytes} {poison : Bool} (h : d.canon) : (hdmWriteEffect a data poison d).canon := by
  have poisoned {e : Dev} {ln : Nat} (h : e.canon) : ({ e with lineErr := store 0#16 e.lineErr ln 0xFFFF#16 } : Dev).canon := h.setLineErr
  unfold hdmWriteEffect
  split
  · exact h
  · split
    · exact h.hdmRefuse
    · extract_lets
      split
      · exact h.hdmRefuse
      · exact (poisoned h.write).count.ite h.write
theorem Dev.canon.h2dSnoop {a : Nat} (h : d.canon) : (h2dSnoopEffect a d).canon := h.send
theorem Dev.canon.hostWriteDone {id : Nat} (h : d.canon) : (hostWriteDoneEffect id d).canon := h.writeDone.ite h
theorem Dev.canon.hostWriteRetry {id : Nat} {how : FetchEnd} (h : d.canon) : (hostWriteRetryEffect id how d).canon := by
  unfold hostWriteRetryEffect
  split
  · exact h
  · extract_lets d2
    have h2 : d2.canon := h.fetchEnd
    exact ((h2.tierHostFailed.ite h2).writeDone).ite h2.hostWrites.count
  · exact h

/-! ## Cxl -/

theorem Dev.canon.setLink {width : Nat} {fast lopt : Bool} (h : d.canon) : (d.setLink width fast lopt).canon := h.setFs
theorem Dev.canon.cxlLinkTrained {width : Nat} {fast lopt flit256 : Bool} {proto : Nat} (h : d.canon) : (cxlLinkTrainedEffect width fast lopt flit256 proto d).canon := by
  unfold cxlLinkTrainedEffect
  extract_lets _ d2
  have h2 : d2.canon := h.setLink.setF
  exact h2.ite h2.raise
theorem Dev.canon.cxlLinkDegraded {width : Nat} {fast lopt : Bool} (h : d.canon) : (cxlLinkDegradedEffect width fast lopt d).canon :=
  h.ite h.setLink.raise
theorem Dev.canon.atsInvalidation {pasid : Option Nat} {a n : Nat} (h : d.canon) : (atsInvalidationEffect pasid a n d).canon :=
  h.ite h.send
theorem Dev.canon.hdmCommit {base size : Nat} (h : d.canon) : (hdmCommitEffect base size d).canon := h.ite h.setFs
theorem Dev.canon.doeDiscovery {i : Nat} (h : d.canon) : (doeDiscoveryEffect i d).canon := h.ite h.send
theorem Dev.canon.cdatRead {i : Nat} (h : d.canon) : (cdatReadEffect i d).canon := h.ite (h.send.ite h.send)

/-! ## Tray -/

theorem Dev.canon.trayDoorbell {m : Master} {n : Nat} {v : Word} (h : d.canon) : (trayDoorbellEffect m n v d).canon := h.ite h.setTray
theorem Dev.canon.trayFetchDone {n : Nat} {es : List Bytes} {how : FetchEnd} (h : d.canon) : (trayFetchDoneEffect n es how d).canon := by
  unfold trayFetchDoneEffect
  extract_lets
  split
  · exact h
  · split
    · exact h.setTray.ite (h.ite h.setTray)
    · extract_lets
      split
      exact h.fetchEnd.setTray
theorem Dev.canon.trayAbort {m : Master} {n : Nat} {q : Word} (h : d.canon) : (trayAbortEffect m n q d).canon := h.ite h.setTray.setB
theorem Dev.canon.traySnapshot {n : Nat} (h : d.canon) : (d.traySnapshot n).canon := h.setTray
theorem Dev.canon.finish {t : Nat} {e : Entry} {st reason obj : Nat} (h : d.canon) : (d.finish t e st reason obj).canon := by
  unfold Dev.finish
  extract_lets d2
  have h2 : d2.canon := h.raise.ite h
  exact h.ite (h2.triggerHere.ite h2).modSch
theorem Dev.canon.freeCtx {t : Nat} {c : TCtx} (h : d.canon) : (d.freeCtx t c).canon :=
  (h.foldl fun h => h.foldl .ctrWrite).modSch.syncContexts
theorem Dev.canon.flushOne {t n : Nat} (h : d.canon) (he : d.flushOne t n = some e) : e.canon := by
  unfold Dev.flushOne at he
  split at he
  · cases he
  · split at he
    · cases he
    · split at he
      · cases he
      · extract_lets _ d1 d2 d3 d4 at he
        have h4 : d4.canon := (h.hostWrite.setReg.vector.ite h.hostWrite.setReg).modSch
        split at he
        · split at he
          · exact Option.some.inj he ▸ h4
          · split at he
            · exact Option.some.inj he ▸ h4.freeCtx
            · exact Option.some.inj he ▸ h4.modSch
        · exact Option.some.inj he ▸ h4
theorem Dev.canon.flush {t n k : Nat} (h : d.canon) : (Dev.flush t n k d).canon := by
  induction k generalizing d with
  | zero => exact h
  | succ k ih =>
    unfold Dev.flush
    split
    next _ he => exact ih (h.flushOne he)
    next => exact h
theorem Dev.canon.acceptOne {t n : Nat} (h : d.canon) (he : d.acceptOne t n = some e) : e.canon := by
  unfold Dev.acceptOne at he
  extract_lets x sl at he
  split at he
  · cases he
  · split at he
    · cases he
    · extract_lets _ _ d2 _ put opens at he
      have h2 : d2.canon := h.hostWrite.setReg.setTray
      have hput {a : Dev} (h : a.canon) : (put a).canon := Dev.canon.modSch h
      have hopens {a : Dev} (h : a.canon) : (opens a).canon := (Dev.canon.modSch h).ite h
      split at he
      · exact Option.some.inj he ▸ h.setTray.setB.raise
      · split at he
        · exact Option.some.inj he ▸ (hput (hopens h2)).finish.setTray.setFs
        · split at he
          · exact Option.some.inj he ▸ (hput h2).raise.finish
          · exact Option.some.inj he ▸ (hput (hopens h2)).modSch.ite (hput (hopens h2))
theorem Dev.canon.acceptTray {t n k : Nat} {p : Dev × Nat} (h : d.canon) (he : Dev.acceptTray t n k d = p) : p.1.canon := by
  subst he
  induction k generalizing d with
  | zero => exact h
  | succ k ih =>
    unfold Dev.acceptTray
    split
    next _ he => exact ih (h.acceptOne he)
    next => exact h
theorem Dev.canon.acceptAll {t : Nat} (h : d.canon) : (d.acceptAll t).canon :=
  List.foldlRecOn (motive := fun s : Dev × Nat => s.1.canon) _ _ h fun _ hs _ _ => hs.acceptTray rfl
theorem Dev.canon.chainCommit {e : Entry} (h : d.canon) : (d.chainCommit e).canon := h.ite h.memb
theorem Dev.canon.commitAll {t : Nat} (h : d.canon) : (d.commitAll t).canon := h.foldl fun h => h.ite h.write.chainCommit.finish
theorem Dev.canon.actAbort {t n : Nat} (h : d.canon) : (d.actAbort t n).canon := by
  unfold Dev.actAbort
  extract_lets _ result
  have hresult {b : Dev} {v : Nat} {p : Nat} (h : b.canon) : (result b v p).canon := h.setFs
  split
  · exact h
  · extract_lets clear d3
    have hclear {b : Dev} {a : Option (BitVec 64)} (h : b.canon) : (clear b a).canon := h.setTray
    have h3 : d3.canon := hclear h
    split
    · exact hresult (hclear h)
    · split
      · exact hresult (hclear h)
      · exact (hresult (hclear h)).ite (hresult (h3.modSch.ite h3).finish)
theorem Dev.canon.finishWhere {t : Nat} {p : Entry → Bool} {st : Nat} (h : d.canon) : (d.finishWhere t p st).canon :=
  h.foldl fun h => h.finish.ite h

/-! ## Radio -/

theorem Dev.canon.indWrite {t cell sfn slot msg : Nat} {body : Bytes} (h : d.canon) : (d.indWrite t cell sfn slot msg body).canon :=
  h.count.raise.modRad.ite h.hostWrite.setF.modRad
theorem Dev.canon.indVector {t : Nat} (h : d.canon) : (d.indVector t).canon := h.vector
theorem Dev.canon.markRadio {t cell kind T : Nat} (h : d.canon) : (d.markRadio t cell kind T).canon := h.modRad
theorem Dev.canon.radioReqDoorbell {m : Master} {t v : Nat} (h : d.canon) : (radioReqDoorbellEffect m t v d).canon := h.ite h.setRad
theorem Dev.canon.radioReqFetchDone {t : Nat} {rs : List Bytes} {how : FetchEnd} (h : d.canon) : (radioReqFetchDoneEffect t rs how d).canon := by
  unfold radioReqFetchDoneEffect
  extract_lets
  split
  · exact h
  · extract_lets
    split
    · exact h.ite h.setRad
    · extract_lets
      split
      exact h.fetchEnd.setRad
theorem Dev.canon.fapiRefuse {t reason cell msg sfn slot pdus : Nat} (h : d.canon) : (d.fapiRefuse t reason cell msg sfn slot pdus).canon :=
  h.indWrite.count.raise
theorem Dev.canon.takeRequest {t T : Nat} {r : Bytes} (h : d.canon) : (d.takeRequest t T r).canon := by
  unfold Dev.takeRequest
  extract_lets _ _ _ _ _ _ _ no
  have hno {b : Dev} {reason : Nat} (h : b.canon) : (no b reason).canon := h.fapiRefuse
  split
  · exact hno h
  · split
    · exact hno h
    · extract_lets _ put _ _ _ d3 _ d4
      have hput {b : Dev} {kept : Nat} {ok : Bool} (h : b.canon) : (put b kept ok).canon := h.modRad
      have h3 : d3.canon := hput h
      have h4 : d4.canon := hput h
      split
      · exact hno h
      · exact (hno h).ite ((hno h).ite (((hput (hno h)).ite (h3.fapiRefuse.ite h3)).ite ((hput (hno h)).ite (h4.fapiRefuse.ite h4))))
theorem Dev.canon.takeRequests {t T : Nat} (h : d.canon) : (d.takeRequests t T).canon := by
  unfold Dev.takeRequests
  extract_lets _ _ _ _ _ _ d4
  have h4 : d4.canon := (h.setRad.foldl .takeRequest).setF
  exact h4.ite h4.indVector
theorem Dev.canon.loseSlot {t cell S dir cause : Nat} (h : d.canon) : (d.loseSlot t cell S dir cause).canon := h.modRad
theorem Dev.canon.loseLoaf {t T : Nat} {l : LoafDone} (h : d.canon) : (d.loseLoaf t T l).canon := by
  unfold Dev.loseLoaf
  split
  · exact h
  · split
    · refine h.foldl fun h => ?_
      split
      · exact h
      · split
        · exact h.loseSlot
        · exact h
    · refine h.foldl fun h => ?_
      split
      · exact h
      · split
        · exact h.loseSlot
        · exact h
theorem Dev.canon.loseTick {t T : Nat} (h : d.canon) : (d.loseTick t T).canon := by
  unfold Dev.loseTick
  refine h.foldl fun h => ?_
  refine h.foldl fun h => ?_
  split
  · exact h.loseSlot
  · exact h
theorem Dev.canon.loseReset {t : Nat} {unit : Option (BitVec 16)} (h : d.canon) : (d.loseReset t unit).canon := by
  unfold Dev.loseReset
  split
  · extract_lets
    refine h.foldl fun h => ?_
    split
    · exact h
    · exact h.loseSlot.ite h
  · refine h.foldl fun h => ?_
    split
    · exact h
    · exact h.loseSlot.ite h
theorem Dev.canon.reportLost {t : Nat} {c : Bytes} {l : LostSlot} (h : d.canon) : (d.reportLost t c l).canon := by
  unfold Dev.reportLost
  extract_lets
  split
  exact h.indWrite.count.raise
theorem Dev.canon.radioAt {t cell kind off : Nat} {p : Bytes × Nat × Dev} (h : d.canon) (he : d.radioAt t cell kind off = some p) : p.2.2.canon := by
  unfold Dev.radioAt at he
  extract_lets at he
  split at he
  · cases he
  · obtain ⟨_, _, rfl⟩ := Option.map_eq_some_iff.mp he
    exact h.advance.markRadio
theorem Dev.canon.fhEnqueue {t cell : Nat} {dirs : List Nat} {uplane : Bool} (h : d.canon) : (d.fhEnqueue t cell dirs uplane).canon := by
  unfold Dev.fhEnqueue
  extract_lets
  split
  · refine h.foldl fun h => ?_
    extract_lets
    split
    · exact h
    · split
      · exact ((h.fresh.foldl .ethEnqueue).foldl .ethEnqueue).modRad
      · exact h
  · extract_lets
    refine h.foldl fun h => ?_
    extract_lets
    split
    · exact h
    · split
      · exact ((h.fresh.foldl .ethEnqueue).foldl .ethEnqueue).modRad
      · exact h
theorem Dev.canon.ulCplaneEgress {t cell : Nat} (h : d.canon) : (ulCplaneEgressEffect t cell d).canon := by
  unfold ulCplaneEgressEffect
  split
  · exact h
  · split
    · exact h
    · next _ _ _ _ he1 =>
        exact h.ite ((h.radioAt he1).fhEnqueue)
theorem Dev.canon.dlEgress {t cell : Nat} (h : d.canon) : (dlEgressEffect t cell d).canon := by
  unfold dlEgressEffect
  split
  · exact h
  · split
    · exact h
    next he =>
      have moved := h.radioAt he
      extract_lets _ _ _ send old d2
      have h2 : d2.canon := moved.fhEnqueue.ite moved
      split
      · exact h
      · generalize old = o
        cases o with
        | none => exact h2
        | some l => exact (h2.reportLost.modRad).indVector
theorem Dev.canon.harq {t : Nat} {c : Bytes} {T : Nat} {p : Nat × Nat × Bool} (h : d.canon) : (d.harq t c T p).canon := by
  obtain ⟨rnti, proc, new⟩ := p
  unfold Dev.harq
  dsimp only
  split
  · exact h.modRad
  · split
    · exact h.count
    · split
      · exact h.modRad
      · generalize List.foldl _ none _ = o
        cases o with
        | none => exact h
        | some b => exact h.modRad
theorem Dev.canon.ulIndicationDelivery {t cell : Nat} (h : d.canon) : (ulIndicationDeliveryEffect t cell d).canon := by
  unfold ulIndicationDeliveryEffect
  extract_lets
  split
  · exact h
  · split
    · exact h
    · next _ _ _ _ he1 =>
        extract_lets _ _ forget
        have hforget {b : Dev} (h : b.canon) : (forget b).canon := h.modRad
        split
        · exact h
        · split
          · exact (hforget ((h.radioAt he1).reportLost)).indVector
          · exact hforget (h.radioAt he1)
          · extract_lets d4
            have h4 : d4.canon := (h.radioAt he1).foldl .harq
            split
            split
            · next _ _ _ he4 =>
                split
                exact (hforget (((h4.ofFresh he4).ite ((h4.ofFresh he4).hostWrite)).foldl fun h => h.foldl .indWrite)).indVector
theorem Dev.canon.slotIndications {t T : Nat} (h : d.canon) : (d.slotIndications t T).canon := by
  unfold Dev.slotIndications
  extract_lets _ d2
  have h2 : d2.canon := h.foldl fun h => h.indWrite
  exact h2.ite h2.indVector
theorem Dev.canon.radioSnapshot {t T : Nat} (h : d.canon) : (d.radioSnapshot t T).canon :=
  h.ite ((h.fhSnapshot.foldl .loseLoaf).takeRequests)

/-! ## Sieve -/

theorem Dev.canon.setSieve {t i : Nat} {x : SieveState} (h : d.canon) : (d.setSieve t i x).canon := by
  simpa only [Dev.canon, Dev.setSieve, SMap.wf_store (d := fun _ => SieveState.init) _ x (Dev.canon_sieves h), Dev.canon_sieves h, true_and] using h
theorem Dev.canon.sieveSt {t i st : Nat} (h : d.canon) : (d.sieveSt t i st).canon := h.setF
theorem Dev.canon.sieveContextWrite {m : Master} {t i : Nat} {v : Word} (h : d.canon) : (sieveContextWriteEffect m t i v d).canon :=
  h.rwWrite.ite h.raise
theorem Dev.canon.endSieve {t i outcome reason : Nat} (h : d.canon) : (d.endSieve t i outcome reason).canon :=
  h.setSieve.sieveSt.dropWaits.loafDone
theorem Dev.canon.sieveCapture {t i reason page jobId : Nat} (h : d.canon) : (d.sieveCapture t i reason page jobId).canon :=
  h.setB.ite h.setFs.setFs
theorem Dev.canon.sieveFail {t i reason page jobId : Nat} (h : d.canon) : (d.sieveFail t i reason page jobId).canon :=
  h.sieveCapture.raise.endSieve
theorem Dev.canon.sieveReady {t i k : Nat} (h : d.canon) : (d.sieveReady t i k).canon := by
  unfold Dev.sieveReady
  extract_lets _ d2
  have h2 : d2.canon := h.setFs
  split
  · exact h2.sieveFail
  · split
    · exact h2.unresolved.endSieve
    · split
      · exact h2.setSieve.sieveSt
      · split
        · exact h2.sieveFail
        · exact h2.setSieve.sieveSt.addWait
theorem Dev.canon.sieveLoafStart {t i : Nat} {d0 : Dev} (h : d0.canon) : (sieveLoafStartEffect t i d0).canon := by
  unfold sieveLoafStartEffect
  extract_lets d2
  have h2 : d2.canon := h.ite h.placeLoaf
  split
  · exact h2
  · extract_lets _ _ _ _ _ _ _ _ d4
    have h4 : d4.canon := h2.setSieve.proveStart.setF.setF
    split
    · exact h2
    · split
      · exact h2.unresolved.loafDone
      · exact h2.raise.ite (h4.endSieve.ite h4.sieveReady)
theorem Dev.canon.sievePairs {t i : Nat} {s : SieveState} {j : SieveJob} {l : List PagePair} {n : Nat} (h : d.canon) :
    (d.sievePairs t i s j l n).canon := by
  induction l generalizing d n with
  | nil => exact h
  | cons p r ih =>
    unfold Dev.sievePairs
    split
    · exact h.sieveFail
    · split
      · exact h.unresolved.sieveCapture.raise.endSieve
      · exact ih h.count
theorem Dev.canon.sieveJobBegin {t i : Nat} (h : d.canon) : (sieveJobBeginEffect t i d).canon := by
  unfold sieveJobBeginEffect
  extract_lets
  split
  · exact h
  · extract_lets _ _ _ d2
    have h2 : d2.canon := h.sievePairs
    split
    · exact h
    · split
      · exact h.sieveFail
      · split
        · exact h.unresolved.endSieve
        · exact h2.ite h2.setSieve.sieveSt
theorem Dev.canon.sieveJobComplete {t i : Nat} (h : d.canon) : (sieveJobCompleteEffect t i d).canon := by
  unfold sieveJobCompleteEffect
  extract_lets
  split
  · exact h
  · extract_lets d5 d6 d7 d8
    have h5 : d5.canon := (h.advance.setF.foldl .write).kCount
    have h6 : d6.canon := by
      dsimp -zeta only [d6]
      split
      · exact h5
      · extract_lets _ d6
        have h6 : d6.canon := h5.captureNonFinite
        exact h6.ite h6.raiseNonFinite
    have h7 : d7.canon := h6.count
    have h8 : d8.canon := by
      dsimp -zeta only [d8]
      split
      · exact h7.unitSignal
      · exact h7
    exact h.ite (h8.endSieve.ite h8.setSieve.sieveReady)
theorem Dev.canon.sieveWaitFailed {t i : Nat} (h : d.canon) : (d.sieveWaitFailed t i).canon := h.sieveCapture.endSieve
theorem Dev.canon.sieveReleased {t i : Nat} (h : d.canon) : (d.sieveReleased t i).canon := h.setSieve.sieveSt

/-! ## Sched -/

theorem Dev.canon.finishGroup {t : Nat} {key : Nat × BitVec 64} {st reason obj : Nat} (h : d.canon) : (d.finishGroup t key st reason obj).canon :=
  h.modSch.foldl .finish
theorem Dev.canon.zeroCtxCtrs {t : Nat} {c : TCtx} (h : d.canon) : (d.zeroCtxCtrs t c).canon := h.foldl fun h => h.foldl .ctrWrite
theorem Dev.canon.rerun {t : Nat} {p : Placed} {r : LoafDone} (h : d.canon) : (d.rerun t p r).canon := by
  unfold Dev.rerun
  extract_lets
  split
  · exact h.modSch
  · extract_lets _ d3 d4
    have h3 : d3.canon := h.count.raise
    have h4 : d4.canon := by
      dsimp -zeta only [d4]
      split
      · exact h3.zeroCtxCtrs
      · exact h3
    exact h.finishGroup.ite h4.modSch
theorem Dev.canon.settleItem {t : Nat} {p : Placed} (h : d.canon) : (d.settleItem t p).canon := by
  unfold Dev.settleItem
  extract_lets
  split
  · exact h
  · split
    · exact h.finishGroup
    · exact h.rerun
    · exact h.ite h.modSch.modSch
theorem Dev.canon.settle {t : Nat} (h : d.canon) : (d.settle t).canon := h.setTile.modSch.foldl .settleItem
theorem Dev.canon.step4 {t : Nat} (h : d.canon) : (d.step4 t).canon :=
  ((h.settle.acceptAll.commitAll.foldl .flush).foldl .actAbort).foldl .flush
theorem Dev.canon.addSvc {t : Nat} {v : Svc} (h : d.canon) : (d.addSvc t v).canon := h.modSch
theorem Dev.canon.planSave {t : Nat} {c : TCtx} (h : d.canon) : (d.planSave t c).canon := (h.foldl .addSvc).count.modSch
theorem Dev.canon.giveLines {t : Nat} {c : TCtx} {role : Nat} {r : Role} (h : d.canon) : (d.giveLines t c role r).canon :=
  (h.ite h.addSvc).modSch
theorem Dev.canon.evictFor {t : Nat} {me : TCtx} {roles : List Role} (h : d.canon) : (d.evictFor t me roles).canon := h.foldl .planSave
theorem Dev.canon.createCtx {t : Nat} {c : TCtx} {v : Variant} {cores : Nat} (h : d.canon) : (d.createCtx t c v cores).canon := by
  unfold Dev.createCtx
  split
  · exact h
  · exact ((h.evictFor.foldl fun h => h.foldl .ctrWrite).modSch.foldl .giveLines).syncContexts
theorem Dev.canon.planRestore {t : Nat} {c : TCtx} {v : Variant} {rs : List Role} (h : d.canon) : (d.planRestore t c v rs).canon :=
  ((h.modSch.foldl .giveLines).foldl .addSvc).syncContexts
theorem Dev.canon.copyImages {t : Nat} {c : TCtx} {v : Variant} (h : d.canon) : (d.copyImages t c v).canon := by
  unfold Dev.copyImages
  refine h.foldl fun h => ?_
  split
  · exact h
  · split
    · exact h
    · exact h.addSvc
theorem Dev.canon.tryRestore {t : Nat} {c : TCtx} {v : Variant} (h : d.canon) : (d.tryRestore t c v).canon := by
  unfold Dev.tryRestore
  split
  · exact h.evictFor.planRestore
  · extract_lets _ there
    split
    · exact h
    · generalize there = os
      cases os with
      | nil => exact h
      | cons o os => exact h.planSave
theorem Dev.canon.prepare {t : Nat} {e0 : Entry} (h : d.canon) : (d.prepare t e0).canon := by
  unfold Dev.prepare
  extract_lets
  split
  · exact h
  · extract_lets
    split
    · extract_lets
      split
      · split
        · exact h
        · split
          · exact h.finishGroup.raise
          · exact h.count.raise.modSch
      · extract_lets d4 d5
        have h4 : d4.canon := h.createCtx
        have h5 : d5.canon := h.tryRestore
        split
        · split
          · exact h4.copyImages.ite h4
          · exact h4
        · split
          · exact h.ite h.copyImages
          · split
            · exact h5.copyImages.ite h5
            · exact h5
          · exact h
    · exact h
theorem Dev.canon.formBatch {t : Nat} {e : Entry} (h : d.canon) : (d.formBatch t e).canon := h.ite (h.foldl .modSch)
theorem Dev.canon.placeStep {t : Nat} {key : Nat × BitVec 64} (h : d.canon) (he : d.placeStep t key = some e) : e.canon := by
  unfold Dev.placeStep at he
  split at he
  · cases he
  · split at he
    · extract_lets at he
      split at he
      · cases he
      · split at he
        · cases he
        · split at he
          · cases he
          · split at he
            · exact Option.some.inj he ▸ h.finishGroup
            · split at he
              · cases he
              · exact Option.some.inj he ▸ h.formBatch.modSch
    · cases he
theorem Dev.canon.placeSteps {t : Nat} {key : Nat × BitVec 64} {n : Nat} (h : d.canon) : (Dev.placeSteps t key n d).canon := by
  induction n generalizing d with
  | zero => exact h
  | succ n ih =>
    unfold Dev.placeSteps
    split
    next _ he => exact ih (h.placeStep he)
    next => exact h
theorem Dev.canon.parkHeld {t : Nat} (h : d.canon) : (d.parkHeld t).canon := by
  unfold Dev.parkHeld
  refine h.foldl fun h => ?_
  extract_lets
  split
  · exact h
  · extract_lets
    split
    · exact h
    · split
      · exact h
      · split
        · exact h
        · exact h.write.modKn.setArrays
theorem Dev.canon.step5 {t : Nat} (h : d.canon) : (d.step5 t).canon := by
  unfold Dev.step5
  extract_lets _ _ d3 d4
  have h3 : d3.canon := (h.foldl .prepare).foldl .placeSteps
  have h4 : d4.canon := by
    dsimp -zeta only [d4]
    split
    · exact h3.modSch
    · exact h3
  exact h4.parkHeld
theorem Dev.canon.step6 {t : Nat} (h : d.canon) : (d.step6 t).canon := by
  unfold Dev.step6
  refine h.foldl fun h => ?_
  split
  exact h.ite (h.foldl fun h => h.ite ((h.raise.tierRecord.ite h.tierPush).write))
theorem Dev.canon.pauseSvc {t edge : Nat} (h : d.canon) : (d.pauseSvc t edge).canon := h.modSch
theorem Dev.canon.schedEdge {t edge : Nat} {inTime : Bool} (h : d.canon) : (d.schedEdge t edge inTime).canon := by
  unfold Dev.schedEdge
  extract_lets
  split
  split
  exact (h.pauseSvc.foldl .modSch).modSch
theorem Dev.canon.atBoundary {t : Nat} (h : d.canon) (he : d.atBoundary t = some e) : e.canon := by
  unfold Dev.atBoundary at he
  extract_lets at he
  split at he
  · cases he
  · exact Option.some.inj he ▸ h.advanceTo
theorem Dev.canon.serviceTransferStart {t k : Nat} (h : d.canon) : (serviceTransferStartEffect t k d).canon := by
  unfold serviceTransferStartEffect
  split
  · next _ _ _ _ _ he1 =>
      split
      · exact h
      · extract_lets
        split
        · exact h.ite ((h.atBoundary he1).modSch)
        · extract_lets
          split
          · exact h
          · exact h.ite ((h.atBoundary he1).advanceTo).modSch
  · exact h
theorem Dev.canon.saveRole {t : Nat} {c : TCtx} {ri : Role × Nat} (h : d.canon) : (d.saveRole t c ri).canon := by
  unfold Dev.saveRole
  split
  extract_lets
  split
  · exact h
  · extract_lets d2
    have h2 : d2.canon := by
      dsimp -zeta only [d2]
      split
      · exact h.write.modKn.setArrays.modSch
      · exact h
    exact h2.free.write.write.write.foldl .setF
theorem Dev.canon.contextSaved {t id : Nat} (h : d.canon) : (contextSavedEffect t id d).canon := by
  unfold contextSavedEffect
  split
  · exact h
  · extract_lets
    split
    · exact h
    · exact (h.advanceTo.modSch.foldl .saveRole).modSch.modSch.syncContexts.raise
theorem Dev.canon.restoreRole {t : Nat} {c : TCtx} {ri : Role × Nat} (h : d.canon) : (d.restoreRole t c ri).canon := by
  unfold Dev.restoreRole
  split
  extract_lets
  split
  · exact h
  · extract_lets _ d3
    have h3 : d3.canon := h.write.foldl .ctrWrite
    split
    · exact h3
    · exact h3.modKn.setArrays
theorem Dev.canon.contextRestored {t id : Nat} (h : d.canon) : (contextRestoredEffect t id d).canon := by
  unfold contextRestoredEffect
  split
  · exact h
  · extract_lets
    split
    · exact h
    · exact (h.advanceTo.foldl .restoreRole).modSch.modSch.syncContexts.raise
theorem Dev.canon.benchZeroed {t k : Nat} (h : d.canon) : (benchZeroedEffect t k d).canon := by
  unfold benchZeroedEffect
  split
  · exact h
  · split
    · exact h
    · exact h.advanceTo.zeroRange.modSch
theorem Dev.canon.imageCopyDone {t k : Nat} (h : d.canon) : (imageCopyDoneEffect t k d).canon := by
  unfold imageCopyDoneEffect
  split
  · exact h
  · split
    · exact h
    · extract_lets d2
      have h2 : d2.canon := h.advanceTo
      split
      · exact (h2.foldl .write).modSch
      · split
        · exact h.modSch
        · exact h2.write.modSch
theorem Dev.canon.serviceFaulted {t id : Nat} (h : d.canon) : (serviceFaultedEffect t id d).canon := by
  unfold serviceFaultedEffect
  split
  · exact h
  · split
    · exact h
    · exact h.raise.finishWhere.freeCtx

/-! ## Integ -/

theorem Dev.canon.integOvf {was : Dev} {t r : Nat} {f : Fld} (h : d.canon) : (Dev.integOvf was d t r f).canon := h.raise.ite h
theorem Dev.canon.corrected {line : Nat} (h : d.canon) : (d.corrected line).canon := by
  unfold Dev.corrected
  split
  extract_lets _ d2
  have h2 : d2.canon := h.count.integOvf
  exact h2.setF.ite (h2.ite h2.setB.raise)
theorem Dev.canon.leakEdge (h : d.canon) : (d.leakEdge).canon := h.foldl fun h => h.foldl fun h => h.ite h.setFs
theorem Dev.canon.recover {line reader slice : Nat} (h : d.canon) : (d.recover line reader slice).canon := by
  unfold Dev.recover
  extract_lets
  split
  extract_lets
  split
  · exact h.unresolved.putObj.raise
  · split
    · exact h.unresolved
    · split
      · exact h.unresolved.uncharge.putObj.raise.ite h.unresolved.setTier.putObj
      · exact h.unresolved.ite (h.unresolved.ite (h.unresolved.ite (h.unresolved.ite (h.unresolved.ite (h.unresolved.ite h.fresh.unresolved)))))
theorem Dev.canon.lineRefetch {place reader slice : Nat} (h : d.canon) : (lineRefetchEffect place reader slice d).canon :=
  h.recover.ite h.corrected
theorem Dev.canon.pageRepairDone {t : Nat} {page : Bytes} (h : d.canon) : (pageRepairDoneEffect t page d).canon := by
  unfold pageRepairDoneEffect
  extract_lets
  split
  · exact h
  · extract_lets _ d2
    have h2 : d2.canon := h.setTier
    split
    · exact h
    · split
      · exact h2
      · split
        · exact h2
        · exact h2.unresolved.uncharge.putObj
        · extract_lets _ d4
          have h4 : d4.canon := h2.write.clearWritten
          exact (h4.ite h4.putObj).raise
theorem Dev.canon.testCmd {m : Master} {go : Nat → Dev → Dev} (h : d.canon) (hgo : ∀ {x0 d}, Dev.canon d → (go x0 d).canon) : (d.testCmd m go).canon := by
  unfold Dev.testCmd
  extract_lets
  split
  · exact hgo h.setReg
  · exact h.setReg.raise
theorem Dev.canon.testRawWrite {m : Master} (h : d.canon) : (testRawWriteEffect m d).canon := h.testCmd fun h => h.write.setLineErr
theorem Dev.canon.testRawRead {m : Master} (h : d.canon) : (testRawReadEffect m d).canon := h.testCmd (fun h => (h.foldl .setReg).setFs)
theorem Dev.canon.scrubWrap {t b : Nat} (h : d.canon) : (d.scrubWrap t b).canon := h.ite (h.integ.count.integOvf.ite h.integ)
theorem Dev.canon.scrubRead {t b : Nat} (h : d.canon) : (scrubReadEffect t b d).canon := by
  unfold scrubReadEffect
  extract_lets
  split
  split
  extract_lets _ _ _ _ d3
  have h3 : d3.canon := h.advance.integ
  split
  · exact h
  · split
    · exact h
    · exact h.ite ((h3.scrubWrap.ite h3).foldl fun h => h.recover.ite h)
theorem Dev.canon.placeProve {t unit : Nat} {r : ProveRec} {T : Nat} {rep : Bool} (h : d.canon) : (d.placeProve t unit r T rep).canon := by
  unfold Dev.placeProve
  extract_lets
  split
  · exact h
  · split
    · exact h.integ
    · exact h
theorem Dev.canon.placeProves {t T : Nat} (h : d.canon) : (d.placeProves t T).canon := h.foldl fun h => h.foldl .placeProve
theorem Dev.canon.proveLog {x : ProveRun} {result : Nat} {dig : Bytes} (h : d.canon) : (d.proveLog x result dig).canon := by
  unfold Dev.proveLog
  extract_lets
  split
  · exact h.raise
  · split
    exact h.free.free.hostWrite.setF.ev
theorem Dev.canon.proveCompare {x : ProveRun} (h : d.canon) : (d.proveCompare x).canon := by
  unfold Dev.proveCompare
  extract_lets
  split
  · exact h
  · extract_lets _ _ _ _ d3 d4
    have h3 : d3.canon := h.setFs.integOvf.proveLog
    have h4 : d4.canon := h3.raise
    exact h3.ite (h4.integ.ite h4.placeProve)
theorem Dev.canon.step2 {t : Nat} (h : d.canon) : (d.step2 t).canon := (h.integ.foldl .proveCompare).integ.placeProves
theorem Dev.canon.setMaskBit {r : Nat} {f : Fld} {n : Nat} (h : d.canon) : (d.setMaskBit r f n).canon := h.ite h.setF
theorem Dev.canon.keepFence {t unit : Nat} (h : d.canon) : (d.keepFence t unit).canon := h.ite h.sp
theorem Dev.canon.markFence {t unit id tick : Nat} (h : d.canon) : (d.markFence t unit id tick).canon := by
  unfold Dev.markFence
  extract_lets _ _ d2
  have h2 : d2.canon := by
    dsimp -zeta only [d2]
    split
    · exact h.setMaskBit
    · exact h.setMaskBit
    · exact h.setMaskBit
    · exact h.setMaskBit
    · exact h.setMaskBit
    · exact h.setMaskBit
    · exact h.setMaskBit
  exact h2.raise.keepFence
theorem Dev.canon.mapSpare {t k i : Nat} (h : d.canon) : (d.mapSpare t k i).canon := by
  unfold Dev.mapSpare
  extract_lets spare d1
  have h1 : d1.canon := h.setF
  generalize spare = s
  cases s with
  | none => exact h1.setMaskBit.raise
  | some j => exact ((h1.setFs.setF).ite h1.setFs.setF.addSvc).raise
theorem Dev.canon.loseUnit {t T : Nat} {unit : BitVec 16} {cause : Nat} (h : d.canon) : (d.loseUnit t T unit cause).canon := by
  unfold Dev.loseUnit
  refine h.foldl fun h => ?_
  refine h.foldl fun h => ?_
  split
  · exact h.loseSlot
  · exact h
theorem Dev.canon.fencedSlots {t T : Nat} (h : d.canon) : (d.fencedSlots t T).canon := h.foldl .loseUnit

/-! ## Peel -/

theorem Dev.canon.peelRefuse {n what m : Nat} (h : d.canon) : (d.peelRefuse n what m).canon := h.raise
theorem Dev.canon.setPeelOwner {n o : Nat} (h : d.canon) : (d.setPeelOwner n o).canon := h.setF.setF
theorem Dev.canon.peelLockRead {m n : Nat} (h : d.canon) : (peelLockReadEffect m n d).canon :=
  h.peelRefuse.readOut.ite (h.readOut.ite h.setPeelOwner.setF.readOut)
theorem Dev.canon.peelDataAccess {m n w : Nat} {wr : Option Word} (h : d.canon) : (peelDataAccessEffect m n w wr d).canon := by
  unfold peelDataAccessEffect
  extract_lets
  split
  · exact h.readOut
  · exact h.setReg.ite h.peelRefuse
theorem Dev.canon.peelNotify {n o : Nat} (h : d.canon) : (d.peelNotify n o).canon := h.deliverVector.ite h.send
theorem Dev.canon.handTo {n o : Nat} (h : d.canon) : (d.handTo n o).canon := h.setPeelOwner.setFs.setB.peelSeen.peelNotify
theorem Dev.canon.peelHandoff {m n : Nat} {v : Word} (h : d.canon) : (peelHandoffEffect m n v d).canon :=
  h.ite ((h.setF.ite (h.setF.peelRefuse.ite h.setF.handTo)).ite (h.handTo.ite h))
theorem Dev.canon.peelFree {n : Nat} (h : d.canon) : (d.peelFree n).canon := (h.foldl .setReg).setPeelOwner.setB.peelSeen
theorem Dev.canon.peelRelease {m n : Nat} {v : Word} (h : d.canon) : (peelReleaseEffect m n v d).canon := h.ite h.peelFree
theorem Dev.canon.peelForce {owner kind : Nat} (h : d.canon) : (d.peelForce owner kind).canon := by
  unfold Dev.peelForce
  refine h.foldl fun h => ?_
  extract_lets d2
  have h2 : d2.canon := h.peelFree
  exact (h2.ite h2.peelNotify).raise
theorem Dev.canon.peelSnapshot {t : Nat} (h : d.canon) : (d.peelSnapshot t).canon := h.peelSeen
theorem Dev.canon.peelReply {n status : Nat} {words : List Nat} (h : d.canon) : (d.peelReply n status words).canon :=
  (h.setReg.foldl .setReg).handTo
theorem Dev.canon.echo {n : Nat} (h : d.canon) : (echoEffect n d).canon := by
  unfold echoEffect
  split
  · exact h
  · exact h.peelReply.ite (h.peelReply.ite h.peelReply)
theorem Dev.canon.readCounter {n : Nat} (h : d.canon) : (readCounterEffect n d).canon := by
  unfold readCounterEffect
  extract_lets
  split
  · exact h
  · exact h.peelReply
  · exact h.peelReply.ite (h.peelReply.ite h.peelReply)
theorem Dev.canon.reportContexts {n : Nat} (h : d.canon) : (reportContextsEffect n d).canon := by
  unfold reportContextsEffect
  split
  · exact h
  · exact h.peelReply
  · exact h.peelReply.ite h.peelReply

/-! ## Slice -/

theorem Dev.canon.setSli {s : Nat} {x : SliceState} (h : d.canon) : (d.setSli s x).canon := by
  simpa only [Dev.canon, Dev.setSli, SMap.wf_store (d := fun _ => SliceState.init) _ x (Dev.canon_slices h), Dev.canon_slices h, true_and] using h
theorem Dev.canon.setSliceState {s n : Nat} (h : d.canon) : (d.setSliceState s n).canon := h.setF
theorem Dev.canon.setSliceResult {s n : Nat} (h : d.canon) : (d.setSliceResult s n).canon := h.setF
theorem Dev.canon.sliceRefuse {m : Master} {s cmd reason : Nat} (h : d.canon) : (d.sliceRefuse m s cmd reason).canon := h.raise
theorem Dev.canon.landReset {s cmd drain : Nat} (h : d.canon) : (d.landReset s cmd drain).canon := (h.setSli.ite h).ite (h.ite h.setSli)
theorem Dev.canon.sliceReset {m : Master} {s cmd drain : Nat} (h : d.canon) : (d.sliceReset m s cmd drain).canon :=
  h.sliceRefuse.ite (h.sliceRefuse.ite (h.sliceRefuse.ite h.landReset))
theorem Dev.canon.sliceResetDrain {m : Master} {s drain : Nat} (h : d.canon) : (sliceResetDrainEffect m s drain d).canon := h.sliceReset
theorem Dev.canon.sliceResetSquash {m : Master} {s : Nat} (h : d.canon) : (sliceResetSquashEffect m s d).canon := h.sliceReset
theorem Dev.canon.sliceHostCmd {m : Master} {s cmd : Nat} {ok : List Nat} {go : Dev → Dev} (h : d.canon) (hgo : ∀ {d}, Dev.canon d → (go d).canon) : (d.sliceHostCmd m s cmd ok go).canon :=
  h.sliceRefuse.ite (h.sliceRefuse.ite (h.sliceRefuse.ite (h.sliceRefuse.ite (hgo h))))
theorem Dev.canon.sliceFreeze {m : Master} {s : Nat} (h : d.canon) : (sliceFreezeEffect m s d).canon := h.sliceHostCmd .setSli
theorem Dev.canon.sliceRestore {m : Master} {s : Nat} (h : d.canon) : (sliceRestoreEffect m s d).canon :=
  h.sliceHostCmd (fun h => h.setSliceState.setSli)
theorem Dev.canon.sliceRelease {m : Master} {s : Nat} (h : d.canon) : (sliceReleaseEffect m s d).canon := h.sliceHostCmd .setSli
theorem Dev.canon.stopWork {s t : Nat} (h : d.canon) : (d.stopWork s t).canon := h.modSch
theorem Dev.canon.dropFetched {n : Nat} (h : d.canon) : (d.dropFetched n).canon := h.setTray.setFs
theorem Dev.canon.squashRest {s : Nat} (h : d.canon) : (d.squashRest s).canon := (h.foldl .tierSquash).asks
theorem Dev.canon.takeReset {s mode : Nat} (h : d.canon) : (d.takeReset s mode).canon := by
  unfold Dev.takeReset
  extract_lets _ _ _ _ d4 d5
  have h4 : d4.canon := ((h.setSliceResult.ite h).setSliceState.setF).foldl .stopWork
  have h5 : d5.canon := (h4.foldl .dropFetched).breakSlice
  exact ((h5.foldl .tierDrain).ite h5.squashRest).setSli
theorem Dev.canon.snapC {s result : Nat} (h : d.canon) : (d.snapC s result).canon :=
  ((h.foldl .finishWhere).foldl fun h => h.foldl .flush).setSliceResult.setSli
theorem Dev.canon.resetOn {s : Nat} (h : d.canon) : (d.resetOn s).canon := by
  unfold Dev.resetOn
  extract_lets
  split
  · exact h.setSli.ite h
  · exact h.squashRest.setF.setSli.ite (h.ite ((h.ite h.snapC).ite (h.snapC.ite (h.ite h.squashRest.snapC))))
theorem Dev.canon.saveSlice {s t : Nat} (h : d.canon) : (d.saveSlice s t).canon := h.foldl .planSave
theorem Dev.canon.takeFreeze {s : Nat} (h : d.canon) : (d.takeFreeze s).canon :=
  (((h.setSliceState.foldl .modSch).foldl .setTray).foldl fun h => h.saveSlice.tierUnref.foldl .setF).setSli
theorem Dev.canon.writeImage {s : Nat} (h : d.canon) : (d.writeImage s).canon := h.setSli.ite h.hostWrite.setSli
theorem Dev.canon.freezeOn {s : Nat} (h : d.canon) : (d.freezeOn s).canon := by
  unfold Dev.freezeOn
  extract_lets d2
  have h2 : d2.canon := h.foldl .saveSlice
  exact h.ite (h2.ite h2.writeImage)
theorem Dev.canon.sliceFreezeComplete {s : Nat} (h : d.canon) : (sliceFreezeCompleteEffect s d).canon :=
  h.ite h.setF.setSliceState.setSliceResult.setSli.raise
theorem Dev.canon.takeRelease {s : Nat} (h : d.canon) : (d.takeRelease s).canon :=
  (h.foldl fun h => h.foldl .ctrWrite).setSliceState.setSli
theorem Dev.canon.installObj {o : Obj} (h : d.canon) (he : d.installObj o = some e) : e.canon := by
  obtain ⟨_, _, rfl⟩ := Option.map_eq_some_iff.mp he
  exact h.write.putObj
theorem Dev.canon.installObjs {l : List Obj} (h : d.canon) (he : d.installObjs l = some e) : e.canon := by
  induction l generalizing d with
  | nil =>
    cases he
    exact h
  | cons o os ih =>
    obtain ⟨_, hd, hr⟩ := Option.bind_eq_some_iff.mp he
    exact ih (h.installObj hd) hr
theorem Dev.canon.sliceImageFetchDone {s : Nat} {l : Bytes} {how : FetchEnd} (h : d.canon) : (sliceImageFetchDoneEffect s l how d).canon := by
  unfold sliceImageFetchDoneEffect
  split
  · exact h
  · extract_lets d1 bad
    have h1 : d1.canon := h.fetchEnd
    generalize bad = b
    cases b with
    | none => exact h1.setSli
    | some r => exact (h1.setSliceState.setSliceResult).raise
theorem Dev.canon.installTray {s : Nat} {b : Bytes} (h : d.canon) : (d.installTray s b).canon :=
  h.setReg.setReg.setF.setTray.foldl fun h => h.hostNext.modSch
theorem Dev.canon.installCtx {s : Nat} {b : Bytes} (h : d.canon) : (Dev.installCtx s d b).canon := by
  unfold Dev.installCtx
  extract_lets
  split
  next he =>
    refine Dev.canon.syncContexts (Dev.canon.modSch ?_)
    refine congrArg (fun s : List Role × Dev => s.2.canon) he ▸
      List.foldlRecOn (motive := fun s : List Role × Dev => s.2.canon) _ _ h fun s hs i _ => ?_
    exact Dev.canon.foldl (d := s.2) hs .setReg
theorem Dev.canon.installCtrs {s : Nat} {b : Bytes} (h : d.canon) : (d.installCtrs s b).canon := by
  unfold Dev.installCtrs
  extract_lets d2
  have h2 : d2.canon := by
    dsimp -zeta only [d2]
    refine h.foldl fun h => ?_
    exact h.setFs.ite h.setFs.landingSignal
  exact h2.foldl .setParked
theorem Dev.canon.sliceRestoreInstall {s : Nat} (h : d.canon) : (sliceRestoreInstallEffect s d).canon := by
  have installed {a : Dev} {os : List Obj} (h : a.canon) : ((a.installObjs os).getD a).canon := by
    cases he : a.installObjs os with
    | none => exact h
    | some b => exact h.installObjs he
  unfold sliceRestoreInstallEffect
  split
  · exact ((installed ((h.foldl .installTray).foldl .installCtx).installCtrs).foldl .tierPush).setSliceState.setSliceResult.setSli.raise
  · exact h
theorem Dev.canon.sliceStep {s : Nat} (h : d.canon) : (d.sliceStep s).canon := by
  unfold Dev.sliceStep
  extract_lets
  split
  · exact h
  · exact h.resetOn
  · exact h.takeReset.ite (h.freezeOn.ite (h.takeRelease.ite (h.writeImage.ite (h.takeFreeze.ite (h.setSli.ite h)))))
theorem Dev.canon.sliceSnapshot (h : d.canon) : (d.sliceSnapshot).canon := h.ite (h.sliceTick.foldl .sliceStep)
theorem Dev.canon.resetTray {n : Nat} (h : d.canon) : (d.resetTray n).canon := h.setReg.setReg.setReg.setTray
theorem Dev.canon.sliceResetComplete {s : Nat} (h : d.canon) : (sliceResetCompleteEffect s d).canon := by
  unfold sliceResetCompleteEffect
  extract_lets _ _ d3 _ _ _ _ d7
  have h3 : d3.canon := (h.foldl fun h => ((h.foldl .freeCtx).foldl .ctrWrite).grantSlice).peelForce
  have h7 : d7.canon := (((h3.foldl .resetTray).setReg.setReg.setReg).memb).setReg.setReg.setF
  exact h.ite h7.setSliceState.setSli.raise
theorem Dev.canon.unboundPasidAccess {pasid off : Nat} {wr : Bool} (h : d.canon) : (unboundPasidAccessEffect pasid off wr d).canon :=
  h.ite ((h.ite h.readOut).count.raise)

/-! ## Memb -/

theorem Dev.canon.modMemb {f : MembState → MembState} (h : d.canon) : (d.modMemb f).canon := h.memb
theorem Dev.canon.membShow (h : d.canon) : (d.membShow).canon := h.setFs
theorem Dev.canon.setPeer {n : Nat} {p : Peer} (h : d.canon) : (d.setPeer n p).canon := h.modMemb
theorem Dev.canon.membSend {n : Nat} {body : Bytes} (h : d.canon) : (d.membSend n body).canon := h.braidOut
theorem Dev.canon.heartbeatSend (h : d.canon) : (heartbeatSendEffect d).canon := h.ite (h.advanceTo.modMemb.foldl .membSend)
theorem Dev.canon.takeMemb {k : Nat} {p : Bytes × Dev} (h : d.canon) (he : d.takeMemb k = some p) : p.2.canon := by
  unfold Dev.takeMemb at he
  split at he
  · cases he
  · cases he
    exact h.modBraid
theorem Dev.canon.shadowCompare {node : Nat} {b : Bytes} (h : d.canon) : (d.shadowCompare node b).canon := by
  unfold Dev.shadowCompare
  extract_lets _ _ d2
  have h2 : d2.canon := h.count.modMemb
  split
  · exact h
  · split
    · exact h
    · exact h2.ite h2.setF.raise
theorem Dev.canon.heartbeatArrive (h : d.canon) : (heartbeatArriveEffect d).canon := by
  unfold heartbeatArriveEffect
  split
  · exact h
  · next _ _ _ he1 =>
      extract_lets _ _ _ _ _ d3
      have h3 : d3.canon := (h.takeMemb he1).setPeer
      exact ((h.takeMemb he1).braidCount).ite ((h.takeMemb he1).ite (h3.raise.ite h3).shadowCompare.membShow)
theorem Dev.canon.decideFence {cause : Nat} (h : d.canon) : (d.decideFence cause).canon := h.modMemb.foldl .triggerHere
theorem Dev.canon.peerDue {T n : Nat} (h : d.canon) : (d.peerDue T n).canon := h.ite (h.count.setPeer.count.raise.ite h.count.setPeer)
theorem Dev.canon.heartbeatDue (h : d.canon) : (heartbeatDueEffect d).canon := by
  unfold heartbeatDueEffect
  extract_lets _ _ _ _ _ _ d4
  have h4 : d4.canon := (h.advanceTo.foldl .peerDue).modMemb.membShow
  exact h.ite (h4.decideFence.ite h4)
theorem Dev.canon.fenceSelf {cause : Nat} (h : d.canon) : (d.fenceSelf cause).canon :=
  (h.foldl fun h => h.finishWhere.foldl .freeCtx).modMemb.setFs.raise.membShow
theorem Dev.canon.hostFence {m : Master} (h : d.canon) : (hostFenceEffect m d).canon := h.ite h.decideFence
theorem Dev.canon.fenceEdge (h : d.canon) : (d.fenceEdge).canon := h.fenceSelf.ite h
theorem Dev.canon.isolationFence (h : d.canon) : (isolationFenceEffect d).canon := h.fenceSelf.ite h
theorem Dev.canon.epochStage {m : Master} {force : Bool} (h : d.canon) : (epochStageEffect m force d).canon := h.ite h.modMemb
theorem Dev.canon.epochStageForce {m : Master} (h : d.canon) : (epochStageForceEffect m d).canon := h.epochStage
theorem Dev.canon.unstage (h : d.canon) : (d.unstage).canon := h.modMemb.setB
theorem Dev.canon.epochDiscard {m : Master} (h : d.canon) : (epochDiscardEffect m d).canon := h.ite h.unstage
theorem Dev.canon.epochReject {epoch reason : Nat} (h : d.canon) : (d.epochReject epoch reason).canon := h.setF.raise
theorem Dev.canon.epochRecordCheck {r : Bytes} {how : FetchEnd} (h : d.canon) : (epochRecordCheckEffect r how d).canon := by
  unfold epochRecordCheckEffect
  extract_lets _ d3
  have h3 : d3.canon := h.modMemb.fetchEnd
  split
  · exact h
  · split
    · exact h3.epochReject
    · exact h3.modMemb.setB.raise
theorem Dev.canon.aliasPut {s : Dev × Nat} {n v : Nat} {p : Dev × Nat} (h : s.1.canon) (he : Dev.aliasPut s n v = p) : p.1.canon := by
  subst he
  unfold Dev.aliasPut
  split
  · exact h
  · exact h.setF
theorem Dev.canon.installAliases {r : Bytes} {p : Dev × Nat} (h : d.canon) (he : d.installAliases r = p) : p.1.canon := by
  subst he
  have puts {s : Dev × Nat} {n v : Nat} (h : s.1.canon) : (Dev.aliasPut s n v).1.canon := h.aliasPut rfl
  refine List.foldlRecOn (motive := fun s : Dev × Nat => s.1.canon) _ _ (List.foldlRecOn (motive := fun s : Dev × Nat => s.1.canon) _ _ h ?_) ?_
  · intro _ hs _ _
    split
    · exact hs
    · exact puts hs
  · intro _ hs _ _
    dsimp only
    split
    · exact puts hs
    · exact hs
theorem Dev.canon.installEpoch {r : Bytes} {i : Nat} (h : d.canon) : (d.installEpoch r i).canon := by
  rw [Dev.installEpoch]
  generalize he : Dev.installAliases _ r = y
  have h2 := h.braidNewEpoch.setF.setF.installAliases he
  obtain ⟨d2, n⟩ := y
  dsimp only at h2
  exact h2.setFs.setFs.modMemb.modMemb.raise.membShow
theorem Dev.canon.epochInstall (h : d.canon) : (epochInstallEffect d).canon := by
  unfold epochInstallEffect
  extract_lets _ _ _ d2
  have h2 : d2.canon := h.unstage
  split
  · exact h
  · split
    · exact h2.epochReject
    · split
      · exact h2.fenceSelf
      · exact h2.ite h2.installEpoch
theorem Dev.canon.collectiveDeclare {m : Master} {s id : Nat} {l : Bytes} {how : FetchEnd} (h : d.canon) : (collectiveDeclareEffect m s id l how d).canon :=
  h.ite (h.fetchEnd.ite h.setFs.modMemb)
theorem Dev.canon.collectiveHostAbort {m : Master} {s : Nat} (h : d.canon) : (collectiveHostAbortEffect m s d).canon := h.ite h.triggerHere
theorem Dev.canon.abortNoticeArrive (h : d.canon) : (abortNoticeArriveEffect d).canon := by
  unfold abortNoticeArriveEffect
  split
  · exact h
  · next _ _ _ he1 =>
      extract_lets
      split
      · exact (h.takeMemb he1).braidCount
      · split
        · exact ((h.takeMemb he1).trigger).ite ((h.takeMemb he1).count)
        · exact (h.takeMemb he1).count
theorem Dev.canon.abortNoticeSend (h : d.canon) : (abortNoticeSendEffect d).canon := h.modMemb.foldl .membSend
theorem Dev.canon.collAbort {s : Nat} (h : d.canon) : (d.collAbort s).canon := by
  unfold Dev.collAbort
  extract_lets
  split
  · exact h
  · split
    exact (h.modMemb.foldl fun h => h.foldl .finish).raise
theorem Dev.canon.membSnapshot (h : d.canon) : (d.membSnapshot).canon := by
  unfold Dev.membSnapshot
  extract_lets _ _ d2 d3 d4
  have h2 : d2.canon := h.modMemb.ite h
  have h3 : d3.canon := h2.decideFence.ite h2
  have h4 : d4.canon := by
    dsimp -zeta only [d4]
    split
    · refine h3.foldl fun h => ?_
      split
      · exact h.trigger
      · exact h
    · exact h3
  exact h4.foldl .collAbort
theorem Dev.canon.shadowSet {m : Master} {v : Word} (h : d.canon) : (shadowSetEffect m v d).canon := h.ite h.rwWrite.setReg.modMemb.setF
theorem Dev.canon.shadowQualify (h : d.canon) : (shadowQualifyEffect d).canon := h.ite h.setF.raise

/-! ## Power -/

theorem Dev.canon.modPower {f : PowerState → PowerState} (h : d.canon) : (d.modPower f).canon := h.power
theorem Dev.canon.vinLow {volt : Nat} (h : d.canon) : (vinLowEffect volt d).canon := h.ite h.setF.setB.raise
theorem Dev.canon.ballastUpdate {loads : List Nat} (h : d.canon) : (ballastUpdateEffect loads d).canon := by
  unfold ballastUpdateEffect
  extract_lets d2
  have h2 : d2.canon := h.advanceTo
  exact (((h2.count.raise.ite h2).modPower).setF).setF.setF
theorem Dev.canon.energyEdge (h : d.canon) : (d.energyEdge).canon := (h.foldl fun h => h.setF.count.raise.ite h.setF).modPower
theorem Dev.canon.emergencyBegin {power : Nat} (h : d.canon) : (emergencyBeginEffect power d).canon := by
  unfold emergencyBeginEffect
  extract_lets d2 _ _ _ d3
  have h2 : d2.canon := h.setF
  have h3 : d3.canon := h2.setB.ite h2
  exact h2.ite (h3.ite h3.setB).modPower
theorem Dev.canon.emergencyEnd {power : Nat} (h : d.canon) : (emergencyEndEffect power d).canon := by
  unfold emergencyEndEffect
  extract_lets _ d2 _ _ _ _ _ d3
  have h2 : d2.canon := h.setF
  have h3 : d3.canon := h2.setB.setB
  exact h2.ite (h3.modPower.ite h3.raise.modPower)
theorem Dev.canon.tempSensorRead {t logic dram stack : Nat} (h : d.canon) : (tempSensorReadEffect t logic dram stack d).canon := by
  unfold tempSensorReadEffect
  extract_lets _ _ _ _ _ _ d3
  have h3 : d3.canon := h.setFs.modPower
  exact h3.raise.ite h3
theorem Dev.canon.vinOpenDetect {q volt : Nat} (h : d.canon) : (vinOpenDetectEffect q volt d).canon := h.setF.raise
theorem Dev.canon.sidebandFault {i : Nat} (h : d.canon) : (sidebandFaultEffect i d).canon := h.fresh.raise

/-! ## Sec -/

theorem Dev.canon.modSp {f : SecState → SecState} (h : d.canon) : (d.modSp f).canon := h.sp
theorem Dev.canon.flashWrite {a : Nat} {l : Bytes} (h : d.canon) : (d.flashWrite a l).canon := h.modSp
theorem Dev.canon.setDir {i v : Nat} (h : d.canon) : (d.setDir i v).canon := h.flashWrite
theorem Dev.canon.secEvent {code object detail : Nat} (h : d.canon) : (d.secEvent code object detail).canon := h.raise
theorem Dev.canon.imageRejected {object reason : Nat} (h : d.canon) : (d.imageRejected object reason).canon := h.setF.secEvent
theorem Dev.canon.recover_ {reason : Nat} (h : d.canon) : (d.recover_ reason).canon := h.setFs.secEvent
theorem Dev.canon.railsInRegulation {cellsOff : Nat} (h : d.canon) : (railsInRegulationEffect cellsOff d).canon := by
  unfold railsInRegulationEffect
  extract_lets d2 _ _ d3
  have h2 : d2.canon := h.setF.setReg
  have h3 : d3.canon := h2.free.modSp
  exact h.ite (h2.ite (h3.modSp.setF.ite h3.imageRejected.recover_))
theorem Dev.canon.bootSlot {x : Nat} {fallback : Bool} (h : d.canon) : (d.bootSlot x fallback).canon := by
  unfold Dev.bootSlot
  extract_lets _ _ _ d4
  have h4 : d4.canon := h.modSp.setFs.setReg.setFs
  exact h4.modSp.secEvent.ite h4
theorem Dev.canon.firmwareVerify (h : d.canon) : (firmwareVerifyEffect d).canon := by
  unfold firmwareVerifyEffect
  extract_lets
  split
  · exact h
  · split
    · exact h.bootSlot
    · extract_lets d2
      have h2 : d2.canon := h.imageRejected
      split
      · exact h2.bootSlot
      · exact h2.imageRejected.recover_
theorem Dev.canon.takeAlias (h : d.canon) : (d.takeAlias).canon := h.modSp.setF
theorem Dev.canon.useRepair {x : Nat} (h : d.canon) : (d.useRepair x).canon := (h.ite h.imageRejected).modSp.setFs.takeAlias
theorem Dev.canon.repairImageCheck (h : d.canon) : (repairImageCheckEffect d).canon := by
  unfold repairImageCheckEffect
  extract_lets
  split
  · exact h
  · split
    · exact h.useRepair
    · extract_lets d2
      have h2 : d2.canon := h.imageRejected
      split
      · exact h2.useRepair
      · exact h2.imageRejected.recover_
theorem Dev.canon.bootDone (h : d.canon) : (d.bootDone).canon := h.ite h.modSp.secEvent
theorem Dev.canon.dramTrainingComplete (h : d.canon) : (dramTrainingCompleteEffect d).canon := h.modSp.ite h
theorem Dev.canon.setFwState {st reason : Nat} (h : d.canon) : (d.setFwState st reason).canon := h.setFs
theorem Dev.canon.startStaging {repair : Bool} (h : d.canon) : (d.startStaging repair).canon := h.setF.ite h.setFwState.modSp
theorem Dev.canon.fwStage {m : Master} (h : d.canon) : (fwStageEffect m d).canon := h.ite h.startStaging
theorem Dev.canon.stageRepairImage {m : Master} (h : d.canon) : (stageRepairImageEffect m d).canon := h.ite h.startStaging
theorem Dev.canon.stagingFailed {reason : Nat} (h : d.canon) : (d.stagingFailed reason).canon := h.setFwState.imageRejected
theorem Dev.canon.fwImageFetchDone {l : Bytes} {how : FetchEnd} (h : d.canon) : (fwImageFetchDoneEffect l how d).canon := by
  unfold fwImageFetchDoneEffect
  extract_lets
  split
  · exact h
  · split
    · exact h.fetchEnd.stagingFailed
    · split
      · exact h.stagingFailed
      · exact h.modSp
theorem Dev.canon.fwFlashWriteDone {ok : Bool} (h : d.canon) : (fwFlashWriteDoneEffect ok d).canon := by
  unfold fwFlashWriteDoneEffect
  extract_lets _ d2
  have h2 : d2.canon := h.setFwState
  exact h.ite (h.stagingFailed.ite (h2.flashWrite.ite h2.flashWrite.secEvent))
theorem Dev.canon.fwApplyAtReset {m : Master} (h : d.canon) : (fwApplyAtResetEffect m d).canon := h.ite h.setDir.setFwState.modSp
theorem Dev.canon.fwDiscard {m : Master} (h : d.canon) : (fwDiscardEffect m d).canon := h.ite h.setFwState.modSp
theorem Dev.canon.endSessions (h : d.canon) : (d.endSessions).canon := h.modSp.foldl .secEvent
theorem Dev.canon.liveFinish (h : d.canon) : (d.liveFinish).canon :=
  h.endSessions.modSp.setFs.setReg.setFs.takeAlias.setDir.setFwState.secEvent
theorem Dev.canon.fwApplyLive {m : Master} {mask : Nat} (h : d.canon) : (fwApplyLiveEffect m mask d).canon := by
  unfold fwApplyLiveEffect
  extract_lets _ _ d3
  have h3 : d3.canon := h.setFwState.setF.modSp
  exact h.ite (h.setF.ite (h3.liveFinish.ite h3))
theorem Dev.canon.fwLiveTileStep {t : Nat} (h : d.canon) : (fwLiveTileStepEffect t d).canon := by
  unfold fwLiveTileStepEffect
  extract_lets _ _ d3
  have h3 : d3.canon := h.setF.modSp
  exact h.ite (h3.liveFinish.ite h3)
theorem Dev.canon.fwApplyTileTimeout (h : d.canon) : (fwApplyTileTimeoutEffect d).canon := by
  unfold fwApplyTileTimeoutEffect
  split
  · exact h.ite h.setFwState.modSp.secEvent
  · exact h
theorem Dev.canon.writeFields (h : d.canon) : (d.writeFields).canon := h.flashWrite.setDir
theorem Dev.canon.fieldRecordWrite {ok : Bool} (h : d.canon) : (fieldRecordWriteEffect ok d).canon := by
  unfold fieldRecordWriteEffect
  extract_lets
  split
  · exact h
  · exact (h.modSp.writeFields.ite h.modSp).secEvent
theorem Dev.canon.clearFields {m : Master} {p : Bytes → Bool} (h : d.canon) : (d.clearFields m p).canon := h.ite h.modSp.writeFields
theorem Dev.canon.clearFenceRecords {m : Master} (h : d.canon) : (clearFenceRecordsEffect m d).canon := h.clearFields
theorem Dev.canon.clearFieldRecords {m : Master} (h : d.canon) : (clearFieldRecordsEffect m d).canon := h.clearFields

/-! ## SigCore -/

theorem Dev.canon.setSg {t i : Nat} {c : SigCoreState} (h : d.canon) : (d.setSg t i c).canon := by
  simpa only [Dev.canon, Dev.setSg, SMap.wf_store (d := fun _ => SigCoreState.init) _ c (Dev.canon_sig h), Dev.canon_sig h, true_and] using h
theorem Dev.canon.modSg {t i : Nat} {f : SigCoreState → SigCoreState} (h : d.canon) : (d.modSg t i f).canon := h.setSg
theorem Dev.canon.sigState {t i st : Nat} (h : d.canon) : (d.sigState t i st).canon := h.setF
theorem Dev.canon.sigSync {t i : Nat} (h : d.canon) : (d.sigSync t i).canon := h.setFs
theorem Dev.canon.sigEnd {t i outcome reason : Nat} (h : d.canon) : (d.sigEnd t i outcome reason).canon := h.setSg.setFs.dropWaits.loafDone
theorem Dev.canon.sigFail {t i slot reason xr : Nat} (h : d.canon) : (d.sigFail t i slot reason xr).canon := h.capture.raise.sigEnd
theorem Dev.canon.sigLoafStart {t i : Nat} {rec : Bytes} (h : d.canon) : (sigLoafStartEffect t i rec d).canon := by
  unfold sigLoafStartEffect
  extract_lets _ _ _ _ _ _ _ _ d3
  have h3 : d3.canon := h.setSg.proveStart.setF.sigState.sigSync
  exact h.ite (h.raise.ite (h3.sigFail.ite h3))
theorem Dev.canon.sigLoafComplete {t i : Nat} (h : d.canon) : (sigLoafCompleteEffect t i d).canon := h.ite h.advance.sigSync.count.sigEnd
theorem Dev.canon.sigResultLand {t i : Nat} (h : d.canon) : (sigResultLandEffect t i d).canon := by
  unfold sigResultLandEffect
  extract_lets
  split
  · exact h
  · exact h.ite h.advance.modSg.sigSync
theorem Dev.canon.sigPend {t i k : Nat} (h : d.canon) : (d.sigPend t i k).canon := h.setF
theorem Dev.canon.sigTimer {t i : Nat} (h : d.canon) : (d.sigTimer t i).canon := by
  unfold Dev.sigTimer
  extract_lets
  split
  · exact h.modSg.sigPend.ite h
  · exact h
theorem Dev.canon.sigCounter {t i : Nat} (h : d.canon) : (d.sigCounter t i).canon := by
  unfold Dev.sigCounter
  split
  · exact h.modSg.sigPend.ite h
  · exact h
theorem Dev.canon.sigTimerFire {t i : Nat} (h : d.canon) : (sigTimerFireEffect t i d).canon := by
  unfold sigTimerFireEffect
  extract_lets
  split
  · exact h
  · exact h.ite h.advance.sigTimer.sigSync
theorem Dev.canon.sigCounterFire {t i : Nat} (h : d.canon) : (sigCounterFireEffect t i d).canon := h.ite h.sigCounter
theorem Dev.canon.sigSlotDone {t i rank : Nat} (h : d.canon) : (d.sigSlotDone t i rank).canon := by
  unfold Dev.sigSlotDone
  extract_lets _ _ _ _ _ d2
  have h2 : d2.canon := h.setSg.sigSync
  exact h.setSg.ite (h2.sigState.ite h2)
theorem Dev.canon.sigOpen {t i : Nat} (h : d.canon) : (d.sigOpen t i).canon := h.advance.modSg.sigTimer.sigCounter.sigSync
theorem Dev.canon.sigSlot {t i rank : Nat} {bad : Bool} {body : Dev → SigOut} (h : d.canon) (hb : ∀ {d}, d.canon → (body d).canon) :
    (d.sigSlot t i rank bad body).canon := by
  unfold Dev.sigSlot
  extract_lets _ d2
  have h2 : d2.canon := h.sigOpen.ite h
  split
  · exact h
  · split
    · exact h2.sigFail
    · split
      · exact h2.sigFail
      · have issued := hb h2
        split
        next => exact h2.sigFail
        next he =>
          rw [he] at issued
          exact issued
        next he =>
          rw [he] at issued
          exact Dev.canon.sigSlotDone issued
theorem Dev.canon.sigNop {t i : Nat} {slot : SlotSel} {f : SFields} (h : d.canon) : (sigNopEffect t i slot f d).canon :=
  h.sigSlot (fun h => h)
theorem Dev.canon.sigSat {t i n : Nat} (h : d.canon) : (d.sigSat t i n).canon := h.count.raise.ite h.count
theorem Dev.canon.sigVec {t i : Nat} {slot : VSlot} {bad : Bool} {lat : Nat} {dst : SigCoreState → SigDst} {lane : SigCoreState → Nat → Nat × Nat} (h : d.canon) : (d.sigVec t i slot bad lat dst lane).canon := by
  unfold Dev.sigVec
  refine h.sigSlot fun h => ?_
  extract_lets
  split
  · exact trivial
  · exact h.modSg.sigSat
theorem Dev.canon.sigMac {t i : Nat} {slot : VSlot} {f : SFields} {conj acc : Bool} (h : d.canon) : (d.sigMac t i slot f conj acc).canon :=
  h.sigVec
theorem Dev.canon.cmul {t i : Nat} {slot : VSlot} {f : SFields} (h : d.canon) : (cmulEffect t i slot f d).canon := h.sigMac
theorem Dev.canon.cmac {t i : Nat} {slot : VSlot} {f : SFields} (h : d.canon) : (cmacEffect t i slot f d).canon := h.sigMac
theorem Dev.canon.cmulj {t i : Nat} {slot : VSlot} {f : SFields} (h : d.canon) : (cmuljEffect t i slot f d).canon := h.sigMac
theorem Dev.canon.cmacj {t i : Nat} {slot : VSlot} {f : SFields} (h : d.canon) : (cmacjEffect t i slot f d).canon := h.sigMac
theorem Dev.canon.sigQ15 {t i : Nat} {slot : VSlot} {f : SFields} {bad : Bool} {lat : Nat} {lane : SigCoreState → Nat → ℤ × ℤ} (h : d.canon) : (d.sigQ15 t i slot f bad lat lane).canon :=
  h.sigVec
theorem Dev.canon.sigVadd {t i : Nat} {slot : VSlot} {f : SFields} (h : d.canon) : (sigVaddEffect t i slot f d).canon := h.sigQ15
theorem Dev.canon.sigVsub {t i : Nat} {slot : VSlot} {f : SFields} (h : d.canon) : (sigVsubEffect t i slot f d).canon := h.sigQ15
theorem Dev.canon.vnarrow {t i : Nat} {slot : VSlot} {f : SFields} (h : d.canon) : (vnarrowEffect t i slot f d).canon := h.sigQ15
theorem Dev.canon.vwiden {t i : Nat} {slot : VSlot} {f : SFields} (h : d.canon) : (vwidenEffect t i slot f d).canon := h.sigVec
theorem Dev.canon.vshlv {t i : Nat} {slot : VSlot} {f : SFields} (h : d.canon) : (vshlvEffect t i slot f d).canon := h.sigQ15
theorem Dev.canon.vunpk {t i : Nat} {slot : VSlot} {f : SFields} (h : d.canon) : (vunpkEffect t i slot f d).canon := h.sigQ15
theorem Dev.canon.vperm {t i : Nat} {slot : VSlot} {f : SFields} (h : d.canon) : (vpermEffect t i slot f d).canon := h.sigQ15
theorem Dev.canon.sigRead {t i a n : Nat} {k : Bytes → Dev → SigOut} (h : d.canon) (hk : ∀ {l}, (k l d).canon) : (d.sigRead t i a n k).canon := by
  unfold Dev.sigRead
  split
  · exact h.unresolved.sigFail
  · exact hk
theorem Dev.canon.sigVld {t i : Nat} {f : SFields} (h : d.canon) : (sigVldEffect t i f d).canon := by
  unfold sigVldEffect
  refine h.sigSlot fun h => ?_
  extract_lets
  split
  · exact trivial
  · split
    · exact trivial
    · exact h.sigRead h.modSg
theorem Dev.canon.sigVst {t i : Nat} {f : SFields} (h : d.canon) : (sigVstEffect t i f d).canon := by
  unfold sigVstEffect
  refine h.sigSlot fun h => ?_
  extract_lets
  split
  · exact trivial
  · split
    · exact trivial
    · exact h.write.modSg
theorem Dev.canon.sld {t i : Nat} {f : SFields} (h : d.canon) : (sldEffect t i f d).canon := by
  unfold sldEffect
  refine h.sigSlot fun h => ?_
  extract_lets
  split
  · exact trivial
  · exact h.sigRead h.modSg
theorem Dev.canon.sst {t i : Nat} {f : SFields} (h : d.canon) : (sstEffect t i f d).canon := by
  unfold sstEffect
  refine h.sigSlot fun h => ?_
  extract_lets
  split
  · exact trivial
  · exact h.write
theorem Dev.canon.xfer {t i : Nat} {f : SFields} (h : d.canon) : (xferEffect t i f d).canon := by
  unfold xferEffect
  refine h.sigSlot fun h => ?_
  extract_lets
  split
  · exact trivial
  · split
    · exact h
    · refine h.sigRead ?_
      intro l
      dsimp only
      split
      · exact trivial
      · exact h.modSg
theorem Dev.canon.sigXferBegin {t i : Nat} (h : d.canon) : (sigXferBeginEffect t i d).canon := by
  unfold sigXferBeginEffect
  extract_lets
  split
  · split
    · exact h
    · split
      exact h.setSg
  · exact h
theorem Dev.canon.sigSignals {t i c n : Nat} (h : d.canon) : (d.sigSignals t i c n).canon := h.unitSignal
theorem Dev.canon.sigXferComplete {t i : Nat} (h : d.canon) : (sigXferCompleteEffect t i d).canon := by
  unfold sigXferCompleteEffect
  extract_lets
  split
  · exact h
  · extract_lets d2 _ _ _ d3 d4
    have h2 : d2.canon := h.advance.sigSync
    have h3 : d3.canon := h2.copyRows.modSg
    have h4 : d4.canon := h3.sigSignals.ite h3
    split
    · exact h
    · split
      · exact h2.unresolved.sigFail
      · exact h4.sigPend.ite h4
theorem Dev.canon.intpt {t i : Nat} {f : SFields} (h : d.canon) : (intptEffect t i f d).canon := by
  unfold intptEffect
  extract_lets
  refine h.sigSlot fun h => ?_
  extract_lets
  split
  · exact h
  · exact h.setF.count.setSg.sigState.sigSync
theorem Dev.canon.sigScalar {t i : Nat} {f : SFields} {bad : Bool} {v : SigCoreState → BitVec 32} (h : d.canon) : (d.sigScalar t i f bad v).canon :=
  h.sigSlot .modSg
theorem Dev.canon.sadd {t i : Nat} {f : SFields} (h : d.canon) : (saddEffect t i f d).canon := h.sigScalar
theorem Dev.canon.ssub {t i : Nat} {f : SFields} (h : d.canon) : (ssubEffect t i f d).canon := h.sigScalar
theorem Dev.canon.sand {t i : Nat} {f : SFields} (h : d.canon) : (sandEffect t i f d).canon := h.sigScalar
theorem Dev.canon.sor {t i : Nat} {f : SFields} (h : d.canon) : (sorEffect t i f d).canon := h.sigScalar
theorem Dev.canon.sxor {t i : Nat} {f : SFields} (h : d.canon) : (sxorEffect t i f d).canon := h.sigScalar
theorem Dev.canon.sigShift {t i : Nat} {f : SFields} {right : Bool} (h : d.canon) : (d.sigShift t i f right).canon := by
  unfold Dev.sigShift
  split
  · refine h.sigSlot fun h => ?_
    extract_lets
    split
    · split
      · next _ _ _ he1 =>
          exact (h.ofFresh he1).modSg
    · exact h.modSg
  · refine h.sigSlot fun h => ?_
    extract_lets
    split
    · split
      · next _ _ _ he1 =>
          exact (h.ofFresh he1).modSg
    · exact h.modSg
theorem Dev.canon.sshl {t i : Nat} {f : SFields} (h : d.canon) : (sshlEffect t i f d).canon := h.sigShift
theorem Dev.canon.sshr {t i : Nat} {f : SFields} (h : d.canon) : (sshrEffect t i f d).canon := h.sigShift
theorem Dev.canon.sigSaddi {t i : Nat} {f : SFields} (h : d.canon) : (sigSaddiEffect t i f d).canon := h.sigScalar
theorem Dev.canon.sigSli {t i : Nat} {f : SFields} (h : d.canon) : (sigSliEffect t i f d).canon := h.sigScalar
theorem Dev.canon.br {t i : Nat} {f : SFields} (h : d.canon) : (brEffect t i f d).canon := by
  unfold brEffect
  extract_lets
  split
  · exact h.sigSlot (fun h => trivial)
  · split
    · extract_lets
      split
      · refine h.sigSlot fun h => ?_
        extract_lets
        split
        · exact trivial
        · exact h.setSg
      · refine h.sigSlot fun h => ?_
        extract_lets
        split
        · exact trivial
        · exact h
    · refine h.sigSlot fun h => ?_
      extract_lets
      split
      · exact trivial
      · exact h.setSg.ite h
    · refine h.sigSlot fun h => ?_
      extract_lets
      split
      · exact trivial
      · exact h.setSg.ite h
    · refine h.sigSlot fun h => ?_
      extract_lets
      split
      · exact trivial
      · exact h.setSg.ite h
theorem Dev.canon.sigLoop {t i : Nat} {f : SFields} (h : d.canon) : (sigLoopEffect t i f d).canon := by
  unfold sigLoopEffect
  extract_lets
  refine h.sigSlot fun h => ?_
  extract_lets
  split
  · exact trivial
  · exact h.setSg
theorem Dev.canon.sigSignal {t i : Nat} {f : SFields} (h : d.canon) : (sigSignalEffect t i f d).canon := by
  unfold sigSignalEffect
  refine h.sigSlot fun h => ?_
  extract_lets
  split
  · exact trivial
  · exact h.sigSignals
theorem Dev.canon.sigWait {t i : Nat} {f : SFields} {take : Bool} (h : d.canon) : (d.sigWait t i f take).canon := by
  unfold Dev.sigWait
  refine h.sigSlot fun h => ?_
  extract_lets
  split
  · exact trivial
  · exact h.addWait.modSg.sigState
theorem Dev.canon.sigTake {t i : Nat} {f : SFields} (h : d.canon) : (sigTakeEffect t i f d).canon := h.sigWait
theorem Dev.canon.sigWatch {t i : Nat} {f : SFields} (h : d.canon) : (sigWatchEffect t i f d).canon := h.sigWait
theorem Dev.canon.sigReleased {t i : Nat} (h : d.canon) : (d.sigReleased t i).canon := h.modSg.sigState.sigSlotDone.sigSync
theorem Dev.canon.sigWaitFailed {t i : Nat} (h : d.canon) : (d.sigWaitFailed t i).canon := h.sigEnd
theorem Dev.canon.sigWaitat {t i : Nat} {f : SFields} (h : d.canon) : (sigWaitatEffect t i f d).canon :=
  h.sigSlot (fun h => h.advance.modSg.sigSync)
theorem Dev.canon.settmr {t i : Nat} {f : SFields} (h : d.canon) : (settmrEffect t i f d).canon := h.sigSlot .modSg
theorem Dev.canon.armw {t i : Nat} {f : SFields} (h : d.canon) : (armwEffect t i f d).canon := by
  unfold armwEffect
  refine h.sigSlot fun h => ?_
  extract_lets
  split
  · exact trivial
  · exact h.setSg
theorem Dev.canon.irqen {t i : Nat} {f : SFields} (h : d.canon) : (irqenEffect t i f d).canon := h.sigSlot .modSg
theorem Dev.canon.reti {t i : Nat} {f : SFields} (h : d.canon) : (retiEffect t i f d).canon := h.sigSlot .modSg
theorem Dev.canon.sigEndEffect {t i : Nat} {f : SFields} (h : d.canon) : (sigEndEffect t i f d).canon := h.sigSlot .modSg

/-! ## RecipeLoad -/

theorem Dev.canon.modRecipe {f : RecipeState → RecipeState} (h : d.canon) : (d.modRecipe f).canon := h.recipe
theorem Dev.canon.recipeEvent {code object detail : Nat} (h : d.canon) : (d.recipeEvent code object detail).canon := h.raise
theorem Dev.canon.setEff {l : Bytes} (h : d.canon) : (d.setEff l).canon := h.foldl .setReg
theorem Dev.canon.loadPartition {t : Nat} (h : d.canon) : (d.loadPartition t).canon := h.foldl .setFs
theorem Dev.canon.resetTrims {t : Nat} (h : d.canon) : (d.resetTrims t).canon := h.foldl .setF
theorem Dev.canon.untrim {t : Nat} (h : d.canon) : (d.untrim t).canon := h.foldl .setF
theorem Dev.canon.loadMaps {t : Nat} (h : d.canon) : (d.loadMaps t).canon := ((h.foldl .setReg).foldl .setReg).resetTrims
theorem Dev.canon.loadCells {t : Nat} (h : d.canon) : (d.loadCells t).canon := h.setFs.setFs
theorem Dev.canon.loadCode {t : Nat} (h : d.canon) : (d.loadCode t).canon := by
  unfold Dev.loadCode
  extract_lets s d2
  have h2 : d2.canon := by
    refine h.foldl fun h => ?_
    split
    · exact h.foldl .write
    · exact h
  split
  · exact h
  · exact h2.foldl .setMem
theorem Dev.canon.loadEnergy {t : Nat} (h : d.canon) : (d.loadEnergy t).canon := h.setF
theorem Dev.canon.loadObjs {t : Nat} (h : d.canon) : (d.loadObjs t).canon := by
  have filled {a : Dev} {o : Option Nat} {data : Bytes} (h : a.canon) : (match o with | some p => a.write p data | none => a).canon := by
    cases o with
    | none => exact h
    | some p => exact h.write
  unfold Dev.loadObjs
  refine (h.foldl fun h => (h.uncharge.ite h).retire).foldl fun h => ?_
  split
  · exact h
  next he =>
    have new := h.installObj he
    split
    · exact new
    · split
      next hd =>
        refine Dev.canon.charge (Dev.canon.putObj (filled ?_))
        split at hd
        · cases hd
          exact new
        · exact new.ofFreshBytes hd
theorem Dev.canon.loadTick (h : d.canon) : (d.loadTick).canon := h.setFs
theorem Dev.canon.loadSlice {s : Nat} (h : d.canon) : (d.loadSlice s).canon := h.setFs.setFs.setF.setFs.setSli
theorem Dev.canon.loadTray {n : Nat} (h : d.canon) : (d.loadTray n).canon := h.setFs.setF.setF.setF
theorem Dev.canon.loadQueues {g : GatePort} (h : d.canon) : (d.loadQueues g).canon := by
  unfold Dev.loadQueues
  extract_lets _ d2
  have h2 : d2.canon := h.foldl .setFs
  split
  split
  · exact h2.loadGateList
  · exact h2.setFs
theorem Dev.canon.loadEth {p : EthPort} (h : d.canon) : (d.loadEth p).canon := by
  unfold Dev.loadEth
  exact (h.ethLinkDown.ite h).setFs.loadQueues
theorem Dev.canon.loadBraid (h : d.canon) : (d.loadBraid).canon := by
  unfold Dev.loadBraid
  extract_lets _ _ d3
  have h3 : d3.canon := by
    dsimp -zeta only [d3]
    refine h.setFs.foldl fun h => ?_
    extract_lets
    split
    · exact h
    · exact (h.braidDown.ite h).setFs.loadQueues
  exact h3.braidShow
theorem Dev.canon.loadPeel (h : d.canon) : (d.loadPeel).canon := h.foldl .setReg
theorem Dev.canon.fenceCore {t k : Nat} (h : d.canon) : (d.fenceCore t k).canon := by
  unfold Dev.fenceCore
  split
  · exact h.mapSpare
  · exact h.setF
theorem Dev.canon.refence (h : d.canon) : (d.refence).canon := by
  unfold Dev.refence
  extract_lets
  refine (h.foldl fun h => h.setReg.setReg).foldl fun h => ?_
  extract_lets
  split
  · exact h
  · split
    · next _ _ _ he2 =>
        extract_lets d4
        have h4 : d4.canon := (h.ofFresh he2).markFence
        exact h4.fenceCore.ite h4
theorem Dev.canon.dropWork {t : Nat} (h : d.canon) : (d.dropWork t).canon := by
  unfold Dev.dropWork
  extract_lets _ _ d3
  have h3 : d3.canon := (h.foldl fun h => ((h.foldl .setReg).setReg).modKn).foldl fun h => h.setReg.setSieve
  exact (((h3.foldl fun h => h.setReg.setSg.setCodec.setReg).ctrs).foldl .syncWaiters).modSch
theorem Dev.canon.freshTile {t : Nat} (h : d.canon) : (d.freshTile t).canon := by
  unfold Dev.freshTile
  exact h.dropWork.setTile.setF.modRad
theorem Dev.canon.loadPart {ty t : Nat} (h : d.canon) : (d.loadPart ty t).canon := by
  unfold Dev.loadPart
  split
  · exact h.loadPartition
  · exact h.loadMaps
  · exact h.loadCells
  · exact h.loadCode.loadObjs
  · exact h.loadEnergy
  · exact h
theorem Dev.canon.loadAll (h : d.canon) : (d.loadAll).canon := by
  unfold Dev.loadAll
  extract_lets _ _ d4 _ d6
  have h4 : d4.canon := ((h.foldl fun h => (h.foldl .loadPart).untrim).foldl .loadSlice).foldl .loadTray
  have h6 : d6.canon := by
    dsimp -zeta only [d6]
    refine (h4.foldl .grantGlobals).loadPeel.foldl fun h => ?_
    split
    · exact h.loadEth
    · exact h
  exact h6.loadBraid.setReg.refence.foldl .loadPart

/-! ## Recipe -/

theorem Dev.canon.rejectImage {l : Bytes} {r : Rej} (h : d.canon) : (d.rejectImage l r).canon := h.setF.recipeEvent
theorem Dev.canon.rejectUnread {reason : Nat} (h : d.canon) : (d.rejectUnread reason).canon := h.setF.recipeEvent
theorem Dev.canon.showStaged (h : d.canon) : (d.showStaged).canon := h.setF
theorem Dev.canon.stage {x : StagedImage} (h : d.canon) : (d.stage x).canon := by
  have shown : (((d.modRecipe fun r => { r with staged := r.staged ++ [x] }).showStaged).recipeEvent 0x1010 (imgId x.image % 2 ^ 32) (imgKind x.image)).canon :=
    h.modRecipe.showStaged.recipeEvent
  exact shown.ite (Dev.canon.loadTime shown.storeCfg)
theorem Dev.canon.startFetch {f : RecipeFetch} (h : d.canon) : (d.startFetch f).canon := h.rejectUnread.ite h.setF.modRecipe
theorem Dev.canon.loadFromSrc {m : Master} {persist : Bool} {l : Bytes} {how : FetchEnd} (h : d.canon) : (loadFromSrcEffect m persist l how d).canon := by
  unfold loadFromSrcEffect
  extract_lets _ _ _ d2
  have h2 : d2.canon := h.startFetch
  exact h.ite (h2.ite h2.fetchEnd)
theorem Dev.canon.loadFromFlash {m : Master} (h : d.canon) : (loadFromFlashEffect m d).canon := h.ite h.startFetch
theorem Dev.canon.recipeDiscardStaged {m : Master} (h : d.canon) : (recipeDiscardStagedEffect m d).canon := by
  unfold recipeDiscardStagedEffect
  extract_lets d2
  have h2 : d2.canon := h.setF.modRecipe
  exact h.ite (h2.showStaged.bootDone.ite h2.showStaged)
theorem Dev.canon.openLock {m : Master} (h : d.canon) : (openLockEffect m d).canon := h.ite (h.recipeEvent.ite h.setF)
theorem Dev.canon.closeLock {m : Master} (h : d.canon) : (closeLockEffect m d).canon := h.ite h.setF
theorem Dev.canon.recipeCheck (h : d.canon) : (recipeCheckEffect d).canon := by
  unfold recipeCheckEffect
  extract_lets d2
  have h2 : d2.canon := h.setF.modRecipe
  split
  · exact h
  · extract_lets
    split
    · exact h2.rejectUnread
    · split
      · exact h2.rejectImage
      · exact h2.stage
theorem Dev.canon.unstageImage {x : StagedImage} (h : d.canon) : (d.unstageImage x).canon := h.modRecipe.showStaged
theorem Dev.canon.queueWrite {full : Bool} {l eff : Bytes} (h : d.canon) : (d.queueWrite full l eff).canon := h.modRecipe.setF
theorem Dev.canon.activate {x : StagedImage} (h : d.canon) : (d.activate x).canon := by
  unfold Dev.activate
  extract_lets _ _ d1 _ _ d2 d3 d4 d5 d6 d7 eff d8 d9 d10 d11 d12 d13
  have h1 : d1.canon := h.unstageImage.foldl fun h => h.unstageImage.rejectImage
  have h2 : d2.canon := h1.setCfg newCfgs_wf
  have h7 : d7.canon := ((h2.loadTick.foldl .raise).foldl .freshTile).loadAll.ite ((h2.loadTick.foldl .raise).foldl .freshTile).loadAll.loadTime
  have h12 : d12.canon := h7.setEff.setReg.setReg.setFs.recipeEvent.modRecipe
  exact (h12.queueWrite.ite h12).bootDone
theorem Dev.canon.amend {S : Nat} {x : StagedImage} (h : d.canon) : (d.amend S x).canon := by
  unfold Dev.amend
  extract_lets l c d1 r gone d2 d3 d4 d5 eff d6
  have h1 : d1.canon := h.unstageImage
  generalize r = o
  cases o with
  | some r => exact h1.rejectImage
  | none =>
    have h2 : d2.canon := h1.setCfg (newCfg_wf (Dev.canon_cfg h))
    have h3 : d3.canon := h2.foldl fun h => h.foldl .loadPart
    have h4 : d4.canon := h3.foldl fun h => h.foldl fun h => h.foldl .fenceCore
    have h6 : d6.canon := h4.modRecipe.setEff.count.recipeEvent
    exact h6.ite (h6.queueWrite.modRecipe.ite h6.recipeEvent)
theorem Dev.canon.amendments {S : Nat} (h : d.canon) : (d.amendments S).canon := h.foldl .amend
theorem Dev.canon.endedCells (h : d.canon) : (d.endedCells).canon := by
  unfold Dev.endedCells
  split
  exact h.modRecipe.foldl .raise
theorem Dev.canon.recipePersistDone {ok : Bool} (h : d.canon) : (recipePersistDoneEffect ok d).canon := by
  unfold recipePersistDoneEffect
  extract_lets
  split
  · exact h
  · extract_lets _ _ d2 d3
    have h2 : d2.canon := h.modRecipe.setF
    have h3 : d3.canon := (h2.flashWrite.flashWrite.setDir.setF.ite h2.modRecipe).ite (h2.flashWrite.ite h2.modRecipe)
    exact h3.recipeEvent
theorem Dev.canon.recipeReload (h : d.canon) : (recipeReloadEffect d).canon := by
  unfold recipeReloadEffect
  refine h.ite ?_
  extract_lets slot d1 l log bad imgs cfg d2 s d3
  have h1 : d1.canon := h.setF.modRecipe
  generalize bad = o
  cases o with
  | some r => exact h1.rejectImage.bootDone
  | none =>
    have h2 : d2.canon := h1.modRecipe
    have h3 : d3.canon := Dev.canon.loadTime (h2.setCfg (SMap.wf_store (d := fun _ => []) _ _ (SMap.wf_store (d := fun _ => []) _ _ (Dev.canon_cfg h2))))
    refine h3.foldl fun {e g} h => ?_
    cases g with
    | eth p => exact h.loadEth.ite h
    | braid _ => exact h
theorem Dev.canon.reloadEnd (h : d.canon) : (reloadEndEffect d).canon := by
  unfold reloadEndEffect
  split
  · exact h
  · exact h.ite h.modRecipe.modRecipe.showStaged.recipeEvent

/-! ## RegAccess -/

theorem Dev.canon.regWrite {m : Master} {r : RegRow} {ix : List Nat} {off : Nat} {v : Word} (h : d.canon) : (d.regWrite m r ix off v).canon := by
  unfold Dev.regWrite
  extract_lets _ _ _ d2
  have h2 : d2.canon := h.rwWrite
  split
  · exact h.ite ((h.ite h.rwWrite.modMemb).ite h.rwWrite.membShow)
  · split
    · exact h.rwWrite.ite h
    · exact (h.braidNewEpoch.ite h).ite (h2.resetTrims.untrim.ite ((h2.setSliceState.ite h2).ite (h2.modTime.ite (h2.braidShow.ite h2))))
theorem Dev.canon.registerWrite {m : Master} {off size : Nat} {v : Word} (h : d.canon) : (registerWriteEffect m off size v d).canon := by
  unfold registerWriteEffect
  split
  · exact h
  · split
    · exact h.raise
    · split
      · exact h
      · exact h.ite (h.count.recipeEvent.ite h.regWrite)
theorem Dev.canon.errorCaptureClear {m : Master} {off : Nat} (h : d.canon) : (errorCaptureClearEffect m off d).canon := by
  unfold errorCaptureClearEffect
  extract_lets d2
  have h2 : d2.canon := h.setReg
  split
  · exact h
  · exact h.ite (h2.setReg.ite (h2.setReg.ite h2))
theorem Dev.canon.rcCounterRead {m : Master} {off : Nat} (h : d.canon) : (rcCounterReadEffect m off d).canon := by
  unfold rcCounterReadEffect
  extract_lets
  split
  · exact h.readOut
  · exact h.ite (h.readOut.ite h.setReg.readOut)

/-! ## Spdm -/

theorem Dev.canon.answer {code sid : Nat} {vals : List Nat} {data sig : Bytes} (h : d.canon) : (d.answer code sid vals data sig).canon :=
  h.send.ite h.modSp.send
theorem Dev.canon.spdmError {code sid : Nat} (h : d.canon) : (d.spdmError code sid).canon := h.answer
theorem Dev.canon.spdmRun {f : Dev → Dev} (h : d.canon) (hf : ∀ {d}, Dev.canon d → (f d).canon) : (d.spdmRun f).canon :=
  h.ite (h.send.ite (hf h))
theorem Dev.canon.spdmAt {need : Nat} {req : Bytes} {f : Dev → Dev} (h : d.canon) (hf : ∀ {d}, Dev.canon d → (f d).canon) : (d.spdmAt need req f).canon :=
  h.spdmRun (fun h => h.spdmError.ite (hf h.modSp))
theorem Dev.canon.spdmStage {n : Nat} (h : d.canon) : (d.spdmStage n).canon := h.modSp
theorem Dev.canon.getVersion {req : Bytes} (h : d.canon) : (getVersionEffect req d).canon := h.spdmRun (fun h => h.modSp.answer)
theorem Dev.canon.getCapabilities {req : Bytes} (h : d.canon) : (getCapabilitiesEffect req d).canon :=
  h.spdmAt (fun h => h.spdmStage.answer)
theorem Dev.canon.negotiateAlgorithms {req : Bytes} (h : d.canon) : (negotiateAlgorithmsEffect req d).canon :=
  h.spdmAt (fun h => h.spdmStage.answer)
theorem Dev.canon.getDigests {req : Bytes} (h : d.canon) : (getDigestsEffect req d).canon := h.spdmAt .answer
theorem Dev.canon.getCertificate {slot off len : Nat} {req : Bytes} (h : d.canon) : (getCertificateEffect slot off len req d).canon :=
  h.spdmAt (fun h => h.spdmError.ite h.answer)
theorem Dev.canon.challenge {slot : Nat} {req : Bytes} (h : d.canon) : (challengeEffect slot req d).canon :=
  h.spdmAt (fun h => h.spdmError.ite h.answer)
theorem Dev.canon.getMeasurements {i : Nat} {signed : Bool} {req : Bytes} (h : d.canon) : (getMeasurementsEffect i signed req d).canon :=
  h.spdmAt (fun h => h.spdmError.ite h.answer)
theorem Dev.canon.keyExchange {sid : Nat} {key req : Bytes} (h : d.canon) : (keyExchangeEffect sid key req d).canon := by
  unfold keyExchangeEffect
  split
  · exact h.spdmAt .spdmError
  · refine h.spdmAt fun h => ?_
    split
    · exact h.spdmError
    · split
      · next _ _ _ he1 =>
          extract_lets
          split
          exact (((h.ofFresh he1).free).modSp).secEvent.answer
theorem Dev.canon.endSession {sid : Nat} (h : d.canon) : (d.endSession sid).canon := h.modSp.secEvent
theorem Dev.canon.inSession {sid : Nat} {live : Bool} {f : Session → Dev → Dev} (h : d.canon) (hf : ∀ {x0 d}, Dev.canon d → (f x0 d).canon) : (d.inSession sid live f).canon := by
  unfold Dev.inSession
  refine h.spdmRun fun h => ?_
  split
  · exact (hf h).ite h.spdmError
  · exact h.spdmError
theorem Dev.canon.putSession {x : Session} (h : d.canon) : (d.putSession x).canon := h.modSp
theorem Dev.canon.finishEffect {sid : Nat} {ok : Bool} (h : d.canon) : (finishEffect sid ok d).canon :=
  h.inSession (fun h => h.putSession.answer.ite h.endSession.spdmError)
theorem Dev.canon.endSessionEffect {sid : Nat} (h : d.canon) : (endSessionEffect sid d).canon := h.inSession (fun h => h.endSession.answer)
theorem Dev.canon.spdmHeartbeat {sid : Nat} (h : d.canon) : (spdmHeartbeatEffect sid d).canon := h.inSession .answer
theorem Dev.canon.keyUpdate {sid : Nat} {all : Bool} (h : d.canon) : (keyUpdateEffect sid all d).canon :=
  h.inSession (fun h => h.putSession.answer)
theorem Dev.canon.chunkSend {handle seq : Nat} {last : Bool} {l : Bytes} (h : d.canon) : (chunkSendEffect handle seq last l d).canon :=
  h.spdmRun (fun h => h.spdmError.ite h.modSp.answer)
theorem Dev.canon.chunkGet {handle seq : Nat} (h : d.canon) : (chunkGetEffect handle seq d).canon :=
  h.spdmRun (fun h => h.spdmError.ite h.send)
theorem Dev.canon.ideKmQuery {sid : Nat} (h : d.canon) : (ideKmQueryEffect sid d).canon := h.inSession .answer
theorem Dev.canon.keyProg {sid : Nat} {cm : Bool} {set sub : Nat} {key : Bytes} (h : d.canon) : (keyProgEffect sid cm set sub key d).canon :=
  h.inSession (fun h => h.modSp.answer)
theorem Dev.canon.kSetGo {sid : Nat} {cm : Bool} {set : Nat} (h : d.canon) : (kSetGoEffect sid cm set d).canon :=
  h.inSession (fun h => (h.ite h.modSp.setB).answer)
theorem Dev.canon.kSetStop {sid : Nat} {cm : Bool} {set : Nat} (h : d.canon) : (kSetStopEffect sid cm set d).canon := by
  unfold kSetStopEffect
  extract_lets
  refine h.inSession fun h => ?_
  extract_lets d2
  have h2 : d2.canon := h.foldl .modSp
  exact (h2.ite h2.modSp.setB).answer

/-! ## Reset -/

theorem Dev.canon.discardEntries {t : Nat} {p : Entry → Bool} (h : d.canon) : (d.discardEntries t p).canon := by
  unfold Dev.discardEntries
  refine h.foldl fun h => ?_
  split
  · exact h
  · exact (h.foldl .finish).raise
theorem Dev.canon.discardCtx {t : Nat} {c : TCtx} (h : d.canon) : (Dev.discardCtx t d c).canon := by
  unfold Dev.discardCtx
  exact h.discardEntries.modSch
theorem Dev.canon.freeDead {t : Nat} (h : d.canon) : (d.freeDead t).canon := h.foldl .freeCtx
theorem Dev.canon.resetCoreRegs {t i : Nat} {knead : Bool} (h : d.canon) : (d.resetCoreRegs t i knead).canon := h.resetRegs
theorem Dev.canon.resetSieve {t i : Nat} (h : d.canon) : (d.resetSieve t i).canon := (h.ite h.endSieve).setSieve.resetRegs
theorem Dev.canon.resetIndex {t k i : Nat} (h : d.canon) : (d.resetIndex t k i).canon :=
  (h.tierCoreReset.foldl .discardCtx).modSch.resetSieve.resetSieve
theorem Dev.canon.resetKnead {t k : Nat} {keep : Bool} (h : d.canon) : (d.resetKnead t k keep).canon := by
  unfold Dev.resetKnead
  extract_lets d1 d2 at_ d3 d4 d5 d6
  have h3 : d3.canon := by
    have h2 : d2.canon := h.loseReset.endLoaf.dropWaits
    dsimp -zeta only [d3]
    generalize at_ = o
    cases o with
    | some i => exact h2.resetIndex
    | none => exact h2
  have h6 : d6.canon := h3.setKn.resetCoreRegs.zeroRange.breakRange
  generalize at_ = o
  cases o with
  | some i => exact h6.addSvc.ite h6
  | none => exact h6
theorem Dev.canon.resetSignal {t i : Nat} (h : d.canon) : (d.resetSignal t i).canon := by
  unfold Dev.resetSignal
  extract_lets d2
  have h2 : d2.canon := h.loseReset
  exact ((h2.sigEnd.ite h2).setSg.resetCoreRegs).zeroRange.breakRange
theorem Dev.canon.coreReset {t u : Nat} (h : d.canon) : (d.coreReset t u).canon := by
  unfold Dev.coreReset
  extract_lets _ d2
  have h2 : d2.canon := h.setTile
  exact h2.resetKnead.ite h2.resetSignal
theorem Dev.canon.reloadTile {t : Nat} (h : d.canon) : (d.reloadTile t).canon := h.ite ((h.foldl .loadPart).untrim.loadCode.grantGlobals)
theorem Dev.canon.tileReset {t : Nat} (h : d.canon) : (d.tileReset t).canon := by
  unfold Dev.tileReset
  extract_lets _ _ _ _ d5 _ _ d8 _ _ _ _ _ _ _ d14
  have h5 : d5.canon := (h.loseReset.discardEntries.foldl .setKn).foldl .setSieve
  have h8 : d8.canon := ((h5.foldl fun h => h.setSg.setCodec).clearCtrs.resetRegs).zeroRange
  have h14 : d14.canon := h8.zeroRange.zeroRange.zeroRange.tierTileReset.modSch.modRad.integ.peelForce.modSp
  exact h14.setTile.setF.reloadTile.foldl .flush
theorem Dev.canon.rebooted {old : SecState} (h : d.canon) : (d.rebooted old).canon := by
  unfold Dev.rebooted
  extract_lets _ d2 _ d4
  have h2 : d2.canon := h.modSp
  have h4 : d4.canon := (h2.setReg.ite h2).foldl .secEvent
  exact h4.imageRejected.recover_.ite h4
/-- The device that a device reset starts from, with what Table 00.7 keeps of the stores. -/
theorem Dev.canon.deviceCleared (h : d.canon) : Dev.canon { Dev.init with
    regs := d.regs.filter fun e => match findReg e.1 with | some (r, _) => !r.reach.contains .device | none => false
    mem := d.mem.filter fun c => keptByDevice c.1
    lineErr := d.lineErr.filter fun c => keptByDevice (c.1 * 64)
    written := d.written.filter fun c => keptByDevice (c.1 * 64) } :=
  ⟨SMap.wf_filter _ (Dev.canon_regs h), SMap.wf_filter _ (Dev.canon_mem h), SMap.wf_filter _ (Dev.canon_lineErr h),
    SMap.wf_filter _ (Dev.canon_written h), Dev.canon_init.2.2.2.2⟩
theorem Dev.canon.deviceReset (h : d.canon) : d.deviceReset.canon :=
  (h.deviceCleared.now.free.sent.time.power.edge.setFs.setFs.setFs.foldl .setFs).rebooted
theorem Dev.canon.powerOn (_ : d.canon) : d.powerOn.canon := Dev.canon_init
theorem Dev.canon.powerOnReset (h : d.canon) : (powerOnResetEffect d).canon := h.powerOn
theorem Dev.canon.resetPin (h : d.canon) : (resetPinEffect d).canon := h.deviceReset
theorem Dev.canon.cxlLinkReset (h : d.canon) : (cxlLinkResetEffect d).canon := h.deviceReset
theorem Dev.canon.ideIntegrityFailure {cm : Bool} (h : d.canon) : (ideIntegrityFailureEffect cm d).canon :=
  h.ite ((h.deviceReset.ite h.setF).raise)
theorem Dev.canon.resetStatus {pending result : Nat} (h : d.canon) : (d.resetStatus pending result).canon := h.setFs
theorem Dev.canon.resetRefused (h : d.canon) : (d.resetRefused).canon := h.setF
theorem Dev.canon.tileResetRequest {m : Master} {t : Nat} (h : d.canon) : (tileResetRequestEffect m t d).canon :=
  h.ite (h.resetRefused.ite h.setTile.setF)
theorem Dev.canon.coreResetRequest {m : Master} {t : Nat} {unit : BitVec 13} (h : d.canon) : (coreResetRequestEffect m t unit d).canon :=
  h.ite (h.resetRefused.ite h.setTile.setF)
theorem Dev.canon.fallbackTileReset {t : Nat} (h : d.canon) : (fallbackTileResetEffect t d).canon := h.ite h.advanceTo.tileReset
theorem Dev.canon.stuckCoreReset {t : Nat} {unit : BitVec 13} (h : d.canon) : (stuckCoreResetEffect t unit d).canon := by
  unfold stuckCoreResetEffect
  split
  · exact h
  · exact h.ite h.advance.coreReset
theorem Dev.canon.shutdown {cause volt power : Nat} (h : d.canon) : (shutdownEffect cause volt power d).canon := by
  unfold shutdownEffect
  exact (h.setF.setF.raise.foldl .dropWork).setF.modPower
theorem Dev.canon.overvoltageRecovery (h : d.canon) : (overvoltageRecoveryEffect d).canon := h.powerOn.ite h

/-! ## Tick -/

theorem Dev.canon.modTile {t : Nat} {f : TileState → TileState} (h : d.canon) : (d.modTile t f).canon := h.setTile
theorem Dev.canon.landingArrival {t flag : Nat} {room : Bool} (h : d.canon) : (landingArrivalEffect t flag room d).canon := h.ite h.modTile
theorem Dev.canon.edgeDevice (h : d.canon) : (d.edgeDevice).canon := h.ringVectors.energyEdge.leakEdge.fenceEdge.endedCells
theorem Dev.canon.edgeResets {t : Nat} (h : d.canon) : (d.edgeResets t).canon := h.modTile.foldl .coreReset
theorem Dev.canon.edgeFences {t : Nat} (h : d.canon) : (d.edgeFences t).canon := by
  unfold Dev.edgeFences
  extract_lets
  refine h.integ.foldl fun h => ?_
  extract_lets _ _ d4
  have h4 : d4.canon := (h.resetKnead.ite h).markFence
  exact h4.fenceCore.ite h4
theorem Dev.canon.skipTick {t : Nat} (h : d.canon) : (d.skipTick t).canon :=
  (h.pauseSvc.foldl .modSch).modSch.modTile.resetTrims.count.raise.loseTick
theorem Dev.canon.countLate {t : Nat} (h : d.canon) : (d.countLate t).canon := h.count
theorem Dev.canon.takeTrims {t : Nat} (h : d.canon) : (d.takeTrims t).canon := h.foldl .setF
theorem Dev.canon.beginTick {t : Nat} (h : d.canon) : (d.beginTick t).canon := by
  unfold Dev.beginTick
  extract_lets _ _ _ _ d2 _ _ _ _ d5
  have h2 : d2.canon := h.countLate.ite h
  have h5 : d5.canon := ((h2.raise.ite h2).setF).modTile
  exact ((h5.takeTrims.ite h5.untrim).resetTrims).schedEdge.fencedSlots.slotIndications
theorem Dev.canon.tickEdge (h : d.canon) : (tickEdgeEffect d).canon :=
  ((h.advanceTo.ite h).edge.edgeDevice.foldl fun h => h.edgeResets.edgeFences).foldl fun h => h.skipTick.ite h.beginTick
theorem Dev.canon.recipeActivation (h : d.canon) : (recipeActivationEffect d).canon := by
  unfold recipeActivationEffect
  split
  · exact h
  · extract_lets _ _ _ d1 r d2 d3
    have h1 : d1.canon := h.ite h.advanceTo
    generalize r = o
    cases o with
    | some r => exact h1.unstageImage.rejectImage.bootDone.ite h1.unstageImage.rejectImage
    | none =>
      have h2 : d2.canon := h1.ite (h1.edgeDevice.foldl .edgeResets)
      have h3 : d3.canon := h2.activate
      exact h3.edge.foldl .slotIndications
theorem Dev.canon.stopUnit {t u m pos : Nat} (h : d.canon) : (d.stopUnit t u m pos).canon := by
  unfold Dev.stopUnit
  extract_lets _ _ stop
  have hs {slice id : Nat} {go : Dev → Dev} {e : Dev} (h : e.canon) (hg : ∀ {e}, e.canon → (go e).canon) : (stop slice id go e).canon :=
    (hg h.windowWaits.raise).modTile.ite (hg h.windowWaits.raise)
  split
  · split
    · exact (hs h fun h => h.endLoaf).ite h
    · exact h
  · exact (hs h fun h => h.endSieve).ite h
  · exact (hs h fun h => h.sigEnd).ite h
  · exact h.ite ((hs h fun h => h.codecFault).ite h)
theorem Dev.canon.windowEdge {t u e : Nat} (h : d.canon) : (windowEdgeEffect t u e d).canon := by
  unfold windowEdgeEffect
  split
  · exact h
  · split
    · exact h
    · extract_lets _ _ to_
      generalize to_ = o
      cases o with
      | none => exact h
      | some p => exact h.ite h.advance.stopUnit
theorem Dev.canon.askedReset {t : Nat} (h : d.canon) : (d.askedReset t).canon := h.tileReset.resetStatus.ite h
theorem Dev.canon.tileSnapshot {t : Nat} (h : d.canon) : (d.tileSnapshot t).canon :=
  (h.askedReset.modTile.setF.freeDead.tierReportDead.foldl .traySnapshot).takePend.radioSnapshot.peelSnapshot
theorem Dev.canon.openSlot (h : d.canon) : (d.openSlot).canon := h.ite ((((h.foldl .tileSnapshot).amendments).sliceSnapshot).membSnapshot)
theorem Dev.canon.raiseCore {t : Nat} (h : d.canon) : (d.raiseCore t).canon := by
  unfold Dev.raiseCore
  split
  · exact h
  · exact h.modTile.resetStatus
theorem Dev.canon.trim {t m : Nat} (h : d.canon) : (d.trim t m).canon := h.ite h.setF
theorem Dev.canon.boundarySnapshot {t : Nat} (h : d.canon) : (boundarySnapshotEffect t d).canon := by
  unfold boundarySnapshotEffect
  extract_lets d2 d3
  have h2 : d2.canon := h.advanceTo.openSlot
  have h3 : d3.canon := h2.raiseCore.step2.modTile
  exact h2.ite ((h3.foldl .trim).ite h3)
theorem Dev.canon.tickRefuse {t a : Nat} {m : Master} (h : d.canon) : (d.tickRefuse t a m).canon := h.raise
theorem Dev.canon.tickPlanCommit {m : Master} {t : Nat} {v : Word} (h : d.canon) : (tickPlanCommitEffect m t v d).canon := by
  unfold tickPlanCommitEffect
  extract_lets _ d2
  have h2 : d2.canon := h.modTile
  exact h.tickRefuse.ite (h.ite (h2.step4.step5.step6.modSp.ite (h2.ite h2.countLate).modTile.raise))
theorem Dev.canon.commitDeadline {t : Nat} (h : d.canon) : (commitDeadlineEffect t d).canon := by
  unfold commitDeadlineEffect
  extract_lets d2
  have h2 : d2.canon := h.advanceTo
  exact h2.ite h2.modTile.countLate
theorem Dev.canon.tickTrimWrite {m : Master} {t map len : Nat} (h : d.canon) : (tickTrimWriteEffect m t map len d).canon :=
  h.tickRefuse.ite h.setF
theorem Dev.canon.pauseTile {t : Nat} (h : d.canon) : (d.pauseTile t).canon := (h.modTile.foldl .setF).setF.count
theorem Dev.canon.resumeTile {t : Nat} (h : d.canon) : (d.resumeTile t).canon := (h.modTile.foldl fun h => h.ite h.setF).setF
theorem Dev.canon.stretchPauseStart {groups : Nat} (h : d.canon) : (stretchPauseStartEffect groups d).canon := by
  unfold stretchPauseStartEffect
  extract_lets _ _ _ _ _ _ d4
  have h4 : d4.canon := (((h.ite h.advanceTo).foldl .pauseTile).setF).modPower
  exact h.ite (h4.ite h4.raise)
theorem Dev.canon.stretchPauseEnd {groups : Nat} (h : d.canon) : (stretchPauseEndEffect groups d).canon :=
  h.ite (((h.advanceTo.foldl .resumeTile).setF).modPower)
theorem Dev.canon.radioAtRisk {t : Nat} (h : d.canon) : (radioAtRiskEffect t d).canon := by
  unfold radioAtRiskEffect
  extract_lets _ _ d2
  have h2 : d2.canon := h.advance.ite h
  exact h.ite (h2.ite h2.modTile.raise)

/-! ## Waits -/

theorem Dev.canon.endWait {w : Wait} (h : d.canon) : (d.endWait w).canon := h.ctrs.syncWaiters
theorem Dev.canon.resumeUnit {w : Wait} (h : d.canon) : (d.resumeUnit w).canon :=
  h.syncLocal.kNext.ite (h.sieveReleased.ite (h.sigReleased.ite h))
theorem Dev.canon.failUnit {w : Wait} (h : d.canon) : (d.failUnit w).canon := h.endLoaf.ite (h.sieveWaitFailed.ite (h.sigWaitFailed.ite h))
theorem Dev.canon.waitRelease {t : Nat} (h : d.canon) : (waitReleaseEffect t d).canon := by
  unfold waitReleaseEffect
  split
  · exact h
  · extract_lets d2
    have h2 : d2.canon := h.advance.endWait
    exact h.ite (h2.raise.failUnit.ite h2.resumeUnit)
theorem Dev.canon.waitTimeout {t : Nat} (h : d.canon) : (waitTimeoutEffect t d).canon := by
  unfold waitTimeoutEffect
  split
  · exact h
  · exact h.ite h.advance.endWait.raise.failUnit

end Sys2Proof.Machine
end

section
/-! SUPPORT. Answers: what every command answers, and with it that every step keeps the canonical form. -/
namespace Sys2Proof.Machine

-- One proof after another: with many at once their threads' stacks exceed the memory that the check allows.
set_option Elab.async false

/-- The answer of a command that a device with its supply runs: an effect on the device that keeps the canonical form. -/
def Answers (s : State) (o : Host.Outcome State Fault Refusal) : Prop := ∃ f : Dev → Dev, (∀ {d}, d.canon → (f d).canon) ∧ o = ran s f

variable {s : State} {m : Master} {f : Dev → Dev}

theorem answers_ran (hf : ∀ {d : Dev}, d.canon → (f d).canon) : Answers s (ran s f) := ⟨f, hf, rfl⟩
theorem answers_ranSys (hf : ∀ {d : Dev}, d.canon → (f d).canon) : Answers s (ranSys m s f) := answers_ran fun h => h.ite (hf h)
theorem answers_ranFrom (hf : ∀ {d : Dev}, d.canon → (f d).canon) : Answers s (ranFrom m s f) := answers_ranSys fun h => h.ite (hf h)
theorem answers_ranRead (hf : ∀ {d : Dev}, d.canon → (f d).canon) : Answers s (ranRead m s f) := answers_ranSys fun h => h.readOut.ite (hf h)
theorem answers_ite {p : Prop} [Decidable p] {a b : Host.Outcome State Fault Refusal} (ha : Answers s a) (hb : Answers s b) :
    Answers s (if p then a else b) := by split <;> assumption

/-- Every command is such an effect, but for the two that a device without its supply takes. -/
theorem exec_answers : (c : Instr) → Answers s (exec c s) ∨ c = .powerOnReset ∨ c = .overvoltageRecovery
  | .powerOnReset => .inr (.inl rfl)
  | .resetPin => .inl (answers_ran .resetPin)
  | .tileResetRequest _ _ _ => .inl (answers_ranSys .tileResetRequest)
  | .coreResetRequest _ _ _ => .inl (answers_ranSys .coreResetRequest)
  | .fallbackTileReset _ => .inl (answers_ran .fallbackTileReset)
  | .stuckCoreReset _ _ => .inl (answers_ran .stuckCoreReset)
  | .landingArrival _ _ _ _ => .inl (answers_ran .landingArrival)
  | .eventRecordWrite => .inl (answers_ran .eventRecordWrite)
  | .tickEdge => .inl (answers_ran .tickEdge)
  | .windowEdge _ _ _ => .inl (answers_ran .windowEdge)
  | .boundarySnapshot _ => .inl (answers_ran .boundarySnapshot)
  | .tickPlanCommit _ _ _ => .inl (answers_ranFrom .tickPlanCommit)
  | .commitDeadline _ => .inl (answers_ran .commitDeadline)
  | .tickTrimWrite _ _ _ _ => .inl (answers_ranFrom .tickTrimWrite)
  | .stretchPauseStart _ => .inl (answers_ran .stretchPauseStart)
  | .stretchPauseEnd _ => .inl (answers_ran .stretchPauseEnd)
  | .radioAtRisk _ => .inl (answers_ran .radioAtRisk)
  | .loadFromSrc _ _ _ _ => .inl (answers_ranFrom .loadFromSrc)
  | .loadFromFlash _ => .inl (answers_ranFrom .loadFromFlash)
  | .recipeDiscardStaged _ => .inl (answers_ranFrom .recipeDiscardStaged)
  | .openLock _ => .inl (answers_ranFrom .openLock)
  | .closeLock _ => .inl (answers_ranFrom .closeLock)
  | .recipeCheck => .inl (answers_ran .recipeCheck)
  | .recipeActivation => .inl (answers_ran .recipeActivation)
  | .recipePersistDone _ => .inl (answers_ran .recipePersistDone)
  | .recipeReload => .inl (answers_ran .recipeReload)
  | .reloadEnd => .inl (answers_ran .reloadEnd)
  | .errorCaptureClear _ _ => .inl (answers_ranFrom .errorCaptureClear)
  | .rcCounterRead _ _ => .inl (answers_ite (answers_ranSys .rcCounterRead) (answers_ranRead .rcCounterRead))
  | .registerWrite _ _ _ _ => .inl (answers_ranSys .registerWrite)
  | .kneadLoafStart _ _ => .inl (answers_ran .kneadLoafStart)
  | .kneadLoafComplete _ _ => .inl (answers_ran .kneadLoafComplete)
  | .nop _ _ _ => .inl (answers_ran .nop)
  | .kend _ _ _ => .inl (answers_ran .end)
  | .waitat _ _ _ => .inl (answers_ran .waitat)
  | .loop _ _ _ => .inl (answers_ran .loop)
  | .sli _ _ _ => .inl (answers_ran .sli)
  | .saddi _ _ _ => .inl (answers_ran .saddi)
  | .pass _ _ _ => .inl (answers_ran .pass)
  | .dma _ _ _ => .inl (answers_ran .dma)
  | .signal _ _ _ => .inl (answers_ran .signalEffect)
  | .take _ _ _ => .inl (answers_ran .take)
  | .watch _ _ _ => .inl (answers_ran .watch)
  | .shape _ _ _ => .inl (answers_ran .shape)
  | .vld _ _ _ => .inl (answers_ran .vld)
  | .vst _ _ _ => .inl (answers_ran .vst)
  | .vqst _ _ _ => .inl (answers_ran .vqst)
  | .vadd _ _ _ => .inl (answers_ran .vadd)
  | .vsub _ _ _ => .inl (answers_ran .vsub)
  | .vmul _ _ _ => .inl (answers_ran .vmul)
  | .vfma _ _ _ => .inl (answers_ran .vfma)
  | .vmax _ _ _ => .inl (answers_ran .vmax)
  | .vmin _ _ _ => .inl (answers_ran .vmin)
  | .vcmplt _ _ _ => .inl (answers_ran .vcmplt)
  | .vsel _ _ _ => .inl (answers_ran .vsel)
  | .vimm _ _ _ => .inl (answers_ran .vimm)
  | .viadd _ _ _ => .inl (answers_ran .viadd)
  | .vcvt _ _ _ => .inl (answers_ran .vcvt)
  | .vrope _ _ _ => .inl (answers_ran .vrope)
  | .vexp2 _ _ _ => .inl (answers_ran .vexp2)
  | .vrecip _ _ _ => .inl (answers_ran .vrecip)
  | .vrsqrt _ _ _ => .inl (answers_ran .vrsqrt)
  | .vrsum _ _ _ => .inl (answers_ran .vrsum)
  | .vrmax _ _ _ => .inl (answers_ran .vrmax)
  | .vrand _ _ _ => .inl (answers_ran .vrand)
  | .passEntry _ _ => .inl (answers_ran .passEntry)
  | .passEnd _ _ => .inl (answers_ran .passEnd)
  | .dmaBegin _ _ => .inl (answers_ran .dmaBegin)
  | .dmaComplete _ _ => .inl (answers_ran .dmaComplete)
  | .kneadContextWrite _ _ _ _ _ => .inl (answers_ranFrom .kneadContextWrite)
  | .replayRegisterWrite _ _ _ _ _ => .inl (answers_ranFrom .replayRegisterWrite)
  | .sieveContextWrite _ _ _ _ => .inl (answers_ranFrom .sieveContextWrite)
  | .sieveLoafStart _ _ => .inl (answers_ran .sieveLoafStart)
  | .sieveJobBegin _ _ => .inl (answers_ran .sieveJobBegin)
  | .sieveJobComplete _ _ => .inl (answers_ran .sieveJobComplete)
  | .tierCmdPush _ _ _ _ => .inl (answers_ranFrom .tierCmdPush)
  | .tierDefine _ _ => .inl (answers_ran .tierDefine)
  | .tierRetire _ _ => .inl (answers_ran .tierRetire)
  | .tierPromote _ _ => .inl (answers_ran .tierPromote)
  | .tierEvict _ _ => .inl (answers_ran .tierEvict)
  | .tierClean _ _ => .inl (answers_ran .tierClean)
  | .tierDiscard _ _ => .inl (answers_ran .tierDiscard)
  | .tierCmdComplete _ _ _ => .inl (answers_ran .tierCmdComplete)
  | .tierDeadline _ _ => .inl (answers_ran .tierDeadline)
  | .lowerTierFailure _ _ _ => .inl (answers_ran .lowerTierFailure)
  | .tierFlagClear _ _ _ _ => .inl (answers_ranFrom .tierFlagClear)
  | .hdmRead _ => .inl (answers_ran .hdmRead)
  | .hdmWrite _ _ _ => .inl (answers_ran .hdmWrite)
  | .h2dSnoop _ => .inl (answers_ran .h2dSnoop)
  | .hostWriteDone _ => .inl (answers_ran .hostWriteDone)
  | .hostWriteRetry _ _ => .inl (answers_ran .hostWriteRetry)
  | .trayDoorbell _ _ _ => .inl (answers_ranFrom .trayDoorbell)
  | .trayFetchDone _ _ _ => .inl (answers_ran .trayFetchDone)
  | .trayAbort _ _ _ => .inl (answers_ranFrom .trayAbort)
  | .serviceTransferStart _ _ => .inl (answers_ran .serviceTransferStart)
  | .contextSaved _ _ => .inl (answers_ran .contextSaved)
  | .contextRestored _ _ => .inl (answers_ran .contextRestored)
  | .benchZeroed _ _ => .inl (answers_ran .benchZeroed)
  | .imageCopyDone _ _ => .inl (answers_ran .imageCopyDone)
  | .serviceFaulted _ _ => .inl (answers_ran .serviceFaulted)
  | .radioReqDoorbell _ _ _ => .inl (answers_ranFrom .radioReqDoorbell)
  | .radioReqFetchDone _ _ _ => .inl (answers_ran .radioReqFetchDone)
  | .ulCplaneEgress _ _ => .inl (answers_ran .ulCplaneEgress)
  | .dlEgress _ _ => .inl (answers_ran .dlEgress)
  | .ulIndicationDelivery _ _ => .inl (answers_ran .ulIndicationDelivery)
  | .sigLoafStart _ _ _ => .inl (answers_ran .sigLoafStart)
  | .sigLoafComplete _ _ => .inl (answers_ran .sigLoafComplete)
  | .sigResultLand _ _ => .inl (answers_ran .sigResultLand)
  | .sigNop _ _ _ _ => .inl (answers_ran .sigNop)
  | .cmul _ _ _ _ => .inl (answers_ran .cmul)
  | .cmac _ _ _ _ => .inl (answers_ran .cmac)
  | .cmulj _ _ _ _ => .inl (answers_ran .cmulj)
  | .cmacj _ _ _ _ => .inl (answers_ran .cmacj)
  | .sigVadd _ _ _ _ => .inl (answers_ran .sigVadd)
  | .sigVsub _ _ _ _ => .inl (answers_ran .sigVsub)
  | .vnarrow _ _ _ _ => .inl (answers_ran .vnarrow)
  | .vwiden _ _ _ _ => .inl (answers_ran .vwiden)
  | .vshlv _ _ _ _ => .inl (answers_ran .vshlv)
  | .vunpk _ _ _ _ => .inl (answers_ran .vunpk)
  | .vperm _ _ _ _ => .inl (answers_ran .vperm)
  | .sigVld _ _ _ => .inl (answers_ran .sigVld)
  | .sigVst _ _ _ => .inl (answers_ran .sigVst)
  | .sld _ _ _ => .inl (answers_ran .sld)
  | .sst _ _ _ => .inl (answers_ran .sst)
  | .xfer _ _ _ => .inl (answers_ran .xfer)
  | .intpt _ _ _ => .inl (answers_ran .intpt)
  | .sadd _ _ _ => .inl (answers_ran .sadd)
  | .ssub _ _ _ => .inl (answers_ran .ssub)
  | .sand _ _ _ => .inl (answers_ran .sand)
  | .sor _ _ _ => .inl (answers_ran .sor)
  | .sxor _ _ _ => .inl (answers_ran .sxor)
  | .sshl _ _ _ => .inl (answers_ran .sshl)
  | .sshr _ _ _ => .inl (answers_ran .sshr)
  | .sigSaddi _ _ _ => .inl (answers_ran .sigSaddi)
  | .sigSli _ _ _ => .inl (answers_ran .sigSli)
  | .br _ _ _ => .inl (answers_ran .br)
  | .sigLoop _ _ _ => .inl (answers_ran .sigLoop)
  | .sigSignal _ _ _ => .inl (answers_ran .sigSignal)
  | .sigTake _ _ _ => .inl (answers_ran .sigTake)
  | .sigWatch _ _ _ => .inl (answers_ran .sigWatch)
  | .sigWaitat _ _ _ => .inl (answers_ran .sigWaitat)
  | .settmr _ _ _ => .inl (answers_ran .settmr)
  | .armw _ _ _ => .inl (answers_ran .armw)
  | .irqen _ _ _ => .inl (answers_ran .irqen)
  | .reti _ _ _ => .inl (answers_ran .reti)
  | .sigEnd _ _ _ => .inl (answers_ran .sigEndEffect)
  | .sigTimerFire _ _ => .inl (answers_ran .sigTimerFire)
  | .sigCounterFire _ _ => .inl (answers_ran .sigCounterFire)
  | .sigXferBegin _ _ => .inl (answers_ran .sigXferBegin)
  | .sigXferComplete _ _ => .inl (answers_ran .sigXferComplete)
  | .codecLoafStart _ _ _ => .inl (answers_ran .codecLoafStart)
  | .ldpcDecode _ _ => .inl (answers_ran .ldpcDecode)
  | .ldpcEncode _ _ => .inl (answers_ran .ldpcEncode)
  | .polarEncode _ _ => .inl (answers_ran .polarEncode)
  | .polarDecode _ _ => .inl (answers_ran .polarDecode)
  | .prachDetect _ _ => .inl (answers_ran .prachDetect)
  | .codecDescComplete _ _ => .inl (answers_ran .codecDescComplete)
  | .codecInternalFault _ _ => .inl (answers_ran .codecInternalFault)
  | .timeNowSecRead _ => .inl (answers_ranRead .timeNowSecRead)
  | .ppsInEdge _ => .inl (answers_ran .ppsInEdge)
  | .servoUpdate _ => .inl (answers_ran .servoUpdate)
  | .freqSourceEvaluation _ => .inl (answers_ran .freqSourceEvaluation)
  | .sourceLoss _ => .inl (answers_ran .sourceLoss)
  | .holdoverExpiry => .inl (answers_ran .holdoverExpiry)
  | .ptpMessageSend _ _ => .inl (answers_ran .ptpMessageSend)
  | .timeStepCmd _ _ => .inl (answers_ranFrom .timeStepCmd)
  | .pulseCtrlWrite _ _ _ => .inl (answers_ranFrom .pulseCtrlWrite)
  | .pulseEdge _ => .inl (answers_ran .pulseEdge)
  | .captureEdge _ _ _ => .inl (answers_ran .captureEdge)
  | .capturePop _ _ => .inl (answers_ranRead .capturePop)
  | .ethLinkDown _ _ => .inl (answers_ran .ethLinkDown)
  | .ethLinkUp _ _ => .inl (answers_ran .ethLinkUp)
  | .ethFrameReceive _ _ _ _ => .inl (answers_ran .ethFrameReceive)
  | .ethTxSelect _ => .inl (answers_ran .ethTxSelect)
  | .gateIntervalChange _ => .inl (answers_ran .gateIntervalChange)
  | .gateChangeCmd _ _ => .inl (answers_ranFrom .gateChangeCmd)
  | .gateCancelCmd _ _ => .inl (answers_ranFrom .gateCancelCmd)
  | .gateAdminWrite _ _ _ _ => .inl (answers_ranFrom .gateAdminWrite)
  | .gateTakeover _ => .inl (answers_ran .gateTakeover)
  | .queueSample => .inl (answers_ran .queueSample)
  | .histSnap _ _ => .inl (answers_ranFrom .histSnap)
  | .braidLinkUp _ _ _ => .inl (answers_ran .braidLinkUp)
  | .braidLinkDown _ _ _ => .inl (answers_ran .braidLinkDown)
  | .laneUnfence _ _ _ => .inl (answers_ranFrom .laneUnfence)
  | .flitReceive _ _ _ _ => .inl (answers_ran .flitReceive)
  | .packetForward _ => .inl (answers_ran .packetForward)
  | .braidReadIssue _ => .inl (answers_ran .braidReadIssue)
  | .braidWriteIssue _ => .inl (answers_ran .braidWriteIssue)
  | .braidFence _ => .inl (answers_ran .braidFence)
  | .braidIssueResume => .inl (answers_ran .braidIssueResume)
  | .braidReadArrive => .inl (answers_ran .braidReadArrive)
  | .braidWriteArrive => .inl (answers_ran .braidWriteArrive)
  | .braidReadRespArrive => .inl (answers_ran .braidReadRespArrive)
  | .braidAckArrive => .inl (answers_ran .braidAckArrive)
  | .braidRefuseArrive => .inl (answers_ran .braidRefuseArrive)
  | .braidRetryTimeout => .inl (answers_ran .braidRetryTimeout)
  | .deadTargetTimeout => .inl (answers_ran .deadTargetTimeout)
  | .braidTxSelect _ => .inl (answers_ran .braidTxSelect)
  | .aliasWrite _ _ _ => .inl (answers_ranFrom .aliasWrite)
  | .putArm _ _ => .inl (answers_ranFrom .putArm)
  | .putLaunch _ => .inl (answers_ran .putLaunch)
  | .counterEvaluate _ _ => .inl (answers_ran .counterEvaluate)
  | .waitRelease _ => .inl (answers_ran .waitRelease)
  | .waitTimeout _ => .inl (answers_ran .waitTimeout)
  | .proofHostSignal _ _ _ => .inl (answers_ranFrom .proofHostSignal)
  | .proofStewardSignal _ _ _ => .inl (answers_ranFrom .proofStewardSignal)
  | .landingSignalApply _ => .inl (answers_ran .landingSignalApply)
  | .proofCtrWrite _ _ _ _ => .inl (answers_ranFrom .proofCtrWrite)
  | .peelLockRead _ _ => .inl (answers_ranRead .peelLockRead)
  | .peelDataAccess _ _ _ wr => .inl (by cases wr with
    | none => exact answers_ranRead .peelDataAccess
    | some _ => exact answers_ranFrom .peelDataAccess)
  | .peelHandoff _ _ _ => .inl (answers_ranFrom .peelHandoff)
  | .peelRelease _ _ _ => .inl (answers_ranFrom .peelRelease)
  | .echo _ => .inl (answers_ran .echo)
  | .readCounter _ => .inl (answers_ran .readCounter)
  | .reportContexts _ => .inl (answers_ran .reportContexts)
  | .sliceResetDrain _ _ _ => .inl (answers_ranFrom .sliceResetDrain)
  | .sliceResetSquash _ _ => .inl (answers_ranFrom .sliceResetSquash)
  | .sliceFreeze _ _ => .inl (answers_ranFrom .sliceFreeze)
  | .sliceRestore _ _ => .inl (answers_ranFrom .sliceRestore)
  | .sliceRelease _ _ => .inl (answers_ranFrom .sliceRelease)
  | .sliceResetComplete _ => .inl (answers_ran .sliceResetComplete)
  | .sliceFreezeComplete _ => .inl (answers_ran .sliceFreezeComplete)
  | .sliceRestoreInstall _ => .inl (answers_ran .sliceRestoreInstall)
  | .unboundPasidAccess _ _ write => .inl (by cases write with
    | false => exact answers_ranRead .unboundPasidAccess
    | true => exact answers_ranFrom .unboundPasidAccess)
  | .deviceRingAddressWrite _ _ => .inl (answers_ranFrom .deviceRingAddressWrite)
  | .lineRefetch _ _ _ => .inl (answers_ran .lineRefetch)
  | .pageRepairDone _ _ => .inl (answers_ran .pageRepairDone)
  | .testRawWrite _ => .inl (answers_ranFrom .testRawWrite)
  | .testRawRead _ => .inl (answers_ranFrom .testRawRead)
  | .scrubRead _ _ => .inl (answers_ran .scrubRead)
  | .fieldRecordWrite _ => .inl (answers_ran .fieldRecordWrite)
  | .heartbeatSend => .inl (answers_ran .heartbeatSend)
  | .heartbeatArrive => .inl (answers_ran .heartbeatArrive)
  | .heartbeatDue => .inl (answers_ran .heartbeatDue)
  | .abortNoticeArrive => .inl (answers_ran .abortNoticeArrive)
  | .abortNoticeSend => .inl (answers_ran .abortNoticeSend)
  | .epochStage _ => .inl (answers_ranFrom .epochStage)
  | .epochStageForce _ => .inl (answers_ranFrom .epochStageForce)
  | .epochDiscard _ => .inl (answers_ranFrom .epochDiscard)
  | .hostFence _ => .inl (answers_ranFrom .hostFence)
  | .epochRecordCheck _ _ => .inl (answers_ran .epochRecordCheck)
  | .epochInstall => .inl (answers_ran .epochInstall)
  | .isolationFence => .inl (answers_ran .isolationFence)
  | .collectiveDeclare _ _ _ _ _ => .inl (answers_ranFrom .collectiveDeclare)
  | .collectiveHostAbort _ _ => .inl (answers_ranFrom .collectiveHostAbort)
  | .shadowSet _ _ => .inl (answers_ranFrom .shadowSet)
  | .shadowQualify => .inl (answers_ran .shadowQualify)
  | .cxlLinkTrained _ _ _ _ _ => .inl (answers_ran .cxlLinkTrained)
  | .cxlLinkReset => .inl (answers_ran .cxlLinkReset)
  | .cxlLinkDegraded _ _ _ => .inl (answers_ran .cxlLinkDegraded)
  | .atsInvalidation _ _ _ => .inl (answers_ran .atsInvalidation)
  | .hdmCommit _ _ => .inl (answers_ran .hdmCommit)
  | .msixUnmask _ => .inl (answers_ran .msixUnmask)
  | .doeDiscovery _ => .inl (answers_ran .doeDiscovery)
  | .cdatRead _ => .inl (answers_ran .cdatRead)
  | .getVersion _ => .inl (answers_ran .getVersion)
  | .getCapabilities _ => .inl (answers_ran .getCapabilities)
  | .negotiateAlgorithms _ => .inl (answers_ran .negotiateAlgorithms)
  | .getDigests _ => .inl (answers_ran .getDigests)
  | .getCertificate _ _ _ _ => .inl (answers_ran .getCertificate)
  | .challenge _ _ => .inl (answers_ran .challenge)
  | .getMeasurements _ _ _ => .inl (answers_ran .getMeasurements)
  | .keyExchange _ _ _ => .inl (answers_ran .keyExchange)
  | .finish _ _ => .inl (answers_ran .finishEffect)
  | .endSession _ => .inl (answers_ran .endSessionEffect)
  | .spdmHeartbeat _ => .inl (answers_ran .spdmHeartbeat)
  | .keyUpdate _ _ => .inl (answers_ran .keyUpdate)
  | .chunkSend _ _ _ _ => .inl (answers_ran .chunkSend)
  | .chunkGet _ _ => .inl (answers_ran .chunkGet)
  | .ideKmQuery _ => .inl (answers_ran .ideKmQuery)
  | .keyProg _ _ _ _ _ => .inl (answers_ran .keyProg)
  | .kSetGo _ _ _ => .inl (answers_ran .kSetGo)
  | .kSetStop _ _ _ => .inl (answers_ran .kSetStop)
  | .ideIntegrityFailure _ => .inl (answers_ran .ideIntegrityFailure)
  | .railsInRegulation _ => .inl (answers_ran .railsInRegulation)
  | .firmwareVerify => .inl (answers_ran .firmwareVerify)
  | .repairImageCheck => .inl (answers_ran .repairImageCheck)
  | .dramTrainingComplete => .inl (answers_ran .dramTrainingComplete)
  | .fwStage _ => .inl (answers_ranSys .fwStage)
  | .fwApplyAtReset _ => .inl (answers_ranSys .fwApplyAtReset)
  | .fwApplyLive _ _ => .inl (answers_ranSys .fwApplyLive)
  | .fwDiscard _ => .inl (answers_ranSys .fwDiscard)
  | .stageRepairImage _ => .inl (answers_ranSys .stageRepairImage)
  | .fwFlashWriteDone _ => .inl (answers_ran .fwFlashWriteDone)
  | .fwLiveTileStep _ => .inl (answers_ran .fwLiveTileStep)
  | .fwApplyTileTimeout => .inl (answers_ran .fwApplyTileTimeout)
  | .clearFenceRecords _ => .inl (answers_ranSys .clearFenceRecords)
  | .clearFieldRecords _ => .inl (answers_ranSys .clearFieldRecords)
  | .vinLow _ => .inl (answers_ran .vinLow)
  | .shutdown _ _ _ => .inl (answers_ran .shutdown)
  | .overvoltageRecovery => .inr (.inr rfl)
  | .ballastUpdate _ => .inl (answers_ran .ballastUpdate)
  | .emergencyBegin _ => .inl (answers_ran .emergencyBegin)
  | .tempSensorRead _ _ _ _ => .inl (answers_ran .tempSensorRead)
  | .vinOpenDetect _ _ => .inl (answers_ran .vinOpenDetect)
  | .sidebandFault _ => .inl (answers_ran .sidebandFault)
  | .referenceClockReturn => .inl (answers_ran .referenceClockReturn)
  | .emergencyEnd _ => .inl (answers_ran .emergencyEnd)
  | .ldpcEarlyTermination _ _ => .inl (answers_ran .ldpcEarlyTermination)
  | .sliceImageFetchDone _ _ _ => .inl (answers_ran .sliceImageFetchDone)
  | .fwImageFetchDone _ _ => .inl (answers_ran .fwImageFetchDone)

/-- The device that a command leaves, and the queue's rest. -/
theorem exec_next (c : Instr) (s : State) : ∃ e : Dev, (s.dev.canon → e.canon) ∧ exec c s = .next { s with dev := e } := by
  obtain ⟨f, hf, he⟩ | rfl | rfl := exec_answers (s := s) c
  · exact ⟨_, fun h => (hf h).ite h, he⟩
  · exact ⟨_, .powerOnReset, rfl⟩
  · exact ⟨_, .overvoltageRecovery, rfl⟩

/-- Settles O59: a command's effect is made of operations that keep the canonical form, and an idle step only moves time. -/
theorem everyStepKeepsTheStoresCanonical : Obligations.EveryStepKeepsTheStoresCanonical := by
  unfold Obligations.EveryStepKeepsTheStoresCanonical
  intro s s' h hs
  unfold step at hs
  split at hs
  · cases hs
    exact h.advance
  · next c r _ =>
    obtain ⟨e, hc, he⟩ := exec_next c { s with pending := r }
    cases he.symm.trans hs
    exact hc h

/-- Settles O57: a command's outcome is always a next state; without supply `ran` leaves the device. -/
theorem everyCommandCompletesAndADownDeviceIsStill : Obligations.EveryCommandCompletesAndADownDeviceIsStill := by
  unfold Obligations.EveryCommandCompletesAndADownDeviceIsStill
  refine ⟨fun c s => (exec_next c s).imp fun _ h => h.2, fun c s hs hp ho => ?_⟩
  obtain ⟨f, -, he⟩ | h | h := exec_answers (s := s) c
  · exact he.trans (ran_off hs)
  · exact absurd h hp
  · exact absurd h ho

end Sys2Proof.Machine
end

section
/-! SUPPORT. Ticks: the tick number, the step of a queue and the state after reset. -/
namespace Sys2Proof.Machine

-- One proof after another: with many at once their threads' stacks exceed the memory that the check allows.
set_option Elab.async false

theorem tickKc_of_le {p : Nat} (h : p ≤ 4) : tickKc p = 78125 * 2 ^ p := by
  interval_cases p <;> rfl

theorem tickU_pos_of_le {d : Dev} (h : d.getF Reg.TICK_CFG F.TICK_CFG_PERIOD ≤ 4) : 0 < d.tickU := by
  rw [Dev.tickU, Dev.tickLen, tickKc_of_le h, kcU]
  positivity

/-- Settles O5: the tick number is the quotient of device time by the period. -/
theorem tickNumberFollowsDeviceTime : Obligations.TickNumberFollowsDeviceTime := by
  unfold Obligations.TickNumberFollowsDeviceTime
  refine ⟨fun d h => ?_, fun d n => (Dev.advance_now (d := d) n).trans (by rw [kcU, Nat.mul_comm])⟩
  have hl : d.tickLen = 78125 * 2 ^ d.getF Reg.TICK_CFG F.TICK_CFG_PERIOD := tickKc_of_le h
  have hu : 312500 * 2 ^ d.getF Reg.TICK_CFG F.TICK_CFG_PERIOD = d.tickU := by rw [Dev.tickU, hl, kcU]; omega
  rw [hu]
  exact ⟨hl, Nat.div_mul_le_self _ _, by rw [Nat.add_mul, Nat.one_mul]; exact Nat.lt_div_mul_add (tickU_pos_of_le h)⟩

/-- Settles O56: by the two equations of `step`. -/
theorem aStepRunsTheFrontCommand : Obligations.AStepRunsTheFrontCommand := by
  unfold Obligations.AStepRunsTheFrontCommand
  exact ⟨fun _ _ _ => rfl, fun _ => rfl⟩

/-- Settles O60: the reset state lists nothing. -/
theorem resetIsCanonical : Obligations.ResetIsCanonical := by
  unfold Obligations.ResetIsCanonical
  exact ⟨Dev.canon_init, rfl, rfl, rfl, fun _ => rfl⟩

end Sys2Proof.Machine
end

section
/-! SUPPORT. Quiet: what an operation made of register writes and events leaves as it was. -/
namespace Sys2Proof.Machine

-- One proof after another: with many at once their threads' stacks exceed the memory that the check allows.
set_option Elab.async false

variable {p : Nat → Prop} {d e : Dev}

/-- `e` is `d` but for events and for registers of `p`. -/
structure Dev.Quiet (p : Nat → Prop) (d e : Dev) : Prop where
  keeps : d.canon → e.canon
  rest : ({ e with regs := d.regs, ev := d.ev } : Dev) = d
  regs : d.canon → ∀ a, ¬ p a → e.reg a = d.reg a

theorem tiles6_lt {t : Nat} (h : t ∈ tiles6) : t < 6 := by
  simp only [tiles6, List.mem_cons, List.not_mem_nil, or_false] at h
  omega

theorem Dev.Quiet.refl : Dev.Quiet p d d := ⟨id, rfl, fun _ _ _ => rfl⟩

theorem Dev.Quiet.trans {c : Dev} (h : Dev.Quiet p c d) (h' : Dev.Quiet p d e) : Dev.Quiet p c e where
  keeps hc := h'.keeps (h.keeps hc)
  rest := (congrArg (fun x : Dev => { x with regs := c.regs, ev := c.ev }) h'.rest).trans h.rest
  regs hc a ha := (h'.regs (h.keeps hc) a ha).trans (h.regs hc a ha)
/-- Giving both the same security state is no difference. -/
theorem Dev.Quiet.sp {x : SecState} (h : Dev.Quiet p d e) : Dev.Quiet p { d with sp := x } { e with sp := x } where
  keeps hd := (h.keeps hd : e.canon)
  rest := congrArg (fun y : Dev => { y with sp := x }) h.rest
  regs hd := h.regs hd

theorem Dev.Quiet.setReg {a : Nat} {v : Word} (h : Dev.Quiet p d e) (ha : p a) : Dev.Quiet p d (e.setReg a v) where
  keeps hd := (h.keeps hd).setReg
  rest := h.rest
  regs hd b hb := (Dev.reg_setReg_ne v (h.keeps hd) fun hab => hb (by rwa [← hab])).trans (h.regs hd b hb)

theorem Dev.Quiet.setF {a : Nat} {f : Fld} {v : Nat} (h : Dev.Quiet p d e) (ha : p a) : Dev.Quiet p d (e.setF a f v) := h.setReg ha
theorem Dev.Quiet.setB {a : Nat} {f : Fld} {b : Bool} (h : Dev.Quiet p d e) (ha : p a) : Dev.Quiet p d (e.setB a f b) := h.setReg ha
theorem Dev.Quiet.setFs {a : Nat} {l : List (Fld × Nat)} (h : Dev.Quiet p d e) (ha : p a) : Dev.Quiet p d (e.setFs a l) := h.setReg ha

theorem Dev.Quiet.raise {code slice object detail : Nat} {unit : BitVec 16} (h : Dev.Quiet p d e) :
    Dev.Quiet p d (e.raise code slice unit object detail) where
  keeps hd := (h.keeps hd).raise
  rest := h.rest
  regs := h.regs

theorem Dev.Quiet.ev {x : EvState} (h : Dev.Quiet p d e) : Dev.Quiet p d { e with ev := x } := ⟨h.keeps, h.rest, h.regs⟩

theorem Dev.Quiet.ite {c : Prop} [Decidable c] {e' : Dev} (h : Dev.Quiet p d e) (h' : Dev.Quiet p d e') : Dev.Quiet p d (if c then e else e') := by
  split <;> assumption

theorem Dev.Quiet.foldl {α : Type} {f : Dev → α → Dev} {l : List α} (h : Dev.Quiet p d e)
    (hf : ∀ {e x}, Dev.Quiet p d e → Dev.Quiet p d (f e x)) : Dev.Quiet p d (l.foldl f e) :=
  List.foldlRecOn (motive := Dev.Quiet p d) l f h fun _ h _ _ => hf h

end Sys2Proof.Machine
end

section
/-! SUPPORT. Device reset: what it keeps. -/
namespace Sys2Proof.Machine

-- One proof after another: with many at once their threads' stacks exceed the memory that the check allows.
set_option Elab.async false

variable {d e : Dev}

/-- Registers of the security processor and of the supply. -/
def secPwr (a : Nat) : Prop := a / 0x10000 = 0x1E ∨ a / 0x10000 = Reg.PWR_STATUS / 0x10000

/-- What the security processor keeps when the boot starts again. -/
def SecState.kept (x : SecState) : SecState := { SecState.init with
  flash := x.flash, seed := x.seed, pufRead := x.pufRead, trained := x.trained, switched := x.switched, vinAt := x.vinAt }

/-- The boot that starts again writes registers of the security processor and raises events. -/
theorem Dev.rebooted_quiet (old : SecState) :
    Dev.Quiet secPwr { d with sp := old.kept } (d.rebooted old) := by
  have rom : secPwr Reg.SEC_ROM := .inl rfl
  have status : secPwr Reg.SEC_STATUS := .inl rfl
  unfold Dev.rebooted
  extract_lets _ d1 d2 d3
  have h2 : Dev.Quiet secPwr d1 d2 := (Dev.Quiet.refl.setReg rom).ite .refl
  have h3 : Dev.Quiet secPwr d1 d3 := h2.foldl .raise
  exact (((h3.setF status).raise.setFs status).raise).ite h3

/-- What the supply's registers keep of a device reset is written back to them alone. -/
theorem Dev.deviceReset_quiet (h : d.canon) : ∃ n : Dev, n.canon ∧ Dev.Quiet secPwr n d.deviceReset ∧
    n.regs = (d.regs.filter fun e => match findReg e.1 with | some (r, _) => !r.reach.contains .device | none => false) ∧
    n.mem = (d.mem.filter fun c => keptByDevice c.1) ∧ n.lineErr = (d.lineErr.filter fun c => keptByDevice (c.1 * 64)) ∧
    n.written = (d.written.filter fun c => keptByDevice (c.1 * 64)) ∧
    n.now = d.now ∧ n.time = { d.time with pulses := [], capts := [] } ∧ n.cfg = [] ∧ n.hostWrites = [] ∧
    n.sp.seed = d.sp.seed ∧ n.sp.trained = d.sp.trained ∧ n.sp.flash = d.sp.flash := by
  unfold Dev.deviceReset
  extract_lets keep n0 tm pw n1 n2 n3 n4 n5
  have pwr {a : Nat} {fs : List Fld} {n e : Dev} (h : Dev.Quiet secPwr n e) (ha : a / 0x10000 = 0x1F) : Dev.Quiet secPwr n (keep a fs e) :=
    h.setFs (.inr ha)
  have h4 : Dev.Quiet secPwr n2 n4 := pwr (pwr (pwr .refl rfl) rfl) rfl
  have h5 : Dev.Quiet secPwr n2 n5 := by
    refine List.foldlRecOn (motive := Dev.Quiet secPwr n2) _ _ h4 fun e h t ht => pwr h ?_
    have : t < 6 := tiles6_lt ht
    simp only [Reg.PWR_TEMP]
    omega
  have canon2 : n2.canon := h.deviceCleared.now.free.sent.time.power.edge
  have q := Dev.rebooted_quiet (d := n5) d.sp
  refine ⟨{ n2 with sp := d.sp.kept }, canon2.sp, ?_, rfl, rfl, rfl, rfl, rfl, rfl, rfl, rfl, rfl, rfl, rfl⟩
  exact h5.sp.trans q

/-- Settles O2: the boot's registers and the supply's are written onto what the filters keep. -/
theorem deviceResetKeepsTimeSeedAndStackDram : Obligations.DeviceResetKeepsTimeSeedAndStackDram := by
  unfold Obligations.DeviceResetKeepsTimeSeedAndStackDram
  intro c s hc hs h
  have run : Runs c s fun e => e = s.dev.deviceReset := by
    rcases hc with rfl | rfl
    · exact runs_ran (f := resetPinEffect) rfl hs rfl
    · exact runs_ran (f := cxlLinkResetEffect) rfl hs rfl
  obtain ⟨_, he, rfl⟩ := run
  obtain ⟨n, hn, q, regs, mem, lineErr, written, now, time, cfg, writes, seed, trained, flash⟩ := Dev.deviceReset_quiet h
  have r := q.rest
  refine ⟨_, he, (congrArg Dev.now r).trans now, (congrArg Dev.time r).trans time, (congrArg (·.sp.seed) r).trans seed,
    (congrArg (·.sp.trained) r).trans trained, (congrArg (·.sp.flash) r).trans flash, (congrArg Dev.cfg r).trans cfg,
    (congrArg Dev.hostWrites r).trans writes, fun a ha => ?_, fun a r ix hr hsec hpwr => ?_⟩
  · have hl : keptByDevice (a / 64 * 64) = true := by
      simp only [keptByDevice, Bool.and_eq_true, decide_eq_true_eq] at ha ⊢
      unfold dramSize at ha ⊢
      omega
    have mem' := (congrArg Dev.mem r).trans mem
    have err' := (congrArg Dev.lineErr r).trans lineErr
    have wr' := (congrArg Dev.written r).trans written
    dsimp only at mem' err' wr'
    simp only [Dev.byte, Dev.errOf, look, mem', err', wr', lookup?_filter keptByDevice (SMap.wf_rising (Dev.canon_mem h)),
      lookup?_filter (fun l => keptByDevice (l * 64)) (SMap.wf_rising (Dev.canon_lineErr h)),
      lookup?_filter (fun l => keptByDevice (l * 64)) (SMap.wf_rising (Dev.canon_written h)), ha, hl, if_true, and_self]
  · rw [q.regs hn a (not_or.mpr ⟨hsec, hpwr⟩)]
    have hp := lookup?_filter (fun a => match findReg a with | some (r, _) => !r.reach.contains .device | none => false) (Dev.canon_rising h) (a := a)
    simp only [Dev.reg, regs, hp, hr]
    cases r.reach.contains .device <;> rfl
end Sys2Proof.Machine
end

section
/-! SUPPORT. Fields: what a field reads back after the update of a register or of another part of the device. -/
namespace Sys2Proof.Machine

-- One proof after another: with many at once their threads' stacks exceed the memory that the check allows.
set_option Elab.async false

variable {d e : Dev} {a b : Nat} {f g : Fld} {v : Nat}

theorem Dev.getF_setF_mod (h : d.canon) (hf : Nat.ble (f.lo + f.w) 64 = true := by rfl) : (d.setF a f v).getF a f = v % 2 ^ f.w :=
  Dev.getF_setF a f v h (Nat.le_of_ble_eq_true hf)
theorem Dev.getF_setF_lt (h : d.canon) (hv : v < 2 ^ f.w) (hf : Nat.ble (f.lo + f.w) 64 = true := by rfl) : (d.setF a f v).getF a f = v :=
  (Dev.getF_setF_mod h hf).trans (Nat.mod_eq_of_lt hv)
theorem Dev.getF_setF_other (h : d.canon) (hf : Nat.ble (f.lo + f.w) 64 = true := by rfl)
    (hfg : (Nat.ble (f.lo + f.w) g.lo || Nat.ble (g.lo + g.w) f.lo) = true := by rfl) : (d.setF a f v).getF a g = d.getF a g :=
  Dev.getF_setF_apart a f g v h (Nat.le_of_ble_eq_true hf) ((Bool.or_eq_true _ _ ▸ hfg).imp Nat.le_of_ble_eq_true Nat.le_of_ble_eq_true)

/-- Stores are told apart by memory, line checks and written bits. -/
theorem Dev.sameStores_of (hm : e.mem = d.mem) (hl : e.lineErr = d.lineErr) (hw : e.written = d.written) : d.sameStores e := fun a => by
  simp only [Dev.byte, Dev.errOf, hm, hl, hw, and_self]

theorem Dev.sameStores_setF : d.sameStores (d.setF a f v) := Dev.sameStores_of (Dev.setF_mem ..) (Dev.setF_lineErr ..) (Dev.setF_written ..)

theorem Dev.Quiet.sameRegs {p : Nat → Prop} (h : Dev.Quiet p d e) (hd : d.canon) : d.sameRegs e p := h.regs hd
theorem Dev.Quiet.mem {p : Nat → Prop} (h : Dev.Quiet p d e) : e.mem = d.mem := (congrArg Dev.mem h.rest :)
theorem Dev.Quiet.now {p : Nat → Prop} (h : Dev.Quiet p d e) : e.now = d.now := (congrArg Dev.now h.rest :)
theorem Dev.Quiet.ctrs {p : Nat → Prop} (h : Dev.Quiet p d e) : e.ctrs = d.ctrs := (congrArg Dev.ctrs h.rest :)
theorem Dev.Quiet.tile {p : Nat → Prop} (h : Dev.Quiet p d e) (t : Nat) : e.tile t = d.tile t := (congrArg (Dev.tile · t) h.rest :)
theorem Dev.Quiet.kn {p : Nat → Prop} (h : Dev.Quiet p d e) (t k : Nat) : e.kn t k = d.kn t k := (congrArg (Dev.kn · t k) h.rest :)
theorem Dev.Quiet.sg {p : Nat → Prop} (h : Dev.Quiet p d e) (t i : Nat) : e.sg t i = d.sg t i := (congrArg (Dev.sg · t i) h.rest :)
theorem Dev.Quiet.sameStores {p : Nat → Prop} (h : Dev.Quiet p d e) : d.sameStores e :=
  Dev.sameStores_of (congrArg Dev.mem h.rest :) (congrArg Dev.lineErr h.rest :) (congrArg Dev.written h.rest :)
theorem Dev.Quiet.count {p : Nat → Prop} {n : Nat} (h : Dev.Quiet p d e) (ha : p a) : Dev.Quiet p d (e.count a f n) := by
  unfold Dev.count
  exact h.ite ((h.setF ha).ite (h.setFs ha))

end Sys2Proof.Machine
end

section
/-! SUPPORT. Rings: an event goes to its ring, or is discarded. -/
namespace Sys2Proof.Machine

-- One proof after another: with many at once their threads' stacks exceed the memory that the check allows.
set_option Elab.async false

variable {d : Dev} {g : Nat} {x : EventRec}

theorem ringRegs_slice (h : g < 64) : ringRegs g = (Reg.SLICE_EV_RING g, Reg.SLICE_EV_PTR g, Reg.SLICE_EV_DISCARD g) := by
  have : g ≠ devRing := by unfold devRing; omega
  simp [ringRegs, this]

/-- A discarded record is counted, and its ring marked. -/
theorem Dev.ringDiscard_quiet (h : g < 64) : Dev.Quiet (· = Reg.SLICE_EV_DISCARD g) d (d.ringDiscard g) := by
  have hq : Dev.Quiet (· = Reg.SLICE_EV_DISCARD g) d (d.count (Reg.SLICE_EV_DISCARD g) F.SLICE_EV_DISCARD_COUNT 1) := Dev.Quiet.refl.count rfl
  unfold Dev.ringDiscard
  rw [ringRegs_slice h]
  exact hq.ite hq.ev
theorem Dev.ringDiscard_arisen : (d.ringDiscard g).ev.arisen = d.ev.arisen := by
  unfold Dev.ringDiscard
  dsimp only
  split <;> rw [Dev.count_ev]
theorem Dev.mem_lostRings_ringDiscard : g ∈ (d.ringDiscard g).ev.lostRings := by
  unfold Dev.ringDiscard
  dsimp only
  split
  · next hg => exact List.elem_iff.mp hg
  · exact List.mem_append_right _ (List.mem_singleton.mpr rfl)

/-- A record for whose ring there is room goes to host memory at the entry of TAIL (R27). -/
theorem Dev.ringWrite_room (h : d.canon) (hg : g < 64) (hb : d.getF (Reg.SLICE_EV_RING g) F.SLICE_EV_RING_ADDR * 4096 ≠ 0)
    (hr : (d.getF (Reg.SLICE_EV_PTR g) F.SLICE_EV_PTR_TAIL + 2 ^ 32 - d.getF (Reg.SLICE_EV_PTR g) F.SLICE_EV_PTR_HEAD) % 2 ^ 32 ≠
      2 ^ d.getF (Reg.SLICE_EV_RING g) F.SLICE_EV_RING_LOG2) :
    (d.ringWrite g x).hostWrites = d.hostWrites ++ [⟨d.hostNext, .event, g, d.getF (Reg.SLICE_EV_RING g) F.SLICE_EV_RING_ADDR * 4096 +
        d.getF (Reg.SLICE_EV_PTR g) F.SLICE_EV_PTR_TAIL % 2 ^ d.getF (Reg.SLICE_EV_RING g) F.SLICE_EV_RING_LOG2 * 32,
      EventRec.bytes { x with lost := d.ev.lostRings.contains g }, 0⟩] ∧
    (d.ringWrite g x).getF (Reg.SLICE_EV_PTR g) F.SLICE_EV_PTR_TAIL = (d.getF (Reg.SLICE_EV_PTR g) F.SLICE_EV_PTR_TAIL + 1) % 2 ^ 32 ∧
    (d.ringWrite g x).getF (Reg.SLICE_EV_PTR g) F.SLICE_EV_PTR_HEAD = d.getF (Reg.SLICE_EV_PTR g) F.SLICE_EV_PTR_HEAD ∧
    d.sameRegs (d.ringWrite g x) (· = Reg.SLICE_EV_PTR g) ∧ (d.ringWrite g x).ev.arisen = d.ev.arisen ∧
    (d.ringWrite g x).ev.lostRings = d.ev.lostRings.filter (· != g) ∧ d.sameStores (d.ringWrite g x) := by
  unfold Dev.ringWrite
  rw [ringRegs_slice hg]
  dsimp only
  rw [if_neg (by simp only [Bool.or_eq_true, beq_iff_eq]; exact not_or.mpr ⟨hb, hr⟩)]
  have hw {k s b l} : (d.hostWrite k s b l).canon := h.hostWrite
  refine ⟨rfl, ?_, ?_, ?_, rfl, rfl, Dev.sameStores_of rfl rfl rfl⟩
  · exact (Dev.getF_setF_mod (a := Reg.SLICE_EV_PTR g) (f := F.SLICE_EV_PTR_TAIL) h.hostWrite :)
  · exact (Dev.getF_setF_other (a := Reg.SLICE_EV_PTR g) (f := F.SLICE_EV_PTR_TAIL) (g := F.SLICE_EV_PTR_HEAD) h.hostWrite :)
  · exact Dev.sameRegs_setF (Reg.SLICE_EV_PTR g) F.SLICE_EV_PTR_TAIL _ h.hostWrite

/-- Settles O4: by the cases of `ringWrite`. -/
theorem eventsReachTheirRings : Obligations.EventsReachTheirRings := by
  unfold Obligations.EventsReachTheirRings
  refine ⟨fun t src flag s hs => ⟨fun hf => ?_, ?_⟩, fun x r s hs h hx hsl => ?_, fun x r s hs hx hsl hr hb => ?_⟩
  · refine runs_ran rfl hs (if_neg ?_)
    simp only [hf, Bool.not_true, Bool.or_false, Bool.false_eq_true, not_false_iff]
  · exact runs_ran rfl hs (if_pos rfl)
  · intro g base size tail head hbase
    have effect : eventRecordWriteEffect s.dev = { s.dev with ev := { s.dev.ev with arisen := r } }.ringWrite g x := by
      simp only [eventRecordWriteEffect, hx]
      exact if_pos hsl
    refine ⟨fun hroom => runs_ran rfl hs ?_, fun hroom => runs_ran rfl hs ?_⟩
    · rw [effect]
      exact Dev.ringWrite_room h.ev hsl hbase hroom
    · have full : (base == 0 || (tail + 2 ^ 32 - head) % 2 ^ 32 == size) = true := by
        rw [hroom, beq_self_eq_true, Bool.or_true]
      have hd : eventRecordWriteEffect s.dev = ({ s.dev with ev := { s.dev.ev with arisen := r } } : Dev).ringDiscard g := by
        rw [effect, Dev.ringWrite, ringRegs_slice hsl]
        exact if_pos full
      have hq := Dev.Quiet.trans (Dev.Quiet.refl.ev (d := s.dev)) (Dev.ringDiscard_quiet (d := { s.dev with ev := { s.dev.ev with arisen := r } }) hsl)
      rw [hd]
      exact ⟨(congrArg Dev.hostWrites hq.rest :), Dev.ringDiscard_arisen, Dev.mem_lostRings_ringDiscard, hq.sameRegs h, hq.sameStores⟩
  · refine runs_ran rfl hs ?_
    simp only [eventRecordWriteEffect, hx]
    exact (if_neg (by omega)).trans ((if_pos (beq_iff_eq.mpr hr)).trans (if_pos hb))

end Sys2Proof.Machine
end

section
/-! SUPPORT. Plans: the commit and the trims of a tile's steward (R47, R48, R60). -/
namespace Sys2Proof.Machine

-- One proof after another: with many at once their threads' stacks exceed the memory that the check allows.
set_option Elab.async false

variable {d : Dev} {t : Nat}

/-- A tile that is told from a tile at reset is listed, whatever the device listed before. -/
theorem Dev.tile_setTile_of_ne {x : TileState} (hne : x ≠ TileState.init) : (d.setTile t x).tile t = x := by
  simp only [Dev.setTile, Dev.tile, store, if_neg hne, look, lookup?_insertAt_self, Option.getD_some]

theorem Dev.deadline_setTile {x : TileState} : (d.setTile t x).deadline = d.deadline := by
  simp only [Dev.deadline, Dev.tickNo, Dev.tickU, Dev.tickLen, Dev.getF, Dev.reg, Dev.setTile_now, Dev.setTile_regs]

/-- A commit is in time up to 250 kc before the edge. -/
theorem Dev.le_deadline_iff : d.now ≤ d.deadline ∧ 1000 ≤ (d.tickNo + 1) * d.tickU ↔ d.now + 1000 ≤ (d.tickNo + 1) * d.tickU := by
  unfold Dev.deadline kcU
  omega

/-- Settles O7: a commit and a trim take the branch of the master that sends them. -/
theorem plansAndTrimsAreTheStewards : Obligations.PlansAndTrimsAreTheStewards := by
  unfold Obligations.PlansAndTrimsAreTheStewards
  refine ⟨fun m t v s hs => ⟨fun hm => ?_, fun hm hv ha hd hc => ?_⟩, fun m t map len s hs h => ⟨fun hm => ?_, fun hm => ?_⟩⟩
  · exact runs_ranFrom rfl hs (if_pos (bne_iff_ne.mpr hm))
  · have steward : ¬ (m != stewardOf t) = true := by simp [hm]
    have due : ¬ (!v.getLsbD 0 || !s.dev.active || !(s.dev.tile t).decided || (s.dev.tile t).committed) = true := by simp [hv, ha, hd, hc]
    intro d
    have late : (d.tile t).late = (s.dev.tile t).late := by
      have hne : ({ s.dev.tile t with committed := true } : TileState) ≠ TileState.init := fun h => Bool.noConfusion (congrArg TileState.committed h)
      rw [Dev.tile_setTile_of_ne hne]
    have deadline : d.deadline = s.dev.deadline := Dev.deadline_setTile
    refine ⟨fun ht hl => runs_ranFrom rfl hs ?_, fun ht hl => runs_ranFrom rfl hs ?_⟩
    · have intime : (decide (d.now ≤ d.deadline) && !(s.dev.tile t).late) = true := by
        rw [← late, hl, deadline, show d.now = s.dev.now from rfl, decide_eq_true (Dev.le_deadline_iff.mpr ht).1]
        rfl
      exact (if_neg steward).trans ((if_neg due).trans (if_pos intime))
    · have notime : ¬ (decide (d.now ≤ d.deadline) && !(s.dev.tile t).late) = true := by
        rw [hl, Bool.not_true, Bool.and_false]
        exact Bool.false_ne_true
      refine (if_neg steward).trans ((if_neg due).trans ((if_neg notime).trans ?_))
      rw [hl, ← deadline]
      rfl
  · exact runs_ranFrom rfl hs (if_pos (bne_iff_ne.mpr hm))
  · have steward : ¬ (m != stewardOf t) = true := by simp [hm]
    have effect : tickTrimWriteEffect m t map len.toNat s.dev = s.dev.setF (Reg.TICK_TRIM t map) F.TICK_TRIM_LEN_NEXT
        (if len.toNat > s.dev.mappedLen t map ∨ len.toNat % 200 ≠ 0 then s.dev.mappedLen t map else len.toNat) := by
      refine (if_neg steward).trans ?_
      simp only [Bool.or_eq_true, decide_eq_true_eq, bne_iff_ne]
    refine runs_ranFrom rfl hs ?_
    rw [effect]
    exact ⟨Dev.getF_setF_mod h, Dev.getF_setF_other h, Dev.sameRegs_setF _ _ _ h, Dev.sameStores_setF, Dev.setF_tiles ..⟩
end Sys2Proof.Machine
end

section
/-! SUPPORT. Trims: LEN_NEXT follows the demand, LEN_ACTIVE takes it at the edge (R48, R49). -/
namespace Sys2Proof.Machine

-- One proof after another: with many at once their threads' stacks exceed the memory that the check allows.
set_option Elab.async false

variable {d : Dev} {t m : Nat}

theorem Dev.getF_lt (a : Nat) (f : Fld) : d.getF a f < 2 ^ f.w := Nat.mod_lt _ (Nat.two_pow_pos _)

theorem trimReg_ne {k : Nat} (h : k ≠ m) : Reg.TICK_TRIM t k ≠ Reg.TICK_TRIM t m := by
  unfold Reg.TICK_TRIM
  omega

/-- What the edge does to one trim: LEN_ACTIVE becomes LEN_NEXT. -/
def Dev.takeTrim (t : Nat) (d : Dev) (m : Nat) : Dev :=
  d.setF (Reg.TICK_TRIM t m) F.TICK_TRIM_LEN_ACTIVE (d.getF (Reg.TICK_TRIM t m) F.TICK_TRIM_LEN_NEXT)

theorem Dev.takeTrim_next {k : Nat} (h : d.canon) : (Dev.takeTrim t d k).getF (Reg.TICK_TRIM t m) F.TICK_TRIM_LEN_NEXT = d.getF (Reg.TICK_TRIM t m) F.TICK_TRIM_LEN_NEXT := by
  by_cases hk : k = m
  · subst hk
    exact Dev.getF_setF_other h
  · exact Dev.getF_setF_ne _ _ _ h (trimReg_ne hk)

theorem Dev.takeTrim_active_self (h : d.canon) :
    (Dev.takeTrim t d m).getF (Reg.TICK_TRIM t m) F.TICK_TRIM_LEN_ACTIVE = d.getF (Reg.TICK_TRIM t m) F.TICK_TRIM_LEN_NEXT :=
  Dev.getF_setF_lt h (Dev.getF_lt (Reg.TICK_TRIM t m) F.TICK_TRIM_LEN_NEXT)

theorem Dev.takeTrim_active_ne {k : Nat} (h : d.canon) (hk : k ≠ m) :
    (Dev.takeTrim t d k).getF (Reg.TICK_TRIM t m) F.TICK_TRIM_LEN_ACTIVE = d.getF (Reg.TICK_TRIM t m) F.TICK_TRIM_LEN_ACTIVE :=
  Dev.getF_setF_ne _ _ _ h (trimReg_ne hk)

/-- Trims taken one after another: each keeps every LEN_NEXT, and the trim of a listed map is taken. -/
theorem Dev.takeTrim_foldl (l : List Nat) (h : d.canon) :
    (l.foldl (Dev.takeTrim t) d).getF (Reg.TICK_TRIM t m) F.TICK_TRIM_LEN_NEXT = d.getF (Reg.TICK_TRIM t m) F.TICK_TRIM_LEN_NEXT ∧
    (m ∈ l ∨ d.getF (Reg.TICK_TRIM t m) F.TICK_TRIM_LEN_ACTIVE = d.getF (Reg.TICK_TRIM t m) F.TICK_TRIM_LEN_NEXT →
      (l.foldl (Dev.takeTrim t) d).getF (Reg.TICK_TRIM t m) F.TICK_TRIM_LEN_ACTIVE = d.getF (Reg.TICK_TRIM t m) F.TICK_TRIM_LEN_NEXT) := by
  induction l generalizing d with
  | nil => simp
  | cons k l ih =>
    obtain ⟨next, active⟩ := ih (d := Dev.takeTrim t d k) h.setF
    rw [Dev.takeTrim_next h] at next active
    refine ⟨next, fun hm => active ?_⟩
    by_cases hk : k = m
    · subst hk
      exact .inr (Dev.takeTrim_active_self h)
    · rw [Dev.takeTrim_active_ne h hk]
      exact hm.imp_left fun hm => (List.mem_cons.mp hm).resolve_left (Ne.symm hk)

theorem le_ceilDiv_mul (D : Nat) : D ≤ 200 * ceilDiv D 200 := by
  unfold ceilDiv
  omega

/-- Settles O8: a trim writes LEN_NEXT alone, and each of the 64 maps is taken once. -/
theorem trimmedLengthFollowsDemand : Obligations.TrimmedLengthFollowsDemand := by
  unfold Obligations.TrimmedLengthFollowsDemand
  refine ⟨fun d t m h hpos hlt => ?_, fun d t m h => ?_⟩
  · intro L D n
    have trim : d.trim t m = d.setF (Reg.TICK_TRIM t m) F.TICK_TRIM_LEN_NEXT
        (if d.mapAbsent t m (d.tickNo + 1) then L else min L (200 * ceilDiv D 200)) := if_neg (by rw [beq_iff_eq]; omega)
    have hn : n = if d.mapAbsent t m (d.tickNo + 1) then L else min L (200 * ceilDiv D 200) := by
      dsimp only [n]
      rw [trim]
      refine Dev.getF_setF_lt h (lt_of_le_of_lt ?_ hlt)
      split
      · exact le_rfl
      · exact min_le_left _ _
    refine ⟨fun ha => ?_, fun ha => ?_, ?_⟩
    · rw [hn, ha]
      exact ⟨rfl, min_le_left _ _, fun hD => le_min hD (le_ceilDiv_mul D)⟩
    · rw [hn, ha]
      rfl
    · rw [trim]
      exact Dev.sameRegs_setF _ _ _ h
  · obtain ⟨next, active⟩ := Dev.takeTrim_foldl (t := t) (m := m) (List.range 64) h
    exact ⟨active (.inl (List.mem_range.mpr m.isLt)), next⟩

end Sys2Proof.Machine
end

section
/-! SUPPORT. Recipe commands: loads, discards and the lock (R70, R80, R84). -/
namespace Sys2Proof.Machine

-- One proof after another: with many at once their threads' stacks exceed the memory that the check allows.
set_option Elab.async false

variable {d : Dev} {x : RecipeFetch}

theorem Dev.startFetch_idle (h : d.recipe.fetch = none) :
    d.startFetch x = (d.setF Reg.RECIPE_STATUS F.RECIPE_STATUS_CHECKING 1).modRecipe fun r => { r with fetch := some x } := by
  rw [Dev.startFetch, h]
  rfl
theorem Dev.startFetch_busy (h : d.recipe.fetch ≠ none) : d.startFetch x = d.rejectUnread 2 :=
  if_pos (Option.isSome_iff_ne_none.mpr h)

/-- A fetch shows CHECKING and is held; nothing else is touched. -/
theorem Dev.startFetch_holds (h : d.canon) (hf : d.recipe.fetch = none) :
    (d.startFetch x).recipe = { d.recipe with fetch := some x } ∧ (d.startFetch x).getF Reg.RECIPE_STATUS F.RECIPE_STATUS_CHECKING = 1 ∧
    d.sameRegs (d.startFetch x) (· = Reg.RECIPE_STATUS) ∧ d.sameStores (d.startFetch x) ∧ (d.startFetch x).cfg = d.cfg := by
  rw [Dev.startFetch_idle hf]
  have one : (d.setF Reg.RECIPE_STATUS F.RECIPE_STATUS_CHECKING 1).getF Reg.RECIPE_STATUS F.RECIPE_STATUS_CHECKING = 1 := Dev.getF_setF_mod h
  exact ⟨rfl, one, Dev.sameRegs_setF _ _ _ h, Dev.sameStores_of rfl rfl rfl, rfl⟩

/-- A boot that ends tells so, and no more is owed. -/
theorem Dev.bootDone_eq (d : Dev) : ∃ x y, d.bootDone = { d with sp := x, ev := y } := by
  unfold Dev.bootDone
  split
  · exact ⟨_, _, rfl⟩
  · exact ⟨_, _, rfl⟩

/-- A discard leaves no fetch and no staged image, and shows neither. -/
theorem Dev.recipeDiscard_empties (h : d.canon) :
    let e := recipeDiscardStagedEffect hostDriver d
    e.recipe.fetch = none ∧ e.recipe.staged = [] ∧
    e.getF Reg.RECIPE_STATUS F.RECIPE_STATUS_STAGED = 0 ∧ e.getF Reg.RECIPE_STATUS F.RECIPE_STATUS_CHECKING = 0 ∧
    d.sameRegs e (· = Reg.RECIPE_STATUS) ∧ d.sameStores e := by
  intro e
  let u := (d.setF Reg.RECIPE_STATUS F.RECIPE_STATUS_CHECKING 0).modRecipe fun r => { r with fetch := none, staged := [], reload := none }
  have hu : u.canon := h.setF.modRecipe
  have shown : ∃ x y, e = { u.showStaged with sp := x, ev := y } := by
    obtain ⟨x, y, hb⟩ := u.showStaged.bootDone_eq
    have he : e = if u.recipe.reloaded then u.showStaged.bootDone else u.showStaged := if_neg (by decide)
    rw [he]
    split
    · exact ⟨x, y, hb⟩
    · exact ⟨_, _, rfl⟩
  obtain ⟨x, y, he⟩ := shown
  have checking : (d.setF Reg.RECIPE_STATUS F.RECIPE_STATUS_CHECKING 0).getF Reg.RECIPE_STATUS F.RECIPE_STATUS_CHECKING = 0 :=
    Dev.getF_setF_mod (v := 0) h
  have regs : d.sameRegs u (· = Reg.RECIPE_STATUS) := Dev.sameRegs_setF _ F.RECIPE_STATUS_CHECKING 0 h
  have staged : u.showStaged.getF Reg.RECIPE_STATUS F.RECIPE_STATUS_STAGED = 0 := Dev.getF_setF_mod (v := 0) hu
  have kept : u.showStaged.getF Reg.RECIPE_STATUS F.RECIPE_STATUS_CHECKING = u.getF Reg.RECIPE_STATUS F.RECIPE_STATUS_CHECKING :=
    Dev.getF_setF_other (f := F.RECIPE_STATUS_STAGED) (g := F.RECIPE_STATUS_CHECKING) (v := 0) hu
  rw [he]
  exact ⟨rfl, rfl, staged, kept.trans checking, fun a ha => (Dev.sameRegs_setF _ F.RECIPE_STATUS_STAGED 0 hu a ha).trans (regs a ha), Dev.sameStores_of rfl rfl rfl⟩

/-- Settles O10: each command takes the branch of its master and of the state it finds. -/
theorem recipeCommandsLoadAndLock : Obligations.RecipeCommandsLoadAndLock := by
  unfold Obligations.RecipeCommandsLoadAndLock
  refine ⟨fun pe l s hs h => ?_, fun s hs h => ⟨fun hf => ?_, fun hf => ?_, ?_⟩, fun s hs h => ⟨fun ha => ?_, fun ha => ?_, ?_⟩,
    fun m pe l how s hs hm => ?_⟩
  · intro n
    refine ⟨fun hf hp => runs_ranFrom rfl hs ?_, fun hf => runs_ranFrom rfl hs ?_⟩
    · have effect : loadFromSrcEffect hostDriver pe l .ok s.dev = s.dev.startFetch ⟨pe, bytesAt l 0 n, n, .ok⟩ := by
        simp [loadFromSrcEffect, hf, hp, Dev.fetchEnd, n]
      rw [effect]
      exact Dev.startFetch_holds h hf
    · have busy : s.dev.recipe.fetch.isSome = true := Option.isSome_iff_ne_none.mpr hf
      exact (if_neg (by decide)).trans ((if_pos busy).trans (Dev.startFetch_busy hf))
  · obtain ⟨recipe, checking, regs, stores, -⟩ := Dev.startFetch_holds (x := ⟨false, s.dev.slotImage, imgSize s.dev.slotImage, .ok⟩) h hf
    exact runs_ranFrom rfl hs ⟨recipe, checking, regs, stores⟩
  · exact runs_ranFrom rfl hs (Dev.startFetch_busy hf)
  · exact runs_ranFrom rfl hs (Dev.recipeDiscard_empties h)
  · have effect : openLockEffect hostDriver s.dev = s.dev.setF Reg.RECIPE_STATUS F.RECIPE_STATUS_LOCK_OPEN 1 :=
      (if_neg (by decide)).trans (if_neg (by rw [ha]; exact Bool.false_ne_true))
    refine runs_ranFrom rfl hs ?_
    rw [effect]
    exact ⟨Dev.getF_setF_mod (v := 1) h, Dev.sameRegs_setF _ _ _ h, Dev.sameStores_setF⟩
  · exact runs_ranFrom rfl hs ((if_neg (by decide)).trans (if_pos ha))
  · have effect : closeLockEffect hostDriver s.dev = s.dev.setF Reg.RECIPE_STATUS F.RECIPE_STATUS_LOCK_OPEN 0 := if_neg (by decide)
    refine runs_ranFrom rfl hs ?_
    rw [effect]
    exact ⟨Dev.getF_setF_mod (v := 0) h, Dev.sameRegs_setF _ _ _ h, Dev.sameStores_setF⟩
  · have other : (m != hostDriver) = true := bne_iff_ne.mpr hm
    exact ⟨runs_ranFrom rfl hs (if_pos other), runs_ranFrom rfl hs (if_pos other), runs_ranFrom rfl hs (if_pos other),
      runs_ranFrom rfl hs (if_pos other), runs_ranFrom rfl hs (if_pos other)⟩

end Sys2Proof.Machine
end

section
/-! SUPPORT. The recipe check: a fetched image is staged or rejected (R70, R71). -/
namespace Sys2Proof.Machine

-- One proof after another: with many at once their threads' stacks exceed the memory that the check allows.
set_option Elab.async false

variable {d : Dev}

/-- A pulse output is set up in the clock's state, or told by an event. -/
theorem Dev.startPulse_eq (d : Dev) (k : Nat) : ∃ x y, d.startPulse k = { d with time := x, ev := y } := by
  unfold Dev.startPulse
  extract_lets
  split
  · exact ⟨_, _, rfl⟩
  · split
    · exact ⟨_, _, rfl⟩
    · exact ⟨_, _, rfl⟩
theorem Dev.startPulse_recipe (k : Nat) : (d.startPulse k).recipe = d.recipe := by
  obtain ⟨x, y, he⟩ := d.startPulse_eq k
  rw [he]

/-- Loading the time section writes registers and starts pulses; the recipe's own state is not touched. -/
theorem Dev.loadTime_recipe (l : Bytes) : (d.loadTime l).recipe = d.recipe := by
  unfold Dev.loadTime
  refine (foldl_keeps Dev.recipe (fun d _ => Dev.setFs_recipe ..) _ _).trans
    ((foldl_keeps Dev.recipe (fun d k => ?_) _ _).trans (foldl_keeps Dev.recipe (fun d _ => Dev.setF_recipe ..) _ _))
  dsimp only
  split <;> simp [Dev.startPulse_recipe]

theorem Dev.stage_recipe (x : StagedImage) : (d.stage x).recipe = { d.recipe with staged := d.recipe.staged ++ [x] } := by
  unfold Dev.stage
  dsimp only
  split
  · simp [Dev.showStaged, Dev.recipeEvent]
  · rw [Dev.loadTime_recipe]
    simp [Dev.showStaged, Dev.recipeEvent]

/-- The state in which a fetched image is judged. -/
def Dev.fetched (d : Dev) : Dev := (d.setF Reg.RECIPE_STATUS F.RECIPE_STATUS_CHECKING 0).modRecipe fun r => { r with fetch := none }

/-- A rejection shows its reason and raises an event. -/
theorem Dev.rejected_keeps {reason object detail code : Nat} (h : d.canon) :
    let e := (d.fetched.setF Reg.RECIPE_STATUS F.RECIPE_STATUS_LAST_REASON reason).recipeEvent code object detail
    e.getF Reg.RECIPE_STATUS F.RECIPE_STATUS_LAST_REASON = reason % 2 ^ 8 ∧ e.cfg = d.cfg ∧ e.effDigest = d.effDigest ∧
    e.recipe = { d.recipe with fetch := none } ∧ d.sameRegs e (· = Reg.RECIPE_STATUS) ∧ d.sameStores e := by
  intro e
  have hf : d.fetched.canon := h.setF.modRecipe
  have fetched : d.sameRegs d.fetched (· = Reg.RECIPE_STATUS) := Dev.sameRegs_setF _ F.RECIPE_STATUS_CHECKING 0 h
  have shown : d.fetched.sameRegs (d.fetched.setF Reg.RECIPE_STATUS F.RECIPE_STATUS_LAST_REASON reason) (· = Reg.RECIPE_STATUS) := Dev.sameRegs_setF _ _ _ hf
  have regs : d.sameRegs e (· = Reg.RECIPE_STATUS) := fun a ha => (shown a ha).trans (fetched a ha)
  have last : (d.fetched.setF Reg.RECIPE_STATUS F.RECIPE_STATUS_LAST_REASON reason).getF Reg.RECIPE_STATUS F.RECIPE_STATUS_LAST_REASON = reason % 2 ^ 8 :=
    Dev.getF_setF_mod hf
  have digest : e.effDigest = d.effDigest := by
    refine List.flatMap_congr fun w _ => ?_
    rw [regs _ ?_]
    simp only [Reg.RECIPE_EFF_DIGEST, Reg.RECIPE_STATUS]
    omega
  exact ⟨last, rfl, digest, rfl, regs, Dev.sameStores_of rfl rfl rfl⟩

/-- Settles O11: by the three ends of the check. -/
theorem rejectedImagesChangeNoConfiguration : Obligations.RejectedImagesChangeNoConfiguration := by
  unfold Obligations.RejectedImagesChangeNoConfiguration
  intro f s hs h hf act d kept
  have tick : d.reg Reg.RECIPE_ACT_TICK = s.dev.reg Reg.RECIPE_ACT_TICK :=
    Dev.sameRegs_setF Reg.RECIPE_STATUS F.RECIPE_STATUS_CHECKING 0 h Reg.RECIPE_ACT_TICK (by decide)
  have effect : recipeCheckEffect s.dev = if f.how != .ok then d.rejectUnread 1 else
      match d.fetchFault f act with
      | some r => d.rejectImage f.image r
      | none => d.stage ⟨f.image, act, f.persist, [], false⟩ := by
    have hact : (if imgAct f.image == 0 then (d.reg Reg.RECIPE_ACT_TICK).toNat else imgAct f.image) = act := by
      simp only [tick, beq_iff_eq, act]
    simp only [recipeCheckEffect, hf]
    rw [← hact] <;> rfl
  refine ⟨fun hw => runs_ran rfl hs ?_, fun r hw hr => runs_ran rfl hs ?_, fun hw hr => runs_ran rfl hs ?_⟩ <;> rw [effect]
  · rw [if_pos (bne_iff_ne.mpr hw)]
    exact Dev.rejected_keeps h
  · rw [if_neg (by simp [hw]), hr]
    exact Dev.rejected_keeps h
  · rw [if_neg (by simp [hw]), hr]
    have recipe := d.stage_recipe ⟨f.image, act, f.persist, [], false⟩
    exact ⟨rfl, congrArg RecipeState.fetch recipe, congrArg RecipeState.staged recipe⟩

end Sys2Proof.Machine
end

section
/-! SUPPORT. Issue: what a Knead core's sequencer does when an instruction issues (R146, R147). -/
namespace Sys2Proof.Machine

-- One proof after another: with many at once their threads' stacks exceed the memory that the check allows.
set_option Elab.async false

variable {d e : Dev} {t : Tile} {k : KCore} {o : KOp} {f : KFields} {codes : Bool} {pre : LoafHdr → Option Nat}
  {body : Dev → LoafHdr → Issued} {h : LoafHdr} {n : Nat}

/-! ## Time passes for a core -/

/-- The device n kc later, with LOCAL of a core brought up to date. -/
def Dev.passed (d : Dev) (t k n : Nat) : Dev := (d.advance n).syncLocal t k

theorem coreStatus_not_lagReg : ¬ lagReg (Reg.KNEAD_CORE_STATUS t k) := by
  rintro ⟨u, hu⟩
  simp only [Reg.KNEAD_CORE_STATUS, Reg.TICK_TILE_STATUS] at hu
  omega
theorem lagReg_ne_coreStatus : Reg.KNEAD_CORE_STATUS t k ≠ Reg.TICK_TILE_STATUS t := fun he => coreStatus_not_lagReg ⟨t, he⟩

theorem Dev.canon.passed (hd : d.canon) : (d.passed t k n).canon := hd.advance.syncLocal

theorem Dev.kn_passed (t' k' : Nat) : (d.passed t k n).kn t' k' = d.kn t' k' := by
  simp only [Dev.passed, Dev.syncLocal, Dev.kn, Dev.setF_knead, Dev.advance_knead]
theorem Dev.tile_passed : (d.passed t k n).tile t = (d.advance n).tile t := by
  simp only [Dev.passed, Dev.syncLocal, Dev.tile, Dev.setF_tiles]
theorem Dev.lk_passed (hd : d.canon) (hp : d.paused t = false) : ((d.passed t k n).tile t).lk = (d.tile t).lk + n := by
  rw [Dev.tile_passed, Dev.lk_advance _ t hd hp]
theorem Dev.paused_passed (hd : d.canon) : (d.passed t k n).paused t = d.paused t := by
  rw [← Dev.paused_advance n t hd]
  simp only [Dev.paused, Dev.getB]
  rw [Dev.passed, Dev.syncLocal, Dev.getF_setF_ne _ _ _ hd.advance lagReg_ne_coreStatus]
theorem Dev.kPc_passed (hd : d.canon) : (d.passed t k n).kPc t k = d.kPc t k :=
  (Dev.getF_setF_other (f := F.KNEAD_CORE_STATUS_LOCAL) (g := F.KNEAD_CORE_STATUS_PC) hd.advance).trans
    (Dev.getF_advance _ _ hd coreStatus_not_lagReg)
theorem Dev.sameRegs_passed (hd : d.canon) : d.sameRegs (d.passed t k n) fun a => a = Reg.KNEAD_CORE_STATUS t k ∨ lagReg a := by
  intro a ha
  rw [not_or] at ha
  exact (Dev.sameRegs_setF _ _ _ hd.advance a ha.1).trans (Dev.reg_advance _ hd ha.2)

theorem Dev.passed_mem : (d.passed t k n).mem = d.mem := by simp only [Dev.passed, Dev.syncLocal, Dev.setF_mem, Dev.advance_mem]
theorem Dev.passed_lineErr : (d.passed t k n).lineErr = d.lineErr := by simp only [Dev.passed, Dev.syncLocal, Dev.setF_lineErr, Dev.advance_lineErr]
theorem Dev.passed_written : (d.passed t k n).written = d.written := by simp only [Dev.passed, Dev.syncLocal, Dev.setF_written, Dev.advance_written]
theorem Dev.passed_ev : (d.passed t k n).ev = d.ev := by simp only [Dev.passed, Dev.syncLocal, Dev.setF_ev, Dev.advance_ev]
theorem Dev.passed_ctrs : (d.passed t k n).ctrs = d.ctrs := by simp only [Dev.passed, Dev.syncLocal, Dev.setF_ctrs, Dev.advance_ctrs]

/-! ## The ends of an issue -/

/-- The device in the first kc in which an instruction may issue. -/
def Dev.atIssue (d : Dev) (t k : Nat) (o : KOp) (f : KFields) : Dev := d.passed t k ((d.kn t k).issueAt o f - (d.tile t).lk)

theorem Dev.lk_atIssue (hd : d.canon) (hp : d.paused t = false) :
    ((d.atIssue t k o f).tile t).lk = max (d.tile t).lk ((d.kn t k).issueAt o f) := by
  rw [Dev.atIssue, Dev.lk_passed hd hp]
  omega

/-- What an issue enters about the unit and the destination register. -/
def KOp.entered (o : KOp) (f : KFields) (lk : Nat) (c : KneadCore) : KneadCore :=
  { c with units := (match o.unit with | some u => insertAt c.units u (lk + o.occ) | none => c.units)
           ready := if o.dst then (o.use.d.key f.d).foldl (fun m r => insertAt m r (lk + o.lat)) c.ready else c.ready }

/-- Before the effect of an instruction come its loaf and its checks. -/
theorem Dev.kIssue_of_issues (hi : d.issues t k h) :
    d.kIssue t k o f codes pre body = match (wordCheck o.use o.dst f codes).orElse (fun _ => pre h) with
      | some r => d.seqFail t k o.op r
      | none => match body (d.atIssue t k o f) h with
        | .fail r => (d.atIssue t k o f).seqFail t k o.op r
        | .stay e => e
        | .done e => (e.modKn t k (o.entered f (e.tile t).lk)).kNext t k := by
  obtain ⟨loaf, ended, waiting, running⟩ := hi
  simp only [Dev.kIssue, loaf]
  rw [if_neg (by simp [ended, waiting, running])] <;> rfl

theorem Dev.kIssue_fails {r : Nat} (hi : d.issues t k h) (hw : wordCheck o.use o.dst f codes = some r) :
    d.kIssue t k o f codes pre body = d.seqFail t k o.op r := by
  rw [Dev.kIssue_of_issues hi, hw]
  rfl

theorem Dev.kIssue_done (hi : d.issues t k h) (hw : wordCheck o.use o.dst f codes = none) (hp : pre h = none)
    (hb : body (d.atIssue t k o f) h = .done e) :
    d.kIssue t k o f codes pre body = (e.modKn t k (o.entered f (e.tile t).lk)).kNext t k := by
  rw [Dev.kIssue_of_issues hi, hw]
  simp only [Option.orElse_none, hp, hb]

theorem Dev.kIssue_stay (hi : d.issues t k h) (hw : wordCheck o.use o.dst f codes = none) (hp : pre h = none)
    (hb : body (d.atIssue t k o f) h = .stay e) : d.kIssue t k o f codes pre body = e := by
  rw [Dev.kIssue_of_issues hi, hw]
  simp only [Option.orElse_none, hp, hb]

/-! ## The stream moves on -/

/-- The core as its stream moves on from instruction `pc` at local time `lk`. -/
def KneadCore.moved (pc lk : Nat) (c : KneadCore) : KneadCore :=
  { c with loops := (nextOf c.loops pc).2, waiting := false, nextAt := lk + 1 }

/-- What moving on from instruction `i` at local time `lk` makes of a core that was `c`, and of its status. -/
structure Dev.MovedOn (t : Tile) (k : KCore) (i : Nat) (c : KneadCore) (e e' : Dev) : Prop where
  kn : e'.kn t k = c.moved i (e.tile t).lk
  others : ∀ t' k', kKey t' k' ≠ kKey t k → e'.kn t' k' = e.kn t' k'
  pc : e'.kPc t k = (nextOf c.loops i).1 % 2 ^ 16
  regs : e.sameRegs e' (· = Reg.KNEAD_CORE_STATUS t k)
  tile : e'.tile t = e.tile t
  mem : e'.mem = e.mem
  lineErr : e'.lineErr = e.lineErr
  written : e'.written = e.written
  ev : e'.ev = e.ev
  ctrs : e'.ctrs = e.ctrs

/-- A stream that has ended, or does not run past its last instruction, goes on. -/
theorem Dev.kNextFrom_moves {i : Nat} (he : e.canon) (hl : (e.kn t k).loaf = some h)
    (hs : (nextOf (e.kn t k).loops i).1 < h.nInstr ∨ (e.kn t k).ended = true) : Dev.MovedOn t k i (e.kn t k) e (e.kNextFrom t k i) := by
  have moves : e.kNextFrom t k i = (e.modKn t k (KneadCore.moved i (e.tile t).lk)).setFs (Reg.KNEAD_CORE_STATUS t k)
      [(F.KNEAD_CORE_STATUS_STATE, 1), (F.KNEAD_CORE_STATUS_PC, (nextOf (e.kn t k).loops i).1)] := by
    simp only [Dev.kNextFrom, hl]
    exact if_pos (by simpa only [Bool.or_eq_true, decide_eq_true_eq] using hs)
  have hm : (e.modKn t k (KneadCore.moved i (e.tile t).lk)).canon := he.modKn
  rw [moves]
  constructor
  case kn =>
    rw [Dev.setFs_kn, Dev.modKn, Dev.kn_setKn _ _ _ _ he]
  case others =>
    intro t' k' hne
    rw [Dev.setFs_kn, Dev.modKn, Dev.kn_setKn_ne _ _ _ _ _ _ he hne.symm]
  case pc =>
    rw [Dev.kPc, Dev.getF, Dev.reg_setFs_self _ _ hm]
    exact fieldOf_putField _ _ _ (Nat.le_of_ble_eq_true rfl)
  case regs =>
    intro a ha
    rw [Dev.reg_setFs_ne _ hm (Ne.symm ha), Dev.modKn, Dev.setKn_reg]
  all_goals simp [Dev.modKn]

/-- What is left of an issue whose effect left `e`: the core's bookkeeping, and the stream's move. -/
theorem Dev.wentOn (he : e.canon) (hl : (e.kn t k).loaf = some h) (hs : e.streamOn t k h ∨ (e.kn t k).ended = true) :
    Dev.MovedOn t k (e.kPc t k) (o.entered f (e.tile t).lk (e.kn t k)) e ((e.modKn t k (o.entered f (e.tile t).lk)).kNext t k) := by
  let u := e.modKn t k (o.entered f (e.tile t).lk)
  have kn : u.kn t k = o.entered f (e.tile t).lk (e.kn t k) := Dev.kn_setKn _ _ _ _ he
  have pc : u.kPc t k = e.kPc t k := congrArg (fieldOf F.KNEAD_CORE_STATUS_PC) (Dev.setKn_reg ..)
  have tile : u.tile t = e.tile t := Dev.setKn_tile ..
  have moves : Dev.MovedOn t k (u.kPc t k) (u.kn t k) u (u.kNext t k) := Dev.kNextFrom_moves he.modKn (h := h) (by rw [kn]; exact hl) (by rw [kn, pc]; exact hs)
  rw [kn, pc] at moves
  obtain ⟨kn', others', pc', regs', tile', mem', err', wr', ev', ctrs'⟩ := moves
  exact ⟨kn'.trans (by rw [tile]), fun t' k' hne => (others' t' k' hne).trans (Dev.kn_setKn_ne _ _ _ _ _ _ he hne.symm), pc',
    fun a ha => (regs' a ha).trans (Dev.setKn_reg ..), tile'.trans tile, mem'.trans (Dev.setKn_mem ..), err'.trans (Dev.setKn_lineErr ..),
    wr'.trans (Dev.setKn_written ..), ev'.trans (Dev.setKn_ev ..), ctrs'.trans (Dev.setKn_ctrs ..)⟩

/-! ## An instruction whose effect is on its core -/

/-- `e` is `d` in the kc of issue with the core changed by `upd`. -/
structure Dev.Acted (t : Tile) (k : KCore) (o : KOp) (f : KFields) (upd : KneadCore → KneadCore) (d e : Dev) : Prop where
  canon : e.canon
  kn : e.kn t k = upd (d.kn t k)
  others : ∀ t' k', kKey t' k' ≠ kKey t k → e.kn t' k' = d.kn t' k'
  tile : e.tile t = (d.atIssue t k o f).tile t
  regs : e.regs = (d.atIssue t k o f).regs
  mem : e.mem = d.mem
  lineErr : e.lineErr = d.lineErr
  written : e.written = d.written
  ev : e.ev = d.ev
  ctrs : e.ctrs = d.ctrs

theorem Dev.acted_id (hd : d.canon) : Dev.Acted t k o f id d (d.atIssue t k o f) :=
  ⟨hd.passed, Dev.kn_passed .., fun _ _ _ => Dev.kn_passed .., rfl, rfl, Dev.passed_mem, Dev.passed_lineErr, Dev.passed_written, Dev.passed_ev, Dev.passed_ctrs⟩
theorem Dev.acted_modKn {upd : KneadCore → KneadCore} (hd : d.canon) : Dev.Acted t k o f upd d ((d.atIssue t k o f).modKn t k upd) where
  canon := hd.passed.modKn
  kn := (Dev.kn_setKn _ _ _ _ hd.passed).trans (congrArg upd (Dev.kn_passed t k))
  others _ _ hne := (Dev.kn_setKn_ne _ _ _ _ _ _ hd.passed hne.symm).trans (Dev.kn_passed ..)
  tile := Dev.setKn_tile ..
  regs := Dev.setKn_regs ..
  mem := (Dev.setKn_mem ..).trans Dev.passed_mem
  lineErr := (Dev.setKn_lineErr ..).trans Dev.passed_lineErr
  written := (Dev.setKn_written ..).trans Dev.passed_written
  ev := (Dev.setKn_ev ..).trans Dev.passed_ev
  ctrs := (Dev.setKn_ctrs ..).trans Dev.passed_ctrs
theorem Dev.Acted.reg {upd : KneadCore → KneadCore} (ha : Dev.Acted t k o f upd d e) : e.reg = (d.atIssue t k o f).reg := Dev.reg_of ha.regs
theorem Dev.Acted.kPc {upd : KneadCore → KneadCore} (ha : Dev.Acted t k o f upd d e) (hd : d.canon) : e.kPc t k = d.kPc t k := by
  rw [← Dev.kPc_passed hd, Dev.kPc, Dev.getF, ha.reg]
  rfl

/-- An instruction whose effect keeps the loaf and lets the stream go on is issued. -/
theorem Dev.Acted.issued {upd : KneadCore → KneadCore} (ha : Dev.Acted t k o f upd d e) (hd : d.canon) (hi : d.issues t k h)
    (hl : (upd (d.kn t k)).loaf = (d.kn t k).loaf) (hs : (nextOf (upd (d.kn t k)).loops (d.kPc t k)).1 < h.nInstr ∨ (upd (d.kn t k)).ended = true) :
    d.issued t k o f upd ((e.modKn t k (o.entered f (e.tile t).lk)).kNext t k) := by
  have pc := ha.kPc hd
  have went := Dev.wentOn (o := o) (f := f) ha.canon (by rw [ha.kn, hl]; exact hi.1) (by rw [Dev.streamOn, ha.kn, pc]; exact hs)
  have lk : (e.tile t).lk = max (d.tile t).lk ((d.kn t k).issueAt o f) := by rw [ha.tile]; exact Dev.lk_atIssue hd hi.2.2.2
  refine ⟨(congrArg TileState.lk went.tile).trans lk, ?_, ?_, ?_, fun t' k' hne => ?_, fun a hne => ?_, went.mem.trans ha.mem,
    went.lineErr.trans ha.lineErr, went.written.trans ha.written, went.ev.trans ha.ev, went.ctrs.trans ha.ctrs⟩
  · rw [went.kn, ha.kn]
    rfl
  · rw [went.pc, ha.kn, pc]
    rfl
  · rw [went.kn, went.tile]
    rfl
  · exact (went.others t' k' hne).trans (ha.others t' k' hne)
  · refine (went.regs a fun ha => hne (.inl ha)).trans ?_
    rw [← Dev.sameRegs_passed hd a hne]
    exact congrFun ha.reg a

/-- A vector instruction that passes its checks is issued with the change it makes of its core. -/
theorem runs_kVec {i : Instr} {s : State} {upd : KneadCore → KneadCore} (he : exec i s = ran s fun d => d.kVec t k o f codes upd) (hs : s.on)
    (hd : s.dev.canon) (hi : s.dev.issues t k h) (ho : s.dev.streamOn t k h)
    (hu : ∀ c, (upd c).loaf = c.loaf ∧ (upd c).loops = c.loops) (hw : wordCheck o.use o.dst f codes = none) :
    Runs i s (s.dev.issued t k o f upd) := by
  refine runs_ran he hs ?_
  rw [Dev.kVec, Dev.kIssue_done hi hw rfl rfl]
  exact (Dev.acted_modKn hd).issued hd hi (hu _).1 (.inl (by rw [(hu _).2]; exact ho))

end Sys2Proof.Machine
end

section
/-! SUPPORT. Vector instructions: each one's change of its core (Table 06.3, R150 to R152). -/
namespace Sys2Proof.Machine

-- One proof after another: with many at once their threads' stacks exceed the memory that the check allows.
set_option Elab.async false

variable {d e : Dev} {t : Tile} {k : KCore} {h : LoafHdr}

/-! ## Changes of a core -/

theorem KneadCore.put_keeps (c : KneadCore) (r : BitVec 5) (m : BitVec 3) (new : List (BitVec 32)) (en : BitVec 256) :
    (c.put r m new en).loaf = c.loaf ∧ (c.put r m new en).loops = c.loops := ⟨rfl, rfl⟩
theorem KneadCore.wv_keeps (c : KneadCore) (r : BitVec 5) (mk : BitVec 256) (new : List (BitVec 32)) (en : BitVec 256) :
    (c.wv r mk new en).loaf = c.loaf ∧ (c.wv r mk new en).loops = c.loops := ⟨rfl, rfl⟩
theorem KneadCore.wm_keeps (c : KneadCore) (r : Nat) (mk new : BitVec 256) : (c.wm r mk new).loaf = c.loaf ∧ (c.wm r mk new).loops = c.loops := by
  unfold KneadCore.wm
  split <;> exact ⟨rfl, rfl⟩

/-! ## VCVT -/

def vcvtOp : KOp := alu 0x3A ⟨.v, .v, .code, .code, true, 0⟩

/-- Lanes do not depend on their marks, nor on what moving on enters about the core. -/
theorem KneadCore.rv_of_v {c c' : KneadCore} (hv : c.v = c'.v) (r : BitVec 5) : c.rv r = c'.rv r := by
  rw [KneadCore.rv, KneadCore.rv, hv]
theorem KneadCore.wv_v (c : KneadCore) (r : BitVec 5) (mk : BitVec 256) (new : List (BitVec 32)) (i j : BitVec 256) :
    (c.wv r mk new i).v = (c.wv r mk new j).v := rfl
theorem KneadCore.moved_entered_v (c : KneadCore) (o : KOp) (f : KFields) (pc lk lk' : Nat) : ((o.entered f lk c).moved pc lk').v = c.v := rfl

/-- Counting saturations writes their counter and may raise an event. -/
theorem Dev.kCount_quiet {n : Nat} : Dev.Quiet (· = Reg.KNEAD_SATURATE_COUNT t k) d (d.kCount t k .saturate n) := by
  have hq : Dev.Quiet (· = Reg.KNEAD_SATURATE_COUNT t k) d (d.count (Reg.KNEAD_SATURATE_COUNT t k) F.KNEAD_SATURATE_COUNT_COUNT n) := Dev.Quiet.refl.count rfl
  exact hq.raise.ite hq

theorem Dev.kCount_kn {n : Nat} : (d.kCount t k .saturate n).kn t k = d.kn t k := Dev.kCount_quiet.kn t k

/-- VCVT writes the converted lanes, marks aside, and counts its saturations (R543). -/
theorem vcvt_done {f : KFields} (hi : d.issues t k h)
    (hw : wordCheck ⟨.v, .v, .code, .code, true, 0⟩ true f (decide (f.b.toNat ≤ 4) && decide (f.c.toNat ≤ 4)) = none) :
    ∃ inp n, let e := ((d.atIssue t k vcvtOp f).setKn t k ((d.kn t k).wv f.d ((d.kn t k).rm f.m.toNat)
        (((d.kn t k).rv f.a).map fun x => (cvtLane f.b.toNat f.c.toNat x).1) inp)).kCount t k .saturate n
      vcvtEffect t k f d = (e.modKn t k (vcvtOp.entered f (e.tile t).lk)).kNext t k := by
  have effect : vcvtEffect t k f d = _ := Dev.kIssue_done (o := vcvtOp) hi hw rfl rfl
  rw [effect]
  simp only [Dev.atIssue, Dev.kn_passed, List.map_map]
  by_cases hc : f.c.toNat ≤ 2
  · simp only [hc, if_true]
    exact ⟨_, _, rfl⟩
  · simp only [hc, if_false]
    exact ⟨_, _, rfl⟩

/-- A core set in the kc of issue, with saturations counted: the core, its PC and tile, and what else is written. -/
theorem Dev.counted_facts {o : KOp} {f : KFields} {c : KneadCore} {n : Nat} (hd : d.canon) :
    let e := ((d.atIssue t k o f).setKn t k c).kCount t k .saturate n
    e.canon ∧ e.kn t k = c ∧ e.tile t = (d.atIssue t k o f).tile t ∧ e.kPc t k = d.kPc t k ∧ e.mem = d.mem ∧
    d.sameRegs e (fun a => a = Reg.KNEAD_CORE_STATUS t k ∨ a = Reg.KNEAD_SATURATE_COUNT t k ∨ lagReg a) := by
  intro e
  have ha : (d.atIssue t k o f).canon := hd.passed
  have quiet : Dev.Quiet (· = Reg.KNEAD_SATURATE_COUNT t k) ((d.atIssue t k o f).setKn t k c) e := Dev.kCount_quiet
  have other : Reg.KNEAD_CORE_STATUS t k ≠ Reg.KNEAD_SATURATE_COUNT t k := by
    simp only [Reg.KNEAD_CORE_STATUS, Reg.KNEAD_SATURATE_COUNT]
    omega
  have mem : e.mem = d.mem := quiet.mem.trans ((Dev.setKn_mem ..).trans Dev.passed_mem)
  have pc : (d.atIssue t k o f).kPc t k = d.kPc t k := Dev.kPc_passed hd
  have regs : d.sameRegs (d.atIssue t k o f) fun a => a = Reg.KNEAD_CORE_STATUS t k ∨ lagReg a := Dev.sameRegs_passed hd
  refine ⟨ha.setKn.kCount, Dev.kCount_kn.trans (Dev.kn_setKn _ _ _ _ ha), (quiet.tile t).trans (Dev.setKn_tile ..), ?_, mem, fun a hne => ?_⟩
  · rw [← pc, Dev.kPc, Dev.getF, quiet.regs ha.setKn _ other, Dev.setKn_reg]
    rfl
  · simp only [not_or] at hne
    rw [← regs a (not_or.mpr ⟨hne.1, hne.2.2⟩), quiet.regs ha.setKn a hne.2.1, Dev.setKn_reg]

/-- Settles O14: the issue of an instruction whose effect is on its core, and VCVT's with its counter. -/
theorem vectorInstructionsWriteTheirLanes : Obligations.VectorInstructionsWriteTheirLanes := by
  unfold Obligations.VectorInstructionsWriteTheirLanes
  intro t k f h s hs hd hi ho does lanes each
  have put {i : Instr} {o : KOp} {new : KneadCore → List (BitVec 32)} {en : KneadCore → BitVec 256}
      (he : exec i s = ran s fun d => d.kVec t k o f true fun c => c.put f.d f.m (new c) (en c)) : does i o fun c => c.put f.d f.m (new c) (en c) :=
    runs_kVec he hs hd hi ho fun _ => KneadCore.put_keeps ..
  refine ⟨put rfl, put rfl, put rfl, put rfl, put rfl, put rfl, runs_kVec rfl hs hd hi ho fun _ => KneadCore.wm_keeps .., put rfl, put rfl, put rfl, ⟨_, put rfl⟩,
    put rfl, put rfl, put rfl, put rfl, put rfl, put rfl, fun hw => runs_ran rfl hs ?_⟩
  obtain ⟨inp, n, effect⟩ := vcvt_done hi hw
  rw [effect]
  obtain ⟨hc, kn, tile, pc, mem, regs⟩ := Dev.counted_facts (o := vcvtOp) (f := f) (t := t) (k := k) (n := n)
    (c := (s.dev.kn t k).wv f.d ((s.dev.kn t k).rm f.m.toNat) (((s.dev.kn t k).rv f.a).map fun x => (cvtLane f.b.toNat f.c.toNat x).1) inp) hd
  generalize (((s.dev.atIssue t k vcvtOp f).setKn t k _).kCount t k .saturate n) = e at *
  have on := ho
  rw [Dev.streamOn, ← pc] at on
  have went := Dev.wentOn (o := vcvtOp) (f := f) hc (by rw [kn, (KneadCore.wv_keeps ..).1]; exact hi.1) (.inl (by rw [Dev.streamOn, kn, (KneadCore.wv_keeps ..).2]; exact on))
  refine ⟨?_, KneadCore.rv_of_v ?_ _, went.mem.trans mem, fun a hne => ?_⟩
  · rw [went.tile, tile]
    exact Dev.lk_atIssue hd hi.2.2.2
  · rw [went.kn, kn, KneadCore.moved_entered_v]
    exact KneadCore.wv_v ..
  · exact (went.regs a fun ha => hne (.inl ha)).trans (regs a hne)

end Sys2Proof.Machine
end

section
/-! SUPPORT. Control instructions of a Knead core (Table 06.3, R147, R149, R155). -/
namespace Sys2Proof.Machine

-- One proof after another: with many at once their threads' stacks exceed the memory that the check allows.
set_option Elab.async false

variable {d e : Dev} {t : Tile} {k : KCore} {f : KFields} {o : KOp} {h : LoafHdr}

theorem KneadCore.wx_keeps (c : KneadCore) (r : BitVec 5) (v : BitVec 64) : (c.wx r v).loaf = c.loaf ∧ (c.wx r v).loops = c.loops := by
  unfold KneadCore.wx
  split <;> exact ⟨rfl, rfl⟩

/-- A body that keeps R149 has an instruction behind its first. -/
theorem loopBad_false {n pc body : Nat} {loops : List LoopFrame} (hb : loopBad n pc body loops = false) : body ≠ 0 ∧ pc + body < n := by
  simp only [loopBad, Bool.or_eq_false_iff, beq_eq_false_iff_ne, decide_eq_false_iff_not] at hb
  obtain ⟨⟨⟨⟨hbody, -⟩, hend⟩, -⟩, -⟩ := hb
  omega

/-- The first instruction of a loop's body follows the LOOP. -/
theorem nextOf_entered {pc body n : Nat} {r : List LoopFrame} (hb : body ≠ 0) :
    nextOf (⟨pc + 1, pc + body, n⟩ :: r) pc = (pc + 1, ⟨pc + 1, pc + body, n⟩ :: r) :=
  if_neg (by simpa using hb)

/-- A stream's end is no next instruction. -/
theorem nextOf_nil (i : Nat) : nextOf [] i = (i + 1, []) := rfl

/-- SHAPE, and what it makes of a core at local time `lk`. -/
def shapeOp : KOp := ⟨0x1C, ⟨.none, .x, .x, .none, false, 3⟩, true, none, 1, 1, false⟩
def KneadCore.shaped (f : KFields) (lk : Nat) (c : KneadCore) : KneadCore :=
  { c with shapeW := f.imm.toNat % 4, shapeE := c.rx f.a, shapeS := c.rx f.b, ready := insertAt c.ready 80 (lk + 1) }

theorem KneadCore.shaped_keeps (lk : Nat) (c : KneadCore) : (c.shaped f lk).loaf = c.loaf ∧ (c.shaped f lk).loops = c.loops := ⟨rfl, rfl⟩
theorem KneadCore.shaped_parts (lk : Nat) (c : KneadCore) : (c.shaped f lk).shapeW = f.imm.toNat % 4 ∧ (c.shaped f lk).shapeE = c.rx f.a ∧
    (c.shaped f lk).shapeS = c.rx f.b ∧ (c.shaped f lk).x = c.x ∧ (c.shaped f lk).v = c.v ∧ (c.shaped f lk).m = c.m := ⟨rfl, rfl, rfl, rfl, rfl, rfl⟩
theorem shape_issues (hi : d.issues t k h) (hw : wordCheck ⟨.none, .x, .x, .none, false, 3⟩ true f true = none) :
    let e := (d.atIssue t k shapeOp f).modKn t k (KneadCore.shaped f ((d.atIssue t k shapeOp f).tile t).lk)
    shapeEffect t k f d = (e.modKn t k (shapeOp.entered f (e.tile t).lk)).kNext t k := Dev.kIssue_done (o := shapeOp) hi hw rfl rfl

/-! ## What an issued instruction leaves, read off the core it made -/

/-- The stream of a core that was acted on moves on from its instruction. -/
theorem Dev.Acted.movedOn {upd : KneadCore → KneadCore} (ha : Dev.Acted t k o f upd d e) (hd : d.canon) (hi : d.issues t k h)
    (hl : (upd (d.kn t k)).loaf = (d.kn t k).loaf) (hs : (nextOf (upd (d.kn t k)).loops (d.kPc t k)).1 < h.nInstr ∨ (upd (d.kn t k)).ended = true) :
    Dev.MovedOn t k (d.kPc t k) (o.entered f (e.tile t).lk (upd (d.kn t k))) e ((e.modKn t k (o.entered f (e.tile t).lk)).kNext t k) := by
  have went := Dev.wentOn (o := o) (f := f) ha.canon (by rw [ha.kn, hl]; exact hi.1) (by rw [Dev.streamOn, ha.kn, ha.kPc hd]; exact hs)
  rwa [ha.kn, ha.kPc hd] at went

/-- LOOP, and what one with a count makes of a core at instruction `pc`. -/
def loopOp : KOp := ctl 0x03 .none .none .none immAll
def KneadCore.looped (pc : Nat) (f : KFields) (c : KneadCore) : KneadCore :=
  { c with loops := ⟨pc + 1, pc + f.imm.toNat / 65536, f.imm.toNat % 65536⟩ :: c.loops }
theorem KneadCore.looped_loaf (pc : Nat) (c : KneadCore) : (c.looped pc f).loaf = c.loaf := rfl
theorem KneadCore.looped_loops (pc : Nat) (c : KneadCore) :
    (c.looped pc f).loops = ⟨pc + 1, pc + f.imm.toNat / 65536, f.imm.toNat % 65536⟩ :: c.loops := rfl
theorem KOp.entered_loops (lk : Nat) (c : KneadCore) : (o.entered f lk c).loops = c.loops := rfl
theorem KneadCore.moved_entered_loops (pc lk lk' : Nat) (c : KneadCore) : ((o.entered f lk c).moved pc lk').loops = (nextOf c.loops pc).2 := rfl

theorem loop_issues (hi : d.issues t k h) (hw : wordCheck loopOp.use true f true = none)
    (hb : loopBad h.nInstr (d.kPc t k) (f.imm.toNat / 65536) (d.kn t k).loops = false) (hn : f.imm.toNat % 65536 ≠ 0) :
    let e := (d.atIssue t k loopOp f).modKn t k (KneadCore.looped (d.kPc t k) f)
    loopEffect t k f d = (e.modKn t k (loopOp.entered f (e.tile t).lk)).kNext t k := by
  have pass : (if loopBad h.nInstr (d.kPc t k) (f.imm.toNat / 65536) (d.kn t k).loops then some 6 else none : Option Nat) = none := by simp [hb]
  have counted : ¬ (f.imm.toNat % 65536 == 0) = true := by simpa using hn
  unfold loopEffect
  exact Dev.kIssue_done (o := loopOp) hi hw pass (if_neg counted)

/-! ## LOOP, END, WAITAT and SIGNAL -/

theorem Dev.unitSignal_eq (d : Dev) (t c n sl : Nat) (u : BitVec 16) (own : Bool) :
    ∃ x : SigEv, d.unitSignal t c n sl u own = { d with ctrs := { d.ctrs with sigs := d.ctrs.sigs ++ [x] } } ∧
      (c < 1008 → x.tile = t ∧ x.ctr = c ∧ x.amount = n) := by
  unfold Dev.unitSignal
  split
  · next hc =>
    refine ⟨_, rfl, fun hlt => ?_⟩
    rw [Bool.and_eq_true, decide_eq_true_eq] at hc
    omega
  · exact ⟨_, rfl, fun _ => ⟨rfl, rfl, rfl⟩⟩

theorem loop_skips (hi : d.issues t k h) (hw : wordCheck loopOp.use true f true = none)
    (hb : loopBad h.nInstr (d.kPc t k) (f.imm.toNat / 65536) (d.kn t k).loops = false) (hn : f.imm.toNat % 65536 = 0) :
    loopEffect t k f d = (d.atIssue t k loopOp f).kNextFrom t k (d.kPc t k + f.imm.toNat / 65536) := by
  have pass : (if loopBad h.nInstr (d.kPc t k) (f.imm.toNat / 65536) (d.kn t k).loops then some 6 else none : Option Nat) = none := by simp [hb]
  have skipped : (f.imm.toNat % 65536 == 0) = true := by simpa using hn
  unfold loopEffect
  exact Dev.kIssue_stay (o := loopOp) hi hw pass (if_pos skipped)

/-- END, and what it makes of a core whose last pass does not end CHAIN. -/
def endOp : KOp := ctl 0x01 .none .none .none 0
def KneadCore.atEnd (c : KneadCore) : KneadCore := { c with ended := true }
theorem KneadCore.atEnd_parts (c : KneadCore) : c.atEnd.loaf = c.loaf ∧ c.atEnd.ended = true := ⟨rfl, rfl⟩
theorem KneadCore.moved_entered_ends (pc lk lk' : Nat) (c : KneadCore) :
    ((o.entered f lk c).moved pc lk').ended = c.ended ∧ ((o.entered f lk c).moved pc lk').loaf = c.loaf ∧ ((o.entered f lk c).moved pc lk').x = c.x ∧
    ((o.entered f lk c).moved pc lk').start = c.start := ⟨rfl, rfl, rfl, rfl⟩

theorem end_issues (hi : d.issues t k h) (hw : wordCheck endOp.use true f true = none) (hp : ∀ j, (d.kn t k).lastPass = some j → j.desc.fin ≠ 1) :
    let e := (d.atIssue t k endOp f).modKn t k KneadCore.atEnd
    endEffect t k f d = (e.modKn t k (endOp.entered f (e.tile t).lk)).kNext t k := by
  refine Dev.kIssue_done (o := endOp) hi hw rfl ?_
  rw [Dev.atIssue, Dev.kn_passed]
  split
  · next j hj => exact if_neg (by simpa using hp j hj)
  · rfl

def waitatOp : KOp := ctl 0x02 .none .none .none immAll

theorem waitat_issues (hi : d.issues t k h) (hw : wordCheck waitatOp.use true f true = none) :
    let u := d.atIssue t k waitatOp f
    let e := u.passed t k (f.imm.toNat - u.kLocal t k)
    waitatEffect t k f d = (e.modKn t k (waitatOp.entered f (e.tile t).lk)).kNext t k := Dev.kIssue_done (o := waitatOp) hi hw rfl rfl

def signalOp : KOp := ctl 0x18 .none .none .none 0xFFFF03FF

theorem signal_issues (hi : d.issues t k h) (hw : wordCheck signalOp.use true f true = none)
    (hc : d.ctrAllowed t (d.kn t k).ctx (f.imm.toNat % 1024) = true) :
    let e := (d.atIssue t k signalOp f).kSignal t k (f.imm.toNat % 1024) (f.imm.toNat / 65536)
    signalEffect t k f d = (e.modKn t k (signalOp.entered f (e.tile t).lk)).kNext t k := by
  have pass : (if d.ctrAllowed t (d.kn t k).ctx (f.imm.toNat % 1024) then none else some 4 : Option Nat) = none := if_pos hc
  unfold signalEffect
  exact Dev.kIssue_done (o := signalOp) hi hw pass rfl

/-- What a core's signal puts on its way, and what it leaves. -/
theorem Dev.kSignal_sends (u : Dev) (c n : Nat) : ∃ x : SigEv, (u.kSignal t k c n).ctrs.sigs = u.ctrs.sigs ++ [x] ∧
    (u.kSignal t k c n).ctrs.waits = u.ctrs.waits ∧ (u.kSignal t k c n).mem = u.mem ∧ (u.kSignal t k c n).kn t k = u.kn t k ∧
    (u.kSignal t k c n).kPc t k = u.kPc t k ∧ (c < 1008 → x.tile = t ∧ x.ctr = c ∧ x.amount = n) := by
  obtain ⟨x, sent, known⟩ := u.unitSignal_eq t c n (u.kn t k).ctx.slice (kneadUnit t k) (decide (48 * k.val ≤ c) && decide (c < 48 * k.val + 48))
  rw [Dev.kSignal, sent]
  exact ⟨x, rfl, rfl, rfl, rfl, rfl, known⟩

/-- Settles O15: by what each instruction's effect makes of the core before the stream moves on. -/
theorem controlInstructionsMoveTheStream : Obligations.ControlInstructionsMoveTheStream := by
  unfold Obligations.ControlInstructionsMoveTheStream
  intro t k f h s hs hd hi
  refine ⟨fun ho hw => runs_ran rfl hs ?_, fun ho hw => runs_ran rfl hs ?_, fun ho hw => runs_ran rfl hs ?_, fun ho hw => runs_ran rfl hs ?_,
    fun ho hw hb hn => runs_ran rfl hs ?_, fun hw hl hb hn => runs_ran rfl hs ?_, fun hw hp => runs_ran rfl hs ?_,
    fun ho hw => runs_ran rfl hs ?_, fun ho hw hc => runs_ran rfl hs ?_⟩
  · rw [nopEffect, Dev.kIssue_done hi hw rfl rfl]
    exact (Dev.acted_id hd).issued hd hi rfl (.inl ho)
  · rw [sliEffect, Dev.kIssue_done hi hw rfl rfl]
    exact (Dev.acted_modKn (o := ctl 0x04 .x .none .none immAll) (f := f) (upd := fun c => c.wx f.d (f.imm.setWidth 64)) hd).issued hd hi (KneadCore.wx_keeps ..).1 (.inl (by rw [(KneadCore.wx_keeps ..).2]; exact ho))
  · rw [saddiEffect, Dev.kIssue_done hi hw rfl rfl]
    exact (Dev.acted_modKn (o := ctl 0x05 .x .x .none immAll) (f := f) (upd := fun c => c.wx f.d (c.rx f.a + f.imm.signExtend 64)) hd).issued hd hi (KneadCore.wx_keeps ..).1 (.inl (by rw [(KneadCore.wx_keeps ..).2]; exact ho))
  · obtain ⟨-, core, -, -, -, -, mem, -⟩ :=
      (Dev.acted_modKn (o := shapeOp) (f := f) (upd := KneadCore.shaped f ((s.dev.atIssue t k shapeOp f).tile t).lk) hd).issued hd hi
        (KneadCore.shaped_keeps ..).1 (.inl (by rw [(KneadCore.shaped_keeps ..).2]; exact ho))
    rw [shape_issues hi hw]
    obtain ⟨sw, se, ss, x, v, m⟩ := KneadCore.shaped_parts (f := f) ((s.dev.atIssue t k shapeOp f).tile t).lk (s.dev.kn t k)
    exact ⟨(congrArg KneadCore.shapeW core).trans sw, (congrArg KneadCore.shapeE core).trans se, (congrArg KneadCore.shapeS core).trans ss,
      (congrArg KneadCore.x core).trans x, (congrArg KneadCore.v core).trans v, (congrArg KneadCore.m core).trans m, mem⟩
  · obtain ⟨hbody, hend⟩ := loopBad_false hb
    have acted : Dev.Acted t k loopOp f (KneadCore.looped (s.dev.kPc t k) f) s.dev _ := Dev.acted_modKn hd
    have went := acted.movedOn hd hi (KneadCore.looped_loaf ..) (.inl (by rw [KneadCore.looped_loops, nextOf_entered hbody]; dsimp only; omega))
    rw [loop_issues hi hw hb hn]
    refine ⟨?_, ?_, went.mem.trans acted.mem⟩
    · rw [went.kn, KneadCore.moved_entered_loops, KneadCore.looped_loops, nextOf_entered hbody]
    · rw [went.pc, KOp.entered_loops, KneadCore.looped_loops, nextOf_entered hbody]
  · intro hend
    have canon : (s.dev.atIssue t k loopOp f).canon := hd.passed
    have kn : (s.dev.atIssue t k loopOp f).kn t k = s.dev.kn t k := Dev.kn_passed ..
    have went := Dev.kNextFrom_moves (h := h) (t := t) (k := k) (i := s.dev.kPc t k + f.imm.toNat / 65536) canon
      (by rw [kn]; exact hi.1) (by rw [kn, hl, nextOf_nil]; exact .inl hend)
    rw [loop_skips hi hw (by rw [hl]; exact hb) hn]
    refine ⟨?_, ?_, went.mem.trans Dev.passed_mem⟩
    · rw [went.kn, kn, KneadCore.moved, hl, nextOf_nil]
    · rw [went.pc, kn, hl, nextOf_nil]
  · have acted : Dev.Acted t k endOp f KneadCore.atEnd s.dev _ := Dev.acted_modKn hd
    obtain ⟨loaf, ended⟩ := KneadCore.atEnd_parts (s.dev.kn t k)
    have went := acted.movedOn hd hi loaf (.inr ended)
    obtain ⟨ended', loaf', -⟩ := KneadCore.moved_entered_ends (o := endOp) (f := f) (s.dev.kPc t k)
      ((((s.dev.atIssue t k endOp f).modKn t k KneadCore.atEnd).tile t).lk) ((((s.dev.atIssue t k endOp f).modKn t k KneadCore.atEnd).tile t).lk) (s.dev.kn t k).atEnd
    rw [end_issues hi hw hp]
    exact ⟨(congrArg KneadCore.ended went.kn).trans (ended'.trans ended), (congrArg KneadCore.loaf went.kn).trans (loaf'.trans (loaf.trans hi.1)),
      went.mem.trans acted.mem, went.ev.trans acted.ev⟩
  · intro hstart
    have hu : (s.dev.atIssue t k waitatOp f).canon := hd.passed
    have hp : (s.dev.atIssue t k waitatOp f).paused t = false := (Dev.paused_passed hd).trans hi.2.2.2
    have knu : (s.dev.atIssue t k waitatOp f).kn t k = s.dev.kn t k := Dev.kn_passed ..
    have pcu : (s.dev.atIssue t k waitatOp f).kPc t k = s.dev.kPc t k := Dev.kPc_passed hd
    have lku := Dev.lk_atIssue (k := k) (o := waitatOp) (f := f) hd hi.2.2.2
    have memu : (s.dev.atIssue t k waitatOp f).mem = s.dev.mem := Dev.passed_mem
    rw [waitat_issues hi hw]
    generalize s.dev.atIssue t k waitatOp f = u at *
    have kn : (u.passed t k (f.imm.toNat - u.kLocal t k)).kn t k = s.dev.kn t k := (Dev.kn_passed ..).trans knu
    have pc : (u.passed t k (f.imm.toNat - u.kLocal t k)).kPc t k = s.dev.kPc t k := (Dev.kPc_passed hu).trans pcu
    have lk : ((u.passed t k (f.imm.toNat - u.kLocal t k)).tile t).lk = _ := Dev.lk_passed hu hp
    have went := Dev.wentOn (o := waitatOp) (f := f) (h := h) (hu.passed (n := f.imm.toNat - u.kLocal t k)) (by rw [kn]; exact hi.1)
      (.inl (by rw [Dev.streamOn, kn, pc]; exact ho))
    obtain ⟨-, -, x, start⟩ := KneadCore.moved_entered_ends (o := waitatOp) (f := f) (s.dev.kPc t k)
      ((u.passed t k (f.imm.toNat - u.kLocal t k)).tile t).lk ((u.passed t k (f.imm.toNat - u.kLocal t k)).tile t).lk (s.dev.kn t k)
    have core := went.kn
    rw [kn, pc] at core
    refine ⟨?_, went.mem.trans (Dev.passed_mem.trans memu), (congrArg KneadCore.x core).trans x⟩
    have st := (congrArg KneadCore.start core).trans start
    rw [Dev.kLocal, st, went.tile, lk, lku, Dev.kLocal, knu, lku]
    omega
  · rw [signal_issues hi hw hc]
    have kn : (s.dev.atIssue t k signalOp f).kn t k = s.dev.kn t k := Dev.kn_passed ..
    have ctrs : (s.dev.atIssue t k signalOp f).ctrs = s.dev.ctrs := Dev.passed_ctrs
    obtain ⟨x, sigs, waits, mem, kn', pc, known⟩ := (s.dev.atIssue t k signalOp f).kSignal_sends (t := t) (k := k) (f.imm.toNat % 1024)
      (f.imm.toNat / 65536)
    have canon : ((s.dev.atIssue t k signalOp f).kSignal t k (f.imm.toNat % 1024) (f.imm.toNat / 65536)).canon := hd.passed.kSignal
    rw [ctrs] at sigs waits
    rw [kn] at kn'
    replace pc := pc.trans (Dev.kPc_passed hd)
    replace mem := mem.trans Dev.passed_mem
    generalize (s.dev.atIssue t k signalOp f).kSignal t k (f.imm.toNat % 1024) (f.imm.toNat / 65536) = u at *
    have went := Dev.wentOn (o := signalOp) (f := f) (h := h) canon (by rw [kn']; exact hi.1) (.inl (by rw [Dev.streamOn, kn', pc]; exact ho))
    rw [went.ctrs, went.mem, sigs, List.length_append]
    exact ⟨rfl, waits, mem, fun hlt => ⟨x, rfl, known hlt⟩⟩

end Sys2Proof.Machine
end

section
/-! SUPPORT. The end of a loaf by a failed check (Table 06.7, R158). -/
namespace Sys2Proof.Machine

-- One proof after another: with many at once their threads' stacks exceed the memory that the check allows.
set_option Elab.async false

variable {d e : Dev} {t : Tile} {k : KCore} {h : LoafHdr} {a b : Nat} {f g : Fld}

/-- A field apart from the one set keeps its value at every address. -/
theorem Dev.getF_setF_apart' (v : Nat) (hd : d.canon) (hf : f.fits) (hfg : f.apart g) : (d.setF a f v).getF b g = d.getF b g := by
  by_cases hab : a = b
  · rw [← hab]
    exact Dev.getF_setF_apart a f g v hd hf hfg
  · exact Dev.getF_setF_ne f g v hd hab

/-- The tick number depends on device time and on the period code. -/
theorem Dev.tickNo_of (hn : e.now = d.now) (hr : e.reg Reg.TICK_CFG = d.reg Reg.TICK_CFG) : e.tickNo = d.tickNo := by
  simp only [Dev.tickNo, Dev.tickU, Dev.tickLen, Dev.getF, hn, hr]

/-- The register that a capture writes is that of its name. -/
theorem Dev.Quiet.capture {valid more : Fld} {l : List (Fld × Nat)} : Dev.Quiet (· = a) d (d.capture a valid more l) := by
  unfold Dev.capture
  exact .ite (Dev.Quiet.refl.setB rfl) (Dev.Quiet.refl.setFs rfl)

theorem Dev.capture_ev {valid more : Fld} {l : List (Fld × Nat)} : (d.capture a valid more l).ev = d.ev := by
  unfold Dev.capture
  split <;> rfl

/-- A count of waiting parties brought up to date changes no other field. -/
theorem Dev.getF_syncWaiters {n c : Nat} (hd : d.canon) (hg : F.PROOF_CTR_WAITERS.apart g) : (d.syncWaiters n c).getF b g = d.getF b g :=
  Dev.getF_setF_apart' _ hd (Nat.le_of_ble_eq_true rfl) hg

/-- Dropped waits change the parties waiting on counters and the numbers that say so. -/
theorem Dev.getF_dropWaits {u : BitVec 16} {n : Nat} (hd : d.canon) (hg : F.PROOF_CTR_WAITERS.apart g) : (d.dropWaits n u).getF b g = d.getF b g := by
  unfold Dev.dropWaits
  extract_lets mine src d'
  have hd' : d'.canon := Dev.canon.ctrs hd
  refine (List.foldlRecOn (motive := fun e : Dev => e.canon ∧ e.getF b g = d.getF b g) mine _ ⟨hd', rfl⟩ fun e he w _ => ?_).2
  exact ⟨he.1.syncWaiters, (Dev.getF_syncWaiters he.1 hg).trans he.2⟩
theorem Dev.dropWaits_knead {u : BitVec 16} {n : Nat} : (d.dropWaits n u).knead = d.knead :=
  (foldl_keeps Dev.knead (fun _ _ => Dev.setF_knead ..) _ _).trans rfl
theorem Dev.dropWaits_mem {u : BitVec 16} {n : Nat} : (d.dropWaits n u).mem = d.mem :=
  (foldl_keeps Dev.mem (fun _ _ => Dev.setF_mem ..) _ _).trans rfl
theorem Dev.dropWaits_ev {u : BitVec 16} {n : Nat} : (d.dropWaits n u).ev = d.ev :=
  (foldl_keeps Dev.ev (fun _ _ => Dev.setF_ev ..) _ _).trans rfl

/-- What the end of a loaf that chains no pass makes of its core. -/
def KneadCore.closed (c : KneadCore) : KneadCore :=
  { c with loaf := none, passQ := [], passRun := [], lastPass := none, dmaQ := [], dmaRun := none,
           loops := [], ended := false, waiting := false, nonfinRaised := false, ready := [], units := [] }
theorem KneadCore.closed_parts (c : KneadCore) : c.closed.loaf = none ∧ c.closed.passQ = [] ∧ c.closed.dmaQ = [] ∧ c.closed.dmaRun = none :=
  ⟨rfl, rfl, rfl, rfl⟩

/-- The device with a core's arrays spoilt where a pass had begun, and no pass held. -/
def Dev.arraysLost (d : Dev) (t k : Nat) : Dev :=
  if (d.kn t k).passRun.isEmpty then d else (d.modKn t k fun c => { c with held := none, acc := [] }).setArrays t k 5

theorem Dev.endLoaf_of_loaf {o r : Nat} (hl : (d.kn t k).loaf = some h) (hh : (d.kn t k).held = none) :
    d.endLoaf t k o r = ((((d.arraysLost t k).modKn t k KneadCore.closed).setFs (Reg.KNEAD_CORE_STATUS t k)
      [(F.KNEAD_CORE_STATUS_STATE, 0), (F.KNEAD_CORE_STATUS_PASS_Q, 0), (F.KNEAD_CORE_STATUS_DMA_Q, 0)]).dropWaits t (kneadUnit t k)).loafDone t
      ⟨BitVec.ofNat 13 (0x100 + k), h.id, (d.kn t k).ctx.slice, (d.kn t k).ctx.ctxId, o, r⟩ := by
  unfold Dev.endLoaf Dev.arraysLost
  simp only [hl, hh, Bool.or_false, Bool.not_eq_true', Bool.false_eq_true, if_false]
  cases (d.kn t k).passRun.isEmpty <;> rfl

theorem Dev.arraysLost_quiet : (d.arraysLost t k).mem = d.mem ∧ (d.arraysLost t k).ev = d.ev ∧
    (d.canon → (d.arraysLost t k).canon ∧ ∀ a, (∀ i, a ≠ Reg.KNEAD_ARRAY_STATE t k i) → (d.arraysLost t k).reg a = d.reg a) := by
  unfold Dev.arraysLost
  split
  · exact ⟨rfl, rfl, fun hd => ⟨hd, fun _ _ => rfl⟩⟩
  · have quiet : Dev.Quiet (fun a => ∃ i, a = Reg.KNEAD_ARRAY_STATE t k i) (d.modKn t k fun c => { c with held := none, acc := [] })
        ((d.modKn t k fun c => { c with held := none, acc := [] }).setArrays t k 5) := .foldl .refl fun he => he.setF ⟨_, rfl⟩
    exact ⟨quiet.mem.trans (Dev.setKn_mem ..), (foldl_keeps Dev.ev (fun _ _ => Dev.setF_ev ..) _ _).trans (Dev.setKn_ev ..), fun hd =>
      ⟨quiet.keeps hd.modKn, fun a ha => (quiet.regs hd.modKn a (by simpa using ha)).trans (Dev.setKn_reg ..)⟩⟩

/-- The end of a loaf that holds no pass: its core is empty, and no byte, no event and no field but those of its units changes. -/
theorem Dev.endLoaf_facts {o r : Nat} (hd : d.canon) (hl : (d.kn t k).loaf = some h) (hh : (d.kn t k).held = none) :
    (∃ c : KneadCore, (d.endLoaf t k o r).kn t k = c.closed) ∧ (d.endLoaf t k o r).mem = d.mem ∧ (d.endLoaf t k o r).ev = d.ev ∧
    ∀ a g, a ≠ Reg.KNEAD_CORE_STATUS t k → (∀ i, a ≠ Reg.KNEAD_ARRAY_STATE t k i) → F.PROOF_CTR_WAITERS.apart g →
      (d.endLoaf t k o r).getF a g = d.getF a g := by
  rw [Dev.endLoaf_of_loaf hl hh]
  obtain ⟨mem, ev, lost⟩ := Dev.arraysLost_quiet (d := d) (t := t) (k := k)
  obtain ⟨canon, regs⟩ := lost hd
  generalize d.arraysLost t k = e at *
  refine ⟨⟨e.kn t k, ?_⟩, ?_, ?_, fun a g hs ha hg => ?_⟩
  · rw [Dev.loafDone, Dev.setTile_kn, Dev.kn, Dev.dropWaits_knead, Dev.setFs_knead, ← Dev.kn, Dev.modKn, Dev.kn_setKn (d := e) _ _ _ (by assumption)]
  · rw [Dev.loafDone, Dev.setTile_mem, Dev.dropWaits_mem, Dev.setFs_mem, Dev.modKn, Dev.setKn_mem, mem]
  · rw [Dev.loafDone, Dev.setTile_ev, Dev.dropWaits_ev, Dev.setFs_ev, Dev.modKn, Dev.setKn_ev, ev]
  · rw [Dev.loafDone, Dev.getF, Dev.setTile_reg, ← Dev.getF, Dev.getF_dropWaits canon.modKn.setFs hg, Dev.getF, Dev.reg_setFs_ne _ canon.modKn (Ne.symm hs), Dev.modKn,
      Dev.setKn_reg, regs a ha]
    rfl

/-- A field set in a word of fields, none of which set after it overlaps it. -/
theorem fieldOf_putFields_apart (l : List (Fld × Nat)) (w : Word) (hl : ∀ p ∈ l, p.1.fits ∧ p.1.apart g) :
    fieldOf g (l.foldl (fun w p => putField p.1 w p.2) w) = fieldOf g w := by
  induction l generalizing w with
  | nil => rfl
  | cons p l ih =>
    have hp := hl p List.mem_cons_self
    rw [List.foldl_cons, ih _ fun q hq => hl q (List.mem_cons_of_mem _ hq), fieldOf_putField_apart _ _ _ _ hp.1 hp.2]

/-- Whether a field lies in a word and apart from another. -/
def Fld.clearOf (f g : Fld) : Bool := Nat.ble (f.lo + f.w) 64 && (Nat.ble (f.lo + f.w) g.lo || Nat.ble (g.lo + g.w) f.lo)
theorem Fld.clearOf_iff : f.clearOf g = true ↔ f.fits ∧ f.apart g := by
  simp only [Fld.clearOf, Bool.and_eq_true, Bool.or_eq_true, Nat.ble_eq, Fld.fits, Fld.apart]

/-- A capture leaves a valid record; a first one holds the reason given. -/
theorem Dev.capture_reads {valid more reason : Fld} {r : Nat} {l : List (Fld × Nat)} (hd : d.canon) (hv : valid.clearOf reason = true)
    (hw : valid.w = 1) (hm : more.clearOf valid = true) (hr : reason.clearOf valid = true)
    (hl : (l.all fun p => p.1.clearOf valid && p.1.clearOf reason) = true) :
    (d.capture a valid more ((reason, r) :: l)).getF a valid = 1 ∧
    (d.getF a valid = 0 → (d.capture a valid more ((reason, r) :: l)).getF a reason = r % 2 ^ reason.w) := by
  simp only [List.all_eq_true, Bool.and_eq_true] at hl
  rw [Fld.clearOf_iff] at hv hm hr
  unfold Dev.capture
  split
  · next held =>
    have one : d.getF a valid = 1 := by simpa [Dev.getB] using held
    exact ⟨(Dev.getF_setF_apart _ _ _ _ hd hm.1 hm.2).trans one, fun zero => absurd (one.symm.trans zero) (by decide)⟩
  · refine ⟨?_, fun _ => ?_⟩
    · rw [Dev.getF, Dev.reg_setFs_self _ _ hd, List.foldl_cons, List.foldl_cons, fieldOf_putFields_apart _ _ fun p hp => Fld.clearOf_iff.1 (hl p hp).1,
        fieldOf_putField_apart _ _ _ _ hr.1 hr.2, fieldOf_putField _ _ _ hv.1, hw]
      rfl
    · rw [Dev.getF, Dev.reg_setFs_self _ _ hd, List.foldl_cons, List.foldl_cons, fieldOf_putFields_apart _ _ fun p hp => Fld.clearOf_iff.1 (hl p hp).2,
        fieldOf_putField _ _ _ hr.1]

/-! ## A word that fails its check -/

theorem vadd_fails {f : KFields} {r : Nat} (hi : d.issues t k h) (hw : wordCheck useV2 true f true = some r) :
    vaddEffect t k f d = d.seqFail t k 0x30 r := by
  unfold vaddEffect Dev.kVec
  exact Dev.kIssue_fails (o := alu 0x30 useV2) hi hw
theorem sli_fails {f : KFields} {r : Nat} (hi : d.issues t k h) (hw : wordCheck (ctl 0x04 .x .none .none immAll).use true f true = some r) :
    sliEffect t k f d = d.seqFail t k 0x04 r := Dev.kIssue_fails (o := ctl 0x04 .x .none .none immAll) hi hw
theorem pass_fails {f : KFields} {r : Nat} (hi : d.issues t k h) (hw : wordCheck (ctl 0x10 .none .none .none 0x07FFFFFF).use true f true = some r) :
    passEffect t k f d = d.seqFail t k 0x10 r := by
  unfold passEffect
  exact Dev.kIssue_fails (o := ctl 0x10 .none .none .none 0x07FFFFFF) hi hw

/-- Settles O16: an issue whose word check fails is the shared failure, and that ends the loaf once its capture and its event are made. -/
theorem failedChecksEndTheLoaf : Obligations.FailedChecksEndTheLoaf := by
  unfold Obligations.FailedChecksEndTheLoaf
  refine ⟨fun d t k h op r hd hl hh => ?_, fun t k f h s r hs hi => ⟨fun hw => runs_ran rfl hs (vadd_fails hi hw),
    fun hw => runs_ran rfl hs (sli_fails hi hw), fun hw => runs_ran rfl hs (pass_fails hi hw)⟩⟩
  obtain ⟨valid, reason⟩ := Dev.capture_reads (a := Reg.KNEAD_SEQ_ERROR t k) (r := r) (more := F.KNEAD_SEQ_ERROR_MORE)
    (valid := F.KNEAD_SEQ_ERROR_VALID) (reason := F.KNEAD_SEQ_ERROR_REASON) (l := [(F.KNEAD_SEQ_ERROR_PC, d.kPc t k),
      (F.KNEAD_SEQ_ERROR_LOAF, d.kLoaf t k), (F.KNEAD_SEQ_ERROR_SLICE, (d.kn t k).ctx.slice)]) hd rfl rfl rfl rfl rfl
  have quiet : Dev.Quiet (· = Reg.KNEAD_SEQ_ERROR t k) d _ := Dev.Quiet.capture (valid := F.KNEAD_SEQ_ERROR_VALID) (more := F.KNEAD_SEQ_ERROR_MORE)
    (l := [(F.KNEAD_SEQ_ERROR_REASON, r), (F.KNEAD_SEQ_ERROR_PC, d.kPc t k), (F.KNEAD_SEQ_ERROR_LOAF, d.kLoaf t k),
      (F.KNEAD_SEQ_ERROR_SLICE, (d.kn t k).ctx.slice)])
  have same := Dev.tickNo_of quiet.now (quiet.regs hd Reg.TICK_CFG (by simp only [Reg.TICK_CFG, Reg.KNEAD_SEQ_ERROR]; omega))
  have ev := Dev.capture_ev (d := d) (a := Reg.KNEAD_SEQ_ERROR t k) (valid := F.KNEAD_SEQ_ERROR_VALID) (more := F.KNEAD_SEQ_ERROR_MORE)
    (l := [(F.KNEAD_SEQ_ERROR_REASON, r), (F.KNEAD_SEQ_ERROR_PC, d.kPc t k), (F.KNEAD_SEQ_ERROR_LOAF, d.kLoaf t k),
      (F.KNEAD_SEQ_ERROR_SLICE, (d.kn t k).ctx.slice)])
  rw [Dev.seqFail]
  dsimp only
  generalize d.capture (Reg.KNEAD_SEQ_ERROR t k) F.KNEAD_SEQ_ERROR_VALID F.KNEAD_SEQ_ERROR_MORE _ = e at *
  have canon : e.canon := quiet.keeps hd
  have kn : e.kn t k = d.kn t k := quiet.kn t k
  have loaf : e.kLoaf t k = d.kLoaf t k :=
    congrArg (fieldOf F.KNEAD_LOAF_LOAF) (quiet.regs hd (Reg.KNEAD_LOAF t k) (by simp only [Reg.KNEAD_LOAF, Reg.KNEAD_SEQ_ERROR]; omega))
  obtain ⟨⟨c, closed⟩, mem, ev', fields⟩ := Dev.endLoaf_facts (t := t) (k := k) (o := 1) (r := r) (h := h)
    (d := e.raise 0x2040 (d.kn t k).ctx.slice (kneadUnit t k) (e.kLoaf t k) (r + d.kPc t k * 2 ^ 8 + op * 2 ^ 24)) canon.raise
    (by rw [Dev.raise_kn, kn, hl]) (by rw [Dev.raise_kn, kn, hh])
  have apart : Reg.KNEAD_SEQ_ERROR t k ≠ Reg.KNEAD_CORE_STATUS t k ∧ ∀ i, Reg.KNEAD_SEQ_ERROR t k ≠ Reg.KNEAD_ARRAY_STATE t k i := by
    simp only [Reg.KNEAD_SEQ_ERROR, Reg.KNEAD_CORE_STATUS, Reg.KNEAD_ARRAY_STATE]
    exact ⟨by omega, fun i => by omega⟩
  rw [closed, ev', mem, fields _ _ apart.1 apart.2 (.inr (Nat.le_of_ble_eq_true rfl)), fields _ _ apart.1 apart.2 (.inr (Nat.le_of_ble_eq_true rfl)),
    Dev.raise_mem, Dev.raise_getF, Dev.raise_getF, loaf]
  obtain ⟨none', passQ, dmaQ, dmaRun⟩ := KneadCore.closed_parts c
  refine ⟨none', passQ, dmaQ, dmaRun, quiet.mem, valid, ?_, reason⟩
  rw [Dev.raise, Dev.raise, same, quiet.now, ev]

end Sys2Proof.Machine
end

section
/-! SUPPORT. The start and the completion of a loaf on a Knead core (R42, R140, R146, R157). -/
namespace Sys2Proof.Machine

-- One proof after another: with many at once their threads' stacks exceed the memory that the check allows.
set_option Elab.async false

variable {d e : Dev} {t : Tile} {k : KCore} {h : LoafHdr} {a b : Nat} {f g : Fld} {v : Nat}

/-- A field of a write of several, none of which written after it overlaps it. -/
theorem Dev.getF_setFs_mid {pre post : List (Fld × Nat)} (hd : d.canon) (hg : Nat.ble (g.lo + g.w) 64 = true)
    (hp : (post.all fun p => p.1.clearOf g) = true) : (d.setFs a (pre ++ (g, v) :: post)).getF a g = v % 2 ^ g.w := by
  rw [List.all_eq_true] at hp
  rw [Dev.getF, Dev.reg_setFs_self _ _ hd, List.foldl_append, List.foldl_cons, fieldOf_putFields_apart _ _ fun p hm => Fld.clearOf_iff.1 (hp p hm),
    fieldOf_putField _ _ _ (Nat.le_of_ble_eq_true hg)]

/-- The completion records of a tile wait as time passes. -/
theorem Dev.done_advanceTile {n u : Nat} (t' : Nat) (hd : d.canon) : ((d.advanceTile n u).tile t').done = (d.tile t').done := by
  obtain ⟨x, y, hx⟩ | hx | ⟨-, p, hx⟩ := d.advanceTile_cases n u
  · rw [hx, Dev.setFs_tile]
  · rw [hx]
  · rw [hx]
    by_cases hut : u = t'
    · rw [← hut, Dev.tile_setTile _ _ _ hd]
    · rw [Dev.tile_setTile_ne _ _ _ _ hd hut]
theorem Dev.done_advance {n : Nat} (t' : Nat) (hd : d.canon) : ((d.advance n).tile t').done = (d.tile t').done := by
  rw [Dev.advance]
  split
  · rfl
  · exact (List.foldlRecOn (motive := fun e : Dev => e.canon ∧ (e.tile t').done = (d.tile t').done) tiles6 (Dev.advanceTile n)
      ⟨Dev.canon_now (d.now + n * kcU) hd, rfl⟩ fun e he u _ => ⟨he.1.advanceTile, (Dev.done_advanceTile t' he.1).trans he.2⟩).2

theorem Dev.proveStart_keeps {n u x : Nat} : (d.proveStart n u x).knead = d.knead ∧ (d.proveStart n u x).mem = d.mem := by
  unfold Dev.proveStart
  split <;> exact ⟨rfl, rfl⟩

/-- A core right after a loaf started on it. -/
def KneadCore.opened (d : Dev) (t k : Nat) (h : LoafHdr) : KneadCore :=
  { KneadCore.init with
    loaf := some h, ctx := d.kneadCtx t k, step := d.reg (Reg.KNEAD_STEP t k), seed := (List.range 4).map fun w => d.reg (Reg.KNEAD_SEED t k w),
    stream := d.getF (Reg.KNEAD_STREAM t k) F.KNEAD_STREAM_STREAM, held := (d.kn t k).held, acc := (d.kn t k).acc, start := (d.tile t).lk,
    nextAt := (d.tile t).lk, stored := (d.tile t).lk }
theorem KneadCore.opened_parts : (KneadCore.opened d t k h).loaf = some h ∧ (KneadCore.opened d t k h).ctx = d.kneadCtx t k ∧
    (KneadCore.opened d t k h).x = [] ∧ (KneadCore.opened d t k h).v = [] ∧ (KneadCore.opened d t k h).m = [] ∧
    (KneadCore.opened d t k h).start = (d.tile t).lk := ⟨rfl, rfl, rfl, rfl, rfl, rfl⟩

/-- The device right after a loaf started. -/
def Dev.loafOpened (d : Dev) (t k : Nat) (h : LoafHdr) : Dev :=
  (((d.setKn t k (KneadCore.opened d t k h)).proveStart t (0x100 + k) h.kind).setF (Reg.KNEAD_LOAF t k) F.KNEAD_LOAF_LOAF h.id).setFs
    (Reg.KNEAD_CORE_STATUS t k) [(F.KNEAD_CORE_STATUS_STATE, 1), (F.KNEAD_CORE_STATUS_PC, 0), (F.KNEAD_CORE_STATUS_LOCAL, 0),
      (F.KNEAD_CORE_STATUS_PASS_Q, 0), (F.KNEAD_CORE_STATUS_DMA_Q, 0)]

theorem Dev.loafOpened_facts (hd : d.canon) : (d.loafOpened t k h).kn t k = KneadCore.opened d t k h ∧ (d.loafOpened t k h).kPc t k = 0 ∧
    (d.loafOpened t k h).kLoaf t k = h.id % 2 ^ 32 ∧ (d.loafOpened t k h).mem = d.mem := by
  have canon := hd.setKn (t := t) (k := k) (c := KneadCore.opened d t k h)
  have kn := Dev.kn_setKn d t k (KneadCore.opened d t k h) hd
  have mem := Dev.setKn_mem (d := d) t k (KneadCore.opened d t k h)
  unfold Dev.loafOpened
  generalize d.setKn t k (KneadCore.opened d t k h) = e at *
  have canon' := canon.proveStart (t := t) (unit := 0x100 + k) (kind := h.kind)
  obtain ⟨knead, mem'⟩ := Dev.proveStart_keeps (d := e) (n := t) (u := 0x100 + k) (x := h.kind)
  generalize e.proveStart t (0x100 + k) h.kind = u at *
  have apart : Reg.KNEAD_CORE_STATUS t k ≠ Reg.KNEAD_LOAF t k := by simp only [Reg.KNEAD_CORE_STATUS, Reg.KNEAD_LOAF]; omega
  refine ⟨?_, ?_, ?_, ?_⟩
  · rw [Dev.setFs_kn, Dev.setF_kn, Dev.kn, knead, ← Dev.kn, kn]
  · exact Dev.getF_setFs_mid (pre := [(F.KNEAD_CORE_STATUS_STATE, 1)]) canon'.setF rfl rfl
  · rw [Dev.kLoaf, Dev.getF, Dev.reg_setFs_ne _ canon'.setF apart, ← Dev.getF, Dev.getF_setF_mod canon']
    rfl
  · rw [Dev.setFs_mem, Dev.setF_mem, mem', mem]

/-- A core on which a loaf may start: idle, on a running tile, with no placed step due and a good header line in its context. -/
structure Dev.mayOpen (d : Dev) (t : Tile) (k : KCore) (h : LoafHdr) : Prop where
  idle : (d.kn t k).loaf = none
  placed : d.placeLoaf t (0x100 + k) = d
  running : d.paused t = false
  logical : (d.logicalOf t k).isNone = false
  ctx : ¬ (d.kneadCtx t k).hi ≤ (d.kneadCtx t k).lo
  good : d.firstBad ((d.kneadCtx t k).at_ t k 0) 64 = none
  hdr : loafHdr (d.bytes ((d.kneadCtx t k).at_ t k 0) 64) = h

theorem kneadLoafStart_begins (ho : d.mayOpen t k h) (hn : h.nInstr ≠ 0)
    (hr : ¬ (d.spaceFor t (0x100 + k) h.kind < h.length ∨ h.length = 0)) : kneadLoafStartEffect t k d = d.loafOpened t k h := by
  obtain ⟨idle, placed, running, logical, ctx, good, hdr⟩ := ho
  unfold kneadLoafStartEffect
  simp only [idle, placed, running, logical, ctx, good, hdr, hn, hr, Option.isSome_none, Bool.false_eq_true, if_false, Bool.or_self, decide_false,
    Bool.false_and, Bool.or_eq_true, decide_eq_true_eq, beq_iff_eq]
  rfl

theorem kneadLoafStart_refused (ho : d.mayOpen t k h) (hr : d.spaceFor t (0x100 + k) h.kind < h.length ∨ h.length = 0) :
    kneadLoafStartEffect t k d =
      d.raise 0x1005 (d.kneadCtx t k).slice (stewardOf t) h.id (h.length + d.spaceFor t (0x100 + k) h.kind * 2 ^ 32) := by
  obtain ⟨idle, placed, running, logical, ctx, good, hdr⟩ := ho
  unfold kneadLoafStartEffect
  simp only [idle, placed, running, logical, ctx, good, hdr, hr, Option.isSome_none, Bool.false_eq_true, if_false, Bool.or_self, decide_false,
    Bool.false_and, Bool.or_eq_true, decide_eq_true_eq, beq_iff_eq, if_true]

/-! ## Completion -/

/-- What the completion of a loaf makes of its core. -/
def KneadCore.completed (c : KneadCore) : KneadCore :=
  { c with loaf := none, lastPass := none, loops := [], ended := false, waiting := false, nonfinRaised := false }
theorem KneadCore.completed_parts (c : KneadCore) : c.completed.loaf = none ∧ c.completed.stored = c.stored := ⟨rfl, rfl⟩

/-- The registers of a core after the completion of a loaf: state idle, its arrays' state, and the count of its loaves. -/
def Dev.completionShown (d : Dev) (t k st : Nat) : Dev :=
  ((d.kState t k 0).setArrays t k st).count (Reg.KNEAD_LOAF_COUNT t k) F.KNEAD_LOAF_COUNT_COUNT 1
theorem Dev.completionShown_quiet {st : Nat} : Dev.Quiet (fun _ => True) d (d.completionShown t k st) :=
  ((Dev.Quiet.refl.setF trivial).foldl fun he => he.setF trivial).count trivial

theorem kneadLoafComplete_ends (hl : (d.kn t k).loaf = some h) (he : (d.kn t k).ended = true) (hpq : (d.kn t k).passQ = [])
    (hpr : (d.kn t k).passRun = []) (hdq : (d.kn t k).dmaQ = []) (hdr : (d.kn t k).dmaRun = none) (hp : d.paused t = false) :
    kneadLoafCompleteEffect t k d = (((d.passed t k ((d.kn t k).stored - (d.tile t).lk)).modKn t k KneadCore.completed).completionShown t k
      (if (d.kn t k).held.isSome then 3 else 0)).loafDone t ⟨BitVec.ofNat 13 (0x100 + k), h.id, (d.kn t k).ctx.slice, (d.kn t k).ctx.ctxId, 0, 0⟩ := by
  unfold kneadLoafCompleteEffect
  simp only [hl, he, hpq, hpr, hdq, hdr, hp, List.isEmpty_nil, Bool.not_true, Bool.or_self, Option.isSome_none, Bool.false_eq_true, if_false]
  rfl

theorem Dev.loafDone_facts {n : Nat} (x : LoafDone) (hd : d.canon) : (d.loafDone n x).knead = d.knead ∧ (d.loafDone n x).mem = d.mem ∧
    ((d.loafDone n x).tile n).lk = (d.tile n).lk ∧ ((d.loafDone n x).tile n).done = (d.tile n).done ++ [x] := by
  rw [Dev.loafDone, Dev.tile_setTile _ _ _ hd]
  exact ⟨rfl, rfl, rfl, rfl⟩

/-- Settles O19: by what the start and the completion make of the core. -/
theorem loavesStartCleanAndEndCounted : Obligations.LoavesStartCleanAndEndCounted := by
  unfold Obligations.LoavesStartCleanAndEndCounted
  refine ⟨fun t k s hs hd idle placed running hl => ?_, fun t k h s hs hd hl he hpq hpr hdq hdr hp => runs_ran rfl hs ?_⟩
  · dsimp only
    intro hx good
    have logical : (s.dev.logicalOf t k).isNone = false := Option.isNone_eq_false_iff.2 (Option.isSome_iff_ne_none.2 hl)
    have ho : s.dev.mayOpen t k _ := ⟨idle, placed, running, logical, Nat.not_le.2 hx, good, rfl⟩
    refine ⟨fun hlen h0 hn => runs_ran rfl hs ?_, fun hr => runs_ran rfl hs (kneadLoafStart_refused ho hr)⟩
    rw [kneadLoafStart_begins ho hn (by omega)]
    obtain ⟨kn, pc, loaf, mem⟩ := Dev.loafOpened_facts hd
    rw [kn, pc, loaf, mem]
    obtain ⟨l, c, x, v, m, st⟩ := KneadCore.opened_parts
    exact ⟨l, c, x, v, m, st, rfl, rfl, rfl⟩
  · rw [kneadLoafComplete_ends hl he hpq hpr hdq hdr hp]
    have canon : (s.dev.passed t k ((s.dev.kn t k).stored - (s.dev.tile t).lk)).canon := hd.passed
    have kn : (s.dev.passed t k ((s.dev.kn t k).stored - (s.dev.tile t).lk)).kn t k = s.dev.kn t k := Dev.kn_passed ..
    have lk := Dev.lk_passed (k := k) (n := (s.dev.kn t k).stored - (s.dev.tile t).lk) hd hp
    have mem : (s.dev.passed t k ((s.dev.kn t k).stored - (s.dev.tile t).lk)).mem = _ := Dev.passed_mem
    have done : ((s.dev.passed t k ((s.dev.kn t k).stored - (s.dev.tile t).lk)).tile t).done = (s.dev.tile t).done :=
      (congrArg TileState.done Dev.tile_passed).trans (Dev.done_advance t hd)
    generalize s.dev.passed t k ((s.dev.kn t k).stored - (s.dev.tile t).lk) = u at *
    have canon' := canon.modKn (t := t) (k := k) (f := KneadCore.completed)
    have kn' := Dev.kn_setKn u t k (u.kn t k).completed canon
    have quiet := Dev.completionShown_quiet (d := u.modKn t k KneadCore.completed) (t := t) (k := k) (st := if (s.dev.kn t k).held.isSome then 3 else 0)
    have tile := (quiet.tile t).trans (Dev.setKn_tile ..)
    have mem' := quiet.mem.trans (Dev.setKn_mem ..)
    have kn'' := (quiet.kn t k).trans kn'
    replace canon' := quiet.keeps canon'
    generalize (u.modKn t k KneadCore.completed).completionShown t k _ = w at *
    obtain ⟨loaf, stored⟩ := KneadCore.completed_parts (u.kn t k)
    obtain ⟨knead, mem'', lk', done'⟩ := Dev.loafDone_facts (n := t)
      ⟨BitVec.ofNat 13 (0x100 + k), h.id, (s.dev.kn t k).ctx.slice, (s.dev.kn t k).ctx.ctxId, 0, 0⟩ canon'
    rw [Dev.kn, knead, ← Dev.kn, kn'', loaf, stored, kn, lk', tile, lk, mem'', mem', mem, done', tile, done]
    exact ⟨rfl, by omega, rfl, rfl⟩

end Sys2Proof.Machine
end

section
/-! SUPPORT. Little-endian bytes, object descriptors, and what a write reads back as (Table 08.6). -/
namespace Sys2Proof.Machine

-- One proof after another: with many at once their threads' stacks exceed the memory that the check allows.
set_option Elab.async false

variable {d e : Dev} {a n v : Nat} {l : Bytes}

theorem leBytes_length : ∀ n v, (leBytes n v).length = n
  | 0, _ => rfl
  | n + 1, v => congrArg (· + 1) (leBytes_length n (v / 256))

theorem ofLe_leBytes : ∀ n v, ofLe (leBytes n v) = v % 256 ^ n
  | 0, v => by rw [Nat.pow_zero, Nat.mod_one]; rfl
  | n + 1, v => by
    have cut : v % (256 * 256 ^ n) = v % 256 + 256 * (v / 256 % 256 ^ n) := Nat.mod_mul
    rw [leBytes, ofLe, ofLe_leBytes n, BitVec.toNat_ofNat, Nat.pow_succ' (m := 256), cut]

theorem ofLe_lt : ∀ l : Bytes, ofLe l < 256 ^ l.length
  | [] => Nat.one_pos
  | b :: r => by
    have hb := b.isLt
    have hr := ofLe_lt r
    rw [ofLe, List.length_cons, Nat.pow_succ']
    omega

theorem bytesAt_length (l : Bytes) (o n : Nat) : (bytesAt l o n).length = n := by
  simp only [bytesAt, List.length_append, List.length_replicate, List.length_take]
  omega

/-- A number of n bytes. -/
theorem leAt_lt (l : Bytes) (o n : Nat) : leAt l o n < 256 ^ n := by
  have h := ofLe_lt (bytesAt l o n)
  rwa [bytesAt_length] at h

/-! ## Bytes of the stores -/

theorem Dev.bytes_length (d : Dev) (a n : Nat) : (d.bytes a n).length = n := by rw [Dev.bytes, List.length_map, List.length_range]
theorem Dev.bytes_of (h : e.mem = d.mem) : e.bytes a n = d.bytes a n := by simp only [Dev.bytes, Dev.byte, h]

theorem Dev.bytes_write_self (hd : d.canon) (hl : l.length = n) : (d.write a l).bytes a n = l := by
  refine List.ext_getElem (by rw [Dev.bytes_length, hl]) fun i hi hi' => ?_
  rw [Dev.bytes_length] at hi
  simp only [Dev.bytes, List.getElem_map, List.getElem_range]
  exact Dev.byte_write_in a i l hd hi'

theorem Dev.bytes_write_apart {b : Nat} (hd : d.canon) (h : b + n ≤ a ∨ a + l.length ≤ b) : (d.write a l).bytes b n = d.bytes b n := by
  refine List.map_congr_left fun i hi => Dev.byte_write_out a _ l hd ?_
  rw [List.mem_range] at hi
  omega

/-- A write of bytes changes stores alone. -/
theorem Dev.write_rest (d : Dev) (a : Nat) (l : Bytes) :
    ({ d.write a l with mem := d.mem, lineErr := d.lineErr, written := d.written } : Dev) = d := by
  unfold Dev.write
  split
  · rfl
  · extract_lets first last u
    have hu : ({ u with mem := d.mem, lineErr := d.lineErr, written := d.written } : Dev) = d :=
      List.foldlRecOn (motive := fun e : Dev => ({ e with mem := d.mem, lineErr := d.lineErr, written := d.written } : Dev) = d) _ _ rfl
        fun _ he _ _ => he
    exact hu
theorem Dev.write_regs : (d.write a l).regs = d.regs := (congrArg Dev.regs (d.write_rest a l) :)
theorem Dev.write_reg (b : Nat) : (d.write a l).reg b = d.reg b := (congrArg (Dev.reg · b) (d.write_rest a l) :)
theorem Dev.write_getF (b : Nat) (f : Fld) : (d.write a l).getF b f = d.getF b f := (congrArg (Dev.getF · b f) (d.write_rest a l) :)
theorem Dev.write_now : (d.write a l).now = d.now := (congrArg Dev.now (d.write_rest a l) :)
theorem Dev.write_ev : (d.write a l).ev = d.ev := (congrArg Dev.ev (d.write_rest a l) :)
theorem Dev.write_tier (t : Nat) : (d.write a l).tier t = d.tier t := (congrArg (Dev.tier · t) (d.write_rest a l) :)
theorem Dev.write_tile (t : Nat) : (d.write a l).tile t = d.tile t := (congrArg (Dev.tile · t) (d.write_rest a l) :)

/-! ## Object descriptors -/

/-- An object as its descriptor's fields hold it. -/
def Obj.stored (o : Obj) : Obj :=
  { id := o.id % 2 ^ 32, owner := o.owner % 2 ^ 8, homeTier := o.homeTier % 2 ^ 8, state := o.state % 2 ^ 8, curTier := o.curTier % 2 ^ 8,
    pages := o.pages % 2 ^ 32, homeAddr := o.homeAddr % 2 ^ 64, curAddr := o.curAddr % 2 ^ 64, dirtyBase := o.dirtyBase % 2 ^ 64,
    refMask := o.refMask % 2 ^ 64, shareMask := o.shareMask % 2 ^ 64, flags := o.flags % 2 ^ 8, zeroOk := o.flags % 2 ^ 8 / 2 == 0 }

/-- A number stored first, and one stored behind another. -/
theorem leAt_here (n v : Nat) (r : Bytes) : leAt (leBytes n v ++ r) 0 n = v % 256 ^ n := by
  rw [leAt, bytesAt, List.drop_zero, List.take_left' (leBytes_length n v), leBytes_length, Nat.sub_self, List.replicate_zero, List.append_nil,
    ofLe_leBytes]
theorem leAt_behind {m o : Nat} (n v : Nat) (r : Bytes) (h : m ≤ o) : leAt (leBytes m v ++ r) o n = leAt r (o - m) n := by
  rw [leAt, leAt, bytesAt, bytesAt, List.drop_append, leBytes_length, List.drop_eq_nil_of_le (by rw [leBytes_length]; exact h), List.nil_append]
theorem leAt_last (n v : Nat) : leAt (leBytes n v) 0 n = v % 256 ^ n := by
  have h := leAt_here n v []
  rwa [List.append_nil] at h

theorem objOf_bytes (o : Obj) : objOf o.bytes = o.stored := by
  simp only [objOf, Obj.bytes, List.append_assoc, leAt_here, leAt_behind, leAt_last, Nat.reduceLeDiff, Nat.reduceSub, Nat.le_refl, Nat.sub_self]
  rfl

theorem Obj.bytes_length (o : Obj) : o.bytes.length = 64 := rfl

/-- The widths of an object's fields. -/
structure Obj.Fits (o : Obj) : Prop where
  id : o.id < 2 ^ 32
  owner : o.owner < 2 ^ 8
  homeTier : o.homeTier < 2 ^ 8
  state : o.state < 2 ^ 8
  curTier : o.curTier < 2 ^ 8
  pages : o.pages < 2 ^ 32
  homeAddr : o.homeAddr < 2 ^ 64
  curAddr : o.curAddr < 2 ^ 64
  dirtyBase : o.dirtyBase < 2 ^ 64
  refMask : o.refMask < 2 ^ 64
  shareMask : o.shareMask < 2 ^ 64
  flags : o.flags < 2 ^ 8

theorem objOf_fits (l : Bytes) : (objOf l).Fits :=
  ⟨leAt_lt l 0 4, leAt_lt l 4 1, leAt_lt l 5 1, leAt_lt l 6 1, leAt_lt l 7 1, leAt_lt l 8 4, leAt_lt l 16 8, leAt_lt l 24 8, leAt_lt l 32 8,
    leAt_lt l 40 8, leAt_lt l 48 8, leAt_lt l 56 1⟩
theorem Dev.obj_fits (d : Dev) (t i : Nat) : (d.obj t i).Fits := objOf_fits _

/-- An object whose fields fit reads back as it was put, but for the mark of its zero fields. -/
theorem Dev.obj_putObj {t i : Nat} {o : Obj} (hd : d.canon) (hf : o.Fits) :
    (d.putObj t i o).obj t i = { o with zeroOk := o.flags / 2 == 0 } := by
  obtain ⟨id, owner, homeTier, state, curTier, pages, homeAddr, curAddr, dirtyBase, refMask, shareMask, flags⟩ := hf
  rw [Dev.obj, Dev.putObj, Dev.bytes_write_self hd o.bytes_length, objOf_bytes, Obj.stored]
  simp only [Nat.mod_eq_of_lt, *]

theorem Dev.obj_of {t i : Nat} (h : e.mem = d.mem) : e.obj t i = d.obj t i := by rw [Dev.obj, Dev.obj, Dev.bytes_of h]

end Sys2Proof.Machine
end

section
/-! SUPPORT. Tier commands: pushed, checked and begun (R195 to R202). -/
namespace Sys2Proof.Machine

-- One proof after another: with many at once their threads' stacks exceed the memory that the check allows.
set_option Elab.async false

variable {d e : Dev} {t : Tile} {ext : Bool} {c : TierCmd} {q : List TierCmd} {o : Obj} {i n : Nat}

/-! ## The steward's registers -/

theorem tierCmdPush_steward {w : Nat} {v : Word} (hw : w ≠ 3) : tierCmdPushEffect (stewardOf t) t w v d = d.setReg (Reg.TIER_CMD_PUSH t w) v := by
  unfold tierCmdPushEffect
  simp only [bne_self_eq_false, Bool.false_eq_true, if_false, beq_iff_eq, hw]

theorem tierCmdPush_other {m : Master} {w : Nat} {v : Word} (hm : m ≠ stewardOf t) :
    tierCmdPushEffect m t w v d = d.raise 0x4009 0xFF (tierUnit t) (Reg.TIER_CMD_PUSH t w) m.toNat := if_pos (by simpa using hm)

theorem tierCmdPush_last {v : Word} (hd : d.canon) : tierCmdPushEffect (stewardOf t) t 3 v d = (d.setReg (Reg.TIER_CMD_PUSH t 3) v).tierPush t
    ⟨d.reg (Reg.TIER_CMD_PUSH t 0), d.reg (Reg.TIER_CMD_PUSH t 1), d.reg (Reg.TIER_CMD_PUSH t 2), v, d.tickNo⟩ := by
  have ne : ∀ w, w < 3 → Reg.TIER_CMD_PUSH t 3 ≠ Reg.TIER_CMD_PUSH t w := fun w hw => by simp only [Reg.TIER_CMD_PUSH]; omega
  have tick : (d.setReg (Reg.TIER_CMD_PUSH t 3) v).tickNo = d.tickNo :=
    Dev.tickNo_of rfl (Dev.reg_setReg_ne v hd (by simp only [Reg.TIER_CMD_PUSH, Reg.TICK_CFG]; omega))
  unfold tierCmdPushEffect
  simp only [bne_self_eq_false, Bool.false_eq_true, if_false, beq_self_eq_true, if_true, tick, Dev.reg_setReg_ne v hd (ne _ _), Nat.reduceLT]

theorem Dev.tierSync_queued (hd : d.canon) : (d.tierSync t).getF (Reg.TIER_STATUS t) F.TIER_STATUS_QUEUED = (d.tier t).queue.length % 2 ^ 10 :=
  Dev.getF_setFs_mid (pre := []) hd rfl rfl

theorem Dev.tierPush_queued (hd : d.canon) (hq : (d.tier t).queue.length < 512) :
    ((d.tierPush t c).tier t).queue = (d.tier t).queue ++ [c] ∧
    (d.tierPush t c).getF (Reg.TIER_STATUS t) F.TIER_STATUS_QUEUED = (d.tier t).queue.length + 1 ∧ (d.tierPush t c).mem = d.mem ∧
    (d.tierPush t c).ev = d.ev := by
  unfold Dev.tierPush
  dsimp only
  rw [if_neg (by omega)]
  have canon := hd.setTier (t := t) (x := { d.tier t with queue := (d.tier t).queue ++ [c] })
  have tier := Dev.tier_setTier d t { d.tier t with queue := (d.tier t).queue ++ [c] } hd
  generalize hu : d.setTier t { d.tier t with queue := (d.tier t).queue ++ [c] } = u at *
  refine ⟨?_, ?_, ?_, ?_⟩
  · rw [Dev.tierSync, Dev.setFs_tier, tier]
  · rw [Dev.tierSync_queued canon, tier, List.length_append, List.length_singleton]
    omega
  · rw [Dev.tierSync, Dev.setFs_mem, ← hu, Dev.setTier_mem]
  · rw [Dev.tierSync, Dev.setFs_ev, ← hu, Dev.setTier_ev]

/-! ## A stream's next command -/

/-- The device with a command's run on a stream, and the status register told. -/
def Dev.running (d : Dev) (t : Nat) (ext : Bool) (r : TierRun) : Dev := (d.setTier t ((d.tier t).setRun ext (some r))).tierSync t

theorem TierState.run_setRun (x : TierState) (r : Option TierRun) : (x.setRun ext r).run ext = r ∧ (x.setRun ext r).queue = x.queue := by
  cases ext <;> exact ⟨rfl, rfl⟩

theorem Dev.running_facts {r : TierRun} (hd : d.canon) : ((d.running t ext r).tier t).run ext = some r ∧
    ((d.running t ext r).tier t).queue = (d.tier t).queue ∧ (d.running t ext r).mem = d.mem ∧ (d.running t ext r).ev = d.ev := by
  have tier := Dev.tier_setTier d t ((d.tier t).setRun ext (some r)) hd
  obtain ⟨run, queue⟩ := TierState.run_setRun (ext := ext) (d.tier t) (some r)
  rw [Dev.running, Dev.tierSync, Dev.setFs_tier, Dev.setFs_mem, Dev.setFs_ev, tier, run, queue]
  exact ⟨rfl, rfl, rfl, rfl⟩

/-- The device whose queue of a tile is `q`. -/
def Dev.queued (d : Dev) (t : Nat) (q : List TierCmd) : Dev := d.setTier t { d.tier t with queue := q }
theorem Dev.queued_facts (hd : d.canon) : (d.queued t q).canon ∧ ((d.queued t q).tier t).queue = q ∧ (d.queued t q).mem = d.mem ∧
    (d.queued t q).ev = d.ev ∧ (d.queued t q).tickNo = d.tickNo ∧ (d.queued t q).now = d.now :=
  ⟨hd.setTier, congrArg TierState.queue (Dev.tier_setTier d t _ hd), rfl, rfl, Dev.tickNo_of rfl rfl, rfl⟩

theorem tierBegin_fails {r : Nat} (hn : d.tierNext t ext = some (c, q)) (hb : d.bad (objPlace t (c.objId % 2 ^ 20) / 64) = false)
    (hc : (d.queued t q).tierCheck t c = some r) : d.tierBegin t ext c.op =
      ((d.queued t q).raise 0x4002 c.slice (tierUnit t) c.objId (r + c.op * 256)).running t ext ⟨c, 7, r, .none, 0, 0, [], 0⟩ := by
  have good : (d.setTier t { d.tier t with queue := q }).bad (objPlace t (c.objId % 2 ^ 20) / 64) = false := hb
  have check : (d.setTier t { d.tier t with queue := q }).tierCheck t c = some r := hc
  unfold Dev.tierBegin
  simp only [hn, bne_self_eq_false, Bool.false_eq_true, if_false, good, Bool.false_and, check]
  rfl

theorem tierBegin_passes {y : Dev × Nat × TierWork × Nat × List Nat × Nat} (hn : d.tierNext t ext = some (c, q))
    (hb : d.bad (objPlace t (c.objId % 2 ^ 20) / 64) = false) (hc : (d.queued t q).tierCheck t c = none) (hy : (d.queued t q).tierStart t c = y) :
    d.tierBegin t ext c.op = y.1.running t ext ⟨c, y.2.1, 0, y.2.2.1, y.2.2.2.1, 0, y.2.2.2.2.1, y.2.2.2.2.2⟩ := by
  have good : (d.setTier t { d.tier t with queue := q }).bad (objPlace t (c.objId % 2 ^ 20) / 64) = false := hb
  have check : (d.setTier t { d.tier t with queue := q }).tierCheck t c = none := hc
  have start : (d.setTier t { d.tier t with queue := q }).tierStart t c = y := hy
  unfold Dev.tierBegin
  simp only [hn, bne_self_eq_false, Bool.false_eq_true, if_false, good, Bool.false_and, check, start]
  rfl

/-- What a command that passes its checks leaves besides the effect of its beginning. -/
theorem tierBegin_begun {y : Dev × Nat × TierWork × Nat × List Nat × Nat} (hd : d.canon) (hn : d.tierNext t ext = some (c, q))
    (hb : d.bad (objPlace t (c.objId % 2 ^ 20) / 64) = false) (hc : (d.queued t q).tierCheck t c = none) (hy : (d.queued t q).tierStart t c = y)
    (ht : y.1.tier t = (d.queued t q).tier t) :
    (∃ r, ((d.tierBegin t ext c.op).tier t).run ext = some r ∧ r.cmd = c ∧ r.status = y.2.1 ∧ r.reason = 0 ∧ r.work = y.2.2.1 ∧
      ((d.tierBegin t ext c.op).tier t).queue = q) ∧
    (d.tierBegin t ext c.op).obj t i = y.1.obj t i ∧ (d.tierBegin t ext c.op).ev = y.1.ev := by
  obtain ⟨canon, queue, -⟩ := Dev.queued_facts (t := t) (q := q) hd
  have canon' : y.1.canon := canon.tierStart hy
  obtain ⟨run, queue', mem, ev⟩ := Dev.running_facts (t := t) (ext := ext)
    (r := ⟨c, y.2.1, 0, y.2.2.1, y.2.2.2.1, 0, y.2.2.2.2.1, y.2.2.2.2.2⟩) canon'
  rw [tierBegin_passes hn hb hc hy]
  exact ⟨⟨_, run, rfl, rfl, rfl, rfl, queue'.trans ((congrArg TierState.queue ht).trans queue)⟩, Dev.obj_of mem, ev⟩

/-! ## The effects of Table 08.8 -/

theorem tierCheck_define (hop : c.op = 1) (hc : d.tierCheck t c = none) : (d.defineImage c).id = c.objId ∧ (d.defineImage c).owner = c.slice := by
  unfold Dev.tierCheck at hc
  simp only [hop, beq_self_eq_true, if_true] at hc
  split at hc
  · cases hc
  split at hc
  · cases hc
  split at hc
  · cases hc
  next named =>
  split at hc
  · cases hc
  next owned =>
  simp only [Bool.or_eq_true, bne_iff_ne, ne_eq, not_or, Decidable.not_not] at named
  exact ⟨named.2, by simpa using owned⟩

theorem Dev.putObj_tier {n m : Nat} : (d.putObj n i o).tier m = d.tier m := Dev.write_tier ..
theorem Dev.putObj_ev {n : Nat} : (d.putObj n i o).ev = d.ev := Dev.write_ev

theorem Dev.obj_putObj_stored {n : Nat} (hd : d.canon) : (d.putObj n i o).obj n i = o.stored := by
  rw [Dev.obj, Dev.putObj, Dev.bytes_write_self hd o.bytes_length, objOf_bytes]

theorem Dev.setTierUse_parts {n s tier v m : Nat} : (d.setTierUse n s tier v).tier m = d.tier m ∧ (d.setTierUse n s tier v).ev = d.ev ∧
    (d.setTierUse n s tier v).mem = d.mem := by
  unfold Dev.setTierUse
  split <;> exact ⟨Dev.setF_tier .., Dev.setF_ev .., Dev.setF_mem ..⟩

/-- The object that DEFINE installs. -/
def Dev.defined (d : Dev) (t : Nat) (c : TierCmd) : Obj :=
  { d.defineImage c with state := 1, curTier := (d.defineImage c).homeTier, curAddr := (d.defineImage c).homeAddr,
                         dirtyBase := poolPlace t + 8 * (d.poolFree t (d.defineImage c).pages).getD 0, refMask := 0 }
section
variable (hi : c.objId % 2 ^ 20 = i) (ho : d.obj t i = o)
include hi

theorem tierStart_define (hop : c.op = 1) : d.tierStart t c =
    ((d.write (d.defined t c).dirtyBase (List.replicate (8 * (d.defineImage c).pages) 0#8)).putObj t i (d.defined t c),
      0, .none, 0, [], 0) := by
  unfold Dev.tierStart
  simp only [hop, hi]
  rfl

theorem tierStart_retire (hop : c.op = 2) : d.tierStart t c = (d.retire t i, 0, .none, 0, [], 0) := by
  unfold Dev.tierStart
  simp only [hop, hi]

include ho

theorem tierStart_promote {y : Dev × Nat × TierWork × Nat} (hop : c.op = 3) (hy : d.promote t i o c = y) :
    d.tierStart t c = (y.1, y.2.1, y.2.2.1, y.2.2.2, [], 0) := by
  unfold Dev.tierStart
  simp only [hop, hi, ho, hy]

/-- An object that DISCARD leaves. -/
def Obj.home (o : Obj) : Obj := { o with state := 1, curTier := o.homeTier, curAddr := o.homeAddr, refMask := 0 }
theorem tierStart_discard (hop : c.op = 6) : ∃ u : Dev, u.tier t = d.tier t ∧ (d.canon → u.canon) ∧
    d.tierStart t c = (u.putObj t i o.home, 0, .none, 0, [], 0) := by
  unfold Dev.tierStart
  simp only [hop, hi, ho]
  refine ⟨_, ?_, fun hd => ?_, rfl⟩
  · rw [Dev.write_tier]
    split
    · exact Dev.setTierUse_parts.1
    · rfl
  · split
    · exact hd.uncharge.write
    · exact hd.write

/-- An object without the reference of a slice. -/
def Obj.without (o : Obj) (s : Nat) : Obj := { o with refMask := clearBit o.refMask s }
theorem tierStart_evict_done (hop : c.op = 4)
    (hs : o.state ≠ 3 ∨ clearBit o.refMask c.slice ≠ 0) :
    d.tierStart t c = (d.putObj t i (o.without c.slice), 0, .none, 0, [], 0) := by
  unfold Dev.tierStart
  simp only [hop, hi, ho]
  exact if_pos (by simpa using hs)

theorem tierStart_evict_begins (hop : c.op = 4) (hs : o.state = 3)
    (hr : clearBit o.refMask c.slice = 0) (hh : o.homeTier = 2) :
    d.tierStart t c = ((d.putObj t i (o.without c.slice)).putObj t i
      { o.without c.slice with state := 4 }, 0, .evict, 0, [], 0) := by
  unfold Dev.tierStart
  simp only [hop, hi, ho, hs, hr, hh, beq_self_eq_true, if_true, bne_self_eq_false, Bool.and_false, Bool.or_false, Bool.false_eq_true, if_false,
    Obj.without]

theorem tierStart_clean_begins (hop : c.op = 5) (hs : o.state = 3) (hh : o.homeTier = 2) :
    d.tierStart t c = (d.putObj t i o, 0, .clean, 0, [], 0) := by
  unfold Dev.tierStart
  simp only [hop, hi, ho, hs, hh, Nat.reduceBEq, beq_self_eq_true, if_true, bne_self_eq_false, Bool.false_and, Bool.or_false, Bool.false_eq_true, if_false]

end

/-! ## PROMOTE -/

/-- An object with the reference of a slice. -/
def Obj.withRef (o : Obj) (s : Nat) : Obj := { o with refMask := setBit o.refMask s }

theorem promote_upper (hu : o.upper = true) : d.promote t i o c =
    (d.putObj t i (o.withRef c.slice), if o.curTier = c.tier ∧ o.curAddr = c.addr then 0 else 2, .none, 0) := by
  have up : (o.withRef c.slice).upper = true := hu
  unfold Dev.promote
  refine (if_pos up).trans ?_
  simp only [Bool.and_eq_true, beq_iff_eq, Obj.withRef]

theorem promote_spilled (hu : o.upper = false) (hq : d.quota o.owner (quotaOff c.tier) < d.tierUse t o.owner c.tier + o.pages) :
    d.promote t i o c = (((d.putObj t i (o.withRef c.slice)).count (Reg.TIER_SPILL_COUNT t) F.TIER_SPILL_COUNT_COUNT 1).raise 0x4001 c.slice
      (tierUnit t) c.objId (c.tier + d.tierUse t o.owner c.tier * 2 ^ 32), 1, .none, 0) := by
  have low : ¬ (o.withRef c.slice).upper = true := by rw [Bool.not_eq_true]; exact hu
  unfold Dev.promote
  exact (if_neg low).trans (if_pos hq)

/-- An object whose upper copy is being made. -/
def Obj.moving (o : Obj) (c : TierCmd) : Obj := { o.withRef c.slice with state := 2, curTier := c.tier, curAddr := c.addr }
theorem promote_copies (hu : o.upper = false) (hq : d.tierUse t o.owner c.tier + o.pages ≤ d.quota o.owner (quotaOff c.tier)) :
    ∃ asks n, d.promote t i o c = ({ (d.putObj t i (o.moving c)).charge t (o.moving c) with asks := asks }, 0, .copy, n) := by
  have low : ¬ (o.withRef c.slice).upper = true := by rw [Bool.not_eq_true]; exact hu
  unfold Dev.promote
  exact ⟨_, _, (if_neg low).trans (if_neg (Nat.not_lt.2 hq))⟩

/-! ## What the tables read back -/

theorem setBit_lt {m b : Nat} (hm : m < 2 ^ 64) (hb : b < 64) : setBit m b < 2 ^ 64 := by
  unfold setBit
  split
  · exact hm
  next clear =>
    obtain ⟨k, hk⟩ : ∃ k, 64 = b + (k + 1) := ⟨63 - b, by omega⟩
    have pow : 2 ^ 64 = 2 ^ b * (2 * 2 ^ k) := by rw [hk, Nat.pow_add, Nat.pow_succ']
    have split : m = m % 2 ^ b + 2 ^ b * (m / 2 ^ b) := (Nat.mod_add_div m _).symm
    have high : m / 2 ^ b < 2 * 2 ^ k := Nat.div_lt_of_lt_mul (by rwa [← pow])
    have next' : m / 2 ^ b + 1 + 1 ≤ 2 * 2 ^ k := by
      simp only [beq_iff_eq] at clear
      omega
    have low := Nat.mod_lt m (Nat.two_pow_pos b)
    calc m + 2 ^ b < 2 ^ b * (m / 2 ^ b) + 2 ^ b + 2 ^ b := by omega
      _ = 2 ^ b * (m / 2 ^ b + 1 + 1) := by simp only [Nat.mul_add, Nat.mul_one]
      _ ≤ 2 ^ 64 := by rw [pow]; exact Nat.mul_le_mul_left _ next'
theorem clearBit_le (m b : Nat) : clearBit m b ≤ m := by
  unfold clearBit
  split
  · exact Nat.sub_le ..
  · exact Nat.le_refl _
theorem TierCmd.slice_lt (c : TierCmd) : c.slice < 64 := Nat.mod_lt _ (by decide)
theorem TierCmd.tier_lt (c : TierCmd) : c.tier < 8 := Nat.mod_lt _ (by decide)
theorem TierCmd.addr_lt (c : TierCmd) : c.addr < 2 ^ 64 := c.w2.isLt

theorem Obj.withRef_stored (hf : o.Fits) : (o.withRef c.slice).stored.refMask = setBit o.refMask c.slice ∧
    (o.withRef c.slice).stored.state = o.state ∧ (o.withRef c.slice).stored.curAddr = o.curAddr :=
  ⟨Nat.mod_eq_of_lt (setBit_lt hf.refMask c.slice_lt), Nat.mod_eq_of_lt hf.state, Nat.mod_eq_of_lt hf.curAddr⟩
theorem Obj.moving_stored (hf : o.Fits) : (o.moving c).stored.refMask = setBit o.refMask c.slice ∧ (o.moving c).stored.state = 2 ∧
    (o.moving c).stored.curTier = c.tier ∧ (o.moving c).stored.curAddr = c.addr :=
  ⟨Nat.mod_eq_of_lt (setBit_lt hf.refMask c.slice_lt), rfl, Nat.mod_eq_of_lt (Nat.lt_trans c.tier_lt (by decide)), Nat.mod_eq_of_lt c.addr_lt⟩
theorem Obj.without_stored (hf : o.Fits) : (o.without c.slice).stored.refMask = clearBit o.refMask c.slice ∧
    (o.without c.slice).stored.state = o.state :=
  ⟨Nat.mod_eq_of_lt (Nat.lt_of_le_of_lt (clearBit_le _ _) hf.refMask), Nat.mod_eq_of_lt hf.state⟩
theorem Obj.home_stored (hf : o.Fits) : o.home.stored.refMask = 0 ∧ o.home.stored.state = 1 ∧ o.home.stored.curAddr = o.homeAddr :=
  ⟨rfl, rfl, Nat.mod_eq_of_lt hf.homeAddr⟩

theorem defineImage_fits (d : Dev) (c : TierCmd) : (d.defineImage c).Fits := by
  unfold Dev.defineImage
  split <;> exact objOf_fits _
theorem Dev.defined_stored {n : Nat} : (d.defined n c).stored.state = 1 ∧ (d.defined n c).stored.refMask = 0 ∧
    (d.defined n c).stored.id = (d.defineImage c).id ∧ (d.defined n c).stored.owner = (d.defineImage c).owner ∧
    (d.defined n c).stored.pages = (d.defineImage c).pages ∧ (d.defined n c).stored.curAddr = (d.defineImage c).homeAddr := by
  have hf := defineImage_fits d c
  exact ⟨rfl, rfl, Nat.mod_eq_of_lt hf.id, Nat.mod_eq_of_lt hf.owner, Nat.mod_eq_of_lt hf.pages, Nat.mod_eq_of_lt hf.homeAddr⟩

theorem Dev.obj_retire {n : Nat} (hd : d.canon) : ((d.retire n i).obj n i).state = 0 := by
  rw [Dev.obj, Dev.retire, Dev.bytes_write_self hd (List.length_replicate ..)]
  rfl

/-- The events of a device after one more has arisen depend on those before, on device time and on the tick. -/
theorem Dev.raise_ev_of {a b f g : Nat} {x : BitVec 16} (he : e.ev = d.ev) (hn : e.now = d.now) (ht : e.tickNo = d.tickNo) :
    (e.raise a b x f g).ev = (d.raise a b x f g).ev := by
  rw [Dev.raise, Dev.raise, he, hn, ht]

/-- An event after a count: the tier engines and the stores are as they were, and the event is the one that would have arisen before. -/
theorem Dev.raise_count_keeps {a x y z w m : Nat} {f : Fld} {b : BitVec 16} (hd : d.canon) (ha : a ≠ Reg.TICK_CFG) :
    ((d.count a f n).raise x y b z w).tier m = d.tier m ∧ ((d.count a f n).raise x y b z w).mem = d.mem ∧
    ((d.count a f n).raise x y b z w).ev = (d.raise x y b z w).ev := by
  have quiet : Dev.Quiet (· = a) d (d.count a f n) := Dev.Quiet.refl.count rfl
  have tier := Dev.count_tier d a f n m
  have ev := Dev.count_ev d a f n
  have now := Dev.count_now d a f n
  have mem := Dev.count_mem d a f n
  have reg := quiet.regs hd Reg.TICK_CFG (Ne.symm ha)
  generalize d.count a f n = e at *
  exact ⟨tier, mem, Dev.raise_ev_of ev now (Dev.tickNo_of now reg)⟩

theorem Dev.queued_image {n : Nat} : (d.queued n q).defineImage c = d.defineImage c := rfl
theorem Dev.queued_use {n s tier : Nat} : (d.queued n q).tierUse n s tier = d.tierUse n s tier := rfl
theorem Dev.queued_quota {n s tier : Nat} : (d.queued n q).quota s tier = d.quota s tier := rfl

/-! ## Each command begun -/

/-- A stream of a tile has begun command `c`, with a status and its data work, and `q` waits. -/
def Dev.begunAs (e : Dev) (t : Nat) (ext : Bool) (c : TierCmd) (q : List TierCmd) (st : Nat) (w : TierWork) : Prop :=
  ∃ r, (e.tier t).run ext = some r ∧ r.cmd = c ∧ r.status = st ∧ r.reason = 0 ∧ r.work = w ∧ (e.tier t).queue = q

/-- A tile's stream has a next command whose descriptor line is good. -/
structure Dev.nextIs (d : Dev) (t : Tile) (ext : Bool) (c : TierCmd) (q : List TierCmd) (i : Nat) : Prop where
  canon : d.canon
  next : d.tierNext t ext = some (c, q)
  index : c.objId % 2 ^ 20 = i
  good : d.bad (objPlace t i / 64) = false

theorem tierBegin_ofNext {y : Dev × Nat × TierWork × Nat × List Nat × Nat} (h : d.nextIs t ext c q i) (hc : (d.queued t q).tierCheck t c = none)
    (hy : (d.queued t q).tierStart t c = y) (ht : y.1.tier t = (d.queued t q).tier t) :
    (d.tierBegin t ext c.op).begunAs t ext c q y.2.1 y.2.2.1 ∧ (d.tierBegin t ext c.op).obj t i = y.1.obj t i ∧ (d.tierBegin t ext c.op).ev = y.1.ev :=
  tierBegin_begun h.canon h.next (by rw [h.index]; exact h.good) hc hy ht

section
variable (h : d.nextIs t ext c q i) (hc : (d.queued t q).tierCheck t c = none)
include h hc

theorem tierDefine_begins (hop : c.op = 1) : (d.tierBegin t ext 1).begunAs t ext c q 0 .none ∧ ((d.tierBegin t ext 1).obj t i).state = 1 ∧
    ((d.tierBegin t ext 1).obj t i).refMask = 0 ∧ ((d.tierBegin t ext 1).obj t i).id = c.objId ∧ ((d.tierBegin t ext 1).obj t i).owner = c.slice ∧
    ((d.tierBegin t ext 1).obj t i).pages = (d.defineImage c).pages ∧ ((d.tierBegin t ext 1).obj t i).curAddr = (d.defineImage c).homeAddr := by
  obtain ⟨canon, -⟩ := Dev.queued_facts (t := t) (q := q) h.canon
  obtain ⟨begun, obj, -⟩ := tierBegin_ofNext h hc (tierStart_define h.index hop) (Dev.putObj_tier.trans (Dev.write_tier _))
  obtain ⟨named, owned⟩ := tierCheck_define hop hc
  obtain ⟨state, refMask, id, owner, pages, curAddr⟩ := Dev.defined_stored (d := d.queued t q) (c := c) (n := t)
  rw [hop] at begun obj
  rw [obj, Dev.obj_putObj_stored canon.write, state, refMask, id, owner, pages, curAddr, named, owned, Dev.queued_image]
  exact ⟨begun, rfl, rfl, rfl, rfl, rfl, rfl⟩

theorem tierRetire_begins (hop : c.op = 2) : (d.tierBegin t ext 2).begunAs t ext c q 0 .none ∧ ((d.tierBegin t ext 2).obj t i).state = 0 := by
  obtain ⟨canon, -⟩ := Dev.queued_facts (t := t) (q := q) h.canon
  obtain ⟨begun, obj, -⟩ := tierBegin_ofNext h hc (tierStart_retire h.index hop) (Dev.write_tier _)
  rw [hop] at begun obj
  rw [obj, Dev.obj_retire canon]
  exact ⟨begun, rfl⟩

theorem tierPromote_of (hop : c.op = 3) {y : Dev × Nat × TierWork × Nat} (hy : (d.queued t q).promote t i (d.obj t i) c = y)
    (ht : y.1.tier t = (d.queued t q).tier t) : (d.tierBegin t ext 3).begunAs t ext c q y.2.1 y.2.2.1 ∧
    (d.tierBegin t ext 3).obj t i = y.1.obj t i ∧ (d.tierBegin t ext 3).ev = y.1.ev := by
  have began := tierBegin_ofNext h hc (tierStart_promote h.index rfl hop hy) ht
  rwa [hop] at began

theorem tierPromote_again (hop : c.op = 3) (hu : (d.obj t i).upper = true) :
    (d.tierBegin t ext 3).begunAs t ext c q (if (d.obj t i).curTier = c.tier ∧ (d.obj t i).curAddr = c.addr then 0 else 2) .none ∧
    ((d.tierBegin t ext 3).obj t i).refMask = setBit (d.obj t i).refMask c.slice ∧ ((d.tierBegin t ext 3).obj t i).state = (d.obj t i).state ∧
    ((d.tierBegin t ext 3).obj t i).curAddr = (d.obj t i).curAddr := by
  obtain ⟨canon, -⟩ := Dev.queued_facts (t := t) (q := q) h.canon
  obtain ⟨begun, obj, -⟩ := tierPromote_of h hc hop (promote_upper hu) Dev.putObj_tier
  obtain ⟨refMask, state, curAddr⟩ := Obj.withRef_stored (c := c) (d.obj_fits t i)
  rw [obj, Dev.obj_putObj_stored canon, refMask, state, curAddr]
  exact ⟨begun, rfl, rfl, rfl⟩

theorem tierPromote_spills (hop : c.op = 3) (hu : (d.obj t i).upper = false)
    (hq : d.quota (d.obj t i).owner (quotaOff c.tier) < d.tierUse t (d.obj t i).owner c.tier + (d.obj t i).pages) :
    (d.tierBegin t ext 3).begunAs t ext c q 1 .none ∧ ((d.tierBegin t ext 3).obj t i).refMask = setBit (d.obj t i).refMask c.slice ∧
    ((d.tierBegin t ext 3).obj t i).state = (d.obj t i).state ∧ (d.tierBegin t ext 3).ev =
      (d.raise 0x4001 c.slice (tierUnit t) c.objId (c.tier + d.tierUse t (d.obj t i).owner c.tier * 2 ^ 32)).ev := by
  obtain ⟨canon, -, -, ev', tick', now'⟩ := Dev.queued_facts (t := t) (q := q) h.canon
  have promote := promote_spilled (t := t) (i := i) (d := d.queued t q) (o := d.obj t i) (c := c) hu (by rw [Dev.queued_use, Dev.queued_quota]; exact hq)
  have canon' := canon.putObj (t := t) (i := i) (o := (d.obj t i).withRef c.slice)
  have read := Dev.obj_putObj_stored (n := t) (i := i) (o := (d.obj t i).withRef c.slice) canon
  have tier : ((d.queued t q).putObj t i ((d.obj t i).withRef c.slice)).tier t = (d.queued t q).tier t := Dev.putObj_tier
  have raised : (((d.queued t q).putObj t i ((d.obj t i).withRef c.slice)).raise 0x4001 c.slice (tierUnit t) c.objId
      (c.tier + d.tierUse t (d.obj t i).owner c.tier * 2 ^ 32)).ev = _ :=
    Dev.raise_ev_of (Dev.putObj_ev.trans ev') (Dev.write_now.trans now') (Dev.tickNo_of (Dev.write_now.trans now') (Dev.write_reg _))
  rw [Dev.queued_use] at promote
  generalize (d.queued t q).putObj t i ((d.obj t i).withRef c.slice) = u at *
  obtain ⟨tier', mem, ev⟩ := Dev.raise_count_keeps (d := u) (a := Reg.TIER_SPILL_COUNT t) (f := F.TIER_SPILL_COUNT_COUNT) (n := 1) (x := 0x4001)
    (y := c.slice) (b := tierUnit t) (z := c.objId) (w := c.tier + d.tierUse t (d.obj t i).owner c.tier * 2 ^ 32) (m := t) canon'
    (by simp only [Reg.TIER_SPILL_COUNT, Reg.TICK_CFG]; omega)
  obtain ⟨begun, obj, ev''⟩ := tierPromote_of h hc hop promote (tier'.trans tier)
  obtain ⟨refMask, state, -⟩ := Obj.withRef_stored (c := c) (d.obj_fits t i)
  rw [obj, Dev.obj_of mem, read, refMask, state, ev'', ev, raised]
  exact ⟨begun, rfl, rfl, rfl⟩

theorem tierPromote_copies (hop : c.op = 3) (hu : (d.obj t i).upper = false)
    (hq : d.tierUse t (d.obj t i).owner c.tier + (d.obj t i).pages ≤ d.quota (d.obj t i).owner (quotaOff c.tier)) :
    (d.tierBegin t ext 3).begunAs t ext c q 0 .copy ∧ ((d.tierBegin t ext 3).obj t i).refMask = setBit (d.obj t i).refMask c.slice ∧
    ((d.tierBegin t ext 3).obj t i).state = 2 ∧ ((d.tierBegin t ext 3).obj t i).curTier = c.tier ∧
    ((d.tierBegin t ext 3).obj t i).curAddr = c.addr ∧ (d.tierBegin t ext 3).ev = d.ev := by
  obtain ⟨canon, -, -, ev', -⟩ := Dev.queued_facts (t := t) (q := q) h.canon
  obtain ⟨asks, n, promote⟩ := promote_copies (t := t) (i := i) (d := d.queued t q) (o := d.obj t i) (c := c) hu
    (by rw [Dev.queued_use, Dev.queued_quota]; exact hq)
  obtain ⟨tier, ev'', mem⟩ := Dev.setTierUse_parts (d := (d.queued t q).putObj t i ((d.obj t i).moving c)) (n := t) (m := t) (s := ((d.obj t i).moving c).owner)
    (tier := ((d.obj t i).moving c).curTier)
    (v := ((d.queued t q).putObj t i ((d.obj t i).moving c)).tierUse t ((d.obj t i).moving c).owner ((d.obj t i).moving c).curTier + ((d.obj t i).moving c).pages)
  obtain ⟨begun, obj, ev⟩ := tierPromote_of h hc hop promote (tier.trans Dev.putObj_tier)
  obtain ⟨refMask, state, curTier, curAddr⟩ := Obj.moving_stored (c := c) (d.obj_fits t i)
  have read : (d.tierBegin t ext 3).obj t i = _ := obj.trans ((Dev.obj_of mem).trans (Dev.obj_putObj_stored canon))
  rw [read, refMask, state, curTier, curAddr]
  exact ⟨begun, rfl, rfl, rfl, rfl, ev.trans (ev''.trans (Dev.putObj_ev.trans ev'))⟩

theorem tierEvict_released (hop : c.op = 4) (hs : (d.obj t i).state ≠ 3 ∨ clearBit (d.obj t i).refMask c.slice ≠ 0) :
    (d.tierBegin t ext 4).begunAs t ext c q 0 .none ∧ ((d.tierBegin t ext 4).obj t i).refMask = clearBit (d.obj t i).refMask c.slice ∧
    ((d.tierBegin t ext 4).obj t i).state = (d.obj t i).state := by
  obtain ⟨canon, -⟩ := Dev.queued_facts (t := t) (q := q) h.canon
  obtain ⟨begun, obj, -⟩ := tierBegin_ofNext h hc (tierStart_evict_done h.index rfl hop hs) Dev.putObj_tier
  obtain ⟨refMask, state⟩ := Obj.without_stored (c := c) ((d.queued t q).obj_fits t i)
  rw [hop] at begun obj
  rw [obj, Dev.obj_putObj_stored canon, refMask, state]
  exact ⟨begun, rfl, rfl⟩

theorem tierEvict_begins (hop : c.op = 4) (hs : (d.obj t i).state = 3) (hr : clearBit (d.obj t i).refMask c.slice = 0)
    (hh : (d.obj t i).homeTier = 2) : (d.tierBegin t ext 4).begunAs t ext c q 0 .evict ∧ ((d.tierBegin t ext 4).obj t i).refMask = 0 ∧
    ((d.tierBegin t ext 4).obj t i).state = 4 := by
  obtain ⟨canon, -⟩ := Dev.queued_facts (t := t) (q := q) h.canon
  obtain ⟨begun, obj, -⟩ := tierBegin_ofNext h hc (tierStart_evict_begins h.index rfl hop hs hr hh) (Dev.putObj_tier.trans Dev.putObj_tier)
  rw [hop] at begun obj
  rw [obj, Dev.obj_putObj_stored canon.putObj]
  exact ⟨begun, (Obj.without_stored ((d.queued t q).obj_fits t i)).1.trans hr, rfl⟩

theorem tierClean_begins (hop : c.op = 5) (hs : (d.obj t i).state = 3) (hh : (d.obj t i).homeTier = 2) :
    (d.tierBegin t ext 5).begunAs t ext c q 0 .clean ∧ ((d.tierBegin t ext 5).obj t i).state = 3 ∧
    ((d.tierBegin t ext 5).obj t i).refMask = (d.obj t i).refMask := by
  obtain ⟨canon, -⟩ := Dev.queued_facts (t := t) (q := q) h.canon
  obtain ⟨begun, obj, -⟩ := tierBegin_ofNext h hc (tierStart_clean_begins h.index rfl hop hs hh) Dev.putObj_tier
  have fits := (d.queued t q).obj_fits t i
  rw [hop] at begun obj
  rw [obj, Dev.obj_putObj_stored canon]
  exact ⟨begun, (Nat.mod_eq_of_lt fits.state).trans hs, Nat.mod_eq_of_lt fits.refMask⟩

theorem tierDiscard_begins (hop : c.op = 6) : (d.tierBegin t ext 6).begunAs t ext c q 0 .none ∧ ((d.tierBegin t ext 6).obj t i).refMask = 0 ∧
    ((d.tierBegin t ext 6).obj t i).state = 1 ∧ ((d.tierBegin t ext 6).obj t i).curAddr = (d.obj t i).homeAddr := by
  obtain ⟨canon, -⟩ := Dev.queued_facts (t := t) (q := q) h.canon
  obtain ⟨u, tier, canon', start⟩ := tierStart_discard (d := d.queued t q) h.index rfl hop
  obtain ⟨begun, obj, -⟩ := tierBegin_ofNext h hc start (Dev.putObj_tier.trans tier)
  obtain ⟨refMask, state, curAddr⟩ := Obj.home_stored ((d.queued t q).obj_fits t i)
  rw [hop] at begun obj
  rw [obj, Dev.obj_putObj_stored (canon' canon), refMask, state, curAddr]
  exact ⟨begun, rfl, rfl, rfl⟩

end

/-- A command that fails a check of Table 08.10. -/
theorem tierBegin_rejected {r : Nat} (h : d.nextIs t ext c q i) (hc : (d.queued t q).tierCheck t c = some r) :
    (∃ x, ((d.tierBegin t ext c.op).tier t).run ext = some x ∧ x.cmd = c ∧ x.status = 7 ∧ x.reason = r ∧ x.work = .none) ∧
    (d.tierBegin t ext c.op).mem = d.mem ∧ (d.tierBegin t ext c.op).ev = (d.raise 0x4002 c.slice (tierUnit t) c.objId (r + c.op * 256)).ev := by
  obtain ⟨canon, -, mem', ev', tick', now'⟩ := Dev.queued_facts (t := t) (q := q) h.canon
  obtain ⟨run, -, mem, ev⟩ := Dev.running_facts (t := t) (ext := ext) (r := ⟨c, 7, r, .none, 0, 0, [], 0⟩)
    (canon.raise (code := 0x4002) (slice := c.slice) (unit := tierUnit t) (object := c.objId) (detail := r + c.op * 256))
  rw [tierBegin_fails h.next (by rw [h.index]; exact h.good) hc]
  exact ⟨⟨_, run, rfl, rfl, rfl, rfl⟩, mem.trans ((Dev.raise_mem ..).trans mem'), ev.trans (Dev.raise_ev_of ev' now' tick')⟩

/-- Settles O21: by what each effect of Table 08.8 puts into the object table, read back, and the run that the stream then holds. -/
theorem tierCommandsQueueCheckAndBegin : Obligations.TierCommandsQueueCheckAndBegin := by
  unfold Obligations.TierCommandsQueueCheckAndBegin
  refine ⟨fun m t w v s hs => ⟨fun hm => runs_ranFrom rfl hs (tierCmdPush_other hm), fun hm hw => ?_, fun hm hw hd => ?_⟩, fun m t w v s hs => ⟨fun hm => ?_, fun hm => ?_⟩, fun t ext c q s hs hd hn hb => ?_⟩
  · subst hm
    exact runs_ranFrom rfl hs (tierCmdPush_steward fun h => hw (Fin.ext h))
  · subst hm hw
    have canon : (s.dev.setReg (Reg.TIER_CMD_PUSH t 3) v).canon := hd.setReg
    refine ⟨fun hq => runs_ranFrom rfl hs ?_, fun hq => runs_ranFrom rfl hs ?_⟩
    · rw [show tierCmdPushEffect (stewardOf t) t (3 : Fin 4) v s.dev = _ from tierCmdPush_last hd]
      exact Dev.tierPush_queued canon hq
    · exact (tierCmdPush_last hd).trans (if_pos hq)
  · subst hm
    refine runs_ranFrom rfl hs ?_
    unfold tierFlagClearEffect
    exact if_neg (by simp)
  · exact runs_ranFrom rfl hs (if_pos (by simpa using hm))
  · dsimp only
    have h : s.dev.nextIs t ext c q _ := ⟨hd, hn, rfl, hb⟩
    refine ⟨fun r hc => ?_, fun hc => ⟨fun hop => runs_ran rfl hs (tierDefine_begins h hc hop), fun hop => runs_ran rfl hs (tierRetire_begins h hc hop),
      fun hop hu => runs_ran rfl hs (tierPromote_again h hc hop hu), fun hop hu hq => runs_ran rfl hs (tierPromote_spills h hc hop hu hq),
      fun hop hu hq => runs_ran rfl hs (tierPromote_copies h hc hop hu hq), fun hop hr => runs_ran rfl hs (tierEvict_released h hc hop hr),
      fun hop hs' hr hh => runs_ran rfl hs (tierEvict_begins h hc hop hs' hr hh), fun hop hs' hh => runs_ran rfl hs (tierClean_begins h hc hop hs' hh),
      fun hop => runs_ran rfl hs (tierDiscard_begins h hc hop)⟩⟩
    have rejected := tierBegin_rejected h hc
    refine ⟨fun hop => ?_, fun hop => ?_, fun hop => ?_, fun hop => ?_, fun hop => ?_, fun hop => ?_⟩ <;>
      exact runs_ran rfl hs (by rw [hop] at rejected ⊢; exact rejected)

end Sys2Proof.Machine
end

section
/-! SUPPORT. Tier commands: their ends (R199, R202, R204, R208, R209). -/
namespace Sys2Proof.Machine

-- One proof after another: with many at once their threads' stacks exceed the memory that the check allows.
set_option Elab.async false

variable {d e : Dev} {t : Tile} {ext : Bool} {c : TierCmd} {r : TierRun} {o : Obj} {i n : Nat}

theorem Dev.Quiet.tier {p : Nat → Prop} (h : Dev.Quiet p d e) (t : Nat) : e.tier t = d.tier t := (congrArg (Dev.tier · t) h.rest :)
theorem Dev.Quiet.byte {p : Nat → Prop} (h : Dev.Quiet p d e) (a : Nat) : e.byte a = d.byte a := (congrArg (Dev.byte · a) h.rest :)

/-! ## The completion record -/

/-- The bytes of a completion record (Table 08.9). -/
def Dev.recordBytes (d : Dev) (c : TierCmd) (st reason : Nat) : Bytes :=
  leBytes 4 c.objId ++ leBytes 1 c.op ++ leBytes 1 st ++ leBytes 1 c.slice ++ leBytes 1 reason ++ leBytes 8 d.tickNo
theorem Dev.recordBytes_length (st reason : Nat) : (d.recordBytes c st reason).length = 16 := rfl

/-- The place of the next record in a tile's completion ring. -/
def Dev.recordPlace (d : Dev) (t : Nat) : Nat := reserveBase t + 0x08000000 + 16 * d.getF (Reg.TIER_DONE_HEAD t) F.TIER_DONE_HEAD_HEAD

/-- A flag of a tile's engine is set where a command asks for it. -/
def Dev.flagged (d : Dev) (t : Nat) (c : TierCmd) : Dev :=
  if c.w3.toNat / 1024 % 2 == 1 then
    d.setReg (Reg.TIER_FLAGS t (c.w3.toNat % 1024 / 64)) (d.reg (Reg.TIER_FLAGS t (c.w3.toNat % 1024 / 64)) ||| BitVec.ofNat 64 (2 ^ (c.w3.toNat % 1024 % 64)))
  else d

theorem Dev.tierRecord_eq (st reason : Nat) : d.tierRecord t c st reason = ((d.write (d.recordPlace t) (d.recordBytes c st reason)).setF (Reg.TIER_DONE_HEAD t)
    F.TIER_DONE_HEAD_HEAD (d.getF (Reg.TIER_DONE_HEAD t) F.TIER_DONE_HEAD_HEAD + 1)).flagged t c := rfl

theorem Dev.flagged_quiet : Dev.Quiet (fun a => ∃ w, w < 16 ∧ a = Reg.TIER_FLAGS t w) d (d.flagged t c) := by
  unfold Dev.flagged
  exact .ite (Dev.Quiet.refl.setReg ⟨_, by omega, rfl⟩) .refl

theorem Dev.flagged_sets (hd : d.canon) (hc : c.w3.toNat / 1024 % 2 = 1) :
    ((d.flagged t c).reg (Reg.TIER_FLAGS t (c.w3.toNat % 1024 / 64))).getLsbD (c.w3.toNat % 1024 % 64) = true := by
  rw [Dev.flagged, if_pos (beq_iff_eq.2 hc), Dev.reg_setReg_self _ _ hd, BitVec.getLsbD_or, BitVec.getLsbD_ofNat, Nat.testBit_two_pow_self]
  simp only [Bool.and_true, Bool.or_eq_true, decide_eq_true_eq]
  omega

/-- A completion record changes its 16 bytes alone, moves the head by one round the ring and sets the command's flag. -/
theorem Dev.tierRecord_facts {st reason : Nat} (hd : d.canon) :
    (∀ a, a < d.recordPlace t ∨ d.recordPlace t + 16 ≤ a → (d.tierRecord t c st reason).byte a = d.byte a) ∧
    (∀ n, n < 16 → (d.tierRecord t c st reason).byte (d.recordPlace t + n) = (d.recordBytes c st reason).getD n 0#8) ∧
    (d.tierRecord t c st reason).tier t = d.tier t ∧
    (d.tierRecord t c st reason).getF (Reg.TIER_DONE_HEAD t) F.TIER_DONE_HEAD_HEAD =
      (d.getF (Reg.TIER_DONE_HEAD t) F.TIER_DONE_HEAD_HEAD + 1) % 4096 ∧
    (c.w3.toNat / 1024 % 2 = 1 →
      ((d.tierRecord t c st reason).reg (Reg.TIER_FLAGS t (c.w3.toNat % 1024 / 64))).getLsbD (c.w3.toNat % 1024 % 64) = true) := by
  rw [Dev.tierRecord_eq]
  have len := Dev.recordBytes_length (d := d) (c := c) st reason
  have canon := hd.write (a := d.recordPlace t) (l := d.recordBytes c st reason)
  have out := fun a ha => Dev.byte_write_out (d.recordPlace t) a (d.recordBytes c st reason) hd (by rw [len]; exact ha)
  have into := fun n (hn : n < 16) => Dev.byte_write_in (d.recordPlace t) n (d.recordBytes c st reason) hd (by rw [len]; exact hn)
  have tier := Dev.write_tier (d := d) (a := d.recordPlace t) (l := d.recordBytes c st reason) t
  generalize d.write (d.recordPlace t) (d.recordBytes c st reason) = u at *
  generalize d.getF (Reg.TIER_DONE_HEAD t) F.TIER_DONE_HEAD_HEAD + 1 = v
  have head := Dev.getF_setF_mod (a := Reg.TIER_DONE_HEAD t) (f := F.TIER_DONE_HEAD_HEAD) (v := v) canon
  have canon' := canon.setF (a := Reg.TIER_DONE_HEAD t) (f := F.TIER_DONE_HEAD_HEAD) (v := v)
  have quiet := Dev.flagged_quiet (d := u.setF (Reg.TIER_DONE_HEAD t) F.TIER_DONE_HEAD_HEAD v) (t := t) (c := c)
  have kept := quiet.regs canon' (Reg.TIER_DONE_HEAD t) (by rintro ⟨w, hw, he⟩; simp only [Reg.TIER_DONE_HEAD, Reg.TIER_FLAGS] at he; omega)
  have byte : ∀ a, _ := fun a => (quiet.byte a).trans (Dev.setF_byte u (Reg.TIER_DONE_HEAD t) F.TIER_DONE_HEAD_HEAD v a)
  refine ⟨fun a ha => (byte a).trans (out a ha), fun n hn => (byte _).trans ((into n hn).trans ?_), ?_, ?_, fun hc => Dev.flagged_sets canon' hc⟩
  · rw [List.getD_eq_getElem _ _ (by rw [len]; exact hn)]
  · exact (quiet.tier t).trans ((Dev.setF_tier ..).trans tier)
  · rw [Dev.getF, kept, ← Dev.getF, head]
    rfl

/-! ## Completion -/

/-- The device with a stream of a tile at rest, and the status register told. -/
def Dev.rested (d : Dev) (t : Nat) (ext : Bool) : Dev := (d.setTier t ((d.tier t).setRun ext none)).tierSync t

theorem Dev.rested_facts (hd : d.canon) : (d.rested t ext).canon ∧ ((d.rested t ext).tier t).run ext = none ∧ (d.rested t ext).mem = d.mem ∧
    (d.rested t ext).lineErr = d.lineErr ∧ (d.rested t ext).now = d.now ∧ ∀ a, a ≠ Reg.TIER_STATUS t → (d.rested t ext).reg a = d.reg a := by
  have canon := hd.setTier (t := t) (x := (d.tier t).setRun ext none)
  have tier := Dev.tier_setTier d t ((d.tier t).setRun ext none) hd
  refine ⟨canon.tierSync, ?_, ?_, ?_, ?_, fun a ha => ?_⟩
  · rw [Dev.rested, Dev.tierSync, Dev.setFs_tier, tier, (TierState.run_setRun _ _).1]
  · rw [Dev.rested, Dev.tierSync, Dev.setFs_mem, Dev.setTier_mem]
  · rw [Dev.rested, Dev.tierSync, Dev.setFs_lineErr, Dev.setTier_lineErr]
  · rw [Dev.rested, Dev.tierSync, Dev.setFs_now, Dev.setTier_now]
  · rw [Dev.rested, Dev.tierSync, Dev.reg_setFs_ne _ canon (Ne.symm ha), Dev.setTier_reg]

theorem Dev.rested_tickNo (hd : d.canon) : (d.rested t ext).tickNo = d.tickNo := by
  obtain ⟨-, -, -, -, now, reg⟩ := Dev.rested_facts (t := t) (ext := ext) hd
  exact Dev.tickNo_of now (reg _ (by simp only [Reg.TICK_CFG, Reg.TIER_STATUS]; omega))
theorem Dev.rested_recordPlace (hd : d.canon) : (d.rested t ext).recordPlace t = d.recordPlace t := by
  obtain ⟨-, -, -, -, -, reg⟩ := Dev.rested_facts (t := t) (ext := ext) hd
  rw [Dev.recordPlace, Dev.getF, reg _ (by simp only [Reg.TIER_DONE_HEAD, Reg.TIER_STATUS]; omega)]
  rfl

/-- A command whose Braid operations and host writes have ended, and whose home is not in T4, completes. -/
theorem tierCmdComplete_of {lower : Bytes} (hr : (d.tier t).run ext = some r) (hl : r.left = 0) (hi : r.ids = [])
    (hh : r.work = .none ∨ (d.obj t (r.cmd.objId % 2 ^ 20)).homeTier = 2) :
    tierCmdCompleteEffect t ext lower d = ((d.rested t ext).tierData t r lower).1.tierRecord t r.cmd ((d.rested t ext).tierData t r lower).2 r.reason := by
  have ready : (r.left != 0 || d.hostWrites.any (fun w => r.ids.contains w.id) ||
      (r.work == .copy && (d.obj t (r.cmd.objId % 2 ^ 20)).homeTier == 4 && lower.length != (d.obj t (r.cmd.objId % 2 ^ 20)).pages * 4096)) = false := by
    rw [hl, hi]
    rcases hh with hh | hh <;> rw [hh] <;> simp
  unfold tierCmdCompleteEffect
  simp only [hr, ready, Bool.false_eq_true, if_false]
  rfl

theorem tierData_none {lower : Bytes} (hw : r.work = .none) : d.tierData t r lower = (d, r.status) := by
  unfold Dev.tierData
  simp only [hw]

/-! ## The copy of a promotion (R202) -/

theorem Dev.snoopShared_parts {w : Bool} {a m : Nat} : (d.snoopShared w a m).mem = d.mem ∧ (d.snoopShared w a m).tier t = d.tier t := by
  unfold Dev.snoopShared
  generalize (decide (a < dramSize) && _) = shared
  split
  · rw [Dev.count_mem, Dev.count_tier]
    exact ⟨foldl_keeps Dev.mem (fun _ _ => Dev.send_mem ..) _ d, foldl_keeps (Dev.tier · t) (fun _ _ => Dev.send_tier ..) _ d⟩
  · exact ⟨rfl, rfl⟩

theorem Dev.clearWritten_parts {a m : Nat} : (d.clearWritten a).mem = d.mem ∧ (d.clearWritten a).tier m = d.tier m := ⟨rfl, rfl⟩
theorem Dev.clearWritten_fold {l : List Nat} {f : Nat → Nat} : (l.foldl (fun d i => d.clearWritten (f i)) d).mem = d.mem ∧
    (l.foldl (fun d i => d.clearWritten (f i)) d).tier n = d.tier n :=
  ⟨foldl_keeps Dev.mem (fun _ _ => (Dev.clearWritten_parts (m := 0)).1) l d, foldl_keeps (Dev.tier · n) (fun _ _ => Dev.clearWritten_parts.2) l d⟩

/-- The device once n bytes have come from `home` to `p`, the written bits of their pages are clear and the bytes are counted. -/
def Dev.copied (d : Dev) (t p home pages n : Nat) : Dev :=
  ((List.range pages).foldl (fun d i => d.clearWritten (p + 4096 * i))
    ((d.snoopShared false home (n / 64)).write p ((d.snoopShared false home (n / 64)).bytes home n))).count (Reg.TIER_BYTES_MOVED t)
    F.TIER_BYTES_MOVED_COUNT n

theorem Dev.copied_facts {p home pages : Nat} (hd : d.canon) : (d.copied t p home pages n).canon ∧ (d.copied t p home pages n).tier t = d.tier t ∧
    ∀ i, i < n → (d.copied t p home pages n).byte (p + i) = d.byte (home + i) := by
  obtain ⟨mem, tier⟩ := Dev.snoopShared_parts (d := d) (t := t) (w := false) (a := home) (m := n / 64)
  have canon := hd.snoopShared (write := false) (a := home) (lines := n / 64)
  unfold Dev.copied
  generalize d.snoopShared false home (n / 64) = u at *
  have canon' := canon.write (a := p) (l := u.bytes home n)
  have byte := fun i (hi : i < n) => Dev.byte_write_in p i (u.bytes home n) canon (by rw [Dev.bytes_length]; exact hi)
  have tier' := (Dev.write_tier (d := u) (a := p) (l := u.bytes home n) t).trans tier
  generalize u.write p (u.bytes home n) = v at *
  obtain ⟨mem'', tier''⟩ := Dev.clearWritten_fold (l := List.range pages) (f := fun i => p + 4096 * i) (d := v) (n := t)
  have canon'' : ((List.range pages).foldl (fun d i => d.clearWritten (p + 4096 * i)) v).canon := canon'.foldl .clearWritten
  generalize (List.range pages).foldl (fun d i => d.clearWritten (p + 4096 * i)) v = w at *
  refine ⟨canon''.count, (Dev.count_tier ..).trans (tier''.trans tier'), fun i hi => ?_⟩
  rw [Dev.count_byte, Dev.byte, mem'', ← Dev.byte, byte i hi]
  simp only [Dev.bytes, List.getElem_map, List.getElem_range, Dev.byte, mem]

theorem tierData_copies {lower : Bytes} {p : Nat} (hw : r.work = .copy) (hb : r.bad = 0) (ho : d.obj t (r.cmd.objId % 2 ^ 20) = o) (hh : o.homeTier = 2)
    (hp : d.place o.curAddr = some p) (hf : d.firstBad o.homeAddr (o.pages * 4096) = none) : d.tierData t r lower =
      ((d.copied t p o.homeAddr o.pages (o.pages * 4096)).putObj t (r.cmd.objId % 2 ^ 20) { o with state := 3 }, 0) := by
  have copy : d.copyIn t o lower = (d.copied t p o.homeAddr o.pages (o.pages * 4096), 0, 0) := by
    unfold Dev.copyIn
    simp only [hp, hh, beq_self_eq_true, if_true, hf]
    rfl
  unfold Dev.tierData
  simp only [hw, hb, ho, copy, bne_self_eq_false, Bool.false_eq_true, if_false, beq_self_eq_true, if_true]

/-- Places of a bench follow the core configurations. -/
theorem Dev.place_of {a : Nat} (h : ∀ n k, e.reg (Reg.KNEAD_CORE_CFG n k) = d.reg (Reg.KNEAD_CORE_CFG n k)) : e.place a = d.place a := by
  simp only [Dev.place, Dev.physOf, Dev.getB, Dev.getF, h]

/-! ## Failures (R208, R209) -/

/-- An object whose copy was abandoned. -/
def Obj.abandoned (o : Obj) : Obj := { o with state := 5, curTier := o.homeTier, curAddr := o.homeAddr }
theorem Obj.abandoned_stored (hf : o.Fits) : o.abandoned.stored.state = 5 ∧ o.abandoned.stored.curAddr = o.homeAddr ∧
    o.abandoned.stored.refMask = o.refMask := ⟨rfl, Nat.mod_eq_of_lt hf.homeAddr, Nat.mod_eq_of_lt hf.refMask⟩

theorem Dev.setTierUse_quiet {s tier v : Nat} :
    Dev.Quiet (fun a => a = Reg.TIER_SLICE_USE n s ∨ a = Reg.TIER_SLICE_USE_T2 n s) d (d.setTierUse n s tier v) := by
  unfold Dev.setTierUse
  split
  · exact Dev.Quiet.refl.setF (.inl rfl)
  · exact Dev.Quiet.refl.setF (.inl rfl)
  · exact Dev.Quiet.refl.setF (.inr rfl)

theorem Dev.abandonCopy_facts (hd : d.canon) : (d.abandonCopy t i).canon ∧ (d.abandonCopy t i).obj t i = (d.obj t i).abandoned.stored ∧
    (d.abandonCopy t i).ev = d.ev ∧ (d.abandonCopy t i).tier t = d.tier t ∧ (d.abandonCopy t i).now = d.now ∧
    (d.abandonCopy t i).reg Reg.TICK_CFG = d.reg Reg.TICK_CFG := by
  have owner := (d.obj_fits t i).owner
  have canon := hd.uncharge (t := t) (o := d.obj t i)
  obtain ⟨tier, ev, -⟩ := Dev.setTierUse_parts (d := d) (n := t) (m := t) (s := (d.obj t i).owner) (tier := (d.obj t i).curTier)
    (v := d.tierUse t (d.obj t i).owner (d.obj t i).curTier - (d.obj t i).pages)
  have quiet := Dev.setTierUse_quiet (d := d) (n := t) (s := (d.obj t i).owner) (tier := (d.obj t i).curTier)
    (v := d.tierUse t (d.obj t i).owner (d.obj t i).curTier - (d.obj t i).pages)
  have tick := quiet.regs hd Reg.TICK_CFG (by simp only [Reg.TICK_CFG, Reg.TIER_SLICE_USE, Reg.TIER_SLICE_USE_T2]; omega)
  have now := quiet.now
  rw [← Dev.uncharge] at tier ev now tick
  generalize hu : d.uncharge t (d.obj t i) = u at *
  have eq : d.abandonCopy t i = u.putObj t i (d.obj t i).abandoned := by rw [← hu]; rfl
  rw [eq]
  exact ⟨canon.putObj, Dev.obj_putObj_stored canon, Dev.putObj_ev.trans ev, Dev.putObj_tier.trans tier, Dev.write_now.trans now, (Dev.write_reg _).trans tick⟩

/-- A command whose data work has ended with a status. -/
def TierRun.ended (r : TierRun) (st : Nat) : TierRun := { r with status := st, work := .none, left := 0, bad := 0, ids := [] }
theorem Dev.tierEnd_facts {st : Nat} (hd : d.canon) : ((d.tierEnd t ext r st).tier t).run ext = some (r.ended st) ∧ (d.tierEnd t ext r st).mem = d.mem ∧
    (d.tierEnd t ext r st).ev = d.ev := by
  have kept : ∀ u : Dev, u.canon → ((u.setTier t ((u.tier t).setRun ext (some (r.ended st)))).tier t).run ext = some (r.ended st) := fun u hu => by
    rw [Dev.tier_setTier u t _ hu, (TierState.run_setRun _ _).1]
  exact ⟨kept _ (Dev.canon.asks hd), rfl, rfl⟩

theorem Dev.obj_of_bytes (h : ∀ n, n < 64 → e.byte (objPlace t i + n) = d.byte (objPlace t i + n)) : e.obj t i = d.obj t i := by
  have bytes : e.bytes (objPlace t i) 64 = d.bytes (objPlace t i) 64 := List.map_congr_left fun n hn => h n (List.mem_range.1 hn)
  rw [Dev.obj, Dev.obj, bytes]

/-- Settles O22: the record is written by R199's rule behind the data work, and the object's descriptor reads back as it was put. -/
theorem tierCommandsCompleteOrFail : Obligations.TierCommandsCompleteOrFail := by
  unfold Obligations.TierCommandsCompleteOrFail
  intro t ext r s hs hd hr
  dsimp only
  refine ⟨fun lower hw hl hi => runs_ran rfl hs ?_, fun p hw hl hi hb hh hp ha hf hres hap hhome => runs_ran rfl hs ?_, fun hlt => runs_ran rfl hs ?_,
    fun hge hw => runs_ran rfl hs ?_, fun pg hw hh => runs_ran rfl hs ?_⟩
  · rw [tierCmdComplete_of hr hl hi (.inl hw), tierData_none hw]
    obtain ⟨canon, idle, mem, -, now, reg⟩ := Dev.rested_facts (t := t) (ext := ext) hd
    obtain ⟨out, into, tier, head, flag⟩ := Dev.tierRecord_facts (t := t) (c := r.cmd) (st := r.status) (reason := r.reason) canon
    rw [Dev.rested_recordPlace hd] at out into
    have bytes : (s.dev.rested t ext).recordBytes r.cmd r.status r.reason = s.dev.recordBytes r.cmd r.status r.reason := by
      rw [Dev.recordBytes, Dev.rested_tickNo hd]
      rfl
    rw [bytes] at into
    have head' : (s.dev.rested t ext).getF (Reg.TIER_DONE_HEAD t) F.TIER_DONE_HEAD_HEAD = s.dev.getF (Reg.TIER_DONE_HEAD t) F.TIER_DONE_HEAD_HEAD := by
      rw [Dev.getF, reg _ (by simp only [Reg.TIER_DONE_HEAD, Reg.TIER_STATUS]; omega)]
      rfl
    have same : ∀ a, (s.dev.rested t ext).byte a = s.dev.byte a := fun a => congrArg (look memDflt · a) mem
    exact ⟨by rw [tier, idle], into, fun a ha => (out a ha).trans (same a), by rw [head, head'], fun hc f hf => by rw [hf]; exact flag hc⟩
  · obtain ⟨canon, idle, mem, lineErr, -, reg⟩ := Dev.rested_facts (t := t) (ext := ext) hd
    have obj : (s.dev.rested t ext).obj t (r.cmd.objId % 2 ^ 20) = s.dev.obj t (r.cmd.objId % 2 ^ 20) := Dev.obj_of mem
    have place : ∀ a, (s.dev.rested t ext).place a = s.dev.place a := fun a => Dev.place_of fun n k =>
      reg _ (by simp only [Reg.KNEAD_CORE_CFG, Reg.TIER_STATUS]; omega)
    have good : ∀ a n, (s.dev.rested t ext).firstBad a n = s.dev.firstBad a n := fun a n => by rw [Dev.firstBad, lineErr]; rfl
    have same : ∀ a, (s.dev.rested t ext).byte a = s.dev.byte a := fun a => congrArg (look memDflt · a) mem
    rw [tierCmdComplete_of hr hl hi (.inr hh), tierData_copies hw hb obj hh ((place _).trans hp) ((good _ _).trans hf)]
    generalize s.dev.obj t (r.cmd.objId % 2 ^ 20) = o at *
    have hidx : r.cmd.objId % 2 ^ 20 < 2 ^ 20 := Nat.mod_lt _ (by decide)
    generalize r.cmd.objId % 2 ^ 20 = i at *
    generalize s.dev.rested t ext = u at *
    obtain ⟨canon', tier, bytes⟩ := Dev.copied_facts (t := t) (p := p) (home := o.homeAddr) (pages := o.pages) (n := o.pages * 4096) canon
    generalize u.copied t p o.homeAddr o.pages (o.pages * 4096) = v at *
    have canon'' := canon'.putObj (t := t) (i := i) (o := { o with state := 3 })
    have read := Dev.obj_putObj_stored (n := t) (i := i) (o := { o with state := 3 }) canon'
    have out' := fun a ha => Dev.byte_write_out (objPlace t i) a { o with state := 3 }.bytes canon' ha
    have tier' : (v.putObj t i { o with state := 3 }).tier t = v.tier t := Dev.putObj_tier
    rw [← Dev.putObj] at out'
    generalize v.putObj t i { o with state := 3 } = w at *
    obtain ⟨out, -, tier'', -, -⟩ := Dev.tierRecord_facts (t := t) (c := r.cmd) (st := 0) (reason := r.reason) canon''
    have ring : w.getF (Reg.TIER_DONE_HEAD t) F.TIER_DONE_HEAD_HEAD < 4096 := Dev.getF_lt ..
    unfold Dev.recordPlace at out
    refine ⟨?_, ?_, fun n hn => ?_⟩
    · rw [Dev.obj_of_bytes fun n hn => out _ (by unfold objPlace; omega), read]
      rfl
    · rw [tier'', tier', tier, idle]
    · rw [out _ (by omega), out' _ (by rw [Obj.bytes_length]; unfold objPlace; omega), bytes n hn, same]
  · unfold tierDeadlineEffect
    rw [hr]
    exact if_pos hlt
  · have late : tierDeadlineEffect t ext s.dev = (s.dev.abandonCopy t (r.cmd.objId % 2 ^ 20)).tierEnd t ext r 4 := by
      unfold tierDeadlineEffect
      simp only [hr, hw]
      exact if_neg (Nat.not_lt.2 hge)
    obtain ⟨canon, obj, -⟩ := Dev.abandonCopy_facts (t := t) (i := r.cmd.objId % 2 ^ 20) hd
    obtain ⟨run, mem, -⟩ := Dev.tierEnd_facts (t := t) (ext := ext) (r := r) (st := 4) canon
    obtain ⟨state, curAddr, refMask⟩ := Obj.abandoned_stored (s.dev.obj_fits t (r.cmd.objId % 2 ^ 20))
    rw [late, Dev.obj_of mem, obj, state, curAddr, refMask]
    exact ⟨⟨_, run, rfl, rfl, rfl⟩, rfl, rfl, rfl⟩
  · have lost : lowerTierFailureEffect t ext pg s.dev = ((s.dev.abandonCopy t (r.cmd.objId % 2 ^ 20)).raise 0x4003 r.cmd.slice (tierUnit t) r.cmd.objId
        (4 + pg % 2 ^ 20 * 2 ^ 32)).tierEnd t ext r 3 := by
      unfold lowerTierFailureEffect
      simp only [hr, hw, hh]
      rfl
    obtain ⟨canon, obj, ev, -, now, reg⟩ := Dev.abandonCopy_facts (t := t) (i := r.cmd.objId % 2 ^ 20) hd
    obtain ⟨state, curAddr, -⟩ := Obj.abandoned_stored (s.dev.obj_fits t (r.cmd.objId % 2 ^ 20))
    rw [lost]
    generalize s.dev.abandonCopy t (r.cmd.objId % 2 ^ 20) = u at *
    obtain ⟨run, mem, ev'⟩ := Dev.tierEnd_facts (t := t) (ext := ext) (r := r) (st := 3)
      (canon.raise (code := 0x4003) (slice := r.cmd.slice) (unit := tierUnit t) (object := r.cmd.objId) (detail := 4 + pg % 2 ^ 20 * 2 ^ 32))
    rw [Dev.obj_of (mem.trans (Dev.raise_mem ..)), obj, state, curAddr]
    exact ⟨⟨_, run, rfl, rfl, rfl⟩, rfl, rfl, ev'.trans (Dev.raise_ev_of ev now (Dev.tickNo_of now reg))⟩

end Sys2Proof.Machine
end

section
/-! SUPPORT. Accesses of the host to device memory and the device's own writes to the host (R484 to R488). -/
namespace Sys2Proof.Machine

-- One proof after another: with many at once their threads' stacks exceed the memory that the check allows.
set_option Elab.async false

variable {d e : Dev} {a x ln id : Nat} {data : Bytes} {p : Bool} {w : HostWrite}

/-! ## Whole lines -/

/-- A write of one whole line stores its bytes, makes its check good and marks it written. -/
theorem Dev.write_line {l : Bytes} (hl : l.length = 64) : d.write (ln * 64) l =
    { d with mem := storeBytes d.mem (ln * 64) l, lineErr := store 0#16 d.lineErr ln 0#16, written := store false d.written ln true } := by
  have full : l.isEmpty = false := by
    cases l with
    | nil => cases hl
    | cons => rfl
  have first : ln * 64 / 64 = ln := Nat.mul_div_cancel _ (by decide)
  have last : (ln * 64 + l.length - 1) / 64 + 1 - ln = 1 := by omega
  have whole : (decide (ln * 64 ≤ ln * 64) && decide (ln * 64 + 64 ≤ ln * 64 + l.length)) = true := by
    simp only [Bool.and_eq_true, decide_eq_true_eq]
    omega
  unfold Dev.write
  simp only [full, Bool.false_eq_true, if_false, first, last, List.range_one, List.foldl_cons, List.foldl_nil, whole, Dev.touchLine, Bool.true_or, if_true,
    Nat.add_zero]

/-- The device whose check of a line is `v`. -/
def Dev.withErr (d : Dev) (ln : Nat) (v : BitVec 16) : Dev := { d with lineErr := store 0#16 d.lineErr ln v }
theorem Dev.withErr_keeps {v : BitVec 16} : (d.withErr ln v).ev = d.ev ∧ ∀ b, (d.withErr ln v).byte b = d.byte b := ⟨rfl, fun _ => rfl⟩
theorem Dev.errOf_withErr {v : BitVec 16} {b : Nat} (hd : d.canon) : (d.withErr ln v).errOf b = if b = ln then v else d.errOf b := by
  have rising := SMap.wf_rising (Dev.canon_lineErr hd)
  show look 0#16 (store 0#16 d.lineErr ln v) b = _
  split
  · next h => rw [h, look_store_self rising]
  · next h => exact look_store_ne rising (Ne.symm h)

theorem Dev.errOf_write_line {l : Bytes} {b : Nat} (hd : d.canon) (hl : l.length = 64) :
    (d.write (ln * 64) l).errOf b = if b = ln then 0#16 else d.errOf b := by
  have err : (d.write (ln * 64) l).lineErr = (d.withErr ln 0#16).lineErr := (congrArg Dev.lineErr (Dev.write_line hl) :)
  rw [Dev.errOf, err, ← Dev.errOf, Dev.errOf_withErr hd]

/-! ## HDM_READ -/

theorem hdmRead_undecoded (hio : d.ioOnly = false) (hide : d.ideBlocked = false) (hr : d.recovery = false) (hx : d.hdmDecode a = none) :
    hdmReadEffect a d = (d.raise 0x4008 0xFF cxlPort (a / 256) 256).hdmAnswer none := by
  unfold hdmReadEffect
  simp only [hio, hide, hr, hx, Bool.or_self, Bool.false_eq_true, if_false]
  rfl

/-- A decoded read, by whether its line is shut off and whether it is good. -/
theorem hdmRead_decoded (hio : d.ioOnly = false) (hide : d.ideBlocked = false) (hr : d.recovery = false) (hx : d.hdmDecode a = some x) :
    hdmReadEffect a d = if inReserve (x / 64 * 64) = true ∨ d.rangeAt (x / 64 * 64) = none then (d.raise 0x4008 0xFF cxlPort (x / 256) 0).hdmAnswer none
      else if d.bad (x / 64) = true then (d.unresolved (x / 64) 3 9 0xFF).hdmAnswer none else d.hdmAnswer (some (d.bytes (x / 64 * 64) 64)) := by
  unfold hdmReadEffect
  simp only [hio, hide, hr, hx, Bool.or_self, Bool.false_eq_true, if_false, Bool.or_eq_true, Option.isNone_iff_eq_none]
  rfl

/-- Poison leaves, and nothing else changes but the values drawn. -/
theorem Dev.hdmAnswer_none : (d.hdmAnswer none).mem = d.mem ∧ (d.hdmAnswer none).lineErr = d.lineErr ∧ (d.hdmAnswer none).written = d.written ∧
    (d.hdmAnswer none).ev = d.ev ∧ ∃ l, (d.hdmAnswer none).sent = d.sent ++ [.hdmData l true] := ⟨rfl, rfl, rfl, rfl, _, rfl⟩
theorem Dev.hdmAnswer_some {l : Bytes} : (d.hdmAnswer (some l)).mem = d.mem ∧ (d.hdmAnswer (some l)).lineErr = d.lineErr ∧
    (d.hdmAnswer (some l)).written = d.written ∧ (d.hdmAnswer (some l)).ev = d.ev ∧ (d.hdmAnswer (some l)).regs = d.regs ∧
    (d.hdmAnswer (some l)).sent = d.sent ++ [.hdmData l false] := ⟨rfl, rfl, rfl, rfl, rfl, rfl⟩

/-- A line that stays bad changes registers, events and the values drawn alone. -/
theorem Dev.unresolved_parts {line reader row slice : Nat} : (d.unresolved line reader row slice).mem = d.mem ∧
    (d.unresolved line reader row slice).lineErr = d.lineErr ∧ (d.unresolved line reader row slice).written = d.written ∧
    (d.unresolved line reader row slice).sent = d.sent := by
  unfold Dev.unresolved
  dsimp only
  generalize hu : d.count _ F.INTEG_BUCKET_UNRESOLVED 1 = u
  have parts : u.mem = d.mem ∧ u.lineErr = d.lineErr ∧ u.written = d.written ∧ u.sent = d.sent := by
    rw [← hu]
    exact ⟨Dev.count_mem .., Dev.count_lineErr .., Dev.count_written .., Dev.count_sent ..⟩
  split <;> split <;> exact parts

/-! ## HDM_WRITE -/

theorem hdmWrite_undecoded (hio : d.ioOnly = false) (hide : d.ideBlocked = false) (hr : d.recovery = false) (hx : d.hdmDecode a = none) :
    hdmWriteEffect a data p d = d.raise 0x4008 0xFF cxlPort (a / 256) 257 := by
  unfold hdmWriteEffect
  simp only [hio, hide, hr, hx, Bool.or_self, Bool.false_eq_true, if_false]
  rfl

/-- A line of the host's put down, poisoned or not. -/
def Dev.lineTaken (d : Dev) (ln : Nat) (l : Bytes) (p : Bool) : Dev :=
  if p then ((d.write (ln * 64) l).withErr ln 0xFFFF#16).count Reg.CXL_POISON_RX
    F.CXL_POISON_RX_COUNT 1 else d.write (ln * 64) l

theorem hdmWrite_decoded (hio : d.ioOnly = false) (hide : d.ideBlocked = false) (hr : d.recovery = false) (hx : d.hdmDecode a = some x) :
    hdmWriteEffect a data p d = if inReserve (x / 64 * 64) = true ∨ d.rangeAt (x / 64 * 64) = none then d.raise 0x4008 0xFF cxlPort (x / 256) 1
      else d.lineTaken (x / 64) (bytesAt data 0 64) p := by
  unfold hdmWriteEffect
  simp only [hio, hide, hr, hx, Bool.or_self, Bool.false_eq_true, if_false, Bool.or_eq_true, Option.isNone_iff_eq_none]
  rfl

theorem Dev.lineTaken_facts {l : Bytes} (hd : d.canon) (hl : l.length = 64) : (d.lineTaken ln l p).ev = d.ev ∧
    (∀ b, (d.lineTaken ln l p).byte b = (d.write (ln * 64) l).byte b) ∧
    ∀ b, (d.lineTaken ln l p).errOf b = if b = ln then (if p then 0xFFFF#16 else 0#16) else d.errOf b := by
  have err := fun b => Dev.errOf_write_line (ln := ln) (b := b) hd hl
  have ev := Dev.write_ev (d := d) (a := ln * 64) (l := l)
  have canon := hd.write (a := ln * 64) (l := l)
  unfold Dev.lineTaken
  generalize d.write (ln * 64) l = u at *
  cases p with
  | false =>
    simp only [Bool.false_eq_true, if_false]
    exact ⟨ev, fun _ => trivial, err⟩
  | true =>
    obtain ⟨ev', byte⟩ := Dev.withErr_keeps (d := u) (ln := ln) (v := 0xFFFF#16)
    simp only [if_true, Dev.count_ev, Dev.count_byte, Dev.count_errOf, Dev.errOf_withErr canon]
    refine ⟨ev'.trans ev, byte, fun b => ?_⟩
    split
    · rfl
    · next h => exact (err b).trans (if_neg h)

/-! ## The device's own writes to the host -/

theorem Dev.deliverVector_parts {v : Nat} : (d.deliverVector v).hostWrites = d.hostWrites ∧ (d.deliverVector v).mem = d.mem ∧
    (d.deliverVector v).lineErr = d.lineErr ∧ (d.deliverVector v).written = d.written ∧ (d.deliverVector v).regs = d.regs := by
  unfold Dev.deliverVector
  split
  · exact ⟨rfl, rfl, rfl, rfl, rfl⟩
  · split <;> exact ⟨rfl, rfl, rfl, rfl, rfl⟩

/-- A write that is done is none of those that wait, and beside it vectors are delivered. -/
theorem Dev.writeDone_parts : (d.writeDone id).hostWrites = d.hostWrites.filter (fun w => w.id != id) ∧ (d.writeDone id).mem = d.mem ∧
    (d.writeDone id).lineErr = d.lineErr ∧ (d.writeDone id).written = d.written ∧ (d.writeDone id).regs = d.regs := by
  unfold Dev.writeDone
  extract_lets u vs src v
  refine ⟨?_, ?_, ?_, ?_, ?_⟩
  · exact (foldl_keeps Dev.hostWrites (fun e q => (Dev.deliverVector_parts (d := e)).1) _ v).trans rfl
  · exact (foldl_keeps Dev.mem (fun e q => (Dev.deliverVector_parts (d := e)).2.1) _ v).trans rfl
  · exact (foldl_keeps Dev.lineErr (fun e q => (Dev.deliverVector_parts (d := e)).2.2.1) _ v).trans rfl
  · exact (foldl_keeps Dev.written (fun e q => (Dev.deliverVector_parts (d := e)).2.2.2.1) _ v).trans rfl
  · exact (foldl_keeps Dev.regs (fun e q => (Dev.deliverVector_parts (d := e)).2.2.2.2) _ v).trans rfl

/-- Settles O23: by the shut, the good and the bad line of a read, the line that a write puts down, and what becomes of a host write. -/
theorem hostReadsAndWritesWholeLines : Obligations.HostReadsAndWritesWholeLines := by
  unfold Obligations.HostReadsAndWritesWholeLines
  refine ⟨fun a s hs hio hide hr hd => ⟨fun hx => runs_ran rfl hs ?_, fun x hx => ?_, fun data p hx => runs_ran rfl hs (hdmWrite_undecoded hio hide hr hx)⟩,
    fun a s hs => runs_ran rfl hs rfl, fun id s hs hide hw => runs_ran rfl hs ?_, fun id w s hs hw hk => runs_ran rfl hs ?_⟩
  · rw [hdmRead_undecoded hio hide hr hx]
    obtain ⟨mem, -, -, ev, l, sent⟩ := Dev.hdmAnswer_none (d := s.dev.raise 0x4008 0xFF cxlPort (a.toNat / 256) 256)
    exact ⟨mem, ⟨l, sent⟩, ev⟩
  · dsimp only
    refine ⟨fun shut => runs_ran rfl hs ?_, fun shut good => runs_ran rfl hs ?_, fun shut bad => runs_ran rfl hs ?_,
      fun data p shut => runs_ran rfl hs ?_, fun data p shut => runs_ran rfl hs ?_⟩
    · rw [hdmRead_decoded hio hide hr hx, if_pos shut]
      obtain ⟨mem, -, -, ev, l, sent⟩ := Dev.hdmAnswer_none (d := s.dev.raise 0x4008 0xFF cxlPort (x / 256) 0)
      exact ⟨mem, ⟨l, sent⟩, ev⟩
    · rw [hdmRead_decoded hio hide hr hx, if_neg shut, if_neg (by simp [good])]
      obtain ⟨mem, lineErr, written, ev, regs, sent⟩ := Dev.hdmAnswer_some (d := s.dev) (l := s.dev.bytes (x / 64 * 64) 64)
      exact ⟨Dev.sameStores_of mem lineErr written, ev, regs, sent⟩
    · rw [hdmRead_decoded hio hide hr hx, if_neg shut, if_pos bad]
      obtain ⟨mem, lineErr, written, sent⟩ := Dev.unresolved_parts (d := s.dev) (line := x / 64) (reader := 3) (row := 9) (slice := 0xFF)
      obtain ⟨mem', lineErr', written', -, l, sent'⟩ := Dev.hdmAnswer_none (d := s.dev.unresolved (x / 64) 3 9 0xFF)
      exact ⟨Dev.sameStores_of (mem'.trans mem) (lineErr'.trans lineErr) (written'.trans written), l, by rw [sent', sent]⟩
    · exact (hdmWrite_decoded hio hide hr hx).trans (if_pos shut)
    · rw [hdmWrite_decoded hio hide hr hx, if_neg shut]
      have len : (bytesAt data 0 64).length = 64 := bytesAt_length ..
      obtain ⟨ev, byte, err⟩ := Dev.lineTaken_facts (ln := x / 64) (p := p) hd len
      refine ⟨ev, ?_, fun n hn => ?_, fun b hb => ⟨?_, ?_⟩⟩
      · rw [Dev.bad, err, if_pos rfl]
        cases p <;> rfl
      · rw [byte, Dev.byte_write_in _ _ _ hd (by rw [len]; exact hn), List.getD_eq_getElem _ _ (by rw [len]; exact hn)]
      · rw [byte, Dev.byte_write_out _ _ _ hd (by rw [len]; omega)]
      · rw [err, if_neg hb]
  · obtain ⟨w, hw, hid⟩ := hw
    have waits : s.dev.hostWrites.any (·.id == id) = true := List.any_eq_true.2 ⟨w, hw, beq_iff_eq.2 hid⟩
    have done : hostWriteDoneEffect id s.dev = s.dev.writeDone id := if_pos (by rw [hide, waits]; rfl)
    obtain ⟨hostWrites, mem, lineErr, written, regs⟩ := Dev.writeDone_parts (d := s.dev) (id := id)
    rw [done]
    exact ⟨hostWrites, Dev.sameStores_of mem lineErr written, regs⟩
  · unfold hostWriteRetryEffect
    simp only [hw, hk, Bool.not_true, Bool.false_eq_true, if_false]
    rfl

end Sys2Proof.Machine
end

section
/-! SUPPORT. Trays: doorbells, fetches and aborts (R217, R239, R241). -/
namespace Sys2Proof.Machine

-- One proof after another: with many at once their threads' stacks exceed the memory that the check allows.
set_option Elab.async false

variable {d e : Dev} {n : TrayIx} {m : Master} {v q : Word} {pre post : List TrayBatch} {b : TrayBatch} {es : List Bytes}

/-- The oldest fetch that has not landed stands behind those that have. -/
theorem find_first_open (hp : ∀ x ∈ pre, x.landed ≠ none) (hb : b.landed = none) : (pre ++ b :: post).find? (fun x => x.landed.isNone) = some b := by
  rw [List.find?_append, List.find?_eq_none.2 fun x hx => by simpa using hp x hx, Option.none_or, List.find?_cons_of_pos (by simp [hb])]

/-- Landing gives the oldest open fetch its entries. -/
theorem landBatch_some (hp : ∀ x ∈ pre, x.landed ≠ none) (hb : b.landed = none) :
    landBatch (some es) (pre ++ b :: post) = (pre ++ { b with landed := some es } :: post, none) := by
  induction pre with
  | nil => simp [landBatch, hb]
  | cons x r ih =>
    have hx : x.landed.isNone = false := by simpa [Option.isSome_iff_ne_none] using hp x List.mem_cons_self
    simp [landBatch, hx, ih fun y hy => hp y (List.mem_cons_of_mem _ hy)]

/-- A fetch that ends in error is undone with every later one. -/
theorem landBatch_none (hp : ∀ x ∈ pre, x.landed ≠ none) (hb : b.landed = none) : landBatch none (pre ++ b :: post) = (pre, some b.first) := by
  induction pre with
  | nil => simp [landBatch, hb]
  | cons x r ih =>
    have hx : x.landed.isNone = false := by simpa [Option.isSome_iff_ne_none] using hp x List.mem_cons_self
    simp [landBatch, hx, ih fun y hy => hp y (List.mem_cons_of_mem _ hy)]

/-- The device whose tray has the fetches `l`, the last value taken being `v`. -/
def Dev.batched (d : Dev) (n : Nat) (l : List TrayBatch) (v : BitVec 64) : Dev := d.setTray n { d.tray n with batches := l, taken := v }
theorem Dev.batched_facts {l : List TrayBatch} (hd : d.canon) : ((d.batched n l v).tray n).batches = l ∧ ((d.batched n l v).tray n).taken = v ∧
    (d.batched n l v).mem = d.mem ∧ (d.batched n l v).regs = d.regs := by
  rw [Dev.batched, Dev.tray_setTray _ _ _ hd]
  exact ⟨rfl, rfl, rfl, rfl⟩

section
variable (hx : (d.tray n).batches = pre ++ b :: post) (hp : ∀ x ∈ pre, x.landed ≠ none) (hb : b.landed = none)
include hx hp hb

theorem trayFetch_lands (hs : d.getF (Reg.TRAY_CFG n) F.TRAY_CFG_RING_SPACE ≠ 1) (hc : es.length = b.count) (hl : ∀ l ∈ es, l.length = 256) :
    trayFetchDoneEffect n es .ok d = d.batched n (pre ++ { b with landed := some es } :: post) (d.tray n).taken := by
  have host : d.getB (Reg.TRAY_CFG n) F.TRAY_CFG_RING_SPACE = false := beq_eq_false_iff_ne.2 hs
  have whole : (es.length != b.count || !es.all fun e => e.length == 256) = false := by simpa [hc] using hl
  unfold trayFetchDoneEffect
  simp only [hx, find_first_open hp hb, host, Bool.false_eq_true, if_false, whole, landBatch_some hp hb]
  rfl

theorem trayFetch_reads (hs : d.getF (Reg.TRAY_CFG n) F.TRAY_CFG_RING_SPACE = 1) :
    trayFetchDoneEffect n es .ok d = d.batched n (pre ++ { b with landed := some (d.ringEntries n b) } :: post) (d.tray n).taken := by
  have own : d.getB (Reg.TRAY_CFG n) F.TRAY_CFG_RING_SPACE = true := beq_iff_eq.2 hs
  unfold trayFetchDoneEffect
  simp only [hx, find_first_open hp hb, own, if_true, landBatch_some hp hb]
  rfl

theorem trayFetch_fails : trayFetchDoneEffect n es .error d = d.batched n pre b.first := by
  unfold trayFetchDoneEffect
  simp only [hx, find_first_open hp hb, Dev.fetchEnd, landBatch_none hp hb]
  rfl

end

/-- Settles O24: by the doorbell's and the abort's conditions, and by what landing does to the fetches behind those landed. -/
theorem traysTakeDoorbellsFetchesAndAborts : Obligations.TraysTakeDoorbellsFetchesAndAborts := by
  unfold Obligations.TraysTakeDoorbellsFetchesAndAborts
  refine ⟨fun m n v s hs => ?_, fun n pre post b es s hs hd hx hp hb => ?_, fun m n q s hs hd => ?_⟩
  · have cond : (s.dev.ioOnly || !s.dev.trayWriter n m || !s.dev.trayLive n || !ahead v (s.dev.tray n).taken ||
        decide ((v - s.dev.trayNext n).toNat > s.dev.trayE n)) = false ↔ s.dev.ioOnly = false ∧ s.dev.trayWriter n m = true ∧ s.dev.trayLive n = true ∧
        ahead v (s.dev.tray n).taken = true ∧ (v - s.dev.reg (Reg.TRAY_NEXT_SEQ n)).toNat ≤ s.dev.trayE n := by
      simp only [Bool.or_eq_false_iff, Bool.not_eq_false', decide_eq_false_iff_not, gt_iff_lt, Nat.not_lt, and_assoc, Dev.trayNext]
    refine ⟨fun good => runs_ranFrom rfl hs ?_, fun bad => runs_ranFrom rfl hs ?_⟩
    · exact if_neg (by rw [Bool.not_eq_true]; exact cond.2 good)
    · exact if_pos (by rw [← Bool.not_eq_false]; exact fun h => bad (cond.1 h))
  · refine ⟨fun hr hc hl => runs_ran rfl hs ?_, fun hr => runs_ran rfl hs ?_, runs_ran rfl hs ?_⟩
    · rw [trayFetch_lands hx hp hb hr hc hl]
      exact Dev.batched_facts hd
    · rw [trayFetch_reads hx hp hb hr, (Dev.batched_facts hd).1]
      refine ⟨_, rfl, by rw [Dev.ringEntries, List.length_map, List.length_range], fun i hi => ?_⟩
      rw [Dev.ringEntries, List.getElem?_map, List.getElem?_range hi]
      rfl
    · rw [trayFetch_fails hx hp hb]
      obtain ⟨batches, taken, mem, -⟩ := Dev.batched_facts (n := n) (l := pre) (v := b.first) hd
      exact ⟨batches, taken, mem⟩
  · have cond : (!s.dev.trayWriter n m || !s.dev.trayLive n) = false ↔ s.dev.trayWriter n m = true ∧ s.dev.trayLive n = true := by
      simp only [Bool.or_eq_false_iff, Bool.not_eq_false']
    refine ⟨fun good => runs_ranFrom rfl hs ?_, fun bad => runs_ranFrom rfl hs (if_pos (by rw [← Bool.not_eq_false]; exact fun h => bad (cond.1 h)))⟩
    have held : trayAbortEffect m n q s.dev = _ := if_neg (by rw [Bool.not_eq_true]; exact cond.2 good)
    have canon := hd.setTray (n := n) (x := { s.dev.tray n with abort := some q, abortAhead := none })
    have tray := Dev.tray_setTray s.dev n { s.dev.tray n with abort := some q, abortAhead := none } hd
    have regs := Dev.setTray_reg (d := s.dev) n { s.dev.tray n with abort := some q, abortAhead := none }
    have sched := Dev.setTray_sched (d := s.dev) n { s.dev.tray n with abort := some q, abortAhead := none }
    rw [held]
    generalize s.dev.setTray n { s.dev.tray n with abort := some q, abortAhead := none } = u at *
    rw [Dev.setB_tray, tray, Dev.setB_sched, sched]
    exact ⟨rfl, rfl, Dev.getF_setF_lt (v := 1) canon (by decide), fun a ha => (Dev.sameRegs_setF _ _ _ canon a ha).trans (regs a), rfl⟩

end Sys2Proof.Machine
end

section
/-! SUPPORT. Slots of a signal core's bundle: their issue and the end of the bundle (R276, R277, R284). -/
namespace Sys2Proof.Machine

-- One proof after another: with many at once their threads' stacks exceed the memory that the check allows.
set_option Elab.async false

variable {d e : Dev} {t : Tile} {i : SigIx} {rank : Nat} {bad : Bool} {body : Dev → SigOut} {c : SigCoreState}

/-- Two states of a signal core agree about what is in flight, the registers and the transfers that wait. -/
structure SigCoreState.Alike (c c' : SigCoreState) : Prop where
  flight : c'.flight = c.flight
  v : c'.v = c.v
  ac : c'.ac = c.ac
  main : c'.main.x = c.main.x
  shadow : c'.shadow.x = c.shadow.x
  xferQ : c'.xferQ = c.xferQ

theorem SigCoreState.Alike.refl : SigCoreState.Alike c c := ⟨rfl, rfl, rfl, rfl, rfl, rfl⟩
theorem SigCoreState.Alike.trans {c' c'' : SigCoreState} (h : c.Alike c') (h' : c'.Alike c'') : c.Alike c'' :=
  ⟨h'.flight.trans h.flight, h'.v.trans h.v, h'.ac.trans h.ac, h'.main.trans h.main, h'.shadow.trans h.shadow, h'.xferQ.trans h.xferQ⟩

theorem SigCoreState.closeBundle_alike (c : SigCoreState) : c.Alike c.closeBundle := by
  unfold SigCoreState.closeBundle SigCoreState.modBank SigCoreState.bank
  cases c.inShadow <;> exact ⟨rfl, rfl, rfl, rfl, rfl, rfl⟩

theorem SigCoreState.leave_alike (c : SigCoreState) : c.Alike c.leave := ⟨rfl, rfl, rfl, rfl, rfl, rfl⟩
theorem SigCoreState.slots_alike (c : SigCoreState) (l : List Nat) : c.Alike { c with slots := l } := ⟨rfl, rfl, rfl, rfl, rfl, rfl⟩

/-- What the issue of a slot that computes leaves: memory, time, the counters' signals, and every register but the core's status and its
count of saturations. -/
structure Dev.SigKeeps (t : Tile) (i : SigIx) (d e : Dev) : Prop where
  mem : e.mem = d.mem
  now : e.now = d.now
  ctrs : e.ctrs = d.ctrs
  regs : d.sameRegs e fun a => a = Reg.SIG_STATUS t i ∨ a = Reg.SIG_SATURATE_COUNT t i

theorem Dev.SigKeeps.refl : Dev.SigKeeps t i d d := ⟨rfl, rfl, rfl, fun _ _ => rfl⟩
theorem Dev.SigKeeps.trans {u : Dev} (h : Dev.SigKeeps t i d e) (h' : Dev.SigKeeps t i e u) : Dev.SigKeeps t i d u :=
  ⟨h'.mem.trans h.mem, h'.now.trans h.now, h'.ctrs.trans h.ctrs, fun a ha => (h'.regs a ha).trans (h.regs a ha)⟩
theorem Dev.SigKeeps.ofQuiet {p : Nat → Prop} (hd : d.canon) (h : Dev.Quiet p d e) (hp : ∀ a, p a → a = Reg.SIG_STATUS t i ∨ a = Reg.SIG_SATURATE_COUNT t i) :
    Dev.SigKeeps t i d e := ⟨h.mem, h.now, h.ctrs, fun a ha => h.regs hd a fun hpa => ha (hp a hpa)⟩
theorem Dev.sigKeeps_setSg : Dev.SigKeeps t i d (d.setSg t i c) := ⟨rfl, rfl, rfl, fun _ _ => Dev.setSg_reg ..⟩

theorem Dev.sigSync_quiet {n m : Nat} : Dev.Quiet (· = Reg.SIG_STATUS n m) d (d.sigSync n m) := Dev.Quiet.refl.setFs rfl
theorem Dev.sigState_quiet {n m st : Nat} : Dev.Quiet (· = Reg.SIG_STATUS n m) d (d.sigState n m st) := Dev.Quiet.refl.setF rfl

/-- The core after its bundle has issued in all four slots. -/
def SigCoreState.bundled (c : SigCoreState) : SigCoreState := if c.act == .reti && c.inShadow then c.closeBundle.leave else c.closeBundle
theorem SigCoreState.bundled_alike (c : SigCoreState) : c.Alike c.bundled := by
  unfold SigCoreState.bundled
  split
  · exact c.closeBundle_alike.trans c.closeBundle.leave_alike
  · exact c.closeBundle_alike

theorem Dev.sigSlotDone_open (h : ((d.sg t i).slots ++ [rank]).length < 4) :
    d.sigSlotDone t i rank = d.setSg t i { d.sg t i with slots := (d.sg t i).slots ++ [rank] } := if_pos h
theorem Dev.sigSlotDone_closes (h : ¬ ((d.sg t i).slots ++ [rank]).length < 4) : d.sigSlotDone t i rank =
    if (d.sg t i).act == .reti && (d.sg t i).inShadow then ((d.setSg t i (d.sg t i).bundled).sigSync t i).sigState t i 1
    else (d.setSg t i (d.sg t i).bundled).sigSync t i := if_neg h

/-- A slot that has issued changes the bundle's progress, PC, LOCAL, ROT_OFS and STATE alone. -/
theorem Dev.sigSlotDone_keeps (hd : d.canon) : (d.sg t i).Alike ((d.sigSlotDone t i rank).sg t i) ∧ Dev.SigKeeps t i d (d.sigSlotDone t i rank) ∧
    (d.sigSlotDone t i rank).ev = d.ev := by
  by_cases h : ((d.sg t i).slots ++ [rank]).length < 4
  · rw [Dev.sigSlotDone_open h, Dev.sg_setSg _ _ _ _ hd]
    exact ⟨(d.sg t i).slots_alike _, Dev.sigKeeps_setSg, Dev.setSg_ev ..⟩
  · have canon := hd.setSg (t := t) (i := i) (c := (d.sg t i).bundled)
    have sg := Dev.sg_setSg d t i (d.sg t i).bundled hd
    have ev := Dev.setSg_ev (d := d) t i (d.sg t i).bundled
    have keeps : Dev.SigKeeps t i d (d.setSg t i (d.sg t i).bundled) := Dev.sigKeeps_setSg
    rw [Dev.sigSlotDone_closes h]
    generalize d.setSg t i (d.sg t i).bundled = u at *
    have sync := Dev.sigSync_quiet (d := u) (n := t) (m := i)
    have state := Dev.sigState_quiet (d := u.sigSync t i) (n := t) (m := i) (st := 1)
    have alike : (d.sg t i).Alike ((u.sigSync t i).sg t i) := by rw [sync.sg, sg]; exact (d.sg t i).bundled_alike
    have synced := keeps.trans (.ofQuiet canon sync fun a ha => .inl ha)
    split
    · refine ⟨by rw [state.sg]; exact alike, synced.trans (.ofQuiet (sync.keeps canon) state fun _ ha => .inl ha), ?_⟩
      rw [Dev.sigState, Dev.setF_ev, Dev.sigSync, Dev.setFs_ev, ev]
    · refine ⟨alike, synced, ?_⟩
      rw [Dev.sigSync, Dev.setFs_ev, ev]

/-- The device in which a slot's operation reads its sources: SB opens the bundle first. -/
def Dev.atSlot (d : Dev) (t i rank : Nat) : Dev := if rank == 3 then d.sigOpen t i else d
theorem Dev.atSlot_other (h : rank ≠ 3) : d.atSlot t i rank = d := if_neg (by simpa using h)
theorem Dev.atSlot_sb : d.atSlot t i 3 = d.sigOpen t i := rfl

section
variable (hr : d.sigReady t i rank)
include hr

/-- A ready slot issues: no check of the core's state holds it back. -/
theorem Dev.sigReady_issues : (!(d.sg t i).busy || (d.sg t i).ended || (d.sg t i).waiting || d.paused t || (d.sg t i).slots.contains rank ||
    (rank != 3 && !(d.sg t i).slots.contains 3)) = false ∧ (rank == 3 && decide ((d.sg t i).pc > 4095)) = false := by
  obtain ⟨busy, ended, waiting, running, pc, slots⟩ := hr
  have low : decide ((d.sg t i).pc > 4095) = false := decide_eq_false (by omega)
  rw [busy, ended, waiting, running, low, Bool.and_false]
  refine ⟨?_, rfl⟩
  split at slots
  · next h => simp [h, slots]
  · next h => simp [h, slots]

theorem Dev.sigSlot_reserved (hb : bad = true) : d.sigSlot t i rank bad body = (d.atSlot t i rank).sigFail t i rank 1 0 := by
  obtain ⟨issues, low⟩ := Dev.sigReady_issues hr
  unfold Dev.sigSlot
  simp only [issues, low, hb, Bool.false_eq_true, if_false, if_true]
  rfl

theorem Dev.sigSlot_fails {r xr : Nat} (hb : bad = false) (h : body (d.atSlot t i rank) = .fail r xr) :
    d.sigSlot t i rank bad body = (d.atSlot t i rank).sigFail t i rank r xr := by
  obtain ⟨issues, low⟩ := Dev.sigReady_issues hr
  unfold Dev.atSlot at h ⊢
  unfold Dev.sigSlot
  simp only [issues, low, hb, h, Bool.false_eq_true, if_false]

theorem Dev.sigSlot_stays (hb : bad = false) (h : body (d.atSlot t i rank) = .stay e) : d.sigSlot t i rank bad body = e := by
  obtain ⟨issues, low⟩ := Dev.sigReady_issues hr
  unfold Dev.atSlot at h
  unfold Dev.sigSlot
  simp only [issues, low, hb, h, Bool.false_eq_true, if_false]

theorem Dev.sigSlot_done (hb : bad = false) (h : body (d.atSlot t i rank) = .done e) : d.sigSlot t i rank bad body = e.sigSlotDone t i rank := by
  obtain ⟨issues, low⟩ := Dev.sigReady_issues hr
  unfold Dev.atSlot at h
  unfold Dev.sigSlot
  simp only [issues, low, hb, h, Bool.false_eq_true, if_false]

end

end Sys2Proof.Machine
end

section
/-! SUPPORT. The vector slots of a signal core (R282, R283). -/
namespace Sys2Proof.Machine

-- One proof after another: with many at once their threads' stacks exceed the memory that the check allows.
set_option Elab.async false

variable {d e : Dev} {t : Tile} {i : SigIx} {v : VSlot} {f : SFields} {bad : Bool} {lat : Nat} {dst : SigCoreState → SigDst}
  {lane : SigCoreState → Nat → Nat × Nat}

theorem vslotRank_ne (v : VSlot) : vslotRank v ≠ 3 := by cases v <;> decide

theorem Dev.sigSat_quiet {n : Nat} : Dev.Quiet (· = Reg.SIG_SATURATE_COUNT t i) d (d.sigSat t i n) := by
  unfold Dev.sigSat
  have counted : Dev.Quiet (· = Reg.SIG_SATURATE_COUNT t i) d (d.count (Reg.SIG_SATURATE_COUNT t i) F.SIG_SATURATE_COUNT_COUNT n) :=
    Dev.Quiet.refl.count rfl
  exact .ite counted.raise counted

theorem SigCoreState.result_parts (c : SigCoreState) (rank lat : Nat) (dst : SigDst) (val : List Nat) :
    (c.result rank lat dst val).flight = insertFlight ⟨c.at_ + lat - 1, c.at_, rank, dst, val⟩ c.flight ∧ (c.result rank lat dst val).v = c.v ∧
    (c.result rank lat dst val).ac = c.ac ∧ (c.result rank lat dst val).main.x = c.main.x ∧ (c.result rank lat dst val).shadow.x = c.shadow.x :=
  ⟨rfl, rfl, rfl, rfl, rfl⟩

/-- A slot that sent a result and issued, whatever it counted between. -/
theorem Dev.sigSent_of {rank : Nat} {dest : SigDst} {val : List Nat} {p : Nat → Prop} (hd : d.canon)
    (he : Dev.Quiet p (d.setSg t i ((d.sg t i).result rank lat dest val)) e) (hp : ∀ a, p a → a = Reg.SIG_STATUS t i ∨ a = Reg.SIG_SATURATE_COUNT t i) :
    d.sigSent t i rank lat dest val (e.sigSlotDone t i rank) := by
  have sg := Dev.sg_setSg d t i ((d.sg t i).result rank lat dest val) hd
  have keeps : Dev.SigKeeps t i d (d.setSg t i ((d.sg t i).result rank lat dest val)) := Dev.sigKeeps_setSg
  have canon := hd.setSg (t := t) (i := i) (c := (d.sg t i).result rank lat dest val)
  have sg' := (he.sg t i).trans sg
  obtain ⟨alike, keeps', -⟩ := Dev.sigSlotDone_keeps (t := t) (i := i) (rank := rank) (he.keeps canon)
  obtain ⟨mem, now, ctrs, regs⟩ := (keeps.trans (.ofQuiet canon he hp)).trans keeps'
  obtain ⟨flight, v, ac, main, shadow, -⟩ := alike
  obtain ⟨flight', v', ac', main', shadow'⟩ := (d.sg t i).result_parts rank lat dest val
  rw [sg'] at flight v ac main shadow
  exact ⟨flight.trans flight', v.trans v', ac.trans ac', main.trans main', shadow.trans shadow', mem, now, ctrs, regs⟩

section
variable (hr : d.sigReady t i (vslotRank v))
include hr

/-- A vector operation outside a handler sends its lane results off. -/
theorem Dev.sigVec_sends {dest : SigDst} {val : Nat → Nat} (hd : d.canon) (hs : (d.sg t i).inShadow = false) (hb : bad = false)
    (hdst : dst (d.sg t i) = dest) (hval : ∀ j, (lane (d.sg t i) j).1 = val j) :
    d.sigSent t i (vslotRank v) lat dest ((List.range 32).map val) (d.sigVec t i v bad lat dst lane) := by
  have vals : ((List.range 32).map (lane (d.sg t i))).map (·.1) = (List.range 32).map val :=
    (List.map_map ..).trans (List.map_congr_left fun j _ => hval j)
  have done : d.sigVec t i v bad lat dst lane = _ := Dev.sigSlot_done hr hb (by
    rw [Dev.atSlot_other (vslotRank_ne v)]
    exact if_neg (by rw [hs]; exact Bool.false_ne_true))
  rw [done, vals, ← hdst]
  exact Dev.sigSent_of hd Dev.sigSat_quiet fun a ha => .inr ha

/-- An operation into V[D] whose lanes saturate to Q1.15. -/
theorem Dev.sigQ15_sends {parts : SigCoreState → Nat → Int × Int} {val : Nat → Int × Int} (hd : d.canon) (hs : (d.sg t i).inShadow = false)
    (hb : bad = false) (hval : ∀ j, parts (d.sg t i) j = val j) :
    d.sigSent t i (vslotRank v) lat (.v ((d.sg t i).phys f.d)) ((List.range 32).map fun j => unparts 16 (satParts 16 (val j)).1)
      (d.sigQ15 t i v f bad lat parts) := by
  unfold Dev.sigQ15
  exact Dev.sigVec_sends hr hd hs hb rfl fun j => by rw [hval]

/-- CMUL and its relatives. -/
theorem Dev.sigMac_sends {conj acc : Bool} {val : Nat → Int × Int} (hd : d.canon) (hs : (d.sg t i).inShadow = false)
    (hg : f.x = 0 ∧ f.d.toNat ≤ 15) (hval : ∀ j, val j = ((if acc then lane80 ((d.sg t i).rac f.d) j else (0, 0)).1 +
        (cprod conj (lane32 ((d.sg t i).rv f.a) j) (lane32 ((d.sg t i).rv f.b) j)).1,
      (if acc then lane80 ((d.sg t i).rac f.d) j else (0, 0)).2 + (cprod conj (lane32 ((d.sg t i).rv f.a) j) (lane32 ((d.sg t i).rv f.b) j)).2)) :
    d.sigSent t i (vslotRank v) 3 (.ac f.d.toNat) ((List.range 32).map fun j => unparts 40 (satParts 40 (val j)).1) (d.sigMac t i v f conj acc) := by
  have good : (decide (f.d.toNat > 15) || f.x != 0#8) = false := by simpa using ⟨hg.2, hg.1⟩
  unfold Dev.sigMac
  exact Dev.sigVec_sends hr hd hs good rfl fun j => by rw [hval]

theorem Dev.sigVec_inHandler (hb : bad = false) (hs : (d.sg t i).inShadow = true) :
    d.sigVec t i v bad lat dst lane = d.sigFail t i (vslotRank v) 2 0 := by
  have fails := Dev.sigSlot_fails (body := fun d =>
    let c := d.sg t i
    if c.inShadow then .fail 2 0 else
    let rs := (List.range 32).map (lane c)
    .done ((d.modSg t i fun c => c.result (vslotRank v) lat (dst c) (rs.map (·.1))).sigSat t i (rs.map (·.2)).sum)) (r := 2) (xr := 0) hr hb
    (by rw [Dev.atSlot_other (vslotRank_ne v)]; exact if_pos hs)
  rw [Dev.atSlot_other (vslotRank_ne v)] at fails
  exact fails

theorem Dev.sigVec_reserved (hb : bad = true) : d.sigVec t i v bad lat dst lane = d.sigFail t i (vslotRank v) 1 0 := by
  unfold Dev.sigVec
  rw [Dev.sigSlot_reserved hr hb, Dev.atSlot_other (vslotRank_ne v)]

end

/-! ## The operations of Table 11.2 -/

/-- A value of two parts that fit w bits is its own saturation. -/
theorem satParts_id {w : Nat} {p : Int × Int} (ha : -(2 ^ (w - 1)) ≤ p.1 ∧ p.1 ≤ 2 ^ (w - 1) - 1) (hb : -(2 ^ (w - 1)) ≤ p.2 ∧ p.2 ≤ 2 ^ (w - 1) - 1) :
    (satParts w p).1 = p := by
  have fst : saturate (-(2 ^ (w - 1))) (2 ^ (w - 1) - 1) p.1 = (p.1, false) := by
    rw [saturate, if_neg (by omega), if_neg (by omega)]
  have snd : saturate (-(2 ^ (w - 1))) (2 ^ (w - 1) - 1) p.2 = (p.2, false) := by
    rw [saturate, if_neg (by omega), if_neg (by omega)]
  rw [satParts, fst, snd]

theorem codeInt_16_bounds (n : Nat) : -(2 ^ 15) ≤ codeInt 16 n ∧ codeInt 16 n < 2 ^ 15 := by
  unfold codeInt
  split <;> omega

/-- Lanes widened by 15 places fit an accumulator. -/
theorem satParts_widened (l : List (BitVec 32)) (j : Nat) :
    (satParts 40 ((lane32 l j).1 * 2 ^ 15, (lane32 l j).2 * 2 ^ 15)).1 = ((lane32 l j).1 * 2 ^ 15, (lane32 l j).2 * 2 ^ 15) := by
  have re := codeInt_16_bounds ((l.getD j 0#32).toNat % 2 ^ 16)
  have im := codeInt_16_bounds ((l.getD j 0#32).toNat / 2 ^ 16 % 2 ^ 16)
  refine satParts_id ?_ ?_ <;> simp only [lane32, parts, Nat.reduceSub] <;> omega

section
variable (hr : d.sigReady t i (vslotRank v))
include hr

theorem sigNop_issues (hf : f = ⟨0, 0, 0, 0⟩) : sigNopEffect t i (if v = .v0 then .v0 else .v1) f d = d.sigSlotDone t i (vslotRank v) := by
  have rank : slotRank (if v = .v0 then .v0 else .v1) = vslotRank v := by cases v <;> rfl
  unfold sigNopEffect
  rw [rank, Dev.sigSlot_done (body := .done) hr (by rw [hf]; rfl) rfl, Dev.atSlot_other (vslotRank_ne v)]

theorem vnarrow_sends (hd : d.canon) (hs : (d.sg t i).inShadow = false) (ha : f.a.toNat ≤ 15) (hb : f.b = 0) (hx : f.x.toNat < 32) :
    d.sigSent t i (vslotRank v) 2 (.v ((d.sg t i).phys f.d)) ((List.range 32).map fun j => unparts 16 (satParts 16
      (convergent (lane80 ((d.sg t i).rac f.a) j).1 f.x.toNat, convergent (lane80 ((d.sg t i).rac f.a) j).2 f.x.toNat)).1) (vnarrowEffect t i v f d) := by
  have good : (decide (f.a.toNat > 15) || f.b != 0#6 || f.x.toNat / 32 != 0) = false := by
    rw [hb, Nat.div_eq_of_lt hx]
    simpa using ha
  unfold vnarrowEffect
  exact Dev.sigQ15_sends hr hd hs good fun j => by rw [Nat.mod_eq_of_lt hx]

theorem vwiden_sends (hd : d.canon) (hs : (d.sg t i).inShadow = false) (hg : f.x = 0 ∧ f.d.toNat ≤ 15) (hb : f.b = 0) :
    d.sigSent t i (vslotRank v) 2 (.ac f.d.toNat) ((List.range 32).map fun j => unparts 40 (satParts 40
      ((lane32 ((d.sg t i).rv f.a) j).1 * 2 ^ 15, (lane32 ((d.sg t i).rv f.a) j).2 * 2 ^ 15)).1) (vwidenEffect t i v f d) := by
  have good : (decide (f.d.toNat > 15) || f.b != 0#6 || f.x != 0#8) = false := by
    rw [hb, hg.1]
    simpa using hg.2
  unfold vwidenEffect
  exact Dev.sigVec_sends hr hd hs good rfl fun j => by rw [satParts_widened]

/-- The bits that VUNPK cuts into fields. -/
def SigCoreState.bits (c : SigCoreState) (f : SFields) : Nat := ((c.rv f.a) ++ (c.rv f.b)).foldr (fun (x : BitVec 32) n => x.toNat + 2 ^ 32 * n) 0
theorem vunpk_sends (hd : d.canon) (hs : (d.sg t i).inShadow = false) (hlo : 8 ≤ f.x.toNat) (hhi : f.x.toNat ≤ 16) :
    d.sigSent t i (vslotRank v) 2 (.v ((d.sg t i).phys f.d)) ((List.range 32).map fun j => unparts 16 (satParts 16
      (codeInt f.x.toNat ((d.sg t i).bits f / 2 ^ (2 * j * f.x.toNat) % 2 ^ f.x.toNat),
       codeInt f.x.toNat ((d.sg t i).bits f / 2 ^ ((2 * j + 1) * f.x.toNat) % 2 ^ f.x.toNat))).1) (vunpkEffect t i v f d) := by
  have width : f.x.toNat % 32 = f.x.toNat := Nat.mod_eq_of_lt (by omega)
  have good : (f.x.toNat / 32 != 0 || decide (f.x.toNat < 8) || decide (f.x.toNat > 16)) = false := by
    rw [Nat.div_eq_of_lt (by omega)]
    simpa using ⟨hlo, hhi⟩
  unfold vunpkEffect
  rw [width]
  exact Dev.sigQ15_sends hr hd hs good fun _ => rfl

theorem cmul_inHandler (hg : f.x = 0 ∧ f.d.toNat ≤ 15) (hs : (d.sg t i).inShadow = true) :
    cmulEffect t i v f d = d.sigFail t i (vslotRank v) 2 0 := by
  have good : (decide (f.d.toNat > 15) || f.x != 0#8) = false := by simpa using ⟨hg.2, hg.1⟩
  unfold cmulEffect Dev.sigMac
  exact Dev.sigVec_inHandler hr good hs

theorem cmul_reserved (hd : 15 < f.d.toNat) : cmulEffect t i v f d = d.sigFail t i (vslotRank v) 1 0 := by
  have reserved : (decide (f.d.toNat > 15) || f.x != 0#8) = true := by rw [decide_eq_true hd, Bool.true_or]
  unfold cmulEffect Dev.sigMac
  exact Dev.sigVec_reserved hr reserved

end

/-- Settles O27: by the shared issue of a vector operation, with each operation's lanes and destination. -/
theorem signalVectorSlotsSendTheirResults : Obligations.SignalVectorSlotsSendTheirResults := by
  unfold Obligations.SignalVectorSlotsSendTheirResults
  intro t i v f s hs hd hr
  dsimp only
  refine ⟨fun hf => runs_ran rfl hs ?_, fun hsh => ⟨fun hg => runs_ran rfl hs ?_, fun hg => runs_ran rfl hs ?_, fun hg => runs_ran rfl hs ?_, fun hg => runs_ran rfl hs ?_,
    fun hx => runs_ran rfl hs ?_, fun hx => runs_ran rfl hs ?_, fun ha hb hx => runs_ran rfl hs ?_, fun hg hb => runs_ran rfl hs ?_, fun hx => runs_ran rfl hs ?_,
    fun hlo hhi => runs_ran rfl hs ?_, fun hx => runs_ran rfl hs ?_⟩, fun hg hsh => runs_ran rfl hs ?_, fun hdd => runs_ran rfl hs ?_⟩
  · rw [sigNop_issues hr hf]
    obtain ⟨alike, keeps, ev⟩ := Dev.sigSlotDone_keeps (t := t) (i := i) (rank := vslotRank v) hd
    exact ⟨alike.flight, alike.v, alike.ac, alike.main, keeps.mem, keeps.now, ev⟩
  · exact Dev.sigMac_sends hr hd hsh hg fun j => by simp [cprod]
  · exact Dev.sigMac_sends hr hd hsh hg fun j => by simp [cprod]
  · exact Dev.sigMac_sends hr hd hsh hg fun j => by simp [cprod]
  · exact Dev.sigMac_sends hr hd hsh hg fun j => by simp [cprod]
  · exact Dev.sigQ15_sends hr hd hsh (by simpa using hx) fun _ => rfl
  · exact Dev.sigQ15_sends hr hd hsh (by simpa using hx) fun _ => rfl
  · exact vnarrow_sends hr hd hsh ha hb hx
  · exact vwiden_sends hr hd hsh hg hb
  · exact Dev.sigQ15_sends hr hd hsh (by simpa using hx) fun _ => rfl
  · exact vunpk_sends hr hd hsh hlo hhi
  · exact Dev.sigQ15_sends hr hd hsh (by simpa using hx) fun _ => rfl
  · exact cmul_inHandler hr hg hsh
  · exact cmul_reserved hr hdd

end Sys2Proof.Machine
end

section
/-! SUPPORT. The load and store slot and the transfer engine of a signal core (R280 to R282, R289). -/
namespace Sys2Proof.Machine

-- One proof after another: with many at once their threads' stacks exceed the memory that the check allows.
set_option Elab.async false

variable {d e : Dev} {t : Tile} {i : SigIx} {f : SFields}

theorem mem_insertFlight_self (x : SigFlight) (l : List SigFlight) : x ∈ insertFlight x l := by
  induction l with
  | nil => exact List.mem_singleton_self x
  | cons g r ih =>
    unfold insertFlight
    split
    · exact List.mem_cons_self
    · exact List.mem_cons_of_mem _ ih
theorem mem_insertFlight_of_mem {x y : SigFlight} {l : List SigFlight} (h : x ∈ l) : x ∈ insertFlight y l := by
  induction l with
  | nil => cases h
  | cons g r ih =>
    unfold insertFlight
    split
    · exact List.mem_cons_of_mem _ h
    · rcases List.mem_cons.1 h with h | h
      · exact h ▸ List.mem_cons_self
      · exact List.mem_cons_of_mem _ (ih h)

section
variable (hr : d.sigReady t i 2)
include hr

theorem sigLs_done {bad : Bool} {body : Dev → SigOut} (hb : bad = false) (h : body d = .done e) : d.sigSlot t i 2 bad body = e.sigSlotDone t i 2 :=
  Dev.sigSlot_done hr hb h
theorem sigLs_fails {bad : Bool} {body : Dev → SigOut} {r xr : Nat} (hb : bad = false) (h : body d = .fail r xr) :
    d.sigSlot t i 2 bad body = d.sigFail t i 2 r xr := Dev.sigSlot_fails hr hb h

end

theorem Dev.sigRead_good {a n : Nat} {k : Bytes → Dev → SigOut} (h : d.firstBad (dmemAt t i a) n = none) :
    d.sigRead t i a n k = k (d.bytes (dmemAt t i a) n) d := by
  unfold Dev.sigRead
  rw [h]

/-! ## VLD, VST, SLD and SST -/

/-- What VLD of a row makes of the core. -/
def SigCoreState.vld (f : SFields) (l : Bytes) (c : SigCoreState) : SigCoreState :=
  (c.result 2 4 (.v (c.phys f.d)) ((List.range 32).map fun j => leAt l (4 * j) 4)).postInc f
theorem SigCoreState.vld_parts (c : SigCoreState) (l : Bytes) :
    (⟨c.at_ + 3, c.at_, 2, .v (c.phys f.d), (List.range 32).map fun j => leAt l (4 * j) 4⟩ : SigFlight) ∈ (c.vld f l).flight ∧
    (⟨c.at_, c.at_, 2, .x c.inShadow f.a.toNat, [((c.rx f.a).toNat + f.x.toNat * 128) % 2 ^ 32]⟩ : SigFlight) ∈ (c.vld f l).flight ∧
    (c.vld f l).v = c.v := by
  have rx : (c.result 2 4 (.v (c.phys f.d)) ((List.range 32).map fun j => leAt l (4 * j) 4)).rx f.a = c.rx f.a := rfl
  refine ⟨?_, ?_, rfl⟩
  · exact mem_insertFlight_of_mem (mem_insertFlight_self _ _)
  · unfold SigCoreState.vld SigCoreState.postInc
    rw [rx]
    exact mem_insertFlight_self _ _

/-- A core after its base register has stepped on. -/
theorem SigCoreState.postInc_v (c : SigCoreState) : (c.postInc f).v = c.v := rfl

theorem flatMap_leBytes_length (l : List (BitVec 32)) : (l.flatMap fun x => leBytes 4 x.toNat).length = l.length * 4 := by
  induction l with
  | nil => rfl
  | cons x l ih => rw [List.flatMap_cons, List.length_append, leBytes_length, ih, List.length_cons, Nat.succ_mul, Nat.add_comm]

/-- A write of the loaf's data memory stores its bytes and no other. -/
theorem Dev.write_bytes {a n : Nat} {l : Bytes} (hd : d.canon) (hl : l.length = n) : (∀ j, j < n → (d.write a l).byte (a + j) = l.getD j 0#8) ∧
    (∀ b, b < a ∨ a + n ≤ b → (d.write a l).byte b = d.byte b) :=
  ⟨fun j hj => by rw [Dev.byte_write_in a j l hd (hl ▸ hj), List.getD_eq_getElem _ _ (hl ▸ hj)],
   fun b hb => Dev.byte_write_out a b l hd (hl ▸ hb)⟩
theorem Dev.write_sg {a : Nat} {l : Bytes} : (d.write a l).sg t i = d.sg t i := (congrArg (Dev.sg · t i) (d.write_rest a l) :)

/-- The bytes of a device after one of its slots has issued. -/
theorem Dev.sigSlotDone_byte {rank a : Nat} (hd : d.canon) : (d.sigSlotDone t i rank).byte a = d.byte a := by
  obtain ⟨-, keeps, -⟩ := Dev.sigSlotDone_keeps (t := t) (i := i) (rank := rank) hd
  rw [Dev.byte, Dev.byte, keeps.mem]

section
variable (hr : d.sigReady t i 2)
include hr

theorem sigVld_done {a : Nat} (ha : f.a.toNat ≤ 31) (hb : f.b = 0) (hs : (d.sg t i).inShadow = false) (hrow : ((d.sg t i).rx f.a).toNat = a)
    (hal : a % 128 = 0) (hh : (d.sg t i).holds a 128 = true) (hg : d.firstBad (dmemAt t i a) 128 = none) :
    sigVldEffect t i f d = (d.setSg t i ((d.sg t i).vld f (d.bytes (dmemAt t i a) 128))).sigSlotDone t i 2 := by
  unfold sigVldEffect
  refine sigLs_done hr (by simp [hb, ha]) ?_
  simp only [hs, hrow, hal, hh, Dev.sigRead_good hg, Bool.false_eq_true, if_false, Bool.not_true, bne_self_eq_false, Bool.or_self]
  rfl

theorem sigVld_fails (ha : f.a.toNat ≤ 31) (hb : f.b = 0) (hs : (d.sg t i).inShadow = false)
    (ho : ((d.sg t i).rx f.a).toNat % 128 ≠ 0 ∨ (d.sg t i).holds ((d.sg t i).rx f.a).toNat 128 = false) :
    sigVldEffect t i f d = d.sigFail t i 2 3 0 := by
  have out : (((d.sg t i).rx f.a).toNat % 128 != 0 || !(d.sg t i).holds ((d.sg t i).rx f.a).toNat 128) = true := by
    rcases ho with ho | ho <;> simp [ho]
  unfold sigVldEffect
  refine sigLs_fails hr (by simp [hb, ha]) ?_
  simp only [hs, out, Bool.false_eq_true, if_false, if_true]

theorem sigVst_done {a : Nat} (ha : f.a.toNat ≤ 31) (hdd : f.d = 0) (hs : (d.sg t i).inShadow = false) (hrow : ((d.sg t i).rx f.a).toNat = a)
    (hal : a % 128 = 0) (hh : (d.sg t i).holds a 128 = true) :
    sigVstEffect t i f d = ((d.write (dmemAt t i a) (((d.sg t i).rv f.b).flatMap fun x => leBytes 4 x.toNat)).setSg t i ((d.sg t i).postInc f)).sigSlotDone
      t i 2 := by
  unfold sigVstEffect
  refine sigLs_done hr (by simp [hdd, ha]) ?_
  simp only [hs, hrow, hal, hh, Bool.false_eq_true, if_false, Bool.not_true, bne_self_eq_false, Bool.or_self, Dev.modSg, Dev.write_sg]

theorem sld_done {a : Nat} (ha : f.a.toNat ≤ 31) (hb : f.b = 0) (hdd : f.d.toNat ≤ 31) (hw : ((d.sg t i).rx f.a).toNat + 4 * f.x.toNat = a)
    (hal : a % 4 = 0) (hh : (d.sg t i).holds a 4 = true) (hg : d.firstBad (dmemAt t i a) 4 = none) :
    sldEffect t i f d = (d.setSg t i ((d.sg t i).result 2 3 (.x (d.sg t i).inShadow f.d.toNat) [leAt (d.bytes (dmemAt t i a) 4) 0 4])).sigSlotDone t i 2 := by
  unfold sldEffect
  refine sigLs_done hr (by simp [hb, ha, hdd]) ?_
  simp only [hw, hal, hh, Dev.sigRead_good hg, Bool.false_eq_true, if_false, Bool.not_true, bne_self_eq_false, Bool.or_self, Dev.modSg]

theorem sst_done {a : Nat} (ha : f.a.toNat ≤ 31) (hdd : f.d = 0) (hb : f.b.toNat ≤ 31) (hw : ((d.sg t i).rx f.a).toNat + 4 * f.x.toNat = a)
    (hal : a % 4 = 0) (hh : (d.sg t i).holds a 4 = true) :
    sstEffect t i f d = (d.write (dmemAt t i a) (leBytes 4 ((d.sg t i).rx f.b).toNat)).sigSlotDone t i 2 := by
  unfold sstEffect
  refine sigLs_done hr (by simp [hdd, ha, hb]) ?_
  simp only [hw, hal, hh, Bool.false_eq_true, if_false, Bool.not_true, bne_self_eq_false, Bool.or_self]

theorem xfer_done {a : Nat} (ha : f.a.toNat ≤ 31) (hdd : f.d = 0) (hb : f.b = 0) (hx : f.x = 0) (hw : ((d.sg t i).rx f.a).toNat = a)
    (hal : a % 4 = 0) (hh : (d.sg t i).holds a 32 = true) (hq : (d.sg t i).xferQ.length < 16) (hg : d.firstBad (dmemAt t i a) 32 = none)
    (hc : d.xferCheck t i (d.sg t i) (dmaDesc (d.bytes (dmemAt t i a) 32)) = none) :
    xferEffect t i f d =
      (d.setSg t i { d.sg t i with xferQ := (d.sg t i).xferQ ++ [⟨0, dmaDesc (d.bytes (dmemAt t i a) 32), 0⟩] }).sigSlotDone t i 2 := by
  unfold xferEffect
  refine sigLs_done hr (by simp [hdd, ha, hb, hx]) ?_
  simp only [hw, hal, hh, Dev.sigRead_good hg, hc, Nat.not_le.2 hq, Bool.false_eq_true, if_false, Bool.not_true, bne_self_eq_false, Bool.or_self,
    Dev.modSg]

end

/-! ## Transfers -/

/-- A transfer whose end is known. -/
def DmaJob.endsAt (j : DmaJob) (n : Nat) : DmaJob := { j with done := n }

theorem sigXferBegin_takes {j : DmaJob} {q : List DmaJob} (hq : (d.sg t i).xferQ = j :: q) (hn : (d.sg t i).xferRun = none) (hp : d.paused t = false) :
    sigXferBeginEffect t i d = d.setSg t i { d.sg t i with
      xferQ := q, xferRun := some (j.endsAt ((d.tile t).lk + (d.xferPath t i j.desc).2 +
        ceilDiv (j.desc.rows * j.desc.rowLines * 64) (max (d.xferPath t i j.desc).1 1))) } := by
  unfold sigXferBeginEffect
  simp only [hq, hn, hp, Bool.false_eq_true, if_false, DmaJob.endsAt]

/-- A copy of rows changes stores alone. -/
theorem Dev.copyRows_rest {src dst : Nat → Nat} {rows n : Nat} : (d.copyRows src dst rows n).sg t i = d.sg t i ∧ (d.copyRows src dst rows n).now = d.now :=
  List.foldlRecOn (motive := fun e : Dev => e.sg t i = d.sg t i ∧ e.now = d.now) _ _ ⟨rfl, rfl⟩
    fun _ he _ _ => ⟨Dev.write_sg.trans he.1, Dev.write_now.trans he.2⟩

/-- The device when the running transfer is at its end. -/
def Dev.atXferEnd (d : Dev) (t i : Nat) (j : DmaJob) : Dev := (d.advance (j.done - (d.tile t).lk)).sigSync t i

theorem sigXferComplete_copies {j : DmaJob} {src dst : Nat → Nat} (hj : (d.sg t i).xferRun = some j) (hp : d.paused t = false) (hsig : j.desc.sig = false)
    (hirq : j.desc.irq = false)
    (hs : (fun n => (d.atXferEnd t i j).xferAt t i j.desc j.desc.src (j.desc.srcAddr + if j.desc.src = 3 then n * j.desc.srcStride * 64 else n * j.desc.srcStride)) = src)
    (ht : (fun n => (d.atXferEnd t i j).xferAt t i j.desc j.desc.dst (j.desc.dstAddr + if j.desc.dst = 3 then n * j.desc.dstStride * 64 else n * j.desc.dstStride)) = dst)
    (hg : (d.atXferEnd t i j).dmaBad src j.desc.rows j.desc.rowLines = none) :
    sigXferCompleteEffect t i d = ((d.atXferEnd t i j).copyRows src dst j.desc.rows j.desc.rowLines).modSg t i fun c => { c with xferRun := none } := by
  unfold sigXferCompleteEffect
  simp only [hj, hp, hsig, hirq, Bool.false_eq_true, if_false, beq_iff_eq]
  unfold Dev.atXferEnd at hs ht hg ⊢
  simp only [hs, ht, hg]

/-- Settles O28: each operation's issue by the shared end of a slot, with what it reads and writes. -/
theorem signalLoadsStoresAndTransfers : Obligations.SignalLoadsStoresAndTransfers := by
  unfold Obligations.SignalLoadsStoresAndTransfers
  refine ⟨fun t i f s hs hd hr ha => ?_, fun t i j q s hs hd hq hn hp => runs_ran rfl hs ?_, fun t i j s hs hd hj hp hsig hirq => ?_⟩
  · dsimp only
    refine ⟨fun hb hsh hal hh hg => runs_ran rfl hs ?_, fun hb hsh ho => runs_ran rfl hs (sigVld_fails hr ha hb hsh ho),
      fun hdd hsh hal hh hlen => runs_ran rfl hs ?_, fun hb hdd hal hh hg => runs_ran rfl hs ?_, fun hdd hb hal hh => runs_ran rfl hs ?_,
      fun hdd hb hx hal hh hq hg hc => runs_ran rfl hs ?_⟩
    · rw [sigVld_done hr ha hb hsh rfl hal hh hg]
      obtain ⟨loaded, stepped, v⟩ := (s.dev.sg t i).vld_parts (f := f) (s.dev.bytes (dmemAt t i ((s.dev.sg t i).rx f.a).toNat) 128)
      obtain ⟨alike, keeps, -⟩ := Dev.sigSlotDone_keeps (t := t) (i := i) (rank := 2) (hd.setSg (t := t) (i := i)
        (c := (s.dev.sg t i).vld f (s.dev.bytes (dmemAt t i ((s.dev.sg t i).rx f.a).toNat) 128)))
      rw [Dev.sg_setSg _ _ _ _ hd] at alike
      rw [hsh] at stepped
      exact ⟨alike.flight.symm ▸ loaded, alike.flight.symm ▸ stepped, alike.v.trans v, keeps.mem.trans (Dev.setSg_mem ..), keeps.now.trans (Dev.setSg_now ..)⟩
    · have length := (flatMap_leBytes_length _).trans (congrArg (· * 4) hlen)
      obtain ⟨stored, others⟩ := Dev.write_bytes (a := dmemAt t i ((s.dev.sg t i).rx f.a).toNat) hd length
      rw [sigVst_done hr ha hdd hsh rfl hal hh]
      have canon := hd.write (a := dmemAt t i ((s.dev.sg t i).rx f.a).toNat) (l := ((s.dev.sg t i).rv f.b).flatMap fun x => leBytes 4 x.toNat)
      have canon' := canon.setSg (t := t) (i := i) (c := (s.dev.sg t i).postInc f)
      obtain ⟨alike, keeps, -⟩ := Dev.sigSlotDone_keeps (t := t) (i := i) (rank := 2) canon'
      rw [Dev.sg_setSg _ _ _ _ canon] at alike
      exact ⟨fun n hn => (Dev.sigSlotDone_byte canon').trans (stored n hn), fun a hb => (Dev.sigSlotDone_byte canon').trans (others a hb), alike.v,
        keeps.now.trans Dev.write_now⟩
    · rw [sld_done hr ha hb hdd rfl hal hh hg]
      exact Dev.sigSent_of hd (p := fun _ => False) .refl fun _ => False.elim
    · obtain ⟨stored, others⟩ := Dev.write_bytes (a := dmemAt t i (((s.dev.sg t i).rx f.a).toNat + 4 * f.x.toNat)) hd
        (leBytes_length 4 ((s.dev.sg t i).rx f.b).toNat)
      rw [sst_done hr ha hdd hb rfl hal hh]
      have canon := hd.write (a := dmemAt t i (((s.dev.sg t i).rx f.a).toNat + 4 * f.x.toNat)) (l := leBytes 4 ((s.dev.sg t i).rx f.b).toNat)
      obtain ⟨alike, keeps, -⟩ := Dev.sigSlotDone_keeps (t := t) (i := i) (rank := 2) canon
      exact ⟨fun n hn => (Dev.sigSlotDone_byte canon).trans (stored n hn), fun a hb => (Dev.sigSlotDone_byte canon).trans (others a hb),
        alike.flight.trans (congrArg SigCoreState.flight Dev.write_sg), keeps.now.trans Dev.write_now⟩
    · rw [xfer_done hr ha hdd hb hx rfl hal hh hq hg hc]
      obtain ⟨alike, keeps, -⟩ := Dev.sigSlotDone_keeps (t := t) (i := i) (rank := 2) (hd.setSg (t := t) (i := i)
        (c := { s.dev.sg t i with xferQ := (s.dev.sg t i).xferQ ++ [⟨0, dmaDesc (s.dev.bytes (dmemAt t i ((s.dev.sg t i).rx f.a).toNat) 32), 0⟩] }))
      rw [Dev.sg_setSg _ _ _ _ hd] at alike
      exact ⟨alike.xferQ, keeps.mem, keeps.now⟩
  · rw [sigXferBegin_takes hq hn hp, Dev.sg_setSg _ _ _ _ hd]
    exact ⟨rfl, rfl, _, rfl, rfl⟩
  · intro d at_ hg
    refine runs_ran rfl hs ?_
    rw [sigXferComplete_copies hj hp hsig hirq rfl rfl hg, Dev.modSg]
    obtain ⟨-, now⟩ := Dev.copyRows_rest (d := d) (t := t) (i := i) (src := at_ j.desc.src j.desc.srcAddr j.desc.srcStride)
      (dst := at_ j.desc.dst j.desc.dstAddr j.desc.dstStride) (rows := j.desc.rows) (n := j.desc.rowLines)
    have canon : d.canon := hd.advance.sigSync
    exact ⟨Dev.setSg_mem .., congrArg SigCoreState.xferRun (Dev.sg_setSg _ _ _ _ canon.copyRows), (Dev.setSg_now ..).trans now⟩

end Sys2Proof.Machine
end

section
/-! SUPPORT. The scalar operations of a signal core's SB slot (R276, R278, R282). -/
namespace Sys2Proof.Machine

-- One proof after another: with many at once their threads' stacks exceed the memory that the check allows.
set_option Elab.async false

variable {d e : Dev} {t : Tile} {i : SigIx} {f : SFields}

/-- A slot whose operation changes its core alone. -/
theorem Dev.sigSlot_mods {rank : Nat} {bad : Bool} {g : SigCoreState → SigCoreState} (hr : d.sigReady t i rank) (hb : bad = false) :
    d.sigSlot t i rank bad (fun d => .done (d.modSg t i g)) = ((d.atSlot t i rank).modSg t i g).sigSlotDone t i rank := Dev.sigSlot_done hr hb rfl

theorem Dev.fresh_sg : d.fresh.2.sg t i = d.sg t i := rfl

/-- A result that leaves a device of which the next open value is drawn. -/
theorem Dev.sigSent_fresh {lat x : Nat} (hd : d.canon) (w : BitVec 32) : d.sigSent t i 3 lat (.x (d.sg t i).inShadow x) [w.toNat]
    ((d.fresh.2.modSg t i fun c => c.result 3 lat (.x c.inShadow x) [w.toNat]).sigSlotDone t i 3) := by
  have sent := Dev.sigSent_of (t := t) (i := i) (rank := 3) (lat := lat) (dest := .x (d.sg t i).inShadow x) (val := [w.toNat]) (p := fun _ => False)
    hd.fresh .refl fun _ => False.elim
  unfold Dev.sigSent at sent ⊢
  rw [Dev.modSg]
  rw [Dev.fresh_sg] at sent ⊢
  exact sent

/-- What the operation of a shift answers. -/
def Dev.shiftBody (d : Dev) (t i : Nat) (f : SFields) (right : Bool) : SigOut :=
  if (((d.sg t i).rx f.b).toNat ≥ 32 || (right && decide (((d.sg t i).rx f.b).toNat > 0) && ((d.sg t i).rx f.a).getLsbD 31)) = true then
    .done (d.fresh.2.modSg t i fun c => c.result 3 1 (.x c.inShadow f.d.toNat) [d.fresh.1.toNat % 2 ^ 32])
  else .done (d.modSg t i fun c => c.result 3 1 (.x c.inShadow f.d.toNat)
    [(if right then (d.sg t i).rx f.a >>> ((d.sg t i).rx f.b).toNat else (d.sg t i).rx f.a <<< ((d.sg t i).rx f.b).toNat).toNat])

theorem Dev.sigShift_eq {right : Bool} : d.sigShift t i f right = d.sigSlot t i 3 (badXX f || decide (f.d.toNat > 31)) (·.shiftBody t i f right) := rfl

section
variable {right : Bool} {n : Nat} (hn : ((d.sg t i).rx f.b).toNat = n)
include hn
theorem Dev.shiftBody_stated (hs : (decide (n ≥ 32) || (right && decide (n > 0) && ((d.sg t i).rx f.a).getLsbD 31)) = false) :
    d.shiftBody t i f right = .done (d.modSg t i fun c => c.result 3 1 (.x c.inShadow f.d.toNat)
      [(if right then (d.sg t i).rx f.a >>> n else (d.sg t i).rx f.a <<< n).toNat]) := by
  unfold Dev.shiftBody
  rw [hn]
  exact if_neg (hs ▸ Bool.false_ne_true)
theorem Dev.shiftBody_open (hs : (decide (n ≥ 32) || (right && decide (n > 0) && ((d.sg t i).rx f.a).getLsbD 31)) = true) :
    d.shiftBody t i f right = .done (d.fresh.2.modSg t i fun c => c.result 3 1 (.x c.inShadow f.d.toNat) [d.fresh.1.toNat % 2 ^ 32]) := by
  unfold Dev.shiftBody
  rw [hn]
  exact if_pos hs
end

section
variable (hr : d.sigReady t i 3) (hd : d.canon)
include hr hd

/-- A scalar operation whose word is good sends its value to X[D] of the bank in force. -/
theorem Dev.sigScalar_sends {bad : Bool} {v : SigCoreState → BitVec 32} {w : BitVec 32} (hb : bad = false) (hD : f.d.toNat ≤ 31)
    (hv : v ((d.sigOpen t i).sg t i) = w) :
    (d.sigOpen t i).sigSent t i 3 1 (.x ((d.sigOpen t i).sg t i).inShadow f.d.toNat) [w.toNat] (d.sigScalar t i f bad v) := by
  have good : (bad || decide (f.d.toNat > 31)) = false := by simp [hb, hD]
  unfold Dev.sigScalar
  rw [Dev.sigSlot_mods hr good, Dev.atSlot_sb, ← hv]
  exact Dev.sigSent_of (p := fun _ => False) hd.sigOpen .refl fun _ => False.elim

/-- A shift that the spec states sends the shifted value. -/
theorem Dev.sigShift_sends {right : Bool} {n w : Nat} (hb : badXX f = false) (hD : f.d.toNat ≤ 31)
    (hn : (((d.sigOpen t i).sg t i).rx f.b).toNat = n)
    (hs : (decide (n ≥ 32) || (right && decide (n > 0) && (((d.sigOpen t i).sg t i).rx f.a).getLsbD 31)) = false)
    (hw : (if right then ((d.sigOpen t i).sg t i).rx f.a >>> n else ((d.sigOpen t i).sg t i).rx f.a <<< n).toNat = w) :
    (d.sigOpen t i).sigSent t i 3 1 (.x ((d.sigOpen t i).sg t i).inShadow f.d.toNat) [w] (d.sigShift t i f right) := by
  have good : (badXX f || decide (f.d.toNat > 31)) = false := by simp [hb, hD]
  rw [Dev.sigShift_eq, Dev.sigSlot_done hr good (Dev.shiftBody_stated hn hs), ← hw]
  exact Dev.sigSent_of (p := fun _ => False) hd.sigOpen .refl fun _ => False.elim

/-- Any other shift sends the next open value. -/
theorem Dev.sigShift_opens {right : Bool} {n : Nat} (hb : badXX f = false) (hD : f.d.toNat ≤ 31)
    (hn : (((d.sigOpen t i).sg t i).rx f.b).toNat = n)
    (hs : (decide (n ≥ 32) || (right && decide (n > 0) && (((d.sigOpen t i).sg t i).rx f.a).getLsbD 31)) = true) :
    ∃ v : BitVec 32, (d.sigOpen t i).sigSent t i 3 1 (.x ((d.sigOpen t i).sg t i).inShadow f.d.toNat) [v.toNat] (d.sigShift t i f right) := by
  have good : (badXX f || decide (f.d.toNat > 31)) = false := by simp [hb, hD]
  refine ⟨BitVec.ofNat 32 (d.sigOpen t i).fresh.1.toNat, ?_⟩
  rw [Dev.sigShift_eq, Dev.sigSlot_done hr good (Dev.shiftBody_open hn hs), ← BitVec.toNat_ofNat]
  exact Dev.sigSent_fresh hd.sigOpen _

theorem irqen_sends (hb : badA f = false) :
    (d.sigOpen t i).sigSent t i 3 1 .mask [(((d.sigOpen t i).sg t i).rx f.a).toNat % 8] (irqenEffect t i f d) := by
  unfold irqenEffect
  rw [Dev.sigSlot_mods hr hb, Dev.atSlot_sb]
  exact Dev.sigSent_of (p := fun _ => False) hd.sigOpen .refl fun _ => False.elim

end

/-! ## The values of SLI and of the shifts -/

/-- The 20 bits of SLI as a number. -/
def sliImm (f : SFields) : Nat := f.a.toNat * 2 ^ 14 + f.b.toNat * 2 ^ 8 + f.x.toNat
theorem sliImm_lt (f : SFields) : sliImm f < 2 ^ 20 := by
  have := f.a.isLt; have := f.b.isLt; have := f.x.isLt
  unfold sliImm
  omega
theorem sliImm_bits (f : SFields) : (f.a ++ f.b ++ f.x : BitVec 20).toNat = sliImm f := by
  have hb := f.b.isLt; have hx := f.x.isLt
  unfold sliImm
  rw [BitVec.toNat_append, BitVec.toNat_append, ← Nat.shiftLeft_add_eq_or_of_lt hx, ← Nat.shiftLeft_add_eq_or_of_lt hb, Nat.shiftLeft_eq, Nat.shiftLeft_eq]
  omega

theorem sli_whole (f : SFields) : (f.a ++ f.b ++ f.x : BitVec 20).setWidth 32 = BitVec.ofNat 32 (sliImm f) :=
  BitVec.eq_of_toNat_eq (by rw [BitVec.toNat_setWidth, sliImm_bits f, BitVec.toNat_ofNat])
theorem sli_upper (f : SFields) (x : BitVec 32) :
    ((f.a ++ f.b ++ f.x : BitVec 20).setWidth 16 ++ x.setWidth 16 : BitVec 32) = BitVec.ofNat 32 (sliImm f % 2 ^ 16 * 2 ^ 16 + x.toNat % 2 ^ 16) := by
  have low : x.toNat % 2 ^ 16 < 2 ^ 16 := Nat.mod_lt _ (by omega)
  refine BitVec.eq_of_toNat_eq ?_
  rw [BitVec.toNat_append, BitVec.toNat_setWidth, BitVec.toNat_setWidth, sliImm_bits f, ← Nat.shiftLeft_add_eq_or_of_lt low, Nat.shiftLeft_eq, BitVec.toNat_ofNat]
  omega

theorem sli_sends (hr : d.sigReady t i 3) (hd : d.canon) (hD : f.d.toNat ≤ 31) {w : BitVec 32}
    (hw : (if f.a.getLsbD 5 then (f.a ++ f.b ++ f.x : BitVec 20).setWidth 16 ++ (((d.sigOpen t i).sg t i).rx f.d).setWidth 16
      else (f.a ++ f.b ++ f.x : BitVec 20).setWidth 32) = w) :
    (d.sigOpen t i).sigSent t i 3 1 (.x ((d.sigOpen t i).sg t i).inShadow f.d.toNat) [w.toNat] (sigSliEffect t i f d) :=
  Dev.sigScalar_sends hr hd rfl hD hw

/-- The sign bit of a word, by its value. -/
theorem getLsbD_31_of_le {x : BitVec 32} (h : 2 ^ 31 ≤ x.toNat) : x.getLsbD 31 = true := by
  rw [← BitVec.msb_eq_getLsbD_last (w := 32) x, BitVec.msb_eq_decide]
  exact decide_eq_true h

theorem badXX_false (h : f.x = 0 ∧ f.a.toNat ≤ 31 ∧ f.b.toNat ≤ 31) : badXX f = false := by
  obtain ⟨hx, ha, hb⟩ := h
  simp [badXX, hx, ha, hb]
theorem badA_false (hd : f.d = 0) (hb : f.b = 0) (hx : f.x = 0) (ha : f.a.toNat ≤ 31) : badA f = false := by simp [badA, hd, hb, hx, ha]

/-- Settles O29: by the shared issue of a scalar operation, with the value that each sends. -/
theorem signalScalarSlotComputesWrapping : Obligations.SignalScalarSlotComputesWrapping := by
  unfold Obligations.SignalScalarSlotComputesWrapping
  intro t i f s hs hd hr hD
  dsimp only
  refine ⟨fun h => runs_ran rfl hs ?_, fun h => runs_ran rfl hs ?_, fun h => runs_ran rfl hs ?_, fun h => runs_ran rfl hs ?_, fun h => runs_ran rfl hs ?_,
    fun hb ha => runs_ran rfl hs ?_, fun h => runs_ran rfl hs ?_, fun h => runs_ran rfl hs ?_, fun h hy => runs_ran rfl hs ?_,
    fun h hy hx => runs_ran rfl hs ?_, fun h hy => runs_ran rfl hs ?_, fun h hy => runs_ran rfl hs ?_, fun hdd hb hx ha => runs_ran rfl hs ?_⟩
  · exact Dev.sigScalar_sends hr hd (badXX_false h) hD rfl
  · exact Dev.sigScalar_sends hr hd (badXX_false h) hD rfl
  · exact Dev.sigScalar_sends hr hd (badXX_false h) hD rfl
  · exact Dev.sigScalar_sends hr hd (badXX_false h) hD rfl
  · exact Dev.sigScalar_sends hr hd (badXX_false h) hD rfl
  · exact Dev.sigScalar_sends hr hd (by simp [hb, ha]) hD rfl
  · exact sli_sends hr hd hD (by rw [h]; exact sli_whole f)
  · exact sli_sends hr hd hD (by rw [h]; exact sli_upper f _)
  · refine Dev.sigShift_sends hr hd (badXX_false h) hD rfl (by simp [hy]) ?_
    rw [if_neg Bool.false_ne_true, BitVec.toNat_shiftLeft, Nat.shiftLeft_eq, BitVec.toNat_ofNat]
  · have positive : (decide ((((s.dev.sigOpen t i).sg t i).rx f.b).toNat > 0) && (((s.dev.sigOpen t i).sg t i).rx f.a).getLsbD 31) = false := by
      rcases hx with hx | hx
      · rw [BitVec.getLsbD, Nat.testBit_lt_two_pow hx, Bool.and_false]
      · rw [hx]; rfl
    refine Dev.sigShift_sends hr hd (badXX_false h) hD rfl (by simpa [hy] using positive) ?_
    rw [if_pos rfl, BitVec.toNat_ushiftRight, Nat.shiftRight_eq_div_pow, BitVec.toNat_ofNat, Nat.mod_eq_of_lt]
    exact Nat.lt_of_le_of_lt (Nat.div_le_self ..) (BitVec.isLt _)
  · exact Dev.sigShift_opens hr hd (badXX_false h) hD rfl (by simp [hy])
  · refine Dev.sigShift_opens hr hd (badXX_false h) hD rfl ?_
    rcases hy with hy | ⟨hx, hy⟩
    · rw [decide_eq_true hy, Bool.true_or]
    · rw [getLsbD_31_of_le hx, decide_eq_true (Nat.pos_of_ne_zero hy)]
      exact Bool.or_true _
  · exact irqen_sends hr hd (badA_false hdd hb hx ha)

end Sys2Proof.Machine
end

section
/-! SUPPORT. The control operations of a signal core's SB slot (R277, R279, R284 to R287). -/
namespace Sys2Proof.Machine

-- One proof after another: with many at once their threads' stacks exceed the memory that the check allows.
set_option Elab.async false

variable {d e u : Dev} {t : Tile} {i : SigIx} {f : SFields}

theorem lagReg_ne_sigStatus : Reg.SIG_STATUS t i ≠ Reg.TICK_TILE_STATUS t := by
  unfold Reg.SIG_STATUS Reg.TICK_TILE_STATUS
  omega

/-! ## The opening of a bundle -/

/-- What a change of the core's status leaves: memory, time, the counters, the tiles, and of the core the bundle's progress. -/
structure Dev.SigLeaves (t : Tile) (i : SigIx) (d e : Dev) : Prop where
  canon : d.canon → e.canon
  mem : e.mem = d.mem
  ctrs : e.ctrs = d.ctrs
  tile : e.tile t = d.tile t
  paused : d.canon → e.paused t = d.paused t
  slots : d.canon → (e.sg t i).slots = (d.sg t i).slots
  act : d.canon → (e.sg t i).act = (d.sg t i).act

theorem Dev.SigLeaves.refl : Dev.SigLeaves t i d d := ⟨id, rfl, rfl, rfl, fun _ => rfl, fun _ => rfl, fun _ => rfl⟩
theorem Dev.SigLeaves.trans (h : Dev.SigLeaves t i d e) (h' : Dev.SigLeaves t i e u) : Dev.SigLeaves t i d u :=
  ⟨fun c => h'.canon (h.canon c), h'.mem.trans h.mem, h'.ctrs.trans h.ctrs, h'.tile.trans h.tile, fun c => (h'.paused (h.canon c)).trans (h.paused c),
   fun c => (h'.slots (h.canon c)).trans (h.slots c), fun c => (h'.act (h.canon c)).trans (h.act c)⟩

theorem Dev.SigLeaves.setSg {c : SigCoreState} (hs : c.slots = (d.sg t i).slots) (ha : c.act = (d.sg t i).act) : Dev.SigLeaves t i d (d.setSg t i c) :=
  ⟨Dev.canon.setSg, Dev.setSg_mem .., Dev.setSg_ctrs .., congrArg (look TileState.init · t) (Dev.setSg_tiles ..),
   fun _ => congrArg (· == 1) (congrArg (fieldOf F.TICK_TILE_STATUS_PAUSED) (Dev.setSg_reg ..)), fun hd => (congrArg _ (Dev.sg_setSg _ _ _ _ hd)).trans hs,
   fun hd => (congrArg _ (Dev.sg_setSg _ _ _ _ hd)).trans ha⟩
theorem Dev.SigLeaves.ofQuiet (h : Dev.Quiet (· = Reg.SIG_STATUS t i) d e) : Dev.SigLeaves t i d e :=
  ⟨h.keeps, h.mem, h.ctrs, h.tile t, fun hd => by rw [Dev.paused, Dev.paused, Dev.getB, Dev.getB, Dev.getF, Dev.getF, h.regs hd _ lagReg_ne_sigStatus.symm],
   fun _ => congrArg _ (h.sg t i), fun _ => congrArg _ (h.sg t i)⟩

theorem Dev.sigPend_quiet {n m k : Nat} : Dev.Quiet (· = Reg.SIG_STATUS n m) d (d.sigPend n m k) := Dev.Quiet.refl.setF rfl

theorem Dev.sigTimer_leaves : Dev.SigLeaves t i d (d.sigTimer t i) := by
  unfold Dev.sigTimer
  extract_lets c
  split
  · split
    · refine Dev.SigLeaves.trans ?_ (.ofQuiet Dev.sigPend_quiet)
      exact .setSg rfl rfl
    · exact .refl
  · exact .refl
theorem Dev.sigCounter_leaves : Dev.SigLeaves t i d (d.sigCounter t i) := by
  unfold Dev.sigCounter
  split
  · split
    · refine Dev.SigLeaves.trans ?_ (.ofQuiet Dev.sigPend_quiet)
      exact .setSg rfl rfl
    · exact .refl
  · exact .refl

/-- Results that land leave the bundle's progress. -/
theorem SigCoreState.put_slots (c : SigCoreState) (x : SigFlight) : (c.put x).slots = c.slots := by
  unfold SigCoreState.put
  split
  · rfl
  · rfl
  · simp only [apply_ite SigCoreState.slots, ite_self]
  · rfl
theorem SigCoreState.settleTo_slots (c : SigCoreState) (n : Nat) : (c.settleTo n).slots = c.slots :=
  foldl_keeps SigCoreState.slots SigCoreState.put_slots _ _

theorem Dev.advance_sg (n : Nat) : (d.advance n).sg t i = d.sg t i := congrArg (look SigCoreState.init · _) (Dev.advance_sig ..)

/-- The kilocycles until a core's next bundle. -/
def Dev.untilBundle (d : Dev) (t i : Nat) : Nat := (d.sg t i).nextAt - (d.tile t).lk
/-- A core with the results due landed and no act recorded. -/
def SigCoreState.settled (c : SigCoreState) (lk : Nat) : SigCoreState := { c.settleTo lk with at_ := lk, act := .none }

theorem Dev.sigOpen_eq : d.sigOpen t i = ((((d.advance (d.untilBundle t i)).modSg t i
    (·.settled ((d.advance (d.untilBundle t i)).tile t).lk)).sigTimer t i).sigCounter t i).sigSync t i := rfl

/-- A bundle that comes to issue: no slot of it has issued and no act is recorded, and memory and the counters are as they were. -/
theorem Dev.sigOpen_facts (hd : d.canon) (hr : d.sigReady t i 3) : (d.sigOpen t i).canon ∧ (d.sigOpen t i).mem = d.mem ∧ (d.sigOpen t i).ctrs = d.ctrs ∧
    (d.sigOpen t i).paused t = false ∧ ((d.sigOpen t i).sg t i).slots = [] ∧ ((d.sigOpen t i).sg t i).act = .none := by
  obtain ⟨-, -, -, running, -, slots⟩ := hr
  have canon : (d.advance (d.untilBundle t i)).canon := hd.advance
  have mem := d.advance_mem (d.untilBundle t i)
  have ctrs := d.advance_ctrs (d.untilBundle t i)
  have paused := Dev.paused_advance (d.untilBundle t i) t hd
  have sg := d.advance_sg (t := t) (i := i) (d.untilBundle t i)
  rw [Dev.sigOpen_eq]
  generalize d.advance (d.untilBundle t i) = u at *
  have canon' : (u.modSg t i (·.settled (u.tile t).lk)).canon := canon.setSg
  have leaves := (Dev.sigTimer_leaves (d := u.modSg t i (·.settled (u.tile t).lk)) (t := t) (i := i)).trans
    (Dev.sigCounter_leaves.trans (.ofQuiet Dev.sigSync_quiet))
  have core : (u.modSg t i (·.settled (u.tile t).lk)).sg t i = (u.sg t i).settled (u.tile t).lk := Dev.sg_setSg _ _ _ _ canon
  refine ⟨leaves.canon canon', leaves.mem.trans ((Dev.setSg_mem ..).trans mem), leaves.ctrs.trans ((Dev.setSg_ctrs ..).trans ctrs),
    (leaves.paused canon').trans (Eq.trans ?_ (paused.trans running)), ?_, ?_⟩
  · exact congrArg (fun w => fieldOf F.TICK_TILE_STATUS_PAUSED w == 1) (Dev.setSg_reg ..)
  · rw [leaves.slots canon', core]
    exact (SigCoreState.settleTo_slots ..).trans ((congrArg _ sg).trans slots)
  · rw [leaves.act canon', core]
    rfl

/-- The SB slot issues as the bundle's first. -/
theorem Dev.sigSlotDone_first {c : SigCoreState} (hd : d.canon) (hc : d.sg t i = c) (hs : c.slots = []) :
    ((d.sigSlotDone t i 3).sg t i = { c with slots := [3] }) ∧ (d.sigSlotDone t i 3).mem = d.mem ∧ (d.sigSlotDone t i 3).now = d.now ∧
    (d.sigSlotDone t i 3).ctrs = d.ctrs ∧ (d.sigSlotDone t i 3).tile t = d.tile t := by
  subst hc
  have opens : d.sigSlotDone t i 3 = d.setSg t i { d.sg t i with slots := [3] } := by
    rw [Dev.sigSlotDone_open (by rw [hs]; decide), hs, List.nil_append]
  rw [opens]
  exact ⟨Dev.sg_setSg _ _ _ _ hd, Dev.setSg_mem .., Dev.setSg_now .., Dev.setSg_ctrs .., congrArg (look TileState.init · t) (Dev.setSg_tiles ..)⟩

/-- What an operation of the SB slot that changes the core alone leaves: the core as changed, its first slot issued. -/
theorem Dev.sigSlotDone_setSg {c : SigCoreState} (hd : d.canon) (hs : c.slots = []) :
    (((d.setSg t i c).sigSlotDone t i 3).sg t i = { c with slots := [3] }) ∧ ((d.setSg t i c).sigSlotDone t i 3).mem = d.mem ∧
    ((d.setSg t i c).sigSlotDone t i 3).now = d.now := by
  obtain ⟨sg, mem, now, -⟩ := Dev.sigSlotDone_first (c := c) hd.setSg (Dev.sg_setSg _ _ _ _ hd) hs
  exact ⟨sg, mem.trans (Dev.setSg_mem ..), now.trans (Dev.setSg_now ..)⟩

/-- What an operation that records an act leaves. -/
theorem Dev.acted_facts {a : SigAct} (hd : d.canon) (hs : (d.sg t i).slots = []) {e : Dev}
    (he : e = (d.setSg t i { d.sg t i with act := a }).sigSlotDone t i 3) :
    (e.sg t i).act = a ∧ (e.sg t i).slots = [3] ∧ (e.sg t i).flight = (d.sg t i).flight ∧ e.mem = d.mem ∧ e.now = d.now := by
  obtain ⟨sg, mem, now⟩ := Dev.sigSlotDone_setSg (t := t) (i := i) (c := { d.sg t i with act := a }) hd hs
  rw [he, sg]
  exact ⟨rfl, rfl, rfl, mem, now⟩
/-- What an operation that records none leaves. -/
theorem Dev.unacted_facts (hd : d.canon) (hs : (d.sg t i).slots = []) (ha : (d.sg t i).act = .none) {e : Dev} (he : e = d.sigSlotDone t i 3) :
    (e.sg t i).act = .none ∧ (e.sg t i).slots = [3] ∧ (e.sg t i).flight = (d.sg t i).flight ∧ e.mem = d.mem ∧ e.now = d.now := by
  obtain ⟨sg, mem, now, -⟩ := Dev.sigSlotDone_first (t := t) (i := i) hd rfl hs
  rw [he, sg]
  exact ⟨ha, rfl, rfl, mem, now⟩
/-- What the arming of a source leaves. -/
theorem Dev.timed_facts {x : Nat} (hd : d.canon) (hs : (d.sg t i).slots = []) {e : Dev}
    (he : e = (d.setSg t i { d.sg t i with timer := some x }).sigSlotDone t i 3) :
    (e.sg t i).timer = some x ∧ (e.sg t i).flight = (d.sg t i).flight ∧ e.mem = d.mem := by
  obtain ⟨sg, mem, -⟩ := Dev.sigSlotDone_setSg (t := t) (i := i) (c := { d.sg t i with timer := some x }) hd hs
  rw [he, sg]
  exact ⟨rfl, rfl, mem⟩
theorem Dev.armed_facts {x : Nat × Nat} (hd : d.canon) (hs : (d.sg t i).slots = []) {e : Dev}
    (he : e = (d.setSg t i { d.sg t i with armed := some x }).sigSlotDone t i 3) :
    (e.sg t i).armed = some x ∧ (e.sg t i).flight = (d.sg t i).flight ∧ e.mem = d.mem := by
  obtain ⟨sg, mem, -⟩ := Dev.sigSlotDone_setSg (t := t) (i := i) (c := { d.sg t i with armed := some x }) hd hs
  rw [he, sg]
  exact ⟨rfl, rfl, mem⟩

/-! ## Branches and loops -/

theorem badCtr_false (h : f.d = 0 ∧ f.x = 0 ∧ f.a.toNat ≤ 31 ∧ f.b.toNat ≤ 31) : badCtr f = false := by
  obtain ⟨hdd, hrest⟩ := h
  simp [badCtr, hdd, badXX_false hrest]

/-- The stride of the rotation by LOOP's B. -/
def strideOf (n : Nat) : Nat := match n with | 0 => 0 | 1 => 1 | 2 => 2 | _ => 4

theorem target_bits (f : SFields) : (f.b ++ f.x : BitVec 14).toNat = f.b.toNat * 256 + f.x.toNat := by
  rw [BitVec.toNat_append, ← Nat.shiftLeft_add_eq_or_of_lt f.x.isLt, Nat.shiftLeft_eq]

section
variable (hr : d.sigReady t i 3)
include hr

/-- BR outside a loop records the branch when it is taken. -/
theorem br_done {taken : Bool} (hD : f.d.toNat ≤ 3) (ha : f.a.toNat ≤ 31) (hl : ((d.sigOpen t i).sg t i).bank.loops = [])
    (ht : f.b.toNat * 256 + f.x.toNat ≤ 4095)
    (hk : taken = true ↔ f.d.toNat = 0 ∨ (f.d.toNat = 1 ∧ ((d.sigOpen t i).sg t i).rx f.a = 0) ∨ (f.d.toNat = 2 ∧ ((d.sigOpen t i).sg t i).rx f.a ≠ 0) ∨
      (f.d.toNat = 3 ∧ (((d.sigOpen t i).sg t i).rx f.a).getLsbD 31 = true)) :
    brEffect t i f d = (if taken then (d.sigOpen t i).setSg t i { (d.sigOpen t i).sg t i with act := .branch (f.b.toNat * 256 + f.x.toNat) }
      else d.sigOpen t i).sigSlotDone t i 3 := by
  unfold brEffect
  refine Dev.sigSlot_done hr (by simp [hD, ha]) ?_
  rw [Dev.atSlot_sb]
  simp only [target_bits, hl, Nat.not_lt.2 ht, if_false, Bool.false_eq_true]
  congr 2
  have code : f.d.toNat = 0 ∨ f.d.toNat = 1 ∨ f.d.toNat = 2 ∨ f.d.toNat = 3 := by omega
  rcases code with code | code | code | code <;> simp [code, hk]

theorem br_far (hD : f.d.toNat ≤ 3) (ha : f.a.toNat ≤ 31) (ht : 4095 < f.b.toNat * 256 + f.x.toNat) :
    brEffect t i f d = (d.sigOpen t i).sigFail t i 3 6 0 := by
  unfold brEffect
  refine Dev.sigSlot_fails hr (by simp [hD, ha]) ?_
  simp only [target_bits, ht, gt_iff_lt, if_true]

theorem sigLoop_done (hdd : f.d = 0) (hb : f.b.toNat < 4) (ha : f.a.toNat ≤ 31) (hl : ((d.sigOpen t i).sg t i).bank.loops = []) :
    sigLoopEffect t i f d = ((d.sigOpen t i).setSg t i { (d.sigOpen t i).sg t i with
      act := if (((d.sigOpen t i).sg t i).rx f.a).toNat = 0 then .skip (f.x.toNat + 1)
        else .loop ⟨((d.sigOpen t i).sg t i).pc + 1, ((d.sigOpen t i).sg t i).pc + 1 + f.x.toNat, (((d.sigOpen t i).sg t i).rx f.a).toNat, strideOf f.b.toNat⟩ }).sigSlotDone
      t i 3 := by
  unfold sigLoopEffect
  refine Dev.sigSlot_done hr (by simp [hdd, ha, Nat.div_eq_of_lt hb]) ?_
  rw [Dev.atSlot_sb, Nat.mod_eq_of_lt hb]
  refine (if_neg ?_).trans ?_
  · rw [hl, List.any_nil, Bool.and_false]
    exact Bool.false_ne_true
  · simp only [beq_iff_eq]
    rfl

theorem sigLoop_third (hdd : f.d = 0) (hb : f.b.toNat < 4) (ha : f.a.toNat ≤ 31) (hl : 2 ≤ ((d.sigOpen t i).sg t i).bank.loops.length) :
    sigLoopEffect t i f d = (d.sigOpen t i).sigFail t i 3 5 0 := by
  unfold sigLoopEffect
  refine Dev.sigSlot_fails hr (by simp [hdd, ha, Nat.div_eq_of_lt hb]) ?_
  rw [Dev.atSlot_sb]
  exact if_pos (by rw [decide_eq_true hl, Bool.true_or])

/-! ## Counters and waits -/

theorem sigSignal_done {n : Nat} (hf : badCtr f = false) (hn : (((d.sigOpen t i).sg t i).rx f.a).toNat % 1024 = n)
    (hc : (d.sigOpen t i).ctrAllowed t (sigCtx i) n = true) :
    sigSignalEffect t i f d = ((d.sigOpen t i).sigSignals t i n (((d.sigOpen t i).sg t i).rx f.b).toNat).sigSlotDone t i 3 := by
  unfold sigSignalEffect
  refine Dev.sigSlot_done hr hf ?_
  rw [Dev.atSlot_sb]
  simp only [hn, hc, Bool.not_true, Bool.false_eq_true, if_false]
theorem sigSignal_outside {n : Nat} (hf : badCtr f = false) (hn : (((d.sigOpen t i).sg t i).rx f.a).toNat % 1024 = n)
    (hc : (d.sigOpen t i).ctrAllowed t (sigCtx i) n = false) : sigSignalEffect t i f d = (d.sigOpen t i).sigFail t i 3 4 0 := by
  unfold sigSignalEffect
  refine Dev.sigSlot_fails hr hf ?_
  rw [Dev.atSlot_sb]
  simp only [hn, hc, Bool.not_false, if_true]

theorem sigWait_stays {n : Nat} {take : Bool} (hf : badCtr f = false) (hn : (((d.sigOpen t i).sg t i).rx f.a).toNat % 1024 = n)
    (hc : (d.sigOpen t i).waitAllowed t (sigCtx i) n = true) :
    d.sigWait t i f take = ((((d.sigOpen t i).addWait t n (((d.sigOpen t i).sg t i).rx f.b).toNat take (sigUnit t i) 0).modSg t i
      fun c => { c with waiting := true }).sigState t i 2) := by
  unfold Dev.sigWait
  refine Dev.sigSlot_stays hr hf ?_
  rw [Dev.atSlot_sb]
  simp only [hn, hc, Bool.not_true, Bool.false_eq_true, if_false]

theorem armw_done {n : Nat} (hf : badCtr f = false) (hn : (((d.sigOpen t i).sg t i).rx f.a).toNat % 1024 = n)
    (hc : (d.sigOpen t i).waitAllowed t (sigCtx i) n = true) :
    armwEffect t i f d = ((d.sigOpen t i).setSg t i { (d.sigOpen t i).sg t i with
      armed := some (n, (((d.sigOpen t i).sg t i).rx f.b).toNat) }).sigSlotDone t i 3 := by
  unfold armwEffect
  refine Dev.sigSlot_done hr hf ?_
  rw [Dev.atSlot_sb]
  simp only [hn, hc, Bool.not_true, Bool.false_eq_true, if_false]

end

/-- A signal of the core is one more on its way. -/
theorem Dev.sigSignals_sends {c n : Nat} : ∃ x : SigEv, d.sigSignals t i c n = { d with ctrs := { d.ctrs with sigs := d.ctrs.sigs ++ [x] } } ∧
    (c < 1008 → x.tile = t.val ∧ x.ctr = c ∧ x.amount = n ∧ x.unit = sigUnit t i) := by
  unfold Dev.sigSignals Dev.unitSignal
  split
  · next hc =>
    refine ⟨_, rfl, fun hlt => ?_⟩
    rw [Bool.and_eq_true, decide_eq_true_eq] at hc
    omega
  · exact ⟨_, rfl, fun _ => ⟨rfl, rfl, rfl, rfl⟩⟩

theorem Dev.signalSent_facts {c n : Nat} (hd : d.canon) (hs : (d.sg t i).slots = []) :
    ((d.sigSignals t i c n).sigSlotDone t i 3).ctrs.sigs.length = d.ctrs.sigs.length + 1 ∧ ((d.sigSignals t i c n).sigSlotDone t i 3).mem = d.mem ∧
    (c < 1008 → ∃ y, ((d.sigSignals t i c n).sigSlotDone t i 3).ctrs.sigs = d.ctrs.sigs ++ [y] ∧ y.tile = t.val ∧ y.ctr = c ∧ y.amount = n ∧
      y.unit = sigUnit t i) := by
  obtain ⟨x, sent, known⟩ := Dev.sigSignals_sends (d := d) (t := t) (i := i) (c := c) (n := n)
  have canon : (d.sigSignals t i c n).canon := by rw [sent]; exact hd.ctrs
  have sg : (d.sigSignals t i c n).sg t i = d.sg t i := by rw [sent]; rfl
  have sigs : (d.sigSignals t i c n).ctrs.sigs = d.ctrs.sigs ++ [x] := by rw [sent]
  have mem : (d.sigSignals t i c n).mem = d.mem := by rw [sent]
  obtain ⟨-, mem', -, ctrs, -⟩ := Dev.sigSlotDone_first (t := t) (i := i) canon sg hs
  rw [ctrs, mem', sigs, mem]
  exact ⟨List.length_append, rfl, fun hlt => ⟨x, rfl, known hlt⟩⟩

/-- A wait registered for the core, which waits from then on. -/
theorem Dev.waitAdded_facts {c n : Nat} {take : Bool} (hd : d.canon) :
    let e := (((d.addWait t c n take (sigUnit t i) 0).modSg t i fun c => { c with waiting := true }).sigState t i 2)
    (e.sg t i).waiting = true ∧ e.mem = d.mem ∧
    ∃ w, e.ctrs.waits = d.ctrs.waits ++ [w] ∧ w.tile = t.val ∧ w.ctr = c ∧ w.amount = n ∧ w.take = take ∧ w.unit = sigUnit t i := by
  have canon : (d.addWait t c n take (sigUnit t i) 0).canon := hd.addWait
  have quiet := Dev.sigState_quiet (d := (d.addWait t c n take (sigUnit t i) 0).modSg t i fun c => { c with waiting := true }) (n := t) (m := i) (st := 2)
  intro e
  refine ⟨(congrArg SigCoreState.waiting (quiet.sg t i)).trans (congrArg _ (Dev.sg_setSg _ _ _ _ canon)), quiet.mem.trans ?_, ?_⟩
  · rw [Dev.modSg, Dev.setSg_mem, Dev.addWait, Dev.syncWaiters, Dev.setF_mem]
  · rw [show e.ctrs = _ from quiet.ctrs, Dev.modSg, Dev.setSg_ctrs, Dev.addWait, Dev.syncWaiters, Dev.setF_ctrs]
    exact ⟨_, rfl, rfl, rfl, rfl, rfl, rfl⟩

/-! ## WAITAT, INTPT and the end of the stream -/

/-- The device at a local time, the core's results settled. -/
def Dev.waitedUntil (d : Dev) (t i n : Nat) : Dev :=
  let e := d.advance (n - (d.tile t).lk)
  (e.modSg t i fun c => { c.settleTo (e.tile t).lk with at_ := (e.tile t).lk }).sigSync t i

theorem Dev.waitedUntil_facts {n : Nat} (hd : d.canon) (hp : d.paused t = false) : (d.waitedUntil t i n).canon ∧ (d.waitedUntil t i n).mem = d.mem ∧
    d.now ≤ (d.waitedUntil t i n).now ∧ ((d.waitedUntil t i n).sg t i).slots = (d.sg t i).slots ∧ n ≤ ((d.waitedUntil t i n).tile t).lk := by
  have canon : (d.advance (n - (d.tile t).lk)).canon := hd.advance
  have mem := d.advance_mem (n - (d.tile t).lk)
  have now := (Nat.le_add_right d.now _).trans_eq (Dev.advance_now d (n - (d.tile t).lk)).symm
  have sg := d.advance_sg (t := t) (i := i) (n - (d.tile t).lk)
  have lk := Dev.lk_advance (n - (d.tile t).lk) t hd hp
  unfold Dev.waitedUntil
  generalize d.advance (n - (d.tile t).lk) = u at *
  have quiet := Dev.sigSync_quiet (d := u.modSg t i fun c => { c.settleTo (u.tile t).lk with at_ := (u.tile t).lk }) (n := t) (m := i)
  have canon' : (u.modSg t i fun c => { c.settleTo (u.tile t).lk with at_ := (u.tile t).lk }).canon := canon.setSg
  have core : (u.modSg t i fun c => { c.settleTo (u.tile t).lk with at_ := (u.tile t).lk }).sg t i = _ := Dev.sg_setSg _ _ _ _ canon
  refine ⟨quiet.keeps canon', quiet.mem.trans ((Dev.setSg_mem ..).trans mem), now.trans_eq (quiet.now.trans (Dev.setSg_now ..)).symm, ?_, ?_⟩
  · exact (congrArg SigCoreState.slots ((quiet.sg t i).trans core)).trans ((SigCoreState.settleTo_slots ..).trans (congrArg _ sg))
  · have tile : (u.modSg t i fun c => { c.settleTo (u.tile t).lk with at_ := (u.tile t).lk }).tile t = u.tile t :=
      congrArg (look TileState.init · t) (Dev.setSg_tiles ..)
    rw [quiet.tile t, tile, lk]
    omega

section
variable (hr : d.sigReady t i 3)
include hr

theorem sigWaitat_done (hf : badA f = false) : sigWaitatEffect t i f d =
    ((d.sigOpen t i).waitedUntil t i (((d.sigOpen t i).sg t i).start + (((d.sigOpen t i).sg t i).rx f.a).toNat)).sigSlotDone t i 3 :=
  Dev.sigSlot_done hr hf rfl
theorem settmr_done (hf : badA f = false) : settmrEffect t i f d =
    ((d.sigOpen t i).setSg t i { (d.sigOpen t i).sg t i with timer := some (((d.sigOpen t i).sg t i).rx f.a).toNat }).sigSlotDone t i 3 :=
  Dev.sigSlot_done hr hf rfl

theorem sigEnd_done (hf : f = ⟨0, 0, 0, 0⟩) : sigEndEffect t i f d =
    ((d.sigOpen t i).setSg t i { (d.sigOpen t i).sg t i with act := .end_ }).sigSlotDone t i 3 := by
  subst hf
  exact Dev.sigSlot_done hr rfl rfl
theorem reti_done (hf : f = ⟨0, 0, 0, 0⟩) : retiEffect t i f d =
    ((d.sigOpen t i).setSg t i { (d.sigOpen t i).sg t i with act := .reti }).sigSlotDone t i 3 := by
  subst hf
  exact Dev.sigSlot_done hr rfl rfl
theorem sigNop_done (hf : f = ⟨0, 0, 0, 0⟩) : sigNopEffect t i .sb f d = (d.sigOpen t i).sigSlotDone t i 3 := by
  subst hf
  exact Dev.sigSlot_done hr rfl rfl

theorem intpt_done (hf : f = ⟨0, 0, 0, 0⟩) (h : ((d.sigOpen t i).sg t i).inShadow = true ∨ ((d.sigOpen t i).sg t i).back = true ∨
    sigSource ((d.sigOpen t i).getF (Reg.SIG_STATUS t i) F.SIG_STATUS_PENDING) ((d.sigOpen t i).sg t i).mask = none) :
    intptEffect t i f d = (d.sigOpen t i).sigSlotDone t i 3 := by
  subst hf
  unfold intptEffect
  refine Dev.sigSlot_done hr rfl ?_
  rw [Dev.atSlot_sb]
  have none_taken : (if ((d.sigOpen t i).sg t i).inShadow || ((d.sigOpen t i).sg t i).back then none
      else sigSource ((d.sigOpen t i).getF (Reg.SIG_STATUS t i) F.SIG_STATUS_PENDING) ((d.sigOpen t i).sg t i).mask) = none := by
    rcases h with h | h | h
    · rw [h]; rfl
    · rw [h, Bool.or_true]; rfl
    · rw [h, ite_self]
  simp only [none_taken]

/-- The device with source k of the core taken. -/
def Dev.interrupted (d : Dev) (t i k : Nat) : Dev :=
  let e := (d.setF (Reg.SIG_STATUS t i) F.SIG_STATUS_PENDING (d.getF (Reg.SIG_STATUS t i) F.SIG_STATUS_PENDING - 2 ^ k)).count
    (Reg.SIG_IRQ_COUNT t i) F.SIG_IRQ_COUNT_COUNT 1
  ((e.setSg t i { d.sg t i with inShadow := true, resume := (d.sg t i).pc, pc := 16 * k, nextAt := (d.sg t i).at_ + 4 }).sigState t i 3).sigSync t i

theorem intpt_stays {k : Nat} (hf : f = ⟨0, 0, 0, 0⟩) (hi : ((d.sigOpen t i).sg t i).inShadow = false) (hb : ((d.sigOpen t i).sg t i).back = false)
    (hk : sigSource ((d.sigOpen t i).getF (Reg.SIG_STATUS t i) F.SIG_STATUS_PENDING) ((d.sigOpen t i).sg t i).mask = some k) :
    intptEffect t i f d = (d.sigOpen t i).interrupted t i k := by
  subst hf
  unfold intptEffect
  refine Dev.sigSlot_stays hr rfl ?_
  rw [Dev.atSlot_sb]
  have taken : (if ((d.sigOpen t i).sg t i).inShadow || ((d.sigOpen t i).sg t i).back then none
      else sigSource ((d.sigOpen t i).getF (Reg.SIG_STATUS t i) F.SIG_STATUS_PENDING) ((d.sigOpen t i).sg t i).mask) = some k := by
    rw [hi, hb]
    exact hk
  simp only [taken]
  rfl

end

/-- What brings PC, LOCAL and STATE up to date leaves the sources pending. -/
theorem Dev.sigSync_pending (hd : d.canon) : (d.sigSync t i).getF (Reg.SIG_STATUS t i) F.SIG_STATUS_PENDING =
    d.getF (Reg.SIG_STATUS t i) F.SIG_STATUS_PENDING := by
  rw [Dev.getF, Dev.sigSync, Dev.reg_setFs_self _ _ hd]
  refine fieldOf_putFields_apart _ _ fun p hp => Fld.clearOf_iff.1 ?_
  simp only [List.mem_cons, List.not_mem_nil, or_false] at hp
  rcases hp with rfl | rfl | rfl <;> rfl
theorem Dev.sigState_pending {st : Nat} (hd : d.canon) : (d.sigState t i st).getF (Reg.SIG_STATUS t i) F.SIG_STATUS_PENDING =
    d.getF (Reg.SIG_STATUS t i) F.SIG_STATUS_PENDING := Dev.getF_setF_other hd

theorem Dev.interrupted_facts {k : Nat} (hd : d.canon) :
    (d.interrupted t i k).sg t i = { d.sg t i with inShadow := true, resume := (d.sg t i).pc, pc := 16 * k, nextAt := (d.sg t i).at_ + 4 } ∧
    (d.interrupted t i k).getF (Reg.SIG_STATUS t i) F.SIG_STATUS_PENDING = d.getF (Reg.SIG_STATUS t i) F.SIG_STATUS_PENDING - 2 ^ k ∧
    (d.interrupted t i k).mem = d.mem := by
  have cleared := Dev.getF_setF_lt (a := Reg.SIG_STATUS t i) (f := F.SIG_STATUS_PENDING)
    (v := d.getF (Reg.SIG_STATUS t i) F.SIG_STATUS_PENDING - 2 ^ k) hd (Nat.lt_of_le_of_lt (Nat.sub_le ..) (Dev.getF_lt ..))
  have quiet : Dev.Quiet (fun _ => True) d ((d.setF (Reg.SIG_STATUS t i) F.SIG_STATUS_PENDING
    (d.getF (Reg.SIG_STATUS t i) F.SIG_STATUS_PENDING - 2 ^ k)).count (Reg.SIG_IRQ_COUNT t i) F.SIG_IRQ_COUNT_COUNT 1) :=
    (Dev.Quiet.refl.setF trivial).count trivial
  have apart : Reg.SIG_STATUS t i ≠ Reg.SIG_IRQ_COUNT t i := by unfold Reg.SIG_STATUS Reg.SIG_IRQ_COUNT; omega
  have counted : Dev.Quiet (· = Reg.SIG_IRQ_COUNT t i) (d.setF (Reg.SIG_STATUS t i) F.SIG_STATUS_PENDING
    (d.getF (Reg.SIG_STATUS t i) F.SIG_STATUS_PENDING - 2 ^ k)) _ := Dev.Quiet.refl.count (f := F.SIG_IRQ_COUNT_COUNT) (n := 1) rfl
  have pending := (congrArg (fieldOf F.SIG_STATUS_PENDING) (counted.regs hd.setF _ apart)).trans cleared
  unfold Dev.interrupted
  generalize (d.setF (Reg.SIG_STATUS t i) F.SIG_STATUS_PENDING (d.getF (Reg.SIG_STATUS t i) F.SIG_STATUS_PENDING - 2 ^ k)).count
    (Reg.SIG_IRQ_COUNT t i) F.SIG_IRQ_COUNT_COUNT 1 = u at *
  generalize hc : ({ d.sg t i with inShadow := true, resume := (d.sg t i).pc, pc := 16 * k, nextAt := (d.sg t i).at_ + 4 } : SigCoreState) = c
  have canon : (u.setSg t i c).canon := (quiet.keeps hd).setSg
  have state := Dev.sigState_quiet (d := u.setSg t i c) (n := t) (m := i) (st := 3)
  have sync := Dev.sigSync_quiet (d := (u.setSg t i c).sigState t i 3) (n := t) (m := i)
  refine ⟨(sync.sg t i).trans ((state.sg t i).trans (Dev.sg_setSg _ _ _ _ (quiet.keeps hd))), ?_,
    sync.mem.trans (state.mem.trans ((Dev.setSg_mem ..).trans quiet.mem))⟩
  rw [Dev.sigSync_pending (state.keeps canon), Dev.sigState_pending canon, ← pending]
  exact congrArg (fieldOf F.SIG_STATUS_PENDING) (Dev.setSg_reg ..)

/-- Settles O30: each operation by the opening of its bundle and the end of its slot. -/
theorem signalControlFlowAndCounters : Obligations.SignalControlFlowAndCounters := by
  unfold Obligations.SignalControlFlowAndCounters
  intro t i f s hs hd hr
  obtain ⟨canon, mem, ctrs, running, slots, act⟩ := Dev.sigOpen_facts hd hr
  dsimp only
  refine ⟨fun hD ha hl ht => ⟨fun hk => runs_ran rfl hs ?_, fun hk => runs_ran rfl hs ?_⟩, fun hD ha ht => runs_ran rfl hs (br_far hr hD ha ht),
    fun hdd hb ha hl => runs_ran rfl hs ?_, fun hdd hb ha hl => runs_ran rfl hs (sigLoop_third hr hdd hb ha hl),
    fun hf hc => runs_ran rfl hs ?_, fun hf hc => runs_ran rfl hs (sigSignal_outside hr (badCtr_false hf) rfl hc),
    fun hf hc => runs_ran rfl hs ?_, fun hf hc => runs_ran rfl hs ?_, fun hf => runs_ran rfl hs ?_, fun hf => runs_ran rfl hs ?_,
    fun hf hc => runs_ran rfl hs ?_, fun hf => ⟨runs_ran rfl hs ?_, runs_ran rfl hs ?_, runs_ran rfl hs ?_⟩, fun hf => ⟨fun h => runs_ran rfl hs ?_,
    fun k hi hb hk => runs_ran rfl hs ?_⟩⟩
  · rw [← mem]
    exact Dev.acted_facts canon slots ((br_done (taken := true) hr hD ha hl ht (iff_of_true rfl hk)).trans (by rw [if_pos rfl]))
  · rw [← mem]
    exact Dev.unacted_facts canon slots act
      ((br_done (taken := false) hr hD ha hl ht (iff_of_false Bool.false_ne_true hk)).trans (by rw [if_neg Bool.false_ne_true]))
  · rw [← mem]
    exact Dev.acted_facts canon slots (sigLoop_done hr hdd hb ha hl)
  · rw [sigSignal_done hr (badCtr_false hf) rfl hc, ← ctrs, ← mem]
    exact Dev.signalSent_facts canon slots
  · rw [sigTakeEffect, sigWait_stays hr (badCtr_false hf) rfl hc, ← ctrs, ← mem]
    exact Dev.waitAdded_facts canon
  · rw [sigWatchEffect, sigWait_stays hr (badCtr_false hf) rfl hc, ← ctrs, ← mem]
    exact Dev.waitAdded_facts canon
  · obtain ⟨hdd, hb, hx, ha⟩ := hf
    rw [sigWaitat_done hr (badA_false hdd hb hx ha)]
    obtain ⟨canon', mem', now, slots', lk⟩ := Dev.waitedUntil_facts (i := i)
      (n := ((s.dev.sigOpen t i).sg t i).start + (((s.dev.sigOpen t i).sg t i).rx f.a).toNat) canon running
    obtain ⟨sg, mem'', now', -, tile⟩ := Dev.sigSlotDone_first (t := t) (i := i) canon' rfl (slots'.trans slots)
    rw [sg, tile, now']
    exact ⟨lk, now, mem''.trans (mem'.trans mem), rfl⟩
  · obtain ⟨hdd, hb, hx, ha⟩ := hf
    rw [← mem]
    exact Dev.timed_facts canon slots (settmr_done hr (badA_false hdd hb hx ha))
  · rw [← mem]
    exact Dev.armed_facts canon slots (armw_done hr (badCtr_false hf) rfl hc)
  · rw [← mem]
    exact Dev.acted_facts canon slots (sigEnd_done hr hf)
  · rw [← mem]
    exact Dev.acted_facts canon slots (reti_done hr hf)
  · rw [← mem]
    exact Dev.unacted_facts canon slots act (sigNop_done hr hf)
  · rw [← mem]
    exact Dev.unacted_facts canon slots act (intpt_done hr hf h)
  · rw [intpt_stays hr hf hi hb hk]
    obtain ⟨sg, pending, mem'⟩ := Dev.interrupted_facts (t := t) (i := i) (k := k) canon
    rw [sg, pending]
    exact ⟨rfl, rfl, rfl, rfl, rfl, rfl, mem'.trans mem⟩

end Sys2Proof.Machine
end

section
/-! SUPPORT. The codec engines: loaves, their lists and their descriptors (R294, R295, R297, R300, R302, R308). -/
namespace Sys2Proof.Machine

-- One proof after another: with many at once their threads' stacks exceed the memory that the check allows.
set_option Elab.async false

variable {d u v : Dev} {t : Tile} {e : Engine} {j : CodecJob} {rec : Bytes} {js : List CodecJob}

/-! ## A list's checks rest on the configuration in force alone -/

section
variable (h : u.cfg = d.cfg)
include h

theorem Dev.section_of (ty n : Nat) : u.section_ ty n = d.section_ ty n := by rw [Dev.section_, Dev.section_, h]
theorem Dev.ranges_of : u.ranges = d.ranges := by rw [Dev.ranges, Dev.ranges, Dev.section_of h]
theorem Dev.pantryRegion_of {sl n : Nat} : u.pantryRegion sl n = d.pantryRegion sl n := by rw [Dev.pantryRegion, Dev.pantryRegion, Dev.section_of h]
theorem Dev.inPrivate_of {sl lo hi : Nat} : u.inPrivate sl lo hi = d.inPrivate sl lo hi := by simp only [Dev.inPrivate, Dev.ranges_of h]
theorem Dev.inSlice0_of {n a l : Nat} : u.inSlice0 n a l = d.inSlice0 n a l := by rw [Dev.inSlice0, Dev.inSlice0, Dev.inPrivate_of h, Dev.pantryRegion_of h]
theorem Dev.codecParamBad_of {n : Nat} : u.codecParamBad n j = d.codecParamBad n j := by
  simp only [Dev.codecParamBad, Dev.cell?, Dev.section_of h]
theorem Dev.routeFor_of {n i : Nat} {x : BitVec 16} : u.routeFor n x i = d.routeFor n x i := by
  simp only [Dev.routeFor, Dev.section_of h]
theorem Dev.granted_of {sl n g : Nat} : u.granted sl n g = d.granted sl n g := by
  simp only [Dev.granted, Dev.sliceRec, Dev.section_of h]
theorem Dev.codecCheck_of {n m : Nat} : u.codecCheck n m j = d.codecCheck n m j := by
  simp only [Dev.codecCheck, Dev.inSlice0_of h, Dev.codecParamBad_of h, Dev.routeFor_of h]
theorem Dev.codecListCheck_of {n m : Nat} : ∀ (js : List CodecJob) (b : Bool) (i : Nat), u.codecListCheck n m b i js = d.codecListCheck n m b i js
  | [], _, _ => rfl
  | j :: r, b, i => by simp only [Dev.codecListCheck, Dev.codecCheck_of h, Dev.granted_of h, Dev.codecListCheck_of r]

end

/-! ## The start of a loaf -/

/-- What a loaf's start makes of its engine's registers. -/
def Dev.codecShown (d : Dev) (t e : Nat) (rec : Bytes) : Dev :=
  ((d.proveStart t (engine13 e) (leAt rec 4 1)).setF (Reg.CODEC_LOAF t e) F.CODEC_LOAF_LOAF (leAt rec 0 4)).setFs (Reg.CODEC_STATUS t e)
    [(F.CODEC_STATUS_STATE, 1), (F.CODEC_STATUS_DESC, 0), (F.CODEC_STATUS_LOCAL, 0)]
/-- The engine right after a loaf started, its list not read. -/
def CodecState.started (rec : Bytes) (lk : Nat) : CodecState := { CodecState.init with busy := true, id := leAt rec 0 4, start := lk }
/-- The device right after a loaf started, its list not read. -/
def Dev.codecOpened (d : Dev) (t e : Nat) (rec : Bytes) : Dev :=
  (d.codecShown t e rec).setCodec t e (.started rec ((d.codecShown t e rec).tile t).lk)

theorem Dev.proveStart_rest {n m x : Nat} : ({ d.proveStart n m x with integ := d.integ } : Dev) = d := by
  unfold Dev.proveStart
  split <;> rfl

theorem codecStatus_ne_tickCfg : Reg.CODEC_STATUS t e ≠ Reg.TICK_CFG := by simp only [Reg.CODEC_STATUS, Reg.TICK_CFG]; omega
theorem codecLoaf_ne_tickCfg : Reg.CODEC_LOAF t e ≠ Reg.TICK_CFG := by simp only [Reg.CODEC_LOAF, Reg.TICK_CFG]; omega

theorem Dev.codecOpened_facts (hd : d.canon) : (d.codecOpened t e rec).canon ∧ (d.codecOpened t e rec).mem = d.mem ∧
    (d.codecOpened t e rec).lineErr = d.lineErr ∧ (d.codecOpened t e rec).cfg = d.cfg ∧ (d.codecOpened t e rec).ev = d.ev ∧
    (d.codecOpened t e rec).codecSt t e = .started rec (d.tile t).lk ∧ (d.codecOpened t e rec).tickNo = d.tickNo ∧
    (d.codecOpened t e rec).now = d.now := by
  have canon : (d.proveStart t (engine13 e) (leAt rec 4 1)).canon := hd.proveStart
  have rest := Dev.proveStart_rest (d := d) (n := t) (m := engine13 e) (x := leAt rec 4 1)
  have tile : (d.proveStart t (engine13 e) (leAt rec 4 1)).tile t = d.tile t := (congrArg (Dev.tile · t) rest :)
  have reg : (d.proveStart t (engine13 e) (leAt rec 4 1)).reg Reg.TICK_CFG = d.reg Reg.TICK_CFG := (congrArg (Dev.reg · Reg.TICK_CFG) rest :)
  have mem : (d.proveStart t (engine13 e) (leAt rec 4 1)).mem = d.mem := (congrArg Dev.mem rest :)
  have lineErr : (d.proveStart t (engine13 e) (leAt rec 4 1)).lineErr = d.lineErr := (congrArg Dev.lineErr rest :)
  have cfg : (d.proveStart t (engine13 e) (leAt rec 4 1)).cfg = d.cfg := (congrArg Dev.cfg rest :)
  have ev : (d.proveStart t (engine13 e) (leAt rec 4 1)).ev = d.ev := (congrArg Dev.ev rest :)
  have now : (d.proveStart t (engine13 e) (leAt rec 4 1)).now = d.now := (congrArg Dev.now rest :)
  unfold Dev.codecOpened Dev.codecShown
  generalize d.proveStart t (engine13 e) (leAt rec 4 1) = w at *
  have canon' : ((w.setF (Reg.CODEC_LOAF t e) F.CODEC_LOAF_LOAF (leAt rec 0 4)).setFs (Reg.CODEC_STATUS t e)
    [(F.CODEC_STATUS_STATE, 1), (F.CODEC_STATUS_DESC, 0), (F.CODEC_STATUS_LOCAL, 0)]).canon := canon.setF.setFs
  refine ⟨canon'.setCodec, mem, lineErr, cfg, ev, ?_, Dev.tickNo_of now ?_, now⟩
  · rw [Dev.codecSt_setCodec _ _ _ _ canon', Dev.setFs_tile, Dev.setF_tile, tile]
  · rw [Dev.setCodec_reg, Dev.reg_setFs_ne _ canon.setF codecStatus_ne_tickCfg, Dev.sameRegs_setF _ _ _ canon _ codecLoaf_ne_tickCfg.symm, reg]

/-- The place of a loaf's list. -/
def Dev.codecBase (d : Dev) (t : Nat) (rec : Bytes) : Nat := pantryAt t ((d.pantryRegion 0 t).1 + 64 * leAt rec 12 4)

/-- A descriptor of a list that fails its check ends the loaf. -/
def Dev.codecListFails (d : Dev) (t e id i r op : Nat) : Dev :=
  ((d.codecCapture t e r i id).raise 0x7001 0 (engineUnit t e) id (r + i * 2 ^ 8 + op * 2 ^ 24)).codecEnd t e 2 1

section
variable (hidle : (d.codecSt t e).busy = false) (hp : d.paused t = false) (hk : leAt rec 4 1 = 1 ∨ leAt rec 4 1 = 2)
include hidle hp hk

theorem codecLoafStart_refused (hr : d.spaceFor t (engine13 e) (leAt rec 4 1) < leAt rec 8 4 ∨ leAt rec 8 4 = 0) : codecLoafStartEffect t e rec d =
    d.raise 0x1005 0 (stewardOf t) (leAt rec 0 4) (leAt rec 8 4 + d.spaceFor t (engine13 e) (leAt rec 4 1) * 2 ^ 32) := by
  have kind : (leAt rec 4 1 == 1 || leAt rec 4 1 == 2) = true := by simpa using hk
  unfold codecLoafStartEffect
  simp only [hidle, hp, kind, Bool.or_self, Bool.false_eq_true, if_false, if_true, Bool.or_eq_true, decide_eq_true_eq, beq_iff_eq, hr]

/-- What the loaf of a list whose lines are good and whose header is well formed does with its descriptors. -/
def Dev.codecListed (d : Dev) (t e : Nat) (rec : Bytes) (js : List CodecJob) : Dev :=
  match d.codecListCheck t e false 0 js with
  | some (i, r) => d.codecListFails t e (leAt rec 0 4) i r (match js[i]? with | some j => j.op | none => 0)
  | none =>
    match js.getLast? with
    | none => d.codecEnd t e 0 0
    | some j =>
      if j.b + j.o + 32 > leAt rec 8 4 then d.codecListFails t e (leAt rec 0 4) (leAt (d.bytes (d.codecBase t rec) 64) 0 2 - 1) 6 j.op
      else d.setCodec t e { d.codecSt t e with jobs := js }

/-- What a started loaf does with its list. -/
def Dev.codecRead (d : Dev) (t e : Nat) (rec : Bytes) : Dev :=
  match d.firstBad (d.codecBase t rec) (64 + 64 * leAt (d.bytes (d.codecBase t rec) 64) 0 2) with
  | some ln => (d.unresolved ln 6 5 0).codecFault t e 0
  | none =>
    if leAt (d.bytes (d.codecBase t rec) 64) 0 2 > 1024 || leAt (d.bytes (d.codecBase t rec) 64) 2 62 != 0 then d.codecListFails t e (leAt rec 0 4) 0 1 0
    else d.codecListed t e rec (codecTimes (leAt (d.bytes (d.codecBase t rec) 64) 0 2) 0
      ((List.range (leAt (d.bytes (d.codecBase t rec) 64) 0 2)).map fun i => codecJob (d.bytes (d.codecBase t rec + 64 + 64 * i) 64)))

theorem codecLoafStart_opens (hr : ¬ (d.spaceFor t (engine13 e) (leAt rec 4 1) < leAt rec 8 4 ∨ leAt rec 8 4 = 0)) :
    codecLoafStartEffect t e rec d = (d.codecOpened t e rec).codecRead t e rec := by
  have kind : (leAt rec 4 1 == 1 || leAt rec 4 1 == 2) = true := by simpa using hk
  unfold codecLoafStartEffect
  extract_lets id kind' len room d1 d2 fresh d3 base n fail js before
  rw [if_neg (by rw [hidle, hp]; exact Bool.false_ne_true)]
  have space : room = d.spaceFor t (engine13 e) (leAt rec 4 1) := if_pos kind
  rw [if_neg (by rw [space]; simpa using hr)]
  have opened : d3 = d.codecOpened t e rec := rfl
  rw [← opened]
  clear_value d3
  have listed : d3.codecRead t e rec = (match d3.firstBad base (64 + 64 * n) with
    | some ln => (d3.unresolved ln 6 5 0).codecFault t e 0
    | none => if decide (n > 1024) || leAt (d3.bytes base 64) 2 62 != 0 then fail 0 1 0 else d3.codecListed t e rec js) := rfl
  rw [listed]
  unfold Dev.codecListed
  clear_value js
  generalize d3.codecListCheck t e false 0 js = check
  rfl

omit hidle hp hk in
theorem Dev.codecRead_lists {n : Nat} (hn : leAt (d.bytes (d.codecBase t rec) 64) 0 2 = n)
    (hg : d.firstBad (d.codecBase t rec) (64 + 64 * n) = none) (hm : n ≤ 1024) (hz : leAt (d.bytes (d.codecBase t rec) 64) 2 62 = 0) :
    d.codecRead t e rec = d.codecListed t e rec
      (codecTimes n 0 ((List.range n).map fun i => codecJob (d.bytes (d.codecBase t rec + 64 + 64 * i) 64))) := by
  unfold Dev.codecRead
  rw [hn, hg, hz]
  exact if_neg (by simpa using hm)

end

/-! ## The end of a loaf -/

theorem Dev.codecEnd_facts {o k : Nat} (hd : d.canon) : (d.codecEnd t e o k).codecSt t e = CodecState.init ∧ (d.codecEnd t e o k).mem = d.mem ∧
    (d.codecEnd t e o k).ev = d.ev ∧ ((d.codecEnd t e o k).tile t).lk = (d.tile t).lk ∧
    ((d.codecEnd t e o k).tile t).done = (d.tile t).done ++ [⟨BitVec.ofNat 13 (engine13 e), (d.codecSt t e).id, 0, 0xFFFF, o, k⟩] := by
  have codec := Dev.codecSt_setCodec d t e CodecState.init hd
  have tile : (d.setCodec t e CodecState.init).tile t = d.tile t := congrArg (look TileState.init · t) (Dev.setCodec_tiles ..)
  unfold Dev.codecEnd
  have canon : ((d.setCodec t e CodecState.init).setFs (Reg.CODEC_STATUS t e) [(F.CODEC_STATUS_STATE, if o == 0 then 0 else 4)]).canon := hd.setCodec.setFs
  obtain ⟨-, mem, lk, done⟩ := Dev.loafDone_facts (n := t) ⟨BitVec.ofNat 13 (engine13 e), (d.codecSt t e).id, 0, 0xFFFF, o, k⟩ canon
  refine ⟨codec, mem, rfl, lk.trans (congrArg TileState.lk tile), ?_⟩
  rw [done, Dev.setFs_tile, tile]

/-- A loaf that a failure ends: captured, told, and found by the steward. -/
theorem Dev.codecFailed_facts {c r i id n o k : Nat} (hd : d.canon) :
    let f := ((d.codecCapture t e r i id).raise c 0 (engineUnit t e) id n).codecEnd t e o k
    f.codecSt t e = CodecState.init ∧ f.mem = d.mem ∧ f.ev = (d.raise c 0 (engineUnit t e) id n).ev ∧
    (f.tile t).done = (d.tile t).done ++ [⟨BitVec.ofNat 13 (engine13 e), (d.codecSt t e).id, 0, 0xFFFF, o, k⟩] := by
  have quiet : Dev.Quiet (· = Reg.CODEC_ERROR t e) d (d.codecCapture t e r i id) := Dev.Quiet.capture
  have ev : (d.codecCapture t e r i id).ev = d.ev := Dev.capture_ev
  have tick : (d.codecCapture t e r i id).reg Reg.TICK_CFG = d.reg Reg.TICK_CFG :=
    quiet.regs hd _ (by simp only [Reg.CODEC_ERROR, Reg.TICK_CFG]; omega)
  have codec : (d.codecCapture t e r i id).codecSt t e = d.codecSt t e := (congrArg (Dev.codecSt · t e) quiet.rest :)
  have canon := quiet.keeps hd
  have raised : ((d.codecCapture t e r i id).raise c 0 (engineUnit t e) id n).ev = (d.raise c 0 (engineUnit t e) id n).ev :=
    Dev.raise_ev_of ev quiet.now (Dev.tickNo_of quiet.now tick)
  have tile := quiet.tile t
  have mem := quiet.mem
  generalize d.codecCapture t e r i id = w at *
  obtain ⟨init, mem', ev', -, done⟩ := Dev.codecEnd_facts (t := t) (e := e) (o := o) (k := k) (canon.raise (code := c) (slice := 0) (unit := engineUnit t e)
    (object := id) (detail := n))
  refine ⟨init, mem'.trans mem, ev'.trans raised, done.trans ?_⟩
  rw [Dev.raise_tile, Dev.raise_codecSt, tile, codec]

/-- The list of a loaf that passes its checks runs. -/
theorem Dev.codecListed_runs (hc : d.codecListCheck t e false 0 js = none) (hl : js.getLast? = some j) (hb : j.b + j.o + 32 ≤ leAt rec 8 4) :
    d.codecListed t e rec js = d.setCodec t e { d.codecSt t e with jobs := js } := by
  unfold Dev.codecListed
  simp only [hc, hl]
  exact if_neg (by omega)
theorem Dev.codecListed_fails {i r : Nat} (hc : d.codecListCheck t e false 0 js = some (i, r)) :
    ∃ op, d.codecListed t e rec js = d.codecListFails t e (leAt rec 0 4) i r op := by
  unfold Dev.codecListed
  rw [hc]
  exact ⟨_, rfl⟩

/-! ## The begin of a descriptor -/

theorem codecBegin_begins {op : Nat} (hj : (d.codecSt t e).jobs[(d.codecSt t e).begun]? = some j) (hb : (d.codecSt t e).busy = true) (hop : j.op = op)
    (hp : d.paused t = false) : d.codecBegin t e op = ((d.advance ((d.codecSt t e).start + j.b - (d.tile t).lk)).setCodec t e
      { d.codecSt t e with begun := (d.codecSt t e).begun + 1 }).setFs (Reg.CODEC_STATUS t e) [(F.CODEC_STATUS_STATE, 1),
        (F.CODEC_STATUS_DESC, (d.codecSt t e).begun),
        (F.CODEC_STATUS_LOCAL, ((d.advance ((d.codecSt t e).start + j.b - (d.tile t).lk)).tile t).lk - (d.codecSt t e).start)] := by
  unfold Dev.codecBegin
  simp only [hj, hb, hop, hp, bne_self_eq_false, Bool.not_true, Bool.or_self, Bool.false_eq_true, if_false]

theorem codecBegin_facts {op : Nat} (hd : d.canon) (hj : (d.codecSt t e).jobs[(d.codecSt t e).begun]? = some j) (hb : (d.codecSt t e).busy = true)
    (hop : j.op = op) (hp : d.paused t = false) : (d.codecBegin t e op).codecSt t e = { d.codecSt t e with begun := (d.codecSt t e).begun + 1 } ∧
      (d.codecSt t e).start + j.b ≤ ((d.codecBegin t e op).tile t).lk ∧ (d.codecBegin t e op).mem = d.mem ∧ (d.codecBegin t e op).ev = d.ev := by
  have canon : (d.advance ((d.codecSt t e).start + j.b - (d.tile t).lk)).canon := hd.advance
  have lk := Dev.lk_advance ((d.codecSt t e).start + j.b - (d.tile t).lk) t hd hp
  have mem := d.advance_mem ((d.codecSt t e).start + j.b - (d.tile t).lk)
  have ev := d.advance_ev ((d.codecSt t e).start + j.b - (d.tile t).lk)
  rw [codecBegin_begins hj hb hop hp]
  generalize d.advance ((d.codecSt t e).start + j.b - (d.tile t).lk) = w at *
  refine ⟨Dev.codecSt_setCodec _ _ _ _ canon, ?_, mem, ev⟩
  have tile : (w.setCodec t e { d.codecSt t e with begun := (d.codecSt t e).begun + 1 }).tile t = w.tile t :=
    congrArg (look TileState.init · t) (Dev.setCodec_tiles ..)
  rw [Dev.setFs_tile, tile, lk]
  omega

/-! ## The completion of a descriptor -/

/-- What a decoder may do to its device: registers, events and drawn values, and its own transport block. -/
structure Dev.Decoded (t : Tile) (e : Engine) (d u : Dev) : Prop where
  canon : d.canon → u.canon
  mem : u.mem = d.mem
  tile : u.tile t = d.tile t
  codec : d.canon → ∃ tb, u.codecSt t e = { d.codecSt t e with tb := tb }

theorem Dev.Decoded.refl : Dev.Decoded t e d d := ⟨id, rfl, rfl, fun _ => ⟨(d.codecSt t e).tb, rfl⟩⟩
theorem Dev.Decoded.quiet {p : Nat → Prop} (h : Dev.Decoded t e d u) (q : Dev.Quiet p u v) : Dev.Decoded t e d v where
  canon hd := q.keeps (h.canon hd)
  mem := q.mem.trans h.mem
  tile := (q.tile t).trans h.tile
  codec hd := by
    have same : v.codecSt t e = u.codecSt t e := (congrArg (Dev.codecSt · t e) q.rest :)
    rw [same]
    exact h.codec hd
theorem Dev.Decoded.fresh (h : Dev.Decoded t e d u) : Dev.Decoded t e d u.fresh.2 := ⟨fun hd => (h.canon hd).fresh, h.mem, h.tile, h.codec⟩
theorem Dev.Decoded.ite {c : Prop} [Decidable c] (h : Dev.Decoded t e d u) (h' : Dev.Decoded t e d v) : Dev.Decoded t e d (if c then u else v) := by
  split <;> assumption
theorem Dev.Decoded.count {a n : Nat} {f : Fld} (h : Dev.Decoded t e d u) : Dev.Decoded t e d (u.count a f n) :=
  h.quiet (p := fun _ => True) (Dev.Quiet.refl.count trivial)
theorem Dev.Decoded.raise {c s o n : Nat} {x : BitVec 16} (h : Dev.Decoded t e d u) : Dev.Decoded t e d (u.raise c s x o n) :=
  h.quiet (p := fun _ => True) Dev.Quiet.refl.raise
theorem Dev.Decoded.codecCount {a n : Nat} {f o : Fld} (h : Dev.Decoded t e d u) : Dev.Decoded t e d (u.codecCount t e a f o n) :=
  h.count.raise.ite h.count
theorem Dev.Decoded.withTb {tb : List Bool} (h : Dev.Decoded t e d u) : Dev.Decoded t e d (u.setCodec t e { d.codecSt t e with tb := tb }) where
  canon hd := (h.canon hd).setCodec
  mem := h.mem
  tile := h.tile
  codec hd := ⟨tb, Dev.codecSt_setCodec _ _ _ _ (h.canon hd)⟩
theorem Dev.Decoded.unresolved {ln r w s : Nat} (h : Dev.Decoded t e d u) : Dev.Decoded t e d (u.unresolved ln r w s) := by
  unfold Dev.unresolved
  dsimp only
  split
  · exact (h.count.raise.ite h.count).raise
  · exact (h.count.raise.ite h.count).fresh.raise
theorem Dev.Decoded.foldl {α : Type} {f : Dev → α → Dev} {l : List α} (h : Dev.Decoded t e d u)
    (hf : ∀ {u x}, Dev.Decoded t e d u → Dev.Decoded t e d (f u x)) : Dev.Decoded t e d (l.foldl f u) :=
  List.foldlRecOn (motive := Dev.Decoded t e d) l f h fun _ h _ _ => hf h
theorem Dev.Decoded.codecInput {a n : Nat} (h : Dev.Decoded t e d u) : Dev.Decoded t e d (u.codecInput a n).2.2 := h.foldl .unresolved
theorem Dev.Decoded.codecSkip {n : Nat} (h : Dev.Decoded t e d u) : Dev.Decoded t e d (u.codecSkip t e j n) := h.ite h.codecCount
theorem Dev.Decoded.cbIntegrity {i : Nat} (h : Dev.Decoded t e d u) : Dev.Decoded t e d (u.cbIntegrity t e i) := h.fresh.fresh.count.raise

/-- The list of detections and its device. -/
theorem Dev.Decoded.detected {α : Type} {g : α → Word → Bytes} (l : List α) (b : Bytes) (h : Dev.Decoded t e d u) :
    Dev.Decoded t e d (l.foldl (fun (s : Bytes × Dev) f => (s.1 ++ g f s.2.fresh.1, s.2.fresh.2)) (b, u)).2 :=
  List.foldlRecOn (motive := fun s : Bytes × Dev => Dev.Decoded t e d s.2) l _ h fun _ h _ _ => h.fresh

/-- A completed descriptor's output: the device it leaves, and 14 bytes of status behind CB_INDEX. -/
theorem Dev.codecOutput_facts : Dev.Decoded t e d (d.codecOutput t e j).2.2 ∧ (d.codecOutput t e j).2.1.length = 14 := by
  unfold Dev.codecOutput
  extract_lets c fails flag
  split
  · generalize hy : d.codecInput j.src j.srcBytes = y
    have read : Dev.Decoded t e d y.2.2 := hy ▸ Dev.Decoded.refl.codecInput
    obtain ⟨src, bad, w⟩ := y
    dsimp only at read ⊢
    generalize ldpcRun j src = m
    obtain ⟨m, it⟩ := m
    dsimp only
    generalize (if j.last = true then [] else (if j.first = true then [] else c.tb) ++ if j.cbCrc = true then _ else _) = tb
    generalize hn : flag _ 1 + flag _ 1 = n
    have counted : Dev.Decoded t e d (fails ((w.codecSkip t e j it).setCodec t e { c with tb := tb }) n) := read.codecSkip.withTb.codecCount
    exact ⟨counted.cbIntegrity.ite counted, by simp [leBytes_length]⟩
  · exact ⟨(Dev.Decoded.refl.codecInput).withTb, by simp [leBytes_length]⟩
  · exact ⟨Dev.Decoded.refl.codecInput, by simp [leBytes_length]⟩
  · exact ⟨Dev.Decoded.refl.codecInput.codecCount, by simp [leBytes_length]⟩
  · generalize hy : d.codecInput j.src j.srcBytes = y
    have read : Dev.Decoded t e d y.2.2 := hy ▸ Dev.Decoded.refl.codecInput
    obtain ⟨src, bad, w⟩ := y
    dsimp only at read ⊢
    generalize prachRun j _ src = m
    obtain ⟨found, sigma⟩ := m
    have listed := read.detected (g := fun f x => leBytes 8 (f.1 + f.2.1 % 65536 * 2 ^ 8 + BitVec.toNat x % 256 * 2 ^ 24)) found []
    exact ⟨listed.codecCount, by simp [leBytes_length]⟩

/-- The completion of a descriptor is counted. -/
def Dev.codecBlock (d : Dev) (t e : Nat) : Dev := d.codecCount t e (Reg.CODEC_BLOCKS t e) F.CODEC_BLOCKS_COUNT F.CODEC_BLOCKS_OVF 1
/-- The device after a descriptor is counted: the engine one further, its counter signalled. -/
def Dev.codecTold (w : Dev) (t e : Nat) (j : CodecJob) : Dev :=
  let c := w.codecSt t e
  let w := (w.setCodec t e { c with done := c.done + 1 }).setFs (Reg.CODEC_STATUS t e)
    [(F.CODEC_STATUS_STATE, if c.done + 1 < c.begun then 1 else w.getF (Reg.CODEC_STATUS t e) F.CODEC_STATUS_STATE), (F.CODEC_STATUS_LOCAL, (w.tile t).lk - c.start)]
  if j.sig then w.unitSignal t j.counter 1 0 (engineUnit t e) false else w

theorem Dev.codecBlock_facts (hd : d.canon) : (d.codecBlock t e).canon ∧ (d.codecBlock t e).mem = d.mem ∧ (d.codecBlock t e).tile t = d.tile t ∧
    (d.codecBlock t e).codecSt t e = d.codecSt t e := by
  have counted : Dev.Quiet (fun _ => True) d (d.codecBlock t e) := (Dev.Quiet.refl.count trivial).raise.ite (Dev.Quiet.refl.count trivial)
  exact ⟨counted.keeps hd, counted.mem, counted.tile t, (congrArg (Dev.codecSt · t e) counted.rest :)⟩

theorem Dev.codecTold_facts (canon : d.canon) : (d.codecTold t e j).canon ∧ (d.codecTold t e j).mem = d.mem ∧ (d.codecTold t e j).tile t = d.tile t ∧
    (d.codecTold t e j).codecSt t e = { d.codecSt t e with done := (d.codecSt t e).done + 1 } := by
  unfold Dev.codecTold
  generalize hl : [(F.CODEC_STATUS_STATE, if (d.codecSt t e).done + 1 < (d.codecSt t e).begun then 1 else d.getF (Reg.CODEC_STATUS t e) F.CODEC_STATUS_STATE),
    (F.CODEC_STATUS_LOCAL, (d.tile t).lk - (d.codecSt t e).start)] = l
  generalize hc : ({ d.codecSt t e with done := (d.codecSt t e).done + 1 } : CodecState) = c
  have shown : ((d.setCodec t e c).setFs (Reg.CODEC_STATUS t e) l).canon ∧ ((d.setCodec t e c).setFs (Reg.CODEC_STATUS t e) l).mem = d.mem ∧
      ((d.setCodec t e c).setFs (Reg.CODEC_STATUS t e) l).tile t = d.tile t ∧ ((d.setCodec t e c).setFs (Reg.CODEC_STATUS t e) l).codecSt t e = c :=
    ⟨canon.setCodec.setFs, rfl, rfl, Dev.codecSt_setCodec _ _ _ _ canon⟩
  dsimp only
  rw [hl, hc]
  split
  · obtain ⟨x, sent, -⟩ := ((d.setCodec t e c).setFs (Reg.CODEC_STATUS t e) l).unitSignal_eq t j.counter 1 0 (engineUnit t e) false
    obtain ⟨canon', mem', tile', codec'⟩ := shown
    rw [sent]
    exact ⟨canon'.ctrs, mem', tile', codec'⟩
  · exact shown

/-- The device at the end of a descriptor. -/
def Dev.atDescEnd (d : Dev) (t e : Nat) (j : CodecJob) : Dev := d.advance ((d.codecSt t e).start + j.b + j.o + 32 - (d.tile t).lk)
/-- The device with the descriptor's output and status record in memory. -/
def Dev.codecStored (d : Dev) (t e : Nat) (j : CodecJob) : Dev :=
  ((d.codecOutput t e j).2.2.write j.dst (d.codecOutput t e j).1).write j.status (leBytes 2 (j.f 0 48 16) ++ (d.codecOutput t e j).2.1)
/-- The loaf ends with its last descriptor. -/
def Dev.codecPassed (w : Dev) (t e : Nat) (j : CodecJob) : Dev :=
  if (w.codecSt t e).done + 1 == (w.codecSt t e).jobs.length then (w.codecTold t e j).codecEnd t e 0 0 else w.codecTold t e j

theorem codecDescComplete_eq (hj : (d.codecSt t e).jobs[(d.codecSt t e).done]? = some j) (hb : (d.codecSt t e).busy = true)
    (hn : (d.codecSt t e).done < (d.codecSt t e).begun) (hp : d.paused t = false) :
    codecDescCompleteEffect t e d = (((d.atDescEnd t e j).codecStored t e j).codecBlock t e).codecPassed t e j := by
  unfold codecDescCompleteEffect
  simp only [hj, hb, hp, Nat.not_le.2 hn, Bool.not_true, Bool.or_self, Bool.false_eq_true, decide_false, if_false]
  rfl

/-- What stands in memory after a descriptor's completion. -/
theorem Dev.codecStored_facts (hd : d.canon) : (d.codecStored t e j).canon ∧ (d.codecStored t e j).tile t = d.tile t ∧
    (∃ tb, (d.codecStored t e j).codecSt t e = { d.codecSt t e with tb := tb }) ∧
    (∀ a, (a < j.dst ∨ j.dst + (d.codecOutput t e j).1.length ≤ a) → (a < j.status ∨ j.status + 16 ≤ a) → (d.codecStored t e j).byte a = d.byte a) ∧
    (∀ n, n < (d.codecOutput t e j).1.length → (j.dst + n < j.status ∨ j.status + 16 ≤ j.dst + n) →
      (d.codecStored t e j).byte (j.dst + n) = (d.codecOutput t e j).1.getD n 0#8) ∧
    ∀ n, n < 2 → (d.codecStored t e j).byte (j.status + n) = (leBytes 2 (j.f 0 48 16)).getD n 0#8 := by
  obtain ⟨decoded, length⟩ := Dev.codecOutput_facts (d := d) (t := t) (e := e) (j := j)
  have index : (leBytes 2 (j.f 0 48 16)).length = 2 := leBytes_length ..
  unfold Dev.codecStored
  generalize d.codecOutput t e j = y at *
  obtain ⟨out, st, u⟩ := y
  obtain ⟨canon, mem, tile, codec⟩ := decoded
  have written : (u.write j.dst out).canon := (canon hd).write
  have record : (leBytes 2 (j.f 0 48 16) ++ st).length = 16 := by rw [List.length_append, index, show st.length = 14 from length]
  have byte : ∀ a, u.byte a = d.byte a := fun a => by rw [Dev.byte, Dev.byte, show u.mem = d.mem from mem]
  refine ⟨written.write, (Dev.write_tile t).trans ((Dev.write_tile t).trans tile), ?_, fun a ha hs => ?_, fun n hn hs => ?_, fun n hn => ?_⟩
  · obtain ⟨tb, codec⟩ := codec hd
    have kept : ∀ (w : Dev) (a : Nat) (l : Bytes), (w.write a l).codecSt t e = w.codecSt t e := fun w a l =>
      (congrArg (Dev.codecSt · t e) (w.write_rest a l) :)
    exact ⟨tb, (kept ..).trans ((kept ..).trans codec)⟩
  · rw [Dev.byte_write_out _ _ _ written (by rw [record]; exact hs), Dev.byte_write_out _ _ _ (canon hd) ha, byte]
  · rw [Dev.byte_write_out _ _ _ written (by rw [record]; exact hs), Dev.byte_write_in _ _ _ (canon hd) hn, List.getD_eq_getElem _ _ hn]
  · rw [Dev.byte_write_in _ _ _ written (by rw [record]; omega), List.getElem_append_left (by rw [index]; exact hn), List.getD_eq_getElem _ _ (by rw [index]; exact hn)]

theorem Dev.codecPassed_facts (hd : d.canon) : (d.codecPassed t e j).mem = d.mem ∧ ((d.codecPassed t e j).tile t).lk = (d.tile t).lk ∧
    ((d.codecSt t e).done + 1 < (d.codecSt t e).jobs.length → ((d.codecPassed t e j).codecSt t e).done = (d.codecSt t e).done + 1 ∧
      ((d.codecPassed t e j).codecSt t e).jobs = (d.codecSt t e).jobs) ∧
    ((d.codecSt t e).done + 1 = (d.codecSt t e).jobs.length → (d.codecPassed t e j).codecSt t e = CodecState.init ∧
      ((d.codecPassed t e j).tile t).done = (d.tile t).done ++ [⟨BitVec.ofNat 13 (engine13 e), (d.codecSt t e).id, 0, 0xFFFF, 0, 0⟩]) := by
  obtain ⟨canon, mem, tile, codec⟩ := Dev.codecTold_facts (t := t) (e := e) (j := j) hd
  unfold Dev.codecPassed
  split
  · next last =>
    rw [beq_iff_eq] at last
    obtain ⟨init, mem', -, lk, done⟩ := Dev.codecEnd_facts (t := t) (e := e) (o := 0) (k := 0) canon
    rw [tile] at lk done
    rw [codec] at done
    exact ⟨mem'.trans mem, lk, fun h => absurd last (Nat.ne_of_lt h), fun _ => ⟨init, done⟩⟩
  · next more =>
    rw [beq_iff_eq] at more
    rw [codec, tile]
    exact ⟨mem, rfl, fun _ => ⟨rfl, rfl⟩, fun h => absurd h more⟩

/-- What the completion of the oldest begun descriptor leaves. -/
theorem Dev.descCompleted_facts (hd : d.canon) (hp : d.paused t = false) :
    let f := ((d.atDescEnd t e j).codecStored t e j).codecBlock t e |>.codecPassed t e j
    let out := ((d.atDescEnd t e j).codecOutput t e j).1
    let c := d.codecSt t e
    c.start + j.b + j.o + 32 ≤ (f.tile t).lk ∧
    (∀ a, (a < j.dst ∨ j.dst + out.length ≤ a) → (a < j.status ∨ j.status + 16 ≤ a) → f.byte a = d.byte a) ∧
    (∀ n, n < out.length → (j.dst + n < j.status ∨ j.status + 16 ≤ j.dst + n) → f.byte (j.dst + n) = out.getD n 0#8) ∧
    (∀ n, n < 2 → f.byte (j.status + n) = (leBytes 2 (j.f 0 48 16)).getD n 0#8) ∧
    (c.done + 1 < c.jobs.length → (f.codecSt t e).done = c.done + 1 ∧ (f.codecSt t e).jobs = c.jobs) ∧
    (c.done + 1 = c.jobs.length → f.codecSt t e = CodecState.init ∧
      (f.tile t).done = (d.tile t).done ++ [⟨BitVec.ofNat 13 (engine13 e), c.id, 0, 0xFFFF, 0, 0⟩]) := by
  have canon : (d.atDescEnd t e j).canon := hd.advance
  have mem : (d.atDescEnd t e j).mem = d.mem := d.advance_mem _
  have codec : (d.atDescEnd t e j).codecSt t e = d.codecSt t e := congrArg (look CodecState.init · _) (d.advance_codec _)
  have done : ((d.atDescEnd t e j).tile t).done = (d.tile t).done := Dev.done_advance _ hd
  have lk : ((d.atDescEnd t e j).tile t).lk = (d.tile t).lk + ((d.codecSt t e).start + j.b + j.o + 32 - (d.tile t).lk) := Dev.lk_advance _ t hd hp
  generalize d.atDescEnd t e j = u at *
  obtain ⟨stored, tile', ⟨tb, codec'⟩, outside, output, index⟩ := Dev.codecStored_facts (t := t) (e := e) (j := j) canon
  generalize u.codecStored t e j = v at *
  obtain ⟨blocked, mem', tile'', codec''⟩ := Dev.codecBlock_facts (t := t) (e := e) stored
  generalize v.codecBlock t e = w at *
  obtain ⟨mem'', lk', more, last⟩ := Dev.codecPassed_facts (t := t) (e := e) (j := j) blocked
  have byte : ∀ a, (w.codecPassed t e j).byte a = v.byte a := fun a => by rw [Dev.byte, Dev.byte, mem'', mem']
  have before : ∀ a, u.byte a = d.byte a := fun a => by rw [Dev.byte, Dev.byte, mem]
  rw [codec'', codec', codec] at more last
  rw [tile'', tile', done] at last
  have late : (d.codecSt t e).start + j.b + j.o + 32 ≤ ((w.codecPassed t e j).tile t).lk := by
    rw [lk', tile'', tile', lk]
    omega
  intro f out c
  refine ⟨late, fun a ha hs => (byte a).trans ((outside a ha hs).trans (before a)), fun n hn hs => (byte _).trans (output n hn hs),
    fun n hn => (byte _).trans (index n hn), more, last⟩

/-! ## Early termination -/

/-- The device at the end of iteration `it` of a descriptor. -/
def Dev.atIterEnd (d : Dev) (t e : Nat) (j : CodecJob) (it : Nat) : Dev :=
  d.advance ((d.codecSt t e).start + j.b + 16 + it * j.tIter - (d.tile t).lk)

theorem ldpcEarly_eq {it : Nat} (hj : (d.codecSt t e).jobs[(d.codecSt t e).done]? = some j) (hb : (d.codecSt t e).busy = true) (hop : j.op = 1)
    (hn : (d.codecSt t e).done + 1 = (d.codecSt t e).begun) (hc : (d.codecSt t e).counted ≤ (d.codecSt t e).done)
    (hi : (ldpcRun j (d.codecInput j.src j.srcBytes).1).2 = it) (hit : it < j.iterMax) (hp : d.paused t = false) :
    ldpcEarlyTerminationEffect t e d = let w := (d.atIterEnd t e j it).codecSkip t e j it
      (w.setCodec t e { w.codecSt t e with counted := (d.codecSt t e).done + 1 }).setFs (Reg.CODEC_STATUS t e)
        [(F.CODEC_STATUS_STATE, 2), (F.CODEC_STATUS_LOCAL, (w.tile t).lk - (d.codecSt t e).start)] := by
  unfold ldpcEarlyTerminationEffect
  simp only [hj, hb, hop, hn, hi, hp, Nat.not_lt.2 hc, Nat.not_le.2 hit, bne_self_eq_false, Bool.not_true, Bool.or_self, Bool.false_eq_true, decide_false,
    if_false]
  rfl

/-- A count rests on its register alone. -/
theorem Dev.reg_count_of {a n : Nat} {f : Fld} (hu : u.canon) (hd : d.canon) (h : u.reg a = d.reg a) : (u.count a f n).reg a = (d.count a f n).reg a := by
  have field : u.getF a f = d.getF a f := congrArg (fieldOf f) h
  unfold Dev.count
  split
  · exact h
  · dsimp only
    rw [field]
    split
    · rw [Dev.setF, Dev.setF, Dev.reg_setReg_self _ _ hu, Dev.reg_setReg_self _ _ hd, h]
    · rw [Dev.reg_setFs_self _ _ hu, Dev.reg_setFs_self _ _ hd, h]

theorem iterSkipped_ne_status : Reg.CODEC_STATUS t e ≠ Reg.CODEC_ITER_SKIPPED t e := by
  simp only [Reg.CODEC_STATUS, Reg.CODEC_ITER_SKIPPED]; omega
theorem iterSkipped_not_lagReg : ¬ lagReg (Reg.CODEC_ITER_SKIPPED t e) := fun ⟨x, h⟩ => by
  simp only [Reg.CODEC_ITER_SKIPPED, Reg.TICK_TILE_STATUS] at h; omega

/-- Iterations not yet counted are counted once. -/
theorem Dev.codecSkip_facts {it : Nat} (hd : d.canon) (hc : (d.codecSt t e).counted ≤ (d.codecSt t e).done) :
    (d.codecSkip t e j it).canon ∧ (d.codecSkip t e j it).mem = d.mem ∧ (d.codecSkip t e j it).tile t = d.tile t ∧
    (d.codecSkip t e j it).codecSt t e = d.codecSt t e ∧ (d.codecSkip t e j it).reg (Reg.CODEC_ITER_SKIPPED t e) =
      (d.count (Reg.CODEC_ITER_SKIPPED t e) F.CODEC_ITER_SKIPPED_COUNT (j.iterMax - it)).reg (Reg.CODEC_ITER_SKIPPED t e) := by
  have skip : d.codecSkip t e j it = d.codecCount t e (Reg.CODEC_ITER_SKIPPED t e) F.CODEC_ITER_SKIPPED_COUNT F.CODEC_ITER_SKIPPED_OVF (j.iterMax - it) :=
    if_neg (Nat.not_lt.2 hc)
  have quiet : Dev.Quiet (fun _ => True) d (d.codecCount t e (Reg.CODEC_ITER_SKIPPED t e) F.CODEC_ITER_SKIPPED_COUNT F.CODEC_ITER_SKIPPED_OVF (j.iterMax - it)) :=
    (Dev.Quiet.refl.count trivial).raise.ite (Dev.Quiet.refl.count trivial)
  rw [skip]
  refine ⟨quiet.keeps hd, quiet.mem, quiet.tile t, (congrArg (Dev.codecSt · t e) quiet.rest :), ?_⟩
  unfold Dev.codecCount
  dsimp only
  split <;> rfl

theorem ldpcEarly_facts (hd : d.canon) (hp : d.paused t = false) (hb : (d.codecSt t e).busy = true)
    (hj : (d.codecSt t e).jobs[(d.codecSt t e).done]? = some j) (hop : j.op = 1)
    (hn : (d.codecSt t e).done + 1 = (d.codecSt t e).begun) (hc : (d.codecSt t e).counted ≤ (d.codecSt t e).done)
    (hit : (ldpcRun j (d.codecInput j.src j.srcBytes).1).2 < j.iterMax) :
    let f := ldpcEarlyTerminationEffect t e d
    let it := (ldpcRun j (d.codecInput j.src j.srcBytes).1).2
    f.codecSt t e = { d.codecSt t e with counted := (d.codecSt t e).done + 1 } ∧ f.mem = d.mem ∧
    (d.codecSt t e).start + j.b + 16 + it * j.tIter ≤ (f.tile t).lk ∧ f.getF (Reg.CODEC_STATUS t e) F.CODEC_STATUS_STATE = 2 ∧
    f.reg (Reg.CODEC_ITER_SKIPPED t e) =
      (d.count (Reg.CODEC_ITER_SKIPPED t e) F.CODEC_ITER_SKIPPED_COUNT (j.iterMax - it)).reg (Reg.CODEC_ITER_SKIPPED t e) := by
  generalize hi : (ldpcRun j (d.codecInput j.src j.srcBytes).1).2 = it at *
  rw [ldpcEarly_eq hj hb hop hn hc hi hit hp]
  have canon : (d.atIterEnd t e j it).canon := hd.advance
  have mem : (d.atIterEnd t e j it).mem = d.mem := d.advance_mem _
  have codec : (d.atIterEnd t e j it).codecSt t e = d.codecSt t e := congrArg (look CodecState.init · _) (d.advance_codec _)
  have reg : (d.atIterEnd t e j it).reg (Reg.CODEC_ITER_SKIPPED t e) = d.reg (Reg.CODEC_ITER_SKIPPED t e) := Dev.reg_advance _ hd iterSkipped_not_lagReg
  have lk : ((d.atIterEnd t e j it).tile t).lk = (d.tile t).lk + ((d.codecSt t e).start + j.b + 16 + it * j.tIter - (d.tile t).lk) := Dev.lk_advance _ t hd hp
  generalize d.atIterEnd t e j it = u at *
  obtain ⟨skipped, mem', tile, codec', counted⟩ := Dev.codecSkip_facts (t := t) (e := e) (j := j) (it := it) canon (by rw [codec]; exact hc)
  generalize u.codecSkip t e j it = w at *
  have set : (w.setCodec t e { w.codecSt t e with counted := (d.codecSt t e).done + 1 }).canon := skipped.setCodec
  have tile' : (w.setCodec t e { w.codecSt t e with counted := (d.codecSt t e).done + 1 }).tile t = w.tile t :=
    congrArg (look TileState.init · t) (Dev.setCodec_tiles ..)
  dsimp only
  refine ⟨?_, mem'.trans mem, ?_, Dev.getF_setFs_mid (pre := []) set rfl rfl, ?_⟩
  · rw [Dev.setFs_codecSt, Dev.codecSt_setCodec _ _ _ _ skipped, codec', codec]
  · rw [Dev.setFs_tile, tile', tile, lk]
    omega
  · rw [Dev.reg_setFs_ne _ set iterSkipped_ne_status, Dev.setCodec_reg, counted]
    exact Dev.reg_count_of canon hd reg

/-- Settles O32: a list by its checks, a descriptor by its begin, its output and its end. -/
theorem codecLoavesRunTheirLists : Obligations.CodecLoavesRunTheirLists := by
  unfold Obligations.CodecLoavesRunTheirLists
  refine ⟨fun t e rec s hs hd hp hidle hk => ?_, fun t e j s hs hd hp hb => ?_⟩
  · dsimp only
    refine ⟨fun hr => runs_ran rfl hs (codecLoafStart_refused hidle hp hk hr), fun hroom hlen hg hm hz => ?_⟩
    obtain ⟨canon, mem, lineErr, cfg, ev, codec, tick, now⟩ := Dev.codecOpened_facts (t := t) (e := e) (rec := rec) hd
    have base : (s.dev.codecOpened t e rec).codecBase t rec = pantryAt t ((s.dev.pantryRegion 0 t).1 + 64 * leAt rec 12 4) := by
      rw [Dev.codecBase, Dev.pantryRegion_of cfg]
    have bytes : ∀ a n, (s.dev.codecOpened t e rec).bytes a n = s.dev.bytes a n := fun a n => Dev.bytes_of mem
    have bad : ∀ a n, (s.dev.codecOpened t e rec).firstBad a n = s.dev.firstBad a n := fun a n => by rw [Dev.firstBad, Dev.firstBad, lineErr]
    have lists := (codecLoafStart_opens (d := s.dev) hidle hp hk (by omega)).trans (Dev.codecRead_lists rfl (by rw [bad, bytes, base]; exact hg)
      (by rw [bytes, base]; exact hm) (by rw [bytes, base]; exact hz))
    simp only [bytes, base] at lists
    refine ⟨fun j hc hl hb => runs_ran rfl hs ?_, fun i r hc => runs_ran rfl hs ?_⟩
    · rw [lists, Dev.codecListed_runs ((Dev.codecListCheck_of cfg ..).trans hc) hl hb, Dev.codecSt_setCodec _ _ _ _ canon, codec]
      exact ⟨rfl, (Dev.setCodec_mem ..).trans mem, (Dev.setCodec_ev ..).trans ev⟩
    · obtain ⟨op, fails⟩ := Dev.codecListed_fails (rec := rec) ((Dev.codecListCheck_of cfg ..).trans hc)
      obtain ⟨init, mem', ev', -⟩ := Dev.codecFailed_facts (t := t) (e := e) (c := 0x7001) (r := r) (i := i) (id := leAt rec 0 4)
        (n := r + i * 2 ^ 8 + op * 2 ^ 24) (o := 2) (k := 1) canon
      rw [lists, fails]
      exact ⟨init, mem'.trans mem, op, ev'.trans (Dev.raise_ev_of ev now tick)⟩
  · dsimp only
    refine ⟨fun hj => ⟨fun hop => runs_ran rfl hs ?_, fun hop => runs_ran rfl hs ?_, fun hop => runs_ran rfl hs ?_, fun hop => runs_ran rfl hs ?_,
      fun hop => runs_ran rfl hs ?_⟩, fun hj hn => runs_ran rfl hs ?_, fun hj hop hn hc hit => runs_ran rfl hs ?_, runs_ran rfl hs ?_⟩
    · exact codecBegin_facts hd hj hb hop hp
    · exact codecBegin_facts hd hj hb hop hp
    · exact codecBegin_facts hd hj hb hop hp
    · exact codecBegin_facts hd hj hb hop hp
    · exact codecBegin_facts hd hj hb hop hp
    · rw [codecDescComplete_eq hj hb hn hp]
      exact Dev.descCompleted_facts hd hp
    · exact ldpcEarly_facts hd hp hb hj hop hn hc hit
    · obtain ⟨init, mem, ev, done⟩ := Dev.codecFailed_facts (t := t) (e := e) (c := 0x7002) (r := 0) (i := (s.dev.codecSt t e).done) (id := (s.dev.codecSt t e).id)
        (n := (s.dev.codecSt t e).done) (o := 2) (k := 4) hd
      rw [codecInternalFaultEffect, if_pos hb]
      exact ⟨init, mem, ev, done⟩

end Sys2Proof.Machine
end

section
/-! SUPPORT. Reads and steps of the clock, pulse outputs and capture inputs (R311 to R313, R325, R328, R329). -/
namespace Sys2Proof.Machine

-- One proof after another: with many at once their threads' stacks exceed the memory that the check allows.
set_option Elab.async false

variable {d e : Dev} {k : Fin 4} {m : Master} {v : Word}

/-- An event raised where none arose before. -/
theorem Dev.raised_of {c sl o x : Nat} {u : BitVec 16} {p : EventRec → Prop} (he : e.ev = d.ev)
    (hp : p ⟨c, sl, u, e.tickNo, e.now, BitVec.ofNat 32 o, BitVec.ofNat 64 x, false⟩) : d.raised (e.raise c sl u o x) p :=
  ⟨_, hp, congrArg (fun y : EvState => insertEvent y.arisen _) he⟩

/-! ## The clock -/

/-- The device whose read of the seconds latched an instant. -/
def Dev.latched (d : Dev) (r : Word) : Dev := { d.modTime fun x => { x with latched := true } with readOut := r }
theorem Dev.latched_keeps {r : Word} : (d.latched r).readOut = r ∧ (∀ a, (d.latched r).reg a = d.reg a) ∧ (d.latched r).mem = d.mem ∧
    (d.latched r).ev = d.ev ∧ (d.latched r).now = d.now := ⟨rfl, fun _ => rfl, rfl, rfl, rfl⟩

/-- NS and FRAC of an instant in a register. -/
def Dev.instantAt (d : Dev) (a ns frac : Nat) : Dev := d.setFs a [(F.TIME_NOW_NS_NS, ns), (F.TIME_NOW_NS_FRAC, frac)]
theorem Dev.instantAt_facts {a ns frac : Nat} (hd : d.canon) (hn : ns < 2 ^ F.TIME_NOW_NS_NS.w) (hf : frac < 2 ^ F.TIME_NOW_NS_FRAC.w) :
    (d.instantAt a ns frac).getF a F.TIME_NOW_NS_NS = ns ∧ (d.instantAt a ns frac).getF a F.TIME_NOW_NS_FRAC = frac ∧
    Dev.Quiet (· = a) d (d.instantAt a ns frac) ∧ (d.instantAt a ns frac).ev = d.ev :=
  ⟨(Dev.getF_setFs_mid (pre := []) hd rfl rfl).trans (Nat.mod_eq_of_lt hn),
   (Dev.getF_setFs_mid (pre := [(F.TIME_NOW_NS_NS, ns)]) (post := []) hd rfl rfl).trans (Nat.mod_eq_of_lt hf), Dev.Quiet.refl.setFs rfl,
   Dev.setFs_ev ..⟩

theorem timeNowSecRead_latches (hm : devMaster m = true) :
    timeNowSecReadEffect m d = (d.instantAt Reg.TIME_NOW_NS d.ns d.frac).latched (BitVec.ofNat 64 (d.sec % 2 ^ 48)) := by
  have sec : (d.instantAt Reg.TIME_NOW_NS d.ns d.frac).sec = d.sec := by rw [Dev.sec, Dev.sec, Dev.instantAt, Dev.setFs_now]
  rw [← sec]
  unfold timeNowSecReadEffect
  rw [hm]
  exact if_neg Bool.false_ne_true

theorem Dev.ns_lt : d.ns < 2 ^ F.TIME_NOW_NS_NS.w :=
  Nat.lt_of_lt_of_le (Nat.mod_lt _ (by norm_num)) (Nat.le_of_ble_eq_true rfl)
/-- FRAC of the five fifths of a nanosecond. -/
theorem Dev.frac_eq : d.frac = [0, 13107, 26214, 39321, 52428].getD (d.now % 5) 0 ∧ d.frac < 2 ^ F.TIME_NOW_NS_FRAC.w := by
  have fifth : d.now % 5 < 5 := by omega
  unfold Dev.frac
  generalize d.now % 5 = f at *
  interval_cases f <;> exact ⟨rfl, Nat.lt_of_lt_of_le (by norm_num) (Nat.le_of_ble_eq_true (n := 65536) rfl)⟩

theorem timeStepCmd_steps (hv : fieldOf F.TIME_CMD_STEP v = 1) (ha : d.active = false) : timeStepCmdEffect hostDriver v d = d.jumpTo
    ((d.getF Reg.TIME_SET_SEC F.TIME_SET_SEC_SEC * 1000000000 + d.getF Reg.TIME_SET_NS F.TIME_SET_NS_NS) * 5) := by
  unfold timeStepCmdEffect
  rw [hv, ha]
  rfl
theorem timeStepCmd_refused (hv : fieldOf F.TIME_CMD_STEP v = 1) (ha : d.active = true) :
    ∃ n, timeStepCmdEffect hostDriver v d = d.raise 0x8005 0xFF (timeUnit 0) 1 n := by
  unfold timeStepCmdEffect
  rw [hv, ha]
  exact ⟨_, rfl⟩

/-! ## Pulse outputs -/

/-- The start, the period and the width that an output's registers hold. -/
def Dev.pulseStart (d : Dev) (k : Nat) : Nat :=
  (d.getF (Reg.TIME_PULSE_START_SEC k) F.TIME_PULSE_START_SEC_SEC * 1000000000 + d.getF (Reg.TIME_PULSE_START_NS k) F.TIME_PULSE_START_NS_NS) * 5
def Dev.pulsePeriod (d : Dev) (k : Nat) : Nat := d.getF (Reg.TIME_PULSE_SHAPE k) F.TIME_PULSE_SHAPE_PERIOD * 5
def Dev.pulseWidth (d : Dev) (k : Nat) : Nat := d.getF (Reg.TIME_PULSE_SHAPE k) F.TIME_PULSE_SHAPE_WIDTH * 5

theorem Dev.startPulse_ahead (h : d.now + 5000 < d.pulseStart k) :
    d.startPulse k = d.setPulse k ⟨some (d.pulseStart k), false, d.pulsePeriod k, d.pulseWidth k, false⟩ := if_pos h
theorem Dev.startPulse_single (h : d.pulseStart k ≤ d.now + 5000) (hp : d.pulsePeriod k = 0) :
    ∃ n, d.startPulse k = (d.setPulse k PulseState.init).raise 0x8007 0xFF (timeUnit (1 + k)) k n :=
  ⟨_, (if_neg (Nat.not_lt.2 h)).trans (if_pos (beq_iff_eq.2 hp))⟩
/-- The first edge more than 1 µs ahead. -/
theorem Dev.startPulse_periodic (h : d.pulseStart k ≤ d.now + 5000) (hp : d.pulsePeriod k ≠ 0) :
    ∃ j, d.now + 5000 < d.pulseStart k + j * d.pulsePeriod k ∧ d.pulseStart k + j * d.pulsePeriod k ≤ d.now + 5000 + d.pulsePeriod k ∧
      d.startPulse k = d.setPulse k ⟨some (d.pulseStart k + j * d.pulsePeriod k), false, d.pulsePeriod k, d.pulseWidth k, false⟩ := by
  refine ⟨(d.now + 5000 - d.pulseStart k) / d.pulsePeriod k + 1, ?_, ?_, (if_neg (Nat.not_lt.2 h)).trans (if_neg (beq_iff_eq.not.2 hp))⟩
  · have past := Nat.lt_mul_div_succ (d.now + 5000 - d.pulseStart k) (Nat.pos_of_ne_zero hp)
    rw [Nat.mul_comm] at past
    omega
  · have upto := Nat.div_mul_le_self (d.now + 5000 - d.pulseStart k) (d.pulsePeriod k)
    rw [Nat.succ_mul]
    omega

theorem pulseCtrlWrite_starts (hm : devMaster m = true)
    (he : (d.rwWrite (Reg.TIME_PULSE_CTRL k) v).getB (Reg.TIME_PULSE_CTRL k) F.TIME_PULSE_CTRL_EN = true) :
    pulseCtrlWriteEffect m k v d = (d.rwWrite (Reg.TIME_PULSE_CTRL k) v).startPulse k := by
  unfold pulseCtrlWriteEffect
  rw [hm]
  exact if_pos he
theorem pulseCtrlWrite_ends (hm : devMaster m = true)
    (he : (d.rwWrite (Reg.TIME_PULSE_CTRL k) v).getB (Reg.TIME_PULSE_CTRL k) F.TIME_PULSE_CTRL_EN = false) :
    pulseCtrlWriteEffect m k v d = (d.rwWrite (Reg.TIME_PULSE_CTRL k) v).setPulse k
      (if (d.pulseSt k).high then { d.pulseSt k with ending := true } else PulseState.init) := by
  unfold pulseCtrlWriteEffect
  rw [hm]
  exact if_neg (he.trans_ne Bool.false_ne_true)

/-- What the write of an output's control leaves, whatever its output does. -/
theorem Dev.startPulse_keeps : (d.startPulse k).regs = d.regs ∧ (d.startPulse k).mem = d.mem ∧ (d.startPulse k).now = d.now := by
  by_cases h : d.now + 5000 < d.pulseStart k
  · rw [Dev.startPulse_ahead h]
    exact ⟨rfl, rfl, rfl⟩
  · by_cases hp : d.pulsePeriod k = 0
    · obtain ⟨n, single⟩ := Dev.startPulse_single (Nat.not_lt.1 h) hp
      rw [single]
      exact ⟨rfl, rfl, rfl⟩
    · obtain ⟨j, -, -, periodic⟩ := Dev.startPulse_periodic (Nat.not_lt.1 h) hp
      rw [periodic]
      exact ⟨rfl, rfl, rfl⟩

theorem pulseEdge_drives {u : Nat} (hu : (d.pulseSt k).next = some u) (hn : d.now ≤ u) (hl : u < d.now + 4) :
    pulseEdgeEffect k d = (d.send (.pulse k (xor (!(d.pulseSt k).high) (d.getB (Reg.TIME_PULSE_CTRL k) F.TIME_PULSE_CTRL_POL)) u)).setPulse k
      (if (d.pulseSt k).high = false then { d.pulseSt k with next := some (u + (d.pulseSt k).width), high := true }
       else if (d.pulseSt k).period = 0 ∨ (d.pulseSt k).ending = true then PulseState.init
       else { d.pulseSt k with next := some (u - (d.pulseSt k).width + (d.pulseSt k).period), high := false }) := by
  have here : (if u < d.now then d else d.advance ((u - d.now) / kcU)) = d := by
    rw [if_neg (Nat.not_lt.2 hn), Nat.div_eq_of_lt (by unfold kcU; omega)]
    rfl
  unfold pulseEdgeEffect
  simp only [hu, here, Bool.not_eq_true', Bool.or_eq_true, beq_iff_eq, Bool.bne_eq_xor, Bool.not_xor]
  split
  · rfl
  · split <;> rfl

/-! ## Capture inputs -/

/-- The capture inputs with that of one input changed. -/
def Dev.captTime (d : Dev) (k : Nat) (x : CaptState) : TimeState := { d.time with capts := store CaptState.init d.time.capts k x }

theorem Dev.setCapt_quiet {x : CaptState} : Dev.Quiet (· = Reg.TIME_CAPT_CTRL k) { d with time := d.captTime k x } (d.setCapt k x) := Dev.Quiet.refl.setF rfl
theorem Dev.setCapt_facts {x : CaptState} (hd : d.canon) : (d.setCapt k x).time = d.captTime k x ∧ (d.setCapt k x).canon ∧
    d.sameRegs (d.setCapt k x) (· = Reg.TIME_CAPT_CTRL k) ∧ (d.setCapt k x).mem = d.mem ∧ (d.setCapt k x).ev = d.ev := by
  have quiet := Dev.setCapt_quiet (d := d) (k := k) (x := x)
  exact ⟨(congrArg Dev.time quiet.rest :), hd.setCapt, fun a ha => quiet.regs hd.time a ha, quiet.mem, Dev.setF_ev ..⟩
theorem Dev.setCapt_level {x : CaptState} (hd : d.canon) (hl : x.fifo.length < 2 ^ F.TIME_CAPT_CTRL_LEVEL.w) :
    (d.setCapt k x).getF (Reg.TIME_CAPT_CTRL k) F.TIME_CAPT_CTRL_LEVEL = x.fifo.length := Dev.getF_setF_lt hd.time hl

section
variable {rising : Bool} {sub : Nat} (he : d.getB (Reg.TIME_CAPT_CTRL k) F.TIME_CAPT_CTRL_EN = true)
  (hs : d.getF (Reg.TIME_CAPT_CTRL k) F.TIME_CAPT_CTRL_EDGE / (if rising then 1 else 2) % 2 = 1)
include he hs

/-- An edge with room that comes at least 20 ns after the last is kept. -/
theorem captureEdge_kept (hn : ¬ ∃ u, (d.captSt k).last = some u ∧ d.now * 4 + sub < u + 80) (hl : (d.captSt k).fifo.length < 16) :
    captureEdgeEffect k rising sub d =
      d.setCapt k { d.captSt k with fifo := (d.captSt k).fifo ++ [d.now * 4 + sub], last := some (d.now * 4 + sub) } := by
  have selected : (!d.getB (Reg.TIME_CAPT_CTRL k) F.TIME_CAPT_CTRL_EN ||
      d.getF (Reg.TIME_CAPT_CTRL k) F.TIME_CAPT_CTRL_EDGE / (if rising then 1 else 2) % 2 == 0) = false := by rw [he, hs]; rfl
  unfold captureEdgeEffect
  dsimp only
  rw [selected, if_neg Bool.false_ne_true]
  refine if_neg ?_
  rw [Bool.or_eq_true, decide_eq_true_eq, not_or]
  refine ⟨?_, Nat.not_le.2 hl⟩
  split
  · next u hu => exact fun near => hn ⟨u, hu, of_decide_eq_true near⟩
  · exact Bool.false_ne_true

/-- An edge too near or without room is counted, and told once. -/
theorem captureEdge_discarded (hn : (∃ u, (d.captSt k).last = some u ∧ d.now * 4 + sub < u + 80) ∨ 16 ≤ (d.captSt k).fifo.length) :
    captureEdgeEffect k rising sub d = if (d.captSt k).told then d.count (Reg.TIME_CAPT_DISCARD k) F.TIME_CAPT_DISCARD_COUNT 1
      else ((d.count (Reg.TIME_CAPT_DISCARD k) F.TIME_CAPT_DISCARD_COUNT 1).setCapt k { d.captSt k with told := true }).raise 0x8008 0xFF (timeUnit (5 + k)) k
        ((d.count (Reg.TIME_CAPT_DISCARD k) F.TIME_CAPT_DISCARD_COUNT 1).getF (Reg.TIME_CAPT_DISCARD k) F.TIME_CAPT_DISCARD_COUNT) := by
  have selected : (!d.getB (Reg.TIME_CAPT_CTRL k) F.TIME_CAPT_CTRL_EN ||
      d.getF (Reg.TIME_CAPT_CTRL k) F.TIME_CAPT_CTRL_EDGE / (if rising then 1 else 2) % 2 == 0) = false := by rw [he, hs]; rfl
  unfold captureEdgeEffect
  dsimp only
  rw [selected, if_neg Bool.false_ne_true]
  refine if_pos ?_
  rw [Bool.or_eq_true, decide_eq_true_eq]
  refine hn.imp_left fun ⟨u, hu, near⟩ => ?_
  rw [hu]
  exact decide_eq_true near

end

/-- The device with an entry's instant latched and read out. -/
def Dev.popped (d : Dev) (k n x : Nat) (v : Word) : Dev :=
  { d.setFs (Reg.TIME_CAPT_NS k) [(F.TIME_CAPT_NS_NS, n), (F.TIME_CAPT_NS_FRAC, x)] with readOut := v }

theorem capturePop_empty (hm : devMaster m = true) (hf : (d.captSt k).fifo = []) : capturePopEffect m k d = { d with readOut := 0#64 } := by
  unfold capturePopEffect
  simp only [hm, hf, Bool.not_true, Bool.false_eq_true, if_false]
theorem capturePop_oldest {u : Nat} {r : List Nat} (hm : devMaster m = true) (hf : (d.captSt k).fifo = u :: r) : capturePopEffect m k d =
    (d.setCapt k { d.captSt k with fifo := r, told := false }).popped k (u / 20 % 1000000000) (u % 20 * 65536 / 20)
      (BitVec.ofNat 64 (u / 20 / 1000000000 % 2 ^ 48 + 2 ^ 48)) := by
  unfold capturePopEffect
  simp only [hm, hf, Bool.not_true, Bool.false_eq_true, if_false]
  rfl

/-- A device that differs in what was read out alone. -/
theorem Dev.readOut_keeps : ({ d with readOut := v } : Dev).readOut = v ∧ (∀ a, ({ d with readOut := v } : Dev).reg a = d.reg a) ∧
    ({ d with readOut := v } : Dev).time = d.time ∧ ({ d with readOut := v } : Dev).mem = d.mem ∧ ({ d with readOut := v } : Dev).ev = d.ev :=
  ⟨rfl, fun _ => rfl, rfl, rfl, rfl⟩

theorem Dev.popped_facts {n x : Nat} (hd : d.canon) (hn : n < 2 ^ F.TIME_CAPT_NS_NS.w) (hx : x < 2 ^ F.TIME_CAPT_NS_FRAC.w) :
    (d.popped k n x v).readOut = v ∧ (d.popped k n x v).getF (Reg.TIME_CAPT_NS k) F.TIME_CAPT_NS_NS = n ∧
    (d.popped k n x v).getF (Reg.TIME_CAPT_NS k) F.TIME_CAPT_NS_FRAC = x ∧ (d.popped k n x v).time = d.time ∧
    d.sameRegs (d.popped k n x v) (· = Reg.TIME_CAPT_NS k) ∧ (d.popped k n x v).mem = d.mem ∧ (d.popped k n x v).ev = d.ev := by
  have ns := (Dev.getF_setFs_mid (a := Reg.TIME_CAPT_NS k) (g := F.TIME_CAPT_NS_NS) (v := n) (pre := []) (post := [(F.TIME_CAPT_NS_FRAC, x)])
    hd rfl rfl).trans (Nat.mod_eq_of_lt hn)
  have frac := (Dev.getF_setFs_mid (a := Reg.TIME_CAPT_NS k) (g := F.TIME_CAPT_NS_FRAC) (v := x) (pre := [(F.TIME_CAPT_NS_NS, n)]) (post := [])
    hd rfl rfl).trans (Nat.mod_eq_of_lt hx)
  have latched : Dev.Quiet (· = Reg.TIME_CAPT_NS k) d (d.setFs (Reg.TIME_CAPT_NS k) [(F.TIME_CAPT_NS_NS, n), (F.TIME_CAPT_NS_FRAC, x)]) :=
    Dev.Quiet.refl.setFs rfl
  have ev : (d.setFs (Reg.TIME_CAPT_NS k) [(F.TIME_CAPT_NS_NS, n), (F.TIME_CAPT_NS_FRAC, x)]).ev = d.ev := Dev.setFs_ev ..
  have time : (d.setFs (Reg.TIME_CAPT_NS k) [(F.TIME_CAPT_NS_NS, n), (F.TIME_CAPT_NS_FRAC, x)]).time = d.time := Dev.setFs_time ..
  rw [List.nil_append] at ns
  rw [List.singleton_append] at frac
  unfold Dev.popped
  generalize d.setFs (Reg.TIME_CAPT_NS k) [(F.TIME_CAPT_NS_NS, n), (F.TIME_CAPT_NS_FRAC, x)] = f at *
  obtain ⟨out, reg, time', mem', ev'⟩ := Dev.readOut_keeps (d := f) (v := v)
  exact ⟨out, (congrArg (fieldOf _) (reg _)).trans ns, (congrArg (fieldOf _) (reg _)).trans frac, time'.trans time,
    fun a ha => (reg a).trans (latched.regs hd a ha), mem'.trans latched.mem, ev'.trans ev⟩

/-- What a popped entry leaves. -/
theorem capturePop_facts {u : Nat} {r : List Nat} (hd : d.canon) (hm : devMaster m = true) (hf : (d.captSt k).fifo = u :: r) :
    let e := capturePopEffect m k d
    e.readOut = BitVec.ofNat 64 (u / 20 / 1000000000 % 2 ^ 48 + 2 ^ 48) ∧ e.getF (Reg.TIME_CAPT_NS k) F.TIME_CAPT_NS_NS = u / 20 % 1000000000 ∧
    e.getF (Reg.TIME_CAPT_NS k) F.TIME_CAPT_NS_FRAC = u % 20 * 65536 / 20 ∧ e.time = d.captTime k { d.captSt k with fifo := r, told := false } ∧
    d.sameRegs e (fun a => a = Reg.TIME_CAPT_NS k ∨ a = Reg.TIME_CAPT_CTRL k) ∧ e.mem = d.mem ∧ e.ev = d.ev := by
  obtain ⟨time, canon, regs, mem, ev⟩ := Dev.setCapt_facts (k := k) (x := { d.captSt k with fifo := r, told := false }) hd
  have fits : u / 20 % 1000000000 < 2 ^ F.TIME_CAPT_NS_NS.w := Nat.lt_of_lt_of_le (Nat.mod_lt _ (by norm_num)) (Nat.le_of_ble_eq_true rfl)
  have fits' : u % 20 * 65536 / 20 < 2 ^ F.TIME_CAPT_NS_FRAC.w := Nat.lt_of_lt_of_le (by omega) (Nat.le_of_ble_eq_true (n := 65536) rfl)
  rw [capturePop_oldest hm hf]
  obtain ⟨out, ns, frac, time', regs', mem', ev'⟩ := Dev.popped_facts (k := k) (v := BitVec.ofNat 64 (u / 20 / 1000000000 % 2 ^ 48 + 2 ^ 48)) canon fits fits'
  refine ⟨out, ns, frac, time'.trans time, fun a ha => ?_, mem'.trans mem, ev'.trans ev⟩
  rw [not_or] at ha
  exact (regs' a ha.1).trans (regs a ha.2)

theorem discard_ne_ctrl : Reg.TIME_CAPT_CTRL k ≠ Reg.TIME_CAPT_DISCARD k := by simp only [Reg.TIME_CAPT_CTRL, Reg.TIME_CAPT_DISCARD]; omega

/-- What a discarded edge leaves. -/
theorem captureEdge_discarded_facts {rising : Bool} {sub : Nat} (hd : d.canon) (he : d.getB (Reg.TIME_CAPT_CTRL k) F.TIME_CAPT_CTRL_EN = true)
    (hs : d.getF (Reg.TIME_CAPT_CTRL k) F.TIME_CAPT_CTRL_EDGE / (if rising then 1 else 2) % 2 = 1)
    (hn : (∃ u, (d.captSt k).last = some u ∧ d.now * 4 + sub < u + 80) ∨ 16 ≤ (d.captSt k).fifo.length) :
    let e := captureEdgeEffect k rising sub d
    e.reg (Reg.TIME_CAPT_DISCARD k) = (d.count (Reg.TIME_CAPT_DISCARD k) F.TIME_CAPT_DISCARD_COUNT 1).reg (Reg.TIME_CAPT_DISCARD k) ∧
    e.time = { d.time with capts := if (d.captSt k).told = true then d.time.capts else store CaptState.init d.time.capts k { d.captSt k with told := true } } ∧
    ((d.captSt k).told = true → e.ev = d.ev) ∧ ((d.captSt k).told = false → d.raised e fun r => r.code = 0x8008 ∧ r.object = BitVec.ofNat 32 k) := by
  have counted : Dev.Quiet (· = Reg.TIME_CAPT_DISCARD k) d (d.count (Reg.TIME_CAPT_DISCARD k) F.TIME_CAPT_DISCARD_COUNT 1) := Dev.Quiet.refl.count rfl
  have time : (d.count (Reg.TIME_CAPT_DISCARD k) F.TIME_CAPT_DISCARD_COUNT 1).time = d.time := Dev.count_time ..
  have ev : (d.count (Reg.TIME_CAPT_DISCARD k) F.TIME_CAPT_DISCARD_COUNT 1).ev = d.ev := Dev.count_ev ..
  have canon := counted.keeps hd
  rw [captureEdge_discarded he hs hn]
  generalize d.count (Reg.TIME_CAPT_DISCARD k) F.TIME_CAPT_DISCARD_COUNT 1 = w at *
  cases told : (d.captSt k).told
  case true => exact ⟨rfl, time, fun _ => ev, fun h => absurd h Bool.false_ne_true.symm⟩
  case false =>
    obtain ⟨time', -, regs, -, ev'⟩ := Dev.setCapt_facts (k := k) (x := { d.captSt k with told := true }) canon
    rw [if_neg Bool.false_ne_true, if_neg Bool.false_ne_true]
    refine ⟨(Dev.raise_reg ..).trans (regs _ discard_ne_ctrl.symm), (Dev.raise_time ..).trans ?_, fun h => absurd h Bool.false_ne_true, fun _ => ?_⟩
    · rw [time', Dev.captTime, time]
    · exact Dev.raised_of (ev'.trans ev) ⟨rfl, rfl⟩

theorem Dev.setPulse_time (h : e.time = d.time) (x : PulseState) :
    (e.setPulse k x).time = { d.time with pulses := store PulseState.init d.time.pulses k x } :=
  congrArg (fun y : TimeState => { y with pulses := store PulseState.init y.pulses k x }) h

/-- What the write of an output's control leaves. -/
theorem pulseCtrlWrite_facts (hm : devMaster m = true) :
    let w := d.rwWrite (Reg.TIME_PULSE_CTRL k) v
    let put := fun x : PulseState => { d.time with pulses := store PulseState.init d.time.pulses k x }
    let e := pulseCtrlWriteEffect m k v d
    e.regs = w.regs ∧ e.mem = d.mem ∧ e.now = d.now ∧
    (w.getB (Reg.TIME_PULSE_CTRL k) F.TIME_PULSE_CTRL_EN = true →
      (d.now + 5000 < w.pulseStart k → e.time = put ⟨some (w.pulseStart k), false, w.pulsePeriod k, w.pulseWidth k, false⟩ ∧ e.ev = d.ev) ∧
      (w.pulseStart k ≤ d.now + 5000 → w.pulsePeriod k = 0 → e.time = put PulseState.init ∧
        d.raised e fun r => r.code = 0x8007 ∧ r.object = BitVec.ofNat 32 k) ∧
      (w.pulseStart k ≤ d.now + 5000 → w.pulsePeriod k ≠ 0 → ∃ j u, u = w.pulseStart k + j * w.pulsePeriod k ∧ d.now + 5000 < u ∧
        u ≤ d.now + 5000 + w.pulsePeriod k ∧ e.time = put ⟨some u, false, w.pulsePeriod k, w.pulseWidth k, false⟩ ∧ e.ev = d.ev)) ∧
    (w.getB (Reg.TIME_PULSE_CTRL k) F.TIME_PULSE_CTRL_EN = false →
      e.time = put (if (d.pulseSt k).high = true then { d.pulseSt k with ending := true } else PulseState.init) ∧ e.ev = d.ev) := by
  have time : (d.rwWrite (Reg.TIME_PULSE_CTRL k) v).time = d.time := Dev.setReg_time ..
  have now : (d.rwWrite (Reg.TIME_PULSE_CTRL k) v).now = d.now := Dev.setReg_now ..
  have mem : (d.rwWrite (Reg.TIME_PULSE_CTRL k) v).mem = d.mem := Dev.setReg_mem ..
  have ev : (d.rwWrite (Reg.TIME_PULSE_CTRL k) v).ev = d.ev := Dev.setReg_ev ..
  have starts := pulseCtrlWrite_starts (d := d) (k := k) (v := v) hm
  have ends := pulseCtrlWrite_ends (d := d) (k := k) (v := v) hm
  dsimp only
  generalize d.rwWrite (Reg.TIME_PULSE_CTRL k) v = w at *
  generalize pulseCtrlWriteEffect m k v d = e at *
  cases enabled : w.getB (Reg.TIME_PULSE_CTRL k) F.TIME_PULSE_CTRL_EN
  case false =>
    rw [ends enabled]
    exact ⟨rfl, mem, now, fun h => absurd h Bool.false_ne_true, fun _ => ⟨Dev.setPulse_time time _, ev⟩⟩
  case true =>
    obtain ⟨regs', mem', now'⟩ := w.startPulse_keeps (k := k)
    rw [starts enabled]
    refine ⟨regs', mem'.trans mem, now'.trans now, fun _ => ⟨fun ahead => ?_, fun past single => ?_, fun past periodic => ?_⟩, fun h => absurd h Bool.false_ne_true.symm⟩
    · rw [Dev.startPulse_ahead (now ▸ ahead)]
      exact ⟨Dev.setPulse_time time _, ev⟩
    · obtain ⟨n, told⟩ := Dev.startPulse_single (now ▸ past) single
      rw [told]
      exact ⟨Dev.setPulse_time time _, Dev.raised_of ev ⟨rfl, rfl⟩⟩
    · obtain ⟨j, after, upto, starts⟩ := Dev.startPulse_periodic (now ▸ past) periodic
      rw [starts, ← now]
      exact ⟨j, _, rfl, after, upto, Dev.setPulse_time time _, ev⟩

/-- Settles O33: by what each command makes of the time base and its registers. -/
theorem clockReadsStepsPulsesAndCaptures : Obligations.ClockReadsStepsPulsesAndCaptures := by
  unfold Obligations.ClockReadsStepsPulsesAndCaptures
  refine ⟨fun m s hs hm hd => runs_ranRead rfl hs ?_, fun v s hs hv => ⟨fun ha => runs_ranFrom rfl hs ?_, fun ha => runs_ranFrom rfl hs ?_⟩,
    fun m k v s hs hm => ?_, fun k u s hs hn hl hu => runs_ran rfl hs ?_, fun k rising sub s hs hd he hsel => ⟨fun hn hl => runs_ran rfl hs ?_,
    fun hn => runs_ran rfl hs ?_⟩, fun m k s hs hm hd => ⟨fun hf => runs_ranRead rfl hs (capturePop_empty hm hf), fun u r hf => runs_ranRead rfl hs ?_⟩⟩
  · obtain ⟨frac, fits⟩ := s.dev.frac_eq
    obtain ⟨ns', frac', quiet, ev⟩ := Dev.instantAt_facts (a := Reg.TIME_NOW_NS) hd s.dev.ns_lt fits
    rw [timeNowSecRead_latches hm]
    generalize hw : s.dev.instantAt Reg.TIME_NOW_NS s.dev.ns s.dev.frac = w at *
    obtain ⟨out, regs, mem, ev', now⟩ := Dev.latched_keeps (d := w) (r := BitVec.ofNat 64 (s.dev.sec % 2 ^ 48))
    refine ⟨out, (congrArg (fieldOf _) (regs _)).trans ns', ⟨s.dev.now % 5, Nat.mod_lt _ (by norm_num), rfl, ?_⟩,
      fun a ha => (regs a).trans (quiet.regs hd a ha), mem.trans quiet.mem, ev'.trans ev, now.trans quiet.now⟩
    exact (congrArg (fieldOf _) (regs _)).trans (frac'.trans frac)
  · exact timeStepCmd_steps hv ha
  · obtain ⟨n, refused⟩ := timeStepCmd_refused hv ha
    rw [refused]
    exact ⟨rfl, rfl, rfl, rfl, Dev.raised_of rfl ⟨rfl, rfl⟩⟩
  · intro d start per put wide
    exact runs_ranFrom rfl hs (pulseCtrlWrite_facts hm)
  · rw [pulseEdge_drives hu hn hl]
    exact ⟨rfl, rfl, rfl, rfl, rfl, rfl⟩
  · obtain ⟨time, -, regs, mem, ev⟩ := Dev.setCapt_facts (k := k)
      (x := { s.dev.captSt k with fifo := (s.dev.captSt k).fifo ++ [s.dev.now * 4 + sub], last := some (s.dev.now * 4 + sub) }) hd
    have level := Dev.setCapt_level (k := k)
      (x := { s.dev.captSt k with fifo := (s.dev.captSt k).fifo ++ [s.dev.now * 4 + sub], last := some (s.dev.now * 4 + sub) }) hd
    rw [captureEdge_kept he hsel hn hl]
    rw [List.length_append] at level
    exact ⟨time, level (Nat.lt_of_le_of_lt (Nat.succ_le_of_lt hl) (by decide)), regs, mem, ev⟩
  · exact captureEdge_discarded_facts hd he hsel hn
  · exact capturePop_facts hd hm hf

end Sys2Proof.Machine
end

section
/-! SUPPORT. The sources of time and the servo (R314 to R318, R322 to R324). -/
namespace Sys2Proof.Machine

-- One proof after another: with many at once their threads' stacks exceed the memory that the check allows.
set_option Elab.async false

variable {d e u : Dev} {a : Nat} {f : Fld}

/-! ## Events are kept, and registers written for the clock change time alone -/

theorem mem_insertEvent_self (x : EventRec) (l : List EventRec) : x ∈ insertEvent l x := by
  induction l with
  | nil => exact List.mem_singleton_self x
  | cons y r ih =>
    unfold insertEvent
    split
    · exact List.mem_cons_self
    · exact List.mem_cons_of_mem _ ih
theorem mem_insertEvent_of_mem {x y : EventRec} {l : List EventRec} (h : x ∈ l) : x ∈ insertEvent l y := by
  induction l with
  | nil => cases h
  | cons z r ih =>
    unfold insertEvent
    split
    · exact List.mem_cons_of_mem _ h
    · rcases List.mem_cons.1 h with h | h
      · exact h ▸ List.mem_cons_self
      · exact List.mem_cons_of_mem _ (ih h)

/-- `e` is `d` but for the time base, registers and further events. -/
structure Dev.Clocked (d e : Dev) : Prop where
  canon : d.canon → e.canon
  rest : ({ e with regs := d.regs, ev := d.ev, time := d.time } : Dev) = d
  told : ∀ r ∈ d.ev.arisen, r ∈ e.ev.arisen

theorem Dev.Clocked.refl : Dev.Clocked d d := ⟨id, rfl, fun _ h => h⟩
theorem Dev.Clocked.trans (h : Dev.Clocked d e) (h' : Dev.Clocked e u) : Dev.Clocked d u where
  canon c := h'.canon (h.canon c)
  rest := (congrArg (fun x : Dev => { x with regs := d.regs, ev := d.ev, time := d.time }) h'.rest).trans h.rest
  told r hr := h'.told r (h.told r hr)
theorem Dev.Clocked.ofQuiet {p : Nat → Prop} (q : Dev.Quiet p d e) (he : ∀ r ∈ d.ev.arisen, r ∈ e.ev.arisen) : Dev.Clocked d e :=
  ⟨q.keeps, (congrArg (fun x : Dev => { x with time := d.time }) q.rest :), he⟩
theorem Dev.Clocked.mem (h : Dev.Clocked d e) : e.mem = d.mem := (congrArg Dev.mem h.rest :)
theorem Dev.Clocked.now (h : Dev.Clocked d e) : e.now = d.now := (congrArg Dev.now h.rest :)
theorem Dev.Clocked.cfg (h : Dev.Clocked d e) : e.cfg = d.cfg := (congrArg Dev.cfg h.rest :)
theorem Dev.Clocked.timeF (h : Dev.Clocked d e) (o n : Nat) : e.timeF o n = d.timeF o n := by rw [Dev.timeF, Dev.timeF, Dev.section_of h.cfg]
theorem Dev.Clocked.ite {c : Prop} [Decidable c] (h : Dev.Clocked d e) (h' : Dev.Clocked d u) : Dev.Clocked d (if c then e else u) := by split <;> assumption

theorem Dev.clocked_setFs {l : List (Fld × Nat)} : Dev.Clocked d (d.setFs a l) := .ofQuiet (p := fun _ => True) (Dev.Quiet.refl.setFs trivial) fun _ h => h
theorem Dev.clocked_setF {v : Nat} : Dev.Clocked d (d.setF a f v) := .ofQuiet (p := fun _ => True) (Dev.Quiet.refl.setF trivial) fun _ h => h
theorem Dev.clocked_count {n : Nat} : Dev.Clocked d (d.count a f n) :=
  .ofQuiet (p := fun _ => True) (Dev.Quiet.refl.count trivial) fun _ h => by rw [Dev.count_ev]; exact h
theorem Dev.clocked_raise {c s o n : Nat} {x : BitVec 16} : Dev.Clocked d (d.raise c s x o n) :=
  .ofQuiet (p := fun _ => True) Dev.Quiet.refl.raise fun _ => mem_insertEvent_of_mem
theorem Dev.clocked_modTime {g : TimeState → TimeState} : Dev.Clocked d (d.modTime g) := ⟨Dev.canon.modTime, rfl, fun _ h => h⟩

theorem Dev.raise_tells {c s o n : Nat} {x : BitVec 16} : ∃ r ∈ (d.raise c s x o n).ev.arisen, r.code = c ∧ r.object = BitVec.ofNat 32 o :=
  ⟨_, mem_insertEvent_self _ _, rfl, rfl⟩

theorem Dev.Quiet.time {p : Nat → Prop} (h : Dev.Quiet p d e) : e.time = d.time := (congrArg Dev.time h.rest :)

/-! ## The clock's state -/

theorem Dev.clock_of (h : e.reg Reg.TIME_STATUS = d.reg Reg.TIME_STATUS) : e.clock = d.clock := congrArg (fieldOf F.TIME_STATUS_STATE) h
theorem Dev.clock_setFs_ne {l : List (Fld × Nat)} (hd : d.canon) (ha : a ≠ Reg.TIME_STATUS) : (d.setFs a l).clock = d.clock := Dev.clock_of (Dev.reg_setFs_ne _ hd ha)
theorem Dev.clock_setF_ne {v : Nat} (hd : d.canon) (ha : a ≠ Reg.TIME_STATUS) : (d.setF a f v).clock = d.clock := Dev.clock_of (Dev.reg_setReg_ne _ hd ha)
theorem Dev.clock_count_ne {n : Nat} (hd : d.canon) (ha : a ≠ Reg.TIME_STATUS) : (d.count a f n).clock = d.clock :=
  Dev.clock_of ((Dev.Quiet.refl.count rfl : Dev.Quiet (· = a) d (d.count a f n)).regs hd _ ha.symm)

theorem Dev.setClock_eq {st : Nat} (h : d.clock ≠ st) : ∃ l n, d.setClock st =
    (d.setFs Reg.TIME_STATUS [(F.TIME_STATUS_STATE, st), (F.TIME_STATUS_CLOCK_CLASS, l)]).raise 0x8001 0xFF (timeUnit 0) st n :=
  ⟨_, _, if_neg (by simpa using h)⟩
theorem Dev.setClock_same {st : Nat} (h : d.clock = st) : d.setClock st = d := if_pos (by simpa using h)

theorem Dev.setClock_quiet {st : Nat} : Dev.Quiet (· = Reg.TIME_STATUS) d (d.setClock st) := by
  by_cases h : d.clock = st
  · rw [Dev.setClock_same h]
    exact .refl
  · obtain ⟨l, n, sets⟩ := Dev.setClock_eq h
    rw [sets]
    exact (Dev.Quiet.refl.setFs (p := (· = Reg.TIME_STATUS)) rfl).raise
theorem Dev.setClock_clocked {st : Nat} : Dev.Clocked d (d.setClock st) := by
  by_cases h : d.clock = st
  · rw [Dev.setClock_same h]
    exact .refl
  · obtain ⟨l, n, sets⟩ := Dev.setClock_eq h
    rw [sets]
    exact Dev.clocked_setFs.trans Dev.clocked_raise
theorem Dev.setClock_time {st : Nat} : (d.setClock st).time = d.time := (congrArg Dev.time Dev.setClock_quiet.rest :)

/-- A change of state shows the state and tells it. -/
theorem Dev.setClock_clock {st : Nat} (hd : d.canon) (hs : st < 2 ^ F.TIME_STATUS_STATE.w) : (d.setClock st).clock = st := by
  by_cases h : d.clock = st
  · rw [Dev.setClock_same h, h]
  · obtain ⟨l, n, sets⟩ := Dev.setClock_eq h
    rw [sets]
    exact (Dev.getF_setFs_mid (pre := []) hd rfl rfl).trans (Nat.mod_eq_of_lt hs)
theorem Dev.setClock_tells {st : Nat} (h : d.clock ≠ st) : ∃ r ∈ (d.setClock st).ev.arisen, r.code = 0x8001 ∧ r.object = BitVec.ofNat 32 st := by
  obtain ⟨l, n, sets⟩ := Dev.setClock_eq h
  rw [sets]
  exact Dev.raise_tells

/-! ## The servo -/

theorem Dev.modTime_clock {g : TimeState → TimeState} : (d.modTime g).clock = d.clock := rfl
theorem Dev.modTime_active {g : TimeState → TimeState} : (d.modTime g).active = d.active := rfl
theorem Dev.active_setFs_ne {l : List (Fld × Nat)} (hd : d.canon) (ha : a ≠ Reg.RECIPE_STATUS) : (d.setFs a l).active = d.active :=
  congrArg (fieldOf F.RECIPE_STATUS_ACTIVE · == 1) (Dev.reg_setFs_ne _ hd ha)
theorem Dev.setAdj_clocked {x : Int} : Dev.Clocked d (d.setAdj x) := Dev.clocked_setF
/-- What the servo's step changes: the adjustment, the integrator and the history. -/
theorem Dev.steer_eq (th : Int) (n : Nat) : ∃ (x i : Int) (w : List (Nat × Int) → List (Nat × Int)), d.steer th n = (d.setAdj x).modTime fun y => { y with integ := i, hist := w y.hist } :=
  ⟨_, _, fun l => (l.filter fun h => decide (h.1 + 3600 * 5000000000 ≥ d.now)) ++ [(d.now, _)], rfl⟩
theorem Dev.steer_facts {th : Int} {n : Nat} (hd : d.canon) : Dev.Clocked d (d.steer th n) ∧ (d.steer th n).clock = d.clock ∧
    (d.steer th n).time.small = d.time.small := by
  obtain ⟨x, i, w, steers⟩ := d.steer_eq th n
  rw [steers, Dev.modTime_clock, Dev.setAdj]
  exact ⟨Dev.clocked_setF.trans Dev.clocked_modTime, Dev.clock_setF_ne hd (by decide), by rw [Dev.modTime_time, Dev.setF_time]⟩

/-- A measurement as it is shown and counted, before it steps or steers. -/
def Dev.offsetShown (d : Dev) (theta path : Int) : Dev :=
  let ns := max (-(2 ^ 31 : Int)) (min (2 ^ 31 - 1) (nearest theta 1000))
  let d := d.setFs Reg.TIME_OFFSET [(F.TIME_OFFSET_OFFSET, twos 32 ns), (F.TIME_OFFSET_PATH, twos 32 (nearest path 1000))]
  let small := theta.natAbs ≤ 100000
  d.modTime fun x => { x with count := min 16 (x.count + 1), small := if small then min 16 (x.small + 1) else 0 }

theorem Dev.offsetShown_clocked {theta path : Int} : Dev.Clocked d (d.offsetShown theta path) := by
  unfold Dev.offsetShown
  extract_lets ns shown small
  exact Dev.clocked_setFs.trans Dev.clocked_modTime
theorem Dev.offsetShown_facts {theta path : Int} (hd : d.canon) : (d.offsetShown theta path).clock = d.clock ∧
    (d.offsetShown theta path).active = d.active ∧ (theta.natAbs ≤ 100000 → (d.offsetShown theta path).time.small = min 16 (d.time.small + 1)) := by
  unfold Dev.offsetShown
  extract_lets ns shown small
  rw [Dev.modTime_clock, Dev.modTime_active, Dev.modTime_time]
  exact ⟨Dev.clock_setFs_ne hd (by decide), Dev.active_setFs_ne hd (by decide), fun h => (if_pos h).trans (by rw [Dev.setFs_time])⟩

/-- What a shown measurement does to the clock: a step, or the servo. -/
def Dev.applied (u : Dev) (theta : Int) (rate : Nat) : Dev :=
  let big := theta.natAbs > u.timeF 12 4 * 1000
  let st := u.clock
  if big && !u.active then
    let k := nearest (-theta) 800
    let d := u.jumpTo ((u.now : Int) + k * kcU).toNat
    let d := (d.modTime fun x => { x with integ := 0 }).raise 0x8004 0xFF (timeUnit 0) 0 (twos 64 (nearest (k * 800) 1000))
    if (st == 0 || st == 3 || st == 4) && d.time.count == 16 then d.setClock 1 else d
  else
    let d := if big && !u.time.withheld then u.raise 0x8005 0xFF (timeUnit 0) 0 (twos 64 (nearest theta 1000)) else u
    let d := d.modTime fun x => { x with withheld := big }
    match st with
    | 1 => let d := d.steer theta rate; if d.time.small == 16 then d.setClock 2 else d
    | 2 => let d := d.steer theta rate; if theta.natAbs > 1000000 then d.setClock 1 else d
    | _ => if d.time.count == 16 then (d.setClock 1).steer theta rate else d
theorem Dev.measured_eq {theta path : Int} {rate : Nat} : d.measured theta path rate = (d.offsetShown theta path).applied theta rate := rfl

section
variable {theta : Int} {rate : Nat}

/-- Device time jumps by the whole cycles nearest to the offset. -/
theorem Dev.applied_jumps (hb : theta.natAbs > d.timeF 12 4 * 1000) (ha : d.active = false) :
    (d.applied theta rate).now = ((d.now : Int) + nearest (-theta) 800 * 4).toNat / 4 * 4 ∧ (d.applied theta rate).time.integ = 0 ∧
    (d.applied theta rate).mem = d.mem ∧ ∃ r ∈ (d.applied theta rate).ev.arisen, r.code = 0x8004 := by
  unfold Dev.applied
  extract_lets big st k jumped told
  rw [ha, if_pos (by simpa using hb)]
  have facts : told.now = ((d.now : Int) + k * 4).toNat / 4 * 4 ∧ told.time.integ = 0 ∧ told.mem = d.mem ∧ ∃ r ∈ told.ev.arisen, r.code = 0x8004 :=
    ⟨rfl, rfl, rfl, _, mem_insertEvent_self _ _, rfl⟩
  clear_value told
  obtain ⟨now, integ, mem, r, hr, code⟩ := facts
  have clocked := Dev.setClock_clocked (d := told) (st := 1)
  split
  · exact ⟨clocked.now.trans now, (congrArg TimeState.integ Dev.setClock_time).trans integ, clocked.mem.trans mem, r, clocked.told r hr, code⟩
  · exact ⟨now, integ, mem, r, hr, code⟩

/-- The device to which the servo answers a measurement that does not step it. -/
def Dev.withheld (d : Dev) (theta : Int) : Dev :=
  let big := theta.natAbs > d.timeF 12 4 * 1000
  let d := if big && !d.time.withheld then d.raise 0x8005 0xFF (timeUnit 0) 0 (twos 64 (nearest theta 1000)) else d
  d.modTime fun x => { x with withheld := big }
theorem Dev.withheld_facts : Dev.Clocked d (d.withheld theta) ∧ (d.withheld theta).clock = d.clock ∧
    (d.withheld theta).time.small = d.time.small := by
  unfold Dev.withheld
  extract_lets big w
  have told : Dev.Clocked d w ∧ w.clock = d.clock ∧ w.time = d.time := by
    unfold w
    split
    · exact ⟨Dev.clocked_raise, rfl, rfl⟩
    · exact ⟨.refl, rfl, rfl⟩
  clear_value w
  obtain ⟨clocked, clock, time⟩ := told
  exact ⟨clocked.trans Dev.clocked_modTime, clock, (congrArg TimeState.small time :)⟩

/-- The servo's answer in a state of the clock. -/
def Dev.servoed (d : Dev) (st : Nat) (theta : Int) (rate : Nat) : Dev :=
  match st with
  | 1 => let d := d.steer theta rate; if d.time.small == 16 then d.setClock 2 else d
  | 2 => let d := d.steer theta rate; if theta.natAbs > 1000000 then d.setClock 1 else d
  | _ => if d.time.count == 16 then (d.setClock 1).steer theta rate else d

theorem Dev.applied_steers (h : ¬ (theta.natAbs > d.timeF 12 4 * 1000 ∧ d.active = false)) :
    d.applied theta rate = (d.withheld theta).servoed d.clock theta rate := if_neg (by simpa using h)

theorem Dev.servoed_clocked {st : Nat} (hd : d.canon) : Dev.Clocked d (d.servoed st theta rate) := by
  obtain ⟨steer, -⟩ := Dev.steer_facts (th := theta) (n := rate) hd
  obtain ⟨steer', -⟩ := Dev.steer_facts (d := d.setClock 1) (th := theta) (n := rate) hd.setClock
  unfold Dev.servoed
  split
  · exact (steer.trans Dev.setClock_clocked).ite steer
  · exact (steer.trans Dev.setClock_clocked).ite steer
  · exact (Dev.setClock_clocked.trans steer').ite .refl

/-- A change of the clock's state that the servo drives. -/
theorem Dev.servoed_moves {st st' : Nat} (hd : d.canon) (hs : st' < 2 ^ F.TIME_STATUS_STATE.w) (hne : d.clock ≠ st')
    (h : d.servoed st theta rate = (d.steer theta rate).setClock st') : (d.servoed st theta rate).clock = st' ∧
    (d.servoed st theta rate).now = d.now ∧ ∃ r ∈ (d.servoed st theta rate).ev.arisen, r.code = 0x8001 ∧ r.object = BitVec.ofNat 32 st' := by
  obtain ⟨steer, clock, -⟩ := Dev.steer_facts (th := theta) (n := rate) hd
  rw [h]
  exact ⟨Dev.setClock_clock (steer.canon hd) hs, Dev.setClock_clocked.now.trans steer.now, Dev.setClock_tells (by rw [clock]; exact hne)⟩

end

/-! ## A measurement of the PPS input -/

/-- The device that measures against the PPS input. -/
def Dev.ppsTaken (d : Dev) : Dev := (d.modTime fun y => { y with pps := none }).setF Reg.TIME_STATUS F.TIME_STATUS_PHASE_SRC 2
theorem servoUpdate_pps {th : Int} (hp : d.time.pps = some th) (hr : d.timeRole = 2) : servoUpdateEffect .pps d = (d.ppsTaken.offsetShown th 0).applied th 1 := by
  unfold servoUpdateEffect
  simp only [hp, hr, bne_self_eq_false, Bool.false_eq_true, if_false]
  exact Dev.measured_eq

theorem Dev.ppsTaken_facts (hd : d.canon) : Dev.Clocked d d.ppsTaken ∧ d.ppsTaken.clock = d.clock ∧ d.ppsTaken.active = d.active ∧
    d.ppsTaken.time.small = d.time.small :=
  ⟨Dev.clocked_modTime.trans Dev.clocked_setF, Dev.getF_setF_other (f := F.TIME_STATUS_PHASE_SRC) (g := F.TIME_STATUS_STATE) hd.modTime,
   congrArg (fieldOf F.RECIPE_STATUS_ACTIVE · == 1) (Dev.reg_setReg_ne _ hd.modTime (by decide)), by rw [Dev.ppsTaken, Dev.setF_time, Dev.modTime_time]⟩

/-- The measurement shown: the clock, the recipe and the run of small offsets as they count. -/
theorem Dev.ppsShown_facts {th : Int} (hd : d.canon) : Dev.Clocked d (d.ppsTaken.offsetShown th 0) ∧ (d.ppsTaken.offsetShown th 0).clock = d.clock ∧
    (d.ppsTaken.offsetShown th 0).active = d.active ∧
    (th.natAbs ≤ 100000 → (d.ppsTaken.offsetShown th 0).time.small = min 16 (d.time.small + 1)) := by
  obtain ⟨taken, clock, active, small⟩ := Dev.ppsTaken_facts hd
  obtain ⟨clock', active', small'⟩ := Dev.offsetShown_facts (theta := th) (path := 0) (taken.canon hd)
  exact ⟨taken.trans Dev.offsetShown_clocked, clock'.trans clock, active'.trans active, fun h => (small' h).trans (by rw [small])⟩

theorem servoUpdate_pps_facts {th : Int} (hd : d.canon) (hp : d.time.pps = some th) (hr : d.timeRole = 2) :
    let e := servoUpdateEffect .pps d
    (th.natAbs > d.timeF 12 4 * 1000 → d.active = false → e.now = ((d.now : Int) + nearest (-th) 800 * 4).toNat / 4 * 4 ∧ e.time.integ = 0 ∧
      e.mem = d.mem ∧ ∃ r ∈ e.ev.arisen, r.code = 0x8004) ∧
    (d.active = true → e.now = d.now ∧ e.mem = d.mem) ∧
    (¬ th.natAbs > d.timeF 12 4 * 1000 → d.clock = 1 → d.time.small = 15 → th.natAbs ≤ 100000 → e.clock = 2 ∧ e.now = d.now ∧
      ∃ r ∈ e.ev.arisen, r.code = 0x8001 ∧ r.object = 2#32) ∧
    (¬ th.natAbs > d.timeF 12 4 * 1000 → d.clock = 2 → 1000000 < th.natAbs → e.clock = 1 ∧ e.now = d.now ∧
      ∃ r ∈ e.ev.arisen, r.code = 0x8001 ∧ r.object = 1#32) := by
  obtain ⟨shown, clock, active, small⟩ := Dev.ppsShown_facts (th := th) hd
  have canon := shown.canon hd
  have limit := shown.timeF 12 4
  rw [servoUpdate_pps hp hr]
  generalize d.ppsTaken.offsetShown th 0 = u at *
  obtain ⟨held, clock', small'⟩ := Dev.withheld_facts (d := u) (theta := th)
  rw [← limit, ← active, ← shown.now, ← shown.mem, ← clock]
  refine ⟨fun hb ha => Dev.applied_jumps hb ha, fun ha => ?_, fun hb hc hs ht => ?_, fun hb hc ht => ?_⟩
  · rw [Dev.applied_steers (by rw [ha]; simp)]
    have clocked := held.trans (Dev.servoed_clocked (theta := th) (rate := 1) (st := u.clock) (held.canon canon))
    exact ⟨clocked.now, clocked.mem⟩
  · have steady : (u.withheld th).servoed 1 th 1 = ((u.withheld th).steer th 1).setClock 2 := by
      obtain ⟨-, -, same⟩ := Dev.steer_facts (th := th) (n := 1) (held.canon canon)
      exact if_pos (by rw [same, small', small ht, hs]; rfl)
    obtain ⟨moved, now, told⟩ := Dev.servoed_moves (held.canon canon) (by decide) (by rw [clock', hc]; decide) steady
    rw [Dev.applied_steers fun h => hb h.1, hc]
    exact ⟨moved, now.trans held.now, told⟩
  · have far : (u.withheld th).servoed 2 th 1 = ((u.withheld th).steer th 1).setClock 1 := if_pos ht
    obtain ⟨moved, now, told⟩ := Dev.servoed_moves (held.canon canon) (by decide) (by rw [clock', hc]; decide) far
    rw [Dev.applied_steers fun h => hb h.1, hc]
    exact ⟨moved, now.trans held.now, told⟩

/-! ## Frequency sources -/

theorem freqEvaluate_cases : (d.freqChoice.1 = d.getF Reg.TIME_STATUS F.TIME_STATUS_FREQ_SRC ∧ d.freqEvaluate = d) ∨
    ∃ n, d.freqEvaluate = (d.setFs Reg.TIME_STATUS [(F.TIME_STATUS_FREQ_SRC, d.freqChoice.1), (F.TIME_STATUS_SYNCE_LANE, d.freqChoice.2)]).raise
      0x8002 0xFF (timeUnit 0) d.freqChoice.1 n := by
  unfold Dev.freqEvaluate
  generalize d.freqChoice = c
  obtain ⟨n, l⟩ := c
  extract_lets old lane
  dsimp only
  split
  · next same =>
    rw [Bool.and_eq_true, beq_iff_eq, beq_iff_eq] at same
    exact .inl ⟨same.1, rfl⟩
  · exact .inr ⟨_, rfl⟩

/-- An evaluation shows its choice and leaves the clock. -/
theorem freqEvaluate_facts (hd : d.canon) : d.freqEvaluate.getF Reg.TIME_STATUS F.TIME_STATUS_FREQ_SRC = d.freqChoice.1 % 4 ∧
    d.freqEvaluate.clock = d.clock ∧ Dev.Quiet (· = Reg.TIME_STATUS) d d.freqEvaluate := by
  obtain ⟨chosen, same⟩ | ⟨n, sets⟩ := freqEvaluate_cases (d := d)
  · rw [same, chosen]
    exact ⟨(Nat.mod_eq_of_lt (Dev.getF_lt Reg.TIME_STATUS F.TIME_STATUS_FREQ_SRC)).symm, rfl, .refl⟩
  · rw [sets]
    refine ⟨?_, ?_, (Dev.Quiet.refl.setFs (p := (· = Reg.TIME_STATUS)) rfl).raise⟩
    · rw [Dev.raise_getF]
      exact Dev.getF_setFs_mid (pre := []) hd rfl rfl
    · rw [Dev.clock, Dev.raise_getF, Dev.getF, Dev.reg_setFs_self _ _ hd]
      refine fieldOf_putFields_apart _ _ fun p hp => Fld.clearOf_iff.1 ?_
      simp only [List.mem_cons, List.not_mem_nil, or_false] at hp
      rcases hp with rfl | rfl <;> rfl

/-! ## Lost sources and holdover -/

/-- The adjustment with which holdover begins. -/
def Dev.heldAdj (d : Dev) : Dev :=
  let from_ := d.now - d.timeF 20 2 * 5000000000
  let v := (d.time.hist.filter fun h => decide (h.1 ≥ from_)).map (·.2)
  if v.isEmpty then d else d.setAdj (v.sum / v.length)
theorem Dev.heldAdj_facts (hd : d.canon) : Dev.Clocked d d.heldAdj ∧ d.heldAdj.clock = d.clock := by
  unfold Dev.heldAdj
  extract_lets from_ v
  split
  · exact ⟨.refl, rfl⟩
  · exact ⟨Dev.setAdj_clocked, Dev.clock_setF_ne hd (by decide)⟩
theorem Dev.enterHoldover_eq (hc : d.clock = 1 ∨ d.clock = 2) : ∃ g, d.enterHoldover =
    ((d.heldAdj.modTime g).count Reg.TIME_HOLDOVER_COUNT F.TIME_HOLDOVER_COUNT_COUNT 1).setClock 3 :=
  ⟨_, if_neg (by rcases hc with hc | hc <;> rw [hc] <;> decide)⟩

theorem Dev.enterHoldover_facts (hd : d.canon) (hc : d.clock = 1 ∨ d.clock = 2) : Dev.Clocked d d.enterHoldover ∧ d.enterHoldover.clock = 3 := by
  obtain ⟨g, enters⟩ := Dev.enterHoldover_eq hc
  obtain ⟨held, -⟩ := Dev.heldAdj_facts hd
  have counted : Dev.Clocked d ((d.heldAdj.modTime g).count Reg.TIME_HOLDOVER_COUNT F.TIME_HOLDOVER_COUNT_COUNT 1) :=
    held.trans (Dev.clocked_modTime.trans Dev.clocked_count)
  rw [enters]
  exact ⟨counted.trans Dev.setClock_clocked, Dev.setClock_clock (counted.canon hd) (by decide)⟩

theorem sourceLoss_ptp (p : EthPort) (hs : d.getF Reg.TIME_STATUS F.TIME_STATUS_PHASE_SRC = 1) (hp : d.getF Reg.TIME_STATUS F.TIME_STATUS_PTP_PORT = p.val) :
    sourceLossEffect (.ptp p) d = (d.lostSource 0 p).losePhase := by
  unfold sourceLossEffect
  simp only [hs, hp, beq_self_eq_true, Bool.and_self, if_true]

theorem Dev.losePhase_facts (hd : d.canon) (hc : d.clock = 1 ∨ d.clock = 2) : Dev.Clocked d d.losePhase ∧ d.losePhase.clock = 3 ∧
    d.losePhase.getF Reg.TIME_STATUS F.TIME_STATUS_PHASE_SRC = 0 := by
  obtain ⟨entered, clock⟩ := Dev.enterHoldover_facts hd hc
  have canon := entered.canon hd
  unfold Dev.losePhase
  generalize d.enterHoldover = w at *
  rw [Dev.modTime_clock, Dev.modTime_getF]
  rw [Dev.clock] at clock ⊢
  refine ⟨entered.trans (Dev.clocked_setF.trans Dev.clocked_modTime), ?_, Dev.getF_setF_lt canon (by decide)⟩
  rw [Dev.getF_setF_other canon, clock]

theorem sourceLoss_ptp_facts (p : EthPort) (hd : d.canon) (hs : d.getF Reg.TIME_STATUS F.TIME_STATUS_PHASE_SRC = 1)
    (hp : d.getF Reg.TIME_STATUS F.TIME_STATUS_PTP_PORT = p.val) (hc : d.clock = 1 ∨ d.clock = 2) :
    let e := sourceLossEffect (.ptp p) d
    e.clock = 3 ∧ e.getF Reg.TIME_STATUS F.TIME_STATUS_PHASE_SRC = 0 ∧ e.now = d.now ∧ e.mem = d.mem ∧
      ∃ r ∈ e.ev.arisen, r.code = 0x8006 ∧ r.object = 0#32 := by
  obtain ⟨lost, clock, src⟩ := Dev.losePhase_facts (d := d.lostSource 0 p) hd.lostSource hc
  obtain ⟨r, hr, told⟩ := Dev.raise_tells (d := d) (c := 0x8006) (s := 0xFF) (x := timeUnit 0) (o := 0) (n := p)
  rw [sourceLoss_ptp p hs hp]
  exact ⟨clock, src, lost.now, lost.mem, r, lost.told r hr, told⟩

/-! ## The loss of the reference -/

theorem Dev.portCount_quiet {g : GatePort} {r n : Nat} : Dev.Quiet (· = r) d (d.portCount g r f n) := by
  unfold Dev.portCount
  have counted : Dev.Quiet (· = r) d (d.count r f n) := Dev.Quiet.refl.count rfl
  dsimp only
  split
  · exact counted
  · split <;> exact counted.raise
theorem ethLinkDown_quiet {p : EthPort} {los : Nat} :
    Dev.Quiet (fun a => a = Reg.ETH_PORT_STATUS p ∨ a = Reg.ETH_LINK_DOWN_COUNT p) d (ethLinkDownEffect p los d) := by
  unfold ethLinkDownEffect
  extract_lets r m was w
  have down : Dev.Quiet (fun a => a = Reg.ETH_PORT_STATUS p ∨ a = Reg.ETH_LINK_DOWN_COUNT p) d w := Dev.Quiet.refl.setFs (.inl rfl)
  have counted : Dev.Quiet (· = Reg.ETH_LINK_DOWN_COUNT p) w (w.portCount (.eth p) (Reg.ETH_LINK_DOWN_COUNT p) F.ETH_LINK_DOWN_COUNT_COUNT 1) := Dev.portCount_quiet
  have both : Dev.Quiet (fun a => a = Reg.ETH_PORT_STATUS p ∨ a = Reg.ETH_LINK_DOWN_COUNT p) w _ :=
    ⟨counted.keeps, counted.rest, fun c a ha => counted.regs c a fun h => ha (.inr h)⟩
  exact Dev.Quiet.refl.ite (down.ite (down.trans both).raise)

theorem Dev.portSync_time {g : GatePort} : (d.portSync g).time = d.time := by
  unfold Dev.portSync
  extract_lets w x
  have kept : w.time = d.time := foldl_keeps Dev.time (fun d q => by rw [Dev.setFs_time]; split <;> exact Dev.setPort_time ..) _ _
  clear_value w
  split
  · exact (Dev.setPort_time ..).trans kept
  · exact kept
theorem Dev.routesChanged_time {tell : Bool} : (d.routesChanged tell).time = d.time := by
  refine foldl_keeps Dev.time (fun d n => ?_) _ _
  split
  split
  · rfl
  · split
    · exact (Dev.raise_time ..).trans (Dev.modBraid_time ..)
    · exact Dev.modBraid_time ..
theorem Dev.braidDown_time {b : BraidPort} {los : Nat} : (d.braidDown b los).time = d.time := by
  unfold Dev.braidDown
  extract_lets g r was w w2 x waiting w3 link w4 w5
  have down : w.time = d.time := Dev.setFs_time ..
  split
  · exact down
  · have synced : w2.time = w.time := Dev.portSync_time
    have emptied : w3.time = w2.time := foldl_keeps Dev.time (fun _ _ => Dev.setPort_time ..) _ _
    have linked : w4.time = w3.time := (Dev.setBlink_time ..).trans (Dev.modBraid_time ..)
    have counted : w5.time = w4.time := (Dev.portCount_quiet).time.trans Dev.portSync_time
    rw [Dev.routesChanged_time, Dev.raise_time, counted, linked, emptied, synced, down]
theorem Dev.dropLinks_time : d.dropLinks.time = d.time :=
  (foldl_keeps Dev.time (fun _ _ => Dev.braidDown_time) _ _).trans
    (foldl_keeps Dev.time (fun _ _ => ethLinkDown_quiet.time) _ _)

theorem sourceLoss_reference (h : d.time.refLost = false) : (sourceLossEffect .reference d).time.refLost = true := by
  have loses : sourceLossEffect .reference d = ((d.lostSource 4 0).enterHoldover.modTime fun y => { y with refLost := true }).dropLinks :=
    if_neg (h.trans_ne Bool.false_ne_true)
  rw [loses, Dev.dropLinks_time, Dev.modTime_time]

/-! ## The end of holdover -/

theorem holdoverExpiry_ends (hc : d.clock = 3) :
    holdoverExpiryEffect d = (d.advanceTo (d.time.holdSince + d.timeF 16 4 * 5000000000)).setClock 4 := if_neg (by rw [hc]; decide)
theorem Dev.advanceTo_facts {n : Nat} : n ≤ (d.advanceTo n).now ∧ (d.advanceTo n).mem = d.mem := by
  refine ⟨?_, d.advance_mem _⟩
  rw [Dev.advanceTo, Dev.advance_now]
  unfold kcU
  omega

/-! ## Messages -/

theorem ptpMessageSend_held {p : EthPort} {k : PtpKind} (h : ¬ (d.ptpMode p ≠ 0 ∧ (if k = .delayReq then
      d.getF Reg.TIME_STATUS F.TIME_STATUS_PHASE_SRC = 1 ∧ d.getF Reg.TIME_STATUS F.TIME_STATUS_PTP_PORT = p.val
    else ¬ (d.getF Reg.TIME_STATUS F.TIME_STATUS_PHASE_SRC = 1 ∧ d.getF Reg.TIME_STATUS F.TIME_STATUS_PTP_PORT = p.val) ∧ 1 ≤ d.timeRole))) :
    ptpMessageSendEffect p k d = d := by
  unfold ptpMessageSendEffect
  cases k
  all_goals
    refine if_pos (by_contra fun hn => h ?_)
    simpa [Nat.one_le_iff_ne_zero] using hn
theorem ptpMessageSend_sends {p : EthPort} {k : PtpKind} (h : d.ptpMode p ≠ 0 ∧ (if k = .delayReq then
      d.getF Reg.TIME_STATUS F.TIME_STATUS_PHASE_SRC = 1 ∧ d.getF Reg.TIME_STATUS F.TIME_STATUS_PTP_PORT = p.val
    else ¬ (d.getF Reg.TIME_STATUS F.TIME_STATUS_PHASE_SRC = 1 ∧ d.getF Reg.TIME_STATUS F.TIME_STATUS_PTP_PORT = p.val) ∧ 1 ≤ d.timeRole)) :
    ∃ body n, ptpMessageSendEffect p k d = (d.fresh.2).ethEnqueue p (if k = .announce then 3 else 2) body (some n) := by
  unfold ptpMessageSendEffect
  cases k
  all_goals exact ⟨_, _, if_neg (by simpa [Nat.one_le_iff_ne_zero] using h)⟩

/-- Settles O34: each source's command by what it makes of the clock, the time base and the events told. -/
theorem clockFollowsItsSources : Obligations.ClockFollowsItsSources := by
  unfold Obligations.ClockFollowsItsSources
  refine ⟨fun sub s hs => runs_ran rfl hs ?_, fun th s hs hd hp hr => ?_, fun p parent cls utc t1 t2 t3 t4 s hs hr => runs_ran rfl hs ?_,
    fun ten s hs hd => runs_ran rfl hs ?_, fun s hs hd => ⟨fun p hsrc hport hc => runs_ran rfl hs ?_, fun hsrc => runs_ran rfl hs ?_,
      fun hl => runs_ran rfl hs (if_pos hl), fun hl => runs_ran rfl hs (sourceLoss_reference hl)⟩,
    fun s hs hd => ⟨fun hc => runs_ran rfl hs ?_, fun hc => runs_ran rfl hs ?_, runs_ran rfl hs rfl⟩, fun p k s hs => ?_⟩
  · unfold ppsInEdgeEffect
    push_cast
    rfl
  · obtain ⟨jumps, holds, locks, loses⟩ := servoUpdate_pps_facts hd hp hr
    exact ⟨fun hb ha => runs_ran rfl hs (jumps hb ha), fun ha => runs_ran rfl hs (holds ha), fun hb hc hsm ht => runs_ran rfl hs (locks hb hc hsm ht),
      fun hb hc ht => runs_ran rfl hs (loses hb hc ht)⟩
  · exact if_pos (by simpa using hr)
  · obtain ⟨src, clock, quiet⟩ := freqEvaluate_facts (d := s.dev.modTime fun x => { x with ten := ten }) hd.modTime
    exact ⟨quiet.time, quiet.mem, src, clock, fun a ha => quiet.regs hd.modTime a ha⟩
  · exact sourceLoss_ptp_facts p hd hsrc hport hc
  · exact if_neg (by simpa using hsrc)
  · obtain ⟨late, mem⟩ := Dev.advanceTo_facts (d := s.dev) (n := s.dev.time.holdSince + s.dev.timeF 16 4 * 5000000000)
    rw [holdoverExpiry_ends hc]
    exact ⟨Dev.setClock_clock hd.advance (by decide), late.trans_eq Dev.setClock_clocked.now.symm, Dev.setClock_clocked.mem.trans mem⟩
  · exact if_pos (by simpa using hc)
  · refine ⟨fun h => runs_ran rfl hs (ptpMessageSend_held h), fun h => ?_⟩
    obtain ⟨body, n, sends⟩ := ptpMessageSend_sends h
    exact ⟨body, _, n, runs_ran rfl hs sends, rfl⟩

end Sys2Proof.Machine
end

section
/-! SUPPORT. Fronthaul links, ingress and transmission selection (R337, R338, R341). -/
namespace Sys2Proof.Machine

-- One proof after another: with many at once their threads' stacks exceed the memory that the check allows.
set_option Elab.async false

variable {d e u : Dev} {p : EthPort}

/-! ## Links -/

/-- A port's count shows as the counter's register does; an overflow is told besides. -/
theorem Dev.portCount_reg {g : GatePort} {r n b : Nat} {f : Fld} : (d.portCount g r f n).reg b = (d.count r f n).reg b := by
  unfold Dev.portCount
  extract_lets was w
  split
  · rfl
  · split <;> rfl
theorem Dev.portCount_getF {g : GatePort} {r n : Nat} {f : Fld} (hd : d.canon) (hf : Nat.ble (f.lo + f.w + 1) 64 = true)
    (hv : d.getF r f + n < 2 ^ f.w) : (d.portCount g r f n).getF r f = d.getF r f + n :=
  (congrArg (fieldOf f) Dev.portCount_reg).trans (Dev.getF_count r f n hd (Nat.le_of_ble_eq_true hf) hv)

theorem gpStatus_eth : gpStatus (.eth p) = Reg.ETH_PORT_STATUS p := by
  simp only [gpStatus, gpBase, Reg.ETH_PORT_CFG, Reg.ETH_PORT_STATUS]
  omega
theorem Dev.linkUp_eth : d.linkUp (.eth p) = d.getB (Reg.ETH_PORT_STATUS p) F.ETH_PORT_STATUS_LINK := by rw [Dev.linkUp, gpStatus_eth]

theorem Dev.raise_raised {c s o n : Nat} {x : BitVec 16} {q : EventRec → Prop} (he : e.ev = d.ev)
    (hq : q ⟨c, s, x, e.tickNo, e.now, BitVec.ofNat 32 o, BitVec.ofNat 64 n, false⟩) : d.raised (e.raise c s x o n) q :=
  ⟨_, hq, congrArg (insertEvent · _) (congrArg EvState.arisen he)⟩

theorem Dev.raise_says {c s o n : Nat} {x : BitVec 16} :
    ∃ r ∈ (d.raise c s x o n).ev.arisen, r.code = c ∧ r.object = BitVec.ofNat 32 o ∧ r.detail = BitVec.ofNat 64 n :=
  ⟨_, mem_insertEvent_self _ _, rfl, rfl, rfl⟩

theorem Dev.raise_linkUp {c s o n : Nat} {x : BitVec 16} {g : GatePort} : (d.raise c s x o n).linkUp g = d.linkUp g := rfl

theorem ethLinkDown_down {los : Nat} (hp : d.portOn (.eth p) = true) (hm : los % 2 ^ d.ethLanes p ≠ 0) (hl : d.linkUp (.eth p) = true) :
    ethLinkDownEffect p los d =
      ((d.setFs (Reg.ETH_PORT_STATUS p) [(F.ETH_PORT_STATUS_LINK, 0), (F.ETH_PORT_STATUS_LOS, los % 2 ^ d.ethLanes p)]).portCount (.eth p)
        (Reg.ETH_LINK_DOWN_COUNT p) F.ETH_LINK_DOWN_COUNT_COUNT 1).raise 0x9001 0xFF (gpUnit (.eth p)) p (los % 2 ^ d.ethLanes p * 2 ^ 8) := by
  rw [Dev.linkUp_eth] at hl
  exact (if_neg (by simpa [hp] using hm)).trans (if_neg (by simp [hl]))

/-- The registers after the loss: the link down with its mask, the loss counted. -/
theorem ethLinkDown_regs {m : Nat} (hd : d.canon) :
    let w := (d.setFs (Reg.ETH_PORT_STATUS p) [(F.ETH_PORT_STATUS_LINK, 0), (F.ETH_PORT_STATUS_LOS, m)]).portCount (.eth p)
        (Reg.ETH_LINK_DOWN_COUNT p) F.ETH_LINK_DOWN_COUNT_COUNT 1
    w.linkUp (.eth p) = false ∧ w.getF (Reg.ETH_PORT_STATUS p) F.ETH_PORT_STATUS_LOS = m % 2 ^ 8 ∧
    (d.getF (Reg.ETH_LINK_DOWN_COUNT p) F.ETH_LINK_DOWN_COUNT_COUNT < 2 ^ 32 - 1 →
      w.getF (Reg.ETH_LINK_DOWN_COUNT p) F.ETH_LINK_DOWN_COUNT_COUNT = d.getF (Reg.ETH_LINK_DOWN_COUNT p) F.ETH_LINK_DOWN_COUNT_COUNT + 1) := by
  have apart : Reg.ETH_PORT_STATUS p ≠ Reg.ETH_LINK_DOWN_COUNT p := by
    unfold Reg.ETH_PORT_STATUS Reg.ETH_LINK_DOWN_COUNT
    omega
  extract_lets w
  have status : w.reg (Reg.ETH_PORT_STATUS p) = (d.setFs (Reg.ETH_PORT_STATUS p) [(F.ETH_PORT_STATUS_LINK, 0), (F.ETH_PORT_STATUS_LOS, m)]).reg _ :=
    Dev.portCount_quiet.regs hd.setFs _ apart
  have counter : (d.setFs (Reg.ETH_PORT_STATUS p) [(F.ETH_PORT_STATUS_LINK, 0), (F.ETH_PORT_STATUS_LOS, m)]).getF (Reg.ETH_LINK_DOWN_COUNT p)
      F.ETH_LINK_DOWN_COUNT_COUNT = d.getF (Reg.ETH_LINK_DOWN_COUNT p) F.ETH_LINK_DOWN_COUNT_COUNT :=
    congrArg (fieldOf _) (Dev.reg_setFs_ne _ hd apart)
  refine ⟨?_, (congrArg (fieldOf _) status).trans (Dev.getF_setFs_mid (pre := [_]) hd rfl rfl), fun h => ?_⟩
  · rw [Dev.linkUp_eth, Dev.getB, Dev.getF, status]
    exact congrArg (· == 1) (Dev.getF_setFs_mid (pre := []) (post := [_]) hd rfl rfl)
  · exact (Dev.portCount_getF hd.setFs rfl (by rw [counter]; exact Nat.add_lt_of_lt_sub h)).trans (by rw [counter])

theorem ethLinkUp_up {n : Nat} (hp : d.portOn (.eth p) = true) (hl : d.linkUp (.eth p) = false) (hr : d.time.refLost = false) :
    ethLinkUpEffect p n d = ((d.setFs (Reg.ETH_PORT_STATUS p) [(F.ETH_PORT_STATUS_LINK, 1), (F.ETH_PORT_STATUS_LOS, 0)]).setF (Reg.TIME_PORT p) F.TIME_PORT_DESKEW
      (if (d.setFs (Reg.ETH_PORT_STATUS p) [(F.ETH_PORT_STATUS_LINK, 1), (F.ETH_PORT_STATUS_LOS, 0)]).ethLanes p == 1 then 0 else n)).raise
        0x9001 0xFF (gpUnit (.eth p)) p 1 := by
  rw [Dev.linkUp_eth] at hl
  exact if_neg (by simp [hp, hl, hr])

theorem Dev.ethLanes_of (h : e.reg (Reg.ETH_PORT_CFG p) = d.reg (Reg.ETH_PORT_CFG p)) : e.ethLanes p = d.ethLanes p :=
  congrArg (fun w => 2 ^ fieldOf F.ETH_PORT_CFG_LANES w) h

/-- The registers after the link comes up: the link and the measured skew of its lanes. -/
theorem ethLinkUp_regs {n m : Nat} (hd : d.canon) (hn : n < 2 ^ 16)
    (hm : m = if (d.setFs (Reg.ETH_PORT_STATUS p) [(F.ETH_PORT_STATUS_LINK, 1), (F.ETH_PORT_STATUS_LOS, 0)]).ethLanes p == 1 then 0 else n) :
    let w := (d.setFs (Reg.ETH_PORT_STATUS p) [(F.ETH_PORT_STATUS_LINK, 1), (F.ETH_PORT_STATUS_LOS, 0)]).setF (Reg.TIME_PORT p) F.TIME_PORT_DESKEW m
    w.linkUp (.eth p) = true ∧ w.getF (Reg.ETH_PORT_STATUS p) F.ETH_PORT_STATUS_LOS = 0 ∧
    w.getF (Reg.TIME_PORT p) F.TIME_PORT_DESKEW = (if d.ethLanes p = 1 then 0 else n) := by
  have apart : Reg.TIME_PORT p ≠ Reg.ETH_PORT_STATUS p := by
    have := p.isLt
    unfold Reg.ETH_PORT_STATUS Reg.TIME_PORT
    omega
  have lanes : (d.setFs (Reg.ETH_PORT_STATUS p) [(F.ETH_PORT_STATUS_LINK, 1), (F.ETH_PORT_STATUS_LOS, 0)]).ethLanes p = d.ethLanes p :=
    Dev.ethLanes_of (Dev.reg_setFs_ne _ hd (by unfold Reg.ETH_PORT_STATUS Reg.ETH_PORT_CFG; omega))
  rw [lanes] at hm
  extract_lets w
  have status : w.reg (Reg.ETH_PORT_STATUS p) = (d.setFs (Reg.ETH_PORT_STATUS p) [(F.ETH_PORT_STATUS_LINK, 1), (F.ETH_PORT_STATUS_LOS, 0)]).reg _ :=
    Dev.reg_setReg_ne _ hd.setFs apart
  refine ⟨?_, (congrArg (fieldOf _) status).trans (Dev.getF_setFs_mid (pre := [_]) hd rfl rfl), ?_⟩
  · rw [Dev.linkUp_eth, Dev.getB, Dev.getF, status]
    exact congrArg (· == 1) (Dev.getF_setFs_mid (pre := []) (post := [_]) hd rfl rfl)
  · have fits : m < 2 ^ F.TIME_PORT_DESKEW.w := by
      rw [hm]
      split
      · exact Nat.two_pow_pos _
      · exact hn
    exact (Dev.getF_setF_lt hd.setFs fits).trans (hm.trans (ite_congr (propext beq_iff_eq) (fun _ => rfl) fun _ => rfl))

/-! ## Transmission selection -/

/-- What a port's own upkeep leaves: the time, memory and what was sent. -/
def Dev.onWire (d : Dev) : Nat × SMap Byte × List Output := (d.now, d.mem, d.sent)
theorem Dev.onWire_iff : e.onWire = d.onWire ↔ e.now = d.now ∧ e.mem = d.mem ∧ e.sent = d.sent := by
  rw [Dev.onWire, Dev.onWire, Prod.mk.injEq, Prod.mk.injEq]
theorem Dev.Quiet.onWire {q : Nat → Prop} (h : Dev.Quiet q d e) : e.onWire = d.onWire := (congrArg Dev.onWire h.rest :)
theorem Dev.setPort_onWire {g : GatePort} {x : PortState} : (d.setPort g x).onWire = d.onWire := rfl
theorem Dev.setFs_onWire {a : Nat} {l : List (Fld × Nat)} : (d.setFs a l).onWire = d.onWire := by
  simp only [Dev.onWire, Dev.setFs_now, Dev.setFs_mem, Dev.setFs_sent]
theorem Dev.portCount_onWire {g : GatePort} {r n : Nat} {f : Fld} : (d.portCount g r f n).onWire = d.onWire := Dev.portCount_quiet.onWire

theorem Dev.portSync_onWire {g : GatePort} : (d.portSync g).onWire = d.onWire := by
  unfold Dev.portSync
  extract_lets w x
  have kept : w.onWire = d.onWire := foldl_keeps Dev.onWire (fun d q => by
    rw [Dev.setFs_onWire]
    split <;> exact Dev.setPort_onWire) _ _
  clear_value w
  split
  · exact Dev.setPort_onWire.trans kept
  · exact kept
theorem Dev.ethDiscard_onWire {k q : Nat} : (d.ethDiscard p k q).onWire = d.onWire := by
  unfold Dev.ethDiscard
  extract_lets g r w
  have counted : w.onWire = d.onWire := Dev.portCount_onWire
  clear_value w
  split
  · exact counted
  · exact counted
theorem Dev.dropAged_onWire {q n : Nat} : (Dev.dropAged p q n d).onWire = d.onWire := by
  induction n generalizing d with
  | zero => rfl
  | succ n ih =>
    unfold Dev.dropAged
    extract_lets g lim x y
    split
    · rfl
    · split
      · rfl
      · exact ih.trans Dev.ethDiscard_onWire
theorem Dev.ethBoundary_sent : (d.ethBoundary p).sent = d.sent ∧ (d.ethBoundary p).mem = d.mem := by
  have kept : (d.ethBoundary p).onWire = (d.advanceTo (d.port (.eth p)).busyUntil).onWire :=
    (foldl_keeps Dev.onWire (fun _ _ => Dev.dropAged_onWire) _ _).trans Dev.portSync_onWire
  obtain ⟨-, mem, sent⟩ := Dev.onWire_iff.1 kept
  exact ⟨sent.trans (d.advance_sent _), mem.trans (d.advance_mem _)⟩

/-- The device as the first frame of a queue leaves it, before it is sent. -/
def Dev.ethTaken (d : Dev) (p : EthPort) (q : Nat) (i : TxItem) (r : List TxItem) : Dev :=
  let g := GatePort.eth p
  let x := d.port g
  let y := x.queue q
  let n := d.wireBytes p i.body
  let x := { x.setQueue q { y with items := r, at_ := d.now } with sending := some q, busyUntil := d.now + ceilDiv ((n + 20) * 40) (d.portRate g) }
  ((d.setPort g x).portCount g (Reg.ETH_TX_FRAMES p) F.ETH_TX_FRAMES_COUNT 1).portCount g (Reg.ETH_TX_BYTES p) F.ETH_TX_BYTES_COUNT n
/-- The frame sent, and the message whose sending it reports. -/
def Dev.ethSends (d : Dev) (p : EthPort) (q : Nat) (i : TxItem) : Dev :=
  let d := d.send (.ethFrame p q (d.tagged p q i.body))
  match i.ptp with
  | some k => d.send (.ptp p k (d.now * 200 + phyTx (d.getF (Reg.ETH_PORT_CFG p) F.ETH_PORT_CFG_RATE)))
  | none => d

theorem Dev.ethTransmit_eq {q : Nat} {i : TxItem} {r : List TxItem} (h : ((d.port (.eth p)).queue q).items = i :: r) :
    d.ethTransmit p q = ((d.ethTaken p q i r).ethSends p q i).portSync (.eth p) := by
  unfold Dev.ethTransmit
  simp only [h]
  rfl

theorem Dev.portCounts_facts {a b m n : Nat} {f f' : Fld} {g : GatePort} {x : PortState} (hd : d.canon) (ha : Reg.ETH_PORT_CFG p ≠ a)
    (hb : Reg.ETH_PORT_CFG p ≠ b) :
    let w := ((d.setPort g x).portCount g a f m).portCount g b f' n
    w.onWire = d.onWire ∧ w.cfg = d.cfg ∧ w.reg (Reg.ETH_PORT_CFG p) = d.reg (Reg.ETH_PORT_CFG p) := by
  have first : Dev.Quiet (· = a) (d.setPort g x) ((d.setPort g x).portCount g a f m) := Dev.portCount_quiet
  have second : Dev.Quiet (· = b) _ (((d.setPort g x).portCount g a f m).portCount g b f' n) := Dev.portCount_quiet
  have cfg : ((d.setPort g x).portCount g a f m).cfg = (d.setPort g x).cfg := (congrArg Dev.cfg first.rest :)
  exact ⟨second.onWire.trans first.onWire, (congrArg Dev.cfg second.rest :).trans cfg,
    (second.regs (first.keeps hd.setPort) _ hb).trans (first.regs hd.setPort _ ha)⟩
theorem Dev.ethTaken_facts {q : Nat} {i : TxItem} {r : List TxItem} (hd : d.canon) : (d.ethTaken p q i r).onWire = d.onWire ∧
    (d.ethTaken p q i r).cfg = d.cfg ∧ (d.ethTaken p q i r).reg (Reg.ETH_PORT_CFG p) = d.reg (Reg.ETH_PORT_CFG p) := by
  refine Dev.portCounts_facts hd ?_ ?_
  · unfold Reg.ETH_PORT_CFG Reg.ETH_TX_FRAMES
    omega
  · unfold Reg.ETH_PORT_CFG Reg.ETH_TX_BYTES
    omega

theorem Dev.tagged_of {q : Nat} {b : Bytes} (hc : e.cfg = d.cfg) (hr : e.reg (Reg.ETH_PORT_CFG p) = d.reg (Reg.ETH_PORT_CFG p)) :
    e.tagged p q b = d.tagged p q b := by
  have tag : e.vlanTag p = d.vlanTag p := congrArg (fieldOf F.ETH_PORT_CFG_VLAN_TAG · == 1) hr
  have vid : e.getF (Reg.ETH_PORT_CFG p) F.ETH_PORT_CFG_VID = d.getF (Reg.ETH_PORT_CFG p) F.ETH_PORT_CFG_VID := congrArg (fieldOf _) hr
  rw [Dev.tagged, Dev.tagged, tag, vid, Dev.portRec, Dev.portRec, Dev.section_of hc]

theorem Dev.ethSends_facts {q : Nat} {i : TxItem} : (d.ethSends p q i).now = d.now ∧ (d.ethSends p q i).mem = d.mem ∧
    (d.ethSends p q i).sent = d.sent ++ (.ethFrame p q (d.tagged p q i.body) ::
      i.ptp.toList.map fun k => .ptp p k (d.now * 200 + phyTx (d.getF (Reg.ETH_PORT_CFG p) F.ETH_PORT_CFG_RATE))) := by
  unfold Dev.ethSends
  cases i.ptp with
  | none => exact ⟨rfl, rfl, rfl⟩
  | some k => exact ⟨rfl, rfl, List.append_assoc d.sent [_] [_]⟩

/-- A transmission sends the queue's head whole. -/
theorem Dev.ethTransmit_facts {q : Nat} {i : TxItem} {r : List TxItem} (hd : d.canon) (h : ((d.port (.eth p)).queue q).items = i :: r) :
    (d.ethTransmit p q).mem = d.mem ∧ (d.ethTransmit p q).now = d.now ∧
    (d.ethTransmit p q).sent = d.sent ++ (.ethFrame p q (d.tagged p q i.body) ::
      i.ptp.toList.map fun k => .ptp p k (d.now * 200 + phyTx (d.getF (Reg.ETH_PORT_CFG p) F.ETH_PORT_CFG_RATE))) := by
  obtain ⟨wire, cfg, reg⟩ := Dev.ethTaken_facts (p := p) (q := q) (i := i) (r := r) hd
  rw [Dev.ethTransmit_eq h]
  generalize d.ethTaken p q i r = w at *
  obtain ⟨now, mem, sent⟩ := Dev.ethSends_facts (d := w) (p := p) (q := q) (i := i)
  obtain ⟨now', mem', sent'⟩ := Dev.onWire_iff.1 wire
  obtain ⟨now'', mem'', sent''⟩ := Dev.onWire_iff.1 (Dev.portSync_onWire (d := w.ethSends p q i) (g := .eth p))
  refine ⟨mem''.trans (mem.trans mem'), now''.trans (now.trans now'), sent''.trans (sent.trans ?_)⟩
  rw [Dev.tagged_of cfg reg, now', sent', Dev.getF, reg, ← Dev.getF]

/-- The highest-numbered queue that is ready is the one selected. -/
theorem find_highest {f : Nat → Bool} {q : Nat} (hq : q < 8) (h : f q = true) (hh : ∀ q' < 8, q < q' → f q' = false) :
    [7, 6, 5, 4, 3, 2, 1, 0].find? f = some q := by
  have above (n : Nat) (hn : n < 8) : f n = if n = q then true else if q < n then false else f n := by
    split
    · next h' => rw [h', h]
    · split
      · next h' => exact hh n hn h'
      · rfl
  have q_cases : q = 7 ∨ q = 6 ∨ q = 5 ∨ q = 4 ∨ q = 3 ∨ q = 2 ∨ q = 1 ∨ q = 0 := by omega
  rcases q_cases with rfl | rfl | rfl | rfl | rfl | rfl | rfl | rfl <;>
    simp [above 7, above 6, above 5, above 4, above 3, above 2, above 1, above 0]
theorem find_no {f : Nat → Bool} (hh : ∀ q < 8, f q = false) : [7, 6, 5, 4, 3, 2, 1, 0].find? f = none :=
  List.find?_eq_none.2 fun q hq => by
    rw [hh q (by simp only [List.mem_cons, List.not_mem_nil, or_false] at hq; omega)]
    exact Bool.false_ne_true

/-- The highest queue that is ready transmits; with none the port is only brought up to date. -/
def Dev.ethSelected (d : Dev) (p : EthPort) : Dev :=
  match [7, 6, 5, 4, 3, 2, 1, 0].find? (d.ethReady p) with
  | some q => d.ethTransmit p q
  | none => d.portSync (.eth p)
theorem ethTxSelect_up (hp : d.portOn (.eth p) = true) (hl : d.linkUp (.eth p) = true) : ethTxSelectEffect p d = (d.ethBoundary p).ethSelected p := by
  unfold ethTxSelectEffect
  simp only [hp, hl, Bool.not_true, Bool.or_self, Bool.false_eq_true, if_false]
  generalize d.ethBoundary p = w
  unfold Dev.ethSelected
  cases [7, 6, 5, 4, 3, 2, 1, 0].find? (w.ethReady p) <;> rfl
theorem Dev.ethSelected_none (h : ∀ q < 8, d.ethReady p q = false) : d.ethSelected p = d.portSync (.eth p) := by rw [Dev.ethSelected, find_no h]
theorem Dev.ethSelected_some {q : Nat} (hq : q < 8) (h : d.ethReady p q = true) (hh : ∀ q' < 8, q < q' → d.ethReady p q' = false) :
    d.ethSelected p = d.ethTransmit p q := by rw [Dev.ethSelected, find_highest hq h hh]
theorem ethTxSelect_off (h : ¬ (d.portOn (.eth p) = true ∧ d.linkUp (.eth p) = true)) : ethTxSelectEffect p d = d := by
  unfold ethTxSelectEffect
  rw [if_pos]
  cases hp : d.portOn (.eth p)
  · rfl
  · rw [Bool.not_eq_true _ |>.mp fun hl => h ⟨hp, hl⟩]
    rfl

/-! ## Ingress -/

/-- The frames a port takes in, by the first check that each fails. -/
theorem ethFrameReceive_cases {f : Bytes} {fcsOk room : Bool} :
    let up := d.portOn (.eth p) = true ∧ d.linkUp (.eth p) = true
    let does := fun e => ethFrameReceiveEffect p f fcsOk room d = e
    let count := fun r => d.portCount (.eth p) r F.ETH_RX_FCS_COUNT 1
    let short := f.length < 64 ∨ d.getF (Reg.ETH_PORT_CFG p) F.ETH_PORT_CFG_MTU < f.length
    let other := d.tagsOk p (Config.etherTags f) = false ∨ frameClass f = 0 ∨ (d.recipe.ahead = true ∧ frameClass f = 1)
    let good := (d.portCount (.eth p) (Reg.ETH_RX_FRAMES p) F.ETH_RX_FRAMES_COUNT 1).portCount (.eth p) (Reg.ETH_RX_BYTES p) F.ETH_RX_BYTES_COUNT f.length
    (¬ up → does d) ∧ (up → fcsOk = false → does (count (Reg.ETH_RX_FCS p))) ∧
    (up → fcsOk = true → short → does (count (Reg.ETH_RX_LENGTH p))) ∧
    (up → fcsOk = true → ¬ short → other → does (count (Reg.ETH_RX_OTHER p))) ∧
    (up → fcsOk = true → ¬ short → ¬ other → room = false → does (count (Reg.ETH_RX_LANDING_DROP p))) ∧
    (up → fcsOk = true → ¬ short → ¬ other → room = true →
      (frameClass f = 1 → does (good.uplaneIn p f)) ∧ (frameClass f = 2 → does good) ∧
      (frameClass f = 3 → does { good with time := { good.time with esmc := store (0, false) good.time.esmc p (good.now + 1, Config.esmcDnu f) } })) := by
  intro up does count short other good
  have down : (!d.portOn (.eth p) || !d.linkUp (.eth p)) = true ↔ ¬ up := by
    simp only [up, Bool.or_eq_true, Bool.not_eq_true', ← Bool.not_eq_true]
    exact Decidable.not_and_iff_or_not.symm
  have shorts : (decide (f.length < 64) || decide (f.length > d.getF (Reg.ETH_PORT_CFG p) F.ETH_PORT_CFG_MTU)) = true ↔ short := by
    simp only [short, Bool.or_eq_true, decide_eq_true_eq, gt_iff_lt]
  have others : (!d.tagsOk p (Config.etherTags f) || frameClass f == 0 || (d.recipe.ahead && frameClass f == 1)) = true ↔ other := by
    simp only [other, Bool.or_eq_true, Bool.and_eq_true, Bool.not_eq_true', beq_iff_eq, or_assoc]
  unfold does ethFrameReceiveEffect
  extract_lets g bad w
  refine ⟨fun h => if_pos (down.2 h), fun h hf => ?_, fun h hf hs => ?_, fun h hf hs ho => ?_, fun h hf hs ho hr => ?_, fun h hf hs ho hr => ?_⟩ <;>
    rw [if_neg (fun h' => down.1 h' h), hf]
  · rfl
  · exact if_pos (shorts.2 hs)
  · exact (if_neg fun h' => hs (shorts.1 h')).trans (if_pos (others.2 ho))
  · rw [hr]
    exact (if_neg fun h' => hs (shorts.1 h')).trans (if_neg fun h' => ho (others.1 h'))
  · have passes : ¬ (!true) = true := Bool.false_ne_true
    rw [hr, if_neg passes, if_neg (fun h' => hs (shorts.1 h')), if_neg (fun h' => ho (others.1 h')), if_neg passes]
    refine ⟨fun hc => ?_, fun hc => ?_, fun hc => ?_⟩ <;> rw [hc] <;> rfl

/-- Settles O35: links by their registers and events, ingress by its checks in their order, selection by the highest queue that is ready. -/
theorem fronthaulPortsLinkReceiveAndSend : Obligations.FronthaulPortsLinkReceiveAndSend := by
  unfold Obligations.FronthaulPortsLinkReceiveAndSend
  refine ⟨fun p los s hs hd => ?_, fun p n s hs hd => ?_, fun p f fcsOk room s hs => ?_, fun p s hs hd => ?_⟩
  · refine ⟨fun hp hm hl => runs_ran rfl hs ?_, fun h => runs_ran rfl hs (if_pos ?_)⟩
    · have quiet := ethLinkDown_quiet (d := s.dev) (p := p) (los := los.toNat)
      obtain ⟨link, mask, count⟩ := ethLinkDown_regs (p := p) (m := los.toNat % 2 ^ s.dev.ethLanes p) hd
      refine ⟨?_, ?_, fun h => ?_, quiet.regs hd, quiet.mem, (congrArg Dev.ports quiet.rest :), ?_⟩ <;> rw [ethLinkDown_down hp hm hl]
      · exact Dev.raise_linkUp.trans link
      · exact (Dev.raise_getF ..).trans mask
      · exact (Dev.raise_getF ..).trans (count h)
      · exact Dev.raise_says
    · rcases h with h | h <;> simp [h]
  · refine ⟨fun hp hl hr => runs_ran rfl hs ?_, fun h => runs_ran rfl hs (if_pos ?_)⟩
    · rw [ethLinkUp_up hp hl hr]
      obtain ⟨link, mask, skew⟩ := ethLinkUp_regs (p := p) hd n.isLt rfl
      refine ⟨Dev.raise_linkUp.trans link, (Dev.raise_getF ..).trans mask, (Dev.raise_getF ..).trans skew, fun a ha => ?_, by rw [Dev.raise_mem, Dev.setF_mem, Dev.setFs_mem],
        Dev.raise_raised (by rw [Dev.setF_ev, Dev.setFs_ev]) ⟨rfl, rfl, rfl⟩⟩
      rw [Dev.raise_reg]
      exact (Dev.reg_setReg_ne _ hd.setFs fun h => ha (.inr h.symm)).trans (Dev.reg_setFs_ne _ hd fun h => ha (.inl h.symm))
    · rw [Dev.linkUp_eth] at h
      rcases h with h | h | h <;> simp [h]
  · obtain ⟨off, fcs, short, other, full, good⟩ := ethFrameReceive_cases (d := s.dev) (p := p) (f := f) (fcsOk := fcsOk) (room := room)
    exact ⟨fun h => runs_ran rfl hs (off h), fun h hf => runs_ran rfl hs (fcs h hf), fun h hf hl => runs_ran rfl hs (short h hf hl),
      fun h hf hl ho => runs_ran rfl hs (other h hf hl ho), fun h hf hl ho hr => runs_ran rfl hs (full h hf hl ho hr), fun h hf hl ho hr =>
      ⟨fun hc => runs_ran rfl hs ((good h hf hl ho hr).1 hc), fun hc => runs_ran rfl hs ((good h hf hl ho hr).2.1 hc),
        fun hc => runs_ran rfl hs ((good h hf hl ho hr).2.2 hc)⟩⟩
  · obtain ⟨sent, mem⟩ := Dev.ethBoundary_sent (d := s.dev) (p := p)
    refine ⟨fun h => runs_ran rfl hs (ethTxSelect_off h), fun h hq => runs_ran rfl hs ?_, fun q i r h hq hr hh hi => runs_ran rfl hs ?_⟩
    · rw [ethTxSelect_up h.1 h.2, Dev.ethSelected_none hq]
      obtain ⟨now', mem', sent'⟩ := Dev.onWire_iff.1 (Dev.portSync_onWire (d := s.dev.ethBoundary p) (g := .eth p))
      exact ⟨sent'.trans sent, mem'.trans mem, now'⟩
    · rw [ethTxSelect_up h.1 h.2, Dev.ethSelected_some hq hr hh]
      obtain ⟨mem', now', sent'⟩ := Dev.ethTransmit_facts hd.ethBoundary hi
      exact ⟨mem'.trans mem, now', sent'.trans (by rw [sent])⟩


end Sys2Proof.Machine
end

section
/-! SUPPORT. Issue, waiting and fences of Braid operations (R352, R363, R365, R367, R372, R378). -/
namespace Sys2Proof.Machine

-- One proof after another: with many at once their threads' stacks exceed the memory that the check allows.
set_option Elab.async false

variable {d e u : Dev} {i : BitVec 16} {a : BraidAsk} {ok : AskKind → Bool}

/-! ## Registers that show, and ends that go to an issuer -/

theorem Dev.Quiet.braid {p : Nat → Prop} (h : Dev.Quiet p d e) : e.braid = d.braid := (congrArg Dev.braid h.rest :)
theorem Dev.Quiet.asks {p : Nat → Prop} (h : Dev.Quiet p d e) : e.asks = d.asks := (congrArg Dev.asks h.rest :)
theorem Dev.write_braid {n : Nat} {l : Bytes} : (d.write n l).braid = d.braid := (congrArg Dev.braid (d.write_rest n l) :)

/-- The registers that the fabric shows itself in. -/
def Reg.braidShown (a : Nat) : Prop := a = Reg.BRAID_PAIR_STATE ∨ a = Reg.BRAID_PUT_STATUS ∨ a = Reg.BRAID_INFLIGHT
theorem Dev.braidShow_quiet : Dev.Quiet Reg.braidShown d d.braidShow :=
  ((Dev.Quiet.refl.setFs (.inl rfl)).setFs (.inr (.inl rfl))).setFs (.inr (.inr rfl))
theorem Dev.braidShow_braid : d.braidShow.braid = d.braid := Dev.braidShow_quiet.braid
theorem Dev.braidShow_asks : d.braidShow.asks = d.asks := Dev.braidShow_quiet.asks
theorem Dev.braidShow_ev : d.braidShow.ev = d.ev := by
  unfold Dev.braidShow
  extract_lets n p w q w' c
  rw [Dev.setFs_ev, Dev.setFs_ev, Dev.setFs_ev]

/-- The operations in flight, what was sent and the pairs. -/
def BraidState.traffic (b : BraidState) : List BraidOp × List Bytes × SMap BraidSrc := (b.ops, b.outbox, b.pairs)
def Dev.traffic (d : Dev) : List BraidOp × List Bytes × SMap BraidSrc := d.braid.traffic

theorem Dev.triggerHere_traffic {s c : Nat} : (d.triggerHere s c).traffic = d.traffic := by
  unfold Dev.triggerHere Dev.trigger
  split
  · rfl
  · rfl
theorem Dev.landingSignal_traffic {t c n : Nat} {sl : Option Nat} {src : BitVec 16} : (d.landingSignal t c n sl src).traffic = d.traffic := by
  unfold Dev.landingSignal
  extract_lets p room w w'
  split
  · rfl
  · rfl
theorem Dev.putEnd_traffic {tag st : Nat} : (d.putEnd tag st).traffic = d.traffic := by
  unfold Dev.putEnd
  split
  · rfl
  · extract_lets st rest w
    split
    · rfl
    · split
      · rfl
      · extract_lets w'
        have kept : w'.traffic = d.traffic := by
          unfold w'
          split
          · exact Dev.landingSignal_traffic
          · rfl
        clear_value w'
        split
        · exact kept
        · exact kept
theorem Dev.tierBraidEnd_traffic {t tag st n : Nat} : (d.tierBraidEnd t tag st n).traffic = d.traffic := by
  unfold Dev.tierBraidEnd
  split
  · rfl
  · split
    · rfl
    · rfl
theorem Dev.issuerEnd_traffic {tag st n : Nat} : (d.issuerEnd i tag st n).traffic = d.traffic := by
  unfold Dev.issuerEnd
  split
  · exact Dev.putEnd_traffic
  · split
    · exact Dev.tierBraidEnd_traffic
    · rfl
theorem Dev.issuerEnd_steward {tag st n : Nat} : d.issuerEnd systemSteward tag st n = d :=
  (if_neg (by decide)).trans (if_neg (by decide))

/-! ## The first ask of an issuer -/

/-- The issuer's first ask is taken: it leaves the list, and its issuer the waiters. -/
def Dev.askTaken (d : Dev) (issuer : BitVec 16) : Dev :=
  { d.modBraid fun x => { x with waiters := x.waiters.filter (· != issuer) } with asks := dropAsk issuer d.asks }

theorem issueAsk_none (h : d.asks.find? (fun x => x.issuer == i) = none) : d.issueAsk i ok = d := by
  unfold Dev.issueAsk
  rw [h]

theorem ask_issuer (h : d.asks.find? (fun x => x.issuer == i) = some a) : a.issuer = i := beq_iff_eq.1 (List.find?_some h :)

/-- A read or write that ends at once with a status. -/
def Dev.askEnds (d : Dev) (a : BraidAsk) (st : Nat) : Dev :=
  let w := d.askTaken a.issuer
  let w := if a.kind == .read then w.write a.place (List.replicate 64 0xFF#8) else
    w.modBraid fun x => { x with failed := if st == 0 then x.failed else x.failed ++ [(a.issuer, (w.pair (w.askAlias a % 4096)).next, st)] }
  let w := if st == 8 || st == 9 then w.triggerHere a.slice 1 else w
  (w.issuerEnd a.issuer a.tag st a.addr).braidShow
theorem issueAsk_ends {st : Nat} (h : d.asks.find? (fun x => x.issuer == i) = some a) (hok : ok a.kind = true) (hk : a.kind ≠ .fence)
    (hs : d.askStatus a = some st) : d.issueAsk i ok = d.askEnds a st := by
  have fence : (a.kind == AskKind.fence) = false := beq_eq_false_iff_ne.2 hk
  obtain rfl := ask_issuer h
  unfold Dev.issueAsk
  simp only [h, hok, fence, hs, Bool.not_true, Bool.false_eq_true, if_false]
  rfl
theorem askEnds_traffic {st : Nat} : (d.askEnds a st).traffic = d.traffic := by
  unfold Dev.askEnds
  extract_lets w w' w2
  have taken : w'.traffic = d.traffic := by
    unfold w'
    split
    · exact (congrArg BraidState.traffic Dev.write_braid).trans rfl
    · rfl
  have triggered : w2.traffic = w'.traffic := by
    unfold w2
    split
    · exact Dev.triggerHere_traffic
    · rfl
  exact ((congrArg BraidState.traffic Dev.braidShow_braid).trans Dev.issuerEnd_traffic).trans (triggered.trans taken)

theorem issueAsk_waits (h : d.asks.find? (fun x => x.issuer == i) = some a) (hok : ok a.kind = true) (hk : a.kind ≠ .fence)
    (hs : d.askStatus a = none) (hw : d.mustWait a = true) : d.issueAsk i ok =
      { d with braid := { d.braid with waiters := if i ∈ d.braid.waiters then d.braid.waiters else d.braid.waiters ++ [i] } } := by
  have fence : (a.kind == AskKind.fence) = false := beq_eq_false_iff_ne.2 hk
  unfold Dev.issueAsk
  simp only [h, hok, fence, hs, hw, Bool.not_true, Bool.false_eq_true, if_false, Bool.true_or, if_true, List.contains_iff_mem]
  split
  · rfl
  · rfl
theorem issueAsk_sends (h : d.asks.find? (fun x => x.issuer == i) = some a) (hok : ok a.kind = true) (hk : a.kind ≠ .fence)
    (hs : d.askStatus a = none) (hw : d.mustWait a = false) (hn : d.inflight + 1 < 4096) : d.issueAsk i ok = ((d.askTaken i).opSend a).braidShow := by
  have fence : (a.kind == AskKind.fence) = false := beq_eq_false_iff_ne.2 hk
  have room : decide (d.inflight + 1 ≥ 4096) = false := decide_eq_false (Nat.not_le_of_lt hn)
  unfold Dev.issueAsk
  simp only [h, hok, fence, hs, hw, room, Bool.not_true, Bool.false_eq_true, if_false, Bool.false_or, Bool.false_and]
  rfl

/-! ## Sending -/

/-- The operation that an ask sends. -/
def Dev.opOf (d : Dev) (a : BraidAsk) : BraidOp :=
  let n := d.askAlias a % 4096
  let read := a.kind == .read
  ⟨d.braid.nextId, a.issuer, a.tag, a.slice, a.kind, a.addr, n, if read then d.freeTag else (d.pair n).next,
    if read then look 0 d.braid.gens d.freeTag else 0, a.queue, a.data, a.place, a.flagCtr, d.now, d.now⟩

/-- What sending changes of a pair. -/
def Dev.pairSent (d : Dev) (a : BraidAsk) : BraidSrc :=
  let p := d.pair (d.askAlias a % 4096)
  { p with next := if a.kind == .read then p.next else (p.next + 1) % 2 ^ 32, credits := p.credits - 1 }
/-- The operation in flight, before its packet is sent. -/
def Dev.opFlown (d : Dev) (a : BraidAsk) : Dev :=
  (d.setPair (d.askAlias a % 4096) (d.pairSent a)).modBraid fun x => { x with
    ops := x.ops ++ [d.opOf a]
    nextId := x.nextId + 1
    gens := if a.kind == .read then store 0 x.gens d.freeTag ((look 0 x.gens d.freeTag + 1) % 256) else x.gens }
theorem Dev.opSend_eq : ∃ more, d.opSend a = (d.opFlown a).braidOut ((d.opFlown a).opPacket (d.opOf a) more) := ⟨_, rfl⟩
theorem Dev.opPacket_of {o : BraidOp} {more : Bool} (h : e.regs = d.regs) : e.opPacket o more = d.opPacket o more := by
  have base (ty n : Nat) : e.hdrBase ty n = d.hdrBase ty n := by simp only [Dev.hdrBase, Dev.braidNode, Dev.getF, Dev.reg, h]
  simp only [Dev.opPacket, base]
theorem Dev.braidOut_braid {p : Bytes} : (d.braidOut p).braid = { d.braid with outbox := d.braid.outbox ++ [p] } := rfl
/-- All but the fabric's state. -/
structure Dev.SameOff (d e : Dev) : Prop where
  regs : e.regs = d.regs
  asks : e.asks = d.asks
  mem : e.mem = d.mem
  now : e.now = d.now
  ctrs : e.ctrs = d.ctrs
  ev : e.ev = d.ev
theorem Dev.modBraid_off {f : BraidState → BraidState} : Dev.SameOff d (d.modBraid f) := ⟨rfl, rfl, rfl, rfl, rfl, rfl⟩
theorem Dev.SameOff.trans (h : Dev.SameOff d e) (h' : Dev.SameOff e u) : Dev.SameOff d u :=
  ⟨h'.regs.trans h.regs, h'.asks.trans h.asks, h'.mem.trans h.mem, h'.now.trans h.now, h'.ctrs.trans h.ctrs, h'.ev.trans h.ev⟩

theorem Dev.opSend_facts : Dev.SameOff d (d.opSend a) ∧ (d.opSend a).braid.ops = d.braid.ops ++ [d.opOf a] ∧
    (d.opSend a).braid.pairs = store BraidSrc.init d.braid.pairs (d.askAlias a % 4096) (d.pairSent a) ∧
    ∃ more, (d.opSend a).braid.outbox = d.braid.outbox ++ [d.opPacket (d.opOf a) more] := by
  have flown : Dev.SameOff d (d.opFlown a) := Dev.modBraid_off.trans Dev.modBraid_off
  obtain ⟨more, sends⟩ := Dev.opSend_eq (d := d) (a := a)
  rw [sends, Dev.opPacket_of flown.regs, Dev.braidOut_braid]
  exact ⟨flown.trans Dev.modBraid_off, rfl, rfl, more, rfl⟩

/-- A taken ask sends what it would have sent. -/
theorem Dev.askTaken_facts : (d.askTaken i).opOf a = d.opOf a ∧ (d.askTaken i).pairSent a = d.pairSent a ∧ (d.askTaken i).askAlias a = d.askAlias a := by
  refine ⟨?_, ?_, ?_⟩
  · rfl
  · rfl
  · rfl

/-- One operation enters flight for an ask: a credit and a sequence number or tag, and one packet. -/
theorem issueAsk_sent (hd : d.canon) (h : d.asks.find? (fun x => x.issuer == i) = some a) (hok : ok a.kind = true) (hk : a.kind ≠ .fence)
    (hs : d.askStatus a = none) (hw : d.mustWait a = false) (hn : d.inflight + 1 < 4096) :
    let e := d.issueAsk i ok
    e.braid.ops = d.braid.ops ++ [d.opOf a] ∧ (d.opOf a).issuer = i ∧ e.pair (d.askAlias a % 4096) = d.pairSent a ∧
      (∃ more, e.braid.outbox = d.braid.outbox ++ [d.opPacket (d.opOf a) more]) ∧
      e.asks = dropAsk i d.asks ∧ e.mem = d.mem ∧ e.now = d.now ∧ e.ctrs = d.ctrs ∧ e.ev = d.ev := by
  rw [issueAsk_sends h hok hk hs hw hn]
  have quiet := Dev.braidShow_quiet (d := (d.askTaken i).opSend a)
  obtain ⟨off, ops, pairs, more, outbox⟩ := Dev.opSend_facts (d := d.askTaken i) (a := a)
  obtain ⟨op, sent, node⟩ := Dev.askTaken_facts (d := d) (i := i) (a := a)
  rw [op] at ops outbox
  rw [sent, node] at pairs
  refine ⟨(congrArg (·.ops) Dev.braidShow_braid).trans ops, ask_issuer h, ?_, ⟨more, ((congrArg (·.outbox) Dev.braidShow_braid).trans outbox).trans ?_⟩,
    quiet.asks.trans off.asks, quiet.mem.trans off.mem, quiet.now.trans off.now, quiet.ctrs.trans off.ctrs, Dev.braidShow_ev.trans off.ev⟩
  · rw [Dev.pair, Dev.braidShow_braid, pairs]
    exact look_store_self (SMap.wf_rising (Dev.canon_pairs hd))
  · rw [Dev.opPacket_of (d := d) rfl]
    rfl

/-! ## Fences -/

/-- A fence before those that wait for nothing are completed. -/
def Dev.fenceAdded (d : Dev) (a : BraidAsk) : Dev :=
  (d.askTaken a.issuer).modBraid fun x => { x with
    fences := x.fences ++ [⟨a.issuer, a.tag, (d.braid.ops.filter fun o => o.issuer == a.issuer && o.isWrite).map (·.id),
      (d.braid.failed.filter fun f => f.1 == a.issuer).foldl (fun b f => worse b f.2.1 f.2.2) none⟩]
    failed := x.failed.filter fun f => f.1 != a.issuer }
theorem issueAsk_fence (h : d.asks.find? (fun x => x.issuer == i) = some a) (hok : ok a.kind = true) (hk : a.kind = .fence) :
    d.issueAsk i ok = (d.fenceAdded a).fencesDone.braidShow := by
  obtain rfl := ask_issuer h
  unfold Dev.issueAsk
  simp only [h, hok, Bool.not_true, Bool.false_eq_true, if_false]
  rw [hk]
  rfl

/-- A fence that waits for something keeps waiting. -/
theorem Dev.fencesDone_waiting (h : ∀ f ∈ d.braid.fences, f.ids ≠ []) : d.fencesDone = d := by
  have keeps : d.braid.fences.filter (fun f => !f.ids.isEmpty) = d.braid.fences :=
    List.filter_eq_self.2 fun f hf => by simpa using h f hf
  have none_ends : d.braid.fences.filter (fun f => f.ids.isEmpty) = [] :=
    List.filter_eq_nil_iff.2 fun f hf => by simpa using h f hf
  unfold Dev.fencesDone
  rw [none_ends, Dev.modBraid, keeps]
  rfl
/-- A steward's fence that is last and waits for nothing ends. -/
theorem Dev.fencesDone_last {l : List BraidFence} {tag : Nat} {bad : Option (Nat × Nat)} (h : d.braid.fences = l ++ [⟨systemSteward, tag, [], bad⟩])
    (hl : ∀ f ∈ l, f.ids ≠ []) : d.fencesDone = d.modBraid fun x => { x with fences := l } := by
  have keeps : d.braid.fences.filter (fun f => !f.ids.isEmpty) = l := by
    rw [h, List.filter_append, List.filter_eq_self.2 fun f hf => by simpa using hl f hf]
    exact List.append_nil l
  have ends : d.braid.fences.filter (fun f => f.ids.isEmpty) = [⟨systemSteward, tag, [], bad⟩] := by
    rw [h, List.filter_append, List.filter_eq_nil_iff.2 fun f hf => by simpa using hl f hf]
    rfl
  unfold Dev.fencesDone
  rw [ends, List.foldl_cons, List.foldl_nil, Dev.issuerEnd_steward, Dev.modBraid, keeps]
  rfl

/-! ## Aliases -/

/-- The field of a BRAID_ALIAS entry in its register. -/
def F.aliasEntry (n : Nat) : Fld := ⟨16 * (n % 4), 16⟩
theorem Dev.aliasOf_eq (n : Nat) : d.aliasOf n = d.getF (Reg.BRAID_ALIAS (n / 4)) (F.aliasEntry n) := rfl
theorem F.aliasEntry_fits (n : Nat) : (F.aliasEntry n).fits := by
  change 16 * (n % 4) + 16 ≤ 64
  omega
theorem Reg.BRAID_ALIAS_inj {m n : Nat} (h : Reg.BRAID_ALIAS m = Reg.BRAID_ALIAS n) : m = n := by
  unfold Reg.BRAID_ALIAS at h
  omega
theorem aliasWrite_facts {m n : Nat} {v : BitVec 16} (hd : d.canon) (hm : m ≠ n) :
    let e := d.setF (Reg.BRAID_ALIAS (n / 4)) (F.aliasEntry n) v.toNat
    e.aliasOf n = v.toNat ∧ e.aliasOf m = d.aliasOf m := by
  refine ⟨(Dev.getF_setF _ _ _ hd (F.aliasEntry_fits n)).trans (Nat.mod_eq_of_lt v.isLt), ?_⟩
  by_cases h : m / 4 = n / 4
  · rw [Dev.aliasOf_eq, Dev.aliasOf_eq, h]
    refine Dev.getF_setF_apart _ _ _ _ hd (F.aliasEntry_fits n) ?_
    change 16 * (n % 4) + 16 ≤ 16 * (m % 4) ∨ 16 * (m % 4) + 16 ≤ 16 * (n % 4)
    omega
  · exact Dev.getF_setF_ne _ (F.aliasEntry m) _ hd fun he => h (Reg.BRAID_ALIAS_inj he).symm

/-! ## The clauses -/

theorem Dev.askStatus_sends {k : AskKind} (ho : ok k = true) (hd : d.canon) (h : d.asks.find? (fun x => x.issuer == i) = some a) (hk : a.kind = k)
    (hf : k ≠ .fence) (hs : d.askStatus a = none) (hw : d.mustWait a = false) (hn : d.inflight + 1 < 4096) :
    let e := d.issueAsk i ok
    ∃ o : BraidOp, e.braid.ops = d.braid.ops ++ [o] ∧ o.issuer = i ∧ o.kind = a.kind ∧ o.node = d.askAlias a % 4096 ∧ o.seq = (d.opOf a).seq ∧
      o.gen = (d.opOf a).gen ∧ o.data = a.data ∧ e.pair (d.askAlias a % 4096) = d.pairSent a ∧
      (∃ more, e.braid.outbox = d.braid.outbox ++ [d.opPacket o more]) ∧
      e.asks = dropAsk i d.asks ∧ e.mem = d.mem ∧ e.now = d.now ∧ e.ctrs = d.ctrs ∧ e.ev = d.ev := by
  obtain ⟨ops, issuer, pair, outbox, rest⟩ := issueAsk_sent hd h (hk ▸ ho) (hk ▸ hf) hs hw hn
  exact ⟨d.opOf a, ops, issuer, rfl, rfl, rfl, rfl, rfl, pair, outbox, rest⟩

theorem Dev.opOf_read (hk : a.kind = .read) : (d.opOf a).seq = d.freeTag ∧ (d.opOf a).gen = look 0 d.braid.gens d.freeTag ∧
    d.pairSent a = { d.pair (d.askAlias a % 4096) with next := (d.pair (d.askAlias a % 4096)).next, credits := (d.pair (d.askAlias a % 4096)).credits - 1 } := by
  have read : (a.kind == AskKind.read) = true := beq_iff_eq.2 hk
  simp only [Dev.opOf, Dev.pairSent, read, if_true, and_self]
theorem Dev.opOf_write (hk : a.kind = .write ∨ a.kind = .flag) : (d.opOf a).seq = (d.pair (d.askAlias a % 4096)).next ∧ (d.opOf a).gen = 0 ∧
    d.pairSent a = { d.pair (d.askAlias a % 4096) with
      next := ((d.pair (d.askAlias a % 4096)).next + 1) % 2 ^ 32, credits := (d.pair (d.askAlias a % 4096)).credits - 1 } := by
  have write : (a.kind == AskKind.read) = false := beq_eq_false_iff_ne.2 (by rcases hk with h | h <;> rw [h] <;> decide)
  simp only [Dev.opOf, Dev.pairSent, write, Bool.false_eq_true, if_false, and_self]
theorem writes_ok (hk : a.kind = .write ∨ a.kind = .flag) : (a.kind == AskKind.write || a.kind == AskKind.flag) = true ∧ a.kind ≠ .fence := by
  rcases hk with h | h <;> rw [h] <;> decide

theorem Dev.fenceAdded_fences : ∃ bad, (d.fenceAdded a).braid.fences = d.braid.fences ++
    [⟨a.issuer, a.tag, (d.braid.ops.filter fun o => o.issuer == a.issuer && o.isWrite).map (·.id), bad⟩] := ⟨_, rfl⟩
theorem Dev.fenceAdded_facts : (d.fenceAdded a).asks = dropAsk a.issuer d.asks ∧ (d.fenceAdded a).braid.ops = d.braid.ops ∧
    (d.fenceAdded a).braid.outbox = d.braid.outbox ∧ (d.fenceAdded a).mem = d.mem ∧ (d.fenceAdded a).now = d.now := ⟨rfl, rfl, rfl, rfl, rfl⟩
theorem braidFence_waits (hf : ∀ f ∈ d.braid.fences, f.ids ≠ [])
    (hi : (d.braid.ops.filter fun o => o.issuer == a.issuer && o.isWrite).map (·.id) ≠ []) : (d.fenceAdded a).fencesDone = d.fenceAdded a := by
  refine Dev.fencesDone_waiting fun f h => ?_
  rcases List.mem_append.1 (h : f ∈ d.braid.fences ++ [_]) with h | h
  · exact hf f h
  · rw [List.mem_singleton.1 h]
    exact hi

/-- A fence with writes to wait for joins the fences; a steward's with none ends at once. -/
theorem braidFence_held (h : d.asks.find? (fun x => x.issuer == a.issuer) = some a) (hk : a.kind = .fence) (hf : ∀ f ∈ d.braid.fences, f.ids ≠ [])
    (hi : (d.braid.ops.filter fun o => o.issuer == a.issuer && o.isWrite).map (·.id) ≠ []) :
    let e := braidFenceEffect a.issuer d
    ∃ bad, e.braid.fences = d.braid.fences ++ [⟨a.issuer, a.tag, (d.braid.ops.filter fun o => o.issuer == a.issuer && o.isWrite).map (·.id), bad⟩] ∧
      e.asks = dropAsk a.issuer d.asks ∧ e.braid.ops = d.braid.ops ∧ e.braid.outbox = d.braid.outbox ∧ e.mem = d.mem ∧ e.now = d.now := by
  have fenced : braidFenceEffect a.issuer d = (d.fenceAdded a).fencesDone.braidShow := issueAsk_fence h (beq_iff_eq.2 hk) hk
  rw [braidFence_waits hf hi] at fenced
  obtain ⟨bad, fences⟩ := Dev.fenceAdded_fences (d := d) (a := a)
  obtain ⟨asks, ops, outbox, mem, now⟩ := Dev.fenceAdded_facts (d := d) (a := a)
  have quiet := Dev.braidShow_quiet (d := d.fenceAdded a)
  rw [fenced]
  exact ⟨bad, quiet.braid ▸ fences, quiet.asks.trans asks, quiet.braid ▸ ops, quiet.braid ▸ outbox, quiet.mem.trans mem, quiet.now.trans now⟩
theorem braidFence_ends (h : d.asks.find? (fun x => x.issuer == a.issuer) = some a) (hk : a.kind = .fence) (hf : ∀ f ∈ d.braid.fences, f.ids ≠ [])
    (hi : (d.braid.ops.filter fun o => o.issuer == a.issuer && o.isWrite).map (·.id) = []) (hst : a.issuer = systemSteward) :
    let e := braidFenceEffect a.issuer d
    e.braid.fences = d.braid.fences ∧ e.asks = dropAsk a.issuer d.asks ∧ e.mem = d.mem := by
  have fenced : braidFenceEffect a.issuer d = (d.fenceAdded a).fencesDone.braidShow := issueAsk_fence h (beq_iff_eq.2 hk) hk
  obtain ⟨bad, last⟩ := Dev.fenceAdded_fences (d := d) (a := a)
  obtain ⟨asks, -, -, mem, -⟩ := Dev.fenceAdded_facts (d := d) (a := a)
  rw [hi, hst] at last
  rw [Dev.fencesDone_last last hf] at fenced
  rw [fenced]
  generalize d.fenceAdded a = w at *
  have quiet := Dev.braidShow_quiet (d := w.modBraid fun x => { x with fences := d.braid.fences })
  exact ⟨congrArg (·.fences) quiet.braid, quiet.asks.trans asks, quiet.mem.trans mem⟩

/-- A waiter that need not wait, and what resuming it does. -/
def Dev.waiterReady (d : Dev) (i : BitVec 16) : Bool := match d.asks.find? (·.issuer == i) with | some a => !d.mustWait a | none => true
def Dev.resumes (d : Dev) (i : BitVec 16) : Dev :=
  match d.asks.find? (·.issuer == i) with
  | none => d.modBraid fun x => { x with waiters := x.waiters.filter (· != i) }
  | some _ => (d.modBraid fun x => { x with waiters := i :: x.waiters.filter (· != i) }).issueAsk i fun _ => true
theorem braidIssueResume_eq : braidIssueResumeEffect d = (match d.braid.waiters.find? d.waiterReady with | none => d | some i => d.resumes i) := rfl
/-- The first waiter, when it need not wait, issues. -/
theorem braidIssueResume_first {l : List (BitVec 16)} (hw : d.braid.waiters = i :: l) (h : d.asks.find? (fun x => x.issuer == i) = some a)
    (hn : d.mustWait a = false) : braidIssueResumeEffect d =
      Dev.issueAsk { d with braid := { d.braid with waiters := i :: l.filter (· != i) } } i fun _ => true := by
  have ready : d.waiterReady i = true := by
    rw [Dev.waiterReady, h]
    exact congrArg (!·) hn
  rw [braidIssueResume_eq, hw, List.find?_cons_of_pos ready]
  dsimp only
  rw [Dev.resumes, h]
  dsimp only
  rw [Dev.modBraid, hw, List.filter_cons_of_neg (by simp)]
theorem braidIssueResume_idle (hw : d.braid.waiters = []) : braidIssueResumeEffect d = d := by
  rw [braidIssueResume_eq, hw]
  rfl

/-- Settles O37: an ask is sent, ends at once, waits or is fenced, by the first ask of its issuer. -/
theorem braidOperationsIssueOrWait : Obligations.BraidOperationsIssueOrWait := by
  unfold Obligations.BraidOperationsIssueOrWait
  refine ⟨fun i a s hs hd h hst hw hn => ⟨fun hk => runs_ran rfl hs ?_, fun hk => runs_ran rfl hs ?_⟩,
    fun i a st s hs h hst => ⟨fun hk => runs_ran rfl hs ?_, fun hk => runs_ran rfl hs ?_⟩,
    fun i a s hs h hst hw => ⟨fun hk => runs_ran rfl hs ?_, fun hk => runs_ran rfl hs ?_⟩,
    fun i a s hs h hk hf => ⟨fun hi => runs_ran rfl hs ?_, fun hi hst => runs_ran rfl hs ?_⟩,
    fun i s hs h => ⟨runs_ran rfl hs (issueAsk_none h), runs_ran rfl hs (issueAsk_none h), runs_ran rfl hs (issueAsk_none h)⟩,
    fun s hs => ⟨fun hw => runs_ran rfl hs (braidIssueResume_idle hw), fun i a r hw h hn => runs_ran rfl hs (braidIssueResume_first hw h hn)⟩,
    fun m n v s hs hd => ⟨fun hm => runs_ranFrom rfl hs ?_, fun hm => runs_ranFrom rfl hs (if_pos (bne_iff_ne.2 hm))⟩⟩
  · have sent := Dev.askStatus_sends (ok := fun k => k == .read) rfl hd h hk (by decide) hst hw hn
    obtain ⟨seq, gen, pair⟩ := Dev.opOf_read (d := s.dev) hk
    rw [seq, gen, pair] at sent
    exact sent
  · obtain ⟨isOk, notFence⟩ := writes_ok hk
    have sent := Dev.askStatus_sends (ok := fun k => k == .write || k == .flag) isOk hd h rfl notFence hst hw hn
    obtain ⟨seq, gen, pair⟩ := Dev.opOf_write (d := s.dev) hk
    rw [seq, gen, pair] at sent
    exact sent
  · have ends : braidReadIssueEffect i s.dev = s.dev.askEnds a st := issueAsk_ends h (beq_iff_eq.2 hk) (by rw [hk]; decide) hst
    have same := askEnds_traffic (d := s.dev) (a := a) (st := st)
    rw [ends]
    exact ⟨(congrArg (·.2.1) same :), (congrArg (·.1) same :), (congrArg (·.2.2) same :)⟩
  · obtain ⟨isOk, notFence⟩ := writes_ok hk
    have ends : braidWriteIssueEffect i s.dev = s.dev.askEnds a st := issueAsk_ends h isOk notFence hst
    have same := askEnds_traffic (d := s.dev) (a := a) (st := st)
    rw [ends]
    exact ⟨(congrArg (·.2.1) same :), (congrArg (·.1) same :), (congrArg (·.2.2) same :)⟩
  · exact issueAsk_waits h (beq_iff_eq.2 hk) (by rw [hk]; decide) hst hw
  · obtain ⟨isOk, notFence⟩ := writes_ok hk
    exact issueAsk_waits h isOk notFence hst hw
  · obtain rfl := ask_issuer h
    exact braidFence_held h hk hf hi
  · obtain rfl := ask_issuer h
    exact braidFence_ends h hk hf hi hst
  · have writes : aliasWriteEffect m n v s.dev = s.dev.setF (Reg.BRAID_ALIAS (n / 4)) (F.aliasEntry n) v.toNat := if_neg (by simpa using hm)
    rw [writes]
    exact ⟨(aliasWrite_facts (m := n + 1) hd (Nat.succ_ne_self _)).1, fun k hk => (aliasWrite_facts hd fun he => hk (Fin.ext he)).2,
      Dev.sameRegs_setF _ _ _ hd, rfl, rfl⟩

end Sys2Proof.Machine
end

section
/-! SUPPORT. Arrival of requests at a destination (R353, R354, R362, R364, R366, R377). -/
namespace Sys2Proof.Machine

-- One proof after another: with many at once their threads' stacks exceed the memory that the check allows.
set_option Elab.async false

variable {d e u : Dev} {p : Bytes} {n g q a st : Nat} {w : Bytes} {x : BraidDst}

/-! ## Taking a packet -/

/-- The packet leaves the list of those that arrived. -/
def Dev.arrivedTaken (d : Dev) (p : Bytes) : Dev := d.modBraid fun x => { x with arrived := x.arrived.erase p }
theorem Dev.takeArrived_some {ok : Nat → Bool} (h : d.braid.arrived.find? (fun p => ok (pktType p)) = some p) :
    d.takeArrived ok = some (p, d.arrivedTaken p) := by
  unfold Dev.takeArrived
  rw [h]
  rfl
theorem Dev.takeArrived_none {ok : Nat → Bool} (h : d.braid.arrived.find? (fun p => ok (pktType p)) = none) : d.takeArrived ok = none := by
  unfold Dev.takeArrived
  rw [h]
theorem Dev.stale_arrivedTaken {p' : Bytes} : (d.arrivedTaken p').stale p = d.stale p := rfl
theorem Dev.stale_false (h : pktEpoch p = d.getF Reg.BRAID_EPOCH F.BRAID_EPOCH_EPOCH) : d.stale p = false := by
  rw [Dev.stale, h]
  exact bne_self_eq_false _
theorem Dev.stale_true (h : pktEpoch p ≠ d.getF Reg.BRAID_EPOCH F.BRAID_EPOCH_EPOCH) : d.stale p = true := bne_iff_ne.2 h
/-- A request that asks for no credits is granted none. -/
theorem Dev.grantFor_none (h : hdrBits (hdr p) 123 1 = 0) : d.grantFor p = (0, d) := if_pos (beq_iff_eq.2 h)

/-! ## Counters of the fabric -/

theorem Dev.count_modBraid {f : BraidState → BraidState} {k : Fld} : (d.modBraid f).count a k n = (d.count a k n).modBraid f := by
  unfold Dev.count
  split
  · rfl
  · dsimp only
    rw [show (d.modBraid f).getF a k = d.getF a k from rfl]
    split
    · rfl
    · rfl
theorem Dev.braidCount_cases : d.braidCount a n = d.count a F.BRAID_REFUSED_COUNT n ∨
    d.braidCount a n = (d.count a F.BRAID_REFUSED_COUNT n).raise 0xA00B 0xFF braidSwitch (a % 2 ^ 20) 0 := by
  unfold Dev.braidCount
  extract_lets was w
  split
  · exact .inr rfl
  · exact .inl rfl
theorem Dev.braidCount_quiet : Dev.Quiet (· = a) d (d.braidCount a n) := by
  have counted : Dev.Quiet (· = a) d (d.count a F.BRAID_REFUSED_COUNT n) := Dev.Quiet.refl.count rfl
  obtain h | h := Dev.braidCount_cases (d := d) (a := a) (n := n)
  · rw [h]
    exact counted
  · rw [h]
    exact counted.raise
theorem Dev.braidCount_reg {b : Nat} : (d.braidCount a n).reg b = (d.count a F.BRAID_REFUSED_COUNT n).reg b := by
  obtain h | h := Dev.braidCount_cases (d := d) (a := a) (n := n)
  · rw [h]
  · rw [h, Dev.raise_reg]
/-- What a stale packet leaves: the packet gone and counted. -/
theorem Dev.arrivedTaken_counted : let e := (d.arrivedTaken p).braidCount a n
    e.mem = d.mem ∧ e.ctrs = d.ctrs ∧ e.braid = { d.braid with arrived := d.braid.arrived.erase p } ∧ e.reg a = (d.count a F.BRAID_REFUSED_COUNT n).reg a := by
  have quiet := Dev.braidCount_quiet (d := d.arrivedTaken p) (a := a) (n := n)
  refine ⟨quiet.mem, quiet.ctrs, quiet.braid, ?_⟩
  rw [Dev.braidCount_reg, Dev.arrivedTaken, Dev.count_modBraid]
  rfl

/-! ## Acknowledgements -/

theorem pktType_leBytes {v : Nat} : pktType (leBytes 16 v) = v % 16 := by
  rw [pktType, hdr, leAt_last, hdrBits]
  omega
/-- An acknowledgement is one packet; the pair keeps its window. -/
theorem Dev.sendAck_facts : Dev.SameOff d (d.sendAck n g) ∧ ∃ ack, (d.sendAck n g).braid.outbox = d.braid.outbox ++ [ack] ∧ pktType ack = 9 := by
  unfold Dev.sendAck
  extract_lets x v
  refine ⟨Dev.modBraid_off.trans Dev.modBraid_off, _, rfl, ?_⟩
  rw [pktType_leBytes]
  unfold v Dev.hdrBase
  omega
theorem Dev.sendAck_far (hd : d.canon) : ((d.sendAck n g).far n).base = (d.far n).base ∧ ((d.sendAck n g).far n).set = (d.far n).set ∧
    ((d.sendAck n g).far n).flags = (d.far n).flags := by
  have far : (d.sendAck n g).far n = { d.far n with ret := (d.far n).ret - min (d.far n).ret 1023 } :=
    Dev.far_setFar _ _ _ hd
  rw [far]
  exact ⟨rfl, rfl, rfl⟩

/-! ## A write within its window -/

/-- A write applied, or refused. -/
def Dev.writeMet (d : Dev) (p : Bytes) : Dev :=
  let st := (d.windowCheck p).1
  let w := (d.windowCheck p).2
  let a := windowDpa w (pktLine p * 64)
  if st == 0 then ((d.write a (bytesAt p 16 64)).hotWrite a).forwardWrite p (leAt w 16 1)
  else ((d.braidOut (leBytes 16 (d.hdrBase 10 (pktSrc p) + hdrBits (hdr p) 78 32 * 2 ^ 32 + st * 2 ^ 64))).braidCount Reg.BRAID_REFUSED 1).raise
    0xA006 0xFF braidSwitch (pktSrc p) (st + pktType p * 2 ^ 8 + pktLine p * 2 ^ 16)
/-- The flags that wait after a write. -/
def Dev.flagsMet (d : Dev) (p : Bytes) : List (Nat × Nat × Nat) :=
  if (d.windowCheck p).1 == 0 && pktType p == 3 then (d.far (pktSrc p)).flags ++ [(hdrBits (hdr p) 78 32, hdrBits (hdr p) 110 13, leAt (d.windowCheck p).2 16 1)]
  else (d.far (pktSrc p)).flags
/-- A place that BASE has passed. -/
def seqPast (base s : Nat) : Bool := decide ((base + 2 ^ 32 - 1 - s) % 2 ^ 32 < 2 ^ 31)
/-- The window moves on, and the flags it passes are signalled in their order. -/
def Dev.writeOrdered (d : Dev) (n q : Nat) (x : BraidDst) (flags : List (Nat × Nat × Nat)) : Dev :=
  let set := q :: x.set
  let base := baseOf set 512 x.base
  let due := flags.filter fun f => seqPast base f.1
  let d := d.setFar n { x with base := base, set := set.filter fun s => !seqPast base s, flags := flags.filter fun f => !seqPast base f.1, ret := x.ret + 1 }
  let ordered := due.foldl (fun (l : List (Nat × Nat × Nat)) f =>
    l.takeWhile (fun y => decide ((y.1 + 2 ^ 32 - x.base) % 2 ^ 32 < (f.1 + 2 ^ 32 - x.base) % 2 ^ 32)) ++ f ::
      l.dropWhile (fun y => decide ((y.1 + 2 ^ 32 - x.base) % 2 ^ 32 < (f.1 + 2 ^ 32 - x.base) % 2 ^ 32))) []
  let d := ordered.foldl (fun (d : Dev) f => d.landingSignal (f.2.1 / 1024) (f.2.1 % 1024) 1 (some f.2.2) braidSwitch) d
  if base != x.base || 0 != 0 then d.sendAck n 0 else d
/-- Where a write that arrives is in its pair's window. -/
def Dev.writeGap (d : Dev) (p : Bytes) : Nat := (hdrBits (hdr p) 78 32 + 2 ^ 32 - (d.far (pktSrc p)).base) % 2 ^ 32

/-- A fresh packet of a write without a grant, by its place in the window. -/
def Dev.writeMeets (d : Dev) (p : Bytes) : Dev :=
  if d.writeGap p ≥ 2 ^ 31 || (d.far (pktSrc p)).set.contains (hdrBits (hdr p) 78 32) then d.sendAck (pktSrc p) 0
  else if d.writeGap p ≥ 512 then d.braidCount Reg.BRAID_PROTOCOL_DROP 1
  else (d.writeMet p).writeOrdered (pktSrc p) (hdrBits (hdr p) 78 32) (d.far (pktSrc p)) (d.flagsMet p)

theorem braidWriteArrive_find {l : List Bytes} : l.find? (fun x => decide (pktType x = 2 ∨ pktType x = 3)) = l.find? (fun p => pktType p == 2 || pktType p == 3) := by
  refine congrArg (l.find? ·) (funext fun x => ?_)
  rw [Bool.decide_or]
  rfl

theorem braidWriteArrive_stale (h : d.braid.arrived.find? (fun x => decide (pktType x = 2 ∨ pktType x = 3)) = some p) (hs : d.stale p = true) :
    braidWriteArriveEffect d = (d.arrivedTaken p).braidCount Reg.BRAID_STALE_DROP 1 := by
  rw [braidWriteArrive_find] at h
  unfold braidWriteArriveEffect
  rw [Dev.takeArrived_some (ok := fun ty => ty == 2 || ty == 3) h]
  exact if_pos hs
theorem braidWriteArrive_fresh (h : d.braid.arrived.find? (fun x => decide (pktType x = 2 ∨ pktType x = 3)) = some p) (hs : d.stale p = false)
    (hg : hdrBits (hdr p) 123 1 = 0) : braidWriteArriveEffect d = (d.arrivedTaken p).writeMeets p := by
  rw [braidWriteArrive_find] at h
  unfold braidWriteArriveEffect
  rw [Dev.takeArrived_some (ok := fun ty => ty == 2 || ty == 3) h]
  generalize hu : d.arrivedTaken p = u
  rw [← Dev.stale_arrivedTaken (p' := p), hu] at hs
  refine (if_neg (ne_true_of_eq_false hs)).trans ?_
  rw [Dev.grantFor_none hg]
  rfl

theorem Dev.hotWrite_facts {l : Nat} : (d.hotWrite l).mem = d.mem ∧ (d.hotWrite l).ctrs = d.ctrs := by
  unfold Dev.hotWrite
  extract_lets us key w l' n w'
  have kept : w.mem = d.mem ∧ w.ctrs = d.ctrs := by
    unfold w
    split
    · exact ⟨rfl, rfl⟩
    · exact ⟨rfl, rfl⟩
  have quiet := Dev.braidCount_quiet (d := w') (a := Reg.BRAID_HOT_LINE) (n := 1)
  split
  · exact ⟨quiet.mem.trans kept.1, quiet.ctrs.trans kept.2⟩
  · exact kept
theorem Dev.forwardWrite_facts {sl : Nat} : (d.forwardWrite p sl).mem = d.mem ∧ (d.forwardWrite p sl).ctrs = d.ctrs := by
  unfold Dev.forwardWrite
  split
  · exact ⟨rfl, rfl⟩
  · split
    · exact ⟨rfl, rfl⟩
    · exact ⟨rfl, rfl⟩
theorem Dev.write_ctrs {l : Bytes} : (d.write a l).ctrs = d.ctrs := (congrArg Dev.ctrs (d.write_rest a l) :)

/-- A write that passes its checks stores its line. -/
theorem Dev.writeMet_applied (h : (d.windowCheck p).1 = 0) :
    (d.writeMet p).mem = storeBytes d.mem (windowDpa (d.windowCheck p).2 (pktLine p * 64)) (bytesAt p 16 64) ∧ (d.writeMet p).ctrs = d.ctrs := by
  have met : d.writeMet p = _ := if_pos (beq_iff_eq.2 h)
  rw [met]
  exact ⟨Dev.forwardWrite_facts.1.trans (Dev.hotWrite_facts.1.trans (Dev.mem_write ..)), Dev.forwardWrite_facts.2.trans (Dev.hotWrite_facts.2.trans Dev.write_ctrs)⟩
/-- One that fails them is refused and told. -/
theorem Dev.writeMet_refused (h : (d.windowCheck p).1 ≠ 0) :
    (d.writeMet p).mem = d.mem ∧ (d.writeMet p).ctrs = d.ctrs ∧ (d.writeMet p).braid.outbox = d.braid.outbox ++
      [leBytes 16 (d.hdrBase 10 (pktSrc p) + hdrBits (hdr p) 78 32 * 2 ^ 32 + (d.windowCheck p).1 * 2 ^ 64)] ∧
    ∃ r ∈ (d.writeMet p).ev.arisen, r.code = 0xA006 ∧ r.object = BitVec.ofNat 32 (pktSrc p) := by
  have met : d.writeMet p = _ := if_neg fun h' => h (beq_iff_eq.1 h')
  rw [met]
  generalize hw : d.braidOut _ = w
  have quiet := Dev.braidCount_quiet (d := w) (a := Reg.BRAID_REFUSED) (n := 1)
  rw [Dev.raise_mem, Dev.raise_ctrs, Dev.raise_braid, quiet.mem, quiet.ctrs, quiet.braid, ← hw]
  exact ⟨rfl, rfl, rfl, Dev.raise_tells⟩
theorem Dev.canon.writeMet (h : d.canon) : (d.writeMet p).canon :=
  h.write.hotWrite.forwardWrite.ite h.braidOut.braidCount.raise

/-- When no flag is passed the window moves on, and an acknowledgement follows a move of BASE. -/
theorem Dev.writeOrdered_held {l : List (Nat × Nat × Nat)} (hl : ∀ f ∈ l, seqPast (baseOf (q :: x.set) 512 x.base) f.1 = false) :
    d.writeOrdered n q x l =
      let u := d.setFar n { x with
        base := baseOf (q :: x.set) 512 x.base, set := (q :: x.set).filter fun s => !seqPast (baseOf (q :: x.set) 512 x.base) s, flags := l, ret := x.ret + 1 }
      if baseOf (q :: x.set) 512 x.base != x.base then u.sendAck n 0 else u := by
  have none_due : (l.filter fun f => seqPast (baseOf (q :: x.set) 512 x.base) f.1) = [] :=
    List.filter_eq_nil_iff.2 fun f hf => ne_true_of_eq_false (hl f hf)
  have all_held : (l.filter fun f => !seqPast (baseOf (q :: x.set) 512 x.base) f.1) = l :=
    List.filter_eq_self.2 fun f hf => by rw [hl f hf]; rfl
  unfold Dev.writeOrdered
  dsimp only
  rw [none_due, all_held, List.foldl_nil, List.foldl_nil, show ((0 : Nat) != 0) = false from rfl, Bool.or_false]
theorem Dev.writeOrdered_facts {l : List (Nat × Nat × Nat)} (hl : ∀ f ∈ l, seqPast (baseOf (q :: x.set) 512 x.base) f.1 = false) :
    Dev.SameOff d (d.writeOrdered n q x l) ∧ ∃ rest, (d.writeOrdered n q x l).braid.outbox = d.braid.outbox ++ rest := by
  rw [Dev.writeOrdered_held hl]
  extract_lets u
  have moved : Dev.SameOff d u := Dev.modBraid_off
  obtain ⟨off, ack, sent, -⟩ := Dev.sendAck_facts (d := u) (n := n) (g := 0)
  split
  · exact ⟨moved.trans off, [ack], sent⟩
  · exact ⟨moved, [], (List.append_nil _).symm⟩

/-- BASE stays while its own place is missing. -/
theorem baseOf_missing {set : List Nat} {b : Nat} (h : b ∉ set) : baseOf set 512 b = b := if_neg fun h' => h (List.contains_iff_mem.1 h')
theorem seqPast_ahead {b s : Nat} (hb : b < 2 ^ 32) (hs : s < 2 ^ 32) (hg : 0 < (s + 2 ^ 32 - b) % 2 ^ 32) (hl : (s + 2 ^ 32 - b) % 2 ^ 32 < 512) :
    seqPast b s = false := by
  refine decide_eq_false ?_
  omega

/-! ## Reads -/

/-- The answer to a read, and what is answered. -/
def Dev.readAnswer (d : Dev) (p : Bytes) (st : Nat) (line : Bytes) : Dev :=
  d.braidOut (leBytes 16 (d.hdrBase 8 (pktSrc p) + hdrBits (hdr p) 78 20 * 2 ^ 32 + st * 2 ^ 52) ++ line)
def Dev.readMeets (d : Dev) (p : Bytes) : Dev :=
  let st := (d.windowCheck p).1
  let w := (d.windowCheck p).2
  let a := windowDpa w (pktLine p * 64)
  let bad := st == 0 && d.bad (a / 64)
  let d := if bad then d.unresolved (a / 64) 4 10 (leAt w 16 1) else d
  let st := if bad then 5 else st
  d.readAnswer p st (if st == 0 then d.bytes a 64 else List.replicate 64 0xFF#8)
theorem Dev.readAnswer_ok {line : Bytes} : d.readAnswer p 0 line = d.braidOut (leBytes 16 (d.hdrBase 8 (pktSrc p) + hdrBits (hdr p) 78 20 * 2 ^ 32) ++ line) := by
  rw [Dev.readAnswer, Nat.zero_mul, Nat.add_zero]
theorem braidReadArrive_fresh (h : d.braid.arrived.find? (fun x => pktType x == 1) = some p) (hs : d.stale p = false)
    (hg : hdrBits (hdr p) 123 1 = 0) : braidReadArriveEffect d = (d.arrivedTaken p).readMeets p := by
  unfold braidReadArriveEffect
  rw [Dev.takeArrived_some (ok := (· == 1)) h]
  generalize hu : d.arrivedTaken p = u
  rw [← Dev.stale_arrivedTaken (p' := p), hu] at hs
  refine (if_neg (ne_true_of_eq_false hs)).trans ?_
  unfold Dev.readMeets
  dsimp only
  rw [Dev.grantFor_none hg]
  rfl
theorem Dev.readMeets_failed (h : (d.windowCheck p).1 ≠ 0) : d.readMeets p = d.readAnswer p (d.windowCheck p).1 (List.replicate 64 0xFF#8) := by
  have fails : ((d.windowCheck p).1 == 0) = false := beq_eq_false_iff_ne.2 h
  simp only [Dev.readMeets, fails, Bool.false_and, Bool.false_eq_true, if_false]
theorem Dev.readMeets_good (h : (d.windowCheck p).1 = 0) (hb : d.bad (windowDpa (d.windowCheck p).2 (pktLine p * 64) / 64) = false) :
    d.readMeets p = d.readAnswer p 0 (d.bytes (windowDpa (d.windowCheck p).2 (pktLine p * 64)) 64) := by
  simp only [Dev.readMeets, h, hb, Bool.and_false, Bool.false_eq_true, if_false, beq_self_eq_true, if_true]

/-! ## The clauses -/

theorem Dev.writeMeets_known (h : 2 ^ 31 ≤ d.writeGap p ∨ hdrBits (hdr p) 78 32 ∈ (d.far (pktSrc p)).set) : d.writeMeets p = d.sendAck (pktSrc p) 0 :=
  if_pos (by rwa [Bool.or_eq_true, decide_eq_true_eq, List.contains_iff_mem])
theorem Dev.writeMeets_new (h : d.writeGap p < 2 ^ 31) (hs : hdrBits (hdr p) 78 32 ∉ (d.far (pktSrc p)).set) : d.writeMeets p =
    if d.writeGap p ≥ 512 then d.braidCount Reg.BRAID_PROTOCOL_DROP 1
    else (d.writeMet p).writeOrdered (pktSrc p) (hdrBits (hdr p) 78 32) (d.far (pktSrc p)) (d.flagsMet p) :=
  if_neg (by
    rw [Bool.or_eq_true, decide_eq_true_eq, List.contains_iff_mem]
    exact fun h' => h'.elim (Nat.not_le_of_lt h) hs)

/-- A place already taken is acknowledged, and one beyond the window is counted. -/
theorem Dev.writeMeets_outside (hd : d.canon) :
    (2 ^ 31 ≤ d.writeGap p ∨ hdrBits (hdr p) 78 32 ∈ (d.far (pktSrc p)).set → Dev.SameOff d (d.writeMeets p) ∧
      ((d.writeMeets p).far (pktSrc p)).base = (d.far (pktSrc p)).base ∧ ((d.writeMeets p).far (pktSrc p)).set = (d.far (pktSrc p)).set ∧
      ∃ ack, (d.writeMeets p).braid.outbox = d.braid.outbox ++ [ack] ∧ pktType ack = 9) ∧
    (d.writeGap p < 2 ^ 31 → 512 ≤ d.writeGap p → hdrBits (hdr p) 78 32 ∉ (d.far (pktSrc p)).set →
      d.writeMeets p = d.braidCount Reg.BRAID_PROTOCOL_DROP 1) := by
  refine ⟨fun h => ?_, fun h hw hs => (Dev.writeMeets_new h hs).trans (if_pos hw)⟩
  obtain ⟨off, sent⟩ := Dev.sendAck_facts (d := d) (n := pktSrc p) (g := 0)
  obtain ⟨base, set, -⟩ := Dev.sendAck_far (n := pktSrc p) (g := 0) hd
  rw [Dev.writeMeets_known h]
  exact ⟨off, base, set, sent⟩

theorem Dev.writeMeets_inside (h : d.writeGap p < 512) (hs : hdrBits (hdr p) 78 32 ∉ (d.far (pktSrc p)).set) :
    d.writeMeets p = (d.writeMet p).writeOrdered (pktSrc p) (hdrBits (hdr p) 78 32) (d.far (pktSrc p)) (d.flagsMet p) :=
  (Dev.writeMeets_new (h.trans (by decide)) hs).trans (if_neg (Nat.not_le_of_lt h))
theorem Dev.flagsMet_plain (hf : (d.far (pktSrc p)).flags = []) (h : (d.windowCheck p).1 ≠ 0 ∨ pktType p = 2) : d.flagsMet p = [] := by
  refine (if_neg ?_).trans hf
  rw [Bool.and_eq_true, beq_iff_eq, beq_iff_eq]
  rcases h with h | h
  · exact fun h' => h h'.1
  · rw [h]
    exact fun h' => absurd h'.2 (by decide)
theorem Dev.flagsMet_flag (hf : (d.far (pktSrc p)).flags = []) (h : (d.windowCheck p).1 = 0) (ht : pktType p = 3) :
    d.flagsMet p = [(hdrBits (hdr p) 78 32, hdrBits (hdr p) 110 13, leAt (d.windowCheck p).2 16 1)] := by
  refine (if_pos ?_).trans (by rw [hf]; rfl)
  rw [h, ht]
  rfl

theorem Dev.writeMeets_stored (hd : d.canon) (h : d.writeGap p < 512) (hs : hdrBits (hdr p) 78 32 ∉ (d.far (pktSrc p)).set)
    (hw : (d.windowCheck p).1 = 0) (hf : (d.far (pktSrc p)).flags = []) (ht : pktType p = 2) :
    let a := windowDpa (d.windowCheck p).2 (pktLine p * 64)
    (d.writeMeets p).mem = storeBytes d.mem a (bytesAt p 16 64) ∧ (d.writeMeets p).ctrs = d.ctrs ∧
      ∀ b, b < a ∨ a + 64 ≤ b → (d.writeMeets p).byte b = d.byte b := by
  obtain ⟨mem, ctrs⟩ := Dev.writeMet_applied hw
  obtain ⟨off, -⟩ := Dev.writeOrdered_facts (d := d.writeMet p) (n := pktSrc p) (q := hdrBits (hdr p) 78 32) (x := d.far (pktSrc p)) (l := []) (fun _ h => nomatch h)
  rw [Dev.writeMeets_inside h hs, Dev.flagsMet_plain hf (.inr ht)]
  refine ⟨off.mem.trans mem, off.ctrs.trans ctrs, fun b hb => ?_⟩
  rw [Dev.byte, off.mem, mem]
  exact look_storeBytes_out _ b _ (SMap.wf_rising (Dev.canon_mem hd)) (by rwa [bytesAt_length])

theorem Dev.writeMeets_refused (h : d.writeGap p < 512) (hs : hdrBits (hdr p) 78 32 ∉ (d.far (pktSrc p)).set)
    (hw : (d.windowCheck p).1 ≠ 0) (hf : (d.far (pktSrc p)).flags = []) :
    (d.writeMeets p).mem = d.mem ∧ (d.writeMeets p).ctrs = d.ctrs ∧
      (∃ r ∈ (d.writeMeets p).ev.arisen, r.code = 0xA006 ∧ r.object = BitVec.ofNat 32 (pktSrc p)) ∧
      ∃ rest, (d.writeMeets p).braid.outbox = d.braid.outbox ++
        leBytes 16 (d.hdrBase 10 (pktSrc p) + hdrBits (hdr p) 78 32 * 2 ^ 32 + (d.windowCheck p).1 * 2 ^ 64) :: rest := by
  obtain ⟨mem, ctrs, sent, told⟩ := Dev.writeMet_refused hw
  obtain ⟨off, rest, more⟩ := Dev.writeOrdered_facts (d := d.writeMet p) (n := pktSrc p) (q := hdrBits (hdr p) 78 32) (x := d.far (pktSrc p)) (l := []) (fun _ h => nomatch h)
  rw [Dev.writeMeets_inside h hs, Dev.flagsMet_plain hf (.inl hw)]
  refine ⟨off.mem.trans mem, off.ctrs.trans ctrs, off.ev ▸ told, rest, more.trans ?_⟩
  rw [sent, List.append_assoc]
  rfl

/-- A flag ahead of a missing write is held. -/
theorem Dev.writeMeets_held (hd : d.canon) (h0 : 0 < d.writeGap p) (h : d.writeGap p < 512) (hs : hdrBits (hdr p) 78 32 ∉ (d.far (pktSrc p)).set)
    (hb : (d.far (pktSrc p)).base ∉ (d.far (pktSrc p)).set) (hw : (d.windowCheck p).1 = 0) (hf : (d.far (pktSrc p)).flags = []) (ht : pktType p = 3)
    (hl : (d.far (pktSrc p)).base < 2 ^ 32) :
    (d.writeMeets p).ctrs = d.ctrs ∧ ((d.writeMeets p).far (pktSrc p)).base = (d.far (pktSrc p)).base ∧
      ((d.writeMeets p).far (pktSrc p)).flags = [(hdrBits (hdr p) 78 32, hdrBits (hdr p) 110 13, leAt (d.windowCheck p).2 16 1)] := by
  have q_lt : hdrBits (hdr p) 78 32 < 2 ^ 32 := Nat.mod_lt _ (Nat.two_pow_pos _)
  rw [Dev.writeMeets_inside h hs, Dev.flagsMet_flag hf hw ht]
  unfold Dev.writeGap at h0 h
  obtain ⟨-, ctrs⟩ := Dev.writeMet_applied hw
  have canon : (d.writeMet p).canon := hd.writeMet
  generalize d.writeMet p = v at *
  generalize d.far (pktSrc p) = x at *
  generalize hdrBits (hdr p) 78 32 = q at *
  have missing : x.base ∉ q :: x.set := by
    rw [List.mem_cons, not_or]
    refine ⟨fun he => ?_, hb⟩
    rw [← he, Nat.add_sub_cancel_left, Nat.mod_self] at h0
    exact Nat.lt_irrefl 0 h0
  have stays : baseOf (q :: x.set) 512 x.base = x.base := baseOf_missing missing
  rw [Dev.writeOrdered_held fun f hf => by rw [stays, List.mem_singleton.1 hf]; exact seqPast_ahead hl q_lt h0 h, stays]
  dsimp only
  rw [if_neg (by rw [bne_self_eq_false]; exact Bool.false_ne_true), Dev.far_setFar _ _ _ canon]
  exact ⟨ctrs, rfl, rfl⟩

/-- Settles O38: a packet by its epoch, a write by its place in its pair's window, a read by its window's check. -/
theorem braidRequestsApplyOnceInOrder : Obligations.BraidRequestsApplyOnceInOrder := by
  unfold Obligations.BraidRequestsApplyOnceInOrder
  refine ⟨fun p s hs h he => runs_ran rfl hs ?_, fun p s hs hd h he hg => ?_, fun s hs h => runs_ran rfl hs ?_, fun p s hs h he hg => ?_⟩
  · rw [braidWriteArrive_stale h (Dev.stale_true he)]
    exact Dev.arrivedTaken_counted
  · have taken : (s.dev.arrivedTaken p).canon := hd.modBraid
    have fresh := braidWriteArrive_fresh h (Dev.stale_false he) hg
    obtain ⟨known, beyond⟩ := Dev.writeMeets_outside (p := p) taken
    refine ⟨fun h => runs_ran rfl hs ?_, fun h hw hq => runs_ran rfl hs ?_, fun h hq hw hf ht => runs_ran rfl hs ?_, fun h hq hw hf => runs_ran rfl hs ?_,
      fun h0 h hq hb hw hf ht hl => runs_ran rfl hs ?_⟩ <;> rw [fresh]
    · obtain ⟨off, base, set, sent⟩ := known h
      exact ⟨off.mem, off.ctrs, off.regs, base, set, sent⟩
    · rw [beyond h hw hq]
      obtain ⟨mem, ctrs, braid, reg⟩ := Dev.arrivedTaken_counted (d := s.dev) (p := p) (a := Reg.BRAID_PROTOCOL_DROP) (n := 1)
      exact ⟨mem, ctrs, (congrArg (·.dests) braid :), (congrArg (·.outbox) braid :), reg⟩
    · exact Dev.writeMeets_stored taken h hq hw hf ht
    · exact Dev.writeMeets_refused h hq hw hf
    · exact Dev.writeMeets_held taken h0 h hq hb hw hf ht hl
  · have none_write : s.dev.braid.arrived.find? (fun p => pktType p == 2 || pktType p == 3) = none :=
      List.find?_eq_none.2 fun p hp => by simp [h p hp]
    unfold braidWriteArriveEffect
    rw [Dev.takeArrived_none (ok := fun ty => ty == 2 || ty == 3) none_write]
  · have fresh := braidReadArrive_fresh h (Dev.stale_false he) hg
    refine ⟨fun hw => runs_ran rfl hs ?_, fun hw hb => runs_ran rfl hs ?_⟩ <;> rw [fresh]
    · rw [Dev.readMeets_failed (d := s.dev.arrivedTaken p) hw]
      exact ⟨rfl, rfl, rfl, rfl, rfl⟩
    · rw [Dev.readMeets_good (d := s.dev.arrivedTaken p) hw hb, Dev.readAnswer_ok]
      exact ⟨rfl, rfl, rfl, rfl, rfl⟩

end Sys2Proof.Machine
end

section
/-! SUPPORT. Responses, acknowledgements, refusals and timeouts of Braid operations (R362, R365, R373, R376). -/
namespace Sys2Proof.Machine

-- One proof after another: with many at once their threads' stacks exceed the memory that the check allows.
set_option Elab.async false

variable {d e u : Dev} {p line : Bytes} {o : BraidOp} {st : Nat}

/-! ## The end of an operation -/

/-- The operation leaves flight, a read with its data. -/
def Dev.opLeft (d : Dev) (o : BraidOp) (status : Nat) (line : Bytes) : Dev :=
  let d := d.modBraid fun x => { x with ops := x.ops.filter (·.id != o.id) }
  if o.kind == .read then d.write o.place (if status == 0 then bytesAt line 0 64 else List.replicate 64 0xFF#8) else d
/-- The fences that wait for a write, and its failure, learn of its end. -/
def Dev.opTold (d : Dev) (o : BraidOp) (status : Nat) : Dev :=
  if !o.isWrite then d else
    let named := d.braid.fences.any fun f => f.ids.contains o.id
    d.modBraid fun x => { x with
      fences := x.fences.map fun f => if f.ids.contains o.id then { f with ids := f.ids.filter (· != o.id), bad := worse f.bad o.seq status } else f
      failed := if status == 0 || named then x.failed else x.failed ++ [(o.issuer, o.seq, status)] }
/-- A dead target or a missing route is a trigger of the operation's slice. -/
def Dev.opTriggers (d : Dev) (o : BraidOp) (status : Nat) : Dev := if status == 8 || status == 9 || status == 10 then d.triggerHere o.slice 1 else d
theorem Dev.opEnd_eq : d.opEnd o st line = (((((d.opLeft o st line).opTold o st).opTriggers o st)).issuerEnd o.issuer o.tag st o.addr).fencesDone := rfl

theorem Dev.opLeft_braid : (d.opLeft o st line).braid = { d.braid with ops := d.braid.ops.filter (·.id != o.id) } := by
  unfold Dev.opLeft
  extract_lets w
  split
  · exact Dev.write_braid
  · rfl
theorem Dev.opLeft_now : (d.opLeft o st line).now = d.now := by
  unfold Dev.opLeft
  extract_lets w
  split
  · exact Dev.write_now
  · rfl
theorem Dev.opLeft_read (h : o.kind = .read) : (d.opLeft o st line).mem =
    storeBytes d.mem o.place (if st = 0 then bytesAt line 0 64 else List.replicate 64 0xFF#8) := by
  have left : d.opLeft o st line = _ := if_pos (beq_iff_eq.2 h)
  rw [left, Dev.mem_write]
  simp only [beq_iff_eq]
  rfl
theorem Dev.opLeft_write (h : o.isWrite = true) : (d.opLeft o st line).mem = d.mem := by
  have notRead : o.kind ≠ .read := fun hk => by simp [BraidOp.isWrite, hk] at h
  have left : d.opLeft o st line = _ := if_neg fun h' => notRead (beq_iff_eq.1 h')
  rw [left]
  rfl

theorem Dev.opTold_mem : (d.opTold o st).mem = d.mem := by
  unfold Dev.opTold
  split
  · rfl
  · rfl
theorem Dev.opTold_now : (d.opTold o st).now = d.now := by
  unfold Dev.opTold
  split
  · rfl
  · rfl
theorem Dev.opTold_traffic : (d.opTold o st).traffic = d.traffic := by
  unfold Dev.opTold
  split
  · rfl
  · rfl
theorem Dev.opTold_fences (h : d.braid.fences = []) : (d.opTold o st).braid.fences = [] := by
  unfold Dev.opTold
  split
  · exact h
  · rw [Dev.modBraid, h]
    rfl
theorem Dev.opTold_failed (h : d.braid.fences = []) (hw : o.isWrite = true) :
    (d.opTold o st).braid.failed = d.braid.failed ++ (if st = 0 then [] else [(o.issuer, o.seq, st)]) := by
  unfold Dev.opTold
  rw [hw, h]
  rw [show (!true) = false from rfl, if_neg Bool.false_ne_true]
  change (if st == 0 || false then d.braid.failed else d.braid.failed ++ [(o.issuer, o.seq, st)]) = _
  rw [Bool.or_false]
  by_cases hst : st = 0
  · rw [if_pos hst, if_pos (beq_iff_eq.2 hst), List.append_nil]
  · rw [if_neg hst, if_neg fun h' => hst (beq_iff_eq.1 h')]

theorem Dev.opTriggers_small (h : st < 8) : d.opTriggers o st = d := by
  refine if_neg ?_
  rw [Bool.or_eq_true, Bool.or_eq_true, beq_iff_eq, beq_iff_eq, beq_iff_eq]
  omega
/-- With no fences an operation of the system steward ends without more. -/
theorem Dev.opEnd_steward (hi : o.issuer = systemSteward) (hs : st < 8) (hf : d.braid.fences = []) :
    d.opEnd o st line = (d.opLeft o st line).opTold o st := by
  have none_wait : ((d.opLeft o st line).opTold o st).braid.fences = [] := Dev.opTold_fences (by rw [Dev.opLeft_braid]; exact hf)
  rw [Dev.opEnd_eq, Dev.opTriggers_small hs, hi, Dev.issuerEnd_steward]
  exact Dev.fencesDone_waiting fun f h => by rw [none_wait] at h; cases h

theorem Dev.opEnd_steward_facts (hi : o.issuer = systemSteward) (hs : st < 8) (hf : d.braid.fences = []) :
    (d.opEnd o st line).braid.ops = (d.braid.ops.filter fun x => x.id != o.id) ∧ (d.opEnd o st line).braid.pairs = d.braid.pairs ∧
    (d.opEnd o st line).braid.fences = [] := by
  rw [Dev.opEnd_steward hi hs hf]
  have left := Dev.opLeft_braid (d := d) (o := o) (st := st) (line := line)
  have told := Dev.opTold_traffic (d := d.opLeft o st line) (o := o) (st := st)
  have fences := Dev.opTold_fences (d := d.opLeft o st line) (o := o) (st := st) (by rw [left]; exact hf)
  refine ⟨(congrArg (·.1) told).trans (congrArg (·.ops) left), (congrArg (·.2.2) told).trans (congrArg (·.pairs) left), fences⟩

/-! ## Many ends -/

/-- What the ends of a steward's writes keep and remove. -/
theorem Dev.opEnds_ok {l : List BraidOp} (hl : ∀ o ∈ l, o.issuer = systemSteward ∧ o.isWrite = true) (hf : d.braid.fences = []) :
    let e := l.foldl (fun (d : Dev) o => d.opEnd o 0 []) d
    (∀ x ∈ e.braid.ops, x ∈ d.braid.ops ∧ ∀ o ∈ l, x.id ≠ o.id) ∧ e.mem = d.mem ∧ e.braid.failed = d.braid.failed ∧ e.braid.pairs = d.braid.pairs := by
  induction l generalizing d with
  | nil => exact ⟨fun x hx => ⟨hx, fun o ho => nomatch ho⟩, rfl, rfl, rfl⟩
  | cons o r ih =>
    obtain ⟨issuer, write⟩ := hl o List.mem_cons_self
    obtain ⟨ops, pairs, fences⟩ := Dev.opEnd_steward_facts (line := []) issuer (by decide : 0 < 8) hf
    have ends := Dev.opEnd_steward (line := []) issuer (by decide : 0 < 8) hf
    have mem : (d.opEnd o 0 []).mem = d.mem := by rw [ends, Dev.opTold_mem, Dev.opLeft_write write]
    have failed : (d.opEnd o 0 []).braid.failed = d.braid.failed := by
      rw [ends, Dev.opTold_failed (by rw [Dev.opLeft_braid]; exact hf) write, Dev.opLeft_braid, if_pos rfl, List.append_nil]
    obtain ⟨rest, mem', failed', pairs'⟩ := ih (d := d.opEnd o 0 []) (fun x hx => hl x (List.mem_cons_of_mem _ hx)) fences
    refine ⟨fun x hx => ?_, mem'.trans mem, failed'.trans failed, pairs'.trans pairs⟩
    obtain ⟨kept, others⟩ := rest x hx
    rw [ops, List.mem_filter, bne_iff_ne] at kept
    refine ⟨kept.1, fun y hy => ?_⟩
    rcases List.mem_cons.1 hy with hy | hy
    · rw [hy]
      exact kept.2
    · exact others y hy

/-! ## Ends of any issuer's operations -/

theorem Dev.triggerHere_now {s c : Nat} : (d.triggerHere s c).now = d.now := by
  unfold Dev.triggerHere Dev.trigger
  split
  · rfl
  · rfl
theorem Dev.landingSignal_now {t c n : Nat} {sl : Option Nat} {src : BitVec 16} : (d.landingSignal t c n sl src).now = d.now := by
  unfold Dev.landingSignal
  extract_lets p room w w'
  split
  · rfl
  · rfl
theorem Dev.putEnd_now {tag st : Nat} : (d.putEnd tag st).now = d.now := by
  unfold Dev.putEnd
  split
  · rfl
  · extract_lets st rest w
    split
    · rfl
    · split
      · rfl
      · extract_lets w'
        have kept : w'.now = d.now := by
          unfold w'
          split
          · exact Dev.landingSignal_now
          · rfl
        clear_value w'
        split
        · exact kept
        · exact kept
theorem Dev.issuerEnd_now {i : BitVec 16} {tag st n : Nat} : (d.issuerEnd i tag st n).now = d.now := by
  unfold Dev.issuerEnd
  split
  · exact Dev.putEnd_now
  · split
    · unfold Dev.tierBraidEnd
      split
      · rfl
      · split
        · rfl
        · rfl
    · rfl
theorem Dev.fencesDone_now : d.fencesDone.now = d.now := foldl_keeps Dev.now (fun _ _ => Dev.issuerEnd_now) _ _
theorem Dev.fencesDone_traffic : d.fencesDone.traffic = d.traffic := foldl_keeps Dev.traffic (fun _ _ => Dev.issuerEnd_traffic) _ _

theorem Dev.opEnd_now : (d.opEnd o st line).now = d.now := by
  rw [Dev.opEnd_eq, Dev.fencesDone_now, Dev.issuerEnd_now, Dev.opTriggers]
  split
  · exact Dev.triggerHere_now.trans (Dev.opTold_now.trans Dev.opLeft_now)
  · exact Dev.opTold_now.trans Dev.opLeft_now
theorem Dev.opEnd_pairs : (d.opEnd o st line).braid.pairs = d.braid.pairs := by
  have left : (d.opLeft o st line).braid.pairs = d.braid.pairs := by rw [Dev.opLeft_braid]
  have told : ((d.opLeft o st line).opTold o st).traffic = (d.opLeft o st line).traffic := Dev.opTold_traffic
  have triggered : (((d.opLeft o st line).opTold o st).opTriggers o st).traffic = (d.opLeft o st line).traffic := by
    unfold Dev.opTriggers
    split
    · exact Dev.triggerHere_traffic.trans told
    · exact told
  rw [Dev.opEnd_eq]
  exact (congrArg (·.2.2) (Dev.fencesDone_traffic.trans (Dev.issuerEnd_traffic.trans triggered))).trans left

/-! ## Timeouts -/

theorem Reg.fabric_not_lagReg {a : Nat} (h : 0x240000 ≤ a) (h' : a < 0x260000) : ¬ lagReg a := by
  rintro ⟨t, rfl⟩
  simp only [Reg.TICK_TILE_STATUS] at h h'
  omega

/-- A packet rests on the node and the epoch. -/
theorem Dev.opPacket_by {more : Bool} (hc : e.reg Reg.BRAID_CFG = d.reg Reg.BRAID_CFG) (he : e.reg Reg.BRAID_EPOCH = d.reg Reg.BRAID_EPOCH) :
    e.opPacket o more = d.opPacket o more := by
  have base (ty n : Nat) : e.hdrBase ty n = d.hdrBase ty n := by simp only [Dev.hdrBase, Dev.braidNode, Dev.getF, hc, he]
  simp only [Dev.opPacket, base]

/-- The operation is sent again at its instant. -/
def Dev.resent (d : Dev) (o : BraidOp) : Dev :=
  let d := d.modBraid fun x => { x with ops := x.ops.map fun y => if y.id == o.id then { y with last := d.now } else y }
  (d.braidOut (d.opPacket o false)).braidCount Reg.BRAID_RETRANSMIT 1
theorem braidRetryTimeout_some (h : earliest (·.last) d.braid.ops = some o) :
    braidRetryTimeoutEffect d = (d.advanceTo (o.last + d.getF Reg.BRAID_CFG F.BRAID_CFG_RETRY * 5000)).resent o := by
  unfold braidRetryTimeoutEffect
  rw [h]
  rfl
theorem Dev.resent_facts (hd : d.canon) : (d.resent o).now = d.now ∧ (d.resent o).braid.ops.map (·.id) = d.braid.ops.map (·.id) ∧
    (d.resent o).braid.outbox = d.braid.outbox ++ [d.opPacket o false] ∧ (d.resent o).braid.pairs = d.braid.pairs ∧ (d.resent o).mem = d.mem ∧
    (d.resent o).ctrs = d.ctrs ∧ (d.resent o).reg Reg.BRAID_RETRANSMIT = (d.count Reg.BRAID_RETRANSMIT F.BRAID_REFUSED_COUNT 1).reg Reg.BRAID_RETRANSMIT := by
  unfold Dev.resent
  extract_lets w
  have off : Dev.SameOff d w := Dev.modBraid_off
  have ids : w.braid.ops.map (·.id) = d.braid.ops.map (·.id) := by
    rw [show w.braid.ops = d.braid.ops.map fun y => if y.id == o.id then { y with last := d.now } else y from rfl, List.map_map]
    refine List.map_congr_left fun y _ => ?_
    rw [Function.comp_apply]
    split
    · rfl
    · rfl
  have same : w.braid.outbox = d.braid.outbox ∧ w.braid.pairs = d.braid.pairs := ⟨rfl, rfl⟩
  have canon : w.canon := hd.modBraid
  clear_value w
  have sent : Dev.SameOff w (w.braidOut (w.opPacket o false)) := Dev.modBraid_off
  have braid := Dev.braidOut_braid (d := w) (p := w.opPacket o false)
  have canon' : (w.braidOut (w.opPacket o false)).canon := canon.modBraid
  rw [Dev.opPacket_of off.regs] at *
  generalize w.braidOut (d.opPacket o false) = v at *
  have quiet := Dev.braidCount_quiet (d := v) (a := Reg.BRAID_RETRANSMIT) (n := 1)
  have regs : v.regs = d.regs := sent.regs.trans off.regs
  rw [quiet.now, quiet.mem, quiet.ctrs, quiet.braid, Dev.braidCount_reg, braid, same.1, same.2, sent.now, sent.mem, sent.ctrs]
  exact ⟨off.now, ids, rfl, rfl, off.mem, off.ctrs, Dev.reg_count_of canon' hd (by rw [Dev.reg, Dev.reg, regs])⟩

/-- The operations of a dead target fail. -/
def Dev.targetDied (d : Dev) (o : BraidOp) : Dev :=
  let d := d.setPair o.node { d.pair o.node with dead := true }
  (d.braid.ops.filter fun x => x.node == o.node).foldl (fun (d : Dev) x => d.opEnd x 8 []) d
theorem deadTargetTimeout_some (h : earliest (·.first) d.braid.ops = some o) : ∃ n, deadTargetTimeoutEffect d =
    ((((d.advanceTo (o.first + d.deadU)).targetDied o).raise 0xA004 0xFF braidSwitch o.node n).braidCount Reg.BRAID_DEAD_TARGET 1).braidShow := by
  unfold deadTargetTimeoutEffect
  rw [h]
  exact ⟨_, rfl⟩
theorem Dev.targetDied_facts (hd : d.canon) : (d.targetDied o).now = d.now ∧ ((d.targetDied o).pair o.node).dead = true := by
  unfold Dev.targetDied
  extract_lets x w
  have now := foldl_keeps Dev.now (fun (d : Dev) x => Dev.opEnd_now (d := d) (o := x) (st := 8) (line := [])) (w.braid.ops.filter fun x => x.node == o.node) w
  have pairs := foldl_keeps (fun d : Dev => d.braid.pairs) (fun (d : Dev) x => Dev.opEnd_pairs (d := d) (o := x) (st := 8) (line := []))
    (w.braid.ops.filter fun x => x.node == o.node) w
  have dead : w.pair o.node = { d.pair o.node with dead := true } := Dev.pair_setPair _ _ _ hd
  refine ⟨now, ?_⟩
  rw [Dev.pair, pairs, ← Dev.pair, dead]

theorem Dev.braidCount_ev_told {a n : Nat} {r : EventRec} (hr : r ∈ d.ev.arisen) : r ∈ (d.braidCount a n).ev.arisen := by
  obtain h | h := Dev.braidCount_cases (d := d) (a := a) (n := n)
  · rw [h, Dev.count_ev]
    exact hr
  · rw [h]
    refine mem_insertEvent_of_mem ?_
    rw [Dev.count_ev]
    exact hr

theorem deadTargetTimeout_facts (hd : d.canon) (h : earliest (·.first) d.braid.ops = some o) :
    let e := deadTargetTimeoutEffect d
    o.first + d.deadU ≤ e.now ∧ (∃ r ∈ e.ev.arisen, r.code = 0xA004 ∧ r.object = BitVec.ofNat 32 o.node) ∧ (e.pair o.node).dead = true := by
  obtain ⟨n, dies⟩ := deadTargetTimeout_some h
  obtain ⟨late, -⟩ := Dev.advanceTo_facts (d := d) (n := o.first + d.deadU)
  obtain ⟨now, dead⟩ := Dev.targetDied_facts (o := o) (hd.advanceTo (u := o.first + d.deadU))
  rw [dies]
  generalize (d.advanceTo (o.first + d.deadU)).targetDied o = w at *
  obtain ⟨r, hr, told⟩ := Dev.raise_tells (d := w) (c := 0xA004) (s := 0xFF) (x := braidSwitch) (o := o.node) (n := n)
  have counted := Dev.braidCount_quiet (d := w.raise 0xA004 0xFF braidSwitch o.node n) (a := Reg.BRAID_DEAD_TARGET) (n := 1)
  have shown := Dev.braidShow_quiet (d := (w.raise 0xA004 0xFF braidSwitch o.node n).braidCount Reg.BRAID_DEAD_TARGET 1)
  refine ⟨?_, ⟨r, ?_, told⟩, ?_⟩
  · rw [shown.now, counted.now, Dev.raise_now, now]
    exact late
  · rw [Dev.braidShow_ev]
    exact Dev.braidCount_ev_told hr
  · rw [Dev.pair, shown.braid, counted.braid, Dev.raise_braid]
    exact dead

theorem earliest_nil {f : BraidOp → Nat} : earliest f [] = none := rfl

/-! ## Responses -/

theorem braidReadRespArrive_fresh {u : Dev} (hu : u = d.arrivedTaken p) (h : d.braid.arrived.find? (fun x => pktType x == 8) = some p) (hs : d.stale p = false) :
    (u.braid.ops.find? (fun o => o.kind == .read && o.seq == hdrBits (hdr p) 32 12 && o.gen == hdrBits (hdr p) 44 8 && o.node == pktSrc p) = none →
      braidReadRespArriveEffect d = u) ∧
    (∀ o, u.braid.ops.find? (fun o => o.kind == .read && o.seq == hdrBits (hdr p) 32 12 && o.gen == hdrBits (hdr p) 44 8 && o.node == pktSrc p) = some o →
      braidReadRespArriveEffect d =
        ((u.setPair o.node { u.pair o.node with credits := (u.pair o.node).credits + 1 }).opEnd o (hdrBits (hdr p) 52 4) (bytesAt p 16 64)).braidShow) := by
  rw [← Dev.stale_arrivedTaken (p' := p), ← hu] at hs
  unfold braidReadRespArriveEffect
  rw [Dev.takeArrived_some (ok := (· == 8)) h, ← hu]
  refine ⟨fun hn => (if_neg (ne_true_of_eq_false hs)).trans ?_, fun o ho => (if_neg (ne_true_of_eq_false hs)).trans ?_⟩
  · rw [hn]
  · rw [ho]

theorem braidRefuseArrive_fresh {u : Dev} (hu : u = d.arrivedTaken p) (h : d.braid.arrived.find? (fun x => pktType x == 10) = some p) (hs : d.stale p = false) :
    (u.braid.ops.find? (fun o => o.isWrite && o.node == pktSrc p && o.seq == hdrBits (hdr p) 32 32) = none → braidRefuseArriveEffect d = u) ∧
    (∀ o, u.braid.ops.find? (fun o => o.isWrite && o.node == pktSrc p && o.seq == hdrBits (hdr p) 32 32) = some o →
      braidRefuseArriveEffect d = (u.opEnd o (hdrBits (hdr p) 64 4) []).braidShow) := by
  rw [← Dev.stale_arrivedTaken (p' := p), ← hu] at hs
  unfold braidRefuseArriveEffect
  rw [Dev.takeArrived_some (ok := (· == 10)) h, ← hu]
  refine ⟨fun hn => (if_neg (ne_true_of_eq_false hs)).trans ?_, fun o ho => (if_neg (ne_true_of_eq_false hs)).trans ?_⟩
  · rw [hn]
  · rw [ho]

/-- What an acknowledgement ends, once its credits are back. -/
def Dev.acked (d : Dev) (p : Bytes) : Dev :=
  let x := d.pair (pktSrc p)
  let d := d.setPair (pktSrc p) { x with credits := x.credits + hdrBits (hdr p) 64 10 + hdrBits (hdr p) 74 11 }
  (d.braid.ops.filter fun o => o.node == pktSrc p && o.isWrite && decide ((hdrBits (hdr p) 32 32 + 2 ^ 32 - o.seq) % 2 ^ 32 < 2 ^ 31)).foldl
    (fun (d : Dev) o => d.opEnd o 0 []) d
theorem braidAckArrive_fresh (h : d.braid.arrived.find? (fun x => pktType x == 9) = some p) (hs : d.stale p = false) :
    braidAckArriveEffect d = ((d.arrivedTaken p).acked p).braidShow := by
  rw [← Dev.stale_arrivedTaken (p' := p)] at hs
  unfold braidAckArriveEffect
  rw [Dev.takeArrived_some (ok := (· == 9)) h]
  exact if_neg (ne_true_of_eq_false hs)
theorem Dev.acked_facts (hd : d.canon) (hi : ∀ o ∈ d.braid.ops, o.issuer = systemSteward) (hf : d.braid.fences = []) :
    (∀ o ∈ (d.acked p).braid.ops, o ∈ d.braid.ops ∧
      (o.node == pktSrc p && o.isWrite && decide ((hdrBits (hdr p) 32 32 + 2 ^ 32 - o.seq) % 2 ^ 32 < 2 ^ 31)) = false) ∧
    (d.acked p).mem = d.mem ∧ (d.acked p).braid.failed = d.braid.failed ∧
    ((d.acked p).pair (pktSrc p)).credits = (d.pair (pktSrc p)).credits + hdrBits (hdr p) 64 10 + hdrBits (hdr p) 74 11 ∧
    ((d.acked p).pair (pktSrc p)).next = (d.pair (pktSrc p)).next := by
  unfold Dev.acked
  extract_lets x w
  have pair : w.pair (pktSrc p) = { x with credits := x.credits + hdrBits (hdr p) 64 10 + hdrBits (hdr p) 74 11 } := Dev.pair_setPair _ _ _ hd
  have same : w.braid.ops = d.braid.ops ∧ w.mem = d.mem ∧ w.braid.failed = d.braid.failed ∧ w.braid.fences = d.braid.fences := ⟨rfl, rfl, rfl, rfl⟩
  clear_value w
  obtain ⟨ops, mem, failed, fences⟩ := same
  obtain ⟨rest, mem', failed', pairs⟩ := Dev.opEnds_ok (d := w)
    (l := w.braid.ops.filter fun o => o.node == pktSrc p && o.isWrite && decide ((hdrBits (hdr p) 32 32 + 2 ^ 32 - o.seq) % 2 ^ 32 < 2 ^ 31))
    (fun o ho => by
      rw [List.mem_filter, Bool.and_eq_true, Bool.and_eq_true, ops] at ho
      exact ⟨hi o ho.1, ho.2.1.2⟩) (fences.trans hf)
  refine ⟨fun o ho => ?_, mem'.trans mem, failed'.trans failed, ?_⟩
  · obtain ⟨was, others⟩ := rest o ho
    refine ⟨ops ▸ was, eq_false_of_ne_true fun hdone => ?_⟩
    exact others o (List.mem_filter.2 ⟨was, hdone⟩) rfl
  · rw [Dev.pair, pairs, ← Dev.pair, pair]
    exact ⟨rfl, rfl⟩

/-- Settles O39: what a response ends is what it names, and the timeouts repeat or end the earliest. -/
theorem braidResponsesAndTimeoutsEndOperations : Obligations.BraidResponsesAndTimeoutsEndOperations := by
  unfold Obligations.BraidResponsesAndTimeoutsEndOperations
  refine ⟨fun p s hs h he => ⟨fun hn => runs_ran rfl hs ?_, fun o ho => runs_ran rfl hs ?_⟩, fun d o st line hi hs hf => ?_,
    fun p s hs hd h he hi hf => runs_ran rfl hs ?_, fun p s hs h he => ⟨fun hn => runs_ran rfl hs ?_, fun o ho => runs_ran rfl hs ?_⟩,
    fun s hs h => ⟨runs_ran rfl hs ?_, runs_ran rfl hs ?_⟩, fun o s hs hd h => runs_ran rfl hs ?_,
    fun o s hs hd h => runs_ran rfl hs (deadTargetTimeout_facts hd h)⟩
  · exact (braidReadRespArrive_fresh rfl h (Dev.stale_false he)).1 (List.find?_eq_none.2 fun o ho => ne_true_of_eq_false (hn o ho))
  · exact (braidReadRespArrive_fresh rfl h (Dev.stale_false he)).2 o ho
  · refine ⟨(Dev.opEnd_steward_facts hi hs hf).1, fun hk => ?_, fun hw => ?_⟩ <;> rw [Dev.opEnd_steward hi hs hf]
    · exact Dev.opTold_mem.trans (Dev.opLeft_read hk)
    · refine ⟨Dev.opTold_mem.trans (Dev.opLeft_write hw), ?_⟩
      rw [Dev.opTold_failed (by rw [Dev.opLeft_braid]; exact hf) hw, Dev.opLeft_braid]
  · rw [braidAckArrive_fresh h (Dev.stale_false he)]
    obtain ⟨ops, mem, failed, credits, next⟩ := Dev.acked_facts (d := s.dev.arrivedTaken p) (p := p) hd.modBraid hi hf
    have shown := Dev.braidShow_quiet (d := (s.dev.arrivedTaken p).acked p)
    rw [Dev.pair, shown.braid, shown.mem]
    exact ⟨ops, mem, failed, credits, next⟩
  · exact (braidRefuseArrive_fresh rfl h (Dev.stale_false he)).1 (List.find?_eq_none.2 fun o ho => ne_true_of_eq_false (hn o ho))
  · exact (braidRefuseArrive_fresh rfl h (Dev.stale_false he)).2 o ho
  · unfold braidRetryTimeoutEffect
    rw [h, earliest_nil]
  · unfold deadTargetTimeoutEffect
    rw [h, earliest_nil]
  · have late := Dev.advanceTo_facts (d := s.dev) (n := o.last + s.dev.getF Reg.BRAID_CFG F.BRAID_CFG_RETRY * 5000)
    obtain ⟨now, ids, sent, pairs, mem, ctrs, reg⟩ := Dev.resent_facts (o := o)
      (hd.advanceTo (u := o.last + s.dev.getF Reg.BRAID_CFG F.BRAID_CFG_RETRY * 5000))
    have regs {a : Nat} (h : 0x240000 ≤ a) (h' : a < 0x260000) : (s.dev.advanceTo (o.last + s.dev.getF Reg.BRAID_CFG F.BRAID_CFG_RETRY * 5000)).reg a = s.dev.reg a :=
      Dev.reg_advance _ hd (Reg.fabric_not_lagReg h h')
    have braid : (s.dev.advanceTo (o.last + s.dev.getF Reg.BRAID_CFG F.BRAID_CFG_RETRY * 5000)).braid = s.dev.braid := Dev.advance_braid _ _
    rw [Dev.opPacket_by (regs (by decide) (by decide)) (regs (by decide) (by decide)), braid] at sent
    rw [braid] at ids pairs
    rw [braidRetryTimeout_some h]
    exact ⟨late.1.trans_eq now.symm, ids, sent, pairs, mem.trans late.2, ctrs.trans (Dev.advance_ctrs _ _),
      reg.trans (Dev.reg_count_of hd.advanceTo hd (regs (by decide) (by decide)))⟩

end Sys2Proof.Machine
end

section
/-! SUPPORT. Timed puts (R380, R381). -/
namespace Sys2Proof.Machine

-- One proof after another: with many at once their threads' stacks exceed the memory that the check allows.
set_option Elab.async false

variable {d e u : Dev} {p : Bytes} {id tag n i : Nat}

/-! ## Arming, and the lines of a put -/

theorem putArm_none {m : Master} {v : Nat} (h : d.putRec (v % 1024) = none) : putArmEffect m v d = d := by
  unfold putArmEffect
  extract_lets id
  rw [show d.putRec id = none from h]
theorem putArm_some {m : Master} {v : Nat} (h : d.putRec (v % 1024) = some p) : putArmEffect m v d =
    if m != stewardOf (leAt p 5 1) || !d.inBoundary then d else d.modBraid fun x => { x with armed := store 0 x.armed (v % 1024) (d.tickNo + 2) } := by
  unfold putArmEffect
  extract_lets id
  rw [show d.putRec id = some p from h]

/-- The ask of a put's line. -/
def Dev.putAsk (d : Dev) (p : Bytes) (tag i : Nat) : BraidAsk :=
  ⟨braidSwitch, tag, leAt p 2 1, if leAt p 3 1 / 2 % 2 == 1 && i + 1 == leAt p 20 4 then .flag else .write, leAt p 32 8 + 64 * i, leAt p 4 1,
    d.bytes ((d.place (leAt p 24 8)).getD 0 + 64 * i) 64, 0, leAt p 40 2⟩
theorem Dev.putAsks_eq : d.putAsks p tag = (List.range (leAt p 20 4)).map (d.putAsk p tag) := rfl
theorem Dev.putAsks_length : (d.putAsks p tag).length = leAt p 20 4 := by rw [Dev.putAsks_eq, List.length_map, List.length_range]
theorem Dev.putAsks_get (h : i < (d.putAsks p tag).length) : (d.putAsks p tag)[i] = d.putAsk p tag i := by
  simp only [Dev.putAsks_eq, List.getElem_map, List.getElem_range]
theorem Dev.putAsk_kind : ((d.putAsk p tag i).kind = .flag ↔ leAt p 3 1 / 2 % 2 = 1 ∧ i + 1 = leAt p 20 4) ∧
    ((d.putAsk p tag i).kind ≠ .flag → (d.putAsk p tag i).kind = .write) := by
  have flag : (leAt p 3 1 / 2 % 2 == 1 && i + 1 == leAt p 20 4) = true ↔ leAt p 3 1 / 2 % 2 = 1 ∧ i + 1 = leAt p 20 4 := by
    rw [Bool.and_eq_true, beq_iff_eq, beq_iff_eq]
  change ((if _ then AskKind.flag else AskKind.write) = _ ↔ _) ∧ ((if _ then AskKind.flag else AskKind.write) ≠ _ → (if _ then AskKind.flag else AskKind.write) = _)
  by_cases h : (leAt p 3 1 / 2 % 2 == 1 && i + 1 == leAt p 20 4) = true
  · rw [if_pos h]
    exact ⟨iff_of_true rfl (flag.1 h), fun h' => absurd rfl h'⟩
  · rw [if_neg h]
    exact ⟨iff_of_false (by decide) fun h' => h (flag.2 h'), fun _ => rfl⟩

/-! ## What time leaves of the source and the tile -/

theorem coreCfg_not_lagReg {t c : Nat} : ¬ lagReg (Reg.KNEAD_CORE_CFG t c) := by
  rintro ⟨u, hu⟩
  have := u.isLt
  simp only [Reg.KNEAD_CORE_CFG, Reg.TICK_TILE_STATUS] at hu
  omega
theorem Dev.putAsks_of (hm : e.mem = d.mem) (h : ∀ t c, e.reg (Reg.KNEAD_CORE_CFG t c) = d.reg (Reg.KNEAD_CORE_CFG t c)) :
    e.putAsks p tag = d.putAsks p tag := by
  refine List.map_congr_left fun i _ => ?_
  rw [Dev.place_of h, Dev.bytes_of hm]

/-- A tile's local position never falls as time passes. -/
theorem Dev.pos_advanceTile {t u : Nat} (hd : d.canon) : (d.tile u).pos ≤ ((d.advanceTile n t).tile u).pos := by
  by_cases htu : t = u
  · unfold Dev.advanceTile
    rw [← htu]
    extract_lets x w m
    split
    · split
      · rw [Dev.setFs_tile]
      · exact Nat.le_refl _
    · rw [Dev.tile_setTile _ _ _ hd]
      dsimp only
      split
      · next h => exact Nat.le_min.2 ⟨Nat.le_of_lt h, Nat.le_add_right ..⟩
      · exact Nat.le_refl _
  · rw [Dev.tile_advanceTile_ne n hd htu]
theorem Dev.pos_advance {u : Nat} (hd : d.canon) : (d.tile u).pos ≤ ((d.advance n).tile u).pos := by
  have steps (l : List Nat) : ∀ d : Dev, d.canon → (d.tile u).pos ≤ ((l.foldl (Dev.advanceTile n) d).tile u).pos := by
    induction l with
    | nil => exact fun d _ => Nat.le_refl _
    | cons t r ih => exact fun d hd => (Dev.pos_advanceTile hd).trans (ih _ (Dev.canon_advanceTile n t hd))
  rw [Dev.advance]
  split
  · exact Nat.le_refl _
  · exact steps tiles6 { d with now := d.now + n * kcU } (Dev.canon_now _ hd)

/-! ## Launch -/

/-- A put that is late, or that overlaps its last firing, is counted and told. -/
def Dev.putCounted (d : Dev) (p : Bytes) (id due : Nat) : Dev :=
  let d := if d.now > due + (kcU - 1) then d.braidCount Reg.BRAID_PUT_LATE 1 else d
  if d.braid.puts.any (·.put == id) then (d.braidCount Reg.BRAID_PUT_OVERLAP 1).raise 0xA00A (leAt p 2 1) braidSwitch id 0 else d
/-- The put's lines are asked for. -/
def Dev.putStarted (d : Dev) (p : Bytes) (id N : Nat) : Dev :=
  let run := d.braid.nextId
  let asks := d.putAsks p (id + 1024 * run)
  let d := { d with asks := d.asks ++ asks }
  (d.modBraid fun x => { x with launched := store 0 x.launched id (N + 1), nextId := x.nextId + 1,
                                puts := x.puts ++ [⟨id, run, asks.length, 0⟩] }).braidShow
/-- A put that may fire in its tick. -/
def Dev.putFires (d : Dev) (p : Bytes) (id : Nat) : Bool :=
  d.tickNo % leAt p 16 2 == leAt p 18 2 && (leAt p 3 1 % 2 == 0 || look 0 d.braid.armed id == d.tickNo + 1)
def Dev.putHeld (d : Dev) (p : Bytes) (id : Nat) : Bool :=
  !d.putFires p id || look 0 d.braid.launched id == d.tickNo + 1 || !d.putServes (leAt p 2 1) || d.selfFenced || !d.getB Reg.RECIPE_STATUS F.RECIPE_STATUS_ACTIVE
/-- The instant of a put's OFFSET in its tick. -/
def Dev.putDue (d : Dev) (p : Bytes) : Nat := d.tickNo * d.tickU + leAt p 8 4 * 5

theorem putLaunch_none (h : d.putRec id = none) : putLaunchEffect id d = d := by
  unfold putLaunchEffect
  rw [h]
theorem putLaunch_held (h : d.putRec id = some p) (hh : d.putHeld p id = true) : putLaunchEffect id d = d := by
  unfold putLaunchEffect
  rw [h]
  exact if_pos hh
theorem putLaunch_fires (h : d.putRec id = some p) (hh : d.putHeld p id = false)
    (hr : ((d.advanceTo (d.putDue p)).tile (leAt p 5 1)).pos < leAt p 12 4 → (d.advanceTo (d.putDue p)).paused (leAt p 5 1) = false) :
    ∃ n, putLaunchEffect id d = ((((d.advanceTo (d.putDue p)).advance n).putCounted p id (d.putDue p))).putStarted p id d.tickNo := by
  unfold putLaunchEffect
  rw [h]
  refine ⟨_, (if_neg (ne_true_of_eq_false hh)).trans (if_neg ?_)⟩
  rw [Bool.and_eq_true, decide_eq_true_eq]
  exact fun h' => ne_true_of_eq_false (hr h'.1) h'.2

theorem Dev.putCounted_quiet {due : Nat} : Dev.Quiet (fun a => a = Reg.BRAID_PUT_LATE ∨ a = Reg.BRAID_PUT_OVERLAP) d (d.putCounted p id due) := by
  have counted (d : Dev) (a n : Nat) (h : a = Reg.BRAID_PUT_LATE ∨ a = Reg.BRAID_PUT_OVERLAP) :
      Dev.Quiet (fun a => a = Reg.BRAID_PUT_LATE ∨ a = Reg.BRAID_PUT_OVERLAP) d (d.braidCount a n) := by
    have quiet := Dev.braidCount_quiet (d := d) (a := a) (n := n)
    exact ⟨quiet.keeps, quiet.rest, fun hd b hb => quiet.regs hd b fun he => hb (he ▸ h)⟩
  unfold Dev.putCounted
  extract_lets w
  have late : Dev.Quiet (fun a => a = Reg.BRAID_PUT_LATE ∨ a = Reg.BRAID_PUT_OVERLAP) d w := (counted d _ 1 (.inl rfl)).ite .refl
  exact (late.trans (counted w _ 1 (.inr rfl)).raise).ite late
theorem Dev.Quiet.sent {q : Nat → Prop} (h : Dev.Quiet q d e) : e.sent = d.sent := (congrArg Dev.sent h.rest :)

theorem Dev.putStarted_facts {N : Nat} : (d.putStarted p id N).now = d.now ∧ (d.putStarted p id N).mem = d.mem ∧ (d.putStarted p id N).sent = d.sent ∧
    (d.putStarted p id N).braid.launched = store 0 d.braid.launched id (N + 1) ∧
    (d.putStarted p id N).braid.puts = d.braid.puts ++ [⟨id, d.braid.nextId, leAt p 20 4, 0⟩] ∧
    (d.putStarted p id N).asks = d.asks ++ d.putAsks p (id + 1024 * d.braid.nextId) := by
  unfold Dev.putStarted
  extract_lets run asks u
  rw [show asks.length = leAt p 20 4 from Dev.putAsks_length]
  generalize hv : u.modBraid (fun x => { x with launched := store 0 x.launched id (N + 1), nextId := x.nextId + 1, puts := x.puts ++ [⟨id, run, leAt p 20 4, 0⟩] }) = v
  have shown := Dev.braidShow_quiet (d := v)
  rw [shown.now, shown.mem, shown.sent, shown.braid, shown.asks, ← hv]
  exact ⟨rfl, rfl, rfl, rfl, rfl, rfl⟩

/-- A put that fires asks for its lines at its instant or later. -/
theorem putLaunch_facts (hd : d.canon) (h : d.putRec id = some p) (hh : d.putHeld p id = false)
    (hr : d.paused (leAt p 5 1) = false ∨ leAt p 12 4 ≤ (d.tile (leAt p 5 1)).pos) :
    let e := putLaunchEffect id d
    d.tickNo * d.tickU + leAt p 8 4 * 5 ≤ e.now ∧ e.mem = d.mem ∧ e.sent = d.sent ∧ e.braid.launched = store 0 d.braid.launched id (d.tickNo + 1) ∧
      e.braid.puts = d.braid.puts ++ [⟨id, d.braid.nextId, leAt p 20 4, 0⟩] ∧ e.asks = d.asks ++ d.putAsks p (id + 1024 * d.braid.nextId) := by
  have ready : ((d.advanceTo (d.putDue p)).tile (leAt p 5 1)).pos < leAt p 12 4 → (d.advanceTo (d.putDue p)).paused (leAt p 5 1) = false := fun hpos => by
    rw [Dev.advanceTo, Dev.paused_advance _ _ hd]
    exact hr.resolve_right fun hle => Nat.not_le_of_lt hpos (hle.trans (Dev.pos_advance hd))
  obtain ⟨n, fires⟩ := putLaunch_fires h hh ready
  obtain ⟨late, -⟩ := Dev.advanceTo_facts (d := d) (n := d.putDue p)
  have counted := Dev.putCounted_quiet (d := (d.advanceTo (d.putDue p)).advance n) (p := p) (id := id) (due := d.putDue p)
  obtain ⟨now, mem, sent, launched, puts, asks⟩ := Dev.putStarted_facts
    (d := ((d.advanceTo (d.putDue p)).advance n).putCounted p id (d.putDue p)) (p := p) (id := id) (N := d.tickNo)
  have lines : (((d.advanceTo (d.putDue p)).advance n).putCounted p id (d.putDue p)).putAsks p (id + 1024 * d.braid.nextId) =
      d.putAsks p (id + 1024 * d.braid.nextId) := by
    refine Dev.putAsks_of (by rw [counted.mem, Dev.advance_mem, Dev.advanceTo, Dev.advance_mem]) fun t c => ?_
    have off : ¬ (Reg.KNEAD_CORE_CFG t c = Reg.BRAID_PUT_LATE ∨ Reg.KNEAD_CORE_CFG t c = Reg.BRAID_PUT_OVERLAP) := by
      unfold Reg.KNEAD_CORE_CFG Reg.BRAID_PUT_LATE Reg.BRAID_PUT_OVERLAP
      omega
    rw [counted.regs hd.advanceTo.advance _ off, Dev.reg_advance _ hd.advanceTo coreCfg_not_lagReg, Dev.advanceTo,
      Dev.reg_advance _ hd coreCfg_not_lagReg]
  have braid : (((d.advanceTo (d.putDue p)).advance n).putCounted p id (d.putDue p)).braid = d.braid := by
    rw [counted.braid, Dev.advance_braid, Dev.advanceTo, Dev.advance_braid]
  rw [braid] at launched puts asks
  rw [lines, counted.asks, Dev.advance_asks, Dev.advanceTo, Dev.advance_asks] at asks
  rw [counted.now, Dev.advance_now] at now
  rw [counted.mem, Dev.advance_mem, Dev.advanceTo, Dev.advance_mem] at mem
  rw [counted.sent, Dev.advance_sent, Dev.advanceTo, Dev.advance_sent] at sent
  rw [fires]
  exact ⟨(late.trans (Nat.le_add_right ..)).trans_eq now.symm, mem, sent, launched, puts, asks⟩

/-- Settles O41: a put is armed by its steward, fires by its cycle and phase, and asks for each of its lines. -/
theorem timedPutsArmAndLaunch : Obligations.TimedPutsArmAndLaunch := by
  unfold Obligations.TimedPutsArmAndLaunch
  refine ⟨fun m v s hs => ⟨fun h => runs_ranFrom rfl hs (putArm_none h), fun p h => ⟨fun hm => runs_ranFrom rfl hs ?_, fun hm hb => runs_ranFrom rfl hs ?_⟩⟩,
    fun id s hs => ⟨fun h => runs_ran rfl hs (putLaunch_none h), fun p h hf => runs_ran rfl hs (putLaunch_held h ?_),
      fun p hd h hN ha hl hsv hsf hact hr => runs_ran rfl hs (putLaunch_facts hd h ?_ hr)⟩, fun d p tag i h => ?_⟩
  · rw [putArm_some h]
    refine if_pos ?_
    rw [Bool.or_eq_true, bne_iff_ne, Bool.not_eq_true']
    exact hm
  · rw [putArm_some h]
    refine if_neg ?_
    rw [hm, hb, bne_self_eq_false]
    exact Bool.false_ne_true
  · unfold Dev.putHeld Dev.putFires
    rcases hf with hf | ⟨ha, hf⟩ | hf
    · rw [beq_eq_false_iff_ne.2 hf]
      rfl
    · rw [beq_eq_false_iff_ne.2 hf, ha]
      simp
    · rw [beq_iff_eq.2 hf]
      simp
  · have fires : s.dev.putFires p id = true := by
      rw [Dev.putFires, Bool.and_eq_true, Bool.or_eq_true, beq_iff_eq, beq_iff_eq, beq_iff_eq]
      exact ⟨hN, ha⟩
    rw [Dev.putHeld, fires, beq_eq_false_iff_ne.2 hl, hsv, hsf, hact]
    rfl
  · dsimp only
    rw [Dev.putAsks_get h]
    exact ⟨Dev.putAsks_length, rfl, rfl, rfl, rfl, Dev.putAsk_kind⟩

end Sys2Proof.Machine
end

section
/-! SUPPORT. Landing signals and the steward's writes of counters (R390, R395, R396, R404). -/
namespace Sys2Proof.Machine

-- One proof after another: with many at once their threads' stacks exceed the memory that the check allows.
set_option Elab.async false

variable {d e u : Dev} {t c n : Nat}

/-! ## A tile's time in any state -/

theorem lookup?_erase_above {V : Type} {m : SMap V} {a b : Nat} (h : a < b) : lookup? (erase m a) b = lookup? m b := by
  induction m with
  | nil => rfl
  | cons p r ih =>
    obtain ⟨k, v⟩ := p
    by_cases hk : k = a
    · rw [erase, if_pos (beq_iff_eq.2 hk), lookup?, hk, if_neg (by simpa using Nat.ne_of_lt h), if_neg (Nat.not_lt_of_gt h)]
    · by_cases hl : a < k
      · rw [erase, if_neg (by simpa using hk), if_pos hl]
      · rw [erase, if_neg (by simpa using hk), if_neg hl, lookup?, lookup?, ih]
theorem Dev.reg_setReg_below {a b : Nat} {v : Word} (h : a < b) : (d.setReg a v).reg b = d.reg b := by
  have same : lookup? (store (regReset a) d.regs a v) b = lookup? d.regs b := by
    unfold store
    split
    · exact lookup?_erase_above h
    · exact lookup?_insertAt_ne (Nat.ne_of_lt h)
  rw [Dev.reg, Dev.reg, Dev.setReg, same]
theorem Dev.tile_setTile_moved {x : TileState} {v : Nat} (hx : 0 < x.lk) (hv : v ≠ t) : (d.setTile v x).tile t = d.tile t := by
  have moved : x ≠ TileState.init := fun h => by
    rw [h] at hx
    exact Nat.lt_irrefl 0 hx
  rw [Dev.tile, Dev.setTile, look, store, if_neg moved, lookup?_insertAt_ne hv]
  rfl
theorem Dev.tile_setTile_self_moved {x : TileState} (hx : 0 < x.lk) : (d.setTile t x).tile t = x := by
  have moved : x ≠ TileState.init := fun h => by
    rw [h] at hx
    exact Nat.lt_irrefl 0 hx
  rw [Dev.tile, Dev.setTile, look, store, if_neg moved, lookup?_insertAt_self]
  rfl

/-- Another tile's time leaves a tile, and a lower one's its pause. -/
theorem Dev.tile_advanceTile_other {v : Nat} (hn : 0 < n) (hv : v ≠ t) : (d.advanceTile n v).tile t = d.tile t := by
  rcases d.advanceTile_cases n v with ⟨_, _, h⟩ | h | ⟨_, _, h⟩ <;> rw [h]
  · exact Dev.setFs_tile ..
  · exact Dev.tile_setTile_moved (Nat.add_pos_right _ hn) hv
theorem Dev.paused_advanceTile_below {v : Nat} (hv : v < t) : (d.advanceTile n v).paused t = d.paused t := by
  rcases d.advanceTile_cases n v with ⟨_, _, h⟩ | h | ⟨_, _, h⟩ <;> rw [h]
  · refine congrArg (fieldOf F.TICK_TILE_STATUS_PAUSED · == 1) (Dev.reg_setReg_below ?_)
    unfold Reg.TICK_TILE_STATUS
    omega
  · rfl
theorem Dev.lk_advanceTile_running (hn : 0 < n) (hp : d.paused t = false) : ((d.advanceTile n t).tile t).lk = (d.tile t).lk + n := by
  unfold Dev.advanceTile
  simp only [hp, Bool.false_eq_true, if_false]
  rw [Dev.tile_setTile_self_moved (Nat.add_pos_right _ hn)]

theorem tiles6_around (t : Tile) : tiles6 = tiles6.take t ++ t.val :: tiles6.drop (t + 1) ∧ (∀ v ∈ tiles6.take t, v < t.val) ∧
    ∀ v ∈ tiles6.drop (t + 1), v ≠ t.val := by
  revert t
  decide

/-- A running tile's own cycles pass with device time, whatever the stores list. -/
theorem Dev.lk_advance_running (t : Tile) (hp : d.paused t = false) : ((d.advance n).tile t).lk = (d.tile t).lk + n := by
  have below (l : List Nat) : ∀ d : Dev, (0 < n) → (∀ v ∈ l, v < t.val) → (l.foldl (Dev.advanceTile n) d).tile t = d.tile t ∧
      (l.foldl (Dev.advanceTile n) d).paused t = d.paused t := by
    induction l with
    | nil => exact fun d _ _ => ⟨rfl, rfl⟩
    | cons v r ih =>
      intro d hn h
      have hv := h v List.mem_cons_self
      obtain ⟨tile, paused⟩ := ih (d.advanceTile n v) hn fun x hx => h x (List.mem_cons_of_mem _ hx)
      exact ⟨tile.trans (Dev.tile_advanceTile_other hn (Nat.ne_of_lt hv)), paused.trans (Dev.paused_advanceTile_below hv)⟩
  have above (l : List Nat) : ∀ d : Dev, (0 < n) → (∀ v ∈ l, v ≠ t.val) → (l.foldl (Dev.advanceTile n) d).tile t = d.tile t := by
    induction l with
    | nil => exact fun d _ _ => rfl
    | cons v r ih => exact fun d hn h => (ih _ hn fun x hx => h x (List.mem_cons_of_mem _ hx)).trans (Dev.tile_advanceTile_other hn (h v List.mem_cons_self))
  obtain ⟨split6, lower, other⟩ := tiles6_around t
  rw [Dev.advance]
  split
  · next h => rw [beq_iff_eq.1 h, Nat.add_zero]
  · next h =>
    have hn : 0 < n := Nat.pos_of_ne_zero fun h' => h (beq_iff_eq.2 h')
    obtain ⟨tile, paused⟩ := below (tiles6.take t) { d with now := d.now + n * kcU } hn lower
    rw [split6, List.foldl_append, List.foldl_cons, above _ _ hn other, Dev.lk_advanceTile_running hn (paused.trans hp), tile]
    rfl

/-! ## Landing signals -/

theorem Dev.landingSignal_joins {sl : Option Nat} {src : BitVec 16} {a : Nat} (hd : d.canon) :
    let e := d.landingSignal t c a sl src
    let p := d.getF (Reg.PROOF_PEND t c) F.PROOF_PEND_PEND
    e.getF (Reg.PROOF_PEND t c) F.PROOF_PEND_PEND = min (p + a) 0xFFFFFFFF ∧ d.sameRegs e (· = Reg.PROOF_PEND t c) ∧ e.mem = d.mem ∧
      e.ctrs.sigs = d.ctrs.sigs ∧ e.ctrs.waits = d.ctrs.waits ∧ (p + a < 2 ^ 32 → e.ev = d.ev) ∧ (2 ^ 32 ≤ p + a → d.raised e fun r => r.code = 0xB004) := by
  have p_lt : d.getF (Reg.PROOF_PEND t c) F.PROOF_PEND_PEND < 2 ^ 32 := Dev.getF_lt ..
  unfold Dev.landingSignal
  extract_lets p room old w w' e
  have sum : p + room = min (p + a) 0xFFFFFFFF := by
    change p < 2 ^ 32 at p_lt
    change p + min a (0xFFFFFFFF - p) = _
    omega
  have field : w'.getF (Reg.PROOF_PEND t c) F.PROOF_PEND_PEND = min (p + a) 0xFFFFFFFF := by
    rw [← sum]
    exact Dev.getF_setF_lt (d := w) hd (by rw [sum]; exact Nat.lt_of_le_of_lt (Nat.min_le_right ..) (by decide))
  have regs : d.sameRegs w' (· = Reg.PROOF_PEND t c) := fun b hb => Dev.sameRegs_setF (d := w) _ _ _ hd b hb
  have kept : w'.mem = d.mem ∧ w'.ctrs.sigs = d.ctrs.sigs ∧ w'.ctrs.waits = d.ctrs.waits ∧ w'.ev = d.ev := ⟨rfl, rfl, rfl, rfl⟩
  clear_value w'
  obtain ⟨mem, sigs, waits, ev⟩ := kept
  by_cases h : p + a < 2 ^ 32
  · rw [show e = w' from if_pos h]
    exact ⟨field, regs, mem, sigs, waits, fun _ => ev, fun h' => absurd h (Nat.not_lt_of_le h')⟩
  · rw [show e = _ from if_neg h]
    refine ⟨(Dev.raise_getF ..).trans field, fun b hb => ?_, mem, sigs, waits, fun h' => absurd h' h, fun _ => Dev.raise_raised ev rfl⟩
    rw [Dev.raise_reg]
    exact regs b hb

theorem proofHostSignal_eq {m : Master} {v : Word} : proofHostSignalEffect m t v d =
    if m = hostDriver then d.landingSignal t (v.toNat % 1024) (v.toNat / 2 ^ 32) none m
    else if isSliceMaster m.toNat = true then d.landingSignal t (v.toNat % 1024) (v.toNat / 2 ^ 32) (some (m.toNat % 64)) m else d := by
  have counter : fieldOf F.PROOF_HOST_SIGNAL_COUNTER v = v.toNat % 1024 := congrArg (· % 1024) (Nat.div_one _)
  have amount : fieldOf F.PROOF_HOST_SIGNAL_AMOUNT v = v.toNat / 2 ^ 32 := Nat.mod_eq_of_lt (Nat.div_lt_of_lt_mul v.isLt)
  unfold proofHostSignalEffect isSliceMaster
  rw [counter, amount]
  simp only [beq_iff_eq]
theorem proofStewardSignal_eq {m : Master} {v : Word} : proofStewardSignalEffect m t v d =
    if m = stewardOf t ∨ m = systemSteward then d.landingSignal t (v.toNat % 1024) (v.toNat / 2 ^ 32) none m else d := by
  have counter : fieldOf F.PROOF_STEWARD_SIGNAL_COUNTER v = v.toNat % 1024 := congrArg (· % 1024) (Nat.div_one _)
  have amount : fieldOf F.PROOF_STEWARD_SIGNAL_AMOUNT v = v.toNat / 2 ^ 32 := Nat.mod_eq_of_lt (Nat.div_lt_of_lt_mul v.isLt)
  unfold proofStewardSignalEffect
  rw [counter, amount]
  simp only [Bool.or_eq_true, beq_iff_eq]

/-! ## Application -/

/-- One taken sum becomes a signal at the tile's present cycle. -/
def Dev.sumSignalled (t : Nat) (d : Dev) (p : Nat × Nat) : Dev :=
  { d with ctrs := { d.ctrs with sigs := d.ctrs.sigs ++ [(⟨t, p.1 % 1024, p.2, none, 0#16, (d.tile t).lk, true⟩ : SigEv)] } }
theorem Dev.sumsSignalled (l : List (Nat × Nat)) : ∀ d : Dev, l.foldl (Dev.sumSignalled t) d =
    { d with ctrs := { d.ctrs with sigs := d.ctrs.sigs ++ l.map fun p => (⟨t, p.1 % 1024, p.2, none, 0#16, (d.tile t).lk, true⟩ : SigEv) } } := by
  induction l with
  | nil =>
    intro d
    rw [List.foldl_nil, List.map_nil, List.append_nil]
  | cons p r ih =>
    intro d
    rw [List.foldl_cons, ih, List.map_cons, ← List.singleton_append, ← List.append_assoc]
    rfl

/-- The taken sums of a tile, and the device without them. -/
def Dev.takenOf (d : Dev) (t : Nat) : List (Nat × Nat) := d.ctrs.taken.filter fun p => p.1 / 1024 == t
def Dev.takenLeft (d : Dev) (t : Nat) : Dev := { d with ctrs := { d.ctrs with taken := d.ctrs.taken.filter fun p => !(p.1 / 1024 == t) } }
theorem landingSignalApply_applies (h : d.takenOf t ≠ []) (hp : d.paused t = false) (hs : (d.tile t).skipped = false) (hb : (d.tile t).pos < d.bStart) :
    landingSignalApplyEffect t d = (d.takenOf t).foldl (Dev.sumSignalled t) ((d.advance (16 - (d.tile t).pos)).takenLeft t) := by
  refine if_neg ?_
  rw [Bool.or_eq_true, Bool.or_eq_true, Bool.or_eq_true, List.isEmpty_iff, decide_eq_true_eq]
  rintro (((h' | h') | h') | h')
  · exact h h'
  · exact ne_true_of_eq_false hp h'
  · exact ne_true_of_eq_false hs h'
  · exact Nat.not_le_of_lt hb h'

theorem landingSignalApply_facts (t : Tile) (h : d.takenOf t ≠ []) (hp : d.paused t = false) (hs : (d.tile t).skipped = false) (hb : (d.tile t).pos < d.bStart) :
    let e := landingSignalApplyEffect t d
    e.ctrs = { d.ctrs with
      taken := d.ctrs.taken.filter fun p => !(p.1 / 1024 == t.val)
      sigs := d.ctrs.sigs ++ (d.takenOf t).map fun p => ⟨t, p.1 % 1024, p.2, none, 0#16, (d.tile t).lk + (16 - (d.tile t).pos), true⟩ } ∧
      e.mem = d.mem ∧ e.ev = d.ev := by
  have lk := Dev.lk_advance_running (n := 16 - (d.tile t).pos) t hp
  have ctrs := Dev.advance_ctrs d (16 - (d.tile t).pos)
  have mem := Dev.advance_mem d (16 - (d.tile t).pos)
  have ev := Dev.advance_ev d (16 - (d.tile t).pos)
  rw [landingSignalApply_applies h hp hs hb, Dev.sumsSignalled]
  generalize d.advance (16 - (d.tile t).pos) = w at *
  rw [← ctrs, ← lk]
  exact ⟨rfl, mem, ev⟩

/-! ## The steward's writes -/

/-- The state that a steward's write leaves a counter in. -/
def ctrStateAfter (was : Nat) (v : Word) : Nat :=
  if was = 3 ∧ ¬ (fieldOf F.PROOF_CTR_STATE v = 0 ∨ (fieldOf F.PROOF_CTR_STATE v = 1 ∧ v.toNat % 2 ^ 32 = 0)) then 3 else fieldOf F.PROOF_CTR_STATE v
theorem ctrStateAfter_lt {was : Nat} {v : Word} : ctrStateAfter was v < 2 ^ F.PROOF_CTR_STATE.w := by
  unfold ctrStateAfter
  split
  · decide
  · exact Nat.mod_lt _ (Nat.two_pow_pos _)
theorem Dev.ctrWrite_plain {v : Word} (h : d.ctrState t c ≠ 2) : d.ctrWrite t c v =
    (d.rwWrite (Reg.PROOF_CTR t c) v).setFs (Reg.PROOF_CTR t c) [(F.PROOF_CTR_LOSS, 0), (F.PROOF_CTR_STATE, ctrStateAfter (d.ctrState t c) v)] := by
  have value : fieldOf F.PROOF_CTR_VALUE v = v.toNat % 2 ^ 32 := congrArg (· % 2 ^ 32) (Nat.div_one _)
  have state : (if (d.ctrState t c == 3 && !(fieldOf F.PROOF_CTR_STATE v == 0 || (fieldOf F.PROOF_CTR_STATE v == 1 && fieldOf F.PROOF_CTR_VALUE v == 0))) = true
      then 3 else fieldOf F.PROOF_CTR_STATE v) = ctrStateAfter (d.ctrState t c) v := by
    unfold ctrStateAfter
    rw [value]
    simp only [Bool.and_eq_true, Bool.not_eq_true', Bool.or_eq_false_iff, Bool.and_eq_false_iff, beq_iff_eq, beq_eq_false_iff_ne, not_or, not_and_or]
  have other : (d.ctrState t c == 2) = false := beq_eq_false_iff_ne.2 h
  unfold Dev.ctrWrite
  dsimp only
  rw [state, other, Bool.false_and, Bool.false_and, if_neg Bool.false_ne_true, if_neg Bool.false_ne_true]

theorem Dev.ctrSet_facts {n : Nat} {a : Nat} (hd : d.canon) (hn : n < 2 ^ F.PROOF_CTR_STATE.w) :
    let e := d.setFs a [(F.PROOF_CTR_LOSS, 0), (F.PROOF_CTR_STATE, n)]
    e.getF a F.PROOF_CTR_STATE = n ∧ e.getB a F.PROOF_CTR_LOSS = false ∧ e.getF a F.PROOF_CTR_VALUE = d.getF a F.PROOF_CTR_VALUE := by
  refine ⟨(Dev.getF_setFs_mid (pre := [_]) hd rfl rfl).trans (Nat.mod_eq_of_lt hn), congrArg (· == 1) (Dev.getF_setFs_mid (pre := []) (post := [_]) hd rfl rfl), ?_⟩
  rw [Dev.getF, Dev.reg_setFs_self _ _ hd]
  refine fieldOf_putFields_apart _ _ fun p hp => Fld.clearOf_iff.1 ?_
  simp only [List.mem_cons, List.not_mem_nil, or_false] at hp
  rcases hp with rfl | rfl <;> rfl

/-- Settles O44: what joins PEND, what a tick applies of it, and what the steward's write leaves. -/
theorem landingSignalsWaitForTheirTick : Obligations.LandingSignalsWaitForTheirTick := by
  unfold Obligations.LandingSignalsWaitForTheirTick
  refine ⟨fun m t v s hs hd => ⟨fun hm => runs_ranFrom rfl hs ?_, fun hh hm => runs_ranFrom rfl hs ?_, fun hm => runs_ranFrom rfl hs ?_,
      fun ht hm => runs_ranFrom rfl hs ?_⟩, fun t s hs => ⟨fun h => runs_ran rfl hs (if_pos ?_), fun h hp hsk hb => runs_ran rfl hs (landingSignalApply_facts t h hp hsk hb)⟩,
    fun m t c v s hs hd => ⟨fun h => runs_ranFrom rfl hs ?_, fun hm hb hst => runs_ranFrom rfl hs ?_⟩⟩
  · rw [proofHostSignal_eq]
    split
    · exact Dev.landingSignal_joins hd
    · next hh =>
      rw [if_pos (hm.resolve_left hh)]
      exact Dev.landingSignal_joins hd
  · rw [proofHostSignal_eq, if_neg hh, if_neg (ne_true_of_eq_false hm)]
  · rw [proofStewardSignal_eq, if_pos hm]
    exact Dev.landingSignal_joins hd
  · rw [proofStewardSignal_eq, if_neg (not_or.2 ⟨ht, hm⟩)]
  · rw [Bool.or_eq_true, Bool.or_eq_true, Bool.or_eq_true, List.isEmpty_iff, decide_eq_true_eq, or_assoc, or_assoc]
    exact h
  · have ignored : proofCtrWriteEffect m t c v s.dev = s.dev.raise 0xB007 0xFF (ctrFile t) (Reg.PROOF_CTR t c) m.toNat :=
      if_pos (by rwa [Bool.or_eq_true, bne_iff_ne, Bool.not_eq_true'])
    rw [ignored]
    exact ⟨rfl, rfl, rfl, Dev.raise_raised rfl ⟨rfl, rfl⟩⟩
  · have writes : proofCtrWriteEffect m t c v s.dev = s.dev.ctrWrite t c v :=
      if_neg (by rw [hm, hb, bne_self_eq_false]; exact Bool.false_ne_true)
    have canon : (s.dev.rwWrite (Reg.PROOF_CTR t c) v).canon := hd.setReg
    have kept : (s.dev.rwWrite (Reg.PROOF_CTR t c) v).ctrs = s.dev.ctrs ∧ (s.dev.rwWrite (Reg.PROOF_CTR t c) v).mem = s.dev.mem ∧
      (s.dev.rwWrite (Reg.PROOF_CTR t c) v).ev = s.dev.ev := ⟨rfl, rfl, rfl⟩
    have regs : s.dev.sameRegs (s.dev.rwWrite (Reg.PROOF_CTR t c) v) (· = Reg.PROOF_CTR t c) := Dev.sameRegs_setReg _ _ hd
    rw [writes, Dev.ctrWrite_plain hst]
    generalize s.dev.rwWrite (Reg.PROOF_CTR t c) v = w at *
    obtain ⟨state, loss, value⟩ := Dev.ctrSet_facts (a := Reg.PROOF_CTR t c) canon (ctrStateAfter_lt (was := s.dev.ctrState t c) (v := v))
    refine ⟨state, loss, value, fun b hb => (Dev.reg_setFs_ne _ canon fun h => hb h.symm).trans (regs b hb), ?_, ?_, ?_⟩
    · rw [Dev.setFs_ctrs, kept.1]
    · rw [Dev.setFs_mem, kept.2.1]
    · rw [Dev.setFs_ev, kept.2.2]

end Sys2Proof.Machine
end

section
/-! SUPPORT. Peel channels and the steward's commands on them (R399 to R403). -/
namespace Sys2Proof.Machine

-- One proof after another: with many at once their threads' stacks exceed the memory that the check allows.
set_option Elab.async false

variable {d e u : Dev} {n o m : Nat}

/-! ## The registers of a channel -/

theorem Reg.peel_apart : Reg.PEEL_LOCK n ≠ Reg.PEEL_STATUS n ∧ Reg.PEEL_CTRL n ≠ Reg.PEEL_STATUS n ∧ Reg.PEEL_CTRL n ≠ Reg.PEEL_BIND n := by
  unfold Reg.PEEL_LOCK Reg.PEEL_STATUS Reg.PEEL_CTRL Reg.PEEL_BIND
  omega
theorem Reg.PEEL_DATA_apart {w : Nat} (hw : w < 16) : Reg.PEEL_DATA n w ≠ Reg.PEEL_LOCK n ∧ Reg.PEEL_DATA n w ≠ Reg.PEEL_STATUS n ∧
    Reg.PEEL_DATA n w ≠ Reg.PEEL_CTRL n := by
  unfold Reg.PEEL_DATA Reg.PEEL_LOCK Reg.PEEL_STATUS Reg.PEEL_CTRL
  omega
theorem Reg.PEEL_DATA_inj {w v : Nat} (h : Reg.PEEL_DATA n w = Reg.PEEL_DATA n v) : w = v := by
  unfold Reg.PEEL_DATA at h
  omega

/-- The registers that a hand-over changes. -/
def Reg.peelHeads (n a : Nat) : Prop := a = Reg.PEEL_STATUS n ∨ a = Reg.PEEL_LOCK n ∨ a = Reg.PEEL_CTRL n

theorem Dev.setPeelOwner_facts (hd : d.canon) (ho : o < 2 ^ 16) : (d.setPeelOwner n o).peelOwner n = o ∧
    d.sameRegs (d.setPeelOwner n o) (fun a => a = Reg.PEEL_STATUS n ∨ a = Reg.PEEL_LOCK n) := by
  obtain ⟨lock, -, -⟩ := Reg.peel_apart (n := n)
  unfold Dev.setPeelOwner Dev.peelOwner
  refine ⟨?_, fun a ha => ?_⟩
  · rw [Dev.getF_setF_ne _ _ _ hd.setF lock]
    exact Dev.getF_setF_lt hd ho
  · rw [Dev.setF, Dev.reg_setReg_ne _ hd.setF fun h => ha (.inr h.symm), Dev.setF, Dev.reg_setReg_ne _ hd fun h => ha (.inl h.symm)]
theorem Dev.setPeelOwner_count (hd : d.canon) : ((d.setPeelOwner n o).setF (Reg.PEEL_STATUS n) F.PEEL_STATUS_HANDOFFS 0).peelOwner n = (d.setPeelOwner n o).peelOwner n ∧
    ((d.setPeelOwner n o).setF (Reg.PEEL_STATUS n) F.PEEL_STATUS_HANDOFFS 0).getF (Reg.PEEL_STATUS n) F.PEEL_STATUS_HANDOFFS = 0 := by
  have canon : (d.setPeelOwner n o).canon := hd.setF.setF
  exact ⟨Dev.getF_setF_other (f := F.PEEL_STATUS_HANDOFFS) (g := F.PEEL_STATUS_OWNER) canon, Dev.getF_setF_lt canon (by decide)⟩

/-! ## Handing over -/

theorem Dev.peelNotify_facts : (d.peelNotify n o).regs = d.regs ∧ (d.peelNotify n o).mem = d.mem := by
  unfold Dev.peelNotify
  split
  · obtain ⟨-, mem, -, -, regs⟩ := Dev.deliverVector_parts (d := d) (v := d.peelBind n 48 11)
    exact ⟨regs, mem⟩
  · exact ⟨rfl, rfl⟩
/-- The registers as a hand-over sets them. -/
def Dev.handSet (d : Dev) (n o : Nat) : Dev :=
  ((d.setPeelOwner n o).setFs (Reg.PEEL_STATUS n) [(F.PEEL_STATUS_PREV, d.peelOwner n), (F.PEEL_STATUS_HANDOFFS, d.getF (Reg.PEEL_STATUS n) F.PEEL_STATUS_HANDOFFS + 1)]).setB
    (Reg.PEEL_CTRL n) F.PEEL_CTRL_GO true
theorem Dev.handTo_parts : (d.handTo n o).regs = (d.handSet n o).regs ∧ (d.handTo n o).mem = d.mem := by
  have set : d.handTo n o = ({ d.handSet n o with peelSeen := (d.handSet n o).peelSeen.filter (· != n) } : Dev).peelNotify n o := rfl
  obtain ⟨regs, mem⟩ := Dev.peelNotify_facts (d := { d.handSet n o with peelSeen := (d.handSet n o).peelSeen.filter (· != n) }) (n := n) (o := o)
  rw [set]
  refine ⟨regs, mem.trans ?_⟩
  change (d.handSet n o).mem = d.mem
  rw [Dev.handSet, Dev.setB, Dev.setF_mem, Dev.setFs_mem, Dev.setPeelOwner, Dev.setF_mem, Dev.setF_mem]

/-- The status and control fields after their setting. -/
theorem Dev.handFields {p h : Nat} (hd : d.canon) (hp : p < 2 ^ 16) :
    let e := (d.setFs (Reg.PEEL_STATUS n) [(F.PEEL_STATUS_PREV, p), (F.PEEL_STATUS_HANDOFFS, h)]).setB (Reg.PEEL_CTRL n) F.PEEL_CTRL_GO true
    e.peelOwner n = d.peelOwner n ∧ e.peelPrev n = p ∧ e.getB (Reg.PEEL_CTRL n) F.PEEL_CTRL_GO = true ∧
      e.getF (Reg.PEEL_STATUS n) F.PEEL_STATUS_HANDOFFS = h % 2 ^ 16 ∧ d.sameRegs e (fun a => a = Reg.PEEL_STATUS n ∨ a = Reg.PEEL_CTRL n) := by
  obtain ⟨-, ctrl, -⟩ := Reg.peel_apart (n := n)
  have status (f : Fld) : ((d.setFs (Reg.PEEL_STATUS n) [(F.PEEL_STATUS_PREV, p), (F.PEEL_STATUS_HANDOFFS, h)]).setB (Reg.PEEL_CTRL n) F.PEEL_CTRL_GO true).getF
      (Reg.PEEL_STATUS n) f = (d.setFs (Reg.PEEL_STATUS n) [(F.PEEL_STATUS_PREV, p), (F.PEEL_STATUS_HANDOFFS, h)]).getF (Reg.PEEL_STATUS n) f :=
    Dev.getF_setF_ne _ _ _ hd.setFs ctrl
  refine ⟨?_, ?_, congrArg (· == 1) (Dev.getF_setF_lt hd.setFs (by decide)), ?_, fun a ha => ?_⟩
  · rw [Dev.peelOwner, status, Dev.getF, Dev.reg_setFs_self _ _ hd]
    refine fieldOf_putFields_apart _ _ fun p hp => Fld.clearOf_iff.1 ?_
    simp only [List.mem_cons, List.not_mem_nil, or_false] at hp
    rcases hp with rfl | rfl <;> rfl
  · rw [Dev.peelPrev, status]
    exact (Dev.getF_setFs_mid (pre := []) (post := [_]) hd rfl rfl).trans (Nat.mod_eq_of_lt hp)
  · rw [status]
    exact Dev.getF_setFs_mid (pre := [_]) hd rfl rfl
  · exact (Dev.reg_setReg_ne _ hd.setFs fun h => ha (.inr h.symm)).trans (Dev.reg_setFs_ne _ hd fun h => ha (.inl h.symm))

theorem Dev.handSet_facts (hd : d.canon) (ho : o < 2 ^ 16) : (d.handSet n o).peelOwner n = o ∧ (d.handSet n o).peelPrev n = d.peelOwner n ∧
    (d.handSet n o).getB (Reg.PEEL_CTRL n) F.PEEL_CTRL_GO = true ∧
    (d.handSet n o).getF (Reg.PEEL_STATUS n) F.PEEL_STATUS_HANDOFFS = (d.getF (Reg.PEEL_STATUS n) F.PEEL_STATUS_HANDOFFS + 1) % 2 ^ 16 ∧
    d.sameRegs (d.handSet n o) (Reg.peelHeads n) := by
  obtain ⟨owner, regs⟩ := Dev.setPeelOwner_facts (n := n) hd ho
  obtain ⟨owner', prev, go, count, regs'⟩ := Dev.handFields (d := d.setPeelOwner n o) (n := n) (p := d.peelOwner n)
    (h := d.getF (Reg.PEEL_STATUS n) F.PEEL_STATUS_HANDOFFS + 1) hd.setF.setF (Dev.getF_lt ..)
  refine ⟨owner'.trans owner, prev, go, count, fun a ha => (regs' a ?_).trans (regs a ?_)⟩
  · exact fun h => ha (h.elim .inl fun h => .inr (.inr h))
  · exact fun h => ha (h.elim .inl fun h => .inr (.inl h))

theorem Dev.peelOwner_of (h : e.regs = d.regs) : e.peelOwner n = d.peelOwner n := by rw [Dev.peelOwner, Dev.peelOwner, Dev.getF, Dev.getF, Dev.reg, Dev.reg, h]
/-- What a hand-over leaves. -/
theorem Dev.handTo_facts (hd : d.canon) (ho : o < 2 ^ 16) : (d.handTo n o).peelOwner n = o ∧ (d.handTo n o).peelPrev n = d.peelOwner n ∧
    (d.handTo n o).getB (Reg.PEEL_CTRL n) F.PEEL_CTRL_GO = true ∧
    (d.handTo n o).getF (Reg.PEEL_STATUS n) F.PEEL_STATUS_HANDOFFS = (d.getF (Reg.PEEL_STATUS n) F.PEEL_STATUS_HANDOFFS + 1) % 2 ^ 16 ∧
    d.sameRegs (d.handTo n o) (Reg.peelHeads n) ∧ (d.handTo n o).mem = d.mem := by
  obtain ⟨owner, prev, go, count, regs⟩ := Dev.handSet_facts (n := n) hd ho
  obtain ⟨same, mem⟩ := Dev.handTo_parts (d := d) (n := n) (o := o)
  have reg (a : Nat) : (d.handTo n o).reg a = (d.handSet n o).reg a := by rw [Dev.reg, Dev.reg, same]
  refine ⟨(congrArg (fieldOf _) (reg _)).trans owner, (congrArg (fieldOf _) (reg _)).trans prev, (congrArg (fieldOf _ · == 1) (reg _)).trans go,
    (congrArg (fieldOf _) (reg _)).trans count, fun a ha => (reg a).trans (regs a ha), mem⟩

/-! ## Data words -/

/-- Data words set one by one. -/
theorem Dev.dataSet {l : List (Nat × Word)} (hd : d.canon) (hl : ∀ p ∈ l, p.1 < 16) (hu : (l.map (·.1)).Nodup) :
    let e := l.foldl (fun (d : Dev) p => d.setReg (Reg.PEEL_DATA n p.1) p.2) d
    e.canon ∧ (∀ p ∈ l, e.reg (Reg.PEEL_DATA n p.1) = p.2) ∧ (∀ a, (∀ p ∈ l, a ≠ Reg.PEEL_DATA n p.1) → e.reg a = d.reg a) ∧
      ({ e with regs := d.regs } : Dev) = d := by
  induction l generalizing d with
  | nil => exact ⟨hd, by simp, fun _ _ => rfl, rfl⟩
  | cons q r ih =>
    obtain ⟨notin, nodup⟩ := List.nodup_cons.1 hu
    obtain ⟨canon, own, other, rest⟩ := ih (d := d.setReg (Reg.PEEL_DATA n q.1) q.2) hd.setReg (fun p hp => hl p (List.mem_cons_of_mem _ hp)) nodup
    refine ⟨canon, fun p hp => ?_, fun a ha => ?_, (congrArg (fun x : Dev => { x with regs := d.regs }) rest :)⟩
    · rcases List.mem_cons.1 hp with rfl | hp
      · rw [List.foldl_cons, other _ fun x hx he => notin (List.mem_map.2 ⟨x, hx, (Reg.PEEL_DATA_inj he).symm⟩)]
        exact Dev.reg_setReg_self _ _ hd
      · exact own p hp
    · rw [List.foldl_cons, other a fun p hp => ha p (List.mem_cons_of_mem _ hp)]
      exact Dev.reg_setReg_ne _ hd (ha q List.mem_cons_self).symm

/-! ## Release -/

/-- Data words made zero. -/
def Dev.dataZero (d : Dev) (n : Nat) (l : List Nat) : Dev := l.foldl (fun (d : Dev) w => d.setReg (Reg.PEEL_DATA n w) 0#64) d
theorem Dev.dataZero_facts {l : List Nat} (hd : d.canon) (hl : ∀ w ∈ l, w < 16) (hu : l.Nodup) : (d.dataZero n l).canon ∧
    (∀ w ∈ l, (d.dataZero n l).reg (Reg.PEEL_DATA n w) = 0#64) ∧
    d.sameRegs (d.dataZero n l) (fun a => ∃ w < 16, a = Reg.PEEL_DATA n w) ∧ ({ d.dataZero n l with regs := d.regs } : Dev) = d := by
  have zeros : d.dataZero n l = (l.map fun w => (w, 0#64)).foldl (fun (d : Dev) p => d.setReg (Reg.PEEL_DATA n p.1) p.2) d := by
    rw [List.foldl_map]
    rfl
  have mem (p : Nat × Word) : p ∈ l.map (fun w => (w, 0#64)) ↔ p.1 ∈ l ∧ p.2 = 0#64 := by
    simp only [List.mem_map]
    exact ⟨fun ⟨w, hw, h⟩ => h ▸ ⟨hw, rfl⟩, fun h => ⟨p.1, h.1, Prod.ext rfl h.2.symm⟩⟩
  obtain ⟨canon, own, other, rest⟩ := Dev.dataSet (n := n) (l := l.map fun w => (w, 0#64)) hd (fun p hp => hl _ ((mem p).1 hp).1) (by
    rw [List.map_map]
    exact (List.map_id l).symm ▸ hu)
  rw [zeros]
  exact ⟨canon, fun w hw => own (w, 0#64) ((mem _).2 ⟨hw, rfl⟩), fun a ha => other a fun p hp he => ha ⟨p.1, hl _ ((mem p).1 hp).1, he⟩, rest⟩

theorem Dev.ownerGo_facts (hd : d.canon) : let e := (d.setPeelOwner n 0).setB (Reg.PEEL_CTRL n) F.PEEL_CTRL_GO false
    e.peelOwner n = 0 ∧ e.getB (Reg.PEEL_CTRL n) F.PEEL_CTRL_GO = false ∧ d.sameRegs e (Reg.peelHeads n) := by
  obtain ⟨-, ctrl, -⟩ := Reg.peel_apart (n := n)
  obtain ⟨owner, regs⟩ := Dev.setPeelOwner_facts (n := n) hd (Nat.two_pow_pos 16)
  have canon : (d.setPeelOwner n 0).canon := hd.setF.setF
  refine ⟨?_, congrArg (· == 1) (Dev.getF_setF_lt canon (by decide)), fun a ha => ?_⟩
  · exact (Dev.getF_setF_ne _ F.PEEL_STATUS_OWNER _ canon ctrl).trans owner
  · exact (Dev.reg_setReg_ne _ canon fun h => ha (.inr (.inr h.symm))).trans (regs a fun h => ha (h.elim .inl fun h => .inr (.inl h)))

/-- A channel that no steward has seen. -/
def Dev.unseen (d : Dev) (n : Nat) : Dev := { d with peelSeen := d.peelSeen.filter (· != n) }
theorem Dev.unseen_parts : (d.unseen n).regs = d.regs ∧ (d.unseen n).mem = d.mem ∧ (d.unseen n).ev = d.ev := ⟨rfl, rfl, rfl⟩
/-- A channel freed once its data are zero. -/
def Dev.headsFree (d : Dev) (n : Nat) : Dev := ((d.setPeelOwner n 0).setB (Reg.PEEL_CTRL n) F.PEEL_CTRL_GO false).unseen n
theorem Dev.peelFree_eq : d.peelFree n = (d.dataZero n (List.range 16)).headsFree n := rfl
theorem Dev.headsFree_facts (hd : d.canon) : (d.headsFree n).peelOwner n = 0 ∧ (d.headsFree n).getB (Reg.PEEL_CTRL n) F.PEEL_CTRL_GO = false ∧
    d.sameRegs (d.headsFree n) (Reg.peelHeads n) ∧ (d.headsFree n).mem = d.mem ∧ (d.headsFree n).ev = d.ev := by
  obtain ⟨owner, go, heads⟩ := Dev.ownerGo_facts (n := n) hd
  obtain ⟨regs, mem, ev⟩ := Dev.unseen_parts (d := (d.setPeelOwner n 0).setB (Reg.PEEL_CTRL n) F.PEEL_CTRL_GO false) (n := n)
  have reg := congrFun (Dev.reg_of regs)
  have kept : ((d.setPeelOwner n 0).setB (Reg.PEEL_CTRL n) F.PEEL_CTRL_GO false).mem = d.mem ∧
      ((d.setPeelOwner n 0).setB (Reg.PEEL_CTRL n) F.PEEL_CTRL_GO false).ev = d.ev := by
    rw [Dev.setB_mem, Dev.setB_ev, Dev.setPeelOwner, Dev.setF_mem, Dev.setF_mem, Dev.setF_ev, Dev.setF_ev]
    exact ⟨rfl, rfl⟩
  exact ⟨(congrArg (fieldOf _) (reg _)).trans owner, (congrArg (fieldOf _ · == 1) (reg _)).trans go, fun a ha => (reg a).trans (heads a ha),
    mem.trans kept.1, ev.trans kept.2⟩
theorem Dev.peelFree_facts (hd : d.canon) : (d.peelFree n).peelOwner n = 0 ∧ (∀ w < 16, (d.peelFree n).reg (Reg.PEEL_DATA n w) = 0#64) ∧
    (d.peelFree n).getB (Reg.PEEL_CTRL n) F.PEEL_CTRL_GO = false ∧ (d.peelFree n).mem = d.mem ∧ (d.peelFree n).ev = d.ev ∧
    d.sameRegs (d.peelFree n) (fun a => a = Reg.PEEL_STATUS n ∨ a = Reg.PEEL_LOCK n ∨ a = Reg.PEEL_CTRL n ∨ ∃ w < 16, a = Reg.PEEL_DATA n w) := by
  rw [Dev.peelFree_eq]
  have sixteen : ∀ w, w ∈ List.range 16 ↔ w < 16 := fun w => List.mem_range
  have nodup : (List.range 16).Nodup := List.nodup_range
  generalize List.range 16 = l at *
  obtain ⟨canon, zero, regs, rest⟩ := Dev.dataZero_facts (n := n) hd (fun w hw => (sixteen w).1 hw) nodup
  have mem : (d.dataZero n l).mem = d.mem := (congrArg Dev.mem rest :)
  have ev : (d.dataZero n l).ev = d.ev := (congrArg Dev.ev rest :)
  generalize d.dataZero n l = w at *
  obtain ⟨owner, go, heads, mem', ev'⟩ := Dev.headsFree_facts (n := n) canon
  refine ⟨owner, fun k hk => ?_, go, mem'.trans mem, ev'.trans ev, fun a ha => ?_⟩
  · obtain ⟨lock, status, ctrl⟩ := Reg.PEEL_DATA_apart (n := n) hk
    exact (heads (Reg.PEEL_DATA n k) fun h => h.elim status fun h => h.elim lock ctrl).trans (zero k ((sixteen k).2 hk))
  · exact (heads a fun h => ha (h.elim .inl fun h => .inr (h.elim .inl fun h => .inr (.inl h)))).trans
      (regs a fun h => ha (.inr (.inr (.inr h))))

/-! ## Replies -/

/-- The words of a reply, by their places. -/
def replyWords (d : Dev) (n status : Nat) (words : List Nat) : List (Nat × Word) :=
  (0, BitVec.ofNat 64 (d.peelWord n 0 % 2 ^ 16 + words.length * 2 ^ 16 + status * 2 ^ 24 + d.peelWord n 0 / 2 ^ 32 * 2 ^ 32)) ::
    words.zipIdx.map fun p => (p.2 + 1, BitVec.ofNat 64 p.1)
def Dev.replied (d : Dev) (n status : Nat) (words : List Nat) : Dev :=
  (replyWords d n status words).foldl (fun (d : Dev) p => d.setReg (Reg.PEEL_DATA n p.1) p.2) d
theorem Dev.peelReply_eq {status : Nat} {words : List Nat} : d.peelReply n status words =
    (d.replied n status words).handTo n ((d.replied n status words).peelPrev n) := by
  unfold Dev.replied replyWords
  rw [List.foldl_cons, List.foldl_map]
  rfl
theorem Dev.replied_facts {status : Nat} {words : List Nat} (hd : d.canon) (hw : words.length ≤ 15) :
    (d.replied n status words).canon ∧ (∀ p ∈ replyWords d n status words, (d.replied n status words).reg (Reg.PEEL_DATA n p.1) = p.2) ∧
    (d.replied n status words).reg (Reg.PEEL_STATUS n) = d.reg (Reg.PEEL_STATUS n) ∧ (d.replied n status words).mem = d.mem := by
  have places : (replyWords d n status words).map (·.1) = List.range' 0 (words.length + 1) := by
    rw [replyWords, List.map_cons, List.map_map, List.range'_succ]
    refine congrArg (0 :: ·) ?_
    rw [show ((fun p : Nat × Word => p.1) ∘ fun p : Nat × Nat => (p.2 + 1, BitVec.ofNat 64 p.1)) = (· + 1) ∘ Prod.snd from rfl, ← List.map_map,
      List.zipIdx_map_snd]
    exact List.range'_succ_left.symm
  have small (p : Nat × Word) (hp : p ∈ replyWords d n status words) : p.1 < 16 := by
    have h : p.1 ∈ (replyWords d n status words).map (·.1) := List.mem_map_of_mem hp
    rw [places, List.mem_range'_1] at h
    omega
  obtain ⟨canon, own, other, rest⟩ := Dev.dataSet (n := n) (l := replyWords d n status words) hd small (by rw [places]; exact List.nodup_range')
  exact ⟨canon, own, other _ fun p hp => (Reg.PEEL_DATA_apart (small p hp)).2.1.symm, (congrArg Dev.mem rest :)⟩

/-- A reply keeps the command and its number, carries its words, and gives the channel back. -/
theorem Dev.peelReply_facts {status : Nat} {words : List Nat} (hd : d.canon) (hw : words.length ≤ 15) (hs : status < 4) :
    let e := d.peelReply n status words
    e.peelWord n 0 % 2 ^ 16 = d.peelWord n 0 % 2 ^ 16 ∧ e.peelWord n 0 / 2 ^ 32 = d.peelWord n 0 / 2 ^ 32 ∧ e.peelWord n 0 / 2 ^ 16 % 2 ^ 8 = words.length ∧
      e.peelWord n 0 / 2 ^ 24 % 2 ^ 8 = status ∧ (∀ i (h : i < words.length), e.peelWord n (i + 1) = words[i] % 2 ^ 64) ∧
      e.peelOwner n = d.peelPrev n ∧ e.peelPrev n = d.peelOwner n ∧ e.mem = d.mem := by
  obtain ⟨canon, own, status', mem⟩ := Dev.replied_facts (n := n) (status := status) hd hw
  have prev : (d.replied n status words).peelPrev n = d.peelPrev n := congrArg (fieldOf _) status'
  have owner : (d.replied n status words).peelOwner n = d.peelOwner n := congrArg (fieldOf _) status'
  obtain ⟨owner', prev', -, -, regs, mem'⟩ := Dev.handTo_facts (n := n) (o := (d.replied n status words).peelPrev n) canon (Dev.getF_lt ..)
  rw [Dev.peelReply_eq]
  dsimp only
  generalize (d.replied n status words).handTo n ((d.replied n status words).peelPrev n) = e at *
  have word (w : Nat) (v : Word) (hw : w < 16) (hv : (w, v) ∈ replyWords d n status words) : e.peelWord n w = v.toNat := by
    obtain ⟨lock, stat, ctrl⟩ := Reg.PEEL_DATA_apart (n := n) hw
    exact congrArg BitVec.toNat ((regs _ fun h => h.elim stat fun h => h.elim lock ctrl).trans (own _ hv))
  have w0_lt : d.peelWord n 0 < 2 ^ 64 := (d.reg (Reg.PEEL_DATA n 0)).isLt
  have head := word 0 _ (by decide) List.mem_cons_self
  rw [BitVec.toNat_ofNat] at head
  generalize d.peelWord n 0 = w0 at *
  generalize e.peelWord n 0 = e0 at *
  refine ⟨by omega, by omega, by omega, by omega, fun i h => ?_, owner'.trans prev, prev'.trans owner, mem'.trans mem⟩
  rw [word (i + 1) (BitVec.ofNat 64 words[i]) (by omega) (List.mem_cons_of_mem _ (List.mem_map.2 ⟨(words[i], i), ?_, rfl⟩)), BitVec.toNat_ofNat]
  exact List.mk_mem_zipIdx_iff_getElem?.2 (List.getElem?_eq_getElem h)

/-! ## The clauses -/

/-- The answer that a read gives. -/
def Dev.answers (d : Dev) (v : Nat) : Dev := { d with readOut := BitVec.ofNat 64 v }
theorem Dev.answers_parts {v : Nat} : (d.answers v).readOut = BitVec.ofNat 64 v ∧ (d.answers v).regs = d.regs ∧ (d.answers v).mem = d.mem ∧
    (d.answers v).ev = d.ev := ⟨rfl, rfl, rfl, rfl⟩
theorem peelLockRead_eq : peelLockReadEffect m n d = if !d.peelMay n m then (d.peelRefuse n 1 m).answers 0xFFFF
    else if d.peelOwner n != 0 then d.answers (d.peelOwner n)
    else ((d.setPeelOwner n m).setF (Reg.PEEL_STATUS n) F.PEEL_STATUS_HANDOFFS 0).answers 0 := rfl
/-- The lock of a free channel taken. -/
def Dev.lockTaken (d : Dev) (n m : Nat) : Dev := (d.setPeelOwner n m).setF (Reg.PEEL_STATUS n) F.PEEL_STATUS_HANDOFFS 0
theorem Dev.lockTaken_facts (hd : d.canon) (hm : m < 2 ^ 16) : (d.lockTaken n m).peelOwner n = m ∧
    (d.lockTaken n m).getF (Reg.PEEL_STATUS n) F.PEEL_STATUS_HANDOFFS = 0 ∧
    d.sameRegs (d.lockTaken n m) (fun a => a = Reg.PEEL_STATUS n ∨ a = Reg.PEEL_LOCK n) ∧ (d.lockTaken n m).mem = d.mem ∧ (d.lockTaken n m).ev = d.ev := by
  obtain ⟨owner, regs⟩ := Dev.setPeelOwner_facts (n := n) hd hm
  obtain ⟨owner', count⟩ := Dev.setPeelOwner_count (n := n) (o := m) hd
  refine ⟨owner'.trans owner, count, fun a ha => (Dev.reg_setReg_ne _ hd.setF.setF fun h => ha (.inl h.symm)).trans (regs a ha), ?_, ?_⟩
  · rw [Dev.lockTaken, Dev.setF_mem, Dev.setPeelOwner, Dev.setF_mem, Dev.setF_mem]
  · rw [Dev.lockTaken, Dev.setF_ev, Dev.setPeelOwner, Dev.setF_ev, Dev.setF_ev]
theorem peelLockRead_free (hd : d.canon) (hm : m < 2 ^ 16) (h : d.peelMay n m = true) (ho : d.peelOwner n = 0) :
    let e := peelLockReadEffect m n d
    e.readOut = 0#64 ∧ e.peelOwner n = m ∧ e.getF (Reg.PEEL_STATUS n) F.PEEL_STATUS_HANDOFFS = 0 ∧
      d.sameRegs e (fun a => a = Reg.PEEL_STATUS n ∨ a = Reg.PEEL_LOCK n) ∧ e.mem = d.mem ∧ e.ev = d.ev := by
  have takes : peelLockReadEffect m n d = (d.lockTaken n m).answers 0 := by
    rw [peelLockRead_eq, h, ho]
    rfl
  obtain ⟨owner, count, regs, mem, ev⟩ := Dev.lockTaken_facts (n := n) hd hm
  rw [takes]
  generalize d.lockTaken n m = w at *
  obtain ⟨out, same, mem', ev'⟩ := Dev.answers_parts (d := w) (v := 0)
  have reg := congrFun (Dev.reg_of same)
  exact ⟨out, (congrArg (fieldOf _) (reg _)).trans owner, (congrArg (fieldOf _) (reg _)).trans count, fun a ha => (reg a).trans (regs a ha), mem'.trans mem, ev'.trans ev⟩

theorem peelHandoff_closed {v : Word} (ho : d.peelOwner n = m) (hm : m ≠ 0) (hb : d.peelOpen n = false) (hg : fieldOf F.PEEL_CTRL_GO v = 1) :
    peelHandoffEffect m n v d = d.handTo n (if d.peelBind n 0 16 = m then d.peelBind n 16 16 else d.peelBind n 0 16) := by
  have mine : (d.peelOwner n != m || m == 0) = false := by rw [ho, bne_self_eq_false, Bool.false_or]; exact beq_eq_false_iff_ne.2 hm
  unfold peelHandoffEffect
  simp only [mine, hb, hg, Bool.false_eq_true, if_false, beq_self_eq_true, if_true, beq_iff_eq]
/-- What a handoff asked of a bound channel does once its target stands: refused, or the channel goes over. -/
def Dev.handAsked (n m tgt : Nat) (u : Dev) : Dev := if tgt == m || !u.peelMay n tgt then u.peelRefuse n 3 m else u.handTo n tgt

theorem Dev.handAsked_gone (h : tgt ≠ m) (hm : d.peelMay n tgt = true) : d.handAsked n m tgt = d.handTo n tgt :=
  if_neg (by rw [hm, Bool.not_true, Bool.or_false, beq_iff_eq]; exact h)

theorem Dev.handAsked_refused (h : tgt = m ∨ d.peelMay n tgt = false) : d.handAsked n m tgt = d.peelRefuse n 3 m :=
  if_pos (by rwa [Bool.or_eq_true, beq_iff_eq, Bool.not_eq_true'])

theorem peelHandoff_open {v : Word} (ho : d.peelOwner n = m) (hm : m ≠ 0) (hb : d.peelOpen n = true) (hg : fieldOf F.PEEL_CTRL_GO v = 1) :
    peelHandoffEffect m n v d = (d.setF (Reg.PEEL_CTRL n) F.PEEL_CTRL_TARGET (fieldOf F.PEEL_CTRL_TARGET v)).handAsked n m (fieldOf F.PEEL_CTRL_TARGET v) := by
  have mine : (d.peelOwner n != m || m == 0) = false := by rw [ho, bne_self_eq_false, Bool.false_or]; exact beq_eq_false_iff_ne.2 hm
  unfold peelHandoffEffect Dev.handAsked
  simp only [mine, hb, hg, Bool.false_eq_true, if_false, beq_self_eq_true, if_true, Bool.not_true]

/-- The target set leaves the channel's binding and owner. -/
theorem Dev.targetSet_facts {v : Nat} (hd : d.canon) : let u := d.setF (Reg.PEEL_CTRL n) F.PEEL_CTRL_TARGET v
    (∀ m, u.peelMay n m = d.peelMay n m) ∧ u.peelOwner n = d.peelOwner n ∧
    u.getF (Reg.PEEL_STATUS n) F.PEEL_STATUS_HANDOFFS = d.getF (Reg.PEEL_STATUS n) F.PEEL_STATUS_HANDOFFS ∧ d.sameRegs u (· = Reg.PEEL_CTRL n) ∧
    u.mem = d.mem ∧ u.ev = d.ev := by
  obtain ⟨-, status, bind⟩ := Reg.peel_apart (n := n)
  have binding : (d.setF (Reg.PEEL_CTRL n) F.PEEL_CTRL_TARGET v).reg (Reg.PEEL_BIND n) = d.reg (Reg.PEEL_BIND n) := Dev.reg_setReg_ne _ hd bind
  refine ⟨fun m => ?_, Dev.getF_setF_ne _ F.PEEL_STATUS_OWNER _ hd status, Dev.getF_setF_ne _ _ _ hd status, Dev.sameRegs_setF _ _ _ hd, Dev.setF_mem .., Dev.setF_ev ..⟩
  have field (lo w : Nat) : (d.setF (Reg.PEEL_CTRL n) F.PEEL_CTRL_TARGET v).peelBind n lo w = d.peelBind n lo w := by rw [Dev.peelBind, Dev.peelBind, binding]
  have opens : (d.setF (Reg.PEEL_CTRL n) F.PEEL_CTRL_TARGET v).peelOpen n = d.peelOpen n := by rw [Dev.peelOpen, Dev.peelOpen, field]
  rw [Dev.peelMay, Dev.peelMay, opens, field, field, field]

theorem peelHandoff_gone {v : Word} (hd : d.canon) (ho : d.peelOwner n = m) (hm : m ≠ 0) (hb : d.peelOpen n = true) (hg : fieldOf F.PEEL_CTRL_GO v = 1)
    (ht : fieldOf F.PEEL_CTRL_TARGET v ≠ m) (hmay : d.peelMay n (fieldOf F.PEEL_CTRL_TARGET v) = true) :
    let e := peelHandoffEffect m n v d
    e.peelOwner n = fieldOf F.PEEL_CTRL_TARGET v ∧ e.peelPrev n = m ∧ e.getB (Reg.PEEL_CTRL n) F.PEEL_CTRL_GO = true ∧
      e.getF (Reg.PEEL_STATUS n) F.PEEL_STATUS_HANDOFFS = (d.getF (Reg.PEEL_STATUS n) F.PEEL_STATUS_HANDOFFS + 1) % 2 ^ 16 ∧
      d.sameRegs e (fun a => a = Reg.PEEL_STATUS n ∨ a = Reg.PEEL_LOCK n ∨ a = Reg.PEEL_CTRL n) ∧ e.mem = d.mem := by
  have t_lt : fieldOf F.PEEL_CTRL_TARGET v < 2 ^ 16 := Nat.mod_lt _ (Nat.two_pow_pos _)
  rw [peelHandoff_open ho hm hb hg]
  generalize fieldOf F.PEEL_CTRL_TARGET v = tgt at ht hmay t_lt ⊢
  obtain ⟨may, owner, count, regs, mem, -⟩ := Dev.targetSet_facts (n := n) (v := tgt) hd
  have canon := hd.setF (a := Reg.PEEL_CTRL n) (f := F.PEEL_CTRL_TARGET) (v := tgt)
  generalize d.setF (Reg.PEEL_CTRL n) F.PEEL_CTRL_TARGET tgt = u at may owner count regs mem canon ⊢
  rw [Dev.handAsked_gone ht ((may tgt).trans hmay)]
  obtain ⟨owner', prev, go, count', regs', mem'⟩ := Dev.handTo_facts (n := n) canon t_lt
  exact ⟨owner', prev.trans (owner.trans ho), go, count'.trans (by rw [count]), fun a ha => (regs' a ha).trans (regs a fun h => ha (.inr (.inr h))), mem'.trans mem⟩

theorem peelHandoff_refused {v : Word} (hd : d.canon) (ho : d.peelOwner n = m) (hm : m ≠ 0) (hb : d.peelOpen n = true) (hg : fieldOf F.PEEL_CTRL_GO v = 1)
    (h : fieldOf F.PEEL_CTRL_TARGET v = m ∨ d.peelMay n (fieldOf F.PEEL_CTRL_TARGET v) = false) :
    let e := peelHandoffEffect m n v d
    e.peelOwner n = m ∧ d.raised e fun r => r.code = 0xB010 := by
  rw [peelHandoff_open ho hm hb hg]
  generalize fieldOf F.PEEL_CTRL_TARGET v = tgt at h ⊢
  obtain ⟨may, owner, -, -, -, ev⟩ := Dev.targetSet_facts (n := n) (v := tgt) hd
  generalize d.setF (Reg.PEEL_CTRL n) F.PEEL_CTRL_TARGET tgt = u at may owner ev ⊢
  rw [Dev.handAsked_refused (h.imp_right (may tgt).trans)]
  rw [Dev.peelRefuse]
  exact ⟨(Dev.raise_getF ..).trans (owner.trans ho), Dev.raise_raised ev rfl⟩

theorem echo_echoes {who : Option Nat} (h : d.peelAsk n (fun c => c != 0x10 && c != 0x20) = some who) (hc : d.peelWord n 0 % 2 ^ 16 = 1) (hw : d.peelWords n ≤ 15) :
    echoEffect n d = d.peelReply n 0 ((List.range (d.peelWords n)).map fun i => d.peelWord n (i + 1)) := by
  unfold echoEffect
  rw [h]
  exact (if_neg (by rw [bne_iff_ne]; exact fun h' => h' hc)).trans (if_neg (Nat.not_lt_of_le hw))
theorem readCounter_answers {t : Nat} (h : d.peelAsk n (· == 0x10) = some (some t)) (hw : 1 ≤ d.peelWords n) (hw' : d.peelWords n ≤ 15) :
    let c := d.peelWord n 1 % 1024
    let owns := isSliceMaster (d.peelPrev n) = true → d.getF (Reg.PROOF_CTR t c) F.PROOF_CTR_SLICE = d.peelPrev n % 64
    (owns → readCounterEffect n d = d.peelReply n 0 [(d.reg (Reg.PROOF_CTR t c)).toNat, d.getF (Reg.PROOF_PEND t c) F.PROOF_PEND_PEND]) ∧
    (¬ owns → readCounterEffect n d = d.peelReply n 3 []) := by
  intro c owns
  have inRange : ¬ (d.peelWords n == 0 || decide (d.peelWords n > 15)) = true := by
    rw [Bool.or_eq_true, beq_iff_eq, decide_eq_true_eq]
    omega
  have denied : (isSliceMaster (d.peelPrev n) && d.getF (Reg.PROOF_CTR t c) F.PROOF_CTR_SLICE != d.peelPrev n % 64) = true ↔ ¬ owns := by
    rw [Bool.and_eq_true, bne_iff_ne, Classical.not_imp]
  unfold readCounterEffect
  rw [h]
  exact ⟨fun ho => (if_neg inRange).trans (if_neg fun h' => denied.1 h' ho), fun ho => (if_neg inRange).trans (if_pos (denied.2 ho))⟩

/-- Settles O45: a channel by its owner's rights, and a steward's answer by the request in the channel's words. -/
theorem peelChannelsHaveOneOwnerAndStewardsAnswer : Obligations.PeelChannelsHaveOneOwnerAndStewardsAnswer := by
  unfold Obligations.PeelChannelsHaveOneOwnerAndStewardsAnswer
  refine ⟨⟨fun m n s hs hd => ⟨fun h => ?_, fun h ho => ?_, fun h ho => ?_⟩, fun m n v s hs hd => ⟨fun h => ?_, fun ho hm hb hg => ?_, fun ho hm hb hg => ?_⟩,
    fun m n v s hs hd => ⟨fun h => ?_, fun ho hm hr => ?_⟩⟩, fun n s hs => ⟨fun h => ?_, fun who h => ⟨fun hc hw => ?_, fun hc hw => ?_, fun hc => ?_⟩⟩,
    fun n t s hs => ⟨fun h => ?_, fun h hw hw' => ⟨fun ho => ?_, fun ho => ?_⟩, fun h hw => ?_, fun h => ?_⟩, fun n t s hs => ⟨fun h => ?_, fun h hw hw' => ?_⟩,
    fun d n status words hd hn hw hs => Dev.peelReply_facts hd hw hs⟩
  · refine runs_ranRead rfl hs ?_
    rw [peelLockRead_eq, h]
    exact ⟨rfl, rfl, rfl, Dev.raise_raised (d := s.dev) (e := s.dev) rfl ⟨rfl, rfl⟩⟩
  · refine runs_ranRead rfl hs ?_
    have owned : (s.dev.peelOwner n != 0) = true := bne_iff_ne.2 ho
    rw [peelLockRead_eq, h, owned]
    rfl
  · exact runs_ranRead rfl hs (peelLockRead_free hd m.isLt h ho)
  · refine runs_ranFrom rfl hs (if_pos ?_)
    rw [Bool.or_eq_true, bne_iff_ne]
    exact .inl h
  · have o_lt : (if s.dev.peelBind n 0 16 = m.toNat then s.dev.peelBind n 16 16 else s.dev.peelBind n 0 16) < 2 ^ 16 := by
      split <;> exact Nat.mod_lt _ (Nat.two_pow_pos _)
    have other : (m.toNat : Nat) ≠ 0 := fun h => hm (BitVec.eq_of_toNat_eq h)
    refine runs_ranFrom rfl hs ?_
    obtain ⟨owner, prev, go, count, regs, mem⟩ := Dev.handTo_facts (n := n) hd o_lt
    rw [peelHandoff_closed ho other hb hg]
    exact ⟨owner, prev.trans ho, go, count, regs, mem⟩
  · have other : (m.toNat : Nat) ≠ 0 := fun h => hm (BitVec.eq_of_toNat_eq h)
    exact ⟨fun ht hmay => runs_ranFrom rfl hs (peelHandoff_gone hd ho other hb hg ht hmay), fun h => runs_ranFrom rfl hs (peelHandoff_refused hd ho other hb hg h)⟩
  · refine runs_ranFrom rfl hs (if_pos ?_)
    rw [Bool.or_eq_true, Bool.or_eq_true, bne_iff_ne, bne_iff_ne]
    exact h.elim (fun h => .inl (.inl h)) .inr
  · have other : (m.toNat : Nat) ≠ 0 := fun h => hm (BitVec.eq_of_toNat_eq h)
    have frees : peelReleaseEffect m.toNat n v s.dev = s.dev.peelFree n := by
      refine if_neg ?_
      rw [ho, hr, bne_self_eq_false, bne_self_eq_false, beq_eq_false_iff_ne.2 other]
      exact Bool.false_ne_true
    refine runs_ranFrom rfl hs ?_
    rw [frees]
    exact Dev.peelFree_facts hd
  all_goals refine runs_ran rfl hs ?_
  · unfold echoEffect
    rw [h]
  · exact echo_echoes h hc hw
  · unfold echoEffect
    rw [h]
    exact (if_neg (by rw [bne_iff_ne]; exact fun h' => h' hc)).trans (if_pos hw)
  · unfold echoEffect
    rw [h]
    exact if_pos (bne_iff_ne.2 hc)
  · unfold readCounterEffect
    rw [h]
  · exact (readCounter_answers h hw hw').1 ho
  · exact (readCounter_answers h hw hw').2 ho
  · unfold readCounterEffect
    rw [h]
    exact if_pos (by rwa [Bool.or_eq_true, beq_iff_eq, decide_eq_true_eq])
  · unfold readCounterEffect
    rw [h]
  · unfold reportContextsEffect
    rw [h]
  · unfold reportContextsEffect
    rw [h]
    exact if_neg (by rw [Bool.or_eq_true, beq_iff_eq, decide_eq_true_eq]; omega)

end Sys2Proof.Machine
end

section
/-! SUPPORT. Commands to slices and their ends (Table 17.6, R418, R421, R422, R425 to R428). -/
namespace Sys2Proof.Machine

-- One proof after another: with many at once their threads' stacks exceed the memory that the check allows.
set_option Elab.async false

variable {d e : Dev} {i : Nat} {m : Master} {s : State}

/-! ## A slice's status and state -/

/-- The end of a command of a slice: its STATE, its result and what the stewards hold of it. -/
def Dev.sliceEnds (d : Dev) (i st res : Nat) (x : SliceState) : Dev := ((d.setSliceState i st).setSliceResult i res).setSli i x

theorem Dev.sliceShows_facts {st res : Nat} (hd : d.canon) (hst : st < 8) (hres : res < 256) : let u := (d.setSliceState i st).setSliceResult i res
    u.sliceState i = st ∧ u.getF (Reg.SLICE_STATUS i) F.SLICE_STATUS_LAST_RESULT = res ∧ d.sameRegs u (· = Reg.SLICE_STATUS i) ∧
      u.slices = d.slices ∧ u.mem = d.mem ∧ u.ev = d.ev :=
  ⟨(Dev.getF_setF_other (hd.setSliceState)).trans (Dev.getF_setF_lt hd hst), Dev.getF_setF_lt hd.setSliceState hres,
    fun a ha => (Dev.reg_setReg_ne _ hd.setSliceState (Ne.symm ha)).trans (Dev.reg_setReg_ne _ hd (Ne.symm ha)), rfl, rfl, rfl⟩

theorem Dev.sliceEnds_facts {st res : Nat} {x : SliceState} (hd : d.canon) (hst : st < 8) (hres : res < 256) : let u := d.sliceEnds i st res x
    u.sliceState i = st ∧ u.getF (Reg.SLICE_STATUS i) F.SLICE_STATUS_LAST_RESULT = res ∧ u.sli i = x ∧ d.sameRegs u (· = Reg.SLICE_STATUS i) ∧
      u.mem = d.mem ∧ u.ev = d.ev := by
  obtain ⟨state, result, regs, -, mem, ev⟩ := Dev.sliceShows_facts (i := i) hd hst hres
  exact ⟨state, result, Dev.sli_setSli _ _ _ hd.setSliceState.setSliceResult, regs, mem, ev⟩

/-- The status that a slice command leaves is read under the event that tells of it. -/
theorem Dev.raise_slice {c t o n : Nat} {x : BitVec 16} : (d.raise c t x o n).sliceState i = d.sliceState i ∧ (d.raise c t x o n).sli i = d.sli i := ⟨rfl, rfl⟩

/-! ## Resets land -/

theorem Dev.sliceMay_reset : d.sliceMay m i 2 = d.sliceMay m i 1 := rfl

theorem Dev.sliceReset_denied {cmd drain : Nat} (h : d.sliceMay m i cmd = false) : d.sliceReset m i cmd drain = d.sliceRefuse m i cmd 1 :=
  if_pos (by rw [h]; rfl)

theorem Dev.sliceReset_disabled {cmd drain : Nat} (h : d.sliceMay m i cmd = true) (hs : d.sliceState i = 0) :
    d.sliceReset m i cmd drain = d.sliceRefuse m i cmd 4 := by
  rw [Dev.sliceReset, h, hs]
  rfl

theorem Dev.sliceReset_radio {cmd drain : Nat} (h : d.sliceMay m i cmd = true) (hs : d.sliceState i ≠ 0) (hr : d.servesCell i = true) :
    d.sliceReset m i cmd drain = d.sliceRefuse m i cmd 3 := by
  rw [Dev.sliceReset, h, beq_false_of_ne hs, hr]
  rfl

theorem Dev.sliceReset_lands {cmd drain : Nat} (h : d.sliceMay m i cmd = true) (hs : d.sliceState i ≠ 0) (hr : d.servesCell i = false) :
    d.sliceReset m i cmd drain = d.landReset i cmd drain := by
  rw [Dev.sliceReset, h, beq_false_of_ne hs, hr]
  rfl

/-- While a slice is being reset a drain is absorbed, and so is a squash of a squash. -/
theorem Dev.landReset_under {cmd drain : Nat} (hs : d.sliceState i = 2) :
    d.landReset i cmd drain = if cmd == 2 && !d.getB (Reg.SLICE_STATUS i) F.SLICE_STATUS_MODE then d.setSli i { d.sli i with cmd := 2 } else d := by
  unfold Dev.landReset
  exact if_pos (beq_iff_eq.2 hs)

theorem Dev.landReset_fresh {cmd drain : Nat} (hs : d.sliceState i ≠ 2) (hc : cmd = 1 ∨ cmd = 2) (hx : (d.sli i).cmd = 0 ∨ 3 ≤ (d.sli i).cmd) :
    d.landReset i cmd drain = d.setSli i { d.sli i with cmd := cmd, drain := drain } := by
  unfold Dev.landReset
  refine (if_neg (by rwa [beq_iff_eq])).trans (if_neg ?_)
  rw [Bool.or_eq_true, beq_iff_eq, beq_iff_eq]
  omega

/-! ## Freeze, restore and release -/

theorem Dev.sliceHostCmd_denied {cmd : Nat} {ok : List Nat} {go : Dev → Dev} (h : m ≠ hostDriver) : d.sliceHostCmd m i cmd ok go = d.sliceRefuse m i cmd 1 :=
  if_pos (bne_iff_ne.2 h)

theorem Dev.sliceHostCmd_disabled {cmd : Nat} {ok : List Nat} {go : Dev → Dev} (h : d.sliceState i = 0) :
    d.sliceHostCmd hostDriver i cmd ok go = d.sliceRefuse hostDriver i cmd 4 := by
  rw [Dev.sliceHostCmd, h]
  rfl

/-- A command of the host driver for an enabled slice that it may name: refused in another state or under another command. -/
theorem Dev.sliceHostCmd_enabled {cmd : Nat} {ok : List Nat} {go : Dev → Dev} (h : d.sliceState i ≠ 0) (hc : cmd ≠ 3 ∨ i ≠ 0) :
    d.sliceHostCmd hostDriver i cmd ok go = if !ok.contains (d.sliceState i) || (d.sli i).cmd != 0 || (d.sli i).ready then d.sliceRefuse hostDriver i cmd 2 else go d := by
  refine (if_neg (by decide)).trans ((if_neg (by rwa [beq_iff_eq])).trans (if_neg ?_))
  rw [Bool.and_eq_true, beq_iff_eq, beq_iff_eq]
  omega

theorem Dev.sliceHostCmd_goes {cmd : Nat} {ok : List Nat} {go : Dev → Dev} (h : d.sliceState i ≠ 0) (hc : cmd ≠ 3 ∨ i ≠ 0) (ho : d.sliceState i ∈ ok)
    (hx : (d.sli i).cmd = 0 ∧ (d.sli i).ready = false) : d.sliceHostCmd hostDriver i cmd ok go = go d := by
  rw [Dev.sliceHostCmd_enabled h hc, List.contains_iff_mem.2 ho, hx.1, hx.2]
  rfl

theorem Dev.sliceHostCmd_state {cmd : Nat} {ok : List Nat} {go : Dev → Dev} (h : d.sliceState i ≠ 0) (hc : cmd ≠ 3 ∨ i ≠ 0) (ho : d.sliceState i ∉ ok) :
    d.sliceHostCmd hostDriver i cmd ok go = d.sliceRefuse hostDriver i cmd 2 := by
  rw [Dev.sliceHostCmd_enabled h hc, Bool.eq_false_iff.2 fun h => ho (List.contains_iff_mem.1 h)]
  rfl

theorem Dev.sliceHostCmd_first {ok : List Nat} {go : Dev → Dev} (h : d.sliceState 0 ≠ 0) :
    d.sliceHostCmd hostDriver 0 3 ok go = d.sliceRefuse hostDriver 0 3 3 := by
  rw [Dev.sliceHostCmd, beq_false_of_ne h]
  rfl

/-! ## A freeze completes -/

/-- A freezing slice's image is written: its state frozen or freezing, the write landed and none of its writes still out. -/
def Dev.freezeDone (d : Dev) (i : Nat) : Prop :=
  (d.sliceState i = 3 ∨ d.sliceState i = 4) ∧ (d.sli i).ready = true ∧ ∀ w ∈ d.hostWrites, w.id ∉ (d.sli i).writes

theorem Dev.freezeDone_iff : (!(d.sliceState i == 3 || d.sliceState i == 4) || !(d.sli i).ready || d.hostWrites.any fun w => (d.sli i).writes.contains w.id) = false ↔
    d.freezeDone i := by
  simp only [Dev.freezeDone, Bool.or_eq_false_iff, Bool.not_eq_false', Bool.or_eq_true, beq_iff_eq, List.any_eq_false, List.contains_iff_mem, and_assoc]

theorem sliceFreezeComplete_stays (h : ¬ d.freezeDone i) : sliceFreezeCompleteEffect i d = d :=
  if_pos (Bool.not_eq_false _ ▸ mt Dev.freezeDone_iff.1 h)

theorem sliceFreezeComplete_ends (h : d.freezeDone i) : let res := if (d.sli i).len = 0 then 2 else 0
    sliceFreezeCompleteEffect i d = ((d.setF (Reg.SLICE_IMAGE_LEN i) F.SLICE_IMAGE_LEN_LEN (d.sli i).len).sliceEnds i 4 res
      { d.sli i with ready := false, writes := [], len := 0 }).raise 0xC003 0xFF systemSteward i ((d.sli i).len + res * 2 ^ 32) := by
  unfold sliceFreezeCompleteEffect
  rw [if_neg (Bool.eq_false_iff.1 (Dev.freezeDone_iff.2 h))]
  simp only [beq_iff_eq]
  rfl

theorem sliceFreezeComplete_facts (hd : d.canon) (h : d.freezeDone i) : let x := d.sli i
    let e := sliceFreezeCompleteEffect i d
    e.sliceState i = 4 ∧ e.getF (Reg.SLICE_STATUS i) F.SLICE_STATUS_LAST_RESULT = (if x.len = 0 then 2 else 0) ∧
      e.getF (Reg.SLICE_IMAGE_LEN i) F.SLICE_IMAGE_LEN_LEN = x.len % 2 ^ 32 ∧ e.mem = d.mem ∧ e.sli i = { x with ready := false, writes := [], len := 0 } ∧
      d.sameRegs e (fun a => a = Reg.SLICE_STATUS i ∨ a = Reg.SLICE_IMAGE_LEN i) ∧ d.raised e fun r => r.code = 0xC003 ∧ r.object = BitVec.ofNat 32 i := by
  extract_lets x e
  have ends : e = _ := sliceFreezeComplete_ends h
  have res_lt : (if x.len = 0 then 2 else 0) < 256 := by split <;> decide
  have len : (d.setF (Reg.SLICE_IMAGE_LEN i) F.SLICE_IMAGE_LEN_LEN x.len).getF (Reg.SLICE_IMAGE_LEN i) F.SLICE_IMAGE_LEN_LEN = x.len % 2 ^ 32 := Dev.getF_setF_mod hd
  have canon := hd.setF (a := Reg.SLICE_IMAGE_LEN i) (f := F.SLICE_IMAGE_LEN_LEN) (v := x.len)
  have same := Dev.sameRegs_setF (Reg.SLICE_IMAGE_LEN i) F.SLICE_IMAGE_LEN_LEN x.len hd
  have mem := Dev.setF_mem (d := d) (Reg.SLICE_IMAGE_LEN i) F.SLICE_IMAGE_LEN_LEN x.len
  have ev := Dev.setF_ev (d := d) (Reg.SLICE_IMAGE_LEN i) F.SLICE_IMAGE_LEN_LEN x.len
  rw [ends]
  change _ = _ at len
  generalize d.setF (Reg.SLICE_IMAGE_LEN i) F.SLICE_IMAGE_LEN_LEN (d.sli i).len = u at *
  obtain ⟨state, result, sli, regs, mem', ev'⟩ := Dev.sliceEnds_facts (i := i) (x := { x with ready := false, writes := [], len := 0 }) canon (by decide : 4 < 8) res_lt
  have apart : Reg.SLICE_IMAGE_LEN i ≠ Reg.SLICE_STATUS i := by
    unfold Reg.SLICE_IMAGE_LEN Reg.SLICE_STATUS
    omega
  refine ⟨(Dev.raise_slice).1.trans state, (Dev.raise_getF ..).trans result, (Dev.raise_getF ..).trans ((congrArg (fieldOf _) (regs _ apart)).trans len),
    (Dev.raise_mem ..).trans (mem'.trans mem), Dev.raise_slice.2.trans sli,
    fun a ha => (Dev.raise_reg ..).trans ((regs a fun h => ha (.inl h)).trans (same a fun h => ha (.inr h))), Dev.raise_raised (ev'.trans ev) ⟨rfl, rfl⟩⟩

/-! ## A restore's image -/

theorem Dev.Quiet.slices {p : Nat → Prop} (h : Dev.Quiet p d e) : e.slices = d.slices := (congrArg Dev.slices h.rest :)

theorem Dev.fetchEnd_keeps {how : FetchEnd} {sl : Option Nat} {a : Nat} (hd : d.canon) : (d.fetchEnd how sl a).canon ∧ (d.fetchEnd how sl a).slices = d.slices := by
  refine ⟨hd.fetchEnd, ?_⟩
  cases how with
  | translation =>
    have quiet : Dev.Quiet (fun _ => True) d (d.fetchEnd .translation sl a) := (Dev.Quiet.refl.count trivial).raise
    exact quiet.slices
  | ok | error => rfl

theorem sliceImageFetchDone_stays {l : Bytes} {how : FetchEnd} (h : d.sliceState i ≠ 5 ∨ (d.sli i).image ≠ none) : sliceImageFetchDoneEffect i l how d = d :=
  if_pos (by rwa [Bool.or_eq_true, bne_iff_ne, Option.isSome_iff_ne_none])

/-- A restore that fails with a reason. -/
def Dev.restoreFails (d : Dev) (i r : Nat) : Dev := ((d.setSliceState i 1).setSliceResult i (0x10 + r)).raise 0xC005 0xFF systemSteward i r

/-- A fetched image judged: the first reason against it, or the image held for the snapshot. -/
def Dev.imageJudged (d : Dev) (i : Nat) (l : Bytes) : Option Nat → Dev
  | some r => d.restoreFails i r
  | none => d.setSli i { d.sli i with image := some l }

theorem sliceImageFetchDone_judges {l : Bytes} {how : FetchEnd} (hs : d.sliceState i = 5) (hi : (d.sli i).image = none) :
    let u := d.fetchEnd how none (d.getF (Reg.SLICE_IMAGE i) F.SLICE_IMAGE_ADDR * 64)
    sliceImageFetchDoneEffect i l how d = u.imageJudged i l
      (if how != .ok || decide (leAt l 8 4 > u.getF (Reg.SLICE_IMAGE_LEN i) F.SLICE_IMAGE_LEN_MAX) then some 1 else u.imageCheck i l) := by
  intro u
  have waits : ¬ (d.sliceState i != 5 || (d.sli i).image.isSome) = true := by rw [hs, hi]; decide
  refine (if_neg waits).trans ?_
  extract_lets bad
  change _ = Dev.imageJudged u i l bad
  clear_value bad
  cases bad <;> rfl

theorem Dev.restoreFails_facts {r : Nat} (hd : d.canon) (hr : 0x10 + r < 256) : let e := d.restoreFails i r
    e.sliceState i = 1 ∧ e.getF (Reg.SLICE_STATUS i) F.SLICE_STATUS_LAST_RESULT = 0x10 + r ∧ e.slices = d.slices ∧
      ∃ r ∈ e.ev.arisen, r.code = 0xC005 ∧ r.object = BitVec.ofNat 32 i := by
  obtain ⟨state, result, -, slices, -, -⟩ := Dev.sliceShows_facts (i := i) hd (by decide : 1 < 8) hr
  unfold Dev.restoreFails
  generalize (d.setSliceState i 1).setSliceResult i (0x10 + r) = u at *
  obtain ⟨q, hq, code, object, -⟩ := Dev.raise_says (d := u) (c := 0xC005) (s := 0xFF) (x := systemSteward) (o := i) (n := r)
  exact ⟨Dev.raise_slice.1.trans state, (Dev.raise_getF ..).trans result, slices, q, hq, code, object⟩

/-! ## A restore is installed -/

/-- The device with an image's trays, contexts, counters, objects and own references in place. -/
def Dev.imageInstalled (d : Dev) (i : Nat) (l : Bytes) : Dev :=
  let rs := imageRecs l
  let os := imageObjs (bodyOf rs 5)
  let own := (imageRefs (bodyOf rs 5)).filter fun r => os.any (·.id == r.1)
  let u := ((bodiesOf rs 3).foldl (Dev.installCtx i) ((bodiesOf rs 2).foldl (Dev.installTray i) d)).installCtrs i (bodyOf rs 4)
  own.foldl (fun (d : Dev) r => d.tierPush (objTile r.1) { mkTierCmd 3 i r.1 d.tickNo with w1 := BitVec.ofNat 64 r.2.1, w2 := BitVec.ofNat 64 r.2.2 })
    ((u.installObjs os).getD u)

theorem Dev.canon.imageInstalled {l : Bytes} (h : d.canon) : (d.imageInstalled i l).canon := by
  have objects {a : Dev} {os : List Obj} (h : a.canon) : ((a.installObjs os).getD a).canon := by
    cases he : a.installObjs os with
    | none => exact h
    | some b => exact h.installObjs he
  exact (objects ((h.foldl .installTray).foldl .installCtx).installCtrs).foldl .tierPush

theorem sliceRestoreInstall_stays (h : (d.sli i).ready = false ∨ (d.sli i).image = none) : sliceRestoreInstallEffect i d = d := by
  unfold sliceRestoreInstallEffect
  split
  · next hr hi => simp [hr, hi] at h
  · rfl

theorem sliceRestoreInstall_installs {l : Bytes} (hr : (d.sli i).ready = true) (hi : (d.sli i).image = some l) :
    ∃ x, sliceRestoreInstallEffect i d = ((d.imageInstalled i l).sliceEnds i 1 0 SliceState.init).raise 0xC004 0xFF systemSteward i x := by
  unfold sliceRestoreInstallEffect
  rw [hr, hi]
  exact ⟨_, rfl⟩

theorem sliceRestoreInstall_facts {l : Bytes} (hd : d.canon) (hr : (d.sli i).ready = true) (hi : (d.sli i).image = some l) :
    let e := sliceRestoreInstallEffect i d
    e.sliceState i = 1 ∧ e.sli i = SliceState.init ∧ e.getF (Reg.SLICE_STATUS i) F.SLICE_STATUS_LAST_RESULT = 0 ∧
      ∃ r ∈ e.ev.arisen, r.code = 0xC004 ∧ r.object = BitVec.ofNat 32 i := by
  obtain ⟨x, installs⟩ := sliceRestoreInstall_installs hr hi
  rw [installs]
  obtain ⟨state, result, sli, -, -, -⟩ := Dev.sliceEnds_facts (i := i) (x := SliceState.init) (hd.imageInstalled (i := i) (l := l)) (by decide : 1 < 8) (by decide : 0 < 256)
  generalize (d.imageInstalled i l).sliceEnds i 1 0 SliceState.init = u at *
  obtain ⟨q, hq, code, object, -⟩ := Dev.raise_says (d := u) (c := 0xC004) (s := 0xFF) (x := systemSteward) (o := i) (n := x)
  exact ⟨Dev.raise_slice.1.trans state, Dev.raise_slice.2.trans sli, (Dev.raise_getF ..).trans result, q, hq, code, object⟩

/-! ## A reset completes -/

theorem sliceResetComplete_stays (h : d.sliceState i ≠ 2 ∨ (d.sli i).ready = false) : sliceResetCompleteEffect i d = d :=
  if_pos (by rwa [Bool.or_eq_true, bne_iff_ne, Bool.not_eq_true'])

/-- The device with the slice's contexts, counters and channels free. -/
def Dev.sliceFreed (d : Dev) (s : Nat) : Dev :=
  (tiles6.foldl (fun (d : Dev) t =>
    let d := ((d.sch t).ctxs.filter (·.slice == s)).foldl (fun d c => d.freeCtx t c) d
    let d := ((d.listedCtrs t).filter fun c => d.ctrSlice t c == s && d.ctrState t c != 4).foldl (fun d c => d.ctrWrite t c 0#64) d
    d.grantSlice t s) d).peelForce (0xC000 + s) 3
/-- The device with the slice's collective slot empty. -/
def Dev.collCleared (d : Dev) (s : Nat) : Dev :=
  let d := ((d.setReg (Reg.MEMB_COLL s) 0#64).setReg (Reg.MEMB_COLL_LIST s) 0#64).setReg (Reg.MEMB_COLL_N s) 0#64
  { d with memb := { d.memb with colls := erase d.memb.colls s } }
/-- What a reset leaves of the slice's contexts, counters, channels, trays and collective slot. -/
def Dev.sliceCleared (d : Dev) (s : Nat) : Dev := (((d.sliceFreed s).sliceTrays s).foldl Dev.resetTray (d.sliceFreed s)).collCleared s

/-- The slice's event ring, its image's length and its status as a reset leaves them. -/
def Dev.resetEnds (d : Dev) (i : Nat) : Dev :=
  ((((d.setReg (Reg.SLICE_EV_PTR i) 0#64).setReg (Reg.SLICE_EV_DISCARD i) 0#64).setF (Reg.SLICE_IMAGE_LEN i) F.SLICE_IMAGE_LEN_LEN 0).setSliceState i 1).setSli i SliceState.init

theorem Dev.canon.sliceFreed (h : d.canon) : (d.sliceFreed i).canon := (h.foldl fun h => ((h.foldl .freeCtx).foldl .ctrWrite).grantSlice).peelForce
theorem Dev.canon.sliceCleared (h : d.canon) : (d.sliceCleared i).canon := ((h.sliceFreed.foldl .resetTray).setReg.setReg.setReg).memb

theorem sliceResetComplete_ends (hs : d.sliceState i = 2) (hr : (d.sli i).ready = true) :
    ∃ x, sliceResetCompleteEffect i d = ((d.sliceCleared i).resetEnds i).raise 0xC001 0xFF systemSteward i x := by
  unfold sliceResetCompleteEffect
  rw [if_neg (by rw [hs, hr]; decide)]
  extract_lets x u1 u2 u3 u4 u5 u6 u7
  have freed : u1 = d.sliceFreed i := rfl
  clear_value u1
  have trays : u2 = (u1.sliceTrays i).foldl Dev.resetTray u1 := rfl
  clear_value u2
  have coll : u5 = u2.collCleared i := rfl
  clear_value u5
  have ends : u7 = u5.resetEnds i := rfl
  rw [Dev.sliceCleared, ← freed, ← trays, ← coll, ← ends]
  exact ⟨_, rfl⟩

/-- The length and the status leave the event ring's registers. -/
theorem Dev.reg_ringKept {a : Nat} (hd : d.canon) (ha : a = Reg.SLICE_EV_PTR i ∨ a = Reg.SLICE_EV_DISCARD i) :
    ((d.setF (Reg.SLICE_IMAGE_LEN i) F.SLICE_IMAGE_LEN_LEN 0).setSliceState i 1).reg a = d.reg a := by
  unfold Reg.SLICE_EV_PTR Reg.SLICE_EV_DISCARD at ha
  exact (Dev.reg_setReg_ne _ hd.setF (by unfold Reg.SLICE_STATUS; omega)).trans (Dev.reg_setReg_ne _ hd (by unfold Reg.SLICE_IMAGE_LEN; omega))

theorem Dev.resetEnds_facts (hd : d.canon) : (d.resetEnds i).sliceState i = 1 ∧ (d.resetEnds i).sli i = SliceState.init ∧
    (d.resetEnds i).reg (Reg.SLICE_EV_PTR i) = 0#64 ∧ (d.resetEnds i).reg (Reg.SLICE_EV_DISCARD i) = 0#64 := by
  have canon1 := hd.setReg (a := Reg.SLICE_EV_PTR i) (v := 0#64)
  have canon2 := canon1.setReg (a := Reg.SLICE_EV_DISCARD i) (v := 0#64)
  have state := Dev.getF_setF_lt (a := Reg.SLICE_STATUS i) (f := F.SLICE_STATUS_STATE) (v := 1) (canon2.setF (a := Reg.SLICE_IMAGE_LEN i) (f := F.SLICE_IMAGE_LEN_LEN) (v := 0)) (by decide)
  refine ⟨?_, Dev.sli_setSli _ _ _ canon2.setF.setSliceState, ?_, ?_⟩
  · rw [Dev.sliceState, Dev.resetEnds, Dev.setSli_getF]
    exact state
  · rw [Dev.resetEnds, Dev.setSli_reg, Dev.reg_ringKept canon2 (.inl rfl), Dev.reg_setReg_ne _ canon1 (by unfold Reg.SLICE_EV_DISCARD Reg.SLICE_EV_PTR; omega)]
    exact Dev.reg_setReg_self _ _ hd
  · rw [Dev.resetEnds, Dev.setSli_reg, Dev.reg_ringKept canon2 (.inr rfl)]
    exact Dev.reg_setReg_self _ _ canon1

theorem sliceResetComplete_facts (hd : d.canon) (hs : d.sliceState i = 2) (hr : (d.sli i).ready = true) : let e := sliceResetCompleteEffect i d
    e.sliceState i = 1 ∧ e.sli i = SliceState.init ∧ e.reg (Reg.SLICE_EV_PTR i) = 0#64 ∧ e.reg (Reg.SLICE_EV_DISCARD i) = 0#64 ∧
      ∃ r ∈ e.ev.arisen, r.code = 0xC001 ∧ r.object = BitVec.ofNat 32 i := by
  obtain ⟨x, ends⟩ := sliceResetComplete_ends hs hr
  rw [ends]
  obtain ⟨state, sli, ptr, discard⟩ := Dev.resetEnds_facts (i := i) (hd.sliceCleared (i := i))
  generalize (d.sliceCleared i).resetEnds i = u at *
  obtain ⟨q, hq, code, object, -⟩ := Dev.raise_says (d := u) (c := 0xC001) (s := 0xFF) (x := systemSteward) (o := i) (n := x)
  exact ⟨Dev.raise_slice.1.trans state, Dev.raise_slice.2.trans sli, (Dev.raise_reg ..).trans ptr, (Dev.raise_reg ..).trans discard, q, hq, code, object⟩

/-- Settles O46: each command by who may give it and the slice's state, each end by what the stewards hold of the slice. -/
theorem sliceCommandsLandAndComplete : Obligations.SliceCommandsLandAndComplete := by
  unfold Obligations.SliceCommandsLandAndComplete
  refine ⟨⟨fun d m s cmd reason => ⟨rfl, rfl, rfl, Dev.raise_raised rfl ⟨rfl, rfl⟩⟩, fun m i drain s hs => ⟨fun h => ?_, fun h h0 => ?_, fun h h0 hr => ?_, fun h h0 hr => ⟨fun h2 => ?_, fun h2 hx => ?_⟩⟩,
    fun m i s hs => ⟨fun h => ?_, fun h h0 => ?_, fun h h0 hi => ?_, fun h h0 hi hst hx => ?_, fun h hst hx => ?_, fun h hst hx => ?_, fun h hst => ?_⟩⟩,
    fun i s hs hd => ⟨fun h => runs_ran rfl hs (sliceFreezeComplete_stays h), fun h => runs_ran rfl hs (sliceFreezeComplete_facts hd h)⟩,
    fun i l how s hs hd => ⟨fun h => runs_ran rfl hs (sliceImageFetchDone_stays h), fun h5 hi ho => ?_, fun h5 hi ho hl hc => ?_⟩,
    fun i s hs hd => ⟨fun h => runs_ran rfl hs (sliceRestoreInstall_stays h), fun l hr hi => runs_ran rfl hs (sliceRestoreInstall_facts hd hr hi)⟩,
    fun i s hs hd => ⟨fun h => runs_ran rfl hs (sliceResetComplete_stays h), fun h2 hr => runs_ran rfl hs (sliceResetComplete_facts hd h2 hr)⟩⟩
  · exact ⟨runs_ranFrom rfl hs (Dev.sliceReset_denied h), runs_ranFrom rfl hs (Dev.sliceReset_denied (Dev.sliceMay_reset.trans h))⟩
  · exact ⟨runs_ranFrom rfl hs (Dev.sliceReset_disabled h h0), runs_ranFrom rfl hs (Dev.sliceReset_disabled (Dev.sliceMay_reset.trans h) h0)⟩
  · exact ⟨runs_ranFrom rfl hs (Dev.sliceReset_radio h h0 hr), runs_ranFrom rfl hs (Dev.sliceReset_radio (Dev.sliceMay_reset.trans h) h0 hr)⟩
  · have squash : sliceResetSquashEffect m i s.dev = _ := (Dev.sliceReset_lands (Dev.sliceMay_reset.trans h) h0 hr).trans (Dev.landReset_under h2)
    exact ⟨runs_ranFrom rfl hs ((Dev.sliceReset_lands h h0 hr).trans (Dev.landReset_under h2)), fun hm => runs_ranFrom rfl hs (squash.trans (by rw [hm]; rfl)),
      fun hm => runs_ranFrom rfl hs (squash.trans (by rw [hm]; rfl))⟩
  · exact ⟨runs_ranFrom rfl hs ((Dev.sliceReset_lands h h0 hr).trans (Dev.landReset_fresh h2 (.inl rfl) hx)),
      runs_ranFrom rfl hs ((Dev.sliceReset_lands (Dev.sliceMay_reset.trans h) h0 hr).trans (Dev.landReset_fresh h2 (.inr rfl) hx))⟩
  · exact ⟨runs_ranFrom rfl hs (Dev.sliceHostCmd_denied h), runs_ranFrom rfl hs (Dev.sliceHostCmd_denied h), runs_ranFrom rfl hs (Dev.sliceHostCmd_denied h)⟩
  · subst h
    exact ⟨runs_ranFrom rfl hs (Dev.sliceHostCmd_disabled h0), runs_ranFrom rfl hs (Dev.sliceHostCmd_disabled h0), runs_ranFrom rfl hs (Dev.sliceHostCmd_disabled h0)⟩
  · subst h
    refine runs_ranFrom rfl hs ?_
    rw [sliceFreezeEffect]
    rw [hi] at h0 ⊢
    exact Dev.sliceHostCmd_first h0
  · subst h
    exact runs_ranFrom rfl hs (Dev.sliceHostCmd_goes h0 (.inr hi) (by simpa using hst) hx)
  · subst h
    exact runs_ranFrom rfl hs (Dev.sliceHostCmd_goes (by omega) (.inl (by decide)) (by simpa using hst) hx)
  · subst h
    exact runs_ranFrom rfl hs (Dev.sliceHostCmd_goes (by omega) (.inl (by decide)) (by simpa using hst) hx)
  · subst h
    have other : s.dev.sliceState i ≠ 0 ∧ s.dev.sliceState i ≠ 1 ∧ s.dev.sliceState i ≠ 4 := by omega
    exact ⟨fun hi => runs_ranFrom rfl hs (Dev.sliceHostCmd_state other.1 (.inr hi) (by simpa using other.2)),
      runs_ranFrom rfl hs (Dev.sliceHostCmd_state other.1 (.inl (by decide)) (by simpa using other.2.1)),
      runs_ranFrom rfl hs (Dev.sliceHostCmd_state other.1 (.inl (by decide)) (by simpa using other.2.2))⟩
  · refine runs_ran rfl hs ?_
    obtain ⟨canon, slices⟩ := Dev.fetchEnd_keeps (how := how) (sl := none) (a := s.dev.getF (Reg.SLICE_IMAGE i) F.SLICE_IMAGE_ADDR * 64) hd
    rw [sliceImageFetchDone_judges h5 hi, if_pos (by rw [Bool.or_eq_true, bne_iff_ne]; exact .inl ho)]
    obtain ⟨state, result, kept, told⟩ := Dev.restoreFails_facts (i := i) (r := 1) canon (by decide)
    exact ⟨state, result, kept.trans slices, told⟩
  · subst ho
    refine runs_ran rfl hs ?_
    rw [sliceImageFetchDone_judges h5 hi, show s.dev.fetchEnd .ok none _ = s.dev from rfl, if_neg (by simpa using hl), hc]
    exact ⟨Dev.sli_setSli _ _ _ hd, rfl, rfl⟩

end Sys2Proof.Machine
end

section
/-! SUPPORT. Line errors: counts, repairs, the check-bit test and scrub (R433, R435 to R437, Table 18.1). -/
namespace Sys2Proof.Machine

-- One proof after another: with many at once their threads' stacks exceed the memory that the check allows.
set_option Elab.async false

variable {d e : Dev} {a n t i : Nat} {f : Fld} {m : Master} {s : State}

/-! ## Counts and overflow marks -/

theorem Dev.count_below (h : d.getF a f + 1 < 2 ^ f.w) : d.count a f 1 = d.setF a f (d.getF a f + 1) := (if_neg (by decide)).trans (if_pos h)
theorem Dev.count_full (h : ¬ d.getF a f + 1 < 2 ^ f.w) : d.count a f 1 = d.setFs a [(f, 2 ^ f.w - 1), (⟨f.lo + f.w, 1⟩, 1)] :=
  (if_neg (by decide)).trans (if_neg h)

theorem Dev.Quiet.lineErr {p : Nat → Prop} (h : Dev.Quiet p d e) : e.lineErr = d.lineErr := (congrArg Dev.lineErr h.rest :)
theorem Dev.Quiet.integ {p : Nat → Prop} (h : Dev.Quiet p d e) : e.integ = d.integ := (congrArg Dev.integ h.rest :)
theorem Dev.Quiet.written {p : Nat → Prop} (h : Dev.Quiet p d e) : e.written = d.written := (congrArg Dev.written h.rest :)

/-- The event of an overflow mark leaves all but the events. -/
theorem Dev.integOvf_quiet {p : Nat → Prop} {was : Dev} {r : Nat} (h : Dev.Quiet p d e) : Dev.Quiet p d (was.integOvf e t r f) := h.raise.ite h
theorem Dev.integOvf_reg {was : Dev} {r : Nat} : (was.integOvf d t r f).regs = d.regs := by
  unfold Dev.integOvf
  split <;> rfl

/-! ## A corrected error -/

/-- The bucket of a block after a corrected error. -/
def Dev.bucketFilled (d : Dev) (b : Nat × Nat × BitVec 16) : Dev :=
  let r := Reg.INTEG_BUCKET b.1 b.2.1
  let v := d.getF r F.INTEG_BUCKET_LEVEL
  if v < 255 then d.setF r F.INTEG_BUCKET_LEVEL (v + 1)
  else if d.getB r F.INTEG_BUCKET_FULL then d
  else (d.setB r F.INTEG_BUCKET_FULL true).raise 0x5002 0xFF b.2.2 b.2.1 0

/-- The device's count of corrected errors, one on. -/
def Dev.correctedCounted (d : Dev) (t : Nat) : Dev :=
  d.integOvf (d.count Reg.INTEG_CORRECTED F.INTEG_CORRECTED_COUNT 1) t Reg.INTEG_CORRECTED F.INTEG_CORRECTED_OVF

theorem Dev.corrected_eq {line : Nat} : d.corrected line = (d.correctedCounted (blockOf (line * 64)).1).bucketFilled (blockOf (line * 64)) := by
  unfold Dev.corrected
  generalize blockOf (line * 64) = b
  rfl

theorem Reg.bucket_apart {t b : Nat} : Reg.INTEG_BUCKET t b ≠ Reg.INTEG_CORRECTED := by
  unfold Reg.INTEG_BUCKET Reg.INTEG_CORRECTED
  omega

theorem Dev.correctedCounted_quiet : Dev.Quiet (· = Reg.INTEG_CORRECTED) d (d.correctedCounted t) := Dev.integOvf_quiet (Dev.Quiet.refl.count rfl)

theorem Dev.correctedCounted_facts (hd : d.canon) : let e := d.correctedCounted t
    let n := d.getF Reg.INTEG_CORRECTED F.INTEG_CORRECTED_COUNT
    (n < 2 ^ 48 - 1 → e.getF Reg.INTEG_CORRECTED F.INTEG_CORRECTED_COUNT = n + 1) ∧
    (n = 2 ^ 48 - 1 → e.getF Reg.INTEG_CORRECTED F.INTEG_CORRECTED_COUNT = n ∧ e.getB Reg.INTEG_CORRECTED F.INTEG_CORRECTED_OVF = true) := by
  intro e n
  have reg : e.reg Reg.INTEG_CORRECTED = (d.count Reg.INTEG_CORRECTED F.INTEG_CORRECTED_COUNT 1).reg Reg.INTEG_CORRECTED := congrFun (Dev.reg_of Dev.integOvf_reg) _
  have field (g : Fld) : e.getF Reg.INTEG_CORRECTED g = (d.count Reg.INTEG_CORRECTED F.INTEG_CORRECTED_COUNT 1).getF Reg.INTEG_CORRECTED g := congrArg (fieldOf g) reg
  have w : F.INTEG_CORRECTED_COUNT.w = 48 := rfl
  refine ⟨fun h => ?_, fun h => ?_⟩
  · rw [field]
    exact Dev.getF_count _ _ _ hd (by decide) (by rw [w]; omega)
  · have full := Dev.count_full (d := d) (a := Reg.INTEG_CORRECTED) (f := F.INTEG_CORRECTED_COUNT) (by rw [w]; omega)
    rw [Dev.getB, field, field, full, beq_iff_eq]
    exact ⟨(Dev.getF_setFs_mid (pre := []) hd (by rfl) (by rfl)).trans h.symm, Dev.getF_setFs_mid (pre := [_]) hd (by rfl) (by rfl)⟩

theorem Dev.bucketFilled_quiet {b : Nat × Nat × BitVec 16} : Dev.Quiet (· = Reg.INTEG_BUCKET b.1 b.2.1) d (d.bucketFilled b) := by
  unfold Dev.bucketFilled
  dsimp only
  split
  · exact Dev.Quiet.refl.setF rfl
  · exact Dev.Quiet.refl.ite (Dev.Quiet.refl.setB (p := (· = Reg.INTEG_BUCKET b.1 b.2.1)) rfl).raise

/-- The bucket's register. -/
def bucketReg (b : Nat × Nat × BitVec 16) : Nat := Reg.INTEG_BUCKET b.1 b.2.1

theorem Dev.bucketFilled_low {b : Nat × Nat × BitVec 16} (h : d.getF (bucketReg b) F.INTEG_BUCKET_LEVEL < 255) :
    d.bucketFilled b = d.setF (bucketReg b) F.INTEG_BUCKET_LEVEL (d.getF (bucketReg b) F.INTEG_BUCKET_LEVEL + 1) := if_pos h
theorem Dev.bucketFilled_fills {b : Nat × Nat × BitVec 16} (h : d.getF (bucketReg b) F.INTEG_BUCKET_LEVEL = 255)
    (hf : d.getB (bucketReg b) F.INTEG_BUCKET_FULL = false) :
    d.bucketFilled b = (d.setB (bucketReg b) F.INTEG_BUCKET_FULL true).raise 0x5002 0xFF b.2.2 b.2.1 0 :=
  (if_neg (Nat.not_lt.2 (Nat.le_of_eq h.symm))).trans (if_neg (Bool.eq_false_iff.1 hf))
theorem Dev.bucketFilled_full {b : Nat × Nat × BitVec 16} (h : d.getF (bucketReg b) F.INTEG_BUCKET_LEVEL = 255)
    (hf : d.getB (bucketReg b) F.INTEG_BUCKET_FULL = true) : d.bucketFilled b = d := (if_neg (Nat.not_lt.2 (Nat.le_of_eq h.symm))).trans (if_pos hf)

/-- A field set to mark, told by an event: the mark reads back, another field of the register stays. -/
theorem Dev.marked_facts {r c k o x : Nat} {u : BitVec 16} {f g : Fld} (hd : d.canon) (hf : Nat.ble (f.lo + f.w) 64 = true) (h1 : 1 < 2 ^ f.w)
    (hfg : (Nat.ble (f.lo + f.w) g.lo || Nat.ble (g.lo + g.w) f.lo) = true) : let e := (d.setB r f true).raise c k u o x
    e.getF r g = d.getF r g ∧ e.getB r f = true ∧ ∃ q ∈ e.ev.arisen, q.code = c ∧ q.unit = u ∧ q.object = BitVec.ofNat 32 o := by
  refine ⟨(Dev.raise_getF ..).trans (Dev.getF_setF_other hd hf hfg), (Dev.raise_getB ..).trans ?_, _, mem_insertEvent_self _ _, rfl, rfl, rfl⟩
  rw [Dev.getB, beq_iff_eq]
  exact Dev.getF_setF_lt hd h1 hf

/-- A re-fetched line that is good: the two counts, one after the other. -/
theorem Dev.corrected_facts {line : Nat} (hd : d.canon) : let b := blockOf (line * 64)
    let r := Reg.INTEG_BUCKET b.1 b.2.1
    let v := d.getF r F.INTEG_BUCKET_LEVEL
    let n := d.getF Reg.INTEG_CORRECTED F.INTEG_CORRECTED_COUNT
    let e := d.corrected line
    (n < 2 ^ 48 - 1 → e.getF Reg.INTEG_CORRECTED F.INTEG_CORRECTED_COUNT = n + 1) ∧
    (n = 2 ^ 48 - 1 → e.getF Reg.INTEG_CORRECTED F.INTEG_CORRECTED_COUNT = n ∧ e.getB Reg.INTEG_CORRECTED F.INTEG_CORRECTED_OVF = true) ∧
    (v < 255 → e.getF r F.INTEG_BUCKET_LEVEL = v + 1 ∧ e.getB r F.INTEG_BUCKET_FULL = d.getB r F.INTEG_BUCKET_FULL) ∧
    (v = 255 → d.getB r F.INTEG_BUCKET_FULL = false → e.getF r F.INTEG_BUCKET_LEVEL = 255 ∧ e.getB r F.INTEG_BUCKET_FULL = true ∧
      ∃ q ∈ e.ev.arisen, q.code = 0x5002 ∧ q.unit = b.2.2 ∧ q.object = BitVec.ofNat 32 b.2.1) ∧
    (v = 255 → d.getB r F.INTEG_BUCKET_FULL = true → e.reg r = d.reg r) ∧
    d.sameRegs e (fun a => a = r ∨ a = Reg.INTEG_CORRECTED) ∧ e.mem = d.mem ∧ e.lineErr = d.lineErr ∧ e.written = d.written := by
  rw [Dev.corrected_eq]
  generalize blockOf (line * 64) = b
  intro b' r v n e
  have quiet := Dev.correctedCounted_quiet (d := d) (t := b.1)
  obtain ⟨below, full⟩ := Dev.correctedCounted_facts (t := b.1) hd
  have same : (d.correctedCounted b.1).reg r = d.reg r := quiet.regs hd _ Reg.bucket_apart
  have field (g : Fld) : (d.correctedCounted b.1).getF r g = d.getF r g := congrArg (fieldOf g) same
  have kept : e.reg Reg.INTEG_CORRECTED = (d.correctedCounted b.1).reg Reg.INTEG_CORRECTED := Dev.bucketFilled_quiet.regs (quiet.keeps hd) _ (Ne.symm Reg.bucket_apart)
  have keptF (g : Fld) : e.getF Reg.INTEG_CORRECTED g = (d.correctedCounted b.1).getF Reg.INTEG_CORRECTED g := congrArg (fieldOf g) kept
  have canon := quiet.keeps hd
  have stores := Dev.bucketFilled_quiet (d := d.correctedCounted b.1) (b := b)
  refine ⟨fun h => (keptF _).trans (below h), fun h => ⟨(keptF _).trans (full h).1, ?_⟩, fun h => ?_, fun h hf => ?_, fun h hf => ?_,
    fun a ha => (stores.regs canon a fun h => ha (.inl h)).trans (quiet.regs hd a fun h => ha (.inr h)),
    stores.mem.trans quiet.mem, stores.lineErr.trans quiet.lineErr, stores.written.trans quiet.written⟩
  · rw [Dev.getB, keptF]
    exact (full h).2
  · have level : (d.correctedCounted b.1).getF (bucketReg b) F.INTEG_BUCKET_LEVEL = v := field _
    have low : e = (d.correctedCounted b.1).setF (bucketReg b) F.INTEG_BUCKET_LEVEL (v + 1) := level ▸ Dev.bucketFilled_low (level.trans_lt h)
    rw [low]
    exact ⟨Dev.getF_setF_lt canon (show v + 1 < 256 by omega), congrArg (· == 1) ((Dev.getF_setF_other canon).trans (field _))⟩
  · have marks : e = _ := Dev.bucketFilled_fills ((field _).trans h) ((congrArg (· == 1) (field _)).trans hf)
    rw [marks]
    obtain ⟨level, mark, told⟩ := Dev.marked_facts (r := bucketReg b) (f := F.INTEG_BUCKET_FULL) (g := F.INTEG_BUCKET_LEVEL) (c := 0x5002) (k := 0xFF) (u := b.2.2) (o := b.2.1) (x := 0)
      canon (by rfl) (by decide) (by rfl)
    exact ⟨level.trans ((field _).trans h), mark, told⟩
  · have stays : e = _ := Dev.bucketFilled_full ((field _).trans h) ((congrArg (· == 1) (field _)).trans hf)
    rw [stays]
    exact same

/-! ## An error that stays -/

theorem blockOf_block (a : Nat) : (blockOf a).2.1 < 128 := by
  unfold blockOf channelOf
  split
  · show 4 * (a / 2 ^ 33 % 16) + 2 * (a / 2 ^ 32 % 2) + a / 64 % 2 < 128
    omega
  · split
    · show 64 + _ % 0x04000000 / 0x200000 < 128
      omega
    · split
      · show 96 + _ % 0x20000000 / 0x01000000 < 128
        omega
      · show 113 + _ % 0x00800000 / 0x00100000 < 128
        omega

/-- What every recovery of a bad line of a block leaves: the block's count one on, event 0x5001, and every byte outside the reserve. -/
structure Dev.Recovered (b : Nat × Nat × BitVec 16) (d e : Dev) : Prop where
  canon : e.canon
  counts : d.getF (bucketReg b) F.INTEG_BUCKET_UNRESOLVED < 2 ^ 16 - 1 →
    e.getF (bucketReg b) F.INTEG_BUCKET_UNRESOLVED = d.getF (bucketReg b) F.INTEG_BUCKET_UNRESOLVED + 1
  told : ∃ q ∈ e.ev.arisen, q.code = 0x5001 ∧ q.unit = b.2.2
  bytes : ∀ a, a < reserveBase b.1 ∨ reserveBase b.1 + 2 ^ 28 ≤ a → e.byte a = d.byte a

theorem Dev.raise_arisen {q : EventRec} {c k o x : Nat} {u : BitVec 16} (h : q ∈ d.ev.arisen) : q ∈ (d.raise c k u o x).ev.arisen := mem_insertEvent_of_mem h

section
variable {b : Nat × Nat × BitVec 16} {u : Dev} {o : Obj}

theorem Dev.Recovered.raise {c k o x : Nat} {w : BitVec 16} (h : Dev.Recovered b d u) : Dev.Recovered b d (u.raise c k w o x) where
  canon := h.canon.raise
  counts hc := (Dev.raise_getF ..).trans (h.counts hc)
  told := h.told.imp fun _ ⟨hq, what⟩ => ⟨Dev.raise_arisen hq, what⟩
  bytes a ha := (Dev.raise_byte ..).trans (h.bytes a ha)

theorem Dev.Recovered.putObj (h : Dev.Recovered b d u) (hi : i < 2 ^ 20) : Dev.Recovered b d (u.putObj b.1 i o) where
  canon := h.canon.putObj
  counts hc := (Dev.write_getF ..).trans (h.counts hc)
  told := h.told.imp fun _ ⟨hq, what⟩ => ⟨Dev.putObj_ev.symm ▸ hq, what⟩
  bytes a ha := (Dev.byte_write_out _ _ _ h.canon (by rw [o.bytes_length, objPlace]; omega)).trans (h.bytes a ha)

theorem Dev.Recovered.setTier {x : TierState} (h : Dev.Recovered b d u) : Dev.Recovered b d (u.setTier t x) where
  canon := h.canon.setTier
  counts := h.counts
  told := h.told
  bytes := h.bytes

theorem Dev.Recovered.uncharge (h : Dev.Recovered b d u) (hb : b.1 < 6) (hk : b.2.1 < 128) : Dev.Recovered b d (u.uncharge t o) := by
  have quiet := Dev.setTierUse_quiet (d := u) (n := t) (s := o.owner) (tier := o.curTier) (v := u.tierUse t o.owner o.curTier - o.pages)
  obtain ⟨-, ev, -⟩ := Dev.setTierUse_parts (d := u) (n := t) (m := t) (s := o.owner) (tier := o.curTier) (v := u.tierUse t o.owner o.curTier - o.pages)
  have kept : (u.uncharge t o).reg (bucketReg b) = u.reg (bucketReg b) := quiet.regs h.canon _ (by
    simp only [bucketReg, Reg.INTEG_BUCKET, Reg.TIER_SLICE_USE, Reg.TIER_SLICE_USE_T2]
    omega)
  exact ⟨h.canon.uncharge, fun hc => (congrArg (fieldOf _) kept).trans (h.counts hc), h.told.imp fun _ ⟨hq, what⟩ => ⟨(congrArg EvState.arisen ev).symm ▸ hq, what⟩,
    fun a ha => (quiet.byte a).trans (h.bytes a ha)⟩
end

theorem Dev.unresolved_counts {line reader row slice : Nat} :
    (d.unresolved line reader row slice).regs = (d.count (bucketReg (blockOf (line * 64))) F.INTEG_BUCKET_UNRESOLVED 1).regs ∧
    ∃ q ∈ (d.unresolved line reader row slice).ev.arisen, q.code = 0x5001 ∧ q.unit = (blockOf (line * 64)).2.2 := by
  unfold Dev.unresolved bucketReg
  generalize blockOf (line * 64) = b
  dsimp only
  generalize d.count (Reg.INTEG_BUCKET b.1 b.2.1) F.INTEG_BUCKET_UNRESOLVED 1 = u
  split
  · refine ⟨?_, _, mem_insertEvent_self _ _, rfl, rfl⟩
    split <;> rfl
  · refine ⟨?_, _, mem_insertEvent_self _ _, rfl, rfl⟩
    split <;> rfl

theorem Dev.unresolved_recovered {line reader row slice : Nat} (hd : d.canon) : Dev.Recovered (blockOf (line * 64)) d (d.unresolved line reader row slice) := by
  obtain ⟨regs, told⟩ := Dev.unresolved_counts (d := d) (line := line) (reader := reader) (row := row) (slice := slice)
  obtain ⟨mem, -, -, -⟩ := Dev.unresolved_parts (d := d) (line := line) (reader := reader) (row := row) (slice := slice)
  refine ⟨hd.unresolved, fun h => ?_, told, fun a _ => by rw [Dev.byte, Dev.byte, mem]⟩
  refine (congrArg (fieldOf _) (congrFun (Dev.reg_of regs) _)).trans (Dev.getF_count _ _ _ hd (by decide) ?_)
  change _ < 2 ^ 16
  omega

/-- The object and page of an upper copy that holds a line stand in the tile's directory. -/
theorem Dev.upperAt_index {line page : Nat} {o : Obj} (h : d.upperAt t line = some (i, o, page)) : i < 2 ^ 20 := by
  obtain ⟨p, hp, he⟩ := List.exists_of_findSome?_eq_some h
  obtain ⟨j, hj, rfl⟩ := List.mem_map.1 hp
  have same : j = i := by
    dsimp only at he
    split at he
    · split at he
      · cases he
        rfl
      · cases he
    · cases he
  unfold Dev.objIndices at hj
  obtain ⟨c, hc, rfl⟩ := List.mem_map.1 hj
  have bounds := (List.mem_filter.1 hc).2
  simp only [Bool.and_eq_true, decide_eq_true_eq] at bounds
  omega

/-- Every row of Table 18.1 begins with the unresolved error, and writes nothing outside the tile's reserve. -/
theorem Dev.recover_recovers {line reader slice : Nat} (hd : d.canon) (hb : (blockOf (line * 64)).1 < 6) :
    Dev.Recovered (blockOf (line * 64)) d (d.recover line reader slice) := by
  have start {row sl : Nat} : Dev.Recovered (blockOf (line * 64)) d (d.unresolved line reader row sl) := Dev.unresolved_recovered hd
  have drawn {row sl : Nat} : Dev.Recovered (blockOf (line * 64)) d (d.fresh.2.unresolved line reader row sl) :=
    have r := Dev.unresolved_recovered (d := d.fresh.2) hd.fresh
    ⟨r.canon, r.counts, r.told, r.bytes⟩
  have small : (blockOf (line * 64)).2.1 < 128 := blockOf_block _
  unfold Dev.recover
  generalize blockOf (line * 64) = b at *
  dsimp only
  split
  · next h =>
    rw [Bool.and_eq_true, decide_eq_true_eq, decide_eq_true_eq] at h
    exact (start.putObj (by omega)).raise
  · split
    · exact start
    · split
      · next hu =>
        have index := Dev.upperAt_index hu
        split
        · exact ((start.uncharge hb small).putObj index).raise
        · exact start.setTier.putObj index
      · -- no upper copy: a home, or the reader's own row
        iterate 6 (split; · exact start)
        exact drawn

theorem lineRefetch_good {place reader slice : Nat} (h : d.bad (place / 64) = false) : lineRefetchEffect place reader slice d = d.corrected (place / 64) :=
  if_neg (Bool.eq_false_iff.1 h)
theorem lineRefetch_bad {place reader slice : Nat} (h : d.bad (place / 64) = true) : lineRefetchEffect place reader slice d =
    d.recover (place / 64) reader (if reader == 2 || reader == 3 || reader == 7 then 0xFF else slice) := if_pos h

theorem lineRefetch_recovers {place reader slice : Nat} (hd : d.canon) (hb : (blockOf (place / 64 * 64)).1 < 6) :
    let b := blockOf (place / 64 * 64)
    let r := Reg.INTEG_BUCKET b.1 b.2.1
    let e := d.recover (place / 64) reader slice
    (d.getF r F.INTEG_BUCKET_UNRESOLVED < 2 ^ 16 - 1 → e.getF r F.INTEG_BUCKET_UNRESOLVED = d.getF r F.INTEG_BUCKET_UNRESOLVED + 1) ∧
      (∃ q ∈ e.ev.arisen, q.code = 0x5001 ∧ q.unit = b.2.2) ∧ ∀ a, a < reserveBase b.1 ∨ reserveBase b.1 + 2 ^ 28 ≤ a → e.byte a = d.byte a := by
  obtain ⟨-, counts, told, bytes⟩ := Dev.recover_recovers (reader := reader) (slice := slice) hd hb
  generalize d.recover (place / 64) reader slice = e at *
  exact ⟨counts, told, bytes⟩

/-! ## A page repaired from its home -/

theorem pageRepairDone_none {page : Bytes} (h : (d.tier t).repair = []) : pageRepairDoneEffect t page d = d := by
  unfold pageRepairDoneEffect
  dsimp only
  rw [h]

/-- The oldest repair of a tile, on a device that holds it no longer. -/
def Dev.repairs (t i p : Nat) (o : Obj) (page : Bytes) (r : List (Nat × Nat)) (d : Dev) : Dev :=
  if o.state != 2 then d else
  match d.place o.curAddr, (if o.homeTier == 2 then d.firstBad (o.homeAddr + 4096 * p) 4096 else none) with
  | none, _ => d
  | some _, some ln => ((d.unresolved ln 1 3 o.owner).uncharge t o).putObj t i { o with state := 5, curTier := o.homeTier, curAddr := o.homeAddr }
  | some a, none =>
    let d := d.write (a + 4096 * p) (if o.homeTier == 2 then d.bytes (o.homeAddr + 4096 * p) 4096 else page)
    let d := d.clearWritten (a + 4096 * p)
    let d := if r.any (·.1 == i) then d else d.putObj t i { o with state := 3 }
    d.raise 0x5003 o.owner (tierUnit t) o.id p

theorem pageRepairDone_first {page : Bytes} {p : Nat} {r : List (Nat × Nat)} (h : (d.tier t).repair = (i, p) :: r) :
    pageRepairDoneEffect t page d = if (d.obj t i).homeTier != 2 && page.length != 4096 then d else (d.setTier t { d.tier t with repair := r }).repairs t i p (d.obj t i) page r := by
  unfold pageRepairDoneEffect
  extract_lets x
  split
  · next h' => cases h.symm.trans h'
  · next h' =>
    cases h.symm.trans h'
    extract_lets o u
    refine ite_congr rfl (fun _ => rfl) fun _ => ?_
    have e : Dev.repairs t i p (d.obj t i) page r (d.setTier t { x with repair := r }) = Dev.repairs t i p o page r u := rfl
    refine Eq.trans ?_ e.symm
    clear_value u o
    unfold Dev.repairs
    refine ite_congr rfl (fun _ => rfl) fun _ => ?_
    generalize u.place o.curAddr = at_
    generalize (if (o.homeTier == 2) = true then u.firstBad (o.homeAddr + 4096 * p) 4096 else none) = bad
    cases at_ with
    | none => rfl
    | some a =>
      cases bad with
      | none => rfl
      | some ln => rfl

section
variable {u : Dev} {o : Obj} {p a : Nat} {page : Bytes} {r : List (Nat × Nat)}

/-- The bytes that a repair writes over its page. -/
def Dev.homePage (d : Dev) (o : Obj) (p : Nat) (page : Bytes) : Bytes := if o.homeTier == 2 then d.bytes (o.homeAddr + 4096 * p) 4096 else page

/-- The upper copy with its page from the home, its object resident again once no page of it waits. -/
def Dev.pageCopied (u : Dev) (t i p a : Nat) (o : Obj) (page : Bytes) (r : List (Nat × Nat)) : Dev :=
  let v := (u.write (a + 4096 * p) (u.homePage o p page)).clearWritten (a + 4096 * p)
  if r.any (·.1 == i) then v else v.putObj t i { o with state := 3 }

theorem Dev.repairs_idle (h : o.state ≠ 2) : u.repairs t i p o page r = u := if_pos (bne_iff_ne.2 h)

theorem Dev.repairs_copies (h : o.state = 2) (ha : u.place o.curAddr = some a) (hb : o.homeTier = 2 → u.firstBad (o.homeAddr + 4096 * p) 4096 = none) :
    u.repairs t i p o page r = (u.pageCopied t i p a o page r).raise 0x5003 o.owner (tierUnit t) o.id p := by
  have good : (if (o.homeTier == 2) = true then u.firstBad (o.homeAddr + 4096 * p) 4096 else none) = none := by
    split
    · next ho => exact hb (beq_iff_eq.1 ho)
    · rfl
  unfold Dev.repairs
  rw [if_neg (by rw [h]; decide), ha, good]
  rfl

theorem Dev.homePage_length (h : o.homeTier = 2 ∨ page.length = 4096) : (u.homePage o p page).length = 4096 := by
  unfold Dev.homePage
  split
  · exact Dev.bytes_length ..
  · next ho => exact h.resolve_left fun h => ho (beq_iff_eq.2 h)

theorem Dev.homePage_get {k : Nat} (hk : k < 4096) :
    (u.homePage o p page).getD k 0 = if o.homeTier = 2 then u.byte (o.homeAddr + 4096 * p + k) else page.getD k 0 := by
  unfold Dev.homePage
  by_cases ho : o.homeTier = 2
  · rw [if_pos (beq_iff_eq.2 ho), if_pos ho, List.getD_eq_getElem _ _ (by rwa [Dev.bytes_length])]
    simp only [Dev.bytes, List.getElem_map, List.getElem_range]
  · rw [if_neg (mt beq_iff_eq.1 ho), if_neg ho]

theorem Dev.pageCopied_facts (hu : u.canon) (hl : o.homeTier = 2 ∨ page.length = 4096) : let e := u.pageCopied t i p a o page r
    e.tier t = u.tier t ∧ (a + 4096 * p + 4096 ≤ reserveBase t ∨ reserveBase t + 64 * i + 64 ≤ a + 4096 * p → ∀ k < 4096, e.byte (a + 4096 * p + k) =
      if o.homeTier = 2 then u.byte (o.homeAddr + 4096 * p + k) else page.getD k 0) := by
  have len := Dev.homePage_length (u := u) (p := p) hl
  have stored {k : Nat} (hk : k < 4096) : (u.write (a + 4096 * p) (u.homePage o p page)).byte (a + 4096 * p + k) =
      if o.homeTier = 2 then u.byte (o.homeAddr + 4096 * p + k) else page.getD k 0 := by
    rw [Dev.byte_write_in _ _ _ hu (len.symm ▸ hk), ← Dev.homePage_get hk, List.getD_eq_getElem]
  have tier : (u.write (a + 4096 * p) (u.homePage o p page)).tier t = u.tier t := Dev.write_tier t
  have canon := hu.write (a := a + 4096 * p) (l := u.homePage o p page) |>.clearWritten (place := a + 4096 * p)
  unfold Dev.pageCopied
  generalize u.write (a + 4096 * p) (u.homePage o p page) = w at *
  dsimp only
  split
  · exact ⟨tier, fun _ k hk => stored hk⟩
  · refine ⟨Dev.putObj_tier.trans tier, fun hap k hk => ?_⟩
    refine (Dev.byte_write_out _ _ _ canon ?_).trans (stored hk)
    rw [Obj.bytes_length, objPlace]
    omega
end

theorem pageRepairDone_facts {page : Bytes} {p a : Nat} {r : List (Nat × Nat)} (hd : d.canon) (h : (d.tier t).repair = (i, p) :: r) (hst : (d.obj t i).state = 2)
    (ha : d.place (d.obj t i).curAddr = some a)
    (hok : (d.obj t i).homeTier = 2 ∧ d.firstBad ((d.obj t i).homeAddr + 4096 * p) 4096 = none ∨ (d.obj t i).homeTier ≠ 2 ∧ page.length = 4096) :
    let e := pageRepairDoneEffect t page d
    (e.tier t).repair = r ∧ (∃ r ∈ e.ev.arisen, r.code = 0x5003 ∧ r.unit = tierUnit t) ∧
      (a + 4096 * p + 4096 ≤ reserveBase t ∨ reserveBase t + 64 * i + 64 ≤ a + 4096 * p → ∀ k < 4096, e.byte (a + 4096 * p + k) =
        if (d.obj t i).homeTier = 2 then d.byte ((d.obj t i).homeAddr + 4096 * p + k) else page.getD k 0) := by
  have canon : (d.setTier t { d.tier t with repair := r }).canon := hd.setTier
  have repair : ((d.setTier t { d.tier t with repair := r }).tier t).repair = r := by rw [Dev.tier_setTier _ _ _ hd]
  have place : (d.setTier t { d.tier t with repair := r }).place (d.obj t i).curAddr = some a := ha
  have byte (k : Nat) : (d.setTier t { d.tier t with repair := r }).byte k = d.byte k := rfl
  have good : (d.obj t i).homeTier = 2 → (d.setTier t { d.tier t with repair := r }).firstBad ((d.obj t i).homeAddr + 4096 * p) 4096 = none :=
    fun h2 => hok.elim (fun h => h.2) fun h => absurd h2 h.1
  have source : (d.obj t i).homeTier = 2 ∨ page.length = 4096 := hok.imp (fun h => h.1) fun h => h.2
  rw [pageRepairDone_first h, if_neg (by rw [Bool.and_eq_true, bne_iff_ne, bne_iff_ne, not_and_or, not_ne_iff, not_ne_iff]; exact source)]
  generalize d.setTier t { d.tier t with repair := r } = u at *
  rw [Dev.repairs_copies hst place good]
  obtain ⟨tier, bytes⟩ := Dev.pageCopied_facts (t := t) (i := i) (p := p) (a := a) (r := r) canon source
  generalize u.pageCopied t i p a (d.obj t i) page r = v at *
  refine ⟨(congrArg TierState.repair tier).trans repair, ⟨_, mem_insertEvent_self _ _, rfl, rfl⟩, fun hap k hk => (bytes hap k hk).trans ?_⟩
  rw [byte]

/-! ## The check-bit test -/

/-- The address that a test command names. -/
def Dev.testAddr (d : Dev) : Nat := d.getF Reg.INTEG_TEST_ADDR F.INTEG_TEST_ADDR_ADDR * 64

theorem Dev.testCmd_refused {go : Nat → Dev → Dev} (h : m ≠ hostDriver ∨ inReserve d.testAddr = true ∨ d.place d.testAddr = none) :
    d.testCmd m go = (d.setReg Reg.INTEG_TEST_RESULT 3#64).raise 0x5008 0xFF systemSteward (d.testAddr / 64) m.toNat := by
  have no : (if (m == hostDriver && !inReserve d.testAddr) = true then d.place d.testAddr else none) = none := by
    split
    · next ok =>
      rw [Bool.and_eq_true, beq_iff_eq, Bool.not_eq_true'] at ok
      obtain ⟨host, outside⟩ := ok
      rw [host, outside] at h
      simpa using h
    · rfl
  unfold Dev.testCmd
  change (match (if (m == hostDriver && !inReserve d.testAddr) = true then d.place d.testAddr else none) with | some p => _ | none => _) = _
  rw [no]
  rfl

theorem Dev.testCmd_goes {go : Nat → Dev → Dev} {p : Nat} (hr : inReserve d.testAddr = false) (hp : d.place d.testAddr = some p) :
    d.testCmd hostDriver go = go (p / 64) (d.setReg Reg.INTEG_TEST_RESULT 1#64) := by
  have yes : (if (hostDriver == hostDriver && !inReserve d.testAddr) = true then d.place d.testAddr else none) = some p := by
    rw [hr]
    exact hp
  unfold Dev.testCmd
  change (match (if (hostDriver == hostDriver && !inReserve d.testAddr) = true then d.place d.testAddr else none) with | some p => _ | none => _) = _
  rw [yes]

theorem Dev.testRefused_facts {x : Nat} (hd : d.canon) : let e := (d.setReg Reg.INTEG_TEST_RESULT 3#64).raise 0x5008 0xFF systemSteward (d.testAddr / 64) x
    e.reg Reg.INTEG_TEST_RESULT = 3#64 ∧ d.sameRegs e (· = Reg.INTEG_TEST_RESULT) ∧ d.sameStores e ∧
      d.raised e fun r => r.code = 0x5008 ∧ r.object = BitVec.ofNat 32 (d.testAddr / 64) :=
  have quiet : Dev.Quiet (· = Reg.INTEG_TEST_RESULT) d (d.setReg Reg.INTEG_TEST_RESULT 3#64) := Dev.Quiet.refl.setReg rfl
  ⟨(Dev.raise_reg ..).trans (Dev.reg_setReg_self _ _ hd), quiet.raise.regs hd, quiet.raise.sameStores, Dev.raise_raised (Dev.setReg_ev ..) ⟨rfl, rfl⟩⟩

/-- A place is as aligned as its address. -/
theorem Dev.place_aligned {p : Nat} (h : d.place (n * 64) = some p) : p / 64 * 64 = p := by
  unfold Dev.place at h
  split at h
  · cases h
    omega
  · split at h
    · cases h
      omega
    · split at h
      · dsimp only at h
        split at h
        · obtain ⟨k, -, rfl⟩ := Option.map_eq_some_iff.1 h
          rw [benchAt]
          omega
        · cases h
      · cases h

theorem Dev.testData_length : d.testData.length = 64 := by
  rw [Dev.testData, List.length_flatMap]
  simp only [leBytes_length, List.map_const', List.length_range]
  decide
theorem Dev.testData_of (h : ∀ w, e.reg (Reg.INTEG_TEST_DATA w) = d.reg (Reg.INTEG_TEST_DATA w)) : e.testData = d.testData := by simp only [Dev.testData, h]

/-- A line written raw: its bytes, and its check as given. -/
def Dev.rawWritten (d : Dev) (ln : Nat) (l : Bytes) (c : BitVec 16) : Dev := (d.write (64 * ln) l).withErr ln (c ^^^ lineCheck l)

theorem Dev.rawWritten_facts {ln : Nat} {l : Bytes} {c : BitVec 16} (hd : d.canon) (hl : l.length = 64) : let e := d.rawWritten ln l c
    e.bytes (ln * 64) 64 = l ∧ look false e.written ln = true ∧ e.errOf ln ^^^ lineCheck l = c ∧
      (∀ b, b < ln * 64 ∨ ln * 64 + 64 ≤ b → e.byte b = d.byte b) ∧ (∀ k, k ≠ ln → e.errOf k = d.errOf k) ∧ e.regs = d.regs ∧ e.ev = d.ev := by
  unfold Dev.rawWritten
  rw [Nat.mul_comm 64 ln]
  have canon := hd.write (a := ln * 64) (l := l)
  have bytes := Dev.bytes_write_self (a := ln * 64) hd hl
  have apart (b : Nat) (hb : b < ln * 64 ∨ ln * 64 + 64 ≤ b) : (d.write (ln * 64) l).byte b = d.byte b := Dev.byte_write_out _ _ _ hd (by rwa [hl])
  have err (k : Nat) : (d.write (ln * 64) l).errOf k = if k = ln then 0#16 else d.errOf k := Dev.errOf_write_line hd hl
  have written : look false (d.write (ln * 64) l).written ln = true := by
    have mark : (d.write (ln * 64) l).written = store false d.written ln true := (congrArg Dev.written (Dev.write_line hl) :)
    rw [mark]
    exact look_store_self (SMap.wf_rising (Dev.canon_written hd))
  have regs : (d.write (ln * 64) l).regs = d.regs := Dev.write_regs
  have ev : (d.write (ln * 64) l).ev = d.ev := Dev.write_ev
  generalize d.write (ln * 64) l = w at *
  refine ⟨bytes, written, ?_, apart, fun k hk => ?_, regs, ev⟩
  · rw [Dev.errOf_withErr canon, if_pos rfl, BitVec.xor_assoc, BitVec.xor_self, BitVec.xor_zero]
  · rw [Dev.errOf_withErr canon, if_neg hk, err, if_neg hk]

theorem Reg.test_apart {w : Nat} : Reg.INTEG_TEST_RESULT ≠ Reg.INTEG_TEST_DATA w ∧ Reg.INTEG_TEST_RESULT ≠ Reg.INTEG_TEST_CHECK := by
  unfold Reg.INTEG_TEST_RESULT Reg.INTEG_TEST_DATA Reg.INTEG_TEST_CHECK
  omega

theorem testRawWrite_writes {p : Nat} (hd : d.canon) (hr : inReserve d.testAddr = false) (hp : d.place d.testAddr = some p) :
    testRawWriteEffect hostDriver d = (d.setReg Reg.INTEG_TEST_RESULT 1#64).rawWritten (p / 64) d.testData
      (BitVec.ofNat 16 (d.getF Reg.INTEG_TEST_CHECK F.INTEG_TEST_CHECK_CHECK)) := by
  have data : (d.setReg Reg.INTEG_TEST_RESULT 1#64).testData = d.testData := Dev.testData_of fun w => Dev.reg_setReg_ne _ hd Reg.test_apart.1
  have check (l : Bytes) : ((d.setReg Reg.INTEG_TEST_RESULT 1#64).write (64 * (p / 64)) l).getF Reg.INTEG_TEST_CHECK F.INTEG_TEST_CHECK_CHECK =
      d.getF Reg.INTEG_TEST_CHECK F.INTEG_TEST_CHECK_CHECK := (Dev.write_getF ..).trans (congrArg (fieldOf _) (Dev.reg_setReg_ne _ hd (Reg.test_apart (w := 0)).2))
  rw [testRawWriteEffect, Dev.testCmd_goes hr hp, Dev.rawWritten, Dev.withErr]
  dsimp only
  rw [data, check]

theorem testRawWrite_facts {p : Nat} (hd : d.canon) (hr : inReserve d.testAddr = false) (hp : d.place d.testAddr = some p) :
    let e := testRawWriteEffect hostDriver d
    e.reg Reg.INTEG_TEST_RESULT = 1#64 ∧ d.sameRegs e (· = Reg.INTEG_TEST_RESULT) ∧ e.ev = d.ev ∧ e.bytes p 64 = d.testData ∧
      look false e.written (p / 64) = true ∧ e.errOf (p / 64) ^^^ lineCheck d.testData = BitVec.ofNat 16 (d.getF Reg.INTEG_TEST_CHECK F.INTEG_TEST_CHECK_CHECK) ∧
      (∀ b, b < p ∨ p + 64 ≤ b → e.byte b = d.byte b) ∧ ∀ l, l ≠ p / 64 → e.errOf l = d.errOf l := by
  rw [testRawWrite_writes hd hr hp]
  have aligned : p / 64 * 64 = p := Dev.place_aligned hp
  have result := Dev.reg_setReg_self Reg.INTEG_TEST_RESULT 1#64 hd
  have quiet : Dev.Quiet (· = Reg.INTEG_TEST_RESULT) d (d.setReg Reg.INTEG_TEST_RESULT 1#64) := Dev.Quiet.refl.setReg rfl
  have ev : (d.setReg Reg.INTEG_TEST_RESULT 1#64).ev = d.ev := Dev.setReg_ev ..
  have err (k : Nat) : (d.setReg Reg.INTEG_TEST_RESULT 1#64).errOf k = d.errOf k := (quiet.sameStores k).2.1
  generalize d.setReg Reg.INTEG_TEST_RESULT 1#64 = u at *
  obtain ⟨bytes, written, check, apart, kept, regs, ev'⟩ := Dev.rawWritten_facts (ln := p / 64) (c := BitVec.ofNat 16 (d.getF Reg.INTEG_TEST_CHECK F.INTEG_TEST_CHECK_CHECK))
    (quiet.keeps hd) (Dev.testData_length (d := d))
  rw [aligned] at bytes apart
  have reg := congrFun (Dev.reg_of regs)
  exact ⟨(reg _).trans result, fun a ha => (reg a).trans (quiet.regs hd a ha), ev'.trans ev, bytes, written, check,
    fun b hb => (apart b hb).trans (quiet.byte b), fun l hl => (kept l hl).trans (err l)⟩

/-- Registers of a row set one by one. -/
def Dev.rowSet (f : Nat → Nat) (g : Nat → Word) (l : List Nat) (d : Dev) : Dev := l.foldl (fun (d : Dev) w => d.setReg (f w) (g w)) d

theorem Dev.rowSet_quiet {f : Nat → Nat} {g : Nat → Word} {l : List Nat} : Dev.Quiet (fun a => ∃ w ∈ l, a = f w) d (d.rowSet f g l) :=
  List.foldlRecOn (motive := Dev.Quiet (fun a => ∃ w ∈ l, a = f w) d) l _ .refl fun _ h w hw => h.setReg ⟨w, hw, rfl⟩
theorem Dev.rowSet_ev {f : Nat → Nat} {g : Nat → Word} {l : List Nat} : (d.rowSet f g l).ev = d.ev :=
  List.foldlRecOn (motive := fun e : Dev => e.ev = d.ev) l _ rfl fun _ h _ _ => h
theorem Dev.rowSet_self {f : Nat → Nat} {g : Nat → Word} {l : List Nat} (hf : Function.Injective f) (hd : d.canon) (hl : l.Nodup) {x : Nat} (hx : x ∈ l) :
    (d.rowSet f g l).reg (f x) = g x := by
  induction l generalizing d with
  | nil => cases hx
  | cons w r ih =>
    obtain ⟨notin, nodup⟩ := List.nodup_cons.1 hl
    rcases List.mem_cons.1 hx with rfl | hx
    · exact (Dev.rowSet_quiet.regs hd.setReg _ fun ⟨y, hy, he⟩ => notin (hf he ▸ hy)).trans (Dev.reg_setReg_self _ _ hd)
    · exact ih hd.setReg nodup hx

/-- A line's data read raw. -/
def Dev.rawData (d : Dev) (ln : Nat) : Dev :=
  d.rowSet Reg.INTEG_TEST_DATA (fun w => BitVec.ofNat 64 (leAt (d.bytes (64 * ln) 64) (8 * w) 8)) (List.range 8)

theorem testRawRead_reads {p : Nat} (hr : inReserve d.testAddr = false) (hp : d.place d.testAddr = some p) : let u := d.setReg Reg.INTEG_TEST_RESULT 1#64
    let c := lineCheck (u.bytes (64 * (p / 64)) 64)
    testRawReadEffect hostDriver d = (u.rawData (p / 64)).setFs Reg.INTEG_TEST_RESULT
      [(F.INTEG_TEST_RESULT_STORED, (c ^^^ (u.rawData (p / 64)).errOf (p / 64)).toNat), (F.INTEG_TEST_RESULT_COMPUTED, c.toNat)] := by
  rw [testRawReadEffect, Dev.testCmd_goes hr hp]
  rfl

/-- The result of a raw read. -/
theorem Dev.testResult_facts {x y : Nat} (hd : d.canon) (hx : x < 2 ^ 16) (hy : y < 2 ^ 16) (h1 : d.reg Reg.INTEG_TEST_RESULT = 1#64) :
    let e := d.setFs Reg.INTEG_TEST_RESULT [(F.INTEG_TEST_RESULT_STORED, x), (F.INTEG_TEST_RESULT_COMPUTED, y)]
    e.getF Reg.INTEG_TEST_RESULT F.INTEG_TEST_RESULT_DONE = 1 ∧ e.getF Reg.INTEG_TEST_RESULT F.INTEG_TEST_RESULT_REFUSED = 0 ∧
      e.getF Reg.INTEG_TEST_RESULT F.INTEG_TEST_RESULT_STORED = x ∧ e.getF Reg.INTEG_TEST_RESULT F.INTEG_TEST_RESULT_COMPUTED = y := by
  intro e
  have kept {g : Fld} (hp : ([(F.INTEG_TEST_RESULT_STORED, x), (F.INTEG_TEST_RESULT_COMPUTED, y)].all fun p => p.1.clearOf g) = true) :
      e.getF Reg.INTEG_TEST_RESULT g = fieldOf g 1#64 := by
    rw [List.all_eq_true] at hp
    rw [Dev.getF, Dev.reg_setFs_self _ _ hd, fieldOf_putFields_apart _ _ fun p hm => Fld.clearOf_iff.1 (hp p hm), h1]
  exact ⟨(kept (by rfl)).trans (by rfl), (kept (by rfl)).trans (by rfl),
    (Dev.getF_setFs_mid (pre := []) hd (by rfl) (by rfl)).trans (Nat.mod_eq_of_lt hx), (Dev.getF_setFs_mid (pre := [_]) hd (by rfl) (by rfl)).trans (Nat.mod_eq_of_lt hy)⟩

theorem testRawRead_facts {p : Nat} (hd : d.canon) (hr : inReserve d.testAddr = false) (hp : d.place d.testAddr = some p) :
    let e := testRawReadEffect hostDriver d
    d.sameStores e ∧ e.ev = d.ev ∧ (∀ w : Fin 8, e.reg (Reg.INTEG_TEST_DATA w) = BitVec.ofNat 64 (leAt (d.bytes p 64) (8 * w) 8)) ∧
      e.getF Reg.INTEG_TEST_RESULT F.INTEG_TEST_RESULT_DONE = 1 ∧ e.getF Reg.INTEG_TEST_RESULT F.INTEG_TEST_RESULT_REFUSED = 0 ∧
      e.getF Reg.INTEG_TEST_RESULT F.INTEG_TEST_RESULT_STORED = (lineCheck (d.bytes p 64) ^^^ d.errOf (p / 64)).toNat ∧
      e.getF Reg.INTEG_TEST_RESULT F.INTEG_TEST_RESULT_COMPUTED = (lineCheck (d.bytes p 64)).toNat ∧
      d.sameRegs e fun x => x = Reg.INTEG_TEST_RESULT ∨ ∃ w : Fin 8, x = Reg.INTEG_TEST_DATA w := by
  rw [testRawRead_reads hr hp]
  have aligned : 64 * (p / 64) = p := (Nat.mul_comm ..).trans (Dev.place_aligned hp)
  have result := Dev.reg_setReg_self Reg.INTEG_TEST_RESULT 1#64 hd
  have quiet : Dev.Quiet (· = Reg.INTEG_TEST_RESULT) d (d.setReg Reg.INTEG_TEST_RESULT 1#64) := Dev.Quiet.refl.setReg rfl
  have ev : (d.setReg Reg.INTEG_TEST_RESULT 1#64).ev = d.ev := Dev.setReg_ev ..
  generalize d.setReg Reg.INTEG_TEST_RESULT 1#64 = u at *
  have line : u.bytes (64 * (p / 64)) 64 = d.bytes p 64 := by rw [aligned, Dev.bytes_of quiet.mem]
  have inj : Function.Injective Reg.INTEG_TEST_DATA := fun x y h => by
    unfold Reg.INTEG_TEST_DATA at h
    omega
  have data {x : Nat} (hx : x < 8) : (u.rawData (p / 64)).reg (Reg.INTEG_TEST_DATA x) = BitVec.ofNat 64 (leAt (d.bytes p 64) (8 * x) 8) :=
    (Dev.rowSet_self inj (quiet.keeps hd) List.nodup_range (List.mem_range.2 hx)).trans (by rw [line])
  have read : Dev.Quiet (fun a => ∃ w ∈ List.range 8, a = Reg.INTEG_TEST_DATA w) u (u.rawData (p / 64)) := Dev.rowSet_quiet
  have ev' : (u.rawData (p / 64)).ev = u.ev := Dev.rowSet_ev
  rw [line]
  generalize u.rawData (p / 64) = w at *
  have err : w.errOf (p / 64) = d.errOf (p / 64) := (read.sameStores _).2.1.trans (quiet.sameStores _).2.1
  have one : w.reg Reg.INTEG_TEST_RESULT = 1#64 := (read.regs (quiet.keeps hd) _ fun ⟨x, _, h⟩ => Reg.test_apart.1 h).trans result
  have last : Dev.Quiet (· = Reg.INTEG_TEST_RESULT) w (w.setFs Reg.INTEG_TEST_RESULT [(F.INTEG_TEST_RESULT_STORED, (lineCheck (d.bytes p 64) ^^^ w.errOf (p / 64)).toNat),
    (F.INTEG_TEST_RESULT_COMPUTED, (lineCheck (d.bytes p 64)).toNat)]) := Dev.Quiet.refl.setFs rfl
  have canon := read.keeps (quiet.keeps hd)
  obtain ⟨did, refused, stored, computed⟩ := Dev.testResult_facts canon (lineCheck (d.bytes p 64) ^^^ w.errOf (p / 64)).isLt (lineCheck (d.bytes p 64)).isLt one
  have ev'' := Dev.setFs_ev (d := w) Reg.INTEG_TEST_RESULT [(F.INTEG_TEST_RESULT_STORED, (lineCheck (d.bytes p 64) ^^^ w.errOf (p / 64)).toNat),
    (F.INTEG_TEST_RESULT_COMPUTED, (lineCheck (d.bytes p 64)).toNat)]
  generalize w.setFs Reg.INTEG_TEST_RESULT [(F.INTEG_TEST_RESULT_STORED, (lineCheck (d.bytes p 64) ^^^ w.errOf (p / 64)).toNat),
    (F.INTEG_TEST_RESULT_COMPUTED, (lineCheck (d.bytes p 64)).toNat)] = z at *
  have stores : d.sameStores z := Dev.sameStores_of (last.mem.trans (read.mem.trans quiet.mem)) (last.lineErr.trans (read.lineErr.trans quiet.lineErr))
    (last.written.trans (read.written.trans quiet.written))
  refine ⟨stores, ev''.trans (ev'.trans ev), fun x => ?_, did, refused, stored.trans (by rw [err]), computed, fun a ha => ?_⟩
  · exact (last.regs canon _ fun h => Reg.test_apart.1 h.symm).trans (data x.isLt)
  · refine (last.regs canon a fun h => ha (.inl h)).trans ((read.regs (quiet.keeps hd) a fun ⟨x, hx, h⟩ => ha (.inr ⟨⟨x, List.mem_range.1 hx⟩, h⟩)).trans ?_)
    exact quiet.regs hd a fun h => ha (.inl h)

/-! ## Scrub -/

/-- The device after a scrub step's lines were taken: the cursor moved on, a wrapped channel counted. -/
def Dev.scrubbed (d : Dev) (t b cur : Nat) : Dev :=
  let u := { d with integ := { d.integ with cursor := store (0, 0) d.integ.cursor (128 * t + b) ((cur + (scrubStep b).1) % scrubLines b, (d.tile t).lk + (scrubStep b).2) } }
  if cur + (scrubStep b).1 ≥ scrubLines b then u.scrubWrap t b else u

theorem Dev.scrubWrap_facts {b : Nat} : (d.scrubWrap t b).integ.cursor = d.integ.cursor ∧ (d.scrubWrap t b).mem = d.mem ∧ (d.scrubWrap t b).lineErr = d.lineErr ∧
    (d.scrubWrap t b).written = d.written ∧ (d.canon → d.sameRegs (d.scrubWrap t b) (· = Reg.INTEG_SCRUB t)) := by
  unfold Dev.scrubWrap
  split
  · exact ⟨rfl, rfl, rfl, rfl, fun _ _ _ => rfl⟩
  · extract_lets ws g u
    split
    · have quiet : Dev.Quiet (· = Reg.INTEG_SCRUB t) u (u.integOvf (u.count (Reg.INTEG_SCRUB t) F.INTEG_SCRUB_PASSES 1) t (Reg.INTEG_SCRUB t) F.INTEG_SCRUB_OVF) :=
        Dev.integOvf_quiet (Dev.Quiet.refl.count rfl)
      exact ⟨(congrArg IntegState.cursor quiet.integ :), quiet.mem, quiet.lineErr, quiet.written, fun hd => quiet.regs hd⟩
    · exact ⟨rfl, rfl, rfl, rfl, fun _ _ _ => rfl⟩

theorem Dev.scrubbed_facts {b cur : Nat} (hd : d.canon) :
    (d.scrubbed t b cur).integ.cursor = store (0, 0) d.integ.cursor (128 * t + b) ((cur + (scrubStep b).1) % scrubLines b, (d.tile t).lk + (scrubStep b).2) ∧
      (d.scrubbed t b cur).mem = d.mem ∧ (d.scrubbed t b cur).lineErr = d.lineErr ∧ (d.scrubbed t b cur).written = d.written ∧
      d.sameRegs (d.scrubbed t b cur) (· = Reg.INTEG_SCRUB t) := by
  unfold Dev.scrubbed
  extract_lets g u
  split
  · obtain ⟨cursor, mem, lineErr, written, regs⟩ := Dev.scrubWrap_facts (d := u) (t := t) (b := b)
    exact ⟨cursor, mem, lineErr, written, regs hd⟩
  · exact ⟨rfl, rfl, rfl, rfl, fun _ _ => rfl⟩

/-- The time of a unit's next scrub step, and the place of its cursor. -/
def Dev.scrubAt (d : Dev) (t b : Nat) : Nat × Nat := look (0, 0) d.integ.cursor (128 * t + b)
/-- The device at a unit's next scrub step. -/
def Dev.scrubDue (d : Dev) (t b : Nat) : Dev := d.advance ((d.scrubAt t b).2 - (d.tile t).lk)

theorem scrubRead_paused {b : Nat} (h : d.paused t = true) : scrubReadEffect t b d = d := if_pos h

/-- A step in a window, or none. -/
def Dev.scrubIn (d : Dev) (t b : Nat) : Option Win → Dev
  | none => d
  | some w =>
    let u := d.scrubDue t b
    if !(w.kind == 3 && w.sub == 1) || decide ((u.tile t).pos + (scrubStep b).2 > w.stop) then d else
    let ls := (List.range (scrubStep b).1).map fun i => scrubPlace t b (((d.scrubAt t b).1 + i) % scrubLines b) / 64
    let v := u.scrubbed t b (d.scrubAt t b).1
    (ls.filter v.bad).foldl (fun (d : Dev) ln => if d.bad ln then d.recover ln 2 0xFF else d) v

theorem scrubRead_eq {b : Nat} (h : d.paused t = false) :
    scrubReadEffect t b d = d.scrubIn t b ((d.scrubDue t b).windowAt t (scrubUnit b) ((d.scrubDue t b).tile t).pos) := by
  refine (if_neg (Bool.eq_false_iff.1 h)).trans ?_
  change (match (d.scrubDue t b).windowAt t (scrubUnit b) ((d.scrubDue t b).tile t).pos with | none => d | some w => _) = _
  generalize (d.scrubDue t b).windowAt t (scrubUnit b) ((d.scrubDue t b).tile t).pos = at_
  cases at_ with
  | none => rfl
  | some w => rfl

theorem Dev.scrubIn_out {b : Nat} {w : Win} (h : w.kind ≠ 3 ∨ w.sub ≠ 1 ∨ w.stop < ((d.scrubDue t b).tile t).pos + (scrubStep b).2) : d.scrubIn t b (some w) = d := by
  refine if_pos ?_
  rw [Bool.or_eq_true, Bool.not_eq_true', Bool.and_eq_false_iff, beq_eq_false_iff_ne, beq_eq_false_iff_ne, decide_eq_true_eq, or_assoc]
  exact h

theorem Dev.errOf_of (h : e.lineErr = d.lineErr) (k : Nat) : e.errOf k = d.errOf k := by rw [Dev.errOf, Dev.errOf, h]
theorem Dev.bad_of (h : e.lineErr = d.lineErr) (k : Nat) : e.bad k = d.bad k := by rw [Dev.bad, Dev.bad, Dev.errOf_of h]

/-- A step whose lines are good reads them and goes on. -/
theorem Dev.scrubIn_good {b : Nat} {w : Win} (hd : d.canon) (hk : w.kind = 3) (hs : w.sub = 1) (hr : ((d.scrubDue t b).tile t).pos + (scrubStep b).2 ≤ w.stop)
    (hg : ∀ i < (scrubStep b).1, d.bad (scrubPlace t b (((d.scrubAt t b).1 + i) % scrubLines b) / 64) = false) :
    d.scrubIn t b (some w) = (d.scrubDue t b).scrubbed t b (d.scrubAt t b).1 := by
  refine (if_neg ?_).trans ?_
  · rw [Bool.or_eq_true, Bool.not_eq_true', hk, hs, decide_eq_true_eq]
    simpa using hr
  · have canon : (d.scrubDue t b).canon := hd.advance
    obtain ⟨-, -, lineErr, -, -⟩ := Dev.scrubbed_facts (t := t) (b := b) (cur := (d.scrubAt t b).1) canon
    rw [List.filter_eq_nil_iff.2]
    · rfl
    · intro ln hl
      obtain ⟨i, hi, rfl⟩ := List.mem_map.1 hl
      rw [Dev.bad_of (lineErr.trans (Dev.advance_lineErr ..)), hg i (List.mem_range.1 hi)]
      exact Bool.false_ne_true

theorem scrubRead_facts {b : Nat} {w : Win} (hd : d.canon) (hp : d.paused t = false)
    (hw : (d.scrubDue t b).windowAt t (scrubUnit b) ((d.scrubDue t b).tile t).pos = some w) (hk : w.kind = 3) (hs : w.sub = 1)
    (hr : ((d.scrubDue t b).tile t).pos + (scrubStep b).2 ≤ w.stop)
    (hg : ∀ i < (scrubStep b).1, d.bad (scrubPlace t b (((d.scrubAt t b).1 + i) % scrubLines b) / 64) = false) :
    let e := scrubReadEffect t b d
    e.integ.cursor = store (0, 0) d.integ.cursor (128 * t + b) (((d.scrubAt t b).1 + (scrubStep b).1) % scrubLines b, ((d.scrubDue t b).tile t).lk + (scrubStep b).2) ∧
      e.mem = d.mem ∧ e.lineErr = d.lineErr ∧ e.written = d.written ∧ d.sameRegs e fun a => lagReg a ∨ a = Reg.INTEG_SCRUB t := by
  rw [scrubRead_eq hp, hw, Dev.scrubIn_good hd hk hs hr hg]
  have canon : (d.scrubDue t b).canon := hd.advance
  have integ : (d.scrubDue t b).integ = d.integ := Dev.advance_integ ..
  have mem : (d.scrubDue t b).mem = d.mem := Dev.advance_mem ..
  have lineErr : (d.scrubDue t b).lineErr = d.lineErr := Dev.advance_lineErr ..
  have written : (d.scrubDue t b).written = d.written := Dev.advance_written ..
  have regs : d.sameRegs (d.scrubDue t b) lagReg := fun a ha => Dev.reg_advance _ hd ha
  generalize d.scrubDue t b = u at *
  obtain ⟨cursor, mem', lineErr', written', regs'⟩ := Dev.scrubbed_facts (t := t) (b := b) (cur := (d.scrubAt t b).1) canon
  exact ⟨cursor.trans (by rw [integ]), mem'.trans mem, lineErr'.trans lineErr, written'.trans written,
    fun a ha => (regs' a fun h => ha (.inr h)).trans (regs a fun h => ha (.inl h))⟩

/-- Settles O49: a line by its check, a repair by its home, a test by its address, a scrub step by its window. -/
theorem lineErrorsAreCountedRepairedTestedAndScrubbed : Obligations.LineErrorsAreCountedRepairedTestedAndScrubbed := by
  unfold Obligations.LineErrorsAreCountedRepairedTestedAndScrubbed
  refine ⟨⟨fun place rd sl s hs hd => ⟨fun h => ?_, fun hb h => ?_⟩, fun t page s hs hd => ⟨fun h => ?_, fun i p rest h hh hl => ?_, fun i p rest h hh hst => ?_,
    fun i p rest a h hst ha hok => ?_⟩⟩, fun m s hs hd => ⟨fun h => ?_, fun p hm hr hp => ?_⟩, fun t b s hs hd => ⟨fun h => ?_, fun h hw => ?_, fun w h hw => ⟨fun ho => ?_, fun hk hsub hr hg => ?_⟩⟩⟩
  · refine runs_ran rfl hs ?_
    rw [lineRefetch_good h]
    exact Dev.corrected_facts hd
  · refine runs_ran rfl hs ?_
    rw [lineRefetch_bad h]
    exact lineRefetch_recovers hd hb
  · exact runs_ran rfl hs (pageRepairDone_none h)
  · refine runs_ran rfl hs ((pageRepairDone_first h).trans (if_pos ?_))
    rw [Bool.and_eq_true, bne_iff_ne, bne_iff_ne]
    exact ⟨hh, hl⟩
  · refine runs_ran rfl hs ((pageRepairDone_first h).trans ((if_neg ?_).trans (Dev.repairs_idle hst)))
    rw [Bool.and_eq_true, bne_iff_ne, bne_iff_ne, not_and_or, not_ne_iff, not_ne_iff]
    exact hh
  · exact runs_ran rfl hs (pageRepairDone_facts hd h hst ha hok)
  · have refuses {go : Nat → Dev → Dev} : s.dev.testCmd m go = _ := Dev.testCmd_refused h
    refine ⟨runs_ranFrom rfl hs ?_, runs_ranFrom rfl hs ?_⟩
    · rw [testRawWriteEffect, refuses]
      exact Dev.testRefused_facts hd
    · rw [testRawReadEffect, refuses]
      exact Dev.testRefused_facts hd
  · subst hm
    exact ⟨runs_ranFrom rfl hs (testRawWrite_facts hd hr hp), runs_ranFrom rfl hs (testRawRead_facts hd hr hp)⟩
  · exact runs_ran rfl hs (scrubRead_paused h)
  · refine runs_ran rfl hs ((scrubRead_eq h).trans ?_)
    exact congrArg (s.dev.scrubIn t b) hw
  · exact runs_ran rfl hs ((scrubRead_eq h).trans ((congrArg (s.dev.scrubIn t b) hw).trans (Dev.scrubIn_out ho)))
  · exact runs_ran rfl hs (scrubRead_facts hd h hw hk hsub hr hg)

end Sys2Proof.Machine
end

section
/-! SUPPORT. Heartbeats and fences (R461 to R463, R468, Table 20.1). -/
namespace Sys2Proof.Machine

-- One proof after another: with many at once their threads' stacks exceed the memory that the check allows.
set_option Elab.async false

variable {d e : Dev} {n T c : Nat} {m : Master} {s : State}

/-! ## What the watch set and a heartbeat rest on -/

theorem Dev.getF_of (h : e.regs = d.regs) (a : Nat) (f : Fld) : e.getF a f = d.getF a f := congrArg (fieldOf f) (congrFun (Dev.reg_of h) a)
theorem Dev.getB_of (h : e.regs = d.regs) (a : Nat) (f : Fld) : e.getB a f = d.getB a f := congrArg (· == 1) (Dev.getF_of h a f)
theorem Dev.joined_of (h : e.regs = d.regs) : e.joined = d.joined := by rw [Dev.joined, Dev.joined, Dev.membState, Dev.membState, Dev.getF_of h]
theorem Dev.hdrBase_of (h : e.regs = d.regs) (ty dst : Nat) : e.hdrBase ty dst = d.hdrBase ty dst := by
  simp only [Dev.hdrBase, Dev.braidNode, Dev.getF_of h]
theorem Dev.shadowNode_of (h : e.regs = d.regs) (hr : e.memb.record = d.memb.record) : e.shadowNode = d.shadowNode := by
  simp only [Dev.shadowNode, Dev.getF_of h, hr]
theorem Dev.linkUp_of (h : e.regs = d.regs) (g : GatePort) : e.linkUp g = d.linkUp g := Dev.getB_of h _ _
theorem Dev.watchSet_of (h : e.regs = d.regs) (hr : e.memb.record = d.memb.record) : e.watchSet = d.watchSet := by
  simp only [Dev.watchSet, Dev.braidNode, Dev.getF_of h, Dev.linkUp_of h, Dev.shadowNode_of h hr, hr]
theorem Dev.tickU_of (h : e.regs = d.regs) : e.tickU = d.tickU := by simp only [Dev.tickU, Dev.tickLen, Dev.getF_of h]
theorem Dev.tick_of (h : e.regs = d.regs) (hn : e.now = d.now) : e.tickNo = d.tickNo := by rw [Dev.tickNo, Dev.tickNo, Dev.tickU_of h, hn]
theorem Dev.fenced_of (h : e.regs = d.regs) : e.fenced = d.fenced := by
  funext t u
  simp only [Dev.fenced, Dev.getF_of h]
theorem Dev.fencedUnits_of (h : e.regs = d.regs) : e.fencedUnits = d.fencedUnits := by
  simp only [Dev.fencedUnits, Dev.fenced_of h]
theorem Dev.heartbeat_of (h : e.regs = d.regs) (hn : e.now = d.now) (hp : e.memb.peers = d.memb.peers) (hc : e.memb.count = d.memb.count) (hh : e.memb.chain = d.memb.chain) :
    e.heartbeat = d.heartbeat := by
  simp only [Dev.heartbeat, Dev.membEpoch, Dev.membState, Dev.braidNode, Dev.getF_of h, Dev.tick_of h hn, Dev.fencedUnits_of h, hp, hc, hh]

/-! ## The body -/

theorem Dev.heartbeat_length : d.heartbeat.length = 64 := by
  unfold Dev.heartbeat
  simp only [List.length_append, leBytes_length, bytesAt_length]

theorem Dev.heartbeat_fields : leAt d.heartbeat 0 4 = d.membEpoch ∧ leAt d.heartbeat 4 8 = d.tickNo % 2 ^ 64 ∧ leAt d.heartbeat 12 2 = d.braidNode ∧ leAt d.heartbeat 21 1 = 0 := by
  have epoch : d.membEpoch % 256 ^ 4 = d.membEpoch := Nat.mod_eq_of_lt (Dev.getF_lt ..)
  have node : d.braidNode % 256 ^ 2 = d.braidNode := Nat.mod_eq_of_lt (Nat.lt_of_lt_of_le (Dev.getF_lt ..) (by decide))
  have tick : (256 : Nat) ^ 8 = 2 ^ 64 := by decide
  unfold Dev.heartbeat
  simp only [List.append_assoc, leAt_here, leAt_behind, Nat.reduceLeDiff, Nat.reduceSub, Nat.le_refl, Nat.sub_self, epoch, node, tick, Nat.zero_mod, and_true]

/-! ## Sending -/

theorem bytesAt_whole {b : Bytes} (h : b.length = n) : bytesAt b 0 n = b := by
  rw [bytesAt, List.drop_zero, List.take_of_length_le (Nat.le_of_eq h), h, Nat.sub_self, List.replicate_zero, List.append_nil]

theorem Dev.membSent_facts {l : List Nat} {b : Bytes} (hb : b.length = 64) : let e := l.foldl (fun (d : Dev) n => d.membSend n b) d
    e.memb = d.memb ∧ e.mem = d.mem ∧ e.regs = d.regs ∧ e.ev = d.ev ∧ e.braid.outbox = d.braid.outbox ++ l.map fun n => leBytes 16 (d.hdrBase 12 n) ++ b := by
  induction l generalizing d with
  | nil => exact ⟨rfl, rfl, rfl, rfl, (List.append_nil _).symm⟩
  | cons n r ih =>
    obtain ⟨memb, mem, regs, ev, outbox⟩ := ih (d := d.membSend n b)
    have whole : bytesAt b 0 64 = b := bytesAt_whole hb
    refine ⟨memb, mem, regs, ev, outbox.trans ?_⟩
    simp only [Dev.membSend, Dev.braidOut_braid, whole, List.map_cons, List.append_assoc, List.singleton_append]
    rfl

theorem heartbeatSend_stays (h : d.joined = false ∨ d.memb.hbTick = d.tickNo + 1) : heartbeatSendEffect d = d :=
  if_pos (by rwa [Bool.or_eq_true, Bool.not_eq_true', beq_iff_eq])

/-- The tick whose heartbeat is sent is marked. -/
def Dev.hbMarked (d : Dev) : Dev := d.modMemb fun x => { x with hbTick := d.tickNo + 1 }

theorem heartbeatSend_sends (h : d.joined = true) (ht : d.memb.hbTick ≠ d.tickNo + 1) : let u := (d.advanceTo (d.tickNo * d.tickU + d.hbOffset * 5)).hbMarked
    heartbeatSendEffect d = u.watchSet.foldl (fun (d : Dev) n => d.membSend n u.heartbeat) u :=
  if_neg (by
    rw [Bool.or_eq_true, Bool.not_eq_true', beq_iff_eq, h]
    exact fun h => h.elim Bool.noConfusion ht)

theorem Dev.hbMarked_facts : d.hbMarked.memb = { d.memb with hbTick := d.tickNo + 1 } ∧ d.hbMarked.watchSet = d.watchSet ∧ d.hbMarked.heartbeat = d.heartbeat ∧
    d.hbMarked.mem = d.mem ∧ d.hbMarked.regs = d.regs ∧ d.hbMarked.ev = d.ev ∧ d.hbMarked.braid = d.braid :=
  ⟨rfl, Dev.watchSet_of rfl rfl, Dev.heartbeat_of rfl rfl rfl rfl rfl, rfl, rfl, rfl, rfl⟩

theorem heartbeatSend_facts (h : d.joined = true) (ht : d.memb.hbTick ≠ d.tickNo + 1) : let u := d.advanceTo (d.tickNo * d.tickU + d.hbOffset * 5)
    let e := heartbeatSendEffect d
    e.memb = { d.memb with hbTick := u.tickNo + 1 } ∧ e.mem = d.mem ∧ e.regs = u.regs ∧ e.ev = d.ev ∧
      e.braid.outbox = d.braid.outbox ++ u.watchSet.map fun n => leBytes 16 (u.hdrBase 12 n) ++ u.heartbeat := by
  rw [heartbeatSend_sends h ht]
  generalize hu : d.advanceTo (d.tickNo * d.tickU + d.hbOffset * 5) = u
  have memb : u.memb = d.memb := by rw [← hu]; exact Dev.advance_memb ..
  have mem : u.mem = d.mem := by rw [← hu]; exact Dev.advance_mem ..
  have ev : u.ev = d.ev := by rw [← hu]; exact Dev.advance_ev ..
  have braid : u.braid = d.braid := by rw [← hu]; exact Dev.advance_braid ..
  obtain ⟨memb', watch, beat, mem', regs', ev', braid'⟩ := Dev.hbMarked_facts (d := u)
  dsimp only
  rw [watch, beat]
  generalize u.hbMarked = w at *
  obtain ⟨memb'', mem'', regs'', ev'', outbox⟩ := Dev.membSent_facts (d := w) (l := u.watchSet) (Dev.heartbeat_length (d := u))
  refine ⟨memb''.trans (memb'.trans (by rw [memb])), mem''.trans (mem'.trans mem), regs''.trans regs', ev''.trans (ev'.trans ev), outbox.trans ?_⟩
  rw [braid', braid]
  simp only [Dev.hdrBase_of regs']

/-! ## Arrivals -/

theorem heartbeatArrive_none (h : d.takeMemb 0 = none) : heartbeatArriveEffect d = d := by
  unfold heartbeatArriveEffect
  rw [h]

theorem Dev.takeMemb_some {k : Nat} {p : Bytes} {u : Dev} (h : d.takeMemb k = some (p, u)) :
    u.regs = d.regs ∧ u.memb = d.memb ∧ u.now = d.now ∧ u.mem = d.mem ∧ u.ev = d.ev := by
  unfold Dev.takeMemb at h
  split at h
  · cases h
  · cases h
    exact ⟨rfl, rfl, rfl, rfl, rfl⟩

theorem leAt_drop (l : Bytes) (k o n : Nat) : leAt (l.drop k) o n = leAt l (k + o) n := by rw [leAt, leAt, bytesAt, bytesAt, List.drop_drop]

/-- A heartbeat of a watched peer, of tick `T`, taken. -/
def Dev.hbTaken (d : Dev) (n T : Nat) (b : Bytes) : Dev :=
  let x := d.peer n
  let inTime := T == d.tickNo && decide (d.now ≤ d.tickNo * d.tickU + (d.hbOffset + d.hbGrace) * 5)
  let d := d.setPeer n { x with last := T, got := if inTime then T + 1 else x.got, suspect := x.suspect && !inTime, misses := if inTime then 0 else x.misses }
  let d := if inTime && x.suspect then d.raise 0xD002 0xFF systemSteward n (T % 2 ^ 32) else d
  (d.shadowCompare n b).membShow

theorem heartbeatArrive_some {p : Bytes} {u : Dev} (h : d.takeMemb 0 = some (p, u)) : heartbeatArriveEffect d =
    if u.stale p then u.braidCount Reg.BRAID_STALE_DROP 1
    else if !u.joined || !u.watchSet.contains (leAt p 28 2) then u else u.hbTaken (leAt p 28 2) (leAt p 20 8) (p.drop 16) := by
  unfold heartbeatArriveEffect
  rw [h]
  dsimp only
  rw [leAt_drop, leAt_drop]
  rfl

theorem Dev.shadowCompare_facts {b : Bytes} : (d.shadowCompare n b).memb.peers = d.memb.peers ∧ (d.shadowCompare n b).mem = d.mem ∧
    ∀ q ∈ d.ev.arisen, q ∈ (d.shadowCompare n b).ev.arisen := by
  unfold Dev.shadowCompare
  extract_lets other k u
  have memb : u.memb.peers = d.memb.peers := (congrArg MembState.peers (Dev.count_memb ..) :)
  have mem : u.mem = d.mem := Dev.count_mem ..
  have ev : u.ev = d.ev := Dev.count_ev ..
  clear_value u
  split
  · exact ⟨rfl, rfl, fun _ h => h⟩
  · split
    · exact ⟨rfl, rfl, fun _ h => h⟩
    · split
      · exact ⟨memb, mem, fun _ h => ev ▸ h⟩
      · rw [Dev.raise_memb, Dev.setF_memb, Dev.raise_mem, Dev.setF_mem]
        exact ⟨memb, mem, fun _ h => Dev.raise_arisen (by rwa [Dev.setF_ev, ev])⟩

theorem Dev.membShow_quiet : Dev.Quiet (· = Reg.MEMB_PEER_STATE) d d.membShow := Dev.Quiet.refl.setFs rfl
theorem Dev.membShow_ev : d.membShow.ev = d.ev := Dev.setFs_ev ..
theorem Dev.Quiet.memb {p : Nat → Prop} (h : Dev.Quiet p d e) : e.memb = d.memb := (congrArg Dev.memb h.rest :)

/-- A heartbeat in time clears the peer's misses and its suspicion, and tells of a suspect's return. -/
theorem Dev.hbTaken_facts {b : Bytes} (hT : T = d.tickNo) (hn : d.now ≤ T * d.tickU + (d.hbOffset + d.hbGrace) * 5) : let e := d.hbTaken n T b
    let x := d.peer n
    e.memb.peers = store Peer.init d.memb.peers n { x with last := T, got := T + 1, suspect := false, misses := 0 } ∧
      (x.suspect = true → ∃ r ∈ e.ev.arisen, r.code = 0xD002 ∧ r.object = BitVec.ofNat 32 n) ∧ e.mem = d.mem := by
  have inTime : (T == d.tickNo && decide (d.now ≤ d.tickNo * d.tickU + (d.hbOffset + d.hbGrace) * 5)) = true := by
    rw [Bool.and_eq_true, beq_iff_eq, decide_eq_true_eq, ← hT]
    exact ⟨rfl, hn⟩
  intro e x
  have taken : e = ((if x.suspect then (d.setPeer n { x with last := T, got := T + 1, suspect := false, misses := 0 }).raise 0xD002 0xFF systemSteward n (T % 2 ^ 32)
      else d.setPeer n { x with last := T, got := T + 1, suspect := false, misses := 0 }).shadowCompare n b).membShow := by
    unfold e Dev.hbTaken
    simp only [inTime, if_true, Bool.not_true, Bool.and_false, Bool.true_and]
    rfl
  have peers : (d.setPeer n { x with last := T, got := T + 1, suspect := false, misses := 0 }).memb.peers =
      store Peer.init d.memb.peers n { x with last := T, got := T + 1, suspect := false, misses := 0 } := rfl
  have mem : (d.setPeer n { x with last := T, got := T + 1, suspect := false, misses := 0 }).mem = d.mem := rfl
  rw [taken, Dev.membShow_quiet.memb, Dev.membShow_quiet.mem, Dev.membShow_ev]
  generalize d.setPeer n { x with last := T, got := T + 1, suspect := false, misses := 0 } = u at *
  obtain ⟨peers', mem', told⟩ := Dev.shadowCompare_facts (d := if x.suspect then u.raise 0xD002 0xFF systemSteward n (T % 2 ^ 32) else u) (n := n) (b := b)
  refine ⟨peers'.trans ?_, fun hs => ?_, mem'.trans ?_⟩
  · split
    · exact peers
    · exact peers
  · rw [if_pos hs] at told ⊢
    exact ⟨_, told _ (mem_insertEvent_self _ _), rfl, rfl⟩
  · split
    · exact mem
    · exact mem

/-! ## Due times -/

theorem Dev.peerDue_heard (h : (d.peer n).got = T + 1) : Dev.peerDue T d n = d := if_pos (beq_iff_eq.2 h)

/-- A peer that missed, on a device that has counted the miss. -/
def Dev.missed (d : Dev) (n : Nat) (x : Peer) : Dev :=
  let m := min 255 (x.misses + 1)
  if decide (m ≥ 2) && !x.suspect then
    ((d.setPeer n { x with misses := m, suspect := true }).count Reg.MEMB_SUSPECT_COUNT F.MEMB_SUSPECT_COUNT_COUNT 1).raise 0xD001 0xFF systemSteward n (m + x.last % 2 ^ 32 * 2 ^ 8)
  else d.setPeer n { x with misses := m }

theorem Dev.peerDue_missed (h : (d.peer n).got ≠ T + 1) :
    Dev.peerDue T d n = (d.count Reg.MEMB_MISS_COUNT F.MEMB_MISS_COUNT_COUNT 1).missed n (d.peer n) := if_neg (mt beq_iff_eq.1 h)

theorem Dev.missed_facts {x : Peer} : let m := min 255 (x.misses + 1)
    let e := d.missed n x
    e.memb = { d.memb with peers := store Peer.init d.memb.peers n { x with misses := m, suspect := x.suspect || decide (2 ≤ m) } } ∧ e.mem = d.mem ∧
      (2 ≤ m → x.suspect = false → d.raised e fun r => r.code = 0xD001 ∧ r.object = BitVec.ofNat 32 n ∧ r.detail.toNat % 2 ^ 8 = m) ∧
      (m < 2 ∨ x.suspect = true → e.ev = d.ev) := by
  intro m e
  by_cases h : 2 ≤ m ∧ x.suspect = false
  · obtain ⟨hm, hs⟩ := h
    have m_le : m ≤ 255 := Nat.min_le_left ..
    have step : e = ((d.setPeer n { x with misses := m, suspect := true }).count Reg.MEMB_SUSPECT_COUNT F.MEMB_SUSPECT_COUNT_COUNT 1).raise 0xD001 0xFF systemSteward n
        (m + x.last % 2 ^ 32 * 2 ^ 8) := if_pos (by rw [hs]; exact (Bool.and_true _).trans (decide_eq_true hm))
    have small : (BitVec.ofNat 64 (m + x.last % 2 ^ 32 * 2 ^ 8)).toNat % 2 ^ 8 = m := by
      rw [BitVec.toNat_ofNat]
      omega
    have suspects : (x.suspect || decide (2 ≤ m)) = true := by rw [hs]; exact decide_eq_true hm
    rw [step, suspects, Dev.raise_memb, Dev.count_memb, Dev.raise_mem, Dev.count_mem]
    exact ⟨rfl, rfl, fun _ _ => Dev.raise_raised (Dev.count_ev ..) ⟨rfl, rfl, small⟩, fun h => absurd h (by rw [hs]; simp; omega)⟩
  · have step : e = d.setPeer n { x with misses := m } := if_neg (by rw [Bool.and_eq_true, decide_eq_true_eq, Bool.not_eq_true']; exact h)
    have keeps : (x.suspect || decide (2 ≤ m)) = x.suspect := by
      cases hs : x.suspect with
      | true => rfl
      | false => exact decide_eq_false fun hm => h ⟨hm, hs⟩
    rw [step, keeps]
    exact ⟨rfl, rfl, fun hm hs => absurd ⟨hm, hs⟩ h, fun _ => rfl⟩

theorem Dev.peerDue_facts (h : (d.peer n).got ≠ T + 1) : let x := d.peer n
    let m := min 255 (x.misses + 1)
    let e := Dev.peerDue T d n
    e.memb = { d.memb with peers := store Peer.init d.memb.peers n { x with misses := m, suspect := x.suspect || decide (2 ≤ m) } } ∧ e.mem = d.mem ∧
      (2 ≤ m → x.suspect = false → d.raised e fun r => r.code = 0xD001 ∧ r.object = BitVec.ofNat 32 n ∧ r.detail.toNat % 2 ^ 8 = m) ∧
      (m < 2 ∨ x.suspect = true → e.ev = d.ev) := by
  rw [Dev.peerDue_missed h]
  have memb : (d.count Reg.MEMB_MISS_COUNT F.MEMB_MISS_COUNT_COUNT 1).memb = d.memb := Dev.count_memb ..
  have mem : (d.count Reg.MEMB_MISS_COUNT F.MEMB_MISS_COUNT_COUNT 1).mem = d.mem := Dev.count_mem ..
  have ev : (d.count Reg.MEMB_MISS_COUNT F.MEMB_MISS_COUNT_COUNT 1).ev = d.ev := Dev.count_ev ..
  generalize d.count Reg.MEMB_MISS_COUNT F.MEMB_MISS_COUNT_COUNT 1 = u at *
  generalize d.peer n = x
  obtain ⟨memb', mem', told, silent⟩ := Dev.missed_facts (d := u) (n := n) (x := x)
  refine ⟨memb'.trans (by rw [memb]), mem'.trans mem, fun hm hs => ?_, fun h => (silent h).trans ev⟩
  obtain ⟨r, hr, arisen⟩ := told hm hs
  exact ⟨r, hr, arisen.trans (by rw [ev])⟩

/-- Membership but for the peers, and but for the collectives and the notices owed. -/
def MembState.sansPeers (x : MembState) : MembState := { x with peers := [] }
def MembState.sansColls (x : MembState) : MembState := { x with colls := [], notices := [] }

theorem Dev.peerDue_keeps : (Dev.peerDue T d n).memb.sansPeers = d.memb.sansPeers ∧ (Dev.peerDue T d n).mem = d.mem := by
  by_cases h : (d.peer n).got = T + 1
  · rw [Dev.peerDue_heard h]
    exact ⟨rfl, rfl⟩
  · obtain ⟨memb, mem, -, -⟩ := Dev.peerDue_facts h
    exact ⟨(congrArg MembState.sansPeers memb :), mem⟩
theorem Dev.peersDue_keep {l : List Nat} : (l.foldl (Dev.peerDue T) d).memb.sansPeers = d.memb.sansPeers ∧ (l.foldl (Dev.peerDue T) d).mem = d.mem :=
  List.foldlRecOn (motive := fun e : Dev => e.memb.sansPeers = d.memb.sansPeers ∧ e.mem = d.mem) l _ ⟨rfl, rfl⟩ fun _ h _ _ =>
    ⟨Dev.peerDue_keeps.1.trans h.1, Dev.peerDue_keeps.2.trans h.2⟩

/-- What a trigger changes: the collectives and the notices owed. -/
structure Dev.Triggered (d e : Dev) : Prop where
  regs : e.regs = d.regs
  mem : e.mem = d.mem
  ev : e.ev = d.ev
  memb : e.memb.sansColls = d.memb.sansColls

theorem Dev.Triggered.refl : Dev.Triggered d d := ⟨rfl, rfl, rfl, rfl⟩
theorem Dev.Triggered.trigger {u : Dev} {i k t x : Nat} (h : Dev.Triggered d u) : Dev.Triggered d (u.trigger i k t x) := by
  unfold Dev.trigger
  split
  · exact h
  · exact ⟨h.regs, h.mem, h.ev, h.memb⟩

theorem Dev.decideFence_facts : let e := d.decideFence c
    e.regs = d.regs ∧ e.mem = d.mem ∧ e.ev = d.ev ∧ e.memb.fencing = c ∧ e.memb.peers = d.memb.peers ∧ e.memb.isol = d.memb.isol ∧ e.memb.dueTick = d.memb.dueTick := by
  have all : Dev.Triggered (d.modMemb fun x => { x with fencing := c }) (d.decideFence c) :=
    List.foldlRecOn (motive := Dev.Triggered (d.modMemb fun x => { x with fencing := c })) _ _ .refl fun _ h _ _ => h.trigger
  exact ⟨all.regs, all.mem, all.ev, (congrArg MembState.fencing all.memb :), (congrArg MembState.peers all.memb :), (congrArg MembState.isol all.memb :), (congrArg MembState.dueTick all.memb :)⟩

theorem heartbeatDue_stays (h : d.joined = false ∨ d.memb.dueTick = d.tickNo + 1) : heartbeatDueEffect d = d :=
  if_pos (by rwa [Bool.or_eq_true, Bool.not_eq_true', beq_iff_eq])

/-- Every peer of the watch set missed the tick. -/
def Dev.allMissed (d : Dev) (T : Nat) : Bool := !d.watchSet.isEmpty && d.watchSet.all fun n => (d.peer n).got != T + 1
theorem Dev.allMissed_iff : d.allMissed T = true ↔ d.watchSet ≠ [] ∧ ∀ n ∈ d.watchSet, (d.peer n).got ≠ T + 1 := by
  simp only [Dev.allMissed, Bool.and_eq_true, Bool.not_eq_true', List.isEmpty_eq_false_iff, List.all_eq_true, bne_iff_ne]

/-- A due time that has passed, with the ticks missed in a row; enough of them decide a fence. -/
def Dev.dueDone (d : Dev) (T k : Nat) : Dev :=
  let d := (d.modMemb fun x => { x with dueTick := T + 1, isol := k }).membShow
  if decide (k ≥ leAt d.memb.record 19 1) && decide (k > 0) && d.memb.fencing == 0 then d.decideFence 2 else d

theorem heartbeatDue_acts (h : d.joined = true) (ht : d.memb.dueTick ≠ d.tickNo + 1) :
    let u := d.advanceTo (d.tickNo * d.tickU + (d.hbOffset + d.hbGrace) * 5)
    let w := u.watchSet.foldl (Dev.peerDue d.tickNo) u
    heartbeatDueEffect d = w.dueDone d.tickNo (if u.allMissed d.tickNo then w.memb.isol + 1 else 0) :=
  if_neg (by
    rw [Bool.or_eq_true, Bool.not_eq_true', beq_iff_eq, h]
    exact fun h => h.elim Bool.noConfusion ht)

theorem Dev.dueDone_facts {k : Nat} : let e := d.dueDone T k
    e.memb.dueTick = T + 1 ∧ e.memb.peers = d.memb.peers ∧ e.mem = d.mem ∧ e.memb.isol = k ∧
      (k = 0 ∨ k < leAt d.memb.record 19 1 → e.memb.fencing = d.memb.fencing ∧ e.memb.colls = d.memb.colls) ∧
      (k ≠ 0 → leAt d.memb.record 19 1 ≤ k → d.memb.fencing = 0 → e.memb.fencing = 2) := by
  intro e
  have memb : (d.modMemb fun x => { x with dueTick := T + 1, isol := k }).membShow.memb = { d.memb with dueTick := T + 1, isol := k } := Dev.membShow_quiet.memb
  have mem : (d.modMemb fun x => { x with dueTick := T + 1, isol := k }).membShow.mem = d.mem := Dev.membShow_quiet.mem
  have step : e = if decide (k ≥ leAt (d.modMemb fun x => { x with dueTick := T + 1, isol := k }).membShow.memb.record 19 1) && decide (k > 0) &&
      (d.modMemb fun x => { x with dueTick := T + 1, isol := k }).membShow.memb.fencing == 0 then
        (d.modMemb fun x => { x with dueTick := T + 1, isol := k }).membShow.decideFence 2
      else (d.modMemb fun x => { x with dueTick := T + 1, isol := k }).membShow := rfl
  rw [step]
  generalize (d.modMemb fun x => { x with dueTick := T + 1, isol := k }).membShow = u at *
  rw [memb]
  obtain ⟨-, mem', -, fencing, peers, isol, dueTick⟩ := Dev.decideFence_facts (d := u) (c := 2)
  by_cases fences : k ≥ leAt d.memb.record 19 1 ∧ k > 0 ∧ d.memb.fencing = 0
  · rw [if_pos (by simpa only [Bool.and_eq_true, decide_eq_true_eq, beq_iff_eq, and_assoc] using fences)]
    obtain ⟨enough, some_, _⟩ := fences
    refine ⟨dueTick.trans (by rw [memb]), peers.trans (by rw [memb]), mem'.trans mem, isol.trans (by rw [memb]), fun h => ?_, fun _ _ _ => fencing⟩
    exact absurd h (by omega)
  · rw [if_neg (by simpa only [Bool.and_eq_true, decide_eq_true_eq, beq_iff_eq, and_assoc] using fences), memb]
    exact ⟨rfl, rfl, mem, rfl, fun _ => ⟨rfl, rfl⟩, fun h0 hk hf => absurd ⟨hk, Nat.pos_of_ne_zero h0, hf⟩ fences⟩

theorem heartbeatDue_facts (h : d.joined = true) (ht : d.memb.dueTick ≠ d.tickNo + 1) :
    let u := d.advanceTo (d.tickNo * d.tickU + (d.hbOffset + d.hbGrace) * 5)
    let all := u.watchSet ≠ [] ∧ ∀ n ∈ u.watchSet, (d.peer n).got ≠ d.tickNo + 1
    let e := heartbeatDueEffect d
    e.memb.dueTick = d.tickNo + 1 ∧ e.memb.peers = (u.watchSet.foldl (Dev.peerDue d.tickNo) u).memb.peers ∧ e.mem = d.mem ∧
      (¬ all → e.memb.isol = 0 ∧ e.memb.fencing = d.memb.fencing ∧ e.memb.colls = d.memb.colls) ∧
      (all → e.memb.isol = d.memb.isol + 1 ∧ (d.memb.isol + 1 < leAt d.memb.record 19 1 → e.memb.fencing = d.memb.fencing) ∧
        (leAt d.memb.record 19 1 ≤ d.memb.isol + 1 → d.memb.fencing = 0 → e.memb.fencing = 2)) := by
  rw [heartbeatDue_acts h ht]
  generalize d.tickNo = T at *
  generalize hu : d.advanceTo (T * d.tickU + (d.hbOffset + d.hbGrace) * 5) = u
  have memb : u.memb = d.memb := by rw [← hu]; exact Dev.advance_memb ..
  have mem : u.mem = d.mem := by rw [← hu]; exact Dev.advance_mem ..
  intro u' all
  have missed : u.allMissed T = true ↔ all := by
    rw [Dev.allMissed_iff]
    simp only [Dev.peer, memb]
    exact Iff.rfl
  obtain ⟨kept, mem'⟩ := Dev.peersDue_keep (d := u) (T := T) (l := u.watchSet)
  change _ ∧ _
  generalize u.watchSet.foldl (Dev.peerDue T) u = w at *
  rw [memb] at kept
  have isol : w.memb.isol = d.memb.isol := (congrArg MembState.isol kept :)
  have fencing : w.memb.fencing = d.memb.fencing := (congrArg MembState.fencing kept :)
  have colls : w.memb.colls = d.memb.colls := (congrArg MembState.colls kept :)
  have record : w.memb.record = d.memb.record := (congrArg MembState.record kept :)
  obtain ⟨due, peers, mem'', isol', calm, fenced⟩ := Dev.dueDone_facts (d := w) (T := T) (k := if u.allMissed T then w.memb.isol + 1 else 0)
  generalize hk : (if u.allMissed T then w.memb.isol + 1 else 0) = k at *
  generalize w.dueDone T k = e at *
  rw [fencing, colls, record] at calm
  rw [fencing, record] at fenced
  refine ⟨due, peers, mem''.trans (mem'.trans mem), fun no => ?_, fun yes => ?_⟩
  · have zero : k = 0 := hk ▸ if_neg (mt missed.1 no)
    exact ⟨isol'.trans zero, calm (.inl zero)⟩
  · have next : k = d.memb.isol + 1 := by rw [← hk, if_pos (missed.2 yes), isol]
    rw [← next]
    exact ⟨isol', fun h => (calm (.inr h)).1, fenced (by omega)⟩

/-! ## Fences -/

theorem hostFence_facts : let e := hostFenceEffect hostDriver d
    e.memb.fencing = 3 ∧ e.regs = d.regs ∧ e.mem = d.mem ∧ e.ev = d.ev := by
  obtain ⟨regs, mem, ev, fencing, -⟩ := Dev.decideFence_facts (d := d) (c := 3)
  exact ⟨fencing, regs, mem, ev⟩

theorem isolationFence_stays (h : d.memb.fencing ≠ 2 ∨ d.tickNo < d.memb.dueTick) : isolationFenceEffect d = d :=
  if_neg (by rw [Bool.and_eq_true, beq_iff_eq, decide_eq_true_eq, not_and_or, ge_iff_le, Nat.not_le]; exact h)

/-- The slices' entries ended and contexts freed by a fence. -/
def Dev.fenceEnds (d : Dev) : Dev :=
  let mine := fun (e : Entry) => e.slice != 0 && e.ending.isNone
  tiles6.foldl (fun (d : Dev) t =>
    let d := d.finishWhere t mine 6
    ((d.sch t).ctxs.filter fun c => c.slice != 0).foldl (fun d c => d.freeCtx t c) d) d
theorem Dev.canon.fenceEnds (h : d.canon) : d.fenceEnds.canon := h.foldl fun h => h.finishWhere.foldl .freeCtx

/-- A fence shows in the status, with its event. -/
def Dev.fenceShown (d : Dev) (c x : Nat) : Dev :=
  let d := (d.modMemb fun x => { x with fencing := 0, isol := 0 }).setFs Reg.MEMB_STATUS [(F.MEMB_STATUS_STATE, 4), (F.MEMB_STATUS_FENCE_CAUSE, c)]
  (d.raise 0xD006 0xFF systemSteward d.membEpoch x).membShow

theorem Dev.fenceSelf_eq : ∃ x, d.fenceSelf c = d.fenceEnds.fenceShown c x := ⟨_, rfl⟩

theorem Dev.fenceShown_facts {x : Nat} (hd : d.canon) (hc : c < 8) : let e := d.fenceShown c x
    e.membState = 4 ∧ e.getF Reg.MEMB_STATUS F.MEMB_STATUS_FENCE_CAUSE = c ∧ e.memb.fencing = 0 ∧ ∃ r ∈ e.ev.arisen, r.code = 0xD006 := by
  have canon : (d.modMemb fun x => { x with fencing := 0, isol := 0 }).canon := hd.modMemb
  have fencing : (d.modMemb fun x => { x with fencing := 0, isol := 0 }).memb.fencing = 0 := rfl
  unfold Dev.fenceShown
  generalize d.modMemb (fun x => { x with fencing := 0, isol := 0 }) = u at *
  have state : (u.setFs Reg.MEMB_STATUS [(F.MEMB_STATUS_STATE, 4), (F.MEMB_STATUS_FENCE_CAUSE, c)]).getF Reg.MEMB_STATUS F.MEMB_STATUS_STATE = 4 :=
    Dev.getF_setFs_mid (pre := []) canon (by rfl) (by rfl)
  have cause : (u.setFs Reg.MEMB_STATUS [(F.MEMB_STATUS_STATE, 4), (F.MEMB_STATUS_FENCE_CAUSE, c)]).getF Reg.MEMB_STATUS F.MEMB_STATUS_FENCE_CAUSE = c :=
    (Dev.getF_setFs_mid (pre := [_]) canon (by rfl) (by rfl)).trans (Nat.mod_eq_of_lt hc)
  have memb := Dev.setFs_memb (d := u) Reg.MEMB_STATUS [(F.MEMB_STATUS_STATE, 4), (F.MEMB_STATUS_FENCE_CAUSE, c)]
  have canon' := canon.setFs (a := Reg.MEMB_STATUS) (l := [(F.MEMB_STATUS_STATE, 4), (F.MEMB_STATUS_FENCE_CAUSE, c)])
  generalize u.setFs Reg.MEMB_STATUS [(F.MEMB_STATUS_STATE, 4), (F.MEMB_STATUS_FENCE_CAUSE, c)] = w at *
  have told : ∃ r ∈ (w.raise 0xD006 0xFF systemSteward w.membEpoch x).ev.arisen, r.code = 0xD006 := ⟨_, mem_insertEvent_self _ _, rfl⟩
  have reg (f : Fld) : (w.raise 0xD006 0xFF systemSteward w.membEpoch x).getF Reg.MEMB_STATUS f = w.getF Reg.MEMB_STATUS f := Dev.raise_getF ..
  have memb' : (w.raise 0xD006 0xFF systemSteward w.membEpoch x).memb = w.memb := Dev.raise_memb ..
  have canon'' := canon'.raise (code := 0xD006) (slice := 0xFF) (unit := systemSteward) (object := w.membEpoch) (detail := x)
  dsimp only
  generalize w.raise 0xD006 0xFF systemSteward w.membEpoch x = z at *
  have kept (f : Fld) : z.membShow.getF Reg.MEMB_STATUS f = z.getF Reg.MEMB_STATUS f := congrArg (fieldOf f) (Dev.membShow_quiet.regs canon'' _ (by decide))
  exact ⟨(kept _).trans ((reg _).trans state), (kept _).trans ((reg _).trans cause), by rw [Dev.membShow_quiet.memb, memb', memb, fencing], by rwa [Dev.membShow_ev]⟩

theorem Dev.fenceSelf_facts (hd : d.canon) (hc : c < 8) : let e := d.fenceSelf c
    e.membState = 4 ∧ e.getF Reg.MEMB_STATUS F.MEMB_STATUS_FENCE_CAUSE = c ∧ e.memb.fencing = 0 ∧ ∃ r ∈ e.ev.arisen, r.code = 0xD006 := by
  obtain ⟨x, shows⟩ := Dev.fenceSelf_eq (d := d) (c := c)
  rw [shows]
  exact Dev.fenceShown_facts hd.fenceEnds hc

theorem isolationFence_fences (hf : d.memb.fencing = 2) (ht : d.memb.dueTick ≤ d.tickNo) : isolationFenceEffect d = d.fenceSelf 2 :=
  if_pos (by rw [Bool.and_eq_true, beq_iff_eq, decide_eq_true_eq]; exact ⟨hf, ht⟩)

theorem heartbeatArrive_facts {p : Bytes} {u : Dev} (h : d.takeMemb 0 = some (p, u)) : let n := leAt p 28 2
    let T := leAt p 20 8
    let x := d.peer n
    (d.stale p = true → heartbeatArriveEffect d = u.braidCount Reg.BRAID_STALE_DROP 1) ∧
    (d.stale p = false → d.joined = false ∨ n ∉ d.watchSet → heartbeatArriveEffect d = u) ∧
    (d.stale p = false → d.joined = true → n ∈ d.watchSet → T = d.tickNo → d.now ≤ T * d.tickU + (d.hbOffset + d.hbGrace) * 5 → let e := heartbeatArriveEffect d
      e.memb.peers = store Peer.init d.memb.peers n { x with last := T, got := T + 1, suspect := false, misses := 0 } ∧
        (x.suspect = true → ∃ r ∈ e.ev.arisen, r.code = 0xD002 ∧ r.object = BitVec.ofNat 32 n) ∧ e.mem = d.mem) := by
  obtain ⟨regs, memb, now, mem, ev⟩ := Dev.takeMemb_some h
  have stale : u.stale p = d.stale p := by rw [Dev.stale, Dev.stale, Dev.getF_of regs]
  have joined := Dev.joined_of regs
  have watch := Dev.watchSet_of regs (congrArg MembState.record memb)
  have peer (n : Nat) : u.peer n = d.peer n := by rw [Dev.peer, Dev.peer, memb]
  intro n T x
  rw [heartbeatArrive_some h, stale, joined, watch]
  refine ⟨fun hs => if_pos hs, fun hs hno => (if_neg (Bool.eq_false_iff.1 hs)).trans (if_pos ?_), fun hs hj hw hT hn => ?_⟩
  · rw [Bool.or_eq_true, Bool.not_eq_true', Bool.not_eq_true']
    exact hno.imp_right fun h => Bool.eq_false_iff.2 (mt List.contains_iff_mem.1 h)
  · rw [if_neg (Bool.eq_false_iff.1 hs), if_neg (by rw [hj, List.contains_iff_mem.2 hw]; decide)]
    obtain ⟨peers, told, mem'⟩ := Dev.hbTaken_facts (d := u) (n := n) (T := T) (b := p.drop 16) (hT.trans (Dev.tick_of regs now).symm) (by
      rw [now, Dev.tickU_of regs, Dev.hbOffset, Dev.hbGrace, Dev.getF_of regs, Dev.getF_of regs]
      exact hn)
    rw [peer] at told
    exact ⟨peers.trans (by rw [memb]), told, mem'.trans mem⟩

/-- Settles O50: heartbeats by the tick, the watch set and the epoch; fences by what decided them. -/
theorem heartbeatsAreSentJudgedAndMissed : Obligations.HeartbeatsAreSentJudgedAndMissed := by
  unfold Obligations.HeartbeatsAreSentJudgedAndMissed
  refine ⟨⟨fun d => ⟨Dev.heartbeat_length, Dev.heartbeat_fields⟩, fun s hs => ⟨fun h => runs_ran rfl hs (heartbeatSend_stays h), fun h ht => runs_ran rfl hs (heartbeatSend_facts h ht)⟩,
    fun s hs h => runs_ran rfl hs (heartbeatArrive_none h), fun s p u hs h => ?_⟩, fun d T n => ⟨Dev.peerDue_heard, fun h => ?_⟩,
    fun s hs => ⟨fun h => runs_ran rfl hs (heartbeatDue_stays h), fun h ht => runs_ran rfl hs (heartbeatDue_facts h ht)⟩,
    fun m s hs => ⟨fun h => runs_ranFrom rfl hs (if_pos (bne_iff_ne.2 h)), fun h => ?_⟩,
    fun s hs hd => ⟨fun h => runs_ran rfl hs (isolationFence_stays h), fun hf ht => runs_ran rfl hs ?_⟩⟩
  · obtain ⟨stale, other, taken⟩ := heartbeatArrive_facts h
    exact ⟨fun h => runs_ran rfl hs (stale h), fun h ho => runs_ran rfl hs (other h ho), fun h hj hw hT hn => runs_ran rfl hs (taken h hj hw hT hn)⟩
  · obtain ⟨memb, mem, told, silent⟩ := Dev.peerDue_facts h
    exact ⟨(congrArg MembState.peers memb :), mem, told, silent⟩
  · subst h
    exact runs_ranFrom rfl hs hostFence_facts
  · rw [isolationFence_fences hf ht]
    exact Dev.fenceSelf_facts hd (by decide)

end Sys2Proof.Machine
end

section
/-! SUPPORT. Epochs, collectives and shadowing (R465 to R467, R471 to R473, R476, R477). -/
namespace Sys2Proof.Machine

-- One proof after another: with many at once their threads' stacks exceed the memory that the check allows.
set_option Elab.async false

variable {d e : Dev} {n : Nat} {m : Master} {s : State}

/-! ## What leaves membership as it was, but for collectives and notices -/

/-- `e` holds the membership of `d`, but for collectives and notices. -/
structure Dev.MembKept (d e : Dev) : Prop where
  memb : e.memb.sansColls = d.memb.sansColls

section
variable {u : Dev}

theorem Dev.MembKept.refl : Dev.MembKept d d := ⟨rfl⟩
theorem Dev.MembKept.of (h : Dev.MembKept d u) (hm : e.memb = u.memb) : Dev.MembKept d e := ⟨hm ▸ h.memb⟩
theorem Dev.MembKept.ite {c : Prop} [Decidable c] (h : Dev.MembKept d u) (h' : Dev.MembKept d e) : Dev.MembKept d (if c then u else e) := by
  split
  · exact h
  · exact h'
theorem Dev.MembKept.foldl {α : Type} {f : Dev → α → Dev} {l : List α} (h : Dev.MembKept d u) (hf : ∀ {v x}, Dev.MembKept d v → Dev.MembKept d (f v x)) :
    Dev.MembKept d (l.foldl f u) := List.foldlRecOn (motive := Dev.MembKept d) l f h fun _ h _ _ => hf h
theorem Dev.MembKept.raise {c k o x : Nat} {w : BitVec 16} (h : Dev.MembKept d u) : Dev.MembKept d (u.raise c k w o x) := h.of (Dev.raise_memb ..)
theorem Dev.MembKept.setF {a v : Nat} {f : Fld} (h : Dev.MembKept d u) : Dev.MembKept d (u.setF a f v) := h.of (Dev.setF_memb ..)
theorem Dev.MembKept.setFs {a : Nat} {l : List (Fld × Nat)} (h : Dev.MembKept d u) : Dev.MembKept d (u.setFs a l) := h.of (Dev.setFs_memb ..)
theorem Dev.MembKept.count {a k : Nat} {f : Fld} (h : Dev.MembKept d u) : Dev.MembKept d (u.count a f k) := h.of (Dev.count_memb ..)
theorem Dev.MembKept.write {a : Nat} {l : Bytes} (h : Dev.MembKept d u) : Dev.MembKept d (u.write a l) := h.of (congrArg Dev.memb (u.write_rest a l) :)
theorem Dev.MembKept.modBraid {f : BraidState → BraidState} (h : Dev.MembKept d u) : Dev.MembKept d (u.modBraid f) := ⟨h.memb⟩
theorem Dev.MembKept.setTier {t : Nat} {x : TierState} (h : Dev.MembKept d u) : Dev.MembKept d (u.setTier t x) := ⟨h.memb⟩
theorem Dev.MembKept.modSch {t : Nat} {f : Sched → Sched} (h : Dev.MembKept d u) : Dev.MembKept d (u.modSch t f) := ⟨h.memb⟩
theorem Dev.MembKept.setPort {g : GatePort} {x : PortState} (h : Dev.MembKept d u) : Dev.MembKept d (u.setPort g x) := ⟨h.memb⟩
theorem Dev.MembKept.trigger {i k t x : Nat} (h : Dev.MembKept d u) : Dev.MembKept d (u.trigger i k t x) := by
  unfold Dev.trigger
  exact h.ite ⟨h.memb⟩
theorem Dev.MembKept.triggerHere {i k : Nat} (h : Dev.MembKept d u) : Dev.MembKept d (u.triggerHere i k) := h.trigger
theorem Dev.MembKept.landingSignal {t c k : Nat} {sl : Option Nat} {src : BitVec 16} (h : Dev.MembKept d u) : Dev.MembKept d (u.landingSignal t c k sl src) := by
  unfold Dev.landingSignal
  extract_lets p room g v w
  have kept : Dev.MembKept d w := Dev.MembKept.setF (u := v) ⟨h.memb⟩
  exact kept.ite kept.raise

/-! ## The ends of Braid operations -/

theorem Dev.MembKept.putEnd {tag st : Nat} (h : Dev.MembKept d u) : Dev.MembKept d (u.putEnd tag st) := by
  unfold Dev.putEnd
  split
  · exact h
  · extract_lets st rest v
    have kept : Dev.MembKept d v := h.modBraid
    split
    · exact h.modBraid
    · split
      · exact kept
      · extract_lets w
        have kept' : Dev.MembKept d w := kept.landingSignal.ite kept
        exact kept'.ite kept'.raise
theorem Dev.MembKept.tierBraidEnd {t tag st a : Nat} (h : Dev.MembKept d u) : Dev.MembKept d (u.tierBraidEnd t tag st a) := by
  unfold Dev.tierBraidEnd
  split
  · exact h
  · exact h.ite h.setTier
theorem Dev.MembKept.issuerEnd {i : BitVec 16} {tag st a : Nat} (h : Dev.MembKept d u) : Dev.MembKept d (u.issuerEnd i tag st a) :=
  h.putEnd.ite (h.tierBraidEnd.ite h)
theorem Dev.MembKept.fencesDone (h : Dev.MembKept d u) : Dev.MembKept d u.fencesDone := h.modBraid.foldl .issuerEnd
theorem Dev.MembKept.opEnd {o : BraidOp} {st : Nat} {l : Bytes} (h : Dev.MembKept d u) : Dev.MembKept d (u.opEnd o st l) := by
  unfold Dev.opEnd
  extract_lets v w _ z
  have kept : Dev.MembKept d v := h.modBraid
  have kept' : Dev.MembKept d w := kept.write.ite kept
  have kept'' : Dev.MembKept d z := kept'.ite kept'.modBraid
  exact (kept''.triggerHere.ite kept'').issuerEnd.fencesDone
theorem Dev.MembKept.portSync {g : GatePort} (h : Dev.MembKept d u) : Dev.MembKept d (u.portSync g) := by
  unfold Dev.portSync
  extract_lets v
  have kept : Dev.MembKept d v := h.foldl fun h => (h.setPort.ite h.setPort).setFs
  exact kept.setPort.ite kept
theorem Dev.MembKept.dropOwn (h : Dev.MembKept d u) : Dev.MembKept d u.dropOwn := h.modBraid.foldl fun h => (h.portSync.foldl .setPort).portSync
theorem Dev.MembKept.braidShow (h : Dev.MembKept d u) : Dev.MembKept d u.braidShow := h.of Dev.braidShow_quiet.memb
theorem Dev.MembKept.braidNewEpoch {k : Nat} (h : Dev.MembKept d u) : Dev.MembKept d (u.braidNewEpoch k) := (h.setF.foldl .opEnd).dropOwn.modBraid.braidShow

/-! ## Entries ended and contexts freed -/

theorem Dev.MembKept.setParked {t : Nat} {l : List Parked} (h : Dev.MembKept d u) : Dev.MembKept d (u.setParked t l) := Dev.MembKept.setFs ⟨h.memb⟩
theorem Dev.MembKept.unpark {t : Nat} {p : Parked → Bool} (h : Dev.MembKept d u) : Dev.MembKept d (u.unpark t p) := h.setParked.ite h
theorem Dev.MembKept.ctrAdd {t c k : Nat} {src : BitVec 16} (h : Dev.MembKept d u) : Dev.MembKept d (u.ctrAdd t c k src) := h.setF.ite h.setFs.raise
theorem Dev.MembKept.breakCtr {t c k : Nat} (h : Dev.MembKept d u) : Dev.MembKept d (u.breakCtr t c k) := h.count.unpark.setF.raise
theorem Dev.MembKept.ctrWrite {t c : Nat} {v : Word} (h : Dev.MembKept d u) : Dev.MembKept d (u.ctrWrite t c v) := by
  unfold Dev.ctrWrite
  extract_lets _ _ _ _ _ w
  have kept : Dev.MembKept d w := Dev.MembKept.setFs ⟨h.memb⟩
  exact (kept.breakCtr.ite (kept.unpark.foldl .ctrAdd)).ite (kept.unpark.ite kept)
theorem Dev.MembKept.freeCtx {t : Nat} {c : TCtx} (h : Dev.MembKept d u) : Dev.MembKept d (u.freeCtx t c) := (h.foldl fun h => h.foldl .ctrWrite).modSch.setFs
theorem Dev.MembKept.finish {t st r o : Nat} {x : Entry} (h : Dev.MembKept d u) : Dev.MembKept d (u.finish t x st r o) := by
  unfold Dev.finish
  extract_lets v
  have kept : Dev.MembKept d v := h.raise.ite h
  exact h.ite (kept.triggerHere.ite kept).modSch
theorem Dev.MembKept.finishWhere {t st : Nat} {p : Entry → Bool} (h : Dev.MembKept d u) : Dev.MembKept d (u.finishWhere t p st) := h.foldl fun h => h.finish.ite h
theorem Dev.MembKept.fenceEnds (h : Dev.MembKept d u) : Dev.MembKept d u.fenceEnds := h.foldl fun h => h.finishWhere.foldl .freeCtx
end

/-! ## Records staged, discarded and checked -/

theorem Dev.unstage_facts (hd : d.canon) : d.unstage.memb = { d.memb with staged := [], force := false, counted := false } ∧
    d.unstage.getB Reg.MEMB_STATUS F.MEMB_STATUS_STAGED = false ∧ d.sameRegs d.unstage (· = Reg.MEMB_STATUS) ∧ d.unstage.mem = d.mem ∧ d.unstage.ev = d.ev ∧
    d.unstage.membState = d.membState := by
  have canon : (d.modMemb fun x => { x with staged := [], force := false, counted := false }).canon := hd.modMemb
  have memb : (d.modMemb fun x => { x with staged := [], force := false, counted := false }).memb = { d.memb with staged := [], force := false, counted := false } := rfl
  have mem : (d.modMemb fun x => { x with staged := [], force := false, counted := false }).mem = d.mem := rfl
  have ev : (d.modMemb fun x => { x with staged := [], force := false, counted := false }).ev = d.ev := rfl
  have reg (a : Nat) : (d.modMemb fun x => { x with staged := [], force := false, counted := false }).reg a = d.reg a := rfl
  unfold Dev.unstage
  generalize d.modMemb (fun x => { x with staged := [], force := false, counted := false }) = u at *
  rw [Dev.setB_memb, Dev.setB_mem, Dev.setB_ev]
  exact ⟨memb, congrArg (· == 1) (Dev.getF_setF_lt canon (by decide)), fun a ha => (Dev.reg_setReg_ne _ canon (Ne.symm ha)).trans (reg a), mem, ev,
    (Dev.getF_setF_other canon).trans (congrArg (fieldOf _) (reg _))⟩

theorem Dev.epochReject_facts {x r : Nat} (hd : d.canon) : (d.epochReject x r).memb = d.memb ∧ (d.epochReject x r).getF Reg.MEMB_STATUS F.MEMB_STATUS_LAST_REASON = r % 256 ∧
    (d.epochReject x r).getB Reg.MEMB_STATUS F.MEMB_STATUS_STAGED = d.getB Reg.MEMB_STATUS F.MEMB_STATUS_STAGED ∧ (d.epochReject x r).mem = d.mem ∧
    d.raised (d.epochReject x r) fun q => q.code = 0xD004 ∧ q.detail = BitVec.ofNat 64 r := by
  unfold Dev.epochReject
  rw [Dev.raise_memb, Dev.setF_memb, Dev.raise_getF, Dev.raise_getB, Dev.raise_mem, Dev.setF_mem]
  exact ⟨rfl, Dev.getF_setF_mod hd, congrArg (· == 1) (Dev.getF_setF_other hd), rfl, Dev.raise_raised (Dev.setF_ev ..) ⟨rfl, rfl⟩⟩

/-- A record that passed is held for its tick. -/
def Dev.recordStaged (d : Dev) (r : Bytes) (f : Bool) : Dev :=
  ((d.modMemb fun x => { x with staged := r, force := f, counted := false }).setB Reg.MEMB_STATUS F.MEMB_STATUS_STAGED true).raise 0xD003 0xFF systemSteward (leAt r 4 4) (leAt r 8 8)

theorem Dev.recordStaged_facts {r : Bytes} {f : Bool} (hd : d.canon) : let e := d.recordStaged r f
    e.memb = { d.memb with staged := r, force := f, counted := false } ∧ e.getB Reg.MEMB_STATUS F.MEMB_STATUS_STAGED = true ∧ d.sameRegs e (· = Reg.MEMB_STATUS) ∧
      e.mem = d.mem ∧ d.raised e fun x => x.code = 0xD003 ∧ x.detail = BitVec.ofNat 64 (leAt r 8 8) := by
  have canon : (d.modMemb fun x => { x with staged := r, force := f, counted := false }).canon := hd.modMemb
  have memb : (d.modMemb fun x => { x with staged := r, force := f, counted := false }).memb = { d.memb with staged := r, force := f, counted := false } := rfl
  have mem : (d.modMemb fun x => { x with staged := r, force := f, counted := false }).mem = d.mem := rfl
  have ev : (d.modMemb fun x => { x with staged := r, force := f, counted := false }).ev = d.ev := rfl
  have reg (a : Nat) : (d.modMemb fun x => { x with staged := r, force := f, counted := false }).reg a = d.reg a := rfl
  unfold Dev.recordStaged
  generalize d.modMemb (fun x => { x with staged := r, force := f, counted := false }) = u at *
  dsimp only
  rw [Dev.raise_memb, Dev.setB_memb, Dev.raise_getB, Dev.raise_mem, Dev.setB_mem]
  exact ⟨memb, congrArg (· == 1) (Dev.getF_setF_lt canon (by decide)), fun a ha => (Dev.raise_reg ..).trans ((Dev.reg_setReg_ne _ canon (Ne.symm ha)).trans (reg a)), mem,
    Dev.raise_raised ((Dev.setB_ev ..).trans ev) ⟨rfl, rfl⟩⟩

theorem epochRecordCheck_none {r : Bytes} {how : FetchEnd} (h : d.memb.fetch = none) : epochRecordCheckEffect r how d = d := by
  unfold epochRecordCheckEffect
  rw [h]

/-- The device whose record has been fetched. -/
def Dev.recordFetched (d : Dev) (how : FetchEnd) : Dev :=
  (d.modMemb fun x => { x with fetch := none }).fetchEnd how none (d.getF Reg.MEMB_EPOCH_SRC F.MEMB_EPOCH_SRC_ADDR * 64)
/-- A fetched record judged. -/
def Dev.recordJudged (d : Dev) (r : Bytes) (f : Bool) : Option Nat → Dev
  | some n => d.epochReject (leAt r 4 4) n
  | none => d.recordStaged r f

theorem epochRecordCheck_judges {r : Bytes} {how : FetchEnd} {f : Bool} (h : d.memb.fetch = some f) : epochRecordCheckEffect r how d =
    (d.recordFetched how).recordJudged r f (if how != .ok then some 1 else (d.recordFetched how).recordCheck r f) := by
  unfold epochRecordCheckEffect
  rw [h]
  change (match (if how != .ok then some 1 else (d.recordFetched how).recordCheck r f) with | some n => _ | none => _) = _
  generalize (if how != .ok then some 1 else (d.recordFetched how).recordCheck r f) = bad
  cases bad with
  | none => rfl
  | some n => rfl

theorem Dev.recordFetched_facts {how : FetchEnd} (hd : d.canon) : (d.recordFetched how).canon ∧ (d.recordFetched how).memb = { d.memb with fetch := none } ∧
    (d.recordFetched how).mem = d.mem ∧ (how = .ok → (d.recordFetched how).regs = d.regs ∧ (d.recordFetched how).now = d.now ∧ (d.recordFetched how).ev = d.ev) := by
  have canon : (d.recordFetched how).canon := hd.modMemb.fetchEnd
  cases how with
  | ok => exact ⟨canon, rfl, rfl, fun _ => ⟨rfl, rfl, rfl⟩⟩
  | error => exact ⟨canon, rfl, rfl, fun h => by cases h⟩
  | translation =>
    have quiet : Dev.Quiet (fun _ => True) (d.modMemb fun x => { x with fetch := none }) (d.recordFetched .translation) := (Dev.Quiet.refl.count trivial).raise
    exact ⟨canon, quiet.memb, quiet.mem, fun h => by cases h⟩

theorem Dev.recordHeader_of {r : Bytes} (hr : e.regs = d.regs) : e.recordHeader r = d.recordHeader r := by
  unfold Dev.recordHeader
  rw [Dev.tickU_of hr]
theorem Dev.recordCheck_of {r : Bytes} {f : Bool} (hr : e.regs = d.regs) (hn : e.now = d.now) (hs : e.memb.staged = d.memb.staged) : e.recordCheck r f = d.recordCheck r f := by
  unfold Dev.recordCheck Dev.membState Dev.membEpoch
  rw [Dev.getF_of hr, Dev.getF_of hr, Dev.getF_of hr, Dev.recordHeader_of hr, Dev.tick_of hr hn, hs]

theorem epochRecordCheck_passes {r : Bytes} {f : Bool} (hd : d.canon) (h : d.memb.fetch = some f) (hc : d.recordCheck r f = none) : let e := epochRecordCheckEffect r .ok d
    e.memb = { d.memb with fetch := none, staged := r, force := f, counted := false } ∧ e.getB Reg.MEMB_STATUS F.MEMB_STATUS_STAGED = true ∧
      d.sameRegs e (· = Reg.MEMB_STATUS) ∧ e.mem = d.mem ∧ d.raised e fun x => x.code = 0xD003 ∧ x.detail = BitVec.ofNat 64 (leAt r 8 8) := by
  obtain ⟨canon, memb, mem, same⟩ := Dev.recordFetched_facts (how := .ok) hd
  obtain ⟨regs, now, ev⟩ := same rfl
  rw [epochRecordCheck_judges h, if_neg (by decide), Dev.recordCheck_of regs now (congrArg MembState.staged memb :), hc]
  generalize d.recordFetched .ok = u at *
  obtain ⟨memb', shown, regs', mem', q, hq, arisen⟩ := Dev.recordStaged_facts (r := r) (f := f) canon
  exact ⟨memb'.trans (by rw [memb]), shown, fun a ha => (regs' a ha).trans (congrFun (Dev.reg_of regs) a), mem'.trans mem, q, hq, arisen.trans (by rw [ev])⟩

theorem epochRecordCheck_fails {r : Bytes} {how : FetchEnd} {f : Bool} (hd : d.canon) (h : d.memb.fetch = some f)
    (hc : (how ≠ .ok ∧ n = 1) ∨ (how = .ok ∧ d.recordCheck r f = some n)) : let e := epochRecordCheckEffect r how d
    e.memb = { d.memb with fetch := none } ∧ e.getF Reg.MEMB_STATUS F.MEMB_STATUS_LAST_REASON = n % 256 ∧ e.mem = d.mem ∧
      ∃ x ∈ e.ev.arisen, x.code = 0xD004 ∧ x.detail = BitVec.ofNat 64 n := by
  obtain ⟨canon, memb, mem, same⟩ := Dev.recordFetched_facts (how := how) hd
  have judged : (if how != .ok then some 1 else (d.recordFetched how).recordCheck r f) = some n := by
    rcases hc with ⟨hh, hn⟩ | ⟨hh, hc⟩
    · rw [if_pos (bne_iff_ne.2 hh), hn]
    · obtain ⟨regs, now, -⟩ := same hh
      rw [if_neg (by rw [bne_iff_ne]; exact fun h => h hh), Dev.recordCheck_of regs now (congrArg MembState.staged memb :), hc]
  rw [epochRecordCheck_judges h, judged]
  generalize d.recordFetched how = u at *
  obtain ⟨memb', reason, -, mem', q, hq, arisen⟩ := Dev.epochReject_facts (x := leAt r 4 4) (r := n) canon
  exact ⟨memb'.trans memb, reason, mem'.trans mem, q, arisen ▸ mem_insertEvent_self _ _, hq⟩

/-! ## Records installed -/

theorem epochInstall_stays (h : d.memb.staged = [] ∨ d.tickNo < leAt d.memb.staged 8 8) : epochInstallEffect d = d :=
  if_pos (by rwa [Bool.or_eq_true, List.isEmpty_iff, decide_eq_true_eq])

/-- A staged record whose tick has come, on the device that holds it no longer. -/
def Dev.epochDue (d : Dev) (r : Bytes) (counted force : Bool) : Dev :=
  if !counted then d.epochReject (leAt r 4 4) 5
  else match memberOf r d.braidNode with
    | none => d.fenceSelf 1
    | some i => if !force && !d.joined then d else d.installEpoch r i

theorem epochInstall_due (hr : d.memb.staged ≠ []) (ht : leAt d.memb.staged 8 8 ≤ d.tickNo) :
    epochInstallEffect d = d.unstage.epochDue d.memb.staged d.memb.counted d.memb.force := by
  have due : ¬ (d.memb.staged.isEmpty || decide (d.tickNo < leAt d.memb.staged 8 8)) = true := by
    rw [Bool.or_eq_true, List.isEmpty_iff, decide_eq_true_eq]
    exact fun h => h.elim hr (Nat.not_lt.2 ht)
  refine (if_neg due).trans ?_
  generalize d.unstage = u
  unfold Dev.epochDue
  refine ite_congr rfl (fun _ => rfl) fun _ => ?_
  generalize memberOf d.memb.staged u.braidNode = at_
  cases at_ with
  | none => rfl
  | some i => rfl

theorem epochInstall_late (hd : d.canon) (hr : d.memb.staged ≠ []) (ht : leAt d.memb.staged 8 8 ≤ d.tickNo) (hc : d.memb.counted = false) : let e := epochInstallEffect d
    e.memb.staged = [] ∧ e.getF Reg.MEMB_STATUS F.MEMB_STATUS_LAST_REASON = 5 ∧ e.getB Reg.MEMB_STATUS F.MEMB_STATUS_STAGED = false ∧
      d.raised e fun x => x.code = 0xD004 ∧ x.detail = 5 := by
  have rejects : epochInstallEffect d = d.unstage.epochReject (leAt d.memb.staged 4 4) 5 := (epochInstall_due hr ht).trans (if_pos (by rw [hc]; rfl))
  obtain ⟨memb, shown, -, -, ev, -⟩ := Dev.unstage_facts hd
  rw [rejects]
  obtain ⟨memb', reason, shown', -, q, hq, arisen⟩ := Dev.epochReject_facts (x := leAt d.memb.staged 4 4) (r := 5) hd.unstage
  exact ⟨(congrArg MembState.staged (memb'.trans memb) :), reason, shown'.trans shown, q, hq, arisen.trans (by rw [ev])⟩

theorem Dev.fenceShown_memb {c x : Nat} : (d.fenceShown c x).memb = { d.memb with fencing := 0, isol := 0 } := by
  unfold Dev.fenceShown
  dsimp only
  rw [Dev.membShow_quiet.memb, Dev.raise_memb, Dev.setFs_memb]
  rfl

theorem epochInstall_fences (hd : d.canon) (hr : d.memb.staged ≠ []) (ht : leAt d.memb.staged 8 8 ≤ d.tickNo) (hc : d.memb.counted = true)
    (hm : memberOf d.memb.staged d.braidNode = none) : let e := epochInstallEffect d
    e.membState = 4 ∧ e.getF Reg.MEMB_STATUS F.MEMB_STATUS_FENCE_CAUSE = 1 ∧ e.memb.staged = [] ∧ ∃ x ∈ e.ev.arisen, x.code = 0xD006 := by
  obtain ⟨memb, -, regs, -, -, -⟩ := Dev.unstage_facts hd
  have node : d.unstage.braidNode = d.braidNode := congrArg (fieldOf _) (regs _ (by decide))
  have fences : epochInstallEffect d = d.unstage.fenceSelf 1 := by
    rw [epochInstall_due hr ht, Dev.epochDue, hc, node, hm]
    rfl
  rw [fences]
  have canon := hd.unstage
  generalize d.unstage = u at *
  obtain ⟨state, cause, -, told⟩ := Dev.fenceSelf_facts (c := 1) canon (by decide)
  obtain ⟨x, shows⟩ := Dev.fenceSelf_eq (d := u) (c := 1)
  have staged : (u.fenceSelf 1).memb.staged = u.memb.staged := by
    rw [shows, Dev.fenceShown_memb]
    exact (congrArg MembState.staged (Dev.MembKept.refl.fenceEnds (u := u)).memb :)
  exact ⟨state, cause, staged.trans (congrArg MembState.staged memb :), told⟩

/-! ## A record takes effect -/

theorem Dev.braidNewEpoch_mem {k : Nat} (h : d.braid.ops = []) : (d.braidNewEpoch k).mem = d.mem := by
  have idle : (d.setF Reg.BRAID_EPOCH F.BRAID_EPOCH_EPOCH k).braid.ops = [] := by rw [Dev.setF_braid, h]
  unfold Dev.braidNewEpoch
  dsimp only
  rw [idle, List.foldl_nil, Dev.braidShow_quiet.mem]
  have dropped (u : Dev) : u.dropOwn.onWire = u.onWire := by
    refine (foldl_keeps Dev.onWire (fun v b => ?_) _ _).trans rfl
    rw [Dev.portSync_onWire]
    exact (foldl_keeps Dev.onWire (fun _ _ => Dev.setPort_onWire) _ _).trans Dev.portSync_onWire
  obtain ⟨-, mem, -⟩ := Dev.onWire_iff.1 (dropped (d.setF Reg.BRAID_EPOCH F.BRAID_EPOCH_EPOCH k))
  exact mem.trans (Dev.setF_mem ..)

/-- The registers of the table BRAID_ALIAS. -/
def Reg.aliasReg (a : Nat) : Prop := ∃ j < 1024, a = Reg.BRAID_ALIAS j

theorem aliasPut_quiet {x : Dev × Nat} {k v : Nat} (h : Dev.Quiet Reg.aliasReg d x.1) (hk : k < 4096) : Dev.Quiet Reg.aliasReg d (Dev.aliasPut x k v).1 := by
  unfold Dev.aliasPut
  split
  · exact h
  · exact h.setF ⟨k / 4, by omega, rfl⟩

theorem installAliases_quiet {r : Bytes} (h : ∀ j < leAt r 16 2, memberAt r j 2 2 ≤ 4095 ∨ memberAt r j 2 2 = 0xFFFF) : Dev.Quiet Reg.aliasReg d (d.installAliases r).1 := by
  unfold Dev.installAliases
  extract_lets ms x nodes
  have first : Dev.Quiet Reg.aliasReg d x.1 := List.foldlRecOn (motive := fun x : Dev × Nat => Dev.Quiet Reg.aliasReg d x.1) _ _ .refl fun y hy j hj => by
    split
    · exact hy
    · next other => exact aliasPut_quiet hy (by
        have := h j (List.mem_range.1 hj)
        rw [beq_iff_eq] at other
        omega)
  refine List.foldlRecOn (motive := fun x : Dev × Nat => Dev.Quiet Reg.aliasReg d x.1) _ _ first fun y hy j hj => ?_
  dsimp only
  split
  · exact aliasPut_quiet hy (List.mem_range.1 hj)
  · exact hy

/-- A register whose one field is the whole word holds what the field was set to. -/
theorem Dev.reg_setF_whole {a v : Nat} {f : Fld} (hd : d.canon) (hf : f = ⟨0, 64⟩) : (d.setF a f v).reg a = BitVec.ofNat 64 v := by
  subst hf
  have field : fieldOf ⟨0, 64⟩ ((d.setF a ⟨0, 64⟩ v).reg a) = v % 2 ^ 64 := Dev.getF_setF_mod hd
  rw [fieldOf, Nat.pow_zero, Nat.div_one, Nat.mod_eq_of_lt ((d.setF a ⟨0, 64⟩ v).reg a).isLt] at field
  exact BitVec.eq_of_toNat_eq (field.trans (BitVec.toNat_ofNat ..).symm)

/-- The device on its new epoch, before its table BRAID_ALIAS. -/
def Dev.epochEntered (d : Dev) (r : Bytes) : Dev :=
  ((d.braidNewEpoch (leAt r 4 4 % 16)).setF Reg.MEMB_EPOCH F.MEMB_EPOCH_EPOCH (leAt r 4 4)).setF Reg.MEMB_INSTALLED F.MEMB_INSTALLED_TICK (leAt r 8 8)

theorem Dev.epochEntered_facts {r : Bytes} (hd : d.canon) : (d.epochEntered r).canon ∧ (d.epochEntered r).membEpoch = leAt r 4 4 ∧
    (d.epochEntered r).reg Reg.MEMB_INSTALLED = BitVec.ofNat 64 (leAt r 8 8) ∧ (d.epochEntered r).memb.staged = d.memb.staged ∧
    (d.braid.ops = [] → (d.epochEntered r).mem = d.mem) := by
  have canon : (d.braidNewEpoch (leAt r 4 4 % 16)).canon := hd.braidNewEpoch
  have same : Dev.MembKept d (d.braidNewEpoch (leAt r 4 4 % 16)) := Dev.MembKept.refl.braidNewEpoch
  have kept : (d.braidNewEpoch (leAt r 4 4 % 16)).memb.staged = d.memb.staged := (congrArg MembState.staged same.memb :)
  have mem (h : d.braid.ops = []) : (d.braidNewEpoch (leAt r 4 4 % 16)).mem = d.mem := Dev.braidNewEpoch_mem h
  unfold Dev.epochEntered
  generalize d.braidNewEpoch (leAt r 4 4 % 16) = u at *
  have small : leAt r 4 4 < 2 ^ 32 := leAt_lt r 4 4
  have epoch : (u.setF Reg.MEMB_EPOCH F.MEMB_EPOCH_EPOCH (leAt r 4 4)).getF Reg.MEMB_EPOCH F.MEMB_EPOCH_EPOCH = leAt r 4 4 :=
    Dev.getF_setF_lt canon small
  refine ⟨canon.setF.setF, (Dev.getF_setF_ne _ F.MEMB_EPOCH_EPOCH _ canon.setF (by decide)).trans epoch, Dev.reg_setF_whole canon.setF rfl, ?_, fun h => ?_⟩
  · rw [Dev.setF_memb, Dev.setF_memb, kept]
  · rw [Dev.setF_mem, Dev.setF_mem, mem h]

/-- The device with the heartbeat times, the status and the peers of its record, its aliases written. -/
def Dev.memberIn (d : Dev) (r : Bytes) (i n : Nat) : Dev :=
  let place := memberAt r i 2 2
  let role := memberAt r i 4 1
  let d := d.setFs Reg.MEMB_HB [(F.MEMB_HB_HB_OFFSET, leAt r 20 4), (F.MEMB_HB_HB_GRACE, leAt r 24 4)]
  let d := d.setFs Reg.MEMB_STATUS [(F.MEMB_STATUS_STATE, role + 1), (F.MEMB_STATUS_PLACE, if place == 0xFFFF then 0xFFF else place), (F.MEMB_STATUS_FENCE_CAUSE, 0)]
  let d := d.modMemb fun x => { x with record := r, isol := 0, fencing := 0 }
  let ws := d.watchSet
  let d := d.modMemb fun x => { x with peers := x.peers.filter fun p => ws.contains p.1 }
  (d.raise 0xD005 0xFF systemSteward (leAt r 4 4) (place + role * 2 ^ 16 + leAt r 16 2 * 2 ^ 24 + n % 2 ^ 16 * 2 ^ 40)).membShow

theorem Dev.installEpoch_eq {r : Bytes} {i : Nat} : d.installEpoch r i = ((d.epochEntered r).installAliases r).1.memberIn r i ((d.epochEntered r).installAliases r).2 := by
  rw [Dev.installEpoch, ← Dev.epochEntered]
  generalize (d.epochEntered r).installAliases r = y
  obtain ⟨u, n⟩ := y
  rfl

/-- The record taken in, its peers those that it watches. -/
def Dev.recordIn (d : Dev) (r : Bytes) : Dev :=
  let d := d.modMemb fun x => { x with record := r, isol := 0, fencing := 0 }
  d.modMemb fun x => { x with peers := x.peers.filter fun p => d.watchSet.contains p.1 }
theorem Dev.recordIn_parts {r : Bytes} : (d.canon → (d.recordIn r).canon) ∧ (d.recordIn r).memb.record = r ∧ (d.recordIn r).memb.staged = d.memb.staged ∧
    (d.recordIn r).mem = d.mem ∧ (d.recordIn r).regs = d.regs := ⟨id, rfl, rfl, rfl, rfl⟩

theorem Dev.memberIn_facts {r : Bytes} {i n : Nat} (hd : d.canon) : let e := d.memberIn r i n
    e.membEpoch = d.membEpoch ∧ e.reg Reg.MEMB_INSTALLED = d.reg Reg.MEMB_INSTALLED ∧ e.membState = (memberAt r i 4 1 + 1) % 8 ∧ e.memb.record = r ∧
      e.memb.staged = d.memb.staged ∧ e.mem = d.mem ∧ ∃ x ∈ e.ev.arisen, x.code = 0xD005 ∧ x.object = BitVec.ofNat 32 (leAt r 4 4) := by
  intro e
  have eq : e = (((((d.setFs Reg.MEMB_HB [(F.MEMB_HB_HB_OFFSET, leAt r 20 4), (F.MEMB_HB_HB_GRACE, leAt r 24 4)]).setFs Reg.MEMB_STATUS
      [(F.MEMB_STATUS_STATE, memberAt r i 4 1 + 1), (F.MEMB_STATUS_PLACE, if memberAt r i 2 2 == 0xFFFF then 0xFFF else memberAt r i 2 2), (F.MEMB_STATUS_FENCE_CAUSE, 0)])).recordIn r).raise
      0xD005 0xFF systemSteward (leAt r 4 4) (memberAt r i 2 2 + memberAt r i 4 1 * 2 ^ 16 + leAt r 16 2 * 2 ^ 24 + n % 2 ^ 16 * 2 ^ 40)).membShow := rfl
  have canon1 := hd.setFs (a := Reg.MEMB_HB) (l := [(F.MEMB_HB_HB_OFFSET, leAt r 20 4), (F.MEMB_HB_HB_GRACE, leAt r 24 4)])
  have state : ((d.setFs Reg.MEMB_HB [(F.MEMB_HB_HB_OFFSET, leAt r 20 4), (F.MEMB_HB_HB_GRACE, leAt r 24 4)]).setFs Reg.MEMB_STATUS
      [(F.MEMB_STATUS_STATE, memberAt r i 4 1 + 1), (F.MEMB_STATUS_PLACE, if memberAt r i 2 2 == 0xFFFF then 0xFFF else memberAt r i 2 2),
        (F.MEMB_STATUS_FENCE_CAUSE, 0)]).getF Reg.MEMB_STATUS F.MEMB_STATUS_STATE = (memberAt r i 4 1 + 1) % 8 :=
    Dev.getF_setFs_mid (pre := []) canon1 (by rfl) (by rfl)
  have quiet : Dev.Quiet (fun a => a = Reg.MEMB_HB ∨ a = Reg.MEMB_STATUS) d ((d.setFs Reg.MEMB_HB [(F.MEMB_HB_HB_OFFSET, leAt r 20 4), (F.MEMB_HB_HB_GRACE, leAt r 24 4)]).setFs
      Reg.MEMB_STATUS [(F.MEMB_STATUS_STATE, memberAt r i 4 1 + 1), (F.MEMB_STATUS_PLACE, if memberAt r i 2 2 == 0xFFFF then 0xFFF else memberAt r i 2 2),
        (F.MEMB_STATUS_FENCE_CAUSE, 0)]) := (Dev.Quiet.refl.setFs (.inl rfl)).setFs (.inr rfl)
  rw [eq]
  generalize (d.setFs Reg.MEMB_HB [(F.MEMB_HB_HB_OFFSET, leAt r 20 4), (F.MEMB_HB_HB_GRACE, leAt r 24 4)]).setFs
      Reg.MEMB_STATUS [(F.MEMB_STATUS_STATE, memberAt r i 4 1 + 1), (F.MEMB_STATUS_PLACE, if memberAt r i 2 2 == 0xFFFF then 0xFFF else memberAt r i 2 2),
        (F.MEMB_STATUS_FENCE_CAUSE, 0)] = u at *
  obtain ⟨keeps, record, staged, mem, regs⟩ := Dev.recordIn_parts (d := u) (r := r)
  have reg := congrFun (Dev.reg_of regs)
  have canon := keeps (quiet.keeps hd)
  generalize u.recordIn r = w at *
  generalize memberAt r i 2 2 + memberAt r i 4 1 * 2 ^ 16 + leAt r 16 2 * 2 ^ 24 + n % 2 ^ 16 * 2 ^ 40 = x
  have told : ∃ q ∈ (w.raise 0xD005 0xFF systemSteward (leAt r 4 4) x).ev.arisen, q.code = 0xD005 ∧ q.object = BitVec.ofNat 32 (leAt r 4 4) := ⟨_, mem_insertEvent_self _ _, rfl, rfl⟩
  have reg' (a : Nat) : (w.raise 0xD005 0xFF systemSteward (leAt r 4 4) x).reg a = w.reg a := Dev.raise_reg ..
  have memb' : (w.raise 0xD005 0xFF systemSteward (leAt r 4 4) x).memb = w.memb := Dev.raise_memb ..
  have mem' : (w.raise 0xD005 0xFF systemSteward (leAt r 4 4) x).mem = w.mem := Dev.raise_mem ..
  have canon' := canon.raise (code := 0xD005) (slice := 0xFF) (unit := systemSteward) (object := leAt r 4 4) (detail := x)
  generalize w.raise 0xD005 0xFF systemSteward (leAt r 4 4) x = z at *
  have shown (a : Nat) (ha : a ≠ Reg.MEMB_PEER_STATE) : z.membShow.reg a = u.reg a := (Dev.membShow_quiet.regs canon' a ha).trans ((reg' a).trans (reg a))
  have same (a : Nat) (ha : ¬ (a = Reg.MEMB_HB ∨ a = Reg.MEMB_STATUS)) (ha' : a ≠ Reg.MEMB_PEER_STATE) : z.membShow.reg a = d.reg a := (shown a ha').trans (quiet.regs hd a ha)
  have memb : z.membShow.memb = w.memb := Dev.membShow_quiet.memb.trans memb'
  have unchanged : u.memb = d.memb := quiet.memb
  exact ⟨congrArg (fieldOf _) (same _ (by decide) (by decide)), same _ (by decide) (by decide), (congrArg (fieldOf _) (shown _ (by decide))).trans state,
    (congrArg MembState.record memb).trans record, (congrArg MembState.staged memb).trans (staged.trans (congrArg MembState.staged unchanged)),
    Dev.membShow_quiet.mem.trans (mem'.trans (mem.trans quiet.mem)), by rwa [Dev.membShow_ev]⟩

theorem Reg.aliasReg_above {a : Nat} (h : a < 0x258000) : ¬ Reg.aliasReg a := fun ⟨j, _, hj⟩ => by
  unfold Reg.BRAID_ALIAS at hj
  omega

theorem Dev.installEpoch_facts {r : Bytes} {i : Nat} (hd : d.canon) (hp : ∀ j < leAt r 16 2, memberAt r j 2 2 ≤ 4095 ∨ memberAt r j 2 2 = 0xFFFF) : let e := d.installEpoch r i
    e.membEpoch = leAt r 4 4 ∧ e.reg Reg.MEMB_INSTALLED = BitVec.ofNat 64 (leAt r 8 8) ∧ e.membState = (memberAt r i 4 1 + 1) % 8 ∧ e.memb.record = r ∧
      e.memb.staged = d.memb.staged ∧ (d.braid.ops = [] → e.mem = d.mem) ∧ ∃ x ∈ e.ev.arisen, x.code = 0xD005 ∧ x.object = BitVec.ofNat 32 (leAt r 4 4) := by
  rw [Dev.installEpoch_eq]
  obtain ⟨canon, epoch, installed, staged, mem⟩ := Dev.epochEntered_facts (r := r) hd
  generalize d.epochEntered r = u at *
  have quiet := installAliases_quiet (d := u) hp
  generalize u.installAliases r = y at *
  obtain ⟨epoch', installed', state, record, staged', mem', told⟩ := Dev.memberIn_facts (r := r) (i := i) (n := y.2) (quiet.keeps canon)
  have unchanged : y.1.memb = u.memb := quiet.memb
  have low {a : Nat} (h : a < 0x258000) : y.1.reg a = u.reg a := quiet.regs canon a (Reg.aliasReg_above h)
  have epochKept : y.1.membEpoch = u.membEpoch := congrArg (fieldOf F.MEMB_EPOCH_EPOCH) (low (by decide : Reg.MEMB_EPOCH < 0x258000))
  refine ⟨epoch'.trans (epochKept.trans epoch), installed'.trans ((low (by decide)).trans installed), state, record, ?_, fun h => mem'.trans (quiet.mem.trans (mem h)), told⟩
  exact staged'.trans ((congrArg MembState.staged unchanged).trans staged)

theorem epochInstall_installs {i : Nat} (hd : d.canon) (hr : d.memb.staged ≠ []) (ht : leAt d.memb.staged 8 8 ≤ d.tickNo) (hc : d.memb.counted = true)
    (hm : memberOf d.memb.staged d.braidNode = some i) (hf : d.memb.force = true ∨ d.joined = true)
    (hp : ∀ j < leAt d.memb.staged 16 2, memberAt d.memb.staged j 2 2 ≤ 4095 ∨ memberAt d.memb.staged j 2 2 = 0xFFFF) : let e := epochInstallEffect d
    e.membEpoch = leAt d.memb.staged 4 4 ∧ e.reg Reg.MEMB_INSTALLED = BitVec.ofNat 64 (leAt d.memb.staged 8 8) ∧ e.membState = (memberAt d.memb.staged i 4 1 + 1) % 8 ∧
      e.memb.record = d.memb.staged ∧ e.memb.staged = [] ∧ (d.braid.ops = [] → e.mem = d.mem) ∧
      ∃ x ∈ e.ev.arisen, x.code = 0xD005 ∧ x.object = BitVec.ofNat 32 (leAt d.memb.staged 4 4) := by
  obtain ⟨memb, -, regs, mem, -, state⟩ := Dev.unstage_facts hd
  have node : d.unstage.braidNode = d.braidNode := congrArg (fieldOf _) (regs _ (by decide))
  have joined : d.unstage.joined = d.joined := by rw [Dev.joined, Dev.joined, state]
  have installs : epochInstallEffect d = d.unstage.installEpoch d.memb.staged i := by
    rw [epochInstall_due hr ht, Dev.epochDue, hc, node, hm]
    refine (if_neg (by decide)).trans (if_neg ?_)
    rw [joined, Bool.and_eq_true, Bool.not_eq_true', Bool.not_eq_true']
    exact fun ⟨h1, h2⟩ => hf.elim (fun h => absurd h (by rw [h1]; decide)) fun h => absurd h (by rw [h2]; decide)
  have braid : d.unstage.braid = d.braid := Dev.setB_braid ..
  rw [installs]
  have canon := hd.unstage
  generalize d.unstage = u at *
  obtain ⟨epoch, installed, state, record, staged, mem', told⟩ := Dev.installEpoch_facts (r := d.memb.staged) (i := i) canon hp
  exact ⟨epoch, installed, state, record, staged.trans (congrArg MembState.staged memb :), fun h => (mem' (by rw [braid, h])).trans mem, told⟩

/-! ## Collectives -/

theorem collectiveDeclare_stays {i id : Nat} {l : Bytes} {how : FetchEnd}
    (h : m ≠ hostDriver ∨ how = .error ∨ (how = .ok ∧ l.length ≠ 2 * d.getF (Reg.MEMB_COLL_N i) F.MEMB_COLL_N_N)) : collectiveDeclareEffect m i id l how d = d := by
  unfold collectiveDeclareEffect
  by_cases hm : m = hostDriver
  · rcases h with h | rfl | ⟨rfl, h⟩
    · exact absurd hm h
    · rw [if_neg (by rw [hm]; decide), if_pos (by rfl)]
      rfl
    · rw [if_neg (by rw [hm]; decide), if_pos (by rw [Bool.or_eq_true, bne_iff_ne, bne_iff_ne]; exact .inr h)]
      rfl
  · rw [if_pos (bne_iff_ne.2 hm)]

theorem collectiveDeclare_faults {i id : Nat} {l : Bytes} : collectiveDeclareEffect hostDriver i id l .translation d =
    d.atsFault none (d.getF (Reg.MEMB_COLL_LIST i) F.MEMB_COLL_LIST_ADDR * 64) := by
  unfold collectiveDeclareEffect
  dsimp only
  rw [if_neg (by decide), if_pos (by rfl)]
  rfl

/-- A collective with its nodes and no trigger. -/
def Dev.collHeld (d : Dev) (i : Nat) (ns : List Nat) : Dev := d.modMemb fun x => { x with colls := store ⟨[], []⟩ x.colls i ⟨ns, []⟩ }
theorem Dev.collHeld_parts {i : Nat} {ns : List Nat} : (d.collHeld i ns).memb.colls = store ⟨[], []⟩ d.memb.colls i ⟨ns, []⟩ ∧ (d.collHeld i ns).regs = d.regs ∧
    (d.collHeld i ns).mem = d.mem ∧ (d.collHeld i ns).ev = d.ev := ⟨rfl, rfl, rfl, rfl⟩

theorem collectiveDeclare_declares {i id : Nat} {l : Bytes} (hl : l.length = 2 * d.getF (Reg.MEMB_COLL_N i) F.MEMB_COLL_N_N) : collectiveDeclareEffect hostDriver i id l .ok d =
    (d.setFs (Reg.MEMB_COLL i) [(F.MEMB_COLL_EN, 1), (F.MEMB_COLL_COLL_ID, id)]).collHeld i ((List.range (d.getF (Reg.MEMB_COLL_N i) F.MEMB_COLL_N_N)).map fun j => leAt l (2 * j) 2) := by
  unfold collectiveDeclareEffect
  dsimp only
  rw [if_neg (by decide), if_neg (by rw [Bool.or_eq_true, bne_iff_ne, bne_iff_ne]; exact fun h => h.elim (fun h => h rfl) fun h => h hl), Dev.collHeld]

theorem collectiveDeclare_facts {i id : Nat} {l : Bytes} (hd : d.canon) (hi : i < 64) (hid : id < 2 ^ 32) (hl : l.length = 2 * d.getF (Reg.MEMB_COLL_N i) F.MEMB_COLL_N_N) :
    let e := collectiveDeclareEffect hostDriver i id l .ok d
    e.collective i = true ∧ e.getF (Reg.MEMB_COLL i) F.MEMB_COLL_COLL_ID = id ∧
      e.memb.colls = store ⟨[], []⟩ d.memb.colls i ⟨(List.range (d.getF (Reg.MEMB_COLL_N i) F.MEMB_COLL_N_N)).map fun j => leAt l (2 * j) 2, []⟩ ∧
      d.sameRegs e (· = Reg.MEMB_COLL i) ∧ e.mem = d.mem ∧ e.ev = d.ev := by
  have en : (d.setFs (Reg.MEMB_COLL i) [(F.MEMB_COLL_EN, 1), (F.MEMB_COLL_COLL_ID, id)]).getF (Reg.MEMB_COLL i) F.MEMB_COLL_EN = 1 := Dev.getF_setFs_mid (pre := []) hd (by rfl) (by rfl)
  have named : (d.setFs (Reg.MEMB_COLL i) [(F.MEMB_COLL_EN, 1), (F.MEMB_COLL_COLL_ID, id)]).getF (Reg.MEMB_COLL i) F.MEMB_COLL_COLL_ID = id :=
    (Dev.getF_setFs_mid (pre := [_]) hd (by rfl) (by rfl)).trans (Nat.mod_eq_of_lt hid)
  have quiet : Dev.Quiet (· = Reg.MEMB_COLL i) d (d.setFs (Reg.MEMB_COLL i) [(F.MEMB_COLL_EN, 1), (F.MEMB_COLL_COLL_ID, id)]) := Dev.Quiet.refl.setFs rfl
  have ev : (d.setFs (Reg.MEMB_COLL i) [(F.MEMB_COLL_EN, 1), (F.MEMB_COLL_COLL_ID, id)]).ev = d.ev := Dev.setFs_ev ..
  rw [collectiveDeclare_declares hl]
  generalize (List.range (d.getF (Reg.MEMB_COLL_N i) F.MEMB_COLL_N_N)).map (fun j => leAt l (2 * j) 2) = ns
  generalize d.setFs (Reg.MEMB_COLL i) [(F.MEMB_COLL_EN, 1), (F.MEMB_COLL_COLL_ID, id)] = u at *
  have memb : u.memb = d.memb := quiet.memb
  obtain ⟨colls, regs, mem, ev'⟩ := Dev.collHeld_parts (d := u) (i := i) (ns := ns)
  refine ⟨?_, (Dev.getF_of regs ..).trans named, colls.trans (by rw [memb]), fun a ha => (congrFun (Dev.reg_of regs) a).trans (quiet.regs hd a ha), mem.trans quiet.mem, ev'.trans ev⟩
  rw [Dev.collective, Dev.getB_of regs, Bool.and_eq_true]
  exact ⟨decide_eq_true hi, beq_iff_eq.2 en⟩

theorem Dev.triggerHere_stays {i k : Nat} (h : d.collective i = false) : d.triggerHere i k = d := if_pos (by rw [h]; decide)
theorem Dev.triggerHere_abort {i : Nat} (h : d.collective i = true) : let e := d.triggerHere i 5
    let c := look ⟨[], []⟩ d.memb.colls i
    e.regs = d.regs ∧ e.mem = d.mem ∧ e.memb.colls = store ⟨[], []⟩ d.memb.colls i { c with triggers := c.triggers ++ [(5, d.tickNo, d.braidNode)] } ∧
      e.memb.notices = d.memb.notices ++ (c.nodes.filter (· != d.braidNode)).map fun k => (k, d.getF (Reg.MEMB_COLL i) F.MEMB_COLL_COLL_ID, d.tickNo, 5) := by
  rw [Dev.triggerHere, Dev.trigger, if_neg (by rw [h]; decide)]
  exact ⟨rfl, rfl, rfl, rfl⟩

/-! ## Abort notices -/

theorem abortNoticeArrive_none (h : d.takeMemb 1 = none) : abortNoticeArriveEffect d = d := by
  unfold abortNoticeArriveEffect
  rw [h]

/-- A notice of this epoch, for the collective slice that its COLL_ID names. -/
def Dev.noticeTaken (d : Dev) (p : Bytes) : Option Nat → Dev
  | some i =>
    if (look ⟨[], []⟩ d.memb.colls i).nodes.contains (leAt p 28 2) then d.trigger i 6 (leAt p 20 8) (leAt p 30 2)
    else d.count Reg.MEMB_NOTICE_IGNORED F.MEMB_NOTICE_IGNORED_COUNT 1
  | none => d.count Reg.MEMB_NOTICE_IGNORED F.MEMB_NOTICE_IGNORED_COUNT 1

theorem abortNoticeArrive_some {p : Bytes} {u : Dev} (h : d.takeMemb 1 = some (p, u)) : abortNoticeArriveEffect d =
    if u.stale p then u.braidCount Reg.BRAID_STALE_DROP 1 else u.noticeTaken p (u.collById (leAt p 40 4)) := by
  unfold abortNoticeArriveEffect
  rw [h]
  dsimp only
  simp only [leAt_drop]
  generalize u.collById (leAt p (16 + 24) 4) = c
  cases c with
  | none => rfl
  | some i => rfl

theorem Dev.collective_of (h : e.regs = d.regs) (i : Nat) : e.collective i = d.collective i := by rw [Dev.collective, Dev.collective, Dev.getB_of h]
theorem Dev.collById_of (h : e.regs = d.regs) (id : Nat) : e.collById id = d.collById id := by
  simp only [Dev.collById, Dev.collective_of h, Dev.getF_of h]

theorem abortNoticeArrive_facts {p : Bytes} {u : Dev} (h : d.takeMemb 1 = some (p, u)) :
    (d.stale p = true → abortNoticeArriveEffect d = u.braidCount Reg.BRAID_STALE_DROP 1) ∧
    (∀ i, d.stale p = false → d.collById (leAt p 40 4) = some i → leAt p 28 2 ∈ (look ⟨[], []⟩ d.memb.colls i).nodes →
      abortNoticeArriveEffect d = u.trigger i 6 (leAt p 20 8) (leAt p 30 2)) ∧
    (d.stale p = false → (∀ i, d.collById (leAt p 40 4) = some i → leAt p 28 2 ∉ (look ⟨[], []⟩ d.memb.colls i).nodes) →
      abortNoticeArriveEffect d = u.count Reg.MEMB_NOTICE_IGNORED F.MEMB_NOTICE_IGNORED_COUNT 1) := by
  obtain ⟨regs, memb, -, -, -⟩ := Dev.takeMemb_some h
  have stale : u.stale p = d.stale p := by rw [Dev.stale, Dev.stale, Dev.getF_of regs]
  rw [abortNoticeArrive_some h, stale, Dev.collById_of regs]
  refine ⟨fun hs => if_pos hs, fun i hs hi hn => ?_, fun hs hno => ?_⟩
  · rw [if_neg (Bool.eq_false_iff.1 hs), hi, Dev.noticeTaken, memb, if_pos (List.contains_iff_mem.2 hn)]
  · rw [if_neg (Bool.eq_false_iff.1 hs)]
    cases hc : d.collById (leAt p 40 4) with
    | none => rfl
    | some i => rw [Dev.noticeTaken, memb, if_neg (mt List.contains_iff_mem.1 (hno i hc))]

/-- The body and the packet of an abort notice. -/
def Dev.noticeBody (d : Dev) (n : Nat × Nat × Nat × Nat) : Bytes :=
  leBytes 4 d.membEpoch ++ leBytes 8 n.2.2.1 ++ leBytes 2 d.braidNode ++ leBytes 2 d.braidNode ++ leBytes 1 n.2.2.2 ++ leBytes 4 0 ++ leBytes 1 1 ++ leBytes 2 0 ++ leBytes 4 n.2.1
def Dev.noticePacket (d : Dev) (n : Nat × Nat × Nat × Nat) : Bytes := leBytes 16 (d.hdrBase 12 n.1) ++ bytesAt (d.noticeBody n) 0 64

theorem bytesAt_padded {b : Bytes} (h : b.length ≤ n) : bytesAt b 0 n = b ++ List.replicate (n - b.length) 0#8 := by
  rw [bytesAt, List.drop_zero, List.take_of_length_le h]

theorem Dev.noticePacket_fields {x : Nat × Nat × Nat × Nat} : let p := d.noticePacket x
    p.length = 80 ∧ leAt p 16 4 = d.membEpoch ∧ leAt p 20 8 = x.2.2.1 % 2 ^ 64 ∧ leAt p 32 1 = x.2.2.2 % 2 ^ 8 ∧ leAt p 37 1 = 1 ∧ leAt p 40 4 = x.2.1 % 2 ^ 32 := by
  have short : (d.noticeBody x).length = 28 := by
    unfold Dev.noticeBody
    simp only [List.length_append, leBytes_length]
  have epoch : d.membEpoch % 2 ^ 32 = d.membEpoch := Nat.mod_eq_of_lt (Dev.getF_lt ..)
  have byte : (256 : Nat) ^ 1 = 2 ^ 8 := by decide
  have word : (256 : Nat) ^ 4 = 2 ^ 32 := by decide
  have long : (256 : Nat) ^ 8 = 2 ^ 64 := by decide
  have one : 1 % 2 ^ 8 = 1 := by decide
  unfold Dev.noticePacket
  refine ⟨by rw [List.length_append, leBytes_length, bytesAt_length], ?_⟩
  rw [bytesAt_padded (by omega)]
  unfold Dev.noticeBody
  simp only [List.append_assoc, leAt_here, leAt_behind, Nat.reduceLeDiff, Nat.reduceSub, Nat.le_refl, Nat.sub_self, long, byte, one, word, epoch, and_true]

theorem Dev.noticePacket_of (h : e.regs = d.regs) (x : Nat × Nat × Nat × Nat) : e.noticePacket x = d.noticePacket x := by
  simp only [Dev.noticePacket, Dev.noticeBody, Dev.hdrBase_of h, Dev.membEpoch, Dev.braidNode, Dev.getF_of h]

theorem Dev.noticesSent_facts {l : List (Nat × Nat × Nat × Nat)} : let e := l.foldl (fun (d : Dev) n => d.membSend n.1 (d.noticeBody n)) d
    e.memb = d.memb ∧ e.regs = d.regs ∧ e.mem = d.mem ∧ e.ev = d.ev ∧ e.braid.outbox = d.braid.outbox ++ l.map d.noticePacket := by
  induction l generalizing d with
  | nil => exact ⟨rfl, rfl, rfl, rfl, (List.append_nil _).symm⟩
  | cons n r ih =>
    obtain ⟨memb, regs, mem, ev, outbox⟩ := ih (d := d.membSend n.1 (d.noticeBody n))
    have same : (d.membSend n.1 (d.noticeBody n)).noticePacket = d.noticePacket := funext (Dev.noticePacket_of rfl)
    refine ⟨memb, regs, mem, ev, outbox.trans ?_⟩
    rw [same]
    simp only [Dev.membSend, Dev.braidOut_braid, List.map_cons, List.append_assoc, List.singleton_append]
    rfl

theorem abortNoticeSend_facts : let e := abortNoticeSendEffect d
    e.memb = { d.memb with notices := [] } ∧ e.regs = d.regs ∧ e.mem = d.mem ∧ e.ev = d.ev ∧ e.braid.outbox = d.braid.outbox ++ d.memb.notices.map d.noticePacket := by
  have empties : (d.modMemb fun x => { x with notices := [] }).memb = { d.memb with notices := [] } ∧ (d.modMemb fun x => { x with notices := [] }).regs = d.regs ∧
      (d.modMemb fun x => { x with notices := [] }).mem = d.mem ∧ (d.modMemb fun x => { x with notices := [] }).ev = d.ev ∧
      (d.modMemb fun x => { x with notices := [] }).braid = d.braid := ⟨rfl, rfl, rfl, rfl, rfl⟩
  have sends : abortNoticeSendEffect d = d.memb.notices.foldl (fun (d : Dev) n => d.membSend n.1 (d.noticeBody n)) (d.modMemb fun x => { x with notices := [] }) := rfl
  rw [sends]
  generalize d.modMemb (fun x => { x with notices := [] }) = u at *
  obtain ⟨memb, regs, mem, ev, braid⟩ := empties
  obtain ⟨memb', regs', mem', ev', outbox⟩ := Dev.noticesSent_facts (d := u) (l := d.memb.notices)
  exact ⟨memb'.trans memb, regs'.trans regs, mem'.trans mem, ev'.trans ev, outbox.trans (by rw [braid, funext (Dev.noticePacket_of regs)])⟩

theorem abortNoticeSend_packets : let e := abortNoticeSendEffect d
    e.memb = { d.memb with notices := [] } ∧ e.regs = d.regs ∧ e.mem = d.mem ∧ e.ev = d.ev ∧
      e.braid.outbox.length = d.braid.outbox.length + d.memb.notices.length ∧ ∀ n ∈ d.memb.notices, ∃ p ∈ e.braid.outbox,
        p.length = 80 ∧ leAt p 16 4 = d.membEpoch ∧ leAt p 20 8 = n.2.2.1 % 2 ^ 64 ∧ leAt p 32 1 = n.2.2.2 % 2 ^ 8 ∧ leAt p 37 1 = 1 ∧ leAt p 40 4 = n.2.1 % 2 ^ 32 := by
  obtain ⟨memb, regs, mem, ev, outbox⟩ := abortNoticeSend_facts (d := d)
  refine ⟨memb, regs, mem, ev, ?_, fun n hn => ⟨d.noticePacket n, ?_, Dev.noticePacket_fields⟩⟩
  · rw [outbox, List.length_append, List.length_map]
  · rw [outbox]
    exact List.mem_append_right _ (List.mem_map_of_mem hn)

/-! ## Shadowing -/

/-- Shadowing is set afresh, before its result. -/
def Dev.shadowFresh (d : Dev) (v : Word) : Dev := (d.rwWrite Reg.MEMB_SHADOW v).setReg Reg.MEMB_SHADOW_COMPARED 0#64
/-- The chain of comparisons begins again. -/
def Dev.chainFresh (d : Dev) : Dev := d.modMemb fun x => { x with chain := [], count := 0, hist := [], since := d.tickNo, lastCmp := 0 }

theorem Dev.shadowFresh_quiet {v : Word} : Dev.Quiet (fun a => a = Reg.MEMB_SHADOW ∨ a = Reg.MEMB_SHADOW_COMPARED) d (d.shadowFresh v) :=
  (Dev.Quiet.refl.setReg (.inl rfl)).setReg (.inr rfl)
theorem Dev.chainFresh_parts : (d.canon → d.chainFresh.canon) ∧ d.chainFresh.memb = { d.memb with chain := [], count := 0, hist := [], since := d.tickNo, lastCmp := 0 } ∧
    d.chainFresh.regs = d.regs ∧ d.chainFresh.mem = d.mem ∧ d.chainFresh.ev = d.ev := ⟨Dev.canon.modMemb, rfl, rfl, rfl, rfl⟩

theorem shadowSet_facts {v : Word} (hd : d.canon) : let e := shadowSetEffect hostDriver v d
    e.memb = { d.memb with chain := [], count := 0, hist := [], since := d.tickNo, lastCmp := 0 } ∧
      e.reg Reg.MEMB_SHADOW_COMPARED = 0#64 ∧ e.getF Reg.MEMB_SHADOW_STATUS F.MEMB_SHADOW_STATUS_RESULT = (if e.shadowOn then 1 else 0) ∧
      e.getF Reg.MEMB_SHADOW_STATUS F.MEMB_SHADOW_STATUS_MIN_COMPARE = d.getF Reg.MEMB_SHADOW_STATUS F.MEMB_SHADOW_STATUS_MIN_COMPARE ∧ e.mem = d.mem ∧ e.ev = d.ev ∧
      d.sameRegs e fun a => a = Reg.MEMB_SHADOW ∨ a = Reg.MEMB_SHADOW_COMPARED ∨ a = Reg.MEMB_SHADOW_STATUS := by
  have shows : shadowSetEffect hostDriver v d = (d.shadowFresh v).chainFresh.setF Reg.MEMB_SHADOW_STATUS F.MEMB_SHADOW_STATUS_RESULT (if (d.shadowFresh v).chainFresh.shadowOn then 1 else 0) := rfl
  rw [shows]
  have quiet := d.shadowFresh_quiet (v := v)
  have compared : (d.shadowFresh v).reg Reg.MEMB_SHADOW_COMPARED = 0#64 := Dev.reg_setReg_self _ _ hd.setReg
  have ev : (d.shadowFresh v).ev = d.ev := (Dev.setReg_ev ..).trans (Dev.setReg_ev ..)
  generalize d.shadowFresh v = u at *
  have tick : u.tickNo = d.tickNo := Dev.tickNo_of quiet.now (quiet.regs hd _ (by decide))
  obtain ⟨keeps, memb, regs, mem, ev'⟩ := Dev.chainFresh_parts (d := u)
  have canon := keeps (quiet.keeps hd)
  have reg := congrFun (Dev.reg_of regs)
  generalize u.chainFresh = w at *
  have other (a : Nat) (ha : a ≠ Reg.MEMB_SHADOW_STATUS) (x : Nat) : (w.setF Reg.MEMB_SHADOW_STATUS F.MEMB_SHADOW_STATUS_RESULT x).reg a = u.reg a :=
    (Dev.reg_setReg_ne _ canon (Ne.symm ha)).trans (reg a)
  have on (x : Nat) : (w.setF Reg.MEMB_SHADOW_STATUS F.MEMB_SHADOW_STATUS_RESULT x).shadowOn = w.shadowOn :=
    congrArg (fun v => fieldOf F.MEMB_SHADOW_EN v == 1) (Dev.reg_setReg_ne _ canon (by decide))
  dsimp only
  rw [Dev.setF_memb, Dev.setF_mem, Dev.setF_ev, on, memb, quiet.memb, tick, mem, ev', ev]
  refine ⟨rfl, (other _ (by decide) _).trans compared, Dev.getF_setF_lt canon (by split <;> decide), ?_, quiet.mem, rfl, fun a ha => ?_⟩
  · exact (Dev.getF_setF_other canon).trans ((Dev.getF_of regs _ _).trans (congrArg (fieldOf _) (quiet.regs hd Reg.MEMB_SHADOW_STATUS (by decide))))
  · rw [not_or, not_or] at ha
    obtain ⟨h1, h2, h3⟩ := ha
    exact (other a h3 _).trans (quiet.regs hd a (not_or.2 ⟨h1, h2⟩))

/-- Time and comparisons suffice for a shadow to qualify. -/
def Dev.shadowProven (d : Dev) : Prop :=
  d.getF Reg.MEMB_SHADOW_STATUS F.MEMB_SHADOW_STATUS_RESULT = 1 ∧ d.memb.since + d.getF Reg.MEMB_SHADOW F.MEMB_SHADOW_QUAL_TICKS ≤ d.tickNo ∧
    d.getF Reg.MEMB_SHADOW_STATUS F.MEMB_SHADOW_STATUS_MIN_COMPARE ≤ d.getF Reg.MEMB_SHADOW_COMPARED F.MEMB_SHADOW_COMPARED_COUNT

theorem shadowQualify_cond : (d.getF Reg.MEMB_SHADOW_STATUS F.MEMB_SHADOW_STATUS_RESULT != 1 || decide (d.tickNo < d.memb.since + d.getF Reg.MEMB_SHADOW F.MEMB_SHADOW_QUAL_TICKS) ||
    decide (d.getF Reg.MEMB_SHADOW_COMPARED F.MEMB_SHADOW_COMPARED_COUNT < d.getF Reg.MEMB_SHADOW_STATUS F.MEMB_SHADOW_STATUS_MIN_COMPARE)) = true ↔ ¬ d.shadowProven := by
  rw [Bool.or_eq_true, Bool.or_eq_true, bne_iff_ne, decide_eq_true_eq, decide_eq_true_eq, Dev.shadowProven, not_and_or, not_and_or, Nat.not_le, Nat.not_le, or_assoc]

theorem shadowQualify_stays (h : ¬ d.shadowProven) : shadowQualifyEffect d = d := if_pos (shadowQualify_cond.2 h)
theorem shadowQualify_facts (hd : d.canon) (h : d.shadowProven) : let e := shadowQualifyEffect d
    e.getF Reg.MEMB_SHADOW_STATUS F.MEMB_SHADOW_STATUS_RESULT = 2 ∧ d.sameRegs e (· = Reg.MEMB_SHADOW_STATUS) ∧ e.mem = d.mem ∧ e.memb = d.memb ∧
      d.raised e fun r => r.code = 0xD008 ∧ r.object = BitVec.ofNat 32 d.otherSide := by
  have acts : shadowQualifyEffect d = (d.setF Reg.MEMB_SHADOW_STATUS F.MEMB_SHADOW_STATUS_RESULT 2).raise 0xD008 0xFF systemSteward d.otherSide (d.memb.lastCmp % 2 ^ 48 * 2 ^ 8) :=
    if_neg (mt shadowQualify_cond.1 (not_not.2 h))
  have quiet : Dev.Quiet (· = Reg.MEMB_SHADOW_STATUS) d (shadowQualifyEffect d) := by
    rw [acts]
    exact (Dev.Quiet.refl.setF (p := (· = Reg.MEMB_SHADOW_STATUS)) rfl).raise
  refine ⟨?_, quiet.regs hd, quiet.mem, quiet.memb, ?_⟩
  · rw [acts, Dev.raise_getF]
    exact Dev.getF_setF_lt hd (by decide)
  · rw [acts]
    exact Dev.raise_raised (Dev.setF_ev ..) ⟨rfl, rfl⟩

/-- Settles O51: records, collectives and shadowing by the host driver's commands, the packets taken and the ticks passed. -/
theorem epochRecordsCollectivesAndShadowing : Obligations.EpochRecordsCollectivesAndShadowing := by
  unfold Obligations.EpochRecordsCollectivesAndShadowing
  refine ⟨⟨fun m s hs hd => ⟨fun hm => ?_, fun hm => ?_⟩, fun r how s hs hd => ⟨fun h => runs_ran rfl hs (epochRecordCheck_none h), fun f h hh hc => ?_, fun f n h hc => ?_⟩,
    fun s hs hd => ⟨fun h => runs_ran rfl hs (epochInstall_stays h), fun hr ht hc => runs_ran rfl hs (epochInstall_late hd hr ht hc),
      fun i hr ht hc hm hf hp => runs_ran rfl hs (epochInstall_installs hd hr ht hc hm hf hp), fun hr ht hc hm => runs_ran rfl hs (epochInstall_fences hd hr ht hc hm)⟩⟩,
    fun m i id l how s hs hd => ⟨fun h => runs_ranFrom rfl hs (collectiveDeclare_stays h), fun hm hh => ?_, fun hm hh hl => ?_, fun hm hc => ?_, fun h => ?_⟩,
    fun s hs h => runs_ran rfl hs (abortNoticeArrive_none h), fun s p u hs h => ?_, fun s hs => runs_ran rfl hs abortNoticeSend_packets,
    fun m v s hs hd => ⟨fun hm => runs_ranFrom rfl hs (if_pos (bne_iff_ne.2 hm)), fun hm => ?_⟩,
    fun s hs hd => ⟨fun h => runs_ran rfl hs (shadowQualify_stays h), fun h => runs_ran rfl hs (shadowQualify_facts hd h)⟩⟩
  · exact ⟨runs_ranFrom rfl hs (if_pos (bne_iff_ne.2 hm)), runs_ranFrom rfl hs (if_pos (bne_iff_ne.2 hm)), runs_ranFrom rfl hs (if_pos (bne_iff_ne.2 hm))⟩
  · subst hm
    obtain ⟨memb, shown, regs, mem, -, -⟩ := Dev.unstage_facts hd
    exact ⟨runs_ranFrom rfl hs rfl, runs_ranFrom rfl hs rfl, runs_ranFrom rfl hs ⟨memb, shown, regs, mem⟩⟩
  · subst hh
    exact runs_ran rfl hs (epochRecordCheck_passes hd h hc)
  · exact runs_ran rfl hs (epochRecordCheck_fails hd h hc)
  · subst hm hh
    exact runs_ranFrom rfl hs collectiveDeclare_faults
  · subst hm hh
    exact runs_ranFrom rfl hs (collectiveDeclare_facts hd i.isLt id.isLt hl)
  · subst hm
    exact runs_ranFrom rfl hs (Dev.triggerHere_abort hc)
  · refine runs_ranFrom rfl hs ?_
    by_cases hm : m = hostDriver
    · subst hm
      exact Dev.triggerHere_stays (h.resolve_left fun h => h rfl)
    · exact if_pos (bne_iff_ne.2 hm)
  · obtain ⟨stale, taken, ignored⟩ := abortNoticeArrive_facts h
    exact ⟨fun hs' => runs_ran rfl hs (stale hs'), fun i hs' hi hn => runs_ran rfl hs (taken i hs' hi hn), fun hs' hno => runs_ran rfl hs (ignored hs' hno)⟩
  · subst hm
    exact runs_ranFrom rfl hs (shadowSet_facts hd)

end Sys2Proof.Machine
end

section
/-! SUPPORT. Host attachment (R482, R483, R485, R486, R491 to R493, R516). -/
namespace Sys2Proof.Machine

-- One proof after another: with many at once their threads' stacks exceed the memory that the check allows.
set_option Elab.async false

variable {d e : Dev} {n a : Nat} {f g : Fld} {m : Master} {s : State}

theorem Dev.getF_setFs_apart {l : List (Fld × Nat)} (hd : d.canon) (hl : (l.all fun p => p.1.clearOf g) = true) : (d.setFs a l).getF a g = d.getF a g := by
  rw [List.all_eq_true] at hl
  rw [Dev.getF, Dev.reg_setFs_self _ _ hd, fieldOf_putFields_apart _ _ fun p hm => Fld.clearOf_iff.1 (hl p hm), Dev.getF]

/-! ## The link -/

/-- A link of `e` shows the width, rate and flits of a training, the rest of `d` as it was. -/
structure Dev.LinkShown (d e : Dev) (width : Nat) (fast lopt : Bool) : Prop where
  width : e.getF Reg.CXL_LINK F.CXL_LINK_WIDTH = width % 32
  rate : e.getF Reg.CXL_LINK F.CXL_LINK_RATE = if fast then 2 else 1
  lopt : e.getB Reg.CXL_LINK F.CXL_LINK_LOPT = lopt
  regs : d.sameRegs e (· = Reg.CXL_LINK)
  mem : e.mem = d.mem

variable {width : Nat} {fast lopt : Bool}

theorem Dev.setLink_shows (hd : d.canon) : Dev.LinkShown d (d.setLink width fast lopt) width fast lopt where
  width := Dev.getF_setFs_mid (pre := []) hd (by rfl) (by rfl)
  rate := by
    have rate : (d.setLink width fast lopt).getF Reg.CXL_LINK F.CXL_LINK_RATE = (if fast then 2 else 1) % 4 := Dev.getF_setFs_mid (pre := [_]) hd (by rfl) (by rfl)
    rw [rate]
    cases fast <;> rfl
  lopt := by
    have flits : (d.setLink width fast lopt).getF Reg.CXL_LINK F.CXL_LINK_LOPT = (if lopt then 1 else 0) % 2 := Dev.getF_setFs_mid (pre := [_, _]) hd (by rfl) (by rfl)
    rw [Dev.getB, flits]
    cases lopt <;> rfl
  regs := fun a ha => Dev.reg_setFs_ne _ hd (Ne.symm ha)
  mem := Dev.setFs_mem ..

theorem Dev.setLink_proto (hd : d.canon) : (d.setLink width fast lopt).getF Reg.CXL_LINK F.CXL_LINK_PROTO = d.getF Reg.CXL_LINK F.CXL_LINK_PROTO :=
  Dev.getF_setFs_apart hd (by rfl)

theorem Dev.LinkShown.setProto {u : Dev} {p : Nat} (h : Dev.LinkShown d u width fast lopt) (hu : u.canon) :
    Dev.LinkShown d (u.setF Reg.CXL_LINK F.CXL_LINK_PROTO p) width fast lopt where
  width := (Dev.getF_setF_other hu).trans h.width
  rate := (Dev.getF_setF_other hu).trans h.rate
  lopt := (congrArg (· == 1) (Dev.getF_setF_other hu)).trans h.lopt
  regs := fun a ha => (Dev.reg_setReg_ne _ hu (Ne.symm ha)).trans (h.regs a ha)
  mem := (Dev.setF_mem ..).trans h.mem

theorem Dev.LinkShown.raise {u : Dev} {c k o x : Nat} {w : BitVec 16} (h : Dev.LinkShown d u width fast lopt) : Dev.LinkShown d (u.raise c k w o x) width fast lopt where
  width := (Dev.raise_getF ..).trans h.width
  rate := (Dev.raise_getF ..).trans h.rate
  lopt := (Dev.raise_getB ..).trans h.lopt
  regs := fun a ha => (Dev.raise_reg ..).trans (h.regs a ha)
  mem := (Dev.raise_mem ..).trans h.mem

theorem linkProto_eq {flit : Bool} {proto : BitVec 3} : linkProto flit proto.toNat = if flit = true ∧ proto = 7#3 then 7 else 1 := by
  have seven : proto.toNat = 7 ↔ proto = 7#3 := ⟨fun h => BitVec.eq_of_toNat_eq h, fun h => h ▸ rfl⟩
  simp only [linkProto, Bool.and_eq_true, beq_iff_eq, seven]

theorem cxlLinkTrained_facts {flit : Bool} {q : Nat} (hd : d.canon) : let p := linkProto flit q
    let e := cxlLinkTrainedEffect width fast lopt flit q d
    Dev.LinkShown d e width fast lopt ∧ e.getF Reg.CXL_LINK F.CXL_LINK_PROTO = p ∧ (p = 7 → e.ev = d.ev) ∧ (p = 1 → d.raised e fun r => r.code = 0xE0C2 ∧ r.object = 1#32) := by
  have canon : (d.setLink width fast lopt).canon := hd.setFs
  have shows := Dev.setLink_shows (width := width) (fast := fast) (lopt := lopt) hd
  have ev : (d.setLink width fast lopt).ev = d.ev := Dev.setFs_ev ..
  have acts : cxlLinkTrainedEffect width fast lopt flit q d = if linkProto flit q == 7 then (d.setLink width fast lopt).setF Reg.CXL_LINK F.CXL_LINK_PROTO (linkProto flit q)
      else ((d.setLink width fast lopt).setF Reg.CXL_LINK F.CXL_LINK_PROTO (linkProto flit q)).raise 0xE0C2 0xFF cxlPort (linkProto flit q) 0 := rfl
  rw [acts]
  generalize d.setLink width fast lopt = u at *
  have either : linkProto flit q = 7 ∨ linkProto flit q = 1 := (ite_eq_or_eq ..)
  rcases either with h | h <;> rw [h]
  · exact ⟨shows.setProto canon, Dev.getF_setF_lt canon (by decide), fun _ => (Dev.setF_ev ..).trans ev, fun h => absurd h (by decide)⟩
  · exact ⟨(shows.setProto canon).raise, (Dev.raise_getF ..).trans (Dev.getF_setF_lt canon (by decide)), fun h => absurd h (by decide),
      fun _ => Dev.raise_raised ((Dev.setF_ev ..).trans ev) ⟨rfl, rfl⟩⟩

theorem cxlLinkDegraded_facts (hd : d.canon) (h : d.getF Reg.CXL_LINK F.CXL_LINK_PROTO ≠ 0) : let e := cxlLinkDegradedEffect width fast lopt d
    Dev.LinkShown d e width fast lopt ∧ e.getF Reg.CXL_LINK F.CXL_LINK_PROTO = d.getF Reg.CXL_LINK F.CXL_LINK_PROTO ∧
      d.raised e fun r => r.code = 0xE0C1 ∧ r.object = BitVec.ofNat 32 width := by
  have acts : cxlLinkDegradedEffect width fast lopt d = (d.setLink width fast lopt).raise 0xE0C1 0xFF cxlPort width ((d.setLink width fast lopt).getF Reg.CXL_LINK F.CXL_LINK_RATE) :=
    if_neg (mt beq_iff_eq.1 h)
  rw [acts]
  exact ⟨(Dev.setLink_shows hd).raise, (Dev.raise_getF ..).trans (Dev.setLink_proto hd), Dev.raise_raised (Dev.setFs_ev ..) ⟨rfl, rfl⟩⟩

/-! ## Translations and the HDM decoder -/

theorem atsInvalidation_done {p : Option Nat} (h : ∀ w ∈ d.hostWrites, d.uses w p a n = false) : atsInvalidationEffect p a n d = d.send .invalidationDone :=
  if_neg (by
    rw [List.any_eq_true]
    exact fun ⟨w, hw, hu⟩ => Bool.eq_false_iff.1 (h w hw) hu)
theorem atsInvalidation_waits {p : Option Nat} (h : ∃ w ∈ d.hostWrites, d.uses w p a n = true) : atsInvalidationEffect p a n d = d := if_pos (List.any_eq_true.2 h)

/-- HDM decoder 0 takes a commit. -/
def Dev.takesCommit (d : Dev) (base size : Nat) : Prop :=
  d.ideBlocked = false ∧ d.recovery = false ∧ d.getB Reg.CXL_HDM F.CXL_HDM_COMMITTED = false ∧ base % 2 ^ 28 = 0 ∧ size = dramSize

theorem hdmCommit_cond {base size : Nat} : (d.ideBlocked || d.recovery || d.getB Reg.CXL_HDM F.CXL_HDM_COMMITTED || base % 2 ^ 28 != 0 || size != dramSize) = true ↔
    ¬ d.takesCommit base size := by
  rw [Dev.takesCommit, ← Bool.not_eq_false, not_iff_not]
  simp only [Bool.or_eq_false_iff, bne_eq_false_iff_eq, and_assoc]

theorem Dev.hdmDecode_within {base x : Nat} (hc : d.getB Reg.CXL_HDM F.CXL_HDM_COMMITTED = true) (hb : d.getF Reg.CXL_HDM F.CXL_HDM_BASE * 2 ^ 28 = base) :
    d.hdmDecode x = if base ≤ x ∧ x < base + dramSize then some (x - base) else none := by
  rw [Dev.hdmDecode, hc, hb]
  simp only [Bool.true_and, Bool.and_eq_true, decide_eq_true_eq]

theorem hdmCommit_facts {base size : Nat} (hd : d.canon) (hb : base < 2 ^ 64) (h : d.takesCommit base size) : let e := hdmCommitEffect base size d
    e.getB Reg.CXL_HDM F.CXL_HDM_COMMITTED = true ∧ d.sameRegs e (· = Reg.CXL_HDM) ∧ e.mem = d.mem ∧ e.ev = d.ev ∧
      ∀ x, e.hdmDecode x = if base ≤ x ∧ x < base + dramSize then some (x - base) else none := by
  have acts : hdmCommitEffect base size d = d.setFs Reg.CXL_HDM [(F.CXL_HDM_COMMITTED, 1), (F.CXL_HDM_BASE, base / 2 ^ 28)] := if_neg (mt hdmCommit_cond.1 (not_not.2 h))
  have committed : (d.setFs Reg.CXL_HDM [(F.CXL_HDM_COMMITTED, 1), (F.CXL_HDM_BASE, base / 2 ^ 28)]).getF Reg.CXL_HDM F.CXL_HDM_COMMITTED = 1 :=
    Dev.getF_setFs_mid (pre := []) hd (by rfl) (by rfl)
  have based : (d.setFs Reg.CXL_HDM [(F.CXL_HDM_COMMITTED, 1), (F.CXL_HDM_BASE, base / 2 ^ 28)]).getF Reg.CXL_HDM F.CXL_HDM_BASE = base / 2 ^ 28 % 2 ^ 36 :=
    Dev.getF_setFs_mid (pre := [_]) hd (by rfl) (by rfl)
  obtain ⟨-, -, -, aligned, -⟩ := h
  rw [acts]
  have shown : (d.setFs Reg.CXL_HDM [(F.CXL_HDM_COMMITTED, 1), (F.CXL_HDM_BASE, base / 2 ^ 28)]).getB Reg.CXL_HDM F.CXL_HDM_COMMITTED = true := beq_iff_eq.2 committed
  refine ⟨shown, fun a ha => Dev.reg_setFs_ne _ hd (Ne.symm ha), Dev.setFs_mem .., Dev.setFs_ev .., fun x => Dev.hdmDecode_within shown ?_⟩
  rw [based]
  omega

/-! ## Vectors and the device ring -/

/-- BAR2 is served. -/
def Dev.bar2 (d : Dev) : Prop := d.ioOnly = false ∧ d.ideBlocked = false ∧ d.recovery = false

theorem msixUnmask_cond {v : Nat} : (d.ioOnly || d.ideBlocked || d.recovery || d.ev.unmasked.contains v) = true ↔ ¬ d.bar2 ∨ v ∈ d.ev.unmasked := by
  rw [Dev.bar2, ← List.contains_iff_mem]
  cases d.ioOnly <;> cases d.ideBlocked <;> cases d.recovery <;> simp

theorem msixUnmask_stays {v : Nat} (h : ¬ d.bar2 ∨ v ∈ d.ev.unmasked) : msixUnmaskEffect v d = d := if_pos (msixUnmask_cond.2 h)
theorem msixUnmask_facts {v : Nat} (hb : d.bar2) (hv : v ∉ d.ev.unmasked) : let e := msixUnmaskEffect v d
    e.ev = { d.ev with unmasked := d.ev.unmasked ++ [v], pendingBits := d.ev.pendingBits.filter (· != v) } ∧ e.regs = d.regs ∧
      (v ∈ d.ev.pendingBits → e.sent = d.sent ++ [.msix v]) ∧ (v ∉ d.ev.pendingBits → e.sent = d.sent) := by
  have acts : msixUnmaskEffect v d =
      if d.ev.pendingBits.contains v then ({ d with ev := { d.ev with unmasked := d.ev.unmasked ++ [v], pendingBits := d.ev.pendingBits.filter (· != v) } } : Dev).send (.msix v)
      else { d with ev := { d.ev with unmasked := d.ev.unmasked ++ [v], pendingBits := d.ev.pendingBits.filter (· != v) } } :=
    if_neg (mt msixUnmask_cond.1 (not_or.2 ⟨not_not.2 hb, hv⟩))
  rw [acts]
  by_cases h : v ∈ d.ev.pendingBits
  · rw [if_pos (List.contains_iff_mem.2 h)]
    exact ⟨rfl, rfl, fun _ => rfl, fun h' => absurd h h'⟩
  · rw [if_neg (mt List.contains_iff_mem.1 h)]
    exact ⟨rfl, rfl, fun h' => absurd h' h, fun _ => rfl⟩

/-- What records written to the device ring leave as it was. -/
structure Dev.RingKept (d e : Dev) : Prop where
  canon : e.canon
  boot : e.ev.boot = d.ev.boot
  arisen : e.ev.arisen = d.ev.arisen
  mem : e.mem = d.mem
  regs : d.sameRegs e fun a => a = Reg.DEVICE_EV_PTR ∨ a = Reg.DEVICE_EV_DISCARD

theorem Dev.ringDiscard_dev_kept (hd : d.canon) : Dev.RingKept d (d.ringDiscard devRing) := by
  have quiet : Dev.Quiet (fun a => a = Reg.DEVICE_EV_PTR ∨ a = Reg.DEVICE_EV_DISCARD) d (d.count Reg.DEVICE_EV_DISCARD F.SLICE_EV_DISCARD_COUNT 1) := Dev.Quiet.refl.count (.inr rfl)
  have ev : (d.count Reg.DEVICE_EV_DISCARD F.SLICE_EV_DISCARD_COUNT 1).ev = d.ev := Dev.count_ev ..
  change Dev.RingKept d (if (d.count Reg.DEVICE_EV_DISCARD F.SLICE_EV_DISCARD_COUNT 1).ev.lostRings.contains devRing then _ else _)
  generalize d.count Reg.DEVICE_EV_DISCARD F.SLICE_EV_DISCARD_COUNT 1 = u at *
  split
  · exact ⟨quiet.keeps hd, by rw [ev], by rw [ev], quiet.mem, quiet.regs hd⟩
  · exact ⟨(quiet.keeps hd).ev, by rw [ev], by rw [ev], quiet.mem, quiet.regs hd⟩

/-- A record written at the tail of the device ring. -/
def Dev.devRingPut (d : Dev) (r : EventRec) : Dev :=
  let tail := d.getF Reg.DEVICE_EV_PTR F.SLICE_EV_PTR_TAIL
  (d.hostWrite .event devRing (d.getF Reg.DEVICE_EV_RING F.SLICE_EV_RING_ADDR * 4096 + tail % 2 ^ d.getF Reg.DEVICE_EV_RING F.SLICE_EV_RING_LOG2 * 32)
    ({ r with lost := d.ev.lostRings.contains devRing } : EventRec).bytes).setF Reg.DEVICE_EV_PTR F.SLICE_EV_PTR_TAIL (tail + 1)
/-- A ring has rung, and lost nothing since. -/
def Dev.ringRung (d : Dev) (g : Nat) : Dev :=
  { d with ev := { d.ev with lostRings := d.ev.lostRings.filter (· != g), rung := if d.ev.rung.contains g then d.ev.rung else d.ev.rung ++ [g] } }

theorem Dev.ringWrite_dev {r : EventRec} : d.ringWrite devRing r =
    if d.getF Reg.DEVICE_EV_RING F.SLICE_EV_RING_ADDR * 4096 == 0 || (d.getF Reg.DEVICE_EV_PTR F.SLICE_EV_PTR_TAIL + 2 ^ 32 - d.getF Reg.DEVICE_EV_PTR F.SLICE_EV_PTR_HEAD) % 2 ^ 32 ==
      2 ^ d.getF Reg.DEVICE_EV_RING F.SLICE_EV_RING_LOG2 then d.ringDiscard devRing else (d.devRingPut r).ringRung devRing := rfl

theorem Dev.devRingPut_facts {r : EventRec} (hd : d.canon) : let e := (d.devRingPut r).ringRung devRing
    Dev.RingKept d e ∧ e.hostWrites = d.hostWrites ++ [⟨d.hostNext, .event, devRing, d.getF Reg.DEVICE_EV_RING F.SLICE_EV_RING_ADDR * 4096 +
      d.getF Reg.DEVICE_EV_PTR F.SLICE_EV_PTR_TAIL % 2 ^ d.getF Reg.DEVICE_EV_RING F.SLICE_EV_RING_LOG2 * 32, ({ r with lost := d.ev.lostRings.contains devRing } : EventRec).bytes, 0⟩] := by
  have canon : (d.devRingPut r).canon := hd.hostWrite.setF
  have ev : (d.devRingPut r).ev = d.ev := Dev.setF_ev ..
  have mem : (d.devRingPut r).mem = d.mem := Dev.setF_mem ..
  have regs (a : Nat) (ha : a ≠ Reg.DEVICE_EV_PTR) : (d.devRingPut r).reg a = d.reg a := Dev.reg_setReg_ne _ hd.hostWrite (Ne.symm ha)
  have writes : (d.devRingPut r).hostWrites = d.hostWrites ++ [⟨d.hostNext, .event, devRing, d.getF Reg.DEVICE_EV_RING F.SLICE_EV_RING_ADDR * 4096 +
      d.getF Reg.DEVICE_EV_PTR F.SLICE_EV_PTR_TAIL % 2 ^ d.getF Reg.DEVICE_EV_RING F.SLICE_EV_RING_LOG2 * 32, ({ r with lost := d.ev.lostRings.contains devRing } : EventRec).bytes, 0⟩] :=
    Dev.setF_hostWrites ..
  generalize d.devRingPut r = u at *
  have parts : (u.ringRung devRing).ev.boot = u.ev.boot ∧ (u.ringRung devRing).ev.arisen = u.ev.arisen ∧ (u.ringRung devRing).mem = u.mem ∧
      (u.ringRung devRing).hostWrites = u.hostWrites ∧ (u.ringRung devRing).regs = u.regs := ⟨rfl, rfl, rfl, rfl, rfl⟩
  obtain ⟨boot, arisen, mem', writes', regs'⟩ := parts
  exact ⟨⟨canon.ev, boot.trans (by rw [ev]), arisen.trans (by rw [ev]), mem'.trans mem, fun a ha => (congrFun (Dev.reg_of regs') a).trans (regs a fun h => ha (.inl h))⟩, writes'.trans writes⟩

theorem Dev.ringWrite_dev_kept {r : EventRec} (hd : d.canon) : Dev.RingKept d (d.ringWrite devRing r) := by
  rw [Dev.ringWrite_dev]
  split
  · exact Dev.ringDiscard_dev_kept hd
  · exact (Dev.devRingPut_facts hd).1

theorem Dev.ringsWritten_kept {l : List EventRec} (hd : d.canon) : Dev.RingKept d (l.foldl (fun d r => d.ringWrite devRing r) d) :=
  List.foldlRecOn (motive := Dev.RingKept d) l _ ⟨hd, rfl, rfl, rfl, fun _ _ => rfl⟩ fun _ h r _ =>
    have kept := Dev.ringWrite_dev_kept (r := r) h.canon
    ⟨kept.canon, kept.boot.trans h.boot, kept.arisen.trans h.arisen, kept.mem.trans h.mem, fun a ha => (kept.regs a ha).trans (h.regs a ha)⟩

/-- The boot buffer is emptied. -/
def Dev.bootEmptied (d : Dev) : Dev := { d with ev := { d.ev with boot := [] } }

theorem deviceRing_writes {v : Word} (h : (d.rwWrite Reg.DEVICE_EV_RING v).getF Reg.DEVICE_EV_RING F.DEVICE_EV_RING_ADDR ≠ 0) : deviceRingAddressWriteEffect hostDriver v d =
    (d.rwWrite Reg.DEVICE_EV_RING v).ev.boot.foldl (fun d r => d.ringWrite devRing r) (d.rwWrite Reg.DEVICE_EV_RING v).bootEmptied :=
  (if_neg (by decide)).trans (if_neg (mt beq_iff_eq.1 h))

theorem Dev.bootEmptied_parts : (d.canon → d.bootEmptied.canon) ∧ d.bootEmptied.ev.boot = [] ∧ d.bootEmptied.ev.arisen = d.ev.arisen ∧ d.bootEmptied.ev.lostRings = d.ev.lostRings ∧
    d.bootEmptied.mem = d.mem ∧ d.bootEmptied.regs = d.regs ∧ d.bootEmptied.hostWrites = d.hostWrites ∧ d.bootEmptied.hostNext = d.hostNext :=
  ⟨Dev.canon.ev, rfl, rfl, rfl, rfl, rfl, rfl, rfl⟩

theorem deviceRing_facts {v : Word} (hd : d.canon) (ha : (d.rwWrite Reg.DEVICE_EV_RING v).getF Reg.DEVICE_EV_RING F.DEVICE_EV_RING_ADDR ≠ 0) :
    let u := d.rwWrite Reg.DEVICE_EV_RING v
    let e := deviceRingAddressWriteEffect hostDriver v d
    e.ev.boot = [] ∧ e.ev.arisen = d.ev.arisen ∧ e.mem = d.mem ∧
      d.sameRegs e (fun a => a = Reg.DEVICE_EV_RING ∨ a = Reg.DEVICE_EV_PTR ∨ a = Reg.DEVICE_EV_DISCARD) ∧
      ∀ r, d.ev.boot = [r] → d.getF Reg.DEVICE_EV_PTR F.SLICE_EV_PTR_HEAD = d.getF Reg.DEVICE_EV_PTR F.SLICE_EV_PTR_TAIL →
        let at_ := d.getF Reg.DEVICE_EV_PTR F.SLICE_EV_PTR_TAIL % 2 ^ u.getF Reg.DEVICE_EV_RING F.SLICE_EV_RING_LOG2
        e.hostWrites = d.hostWrites ++ [⟨d.hostNext, .event, devRing, u.getF Reg.DEVICE_EV_RING F.DEVICE_EV_RING_ADDR * 4096 + at_ * 32,
          ({ r with lost := d.ev.lostRings.contains devRing } : EventRec).bytes, 0⟩] := by
  rw [deviceRing_writes ha]
  have canon : (d.rwWrite Reg.DEVICE_EV_RING v).canon := hd.rwWrite
  have ev : (d.rwWrite Reg.DEVICE_EV_RING v).ev = d.ev := Dev.setReg_ev ..
  have mem : (d.rwWrite Reg.DEVICE_EV_RING v).mem = d.mem := Dev.setReg_mem ..
  have writes : (d.rwWrite Reg.DEVICE_EV_RING v).hostWrites = d.hostWrites := Dev.setReg_hostWrites ..
  have next : (d.rwWrite Reg.DEVICE_EV_RING v).hostNext = d.hostNext := Dev.setReg_hostNext ..
  have regs (a : Nat) (ha : a ≠ Reg.DEVICE_EV_RING) : (d.rwWrite Reg.DEVICE_EV_RING v).reg a = d.reg a := Dev.reg_setReg_ne _ hd (Ne.symm ha)
  generalize d.rwWrite Reg.DEVICE_EV_RING v = u at *
  obtain ⟨keeps, boot, arisen, lost, mem', regs', writes', next'⟩ := Dev.bootEmptied_parts (d := u)
  have canon' := keeps canon
  have ring := Dev.getF_of regs' Reg.DEVICE_EV_RING
  have pointer (g : Fld) : u.bootEmptied.getF Reg.DEVICE_EV_PTR g = d.getF Reg.DEVICE_EV_PTR g := (Dev.getF_of regs' ..).trans (congrArg (fieldOf g) (regs _ (by decide)))
  have reg := congrFun (Dev.reg_of regs')
  generalize u.bootEmptied = w at *
  have kept := Dev.ringsWritten_kept (l := u.ev.boot) canon'
  refine ⟨kept.boot.trans boot, kept.arisen.trans (arisen.trans (by rw [ev])), kept.mem.trans (mem'.trans mem), fun a ha => ?_, fun r hr hh => ?_⟩
  · rw [not_or] at ha
    obtain ⟨h1, h2⟩ := ha
    exact (kept.regs a h2).trans ((reg a).trans (regs a h1))
  · have tail := pointer F.SLICE_EV_PTR_TAIL
    have room : ¬ (w.getF Reg.DEVICE_EV_RING F.SLICE_EV_RING_ADDR * 4096 == 0 || (w.getF Reg.DEVICE_EV_PTR F.SLICE_EV_PTR_TAIL + 2 ^ 32 - w.getF Reg.DEVICE_EV_PTR F.SLICE_EV_PTR_HEAD) % 2 ^ 32 ==
        2 ^ w.getF Reg.DEVICE_EV_RING F.SLICE_EV_RING_LOG2) = true := by
      have some_ : 0 < 2 ^ w.getF Reg.DEVICE_EV_RING F.SLICE_EV_RING_LOG2 := Nat.two_pow_pos _
      have set_ : u.getF Reg.DEVICE_EV_RING F.SLICE_EV_RING_ADDR ≠ 0 := ha
      rw [Bool.or_eq_true, beq_iff_eq, beq_iff_eq, tail, pointer, hh, ring F.SLICE_EV_RING_ADDR]
      generalize 2 ^ w.getF Reg.DEVICE_EV_RING F.SLICE_EV_RING_LOG2 = size at *
      omega
    rw [ev, hr, List.foldl_cons, List.foldl_nil, Dev.ringWrite_dev, if_neg room, (Dev.devRingPut_facts canon').2, writes', writes, next', next, tail, ring, ring, lost, ev]
    rfl

/-! ## The mailbox -/

theorem doeDiscoveryReply_eq (i : Nat) : doeDiscoveryReply i = (match i with | 0 => [1, 0, 0, 1] | 1 => [1, 0, 1, 2] | 2 => [1, 0, 2, 3] | 3 => [0x98, 0x1E, 2, 0] | _ => []) :=
  match i with
  | 0 => rfl
  | 1 => rfl
  | 2 => rfl
  | 3 => rfl
  | _ + 4 => rfl

theorem doeDiscovery_answers {i : Nat} (h : d.getF Reg.SEC_STATUS F.SEC_STATUS_STAGE ≠ 0) : doeDiscoveryEffect i d = d.send (.doe (doeDiscoveryReply i)) := if_neg (mt beq_iff_eq.1 h)
theorem cdatRead_unlisted {i : Nat} (h : d.getF Reg.SEC_STATUS F.SEC_STATUS_STAGE = 2) : cdatReadEffect i d = d.send (.doe []) :=
  (if_neg (by rw [h]; decide)).trans (if_pos (beq_iff_eq.2 h))
theorem cdatRead_answers {i : Nat} (h : d.getF Reg.SEC_STATUS F.SEC_STATUS_STAGE ≠ 0) (h' : d.getF Reg.SEC_STATUS F.SEC_STATUS_STAGE ≠ 2) :
    cdatReadEffect i d = d.send (.doe (Config.cdatBytes (cdatEntry i))) := (if_neg (mt beq_iff_eq.1 h)).trans (if_neg (mt beq_iff_eq.1 h'))

/-- Settles O52: the link, the decoder, the vectors, the device ring and the mailbox, each by its conditions. -/
theorem linkDecoderVectorsRingAndMailbox : Obligations.LinkDecoderVectorsRingAndMailbox := by
  unfold Obligations.LinkDecoderVectorsRingAndMailbox
  refine ⟨⟨fun width fast lopt flit proto s hs hd => ⟨?_, fun h => runs_ran rfl hs (if_pos (beq_iff_eq.2 h)), fun h => ?_⟩, fun s hs => ⟨runs_ran rfl hs rfl, runs_ran rfl hs rfl⟩,
    fun p a n s hs => ⟨fun h => runs_ran rfl hs (atsInvalidation_done h), fun h => runs_ran rfl hs (atsInvalidation_waits h)⟩,
    fun base size s hs hd => ⟨fun h => runs_ran rfl hs (if_pos (hdmCommit_cond.2 h)), fun h => runs_ran rfl hs (hdmCommit_facts hd base.isLt h)⟩⟩,
    fun v s hs => ⟨fun h => runs_ran rfl hs (msixUnmask_stays h), fun hb hv => runs_ran rfl hs (msixUnmask_facts hb hv)⟩,
    fun m v s hs hd => ⟨fun hm => runs_ranFrom rfl hs (if_pos (bne_iff_ne.2 hm)), fun hm ha => ?_, fun hm ha => ?_⟩, fun i n s hs => ⟨fun h => ?_, fun h => ?_, fun h => ?_, fun h h' => ?_⟩⟩
  · obtain ⟨⟨width', rate, flits, regs, mem⟩, proto', calm, told⟩ := cxlLinkTrained_facts (width := width) (fast := fast) (lopt := lopt) (flit := flit) (q := proto.toNat) hd
    rw [linkProto_eq] at proto' calm told
    exact runs_ran rfl hs ⟨⟨width', rate, flits, regs, mem⟩, proto', calm, told⟩
  · obtain ⟨⟨width', rate, flits, regs, mem⟩, proto', told⟩ := cxlLinkDegraded_facts (width := width) (fast := fast) (lopt := lopt) hd h
    exact runs_ran rfl hs ⟨⟨width', rate, flits, regs, mem⟩, proto', told⟩
  · subst hm
    exact runs_ranFrom rfl hs ((if_neg (by decide)).trans (if_pos (beq_iff_eq.2 ha)))
  · subst hm
    exact runs_ranFrom rfl hs (deviceRing_facts hd ha)
  · exact ⟨runs_ran rfl hs (if_pos (beq_iff_eq.2 h)), runs_ran rfl hs (if_pos (beq_iff_eq.2 h))⟩
  · exact runs_ran rfl hs ((doeDiscovery_answers h).trans (congrArg (fun l => s.dev.send (.doe l)) (doeDiscoveryReply_eq _)))
  · exact runs_ran rfl hs (cdatRead_unlisted h)
  · exact runs_ran rfl hs (cdatRead_answers h h')

end Sys2Proof.Machine
end

section
/-! SUPPORT. The SPDM responder and the IDE streams (R494, R510 to R512, Table 22.6). -/
namespace Sys2Proof.Machine

-- One proof after another: with many at once their threads' stacks exceed the memory that the check allows.
set_option Elab.async false

variable {d e : Dev} {n sid : Nat} {s : State} {req : Bytes}

/-! ## Measurements -/

theorem Dev.measurement_lengths : (d.measurement 1).length = 8 ∧ (d.measurement 2).length = 32 ∧ (d.measurement 3).length = 16 ∧ (d.measurement 4).length = 32 ∧
    (d.measurement 5).length = 4 ∧ (d.measurement 6).length = 32 ∧ (d.measurement 7).length = 16 := by
  have words (f : Nat → Nat) : ((List.range 4).flatMap fun w => leBytes 8 (f w)).length = 32 := by
    simp only [List.length_flatMap, leBytes_length, List.map_const', List.sum_replicate, List.length_range, smul_eq_mul]
  unfold Dev.measurement Dev.repairDigest digestBytes
  refine ⟨leBytes_length .., bytesAt_length .., ?_, leBytes_length .., leBytes_length .., words _, ?_⟩
  · simp only [List.length_append, leBytes_length]
  · simp only [List.length_append, leBytes_length]

theorem Dev.measurement_values : leAt (d.measurement 1) 0 8 = (d.reg Reg.SEC_ROM).toNat ∧ leAt (d.measurement 7) 0 8 = (d.reg Reg.RECIPE_ACTIVE_ID).toNat ∧
    leAt (d.measurement 3) 8 4 = d.getF Reg.SEC_FW_INFO F.SEC_FW_INFO_SVN := by
  have word (v : Word) : v.toNat % 256 ^ 8 = v.toNat := Nat.mod_eq_of_lt v.isLt
  have svn : d.getF Reg.SEC_FW_INFO F.SEC_FW_INFO_SVN % 256 ^ 4 = d.getF Reg.SEC_FW_INFO F.SEC_FW_INFO_SVN := Nat.mod_eq_of_lt (Dev.getF_lt ..)
  unfold Dev.measurement
  refine ⟨(leAt_last ..).trans (word _), ?_, ?_⟩
  · simp only [List.append_assoc, leAt_here, word]
  · simp only [List.append_assoc, leAt_here, leAt_behind, Nat.le_refl, Nat.sub_self, svn]

/-! ## When requests are served -/

variable {f : Dev → Dev} {g : Session → Dev → Dev} {live : Bool} {x : Session}

theorem Dev.spdmRun_closed (h : d.secStage = 0) : d.spdmRun f = d := if_pos (beq_iff_eq.2 h)
theorem Dev.spdmRun_unlisted (h : 2 ≤ d.secStage) : d.spdmRun f = d.send (.doe []) :=
  (if_neg (by rw [beq_iff_eq]; omega)).trans (if_pos (by rw [bne_iff_ne]; omega))
theorem Dev.spdmRun_serves (h : d.secStage = 1) : d.spdmRun f = f d := (if_neg (by rw [h]; decide)).trans (if_neg (by rw [h]; decide))
theorem Dev.spdmAt_early (h : d.secStage = 1) (hn : d.sp.spdm < n) : d.spdmAt n req f = d.spdmError 0x04 0 := (Dev.spdmRun_serves h).trans (if_pos hn)
theorem Dev.spdmAt_serves (h : d.secStage = 1) (hn : n ≤ d.sp.spdm) : d.spdmAt n req f = f (d.modSp fun x => { x with log := x.log ++ req }) :=
  (Dev.spdmRun_serves h).trans (if_neg (Nat.not_lt.2 hn))

theorem Dev.inSession_none (h : d.secStage = 1) (hx : d.session? sid = none) : d.inSession sid live g = d.spdmError 0x02 sid := by
  rw [Dev.inSession, Dev.spdmRun_serves h, hx]
theorem Dev.inSession_early (h : d.secStage = 1) (hx : d.session? sid = some x) (hl : x.live ≠ live) : d.inSession sid live g = d.spdmError 0x04 sid := by
  rw [Dev.inSession, Dev.spdmRun_serves h, hx]
  exact if_neg (mt beq_iff_eq.1 hl)
theorem Dev.inSession_serves (h : d.secStage = 1) (hx : d.session? sid = some x) (hl : x.live = live) : d.inSession sid live g = g x d := by
  rw [Dev.inSession, Dev.spdmRun_serves h, hx]
  exact if_pos (beq_iff_eq.2 hl)

/-- What running firmware alone does: before the stewards are released nothing, and in recovery an object not listed. -/
structure FirmwareServes (f : Dev → Dev) : Prop where
  closed : ∀ d : Dev, d.secStage = 0 → f d = d
  unlisted : ∀ d : Dev, 2 ≤ d.secStage → f d = d.send (.doe [])

theorem FirmwareServes.run : FirmwareServes fun d => d.spdmRun f := ⟨fun _ h => Dev.spdmRun_closed h, fun _ h => Dev.spdmRun_unlisted h⟩
theorem FirmwareServes.atStage : FirmwareServes fun d => d.spdmAt n req f := ⟨fun _ h => Dev.spdmRun_closed h, fun _ h => Dev.spdmRun_unlisted h⟩
theorem FirmwareServes.inSession : FirmwareServes fun d => d.inSession sid live g := ⟨fun _ h => Dev.spdmRun_closed h, fun _ h => Dev.spdmRun_unlisted h⟩

/-- The requests that running firmware alone serves, whatever the connection. -/
theorem spdmRequest_serves {c : Instr} {sl : BitVec 4} {off len : BitVec 16} {i : BitVec 8} {sg : Bool} {sid : BitVec 16} {key : Bytes} {id : BitVec 32}
    (h : c = .getVersion req ∨ c = .getCapabilities req ∨ c = .negotiateAlgorithms req ∨ c = .getDigests req ∨ c = .getCertificate sl off len req ∨ c = .challenge sl req ∨
      c = .getMeasurements i sg req ∨ c = .keyExchange sid key req ∨ c = .finish id sg ∨ c = .endSession id ∨ c = .spdmHeartbeat id ∨ c = .keyUpdate id sg ∨
      c = .chunkSend i off sg key ∨ c = .chunkGet i off ∨ c = .ideKmQuery id) : ∃ f : Dev → Dev, exec c s = ran s f ∧ FirmwareServes f := by
  rcases h with rfl | rfl | rfl | rfl | rfl | rfl | rfl | rfl | rfl | rfl | rfl | rfl | rfl | rfl | rfl
  · exact ⟨_, rfl, .run⟩
  · exact ⟨_, rfl, .atStage⟩
  · exact ⟨_, rfl, .atStage⟩
  · exact ⟨_, rfl, .atStage⟩
  · exact ⟨_, rfl, .atStage⟩
  · exact ⟨_, rfl, .atStage⟩
  · exact ⟨_, rfl, .atStage⟩
  · exact ⟨_, rfl, .atStage⟩
  · exact ⟨_, rfl, .inSession⟩
  · exact ⟨_, rfl, .inSession⟩
  · exact ⟨_, rfl, .inSession⟩
  · exact ⟨_, rfl, .inSession⟩
  · exact ⟨_, rfl, .run⟩
  · exact ⟨_, rfl, .run⟩
  · exact ⟨_, rfl, .inSession⟩

/-! ## What an answer leaves as it was -/

/-- `e` is `d` but for what was sent and the reply that waits. -/
structure Dev.Answered (d e : Dev) : Prop where
  regs : e.regs = d.regs
  mem : e.mem = d.mem
  ev : e.ev = d.ev
  sessions : e.sp.sessions = d.sp.sessions
  keys : e.sp.keys = d.sp.keys
  keySet : e.sp.keySet = d.sp.keySet
  chunks : e.sp.chunks = d.sp.chunks

theorem Dev.answer_answered {code : Nat} {vals : List Nat} {data sig : Bytes} : Dev.Answered d (d.answer code sid vals data sig) := by
  unfold Dev.answer
  dsimp only
  split
  · exact ⟨rfl, rfl, rfl, rfl, rfl, rfl, rfl⟩
  · exact ⟨rfl, rfl, rfl, rfl, rfl, rfl, rfl⟩

/-! ## Measurements asked for, keys exchanged -/

/-- The blocks that an index asks for. -/
theorem measured_index {i : BitVec 8} : (if i.toNat == 0xFF then [1, 2, 3, 4, 5, 6, 7] else if i.toNat == 0 then [] else [i.toNat]) =
    (if i = 0xFF#8 then [1, 2, 3, 4, 5, 6, 7] else if i = 0#8 then [] else [i.toNat]) := by
  have all : i.toNat = 0xFF ↔ i = 0xFF#8 := ⟨fun h => BitVec.eq_of_toNat_eq h, fun h => h ▸ rfl⟩
  have zero : i.toNat = 0 ↔ i = 0#8 := ⟨fun h => BitVec.eq_of_toNat_eq h, fun h => h ▸ rfl⟩
  simp only [beq_iff_eq, all, zero]

theorem getMeasurements_refused {i : BitVec 8} {sg : Bool} (h : d.secStage = 1) (hn : 3 ≤ d.sp.spdm) (hi : 7 < i.toNat) (hi' : i ≠ 0xFF#8) :
    getMeasurementsEffect i.toNat sg req d = (d.modSp fun x => { x with log := x.log ++ req }).spdmError 0x01 0 := by
  have other : i.toNat ≠ 0xFF := fun h => hi' (BitVec.eq_of_toNat_eq h)
  rw [getMeasurementsEffect, Dev.spdmAt_serves h hn]
  exact if_pos (by rw [Bool.and_eq_true, decide_eq_true_eq, bne_iff_ne]; exact ⟨hi, other⟩)

theorem getMeasurements_answers {i : BitVec 8} {sg : Bool} (h : d.secStage = 1) (hn : 3 ≤ d.sp.spdm) (hi : i.toNat ≤ 7 ∨ i = 0xFF#8) :
    let u := d.modSp fun x => { x with log := x.log ++ req }
    let ix := if i = 0xFF#8 then [1, 2, 3, 4, 5, 6, 7] else if i = 0#8 then [] else [i.toNat]
    getMeasurementsEffect i.toNat sg req d = u.answer 0x60 0 (if i = 0#8 then [7] else ix) (ix.flatMap u.measurement) (if sg then u.spdmSign (ix.flatMap u.measurement) else []) := by
  have served : ¬ (decide (7 < i.toNat) && i.toNat != 0xFF) = true := by
    rw [Bool.and_eq_true, decide_eq_true_eq, bne_iff_ne]
    rintro ⟨h1, h2⟩
    exact hi.elim (fun h => absurd h1 (Nat.not_lt.2 h)) fun h => h2 (h ▸ rfl)
  have zero : (i.toNat == 0) = true ↔ i = 0#8 := beq_iff_eq.trans ⟨fun h => BitVec.eq_of_toNat_eq h, fun h => h ▸ rfl⟩
  rw [getMeasurementsEffect, Dev.spdmAt_serves h hn]
  generalize d.modSp (fun x => { x with log := x.log ++ req }) = u
  dsimp only
  rw [if_neg served, measured_index]
  simp only [zero]

/-- A session opened with a key, not yet live, its event raised. -/
def Dev.sessionOpened (d : Dev) (id : Nat) (ss : Bytes) : Dev :=
  ({ d with free := d.free + 1 }.modSp fun x => { x with sessions := x.sessions ++ [(⟨id, false, ss, 0⟩ : Session)] }).secEvent 0xE008 id 0

theorem Dev.sessionOpened_facts {id : Nat} {ss : Bytes} : let e := d.sessionOpened id ss
    e.sp.sessions = d.sp.sessions ++ [⟨id, false, ss, 0⟩] ∧ e.regs = d.regs ∧ e.mem = d.mem ∧ d.raised e fun r => r.code = 0xE008 ∧ r.detail = 0 :=
  ⟨rfl, rfl, rfl, _, ⟨rfl, rfl⟩, rfl⟩

theorem keyExchange_refused {key : Bytes} (h : d.secStage = 1) (hn : 3 ≤ d.sp.spdm) (hk : key.length ≠ 1184) :
    keyExchangeEffect sid key req d = (d.modSp fun x => { x with log := x.log ++ req }).spdmError 0x01 0 := by
  rw [keyExchangeEffect, Dev.spdmAt_serves h hn]
  exact if_pos (bne_iff_ne.2 hk)
theorem keyExchange_full {key : Bytes} (h : d.secStage = 1) (hn : 3 ≤ d.sp.spdm) (hk : key.length = 1184) (hs : 4 ≤ d.sp.sessions.length) :
    keyExchangeEffect sid key req d = (d.modSp fun x => { x with log := x.log ++ req }).spdmError 0x0A 0 := by
  rw [keyExchangeEffect, Dev.spdmAt_serves h hn]
  exact (if_neg (by rw [hk]; decide)).trans (if_pos hs)

theorem keyExchange_opens {key : Bytes} (h : d.secStage = 1) (hn : 3 ≤ d.sp.spdm) (hk : key.length = 1184) (hs : d.sp.sessions.length < 4) : ∃ w u ss ct sig,
    Dev.Answered d u ∧ keyExchangeEffect sid key req d = (u.sessionOpened (sid + w % 2 ^ 16 * 2 ^ 16) ss).answer 0x64 (sid + w % 2 ^ 16 * 2 ^ 16) [] ct sig := by
  rw [keyExchangeEffect, Dev.spdmAt_serves h hn]
  exact ⟨_, { (d.modSp fun x => { x with log := x.log ++ req }) with free := d.free + 1 }, _, _, _, ⟨rfl, rfl, rfl, rfl, rfl, rfl, rfl⟩,
    (if_neg (by rw [hk]; decide)).trans (if_neg (Nat.not_le.2 hs))⟩

theorem keyExchange_facts {sid : BitVec 16} {key : Bytes} (h : d.secStage = 1) (hn : 3 ≤ d.sp.spdm) (hk : key.length = 1184) (hs : d.sp.sessions.length < 4) :
    let e := keyExchangeEffect sid.toNat key req d
    ∃ x, e.sp.sessions = d.sp.sessions ++ [x] ∧ x.id % 2 ^ 16 = sid.toNat ∧ x.live = false ∧ e.regs = d.regs ∧ e.mem = d.mem ∧
      d.raised e fun r => r.code = 0xE008 ∧ r.detail = 0 := by
  obtain ⟨w, u, ss, ct, sig, same, acts⟩ := keyExchange_opens (sid := sid.toNat) (req := req) h hn hk hs
  rw [acts]
  obtain ⟨sessions, regs, mem, r, hr, arisen⟩ := Dev.sessionOpened_facts (d := u) (id := sid.toNat + w % 2 ^ 16 * 2 ^ 16) (ss := ss)
  generalize u.sessionOpened (sid.toNat + w % 2 ^ 16 * 2 ^ 16) ss = v at *
  have answered := Dev.answer_answered (d := v) (code := 0x64) (sid := sid.toNat + w % 2 ^ 16 * 2 ^ 16) (vals := []) (data := ct) (sig := sig)
  refine ⟨⟨sid.toNat + w % 2 ^ 16 * 2 ^ 16, false, ss, 0⟩, answered.sessions.trans (sessions.trans (by rw [same.sessions])), ?_, rfl, answered.regs.trans (regs.trans same.regs),
    answered.mem.trans (mem.trans same.mem), r, hr, ?_⟩
  · rw [Nat.add_mul_mod_self_right, Nat.mod_eq_of_lt sid.isLt]
  · rw [answered.ev, arisen, same.ev]

/-! ## Stream keys -/

variable {cm : Bool} {set_ : Nat}

theorem ideBit_fits : Nat.ble ((ideBit cm).lo + (ideBit cm).w) 64 = true := by cases cm <;> rfl
theorem ideBit_w : (ideBit cm).w = 1 := by cases cm <;> rfl
theorem Dev.getB_setB_ide {b : Bool} (hd : d.canon) : (d.setB Reg.CXL_IDE (ideBit cm) b).getB Reg.CXL_IDE (ideBit cm) = b := by
  have bit : (d.setB Reg.CXL_IDE (ideBit cm) b).getF Reg.CXL_IDE (ideBit cm) = (if b then 1 else 0) % 2 ^ (ideBit cm).w := Dev.getF_setF_mod hd ideBit_fits
  rw [Dev.getB, bit, ideBit_w]
  cases b <;> rfl

theorem keyProg_facts {sub : Nat} {key : Bytes} (h : d.secStage = 1) (hx : d.session? sid = some x) (hl : x.live = true) : let e := keyProgEffect sid cm set_ sub key d
    e.sp.keys = store [] d.sp.keys (keyAt cm set_ sub) key ∧ e.regs = d.regs ∧ e.mem = d.mem ∧ e.ev = d.ev := by
  rw [keyProgEffect, Dev.inSession_serves h hx hl]
  have answered := Dev.answer_answered (d := d.modSp fun x => { x with keys := store [] x.keys (keyAt cm set_ sub) key }) (code := 0x7E) (sid := sid) (vals := [3, 0]) (data := []) (sig := [])
  exact ⟨answered.keys, answered.regs, answered.mem, answered.ev⟩

theorem kSetGo_unset (h : d.secStage = 1) (hx : d.session? sid = some x) (hl : x.live = true) (hk : d.keySetIn cm set_ = false) :
    kSetGoEffect sid cm set_ d = d.answer 0x7E sid [4] [] [] := by
  rw [kSetGoEffect, Dev.inSession_serves h hx hl]
  exact congrArg (fun u : Dev => u.answer 0x7E sid [4] [] []) (if_pos (by rw [hk]; decide))

/-- The key set in use of a stream is noted. -/
def Dev.keySetNoted (d : Dev) (l : List (Nat × Nat)) : Dev := d.modSp fun x => { x with keySet := l }
theorem Dev.keySetNoted_parts {l : List (Nat × Nat)} : (d.canon → (d.keySetNoted l).canon) ∧ (d.keySetNoted l).regs = d.regs ∧ (d.keySetNoted l).mem = d.mem ∧
    (d.keySetNoted l).sp.keySet = l ∧ (d.keySetNoted l).sp.keys = d.sp.keys := ⟨Dev.canon.modSp, rfl, rfl, rfl, rfl⟩

/-- A stream's key set and its active bit changed. -/
theorem Dev.ideSwitched_facts {l : List (Nat × Nat)} {b : Bool} {vals : List Nat} (hd : d.canon) :
    let e := ((d.keySetNoted l).setB Reg.CXL_IDE (ideBit cm) b).answer 0x7E sid vals [] []
    e.getB Reg.CXL_IDE (ideBit cm) = b ∧ d.sameRegs e (· = Reg.CXL_IDE) ∧ e.sp.keySet = l ∧ e.sp.keys = d.sp.keys ∧ e.mem = d.mem := by
  obtain ⟨keeps, regs, mem, keySet, keys⟩ := Dev.keySetNoted_parts (d := d) (l := l)
  have canon := keeps hd
  have reg := congrFun (Dev.reg_of regs)
  generalize d.keySetNoted l = u at *
  have bit := Dev.getB_setB_ide (cm := cm) (b := b) canon
  have other (a : Nat) (ha : a ≠ Reg.CXL_IDE) : (u.setB Reg.CXL_IDE (ideBit cm) b).reg a = u.reg a := Dev.reg_setReg_ne _ canon (Ne.symm ha)
  have sp : (u.setB Reg.CXL_IDE (ideBit cm) b).sp = u.sp := Dev.setB_sp ..
  have mem' : (u.setB Reg.CXL_IDE (ideBit cm) b).mem = u.mem := Dev.setB_mem ..
  generalize u.setB Reg.CXL_IDE (ideBit cm) b = v at *
  have answered := Dev.answer_answered (d := v) (code := 0x7E) (sid := sid) (vals := vals) (data := []) (sig := [])
  exact ⟨(Dev.getB_of answered.regs ..).trans bit, fun a ha => (congrFun (Dev.reg_of answered.regs) a).trans ((other a ha).trans (reg a)),
    answered.keySet.trans ((congrArg SecState.keySet sp :).trans keySet), answered.keys.trans ((congrArg SecState.keys sp :).trans keys), answered.mem.trans (mem'.trans mem)⟩

theorem kSetGo_facts (h : d.secStage = 1) (hx : d.session? sid = some x) (hl : x.live = true) (hd : d.canon) (hk : d.keySetIn cm set_ = true) : let e := kSetGoEffect sid cm set_ d
    e.getB Reg.CXL_IDE (ideBit cm) = true ∧ d.sameRegs e (· = Reg.CXL_IDE) ∧ e.sp.keySet = store 0 d.sp.keySet (if cm then 1 else 0) (set_ + 1) ∧ e.sp.keys = d.sp.keys ∧
      e.mem = d.mem := by
  have acts : kSetGoEffect sid cm set_ d = ((d.keySetNoted (store 0 d.sp.keySet (if cm then 1 else 0) (set_ + 1))).setB Reg.CXL_IDE (ideBit cm) true).answer 0x7E sid [4] [] [] := by
    rw [kSetGoEffect, Dev.inSession_serves h hx hl]
    exact congrArg (fun u : Dev => u.answer 0x7E sid [4] [] []) (if_neg (by rw [hk]; decide))
  rw [acts]
  exact Dev.ideSwitched_facts hd

/-- The keys of a stream's key set are erased. -/
def Dev.keysErased (d : Dev) (cm : Bool) (n : Nat) : Dev := (List.range 6).foldl (fun (d : Dev) b => d.modSp fun x => { x with keys := erase x.keys (keyAt cm n b) }) d

theorem Dev.keysErased_facts : (d.canon → (d.keysErased cm n).canon) ∧ (d.keysErased cm n).regs = d.regs ∧ (d.keysErased cm n).mem = d.mem ∧ (d.keysErased cm n).sp.keySet = d.sp.keySet :=
  List.foldlRecOn (motive := fun e : Dev => (d.canon → e.canon) ∧ e.regs = d.regs ∧ e.mem = d.mem ∧ e.sp.keySet = d.sp.keySet) _ _ ⟨id, rfl, rfl, rfl⟩
    fun _ ⟨canon, regs, mem, keySet⟩ _ _ => ⟨fun hd => (canon hd).modSp, regs, mem, keySet⟩

theorem kSetStop_acts (h : d.secStage = 1) (hx : d.session? sid = some x) (hl : x.live = true) : kSetStopEffect sid cm set_ d =
    let u := d.keysErased cm set_
    (if look 0 u.sp.keySet (if cm then 1 else 0) != set_ + 1 then u else (u.keySetNoted (erase u.sp.keySet (if cm then 1 else 0))).setB Reg.CXL_IDE (ideBit cm) false).answer 0x7E sid [4] [] [] := by
  rw [kSetStopEffect, Dev.inSession_serves h hx hl]
  rfl

theorem kSetStop_ends (h : d.secStage = 1) (hx : d.session? sid = some x) (hl : x.live = true) (hd : d.canon) (hk : look 0 d.sp.keySet (if cm then 1 else 0) = set_ + 1) :
    let e := kSetStopEffect sid cm set_ d
    e.getB Reg.CXL_IDE (ideBit cm) = false ∧ d.sameRegs e (· = Reg.CXL_IDE) ∧ e.mem = d.mem := by
  rw [kSetStop_acts h hx hl]
  obtain ⟨canon, regs, mem, keySet⟩ := Dev.keysErased_facts (d := d) (cm := cm) (n := set_)
  generalize d.keysErased cm set_ = u at *
  dsimp only
  rw [if_neg (by rw [keySet, hk, bne_self_eq_false]; decide)]
  obtain ⟨bit, same, -, -, mem'⟩ := Dev.ideSwitched_facts (sid := sid) (cm := cm) (l := erase u.sp.keySet (if cm then 1 else 0)) (b := false) (vals := [4]) (canon hd)
  exact ⟨bit, fun a ha => (same a ha).trans (congrFun (Dev.reg_of regs) a), mem'.trans mem⟩

theorem kSetStop_other (h : d.secStage = 1) (hx : d.session? sid = some x) (hl : x.live = true) (hk : look 0 d.sp.keySet (if cm then 1 else 0) ≠ set_ + 1) :
    let e := kSetStopEffect sid cm set_ d
    e.regs = d.regs ∧ e.mem = d.mem ∧ e.sp.keySet = d.sp.keySet := by
  rw [kSetStop_acts h hx hl]
  obtain ⟨-, regs, mem, keySet⟩ := Dev.keysErased_facts (d := d) (cm := cm) (n := set_)
  generalize d.keysErased cm set_ = u at *
  dsimp only
  rw [if_pos (by rw [keySet]; exact bne_iff_ne.2 hk)]
  have answered := Dev.answer_answered (d := u) (code := 0x7E) (sid := sid) (vals := [4]) (data := []) (sig := [])
  exact ⟨answered.regs.trans regs, answered.mem.trans mem, answered.keySet.trans keySet⟩

/-! ## Chunks -/

variable {h q : Nat} {last : Bool} {l : Bytes}

theorem chunkSend_refused (hs : d.secStage = 1) (hq : q ≠ 0) (hq' : q ≠ d.sp.chunkSeq) : chunkSendEffect h q last l d = d.spdmError 0x01 0 := by
  rw [chunkSendEffect, Dev.spdmRun_serves hs]
  exact if_pos (by rw [Bool.and_eq_true, bne_iff_ne, bne_iff_ne]; exact ⟨hq, hq'⟩)

theorem chunkSend_adds (hs : d.secStage = 1) (hq : q = 0 ∨ q = d.sp.chunkSeq) : let e := chunkSendEffect h q last l d
    e.sp.chunks = (if q = 0 then [] else d.sp.chunks) ++ l ∧ e.regs = d.regs ∧ e.mem = d.mem ∧ e.ev = d.ev := by
  rw [chunkSendEffect, Dev.spdmRun_serves hs, if_neg (by rw [Bool.and_eq_true, bne_iff_ne, bne_iff_ne, not_and_or, not_not, not_not]; exact hq)]
  have answered := Dev.answer_answered (d := d.modSp fun x => { x with chunks := (if q == 0 then [] else x.chunks) ++ l, chunkSeq := if last then 0 else q + 1 })
    (code := 0x05) (sid := 0) (vals := [h, q]) (data := []) (sig := [])
  refine ⟨answered.chunks.trans (congrArg (· ++ l) ?_), answered.regs, answered.mem, answered.ev⟩
  simp only [beq_iff_eq]

/-- The chunk of the reply that waits. -/
def Dev.replyChunk (d : Dev) (q : Nat) : Bytes := (d.sp.reply.drop (q * Config.chunkBytes)).take Config.chunkBytes
theorem chunkGet_none (hs : d.secStage = 1) (hp : d.replyChunk q = []) : chunkGetEffect h q d = d.spdmError 0x01 0 := by
  rw [chunkGetEffect, Dev.spdmRun_serves hs]
  exact if_pos (List.isEmpty_iff.2 hp)
theorem chunkGet_some (hs : d.secStage = 1) (hp : d.replyChunk q ≠ []) : ∃ n, chunkGetEffect h q d = d.send (.doe (Config.spdmReply 0x06 0 [h, q, n] (d.replyChunk q) [])) := by
  rw [chunkGetEffect, Dev.spdmRun_serves hs]
  exact ⟨_, if_neg (mt List.isEmpty_iff.1 hp)⟩

/-! ## Integrity failures -/

theorem ideIntegrityFailure_stays (hb : d.getB Reg.CXL_IDE (ideBit cm) = false) : ideIntegrityFailureEffect cm d = d := by
  have small : d.getF Reg.CXL_IDE (ideBit cm) < 2 ^ (ideBit cm).w := Dev.getF_lt ..
  rw [ideBit_w] at small
  have clear : d.getF Reg.CXL_IDE (ideBit cm) ≠ 1 := fun h => Bool.eq_false_iff.1 hb (beq_iff_eq.2 h)
  exact if_pos (beq_iff_eq.2 (by omega))

theorem ideIntegrityFailure_acts (hb : d.getB Reg.CXL_IDE (ideBit cm) = true) : ideIntegrityFailureEffect cm d =
    (if d.getB Reg.CXL_IDE F.CXL_IDE_REQUIRED then d.deviceReset else d.setF Reg.CXL_IDE (ideBit cm) 0).raise 0xE0C3 0xFF cxlPort (if cm then 1 else 0)
      (if d.getB Reg.CXL_IDE F.CXL_IDE_REQUIRED then 1 else 0) := by
  have active : d.getF Reg.CXL_IDE (ideBit cm) = 1 := beq_iff_eq.1 hb
  exact if_neg (by rw [active]; decide)

theorem ideIntegrityFailure_resets (hb : d.getB Reg.CXL_IDE (ideBit cm) = true) (hr : d.getB Reg.CXL_IDE F.CXL_IDE_REQUIRED = true) :
    ideIntegrityFailureEffect cm d = d.deviceReset.raise 0xE0C3 0xFF cxlPort (if cm then 1 else 0) 1 := by
  rw [ideIntegrityFailure_acts hb, if_pos hr, if_pos hr]

theorem ideIntegrityFailure_insecure (hd : d.canon) (hb : d.getB Reg.CXL_IDE (ideBit cm) = true) (hr : d.getB Reg.CXL_IDE F.CXL_IDE_REQUIRED = false) :
    let e := ideIntegrityFailureEffect cm d
    e.getB Reg.CXL_IDE (ideBit cm) = false ∧ d.sameRegs e (· = Reg.CXL_IDE) ∧ e.mem = d.mem ∧
      d.raised e fun r => r.code = 0xE0C3 ∧ r.object = (if cm then 1 else 0) ∧ r.detail = 0 := by
  rw [ideIntegrityFailure_acts hb, hr, if_neg Bool.false_ne_true, if_neg Bool.false_ne_true]
  have bit : (d.setF Reg.CXL_IDE (ideBit cm) 0).getB Reg.CXL_IDE (ideBit cm) = false := Dev.getB_setB_ide (b := false) hd
  refine ⟨(Dev.raise_getB ..).trans bit, fun a ha => (Dev.raise_reg ..).trans (Dev.reg_setReg_ne _ hd (Ne.symm ha)), (Dev.raise_mem ..).trans (Dev.setF_mem ..),
    Dev.raise_raised (Dev.setF_ev ..) ⟨rfl, ?_, rfl⟩⟩
  cases cm <;> rfl

/-- Settles O53: each request by the stage of the firmware, of the connection and of its session. -/
theorem attestationSessionsAndStreams : Obligations.AttestationSessionsAndStreams := by
  unfold Obligations.AttestationSessionsAndStreams
  refine ⟨⟨fun d => ?_, fun c req sl off len i sg sid key id s hs hc => ?_, fun req sl off len i sg s hs h => ?_, fun sid key req s hs h hn => ?_⟩,
    fun id b cm set sub key s hs h hx => ?_, fun id b cm set sub key x s hs h hx => ?_, fun hd q last l s hs h => ?_, fun cm s hs hd => ?_⟩
  · obtain ⟨l1, l2, l3, l4, l5, l6, l7⟩ := Dev.measurement_lengths (d := d)
    exact ⟨l1, l2, l3, l4, l5, l6, l7, Dev.measurement_values⟩
  · obtain ⟨f, effect, serves⟩ := spdmRequest_serves (s := s) hc
    exact ⟨fun h => runs_ran effect hs (serves.closed _ h), fun h => runs_ran effect hs (serves.unlisted _ h)⟩
  · refine ⟨runs_ran rfl hs (Dev.spdmRun_serves h), fun hn => runs_ran rfl hs (Dev.spdmAt_early h hn), fun hn => runs_ran rfl hs (Dev.spdmAt_serves h hn),
      fun hn => runs_ran rfl hs (Dev.spdmAt_early h hn), fun hn => runs_ran rfl hs (Dev.spdmAt_serves h hn), fun hn => ?_, fun hn => ?_⟩
    · exact ⟨runs_ran rfl hs (Dev.spdmAt_early h hn), runs_ran rfl hs (Dev.spdmAt_early h hn), runs_ran rfl hs (Dev.spdmAt_early h hn), runs_ran rfl hs (Dev.spdmAt_early h hn)⟩
    · refine ⟨runs_ran rfl hs (Dev.spdmAt_serves h hn), fun hsl => ?_, fun hsl => ?_, fun hi hi' => runs_ran rfl hs (getMeasurements_refused h hn hi hi'),
        fun hi => runs_ran rfl hs (getMeasurements_answers h hn hi)⟩
      · have other : (sl.toNat != 0) = true := bne_iff_ne.2 fun h => hsl (BitVec.eq_of_toNat_eq h)
        exact ⟨runs_ran rfl hs ((Dev.spdmAt_serves h hn).trans (if_pos other)), runs_ran rfl hs ((Dev.spdmAt_serves h hn).trans (if_pos other))⟩
      · subst hsl
        refine ⟨runs_ran rfl hs (Dev.spdmAt_serves h hn), runs_ran rfl hs ((Dev.spdmAt_serves h hn).trans ?_)⟩
        rw [if_neg (by decide), Dev.spdmSign, List.append_nil]
  · exact ⟨fun hk => runs_ran rfl hs (keyExchange_refused h hn hk), fun hk hl => runs_ran rfl hs (keyExchange_full h hn hk hl), fun hk hl => runs_ran rfl hs (keyExchange_facts h hn hk hl)⟩
  · exact ⟨runs_ran rfl hs (Dev.inSession_none h hx), runs_ran rfl hs (Dev.inSession_none h hx), runs_ran rfl hs (Dev.inSession_none h hx), runs_ran rfl hs (Dev.inSession_none h hx),
      runs_ran rfl hs (Dev.inSession_none h hx), runs_ran rfl hs (Dev.inSession_none h hx), runs_ran rfl hs (Dev.inSession_none h hx), runs_ran rfl hs (Dev.inSession_none h hx)⟩
  · refine ⟨fun hl => runs_ran rfl hs (Dev.inSession_early h hx (by rw [hl]; decide)), fun hl => ?_, fun hl => ⟨fun hb => ?_, fun hb => ?_⟩, fun hl => ?_⟩
    · have early : x.live ≠ true := Bool.eq_false_iff.1 hl
      exact ⟨runs_ran rfl hs (Dev.inSession_early h hx early), runs_ran rfl hs (Dev.inSession_early h hx early), runs_ran rfl hs (Dev.inSession_early h hx early),
        runs_ran rfl hs (Dev.inSession_early h hx early), runs_ran rfl hs (Dev.inSession_early h hx early), runs_ran rfl hs (Dev.inSession_early h hx early),
        runs_ran rfl hs (Dev.inSession_early h hx early)⟩
    · exact runs_ran rfl hs ((Dev.inSession_serves h hx hl).trans (if_pos hb))
    · exact runs_ran rfl hs ((Dev.inSession_serves h hx hl).trans (if_neg (Bool.eq_false_iff.1 hb)))
    · exact ⟨runs_ran rfl hs (Dev.inSession_serves h hx hl), runs_ran rfl hs (Dev.inSession_serves h hx hl), runs_ran rfl hs (Dev.inSession_serves h hx hl),
        runs_ran rfl hs (Dev.inSession_serves h hx hl), runs_ran rfl hs (keyProg_facts h hx hl), fun hk => runs_ran rfl hs (kSetGo_unset h hx hl hk),
        fun hd hk => runs_ran rfl hs (kSetGo_facts h hx hl hd hk), fun hd hk => runs_ran rfl hs (kSetStop_ends h hx hl hd hk), fun hk => runs_ran rfl hs (kSetStop_other h hx hl hk)⟩
  · have zero : q.toNat = 0 ↔ q = 0#16 := ⟨fun h => BitVec.eq_of_toNat_eq h, fun h => h ▸ rfl⟩
    refine ⟨fun hq hq' => runs_ran rfl hs (chunkSend_refused h (mt zero.1 hq) hq'), fun hq => runs_ran rfl hs ?_, fun hp => runs_ran rfl hs (chunkGet_none h hp),
      fun hp => runs_ran rfl hs ?_⟩
    · have added := chunkSend_adds (h := hd.toNat) (q := q.toNat) (last := last) (l := l) h (hq.imp_left zero.2)
      simp only [zero] at added
      exact added
    · obtain ⟨n, sends⟩ := chunkGet_some (h := hd.toNat) h hp
      rw [sends]
      exact ⟨rfl, n, rfl⟩
  · exact ⟨fun hb => runs_ran rfl hs (ideIntegrityFailure_stays hb), fun hb hr => runs_ran rfl hs (ideIntegrityFailure_insecure hd hb hr),
      fun hb hr => runs_ran rfl hs (ideIntegrityFailure_resets hb hr)⟩

end Sys2Proof.Machine
end

section
/-! SUPPORT. The boot: the flash, the images and their checks (R499 to R510, Table 22.5). -/
namespace Sys2Proof.Machine

-- One proof after another: with many at once their threads' stacks exceed the memory that the check allows.
set_option Elab.async false

variable {d e u : Dev} {x n r o : Nat} {l : Bytes}

theorem Dev.Quiet.security {p : Nat → Prop} (h : Dev.Quiet p d e) : e.sp = d.sp := (congrArg Dev.sp h.rest :)

/-! ## What the flash and the checks of images rest on -/

theorem Dev.flash_of (h : e.sp = d.sp) : e.flash = d.flash := by
  funext a n
  simp only [Dev.flash, Dev.flashByte, h]
theorem Dev.dirCopy_of (h : e.sp = d.sp) : e.dirCopy = d.dirCopy := by
  funext c
  rw [Dev.dirCopy, Dev.dirCopy, Dev.flash_of h]
theorem Dev.dirGoverns_of (h : e.sp = d.sp) : e.dirGoverns = d.dirGoverns := by rw [Dev.dirGoverns, Dev.dirGoverns, Dev.dirCopy_of h]
theorem Dev.dirField_of (h : e.sp = d.sp) (i : Nat) : e.dirField i = d.dirField i := by rw [Dev.dirField, Dev.dirField, Dev.dirGoverns_of h, Dev.dirCopy_of h]
theorem Dev.fwSlotFault_of (h : e.sp = d.sp) (x : Nat) : e.fwSlotFault x = d.fwSlotFault x := by
  rw [Dev.fwSlotFault, Dev.fwSlotFault, Dev.flash_of h]
  rfl
theorem Dev.repairFault_of (h : e.sp = d.sp) (l : Bytes) (image : Unit → Bytes) : e.repairFault l image = d.repairFault l image := by
  rw [Dev.repairFault, Dev.repairFault, h]
  rfl
theorem Dev.repairSlotFault_of (h : e.sp = d.sp) (x : Nat) : e.repairSlotFault x = d.repairSlotFault x := by
  rw [Dev.repairSlotFault, Dev.repairSlotFault, Dev.flash_of h]
  exact Dev.repairFault_of h _ _
theorem Dev.fieldRecs_of (h : e.sp = d.sp) (l : Bytes) : e.fieldRecs l = d.fieldRecs l := by rw [Dev.fieldRecs, Dev.fieldRecs, h]

theorem Dev.modSp_parts {f : SecState → SecState} : (d.canon → (d.modSp f).canon) ∧ (d.modSp f).sp = f d.sp ∧ (d.modSp f).regs = d.regs ∧ (d.modSp f).mem = d.mem ∧
    (d.modSp f).ev = d.ev := ⟨Dev.canon.modSp, rfl, rfl, rfl, rfl⟩

/-! ## Rejections and recovery -/

theorem Dev.imageRejected_quiet : Dev.Quiet (· = Reg.SEC_STATUS) d (d.imageRejected o r) := (Dev.Quiet.refl.setF (p := (· = Reg.SEC_STATUS)) rfl).raise
theorem Dev.imageRejected_told : (∃ q ∈ (d.imageRejected o r).ev.arisen, q.code = 0xE002 ∧ q.object = BitVec.ofNat 32 o ∧ q.detail = BitVec.ofNat 64 r) ∧
    ∀ q ∈ d.ev.arisen, q ∈ (d.imageRejected o r).ev.arisen :=
  ⟨⟨_, mem_insertEvent_self _ _, rfl, rfl, rfl⟩, fun _ h => Dev.raise_arisen (by rwa [Dev.setF_ev])⟩
theorem Dev.imageRejected_stage (hd : d.canon) : (d.imageRejected o r).secStage = d.secStage := (Dev.raise_getF ..).trans (Dev.getF_setF_other hd)

theorem Dev.recover_quiet : Dev.Quiet (· = Reg.SEC_STATUS) d (d.recover_ r) := (Dev.Quiet.refl.setFs (p := (· = Reg.SEC_STATUS)) rfl).raise
theorem Dev.recover_facts (hd : d.canon) : (d.recover_ r).recovery = true ∧ (d.recover_ r).getF Reg.SEC_STATUS F.SEC_STATUS_REASON = r % 256 ∧
    (∃ q ∈ (d.recover_ r).ev.arisen, q.code = 0xE003 ∧ q.object = BitVec.ofNat 32 r) ∧ ∀ q ∈ d.ev.arisen, q ∈ (d.recover_ r).ev.arisen := by
  have stage : (d.setFs Reg.SEC_STATUS [(F.SEC_STATUS_STAGE, 2), (F.SEC_STATUS_REASON, r)]).getF Reg.SEC_STATUS F.SEC_STATUS_STAGE = 2 :=
    Dev.getF_setFs_mid (pre := []) hd (by rfl) (by rfl)
  have reason : (d.setFs Reg.SEC_STATUS [(F.SEC_STATUS_STAGE, 2), (F.SEC_STATUS_REASON, r)]).getF Reg.SEC_STATUS F.SEC_STATUS_REASON = r % 256 :=
    Dev.getF_setFs_mid (pre := [_]) hd (by rfl) (by rfl)
  have ev : (d.setFs Reg.SEC_STATUS [(F.SEC_STATUS_STAGE, 2), (F.SEC_STATUS_REASON, r)]).ev = d.ev := Dev.setFs_ev ..
  unfold Dev.recover_ Dev.secEvent
  generalize d.setFs Reg.SEC_STATUS [(F.SEC_STATUS_STAGE, 2), (F.SEC_STATUS_REASON, r)] = u at *
  exact ⟨beq_iff_eq.2 ((Dev.raise_getF ..).trans stage), (Dev.raise_getF ..).trans reason, ⟨_, mem_insertEvent_self _ _, rfl, rfl⟩, fun _ h => Dev.raise_arisen (by rwa [ev])⟩

/-! ## The rails and the PUF -/

/-- `e` is `d` in regulation, its security status changed. -/
structure Dev.Regulates (d e : Dev) : Prop where
  supply : e.getF Reg.PWR_STATUS F.PWR_STATUS_SUPPLY = 1
  rom : e.reg Reg.SEC_ROM = Config.romVersion
  mem : e.mem = d.mem
  regs : d.sameRegs e (fun a => a = Reg.PWR_STATUS ∨ a = Reg.SEC_ROM ∨ a = Reg.SEC_STATUS)

theorem Dev.Regulates.of (h : Dev.Regulates d u) (hr : e.regs = u.regs) (hm : e.mem = u.mem) : Dev.Regulates d e where
  supply := (Dev.getF_of hr ..).trans h.supply
  rom := (congrFun (Dev.reg_of hr) _).trans h.rom
  mem := hm.trans h.mem
  regs := fun a ha => (congrFun (Dev.reg_of hr) a).trans (h.regs a ha)
theorem Dev.Regulates.quiet (h : Dev.Regulates d u) (hu : u.canon) (q : Dev.Quiet (· = Reg.SEC_STATUS) u e) : Dev.Regulates d e where
  supply := (congrArg (fieldOf F.PWR_STATUS_SUPPLY) (q.regs hu Reg.PWR_STATUS (by decide))).trans h.supply
  rom := (q.regs hu Reg.SEC_ROM (by decide)).trans h.rom
  mem := q.mem.trans h.mem
  regs := fun a ha => (q.regs hu a fun h => ha (.inr (.inr h))).trans (h.regs a ha)

/-- The rails are in regulation, and the ROM runs. -/
def Dev.regulated (d : Dev) : Dev := (d.setF Reg.PWR_STATUS F.PWR_STATUS_SUPPLY 1).setReg Reg.SEC_ROM Config.romVersion
theorem Dev.regulated_facts (hd : d.canon) : d.regulated.canon ∧ Dev.Regulates d d.regulated ∧ d.regulated.sp = d.sp ∧ d.regulated.ev = d.ev ∧ d.regulated.free = d.free := by
  have canon : (d.setF Reg.PWR_STATUS F.PWR_STATUS_SUPPLY 1).canon := hd.setF
  have supply : (d.setF Reg.PWR_STATUS F.PWR_STATUS_SUPPLY 1).getF Reg.PWR_STATUS F.PWR_STATUS_SUPPLY = 1 := Dev.getF_setF_lt hd (by decide)
  have quiet : Dev.Quiet (· = Reg.PWR_STATUS) d (d.setF Reg.PWR_STATUS F.PWR_STATUS_SUPPLY 1) := Dev.Quiet.refl.setF rfl
  have ev : (d.setF Reg.PWR_STATUS F.PWR_STATUS_SUPPLY 1).ev = d.ev := Dev.setF_ev ..
  have free : (d.setF Reg.PWR_STATUS F.PWR_STATUS_SUPPLY 1).free = d.free := Dev.setF_free ..
  unfold Dev.regulated
  generalize d.setF Reg.PWR_STATUS F.PWR_STATUS_SUPPLY 1 = u at *
  have other (a : Nat) (ha : a ≠ Reg.SEC_ROM) : (u.setReg Reg.SEC_ROM Config.romVersion).reg a = u.reg a := Dev.reg_setReg_ne _ canon (Ne.symm ha)
  refine ⟨canon.setReg, ⟨(congrArg (fieldOf F.PWR_STATUS_SUPPLY) (other _ (by decide))).trans supply, Dev.reg_setReg_self _ _ canon, (Dev.setReg_mem ..).trans quiet.mem, fun a ha => ?_⟩,
    (Dev.setReg_sp ..).trans quiet.security, (Dev.setReg_ev ..).trans ev, (Dev.setReg_free ..).trans free⟩
  rw [not_or, not_or] at ha
  obtain ⟨h1, h2, -⟩ := ha
  exact (other a h2).trans (quiet.regs hd a h1)

/-- The seed that the PUF gives with so many cells off. -/
def Dev.pufSeed (d : Dev) (n : Nat) : BitVec 256 := if n ≤ 15 then Config.pufSeed (d.flash 0x10040 (leAt (d.flash 0x10000 64) 4 4 % 0x10000)) else Config.pufBad d.free
/-- The helper data is whole, and its CHECK that of the seed. -/
def Dev.pufChecks (d : Dev) (seed : BitVec 256) : Prop :=
  leAt (d.flash 0x10000 64) 0 4 = 0x504C4548 ∧ bytesAt (d.flash 0x10000 64) 32 32 = digestBytes (Config.sha3 (ascii "LLY-CHECK" ++ seedBytes seed))
/-- The PUF has been read. -/
def Dev.pufTaken (d : Dev) : Dev := { d with free := d.free + 1 }.modSp fun x => { x with pufRead := true }
/-- The PUF is read and its seed judged. -/
def Dev.identityRead (d : Dev) (n : Nat) : Dev :=
  if leAt (d.flash 0x10000 64) 0 4 == 0x504C4548 && bytesAt (d.flash 0x10000 64) 32 32 == digestBytes (Config.sha3 (ascii "LLY-CHECK" ++ seedBytes (d.pufSeed n))) then
    (d.pufTaken.modSp fun x => { x with seed := some (d.pufSeed n) }).setF Reg.SEC_STATUS F.SEC_STATUS_IDENTITY_OK 1
  else (d.pufTaken.imageRejected 4 8).recover_ 8

theorem railsInRegulation_eq : railsInRegulationEffect n d =
    if d.getF Reg.PWR_STATUS F.PWR_STATUS_SUPPLY != 0 then d else if d.regulated.sp.pufRead then d.regulated else d.regulated.identityRead n := by
  unfold railsInRegulationEffect
  rw [← Dev.regulated]
  generalize d.regulated = u
  rfl

theorem railsInRegulation_stays (h : d.getF Reg.PWR_STATUS F.PWR_STATUS_SUPPLY ≠ 0) : railsInRegulationEffect n d = d := if_pos (bne_iff_ne.2 h)
theorem railsInRegulation_again (hd : d.canon) (h : d.getF Reg.PWR_STATUS F.PWR_STATUS_SUPPLY = 0) (hp : d.sp.pufRead = true) : railsInRegulationEffect n d = d.regulated := by
  obtain ⟨-, -, sp, -⟩ := Dev.regulated_facts hd
  rw [railsInRegulation_eq, h, sp, hp]
  rfl

theorem railsInRegulation_reads (hd : d.canon) (h : d.getF Reg.PWR_STATUS F.PWR_STATUS_SUPPLY = 0) (hp : d.sp.pufRead = false) : railsInRegulationEffect n d =
    if leAt (d.flash 0x10000 64) 0 4 == 0x504C4548 && bytesAt (d.flash 0x10000 64) 32 32 == digestBytes (Config.sha3 (ascii "LLY-CHECK" ++ seedBytes (d.pufSeed n))) then
      (d.regulated.pufTaken.modSp fun x => { x with seed := some (d.pufSeed n) }).setF Reg.SEC_STATUS F.SEC_STATUS_IDENTITY_OK 1
    else (d.regulated.pufTaken.imageRejected 4 8).recover_ 8 := by
  obtain ⟨-, -, sp, -, free⟩ := Dev.regulated_facts hd
  have seed : d.regulated.pufSeed n = d.pufSeed n := by rw [Dev.pufSeed, Dev.pufSeed, Dev.flash_of sp, free]
  rw [railsInRegulation_eq, if_neg (by rw [h]; decide), sp, if_neg (by rw [hp]; decide), Dev.identityRead, seed, Dev.flash_of sp]

theorem Dev.pufTaken_parts : (d.canon → d.pufTaken.canon) ∧ d.pufTaken.sp = { d.sp with pufRead := true } ∧ d.pufTaken.regs = d.regs ∧ d.pufTaken.mem = d.mem ∧ d.pufTaken.ev = d.ev :=
  ⟨Dev.canon.modSp (f := fun x => { x with pufRead := true }), rfl, rfl, rfl, rfl⟩

theorem railsInRegulation_identified (hd : d.canon) (h : d.getF Reg.PWR_STATUS F.PWR_STATUS_SUPPLY = 0) (hp : d.sp.pufRead = false) (hg : d.pufChecks (d.pufSeed n)) :
    let e := railsInRegulationEffect n d
    Dev.Regulates d e ∧ e.sp = { d.sp with pufRead := true, seed := some (d.pufSeed n) } ∧ e.getB Reg.SEC_STATUS F.SEC_STATUS_IDENTITY_OK = true ∧ e.ev = d.ev := by
  rw [railsInRegulation_reads hd h hp, if_pos (by rw [Bool.and_eq_true, beq_iff_eq, beq_iff_eq]; exact hg)]
  obtain ⟨canon, regulates, sp, ev, -⟩ := Dev.regulated_facts hd
  generalize d.pufSeed n = seed
  generalize d.regulated = u at *
  obtain ⟨keeps, sp', regs, mem, ev'⟩ := Dev.pufTaken_parts (d := u)
  have canon' := keeps canon
  generalize u.pufTaken = v at *
  obtain ⟨keeps', sp'', regs', mem', ev''⟩ := Dev.modSp_parts (d := v) (f := fun x => { x with seed := some seed })
  have canon'' := keeps' canon'
  have identified := (regulates.of regs mem).of regs' mem'
  generalize v.modSp (fun x => { x with seed := some seed }) = w at *
  refine ⟨identified.quiet canon'' (Dev.Quiet.refl.setF rfl), (Dev.setF_sp ..).trans ?_, beq_iff_eq.2 (Dev.getF_setF_lt canon'' (by decide)), (Dev.setF_ev ..).trans (ev''.trans (ev'.trans ev))⟩
  rw [sp'', sp', sp]

theorem railsInRegulation_recovers (hd : d.canon) (h : d.getF Reg.PWR_STATUS F.PWR_STATUS_SUPPLY = 0) (hp : d.sp.pufRead = false) (hg : ¬ d.pufChecks (d.pufSeed n)) :
    let e := railsInRegulationEffect n d
    Dev.Regulates d e ∧ e.sp = { d.sp with pufRead := true } ∧ e.recovery = true ∧ e.getF Reg.SEC_STATUS F.SEC_STATUS_REASON = 8 ∧
      (∃ r ∈ e.ev.arisen, r.code = 0xE002 ∧ r.object = 4 ∧ r.detail = 8) ∧ ∃ r ∈ e.ev.arisen, r.code = 0xE003 ∧ r.object = 8 := by
  rw [railsInRegulation_reads hd h hp, if_neg (by rw [Bool.and_eq_true, beq_iff_eq, beq_iff_eq]; exact hg)]
  obtain ⟨canon, regulates, sp, -, -⟩ := Dev.regulated_facts hd
  generalize d.regulated = u at *
  obtain ⟨keeps, sp', regs, mem, -⟩ := Dev.pufTaken_parts (d := u)
  have canon' := keeps canon
  have taken := regulates.of regs mem
  generalize u.pufTaken = v at *
  have quiet : Dev.Quiet (· = Reg.SEC_STATUS) v (v.imageRejected 4 8) := Dev.imageRejected_quiet
  obtain ⟨⟨q, hq, told⟩, -⟩ := Dev.imageRejected_told (d := v) (o := 4) (r := 8)
  generalize v.imageRejected 4 8 = w at *
  have canon'' := quiet.keeps canon'
  obtain ⟨recovers, reason, told', kept⟩ := Dev.recover_facts (r := 8) canon''
  exact ⟨(taken.quiet canon' quiet).quiet canon'' Dev.recover_quiet, Dev.recover_quiet.security.trans (quiet.security.trans (sp'.trans (by rw [sp]))), recovers, reason,
    ⟨q, kept q hq, told⟩, told'⟩

/-! ## The firmware -/

/-- A firmware's version and information are shown. -/
def Dev.fwInfo (d : Dev) (l : Bytes) : Dev :=
  (d.setReg Reg.SEC_FW_VERSION (BitVec.ofNat 64 (leAt l 16 8))).setFs Reg.SEC_FW_INFO
    [(F.SEC_FW_INFO_SVN, leAt l 12 4), (F.SEC_FW_INFO_KEY_INDEX, leAt l 9 1), (F.SEC_FW_INFO_INTERFACE, leAt l 10 2)]

theorem Dev.fwInfo_quiet : Dev.Quiet (fun a => a = Reg.SEC_FW_VERSION ∨ a = Reg.SEC_FW_INFO) d (d.fwInfo l) := (Dev.Quiet.refl.setReg (.inl rfl)).setFs (.inr rfl)
theorem Dev.fwInfo_facts (hd : d.canon) : (d.fwInfo l).reg Reg.SEC_FW_VERSION = BitVec.ofNat 64 (leAt l 16 8) ∧ (d.fwInfo l).getF Reg.SEC_FW_INFO F.SEC_FW_INFO_SVN = leAt l 12 4 ∧
    (d.fwInfo l).ev = d.ev := by
  have small : leAt l 12 4 < 2 ^ 32 := leAt_lt l 12 4
  have canon : (d.setReg Reg.SEC_FW_VERSION (BitVec.ofNat 64 (leAt l 16 8))).canon := hd.setReg
  have version : (d.setReg Reg.SEC_FW_VERSION (BitVec.ofNat 64 (leAt l 16 8))).reg Reg.SEC_FW_VERSION = BitVec.ofNat 64 (leAt l 16 8) := Dev.reg_setReg_self _ _ hd
  have ev : (d.setReg Reg.SEC_FW_VERSION (BitVec.ofNat 64 (leAt l 16 8))).ev = d.ev := Dev.setReg_ev ..
  unfold Dev.fwInfo
  generalize d.setReg Reg.SEC_FW_VERSION (BitVec.ofNat 64 (leAt l 16 8)) = u at *
  exact ⟨(Dev.reg_setFs_ne _ canon (by decide)).trans version, (Dev.getF_setFs_mid (pre := []) canon (by rfl) (by rfl)).trans (Nat.mod_eq_of_lt small), (Dev.setFs_ev ..).trans ev⟩

/-- The image of a slot. -/
def Dev.fwImage (d : Dev) (x : Nat) : Bytes := d.flash (fwSlot x) (fwSize (d.flash (fwSlot x) 256))
/-- The firmware of a slot is loaded and shown. -/
def Dev.fwLoaded (d : Dev) (x k : Nat) (l : Bytes) : Dev :=
  ((d.modSp fun y => { y with fw := l }).setFs Reg.SEC_STATUS [(F.SEC_STATUS_SLOT, x), (F.SEC_STATUS_FALLBACK, k), (F.SEC_STATUS_IDENTITY_OK, 1)]).fwInfo l

theorem Dev.fwLoaded_facts {k : Nat} (hd : d.canon) : let e := d.fwLoaded x k l
    e.canon ∧ e.sp.fw = l ∧ e.getF Reg.SEC_STATUS F.SEC_STATUS_SLOT = x % 2 ∧ e.getF Reg.SEC_STATUS F.SEC_STATUS_FALLBACK = k % 2 ∧ e.secStage = d.secStage ∧
      e.reg Reg.SEC_FW_VERSION = BitVec.ofNat 64 (leAt l 16 8) ∧ e.getF Reg.SEC_FW_INFO F.SEC_FW_INFO_SVN = leAt l 12 4 ∧ e.mem = d.mem ∧ e.ev = d.ev := by
  obtain ⟨keeps, sp, regs, mem, ev⟩ := Dev.modSp_parts (d := d) (f := fun y => { y with fw := l })
  have canon := keeps hd
  have stage := Dev.getF_of regs Reg.SEC_STATUS F.SEC_STATUS_STAGE
  unfold Dev.fwLoaded
  generalize d.modSp (fun y => { y with fw := l }) = u at *
  have slot : (u.setFs Reg.SEC_STATUS [(F.SEC_STATUS_SLOT, x), (F.SEC_STATUS_FALLBACK, k), (F.SEC_STATUS_IDENTITY_OK, 1)]).getF Reg.SEC_STATUS F.SEC_STATUS_SLOT = x % 2 :=
    Dev.getF_setFs_mid (pre := []) canon (by rfl) (by rfl)
  have fallback : (u.setFs Reg.SEC_STATUS [(F.SEC_STATUS_SLOT, x), (F.SEC_STATUS_FALLBACK, k), (F.SEC_STATUS_IDENTITY_OK, 1)]).getF Reg.SEC_STATUS F.SEC_STATUS_FALLBACK = k % 2 :=
    Dev.getF_setFs_mid (pre := [_]) canon (by rfl) (by rfl)
  have kept : (u.setFs Reg.SEC_STATUS [(F.SEC_STATUS_SLOT, x), (F.SEC_STATUS_FALLBACK, k), (F.SEC_STATUS_IDENTITY_OK, 1)]).getF Reg.SEC_STATUS F.SEC_STATUS_STAGE =
      u.getF Reg.SEC_STATUS F.SEC_STATUS_STAGE := Dev.getF_setFs_apart canon (by rfl)
  have quiet : Dev.Quiet (· = Reg.SEC_STATUS) u (u.setFs Reg.SEC_STATUS [(F.SEC_STATUS_SLOT, x), (F.SEC_STATUS_FALLBACK, k), (F.SEC_STATUS_IDENTITY_OK, 1)]) := Dev.Quiet.refl.setFs rfl
  have ev' : (u.setFs Reg.SEC_STATUS [(F.SEC_STATUS_SLOT, x), (F.SEC_STATUS_FALLBACK, k), (F.SEC_STATUS_IDENTITY_OK, 1)]).ev = u.ev := Dev.setFs_ev ..
  generalize u.setFs Reg.SEC_STATUS [(F.SEC_STATUS_SLOT, x), (F.SEC_STATUS_FALLBACK, k), (F.SEC_STATUS_IDENTITY_OK, 1)] = v at *
  have canon' := quiet.keeps canon
  obtain ⟨version, svn, ev''⟩ := Dev.fwInfo_facts (l := l) canon'
  have info : Dev.Quiet (fun a => a = Reg.SEC_FW_VERSION ∨ a = Reg.SEC_FW_INFO) v (v.fwInfo l) := Dev.fwInfo_quiet
  generalize v.fwInfo l = w at *
  have status (f : Fld) : w.getF Reg.SEC_STATUS f = v.getF Reg.SEC_STATUS f := congrArg (fieldOf f) (info.regs canon' _ (by decide))
  exact ⟨info.keeps canon', (congrArg SecState.fw (info.security.trans (quiet.security.trans sp)) :), (status _).trans slot, (status _).trans fallback,
    (status _).trans (kept.trans stage), version, svn, info.mem.trans (quiet.mem.trans mem), ev''.trans (ev'.trans ev)⟩

/-- A slot runs: what it shows, and what else the device keeps. -/
structure Dev.SlotRuns (d e : Dev) (x : Nat) (fb : Bool) : Prop where
  fw : e.sp.fw = d.fwImage x
  slot : e.getF Reg.SEC_STATUS F.SEC_STATUS_SLOT = x % 2
  fallback : e.getB Reg.SEC_STATUS F.SEC_STATUS_FALLBACK = fb
  stage : e.secStage = d.secStage
  version : e.reg Reg.SEC_FW_VERSION = BitVec.ofNat 64 (leAt e.sp.fw 16 8)
  svn : e.getF Reg.SEC_FW_INFO F.SEC_FW_INFO_SVN = leAt e.sp.fw 12 4
  mem : e.mem = d.mem
  told : ∀ q ∈ d.ev.arisen, q ∈ e.ev.arisen

theorem Dev.bootSlot_eq {fb : Bool} : d.bootSlot x fb = let u := d.fwLoaded x (if fb then 1 else 0) (d.fwImage x)
    if u.sp.switched && !fb then (u.modSp fun y => { y with switched := false }).secEvent 0xE005 (leAt (d.fwImage x) 16 4) 0 else u := rfl

theorem Dev.bootSlot_runs {fb : Bool} (hd : d.canon) : Dev.SlotRuns d (d.bootSlot x fb) x fb := by
  rw [Dev.bootSlot_eq]
  generalize hl : d.fwImage x = l
  obtain ⟨canon, fw, slot, fallback, stage, version, svn, mem, ev⟩ := Dev.fwLoaded_facts (x := x) (k := if fb then 1 else 0) (l := l) hd
  have shown : (d.fwLoaded x (if fb then 1 else 0) l).getB Reg.SEC_STATUS F.SEC_STATUS_FALLBACK = fb := by
    rw [Dev.getB, fallback]
    cases fb <;> rfl
  generalize d.fwLoaded x (if fb then 1 else 0) l = u at *
  dsimp only
  split
  · obtain ⟨-, sp, regs, mem', ev'⟩ := Dev.modSp_parts (d := u) (f := fun y => { y with switched := false })
    have fw' : (u.modSp fun y => { y with switched := false }).sp.fw = l := (congrArg SecState.fw sp :).trans fw
    generalize u.modSp (fun y => { y with switched := false }) = w at *
    have reg (a : Nat) : (w.secEvent 0xE005 (leAt l 16 4) 0).reg a = u.reg a := (Dev.raise_reg ..).trans (congrFun (Dev.reg_of regs) a)
    have field (f : Fld) (a : Nat) : (w.secEvent 0xE005 (leAt l 16 4) 0).getF a f = u.getF a f := congrArg (fieldOf f) (reg a)
    have sp' : (w.secEvent 0xE005 (leAt l 16 4) 0).sp = w.sp := Dev.raise_sp ..
    refine ⟨?_, (field _ _).trans slot, (congrArg (· == 1) (field _ _)).trans shown, (field _ _).trans stage, ?_, ?_, (Dev.raise_mem ..).trans (mem'.trans mem), fun q hq => ?_⟩
    · rw [sp', fw', hl]
    · rw [sp', fw', reg, version]
    · rw [sp', fw', field, svn]
    · exact Dev.raise_arisen (by rwa [ev', ev])
  · exact ⟨by rw [fw, hl], slot, shown, stage, by rw [fw, version], by rw [fw, svn], mem, fun q hq => by rwa [ev]⟩

/-- The firmware is due to be verified. -/
def Dev.verifyDue (d : Dev) : Prop := d.secStage = 0 ∧ d.sp.seed ≠ none ∧ d.sp.fw = []
theorem firmwareVerify_cond : (d.secStage != 0 || d.sp.seed.isNone || d.sp.fw != []) = true ↔ ¬ d.verifyDue := by
  rw [Dev.verifyDue, Bool.or_eq_true, Bool.or_eq_true, bne_iff_ne, bne_iff_ne, Option.isNone_iff_eq_none, not_and_or, not_and_or, not_not, or_assoc]

theorem firmwareVerify_stays (h : ¬ d.verifyDue) : firmwareVerifyEffect d = d := if_pos (firmwareVerify_cond.2 h)
theorem firmwareVerify_first (h : d.verifyDue) (h0 : d.fwSlotFault (d.dirField 0) = none) : firmwareVerifyEffect d = d.bootSlot (d.dirField 0) false := by
  refine (if_neg (mt firmwareVerify_cond.1 (not_not.2 h))).trans ?_
  dsimp only
  rw [h0]
theorem firmwareVerify_second (h : d.verifyDue) (h0 : d.fwSlotFault (d.dirField 0) = some r) (h1 : d.fwSlotFault (1 - d.dirField 0) = none) :
    firmwareVerifyEffect d = (d.imageRejected (d.dirField 0) r).bootSlot (1 - d.dirField 0) true := by
  refine (if_neg (mt firmwareVerify_cond.1 (not_not.2 h))).trans ?_
  dsimp only
  rw [h0]
  dsimp only
  rw [Dev.fwSlotFault_of Dev.imageRejected_quiet.security, h1]
theorem firmwareVerify_neither {r' : Nat} (h : d.verifyDue) (h0 : d.fwSlotFault (d.dirField 0) = some r) (h1 : d.fwSlotFault (1 - d.dirField 0) = some r') :
    firmwareVerifyEffect d = ((d.imageRejected (d.dirField 0) r).imageRejected (1 - d.dirField 0) r').recover_ r' := by
  refine (if_neg (mt firmwareVerify_cond.1 (not_not.2 h))).trans ?_
  dsimp only
  rw [h0]
  dsimp only
  rw [Dev.fwSlotFault_of Dev.imageRejected_quiet.security, h1]

end Sys2Proof.Machine
end

section
/-! SUPPORT. The repair image and the release of the stewards; staging, application and field records (R505 to R514). -/
namespace Sys2Proof.Machine

-- One proof after another: with many at once their threads' stacks exceed the memory that the check allows.
set_option Elab.async false

variable {d e u : Dev} {x n r o t : Nat} {l : Bytes} {m : Master} {s : State}

/-! ## The repair image -/

theorem Dev.aliasSeed_of (hs : e.sp.seed = d.sp.seed) (hf : e.sp.fw = d.sp.fw) (hr : e.sp.repair = d.sp.repair) : e.aliasSeed = d.aliasSeed := by
  rw [Dev.aliasSeed, Dev.aliasSeed, Dev.repairDigest, Dev.repairDigest, hs, hf, hr]

theorem Dev.takeAlias_facts (hd : d.canon) : let e := d.takeAlias
    e.canon ∧ e.sp = { d.sp with alias_ := d.aliasSeed } ∧ e.sp.alias_ = e.aliasSeed ∧ e.getF Reg.CXL_IDE F.CXL_IDE_REQUIRED = e.policy / 2 % 2 ∧
      d.sameRegs e (· = Reg.CXL_IDE) ∧ e.mem = d.mem ∧ e.ev = d.ev := by
  obtain ⟨keeps, sp, regs, mem, ev⟩ := Dev.modSp_parts (d := d) (f := fun x => { x with alias_ := d.aliasSeed })
  have canon := keeps hd
  have reg := congrFun (Dev.reg_of regs)
  unfold Dev.takeAlias
  generalize d.modSp (fun x => { x with alias_ := d.aliasSeed }) = u at *
  have required : (u.setF Reg.CXL_IDE F.CXL_IDE_REQUIRED (d.policy / 2 % 2)).getF Reg.CXL_IDE F.CXL_IDE_REQUIRED = d.policy / 2 % 2 :=
    Dev.getF_setF_lt canon (Nat.mod_lt _ (by decide))
  have other (a : Nat) (ha : a ≠ Reg.CXL_IDE) : (u.setF Reg.CXL_IDE F.CXL_IDE_REQUIRED (d.policy / 2 % 2)).reg a = u.reg a := Dev.reg_setReg_ne _ canon (Ne.symm ha)
  have sp' : (u.setF Reg.CXL_IDE F.CXL_IDE_REQUIRED (d.policy / 2 % 2)).sp = { d.sp with alias_ := d.aliasSeed } := (Dev.setF_sp ..).trans sp
  have mem' : (u.setF Reg.CXL_IDE F.CXL_IDE_REQUIRED (d.policy / 2 % 2)).mem = d.mem := (Dev.setF_mem ..).trans mem
  have ev' : (u.setF Reg.CXL_IDE F.CXL_IDE_REQUIRED (d.policy / 2 % 2)).ev = d.ev := (Dev.setF_ev ..).trans ev
  have canon' : (u.setF Reg.CXL_IDE F.CXL_IDE_REQUIRED (d.policy / 2 % 2)).canon := canon.setF
  generalize u.setF Reg.CXL_IDE F.CXL_IDE_REQUIRED (d.policy / 2 % 2) = w at *
  have fw : w.sp.fw = d.sp.fw := (congrArg SecState.fw sp' :)
  have policy : w.policy = d.policy := by rw [Dev.policy, Dev.policy, fw]
  have seed : w.aliasSeed = d.aliasSeed := Dev.aliasSeed_of (congrArg SecState.seed sp' :) fw (congrArg SecState.repair sp' :)
  exact ⟨canon', sp', (congrArg SecState.alias_ sp' :).trans seed.symm, required.trans (by rw [policy]), fun a ha => (other a ha).trans (reg a), mem', ev'⟩

/-- The image of a repair slot. -/
def Dev.repairImage (d : Dev) (x : Nat) : Bytes := d.flash (repairSlot x) (repairSize (d.flash (repairSlot x) 128))
/-- A repair image is held, with the records of its field section. -/
def Dev.repairHeld (d : Dev) (l : Bytes) (fs : Option (List Bytes)) : Dev :=
  d.modSp fun y => { y with repair := l, fields := fs.getD [], released := true, bootDue := true, bootMs := (d.now - y.vinAt) / 5000000 }
/-- The stewards are released with a repair image. -/
def Dev.repairTaken (d : Dev) (l : Bytes) (fs : Option (List Bytes)) : Dev :=
  ((d.repairHeld l fs).setFs Reg.SEC_STATUS [(F.SEC_STATUS_REPAIR_OK, 1), (F.SEC_STATUS_FIELD_OK, if fs.isSome then 1 else 0), (F.SEC_STATUS_STAGE, 1)]).takeAlias

/-- `e` has released the stewards with a repair image and its field records. -/
structure Dev.RepairUsed (d e : Dev) (l : Bytes) (fs : Option (List Bytes)) : Prop where
  repair : e.sp.repair = l
  released : e.sp.released = true
  stage : e.secStage = 1
  repairOk : e.getB Reg.SEC_STATUS F.SEC_STATUS_REPAIR_OK = true
  fieldOk : e.getB Reg.SEC_STATUS F.SEC_STATUS_FIELD_OK = fs.isSome
  fields : e.sp.fields = fs.getD []
  key : e.sp.alias_ = e.aliasSeed
  required : e.getF Reg.CXL_IDE F.CXL_IDE_REQUIRED = e.policy / 2 % 2
  mem : e.mem = d.mem
  told : ∀ q ∈ d.ev.arisen, q ∈ e.ev.arisen

theorem Dev.repairTaken_used {fs : Option (List Bytes)} (hd : d.canon) : Dev.RepairUsed d (d.repairTaken l fs) l fs := by
  have parts : (d.repairHeld l fs).sp.repair = l ∧ (d.repairHeld l fs).sp.released = true ∧ (d.repairHeld l fs).sp.fields = fs.getD [] ∧ (d.repairHeld l fs).mem = d.mem ∧
      (d.repairHeld l fs).ev = d.ev := ⟨rfl, rfl, rfl, rfl, rfl⟩
  have canon : (d.repairHeld l fs).canon := hd.modSp
  unfold Dev.repairTaken
  generalize d.repairHeld l fs = u at *
  obtain ⟨repair, released, fields, mem, ev⟩ := parts
  generalize hk : (if fs.isSome then 1 else 0) = k
  have ok : (u.setFs Reg.SEC_STATUS [(F.SEC_STATUS_REPAIR_OK, 1), (F.SEC_STATUS_FIELD_OK, k), (F.SEC_STATUS_STAGE, 1)]).getF Reg.SEC_STATUS F.SEC_STATUS_REPAIR_OK = 1 :=
    Dev.getF_setFs_mid (pre := []) canon (by rfl) (by rfl)
  have fieldOk : (u.setFs Reg.SEC_STATUS [(F.SEC_STATUS_REPAIR_OK, 1), (F.SEC_STATUS_FIELD_OK, k), (F.SEC_STATUS_STAGE, 1)]).getF Reg.SEC_STATUS F.SEC_STATUS_FIELD_OK = k % 2 :=
    Dev.getF_setFs_mid (pre := [_]) canon (by rfl) (by rfl)
  have stage : (u.setFs Reg.SEC_STATUS [(F.SEC_STATUS_REPAIR_OK, 1), (F.SEC_STATUS_FIELD_OK, k), (F.SEC_STATUS_STAGE, 1)]).getF Reg.SEC_STATUS F.SEC_STATUS_STAGE = 1 :=
    Dev.getF_setFs_mid (pre := [_, _]) canon (by rfl) (by rfl)
  have quiet : Dev.Quiet (· = Reg.SEC_STATUS) u (u.setFs Reg.SEC_STATUS [(F.SEC_STATUS_REPAIR_OK, 1), (F.SEC_STATUS_FIELD_OK, k), (F.SEC_STATUS_STAGE, 1)]) := Dev.Quiet.refl.setFs rfl
  have ev' : (u.setFs Reg.SEC_STATUS [(F.SEC_STATUS_REPAIR_OK, 1), (F.SEC_STATUS_FIELD_OK, k), (F.SEC_STATUS_STAGE, 1)]).ev = u.ev := Dev.setFs_ev ..
  generalize u.setFs Reg.SEC_STATUS [(F.SEC_STATUS_REPAIR_OK, 1), (F.SEC_STATUS_FIELD_OK, k), (F.SEC_STATUS_STAGE, 1)] = v at *
  obtain ⟨-, sp, key, required, regs, mem', ev''⟩ := Dev.takeAlias_facts (quiet.keeps canon)
  generalize v.takeAlias = w at *
  have held := quiet.security
  have status (f : Fld) : w.getF Reg.SEC_STATUS f = v.getF Reg.SEC_STATUS f := congrArg (fieldOf f) (regs Reg.SEC_STATUS (by decide))
  refine ⟨(congrArg SecState.repair sp :).trans ((congrArg SecState.repair held :).trans repair), (congrArg SecState.released sp :).trans ((congrArg SecState.released held :).trans released),
    (status _).trans stage, beq_iff_eq.2 ((status _).trans ok), (congrArg (· == 1) ((status _).trans fieldOk)).trans ?_,
    (congrArg SecState.fields sp :).trans ((congrArg SecState.fields held :).trans fields), key, required, mem'.trans (quiet.mem.trans mem), fun q hq => by rwa [ev'', ev', ev]⟩
  rw [← hk]
  cases fs.isSome <;> rfl

theorem Dev.RepairUsed.from {fs : Option (List Bytes)} (h : Dev.RepairUsed u e l fs) (hm : u.mem = d.mem) (ht : ∀ q ∈ d.ev.arisen, q ∈ u.ev.arisen) : Dev.RepairUsed d e l fs :=
  { h with mem := h.mem.trans hm, told := fun q hq => h.told q (ht q hq) }

theorem Dev.useRepair_eq : d.useRepair x =
    (if (d.fieldRecs (d.repairImage x)).isSome then d else d.imageRejected (2 + x) 10).repairTaken (d.repairImage x) (d.fieldRecs (d.repairImage x)) := rfl
theorem Dev.useRepair_used (hd : d.canon) : Dev.RepairUsed d (d.useRepair x) (d.repairImage x) (d.fieldRecs (d.repairImage x)) := by
  rw [Dev.useRepair_eq]
  split
  · exact Dev.repairTaken_used hd
  · exact (Dev.repairTaken_used hd.imageRejected).from Dev.imageRejected_quiet.mem Dev.imageRejected_told.2

theorem repairImageCheck_stays (h : ¬ (d.secStage = 0 ∧ d.sp.fw ≠ [])) : repairImageCheckEffect d = d :=
  if_pos (by rw [Bool.or_eq_true, bne_iff_ne, beq_iff_eq, ← not_and_or.trans (or_congr_right not_not)]; exact h)
theorem repairImageCheck_due (h : d.secStage = 0 ∧ d.sp.fw ≠ []) : ¬ (d.secStage != 0 || d.sp.fw == []) = true := by
  rw [Bool.or_eq_true, bne_iff_ne, beq_iff_eq, ← not_and_or.trans (or_congr_right not_not), not_not]
  exact h
theorem repairImageCheck_first (h : d.secStage = 0 ∧ d.sp.fw ≠ []) (h0 : d.repairSlotFault (d.dirField 2) = none) : repairImageCheckEffect d = d.useRepair (d.dirField 2) := by
  refine (if_neg (repairImageCheck_due h)).trans ?_
  dsimp only
  rw [h0]
theorem repairImageCheck_second (h : d.secStage = 0 ∧ d.sp.fw ≠ []) (h0 : d.repairSlotFault (d.dirField 2) = some r) (h1 : d.repairSlotFault (1 - d.dirField 2) = none) :
    repairImageCheckEffect d = (d.imageRejected (2 + d.dirField 2) r).useRepair (1 - d.dirField 2) := by
  refine (if_neg (repairImageCheck_due h)).trans ?_
  dsimp only
  rw [h0]
  dsimp only
  rw [Dev.repairSlotFault_of Dev.imageRejected_quiet.security, h1]
theorem repairImageCheck_neither {r' : Nat} (h : d.secStage = 0 ∧ d.sp.fw ≠ []) (h0 : d.repairSlotFault (d.dirField 2) = some r) (h1 : d.repairSlotFault (1 - d.dirField 2) = some r') :
    repairImageCheckEffect d = ((d.imageRejected (2 + d.dirField 2) r).imageRejected (3 - d.dirField 2) r').recover_ 11 := by
  refine (if_neg (repairImageCheck_due h)).trans ?_
  dsimp only
  rw [h0]
  dsimp only
  rw [Dev.repairSlotFault_of Dev.imageRejected_quiet.security, h1]

/-- Two images rejected, and recovery mode. -/
theorem Dev.recovered_facts {r' o' k : Nat} (hd : d.canon) : let e := ((d.imageRejected o r).imageRejected o' r').recover_ k
    e.recovery = true ∧ e.sp = d.sp ∧ e.mem = d.mem ∧ e.getF Reg.SEC_STATUS F.SEC_STATUS_REASON = k % 256 ∧ ∃ q ∈ e.ev.arisen, q.code = 0xE003 ∧ q.object = BitVec.ofNat 32 k := by
  have quiet : Dev.Quiet (· = Reg.SEC_STATUS) d ((d.imageRejected o r).imageRejected o' r') := Dev.Quiet.trans Dev.imageRejected_quiet Dev.imageRejected_quiet
  generalize (d.imageRejected o r).imageRejected o' r' = u at *
  obtain ⟨recovers, reason, told, -⟩ := Dev.recover_facts (r := k) (quiet.keeps hd)
  exact ⟨recovers, Dev.recover_quiet.security.trans quiet.security, Dev.recover_quiet.mem.trans quiet.mem, reason, told⟩

/-- A slot of an image rejected before it runs. -/
theorem Dev.SlotRuns.after {fb : Bool} (hd : d.canon) (h : Dev.SlotRuns (d.imageRejected o r) e x fb) : Dev.SlotRuns d e x fb ∧
    ∃ q ∈ e.ev.arisen, q.code = 0xE002 ∧ q.object = BitVec.ofNat 32 o ∧ q.detail = BitVec.ofNat 64 r := by
  obtain ⟨⟨q, hq, told⟩, kept⟩ := Dev.imageRejected_told (d := d) (o := o) (r := r)
  have image : (d.imageRejected o r).fwImage x = d.fwImage x := by rw [Dev.fwImage, Dev.fwImage, Dev.flash_of Dev.imageRejected_quiet.security]
  exact ⟨{ h with fw := h.fw.trans image, stage := h.stage.trans (Dev.imageRejected_stage hd), mem := h.mem.trans Dev.imageRejected_quiet.mem, told := fun q hq => h.told q (kept q hq) },
    q, h.told q hq, told⟩

/-- Every image asked for at boot is judged by its checks: the first, the other, or recovery. -/
theorem repairImageCheck_rejects (hd : d.canon) (h : d.secStage = 0 ∧ d.sp.fw ≠ []) (h0 : d.repairSlotFault (d.dirField 2) = some r) (h1 : d.repairSlotFault (1 - d.dirField 2) = none) :
    let e := repairImageCheckEffect d
    Dev.RepairUsed d e (d.repairImage (1 - d.dirField 2)) (d.fieldRecs (d.repairImage (1 - d.dirField 2))) ∧
      ∃ q ∈ e.ev.arisen, q.code = 0xE002 ∧ q.object = BitVec.ofNat 32 (2 + d.dirField 2) := by
  rw [repairImageCheck_second h h0 h1]
  have sp : (d.imageRejected (2 + d.dirField 2) r).sp = d.sp := Dev.imageRejected_quiet.security
  have mem : (d.imageRejected (2 + d.dirField 2) r).mem = d.mem := Dev.imageRejected_quiet.mem
  have canon := hd.imageRejected (object := 2 + d.dirField 2) (reason := r)
  obtain ⟨⟨q, hq, code, object, -⟩, kept⟩ := Dev.imageRejected_told (d := d) (o := 2 + d.dirField 2) (r := r)
  generalize d.imageRejected (2 + d.dirField 2) r = u at *
  have used := Dev.useRepair_used (x := 1 - d.dirField 2) canon
  rw [Dev.fieldRecs_of sp, Dev.repairImage, Dev.flash_of sp, ← Dev.repairImage] at used
  exact ⟨used.from mem kept, q, used.told q hq, code, object⟩

/-! ## Staging -/

theorem Dev.setFwState_quiet {k : Nat} : Dev.Quiet (· = Reg.SEC_FW_RESULT) d (d.setFwState k r) := Dev.Quiet.refl.setFs rfl
theorem Dev.setFwState_facts {k : Nat} (hd : d.canon) : (d.setFwState k r).fwState = k % 8 ∧ (d.setFwState k r).getF Reg.SEC_FW_RESULT F.SEC_FW_RESULT_REASON = r % 256 ∧
    (d.setFwState k r).ev = d.ev := ⟨Dev.getF_setFs_mid (pre := []) hd (by rfl) (by rfl), Dev.getF_setFs_mid (pre := [_]) hd (by rfl) (by rfl), Dev.setFs_ev ..⟩

/-- A change of the state shown, then of the security processor's own. -/
theorem Dev.setFwState_modSp {k : Nat} {f : SecState → SecState} (hd : d.canon) : let e := (d.setFwState k r).modSp f
    e.fwState = k % 8 ∧ e.getF Reg.SEC_FW_RESULT F.SEC_FW_RESULT_REASON = r % 256 ∧ e.sp = f d.sp ∧ e.mem = d.mem ∧ e.ev = d.ev ∧ d.sameRegs e (· = Reg.SEC_FW_RESULT) := by
  obtain ⟨state, reason, ev⟩ := Dev.setFwState_facts (k := k) (r := r) hd
  have quiet : Dev.Quiet (· = Reg.SEC_FW_RESULT) d (d.setFwState k r) := Dev.setFwState_quiet
  generalize d.setFwState k r = u at *
  obtain ⟨-, sp, regs, mem, ev'⟩ := Dev.modSp_parts (d := u) (f := f)
  exact ⟨(Dev.getF_of regs ..).trans state, (Dev.getF_of regs ..).trans reason, sp.trans (by rw [quiet.security]), mem.trans quiet.mem, ev'.trans ev,
    fun a ha => (congrFun (Dev.reg_of regs) a).trans (quiet.regs hd a ha)⟩

/-- An update is under way. -/
def Dev.updating (d : Dev) : Prop := d.fwState = 1 ∨ d.fwState = 2 ∨ d.fwState = 3
theorem Dev.updating_iff : (d.fwState == 1 || d.fwState == 2 || d.fwState == 3) = true ↔ d.updating := by
  rw [Bool.or_eq_true, Bool.or_eq_true, beq_iff_eq, beq_iff_eq, beq_iff_eq, or_assoc, Dev.updating]

/-- Showing a reason changes nothing else. -/
theorem Dev.reasonShown_facts (hd : d.canon) (hr : r < 256) : let e := d.setF Reg.SEC_FW_RESULT F.SEC_FW_RESULT_REASON r
    e.getF Reg.SEC_FW_RESULT F.SEC_FW_RESULT_REASON = r ∧ e.fwState = d.fwState ∧ e.sp = d.sp ∧ e.mem = d.mem ∧ e.ev = d.ev ∧ d.sameRegs e (· = Reg.SEC_FW_RESULT) :=
  ⟨Dev.getF_setF_lt hd hr, Dev.getF_setF_other hd, Dev.setF_sp .., Dev.setF_mem .., Dev.setF_ev .., fun _ ha => Dev.reg_setReg_ne _ hd (Ne.symm ha)⟩

theorem Dev.startStaging_busy {b : Bool} (h : d.updating) : d.startStaging b = d.setF Reg.SEC_FW_RESULT F.SEC_FW_RESULT_REASON 12 := if_pos (Dev.updating_iff.2 h)
theorem Dev.startStaging_starts {b : Bool} (h : ¬ d.updating) : d.startStaging b = (d.setFwState 1 0).modSp fun x => { x with image := [], isRepair := b, fetched := false } :=
  if_neg (mt Dev.updating_iff.1 h)

theorem fwStage_stays (h : m ≠ hostDriver ∨ d.secStage = 0) : fwStageEffect m d = d := if_pos (by rwa [Bool.or_eq_true, bne_iff_ne, beq_iff_eq])
theorem fwStage_starts (h : d.secStage ≠ 0) : fwStageEffect hostDriver d = d.startStaging false := if_neg (by rw [bne_self_eq_false, Bool.false_or, beq_iff_eq]; exact h)
theorem stageRepairImage_stays (h : m ≠ hostDriver ∨ d.recovery = false) : stageRepairImageEffect m d = d := if_pos (by rwa [Bool.or_eq_true, bne_iff_ne, Bool.not_eq_true'])
theorem stageRepairImage_starts (h : d.recovery = true) : stageRepairImageEffect hostDriver d = d.startStaging true :=
  if_neg (by rw [bne_self_eq_false, Bool.false_or, h]; decide)

theorem Dev.stagingFailed_facts (hd : d.canon) : let e := d.stagingFailed r
    e.fwState = 0 ∧ e.getF Reg.SEC_FW_RESULT F.SEC_FW_RESULT_REASON = r % 256 ∧ e.sp = d.sp ∧ e.mem = d.mem ∧
      ∃ q ∈ e.ev.arisen, q.code = 0xE002 ∧ q.object = 5 ∧ q.detail = BitVec.ofNat 64 r := by
  obtain ⟨state, reason, -⟩ := Dev.setFwState_facts (k := 0) (r := r) hd
  have quiet : Dev.Quiet (· = Reg.SEC_FW_RESULT) d (d.setFwState 0 r) := Dev.setFwState_quiet
  unfold Dev.stagingFailed
  generalize d.setFwState 0 r = u at *
  have rejected : Dev.Quiet (· = Reg.SEC_STATUS) u (u.imageRejected 5 r) := Dev.imageRejected_quiet
  have result (f : Fld) : (u.imageRejected 5 r).getF Reg.SEC_FW_RESULT f = u.getF Reg.SEC_FW_RESULT f := congrArg (fieldOf f) (rejected.regs (quiet.keeps hd) _ (by decide))
  exact ⟨(result _).trans state, (result _).trans reason, rejected.security.trans quiet.security, rejected.mem.trans quiet.mem, Dev.imageRejected_told.1⟩

/-- The size of the image that is staged, and whether it was fetched whole. -/
def Dev.stagedSize (d : Dev) (l : Bytes) : Nat := if d.sp.isRepair then repairSize l else fwSize l
def Dev.fetchedWhole (d : Dev) (l : Bytes) (how : FetchEnd) : Prop :=
  how = .ok ∧ d.getF Reg.SEC_FW_LEN F.SEC_FW_LEN_LEN = d.stagedSize l ∧ l.length = d.stagedSize l
/-- The check that a staged image fails. -/
def Dev.stagedFault (d : Dev) (l : Bytes) : Option Nat := if d.sp.isRepair then d.repairFault l fun _ => l else d.fwFault l fun _ => l
/-- A staged image is judged. -/
def Dev.stagedJudged (d : Dev) (l : Bytes) : Option Nat → Dev
  | some r => d.stagingFailed r
  | none => d.modSp fun x => { x with image := l, fetched := true }

theorem fwImageFetchDone_stays {how : FetchEnd} (h : d.fwState ≠ 1 ∨ d.sp.fetched = true) : fwImageFetchDoneEffect l how d = d := if_pos (by rwa [Bool.or_eq_true, bne_iff_ne])
theorem fwImageFetchDone_cond {how : FetchEnd} : (how != .ok || d.getF Reg.SEC_FW_LEN F.SEC_FW_LEN_LEN != d.stagedSize l || l.length != d.stagedSize l) = true ↔ ¬ d.fetchedWhole l how := by
  rw [Dev.fetchedWhole, Bool.or_eq_true, Bool.or_eq_true, bne_iff_ne, bne_iff_ne, bne_iff_ne, not_and_or, not_and_or, or_assoc]
theorem fwImageFetchDone_eq {how : FetchEnd} (h : d.fwState = 1) (hf : d.sp.fetched = false) : fwImageFetchDoneEffect l how d =
    if how != .ok || d.getF Reg.SEC_FW_LEN F.SEC_FW_LEN_LEN != d.stagedSize l || l.length != d.stagedSize l then
      (d.fetchEnd how none (d.getF Reg.SEC_FW_SRC F.SEC_FW_SRC_ADDR * 64)).stagingFailed 2
    else d.stagedJudged l (d.stagedFault l) := by
  refine (if_neg (by rw [h, hf]; decide)).trans (ite_congr rfl (fun _ => rfl) fun _ => ?_)
  change _ = d.stagedJudged l (if d.sp.isRepair then d.repairFault l fun _ => l else d.fwFault l fun _ => l)
  generalize (if d.sp.isRepair then d.repairFault l fun _ => l else d.fwFault l fun _ => l) = bad
  cases bad with
  | none => rfl
  | some r => rfl

theorem fwImageFetchDone_partial {how : FetchEnd} (hd : d.canon) (h : d.fwState = 1) (hf : d.sp.fetched = false) (hw : ¬ d.fetchedWhole l how) : let e := fwImageFetchDoneEffect l how d
    e.fwState = 0 ∧ e.getF Reg.SEC_FW_RESULT F.SEC_FW_RESULT_REASON = 2 % 256 ∧ e.sp = d.sp ∧ e.mem = d.mem ∧
      ∃ q ∈ e.ev.arisen, q.code = 0xE002 ∧ q.object = 5 ∧ q.detail = BitVec.ofNat 64 2 := by
  rw [fwImageFetchDone_eq h hf, if_pos (fwImageFetchDone_cond.2 hw)]
  have quiet : Dev.Quiet (fun _ => True) d (d.fetchEnd how none (d.getF Reg.SEC_FW_SRC F.SEC_FW_SRC_ADDR * 64)) := by
    cases how with
    | ok => exact .refl
    | error => exact .refl
    | translation => exact (Dev.Quiet.refl.count trivial).raise
  generalize d.fetchEnd how none (d.getF Reg.SEC_FW_SRC F.SEC_FW_SRC_ADDR * 64) = u at *
  obtain ⟨state, reason, sp, mem, told⟩ := Dev.stagingFailed_facts (r := 2) (quiet.keeps hd)
  exact ⟨state, reason, sp.trans quiet.security, mem.trans quiet.mem, told⟩

theorem fwImageFetchDone_judged {how : FetchEnd} (h : d.fwState = 1) (hf : d.sp.fetched = false) (hw : d.fetchedWhole l how) :
    fwImageFetchDoneEffect l how d = d.stagedJudged l (d.stagedFault l) := by
  rw [fwImageFetchDone_eq h hf, if_neg (mt fwImageFetchDone_cond.1 (not_not.2 hw))]

theorem fwFlashWriteDone_stays {b : Bool} (h : d.fwState ≠ 1 ∨ d.sp.fetched = false) : fwFlashWriteDoneEffect b d = d := if_pos (by rwa [Bool.or_eq_true, bne_iff_ne, Bool.not_eq_true'])
theorem fwFlashWriteDone_fails (h : d.fwState = 1) (hf : d.sp.fetched = true) : fwFlashWriteDoneEffect false d = d.stagingFailed 1 :=
  (if_neg (by rw [h, hf]; decide)).trans (if_pos rfl)

/-- An image of the given kind is in the flash. -/
theorem fwFlashWriteDone_repair (hd : d.canon) (h : d.fwState = 1) (hf : d.sp.fetched = true) (hk : d.sp.isRepair = true) : let e := fwFlashWriteDoneEffect true d
    e.fwState = 2 ∧ e.ev = d.ev ∧ e.sp = { d.sp with flash := flashStore d.sp.flash (repairSlot (1 - d.dirField 2)) d.sp.image } ∧ e.mem = d.mem := by
  have sp : (d.setFwState 2 0).sp = d.sp := Dev.setFwState_quiet.security
  have writes : fwFlashWriteDoneEffect true d = (d.setFwState 2 0).modSp fun x => { x with flash := flashStore x.flash (repairSlot (1 - (d.setFwState 2 0).dirField 2)) d.sp.image } :=
    (if_neg (by rw [h, hf]; decide)).trans ((if_neg (by decide)).trans (if_pos (by rw [sp, hk])))
  rw [writes, Dev.dirField_of sp]
  obtain ⟨state, -, sp', mem, ev, -⟩ := Dev.setFwState_modSp (k := 2) (r := 0) (f := fun x => { x with flash := flashStore x.flash (repairSlot (1 - d.dirField 2)) d.sp.image }) hd
  exact ⟨state, ev, sp', mem⟩
theorem fwFlashWriteDone_firmware (hd : d.canon) (h : d.fwState = 1) (hf : d.sp.fetched = true) (hk : d.sp.isRepair = false) : let e := fwFlashWriteDoneEffect true d
    e.fwState = 2 ∧ e.sp = { d.sp with flash := flashStore d.sp.flash (fwSlot (1 - d.dirField 0)) d.sp.image } ∧ e.mem = d.mem ∧
      d.raised e fun q => q.code = 0xE004 ∧ q.object = BitVec.ofNat 32 (leAt d.sp.image 16 4) := by
  have sp : (d.setFwState 2 0).sp = d.sp := Dev.setFwState_quiet.security
  have writes : fwFlashWriteDoneEffect true d = ((d.setFwState 2 0).modSp fun x =>
      { x with flash := flashStore x.flash (fwSlot (1 - (d.setFwState 2 0).dirField 0)) d.sp.image }).secEvent 0xE004 (leAt d.sp.image 16 4)
        (leAt d.sp.image 12 4 + (1 - (d.setFwState 2 0).dirField 0) * 2 ^ 32) :=
    (if_neg (by rw [h, hf]; decide)).trans ((if_neg (by decide)).trans (if_neg (by rw [sp, hk]; decide)))
  rw [writes, Dev.dirField_of sp]
  obtain ⟨state, -, sp', mem, ev, -⟩ := Dev.setFwState_modSp (k := 2) (r := 0) (f := fun x => { x with flash := flashStore x.flash (fwSlot (1 - d.dirField 0)) d.sp.image }) hd
  generalize (d.setFwState 2 0).modSp (fun x => { x with flash := flashStore x.flash (fwSlot (1 - d.dirField 0)) d.sp.image }) = u at *
  exact ⟨(Dev.raise_getF ..).trans state, (Dev.raise_sp ..).trans sp', (Dev.raise_mem ..).trans mem, Dev.raise_raised ev ⟨rfl, rfl⟩⟩

end Sys2Proof.Machine
end

section
/-! SUPPORT. Firmware applied at reset and live, and the field records (R507, R513, R514). -/
namespace Sys2Proof.Machine

-- One proof after another: with many at once their threads' stacks exceed the memory that the check allows.
set_option Elab.async false

variable {d e u : Dev} {x n r o t : Nat} {l : Bytes} {m : Master} {s : State}

/-! ## Application at reset -/

theorem Dev.stagedFw_iff : d.stagedFw m = true ↔ m = hostDriver ∧ d.secStage = 1 ∧ d.fwState = 2 := by
  rw [Dev.stagedFw, Bool.and_eq_true, Bool.and_eq_true, beq_iff_eq, beq_iff_eq, beq_iff_eq, and_assoc]

/-- `e` is `d` but for the flash. -/
structure Dev.FlashOnly (d e : Dev) : Prop where
  canon : d.canon → e.canon
  sp : e.sp = { d.sp with flash := e.sp.flash }
  regs : e.regs = d.regs
  mem : e.mem = d.mem
  ev : e.ev = d.ev

theorem Dev.flashWrite_only {a : Nat} : Dev.FlashOnly d (d.flashWrite a l) := ⟨Dev.canon.flashWrite, rfl, rfl, rfl, rfl⟩
theorem Dev.setDir_writes {i v : Nat} : ∃ a l, d.setDir i v = d.flashWrite a l := ⟨_, _, rfl⟩
theorem Dev.setDir_only {i v : Nat} : Dev.FlashOnly d (d.setDir i v) := by
  obtain ⟨a, l, writes⟩ := Dev.setDir_writes (d := d) (i := i) (v := v)
  rw [writes]
  exact Dev.flashWrite_only

theorem fwApplyAtReset_stays (h : ¬ (m = hostDriver ∧ d.secStage = 1 ∧ d.fwState = 2)) : fwApplyAtResetEffect m d = d :=
  if_pos (by rw [Bool.not_eq_true', ← Bool.not_eq_true, Dev.stagedFw_iff]; exact h)
theorem fwApplyAtReset_switches (hd : d.canon) (h : m = hostDriver ∧ d.secStage = 1 ∧ d.fwState = 2) : let e := fwApplyAtResetEffect m d
    e.fwState = 4 ∧ e.sp.switched = true ∧ e.sp.flash = (d.setDir 0 (1 - d.dirField 0)).sp.flash ∧ e.mem = d.mem ∧ e.ev = d.ev ∧ d.sameRegs e (· = Reg.SEC_FW_RESULT) := by
  have switches : fwApplyAtResetEffect m d = ((d.setDir 0 (1 - d.dirField 0)).setFwState 4 0).modSp fun x => { x with switched := true } :=
    if_neg (by rw [Dev.stagedFw_iff.2 h]; decide)
  rw [switches]
  obtain ⟨keeps, -, regs, mem, ev⟩ := Dev.setDir_only (d := d) (i := 0) (v := 1 - d.dirField 0)
  have canon := keeps hd
  generalize d.setDir 0 (1 - d.dirField 0) = u at *
  obtain ⟨state, -, sp, mem', ev', regs'⟩ := Dev.setFwState_modSp (k := 4) (r := 0) (f := fun x => { x with switched := true }) canon
  exact ⟨state, (congrArg SecState.switched sp :), (congrArg SecState.flash sp :), mem'.trans mem, ev'.trans ev, fun a ha => (regs' a ha).trans (congrFun (Dev.reg_of regs) a)⟩

theorem fwDiscard_stays (h : m ≠ hostDriver ∨ d.fwState ≠ 2) : fwDiscardEffect m d = d := if_pos (by rwa [Bool.or_eq_true, bne_iff_ne, bne_iff_ne])
theorem fwDiscard_discards (h : d.fwState = 2) : fwDiscardEffect hostDriver d = (d.setFwState 0 0).modSp fun x => { x with image := [], fetched := false } :=
  if_neg (by rw [bne_self_eq_false, h]; decide)

/-! ## Live application -/

theorem fwApplyLive_stays {k : Nat} (h : ¬ (m = hostDriver ∧ d.secStage = 1 ∧ d.fwState = 2)) : fwApplyLiveEffect m k d = d :=
  if_pos (by rw [Bool.not_eq_true', ← Bool.not_eq_true, Dev.stagedFw_iff]; exact h)
theorem fwApplyLive_refused {k : Nat} (h : m = hostDriver ∧ d.secStage = 1 ∧ d.fwState = 2) (hi : leAt d.sp.image 10 2 ≠ leAt d.sp.fw 10 2) :
    fwApplyLiveEffect m k d = d.setF Reg.SEC_FW_RESULT F.SEC_FW_RESULT_REASON 13 := (if_neg (by rw [Dev.stagedFw_iff.2 h]; decide)).trans (if_pos (bne_iff_ne.2 hi))

/-- The tiles that a mask names. -/
def maskTiles (k : Nat) : List Nat := tiles6.filter fun t => k / 2 ^ t % 2 == 1
/-- A live application has begun to show. -/
def Dev.liveShown (d : Dev) : Dev := (d.setFwState 3 0).setF Reg.SEC_FW_RESULT F.SEC_FW_RESULT_TILES_DONE 0
theorem Dev.liveShown_facts (hd : d.canon) : d.liveShown.canon ∧ d.liveShown.fwState = 3 ∧ d.liveShown.getF Reg.SEC_FW_RESULT F.SEC_FW_RESULT_TILES_DONE = 0 ∧ d.liveShown.sp = d.sp ∧
    d.liveShown.mem = d.mem ∧ d.liveShown.tickNo = d.tickNo := by
  obtain ⟨state, -, -⟩ := Dev.setFwState_facts (k := 3) (r := 0) hd
  have quiet : Dev.Quiet (· = Reg.SEC_FW_RESULT) d (d.setFwState 3 0) := Dev.setFwState_quiet
  unfold Dev.liveShown
  generalize d.setFwState 3 0 = u at *
  have canon := quiet.keeps hd
  have done_ : Dev.Quiet (· = Reg.SEC_FW_RESULT) u (u.setF Reg.SEC_FW_RESULT F.SEC_FW_RESULT_TILES_DONE 0) := Dev.Quiet.refl.setF rfl
  have all := Dev.Quiet.trans quiet done_
  exact ⟨canon.setF, (Dev.getF_setF_other canon).trans state, Dev.getF_setF_lt canon (by decide), all.security, all.mem, Dev.tickNo_of all.now (all.regs hd _ (by decide))⟩

theorem fwApplyLive_begins {k : Nat} (h : m = hostDriver ∧ d.secStage = 1 ∧ d.fwState = 2) (hi : leAt d.sp.image 10 2 = leAt d.sp.fw 10 2) (hk : maskTiles k ≠ []) :
    fwApplyLiveEffect m k d = d.liveShown.modSp fun x => { x with live := maskTiles k, liveMask := k, liveSince := d.liveShown.tickNo } :=
  (if_neg (by rw [Dev.stagedFw_iff.2 h]; decide)).trans ((if_neg (by rw [hi, bne_self_eq_false]; decide)).trans (if_neg (mt List.isEmpty_iff.1 hk)))

theorem fwApplyLive_facts {k : Nat} (hd : d.canon) (h : m = hostDriver ∧ d.secStage = 1 ∧ d.fwState = 2) (hi : leAt d.sp.image 10 2 = leAt d.sp.fw 10 2) (hk : maskTiles k ≠ []) :
    let e := fwApplyLiveEffect m k d
    e.fwState = 3 ∧ e.sp = { d.sp with live := maskTiles k, liveMask := k, liveSince := d.tickNo } ∧ e.getF Reg.SEC_FW_RESULT F.SEC_FW_RESULT_TILES_DONE = 0 ∧ e.mem = d.mem := by
  rw [fwApplyLive_begins h hi hk]
  obtain ⟨-, state, done_, sp, mem, tick⟩ := Dev.liveShown_facts hd
  generalize d.liveShown = u at *
  obtain ⟨-, sp', regs, mem', -⟩ := Dev.modSp_parts (d := u) (f := fun x => { x with live := maskTiles k, liveMask := k, liveSince := u.tickNo })
  exact ⟨(Dev.getF_of regs ..).trans state, sp'.trans (by rw [sp, tick]), (Dev.getF_of regs ..).trans done_, mem'.trans mem⟩

theorem Dev.endSessions_facts : d.endSessions.regs = d.regs ∧ d.endSessions.mem = d.mem ∧
    d.endSessions.sp = { d.sp with sessions := [], spdm := 0, log := [], chunks := [], chunkSeq := 0, reply := [] } :=
  List.foldlRecOn (motive := fun e : Dev => e.regs = d.regs ∧ e.mem = d.mem ∧ e.sp = { d.sp with sessions := [], spdm := 0, log := [], chunks := [], chunkSeq := 0, reply := [] }) _ _
    ⟨rfl, rfl, rfl⟩ fun _ ⟨regs, mem, sp⟩ _ _ => ⟨regs, mem, sp⟩

/-- The new firmware runs, every session ended. -/
def Dev.restarted (d : Dev) (l : Bytes) : Dev := d.endSessions.modSp fun y => { y with fw := l, image := [], fetched := false, tileFw := [] }
theorem Dev.restarted_facts (hd : d.canon) : (d.restarted l).canon ∧ (d.restarted l).sp.fw = l ∧ (d.restarted l).sp.sessions = [] ∧ (d.restarted l).sp.liveMask = d.sp.liveMask ∧
    (d.restarted l).mem = d.mem := by
  obtain ⟨-, mem, sp⟩ := Dev.endSessions_facts (d := d)
  have canon := hd.endSessions
  unfold Dev.restarted
  generalize d.endSessions = u at *
  obtain ⟨keeps, sp', -, mem', -⟩ := Dev.modSp_parts (d := u) (f := fun y => { y with fw := l, image := [], fetched := false, tileFw := [] })
  have sessions : u.sp.sessions = [] := (congrArg SecState.sessions sp :)
  have mask : u.sp.liveMask = d.sp.liveMask := (congrArg SecState.liveMask sp :)
  exact ⟨keeps canon, (congrArg SecState.fw sp' :), (congrArg SecState.sessions sp' :).trans sessions, (congrArg SecState.liveMask sp' :).trans mask, mem'.trans mem⟩

/-- The application ends: key, directory and state. -/
def Dev.liveApplied (d : Dev) (x : Nat) : Dev := (d.takeAlias.setDir 0 x).setFwState 0 0
theorem Dev.liveApplied_facts (hd : d.canon) : (d.liveApplied x).fwState = 0 ∧ (d.liveApplied x).sp.fw = d.sp.fw ∧ (d.liveApplied x).sp.sessions = d.sp.sessions ∧ (d.liveApplied x).mem = d.mem ∧
    (d.liveApplied x).reg Reg.SEC_FW_VERSION = d.reg Reg.SEC_FW_VERSION := by
  obtain ⟨canon, sp, -, -, regs, mem, -⟩ := Dev.takeAlias_facts hd
  unfold Dev.liveApplied
  generalize d.takeAlias = u at *
  obtain ⟨keeps, sp', regs', mem', -⟩ := Dev.setDir_only (d := u) (i := 0) (v := x)
  have canon' := keeps canon
  generalize u.setDir 0 x = v at *
  obtain ⟨state, -, -⟩ := Dev.setFwState_facts (k := 0) (r := 0) canon'
  have quiet : Dev.Quiet (· = Reg.SEC_FW_RESULT) v (v.setFwState 0 0) := Dev.setFwState_quiet
  have fw : v.sp.fw = d.sp.fw := (congrArg SecState.fw sp' :).trans (congrArg SecState.fw sp :)
  have sessions : v.sp.sessions = d.sp.sessions := (congrArg SecState.sessions sp' :).trans (congrArg SecState.sessions sp :)
  exact ⟨state, (congrArg SecState.fw quiet.security :).trans fw, (congrArg SecState.sessions quiet.security :).trans sessions, quiet.mem.trans (mem'.trans mem),
    (quiet.regs canon' _ (by decide)).trans ((congrFun (Dev.reg_of regs') _).trans (regs _ (by decide)))⟩

/-- The slot in force is shown, with its version. -/
def Dev.slotShown (d : Dev) (x : Nat) (l : Bytes) : Dev := (d.setFs Reg.SEC_STATUS [(F.SEC_STATUS_SLOT, x), (F.SEC_STATUS_FALLBACK, 0)]).fwInfo l
theorem Dev.slotShown_facts (hd : d.canon) : (d.slotShown x l).canon ∧ (d.slotShown x l).reg Reg.SEC_FW_VERSION = BitVec.ofNat 64 (leAt l 16 8) ∧ (d.slotShown x l).sp = d.sp ∧
    (d.slotShown x l).mem = d.mem := by
  have quiet : Dev.Quiet (· = Reg.SEC_STATUS) d (d.setFs Reg.SEC_STATUS [(F.SEC_STATUS_SLOT, x), (F.SEC_STATUS_FALLBACK, 0)]) := Dev.Quiet.refl.setFs rfl
  unfold Dev.slotShown
  generalize d.setFs Reg.SEC_STATUS [(F.SEC_STATUS_SLOT, x), (F.SEC_STATUS_FALLBACK, 0)] = u at *
  have info : Dev.Quiet (fun a => a = Reg.SEC_FW_VERSION ∨ a = Reg.SEC_FW_INFO) u (u.fwInfo l) := Dev.fwInfo_quiet
  have canon := quiet.keeps hd
  exact ⟨info.keeps canon, (Dev.fwInfo_facts canon).1, info.security.trans quiet.security, info.mem.trans quiet.mem⟩

theorem Dev.liveFinish_eq : d.liveFinish = let u := (d.restarted d.sp.image).slotShown (1 - d.dirField 0) d.sp.image
    (u.liveApplied (1 - d.dirField 0)).secEvent 0xE005 (leAt d.sp.image 16 4) (1 + u.sp.liveMask * 2 ^ 8) := rfl

theorem Dev.liveFinish_facts (hd : d.canon) : let e := d.liveFinish
    e.sp.fw = d.sp.image ∧ e.sp.sessions = [] ∧ e.fwState = 0 ∧ e.mem = d.mem ∧ e.reg Reg.SEC_FW_VERSION = BitVec.ofNat 64 (leAt d.sp.image 16 8) ∧
      ∃ q ∈ e.ev.arisen, q.code = 0xE005 ∧ q.detail = BitVec.ofNat 64 (1 + d.sp.liveMask * 2 ^ 8) := by
  rw [Dev.liveFinish_eq]
  generalize 1 - d.dirField 0 = x
  generalize d.sp.image = l
  obtain ⟨canon, fw, sessions, mask, mem⟩ := Dev.restarted_facts (l := l) hd
  generalize d.restarted l = u at *
  obtain ⟨canon', version, sp', mem'⟩ := Dev.slotShown_facts (x := x) (l := l) canon
  generalize u.slotShown x l = v at *
  obtain ⟨state, fw', sessions', mem'', version'⟩ := Dev.liveApplied_facts (x := x) canon'
  dsimp only
  rw [sp', mask]
  generalize v.liveApplied x = w at *
  have sp : (w.secEvent 0xE005 (leAt l 16 4) (1 + d.sp.liveMask * 2 ^ 8)).sp = w.sp := Dev.raise_sp ..
  rw [sp]
  exact ⟨fw'.trans (by rw [sp', fw]), sessions'.trans (by rw [sp', sessions]), (Dev.raise_getF ..).trans state, (Dev.raise_mem ..).trans (mem''.trans (mem'.trans mem)),
    (Dev.raise_reg ..).trans (version'.trans version), _, mem_insertEvent_self _ _, rfl, rfl⟩

/-- The tile whose steward image is next is at an empty boundary slot. -/
def Dev.tileDue (d : Dev) (t : Nat) : Prop := d.fwState = 3 ∧ d.sp.live.head? = some t ∧ d.inBoundary = true ∧ d.tileEmpty t = true
theorem fwLiveTileStep_cond : (d.fwState != 3 || d.sp.live.head? != some t || !d.inBoundary || !d.tileEmpty t) = true ↔ ¬ d.tileDue t := by
  rw [Dev.tileDue, Bool.or_eq_true, Bool.or_eq_true, Bool.or_eq_true, bne_iff_ne, bne_iff_ne, Bool.not_eq_true', Bool.not_eq_true', not_and_or, not_and_or, not_and_or,
    Bool.not_eq_true, Bool.not_eq_true, or_assoc, or_assoc]

/-- A tile's step is shown. -/
def Dev.tileShown (d : Dev) (t : Nat) : Dev :=
  d.setF Reg.SEC_FW_RESULT F.SEC_FW_RESULT_TILES_DONE (orMask (d.getF Reg.SEC_FW_RESULT F.SEC_FW_RESULT_TILES_DONE) (2 ^ t))
/-- A tile has its new steward image. -/
def Dev.tileStepped (d : Dev) (t : Nat) : Dev := d.modSp fun x =>
  { x with live := x.live.drop 1, liveSince := d.tickNo, quiet := if x.quiet.contains t then x.quiet else x.quiet ++ [t], tileFw := store [] x.tileFw t (bytesAt x.image 0 64) }

theorem fwLiveTileStep_stays (h : ¬ d.tileDue t) : fwLiveTileStepEffect t d = d := if_pos (fwLiveTileStep_cond.2 h)
theorem fwLiveTileStep_steps (h : d.tileDue t) : fwLiveTileStepEffect t d =
    if ((d.tileShown t).tileStepped t).sp.live.isEmpty then ((d.tileShown t).tileStepped t).liveFinish else (d.tileShown t).tileStepped t :=
  if_neg (mt fwLiveTileStep_cond.1 (not_not.2 h))

theorem orMask_bit {a : Nat} (ht : t < 6) : orMask a (2 ^ t) % 2 ^ 6 / 2 ^ t % 2 = 1 := by
  have bit : (orMask a (2 ^ t) % 2 ^ 6).testBit t = true := by
    rw [Nat.testBit_mod_two_pow, decide_eq_true ht, Bool.true_and, orMask, ← BitVec.getLsbD, BitVec.getLsbD_or, BitVec.getLsbD_ofNat, BitVec.getLsbD_ofNat, Nat.testBit_two_pow_self,
      decide_eq_true (show t < 64 by omega), Bool.and_true, Bool.or_true]
  rwa [Nat.testBit_eq_decide_div_mod_eq, decide_eq_true_eq] at bit

theorem Dev.tileShown_facts (hd : d.canon) (ht : t < 6) : (d.tileShown t).canon ∧ (d.tileShown t).getF Reg.SEC_FW_RESULT F.SEC_FW_RESULT_TILES_DONE / 2 ^ t % 2 = 1 ∧
    (d.tileShown t).fwState = d.fwState ∧ (d.tileShown t).sp = d.sp ∧ (d.tileShown t).mem = d.mem ∧ (d.tileShown t).ev = d.ev ∧ (d.tileShown t).tickNo = d.tickNo := by
  have shown : (d.tileShown t).getF Reg.SEC_FW_RESULT F.SEC_FW_RESULT_TILES_DONE = orMask (d.getF Reg.SEC_FW_RESULT F.SEC_FW_RESULT_TILES_DONE) (2 ^ t) % 2 ^ 6 := Dev.getF_setF_mod hd
  have quiet : Dev.Quiet (· = Reg.SEC_FW_RESULT) d (d.tileShown t) := Dev.Quiet.refl.setF rfl
  exact ⟨quiet.keeps hd, shown ▸ orMask_bit ht, Dev.getF_setF_other hd, quiet.security, quiet.mem, Dev.setF_ev .., Dev.tickNo_of quiet.now (quiet.regs hd _ (by decide))⟩

theorem Dev.tileStepped_parts : (d.canon → (d.tileStepped t).canon) ∧ (d.tileStepped t).regs = d.regs ∧ (d.tileStepped t).mem = d.mem ∧ (d.tileStepped t).ev = d.ev ∧
    (d.tileStepped t).sp.live = d.sp.live.drop 1 ∧ (d.tileStepped t).sp.liveSince = d.tickNo ∧ (d.tileStepped t).sp.fw = d.sp.fw ∧ (d.tileStepped t).sp.image = d.sp.image ∧
    (d.tileStepped t).sp.liveMask = d.sp.liveMask ∧ t ∈ (d.tileStepped t).sp.quiet := by
  refine ⟨Dev.canon.modSp, rfl, rfl, rfl, rfl, rfl, rfl, rfl, rfl, ?_⟩
  change t ∈ if d.sp.quiet.contains t then d.sp.quiet else d.sp.quiet ++ [t]
  split
  · next h => exact List.contains_iff_mem.1 h
  · exact List.mem_append_right _ (List.mem_singleton.2 rfl)

theorem fwLiveTileStep_goes {v : Nat} {rest : List Nat} (hd : d.canon) (ht : t < 6) (h : d.tileDue t) (hl : d.sp.live = t :: v :: rest) : let e := fwLiveTileStepEffect t d
    e.sp.live = v :: rest ∧ e.sp.liveSince = d.tickNo ∧ t ∈ e.sp.quiet ∧ e.sp.fw = d.sp.fw ∧ e.fwState = 3 ∧
      e.getF Reg.SEC_FW_RESULT F.SEC_FW_RESULT_TILES_DONE / 2 ^ t % 2 = 1 ∧ e.mem = d.mem ∧ e.ev = d.ev := by
  rw [fwLiveTileStep_steps h]
  obtain ⟨-, done_, state, sp, mem, ev, tick⟩ := Dev.tileShown_facts hd ht
  generalize d.tileShown t = u at *
  obtain ⟨-, regs, mem', ev', live, since, fw, -, -, quiet⟩ := Dev.tileStepped_parts (d := u) (t := t)
  generalize u.tileStepped t = w at *
  have left : w.sp.live = v :: rest := live.trans (by rw [sp, hl, List.drop_one, List.tail_cons])
  rw [if_neg (by rw [left]; exact Bool.false_ne_true)]
  exact ⟨left, since.trans tick, quiet, fw.trans (by rw [sp]), (Dev.getF_of regs ..).trans (state.trans h.1), by rwa [Dev.getF_of regs], mem'.trans mem, ev'.trans ev⟩

theorem fwLiveTileStep_ends (hd : d.canon) (ht : t < 6) (h : d.tileDue t) (hl : d.sp.live = [t]) : let e := fwLiveTileStepEffect t d
    e.sp.fw = d.sp.image ∧ e.sp.sessions = [] ∧ e.fwState = 0 ∧ e.mem = d.mem ∧ e.reg Reg.SEC_FW_VERSION = BitVec.ofNat 64 (leAt d.sp.image 16 8) ∧
      ∃ q ∈ e.ev.arisen, q.code = 0xE005 ∧ q.detail = BitVec.ofNat 64 (1 + d.sp.liveMask * 2 ^ 8) := by
  rw [fwLiveTileStep_steps h]
  obtain ⟨canon, -, -, sp, mem, -, -⟩ := Dev.tileShown_facts hd ht
  generalize d.tileShown t = u at *
  obtain ⟨keeps, -, mem', -, live, -, -, image, mask, -⟩ := Dev.tileStepped_parts (d := u) (t := t)
  have canon' := keeps canon
  generalize u.tileStepped t = w at *
  have left : w.sp.live = [] := live.trans (by rw [sp, hl, List.drop_one, List.tail_cons])
  rw [if_pos (by rw [left]; decide)]
  obtain ⟨fw, sessions, state, mem'', version, told⟩ := Dev.liveFinish_facts canon'
  rw [image, sp] at fw version
  rw [mask, sp] at told
  exact ⟨fw, sessions, state, mem''.trans (mem'.trans mem), version, told⟩

/-- An application stopped at a tile. -/
def Dev.liveStopped (d : Dev) : Dev := (d.setFwState 2 14).modSp fun x => { x with live := [] }

theorem fwApplyTileTimeout_stays (h : d.fwState ≠ 3 ∨ d.sp.live = [] ∨ d.tickNo - d.sp.liveSince < 8000) : fwApplyTileTimeoutEffect d = d := by
  unfold fwApplyTileTimeoutEffect
  split
  · next t rest hs hl =>
    refine if_pos ?_
    rcases h with h | h | h
    · exact absurd (beq_iff_eq.1 hs) h
    · rw [hl] at h
      cases h
    · exact h
  · rfl
theorem fwApplyTileTimeout_stops {rest : List Nat} (h : d.fwState = 3) (hl : d.sp.live = t :: rest) (ht : 8000 ≤ d.tickNo - d.sp.liveSince) : ∃ y, fwApplyTileTimeoutEffect d =
    d.liveStopped.secEvent 0xE006 14 y := by
  unfold fwApplyTileTimeoutEffect
  rw [beq_iff_eq.2 h, hl]
  exact ⟨_, if_neg (Nat.not_lt.2 ht)⟩
theorem fwApplyTileTimeout_facts {rest : List Nat} (hd : d.canon) (h : d.fwState = 3) (hl : d.sp.live = t :: rest) (ht : 8000 ≤ d.tickNo - d.sp.liveSince) :
    let e := fwApplyTileTimeoutEffect d
    e.fwState = 2 ∧ e.sp = { d.sp with live := [] } ∧ e.getF Reg.SEC_FW_RESULT F.SEC_FW_RESULT_REASON = 14 ∧ e.mem = d.mem ∧
      d.raised e fun q => q.code = 0xE006 ∧ q.object = 14 := by
  obtain ⟨y, stops⟩ := fwApplyTileTimeout_stops h hl ht
  rw [stops]
  obtain ⟨state, reason, sp, mem, ev, -⟩ := Dev.setFwState_modSp (k := 2) (r := 14) (f := fun x => { x with live := [] }) hd
  unfold Dev.liveStopped
  generalize (d.setFwState 2 14).modSp (fun x => { x with live := [] }) = u at *
  exact ⟨(Dev.raise_getF ..).trans state, (Dev.raise_sp ..).trans sp, (Dev.raise_getF ..).trans reason, (Dev.raise_mem ..).trans mem, Dev.raise_raised ev ⟨rfl, rfl⟩⟩

/-! ## Field records -/

theorem Dev.writeFields_only : Dev.FlashOnly d d.writeFields := by
  unfold Dev.writeFields
  dsimp only
  generalize 1 - d.dirField 2 = x
  generalize withFields (d.sp.seed.getD 0#256) d.sp.repair d.sp.fields = l
  have first : Dev.FlashOnly d (d.flashWrite (repairSlot x) l) := Dev.flashWrite_only
  generalize d.flashWrite (repairSlot x) l = u at *
  have second : Dev.FlashOnly u (u.setDir 2 x) := Dev.setDir_only
  exact ⟨fun h => second.canon (first.canon h), second.sp.trans (by rw [first.sp]), second.regs.trans first.regs, second.mem.trans first.mem, second.ev.trans first.ev⟩

/-- The record that waits longest is taken, kept or not. -/
def Dev.recordTaken (d : Dev) (q : Bytes) (rest : List Bytes) (kept : Bool) : Dev :=
  let u := d.modSp fun x => { x with toWrite := rest, fields := if kept then x.fields ++ [q] else x.fields }
  if kept then u.writeFields else u

theorem Dev.recordTaken_facts {q : Bytes} {rest : List Bytes} {kept : Bool} : let e := d.recordTaken q rest kept
    e.sp.toWrite = rest ∧ e.regs = d.regs ∧ e.mem = d.mem ∧ e.ev = d.ev ∧ (kept = true → e.sp.fields = d.sp.fields ++ [q]) ∧
      (kept = false → e.sp.fields = d.sp.fields ∧ e.sp.flash = d.sp.flash) := by
  obtain ⟨-, sp, regs, mem, ev⟩ := Dev.modSp_parts (d := d) (f := fun x => { x with toWrite := rest, fields := if kept then x.fields ++ [q] else x.fields })
  unfold Dev.recordTaken
  generalize d.modSp (fun x => { x with toWrite := rest, fields := if kept then x.fields ++ [q] else x.fields }) = u at *
  have toWrite : u.sp.toWrite = rest := (congrArg SecState.toWrite sp :)
  have fields : u.sp.fields = if kept then d.sp.fields ++ [q] else d.sp.fields := (congrArg SecState.fields sp :)
  have flash : u.sp.flash = d.sp.flash := (congrArg SecState.flash sp :)
  cases kept with
  | false => exact ⟨toWrite, regs, mem, ev, (nomatch ·), fun _ => ⟨fields, flash⟩⟩
  | true =>
    obtain ⟨-, sp', regs', mem', ev'⟩ := Dev.writeFields_only (d := u)
    exact ⟨(congrArg SecState.toWrite sp' :).trans toWrite, regs'.trans regs, mem'.trans mem, ev'.trans ev, fun _ => (congrArg SecState.fields sp' :).trans fields, (nomatch ·)⟩

theorem fieldRecordWrite_none {b : Bool} (h : d.sp.toWrite = []) : fieldRecordWriteEffect b d = d := by
  unfold fieldRecordWriteEffect
  rw [h]
theorem fieldRecordWrite_some {b : Bool} {q : Bytes} {rest : List Bytes} (h : d.sp.toWrite = q :: rest) : ∃ y, fieldRecordWriteEffect b d =
    (d.recordTaken q rest (b && decide (d.sp.fields.length < leAt d.sp.repair 12 4 / 16 - 2))).secEvent 0xE007 (leAt q 2 2) y := by
  unfold fieldRecordWriteEffect
  rw [h]
  exact ⟨_, rfl⟩

theorem fieldRecordWrite_facts {b : Bool} {q : Bytes} {rest : List Bytes} (h : d.sp.toWrite = q :: rest) :
    let kept := b = true ∧ d.sp.fields.length < leAt d.sp.repair 12 4 / 16 - 2
    let e := fieldRecordWriteEffect b d
    e.sp.toWrite = rest ∧ e.regs = d.regs ∧ e.mem = d.mem ∧ (kept → e.sp.fields = d.sp.fields ++ [q]) ∧ (¬ kept → e.sp.fields = d.sp.fields ∧ e.sp.flash = d.sp.flash) ∧
      d.raised e fun x => x.code = 0xE007 ∧ x.object = BitVec.ofNat 32 (leAt q 2 2) := by
  obtain ⟨y, writes⟩ := fieldRecordWrite_some (b := b) h
  intro kept
  have keeps : (b && decide (d.sp.fields.length < leAt d.sp.repair 12 4 / 16 - 2)) = true ↔ kept := by rw [Bool.and_eq_true, decide_eq_true_eq]
  rw [writes]
  generalize (b && decide (d.sp.fields.length < leAt d.sp.repair 12 4 / 16 - 2)) = k at *
  obtain ⟨toWrite, regs, mem, ev, added, same⟩ := Dev.recordTaken_facts (d := d) (q := q) (rest := rest) (kept := k)
  generalize d.recordTaken q rest k = u at *
  have sp : (u.secEvent 0xE007 (leAt q 2 2) y).sp = u.sp := Dev.raise_sp ..
  dsimp only
  rw [sp]
  exact ⟨toWrite, regs, (Dev.raise_mem ..).trans mem, fun h => added (keeps.2 h), fun h => same (Bool.eq_false_iff.2 (mt keeps.1 h)), Dev.raise_raised ev ⟨rfl, rfl⟩⟩

theorem Dev.clearFields_stays {p : Bytes → Bool} (h : m ≠ hostDriver ∨ d.secStage ≠ 1) : d.clearFields m p = d := if_pos (by rwa [Bool.or_eq_true, bne_iff_ne, bne_iff_ne])
theorem Dev.clearFields_clears {p : Bytes → Bool} (h : d.secStage = 1) : let e := d.clearFields hostDriver p
    e.sp.fields = d.sp.fields.filter (fun q => !p q) ∧ e.sp.toWrite = d.sp.toWrite.filter (fun q => !p q) ∧ e.regs = d.regs ∧ e.mem = d.mem ∧ e.ev = d.ev := by
  have clears : d.clearFields hostDriver p = (d.modSp fun x => { x with fields := x.fields.filter fun q => !p q, toWrite := x.toWrite.filter fun q => !p q }).writeFields :=
    if_neg (by rw [bne_self_eq_false, h]; decide)
  obtain ⟨-, sp, regs, mem, ev⟩ := Dev.modSp_parts (d := d) (f := fun x => { x with fields := x.fields.filter fun q => !p q, toWrite := x.toWrite.filter fun q => !p q })
  rw [clears]
  generalize d.modSp (fun x => { x with fields := x.fields.filter fun q => !p q, toWrite := x.toWrite.filter fun q => !p q }) = u at *
  obtain ⟨-, sp', regs', mem', ev'⟩ := Dev.writeFields_only (d := u)
  exact ⟨(congrArg SecState.fields sp' :).trans (congrArg SecState.fields sp :), (congrArg SecState.toWrite sp' :).trans (congrArg SecState.toWrite sp :), regs'.trans regs,
    mem'.trans mem, ev'.trans ev⟩

/-- Settles O54: the boot by its checks, the update by its states, the field records by their list. -/
theorem bootVerifiesAndFirmwareUpdates : Obligations.BootVerifiesAndFirmwareUpdates := by
  unfold Obligations.BootVerifiesAndFirmwareUpdates
  refine ⟨⟨fun n s hs hd => ?_, fun s hs hd => ?_, fun s hs hd => ?_⟩, ⟨fun m s hs hd => ?_, fun l how b s hs hd => ?_, fun m tiles s hs hd => ?_⟩, fun t s hs hd => ?_, fun s hs hd => ?_,
    fun b s hs => ?_, fun m s hs => ?_⟩
  · refine ⟨fun h => runs_ran rfl hs (railsInRegulation_stays h), fun h hp => runs_ran rfl hs ?_, fun h hp hg => runs_ran rfl hs ?_, fun h hp hg => runs_ran rfl hs ?_⟩
    · obtain ⟨-, ⟨supply, rom, mem, regs⟩, sp, ev, -⟩ := Dev.regulated_facts hd
      rw [railsInRegulation_again hd h hp]
      exact ⟨⟨supply, rom, mem, regs⟩, sp, ev⟩
    · obtain ⟨⟨supply, rom, mem, regs⟩, sp, identity, ev⟩ := railsInRegulation_identified hd h hp hg
      exact ⟨⟨supply, rom, mem, regs⟩, sp, identity, ev⟩
    · obtain ⟨⟨supply, rom, mem, regs⟩, sp, recovers, reason, told⟩ := railsInRegulation_recovers hd h hp hg
      exact ⟨⟨supply, rom, mem, regs⟩, sp, recovers, reason, told⟩
  · refine ⟨fun h => runs_ran rfl hs (firmwareVerify_stays h), fun h h0 => runs_ran rfl hs ?_, fun r h h0 h1 => runs_ran rfl hs ?_, fun r r' h h0 h1 => runs_ran rfl hs ?_⟩
    · obtain ⟨fw, slot, fallback, stage, version, svn, mem, -⟩ := Dev.bootSlot_runs (x := s.dev.dirField 0) (fb := false) hd
      rw [firmwareVerify_first h h0]
      exact ⟨fw, slot, fallback, stage.trans h.1, version, svn, mem⟩
    · obtain ⟨⟨fw, slot, fallback, stage, version, svn, mem, -⟩, told⟩ := Dev.SlotRuns.after hd (Dev.bootSlot_runs (x := 1 - s.dev.dirField 0) (fb := true)
        (hd.imageRejected (object := s.dev.dirField 0) (reason := r)))
      rw [firmwareVerify_second h h0 h1]
      exact ⟨⟨fw, slot, fallback, stage.trans h.1, version, svn, mem⟩, told⟩
    · obtain ⟨recovers, sp, mem, -, told⟩ := Dev.recovered_facts (o := s.dev.dirField 0) (r := r) (o' := 1 - s.dev.dirField 0) (r' := r') (k := r') hd
      rw [firmwareVerify_neither h h0 h1]
      exact ⟨recovers, sp, mem, told⟩
  · refine ⟨fun h => runs_ran rfl hs (repairImageCheck_stays h), fun h h0 => runs_ran rfl hs ?_, fun r h h0 h1 => runs_ran rfl hs ?_, fun r r' h h0 h1 => runs_ran rfl hs ?_,
      fun h => runs_ran rfl hs (if_neg (by rw [h]; decide)), fun h => runs_ran rfl hs (if_pos h)⟩
    · have used := Dev.useRepair_used (x := s.dev.dirField 2) hd
      rw [repairImageCheck_first h h0]
      exact ⟨used.repair, used.released, used.stage, used.repairOk, by rw [used.fieldOk, used.repair], by rw [used.fields, used.repair], used.key, used.required, used.mem⟩
    · obtain ⟨used, told⟩ := repairImageCheck_rejects hd h h0 h1
      exact ⟨⟨used.repair, used.released, used.stage, used.repairOk, by rw [used.fieldOk, used.repair], by rw [used.fields, used.repair], used.key, used.required, used.mem⟩, told⟩
    · obtain ⟨recovers, sp, -, reason, told⟩ := Dev.recovered_facts (o := 2 + s.dev.dirField 2) (r := r) (o' := 3 - s.dev.dirField 2) (r' := r') (k := 11) hd
      rw [repairImageCheck_neither h h0 h1]
      exact ⟨recovers, sp, reason, told⟩
  · refine ⟨fun h => runs_ranSys rfl hs (fwStage_stays h), fun h => runs_ranSys rfl hs (stageRepairImage_stays h), fun hm h => ?_, fun hm h => ?_⟩
    · subst hm
      refine ⟨fun hb => runs_ranSys rfl hs ?_, fun hb => runs_ranSys rfl hs ?_⟩
      · rw [fwStage_starts h, Dev.startStaging_busy hb]
        exact Dev.reasonShown_facts hd (by decide)
      · rw [fwStage_starts h, Dev.startStaging_starts hb]
        exact Dev.setFwState_modSp (k := 1) (r := 0) hd
    · subst hm
      refine ⟨fun hb => runs_ranSys rfl hs ?_, fun hb => runs_ranSys rfl hs ?_⟩
      · rw [stageRepairImage_starts h, Dev.startStaging_busy hb]
        exact Dev.reasonShown_facts hd (by decide)
      · rw [stageRepairImage_starts h, Dev.startStaging_starts hb]
        exact Dev.setFwState_modSp (k := 1) (r := 0) hd
  · refine ⟨fun h => runs_ran rfl hs (fwImageFetchDone_stays h), fun h hf hw => runs_ran rfl hs (fwImageFetchDone_partial hd h hf hw), fun r h hf hw hc => runs_ran rfl hs ?_,
      fun h hf hw hc => runs_ran rfl hs ?_, fun h => runs_ran rfl hs (fwFlashWriteDone_stays h), fun h hf hb => runs_ran rfl hs ?_, fun h hf hb hk => runs_ran rfl hs ?_,
      fun h hf hb hk => runs_ran rfl hs ?_⟩
    · rw [fwImageFetchDone_judged h hf hw, Dev.stagedFault, hc]
      exact Dev.stagingFailed_facts hd
    · rw [fwImageFetchDone_judged h hf hw, Dev.stagedFault, hc]
      rfl
    · rw [hb, fwFlashWriteDone_fails h hf]
      exact Dev.stagingFailed_facts hd
    · rw [hb]
      exact fwFlashWriteDone_repair hd h hf hk
    · rw [hb]
      exact fwFlashWriteDone_firmware hd h hf hk
  · refine ⟨fun h => ⟨runs_ranSys rfl hs (fwApplyAtReset_stays h), runs_ranSys rfl hs (fwApplyLive_stays h)⟩, fun h => runs_ranSys rfl hs (fwApplyAtReset_switches hd h),
      fun h => runs_ranSys rfl hs (fwDiscard_stays h), fun hm h => runs_ranSys rfl hs ?_, fun h hi => runs_ranSys rfl hs ?_, fun h hi hk => runs_ranSys rfl hs (fwApplyLive_facts hd h hi hk)⟩
    · obtain ⟨state, -, sp, mem, -, regs⟩ := Dev.setFwState_modSp (k := 0) (r := 0) (f := fun x => { x with image := [], fetched := false }) hd
      rw [hm, fwDiscard_discards h]
      exact ⟨state, sp, mem, regs⟩
    · obtain ⟨reason, state, sp, -, -, regs⟩ := Dev.reasonShown_facts (r := 13) hd (by decide)
      rw [fwApplyLive_refused h hi]
      exact ⟨state.trans h.2.2, sp, reason, regs⟩
  · exact ⟨fun h => runs_ran rfl hs (fwLiveTileStep_stays h), fun u rest h hl => runs_ran rfl hs (fwLiveTileStep_goes hd t.isLt h hl), fun h hl => runs_ran rfl hs (fwLiveTileStep_ends hd t.isLt h hl)⟩
  · exact ⟨fun h => runs_ran rfl hs (fwApplyTileTimeout_stays h), fun t rest h hl ht => runs_ran rfl hs (fwApplyTileTimeout_facts hd h hl ht)⟩
  · exact ⟨fun h => runs_ran rfl hs (fieldRecordWrite_none h), fun r rest h => runs_ran rfl hs (fieldRecordWrite_facts h)⟩
  · refine ⟨fun h => ⟨runs_ranSys rfl hs (Dev.clearFields_stays h), runs_ranSys rfl hs (Dev.clearFields_stays h)⟩, fun hm h => ?_⟩
    subst hm
    obtain ⟨fields, -, regs, mem, ev⟩ := Dev.clearFields_clears (p := fun r => leAt r 0 1 == 1) h
    obtain ⟨fields', toWrite, regs', mem', ev'⟩ := Dev.clearFields_clears (p := fun _ => true) h
    rw [Bool.not_true, List.filter_false] at fields' toWrite
    exact ⟨runs_ranSys rfl hs ⟨fields, regs, mem, ev⟩, runs_ranSys rfl hs ⟨fields', toWrite, regs', mem', ev'⟩⟩

end Sys2Proof.Machine
end

section
/-! SUPPORT. Power and temperatures (R521, R525, R527 to R529, R531, R532). -/
namespace Sys2Proof.Machine

-- One proof after another: with many at once their threads' stacks exceed the memory that the check allows.
set_option Elab.async false

variable {d e u w : Dev} {a n l p t : Nat} {f g : Fld} {b : Bool} {ls : List Nat}

theorem Dev.Quiet.power {q : Nat → Prop} (h : Dev.Quiet q d e) : e.power = d.power := (congrArg Dev.power h.rest :)
theorem Dev.modPower_parts {k : PowerState → PowerState} : (d.canon → (d.modPower k).canon) ∧ (d.modPower k).power = k d.power ∧ (d.modPower k).regs = d.regs ∧
    (d.modPower k).mem = d.mem ∧ (d.modPower k).ev = d.ev ∧ (d.modPower k).now = d.now := ⟨Dev.canon.modPower, rfl, rfl, rfl, rfl, rfl⟩

theorem Dev.getB_setB (hd : d.canon) (hf : Nat.ble (f.lo + f.w) 64 = true := by rfl) (hw : f.w = 1 := by rfl) : (d.setB a f b).getB a f = b := by
  have bit : (d.setB a f b).getF a f = (if b then 1 else 0) % 2 ^ f.w := Dev.getF_setF_mod hd hf
  rw [Dev.getB, bit, hw]
  cases b <;> rfl
theorem Dev.getB_setB_other (hd : d.canon) (hf : Nat.ble (f.lo + f.w) 64 = true := by rfl) (hfg : (Nat.ble (f.lo + f.w) g.lo || Nat.ble (g.lo + g.w) f.lo) = true := by rfl) :
    (d.setB a f b).getB a g = d.getB a g := congrArg (· == 1) (Dev.getF_setF_other hd hf hfg)

/-! ## The supply -/

/-- The voltage is low, and has not been told. -/
def Dev.fallsLow (d : Dev) (v : Nat) : Prop := 3600 ≤ v ∧ v < 4000 ∧ d.getB Reg.PWR_STATUS F.PWR_STATUS_VIN_LOW = false
theorem vinLow_cond {v : Nat} : (v < 3600 || v ≥ 4000 || d.getB Reg.PWR_STATUS F.PWR_STATUS_VIN_LOW) = true ↔ ¬ d.fallsLow v := by
  rw [Dev.fallsLow, Bool.or_eq_true, Bool.or_eq_true, decide_eq_true_eq, decide_eq_true_eq, not_and_or, not_and_or, Nat.not_le, Nat.not_lt, Bool.not_eq_false, or_assoc]

/-- A low voltage is shown. -/
def Dev.lowShown (d : Dev) (v : Nat) : Dev := (d.setF Reg.PWR_VIN F.PWR_VIN_VOLT v).setB Reg.PWR_STATUS F.PWR_STATUS_VIN_LOW true
theorem Dev.lowShown_facts {v : Nat} (hd : d.canon) (hv : v < 2 ^ 16) : (d.lowShown v).getB Reg.PWR_STATUS F.PWR_STATUS_VIN_LOW = true ∧
    (d.lowShown v).getF Reg.PWR_VIN F.PWR_VIN_VOLT = v ∧ d.sameRegs (d.lowShown v) (fun a => a = Reg.PWR_STATUS ∨ a = Reg.PWR_VIN) ∧ (d.lowShown v).mem = d.mem ∧
    (d.lowShown v).ev = d.ev := by
  have volt : (d.setF Reg.PWR_VIN F.PWR_VIN_VOLT v).getF Reg.PWR_VIN F.PWR_VIN_VOLT = v := Dev.getF_setF_lt hd hv
  have quiet : Dev.Quiet (fun a => a = Reg.PWR_STATUS ∨ a = Reg.PWR_VIN) d (d.setF Reg.PWR_VIN F.PWR_VIN_VOLT v) := Dev.Quiet.refl.setF (.inr rfl)
  have ev : (d.setF Reg.PWR_VIN F.PWR_VIN_VOLT v).ev = d.ev := Dev.setF_ev ..
  unfold Dev.lowShown
  generalize d.setF Reg.PWR_VIN F.PWR_VIN_VOLT v = u at *
  have canon := quiet.keeps hd
  have all : Dev.Quiet (fun a => a = Reg.PWR_STATUS ∨ a = Reg.PWR_VIN) d (u.setB Reg.PWR_STATUS F.PWR_STATUS_VIN_LOW true) := quiet.setB (.inl rfl)
  have kept : (u.setB Reg.PWR_STATUS F.PWR_STATUS_VIN_LOW true).getF Reg.PWR_VIN F.PWR_VIN_VOLT = u.getF Reg.PWR_VIN F.PWR_VIN_VOLT :=
    congrArg (fieldOf F.PWR_VIN_VOLT) (Dev.reg_setReg_ne _ canon (by decide))
  exact ⟨Dev.getB_setB canon, kept.trans volt, all.regs hd, all.mem, (Dev.setB_ev ..).trans ev⟩

theorem vinLow_facts {v : Nat} (hd : d.canon) (hv : v < 2 ^ 16) (h : d.fallsLow v) : let e := vinLowEffect v d
    e.getB Reg.PWR_STATUS F.PWR_STATUS_VIN_LOW = true ∧ e.getF Reg.PWR_VIN F.PWR_VIN_VOLT = v ∧ e.alertLow = true ∧
      d.sameRegs e (fun a => a = Reg.PWR_STATUS ∨ a = Reg.PWR_VIN) ∧ e.mem = d.mem ∧
      d.raised e fun r => r.code = 0xF007 ∧ r.object = 1 ∧ r.detail = BitVec.ofNat 64 (v * 256) := by
  have acts : vinLowEffect v d = (d.lowShown v).raise 0xF007 0xFF supplyUnit 1 (v * 2 ^ 8) := if_neg (mt vinLow_cond.1 (not_not.2 h))
  rw [acts]
  obtain ⟨low, volt, regs, mem, ev⟩ := Dev.lowShown_facts hd hv
  generalize d.lowShown v = u at *
  have shown : (u.raise 0xF007 0xFF supplyUnit 1 (v * 2 ^ 8)).getB Reg.PWR_STATUS F.PWR_STATUS_VIN_LOW = true := (Dev.raise_getB ..).trans low
  exact ⟨shown, (Dev.raise_getF ..).trans volt, by rw [Dev.alertLow, shown, Bool.or_true], fun a ha => (Dev.raise_reg ..).trans (regs a ha), (Dev.raise_mem ..).trans mem,
    Dev.raise_raised ev ⟨rfl, rfl, rfl⟩⟩

/-! ## The ballast -/

/-- The units since the last update, the slow term of the envelope, the ballast, and the rise beyond the slope. -/
def Dev.powerDt (d : Dev) : Nat := d.now - d.power.at_
def Dev.powerDecay (d : Dev) (l : Nat) : Nat := max l (d.power.decay - 64 * d.powerDt / kcU)
def Dev.powerBallast (d : Dev) (l : Nat) : Nat := min 900000 ((max (d.planAhead (d.now % d.tickU / kcU)) (d.powerDecay l) - l) / 250 * 250)
def Dev.powerStep (d : Dev) (l : Nat) : Nat := l - (d.power.drawn + 64 * d.powerDt / kcU)
def Dev.powerFill (d : Dev) : Int := (d.power.bucket : Int) + ((d.power.drawn : Int) - 1400000) * d.powerDt
/-- The tile whose load rose most. -/
def Dev.powerRiser (d : Dev) (ls : List Nat) : Nat :=
  ((List.range 6).map fun t => ls.getD t 0 - d.power.loads.getD t 0).findIdx fun r => r == ((List.range 6).map fun t => ls.getD t 0 - d.power.loads.getD t 0).foldl max 0
/-- A rise that outran the slope is counted and told. -/
def Dev.stepTold (d : Dev) (ls : List Nat) : Dev :=
  if !d.power.loads.isEmpty && d.powerStep ls.sum > 0 then
    (d.count Reg.PWR_STEP_EXCESS F.PWR_STEP_EXCESS_COUNT 1).raise 0xF005 0xFF (govUnit (d.powerRiser ls)) (d.powerRiser ls)
      (d.powerStep ls.sum / 1000 % 2 ^ 16 + d.now % d.tickU / kcU * 2 ^ 16)
  else d
/-- The power measured with these loads. -/
def Dev.powerMeasured (d : Dev) (decay drawn bucket dt : Nat) (ls : List Nat) : Dev :=
  d.modPower fun x => { x with decay := decay, at_ := d.now, drawn := drawn, loads := ls, bucket := bucket,
                               energy := (List.range 6).foldl (fun m t => store 0 m t (look 0 m t + x.loads.getD t 0 * dt)) x.energy }
/-- The power is shown. -/
def Dev.powerShown (d : Dev) (drawn ballast : Nat) : Dev :=
  ((d.setF Reg.PWR_EXCESS F.PWR_EXCESS_BUCKET (d.power.bucket / 5000000000)).setF Reg.PWR_VIN F.PWR_VIN_POWER (drawn / 1000)).setF Reg.PWR_STATUS F.PWR_STATUS_BALLAST (ballast / 1000)
/-- The ballast is set by loads, at the time of the device. -/
def Dev.ballastSet (d : Dev) (ls : List Nat) : Dev :=
  ((d.stepTold ls).powerMeasured (d.powerDecay ls.sum) (ls.sum + d.powerBallast ls.sum) (min 12500000000000 d.powerFill.toNat) d.powerDt ls).powerShown
    (ls.sum + d.powerBallast ls.sum) (d.powerBallast ls.sum)

theorem ballastUpdate_eq {loads : List Nat} : ballastUpdateEffect loads d = (d.advanceTo (d.power.at_ + 25 * kcU)).ballastSet ((List.range 6).map fun t => loads.getD t 0) := by
  unfold ballastUpdateEffect
  generalize d.advanceTo (d.power.at_ + 25 * kcU) = u
  rfl

theorem Dev.stepTold_facts : (d.canon → (d.stepTold ls).canon) ∧ (d.stepTold ls).mem = d.mem ∧ (d.stepTold ls).now = d.now ∧
    (d.power.loads ≠ [] → d.power.drawn + 64 * d.powerDt / kcU < ls.sum → ∃ r ∈ (d.stepTold ls).ev.arisen, r.code = 0xF005) ∧
    (d.power.loads = [] ∨ ls.sum ≤ d.power.drawn + 64 * d.powerDt / kcU → (d.stepTold ls).ev = d.ev) := by
  have cond : (!d.power.loads.isEmpty && decide (d.powerStep ls.sum > 0)) = true ↔ d.power.loads ≠ [] ∧ d.power.drawn + 64 * d.powerDt / kcU < ls.sum := by
    rw [Bool.and_eq_true, Bool.not_eq_true', List.isEmpty_eq_false_iff, decide_eq_true_eq, Dev.powerStep, gt_iff_lt, Nat.sub_pos_iff_lt]
  have quiet : Dev.Quiet (· = Reg.PWR_STEP_EXCESS) d (d.stepTold ls) := (Dev.Quiet.refl.count (p := (· = Reg.PWR_STEP_EXCESS)) rfl).raise.ite .refl
  refine ⟨quiet.keeps, quiet.mem, quiet.now, fun h1 h2 => ?_, fun h => congrArg Dev.ev (if_neg ?_)⟩
  · rw [Dev.stepTold, if_pos (cond.2 ⟨h1, h2⟩)]
    exact ⟨_, mem_insertEvent_self _ _, rfl⟩
  · rw [cond]
    exact fun ⟨h1, h2⟩ => h.elim h1 (Nat.not_le.2 h2)

theorem Dev.powerMeasured_parts {decay drawn bucket dt : Nat} : let e := d.powerMeasured decay drawn bucket dt ls
    (d.canon → e.canon) ∧ e.now = d.now ∧ e.power.at_ = d.now ∧ e.power.loads = ls ∧ e.power.decay = decay ∧ e.power.drawn = drawn ∧ e.power.bucket = bucket ∧ e.mem = d.mem ∧ e.ev = d.ev :=
  ⟨Dev.canon.modPower, rfl, rfl, rfl, rfl, rfl, rfl, rfl, rfl⟩

theorem Dev.powerShown_facts {drawn ballast : Nat} (hd : d.canon) (hb : d.power.bucket ≤ 12500000000000) : let e := d.powerShown drawn ballast
    e.getF Reg.PWR_VIN F.PWR_VIN_POWER = drawn / 1000 % 2 ^ 16 ∧ e.getF Reg.PWR_STATUS F.PWR_STATUS_BALLAST = ballast / 1000 % 2 ^ 16 ∧
      e.getF Reg.PWR_EXCESS F.PWR_EXCESS_BUCKET = d.power.bucket / 5000000000 ∧ e.power = d.power ∧ e.now = d.now ∧ e.mem = d.mem ∧ e.ev = d.ev := by
  have bucket : (d.setF Reg.PWR_EXCESS F.PWR_EXCESS_BUCKET (d.power.bucket / 5000000000)).getF Reg.PWR_EXCESS F.PWR_EXCESS_BUCKET = d.power.bucket / 5000000000 :=
    Dev.getF_setF_lt hd (by change d.power.bucket / 5000000000 < 2 ^ 32; omega)
  have quiet : Dev.Quiet (fun _ => True) d (d.setF Reg.PWR_EXCESS F.PWR_EXCESS_BUCKET (d.power.bucket / 5000000000)) := Dev.Quiet.refl.setF trivial
  have ev : (d.setF Reg.PWR_EXCESS F.PWR_EXCESS_BUCKET (d.power.bucket / 5000000000)).ev = d.ev := Dev.setF_ev ..
  unfold Dev.powerShown
  generalize d.setF Reg.PWR_EXCESS F.PWR_EXCESS_BUCKET (d.power.bucket / 5000000000) = u at *
  have canon := quiet.keeps hd
  have power : (u.setF Reg.PWR_VIN F.PWR_VIN_POWER (drawn / 1000)).getF Reg.PWR_VIN F.PWR_VIN_POWER = drawn / 1000 % 2 ^ 16 := Dev.getF_setF_mod canon
  have bucket' : (u.setF Reg.PWR_VIN F.PWR_VIN_POWER (drawn / 1000)).getF Reg.PWR_EXCESS F.PWR_EXCESS_BUCKET = u.getF Reg.PWR_EXCESS F.PWR_EXCESS_BUCKET :=
    Dev.getF_setF_ne _ _ _ canon (by decide)
  have quiet' : Dev.Quiet (fun _ => True) u (u.setF Reg.PWR_VIN F.PWR_VIN_POWER (drawn / 1000)) := Dev.Quiet.refl.setF trivial
  have ev' : (u.setF Reg.PWR_VIN F.PWR_VIN_POWER (drawn / 1000)).ev = u.ev := Dev.setF_ev ..
  generalize u.setF Reg.PWR_VIN F.PWR_VIN_POWER (drawn / 1000) = v at *
  have canon' := quiet'.keeps canon
  have all := Dev.Quiet.trans quiet (quiet'.setF (a := Reg.PWR_STATUS) (f := F.PWR_STATUS_BALLAST) (v := ballast / 1000) trivial)
  exact ⟨(Dev.getF_setF_ne _ _ _ canon' (by decide)).trans power, Dev.getF_setF_mod canon', (Dev.getF_setF_ne _ _ _ canon' (by decide)).trans (bucket'.trans bucket), all.power, all.now, all.mem,
    (Dev.setF_ev ..).trans (ev'.trans ev)⟩

theorem Dev.powerBallast_bounds : d.powerBallast l ≤ 900000 ∧ d.powerBallast l % 250 = 0 := by
  unfold Dev.powerBallast
  omega

theorem Dev.ballastSet_facts (hd : d.canon) : let e := d.ballastSet ls
    e.now = d.now ∧ e.power.at_ = d.now ∧ e.power.loads = ls ∧ e.power.decay = d.powerDecay ls.sum ∧ e.power.drawn = ls.sum + d.powerBallast ls.sum ∧
      e.power.bucket ≤ 12500000000000 ∧ e.mem = d.mem ∧ e.getF Reg.PWR_VIN F.PWR_VIN_POWER = (ls.sum + d.powerBallast ls.sum) / 1000 % 2 ^ 16 ∧
      e.getF Reg.PWR_STATUS F.PWR_STATUS_BALLAST = d.powerBallast ls.sum / 1000 % 2 ^ 16 ∧ e.getF Reg.PWR_EXCESS F.PWR_EXCESS_BUCKET = e.power.bucket / 5000000000 ∧
      e.ev = (d.stepTold ls).ev := by
  obtain ⟨keeps, mem, now, -, -⟩ := Dev.stepTold_facts (d := d) (ls := ls)
  have canon := keeps hd
  unfold Dev.ballastSet
  generalize d.powerBallast ls.sum = ballast
  generalize d.powerDecay ls.sum = decay
  generalize d.powerDt = dt
  generalize hb : min 12500000000000 d.powerFill.toNat = bucket
  have full : bucket ≤ 12500000000000 := hb ▸ Nat.min_le_left ..
  generalize d.stepTold ls = u at *
  obtain ⟨keeps', now', at_, loads, decay', drawn, bucket', mem', ev'⟩ := Dev.powerMeasured_parts (d := u) (ls := ls) (decay := decay) (drawn := ls.sum + ballast) (bucket := bucket) (dt := dt)
  have canon' := keeps' canon
  generalize u.powerMeasured decay (ls.sum + ballast) bucket dt ls = v at *
  obtain ⟨shown, shown', shown'', power, now'', mem'', ev''⟩ := Dev.powerShown_facts (drawn := ls.sum + ballast) (ballast := ballast) canon' (bucket' ▸ full)
  dsimp only
  rw [power]
  exact ⟨now''.trans (now'.trans now), at_.trans now, loads, decay', drawn, bucket' ▸ full, mem''.trans (mem'.trans mem), shown, shown', shown'', ev''.trans ev'⟩

theorem ballastUpdate_facts {loads : List Nat} (hd : d.canon) : let u := d.advanceTo (d.power.at_ + 25 * kcU)
    let ls := (List.range 6).map fun t => loads.getD t 0
    let l := ls.sum
    let dt := u.now - d.power.at_
    let e := ballastUpdateEffect loads d
    e.now = u.now ∧ e.power.at_ = u.now ∧ e.power.loads = ls ∧ e.power.decay = max l (d.power.decay - 64 * dt / 4) ∧
      l ≤ e.power.drawn ∧ e.power.drawn ≤ l + 900000 ∧ (e.power.drawn - l) % 250 = 0 ∧ e.power.bucket ≤ 12500000000000 ∧ e.mem = d.mem ∧
      e.getF Reg.PWR_VIN F.PWR_VIN_POWER = e.power.drawn / 1000 % 2 ^ 16 ∧ e.getF Reg.PWR_STATUS F.PWR_STATUS_BALLAST = (e.power.drawn - l) / 1000 % 2 ^ 16 ∧
      e.getF Reg.PWR_EXCESS F.PWR_EXCESS_BUCKET = e.power.bucket / 5000000000 ∧
      (d.power.loads ≠ [] → d.power.drawn + 64 * dt / 4 < l → ∃ r ∈ e.ev.arisen, r.code = 0xF005) ∧
      (d.power.loads = [] ∨ l ≤ d.power.drawn + 64 * dt / 4 → e.ev = d.ev) := by
  rw [ballastUpdate_eq]
  have canon : (d.advanceTo (d.power.at_ + 25 * kcU)).canon := hd.advanceTo
  have power : (d.advanceTo (d.power.at_ + 25 * kcU)).power = d.power := Dev.advance_power ..
  have mem : (d.advanceTo (d.power.at_ + 25 * kcU)).mem = d.mem := Dev.advance_mem ..
  have ev : (d.advanceTo (d.power.at_ + 25 * kcU)).ev = d.ev := Dev.advance_ev ..
  generalize d.advanceTo (d.power.at_ + 25 * kcU) = u at *
  generalize (List.range 6).map (fun t => loads.getD t 0) = ls
  obtain ⟨now, at_, loads', decay, drawn, bucket, mem', shown, shown', shown'', ev'⟩ := Dev.ballastSet_facts (ls := ls) canon
  obtain ⟨-, -, -, told, calm⟩ := Dev.stepTold_facts (d := u) (ls := ls)
  obtain ⟨most, steps⟩ := Dev.powerBallast_bounds (d := u) (l := ls.sum)
  generalize u.ballastSet ls = e at *
  rw [← ev', Dev.powerDt, power] at told calm
  rw [Dev.powerDecay, Dev.powerDt, power] at decay
  intro u' ls' l dt e'
  have less : e.power.drawn - l = u.powerBallast ls.sum := by rw [drawn]; exact Nat.add_sub_cancel_left ..
  refine ⟨now, at_, loads', decay, ?_, ?_, ?_, bucket, mem'.trans mem, ?_, ?_, shown'', told, fun h => (calm h).trans ev⟩
  · rw [drawn]
    exact Nat.le_add_right ..
  · rw [drawn]
    exact Nat.add_le_add_left most _
  · rw [less, steps]
  · rw [shown, drawn]
  · rw [shown', less]

/-! ## Emergencies -/

theorem Dev.hotTiles_of (h : ∀ t, e.reg (Reg.PWR_TEMP t) = d.reg (Reg.PWR_TEMP t)) : e.hotTiles = d.hotTiles := by
  simp only [Dev.hotTiles, Dev.getF, h]
theorem Dev.overCurrent_iff : d.overCurrent p = true ↔ 12500000000000 ≤ d.power.bucket ∨ 1650 < p := by
  rw [Dev.overCurrent, Bool.or_eq_true, decide_eq_true_eq, decide_eq_true_eq, ge_iff_le, gt_iff_lt]

/-- The power of the inlet is shown. -/
def Dev.inletShown (d : Dev) (p : Nat) : Dev := d.setF Reg.PWR_VIN F.PWR_VIN_POWER p
theorem Dev.inletShown_quiet : Dev.Quiet (· = Reg.PWR_VIN) d (d.inletShown p) := Dev.Quiet.refl.setF rfl
theorem Dev.inletShown_facts (hd : d.canon) (hp : p < 2 ^ 16) : (d.inletShown p).canon ∧ (d.inletShown p).getF Reg.PWR_VIN F.PWR_VIN_POWER = p ∧ (d.inletShown p).ev = d.ev ∧
    (d.inletShown p).hotTiles = d.hotTiles ∧ (d.inletShown p).overCurrent p = d.overCurrent p ∧
    ∀ f, (d.inletShown p).getB Reg.PWR_STATUS f = d.getB Reg.PWR_STATUS f := by
  refine ⟨hd.setF, Dev.getF_setF_lt hd hp, Dev.setF_ev .., Dev.hotTiles_of fun t => Dev.inletShown_quiet.regs hd _ ?_, ?_, fun f => congrArg (fun v => fieldOf f v == 1)
    (Dev.inletShown_quiet.regs hd Reg.PWR_STATUS (by decide))⟩
  · unfold Reg.PWR_TEMP Reg.PWR_VIN
    omega
  · rw [Dev.overCurrent, Dev.overCurrent, Dev.inletShown_quiet.power]

/-- Emergencies set, or ended. -/
def Dev.emergenciesSet (d : Dev) (oc th : Bool) : Dev := (d.setB Reg.PWR_STATUS F.PWR_STATUS_OC_EMERG oc).setB Reg.PWR_STATUS F.PWR_STATUS_THERM_EMERG th
theorem Dev.setB_oc (hd : d.canon) : (d.setB Reg.PWR_STATUS F.PWR_STATUS_OC_EMERG b).getB Reg.PWR_STATUS F.PWR_STATUS_OC_EMERG = b ∧
    (d.setB Reg.PWR_STATUS F.PWR_STATUS_OC_EMERG b).getB Reg.PWR_STATUS F.PWR_STATUS_THERM_EMERG = d.getB Reg.PWR_STATUS F.PWR_STATUS_THERM_EMERG :=
  ⟨Dev.getB_setB hd, Dev.getB_setB_other hd⟩
theorem Dev.setB_th (hd : d.canon) : (d.setB Reg.PWR_STATUS F.PWR_STATUS_THERM_EMERG b).getB Reg.PWR_STATUS F.PWR_STATUS_THERM_EMERG = b ∧
    (d.setB Reg.PWR_STATUS F.PWR_STATUS_THERM_EMERG b).getB Reg.PWR_STATUS F.PWR_STATUS_OC_EMERG = d.getB Reg.PWR_STATUS F.PWR_STATUS_OC_EMERG :=
  ⟨Dev.getB_setB hd, Dev.getB_setB_other hd⟩

/-- What the emergencies' bits of the status are, the rest of `d` but its inlet and its power state kept. -/
structure Dev.EmergencyShown (d e : Dev) (p : Nat) (oc th : Prop) : Prop where
  canon : e.canon
  inlet : e.getF Reg.PWR_VIN F.PWR_VIN_POWER = p
  mem : e.mem = d.mem
  regs : d.sameRegs e (fun a => a = Reg.PWR_STATUS ∨ a = Reg.PWR_VIN)
  oc : e.getB Reg.PWR_STATUS F.PWR_STATUS_OC_EMERG = true ↔ oc
  th : e.getB Reg.PWR_STATUS F.PWR_STATUS_THERM_EMERG = true ↔ th
  ev : e.ev = d.ev

theorem Dev.inletShown_shows (hd : d.canon) (hp : p < 2 ^ 16) : Dev.EmergencyShown d (d.inletShown p) p (d.getB Reg.PWR_STATUS F.PWR_STATUS_OC_EMERG = true)
    (d.getB Reg.PWR_STATUS F.PWR_STATUS_THERM_EMERG = true) := by
  obtain ⟨canon, inlet, ev, -, -, bits⟩ := Dev.inletShown_facts hd hp
  exact ⟨canon, inlet, Dev.inletShown_quiet.mem, fun a ha => Dev.inletShown_quiet.regs hd a fun h => ha (.inr h), by rw [bits], by rw [bits], ev⟩
theorem Dev.EmergencyShown.setOc {oc th : Prop} (h : Dev.EmergencyShown d u p oc th) : Dev.EmergencyShown d (u.setB Reg.PWR_STATUS F.PWR_STATUS_OC_EMERG b) p (b = true) th := by
  obtain ⟨set_, kept⟩ := Dev.setB_oc (b := b) h.canon
  exact ⟨h.canon.setB, (Dev.getF_setF_ne _ _ _ h.canon (by decide)).trans h.inlet, (Dev.setB_mem ..).trans h.mem,
    fun a ha => (Dev.reg_setReg_ne _ h.canon fun h => ha (.inl h.symm)).trans (h.regs a ha), by rw [set_], by rw [kept, h.th], (Dev.setB_ev ..).trans h.ev⟩
theorem Dev.EmergencyShown.setTh {oc th : Prop} (h : Dev.EmergencyShown d u p oc th) : Dev.EmergencyShown d (u.setB Reg.PWR_STATUS F.PWR_STATUS_THERM_EMERG b) p oc (b = true) := by
  obtain ⟨set_, kept⟩ := Dev.setB_th (b := b) h.canon
  exact ⟨h.canon.setB, (Dev.getF_setF_ne _ _ _ h.canon (by decide)).trans h.inlet, (Dev.setB_mem ..).trans h.mem,
    fun a ha => (Dev.reg_setReg_ne _ h.canon fun h => ha (.inl h.symm)).trans (h.regs a ha), by rw [kept, h.oc], by rw [set_], (Dev.setB_ev ..).trans h.ev⟩
theorem Dev.EmergencyShown.modPower {oc th : Prop} {k : PowerState → PowerState} (h : Dev.EmergencyShown d u p oc th) : Dev.EmergencyShown d (u.modPower k) p oc th :=
  ⟨h.canon.modPower, h.inlet, h.mem, h.regs, h.oc, h.th, h.ev⟩
theorem Dev.EmergencyShown.congr {oc th oc' th' : Prop} (h : Dev.EmergencyShown d e p oc th) (ho : oc ↔ oc') (ht : th ↔ th') : Dev.EmergencyShown d e p oc' th' :=
  { h with oc := h.oc.trans ho, th := h.th.trans ht }

/-- The emergencies that have begun, before the runs. -/
def Dev.emergenciesBegun (d : Dev) (oc hot : Bool) : Dev :=
  let d := if oc then d.setB Reg.PWR_STATUS F.PWR_STATUS_OC_EMERG true else d
  if hot then d else d.setB Reg.PWR_STATUS F.PWR_STATUS_THERM_EMERG true
theorem Dev.emergenciesBegun_shows {oc th : Prop} {c cool : Bool} (h : Dev.EmergencyShown d u p oc th) :
    Dev.EmergencyShown d (u.emergenciesBegun c cool) p (oc ∨ c = true) (th ∨ cool = false) := by
  cases c with
  | true =>
    cases cool with
    | true => exact h.setOc.congr (by simp) (by simp)
    | false => exact h.setOc.setTh.congr (by simp) (by simp)
  | false =>
    cases cool with
    | true => exact h.congr (by simp) (by simp)
    | false => exact h.setTh.congr (by simp) (by simp)

theorem emergencyBegin_calm (ho : (d.inletShown p).overCurrent p = false) (hh : (d.inletShown p).hotTiles = []) : emergencyBeginEffect p d = d.inletShown p :=
  if_pos (by rw [← Dev.inletShown, ho, hh]; rfl)
theorem emergencyBegin_begins (h : ¬ ((d.inletShown p).overCurrent p = false ∧ (d.inletShown p).hotTiles = [])) : ∃ k, emergencyBeginEffect p d =
    ((d.inletShown p).emergenciesBegun ((d.inletShown p).overCurrent p) (d.inletShown p).hotTiles.isEmpty).modPower k :=
  ⟨_, if_neg (by rw [← Dev.inletShown, Bool.and_eq_true, Bool.not_eq_true', List.isEmpty_iff]; exact h)⟩

theorem emergencyBegin_facts (hd : d.canon) (hp : p < 2 ^ 16) : let oc := 12500000000000 ≤ d.power.bucket ∨ 1650 < p
    let hot := d.hotTiles ≠ []
    let e := emergencyBeginEffect p d
    Dev.EmergencyShown d e p (d.getB Reg.PWR_STATUS F.PWR_STATUS_OC_EMERG = true ∨ oc) (d.getB Reg.PWR_STATUS F.PWR_STATUS_THERM_EMERG = true ∨ hot) ∧
      (¬ oc → ¬ hot → e.power = d.power) := by
  obtain ⟨-, -, -, hotTiles, exceeds, -⟩ := Dev.inletShown_facts hd hp
  have shows := Dev.inletShown_shows hd hp
  intro oc hot
  by_cases calm : d.overCurrent p = false ∧ d.hotTiles = []
  · obtain ⟨ho, hh⟩ := calm
    have no : ¬ oc := mt Dev.overCurrent_iff.2 (by rw [ho]; decide)
    rw [emergencyBegin_calm (exceeds.trans ho) (hotTiles.trans hh)]
    exact ⟨shows.congr ⟨.inl, fun h => h.resolve_right no⟩ ⟨.inl, fun h => h.resolve_right (not_not.2 hh)⟩, fun _ _ => Dev.inletShown_quiet.power⟩
  · obtain ⟨k, begins⟩ := emergencyBegin_begins (d := d) (p := p) (by rwa [exceeds, hotTiles])
    rw [begins, exceeds, hotTiles]
    refine ⟨(Dev.emergenciesBegun_shows shows).modPower.congr (or_congr Iff.rfl Dev.overCurrent_iff) (or_congr Iff.rfl List.isEmpty_eq_false_iff), fun no cool => ?_⟩
    exact absurd ⟨Bool.eq_false_iff.2 (mt Dev.overCurrent_iff.1 no), not_not.1 cool⟩ calm

/-- The emergencies that last, on a device that shows its inlet. -/
def Dev.lastOc (d : Dev) (p : Nat) : Bool := d.getB Reg.PWR_STATUS F.PWR_STATUS_OC_EMERG && d.overCurrent p
def Dev.lastTh (d : Dev) : Bool := d.getB Reg.PWR_STATUS F.PWR_STATUS_THERM_EMERG && !d.hotTiles.isEmpty
/-- The end of the emergencies that do not last. -/
def Dev.emergenciesEnded (d : Dev) (oc th : Bool) (hot : List Nat) : Dev :=
  let d := (d.setB Reg.PWR_STATUS F.PWR_STATUS_OC_EMERG oc).setB Reg.PWR_STATUS F.PWR_STATUS_THERM_EMERG th
  if oc || th then d.modPower fun x => { x with hot := hot } else
  (d.raise 0xF002 0xFF (govUnit ((d.groupTiles d.power.paused).headD 0)) (tileMask (d.groupTiles d.power.paused)) d.power.runs).modPower fun x => { x with hot := [], runs := 0, paused := [] }

theorem emergencyEnd_eq : emergencyEndEffect p d = let u := d.inletShown p
    if (!u.getB Reg.PWR_STATUS F.PWR_STATUS_OC_EMERG && !u.getB Reg.PWR_STATUS F.PWR_STATUS_THERM_EMERG) ||
      (u.lastOc p == u.getB Reg.PWR_STATUS F.PWR_STATUS_OC_EMERG && u.lastTh == u.getB Reg.PWR_STATUS F.PWR_STATUS_THERM_EMERG) then u
    else u.emergenciesEnded (u.lastOc p) u.lastTh u.hotTiles := by
  unfold emergencyEndEffect
  rw [← Dev.inletShown]
  generalize d.inletShown p = u
  rfl

/-- Emergencies ended, by what lasts. -/
theorem Dev.emergenciesEnded_shows {oc th : Prop} {c t : Bool} {hot : List Nat} (h : Dev.EmergencyShown d u p oc th) (hp : u.power = d.power) : let e := u.emergenciesEnded c t hot
    (e.getF Reg.PWR_VIN F.PWR_VIN_POWER = p ∧ e.mem = d.mem ∧ d.sameRegs e (fun a => a = Reg.PWR_STATUS ∨ a = Reg.PWR_VIN)) ∧
      (e.getB Reg.PWR_STATUS F.PWR_STATUS_OC_EMERG = true ↔ c = true) ∧ (e.getB Reg.PWR_STATUS F.PWR_STATUS_THERM_EMERG = true ↔ t = true) ∧
      (c = false → t = false → e.power.runs = 0 ∧ e.power.paused = [] ∧ d.raised e fun r => r.code = 0xF002 ∧ r.detail = BitVec.ofNat 64 d.power.runs) ∧
      (c = true ∨ t = true → e.ev = d.ev) := by
  have shows := h.setOc (b := c) |>.setTh (b := t)
  have power : ((u.setB Reg.PWR_STATUS F.PWR_STATUS_OC_EMERG c).setB Reg.PWR_STATUS F.PWR_STATUS_THERM_EMERG t).power = d.power := (Dev.setB_power ..).trans ((Dev.setB_power ..).trans hp)
  unfold Dev.emergenciesEnded
  generalize (u.setB Reg.PWR_STATUS F.PWR_STATUS_OC_EMERG c).setB Reg.PWR_STATUS F.PWR_STATUS_THERM_EMERG t = v at *
  dsimp only
  by_cases last : c = true ∨ t = true
  · rw [if_pos ((Bool.or_eq_true ..).mpr last)]
    have kept := shows.modPower (k := fun x => { x with hot := hot })
    refine ⟨⟨kept.inlet, kept.mem, kept.regs⟩, kept.oc, kept.th, fun hc ht => ?_, fun _ => kept.ev⟩
    exact absurd last (by rw [hc, ht]; decide)
  · rw [if_neg (mt (Bool.or_eq_true ..).mp last)]
    generalize govUnit ((v.groupTiles v.power.paused).headD 0) = unit
    generalize tileMask (v.groupTiles v.power.paused) = mask
    have raised : d.raised (v.raise 0xF002 0xFF unit mask v.power.runs) fun r => r.code = 0xF002 ∧ r.detail = BitVec.ofNat 64 d.power.runs :=
      Dev.raise_raised shows.ev ⟨rfl, by rw [power]⟩
    have regs (a : Nat) : (v.raise 0xF002 0xFF unit mask v.power.runs).reg a = v.reg a := Dev.raise_reg ..
    have mem : (v.raise 0xF002 0xFF unit mask v.power.runs).mem = v.mem := Dev.raise_mem ..
    generalize v.raise 0xF002 0xFF unit mask v.power.runs = w at *
    obtain ⟨-, power', regs', mem', ev', -⟩ := Dev.modPower_parts (d := w) (k := fun x => { x with hot := [], runs := 0, paused := [] })
    obtain ⟨q, hq, arisen⟩ := raised
    generalize w.modPower (fun x => { x with hot := [], runs := 0, paused := [] }) = z at *
    have reg (a : Nat) : z.reg a = v.reg a := (congrFun (Dev.reg_of regs') a).trans (regs a)
    have bit (f : Fld) : z.getB Reg.PWR_STATUS f = v.getB Reg.PWR_STATUS f := congrArg (fun x => fieldOf f x == 1) (reg _)
    refine ⟨⟨(congrArg (fieldOf F.PWR_VIN_POWER) (reg _)).trans shows.inlet, mem'.trans (mem.trans shows.mem), fun a ha => (reg a).trans (shows.regs a ha)⟩, by rw [bit, shows.oc],
      by rw [bit, shows.th], fun _ _ => ⟨(congrArg PowerState.runs power' :), (congrArg PowerState.paused power' :), q, hq, by rw [ev', arisen]⟩, fun h => absurd h last⟩

theorem emergencyEnd_facts (hd : d.canon) (hp : p < 2 ^ 16) : let oc := 12500000000000 ≤ d.power.bucket ∨ 1650 < p
    let hot := d.hotTiles ≠ []
    let wasOc := d.getB Reg.PWR_STATUS F.PWR_STATUS_OC_EMERG
    let wasTh := d.getB Reg.PWR_STATUS F.PWR_STATUS_THERM_EMERG
    let e := emergencyEndEffect p d
    (e.getF Reg.PWR_VIN F.PWR_VIN_POWER = p ∧ e.mem = d.mem ∧ d.sameRegs e (fun a => a = Reg.PWR_STATUS ∨ a = Reg.PWR_VIN)) ∧
      (e.getB Reg.PWR_STATUS F.PWR_STATUS_OC_EMERG = true ↔ wasOc = true ∧ oc) ∧ (e.getB Reg.PWR_STATUS F.PWR_STATUS_THERM_EMERG = true ↔ wasTh = true ∧ hot) ∧
      ((wasOc = true ∨ wasTh = true) → ¬ (wasOc = true ∧ oc) → ¬ (wasTh = true ∧ hot) → e.power.runs = 0 ∧ e.power.paused = [] ∧
        d.raised e fun r => r.code = 0xF002 ∧ r.detail = BitVec.ofNat 64 d.power.runs) ∧
      ((wasOc = false ∧ wasTh = false) ∨ (wasOc = true ∧ oc) ∨ (wasTh = true ∧ hot) → e.ev = d.ev) := by
  obtain ⟨-, -, -, hotTiles, exceeds, bits⟩ := Dev.inletShown_facts hd hp
  have shows := Dev.inletShown_shows hd hp
  have power : (d.inletShown p).power = d.power := Dev.inletShown_quiet.power
  intro oc hot wasOc wasTh
  have lastOc : (d.inletShown p).lastOc p = true ↔ wasOc = true ∧ oc := by
    rw [Dev.lastOc, Bool.and_eq_true, bits, exceeds, Dev.overCurrent_iff]
  have lastTh : (d.inletShown p).lastTh = true ↔ wasTh = true ∧ hot := by
    rw [Dev.lastTh, Bool.and_eq_true, bits, hotTiles, Bool.not_eq_true', List.isEmpty_eq_false_iff]
  rw [emergencyEnd_eq]
  dsimp only
  rw [bits, bits]
  generalize (d.inletShown p).hotTiles = ts
  generalize (d.inletShown p).lastOc p = c at *
  generalize (d.inletShown p).lastTh = t at *
  generalize d.inletShown p = u at *
  by_cases same : c = wasOc ∧ t = wasTh
  · obtain ⟨hc, ht⟩ := same
    have unchanged : ((!wasOc && !wasTh) || (c == wasOc && t == wasTh)) = true := by rw [hc, ht, beq_self_eq_true, beq_self_eq_true, Bool.and_true, Bool.or_true]
    rw [if_pos unchanged]
    have oc' : wasOc = true ↔ wasOc = true ∧ oc := by rwa [hc] at lastOc
    have th' : wasTh = true ↔ wasTh = true ∧ hot := by rwa [ht] at lastTh
    refine ⟨⟨shows.inlet, shows.mem, shows.regs⟩, shows.oc.trans oc', shows.th.trans th', fun was no no' => ?_, fun _ => shows.ev⟩
    exact absurd (was.imp (fun h => lastOc.1 (hc.trans h)) fun h => lastTh.1 (ht.trans h)) (not_or.2 ⟨no, no'⟩)
  · have was : wasOc = true ∨ wasTh = true := by
      refine by_contra fun none_ => same ?_
      obtain ⟨h1, h2⟩ := not_or.1 none_
      exact ⟨(Bool.eq_false_iff.2 fun h => h1 (lastOc.1 h).1).trans (Bool.eq_false_iff.2 h1).symm, (Bool.eq_false_iff.2 fun h => h2 (lastTh.1 h).1).trans (Bool.eq_false_iff.2 h2).symm⟩
    have changed : ¬ ((!wasOc && !wasTh) || (c == wasOc && t == wasTh)) = true := by
      rw [Bool.or_eq_true, Bool.and_eq_true, Bool.and_eq_true, Bool.not_eq_true', Bool.not_eq_true', beq_iff_eq, beq_iff_eq]
      rintro (⟨h1, h2⟩ | h)
      · exact was.elim (fun h => absurd (h1.symm.trans h) (by decide)) fun h => absurd (h2.symm.trans h) (by decide)
      · exact same h
    rw [if_neg changed]
    obtain ⟨kept, oc', th', ended, lasts⟩ := Dev.emergenciesEnded_shows (c := c) (t := t) (hot := ts) shows power
    refine ⟨kept, oc'.trans lastOc, th'.trans lastTh, fun _ no no' => ended (Bool.eq_false_iff.2 (mt lastOc.1 no)) (Bool.eq_false_iff.2 (mt lastTh.1 no')), ?_⟩
    rintro (⟨h1, h2⟩ | h | h)
    · exact was.elim (fun h => absurd (h1.symm.trans h) (by decide)) fun h => absurd (h2.symm.trans h) (by decide)
    · exact lasts (.inl (lastOc.2 h))
    · exact lasts (.inr (lastTh.2 h))

/-! ## Temperatures and wiring -/

/-- A reading that is one, of at least so much. -/
def tempReaches (v : BitVec 16) (q : Int) : Prop := v ≠ 0x8000#16 ∧ q ≤ v.toInt
theorem atLeast_iff {v : BitVec 16} {q : Int} : atLeast v.toNat q = true ↔ tempReaches v q := by
  have none_ : (v.toNat == 0x8000) = true ↔ v = 0x8000#16 := beq_iff_eq.trans ⟨fun h => BitVec.eq_of_toNat_eq h, fun h => h ▸ rfl⟩
  unfold atLeast tempOf tempReaches
  by_cases h : v = 0x8000#16
  · rw [if_pos (none_.2 h)]
    exact ⟨fun h' => absurd h' Bool.false_ne_true, fun h' => absurd h h'.1⟩
  · rw [if_neg (mt none_.1 h)]
    dsimp only
    rw [BitVec.ofNat_toNat, BitVec.setWidth_eq, decide_eq_true_eq]
    exact ⟨fun h' => ⟨h, h'⟩, fun h' => h'.2⟩

/-- Whether a threshold is armed: reached, or armed before and not yet fallen 5 degrees below it. -/
def armed (w bit v : Nat) (limit : Int) : Bool := if atLeast v limit then true else if atLeast v (limit - 19) then w / bit % 2 == 1 else false
theorem armed_reached {k bit : Nat} {v : BitVec 16} {q : Int} (h : tempReaches v q) : armed k bit v.toNat q = true := if_pos (atLeast_iff.2 h)
theorem armed_fallen {k bit : Nat} {v : BitVec 16} {q : Int} (h : ¬ tempReaches v (q - 19)) : armed k bit v.toNat q = false := by
  have fell : ¬ tempReaches v q := fun h' => h ⟨h'.1, by have := h'.2; omega⟩
  exact (if_neg (mt atLeast_iff.1 fell)).trans (if_neg (mt atLeast_iff.1 h))
/-- A threshold newly armed is reached. -/
theorem armed_new {k bit : Nat} {v : BitVec 16} {q : Int} : (armed k bit v.toNat q && k / bit % 2 == 0) = true ↔ k / bit % 2 = 0 ∧ tempReaches v q := by
  rw [Bool.and_eq_true, beq_iff_eq, and_comm]
  refine and_congr_right fun even => ⟨fun h => by_contra fun no => ?_, armed_reached⟩
  have odd : armed k bit v.toNat q = false := by
    refine (if_neg (mt atLeast_iff.1 no)).trans ?_
    rw [even]
    split <;> rfl
  exact absurd h (by rw [odd]; decide)

/-- A tile's temperatures are shown. -/
def Dev.tempShown (d : Dev) (t lg dr st : Nat) : Dev := d.setFs (Reg.PWR_TEMP t) [(F.PWR_TEMP_LOGIC, lg), (F.PWR_TEMP_DRAM_MAX, dr), (F.PWR_TEMP_STACK, st)]
/-- What a tile has been warned of is noted. -/
def Dev.warnedNoted (d : Dev) (t n : Nat) : Dev := d.modPower fun x => { x with warned := store 0 x.warned t n }
/-- The thresholds armed, as a number. -/
def armedMask (a b : Bool) : Nat := (if a then 1 else 0) + (if b then 2 else 0)

theorem Dev.tempShown_facts {lg dr st : Nat} (hd : d.canon) (hl : lg < 2 ^ 16) (hr : dr < 2 ^ 16) (hs : st < 2 ^ 2) : let e := d.tempShown t lg dr st
    e.getF (Reg.PWR_TEMP t) F.PWR_TEMP_LOGIC = lg ∧ e.getF (Reg.PWR_TEMP t) F.PWR_TEMP_DRAM_MAX = dr ∧ e.getF (Reg.PWR_TEMP t) F.PWR_TEMP_STACK = st ∧
      e.getF (Reg.PWR_TEMP t) F.PWR_TEMP_SNAP = d.getF (Reg.PWR_TEMP t) F.PWR_TEMP_SNAP ∧ d.sameRegs e (· = Reg.PWR_TEMP t) :=
  ⟨(Dev.getF_setFs_mid (pre := []) hd (by rfl) (by rfl)).trans (Nat.mod_eq_of_lt hl), (Dev.getF_setFs_mid (pre := [_]) hd (by rfl) (by rfl)).trans (Nat.mod_eq_of_lt hr),
    (Dev.getF_setFs_mid (pre := [_, _]) hd (by rfl) (by rfl)).trans (Nat.mod_eq_of_lt hs), Dev.getF_setFs_apart hd (by rfl), fun _ ha => Dev.reg_setFs_ne _ hd (Ne.symm ha)⟩

theorem tempSensorRead_eq {lg dr st : Nat} : tempSensorReadEffect t lg dr st d = let w := look 0 d.power.warned t
    let u := (d.tempShown t lg dr st).warnedNoted t (armedMask (armed w 1 lg 380) (armed w 2 dr 352))
    if (armed w 1 lg 380 && w % 2 == 0) || (armed w 2 dr 352 && w / 2 % 2 == 0) then u.raise 0xF003 0xFF (govUnit t) t (lg + dr * 2 ^ 16) else u := by
  have power : (d.tempShown t lg dr st).power = d.power := Dev.setFs_power ..
  unfold tempSensorReadEffect
  rw [← Dev.tempShown]
  generalize d.tempShown t lg dr st = u at *
  rw [← power]
  rfl

theorem Dev.warnedNoted_parts : (d.warnedNoted t n).power.warned = store 0 d.power.warned t n ∧ (d.warnedNoted t n).regs = d.regs ∧ (d.warnedNoted t n).mem = d.mem ∧
    (d.warnedNoted t n).ev = d.ev := ⟨rfl, rfl, rfl, rfl⟩

theorem armedMask_bits {a b : Bool} : armedMask a b < 4 ∧ (a = true → armedMask a b % 2 = 1) ∧ (a = false → armedMask a b % 2 = 0) ∧ (b = true → armedMask a b / 2 = 1) ∧
    (b = false → armedMask a b / 2 = 0) := by
  cases a <;> cases b <;> decide

theorem tempSensorRead_facts {lg dr : BitVec 16} {st : BitVec 2} (hd : d.canon) : let was := look 0 d.power.warned t
    let new := (was % 2 = 0 ∧ tempReaches lg 380) ∨ (was / 2 % 2 = 0 ∧ tempReaches dr 352)
    let e := tempSensorReadEffect t lg.toNat dr.toNat st.toNat d
    e.getF (Reg.PWR_TEMP t) F.PWR_TEMP_LOGIC = lg.toNat ∧ e.getF (Reg.PWR_TEMP t) F.PWR_TEMP_DRAM_MAX = dr.toNat ∧
      e.getF (Reg.PWR_TEMP t) F.PWR_TEMP_STACK = st.toNat ∧ e.getF (Reg.PWR_TEMP t) F.PWR_TEMP_SNAP = d.getF (Reg.PWR_TEMP t) F.PWR_TEMP_SNAP ∧ e.mem = d.mem ∧
      d.sameRegs e (· = Reg.PWR_TEMP t) ∧
      (∃ n, e.power.warned = store 0 d.power.warned t n ∧ n < 4 ∧ (tempReaches lg 380 → n % 2 = 1) ∧ (¬ tempReaches lg 361 → n % 2 = 0) ∧
        (tempReaches dr 352 → n / 2 = 1) ∧ (¬ tempReaches dr 333 → n / 2 = 0)) ∧
      (new → d.raised e fun r => r.code = 0xF003 ∧ r.object = BitVec.ofNat 32 t ∧ r.detail = BitVec.ofNat 64 (lg.toNat + dr.toNat * 2 ^ 16)) ∧ (¬ new → e.ev = d.ev) := by
  rw [tempSensorRead_eq]
  have power : (d.tempShown t lg.toNat dr.toNat st.toNat).power = d.power := Dev.setFs_power ..
  have mem : (d.tempShown t lg.toNat dr.toNat st.toNat).mem = d.mem := Dev.setFs_mem ..
  have ev : (d.tempShown t lg.toNat dr.toNat st.toNat).ev = d.ev := Dev.setFs_ev ..
  obtain ⟨logic, dram, stack, snap, regs⟩ := Dev.tempShown_facts (t := t) hd lg.isLt dr.isLt st.isLt
  generalize d.tempShown t lg.toNat dr.toNat st.toNat = u at *
  dsimp only
  generalize look 0 d.power.warned t = was
  have newly : ((armed was 1 lg.toNat 380 && was % 2 == 0) || (armed was 2 dr.toNat 352 && was / 2 % 2 == 0)) = true ↔
      (was % 2 = 0 ∧ tempReaches lg 380) ∨ (was / 2 % 2 = 0 ∧ tempReaches dr 352) := by
    have first := armed_new (k := was) (bit := 1) (v := lg) (q := 380)
    rw [Nat.div_one] at first
    rw [Bool.or_eq_true, first, armed_new]
  obtain ⟨small, high, low, high', low'⟩ := armedMask_bits (a := armed was 1 lg.toNat 380) (b := armed was 2 dr.toNat 352)
  generalize armedMask (armed was 1 lg.toNat 380) (armed was 2 dr.toNat 352) = n at *
  have mask : n < 4 ∧ (tempReaches lg 380 → n % 2 = 1) ∧ (¬ tempReaches lg 361 → n % 2 = 0) ∧ (tempReaches dr 352 → n / 2 = 1) ∧ (¬ tempReaches dr 333 → n / 2 = 0) :=
    ⟨small, fun h => high (armed_reached h), fun h => low (armed_fallen h), fun h => high' (armed_reached h), fun h => low' (armed_fallen h)⟩
  generalize (was % 2 = 0 ∧ tempReaches lg 380 ∨ was / 2 % 2 = 0 ∧ tempReaches dr 352) = new at *
  obtain ⟨warned, regs', mem', ev'⟩ := Dev.warnedNoted_parts (d := u) (t := t) (n := n)
  generalize u.warnedNoted t n = v at *
  have reg := congrFun (Dev.reg_of regs')
  have noted : v.power.warned = store 0 d.power.warned t n := warned.trans (by rw [power])
  by_cases h : new
  · rw [if_pos (newly.2 h)]
    have same (a : Nat) : (v.raise 0xF003 0xFF (govUnit t) t (lg.toNat + dr.toNat * 2 ^ 16)).reg a = u.reg a := (Dev.raise_reg ..).trans (reg a)
    have field (f : Fld) : (v.raise 0xF003 0xFF (govUnit t) t (lg.toNat + dr.toNat * 2 ^ 16)).getF (Reg.PWR_TEMP t) f = u.getF (Reg.PWR_TEMP t) f := congrArg (fieldOf f) (same _)
    exact ⟨(field _).trans logic, (field _).trans dram, (field _).trans stack, (field _).trans snap, (Dev.raise_mem ..).trans (mem'.trans mem), fun a ha => (same a).trans (regs a ha),
      ⟨n, (congrArg PowerState.warned (Dev.raise_power ..)).trans noted, mask⟩, fun _ => Dev.raise_raised (ev'.trans ev) ⟨rfl, rfl, rfl⟩, fun h' => absurd h h'⟩
  · rw [if_neg (mt newly.1 h)]
    have field (f : Fld) : v.getF (Reg.PWR_TEMP t) f = u.getF (Reg.PWR_TEMP t) f := congrArg (fieldOf f) (reg _)
    exact ⟨(field _).trans logic, (field _).trans dram, (field _).trans stack, (field _).trans snap, mem'.trans mem, fun a ha => (reg a).trans (regs a ha), ⟨n, noted, mask⟩,
      fun h' => absurd h' h, fun _ => ev'.trans ev⟩

theorem vinOpenDetect_facts {q v : Nat} (hd : d.canon) (hv : v < 2 ^ 16) : let e := vinOpenDetectEffect q v d
    e.getF Reg.PWR_VIN F.PWR_VIN_VOLT = v ∧ e.mem = d.mem ∧ d.sameRegs e (· = Reg.PWR_VIN) ∧
      d.raised e fun r => r.code = 0xF007 ∧ r.object = 2 ∧ r.detail = BitVec.ofNat 64 (q + v * 256) := by
  unfold vinOpenDetectEffect
  exact ⟨(Dev.raise_getF ..).trans (Dev.getF_setF_lt hd hv), (Dev.raise_mem ..).trans (Dev.setF_mem ..), fun a ha => (Dev.raise_reg ..).trans (Dev.reg_setReg_ne _ hd (Ne.symm ha)),
    Dev.raise_raised (Dev.setF_ev ..) ⟨rfl, rfl, rfl⟩⟩

theorem sidebandFault_facts {i : Nat} : let e := sidebandFaultEffect i d
    e.regs = d.regs ∧ e.mem = d.mem ∧ ∃ t < 6, d.raised e fun r => r.code = 0xF008 ∧ r.object = BitVec.ofNat 32 i ∧ r.unit = govUnit t := by
  have acts : sidebandFaultEffect i d = d.fresh.2.raise 0xF008 0xFF (govUnit (d.fresh.1.toNat % 6)) i 0 := rfl
  have same : d.fresh.2.regs = d.regs ∧ d.fresh.2.mem = d.mem ∧ d.fresh.2.ev = d.ev := ⟨rfl, rfl, rfl⟩
  have tile : d.fresh.1.toNat % 6 < 6 := Nat.mod_lt _ (by decide)
  rw [acts]
  generalize d.fresh.1.toNat % 6 = t at *
  generalize d.fresh.2 = u at *
  obtain ⟨regs, mem, ev⟩ := same
  have regs' : (u.raise 0xF008 0xFF (govUnit t) i 0).regs = u.regs := rfl
  exact ⟨regs'.trans regs, (Dev.raise_mem ..).trans mem, t, tile, Dev.raise_raised ev ⟨rfl, rfl, rfl⟩⟩

/-- Settles O55: each measurement by what it crosses. -/
theorem powerWatchesBallastsAndWarns : Obligations.PowerWatchesBallastsAndWarns := by
  unfold Obligations.PowerWatchesBallastsAndWarns
  refine ⟨⟨fun v s hs hd => ⟨fun h => runs_ran rfl hs (if_pos (vinLow_cond.2 h)), fun h => runs_ran rfl hs (vinLow_facts hd v.isLt h)⟩, fun loads s hs hd => runs_ran rfl hs (ballastUpdate_facts hd),
    fun p s hs hd => ⟨runs_ran rfl hs ?_, runs_ran rfl hs (emergencyEnd_facts hd p.isLt)⟩⟩, fun t lg dr st s hs hd => runs_ran rfl hs (tempSensorRead_facts hd),
    fun q v s hs hd => runs_ran rfl hs (vinOpenDetect_facts hd v.isLt), fun i s hs => runs_ran rfl hs sidebandFault_facts⟩
  obtain ⟨⟨-, inlet, mem, regs, oc, th, ev⟩, calm⟩ := emergencyBegin_facts hd p.isLt
  exact ⟨⟨inlet, mem, regs⟩, ev, oc, th, calm⟩

end Sys2Proof.Machine
end
